-- ==== Sys2Proof/Word.lean ====
section
/-! DEFINITION. Words of the block: bytes, byte strings and the register words software sees. -/

namespace Sys2Proof

/-- One byte. -/
abbrev Byte := BitVec 8

/-- A byte string, the byte at the lowest address first (R13, R15). -/
abbrev Bytes := List Byte

/-- A 32-bit register word. -/
abbrev Reg32 := BitVec 32

/-- A 64-bit register word. -/
abbrev Reg64 := BitVec 64

end Sys2Proof
end

