-- ==== Sys2Proof/Syntax.lean ====
section
/-! DEFINITION. The commands of the block: one constructor for each row of spec/opcode_table.json, in the table's order.
The table gives no operands; each row's operands are what the rules of its row need from outside the block (log 7). -/

namespace Sys2Proof

/-- A ring of submissions: the admin ring of a PF (R467), or queue `q` of instance `i` (R71). -/
inductive Ring where
  | adm (p : Fin 8)
  | inst (i q : Nat)
  deriving DecidableEq, Repr

/-- Who carries a management or custody command: a PF's port (its ring or mailbox holds the command and its data) or
the MCTP endpoint, whose message carries the parameter bytes and the data inline (R426). -/
inductive Src where
  | port (p : Fin 8)
  | mctp (params data : Bytes)
  deriving DecidableEq, Repr

/-- The outcome of a DMA read of host memory (R83, R84). -/
inductive DmaResult where
  | data (bs : Bytes)
  | ur | ca | poisoned | timedOut
  deriving DecidableEq, Repr

/-- What a DMA read was for: the next gather element of job `j`, the data buffer of the command at the front of an admin
ring or of an instance's control queue, the request of a mailbox (R335, R401), or a submission entry of a ring. -/
inductive DmaTarget where
  | job (j : Nat)
  | adm (p : Fin 8)
  | ctl (i : Nat)
  | wch (p : Fin 8)
  | lcs (p : Fin 8)
  | entry (g : Ring)
  deriving DecidableEq, Repr

/-- Where a register access lands: BAR0 of a PF, or BAR0 of a VF (R56). -/
inductive BarAddr where
  | pf (p : Fin 8) (off : BitVec 24)
  | vf (p : Fin 8) (vf : Nat) (off : BitVec 16)
  deriving DecidableEq, Repr

/-- Who accesses a digest port context (R359). -/
inductive DgpAgent where
  | pf (p : Fin 8)
  | mgmt
  deriving DecidableEq, Repr

/-- Fields of a microword's vector field (R184, R185). `mask` is VMASK when VMEN is 1. -/
structure VField where
  d : Fin 32
  a : Fin 32
  b : Fin 32
  c : Fin 32
  mask : Option (Fin 8)
  zero : Bool
  k : BitVec 6
  ssel : Bool
  s : Fin 32
  deriving DecidableEq, Repr

/-- Fields of a microword's scalar field (R184). -/
structure SField where
  d : Fin 32
  a : Fin 32
  b : Fin 32
  imm : BitVec 16
  sh : Fin 4
  deriving DecidableEq, Repr

/-- Fields of a microword's memory field (R184). `off` is MIMM, in units of 8 bytes. -/
structure MField where
  v : Fin 32
  x : Fin 32
  s : Fin 32
  t : Fin 32
  seg : Fin 16
  mask : Option (Fin 8)
  off : BitVec 8
  deriving DecidableEq, Repr

/-- Fields of a microword's bellows field (R184). -/
structure BField where
  a : Fin 32
  b : Fin 32
  deriving DecidableEq, Repr

/-- Fields of a microword's MAU field (R184). `off` is AOFF, in units of 64 bytes. -/
structure AField where
  a : Fin 32
  off : BitVec 8
  s : Fin 32
  deriving DecidableEq, Repr

/-- Sequencing fields of a microword (R184). -/
structure QField where
  target : BitVec 14
  cond : Fin 32
  creg : Fin 32
  deriving DecidableEq, Repr

/-- Loop counter fields of a microword (R184, R189). -/
structure LField where
  sel : Fin 4
  imm : BitVec 16
  sa : Fin 32
  deriving DecidableEq, Repr

/-- What befalls a reed while it runs a microword (R173, R177): nothing; a parity error in its register file, its operand memory or its job's
frames; bit `bit` of word `word` of its cluster's control store turns over, bits 192 to 197 being the parity bits; a defect in its memories that
will fail the readback of a wipe. -/
inductive WordEvent where
  | clean | registers
  | store (word : Fin 16384) (bit : Fin 198)
  | defect
  deriving DecidableEq, Repr

/-- The sequencing field of a word, with what befalls the reed while it runs the word. -/
structure SeqRow where
  field : QField
  event : WordEvent
  deriving DecidableEq, Repr

/-- What an access reads, and whether it meets a parity error there (R177, R179, R281). -/
structure Access (α : Type) where
  target : α
  parity : Bool
  deriving DecidableEq, Repr

/-- A page of function `vf` (0 is the PF) of port `port`, by its number (R54). -/
structure AtsPage where
  port : Fin 8
  vf : Nat
  page : Nat
  deriving DecidableEq, Repr

/-- A write to the configuration space of a PF that sets VF Enable, with the Max_Payload_Size and Max_Read_Request_Size it leaves (R53). -/
structure CfgWrite where
  port : Fin 8
  mps : Fin 3
  mrrs : Fin 6
  deriving DecidableEq, Repr

/-- A unit that self-test can mute (R123, R179). -/
inductive UnitName where
  | reed (r : Fin 1024)
  | mau (c : Fin 64)
  | bellows (c : Fin 64) (b : Fin 4)
  | pipe (p : Fin 96)
  deriving DecidableEq, Repr

/-- The DDR4 population the management controller reads over SPD (R365, R366). -/
structure Dimms where
  channels : Nat
  perChannel : Nat
  dimmGiB : Nat
  registered : Bool
  matched : Bool
  trained : Bool
  deriving DecidableEq, Repr

/-- What the outside supplies when reset is released: whether PWR_GOOD rose (else SYS_RST_N alone was
released), the straps (R453), the DIMMs, the units that failed self-test, and whether the pending firmware
image verifies (R441). -/
structure BootInfo where
  powerRise : Bool
  mctpAddr : BitVec 3
  busSel : Bool
  dimms : Dimms
  failed : List UnitName
  trialVerifies : Bool
  activeVerifies : Bool
  deriving DecidableEq, Repr

/-- A memory error event met by a DDR4 access (R384), as the DRAM and the controller present it. -/
inductive MemEvent where
  | clean
  | singleBit
  | uncorrectable
  | tampered (line : BitVec 512) (tag : BitVec 64)
  | metaTag
  | metaUncorrectable
  | rootParity
  | cacheParityClean
  | cacheParityDirty
  | retryCured
  | retryNotCured
  deriving DecidableEq, Repr

/-- The source of a received fabric frame: MAC and IP addresses (R294). -/
structure Peer where
  mac : BitVec 48
  ip : BitVec 128
  deriving DecidableEq, Repr

/-- A PXT message as it arrives on a fabric port, with its source (R291, R295). -/
structure PxtIn where
  fport : Fin 64
  src : Peer
  carriage : Fin 3
  msg : Bytes
  deriving DecidableEq, Repr

/-- What is echoed (R256, R257): the strips of flow `e`'s records, which a record number and a strip number pick out, or the one slice of
lookaside job `j`, for which those two numbers are not read. -/
inductive EchoOf where
  | flow (e : Nat)
  | job (j : Nat)
  deriving DecidableEq, Repr

/-- A received Ethernet frame, from its destination address to before its FCS, and whether every codeword was correctable (R285). -/
structure EthFrame where
  fport : Fin 64
  bytes : Bytes
  fecOk : Bool
  deriving DecidableEq, Repr

/-- What MKA does with an association number of a port (R290): it installs a SAK with the salt and SSCIs agreed and the peer's SCI, or it
retires the one there. -/
inductive SakOp where
  | install (sak : BitVec 256) (salt : BitVec 96) (ssci peerSsci : BitVec 32) (peerSci : BitVec 64)
  | retire
  deriving DecidableEq, Repr

/-- A record from the twin (R411): header fields, body, and whether its GCM tag verifies. -/
structure TwinIn where
  breath : BitVec 64
  seq : Nat
  ackSeq : Nat
  body : Bytes
  tagOk : Bool
  deriving DecidableEq, Repr

/-- What a twin sends when the twin link trains (R410): its transport public key, member number and part. -/
structure TwinHello where
  transportKey : Bytes
  member : BitVec 18
  partIsLc : Bool
  deriving DecidableEq, Repr

/-- A link: a host port or a fabric port. -/
inductive LinkName where
  | host (p : Fin 8)
  | fabric (p : Fin 64)
  deriving DecidableEq, Repr

/-- A resetting event of one PCIe port (R55, R85). -/
inductive PortReset where
  | perst | hotReset | pfFlr
  deriving DecidableEq, Repr

/-- A tamper source (R324). -/
inductive TamperSrc where
  | loop (i : Fin 4)
  | tempLow | tempHigh | vbatLow | clockGlitch | voltGlitch | enclosure
  deriving DecidableEq, Repr

/-- Readings of one sensor sample (R429): junction temperatures in quarters of a degree above -64 °C, rail
voltages in mV by monitor 0 to 15, and the deviations of the reference clocks in ppm (`none` is lost). -/
structure Readings where
  junction : List Nat
  millivolts : List Nat
  sysPpm : Option Nat
  pciePpm : List (Option Nat)
  ethPpm : List (Option Nat)
  millis : Nat
  deriving DecidableEq, Repr

/-- The far end of a storage or gateway hop, for liveness (R307). -/
inductive PeerName where
  | node (n : Nat)
  | gateway (sid : Nat)
  deriving DecidableEq, Repr

/-- The commands of the block, in the order of spec/opcode_table.json. -/
inductive Instr where
  | inhale
  | exhale
  | jobRelease
  | ladderRungAdvance (j : Nat)
  | budgetExceeded (j : Nat)
  | nonLadderComplete
  | abortComplete (j : Nat)
  | fenceReadComplete (g : Ring) (ok : Bool)
  | bellCollect (c : Fin 64) (parity : Bool)
  | clockStepApply
  | powerOnReset (b : BootInfo)
  | powerDown
  | bootChecksComplete (memOk : Bool)
  | modeChange
  | quiesceBegin
  | quiesceExtentTimeout (e : Nat)
  | tuneEnter
  | controlledHaltFlush
  | haltedEnter
  | haltVecArm (p : Fin 8) (vector : BitVec 11)
  | haltVecDisarm (p : Fin 8)
  | brtCountLowRead (p : Fin 8)
  | registerWrite (a : BarAddr) (wide : Bool) (v : BitVec 64)
  | belStatusRead (p : Fin 8)
  | prtPortRead (p : Fin 8) (f : Fin 64)
  | pxtDropsRead (p : Fin 8)
  | rngSupplyRead (p : Fin 8)
  | rngWaitRead (p : Fin 8)
  | mprEccRead (p : Fin 8)
  | monAlarmsRead (p : Fin 8)
  | perstNAssert (p : Fin 8) (k : PortReset)
  | vfFlr (p : Fin 8) (vf : Nat)
  | atsInvalidate (p : Fin 8) (vf : Nat)
  | sqTailDoorbell (p : Fin 8) (vf q : Nat) (v : BitVec 16)
  | cqHeadDoorbell (p : Fin 8) (vf q : Nat) (v : BitVec 16)
  | queueEnable (p : Fin 8) (vf q : Nat)
  | queueDisable (p : Fin 8) (vf q : Nat)
  | vfResetRequest (p : Fin 8) (vf : Nat)
  | submissionFetch (g : Ring) (bs : Bytes)
  | dmaReadComplete (t : DmaTarget) (r : DmaResult)
  | instanceResetDone (i : Nat)
  | resetDrainCompletions (i : Nat)
  | adminEnable (p : Fin 8)
  | adminDisable (p : Fin 8)
  | adminErrorClear (p : Fin 8)
  | admSqTailWrite (p : Fin 8) (v : BitVec 32)
  | admCqHeadWrite (p : Fin 8) (v : BitVec 32)
  | createInstance (p : Fin 8)
  | destroyInstance (p : Fin 8)
  | resetInstance (p : Fin 8)
  | setRate (p : Fin 8)
  | query (p : Fin 8)
  | chartDelta (p : Fin 8)
  | approve (c : Src)
  | importDomain (p : Fin 8)
  | enrollOfficer (p : Fin 8)
  | fwUpdate (c : Src)
  | fwUpdateFinal (c : Src)
  | configure (c : Src)
  | snapshot (c : Src)
  | snapshotAndClear (c : Src)
  | disable (c : Src)
  | changeExpire (id : Nat)
  | createQueue (i : Nat)
  | destroyQueue (i : Nat)
  | createStream (i : Nat)
  | destroyStream (i : Nat)
  | streamRekey (i : Nat)
  | loadKey (i : Nat)
  | unloadKey (i : Nat)
  | unloadKeyFree (i h : Nat)
  | exportContext (i : Nat)
  | importContext (i : Nat)
  | queryInstance (i : Nat)
  | keygen (j : Nat)
  | encaps (j : Nat)
  | decaps (j : Nat)
  | sign (j : Nat)
  | verify (j : Nat)
  | agree (j : Nat)
  | treeBuild (j : Nat)
  | loadCurve (j : Nat)
  | routineJob (j : Nat)
  | cipherEncrypt (j : Nat)
  | cipherDecrypt (j : Nat)
  | cipherDiscard (j : Nat)
  | cipherSliceDone (j : Nat) (parity : Bool)
  | randomBytes (j : Nat)
  | randomKeygen (j : Nat)
  | randomWaitTimeout (j : Nat)
  | cancel (j : Nat)
  | chartDeltaApply
  | fullChartApply
  | displacedJobMove (j : Access Nat)
  | clusterControlStoreLoad (c : Fin 64)
  | routineLoad (c : Fin 64) (rid : BitVec 16)
  | routineWordsFree (c : Fin 64) (rid : BitVec 16)
  | pipeRegroup (p : Fin 96)
  | pipeMute (p : Fin 96)
  | vnop (r : Fin 1024) (f : VField)
  | vadd (r : Fin 1024) (f : VField)
  | vsub (r : Fin 1024) (f : VField)
  | vand (r : Fin 1024) (f : VField)
  | vor (r : Fin 1024) (f : VField)
  | vxor (r : Fin 1024) (f : VField)
  | vandn (r : Fin 1024) (f : VField)
  | vsll (r : Fin 1024) (f : VField)
  | vsrl (r : Fin 1024) (f : VField)
  | vsra (r : Fin 1024) (f : VField)
  | vrotl (r : Fin 1024) (f : VField)
  | vmullo (r : Fin 1024) (f : VField)
  | vmulhi (r : Fin 1024) (f : VField)
  | vmov (r : Fin 1024) (f : VField)
  | vbcast (r : Fin 1024) (f : VField)
  | vext (r : Fin 1024) (f : VField)
  | vcmpeq (r : Fin 1024) (f : VField)
  | vcmpltu (r : Fin 1024) (f : VField)
  | vcmplt (r : Fin 1024) (f : VField)
  | vparity (r : Fin 1024) (f : VField)
  | vmma (r : Fin 1024) (f : VField)
  | vmadd (r : Fin 1024) (f : VField)
  | vmsub (r : Fin 1024) (f : VField)
  | vmred (r : Fin 1024) (f : VField)
  | vbfly (r : Fin 1024) (f : VField)
  | vibfly (r : Fin 1024) (f : VField)
  | vbflyi (r : Fin 1024) (f : VField)
  | vibflyi (r : Fin 1024) (f : VField)
  | vbrev (r : Fin 1024) (f : VField)
  | vperm (r : Fin 1024) (f : VField)
  | vslideup (r : Fin 1024) (f : VField)
  | vslidedn (r : Fin 1024) (f : VField)
  | vcbd (r : Fin 1024) (f : VField)
  | vrej (r : Fin 1024) (f : VField)
  | vcomp (r : Fin 1024) (f : VField)
  | vdecomp (r : Fin 1024) (f : VField)
  | vpack (r : Fin 1024) (f : VField)
  | vunpack (r : Fin 1024) (f : VField)
  | vgfmul (r : Fin 1024) (f : VField)
  | vclmullo (r : Fin 1024) (f : VField)
  | vclmulhi (r : Fin 1024) (f : VField)
  | vbtr8 (r : Fin 1024) (f : VField)
  | msetlt (r : Fin 1024) (f : VField)
  | mand (r : Fin 1024) (f : VField)
  | mor (r : Fin 1024) (f : VField)
  | mxor (r : Fin 1024) (f : VField)
  | mnot (r : Fin 1024) (f : VField)
  | mpopc (r : Fin 1024) (f : VField)
  | mfirst (r : Fin 1024) (f : VField)
  | snop (r : Fin 1024) (f : SField)
  | sadd (r : Fin 1024) (f : SField)
  | ssub (r : Fin 1024) (f : SField)
  | sand (r : Fin 1024) (f : SField)
  | sor (r : Fin 1024) (f : SField)
  | sxor (r : Fin 1024) (f : SField)
  | ssll (r : Fin 1024) (f : SField)
  | ssrl (r : Fin 1024) (f : SField)
  | ssra (r : Fin 1024) (f : SField)
  | smul (r : Fin 1024) (f : SField)
  | saddi (r : Fin 1024) (f : SField)
  | sli (r : Fin 1024) (f : SField)
  | scmpeq (r : Fin 1024) (f : SField)
  | scmpltu (r : Fin 1024) (f : SField)
  | scmplt (r : Fin 1024) (f : SField)
  | csrr (r : Fin 1024) (f : SField)
  | csrw (r : Fin 1024) (f : SField)
  | vld (r : Fin 1024) (f : MField) (parity : Bool)
  | vst (r : Fin 1024) (f : MField)
  | vlds (r : Fin 1024) (f : MField)
  | vsts (r : Fin 1024) (f : MField)
  | vgather (r : Fin 1024) (f : MField)
  | vscatter (r : Fin 1024) (f : MField)
  | sld (r : Fin 1024) (f : MField)
  | sst (r : Fin 1024) (f : MField)
  | keyrd (r : Fin 1024) (f : MField)
  | rndrd (r : Fin 1024) (f : MField)
  | mskrd (r : Fin 1024) (f : MField)
  | bkeccak (r : Fin 1024) (f : BField)
  | bsha256 (r : Fin 1024) (f : BField)
  | bsha512 (r : Fin 1024) (f : BField)
  | brecv (r : Fin 1024) (f : BField) (parity : Bool)
  | bellowsResultReady (r : Fin 1024)
  | mput (r : Fin 1024) (f : AField)
  | mget (r : Fin 1024) (f : Access AField)
  | mrun (r : Fin 1024) (f : AField)
  | setmod (c : Fin 64)
  | mmul (c : Fin 64)
  | madd (c : Fin 64)
  | msub (c : Fin 64)
  | mexp (c : Fin 64)
  | mexps (c : Fin 64)
  | minv (c : Fin 64)
  | curve (c : Fin 64)
  | smulg (c : Fin 64)
  | mauSmul (c : Fin 64)
  | oncurve (c : Fin 64)
  | padd (c : Fin 64)
  | mr (c : Fin 64)
  | checkcurve (c : Fin 64)
  | wipe (c : Fin 64)
  | mauOperationDone (c : Fin 64) (parity : Bool)
  | inc (r : Fin 1024) (f : QField) (ev : WordEvent)
  | jump (r : Fin 1024) (f : SeqRow)
  | branch (r : Fin 1024) (f : SeqRow)
  | call (r : Fin 1024) (f : SeqRow)
  | ret (r : Fin 1024) (f : SeqRow)
  | tret (r : Fin 1024) (f : SeqRow)
  | waiti (r : Fin 1024) (f : SeqRow)
  | endJob (r : Fin 1024) (ev : WordEvent)
  | lcSetImmediate (r : Fin 1024) (f : LField)
  | lcSetScalar (r : Fin 1024) (f : LField)
  | lcClear (r : Fin 1024) (f : LField)
  | windowStageDone (r : Access (Fin 1024))
  | debugRelease (r : Fin 1024)
  | controlStoreReloadDone (c : Fin 64) (block : BitVec 8)
  | jobReplayStart (j : Nat)
  | leafReserve (k : Nat)
  | counterReserve (sid : Nat)
  | serialReserve
  | journalWriteDone (ok : Bool)
  | journalCompact
  | putBegin (m : PxtIn)
  | putData (m : PxtIn)
  | putEnd (m : PxtIn)
  | getReq (m : PxtIn)
  | getData (m : PxtIn)
  | ack (m : PxtIn)
  | nak (m : PxtIn)
  | credit (m : PxtIn)
  | flush (m : PxtIn)
  | keepalive (m : PxtIn)
  | streamCacheLoadDone (sid : Access Nat)
  | recordAdmit (e i : Nat) (parity : Bool)
  | echoResult (x : EchoOf) (i n : Nat) (good : Bool)
  | reseal (x : EchoOf) (i n : Nat)
  | recordSend (e : Nat) (parity : Bool)
  | extentClose (e : Nat)
  | manifestSend (e : Nat)
  | putIdleTimeout (e : Nat)
  | auditCheck
  | transitEpochAdvance (sid : Nat)
  | retransmitTimeout (o : Nat)
  | keepaliveSend (n : PeerName)
  | peerSilenceTimeout (n : PeerName)
  | prevTableDrop
  | ethernetFrameReceive (f : EthFrame)
  | pfcXoffReceive (p : Fin 64) (prio : Fin 8) (quanta : BitVec 16)
  | pfcXonSend (p : Fin 64)
  | linkUp (l : LinkName) (width speed : Nat)
  | linkDown (l : LinkName)
  | sakInstall (p : Fin 64) (an : Fin 4) (op : SakOp)
  | eapolReceive (p : Fin 64) (dst : BitVec 48) (bs : Bytes)
  | migrationEntryStart (entry : Bytes)
  | tamperEvent (t : TamperSrc)
  | tamperClear (mask : BitVec 32)
  | wchGo (p : Fin 8)
  | wchWithdraw (p : Fin 8)
  | escrowExport (p : Fin 8)
  | escrowImport (p : Fin 8)
  | grantClear (p : Fin 8)
  | attestSigned (c : Src)
  | attestShared (c : Src)
  | attestCheck (c : Src)
  | rngReady
  | rngStartupTimeout
  | rngHealthFail (cell : Fin 16)
  | drbgReseed (i : Fin 16)
  | drbgStretchLimit (i : Fin 16)
  | mgmtRngTimeout (k : Nat)
  | dgpInit (a : DgpAgent) (c : Fin 16) (v : BitVec 32)
  | dgpFinal (a : DgpAgent) (c : Fin 16)
  | dgpFinalDone (c : Fin 16)
  | dgpClaim (p : Fin 8) (c : Fin 16)
  | dgpRelease (a : DgpAgent) (c : Fin 16)
  | dgpData (a : DgpAgent) (c : Fin 16) (v : BitVec 32)
  | dgpData8 (a : DgpAgent) (c : Fin 16) (v : BitVec 32)
  | dgpBlockAbsorbed (c : Fin 16)
  | ddrReadComplete (addr : Nat) (ev : MemEvent)
  | ddrLineWrite (addr : Nat) (off : Nat) (bs : Bytes) (ev : MemEvent)
  | keyGenerationRoll (r : Fin 16)
  | sweepPage (r : Fin 16) (ev : MemEvent)
  | patrolScrub (ev : MemEvent)
  | jtagTestUnlock (token : Bytes)
  | jtagRelock
  | jtagRenotteAuthorisation (target : Nat) (sig : Bytes)
  | lcsGo (p : Fin 8)
  | lcsWithdraw (p : Fin 8)
  | lcTransition (c : Src)
  | domainFound (c : Src)
  | domainAdmit (c : Src)
  | domainRotate (c : Src)
  | successorExport (c : Src)
  | rewrap (c : Src)
  | twinEnrol (c : Src)
  | debugGrant (c : Src)
  | migrate (c : Src)
  | migrateStop (c : Src)
  | twinLinkTrain (h : TwinHello)
  | heartbeat (t : TwinIn)
  | align (t : TwinIn)
  | domain (t : TwinIn)
  | chart (t : TwinIn)
  | instanceRec (t : TwinIn)
  | stream (t : TwinIn)
  | slot (t : TwinIn)
  | reserve (t : TwinIn)
  | snapshotEnd (t : TwinIn)
  | twinRecordResend
  | breathSyncPulse
  | twinLinkLost
  | twinAliveEdge
  | partnerAliveTimeout
  | twinHaltIn
  | takeover
  | getStatus
  | readSensors
  | readLog (from_ : Nat)
  | modeRequestRecover
  | modeRequestService
  | modeRequestTune (req : Bytes)
  | modeRequestHalted (eid : Byte)
  | queryChange (idx : BitVec 16)
  | setTime (ms : BitVec 64)
  | setCak (data : Bytes)
  | setEndpointId (eid : Byte)
  | pldmRequestUpdate
  | fwSessionTimeout
  | sensorSample (r : Readings)
  | voltageFault (m : Fin 16)
  | thermalComparator (halt : Bool)
  | watchdogExpire
  | monitorWindowEnd (c : Fin 64)
  | sysRstNAssert
  | pfcPauseTimeExpire (p : Fin 64) (prio : Fin 8)
  | msixVectorUnmask (p : Fin 8) (vf : Nat) (v : Nat)
  | atsTranslationComplete (x : AtsPage) (access : Bool)
  | twinHaltInRelease
  | vfEnableSet (x : CfgWrite)
  | d3hotTransition (p : Fin 8) (vf : Nat) (d3 : Bool)
  deriving DecidableEq, Repr

end Sys2Proof
end

