-- ==== Sys2Proof/Decode.lean ====
section
/-! DEFINITION. Words of the opcode table: its rows give no bits, so no word spells a command. -/

namespace Sys2Proof

/-- The command a word spells by the table's bits: none. -/
def decodeTableWord (_nbits _w : Nat) : Option Instr := none

end Sys2Proof
end

