-- ==== Sys2Proof/Config.lean ====
section
/-! DEFINITION. The free values of the model: constants without a body. Nothing can be proved about a value of theirs, so
every statement holds whatever they are (log 1). -/

namespace Sys2Proof.Config

/-- The registers of the fixed group that MPUT and MGET move, as a power of two (R129): stated with neither operation. -/
opaque mauGroup : Fin 4

/-- Bits the spec leaves open or draws from an entropy source: the `n`-th free word of `w` bits. -/
opaque freeWord (w n : Nat) : BitVec w

/-- The public part of a library routine's output: public key, ciphertext or signature (R209), fixed by the
standard R207 names for the algorithm. -/
opaque pkPublic (alg op variant : Nat) (key input rnd : Bytes) : Bytes

/-- The new secret of a library routine (R213), fixed by the standard of the algorithm. -/
opaque pkSecret (alg op variant : Nat) (key input rnd : Bytes) : Bytes

/-- Whether a signature verifies, by the standard of the algorithm. -/
opaque pkVerifies (alg variant : Nat) (key input : Bytes) : Bool

/-- The fields of an RSA private key in CRT form, by number: n, e, p, q, dP, dQ, qInv. The spec gives their checks (R236) and not their layout. -/
opaque rsaField (i : Nat) (material : Bytes) : Nat

/-- The LMS randomiser C derived from the key's seed, the tree identifier I and the counter value q (R226). -/
opaque lmsRandomiser (seed i : Bytes) (q : Nat) : Bytes

/-- The cached nodes of a tree of a stateful key, and its root's signature at a leaf of its parent (R225), fixed by SP 800-208. -/
opaque treeNodes (alg height level index : Nat) (seed : Bytes) : Bytes
opaque rootSignature (alg : Nat) (parentSeed randomiser : Bytes) (leaf : Nat) (nodes : Bytes) : Bytes

/-- Whether the end-of-operation check of R237 holds for the `n`-th computation (a hardware fault may break it). -/
opaque invariantHolds (n : Nat) : Bool

/-- The FIPS 204 ML-DSA-87 verification of a message under a public key with a context string. -/
opaque mldsa87Verify (pk ctx msg sig : Bytes) : Bool

/-- ECDSA P-384 verification by Renotte's keys over a message (R100, R390, R438). -/
opaque renotteEcdsa (role : Nat) (msg sig : Bytes) : Bool

/-- ML-DSA-87 verification by Renotte's keys over a message (R100, R390, R438). -/
opaque renotteMldsa (role : Nat) (msg sig : Bytes) : Bool

/-- ML-KEM-1024 encapsulation under a public key with randomness m: shared secret and ciphertext (FIPS 203). -/
opaque mlkemEncapsSecret (pk m : Bytes) : Bytes
opaque mlkemEncapsCt (pk m : Bytes) : Bytes

/-- ML-KEM-1024 decapsulation under seed d ‖ z, with its implicit rejection (FIPS 203). -/
opaque mlkemDecaps (seed ct : Bytes) : Bytes

/-- The ML-KEM-1024 public key of seed d ‖ z, and the ML-DSA-87 public key of seed ξ. -/
opaque mlkemPublic (seed : Bytes) : Bytes
opaque mldsaPublic (xi : Bytes) : Bytes

/-- Renotte's IANA enterprise number, fixed by the firmware (MON_IDENT). -/
opaque ianaPen : BitVec 32

/-- What a pool, pipe or bellows choice that the device makes freely comes to (R24): the `n`-th choice among `k`. -/
opaque freeChoice (n k : Nat) : Nat

/-- The VDD_CORE set point above 680 mV, in mV, that the management controller sets at boot `boot` and clock step `step` from the part's
fused characterisation (R457). -/
opaque avsSetPoint (boot step : Nat) : Nat

/-- The code bits [7:4] of the MAU status word give a width class of R232, classes counted from 0 in the table's order and 8
with no modulus in force: R230 states no encoding. -/
opaque widthClassCode (wclass : Nat) : BitVec 4

/-- The bits of an IPv4 header that no rule fixes, identification and type of service, and of an IPv6 header, traffic class and flow
label, for a message sent. -/
opaque ipv4Open (msg : Bytes) : BitVec 24
opaque ipv6Open (msg : Bytes) : BitVec 28

/-- The event code of the alarm that an entry into RECOVER by management request logs (R43): the catalogue of R437 has none for it. -/
opaque recoverEventCode : BitVec 16

end Sys2Proof.Config
end

