-- ==== Sys2Proof/Machine/Store.lean ====
section
/-! DEFINITION. Sparse stores: the one representation of every addressed memory and register file of the block, and the
keyed tables of its records. A store lists (key, value) pairs with strictly rising keys and no zero value; what it does
not list reads zero. A byte memory `Store 8` is a list of `Host.Cell`. -/

namespace Sys2Proof.Machine

/-- A store of `w`-bit values by key. -/
abbrev Store (w : Nat) := List (Nat × BitVec w)

/-- The value at a key; zero where nothing is listed. -/
def storeGet {w : Nat} : Store w → Nat → BitVec w
  | [], _ => 0
  | (j, v) :: rest, k => if j = k then v else storeGet rest k

/-- Remove a key. -/
def storeDel {w : Nat} : Store w → Nat → Store w
  | [], _ => []
  | (j, v) :: rest, k => if j = k then storeDel rest k else (j, v) :: storeDel rest k

/-- Put a nonzero value at a key, keeping the keys rising. -/
def storePut {w : Nat} : Store w → Nat → BitVec w → Store w
  | [], k, x => [(k, x)]
  | (j, v) :: rest, k, x =>
    if k < j then (k, x) :: (j, v) :: rest
    else if j = k then (k, x) :: rest
    else (j, v) :: storePut rest k x

/-- Write a key: writing zero, what an unlisted key reads as, removes the entry. -/
def storeSet {w : Nat} (m : Store w) (k : Nat) (x : BitVec w) : Store w :=
  if x = 0 then storeDel m k else storePut m k x

/-- Every key of the store lies above `lo` (all keys when `none`), rising, and no value is zero. -/
def storeWfFrom {w : Nat} : Option Nat → Store w → Bool
  | _, [] => true
  | lo, (j, v) :: rest =>
    (match lo with
      | none => true
      | some l => decide (l < j)) && decide (v ≠ 0) && storeWfFrom (some j) rest

/-- The canonical form of a store. -/
def storeWf {w : Nat} (m : Store w) : Bool := storeWfFrom none m

/-- Memory.wf: the canonical form of a byte memory. -/
def Memory.wf (m : List Host.Cell) : Bool := storeWf m

/-- `n` bytes from address `a` upward. -/
def storeRead : Store 8 → Nat → Nat → Bytes
  | _, _, 0 => []
  | m, a, n + 1 => storeGet m a :: storeRead m (a + 1) n

/-- Write a byte string from address `a` upward. -/
def storeWrite : Store 8 → Nat → Bytes → Store 8
  | m, _, [] => m
  | m, a, b :: bs => storeWrite (storeSet m a b) (a + 1) bs

/-- A table of records by key, keys strictly rising. -/
abbrev Tbl (α : Type) := List (Nat × α)

/-- The record at a key. -/
def tblGet {α : Type} : Tbl α → Nat → Option α
  | [], _ => none
  | (j, v) :: rest, k => if j = k then some v else tblGet rest k

/-- Put a record at a key. -/
def tblPut {α : Type} : Tbl α → Nat → α → Tbl α
  | [], k, x => [(k, x)]
  | (j, v) :: rest, k, x =>
    if k < j then (k, x) :: (j, v) :: rest
    else if j = k then (k, x) :: rest
    else (j, v) :: tblPut rest k x

/-- Remove a key's record. -/
def tblDel {α : Type} : Tbl α → Nat → Tbl α
  | [], _ => []
  | (j, v) :: rest, k => if j = k then tblDel rest k else (j, v) :: tblDel rest k

/-- Change the record at a key, where there is one. -/
def tblMod {α : Type} : Tbl α → Nat → (α → α) → Tbl α
  | [], _, _ => []
  | (j, v) :: rest, k, f => if j = k then (j, f v) :: rest else (j, v) :: tblMod rest k f

/-- The record at a key, or `d`. -/
def tblGetD {α : Type} (t : Tbl α) (k : Nat) (d : α) : α := (tblGet t k).getD d

/-- A key holds a record. -/
def tblHas {α : Type} (t : Tbl α) (k : Nat) : Bool := (tblGet t k).isSome

/-- The least number below `fuel` steps from `k` that is no key of the table. -/
def tblFreeFrom {α : Type} (t : Tbl α) : Nat → Nat → Nat
  | 0, k => k
  | fuel + 1, k => if tblHas t k then tblFreeFrom t fuel (k + 1) else k

/-- The least number that is no key of the table. -/
def tblFree {α : Type} (t : Tbl α) : Nat := tblFreeFrom t (t.length + 1) 0

/-- Every key of the table lies above `lo`, rising. -/
def tblWfFrom {α : Type} : Option Nat → Tbl α → Bool
  | _, [] => true
  | lo, (j, _) :: rest =>
    (match lo with
      | none => true
      | some l => decide (l < j)) && tblWfFrom (some j) rest

end Sys2Proof.Machine
end

