-- ==== Sys2Proof/Machine/Bits.lean ====
section
/-! DEFINITION. Byte order and bit fields: R9, R13 (little-endian), R14 (big-endian). -/

namespace Sys2Proof.Machine

/-- The number a little-endian byte string holds (R13). -/
def leNat : Bytes → Nat
  | [] => 0
  | b :: bs => b.toNat + 256 * leNat bs

/-- `n` little-endian bytes of a number (R13). -/
def leBytes : Nat → Nat → Bytes
  | 0, _ => []
  | n + 1, x => BitVec.ofNat 8 x :: leBytes n (x / 256)

/-- The number a big-endian byte string holds (R14). -/
def beNat (bs : Bytes) : Nat := leNat bs.reverse

/-- `n` big-endian bytes of a number (R14). -/
def beBytes (n x : Nat) : Bytes := (leBytes n x).reverse

/-- `n` bytes of a string from offset `off`. -/
def slice (bs : Bytes) (off n : Nat) : Bytes := (bs.drop off).take n

/-- The byte at an offset, zero past the end. -/
def byteAt (bs : Bytes) (off : Nat) : Nat := (bs.getD off 0).toNat

/-- The little-endian field of `n` bytes at `off`. -/
def le (bs : Bytes) (off n : Nat) : Nat := leNat (slice bs off n)

/-- The big-endian field of `n` bytes at `off`. -/
def be (bs : Bytes) (off n : Nat) : Nat := beNat (slice bs off n)

/-- Bits [hi : lo] of a number (R9). -/
def bitsOf (x hi lo : Nat) : Nat := x / 2 ^ lo % 2 ^ (hi + 1 - lo)

/-- Bit `i` of a number. -/
def bitOf (x i : Nat) : Bool := x.testBit i

/-- `n` zero bytes. -/
def zeros (n : Nat) : Bytes := List.replicate n 0

/-- Every byte is zero. -/
def allZero (bs : Bytes) : Bool := bs.all (fun b => b = 0)

/-- Bytes `off` to `off + n - 1` are zero: a reserved field (R19). -/
def zeroAt (bs : Bytes) (off n : Nat) : Bool := allZero (slice bs off n)

/-- Pad with zero bytes to `n` bytes. -/
def padTo (n : Nat) (bs : Bytes) : Bytes := bs ++ zeros (n - bs.length)

/-- A register word packed from (low bit, width, value) fields; bits in no field read zero (R18). -/
def packFields : List (Nat × Nat × Nat) → Nat
  | [] => 0
  | (lo, w, v) :: rest => (v % 2 ^ w) * 2 ^ lo + packFields rest

/-- The value of a flag. -/
def flag (b : Bool) : Nat := if b then 1 else 0

/-- A count that saturates at `2^w - 1` (R16 tables: "saturating"). -/
def sat (w x : Nat) : Nat := if x < 2 ^ w then x else 2 ^ w - 1

/-- The number of 1 bits among the low `n` bits. -/
def popcount : Nat → Nat → Nat
  | 0, _ => 0
  | n + 1, x => x % 2 + popcount n (x / 2)

/-- ⌈a / b⌉. -/
def ceilDiv (a b : Nat) : Nat := (a + b - 1) / b

/-- Round up to a multiple of `b`. -/
def roundUp (a b : Nat) : Nat := ceilDiv a b * b

/-- Bytewise XOR of two strings, as long as the shorter. -/
def xorBytes : Bytes → Bytes → Bytes
  | a :: as, b :: bs => (a ^^^ b) :: xorBytes as bs
  | _, _ => []

/-- Cut a string into pieces of `n` bytes, the last possibly shorter; `fuel` bounds the pieces. -/
def chunksFuel : Nat → Nat → Bytes → List Bytes
  | 0, _, _ => []
  | _, _, [] => []
  | fuel + 1, n, bs => bs.take n :: chunksFuel fuel n (bs.drop n)

/-- Cut a string into pieces of `n` bytes, `n ≥ 1`. -/
def chunks (n : Nat) (bs : Bytes) : List Bytes := chunksFuel bs.length n bs

/-- The bytes of an ASCII string. -/
def ascii (s : String) : Bytes := s.toList.map (fun c => BitVec.ofNat 8 c.toNat)

/-- A vector register's or word's bytes, lowest address first (R130). -/
def bvBytes {w : Nat} (n : Nat) (x : BitVec w) : Bytes := leBytes n x.toNat

/-- The index of the first element of a list that passes a test. -/
def findIdx? {α : Type} (p : α → Bool) : List α → Option Nat
  | [] => none
  | x :: xs => if p x then some 0 else (findIdx? p xs).map (· + 1)

/-- Replace element `i` of a list. -/
def listSet {α : Type} : List α → Nat → α → List α
  | [], _, _ => []
  | _ :: xs, 0, y => y :: xs
  | x :: xs, i + 1, y => x :: listSet xs i y

/-- Change element `i` of a list. -/
def listMod {α : Type} : List α → Nat → (α → α) → List α
  | [], _, _ => []
  | x :: xs, 0, f => f x :: xs
  | x :: xs, i + 1, f => x :: listMod xs i f

end Sys2Proof.Machine
end

