-- ==== Sys2Proof/Machine/Aes.lean ====
section
/-! DEFINITION. AES (FIPS 197) and the modes R272 names: ECB, CBC, CTR (SP 800-38A), GCM (SP 800-38D), GCM-SIV (RFC 8452),
XTS (IEEE 1619), KW and KWP (SP 800-38F), CMAC (SP 800-38B). The S-box is computed as FIPS 197 defines it. -/

namespace Sys2Proof.Machine

/-- Multiply by x in GF(2^8) modulo x^8 + x^4 + x^3 + x + 1. -/
def xtime (b : Byte) : Byte := if b.msb then (b <<< 1) ^^^ 0x1B else b <<< 1

/-- Multiply in GF(2^8): `n` bits of `b` from the lowest. -/
def gf8MulN : Nat → Byte → Byte → Byte
  | 0, _, _ => 0
  | n + 1, a, b => (if b.getLsbD 0 then a else 0) ^^^ gf8MulN n (xtime a) (b >>> 1)

/-- Multiply in GF(2^8) (also the field of R341). -/
def gf8Mul (a b : Byte) : Byte := gf8MulN 8 a b

/-- `a` to the power `n` in GF(2^8). -/
def gf8Pow (a : Byte) : Nat → Byte
  | 0 => 1
  | n + 1 => gf8Mul a (gf8Pow a n)

/-- The inverse in GF(2^8), zero for zero. -/
def gf8Inv (a : Byte) : Byte := gf8Pow a 254

/-- The S-box: the affine map of the inverse. -/
def sbox (a : Byte) : Byte :=
  let b := gf8Inv a
  b ^^^ b.rotateLeft 1 ^^^ b.rotateLeft 2 ^^^ b.rotateLeft 3 ^^^ b.rotateLeft 4 ^^^ 0x63

/-- The inverse S-box. -/
def invSbox (a : Byte) : Byte :=
  gf8Inv (a.rotateLeft 1 ^^^ a.rotateLeft 3 ^^^ a.rotateLeft 6 ^^^ 0x05)

/-- The S-box as a table. -/
def sboxTable : List Byte := (List.range 256).map (fun i => sbox (BitVec.ofNat 8 i))
def invSboxTable : List Byte := (List.range 256).map (fun i => invSbox (BitVec.ofNat 8 i))

/-- Look a byte up in a table. -/
def subByte (t : List Byte) (b : Byte) : Byte := t.getD b.toNat 0

/-- The next word of the key schedule; `prev` lists the words so far, newest first; `i` is the word's number. -/
def aesNextWord (nk i : Nat) (rcon : Byte) (prev : List Bytes) : Bytes :=
  let t := prev.headD []
  let t' := if i % nk = 0 then
      xorBytes ((t.drop 1 ++ t.take 1).map (subByte sboxTable)) [rcon, 0, 0, 0]
    else if nk > 6 ∧ i % nk = 4 then t.map (subByte sboxTable)
    else t
  xorBytes (prev.getD (nk - 1) []) t'

/-- `n` more words of the key schedule. -/
def aesExpand (nk : Nat) : Nat → Nat → Byte → List Bytes → List Bytes
  | 0, _, _, prev => prev.reverse
  | n + 1, i, rcon, prev =>
    aesExpand nk n (i + 1) (if i % nk = 0 then xtime rcon else rcon) (aesNextWord nk i rcon prev :: prev)

/-- The round keys of a 16, 24 or 32-byte key, 16 bytes each. -/
def aesRoundKeys (key : Bytes) : List Bytes :=
  let nk := key.length / 4
  chunks 16 (aesExpand nk (4 * (nk + 7) - nk) nk 1 (chunks 4 key).reverse).flatten

/-- ShiftRows and its inverse, on 16 bytes in column order. -/
def shiftRows (s : Bytes) : Bytes := (List.range 16).map (fun i => s.getD ((i + 4 * (i % 4)) % 16) 0)
def invShiftRows (s : Bytes) : Bytes := (List.range 16).map (fun i => s.getD ((i + 12 * (i % 4)) % 16) 0)

/-- Multiply each column by the circulant matrix with first row `m`. -/
def mixWith (m : List Byte) (s : Bytes) : Bytes :=
  (List.range 16).map (fun i =>
    let c := i - i % 4
    (List.range 4).foldl (fun acc j => acc ^^^ gf8Mul (m.getD ((j + 4 - i % 4) % 4) 0) (s.getD (c + j) 0)) 0)

def mixColumns : Bytes → Bytes := mixWith [2, 3, 1, 1]
def invMixColumns : Bytes → Bytes := mixWith [14, 11, 13, 9]

/-- Rounds after the first key addition; the last round has no MixColumns. -/
def aesRounds : List Bytes → Bytes → Bytes
  | [], s => s
  | [k], s => xorBytes (shiftRows (s.map (subByte sboxTable))) k
  | k :: ks, s => aesRounds ks (xorBytes (mixColumns (shiftRows (s.map (subByte sboxTable)))) k)

/-- AES encryption of one 16-byte block. -/
def aesEnc (key blk : Bytes) : Bytes :=
  match aesRoundKeys key with
  | [] => blk
  | k :: ks => aesRounds ks (xorBytes blk k)

/-- Inverse rounds, round keys last first; the final key addition stands alone. -/
def aesInvRounds : List Bytes → Bytes → Bytes
  | [], s => s
  | [k], s => xorBytes ((invShiftRows s).map (subByte invSboxTable)) k
  | k :: ks, s => aesInvRounds ks (invMixColumns (xorBytes ((invShiftRows s).map (subByte invSboxTable)) k))

/-- AES decryption of one 16-byte block. -/
def aesDec (key blk : Bytes) : Bytes :=
  match (aesRoundKeys key).reverse with
  | [] => blk
  | k :: ks => aesInvRounds ks (xorBytes blk k)

/-- Add `d` to a counter of `n` bytes, big-endian, wrapping. -/
def ctrAdd (blk : Bytes) (d : Nat) : Bytes := beBytes 16 ((beNat blk + d) % 2 ^ 128)

/-- CTR with a 128-bit increment. -/
def aesCtr (key ctr data : Bytes) : Bytes :=
  ((chunks 16 data).zipIdx.map (fun p => xorBytes p.1 (aesEnc key (ctrAdd ctr p.2)))).flatten

/-- GCM's 32-bit increment. -/
def inc32 (blk : Bytes) (d : Nat) : Bytes := blk.take 12 ++ beBytes 4 ((be blk 12 4 + d) % 2 ^ 32)

/-- CTR with GCM's increment. -/
def gctr (key ctr data : Bytes) : Bytes :=
  ((chunks 16 data).zipIdx.map (fun p => xorBytes p.1 (aesEnc key (inc32 ctr p.2)))).flatten

/-- Multiply in GCM's field, numbers big-endian with bit 127 the coefficient of x^0; `n` bits of `x`. -/
def ghashMulN : Nat → Nat → Nat → Nat → Nat
  | 0, _, _, z => z
  | n + 1, x, v, z =>
    ghashMulN n x (if v % 2 = 1 then (v / 2) ^^^ (0xE1 * 2 ^ 120) else v / 2)
      (if x.testBit n then z ^^^ v else z)

/-- Multiply in GCM's field (SP 800-38D section 6.3). -/
def ghashMul (x y : Nat) : Nat := ghashMulN 128 x y 0

/-- GHASH of a string whose length is a multiple of 16. -/
def ghash (h : Bytes) (x : Bytes) : Bytes :=
  beBytes 16 ((chunks 16 x).foldl (fun y b => ghashMul (y ^^^ beNat b) (beNat h)) 0)

/-- Pad to a multiple of 16 with zeros. -/
def pad16 (x : Bytes) : Bytes := padTo (roundUp x.length 16) x

/-- The GCM tag of AAD and ciphertext under a 96-bit IV, 16 bytes. -/
def gcmTag (key iv aad ct : Bytes) : Bytes :=
  xorBytes (ghash (aesEnc key (zeros 16)) (pad16 aad ++ pad16 ct ++ beBytes 8 (8 * aad.length) ++ beBytes 8 (8 * ct.length)))
    (aesEnc key (iv ++ beBytes 4 1))

/-- GCM encryption: ciphertext and 16-byte tag. -/
def gcmSeal (key iv aad pt : Bytes) : Bytes × Bytes :=
  let ct := gctr key (iv ++ beBytes 4 2) pt
  (ct, gcmTag key iv aad ct)

/-- GCM decryption without the check. -/
def gcmOpenRaw (key iv ct : Bytes) : Bytes := gctr key (iv ++ beBytes 4 2) ct

/-- Double in the CMAC field. -/
def cmacDouble (b : Bytes) : Bytes :=
  let n := beNat b
  beBytes 16 (if n ≥ 2 ^ 127 then (2 * n % 2 ^ 128) ^^^ 0x87 else 2 * n)

/-- CBC-MAC chaining. -/
def cbcMac (key acc : Bytes) (blocks : List Bytes) : Bytes :=
  blocks.foldl (fun a b => aesEnc key (xorBytes a b)) acc

/-- The last CMAC block, masked with K1 or K2. -/
def cmacLast (key last : Bytes) : Bytes :=
  let k1 := cmacDouble (aesEnc key (zeros 16))
  if last.length = 16 then xorBytes last k1
  else xorBytes (pad16 (last ++ [0x80])) (cmacDouble k1)

/-- CMAC over chaining value `acc` and the rest of the message, 16 bytes. -/
def cmacFrom (key acc msg : Bytes) : Bytes :=
  let bs := chunks 16 msg
  let last := bs.getLastD []
  aesEnc key (xorBytes (cbcMac key acc bs.dropLast) (cmacLast key last))

/-- CBC encryption and decryption of whole blocks. -/
def cbcEnc (key : Bytes) : Bytes → List Bytes → Bytes
  | _, [] => []
  | iv, b :: bs => let c := aesEnc key (xorBytes b iv); c ++ cbcEnc key c bs
def cbcDec (key : Bytes) : Bytes → List Bytes → Bytes
  | _, [] => []
  | iv, c :: cs => xorBytes (aesDec key c) iv ++ cbcDec key c cs

/-- PKCS#7 padding and its removal. -/
def pkcs7Pad (d : Bytes) : Bytes :=
  let n := 16 - d.length % 16
  d ++ List.replicate n (BitVec.ofNat 8 n)
def pkcs7Unpad (d : Bytes) : Option Bytes :=
  let n := (d.getLastD 0).toNat
  if 1 ≤ n ∧ n ≤ 16 ∧ n ≤ d.length ∧ (d.drop (d.length - n)).all (fun b => b.toNat = n)
  then some (d.take (d.length - n)) else none

/-- One step of the KW wrapping function W: A and the registers, step number `t`. -/
def kwStep (key : Bytes) (s : Bytes × List Bytes) (t : Nat) : Bytes × List Bytes :=
  match s.2 with
  | [] => s
  | r :: rs =>
    let b := aesEnc key (s.1 ++ r)
    (xorBytes (b.take 8) (beBytes 8 t), rs ++ [b.drop 8])

/-- SP 800-38F W: six rounds over the semiblocks. -/
def kwW (key a : Bytes) (rs : List Bytes) : Bytes :=
  let out := (List.range (6 * rs.length)).foldl (fun s i => kwStep key s (i + 1)) (a, rs)
  out.1 ++ out.2.flatten

/-- One inverse step. -/
def kwUnstep (key : Bytes) (s : Bytes × List Bytes) (t : Nat) : Bytes × List Bytes :=
  match s.2.getLast? with
  | none => s
  | some r =>
    let b := aesDec key (xorBytes s.1 (beBytes 8 t) ++ r)
    (b.take 8, b.drop 8 :: s.2.dropLast)

/-- SP 800-38F W inverse: A and the plaintext semiblocks. -/
def kwUnW (key ct : Bytes) : Bytes × Bytes :=
  let rs := chunks 8 (ct.drop 8)
  let n := 6 * rs.length
  let out := (List.range n).foldl (fun s i => kwUnstep key s (n - i)) (ct.take 8, rs)
  (out.1, out.2.flatten)

/-- KW. -/
def kwWrap (key pt : Bytes) : Bytes := kwW key (List.replicate 8 0xA6) (chunks 8 pt)
def kwUnwrap (key ct : Bytes) : Option Bytes :=
  let r := kwUnW key ct
  if r.1 = List.replicate 8 0xA6 then some r.2 else none

/-- KWP. -/
def kwpWrap (key pt : Bytes) : Bytes :=
  let a : Bytes := [0xA6, 0x59, 0x59, 0xA6] ++ beBytes 4 pt.length
  let p := padTo (roundUp pt.length 8) pt
  if p.length ≤ 8 then aesEnc key (a ++ p) else kwW key a (chunks 8 p)
def kwpUnwrap (key ct : Bytes) : Option Bytes :=
  let r := if ct.length = 16 then let b := aesDec key ct; (b.take 8, b.drop 8) else kwUnW key ct
  let n := be r.1 4 4
  if r.1.take 4 = [0xA6, 0x59, 0x59, 0xA6] ∧ n ≤ r.2.length ∧ r.2.length < n + 8 ∧ allZero (r.2.drop n)
  then some (r.2.take n) else none

/-- XTS: multiply the tweak by x, little-endian. -/
def xtsDouble (t : Bytes) : Bytes :=
  let n := leNat t
  leBytes 16 (if n ≥ 2 ^ 127 then (2 * n % 2 ^ 128) ^^^ 0x87 else 2 * n)

/-- The tweaks of `n` blocks. -/
def xtsTweaks : Nat → Bytes → List Bytes
  | 0, _ => []
  | n + 1, t => t :: xtsTweaks n (xtsDouble t)

/-- One XTS block. -/
def xtsBlock (enc : Bool) (k1 t b : Bytes) : Bytes :=
  xorBytes (if enc then aesEnc k1 (xorBytes b t) else aesDec k1 (xorBytes b t)) t

/-- XTS of one data unit with ciphertext stealing (IEEE 1619). -/
def xtsUnit (enc : Bool) (key tweak data : Bytes) : Bytes :=
  let k1 := key.take (key.length / 2)
  let k2 := key.drop (key.length / 2)
  let n := data.length / 16
  let r := data.length % 16
  let ts := xtsTweaks (n + 1) (aesEnc k2 tweak)
  let bs := chunks 16 data
  let whole := if r = 0 then n else n - 1
  let front := ((bs.take whole).zip ts).map (fun p => xtsBlock enc k1 p.2 p.1)
  if r = 0 then front.flatten
  else
    let tA := ts.getD (if enc then n - 1 else n) []
    let tB := ts.getD (if enc then n else n - 1) []
    let cc := xtsBlock enc k1 tA (bs.getD (n - 1) [])
    let last := bs.getD n []
    front.flatten ++ xtsBlock enc k1 tB (last ++ cc.drop r) ++ cc.take r

/-- POLYVAL by GHASH (RFC 8452 appendix A). -/
def polyval (h : Bytes) (x : Bytes) : Bytes :=
  let hx := ghashMul (beNat h.reverse) (2 ^ 126)
  (beBytes 16 ((chunks 16 x).foldl (fun y b => ghashMul (y ^^^ beNat b.reverse) hx) 0)).reverse

/-- RFC 8452 key derivation: authentication key and encryption key. -/
def sivKeys (key nonce : Bytes) : Bytes × Bytes :=
  let part (i : Nat) : Bytes := (aesEnc key (leBytes 4 i ++ nonce)).take 8
  (part 0 ++ part 1, if key.length = 16 then part 2 ++ part 3 else part 2 ++ part 3 ++ part 4 ++ part 5)

/-- The GCM-SIV tag of AAD and plaintext. -/
def sivTag (key nonce aad pt : Bytes) : Bytes :=
  let ks := sivKeys key nonce
  let s := polyval ks.1 (pad16 aad ++ pad16 pt ++ leBytes 8 (8 * aad.length) ++ leBytes 8 (8 * pt.length))
  let s' := xorBytes s (nonce ++ zeros 4)
  aesEnc ks.2 (s'.take 15 ++ [s'.getD 15 0 &&& 0x7F])

/-- GCM-SIV's counter mode: little-endian 32-bit counter in the first four bytes. -/
def sivCtr (key tag data : Bytes) : Bytes :=
  let c0 := tag.take 15 ++ [tag.getD 15 0 ||| 0x80]
  ((chunks 16 data).zipIdx.map (fun p =>
    xorBytes p.1 (aesEnc key (leBytes 4 ((le c0 0 4 + p.2) % 2 ^ 32) ++ c0.drop 4)))).flatten

end Sys2Proof.Machine
end

