-- ==== Sys2Proof/Machine/TypesMem.lean ====
section
/-! DEFINITION. The types of the protected DDR4 memory (10). -/

namespace Sys2Proof.Machine

/-- A counter line: MAJOR and the 64 MINORs of a 4 KiB page (R374). -/
structure CounterLine where
  major : Nat
  minors : Store 7
  deriving DecidableEq, Repr

/-- A written line as it is stored in DDR4: ciphertext and tag (R371). -/
structure StoredLine where
  ct : Bytes
  tag : Bytes
  deriving DecidableEq, Repr

/-- A keyed range (R368, R370, R382): BASE and SIZE in 64 MiB units, the newest key and generation, the line writes made
under it, the key before it while a sweep runs, the writes made under that, and the boundary pointer P. -/
structure MemRange where
  base : Nat
  size : Nat
  key : Bytes
  gen : Nat
  writes : Nat
  oldKey : Option Bytes
  oldWrites : Nat
  sweepPage : Nat
  deriving DecidableEq, Repr

/-- MPR_FAULT (R386). -/
structure MemFault where
  kind : Nat
  line : Nat
  range : Nat
  channel : Nat
  deriving DecidableEq, Repr

/-- The memory subsystem: MPR_STATUS fields, ranges, counter lines by page, stored lines by line number, the tree's
counters by range, level and index (R375), MPR_ECC, MPR_FAULT, the next line the scrub reads. -/
structure Mpr where
  chMask : Nat
  speed : Nat
  trained : Bool
  keysReady : Bool
  capacity : Nat
  ranges : List MemRange
  pages : Tbl CounterLine
  lines : Tbl StoredLine
  tree : Tbl Nat
  corrected : Nat
  retries : Nat
  scrubPasses : Nat
  fault : Option MemFault
  scrubNext : Nat
  scrubHours : Nat
  deriving DecidableEq, Repr

end Sys2Proof.Machine
end

