-- ==== Sys2Proof/Machine/MemProt.lean ====
section
/-! DEFINITION. The memory protection engine on its own registers: encryption, tags, counters, sweeps and scrubbing
(R367 to R386). What an operation met is answered beside the engine's new state; the halt it causes is the device's. -/

namespace Sys2Proof.Machine

/-- A keyed range not in use. -/
def MemRange.empty : MemRange := ⟨0, 0, [], 0, 0, none, 0, 0⟩

/-- The memory subsystem after reset. -/
def Mpr.init : Mpr where
  chMask := 0
  speed := 0
  trained := false
  keysReady := false
  capacity := 0
  ranges := List.replicate 16 MemRange.empty
  pages := []
  lines := []
  tree := []
  corrected := 0
  retries := 0
  scrubPasses := 0
  fault := none
  scrubNext := 0
  scrubHours := 1

/-- The channel of an address (R367). -/
def memChannel (m : Mpr) (a : Nat) : Nat :=
  let x := (bitsOf a 10 8) ^^^ (bitsOf a 22 20) ^^^ (bitsOf a 34 32)
  if m.chMask = 0xFF then x else x % 4

/-- The bytes of 64 MiB. -/
def rangeUnit : Nat := 2 ^ 26

/-- Range r's entry. -/
def memRange (m : Mpr) (r : Nat) : MemRange := m.ranges.getD r MemRange.empty

/-- The range an address lies in, if any. -/
def rangeOf (m : Mpr) (a : Nat) : Option Nat :=
  (List.range 16).find? (fun r =>
    let x := memRange m r
    decide (rangeUnit * x.base ≤ a ∧ a < rangeUnit * (x.base + x.size)))

/-- The counter block CB (R371). -/
def counterBlock (major minor : Nat) (t : Bool) (chunk r line : Nat) : Bytes :=
  beBytes 16 (2 ^ 64 * major + 2 ^ 57 * minor + 2 ^ 56 * flag t + 2 ^ 54 * chunk + 2 ^ 50 * r + 2 ^ 15 * line)

/-- The tag of a line's ciphertext (R371). -/
def lineTag (key : Bytes) (major minor r line : Nat) (ct : Bytes) : Bytes :=
  (xorBytes (ghash (aesEnc key (zeros 16)) ct)
    (aesEnc key (counterBlock major minor true 0 r line))).take 8

/-- The line's keystream XORed over 64 bytes: encryption and decryption (R371). -/
def lineCrypt (key : Bytes) (major minor r line : Nat) (x : Bytes) : Bytes :=
  ((List.range 4).map (fun c =>
    xorBytes (slice x (16 * c) 16) (aesEnc key (counterBlock major minor false c r line)))).flatten

/-- The counter line of a page; one never written is zero. -/
def pageCounters (m : Mpr) (page : Nat) : CounterLine := tblGetD m.pages page ⟨0, []⟩

/-- The minor counter of a line (R372). -/
def minorOf (m : Mpr) (line : Nat) : Nat := (storeGet (pageCounters m (line / 64)).minors (line % 64)).toNat

/-- The page lies below the sweep's boundary (R382), counted in pages from the range base. -/
def pageInRange (x : MemRange) (page : Nat) : Nat := page - rangeUnit * x.base / 4096

/-- The key a page is under: the newest, or during a sweep the old one at and above P (R382). -/
def pageKey (x : MemRange) (page : Nat) : Bytes :=
  match x.oldKey with
  | none => x.key
  | some k => if pageInRange x page < x.sweepPage then x.key else k

/-- The plaintext of a line; 64 zero bytes where its minor is 0 (R372). -/
def linePlain (m : Mpr) (r line : Nat) : Bytes :=
  match tblGet m.lines line with
  | none => zeros 64
  | some l =>
    if minorOf m line = 0 then zeros 64
    else lineCrypt (pageKey (memRange m r) (line / 64)) (pageCounters m (line / 64)).major (minorOf m line) r line l.ct

/-- The tag of the stored line, or of other bytes in its place, verifies. -/
def tagHolds (m : Mpr) (r line : Nat) (ct tag : Bytes) : Bool :=
  tag = lineTag (pageKey (memRange m r) (line / 64)) (pageCounters m (line / 64)).major (minorOf m line) r line ct

/-- Store a line's plaintext under given counters and key. -/
def putLine (m : Mpr) (key : Bytes) (r line major minor : Nat) (pt : Bytes) : Mpr :=
  let ct := lineCrypt key major minor r line pt
  { m with lines := tblPut m.lines line ⟨ct, lineTag key major minor r line ct⟩ }

/-- A key of the tree table: range, level, index (R375). -/
def treeKey (r level index : Nat) : Nat := 2 ^ 40 * (r * 64 + level) + index

/-- The levels of a range's tree: from level 0 up to the first with at most 64 lines (R375). -/
def treeLevels : Nat → Nat → List Nat
  | 0, n => [n]
  | fuel + 1, n => if n ≤ 64 then [n] else n :: treeLevels fuel (ceilDiv n 8)

/-- The metadata size of a range of `s` bytes (R377): data tags, counter lines, counter tags, nodes of levels 1 to h. -/
def metaSize (s : Nat) : Nat :=
  s / 8 + s / 64 + s / 512 + 64 * ((treeLevels 16 (s / 4096)).drop 1).sum

/-- A write of a counter line: its counter in its parent and those above it, up to the root, increment (R376, R378). -/
def bumpTree (m : Mpr) (r page : Nat) : Mpr :=
  let x := memRange m r
  let h := (treeLevels 16 (rangeUnit * x.size / 4096)).length
  let i := pageInRange x page
  let bump (t : Tbl Nat) (k : Nat) : Tbl Nat :=
    let key := treeKey r k (i / 8 ^ k)
    tblPut t key (tblGetD t key 0 + 1)
  { m with tree := (List.range h).foldl bump m.tree }

/-- Count line writes under the key that a page is under (R382, R383). -/
def countWrites (m : Mpr) (r page n : Nat) : Mpr :=
  { m with ranges := listMod m.ranges r (fun x =>
      if x.oldKey.isSome ∧ ¬ pageInRange x page < x.sweepPage then { x with oldWrites := x.oldWrites + n }
      else { x with writes := x.writes + n }) }

/-- The written lines of a page. -/
def writtenLines (m : Mpr) (page : Nat) : List Nat := (pageCounters m page).minors.map (fun e => 64 * page + e.1)

/-- Write a whole line (R372): its minor rises by one. Not for a minor of 127. -/
def writeLine (m : Mpr) (r line : Nat) (pt : Bytes) : Mpr :=
  let page := line / 64
  let c := pageCounters m page
  let minor := minorOf m line + 1
  let m1 := { m with pages := tblPut m.pages page { c with minors := storeSet c.minors (line % 64) (BitVec.ofNat 7 minor) } }
  countWrites (bumpTree (putLine m1 (pageKey (memRange m r) page) r line c.major minor pt) r page) r page 1

/-- Re-encrypt a page under an incremented MAJOR with every written line at minor 1, merging one new line (R381). -/
def reencryptPage (m : Mpr) (r line : Nat) (pt : Bytes) : Mpr :=
  let page := line / 64
  let c := pageCounters m page
  let ls := writtenLines m page
  let key := pageKey (memRange m r) page
  let c1 : CounterLine := ⟨c.major + 1, c.minors.map (fun e => (e.1, (1 : BitVec 7)))⟩
  let m1 := { m with pages := tblPut m.pages page c1 }
  let m2 := ls.foldl (fun t l => putLine t key r l (c.major + 1) 1 (if l = line then pt else linePlain m r l)) m1
  countWrites (bumpTree m2 r page) r page ls.length

/-- Discard a page: MAJOR increments, minors go to 0 (R373). -/
def discardPage (m : Mpr) (page : Nat) : Mpr :=
  { m with pages := tblPut m.pages page ⟨(pageCounters m page).major + 1, []⟩ }

/-- What an access met: served, corrected, retried, or a fault with its halt cause and MPR_FAULT kind (R384). -/
inductive MemOutcome where
  | ok | corrected | retried
  | halt (cause kind : Nat)
  deriving DecidableEq, Repr

/-- The outcome of a line read (R384); a line whose minor is 0 is not read at all (R372). `rmw` is the read of a partial
write. Causes: 1 MEM_TAG, 2 MEM_RMW, 3 MEM_TREE. -/
def readOutcome (m : Mpr) (r line : Nat) (rmw : Bool) (ev : MemEvent) : MemOutcome :=
  let fresh : Bool := minorOf m line = 0
  match ev with
  | .clean => .ok
  | .singleBit => if fresh then .ok else .corrected
  | .uncorrectable | .retryNotCured =>
    if fresh then .ok else if rmw then .halt 2 5 else .halt 1 3
  | .tampered l t =>
    if fresh ∨ tagHolds m r line (bvBytes 64 l) (bvBytes 8 t) then .ok
    else if rmw then .halt 2 5 else .halt 1 1
  | .metaTag => if rmw then .halt 3 4 else .halt 1 2
  | .metaUncorrectable => .halt 3 4
  | .rootParity => .halt 3 6
  | .cacheParityClean => .ok
  | .cacheParityDirty => .halt 3 7
  | .retryCured => .retried

/-- The outcome of a write that reads no data line: metadata is verified, and a command or write that retries do not cure counts as an
uncorrectable error on the line. -/
def lineOutcome (rmw : Bool) : MemEvent → MemOutcome
  | .metaTag => if rmw then .halt 3 4 else .halt 1 2
  | .metaUncorrectable => .halt 3 4
  | .rootParity => .halt 3 6
  | .cacheParityDirty => .halt 3 7
  | .retryNotCured => if rmw then .halt 2 5 else .halt 1 3
  | .retryCured => .retried
  | .clean | .singleBit | .uncorrectable | .tampered _ _ | .cacheParityClean => .ok

/-- The outcome of a write's reads (R380, R381, R384): its own line for a part of a written line, another written line of a page that is
re-encrypted. -/
def writeOutcome (m : Mpr) (r line : Nat) (whole : Bool) (ev : MemEvent) : MemOutcome :=
  if !whole && minorOf m line ≠ 0 then readOutcome m r line true ev
  else if minorOf m line = 127 then match (writtenLines m (line / 64)).find? (· ≠ line) with
    | some o => readOutcome m r o false ev
    | none => lineOutcome false ev
  else lineOutcome (!whole) ev

/-- The outcome of a sweep step on a page: of its first written line. -/
def sweepOutcome (m : Mpr) (r page : Nat) (ev : MemEvent) : MemOutcome :=
  match (writtenLines m page).head? with
  | some o => readOutcome m r o false ev
  | none => lineOutcome false ev

/-- The outcome of a scrub read: ECC only (R385). -/
def scrubOutcome : MemEvent → MemOutcome
  | .singleBit => .corrected
  | .uncorrectable | .retryNotCured => .halt 1 3
  | .metaUncorrectable => .halt 3 4
  | .retryCured => .retried
  | .clean | .tampered _ _ | .metaTag | .rootParity | .cacheParityClean | .cacheParityDirty => .ok

/-- Record the counts of an access that goes on (R384, MPR_ECC). -/
def countOutcome (m : Mpr) : MemOutcome → Mpr
  | .corrected => { m with corrected := sat 32 (m.corrected + 1) }
  | .retried => { m with retries := sat 16 (m.retries + 1) }
  | _ => m

/-- What a halting fault leaves in the engine: keys, roots and cache erased, and the fault recorded if it is the first
(R386). -/
def memErase (m : Mpr) : Mpr :=
  { m with keysReady := false, tree := [],
           ranges := m.ranges.map (fun x => { x with key := [], oldKey := none }) }

/-- The halt cause of a kind of memory fault (R384). -/
def memCause (kind : Nat) : Nat := [1, 1, 1, 1, 3, 2, 3, 3].getD kind 3

/-- Of two faults of one cycle the first is the one to record: the lowest cause, then the lowest kind, then the lowest address (R386). -/
def faultBefore (f g : MemFault) : Bool :=
  memCause f.kind < memCause g.kind || (memCause f.kind = memCause g.kind && (f.kind < g.kind || (f.kind = g.kind && f.line < g.line)))

def memFaulted (m : Mpr) (kind r line : Nat) : Mpr :=
  { memErase m with fault := match m.fault with
      | some f => some f
      | none => some ⟨kind, line % 2 ^ 35, r, memChannel m (64 * line)⟩ }

/-- Client writes to pages at or above P wait once 2^40 writes were made under the old key (R383). -/
def writeWaits (x : MemRange) (page : Nat) : Bool :=
  x.oldKey.isSome ∧ x.oldWrites ≥ 2 ^ 40 ∧ ¬ pageInRange x page < x.sweepPage

/-- A client's write of `bs` at offset `off` of a line (R380, R381). -/
def clientWrite (m : Mpr) (r line off : Nat) (bs : Bytes) : Mpr :=
  let pt := if off = 0 ∧ bs.length = 64 then bs
    else let old := linePlain m r line; old.take off ++ bs ++ old.drop (off + bs.length)
  if minorOf m line = 127 then reencryptPage m r line pt else writeLine m r line pt

/-- Begin a sweep of range r under a new key (R382). -/
def rollKey (m : Mpr) (r : Nat) (key : Bytes) : Mpr :=
  { m with ranges := listMod m.ranges r (fun x =>
      { x with oldKey := some x.key, oldWrites := x.writes, key := key, gen := x.gen + 1, writes := 0, sweepPage := 0 }) }

/-- The tree counters that pass to the new generation with page `i` of a range: its own and those of the nodes whose coverage ends with it
restart at 1 where they were written (R382). -/
def restartTree (m : Mpr) (r i : Nat) (last : Bool) : Mpr :=
  let h := (treeLevels 16 (rangeUnit * (memRange m r).size / 4096)).length
  { m with tree := (List.range h).foldl (fun t k =>
      if last || (i + 1) % 8 ^ k = 0 then tblMod t (treeKey r k (i / 8 ^ k)) (fun _ => 1) else t) m.tree }

/-- One sweep step: the page at P passes to the new key with MAJOR 0 and minors 1, and P advances (R382). -/
def sweepStep (m : Mpr) (r : Nat) : Mpr :=
  let x := memRange m r
  let page := rangeUnit * x.base / 4096 + x.sweepPage
  let m1 : Mpr := match tblGet m.pages page with
    | none => m
    | some c =>
      let ls := writtenLines m page
      let m1 := { m with pages := tblPut m.pages page ⟨0, c.minors.map (fun e => (e.1, (1 : BitVec 7)))⟩ }
      let m2 := ls.foldl (fun t l => putLine t x.key r l 0 1 (linePlain m r l)) m1
      { m2 with ranges := listMod m2.ranges r (fun y => { y with writes := y.writes + ls.length }) }
  let last : Bool := (x.sweepPage + 1) * 4096 ≥ rangeUnit * x.size
  let m2 := restartTree m1 r x.sweepPage last
  { m2 with ranges := listMod m2.ranges r (fun y =>
      if last then { y with oldKey := none, oldWrites := 0, sweepPage := 0 } else { y with sweepPage := y.sweepPage + 1 }) }

/-- The next written line at or after the scrub's position, or none to the end (R385). -/
def nextWritten (m : Mpr) (from_ : Nat) : Option Nat :=
  (m.pages.flatMap (fun p => p.2.minors.map (fun e => 64 * p.1 + e.1))).find? (fun l => from_ ≤ l)

/-- MPR_STATUS, MPR_ECC, MPR_FAULT as read (10). -/
def mprStatus (m : Mpr) : Nat :=
  packFields [(0, 8, m.chMask), (8, 2, m.speed), (10, 1, flag m.trained), (11, 1, flag m.keysReady), (16, 12, m.capacity)]

def mprEcc (m : Mpr) : Nat := packFields [(0, 32, m.corrected), (32, 16, m.retries), (48, 16, m.scrubPasses)]

def mprFault (m : Mpr) : Nat := match m.fault with
  | none => 0
  | some f => packFields [(0, 4, f.kind), (6, 35, f.line), (41, 4, f.range), (45, 3, f.channel), (48, 1, 1)]

/-- A population R365 supports (R366). -/
def dimmsOk (d : Dimms) : Bool :=
  (d.channels = 4 ∨ d.channels = 8) ∧ (d.perChannel = 1 ∨ d.perChannel = 2) ∧ 8 ≤ d.dimmGiB ∧ d.dimmGiB ≤ 128
    ∧ 32 ≤ d.channels * d.perChannel * d.dimmGiB ∧ d.channels * d.perChannel * d.dimmGiB ≤ 2048
    ∧ d.registered ∧ d.matched ∧ d.trained

end Sys2Proof.Machine
end

