-- ==== Sys2Proof/Machine/TypesUnits.lean ====
section
/-! DEFINITION. The types of the clusters: reeds, bellows, MAU, control store (04, 05, 06). -/

namespace Sys2Proof.Machine

/-- One frame of a reed's cluster shared memory (R145): the job page it holds, its bytes, whether it was modified, and
when it was last used (R147). -/
structure Frame where
  page : Option Nat
  data : Store 8
  dirty : Bool
  used : Nat
  deriving DecidableEq, Repr

/-- A send outstanding at the bellows port (R160): whether the result is one register or a group of four, the result,
the bellows that has it, the cycle from which it can be ready, and whether it is. -/
structure Send where
  group : Bool
  result : Bytes
  bellows : Nat
  readyAt : Nat
  ready : Bool
  deriving DecidableEq, Repr

/-- The architectural state of a reed (R128 to R137, R143, R145, R187 to R190). `ew` and `log2g` are the fields of VCFG;
`stack` has the newest return address first. -/
structure ReedCore where
  s : Store 64
  v : Store 512
  m : Store 256
  ew : Nat
  log2g : Nat
  vl : Nat
  qmod : BitVec 64
  gfpoly : BitVec 64
  trapElem : BitVec 64
  trapAddr : BitVec 64
  win : List Nat
  opmem : Store 8
  frames : List Frame
  clock : Nat
  lc : List (BitVec 16)
  stack : List Nat
  upc : Nat
  level : Nat
  entry : Nat
  send : Option Send
  deriving DecidableEq, Repr

/-- What one field of a microword reads and writes, for the collisions of R141 and R192: S0 to S31 are resources 0 to 31,
V0 to V31 are 32 to 63, M0 to M7 are 64 to 71. -/
structure FieldUse where
  field : Nat
  reads : List Nat
  writes : List Nat
  restarting : Bool
  deriving DecidableEq, Repr

/-- What TRET restores of a pending word (R198, R200): the fields already done, the beats its fields had issued, the next word, the scalar
operands its fields read at issue, and the entry of the trap. -/
structure Resume where
  done : Nat
  beat : Nat
  next : Nat
  entry : Nat
  latchV : BitVec 64
  latchMs : BitVec 64
  latchMt : BitVec 64
  deriving DecidableEq, Repr

/-- A microword at the sequencer: the reed as it stood before it (R141, R193); the fields that are empty or have acted, bits 0 to 4 as in
FIELD_DONE, 5 sequencing, 6 LCOP; whether it has issued or still waits; the cycle since which its send waits for a grant (R161), and the
bellows and cycle of the grant; and, for a word issued again by TRET, what its frame held. -/
structure Issue where
  before : ReedCore
  done : Nat
  issued : Bool
  since : Option Nat
  grant : Option (Nat × Nat)
  resume : Option Resume
  deriving DecidableEq, Repr

/-- Whether a reed issues words: it runs, stays at WAITI until the exhale (R187), waits for an inhale to resume
(R201), stays at a handler wait, or waits for a control-store block (R177). -/
inductive ReedRun where
  | idle | running | waiti | trapped | reload (block : Nat) | debug
  deriving DecidableEq, Repr

/-- Staging of a job page into a frame (R147). -/
structure Staging where
  page : Nat
  frame : Nat
  deriving DecidableEq, Repr

/-- A reed: its job, its state, the word at its sequencer, stagings under way, oldest first, the debugger's breakpoints (R194), and whether
its memories have a defect that fails the readback of a wipe (R173). -/
structure Reed where
  job : Option Nat
  routine : Nat
  run : ReedRun
  core : ReedCore
  issue : Option Issue
  staging : List Staging
  breakpoints : List Nat
  defect : Bool
  deriving DecidableEq, Repr

/-- The curve selected in a MAU (R231): none, a built-in by index, or a loaded one by its seven parameters. -/
inductive CurveSel where
  | none
  | builtin (x : Nat)
  | loaded (p a b gx gy n h : Nat)
  deriving DecidableEq, Repr

/-- A MAU operation named by MRUN (R231). -/
structure MauOp where
  op : Nat
  d : Nat
  x : Nat
  y : Nat
  deriving DecidableEq, Repr

/-- A MAU (R230 to R233): operand memory A0 to A14, modulus in force (0: none) and its width class, the curve, the
status word's flags, the operation started and whether its effect has been computed, the cycles it still takes, and
the instance of the last job it ran with the curve that job selected (R118, R233): `lastCurve` is its kind (0 none, 1 built-in,
2 loaded, 3 RSA) and `lastSlot` the built-in curve's index or the slot;
`lastKey` is the slot that job named. -/
structure Mau where
  mem : Store 8
  modulus : Nat
  wclass : Nat
  curve : CurveSel
  onCurve : Bool
  isZero : Bool
  probPrime : Bool
  curveOk : Bool
  op : Option MauOp
  acted : Bool
  left : Nat
  lastInst : Option Nat
  lastKey : Option Nat
  lastCurve : Nat
  lastSlot : Nat
  deriving DecidableEq, Repr

/-- Where a routine lies in a control store (R182). -/
structure Placed where
  rid : Nat
  base : Nat
  words : Nat
  deriving DecidableEq, Repr

/-- A cluster: muted, its control store with the six parity bits of each word (R181) and the routines in it, the inhale it entered its pool at
(R121), its key cache, most recent first (R119), its result FIFO of job numbers, oldest first (R126), the control-store blocks that had an
error and those under reload (R177), the cycle of the breath up to which each bellows takes a send and the reed, from 0 in the cluster, that was
granted last (R159, R160), and its MAU. -/
structure Cluster where
  muted : Bool
  cs : Store 192
  par : Store 6
  placed : List Placed
  entering : Option Nat
  keyCache : List (Nat × Nat)
  fifo : List Nat
  csErrors : List Nat
  reloading : List Nat
  bellows : List Nat
  granted : Nat
  mau : Mau
  deriving DecidableEq, Repr

/-- Charges and suspicion of units (R123, R179). A charge names the unit and the job, 0 where the job does not matter. -/
structure UnitHealth where
  muted : List UnitName
  charges : List (UnitName × Nat)
  clusterCharges : List (Nat × Nat)
  suspicion : List (UnitName × Nat)
  limit : Nat
  deriving DecidableEq, Repr

end Sys2Proof.Machine
end

