-- ==== Sys2Proof/Machine/TypesHost.lean ====
section
/-! DEFINITION. The types of the host side of the block: status codes, host ports, instances, queues, jobs, placement and
staged changes (01, 02, 03). -/

namespace Sys2Proof.Machine

/-- Completion status codes (R95). -/
inductive Status where
  | ok | okReplayed | idle | inputInvalid | pointNotOnCurve | paramRejected | signatureInvalid | tagMismatch
  | lengthOverrun | lengthUnderrun | lengthMismatch | keySlotCorrupt | keyPolicy | keyNotLoaded | vectorFault
  | aborted | instanceReset | budgetExceeded | rngNotReady | rngFailed | stateExhausted | reservationFailed
  | dmaFault | invariantFailed | deviceHalting
  deriving DecidableEq, Repr

/-- The operating modes and the terminal condition HALTED (R42). -/
inductive Mode where
  | boot | tune | service | shadow | migrate | recover | halted
  deriving DecidableEq, Repr

/-- A completion entry to be written to a ring, with the output written before it (R76, R92) and the breath in which its
submission was fetched. Once it has been issued `fence` says that its fence read is outstanding. -/
structure Compl where
  ring : Ring
  tag : BitVec 16
  status : Status
  outAddr : BitVec 64
  out : Bytes
  info : Nat
  breath : Nat
  gen : Nat
  fence : Bool
  fetched : Nat
  deriving DecidableEq, Repr

/-- A completion off the ladder waiting for its inhale: class 2, 3 or 4 of R127, the instance or port it is ordered by,
and the breath at whose inhale it is released. -/
structure Waiting where
  c : Compl
  cls : Nat
  key : Nat
  due : Nat
  deriving DecidableEq, Repr

/-- A queue pair as the device holds it: ring settings in force, the recorded tail, the device's head, entries written
to the completion ring and entries freed since the rings started, fetched submissions without a written
completion (R71, R76 to R82); a completion waiting on its fence read and the entries held behind it, whose output is written (R79, R92); the
completions that wait for their function to leave D3hot (R53); the ring's unsent MSI-X message and the breath of the last one sent (R80). -/
structure Qp where
  enable : Bool
  sqBase : BitVec 64
  cqBase : BitVec 64
  sqLog2 : Nat
  cqLog2 : Nat
  vector : Nat
  tail : Nat
  head : Nat
  wr : Nat
  freed : Nat
  out : Nat
  fence : Option Compl
  held : List Compl
  asleep : List Compl
  msgDue : Bool
  msgBreath : Option Nat
  shortTail : Option Nat
  deriving DecidableEq, Repr

/-- A fetched command entry of an admin queue or of queue 0 (R64): `params` are its bytes 24 to 63, `reserved` says its reserved
bytes 4 to 7 and 20 to 23 are zero, `started` that it is in execution and waits for an event. -/
structure Cmd where
  opcode : Nat
  tag : BitVec 16
  dataAddr : BitVec 64
  dataLen : Nat
  reserved : Bool
  params : Bytes
  gen : Nat
  fetched : Nat
  started : Bool
  deriving DecidableEq, Repr

/-- Commands fetched and not yet complete, oldest first, and the data read so far for the one at the front. -/
structure CmdQ where
  cmds : List Cmd
  data : Option Bytes
  deriving DecidableEq, Repr

/-- An MSI-X table entry: message address, message data, and the vector control dword's mask bit. -/
structure MsixEntry where
  addr : BitVec 64
  data : BitVec 32
  masked : Bool
  deriving DecidableEq, Repr

/-- The MSI-X structure of one function: entries that differ from the reset entry, and pending vectors. -/
structure Msix where
  table : Tbl MsixEntry
  pending : List Nat
  deriving DecidableEq, Repr

/-- What the device holds of a virtual function beside its instance. -/
structure Vf where
  msix : Msix
  d3hot : Bool
  deriving DecidableEq, Repr

/-- The registers and state of a PF's admin queue (R467). -/
structure Adm where
  sqBase : BitVec 64
  cqBase : BitVec 64
  sqLog2 : Nat
  cqLog2 : Nat
  vector : Nat
  qp : Qp
  cfgErr : Bool
  error : Bool
  errCause : Nat
  q : CmdQ
  deriving DecidableEq, Repr

/-- An ATS invalidation under way: the breath it was received in (R54). -/
structure AtsInv where
  fn : Nat
  breath : Nat
  deriving DecidableEq, Repr

/-- A host port (R52, R53, R102, R466) with its PF. `vfs` lists the virtual functions whose MSI-X table or power state
differs from its reset value. `mps` and `mrrs` are the codes of Max_Payload_Size and Max_Read_Request_Size (R88), 128 bytes doubled that many
times; `noAccess` are the pages, by function, whose last translation gave no access and which a write has not met yet (R54, R83). -/
structure HostPort where
  formed : Bool
  x16 : Bool
  width : Nat
  speed : Nat
  global : Bool
  totalVfs : Nat
  vfEnable : Bool
  pfD3hot : Bool
  adm : Adm
  haltVector : Nat
  haltArmed : Option (BitVec 64 × BitVec 32)
  msix : Msix
  vfs : Tbl Vf
  atsInv : List AtsInv
  mps : Nat
  mrrs : Nat
  noAccess : List (Nat × Nat)
  deriving DecidableEq, Repr

/-- The states of VFQ_ISTAT.STATE of a live instance (R63); FREE is the absence of an instance. -/
inductive InstState where
  | active | error | resetting
  deriving DecidableEq, Repr

/-- Who waits for a reset to complete: a command of a port's admin queue (its tag and fetch data), or none (a VF
FLR, VFQ_ICTL.RESET or R55). -/
structure ResetWait where
  port : Fin 8
  tag : BitVec 16
  destroy : Bool
  deriving DecidableEq, Repr

/-- A reset under way: its breath T (R86). -/
structure ResetRun where
  breath : Nat
  drained : Bool
  waiters : List ResetWait
  deriving DecidableEq, Repr

/-- An instance (R60 to R63). `bucket` is the token bucket of R89 in units of 1/73,728,000 byte. -/
structure Inst where
  port : Fin 8
  vf : Nat
  state : InstState
  drain : Bool
  flags : Nat
  errCause : Nat
  gen : Nat
  maxQueues : Nat
  maxSlots : Nat
  maxContexts : Nat
  maxStreams : Nat
  dmaShare : Nat
  nextShare : Option Nat
  poolShare : List Nat
  q0SqBase : BitVec 64
  q0CqBase : BitVec 64
  q0SqLog2 : Nat
  q0CqLog2 : Nat
  q0Vector : Nat
  queues : Tbl Qp
  lastQueue : Nat
  ctl : CmdQ
  bucket : Int
  reset : Option ResetRun
  deriving DecidableEq, Repr

/-- The opcodes of a work submission that make a job (R71). -/
inductive JobKind where
  | pk | routine | cipher | random | cancel
  deriving DecidableEq, Repr

/-- The unit classes of placement (R104, R115, R220). -/
inductive UnitClass where
  | reed | mau | gang
  deriving DecidableEq, Repr

/-- Where a job stands. `reading`: gather elements outstanding; `ready`: input whole, parse not done; `pending`: admitted,
not placed; `assigned`: picked in the exhale for the next inhale; `running`; `displaced` (R120); `replayWait` (R178);
`posted`: result in a cluster FIFO; `held`: result in the bell (R37); `aborting`: abort taken at the next exhale (R41);
`aborted`: wiped, completion due; `fence`: released, fence read outstanding (R92). -/
inductive Stage where
  | reading | ready | pending | assigned | running | displaced | replayWait | posted | held | aborting | aborted | fence
  deriving DecidableEq, Repr

/-- The unit a job occupies (R113, R219): a reed, a MAU with its coupled reed, or a gang by its clusters. -/
inductive JobUnit where
  | none
  | reed (r : Nat)
  | mau (c r : Nat)
  | gang (cs : List Nat)
  deriving DecidableEq, Repr

/-- A new secret to load into a slot at release (R213): handle, algorithm, usage, policy, material. -/
structure NewSecret where
  slot : Nat
  alg : Nat
  usage : Nat
  policy : Nat
  key : Bytes
  kind : Nat
  deriving DecidableEq, Repr

/-- What a job posted (R126). -/
structure JobResult where
  status : Status
  out : Bytes
  info : Nat
  secret : Option NewSecret
  deriving DecidableEq, Repr

/-- A strip of a record under seal, or a lookaside slice under echo (R256 to R258): whether it passed echo, the pipes of its sealing, those that failed it, and the
breath of its last sealing. -/
structure Strip where
  passed : Bool
  failed : Bool
  sealPipe : Nat
  echoPipe : Nat
  bad : List Nat
  breath : Nat
  deriving DecidableEq, Repr

/-- A lookaside cipher slice in flight (R276): the pipe and the bytes it works on; its echo, where the job sets ECHO (R257). -/
structure Slice where
  pipe : Nat
  bytes : Nat
  echo : Option Strip
  deriving DecidableEq, Repr

/-- A job of the job table (R71, R113, R207, R272, R356). Its number is its place in fetch order. `entry` is slot 0 of the
submission; `input` the gathered bytes so far; `rid` the routine; `pages` its job-space pages and `space` their bytes (R144);
`draws` the randomness drawn by RNDRD and `drawnAt` the breath of the last read (R239); `post` the cluster and order of its result in the FIFO (R126); `moveAt` the inhale from which
its cluster leaves its pool (R120); `saved` what a displaced job took from its units, nothing for a reed that had ended;
`replayed` says a parity error touched the job, `replays` counts its replays. Of a cipher job, `frame` is the epoch of the stream it was fetched
under with that epoch's key slot, `slice` the slice in flight, `done` the bytes worked on, `draws` its output so far, and `holds` says
that it was parsed and works in its context. -/
structure Job where
  inst : Nat
  queue : Nat
  tag : BitVec 16
  gen : Nat
  kind : JobKind
  entry : Bytes
  gather : List (BitVec 64 × Nat)
  input : Bytes
  breath : Nat
  stage : Stage
  pool : Nat
  cls : UnitClass
  budget : Nat
  start : Option Nat
  rung : Nat
  unit : JobUnit
  replayed : Bool
  replays : Nat
  replayAt : Nat
  abort : Option Status
  due : Nat
  result : Option JobResult
  leaf : Option Nat
  claim : Bool
  draws : Bytes
  drawnAt : Option Nat
  frame : Option (Nat × Nat)
  deferred : Bool
  slice : Option Slice
  done : Nat
  internal : Option (Nat × Nat)
  rid : Nat
  pages : Nat
  space : Store 8
  post : Option (Nat × Nat)
  moveAt : Option Nat
  saved : Option (List (Option ReedCore) × Mau)
  holds : Bool
  deriving DecidableEq, Repr

/-- The deficit counter of an instance in a pool for a unit class (R115). -/
structure Deficit where
  inst : Nat
  pool : Nat
  mau : Bool
  d : Nat
  deriving DecidableEq, Repr

/-- The kinds of staged changes (R399). -/
inductive ChangeKind where
  | chartDelta | fullChart | importDomain | officer | tuneEntry | escrowExport | escrowImport | grantClear
  | lcTransition | domainFound | domainAdmit | domainRotate | successorExport | rewrap | twinEnrol | debugGrant
  | migrate
  deriving DecidableEq, Repr

/-- Who staged a change: a port's admin queue, MCTP, the windchest mailbox or the custody mailbox (R68, R338, R401). -/
inductive Carrier where
  | port (p : Fin 8)
  | mctp
  | wch (p : Fin 8)
  | lcs (p : Fin 8)
  deriving DecidableEq, Repr

/-- A staged change (R67, R68): what it would do, the digest and nonce the officers sign, the breath of its expiry, and
the officer whose approval is held. -/
structure Change where
  kind : ChangeKind
  carrier : Carrier
  digest : Bytes
  nonce : Bytes
  expiry : Nat
  officer : Option Nat
  approval : Bytes
  data : Bytes
  params : Bytes
  deriving DecidableEq, Repr

end Sys2Proof.Machine
end

