-- ==== Sys2Proof/Machine/TypesChart.lean ====
section
/-! DEFINITION. The types of the fingering chart (03, with the sections of 05, 08, 09, 10, 11, 12), of placement and the bell. -/

namespace Sys2Proof.Machine

/-- A pool entry (R102 table, R103). -/
structure PoolCfg where
  id : Nat
  minMaus : Nat
  minReeds : Nat
  mask : Nat
  routines : List Nat
  deriving DecidableEq, Repr

/-- A ROUTINE section (R203): header fields and microwords. -/
structure RoutineSec where
  rid : Nat
  mauCoupled : Bool
  jobPages : Nat
  budget : Nat
  entry : Nat
  maxInput : Nat
  minOut : Nat
  words : List (BitVec 192)
  deriving DecidableEq, Repr

/-- A row of PIPE_GROUPS (R105). -/
structure PipeCounts where
  sealN : Nat
  unsealN : Nat
  echoN : Nat
  lookN : Nat
  resealN : Nat
  deriving DecidableEq, Repr

/-- A fabric port as its quad and its entry form it (R282, R283). -/
structure FabCfg where
  lanes : Nat
  role : Nat
  pfc : Bool
  macsec : Bool
  udp4 : Bool
  udp6 : Bool
  kr : Bool
  vid : Nat
  pcp : Nat
  tagged : Bool
  mac : BitVec 48
  ipv4 : BitVec 32
  ipv6 : BitVec 128
  deriving DecidableEq, Repr

/-- The PXT section (R292). -/
structure PxtCfg where
  etherType : Nat
  udpPort : Nat
  idleLog2 : Nat
  retryLog2 : Nat
  retryMax : Nat
  keepaliveLog2 : Nat
  nodeOps : Nat
  deriving DecidableEq, Repr

/-- A storage-node entry (R316). -/
structure NodeCfg where
  id : Nat
  weight : Nat
  port : Nat
  carriage : Nat
  mac : BitVec 48
  addr : BitVec 128
  deriving DecidableEq, Repr

/-- A storage-node table (R316). -/
structure NodeTable where
  gen : Nat
  nodes : List NodeCfg
  deriving DecidableEq, Repr

/-- A region entry of DDR_MAP (R368). -/
structure Region where
  kind : Nat
  range : Nat
  offset : Nat
  size : Nat
  deriving DecidableEq, Repr

/-- The DDR_MAP section (R368): (BASE, SIZE) of ranges 0 to 15. -/
structure DdrMap where
  ranges : List (Nat × Nat)
  scrubHours : Nat
  regions : List Region
  deriving DecidableEq, Repr

/-- A channel of the MONITORS section (R443). -/
structure MonCfg where
  source : Nat
  windowLog2 : Nat
  bins : Nat
  index : Nat
  limit : Nat
  deriving DecidableEq, Repr

/-- A chart as the device reads it (R96 to R98). `sections` keeps the (TYPE, value) list it was read from. -/
structure Chart where
  generation : Nat
  domainId : Nat
  log2Len : Nat
  unitEnable : Nat
  x16Mask : Nat
  globalMask : Nat
  relaxed : Bool
  ceilings : List Nat
  pools : List PoolCfg
  svc : PipeCounts
  mig : PipeCounts
  fabric : Tbl FabCfg
  pxt : Option PxtCfg
  nodes : Option NodeTable
  ddr : DdrMap
  conditioner : Nat
  monitors : List MonCfg
  twin : Bool
  suspicionLimit : Nat
  routines : List RoutineSec
  sections : List (Nat × Bytes)
  deriving DecidableEq, Repr

/-- An image in the SPI NOR chart store (R111): the approval message its officers signed, which holds the nonce, and their approvals by
officer index. -/
structure StoredImage where
  image : Bytes
  msg : Bytes
  approvals : List (Nat × Bytes)
  deriving DecidableEq, Repr

/-- A chart approved and waiting for its inhale (R29, R108, R112): the queue whose APPROVE waits for it, the section
types it brings, what CHANGE_APPLIED will say, and the number of the mirror record that carries it. -/
structure ChartWait where
  chart : Chart
  inhale : Nat
  types : List Nat
  approver : Option (Carrier × Nat)
  note : Bytes
  seq : Option Nat
  deriving DecidableEq, Repr

/-- A routine added to a pool's list by the delta that took effect at an inhale (R183). -/
structure RoutineAdd where
  pool : Nat
  rid : Nat
  inhale : Nat
  deriving DecidableEq, Repr

/-- Charts of the device (R98, R108 to R112): the chart in force, the SPI NOR store, an approved full chart and its
inhale, an approved delta's chart and its inhale I (R29), the routines that deltas lately added to pools (R183), and the inhale at which
TUNE is left (R108). -/
structure Charts where
  inForce : Option Chart
  full : Option StoredImage
  deltas : List StoredImage
  fullWait : Option ChartWait
  deltaWait : Option ChartWait
  adds : List RoutineAdd
  leaveTune : Option Nat
  deriving DecidableEq, Repr

/-- Staged changes by CHANGE_ID and the next CHANGE_ID (R67, log 6). -/
structure Changes where
  live : Tbl Change
  next : Nat
  deriving DecidableEq, Repr

/-- Placement (R115, R218): pointers by 2·pool + class, deficit counters, the start count of mceliece6960119, the ring whose
submission waits for job-space pages (R369), the order number of the next result to be posted, and queue fetches. -/
structure Plc where
  ptr : Tbl Nat
  deficits : List Deficit
  mcCount : Nat
  pageWait : Option Ring
  nextPost : Nat
  deriving DecidableEq, Repr

/-- The bell's registers (R126). -/
structure Bell where
  heldMax : Nat
  deriving DecidableEq, Repr

end Sys2Proof.Machine
end

