-- ==== Sys2Proof/Machine/TypesDev.lean ====
section
/-! DEFINITION. The types of the device level (01, 13): part, modes, halts, the breath, and what the block puts on its ports. -/

namespace Sys2Proof.Machine

/-- The parts of R4. -/
inductive Part where
  | xc | xe | lc
  deriving DecidableEq, Repr

/-- Mode transitions waiting for an inhale (R43). -/
inductive ModeReq where
  | recover | service | shadow | migrate
  deriving DecidableEq, Repr

/-- The device level (R42 to R49, R427, R451 to R456): PART, mode, the breath it was entered in, halt fields of DEV_MODE, the breath H of a controlled
halt and whether its flush is done, a waiting transition with its inhale, the breath Q of a quiesce, the inhale of an approved TUNE_ENTRY, whether
reset is held, whether BOOT is held by R366 or R441, pins and straps. -/
structure Dev where
  part : Part
  mode : Mode
  modeBreath : Nat
  prevMode : Nat
  haltCause : Nat
  haltImmediate : Bool
  halting : Bool
  haltBreath : Nat
  haltFlushed : Bool
  modeReq : Option (ModeReq × Nat)
  quiesce : Option Nat
  tuneReq : Option Nat
  held : Bool
  powerGood : Bool
  haltN : Bool
  bootHold : Bool
  mctpAddr : BitVec 3
  busSel : Bool
  deriving DecidableEq, Repr

/-- The breath (R26 to R32): LOG2_LEN, the length waiting for the inhale after TUNE, CLOCK_STEP and a step waiting for its
inhale, the counter, the cycle within the breath, whether the exhale has begun, and the latched high halves by port. -/
structure Brt where
  log2Len : Nat
  nextLog2 : Option Nat
  clockStep : Nat
  stepReq : Option Nat
  count : Nat
  cycle : Nat
  exhale : Bool
  latchHi : List (Option Nat)
  deriving DecidableEq, Repr

/-- What the block puts on its ports, in order (log 4). `ro` is the Relaxed Ordering attribute of a write; a read request is shown where its
data is taken. -/
inductive Out where
  | dmaWrite (p addr : Nat) (ro : Bool) (data : Bytes)
  | dmaRead (p fn addr len : Nat)
  | zeroRead (p addr : Nat)
  | atsRequest (p fn page : Nat)
  | msix (p vf vector : Nat) (addr : BitVec 64) (data : BitVec 32)
  | haltMsg (p : Nat) (addr : BitVec 64) (data : BitVec 32)
  | readData (v : Nat)
  | memData (data : Bytes)
  | atsDone (p vf : Nat)
  | frame (fport : Nat) (bytes : Bytes)
  | badFcs (fport : Nat)
  | pfc (fport prio : Nat) (xoff : Bool)
  | macsecSa (fport : Nat) (an : Nat)
  | macsecAsk (fport : Nat)
  | eapol (fport : Nat) (bs : Bytes)
  | twin (kind : Nat) (breath seq ackSeq : Nat) (body : Bytes)
  | twinAlive (level : Bool)
  | breathSync
  | mctp (status : Status) (body : Bytes)
  | mctpControl (code : Nat) (body : Bytes)
  | pldm (code : Nat) (body : Bytes)
  | event (eid : Byte) (body : Bytes)
  | jtag (data : Bytes)
  deriving DecidableEq, Repr

end Sys2Proof.Machine
end

