-- ==== Sys2Proof/Machine/ChartParse.lean ====
section
/-! DEFINITION. Reading and checking a chart image: R96 to R105, R186, R190, R203, R204, R214, R220, R282 to R284, R292, R316, R317,
R349, R368, R369, R409, R443, R444. A check that fails answers `none` (R99). -/

namespace Sys2Proof.Machine

/-! ### Header and sections (R96, R97) -/

/-- The header of an image. -/
structure ChartHeader where
  delta : Bool
  count : Nat
  generation : Nat
  base : Nat
  domainId : Nat
  deriving DecidableEq, Repr

/-- Read the 64-byte header (R96). -/
def chartHeader (b : Bytes) : Option ChartHeader :=
  let kind := le b 6 2
  if 64 ≤ b.length && le b 0 4 = 0x54484346 && le b 4 2 = 1 && kind ≤ 1 && le b 8 4 = b.length &&
      b.length ≤ (if kind = 1 then 2 ^ 20 else 2 ^ 24) && zeroAt b 32 32 && (kind = 1 || le b 20 4 = 0) then
    some ⟨kind = 1, le b 12 4, le b 16 4, le b 20 4, le b 24 8⟩
  else none

/-- Read `n` sections, which fill the rest of the image (R97). -/
def chartSections : Nat → Bytes → Option (List (Nat × Bytes))
  | 0, b => if b = [] then some [] else none
  | n + 1, b =>
    let len := le b 4 4
    let padded := roundUp len 8
    if 8 + padded ≤ b.length && zeroAt b 2 2 && zeroAt b (8 + len) (padded - len) then
      (chartSections n (b.drop (8 + padded))).map (fun r => (le b 0 2, slice b 8 len) :: r)
    else none

/-- ROUTINE's TYPE. -/
def secRoutine : Nat := 0x0100

/-- TYPEs ascend; only ROUTINE repeats, with ascending routine IDs (R97). -/
def sectionsOrdered : List (Nat × Bytes) → Bool
  | [] => true
  | [_] => true
  | (t, v) :: (u, w) :: rest =>
    (t < u || (t = secRoutine && u = secRoutine && le v 0 2 < le w 0 2)) && sectionsOrdered ((u, w) :: rest)

/-- Section TYPEs a full chart must hold (R98); the LC part omits the fabric sections (R6). -/
def requiredTypes (lc : Bool) : List Nat :=
  if lc then [1, 2, 3, 4, 5, 9, 0xA, 0xC, secRoutine] else [1, 2, 3, 4, 5, 6, 7, 8, 9, 0xA, 0xC, secRoutine]

/-- Section TYPEs an image may hold. -/
def allowedTypes (lc delta : Bool) : List Nat :=
  if delta then (if lc then [3, 4, 5, 0xB, 0xD] else [3, 4, 5, 8, 0xB, 0xD])
  else requiredTypes lc ++ [0xB, 0xD]

/-- The value of a section. -/
def sectionOf (l : List (Nat × Bytes)) (t : Nat) : Option Bytes := (l.find? (fun e => e.1 = t)).map (·.2)

/-! ### Host ports and ceilings (R101, R102) -/

/-- Number `k` is a port: its unit is enabled and is not the upper half of a x16 port (R52). -/
def isPort (unitEnable x16 k : Nat) : Bool := bitOf unitEnable k && !(k % 2 = 1 && bitOf x16 (k / 2))

/-- HOST_PORTS is well formed (R101). -/
def hostPortsOk (b : Bytes) : Bool :=
  let ue := byteAt b 0
  let xm := byteAt b 1
  let gm := byteAt b 2
  b.length = 8 && ue ≠ 0 && xm < 16 && byteAt b 3 < 2 && zeroAt b 4 4 && gm ≠ 0 &&
    (List.range 4).all (fun j => !bitOf xm j || (bitOf ue (2 * j) && bitOf ue (2 * j + 1))) &&
    (List.range 8).all (fun k => !bitOf gm k || isPort ue xm k)

/-- PORT_CEILINGS against the ports of the chart (R102). -/
def ceilingsOf (ue xm : Nat) (b : Bytes) : Option (List Nat) :=
  let cs := (List.range 8).map (fun k => le b (2 * k) 2)
  if b.length = 16 && (List.range 8).all (fun k => cs.getD k 0 = 0 || isPort ue xm k) && cs.sum ≤ 4096 then some cs else none

/-! ### Routines (R186, R190, R203, R204) -/

/-- Bits [hi : lo] of a microword (R184). -/
def mw (w : BitVec 192) (hi lo : Nat) : Nat := bitsOf w.toNat hi lo

/-- Vector codes of R150, with the fields each uses (R185): VD, VA, VB, VC, VK, VS, and whether it may be masked. -/
def vopUses (op : Nat) (ssel : Bool) : Option (List Nat × Bool) :=
  if op = 0x00 then some ([], false)
  else if (0x01 ≤ op ∧ op ≤ 0x06) ∨ op = 0x0B ∨ op = 0x0C then some ([0, 1, 2], true)
  else if 0x07 ≤ op ∧ op ≤ 0x0A then some (if ssel then [0, 1, 5] else [0, 1, 4], true)
  else if op = 0x0D then some ([0, 1], true)
  else if op = 0x0E then some ([0, 5], true)
  else if op = 0x0F then some ([0, 1, 5], false)
  else if 0x10 ≤ op ∧ op ≤ 0x12 then some ([0, 1, 2], true)
  else if op = 0x13 then some ([0, 1], true)
  else if op = 0x20 then some ([0, 1, 2, 3], true)
  else if op = 0x21 ∨ op = 0x22 then some ([0, 1, 2], true)
  else if op = 0x23 then some ([0, 1], true)
  else if op = 0x24 ∨ op = 0x25 then some ([1, 2, 3], true)
  else if op = 0x26 ∨ op = 0x27 then some ([1, 3, 4], true)
  else if op = 0x28 then some ([0, 1, 4], true)
  else if op = 0x29 then some ([0, 1, 2], true)
  else if op = 0x2A ∨ op = 0x2B then some ([0, 1, 5], true)
  else if op = 0x31 then some ([0, 1, 4, 5], false)
  else if 0x30 ≤ op ∧ op ≤ 0x35 then some ([0, 1, 4], true)
  else if 0x38 ≤ op ∧ op ≤ 0x3A then some ([0, 1, 2], true)
  else if op = 0x3B then some ([0, 1], true)
  else if op = 0x40 then some ([0, 5], false)
  else if 0x41 ≤ op ∧ op ≤ 0x43 then some ([0, 1, 2], false)
  else if 0x44 ≤ op ∧ op ≤ 0x46 then some ([0, 1], false)
  else none

/-- A code whose destination is a mask: R134 leaves ZERO nothing to do there. -/
def isCompare (op : Nat) : Bool := 0x10 ≤ op ∧ op ≤ 0x13

/-- The vector field obeys R186; ZERO is used only by a masked operation that writes elements (R133). -/
def vectorFieldOk (w : BitVec 192) : Bool :=
  let ssel : Bool := mw w 72 72 = 1
  match vopUses (mw w 40 33) ssel with
  | none => false
  | some (uses, masked) =>
    (uses.contains 0 || mw w 45 41 = 0) && (uses.contains 1 || mw w 50 46 = 0) && (uses.contains 2 || mw w 55 51 = 0) &&
      (uses.contains 3 || mw w 60 56 = 0) && (uses.contains 4 || mw w 71 66 = 0) && (uses.contains 5 || mw w 77 73 = 0) &&
      (!ssel || (7 ≤ mw w 40 33 && mw w 40 33 ≤ 0xA)) &&
      (masked || mw w 64 64 = 0) && (mw w 64 64 = 1 || (mw w 63 61 = 0 && mw w 65 65 = 0)) &&
      (!isCompare (mw w 40 33) || mw w 65 65 = 0)

/-- The control register indices of R135. -/
def csrListed (i : Nat) : Bool := i ≤ 5 || (8 ≤ i && i ≤ 0xB) || i = 0x10

/-- The scalar and loop-counter fields obey R186. -/
def scalarFieldOk (w : BitVec 192) : Bool :=
  let op := mw w 83 78
  let lcop := mw w 30 29
  let two : Bool := (1 ≤ op ∧ op ≤ 9) ∨ (0xC ≤ op ∧ op ≤ 0xE)
  let imm : Bool := op = 0xA ∨ op = 0xB ∨ op = 0xF ∨ op = 0x10 ∨ lcop = 1
  op ≤ 0x10 && lcop ≤ 3 &&
    (two || op = 0xA || op = 0xB || op = 0xF || mw w 88 84 = 0) &&
    (two || op = 0xA || op = 0x10 || lcop = 2 || mw w 93 89 = 0) &&
    (two || mw w 98 94 = 0) && (imm || mw w 114 99 = 0) && (op = 0xB || mw w 116 115 = 0) &&
    ((op ≠ 0xF && op ≠ 0x10) || (csrListed (mw w 106 99) && mw w 114 107 = 0)) &&
    (lcop ≠ 0 || mw w 32 31 = 0)

/-- The memory field obeys R186. -/
def memoryFieldOk (w : BitVec 192) : Bool :=
  let op := mw w 120 117
  op ≤ 0xB && ((op ≠ 0 && op ≠ 7 && op ≠ 8) || mw w 125 121 = 0) &&
    (op = 5 || op = 6 || mw w 130 126 = 0) && ((1 ≤ op && op ≤ 8) || mw w 135 131 = 0) &&
    (op = 3 || op = 4 || op = 7 || op = 8 || mw w 140 136 = 0) && (op = 5 || op = 6 || mw w 144 141 = 0) &&
    ((1 ≤ op && op ≤ 6) || mw w 148 148 = 0) && (mw w 148 148 = 1 || mw w 147 145 = 0) &&
    (op = 7 || op = 8 || mw w 156 149 = 0)

/-- The bellows and MAU port fields obey R186. -/
def portFieldsOk (w : BitVec 192) : Bool :=
  let bop := mw w 159 157
  let aop := mw w 172 170
  bop ≤ 4 && (bop ≠ 0 || mw w 164 160 = 0) && (bop = 2 || bop = 3 || mw w 169 165 = 0) &&
    aop ≤ 3 && (aop = 1 || aop = 2 || (mw w 177 173 = 0 && mw w 185 178 = 0)) && (aop = 3 || mw w 190 186 = 0) &&
    mw w 191 191 = 0

/-- The sequencing field obeys R186. -/
def seqFieldOk (count : Nat) (kernel : Bool) (w : BitVec 192) : Bool :=
  let sq := mw w 2 0
  let cond := mw w 21 17
  let jumps : Bool := sq = 1 ∨ sq = 2 ∨ sq = 3
  (if jumps then mw w 16 3 < count else mw w 16 3 = 0) && (cond = 0 || sq = 2) && cond ≤ 13 &&
    ((1 ≤ cond && cond ≤ 7) || cond = 12 || cond = 13 || mw w 26 22 = 0) &&
    (sq ≠ 5 || kernel) &&
    !(8 ≤ cond && cond ≤ 11 && mw w 30 29 ≠ 0 && mw w 32 31 = cond - 8)

/-- Every field of a word obeys R186. -/
def wordOk (count : Nat) (kernel : Bool) (w : BitVec 192) : Bool :=
  vectorFieldOk w && scalarFieldOk w && memoryFieldOk w && portFieldsOk w && seqFieldOk count kernel w

/-- The states a path goes to after a word: `none` where the path breaks R186 or R190. A state is a UPC and a call stack. -/
def pathNext (words : List (BitVec 192)) (st : Nat × List Nat) : Option (List (Nat × List Nat)) :=
  match words[st.1]? with
  | none => none
  | some w =>
    let t := mw w 16 3
    match mw w 2 0 with
    | 0 => some [(st.1 + 1, st.2)]
    | 1 => some [(t, st.2)]
    | 2 => some (if mw w 21 17 = 0 then [(t, st.2)] else [(t, st.2), (st.1 + 1, st.2)])
    | 3 => if 4 ≤ st.2.length || st.2.contains (st.1 + 1) then none else some [(t, (st.1 + 1) :: st.2)]
    | 4 => (match st.2 with
      | [] => none
      | r :: rest => some [(r, rest)])
    | 6 => some [(st.1 + 1, st.2)]
    | _ => some []

/-- Follow every path. A state is visited once and adds at most two; a routine of at most 16,384 words has fewer than 2^72 states of UPC and
four return addresses, so a fuel of 2^80 never runs out and the check is exact (R190). -/
def pathsOk (words : List (BitVec 192)) : Nat → List (Nat × List Nat) → List (Nat × List Nat) → Bool
  | 0, _, _ => false
  | _, [], _ => true
  | fuel + 1, st :: todo, seen =>
    if seen.contains st then pathsOk words fuel todo seen
    else match pathNext words st with
      | none => false
      | some next => pathsOk words fuel (next ++ todo) (st :: seen)

/-- Where paths start: the entry word, and in the trap kernel the handler entries too (R194). -/
def pathStarts (entry : Nat) (kernel : Bool) : List (Nat × List Nat) :=
  if kernel then (entry, []) :: (List.range 8).map (fun e => (0x80 * e, [])) else [(entry, [])]

/-- The bytes of a signature block (R203). -/
def sigBlockLen : Nat := 4723

/-- A ROUTINE section (R203, R204, R186, R190). -/
def routineOf (b : Bytes) : Option RoutineSec :=
  let rid := le b 0 2
  let kernel : Bool := rid = 0
  let n := le b 6 2
  let pages := byteAt b 3
  let inPages := ceilDiv (le b 12 4) 16384
  let words := (List.range n).map (fun i => BitVec.ofNat 192 (le b (64 + 24 * i) 24))
  let sigLen := if rid < 0x8000 then sigBlockLen else 0
  if b.length = 64 + 24 * n + sigLen && le b 10 2 = sigLen && byteAt b 2 < 2 && byteAt b 5 = 0 && zeroAt b 20 44 &&
      le b 8 2 < n &&
      (if kernel then zeroAt b 2 3 && le b 12 4 = 0 && le b 16 4 = 0 && n = 1024
        else 1 ≤ pages && pages ≤ 128 && 1 ≤ byteAt b 4 && 1 ≤ n && n ≤ 15360 && inPages < pages &&
          le b 16 4 ≤ (pages - inPages) * 16384) &&
      words.all (wordOk n kernel) && pathsOk words (2 ^ 80) (pathStarts (le b 8 2) kernel) [] then
    some ⟨rid, byteAt b 2 = 1, pages, byteAt b 4, le b 8 2, le b 12 4, le b 16 4, words⟩
  else none

/-- Both signatures of a library routine verify (R100, R204). -/
def routineSigned (b : Bytes) : Bool :=
  let signed := b.take (b.length - sigBlockLen)
  let sig := b.drop (b.length - sigBlockLen)
  0x8000 ≤ le b 0 2 || (Config.renotteMldsa 0 signed (sig.take 4627) && Config.renotteEcdsa 0 signed (sig.drop 4627))

/-- The routine runs on gangs (R210, R216). -/
def gangRoutine (rid : Nat) : Bool :=
  rid = 0x0321 || rid = 0x0324 || (0x0401 ≤ rid && rid ≤ 0x0447 && (rid % 16 = 1 || rid % 16 = 7) && 1 ≤ rid / 16 % 16) ||
    rid = 0x0511 || rid = 0x0521 || rid = 0x0531 || rid = 0x0541 || rid = 0x0537 || rid = 0x0547

/-- The unit class of a routine (R163, R210, R220). -/
def routineClass (r : RoutineSec) : UnitClass :=
  if gangRoutine r.rid then .gang
  else if r.mauCoupled || (0x1000 ≤ r.rid && r.rid < 0x1400) then .mau else .reed

/-- The budget of a routine at a breath length (R214). -/
def scaledBudget (log2Len : Nat) (r : RoutineSec) : Nat :=
  if r.rid < 0x8000 then ceilDiv (r.budget * 3840) (2 ^ log2Len - 256) else r.budget

/-! ### Pools (R103, R220) -/

/-- Read pool entries. -/
def poolEntries : Nat → Bytes → Option (List PoolCfg)
  | 0, b => if b = [] then some [] else none
  | n + 1, b =>
    let k := le b 16 2
    let listLen := roundUp (2 * k) 8
    if 24 + listLen ≤ b.length && 1 ≤ k && k ≤ 512 && zeroAt b 4 4 && zeroAt b 18 6 && zeroAt b (24 + 2 * k) (listLen - 2 * k) &&
        byteAt b 0 < 16 && byteAt b 1 ≤ 64 && 1 ≤ le b 2 2 && le b 2 2 ≤ 1024 then
      (poolEntries n (b.drop (24 + listLen))).map (fun r =>
        ⟨byteAt b 0, byteAt b 1, le b 2 2, le b 8 8, (List.range k).map (fun i => le b (24 + 2 * i) 2)⟩ :: r)
    else none

/-- A list of numbers rises strictly. -/
def rising : List Nat → Bool
  | [] => true
  | [_] => true
  | a :: b :: rest => a < b && rising (b :: rest)

/-- Clusters of a pool, ascending. -/
def maskClusters (mask : Nat) : List Nat := (List.range 64).filter (bitOf mask)

/-- A pool obeys R103, R214 and R220 with the routines of the chart; MIN_REEDS is held here to the reeds of its mask, muted or not (log 81). -/
def poolOk (log2Len : Nat) (rs : List RoutineSec) (p : PoolCfg) : Bool :=
  let found := p.routines.filterMap (fun i => rs.find? (fun r => r.rid = i))
  let clusters := (maskClusters p.mask).length
  let gangs := found.filter (fun r => gangRoutine r.rid)
  rising p.routines && !p.routines.contains 0 && found.length = p.routines.length &&
    (found.map (fun r => r.words.length)).sum ≤ 15360 && p.minReeds ≤ 16 * clusters &&
    (p.minMaus ≠ 0 || found.all (fun r => routineClass r ≠ .mau)) &&
    found.all (fun r => scaledBudget log2Len r ≤ 255) &&
    (gangs = [] || (gangs.length = found.length && clusters % 4 = 0 && p.minReeds % 64 = 0))

/-- POOLS (R103). -/
def poolsOf (log2Len : Nat) (rs : List RoutineSec) (b : Bytes) : Option (List PoolCfg) :=
  if 8 ≤ b.length && 1 ≤ byteAt b 0 && byteAt b 0 ≤ 16 && zeroAt b 1 7 then
    (poolEntries (byteAt b 0) (b.drop 8)).bind (fun ps =>
      if rising (ps.map PoolCfg.id) && ps.all (poolOk log2Len rs) &&
          (List.range 64).all (fun c => (ps.filter (fun p => bitOf p.mask c)).length ≤ 1) then some ps else none)
  else none

/-! ### Pipe groups, fabric, PXT, nodes (R105, R282 to R284, R292, R316, R317) -/

def pipeRow (b : Bytes) (off : Nat) : PipeCounts :=
  ⟨byteAt b off, byteAt b (off + 1), byteAt b (off + 2), byteAt b (off + 3), byteAt b (off + 4)⟩

def pipeSum (r : PipeCounts) : Nat := r.sealN + r.unsealN + r.echoN + r.lookN + r.resealN

/-- PIPE_GROUPS (R105); on the LC part no seal, unseal or re-seal pipes (R98). -/
def pipeGroupsOf (lc : Bool) (b : Bytes) : Option (PipeCounts × PipeCounts) :=
  let v := pipeRow b 0
  let m := pipeRow b 8
  if b.length = 16 && zeroAt b 5 3 && zeroAt b 13 3 && pipeSum v ≤ 96 && pipeSum m ≤ 96 && v.resealN = 0 &&
      (!lc || (v.sealN = 0 && v.unsealN = 0 && m.sealN = 0 && m.unsealN = 0 && m.resealN = 0)) then some (v, m) else none

/-- The lanes of the port that begins at a lane, 0 where none begins (R282). -/
def portLanes (mode k : Nat) : Nat :=
  if mode = 1 then (if k = 0 then 4 else 0) else if mode = 2 then (if k % 2 = 0 then 2 else 0) else if mode = 3 then 1 else 0

/-- A fabric port entry (R283). -/
def fabEntry (lanes : Nat) (b : Bytes) : FabCfg :=
  let fl := byteAt b 1
  let vl := le b 2 2
  ⟨lanes, byteAt b 0, bitOf fl 0, bitOf fl 1, bitOf fl 2, bitOf fl 3, bitOf fl 4, vl % 4096, bitsOf vl 14 12, bitOf vl 15,
    BitVec.ofNat 48 (be b 4 6), BitVec.ofNat 32 (be b 12 4), BitVec.ofNat 128 (be b 16 16)⟩

/-- A fabric port entry is well formed (R283, R284). -/
def fabEntryOk (lanes : Nat) (b : Bytes) : Bool :=
  if lanes = 0 then allZero b
  else
    let e := fabEntry lanes b
    e.role ≤ 2 && byteAt b 1 < 32 && zeroAt b 10 2 && (!e.macsec || e.role = 1) && (!e.udp4 || e.ipv4 ≠ 0) &&
      (!e.udp6 || e.ipv6 ≠ 0)

/-- FABRIC_PORTS (R282 to R284): the ports formed, by number; those of ROLE 0 are unused, and no MAC of theirs counts. -/
def fabricOf (b : Bytes) : Option (Tbl FabCfg) :=
  let mode (k : Nat) := byteAt b (k / 4)
  let lanes (k : Nat) := portLanes (mode k) (k % 4)
  let entry (k : Nat) := slice b (16 + 32 * k) 32
  let ports : Tbl FabCfg := ((List.range 64).filter (fun k => lanes k ≠ 0)).map (fun k => (k, fabEntry (lanes k) (entry k)))
  let used := ports.filter (fun e => e.2.role ≠ 0)
  if b.length = 2064 && (List.range 16).all (fun q => byteAt b q ≤ 3) &&
      (List.range 64).all (fun k => fabEntryOk (lanes k) (entry k)) &&
      decide ((used.map (fun e : Nat × FabCfg => e.2.mac)).Nodup) && used.any (fun e => e.2.role = 1) && used.any (fun e => e.2.role = 2) then
    some ports
  else none

/-- PXT (R292). -/
def pxtOf (b : Bytes) : Option PxtCfg :=
  let c : PxtCfg := ⟨le b 0 2, le b 2 2, byteAt b 4, byteAt b 5, byteAt b 6, byteAt b 7, byteAt b 8⟩
  if b.length = 16 && zeroAt b 9 7 && 0x0600 ≤ c.etherType && 1024 ≤ c.udpPort && 10 ≤ c.idleLog2 && c.idleLog2 ≤ 30 &&
      2 ≤ c.retryLog2 && c.retryLog2 ≤ 16 && 1 ≤ c.retryMax && c.retryMax ≤ 32 && 8 ≤ c.keepaliveLog2 &&
      c.keepaliveLog2 ≤ 24 && 1 ≤ c.nodeOps then some c else none

/-- A port accepts a carriage: 0 EtherType, 1 UDP over IPv4, 2 UDP over IPv6 (R293). -/
def carriageOk (f : FabCfg) (carriage : Nat) : Bool :=
  carriage = 0 || (carriage = 1 && f.udp4) || (carriage = 2 && f.udp6)

def nodeEntry (b : Bytes) : NodeCfg :=
  ⟨le b 0 4, byteAt b 4, byteAt b 5, byteAt b 6, BitVec.ofNat 48 (be b 8 6), BitVec.ofNat 128 (be b 16 16)⟩

/-- STORAGE_NODES (R316, R317). -/
def nodesOf (fabric : Tbl FabCfg) (b : Bytes) : Option NodeTable :=
  let n := le b 4 2
  let raw := (List.range n).map (fun i => slice b (16 + 32 * i) 32)
  let ns := raw.map nodeEntry
  if b.length = 16 + 32 * n && 1 ≤ n && n ≤ 4096 && zeroAt b 6 10 && raw.all (fun e => zeroAt e 7 1 && zeroAt e 14 2) &&
      rising (ns.map NodeCfg.id) &&
      ns.all (fun e => 1 ≤ e.id && e.id < 2 ^ 28 && 1 ≤ e.weight && e.weight ≤ 16 &&
        (match tblGet fabric e.port with
          | some f => f.role = 2 && carriageOk f e.carriage
          | none => false)) &&
      (ns.map NodeCfg.weight).sum ≤ 16384 then some ⟨le b 0 4, ns⟩ else none

/-! ### Memory, RNG, monitors, health, twin (R349, R368, R369, R409, R443) -/

/-- Least sizes of the region kinds, in 64 KiB units (R369). -/
def regionMin (kind : Nat) : Nat := [0, 65536, 4096, 4096, 64, 1280, 16, 16384, 16384, 256, 1024].getD kind 0

/-- Intervals given by (start, length) do not overlap. -/
def disjoint : List (Nat × Nat) → Bool
  | [] => true
  | (a, n) :: rest => rest.all (fun e => a + n ≤ e.1 || e.1 + e.2 ≤ a) && disjoint rest

/-- DDR_MAP (R368, R369); region MIGRATION is there exactly when there are re-seal groups. -/
def ddrMapOf (resealN : Nat) (b : Bytes) : Option DdrMap :=
  let ranges := (List.range 16).map (fun r => (le b (8 * r) 2, le b (8 * r + 2) 2))
  let n := byteAt b 129
  let raw := (List.range n).map (fun j => slice b (136 + 16 * j) 16)
  let regs := raw.map (fun e => (⟨byteAt e 0, byteAt e 1, le e 4 4, le e 8 4⟩ : Region))
  let kinds := if resealN = 0 then [1, 2, 3, 4, 5, 6, 7, 9, 10] else [1, 2, 3, 4, 5, 6, 7, 8, 9, 10]
  let rangeOfReg (g : Region) := ranges.getD g.range (0, 0)
  if b.length = 136 + 16 * n && (n = 9 || n = 10) && (List.range 16).all (fun r => zeroAt b (8 * r + 4) 4) &&
      1 ≤ byteAt b 128 && zeroAt b 130 6 && raw.all (fun e => zeroAt e 2 2 && zeroAt e 12 4) &&
      disjoint (ranges.filter (fun r => r.2 ≠ 0)) &&
      ((ranges.take 15).map (fun r => metaSize (rangeUnit * r.2))).sum ≤ rangeUnit * (ranges.getD 15 (0, 0)).2 &&
      kinds.all (fun k => (regs.filter (fun g => g.kind = k)).length = 1) && n = kinds.length &&
      regs.all (fun g => g.range ≤ 14 && regionMin g.kind ≤ g.size && g.offset + g.size ≤ 1024 * (rangeOfReg g).2) &&
      disjoint (regs.map (fun g => (1024 * (rangeOfReg g).1 + g.offset, g.size))) then
    some ⟨ranges, byteAt b 128, regs⟩
  else none

/-- A monitor source and index exist (R443, monitor source table). -/
def monSourceOk (source index : Nat) : Bool :=
  match source with
  | 0 => index = 0
  | 1 => index < 4096
  | 2 => index < 8 || (64 ≤ index && index < 128)
  | 3 => index < 32
  | 4 => index < 16
  | 5 => index = 0
  | 6 => index < 5
  | 7 => index < 16
  | 8 => index < 8
  | 9 => index < 64
  | _ => false

/-- The settings of a channel are good (R443, R444). -/
def monCfgOk (c : MonCfg) : Bool := monSourceOk c.source c.index && c.windowLog2 ≤ 31 && bitsOf c.bins 6 5 = 0

/-- MONITORS (R443). -/
def monitorsOf (b : Bytes) : Option (List MonCfg) :=
  let raw := (List.range 64).map (fun c => slice b (16 * c) 16)
  let cs := raw.map (fun e => (⟨byteAt e 0, byteAt e 1, byteAt e 2, le e 4 2, le e 8 4⟩ : MonCfg))
  if b.length = 1024 && raw.all (fun e => zeroAt e 3 1 && zeroAt e 6 2 && zeroAt e 12 4) && cs.all monCfgOk then some cs else none

/-- The channels when the section is absent (R443). -/
def monitorsDefault : List MonCfg :=
  (List.range 64).map (fun c => if c < 32 then ⟨3, 14, 2, c, 0xFFFFFFFF⟩ else ⟨0, 31, 0, 0, 0xFFFFFFFF⟩)

/-- A section of 8 bytes that holds one byte up to `hi`. -/
def oneByte (lo hi : Nat) (b : Bytes) : Option Nat :=
  if b.length = 8 && lo ≤ byteAt b 0 && byteAt b 0 ≤ hi && zeroAt b 1 7 then some (byteAt b 0) else none

/-! ### The whole image -/

/-- Map a list, all or nothing. -/
def allSome {α β : Type} (f : α → Option β) : List α → Option (List β)
  | [] => some []
  | a :: as => (f a).bind (fun b => (allSome f as).map (b :: ·))

/-- Build a chart from a full list of sections (R98). -/
def chartOf (lc : Bool) (generation domainId : Nat) (l : List (Nat × Bytes)) : Option Chart :=
  let get (t : Nat) : Bytes := (sectionOf l t).getD []
  if !((requiredTypes lc).all (fun t => (sectionOf l t).isSome) && l.all (fun e => (allowedTypes lc false).contains e.1) &&
      sectionsOrdered l) then none else
  let br := get 1
  if !(br.length = 1 && 10 ≤ byteAt br 0 && byteAt br 0 ≤ 14 && hostPortsOk (get 2)) then none else
  let hp := get 2
  (ceilingsOf (byteAt hp 0) (byteAt hp 1) (get 3)).bind fun ceilings =>
  (allSome routineOf ((l.filter (fun e => e.1 = secRoutine)).map (·.2))).bind fun rs =>
  if !(rs.any (fun r => r.rid = 0)) then none else
  (poolsOf (byteAt br 0) rs (get 4)).bind fun pools =>
  (pipeGroupsOf lc (get 5)).bind fun pg =>
  (if lc then some [] else fabricOf (get 6)).bind fun fabric =>
  (if lc then some none else (pxtOf (get 7)).map some).bind fun pxt =>
  (if lc then some none else (nodesOf fabric (get 8)).map some).bind fun nodes =>
  (ddrMapOf pg.2.resealN (get 9)).bind fun ddr =>
  (oneByte 0 1 (get 0xA)).bind fun conditioner =>
  (match sectionOf l 0xB with
    | none => some monitorsDefault
    | some b => monitorsOf b).bind fun monitors =>
  (oneByte 0 1 (get 0xC)).bind fun twin =>
  (match sectionOf l 0xD with
    | none => some 4
    | some b => oneByte 1 255 b).bind fun suspicion =>
  some ⟨generation, domainId, byteAt br 0, byteAt hp 0, byteAt hp 1, byteAt hp 2, byteAt hp 3 = 1, ceilings, pools, pg.1, pg.2,
    fabric, pxt, nodes, ddr, conditioner, monitors, twin = 1, suspicion, rs, l⟩

/-- What came of reading an image: bad form, a bad signature, or a chart. -/
inductive ChartRead where
  | bad
  | unsigned
  | good (h : ChartHeader) (c : Chart)
  deriving DecidableEq, Repr

/-- Replace the sections of a delta in those of its base, keeping TYPE order (R98). -/
def mergeSections (base delta : List (Nat × Bytes)) : List (Nat × Bytes) :=
  (base.map (fun e => match sectionOf delta e.1 with
    | some v => (e.1, if e.1 = secRoutine then e.2 else v)
    | none => e)) ++ []

/-- Add the sections of a delta whose TYPE the base lacks, in TYPE order. -/
def insertSection (l : List (Nat × Bytes)) (e : Nat × Bytes) : List (Nat × Bytes) :=
  if l.any (fun x => x.1 = e.1) then l
  else l.filter (fun x => x.1 < e.1) ++ e :: l.filter (fun x => e.1 < x.1)

/-- Read a full chart (R96 to R100). -/
def readFullChart (lc : Bool) (b : Bytes) : ChartRead :=
  match chartHeader b with
  | none => .bad
  | some h =>
    if h.delta || h.generation = 0 then .bad
    else match (chartSections h.count (b.drop 64)).bind (chartOf lc h.generation h.domainId) with
      | none => .bad
      | some c =>
        if (c.sections.filter (fun e => e.1 = secRoutine)).all (fun e => routineSigned e.2) then .good h c else .unsigned

/-- Read a delta against the chart it applies to (R98, R109). -/
def readDelta (lc : Bool) (base : Chart) (b : Bytes) : ChartRead :=
  match chartHeader b with
  | none => .bad
  | some h =>
    if !h.delta then .bad
    else match chartSections h.count (b.drop 64) with
      | none => .bad
      | some l =>
        if sectionsOrdered l && l.all (fun e => (allowedTypes lc true).contains e.1) then
          match chartOf lc h.generation base.domainId (l.foldl insertSection (mergeSections base.sections l)) with
          | none => .bad
          | some c => .good h c
        else .bad

end Sys2Proof.Machine
end

