-- ==== Sys2Proof/Machine/Curves.lean ====
section
/-! DEFINITION. Modular arithmetic and elliptic curves of the MAU (R231): built-in curve constants of SP 800-186, RFC 5639
and RFC 7748/8032, and affine point arithmetic. -/

namespace Sys2Proof.Machine

/-- b^e mod m by squaring over `fuel` bits of e. -/
def powModFuel : Nat → Nat → Nat → Nat → Nat → Nat
  | 0, _, _, _, acc => acc
  | n + 1, b, e, m, acc => powModFuel n (b * b % m) (e / 2) m (if e % 2 = 1 then acc * b % m else acc)

/-- b^e mod m. -/
def powMod (b e m : Nat) : Nat := powModFuel (if e = 0 then 0 else Nat.log2 e + 1) (b % m) e m (1 % m)

/-- The inverse modulo a prime. -/
def invMod (x p : Nat) : Nat := powMod x (p - 2) p

/-- (a - b) mod p. -/
def subModP (a b p : Nat) : Nat := (a % p + (p - b % p)) % p

/-- A short Weierstrass curve with its generator, order and cofactor. -/
structure Weierstrass where
  p : Nat
  a : Nat
  b : Nat
  gx : Nat
  gy : Nat
  n : Nat
  h : Nat
  deriving DecidableEq, Repr

/-- A point: `none` is the point at infinity. -/
abbrev Point := Option (Nat × Nat)

/-- y² = x³ + ax + b mod p. -/
def wOn (c : Weierstrass) (x y : Nat) : Bool := y * y % c.p = (x * x * x + c.a * x + c.b) % c.p

/-- Point addition over a prime field: the inverse is Fermat's. Nothing takes a result of it over a composite p (log 17). -/
def wAdd (c : Weierstrass) : Point → Point → Point
  | none, q => q
  | p, none => p
  | some (x1, y1), some (x2, y2) =>
    if x1 % c.p = x2 % c.p ∧ (y1 + y2) % c.p = 0 then none
    else
      let l := if x1 % c.p = x2 % c.p then (3 * x1 * x1 + c.a) * invMod (2 * y1) c.p % c.p
        else subModP y2 y1 c.p * invMod (subModP x2 x1 c.p) c.p % c.p
      let x := subModP (l * l) (x1 + x2) c.p
      some (x, subModP (l * subModP x1 x c.p) y1 c.p)

/-- Double and add over `fuel` bits. -/
def wMulFuel (c : Weierstrass) : Nat → Nat → Point → Point → Point
  | 0, _, _, acc => acc
  | n + 1, k, q, acc => wMulFuel c n (k / 2) (wAdd c q q) (if k % 2 = 1 then wAdd c acc q else acc)

/-- k · Q. -/
def wMul (c : Weierstrass) (k : Nat) (q : Point) : Point := wMulFuel c (if k = 0 then 0 else Nat.log2 k + 1) k q none

/-- A built-in curve (R231). -/
def curveP256 : Weierstrass where
  p := 0xffffffff00000001000000000000000000000000ffffffffffffffffffffffff
  a := 0xffffffff00000001000000000000000000000000fffffffffffffffffffffffc
  b := 0x5ac635d8aa3a93e7b3ebbd55769886bc651d06b0cc53b0f63bce3c3e27d2604b
  gx := 0x6b17d1f2e12c4247f8bce6e563a440f277037d812deb33a0f4a13945d898c296
  gy := 0x4fe342e2fe1a7f9b8ee7eb4a7c0f9e162bce33576b315ececbb6406837bf51f5
  n := 0xffffffff00000000ffffffffffffffffbce6faada7179e84f3b9cac2fc632551
  h := 1

/-- A built-in curve (R231). -/
def curveP384 : Weierstrass where
  p := 0xfffffffffffffffffffffffffffffffffffffffffffffffffffffffffffffffeffffffff0000000000000000ffffffff
  a := 0xfffffffffffffffffffffffffffffffffffffffffffffffffffffffffffffffeffffffff0000000000000000fffffffc
  b := 0xb3312fa7e23ee7e4988e056be3f82d19181d9c6efe8141120314088f5013875ac656398d8a2ed19d2a85c8edd3ec2aef
  gx := 0xaa87ca22be8b05378eb1c71ef320ad746e1d3b628ba79b9859f741e082542a385502f25dbf55296c3a545e3872760ab7
  gy := 0x3617de4a96262c6f5d9e98bf9292dc29f8f41dbd289a147ce9da3113b5f0b8c00a60b1ce1d7e819d7a431d7c90ea0e5f
  n := 0xffffffffffffffffffffffffffffffffffffffffffffffffc7634d81f4372ddf581a0db248b0a77aecec196accc52973
  h := 1

/-- A built-in curve (R231). -/
def curveP521 : Weierstrass where
  p := 0x1ffffffffffffffffffffffffffffffffffffffffffffffffffffffffffffffffffffffffffffffffffffffffffffffffffffffffffffffffffffffffffffffffff
  a := 0x1fffffffffffffffffffffffffffffffffffffffffffffffffffffffffffffffffffffffffffffffffffffffffffffffffffffffffffffffffffffffffffffffffc
  b := 0x51953eb9618e1c9a1f929a21a0b68540eea2da725b99b315f3b8b489918ef109e156193951ec7e937b1652c0bd3bb1bf073573df883d2c34f1ef451fd46b503f00
  gx := 0xc6858e06b70404e9cd9e3ecb662395b4429c648139053fb521f828af606b4d3dbaa14b5e77efe75928fe1dc127a2ffa8de3348b3c1856a429bf97e7e31c2e5bd66
  gy := 0x11839296a789a3bc0045c8a5fb42c7d1bd998f54449579b446817afbd17273e662c97ee72995ef42640c550b9013fad0761353c7086a272c24088be94769fd16650
  n := 0x1fffffffffffffffffffffffffffffffffffffffffffffffffffffffffffffffffa51868783bf2f966b7fcc0148f709a5d03bb5c9b8899c47aebb6fb71e91386409
  h := 1

/-- A built-in curve (R231). -/
def curveBp256 : Weierstrass where
  p := 0xa9fb57dba1eea9bc3e660a909d838d726e3bf623d52620282013481d1f6e5377
  a := 0x7d5a0975fc2c3057eef67530417affe7fb8055c126dc5c6ce94a4b44f330b5d9
  b := 0x26dc5c6ce94a4b44f330b5d9bbd77cbf958416295cf7e1ce6bccdc18ff8c07b6
  gx := 0x8bd2aeb9cb7e57cb2c4b482ffc81b7afb9de27e1e3bd23c23a4453bd9ace3262
  gy := 0x547ef835c3dac4fd97f8461a14611dc9c27745132ded8e545c1d54c72f046997
  n := 0xa9fb57dba1eea9bc3e660a909d838d718c397aa3b561a6f7901e0e82974856a7
  h := 1

/-- A built-in curve (R231). -/
def curveBp384 : Weierstrass where
  p := 0x8cb91e82a3386d280f5d6f7e50e641df152f7109ed5456b412b1da197fb71123acd3a729901d1a71874700133107ec53
  a := 0x7bc382c63d8c150c3c72080ace05afa0c2bea28e4fb22787139165efba91f90f8aa5814a503ad4eb04a8c7dd22ce2826
  b := 0x4a8c7dd22ce28268b39b55416f0447c2fb77de107dcd2a62e880ea53eeb62d57cb4390295dbc9943ab78696fa504c11
  gx := 0x1d1c64f068cf45ffa2a63a81b7c13f6b8847a3e77ef14fe3db7fcafe0cbd10e8e826e03436d646aaef87b2e247d4af1e
  gy := 0x8abe1d7520f9c2a45cb1eb8e95cfd55262b70b29feec5864e19c054ff99129280e4646217791811142820341263c5315
  n := 0x8cb91e82a3386d280f5d6f7e50e641df152f7109ed5456b31f166e6cac0425a7cf3ab6af6b7fc3103b883202e9046565
  h := 1

/-- A built-in curve (R231). -/
def curveBp512 : Weierstrass where
  p := 0xaadd9db8dbe9c48b3fd4e6ae33c9fc07cb308db3b3c9d20ed6639cca703308717d4d9b009bc66842aecda12ae6a380e62881ff2f2d82c68528aa6056583a48f3
  a := 0x7830a3318b603b89e2327145ac234cc594cbdd8d3df91610a83441caea9863bc2ded5d5aa8253aa10a2ef1c98b9ac8b57f1117a72bf2c7b9e7c1ac4d77fc94ca
  b := 0x3df91610a83441caea9863bc2ded5d5aa8253aa10a2ef1c98b9ac8b57f1117a72bf2c7b9e7c1ac4d77fc94cadc083e67984050b75ebae5dd2809bd638016f723
  gx := 0x81aee4bdd82ed9645a21322e9c4c6a9385ed9f70b5d916c1b43b62eef4d0098eff3b1f78e2d0d48d50d1687b93b97d5f7c6d5047406a5e688b352209bcb9f822
  gy := 0x7dde385d566332ecc0eabfa9cf7822fdf209f70024a57b1aa000c55b881f8111b2dcde494a5f485e5bca4bd88a2763aed1ca2b2fa8f0540678cd1e0f3ad80892
  n := 0xaadd9db8dbe9c48b3fd4e6ae33c9fc07cb308db3b3c9d20ed6639cca70330870553e5c414ca92619418661197fac10471db1d381085ddaddb58796829ca90069
  h := 1

/-- An Edwards curve a·x² + y² = 1 + d·x²·y². -/
structure Edwards where
  p : Nat
  a : Nat
  d : Nat
  gx : Nat
  gy : Nat
  n : Nat
  deriving DecidableEq, Repr

/-- Ed25519 and Ed448 (RFC 8032). -/
def curveEd25519 : Edwards where
  p := 2 ^ 255 - 19
  a := 2 ^ 255 - 20
  d := 37095705934669439343138083508754565189542113879843219016388785533085940283555
  gx := 15112221349535400772501151409588531511454012693041857206046113283949847762202
  gy := 46316835694926478169428394003475163141307993866256225615783033603165251855960
  n := 2 ^ 252 + 27742317777372353535851937790883648493

def curveEd448 : Edwards where
  p := 2 ^ 448 - 2 ^ 224 - 1
  a := 1
  d := 2 ^ 448 - 2 ^ 224 - 1 - 39081
  gx := 0x4f1970c66bed0ded221d15a622bf36da9e146570470f1767ea6de324a3d3a46412ae1af72ab66511433b80e18b00938e2626a82bc70cc05e
  gy := 0x693f46716eb6bc248876203756c9c7624bea73736ca3984087789c1e05a0c2d73ad3ff1ce67c39c4fdbd132c4ed7c8ad9808795bf230fa14
  n := 2 ^ 446 - 0x8335dc163bb124b65129c96fde933d8d723a70aadc873d6d54a7bb0d

def eOn (c : Edwards) (x y : Nat) : Bool :=
  (c.a * (x * x) + y * y) % c.p = (1 + c.d * (x * x % c.p) * (y * y % c.p)) % c.p

/-- The complete addition law. -/
def eAdd (c : Edwards) (u v : Nat × Nat) : Nat × Nat :=
  let t := c.d * (u.1 * v.1 % c.p) * (u.2 * v.2 % c.p) % c.p
  ((u.1 * v.2 + v.1 * u.2) * invMod (1 + t) c.p % c.p,
   subModP (u.2 * v.2) (c.a * (u.1 * v.1 % c.p)) c.p * invMod (subModP 1 t c.p) c.p % c.p)

def eMulFuel (c : Edwards) : Nat → Nat → Nat × Nat → Nat × Nat → Nat × Nat
  | 0, _, _, acc => acc
  | n + 1, k, q, acc => eMulFuel c n (k / 2) (eAdd c q q) (if k % 2 = 1 then eAdd c acc q else acc)

def eMul (c : Edwards) (k : Nat) (q : Nat × Nat) : Nat × Nat :=
  eMulFuel c (if k = 0 then 0 else Nat.log2 k + 1) k q (0, 1)

/-- A Montgomery curve v² = u³ + A·u² + u, used x-only. -/
structure Montgomery where
  p : Nat
  a : Nat
  deriving DecidableEq, Repr

def curve25519 : Montgomery where
  p := 2 ^ 255 - 19
  a := 486662

def curve448 : Montgomery where
  p := 2 ^ 448 - 2 ^ 224 - 1
  a := 156326

/-- u³ + A·u² + u is a square in the field (R232). -/
def mOn (c : Montgomery) (u : Nat) : Bool :=
  let r := powMod ((u * u * u + c.a * u * u + u) % c.p) ((c.p - 1) / 2) c.p
  r = 0 ∨ r = 1

/-- One step of the Montgomery ladder on (x2 : z2) and (x3 : z3) for base u (RFC 7748). -/
def mStep (c : Montgomery) (u : Nat) (bit : Bool) (s : (Nat × Nat) × (Nat × Nat)) : (Nat × Nat) × (Nat × Nat) :=
  let (p2, p3) := if bit then (s.2, s.1) else s
  let p := c.p
  let a := (p2.1 + p2.2) % p
  let aa := a * a % p
  let b := subModP p2.1 p2.2 p
  let bb := b * b % p
  let e := subModP aa bb p
  let cc := (p3.1 + p3.2) % p
  let d := subModP p3.1 p3.2 p
  let da := d * a % p
  let cb := cc * b % p
  let x3 := (da + cb) * (da + cb) % p
  let z3 := u * (subModP da cb p * subModP da cb p) % p
  let x2 := aa * bb % p
  let z2 := e * ((aa + (c.a - 2) / 4 * e) % p) % p
  if bit then ((x3, z3), (x2, z2)) else ((x2, z2), (x3, z3))

/-- The u-coordinate of k times the point of u; 0 for the point at infinity. -/
def mMul (c : Montgomery) (k u : Nat) : Nat :=
  let n := if k = 0 then 0 else Nat.log2 k + 1
  let r := (List.range n).foldl (fun s i => mStep c (u % c.p) (k.testBit (n - 1 - i)) s) ((1, 0), (u % c.p, 1))
  r.1.1 * invMod r.1.2 c.p % c.p

end Sys2Proof.Machine
end

