-- ==== Sys2Proof/Machine/MauOps.lean ====
section
/-! DEFINITION. The MAU (R230 to R232): operand registers, the operations and the cycles they take. -/

namespace Sys2Proof.Machine

/-- Operand register A[n] (R230). -/
def mauReg (u : Mau) (n : Nat) : Nat := leNat (storeRead u.mem (1024 * n) 1024)

/-- Write operand register A[n]; bytes above the value's width are zero. -/
def mauSetReg (u : Mau) (n x : Nat) : Mau := { u with mem := storeWrite u.mem (1024 * n) (leBytes 1024 x) }

/-- The width class of a modulus: 0 W256 to 7 W8192 (R232). -/
def widthClass (m : Nat) : Nat :=
  let n := if m = 0 then 0 else Nat.log2 m + 1
  if n ≤ 256 then 0 else if n ≤ 384 then 1 else if n ≤ 576 then 2 else if n ≤ 1024 then 3 else if n ≤ 1536 then 4
  else if n ≤ 2048 then 5 else if n ≤ 4096 then 6 else 7

/-- Bits of a width class. -/
def classBits (c : Nat) : Nat := [256, 384, 576, 1024, 1536, 2048, 4096, 8192].getD c 8192

/-- The status word at 0x3C00 (R230). -/
def mauStatus (u : Mau) : Nat :=
  packFields [(0, 1, flag u.onCurve), (1, 1, flag u.isZero), (2, 1, flag u.probPrime), (3, 1, flag u.curveOk),
    (4, 4, (Config.widthClassCode (if u.modulus = 0 then 8 else u.wclass)).toNat)]

/-- A byte of MAU operand memory as MGET reads it: the control area holds the status word and zeros. -/
def mauByte (u : Mau) (a : Nat) : Byte :=
  if a < 0x3C00 then storeGet u.mem a else (leBytes 8 (mauStatus u)).getD (a - 0x3C00) 0

/-- The built-in Weierstrass curves by index (R231). -/
def builtinW (x : Nat) : Option Weierstrass :=
  if x = 0 then some curveP256 else if x = 1 then some curveP384 else if x = 2 then some curveP521
  else if x = 7 then some curveBp256 else if x = 8 then some curveBp384 else if x = 9 then some curveBp512 else none

def builtinE (x : Nat) : Option Edwards := if x = 4 then some curveEd25519 else if x = 6 then some curveEd448 else none
def builtinM (x : Nat) : Option Montgomery := if x = 3 then some curve25519 else if x = 5 then some curve448 else none

/-- The selected curve as a Weierstrass curve, built-in or loaded. -/
def selW : CurveSel → Option Weierstrass
  | .none => none
  | .builtin x => builtinW x
  | .loaded p a b gx gy n h => some ⟨p, a, b, gx, gy, n, h⟩

def selE : CurveSel → Option Edwards
  | .builtin x => builtinE x
  | _ => none

def selM : CurveSel → Option Montgomery
  | .builtin x => builtinM x
  | _ => none

/-- The curve has one coordinate only. -/
def xOnly (c : CurveSel) : Bool := (selM c).isSome

/-- Every register an operation reads or writes, by whether the curve selected has one coordinate only (R231). -/
def mauRegs (single : Bool) (o : MauOp) : List Nat :=
  match o.op with
  | 0 => [o.x]
  | 1 | 2 | 3 | 4 | 5 => [o.d, o.x, o.y]
  | 6 => [o.d, o.x]
  | 7 => if o.x = 15 then [o.y, o.y + 6] else []
  | 8 => [o.d, o.d + 1, o.x]
  | 9 => [o.d, o.d + 1, o.x, o.y, o.y + 1]
  | 10 => if single then [o.x] else [o.x, o.x + 1]
  | 11 => [o.d, o.d + 1, o.x, o.x + 1, o.y, o.y + 1]
  | 12 => if o.x = 15 then [] else [o.x]
  | _ => []

/-- An arithmetic operation needs a modulus, a point operation a curve (R231). CHECKCURVE, which works on the selected curve, is counted
among the point operations (DEDUCED, log 17): with none selected it faults with PORT as they do. -/
def mauNeedsModulus (o : MauOp) : Bool := (1 ≤ o.op ∧ o.op ≤ 6) ∨ (o.op = 12 ∧ o.x ≠ 15)
def mauNeedsCurve (o : MauOp) : Bool := (8 ≤ o.op ∧ o.op ≤ 11) ∨ o.op = 13

/-- MRUN faults with cause PORT whatever modulus and curve the MAU has (R231). -/
def mauPortNever (single : Bool) (o : MauOp) : Bool :=
  decide (o.op = 15) || (mauRegs single o).any (fun r => r > 14) || decide (o.op = 7 ∧ 10 ≤ o.x ∧ o.x ≤ 14)

/-- MRUN faults with cause PORT (R231). -/
def mauPortBad (u : Mau) (o : MauOp) : Bool :=
  mauPortNever (xOnly u.curve) o || (mauNeedsModulus o && decide (u.modulus = 0)) || (mauNeedsCurve o && decide (u.curve = .none))

/-- The MRUN scalar's fields (R231). -/
def mauOpOf (s : Nat) : MauOp := ⟨bitsOf s 3 0, bitsOf s 7 4, bitsOf s 11 8, bitsOf s 15 12⟩

/-- Cycles of MMUL, of MEXP and of MEXPS by width class (R232). -/
def mmulCycles (c : Nat) : Nat := [8, 12, 20, 40, 80, 96, 104, 168].getD c 168
def mexpCycles (c : Nat) : Nat := [2048, 4608, 11520, 40960, 122880, 196608, 425984, 1376256].getD c 1376256
def mexpsCycles (c : Nat) : Nat := [512, 768, 1280, 2560, 5120, 6144, 6656, 10752].getD c 10752

/-- Cycles of SMULG, of SMUL, and of ONCURVE and PADD for the selected curve (R232). A loaded curve's class goes by p. -/
def curveCycles (c : CurveSel) : Nat × Nat × Nat :=
  match c with
  | .builtin 0 => (6144, 20480, 64)
  | .builtin 1 => (12288, 40960, 96)
  | .builtin 2 => (30720, 102400, 160)
  | .builtin 7 => (8192, 24576, 64)
  | .builtin 8 => (16384, 55296, 96)
  | .builtin 9 => (40960, 138240, 160)
  | .builtin 4 => (5120, 17408, 64)
  | .builtin 3 => (17408, 17408, 2048)
  | .builtin 6 => (17920, 66560, 160)
  | .builtin 5 => (66560, 66560, 11520)
  | .loaded p _ _ _ _ _ _ =>
    let k := widthClass p
    if k = 0 then (24576, 24576, 64) else if k = 1 then (55296, 55296, 96) else (138240, 138240, 160)
  | _ => (0, 0, 0)

/-- The cycles a MAU operation takes: by operation and width class or curve, never by operand value (R232). -/
def mauCycles (u : Mau) (o : MauOp) : Nat :=
  let k := u.wclass
  match o.op with
  | 0 => 8 * mmulCycles (widthClass (mauReg u o.x))
  | 1 => mmulCycles k
  | 2 | 3 => if k ≤ 2 then 4 else 8
  | 4 | 6 => mexpCycles k
  | 5 => mexpsCycles k
  | 7 => if o.x = 15 then 2048 else 256
  | 8 => (curveCycles u.curve).1
  | 9 => (curveCycles u.curve).2.1
  | 10 | 11 => (curveCycles u.curve).2.2
  | 12 => if o.x = 15 then 8 else mexpCycles k
  | 13 => (curveCycles u.curve).2.1 + 256
  | 14 => 64
  | _ => 0

/-- The number of an `fr`-th free value of a coordinate's size: where a result is unstated (log 1). -/
def freeCoord (fr : Nat) : Nat := (Config.freeWord 576 fr).toNat

/-- (x, y) lies on the selected curve; on an x-only curve u alone is tested (R231). -/
def onSel (c : CurveSel) (x y : Nat) : Bool :=
  match selW c, selE c, selM c with
  | some w, _, _ => wOn w x y
  | _, some e, _ => eOn e x y
  | _, _, some m => mOn m x
  | _, _, _ => false

/-- A point result and whether it is the neutral element; free coordinates where the result is unstated. -/
structure PointRes where
  x : Nat
  y : Nat
  zero : Bool

/-- The coordinates of the point at infinity are unstated: free values; its flag is set. -/
def pointRes (fr : Nat) : Point → PointRes
  | some (x, y) => ⟨x, y, false⟩
  | none => ⟨freeCoord fr, freeCoord (fr + 1), true⟩

def freePoint (fr : Nat) : PointRes := ⟨freeCoord fr, freeCoord (fr + 1), freeCoord fr = 0⟩

/-- No number from 2 to `k` divides `n`. -/
def noDivisor (n : Nat) : Nat → Bool
  | 0 => true
  | k + 1 => (k + 1 < 2 || n % (k + 1) ≠ 0) && noDivisor n k

/-- A number is prime. -/
def primeNat (n : Nat) : Bool := decide (2 ≤ n) && noDivisor n (n - 1)

/-- The selected curve lies over a prime field. A loaded curve over a composite p has no group law stated: its point results are free (log 17). -/
def selPrime : CurveSel → Bool
  | .loaded p _ _ _ _ _ _ => primeNat p
  | _ => true

/-- k · (x, y) on the selected curve. A point off the curve has no stated product, nor has any point over a composite p: free values (log 17). -/
def selMul (c : CurveSel) (fr k x y : Nat) : PointRes :=
  if !selPrime c then freePoint fr
  else match selW c, selE c, selM c with
  | some w, _, _ => if wOn w x y then pointRes fr (wMul w k (some (x % w.p, y % w.p))) else freePoint fr
  | _, some e, _ =>
    if eOn e x y then let r := eMul e k (x % e.p, y % e.p); ⟨r.1, r.2, decide (r = (0, 1))⟩ else freePoint fr
  | _, _, some m => let u := mMul m k x; ⟨u, 0, decide (u = 0)⟩
  | _, _, _ => freePoint fr

/-- k · G. R232 gives SMULG no entry on the x-only curves: free values there. -/
def selMulG (c : CurveSel) (fr k : Nat) : PointRes :=
  if !selPrime c then freePoint fr
  else match selW c, selE c with
  | some w, _ => pointRes fr (wMul w k (some (w.gx, w.gy)))
  | _, some e => let r := eMul e k (e.gx, e.gy); ⟨r.1, r.2, decide (r = (0, 1))⟩
  | _, _ => freePoint fr

/-- P + Q by complete formulas. Off the curve, over a composite p, and on the x-only curves, where R232 gives PADD a time and no rule a result, the
coordinates are free (DESIGN CHOICE, log 17). -/
def selAdd (c : CurveSel) (fr x1 y1 x2 y2 : Nat) : PointRes :=
  if !selPrime c then freePoint fr
  else match selW c, selE c with
  | some w, _ =>
    if wOn w x1 y1 ∧ wOn w x2 y2 then pointRes fr (wAdd w (some (x1 % w.p, y1 % w.p)) (some (x2 % w.p, y2 % w.p)))
    else freePoint fr
  | _, some e =>
    if eOn e x1 y1 ∧ eOn e x2 y2 then let r := eAdd e (x1, y1) (x2, y2); ⟨r.1, r.2, decide (r = (0, 1))⟩
    else freePoint fr
  | _, _ => freePoint fr

/-- One Miller-Rabin round of odd m with base a. -/
def millerRabin (m a : Nat) : Bool :=
  let s := (List.range (Nat.log2 m + 1)).foldl (fun s i => if s = i ∧ (m - 1) / 2 ^ i % 2 = 0 then i + 1 else s) 0
  let x0 := powMod a ((m - 1) / 2 ^ s) m
  x0 = 1 % m ∨ (List.range s).any (fun i => powMod x0 (2 ^ i) m = m - 1)

/-- Checks 2 to 4 and 7 of R235. -/
def curveForm (c : Weierstrass) : Bool :=
  c.a < c.p ∧ c.b < c.p ∧ (4 * c.a ^ 3 + 27 * c.b ^ 2) % c.p ≠ 0 ∧ wOn c c.gx c.gy ∧ 1 ≤ c.h ∧ c.h ≤ 8
    ∧ ((c.h * c.n : Nat) - (c.p + 1 : Nat) : Int) ^ 2 ≤ 4 * (c.p : Int)

/-- Check 6 of R235: n · G is the point at infinity. -/
def curveOrder (c : Weierstrass) : Bool := wMul c c.n (some (c.gx, c.gy)) = none

/-- The checks of R235 other than primality (CHECKCURVE). Over a composite p check 6 has no stated outcome: a free bit (log 17). -/
def checkCurve (c : Weierstrass) (fr : Nat) : Bool :=
  curveForm c && (if primeNat c.p then curveOrder c else decide ((Config.freeWord 1 fr).toNat = 1))

/-- An operation with a number as its result in A[D]. -/
def mauResult (u : Mau) (d x : Nat) : Mau := { mauSetReg u d x with isZero := decide (x = 0) }

/-- An operation with a point as its result in A[D], A[D + 1]. -/
def mauPoint (u : Mau) (d : Nat) (r : PointRes) : Mau :=
  { mauSetReg (mauSetReg u d r.x) (d + 1) r.y with isZero := r.zero }

def mauPointChecked (u : Mau) (d : Nat) (r : PointRes) : Mau := { mauPoint u d r with onCurve := onSel u.curve r.x r.y }

/-- SETMOD: an even modulus is not allowed, and what it sets is unstated: a free value. -/
def mauSetmod (u : Mau) (fr : Nat) (o : MauOp) : Mau :=
  let m := if mauReg u o.x % 2 = 1 then mauReg u o.x else (Config.freeWord 8192 fr).toNat
  { u with modulus := m, wclass := widthClass m }

def mauMmul (u : Mau) (_fr : Nat) (o : MauOp) : Mau := mauResult u o.d (mauReg u o.x * mauReg u o.y % u.modulus)
def mauMadd (u : Mau) (_fr : Nat) (o : MauOp) : Mau := mauResult u o.d ((mauReg u o.x + mauReg u o.y) % u.modulus)
def mauMsub (u : Mau) (_fr : Nat) (o : MauOp) : Mau := mauResult u o.d (subModP (mauReg u o.x) (mauReg u o.y) u.modulus)

/-- MEXP: the ladder runs over every bit of the width class. -/
def mauMexp (u : Mau) (_fr : Nat) (o : MauOp) : Mau :=
  mauResult u o.d (powMod (mauReg u o.x) (mauReg u o.y % 2 ^ classBits u.wclass) u.modulus)

/-- MEXPS: an exponent at or above 2^64 has no stated result: a free value. -/
def mauMexps (u : Mau) (fr : Nat) (o : MauOp) : Mau :=
  mauResult u o.d (if mauReg u o.y < 2 ^ 64 then powMod (mauReg u o.x) (mauReg u o.y) u.modulus
    else (Config.freeWord 8192 fr).toNat)

def mauMinv (u : Mau) (_fr : Nat) (o : MauOp) : Mau := mauResult u o.d (powMod (mauReg u o.x) (u.modulus - 2) u.modulus)

/-- CURVE: a built-in curve, or the loaded curve in A[Y] to A[Y + 6]; clears CURVE_OK. A built-in curve is what the job selected (R118); a loaded
one of a routine without CURVE_SLOT is none that another job could name. -/
def mauCurve (u : Mau) (_fr : Nat) (o : MauOp) : Mau :=
  let r (i : Nat) := mauReg u (o.y + i)
  { u with curve := if o.x = 15 then .loaded (r 0) (r 1) (r 2) (r 3) (r 4) (r 5) (r 6) else .builtin o.x, curveOk := false,
           lastCurve := if o.x ≠ 15 then 1 else if u.lastCurve = 2 then 2 else 0,
           lastSlot := if o.x ≠ 15 then o.x else u.lastSlot }

def mauSmulg (u : Mau) (fr : Nat) (o : MauOp) : Mau := mauPointChecked u o.d (selMulG u.curve fr (mauReg u o.x))
def mauSmulV (u : Mau) (fr : Nat) (o : MauOp) : Mau :=
  mauPointChecked u o.d (selMul u.curve fr (mauReg u o.x) (mauReg u o.y) (mauReg u (o.y + 1)))

def mauOncurve (u : Mau) (_fr : Nat) (o : MauOp) : Mau :=
  { u with onCurve := onSel u.curve (mauReg u o.x) (mauReg u (o.x + 1)) }

def mauPadd (u : Mau) (fr : Nat) (o : MauOp) : Mau :=
  mauPoint u o.d (selAdd u.curve fr (mauReg u o.x) (mauReg u (o.x + 1)) (mauReg u o.y) (mauReg u (o.y + 1)))

/-- MR: with X = 0xF sets PROBPRIME; else one round (R231). -/
def mauMr (u : Mau) (_fr : Nat) (o : MauOp) : Mau :=
  if o.x = 15 then { u with probPrime := true }
  else { u with probPrime := u.probPrime && millerRabin u.modulus (mauReg u o.x) }

/-- CHECKCURVE: built-in curves are not checked, so what it sets for one is unstated: a free bit. -/
def mauCheckcurve (u : Mau) (fr : Nat) (_o : MauOp) : Mau :=
  { u with curveOk := match u.curve with
      | .loaded p a b gx gy n h => checkCurve ⟨p, a, b, gx, gy, n, h⟩ fr
      | _ => (Config.freeWord 1 fr).toNat = 1 }

/-- WIPE: zeroes the operand memory (the status word in it), the modulus and the curve; no curve counts as held after it (R118). -/
def mauWipe (u : Mau) : Mau :=
  { u with mem := [], modulus := 0, wclass := 0, curve := .none, onCurve := false, isZero := false, probPrime := false,
           curveOk := false, lastCurve := 0, lastSlot := 0xFFFF }

/-- A MAU after reset. -/
def Mau.init : Mau where
  mem := []
  modulus := 0
  wclass := 0
  curve := .none
  onCurve := false
  isZero := false
  probPrime := false
  curveOk := false
  op := none
  acted := false
  left := 0
  lastInst := none
  lastKey := none
  lastCurve := 0
  lastSlot := 0xFFFF

end Sys2Proof.Machine
end

