-- ==== Sys2Proof/Machine/ReedOps.lean ====
section
/-! DEFINITION. What one field of a microword does to a reed's architectural state: elements and groups (R129 to R134),
the vector, mask and scalar operations (R150 to R155), control registers (R135). A field is a check on the state before
the word, and an update of the state the word is making (R141, R166). -/

namespace Sys2Proof.Machine

/-- A vector fault or window miss: cause, element, address (R166). -/
structure RFault where
  cause : Nat
  elem : Nat
  addr : BitVec 64
  deriving DecidableEq, Repr

/-- How an operation goes on after an exhale (R169, R192): not at all, as it takes one cycle; at its saved beat; at the first beat of the
register it was working on; or from its first element. -/
inductive FieldClass where
  | scalar | beats | butterfly | restarting
  deriving DecidableEq, Repr

/-- What a field comes to: its class, the resources it uses, the fault it meets at issue, how many free values it takes, and the update its
beats from `lo` up to `hi` make. -/
structure FieldRes where
  cls : FieldClass
  use : FieldUse
  fault : Option RFault
  free : Nat
  upd : Nat → Nat → ReedCore → ReedCore

/-- A class that restarts (R192). -/
def restarts (k : FieldClass) : Bool := decide (k = .butterfly ∨ k = .restarting)

/-- Beats of a vector operation on a group (R138). -/
def beatCount (g : Nat) : Nat := 2 * g

/-- Element `i` of `w` bits belongs to one of the beats from `lo` up to `hi` (R138). -/
def inBeats (w lo hi i : Nat) : Bool := decide (lo ≤ i * w / 256 ∧ i * w / 256 < hi)

/-- Some of the elements of a result: those of the beats from `lo` up to `hi`. -/
def beatResult (w lo hi : Nat) (f : Nat → Option Nat) (i : Nat) : Option Nat := if inBeats w lo hi i then f i else none

/-- Fault causes of R166. -/
def causeRange : Nat := 1
def causeWindow : Nat := 2
def causeReadonly : Nat := 3
def causeAlign : Nat := 4
def causeSpan : Nat := 5
def causeGroup : Nat := 6
def causeVlen : Nat := 7
def causeModulus : Nat := 8
def causeHazard : Nat := 9
def causePort : Nat := 10
def causeResult : Nat := 11
def causeKeyCorrupt : Nat := 12
def causeKeyUse : Nat := 13

/-- Element width in bits: 16, 32 or 64 (R130). -/
def ewBits (c : ReedCore) : Nat := 16 * 2 ^ min c.ew 2

/-- Group size G (R129). -/
def gsize (c : ReedCore) : Nat := 2 ^ c.log2g

/-- Elements a group holds, E_max (R130). -/
def emax (c : ReedCore) : Nat := gsize c * 512 / ewBits c

/-- S0 reads zero (R128). -/
def sGet (c : ReedCore) (i : Nat) : BitVec 64 := if i = 0 then 0 else storeGet c.s i

/-- A write to S0 is ignored (R128). -/
def sSet (c : ReedCore) (i : Nat) (x : BitVec 64) : ReedCore := if i = 0 then c else { c with s := storeSet c.s i x }

def vGet (c : ReedCore) (i : Nat) : BitVec 512 := storeGet c.v i
def vSet (c : ReedCore) (i : Nat) (x : BitVec 512) : ReedCore := { c with v := storeSet c.v i x }
def mGet (c : ReedCore) (i : Nat) : BitVec 256 := storeGet c.m i
def mSet (c : ReedCore) (i : Nat) (x : BitVec 256) : ReedCore := { c with m := storeSet c.m i x }

/-- Element `i` of `w` bits of the group at V(k) (R130). -/
def elemAt (w : Nat) (c : ReedCore) (k i : Nat) : Nat := ((vGet c (k + i * w / 512)).toNat >>> (i * w % 512)) % 2 ^ w

/-- Element `i` of the group at V(k), at the element width in force. -/
def vElem (c : ReedCore) (k i : Nat) : Nat := elemAt (ewBits c) c k i

/-- The bits [lo + w - 1 : lo] of a register replaced. -/
def putBits {n : Nat} (r : BitVec n) (lo w x : Nat) : BitVec n :=
  let m : BitVec n := BitVec.ofNat n ((2 ^ w - 1) <<< lo)
  (r &&& ~~~m) ||| BitVec.ofNat n ((x % 2 ^ w) <<< lo)

/-- One register with some of its elements replaced; `base` is the number of its first element in the group. -/
def regWith (r : BitVec 512) (w base : Nat) (f : Nat → Option Nat) : BitVec 512 :=
  (List.range (512 / w)).foldl
    (fun acc e => match f (base + e) with
      | none => acc
      | some x => putBits acc (e * w) w x) r

/-- A group with some of its elements replaced. -/
def groupWith (w g d : Nat) (f : Nat → Option Nat) (c : ReedCore) : ReedCore :=
  (List.range g).foldl (fun acc j => vSet acc (d + j) (regWith (vGet acc (d + j)) w (j * (512 / w)) f)) c

/-- Element `i` is active under a mask (R132). -/
def active (c : ReedCore) (mask : Option (Fin 8)) (i : Nat) : Bool :=
  decide (i < c.vl) && (match mask with
    | none => true
    | some k => (mGet c k.val).toNat.testBit i)

/-- What element `i` of a destination receives: the result where active, zero where inactive under ZERO, else nothing
(R133). -/
def elemResult (c : ReedCore) (f : VField) (g : Nat → Nat) (i : Nat) : Option Nat :=
  if active c f.mask i then some (g i) else if i < c.vl ∧ f.zero then some 0 else none

/-- The group at V(k) is aligned and does not pass V31 (R129, GROUP of R166). -/
def groupOk (c : ReedCore) (k : Nat) : Bool := k % gsize c = 0 ∧ k + gsize c ≤ 32

/-- The resources of a group. -/
def groupRes (c : ReedCore) (k : Nat) : List Nat := (List.range (gsize c)).map (fun j => 32 + k + j)

/-- S0 is no resource: it is never written. -/
def sRes (i : Nat) : List Nat := if i = 0 then [] else [i]

/-- The resource of a vector field's mask. -/
def maskRes : Option (Fin 8) → List Nat
  | none => []
  | some k => [64 + k.val]

/-- QMOD is odd and 3 ≤ q ≤ 2^(EW-1) - 1 (R136). -/
def qmodOk (c : ReedCore) : Bool :=
  let q := c.qmod.toNat
  q % 2 = 1 ∧ 3 ≤ q ∧ q ≤ 2 ^ (ewBits c - 1) - 1

def gfM (c : ReedCore) : Nat := bitsOf c.gfpoly.toNat 28 24
def gfPolyOf (c : ReedCore) : Nat := bitsOf c.gfpoly.toNat 16 0

/-- GFPOLY names a degree from 2 to 16 that POLY has (R137). -/
def gfpolyOk (c : ReedCore) : Bool :=
  let m := gfM c
  let p := gfPolyOf c
  2 ≤ m ∧ m ≤ 16 ∧ p.testBit m ∧ p < 2 ^ (m + 1)

/-- The address an instruction-level fault records where none was computed: a free value (log 1). -/
def freeAddr (fr : Nat) : BitVec 64 := Config.freeWord 64 fr

/-- The first instruction-level cause that holds, by ascending value (log 8), for a vector operation: GROUP, VLEN,
MODULUS (R166). -/
def vecFault (c : ReedCore) (fr : Nat) (groupBad modBad streamBad : Bool) : Option RFault :=
  if groupBad then some ⟨causeGroup, 0, freeAddr fr⟩
  else if c.vl > emax c ∨ streamBad then some ⟨causeVlen, 0, freeAddr fr⟩
  else if modBad then some ⟨causeModulus, 0, freeAddr fr⟩
  else none

/-- A vector-field result; the operations that ignore masks pass none. With VL = 0 an operation writes nothing (R131). -/
def vecRes (c : ReedCore) (fr : Nat) (f : VField) (cls : FieldClass) (reads writes : List Nat) (groupBad modBad streamBad : Bool)
    (free : Nat) (upd : Nat → Nat → ReedCore → ReedCore) : FieldRes :=
  let flt := vecFault c fr groupBad modBad streamBad
  { cls := cls
    use := ⟨0, reads ++ maskRes f.mask, writes, restarts cls⟩
    fault := flt
    free := if flt.isSome then 1 else free
    upd := fun lo hi t => if c.vl = 0 then t else upd lo hi t }

/-- A shared form: each active element of group d receives a value computed from the sources in the groups `srcs`. A restarting operation of a
word issued again starts at its first beat (R169). -/
def vecMap (c : ReedCore) (fr : Nat) (f : VField) (cls : FieldClass) (srcs sregs : List Nat) (groupBad modBad streamBad : Bool)
    (free : Nat) (g : Nat → Nat) : FieldRes :=
  vecRes c fr f cls (srcs.flatMap (groupRes c) ++ sregs.flatMap sRes) (groupRes c f.d.val)
    (groupBad || !groupOk c f.d.val || srcs.any (fun k => !groupOk c k)) modBad streamBad free
    (fun lo hi => groupWith (ewBits c) (gsize c) f.d.val (beatResult (ewBits c) (if restarts cls then 0 else lo) hi (elemResult c f g)))

/-- VNOP does nothing. -/
def fieldVnop (_ : VField) : FieldRes :=
  { cls := .scalar, use := ⟨0, [], [], false⟩, fault := none, free := 0, upd := fun _ _ c => c }

/-- Two-source element operations: VADD to VANDN, VMULLO, VMULHI (R150). -/
def fieldVec2 (g : Nat → Nat → Nat → Nat) (c : ReedCore) (fr : Nat) (f : VField) : FieldRes :=
  vecMap c fr f .beats [f.a.val, f.b.val] [] false false false 0
    (fun i => g (ewBits c) (vElem c f.a.val i) (vElem c f.b.val i))

/-- One-source element operations. -/
def fieldVec1 (groupBad : ReedCore → Bool) (g : Nat → Nat → Nat) (c : ReedCore) (fr : Nat) (f : VField) : FieldRes :=
  vecMap c fr f .beats [f.a.val] [] (groupBad c) false false 0 (fun i => g (ewBits c) (vElem c f.a.val i))

/-- The value of an element read as signed. -/
def signedOf (w x : Nat) : Int := if x ≥ 2 ^ (w - 1) then (x : Int) - 2 ^ w else x

/-- The shift amount: S[s] or k, modulo EW (R150, VSSEL). -/
def shiftAmount (c : ReedCore) (f : VField) : Nat :=
  (if f.ssel then (sGet c f.s.val).toNat else f.k.toNat) % ewBits c

/-- Shifts and rotates: VSLL, VSRL, VSRA, VROTL. -/
def fieldVecShift (g : Nat → Nat → Nat → Nat) (c : ReedCore) (fr : Nat) (f : VField) : FieldRes :=
  vecMap c fr f .beats [f.a.val] (if f.ssel then [f.s.val] else []) false false false 0
    (fun i => g (ewBits c) (vElem c f.a.val i) (shiftAmount c f))

def sraNat (w x n : Nat) : Nat := ((signedOf w x) / (2 ^ n : Nat)).emod (2 ^ w : Nat) |>.toNat
def rotlNat (w x n : Nat) : Nat := (x * 2 ^ n + x / 2 ^ (w - n)) % 2 ^ w

/-- VBCAST. -/
def fieldVbcast (c : ReedCore) (fr : Nat) (f : VField) : FieldRes :=
  vecMap c fr f .beats [] [f.s.val] false false false 0 (fun _ => (sGet c f.s.val).toNat % 2 ^ ewBits c)

/-- VEXT: S[d] = element S[t] of a, 0 past the group; not masked (R150). Its last beat writes the scalar (log 42). -/
def fieldVext (c : ReedCore) (fr : Nat) (f : VField) : FieldRes :=
  vecRes c fr { f with mask := none } .beats (groupRes c f.a.val ++ sRes f.s.val) (sRes f.d.val) (!groupOk c f.a.val) false false 0
    (fun _ hi t =>
      let i := (sGet c f.s.val).toNat
      if hi < beatCount (gsize c) then t else sSet t f.d.val (BitVec.ofNat 64 (if i ≥ emax c then 0 else vElem c f.a.val i)))

/-- A mask with bit `i` replaced for each active element of some beats (R134). -/
def maskWith (c : ReedCore) (f : VField) (lo hi : Nat) (p : Nat → Bool) (m : BitVec 256) : BitVec 256 :=
  (List.range 256).foldl
    (fun acc i => if active c f.mask i && inBeats (ewBits c) lo hi i then putBits acc i 1 (flag (p i)) else acc) m

/-- Compares and VPARITY into mask Md (R134). -/
def fieldVcmp (srcs : List Nat) (p : ReedCore → Nat → Bool) (c : ReedCore) (fr : Nat) (f : VField) : FieldRes :=
  let md := f.d.val % 8
  vecRes c fr f .beats (srcs.flatMap (groupRes c)) [64 + md] (srcs.any (fun k => !groupOk c k)) false false 0
    (fun lo hi t => mSet t md (maskWith c f lo hi (p c) (mGet t md)))

/-- Modular element operations (R136, R151). -/
def fieldVmod (srcs : List Nat) (g : Nat → Nat → Nat) (c : ReedCore) (fr : Nat) (f : VField) : FieldRes :=
  vecMap c fr f .beats srcs [] false (!qmodOk c) false 0 (fun i => g c.qmod.toNat i)

/-- (a - b) mod q. -/
def subMod (a b q : Nat) : Nat := (((a : Int) - b).emod q).toNat

/-- The butterfly of VBFLY on values: t = c·b mod q; (a + t, a - t) mod q. -/
def bfly (q a b w : Nat) : Nat × Nat :=
  let t := w * b % q
  ((a + t) % q, subMod a t q)

/-- The inverse butterfly of VIBFLY on values: (u + b, (u - b)·c) mod q. -/
def ibfly (q a b w : Nat) : Nat × Nat := ((a + b) % q, subMod a b q * w % q)

/-- A free element of a group: where a result is unstated (log 1). -/
def freeElem (fr w i : Nat) : Nat := ((Config.freeWord 4096 fr).toNat >>> (i * w)) % 2 ^ w

/-- VBFLY and VIBFLY: both a and b are destinations. Where a and b name one group the result is unstated: a free
value. -/
def fieldBfly (g : Nat → Nat → Nat → Nat → Nat × Nat) (c : ReedCore) (fr : Nat) (f : VField) : FieldRes :=
  let a := f.a.val
  let b := f.b.val
  let r (i : Nat) : Nat × Nat := g c.qmod.toNat (vElem c a i) (vElem c b i) (vElem c f.c.val i)
  let same := a = b
  vecRes c fr f .beats ([a, b, f.c.val].flatMap (groupRes c)) (groupRes c a ++ groupRes c b)
    (!groupOk c a || !groupOk c b || !groupOk c f.c.val) (!qmodOk c) false (if same then 1 else 0)
    (fun lo hi t =>
      let put (k : Nat) (v : Nat → Nat) : ReedCore → ReedCore :=
        groupWith (ewBits c) (gsize c) k (beatResult (ewBits c) lo hi (elemResult c f v))
      if same then put a (freeElem fr (ewBits c)) t else put b (fun i => (r i).2) (put a (fun i => (r i).1) t))

/-- VBFLYI and VIBFLYI: pairs (i, i + 2^k) inside group a, register by register (R152, R169). -/
def fieldBflyi (g : Nat → Nat → Nat → Nat → Nat × Nat) (c : ReedCore) (fr : Nat) (f : VField) : FieldRes :=
  let a := f.a.val
  let h := 2 ^ f.k.toNat
  let res (i : Nat) : Option Nat :=
    let lo := if i / h % 2 = 0 then i else i - h
    if active c f.mask lo && active c f.mask (lo + h) then
      let r := g c.qmod.toNat (vElem c a lo) (vElem c a (lo + h)) (vElem c f.c.val lo)
      some (if i = lo then r.1 else r.2)
    else if active c f.mask i then none
    else if i < c.vl ∧ f.zero then some 0 else none
  vecRes c fr f .butterfly ([a, f.c.val].flatMap (groupRes c)) (groupRes c a)
    (!groupOk c a || !groupOk c f.c.val || !(h < 512 / ewBits c)) (!qmodOk c) false 0
    (fun lo hi => groupWith (ewBits c) (gsize c) a (beatResult (ewBits c) (lo / 2 * 2) (hi / 2 * 2) res))

/-- A whole-group operation whose destination overlaps a source faults with GROUP (R169). -/
def overlaps (f : VField) (srcs : List Nat) : Bool := srcs.any (fun k => k = f.d.val)

/-- The low `k` bits of `i` reversed, the rest kept. -/
def revLow (k i : Nat) : Nat :=
  i / 2 ^ k * 2 ^ k + (List.range k).foldl (fun acc j => acc + (i / 2 ^ j % 2) * 2 ^ (k - 1 - j)) 0

/-- VBREV. An index past the group is unstated: a free value. -/
def fieldVbrev (c : ReedCore) (fr : Nat) (f : VField) : FieldRes :=
  let k := f.k.toNat
  vecMap c fr f .restarting [f.a.val] [] (decide (k < 1 ∨ k > 8) || overlaps f [f.a.val]) false false
    (if 2 ^ k > emax c then 1 else 0)
    (fun i => if revLow k i < emax c then vElem c f.a.val (revLow k i) else freeElem fr (ewBits c) i)

/-- VPERM: a[b[i] mod E_max]. -/
def fieldVperm (c : ReedCore) (fr : Nat) (f : VField) : FieldRes :=
  vecMap c fr f .restarting [f.a.val, f.b.val] [] (overlaps f [f.a.val, f.b.val]) false false 0
    (fun i => vElem c f.a.val (vElem c f.b.val i % emax c))

/-- VSLIDEUP: a[i - S[s]] for i ≥ S[s]; lower active elements are undisturbed, inactive ones as R133 says. -/
def fieldVslideup (c : ReedCore) (fr : Nat) (f : VField) : FieldRes :=
  let n := (sGet c f.s.val).toNat
  vecRes c fr f .restarting (groupRes c f.a.val ++ sRes f.s.val) (groupRes c f.d.val)
    (!groupOk c f.d.val || !groupOk c f.a.val || overlaps f [f.a.val]) false false 0
    (fun _ _ => groupWith (ewBits c) (gsize c) f.d.val
      (fun i => if i < n ∧ active c f.mask i then none else elemResult c f (fun i => vElem c f.a.val (i - n)) i))

/-- VSLIDEDN: a[i + S[s]], or 0 past the group. -/
def fieldVslidedn (c : ReedCore) (fr : Nat) (f : VField) : FieldRes :=
  let n := (sGet c f.s.val).toNat
  vecMap c fr f .restarting [f.a.val] [f.s.val] (overlaps f [f.a.val]) false false 0
    (fun i => if i + n ≥ emax c then 0 else vElem c f.a.val (i + n))

/-- The bits [pos + k - 1 : pos] of the bit stream of the group at V(a) (R153). -/
def streamBits (c : ReedCore) (a pos k : Nat) : Nat :=
  (List.range k).foldl
    (fun acc j => acc + flag ((vGet c (a + (pos + j) / 512)).toNat.testBit ((pos + j) % 512)) * 2 ^ j) 0

/-- Bits of the stream a group holds. -/
def streamLen (c : ReedCore) : Nat := 512 * gsize c

/-- VCBD: (x - y) mod q from 2η stream bits (R153). For QMOD 0 or above 2^EW the result is unstated: a free value. -/
def fieldVcbd (c : ReedCore) (fr : Nat) (f : VField) : FieldRes :=
  let k := f.k.toNat
  let q := c.qmod.toNat
  let bad : Bool := q = 0 ∨ q > 2 ^ ewBits c
  vecMap c fr f .restarting [f.a.val] [] (decide (k < 1 ∨ k > 4) || overlaps f [f.a.val]) false
    (decide (2 * k * c.vl > streamLen c)) (if bad then 1 else 0)
    (fun i =>
      if bad then freeElem fr (ewBits c) i
      else subMod (popcount k (streamBits c f.a.val (2 * k * i) k)) (popcount k (streamBits c f.a.val (2 * k * i + k) k)) q)

/-- The bit length of a number. -/
def bitLen (x : Nat) : Nat := if x = 0 then 0 else Nat.log2 x + 1

/-- The values VREJ accepts, in stream order (R154). -/
def vrejAccepted (c : ReedCore) (a k : Nat) : List Nat :=
  ((List.range (streamLen c / k)).map (fun j => streamBits c a (j * k) k % 2 ^ bitLen c.qmod.toNat)).filter
    (fun v => v < c.qmod.toNat)

/-- VREJ (R154): accepted values go to elements S[s] upward, to VL - 1 at most, and S[s] rises by their number. -/
def fieldVrej (c : ReedCore) (fr : Nat) (f : VField) : FieldRes :=
  let k := f.k.toNat
  let n0 := (sGet c f.s.val).toNat
  let vs := (vrejAccepted c f.a.val k).take (c.vl - n0)
  vecRes c fr { f with mask := none } .restarting (groupRes c f.a.val ++ sRes f.s.val) (groupRes c f.d.val ++ sRes f.s.val)
    (!groupOk c f.d.val || !groupOk c f.a.val || decide (k < 1 ∨ k > 32) || overlaps f [f.a.val]) (!qmodOk c) false 0
    (fun _ _ t =>
      sSet (groupWith (ewBits c) (gsize c) f.d.val (fun i => if i < n0 then none else vs[i - n0]?) t) f.s.val
        (sGet c f.s.val + BitVec.ofNat 64 vs.length))

/-- VCOMP and VDECOMP: rounding as FIPS 203 (R150); k from 1 to 12. -/
def fieldVcompress (g : Nat → Nat → Nat → Nat) (c : ReedCore) (fr : Nat) (f : VField) : FieldRes :=
  let k := f.k.toNat
  vecMap c fr f .beats [f.a.val] [] (decide (k < 1 ∨ k > 12)) (!qmodOk c) false 0
    (fun i => g c.qmod.toNat k (vElem c f.a.val i))

def compressNat (q k x : Nat) : Nat := ((2 ^ (k + 1) * (x % q) + q) / (2 * q)) % 2 ^ k
def decompressNat (q k y : Nat) : Nat := (q * (y % 2 ^ k) + 2 ^ (k - 1)) / 2 ^ k

/-- VPACK: element i of a gives bits [k·i + k - 1 : k·i] of d's stream (R153); inactive elements leave their bits. -/
def fieldVpack (c : ReedCore) (fr : Nat) (f : VField) : FieldRes :=
  let k := f.k.toNat
  let bit (t : ReedCore) (j : Nat) : ReedCore :=
    match elemResult c f (fun i => vElem c f.a.val i) (j / k) with
    | none => t
    | some x => vSet t (f.d.val + j / 512) (putBits (vGet t (f.d.val + j / 512)) (j % 512) 1 (flag (x.testBit (j % k))))
  vecRes c fr f .restarting (groupRes c f.a.val) (groupRes c f.d.val)
    (!groupOk c f.d.val || !groupOk c f.a.val || overlaps f [f.a.val]) false (decide (k * c.vl > streamLen c)) 0
    (fun _ _ t => (List.range (k * c.vl)).foldl bit t)

/-- VUNPACK: k-bit fields of a's stream, zero-extended. A field wider than the element is unstated: a free value. -/
def fieldVunpack (c : ReedCore) (fr : Nat) (f : VField) : FieldRes :=
  let k := f.k.toNat
  vecMap c fr f .restarting [f.a.val] [] (overlaps f [f.a.val]) false (decide (k * c.vl > streamLen c))
    (if k > ewBits c then 1 else 0)
    (fun i => if k > ewBits c then freeElem fr (ewBits c) i else streamBits c f.a.val (k * i) k)

/-- Carry-less product of two numbers below 2^n. -/
def clmul (n a b : Nat) : Nat := (List.range n).foldl (fun acc j => if b.testBit j then acc ^^^ (a <<< j) else acc) 0

/-- Reduction of a polynomial below 2^n by one of degree m, from the top. -/
def polyMod (n m p x : Nat) : Nat :=
  (List.range n).foldl (fun acc j => let d := n - 1 - j; if d ≥ m ∧ acc.testBit d then acc ^^^ (p <<< (d - m)) else acc) x

/-- VGFMUL (R137): EW 16 or 32. -/
def fieldVgfmul (c : ReedCore) (fr : Nat) (f : VField) : FieldRes :=
  vecMap c fr f .beats [f.a.val, f.b.val] [] (decide (ewBits c = 64)) (!gfpolyOk c) false 0
    (fun i => polyMod 64 (gfM c) (gfPolyOf c) (clmul (ewBits c) (vElem c f.a.val i) (vElem c f.b.val i)))

/-- VCLMULLO and VCLMULHI: EW 64. -/
def fieldVclmul (hi : Bool) (c : ReedCore) (fr : Nat) (f : VField) : FieldRes :=
  vecMap c fr f .beats [f.a.val, f.b.val] [] (decide (ewBits c ≠ 64)) false false 0
    (fun i =>
      let x := clmul 64 (vElem c f.a.val i) (vElem c f.b.val i)
      if hi then x / 2 ^ 64 else x % 2 ^ 64)

/-- The 8 × 8 transpose of VBTR8. -/
def btr8 (x : Nat) : Nat :=
  (List.range 64).foldl (fun acc j => acc + flag (x.testBit (8 * (j % 8) + j / 8)) * 2 ^ j) 0

/-- Mask operations that write all 256 bits (R134). -/
def fieldMask (srcs : List Nat) (sregs : List Nat) (g : ReedCore → BitVec 256) (c : ReedCore) (fr : Nat) (f : VField) :
    FieldRes :=
  vecRes c fr { f with mask := none } .restarting (srcs.map (fun k => 64 + k % 8) ++ sregs.flatMap sRes) [64 + f.d.val % 8] false false false 0
    (fun _ _ t => mSet t (f.d.val % 8) (g c))

/-- The mask with bits 0 to n - 1 set. -/
def maskBelow (n : Nat) : BitVec 256 := BitVec.ofNat 256 (2 ^ (min n 256) - 1)

/-- MPOPC and MFIRST: a scalar from the mask's bits below VL. -/
def fieldMaskScalar (g : Nat → Nat → Nat) (c : ReedCore) (fr : Nat) (f : VField) : FieldRes :=
  vecRes c fr { f with mask := none } .restarting [64 + f.a.val % 8] (sRes f.d.val) false false false 0
    (fun _ _ t => sSet t f.d.val (BitVec.ofNat 64 (g c.vl ((mGet c (f.a.val % 8)).toNat % 2 ^ c.vl))))

/-- The index of the lowest set bit below n, 256 if none. -/
def firstBit (n x : Nat) : Nat := ((List.range n).find? (fun i => x.testBit i)).getD 256

/-- A scalar-field result. -/
def scalRes (reads : List Nat) (d : Nat) (upd : ReedCore → ReedCore) : FieldRes :=
  { cls := .scalar, use := ⟨1, reads.flatMap sRes, sRes d, false⟩, fault := none, free := 0, upd := fun _ _ => upd }

/-- S[d] = g S[a] S[b] (R155). -/
def fieldScal2 (g : BitVec 64 → BitVec 64 → BitVec 64) (c : ReedCore) (f : SField) : FieldRes :=
  scalRes [f.a.val, f.b.val] f.d.val (fun t => sSet t f.d.val (g (sGet c f.a.val) (sGet c f.b.val)))

/-- SADDI: a sign-extended immediate. -/
def fieldSaddi (c : ReedCore) (f : SField) : FieldRes :=
  scalRes [f.a.val] f.d.val (fun t => sSet t f.d.val (sGet c f.a.val + f.imm.signExtend 64))

/-- SLI: one half-word replaced, the others unchanged. -/
def fieldSli (c : ReedCore) (f : SField) : FieldRes :=
  scalRes [f.d.val] f.d.val (fun t => sSet t f.d.val (putBits (sGet c f.d.val) (16 * f.sh.val) 16 f.imm.toNat))

/-- A job page is resident in a frame (R145). -/
def resident (c : ReedCore) (page : Nat) : Option Nat := findIdx? (fun (fr : Frame) => fr.page = some page) c.frames

/-- INPUT_PAGES and JOB_PAGES of the job header (R143). -/
def inputPages (c : ReedCore) : Nat := (storeGet c.opmem 0x7E0D).toNat
def jobPages (c : ReedCore) : Nat := (storeGet c.opmem 0x7E0E).toNat

/-- A control register's value (R135); `cyc` is the current cycle of the breath. -/
def csrGet (c : ReedCore) (cyc idx : Nat) : BitVec 64 :=
  if idx = 0 then BitVec.ofNat 64 (packFields [(0, 2, c.ew), (2, 2, c.log2g)])
  else if idx = 1 then BitVec.ofNat 64 (c.vl % 512)
  else if idx = 2 then c.qmod
  else if idx = 3 then c.gfpoly
  else if idx = 4 then c.trapElem
  else if idx = 5 then c.trapAddr
  else if 8 ≤ idx ∧ idx ≤ 11 then
    let p := c.win.getD (idx - 8) 0
    BitVec.ofNat 64 (packFields [(0, 8, p), (8, 1, flag (resident c p).isSome), (9, 1, flag (decide (p < inputPages c)))])
  else if idx = 16 then BitVec.ofNat 64 (cyc % 2 ^ 14)
  else 0

/-- A write of a control register (R135): read-only registers and fields ignore it. -/
def csrSet (c : ReedCore) (idx : Nat) (x : BitVec 64) : ReedCore :=
  let n := x.toNat
  if idx = 0 then { c with ew := if n % 4 = 3 then c.ew else n % 4, log2g := n / 4 % 4 }
  else if idx = 1 then { c with vl := n % 512 }
  else if idx = 2 then { c with qmod := x }
  else if idx = 3 then { c with gfpoly := x &&& 0x1F01FFFF }
  else if 8 ≤ idx ∧ idx ≤ 11 then { c with win := listSet c.win (idx - 8) (n % 256) }
  else c

/-- The condition of BRANCH (R188), and the loop counters after it. -/
def condHolds (c : ReedCore) (cond creg : Nat) : Bool :=
  let x := sGet c creg
  let m := (mGet c (creg % 8)).toNat % 2 ^ c.vl
  match cond with
  | 0 => true
  | 1 => x = 0
  | 2 => x ≠ 0
  | 3 => x.toInt < 0
  | 4 => x.toInt > 0
  | 5 => x.toInt ≥ 0
  | 6 => x.toInt ≤ 0
  | 7 => x.toNat % 2 = 1
  | 12 => m ≠ 0
  | 13 => m = 0
  | n => if 8 ≤ n ∧ n ≤ 11 then (c.lc.getD (n - 8) 0).toNat > 1 else false

/-- LCNZn decrements a counter that holds 1 or more (R189). -/
def condCounters (c : ReedCore) (cond : Nat) : ReedCore :=
  if 8 ≤ cond ∧ cond ≤ 11 then
    { c with lc := listMod c.lc (cond - 8) (fun x => if x = 0 then 0 else x - 1) }
  else c

/-- The resources BRANCH reads. -/
def condReads (cond creg : Nat) : List Nat :=
  if 1 ≤ cond ∧ cond ≤ 7 then sRes creg else if cond = 12 ∨ cond = 13 then [64 + creg % 8] else []

/-- A reed's state at the start of a job and of a replay (R135, R143, R189): everything zero but VCFG and VL. -/
def ReedCore.init : ReedCore where
  s := []
  v := []
  m := []
  ew := 1
  log2g := 0
  vl := 16
  qmod := 0
  gfpoly := 0
  trapElem := 0
  trapAddr := 0
  win := [0, 0, 0, 0]
  opmem := []
  frames := [⟨none, [], false, 0⟩, ⟨none, [], false, 0⟩]
  clock := 0
  lc := [0, 0, 0, 0]
  stack := []
  upc := 0
  level := 0
  entry := 0
  send := none

end Sys2Proof.Machine
end

