-- ==== Sys2Proof/Machine/TypesKeys.lean ====
section
/-! DEFINITION. The types of the windchest, the RNG and the digest port (09), and of stateful signature keys (06). -/

namespace Sys2Proof.Machine

/-- A key slot (R327): its physical index, the fields its TAG covers, the material of an extended key (R330), and
whether it was found corrupt or is reserved as an OUT_SLOT (R211), and, while it is being freed (R331), the number of the first job fetched after
the UNLOAD_KEY. -/
structure Slot where
  phys : Nat
  key : Bytes
  alg : Nat
  usage : Nat
  policy : Nat
  owner : Nat
  keyLen : Nat
  kind : Nat
  tag : Bytes
  material : Bytes
  handle : Nat
  corrupt : Bool
  reserved : Bool
  freeing : Option Nat
  deriving DecidableEq, Repr

/-- A tree of a stateful key (R225): its index within its level, its cached nodes, and the stored signature of its root by its parent. -/
structure LeafTree where
  index : Nat
  nodes : Bytes
  rootSig : Bytes
  deriving DecidableEq, Repr

/-- The one state of a stateful key, identified by its public key (R225, R226, R227, R334): next counter value, confirmed
ceiling (`none`: the device holds none), claims of parsed SIGN jobs, current trees and next trees by level from the top, the ceiling being
reserved, and whether the current lowest-level tree has run out. -/
structure Stateful where
  pub : Bytes
  alg : Nat
  levels : Nat
  height : Nat
  counter : Nat
  ceiling : Option Nat
  claims : Nat
  current : List (Option LeafTree)
  next : List (Option LeafTree)
  reserving : Option Nat
  spent : Bool
  deriving DecidableEq, Repr

/-- The windchest's registers and secrets. The first five fields lie in the VBAT domain (R322, R324, R277); `mirrored` are the leaf
ceilings received from or confirmed by the twin, by public key (R227, R334). -/
structure Wch where
  dcr : Bytes
  dcrCheck : Bytes
  exportKey : Bytes
  exportSerials : List Nat
  tamper : Nat
  rootValid : Bool
  rootNew : Bool
  identityReady : Bool
  slotMac : Bytes
  slots : Tbl Slot
  corruptCount : Nat
  stateful : List Stateful
  mirrored : List (Bytes × Nat)
  deriving DecidableEq, Repr

/-- The end of a mailbox request (R335, R338): where its output goes, the bytes still to be written, its status, the queue whose APPROVE
completes after it, and the inhale from which bursts move. -/
structure BoxEnd where
  addr : Nat
  data : Bytes
  status : Status
  approver : Option (Carrier × Nat)
  due : Nat
  deriving DecidableEq, Repr

/-- A request mailbox of a PF (R335, R401): its registers; whether a request is being read or run and the breath of its GO; the bytes read so
far (`none` once it runs); the ends still to be written; the CHANGE_ID of the staged request; the breath the last burst moved in. -/
structure Mailbox where
  reqAddr : BitVec 64
  reqLen : Nat
  outAddr : BitVec 64
  outLen : Nat
  busy : Bool
  done : Bool
  status : Nat
  change : Nat
  goBreath : Nat
  req : Option Bytes
  ends : List BoxEnd
  moved : Option Nat
  deriving DecidableEq, Repr

/-- Who waits for a DRBG reseed granted to it (R353, R357). -/
inductive PrWaiter where
  | reed (r : Nat)
  | job (j : Nat)
  deriving DecidableEq, Repr

/-- The RNG (R348 to R358): registers, generate calls since the last reseed of each DRBG, PR_STRICT reads waiting for a
block, those granted one, and management requests held before READY with their breath (R355). -/
structure Rng where
  ready : Bool
  alarm : Bool
  conditioner : Nat
  cellFail : Nat
  calls : List Nat
  reseeds : Nat
  stretched : Nat
  notReady : Nat
  waiting : List PrWaiter
  granted : List PrWaiter
  held : List (Src × Nat)
  deriving DecidableEq, Repr

/-- A digest port context (R359 to R362). `jobAlg` is the algorithm INIT loaded, `msg` what the job has absorbed. -/
structure Dgp where
  alg : Nat
  jobAlg : Nat
  outLen : Nat
  keypad : Nat
  busy : Bool
  valid : Bool
  overrun : Bool
  owner : Option DgpAgent
  code : Nat
  started : Bool
  finalised : Bool
  msg : Bytes
  result : Bytes
  deriving DecidableEq, Repr

end Sys2Proof.Machine
end

