-- ==== Sys2Proof/Machine/TypesMgmt.lean ====
section
/-! DEFINITION. The types of the management controller (12): event log, sensors, firmware slots, monitor channels. -/

namespace Sys2Proof.Machine

/-- An event log record (R435); `data` is bytes 32 to 47. -/
structure LogRec where
  seq : Nat
  breath : Nat
  time : Nat
  code : Nat
  severity : Nat
  boot : Nat
  data : Bytes
  mac : Bytes
  deriving DecidableEq, Repr

/-- A set of samples (R444 to R446). -/
structure MonSet where
  min : Nat
  max : Nat
  samples : Nat
  bins : List Nat
  lastBreath : Nat
  deriving DecidableEq, Repr

/-- A monitor channel: configuration, the breath its window started, active and latched sets, and a configuration that
waits for the next inhale (R443 to R446). -/
structure MonChan where
  cfg : MonCfg
  start : Nat
  active : MonSet
  latched : MonSet
  next : Option MonCfg
  deriving DecidableEq, Repr

/-- A snapshot to be written at the next inhale (R446): channel, action, and the port whose front command asks for it (`none`: MCTP). -/
structure MonSnap where
  chan : Nat
  action : Nat
  asker : Option (Fin 8)
  deriving DecidableEq, Repr

/-- An update session (R439): its carrier, the bytes written, the breath of the last chunk. -/
structure FwSession where
  carrier : Carrier
  written : Nat
  breath : Nat
  deriving DecidableEq, Repr

/-- The management controller. Firmware slots, the boot header and the sealed log lie in SPI NOR (R432); `timeBase` is the
time of the last SET_TIME and the millisecond clock then (R426, R435); `logKey` the event log key derived at boot (R321); `warned` the
sensors now outside their bands (R429); `stepDown`, `low98` and `low94` serve R430. -/
structure Mgc where
  ring : List LogRec
  sealedLog : List LogRec
  logSeq : Nat
  logMac : Bytes
  logKey : Option Bytes
  bootCount : Nat
  timeBase : Option (Nat × Nat)
  eid : Byte
  readings : Readings
  alarms : Nat
  warned : List (Nat × Nat)
  stepDown : Option Nat
  low98 : Option Nat
  low94 : Option Nat
  fwSlots : List Bytes
  fwActive : Nat
  fwPending : Option Nat
  fwTrial : Bool
  fwSession : Option FwSession
  channels : List MonChan
  snaps : List MonSnap
  eccRecent : List (Nat × Nat)
  eccRaised : Tbl Nat
  deriving DecidableEq, Repr

end Sys2Proof.Machine
end

