-- ==== Sys2Proof/Machine/Init.lean ====
section
/-! DEFINITION. Reset values of the parts of the state. A value the spec gives none for is zero (log 3). -/

namespace Sys2Proof.Machine

def MsixEntry.init : MsixEntry := ⟨0, 0, true⟩
def Msix.init : Msix := ⟨[], []⟩
def Vf.init : Vf := ⟨Msix.init, false⟩

/-- A queue pair that was never enabled: rings at index 0 (R467, R85). -/
def Qp.init : Qp := ⟨false, 0, 0, 6, 6, 0, 0, 0, 0, 0, 0, none, [], [], false, none, none⟩

def CmdQ.init : CmdQ := ⟨[], none⟩
def Adm.init : Adm := ⟨0, 0, 6, 6, 0, Qp.init, false, false, 0, CmdQ.init⟩

/-- A host port with no chart in force (R466), its link down (log 3); payloads of 128 bytes and read requests of 512, as PCI Express resets
them (log 71). -/
def HostPort.init : HostPort := ⟨true, false, 0, 0, true, 0, false, false, Adm.init, 0, none, Msix.init, [], [], 0, 2, []⟩

def Mailbox.init : Mailbox := ⟨0, 0, 0, 0, false, false, 0, 0, 0, none, [], none⟩

def Cluster.init : Cluster := ⟨false, [], [], [], none, [], [], [], [], [0, 0, 0, 0], 0, Mau.init⟩

/-- A wiped reed (R128, R172). -/
def Reed.init : Reed := ⟨none, 0, .idle, ReedCore.init, none, [], [], false⟩

def MonSet.init : MonSet := ⟨0xFFFFFFFF, 0, 0, List.replicate 16 0, 0⟩
def MonCfg.off : MonCfg := ⟨0, 31, 0, 0, 0xFFFFFFFF⟩
def MonChan.init : MonChan := ⟨MonCfg.off, 0, MonSet.init, MonSet.init, none⟩
def Readings.zero : Readings := ⟨List.replicate 32 0, List.replicate 16 0, some 0, [], [], 0⟩

def Dev.init : Dev where
  part := .xc
  mode := .boot
  modeBreath := 0
  prevMode := 0
  haltCause := 0
  haltImmediate := false
  halting := false
  haltBreath := 0
  haltFlushed := false
  modeReq := none
  quiesce := none
  tuneReq := none
  held := false
  powerGood := true
  haltN := true
  bootHold := false
  mctpAddr := 0
  busSel := false

def Brt.init : Brt := ⟨12, none, 0, none, 0, 0, false, List.replicate 8 none⟩

def Charts.init : Charts := ⟨none, none, [], none, none, [], none⟩

def Plc.init : Plc := ⟨[], [], 4096 + 10000, none, 0⟩

def Mgc.init : Mgc where
  ring := []
  sealedLog := []
  logSeq := 0
  logMac := zeros 16
  logKey := none
  bootCount := 0
  timeBase := none
  eid := 0
  readings := Readings.zero
  alarms := 0
  warned := []
  stepDown := none
  low98 := none
  low94 := none
  fwSlots := [[], []]
  fwActive := 0
  fwPending := none
  fwTrial := false
  fwSession := none
  channels := List.replicate 64 MonChan.init
  snaps := []
  eccRecent := []
  eccRaised := []

/-- No charge, no suspicion; the default suspicion limit (R123). -/
def UnitHealth.init : UnitHealth := ⟨[], [], [], [], 4⟩

/-- The windchest with no root: the VBAT domain and the slots are blank (log 3). -/
def Wch.init : Wch where
  dcr := zeros 32
  dcrCheck := zeros 8
  exportKey := zeros 32
  exportSerials := []
  tamper := 0
  rootValid := false
  rootNew := false
  identityReady := false
  slotMac := []
  slots := []
  corruptCount := 0
  stateful := []
  mirrored := []

def Rng.init : Rng := ⟨false, false, 0, 0, List.replicate 16 0, 0, 0, 0, [], [], []⟩

end Sys2Proof.Machine
end

