-- ==== Sys2Proof/Machine/Keccak.lean ====
section
/-! DEFINITION. Keccak-f[1600], SHA-3, SHAKE (FIPS 202) and KMAC256 (SP 800-185), the hash functions R159, R207, R253,
R321 and R361 name. Lane A[x, y] is element x + 5y (R159). The round constants and the rotations are computed as the standard defines them. -/

namespace Sys2Proof.Machine

/-- The 25 lanes, lane x + 5y. -/
abbrev Lanes := List (BitVec 64)

/-- Lane `i`. -/
def lane (a : Lanes) (i : Nat) : BitVec 64 := a.getD i 0

/-- The register of FIPS 202's rc: one step of x^8 + x^6 + x^5 + x^4 + 1. -/
def keccakLfsr (r : Nat) : Nat := if r < 128 then 2 * r else (2 * r) ^^^ 0x171

/-- The round constant whose seven bits are the register's next outputs, from bit `2^j - 1` on, and the register after them. -/
def keccakRcFrom : Nat → Nat → Nat → BitVec 64 × Nat
  | 0, _, r => (0, r)
  | n + 1, j, r =>
    let rest := keccakRcFrom n (j + 1) (keccakLfsr r)
    (rest.1 ||| BitVec.ofNat 64 (r % 2 * 2 ^ (2 ^ j - 1)), rest.2)

/-- The constants of `n` rounds, from a register on. -/
def keccakRcs : Nat → Nat → List (BitVec 64)
  | 0, _ => []
  | n + 1, r => (keccakRcFrom 7 0 r).1 :: keccakRcs n (keccakRcFrom 7 0 r).2

/-- The constants of the 24 rounds. -/
def keccakRC : List (BitVec 64) := keccakRcs 24 1

/-- The walk of ρ from lane (x, y): each lane it meets, with the triangular number it is rotated by. -/
def keccakWalk : Nat → Nat → Nat → Nat → List (Nat × Nat)
  | 0, _, _, _ => []
  | n + 1, t, x, y => (x + 5 * y, (t + 1) * (t + 2) / 2 % 64) :: keccakWalk n (t + 1) y ((2 * x + 3 * y) % 5)

/-- How far lane `i` is rotated; the walk never meets lane 0. -/
def keccakRot (i : Nat) : Nat := (((keccakWalk 24 0 1 0).find? (fun e => e.1 = i)).map Prod.snd).getD 0

/-- θ. -/
def keccakTheta (a : Lanes) : Lanes :=
  let c := (List.range 5).map (fun x =>
    lane a x ^^^ lane a (x + 5) ^^^ lane a (x + 10) ^^^ lane a (x + 15) ^^^ lane a (x + 20))
  let d := (List.range 5).map (fun x => lane c ((x + 4) % 5) ^^^ (lane c ((x + 1) % 5)).rotateLeft 1)
  (List.range 25).map (fun i => lane a i ^^^ lane d (i % 5))

/-- ρ and π: lane (x, y) receives the rotated lane (x + 3y, x). -/
def keccakRhoPi (a : Lanes) : Lanes :=
  (List.range 25).map (fun i =>
    let x := i % 5
    let y := i / 5
    let j := (x + 3 * y) % 5 + 5 * x
    (lane a j).rotateLeft (keccakRot j))

/-- χ. -/
def keccakChi (a : Lanes) : Lanes :=
  (List.range 25).map (fun i =>
    let x := i % 5
    let r := i - x
    lane a i ^^^ (~~~ (lane a (r + (x + 1) % 5)) &&& lane a (r + (x + 2) % 5)))

/-- ι. -/
def keccakIota (rc : BitVec 64) : Lanes → Lanes
  | [] => []
  | l :: ls => (l ^^^ rc) :: ls

/-- One round. -/
def keccakRound (a : Lanes) (rc : BitVec 64) : Lanes :=
  keccakIota rc (keccakChi (keccakRhoPi (keccakTheta a)))

/-- Keccak-f[1600]. -/
def keccakF (a : Lanes) : Lanes := keccakRC.foldl keccakRound a

/-- The zero state. -/
def keccakZero : Lanes := List.replicate 25 0

/-- XOR one block of `rate` bytes into the state. -/
def keccakXor (a : Lanes) (blk : Bytes) : Lanes :=
  (List.range 25).map (fun i => lane a i ^^^ BitVec.ofNat 64 (le blk (8 * i) 8))

/-- Absorb a padded message. -/
def keccakAbsorb (rate : Nat) (msg : Bytes) : Lanes :=
  (chunks rate msg).foldl (fun a blk => keccakF (keccakXor a (blk.take rate))) keccakZero

/-- Squeeze `n` blocks. -/
def keccakSqueeze (rate : Nat) : Nat → Lanes → Bytes
  | 0, _ => []
  | n + 1, a => ((a.map (fun l => leBytes 8 l.toNat)).flatten).take rate ++ keccakSqueeze rate n (keccakF a)

/-- Padding pad10*1 with domain bits `ds` (0x06 SHA-3, 0x1F SHAKE, 0x04 cSHAKE). -/
def keccakPad (rate ds : Nat) (msg : Bytes) : Bytes :=
  let gap := rate - msg.length % rate
  if gap = 1 then msg ++ [BitVec.ofNat 8 (ds + 0x80)]
  else msg ++ BitVec.ofNat 8 ds :: (zeros (gap - 2) ++ [0x80])

/-- The sponge with output of `n` bytes. -/
def sponge (rate ds : Nat) (msg : Bytes) (n : Nat) : Bytes :=
  (keccakSqueeze rate (ceilDiv n rate) (keccakAbsorb rate (keccakPad rate ds msg))).take n

/-- SHA3-256, SHA3-384, SHA3-512, SHAKE128 and SHAKE256. -/
def sha3_256 (m : Bytes) : Bytes := sponge 136 0x06 m 32
def sha3_384 (m : Bytes) : Bytes := sponge 104 0x06 m 48
def sha3_512 (m : Bytes) : Bytes := sponge 72 0x06 m 64
def shake128 (m : Bytes) (n : Nat) : Bytes := sponge 168 0x1F m n
def shake256 (m : Bytes) (n : Nat) : Bytes := sponge 136 0x1F m n

/-- The number of bytes that hold a number, at least 1. -/
def natByteLenFuel : Nat → Nat → Nat
  | 0, _ => 1
  | fuel + 1, x => if x < 256 then 1 else 1 + natByteLenFuel fuel (x / 256)

/-- SP 800-185 left_encode and right_encode. -/
def leftEncode (x : Nat) : Bytes :=
  let n := natByteLenFuel 16 x
  BitVec.ofNat 8 n :: beBytes n x
def rightEncode (x : Nat) : Bytes :=
  let n := natByteLenFuel 16 x
  beBytes n x ++ [BitVec.ofNat 8 n]

/-- SP 800-185 encode_string and bytepad. -/
def encodeString (s : Bytes) : Bytes := leftEncode (8 * s.length) ++ s
def bytepad (w : Nat) (x : Bytes) : Bytes :=
  let y := leftEncode w ++ x
  y ++ zeros (roundUp y.length w - y.length)

/-- KMAC256 with key `k`, message `x`, output of `n` bytes and customisation string `s` (SP 800-185). -/
def kmac256 (k x : Bytes) (n : Nat) (s : Bytes) : Bytes :=
  sponge 136 0x04
    (bytepad 136 (encodeString (ascii "KMAC") ++ encodeString s) ++
      (bytepad 136 (encodeString k) ++ x ++ rightEncode (8 * n))) n

/-- HMAC-SHA3-384 (R346). -/
def hmacSha3_384 (k m : Bytes) : Bytes :=
  let k0 := padTo 104 (if k.length ≤ 104 then k else sha3_384 k)
  sha3_384 (k0.map (· ^^^ 0x5C) ++ sha3_384 (k0.map (· ^^^ 0x36) ++ m))

end Sys2Proof.Machine
end

