-- ==== Sys2Proof/Machine/Sha2.lean ====
section
/-! DEFINITION. The SHA-256 and SHA-512 compressions and the SHA-2 hashes (FIPS 180-4), which R159, R207 and R361 name.
The round constants are the standard's, computed as it defines them: the first bits of the fractional parts of the cube
roots of the first primes. -/

namespace Sys2Proof.Machine

/-- The first 80 primes. -/
def sha2Primes : List Nat :=
  [2, 3, 5, 7, 11, 13, 17, 19, 23, 29, 31, 37, 41, 43, 47, 53, 59, 61, 67, 71, 73, 79, 83, 89, 97, 101, 103, 107, 109, 113,
   127, 131, 137, 139, 149, 151, 157, 163, 167, 173, 179, 181, 191, 193, 197, 199, 211, 223, 227, 229, 233, 239, 241, 251,
   257, 263, 269, 271, 277, 281, 283, 293, 307, 311, 313, 317, 331, 337, 347, 349, 353, 359, 367, 373, 379, 383, 389, 397,
   401, 409]

/-- The largest `r` of at most `bits` bits, added to `acc`, with `r ^ e ≤ x`. -/
def intRoot (e x : Nat) : Nat → Nat → Nat
  | 0, acc => acc
  | b + 1, acc => if (acc + 2 ^ b) ^ e ≤ x then intRoot e x b (acc + 2 ^ b) else intRoot e x b acc

/-- The first `w` bits of the fractional part of the `e`-th root of `p`. -/
def rootFrac (w e p : Nat) : Nat := intRoot e (p * 2 ^ (e * w)) (w + 5) 0 % 2 ^ w

/-- SHA-256 round constants K. -/
def sha256K : List (BitVec 32) := (sha2Primes.take 64).map (fun p => BitVec.ofNat 32 (rootFrac 32 3 p))

/-- SHA-512 round constants K. -/
def sha512K : List (BitVec 64) := sha2Primes.map (fun p => BitVec.ofNat 64 (rootFrac 64 3 p))

/-- The six functions of one SHA-2 word width. -/
structure Sha2Fns (w : Nat) where
  bigS0 : BitVec w → BitVec w
  bigS1 : BitVec w → BitVec w
  smallS0 : BitVec w → BitVec w
  smallS1 : BitVec w → BitVec w

/-- FIPS 180-4 section 4.1.2. -/
def sha256Fns : Sha2Fns 32 where
  bigS0 x := x.rotateRight 2 ^^^ x.rotateRight 13 ^^^ x.rotateRight 22
  bigS1 x := x.rotateRight 6 ^^^ x.rotateRight 11 ^^^ x.rotateRight 25
  smallS0 x := x.rotateRight 7 ^^^ x.rotateRight 18 ^^^ x >>> 3
  smallS1 x := x.rotateRight 17 ^^^ x.rotateRight 19 ^^^ x >>> 10

/-- FIPS 180-4 section 4.1.3. -/
def sha512Fns : Sha2Fns 64 where
  bigS0 x := x.rotateRight 28 ^^^ x.rotateRight 34 ^^^ x.rotateRight 39
  bigS1 x := x.rotateRight 14 ^^^ x.rotateRight 18 ^^^ x.rotateRight 41
  smallS0 x := x.rotateRight 1 ^^^ x.rotateRight 8 ^^^ x >>> 7
  smallS1 x := x.rotateRight 19 ^^^ x.rotateRight 61 ^^^ x >>> 6

/-- Extend the message schedule: `win` is its last 16 words, oldest first; `n` more words follow. -/
def sha2Schedule {w : Nat} (f : Sha2Fns w) : Nat → List (BitVec w) → List (BitVec w)
  | 0, _ => []
  | n + 1, win =>
    let x := f.smallS1 (win.getD 14 0) + win.getD 9 0 + f.smallS0 (win.getD 1 0) + win.getD 0 0
    x :: sha2Schedule f n (win.drop 1 ++ [x])

/-- One round on the working variables a to h, with K + W. -/
def sha2Round {w : Nat} (f : Sha2Fns w) (v : List (BitVec w)) (kw : BitVec w) : List (BitVec w) :=
  let a := v.getD 0 0
  let b := v.getD 1 0
  let c := v.getD 2 0
  let d := v.getD 3 0
  let e := v.getD 4 0
  let g := v.getD 5 0
  let h := v.getD 6 0
  let i := v.getD 7 0
  let t1 := i + f.bigS1 e + ((e &&& g) ^^^ (~~~ e &&& h)) + kw
  let t2 := f.bigS0 a + ((a &&& b) ^^^ (a &&& c) ^^^ (b &&& c))
  [t1 + t2, a, b, c, d + t1, e, g, h]

/-- One compression: chaining value `h`, sixteen message words `m`, round constants `k`. -/
def sha2Compress {w : Nat} (f : Sha2Fns w) (k h m : List (BitVec w)) : List (BitVec w) :=
  let ws := m ++ sha2Schedule f (k.length - 16) m
  let v := (k.zip ws).foldl (fun v kw => sha2Round f v (kw.1 + kw.2)) h
  (h.zip v).map (fun p => p.1 + p.2)

/-- The SHA-256 compression of a 64-byte block in message order. -/
def sha256Compress (h : List (BitVec 32)) (blk : Bytes) : List (BitVec 32) :=
  sha2Compress sha256Fns sha256K h ((List.range 16).map (fun i => BitVec.ofNat 32 (be blk (4 * i) 4)))

/-- The SHA-512 compression of a 128-byte block in message order. -/
def sha512Compress (h : List (BitVec 64)) (blk : Bytes) : List (BitVec 64) :=
  sha2Compress sha512Fns sha512K h ((List.range 16).map (fun i => BitVec.ofNat 64 (be blk (8 * i) 8)))

/-- SHA-2 padding for blocks of `blk` bytes with a length field of `lenBytes`. -/
def sha2Pad (blk lenBytes : Nat) (m : Bytes) : Bytes :=
  let body := m ++ [0x80]
  let total := roundUp (body.length + lenBytes) blk
  body ++ zeros (total - lenBytes - body.length) ++ beBytes lenBytes (8 * m.length)

/-- FIPS 180-4 initial values: square-root fractions of the first eight primes, for SHA-384 the ninth to sixteenth. -/
def sha256Init : List (BitVec 32) := (sha2Primes.take 8).map (fun p => BitVec.ofNat 32 (rootFrac 32 2 p))
def sha512Init : List (BitVec 64) := (sha2Primes.take 8).map (fun p => BitVec.ofNat 64 (rootFrac 64 2 p))
def sha384Init : List (BitVec 64) :=
  ((sha2Primes.drop 8).take 8).map (fun p => BitVec.ofNat 64 (rootFrac 64 2 p))

/-- SHA-256, SHA-384 and SHA-512. -/
def sha256 (m : Bytes) : Bytes :=
  (((chunks 64 (sha2Pad 64 8 m)).foldl sha256Compress sha256Init).map (fun x => beBytes 4 x.toNat)).flatten
def sha512 (m : Bytes) : Bytes :=
  (((chunks 128 (sha2Pad 128 16 m)).foldl sha512Compress sha512Init).map (fun x => beBytes 8 x.toNat)).flatten
def sha384 (m : Bytes) : Bytes :=
  ((((chunks 128 (sha2Pad 128 16 m)).foldl sha512Compress sha384Init).map (fun x => beBytes 8 x.toNat)).flatten).take 48

end Sys2Proof.Machine
end

