-- ==== Sys2Proof/Machine/DgpOps.lean ====
section
/-! DEFINITION. The digest port on one context (R359 to R363). -/

namespace Sys2Proof.Machine

/-- A free context after reset. -/
def Dgp.init : Dgp where
  alg := 0
  jobAlg := 0
  outLen := 0
  keypad := 0
  busy := false
  valid := false
  overrun := false
  owner := none
  code := 0
  started := false
  finalised := false
  msg := []
  result := []

/-- The sixteen contexts after reset: 0 to 3 are the management controller's (R359). -/
def Dgp.reset : List Dgp := List.replicate 4 { Dgp.init with owner := some .mgmt } ++ List.replicate 12 Dgp.init

/-- The block size in bytes of ALG (R363); 0 for a value that names none. -/
def dgpBlock (alg : Nat) : Nat := [0, 64, 128, 128, 136, 104, 72, 168, 136].getD alg 0

/-- ALG 1 to 8 name algorithms. -/
def dgpAlgOk (alg : Nat) : Bool := 1 ≤ alg ∧ alg ≤ 8

/-- The digest of a message by ALG; `n` output bytes for SHAKE. -/
def dgpDigest (alg n : Nat) (m : Bytes) : Bytes :=
  match alg with
  | 1 => sha256 m
  | 2 => sha384 m
  | 3 => sha512 m
  | 4 => sha3_256 m
  | 5 => sha3_384 m
  | 6 => sha3_512 m
  | 7 => shake128 m n
  | 8 => shake256 m n
  | _ => []

/-- The keyed prefix Ka ⊕ ipad or Ka ⊕ opad, over one block of SHA3-384 (KEYPAD, R363). -/
def dgpKeypad (keypad : Nat) (ka : Bytes) : Bytes :=
  let pad : Byte := if keypad = 1 then 0x36 else 0x5C
  (padTo 104 ka).map (fun b => b ^^^ pad)

/-- The fields of DGP_CTRL that a write sets (R359 table); KEYPAD only in contexts 0 to 3. -/
def dgpSetCtrl (d : Dgp) (mgmtCtx : Bool) (v : Nat) : Dgp :=
  { d with alg := bitsOf v 3 0, outLen := bitsOf v 14 8, keypad := if mgmtCtx then bitsOf v 19 18 else 0 }

/-- INIT (R360). An ALG of no algorithm, or a KEYPAD without SHA3-384, fails: no job starts. -/
def dgpInitOp (d : Dgp) (mgmtCtx : Bool) (ka : Bytes) (v : Nat) : Dgp :=
  let d := dgpSetCtrl d mgmtCtx v
  let keyed : Bool := d.keypad = 1 ∨ d.keypad = 2
  if !dgpAlgOk d.alg || (keyed && decide (d.alg ≠ 5)) then
    { d with busy := false, valid := false, overrun := false, code := 0x0010, started := false, finalised := false,
             msg := [], result := [] }
  else
    let m := if keyed then dgpKeypad d.keypad ka else []
    { d with busy := keyed, valid := false, overrun := false, code := 0x0002, started := true, finalised := false,
             jobAlg := d.alg, msg := m, result := [] }

/-- A write of message bytes (R360, R362): lost to BUSY with OVERRUN, ignored with no job or after FINAL; BUSY sets when
it completes a block. -/
def dgpAppend (d : Dgp) (bs : Bytes) : Dgp :=
  if !d.started || d.finalised then d
  else if d.busy then { d with overrun := true }
  else
    let m := d.msg ++ bs
    { d with msg := m, busy := decide (m.length / dgpBlock d.jobAlg ≠ d.msg.length / dgpBlock d.jobAlg) }

/-- FINAL (R361): a job with OVERRUN, or a SHAKE job with OUT_LEN 0 or above 64, ends with INPUT_INVALID. -/
def dgpFinalOp (d : Dgp) : Dgp :=
  if !d.started || d.finalised then d
  else if d.busy then { d with overrun := true }
  else if d.overrun || (decide (d.jobAlg ≥ 7) && decide (d.outLen = 0 ∨ d.outLen > 64)) then
    { d with code := 0x0010, finalised := true, started := false }
  else { d with finalised := true, busy := true }

/-- The final block is absorbed: the digest becomes valid (R361). -/
def dgpDone (d : Dgp) : Dgp :=
  if d.started && d.finalised then
    { d with busy := false, valid := true, code := 0x0000, started := false,
             result := padTo 64 (dgpDigest d.jobAlg d.outLen d.msg) }
  else d

/-- A completed block is absorbed and BUSY clears (R360). -/
def dgpAbsorbed (d : Dgp) : Dgp := if d.finalised then d else { d with busy := false }

/-- DGP_RESULT[i] (R362). -/
def dgpResult (d : Dgp) (i : Nat) : Nat := if d.valid then le d.result (4 * i) 4 else 0x00001D1E

/-- DGP_CTRL and DGP_STATUS as read. -/
def dgpCtrl (d : Dgp) : Nat := packFields [(0, 4, d.alg), (8, 7, d.outLen), (18, 2, d.keypad)]

def dgpOwnerCode : Option DgpAgent → Nat
  | some (.pf p) => p.val
  | some .mgmt => 0xF
  | none => 0

def dgpStatus (d : Dgp) : Nat :=
  packFields [(0, 1, flag d.busy), (1, 1, flag d.valid), (2, 1, flag d.overrun), (3, 1, flag d.owner.isSome),
    (4, 4, dgpOwnerCode d.owner), (16, 16, d.code)]

end Sys2Proof.Machine
end

