-- ==== Sys2Proof/Machine/TypesBore.lean ====
section
/-! DEFINITION. The types of the bore (07): pipes, streams, flows of records, batches, audits, cipher contexts, the custody journal;
and of the fabric side (08): hop operations, fabric ports, storage-node tables. -/

namespace Sys2Proof.Machine

/-- Pipe groups (R105), `mig` a re-seal group of MIGRATE (R420). -/
inductive PipeGroup where
  | spare | sealG | unsealG | echoG | lookG | mig
  deriving DecidableEq, Repr

/-- A cipher pipe: its group, the group it joins when its frame or slice ends (R107), the echo mismatches charged and the breath of the last (R258). -/
structure Pipe where
  group : PipeGroup
  next : Option PipeGroup
  mismatches : Nat
  struck : Nat
  deriving DecidableEq, Repr

/-- Stream classes (R240). -/
inductive StreamClass where
  | preserve | transit | lookaside
  deriving DecidableEq, Repr

/-- A stream table entry (R242, R293) with its progress. `keySlot` is the key slot of the epoch in force, `descSlot` the one the
descriptor named and `nextSlot` that of an
epoch installed and not yet in effect (R268); `epoch` the epoch number; `counter` and `ceiling` the TRANSIT frame counter and
its confirmed ceiling, `reserving` a ceiling being made durable (R270); `bound` the peer bound by R294; `opening` the opening
credit held by the gateway (R301); `cached` and `used` serve the stream cache (R243); `held` messages that wait for the cache;
`rekey` and `destroy` the control commands under way. -/
structure Stream where
  inst : Nat
  cls : StreamClass
  recCode : Nat
  echo : Bool
  defer1 : Bool
  defer2 : Bool
  receive : Bool
  keySlot : Nat
  descSlot : Nat
  sig1 : Nat
  sig2 : Nat
  linkId : Bytes
  carriage : Nat
  plainPort : Nat
  sealedPort : Nat
  remote : Nat
  endpoint : Peer
  epoch : Nat
  nextSlot : Option Nat
  counter : Nat
  ceiling : Nat
  reserving : Option Nat
  bound : Option Peer
  opening : Bool
  cached : Bool
  loading : Bool
  used : Nat
  held : List PxtIn
  rekey : Bool
  destroy : Bool
  deriving DecidableEq, Repr

/-- A record of a PRESERVE extent or a frame of a TRANSIT link. `hdr` is the PXT header of a TRANSIT frame; `input` what arrived so far
(plaintext of a record to seal, sealed bytes of one to unseal); `whole` the breath in which its last byte arrived; `crc` the
CRC-64 of its plaintext on ingress; `admitted` the breath of admission; `result` the sealed bytes or the plaintext; `ready` the
breath in which it passed its checks; `sent` the breath in which it left; `firstSeq` the sequence number of its first frame in, `lastSeq`
that of its last frame out to a node; `clash` that plaintext sent again differs from what came first (R281). -/
structure Rec where
  hdr : Bytes
  input : Bytes
  whole : Option Nat
  crc : Nat
  firstSeq : Nat
  epoch : Nat
  counter : Nat
  admitted : Option Nat
  result : Bytes
  strips : List Strip
  ready : Option Nat
  sent : Option Nat
  lastSeq : Option Nat
  clash : Bool
  deriving DecidableEq, Repr

/-- The flows of records through the bore: a PUT being sealed, a GET being unsealed, a TRANSIT link's two ends. -/
inductive FlowKind where
  | put | get | linkOut | linkIn
  deriving DecidableEq, Repr

/-- How far an extent is. For a PUT: waiting for an opening at its node, open, closed and waiting for SIG1, for its batch, for
SIG2, manifest sent. For a GET: manifest arriving, verifying, records flowing, all plaintext sent. -/
inductive FlowStage where
  | opening | isOpen | sig1 | batched | sig2 | stored | manifest | verify | records | delivered
  deriving DecidableEq, Repr

/-- A flow: an extent of a PRESERVE stream in one direction, or the traffic of a TRANSIT link. `key` is the extent key; `inOp` and
`outOp` the hop operations it runs on, the node hop being `outOp` of a PUT and `inOp` of a GET; `node` and `prevNode` the nodes chosen
(R318, R320); `manifest` the manifest assembled or received, `sig` its SIG1; `checks` the verification jobs still running;
`unreach` that a node was unreachable; `mig` the list entry of a migration. -/
structure Flow where
  kind : FlowKind
  sid : Nat
  inst : Nat
  obj : Bytes
  ext : Nat
  serial : Nat
  declLen : Nat
  recCode : Nat
  key : Bytes
  keyId : Bytes
  keySlot : Nat
  sig1 : Nat
  sig2 : Nat
  stage : FlowStage
  inOp : Option Nat
  outOp : Option Nat
  node : Option NodeCfg
  prevNode : Option NodeCfg
  got : Nat
  ended : Bool
  dataBreath : Nat
  openBreath : Nat
  recs : Tbl Rec
  nextSend : Nat
  closeBreath : Nat
  manifest : Bytes
  sig : Bytes
  checks : List Nat
  unreach : Bool
  mig : Option Nat
  deriving DecidableEq, Repr

/-- A batch of manifests (R262): its header, and the flows by leaf index with their paths. -/
structure Batch where
  inst : Nat
  slot : Nat
  header : Bytes
  leaves : List (Nat × List Bytes)
  deriving DecidableEq, Repr

/-- A deferred signature check (R267): instance, object ID, extent number, serial, which signature, key, message and signature,
and whether its job runs. -/
structure Audit where
  inst : Nat
  obj : Bytes
  ext : Nat
  serial : Nat
  second : Bool
  slot : Nat
  msg : Bytes
  sig : Bytes
  pathOk : Bool
  job : Option Nat
  deriving DecidableEq, Repr

/-- What a journal write is for (R250, R270, R227). -/
inductive JournalFor where
  | serial
  | counter (sid epoch : Nat)
  | leaf (pub : Bytes)
  deriving DecidableEq, Repr

/-- The custody journal (R251, R434): sectors of 64-byte records, oldest first, the last one the head; whether one is present; the write under way and
those that wait. -/
structure Journal where
  present : Bool
  sectors : List (List Bytes)
  write : Option (JournalFor × Bytes)
  queue : List (JournalFor × Nat)
  deriving DecidableEq, Repr

/-- Extent serials (R249, R250): next counter value, confirmed ceiling, and a ceiling being reserved. -/
structure Serials where
  next : Nat
  ceiling : Nat
  reserving : Option Nat
  blocked : Bool
  deriving DecidableEq, Repr

/-- An OPEN cipher context (R274): the mode's ALG_ID and OP, the key slot or the stream and epoch, chaining block, accumulator,
initial counter block, lengths in bytes. -/
structure CipherCtx where
  alg : Nat
  op : Nat
  slot : Nat
  stream : Option (Nat × Nat)
  chain : Bytes
  acc : Bytes
  iv : Bytes
  aadLen : Nat
  dataLen : Nat
  tagLen : Nat
  deriving DecidableEq, Repr

/-- The bore: pipes, streams and the last stream ID assigned, flows, the last number a flow or a batch got, batches, audits, contexts by instance and handle and those freed because their key went (R274), serials,
journal, BOR_ECHO and BOR_AUDIT counts, the instance last served by lookaside placement (R276), the
instances whose PUT openings are held back by R264. -/
structure Bore where
  pipes : List Pipe
  streams : Tbl Stream
  lastStream : Option Nat
  flows : Tbl Flow
  flowNo : Nat
  batches : Tbl Batch
  audits : List Audit
  contexts : Tbl CipherCtx
  lostCtx : List Nat
  exportSerial : Nat
  serials : Serials
  journal : Journal
  mismatches : Nat
  echoAborts : Nat
  auditFailed : Nat
  lookLast : Nat
  atLimit : List Nat
  deriving DecidableEq, Repr

/-- The kinds of hop operations (R299, R312): a gateway's PUT and GET, the device's PUT and GET at a node, the plain hop and the sealed
hop of a TRANSIT stream. -/
inductive HopKind where
  | putIn | getIn | putOut | getOut | plainIn | plainOut | sealedOut | sealedIn
  deriving DecidableEq, Repr

/-- An operation on one hop (R299 to R305): the stream, object ID and extent number its frames carry, the peer and how it is reached,
the flow it serves; the next sequence number expected, the limit granted and the breath of the last go-back-N NAK; the next
sequence number to send, the peer's limit, messages that wait for credit, messages sent and not acknowledged; the breath of
the last progress, timeouts in a row. `done` says the peer's DONE or ending NAK came. -/
structure HopOp where
  kind : HopKind
  sid : Nat
  obj : Bytes
  ext : Nat
  fport : Nat
  carriage : Nat
  peer : Peer
  node : Option Nat
  flow : Nat
  rxNext : Nat
  rxLimit : Nat
  rxNak : Option Nat
  txNext : Nat
  txLimit : Nat
  wait : List Bytes
  sent : List (Nat × Bytes)
  since : Nat
  timeouts : Nat
  deriving DecidableEq, Repr

/-- A MACsec association (R288, R290): SAK, salt, the SSCIs of the port and of its peer, the peer's SCI, the next packet number expected. -/
structure MacSa where
  sak : BitVec 256
  salt : BitVec 96
  ssci : BitVec 32
  peerSsci : BitVec 32
  peerSci : BitVec 64
  rxNext : Nat
  deriving DecidableEq, Repr

/-- A fabric port (R287 to R290, PRT_PORT, R428): link and buffer state, PFC, secure associations by association number, the transmit
association and its packet number, a SAK that waits for the next frame, the CAK and CKN, messages that wait for a pause or an SA to end, counts. -/
structure FabPort where
  linkUp : Bool
  fill : Nat
  xoffSent : Bool
  xoffRcvd : Nat
  sas : Tbl MacSa
  txAn : Option Nat
  nextAn : Option Nat
  pn : Nat
  cak : Bytes
  txq : List (Peer × Nat × Bytes)
  fecUncorr : Nat
  macsecDrop : Nat
  deriving DecidableEq, Repr

/-- The PXT engine and the fabric side: ports by number, hop operations, storage-node tables in force, before it and older ones still
used (R319, R320), the openings each node granted (R301), unreachable nodes, the last breath each peer was heard and was sent
anything (nodes by NODE_ID, gateways by 2^32 + stream), PXT_DROPS, bytes of MACsec frames that still want pipe time, the lookaside
pipes MACsec has in this breath, and whether ports are held back for want of them (R289). -/
structure Pxt where
  ports : Tbl FabPort
  ops : Tbl HopOp
  cur : Option NodeTable
  prev : Option NodeTable
  old : List NodeTable
  nodeLimit : Tbl Nat
  unreachable : List Nat
  heard : Tbl Nat
  quiet : Tbl Nat
  badFrame : Nat
  noMatch : Nat
  overCredit : Nat
  tagFail : Nat
  macBytes : Nat
  macPipes : Nat
  macHeld : Bool
  deriving DecidableEq, Repr

def Rec.init : Rec := ⟨[], [], none, 0, 0, 0, 0, none, [], [], none, none, none, false⟩
def Pipe.init : Pipe := ⟨.spare, none, 0, 0⟩
def Journal.init : Journal := ⟨false, [], none, []⟩
def FabPort.init : FabPort := ⟨false, 0, false, 0, [], none, none, 0, [], [], 0, 0⟩

def Bore.init : Bore where
  pipes := List.replicate 96 Pipe.init
  streams := []
  lastStream := none
  flows := []
  flowNo := 0
  batches := []
  audits := []
  contexts := []
  lostCtx := []
  exportSerial := 0
  serials := ⟨0, 0, none, false⟩
  journal := Journal.init
  mismatches := 0
  echoAborts := 0
  auditFailed := 0
  lookLast := 4095
  atLimit := []

def Pxt.init : Pxt := ⟨[], [], none, none, [], [], [], [], [], 0, 0, 0, 0, 0, 0, false⟩

end Sys2Proof.Machine
end

