-- ==== Sys2Proof/Machine/TypesCustody.lean ====
section
/-! DEFINITION. The types of life cycle, custody domain, twin and migration (11). -/

namespace Sys2Proof.Machine

/-- The domain record (R402) in clear: SEQUENCE, DOMAIN_ID (0: no domain), the member number, officer records by index,
wrapping key generations, attestation secret, successor entries (domain, generation, key), the pair record (partner transport
ID and member). -/
structure Domain where
  seq : Nat
  id : Nat
  member : Option Nat
  officers : Tbl Bytes
  gens : Tbl Bytes
  attest : Bytes
  successors : List (Nat × Nat × Bytes)
  pair : Option (Bytes × Nat)
  deriving DecidableEq, Repr

/-- A transition record of OTP: TARGET, STATE, COMMIT (R393). -/
structure OtpRecord where
  target : BitVec 64
  state : BitVec 64
  commit : BitVec 64
  deriving DecidableEq, Repr

/-- Life cycle: the OTP area (R393, R442), the state in force (R388 code), and the LCS_STATE fields. -/
structure Lcs where
  dis : Bytes
  serial : BitVec 64
  tokenHash : List Bytes
  tokenUsed : Nat
  records : List OtpRecord
  rollback : Nat
  state : Nat
  pendingTarget : Nat
  otpErr : Bool
  resolved : Bool
  invasive : Bool
  trace : Bool
  tokenTried : Bool
  deriving DecidableEq, Repr

/-- A twin record sent or to be sent (R411). -/
structure TwinRec where
  kind : Nat
  breath : Nat
  seq : Nat
  body : Bytes
  deriving DecidableEq, Repr

/-- A completion that waits for the acknowledgement of a twin record (R412). -/
structure MirrorWait where
  seq : Nat
  c : Compl
  cls : Nat
  key : Nat
  deriving DecidableEq, Repr

/-- The twin (R409 to R419): role (0 solo, 1 ACTIVE, 2 SHADOW, 3 ACTIVE alone), link key, the record numbers of both
directions, records waiting for the exhale, records not acknowledged, records to apply at the next inhale, completions
that wait for acknowledgements, the breaths of the last valid record, pulse and toggle, the partner's pins and heartbeat,
the count to adopt, and the breath T of takeover evidence. -/
structure Twn where
  role : Nat
  linkKey : Option Bytes
  aligned : Bool
  split : Bool
  takeover : Bool
  nextSeq : Nat
  ackIn : Option Nat
  ackOut : Option Nat
  toSend : List (Nat × Bytes)
  sent : List TwinRec
  inbox : List TwinRec
  waits : List MirrorWait
  lastRecord : Nat
  lastPulse : Nat
  lastToggle : Option Nat
  aliveOut : Bool
  partnerHalt : Bool
  partnerMode : Nat
  partnerChart : Nat
  lastHeartbeat : Nat
  adopt : Option Nat
  evidence : Option Nat
  snapshotDone : Bool
  deriving DecidableEq, Repr

/-- An entry of a migration in progress (R421): its index, source and target object and extent, the GET operation that reads
the source, the new extent once its PUT has begun, and the source serial. -/
structure MigEntry where
  index : Nat
  srcObj : Bytes
  srcExt : Nat
  dstObj : Bytes
  dstExt : Nat
  getOp : Option Nat
  ext : Option Nat
  oldSerial : Nat
  deriving DecidableEq, Repr

/-- A migration (R420 to R422) with the LCS_MIG counters. -/
structure Mig where
  active : Bool
  inst : Nat
  stream : Nat
  count : Nat
  listAddr : Nat
  resultAddr : Nat
  maxInFlight : Nat
  next : Nat
  stop : Bool
  entries : List MigEntry
  done : Nat
  failed : Nat
  deriving DecidableEq, Repr

def Domain.none : Domain := ⟨0, 0, Option.none, [], [], [], [], Option.none⟩

/-- OTP with nothing programmed: RAW (log 3). -/
def Lcs.init : Lcs :=
  ⟨zeros32, 0, List.replicate 7 zeros32, 0, List.replicate 32 ⟨0, 0, 0⟩, 0, 0, 7, false, false, false, false, false⟩
where
  zeros32 : Bytes := List.replicate 32 0

def Twn.init : Twn :=
  ⟨0, Option.none, false, false, false, 0, Option.none, Option.none, [], [], [], [], 0, 0, Option.none, false, false, 0, 0, 0, Option.none,
    Option.none, false⟩

def Mig.init : Mig := ⟨false, 0, 0, 0, 0, 0, 0, 0, false, [], 0, 0⟩

end Sys2Proof.Machine
end

