-- ==== Sys2Proof/Machine/State.lean ====
section
/-! DEFINITION. The state of the block, and the state after reset. -/

namespace Sys2Proof.Machine

/-- Why the block stops with a fault. -/
inductive Fault where
  /-- Raised by the DDR4 commands for an address beyond the installed capacity (R367). Safe: the machine stops. -/
  | noSuchAddress (a : Nat)
  deriving DecidableEq, Repr

/-- Why a command has no meaning. -/
inductive Refusal where
  /-- A command without a meaning yet. Safe: the machine stops. -/
  | notModelled (mnemonic : String)
  deriving DecidableEq, Repr

/-- The state of the block. `pending` holds the commands that wait, first in first out; `out` what the block put on its ports, newest
first (log 4); `free` is the counter the free values are drawn with (log 1): the model's own fields. -/
structure State where
  dev : Dev
  brt : Brt
  ports : List HostPort
  insts : Tbl Inst
  jobs : Tbl Job
  nextJob : Nat
  waiting : List Waiting
  plc : Plc
  clusters : Tbl Cluster
  reeds : Tbl Reed
  health : UnitHealth
  bell : Bell
  charts : Charts
  changes : Changes
  wch : Wch
  wchBox : List Mailbox
  lcsBox : List Mailbox
  rng : Rng
  dgp : List Dgp
  mpr : Mpr
  mgc : Mgc
  dom : Domain
  lcs : Lcs
  twn : Twn
  mig : Mig
  bore : Bore
  pxt : Pxt
  pending : List Instr
  out : List Out
  free : Nat
  deriving DecidableEq, Repr

/-- The state right after reset: BOOT, breath 0, no chart in force, nothing queued. Values the spec gives no reset value for are those of
log 3. -/
def State.reset : State where
  dev := Dev.init
  brt := Brt.init
  ports := List.replicate 8 HostPort.init
  insts := []
  jobs := []
  nextJob := 0
  waiting := []
  plc := Plc.init
  clusters := []
  reeds := []
  health := UnitHealth.init
  bell := ⟨0⟩
  charts := Charts.init
  changes := ⟨[], 1⟩
  wch := Wch.init
  wchBox := List.replicate 8 Mailbox.init
  lcsBox := List.replicate 8 Mailbox.init
  rng := Rng.init
  dgp := Dgp.reset
  mpr := Mpr.init
  mgc := Mgc.init
  dom := Domain.none
  lcs := Lcs.init
  twn := Twn.init
  mig := Mig.init
  bore := Bore.init
  pxt := Pxt.init
  pending := []
  out := []
  free := 0

end Sys2Proof.Machine
end

