-- ==== Sys2Proof/Machine/Ops.lean ====
section
/-! DEFINITION. The named operations over the state that every family uses: access to ports, functions, rings, jobs and
units; free values; the event log and alarms; completions, messages and token buckets; entry into error. -/

namespace Sys2Proof.Machine

/-! ### Codes -/

/-- Status codes (R95). -/
def statusCode : Status → Nat
  | .ok => 0x0000 | .okReplayed => 0x0001 | .idle => 0x0002 | .inputInvalid => 0x0010 | .pointNotOnCurve => 0x0011
  | .paramRejected => 0x0012 | .signatureInvalid => 0x0013 | .tagMismatch => 0x0014 | .lengthOverrun => 0x0020
  | .lengthUnderrun => 0x0021 | .lengthMismatch => 0x0022 | .keySlotCorrupt => 0x0030 | .keyPolicy => 0x0031
  | .keyNotLoaded => 0x0032 | .vectorFault => 0x0040 | .aborted => 0x0041 | .instanceReset => 0x0042
  | .budgetExceeded => 0x0043 | .rngNotReady => 0x0050 | .rngFailed => 0x0051 | .stateExhausted => 0x0060
  | .reservationFailed => 0x0061 | .dmaFault => 0x0070 | .invariantFailed => 0x0080 | .deviceHalting => 0x00F0

/-- DEV_MODE.MODE (R42). -/
def modeCode : Mode → Nat
  | .boot => 0x0 | .tune => 0x1 | .service => 0x2 | .shadow => 0x3 | .migrate => 0x4 | .recover => 0x5 | .halted => 0xF

/-- Instance error causes (R83). -/
def errFraming : Nat := 1
def errDoorbell : Nat := 2
def errHeadOverrun : Nat := 3
def errDmaRead : Nat := 4
def errDmaTranslate : Nat := 5
def errCqWrite : Nat := 6
def errOwner : Nat := 7

/-! ### Time -/

/-- L, the breath length in cycles (R26). -/
def breathLen (s : State) : Nat := 2 ^ s.brt.log2Len

/-- The block stands at an inhale: cycle 0 of a breath that is not in its exhale (R27). -/
def atInhale (s : State) : Bool := s.brt.cycle = 0 && !s.brt.exhale

/-- The breath in which a request arrives counts (R41, R74, R86): in an exhale it is taken at the next inhale. -/
def requestBreath (s : State) : Nat := if s.brt.exhale then s.brt.count + 1 else s.brt.count

/-- The first inhale after work that ends now (R40). -/
def nextInhale (s : State) : Nat := s.brt.count + 1

/-- The device has power and reset is not held (R455, R456). -/
def isLive (s : State) : Bool := s.dev.powerGood && !s.dev.held

/-- The device is live and not HALTED. -/
def isRunning (s : State) : Bool := isLive s && s.dev.mode ≠ .halted

/-- From the inhale of H + 1 until its flush a controlled halt holds back every completion: what is not released by then ends in the
flush (R47). -/
def haltHolds (s : State) : Bool := s.dev.halting && !s.dev.haltFlushed && decide (s.dev.haltBreath < s.brt.count)

/-- A meaning that acts while the device is live; otherwise nothing happens. -/
def whenLive (s t : State) : Host.Outcome State Fault Refusal := .next (if isLive s then t else s)

/-- A meaning that acts outside HALTED (R46, R47, R50); otherwise nothing happens. -/
def whenRunning (s t : State) : Host.Outcome State Fault Refusal := .next (if isRunning s then t else s)

/-! ### Free values -/

/-- The next free word of `w` bits. -/
def freshWord (w : Nat) (s : State) : BitVec w × State := (Config.freeWord w s.free, { s with free := s.free + 1 })

/-- `n` free bytes: DRBG output, nonces, keys drawn (R350). -/
def freshBytes (n : Nat) (s : State) : Bytes × State :=
  (bvBytes n (Config.freeWord (8 * n) s.free), { s with free := s.free + 1 })

/-- A choice among `k` that the device makes itself (R24). -/
def freshChoice (k : Nat) (s : State) : Nat × State :=
  (if k = 0 then 0 else Config.freeChoice s.free k % k, { s with free := s.free + 1 })

/-- Put an event on the block's ports. -/
def emit (s : State) (o : Out) : State := { s with out := o :: s.out }

/-- Put events on the block's ports, the first one first. -/
def emitAll (s : State) (l : List Out) : State := { s with out := l.reverse ++ s.out }

/-! ### Ports, functions, instances, rings, jobs, units -/

def portAt (s : State) (p : Nat) : HostPort := s.ports.getD p HostPort.init
def modPort (s : State) (p : Nat) (f : HostPort → HostPort) : State := { s with ports := listMod s.ports p f }
def modInst (s : State) (i : Nat) (f : Inst → Inst) : State := { s with insts := tblMod s.insts i f }
def modJob (s : State) (j : Nat) (f : Job → Job) : State := { s with jobs := tblMod s.jobs j f }

/-- The instance of a VF (R60). -/
def instOf (s : State) (p vf : Nat) : Option (Nat × Inst) :=
  s.insts.find? (fun e => e.2.port.val = p && e.2.vf = vf)

/-- The queue pair of a ring. -/
def ringQp (s : State) : Ring → Option Qp
  | .adm p => some (portAt s p.val).adm.qp
  | .inst i q => (tblGet s.insts i).bind (fun x => tblGet x.queues q)

/-- Change the queue pair of a ring. -/
def modRing (s : State) (g : Ring) (f : Qp → Qp) : State :=
  match g with
  | .adm p => modPort s p.val (fun h => { h with adm := { h.adm with qp := f h.adm.qp } })
  | .inst i q => modInst s i (fun x => { x with queues := tblMod x.queues q f })

/-- A function is in D3hot and issues no DMA (R53); the PF is function 0. -/
def fnAsleep (s : State) (p fn : Nat) : Bool :=
  if fn = 0 then (portAt s p).pfD3hot else (tblGet (portAt s p).vfs fn).elim false Vf.d3hot

/-- The function a ring belongs to: port and number. -/
def ringFn (s : State) : Ring → Nat × Nat
  | .adm p => (p.val, 0)
  | .inst i _ => match tblGet s.insts i with
    | some x => (x.port.val, x.vf)
    | none => (0, 0)

/-- The function a ring belongs to is in D3hot. -/
def ringAsleep (s : State) (g : Ring) : Bool := fnAsleep s (ringFn s g).1 (ringFn s g).2

/-- The port whose link carries a ring's traffic. -/
def ringPort (s : State) (g : Ring) : Nat := (ringFn s g).1

/-- The MSI-X table of a function: the PF is function 0 (R53). -/
def msixOf (s : State) (p vf : Nat) : Msix :=
  if vf = 0 then (portAt s p).msix else (tblGetD (portAt s p).vfs vf Vf.init).msix

/-- Change a function's MSI-X structure. -/
def modMsix (s : State) (p vf : Nat) (f : Msix → Msix) : State :=
  if vf = 0 then modPort s p (fun h => { h with msix := f h.msix })
  else modPort s p (fun h =>
    let v := tblGetD h.vfs vf Vf.init
    { h with vfs := tblPut h.vfs vf { v with msix := f v.msix } })

/-- A vector's table entry; one never written is masked (log 5). -/
def msixEntry (m : Msix) (v : Nat) : MsixEntry := tblGetD m.table v MsixEntry.init

/-- The cluster of a reed (two-level hierarchy of 01: 16 reeds a cluster). -/
def reedCluster (r : Nat) : Nat := r / 16

def clusterAt (s : State) (c : Nat) : Cluster := tblGetD s.clusters c Cluster.init
def setCluster (s : State) (c : Nat) (x : Cluster) : State := { s with clusters := tblPut s.clusters c x }
def modCluster (s : State) (c : Nat) (f : Cluster → Cluster) : State := setCluster s c (f (clusterAt s c))
def reedAt (s : State) (r : Nat) : Reed := tblGetD s.reeds r Reed.init
def setReed (s : State) (r : Nat) (x : Reed) : State := { s with reeds := tblPut s.reeds r x }
def modReed (s : State) (r : Nat) (f : Reed → Reed) : State := setReed s r (f (reedAt s r))

/-- A unit is muted, by itself or with its cluster (R123). -/
def reedMuted (s : State) (r : Nat) : Bool :=
  (clusterAt s (reedCluster r)).muted || s.health.muted.any (fun u => match u with
    | .reed x => x.val = r
    | _ => false)
def mauMuted (s : State) (c : Nat) : Bool :=
  (clusterAt s c).muted || s.health.muted.any (fun u => match u with
    | .mau x => x.val = c
    | _ => false)

/-! ### The event log (R435 to R437) -/

/-- Severities of R435. -/
def sevInfo : Nat := 0
def sevAlarm : Nat := 1
def sevHalt : Nat := 2
def sevCustody : Nat := 3

/-- The severity of an event code (R437). -/
def codeSeverity (code : Nat) : Nat :=
  if code / 256 = 1 then sevHalt else if code / 256 = 2 then sevAlarm else if code / 256 = 3 then sevCustody else sevInfo

/-- The MON_ALARMS bit an event raises (MON_ALARMS table). -/
def alarmBit (code : Nat) : Option Nat :=
  if code = 0x0201 then some 0 else if code = 0x0202 then some 1 else if code = 0x0203 then some 2
  else if code = 0x0204 then some 3 else if code = 0x0205 then some 4
  else if code = 0x0206 ∨ code = 0x0207 ∨ code = 0x0208 then some 5
  else if code = 0x0210 then some 6
  else if code = 0x0209 ∨ code = 0x020A ∨ code = 0x020B then some 7 else none

/-- The event time (R435): milliseconds, zero before any SET_TIME. -/
def logTime (s : State) : Nat :=
  match s.mgc.timeBase with
  | none => 0
  | some (t, m) => t + (s.mgc.readings.millis - m)

/-- Bytes 0 to 47 of a log record (R435). -/
def logBytes (r : LogRec) : Bytes :=
  leBytes 8 r.seq ++ leBytes 8 r.breath ++ leBytes 8 r.time ++ leBytes 2 r.code ++ leBytes 1 r.severity ++ [0] ++
    leBytes 4 r.boot ++ r.data

/-- Records of the DDR4 log ring (R369, kind 9); 16 MiB, the least size, while no chart places it. -/
def ringCap (s : State) : Nat := match s.charts.inForce with
  | some c => ((c.ddr.regions.find? (fun g => g.kind = 9)).elim 256 Region.size) * 1024
  | none => 256 * 1024

/-- Append to the sealed log: 311 sectors of 1,024 records, the oldest sector erased for a new one (R432, R436). -/
def sealedAppend (r : LogRec) (log : List LogRec) : List LogRec :=
  r :: (if log.length < 311 * 1024 then log else log.take (310 * 1024))

/-- Log an event of a severity, with the MON_ALARMS bit it raises: the record, to the DDR4 ring unless HALTED, and to the sealed log unless INFO (R436); its alarm bit. A device without a
root has no event log key (R389): its records bear no MAC and are not sealed. -/
def logRecord (s : State) (code sev : Nat) (bit : Option Nat) (data : Bytes) : State :=
  let r0 : LogRec := ⟨s.mgc.logSeq, s.brt.count, logTime s, code, sev, s.mgc.bootCount,
    (padTo 16 data).take 16, []⟩
  let r := match s.mgc.logKey with
    | some k => { r0 with mac := kmac256 k (logBytes r0 ++ s.mgc.logMac) 16 (ascii "SYN1 event") }
    | none => r0
  { s with mgc := { s.mgc with
      logSeq := s.mgc.logSeq + 1
      logMac := if s.mgc.logKey.isSome then r.mac else s.mgc.logMac
      ring := if s.dev.mode = .halted then s.mgc.ring else (r :: s.mgc.ring).take (ringCap s)
      sealedLog := if r.severity = sevInfo || s.mgc.logKey.isNone then s.mgc.sealedLog else sealedAppend r s.mgc.sealedLog
      alarms := match bit with
        | some b => s.mgc.alarms ||| 2 ^ b
        | none => s.mgc.alarms } }

/-- Log an event of the catalogue (R437). -/
def logEvent (s : State) (code : Nat) (data : Bytes) : State := logRecord s code (codeSeverity code) (alarmBit code) data

/-! ### Monitor samples (R443 to R445) -/

/-- The bin a sample falls in (R444). -/
def monBin (bins v : Nat) : Nat :=
  let s := bitsOf bins 4 0
  if bitOf bins 7 then (if v < 2 ^ s then 0 else min 15 (Nat.log2 (v / 2 ^ s) + 1))
  else min 15 (v / 2 ^ s)

/-- Add a sample to a set; SAMPLES and the bins saturate. -/
def monAdd (bins v : Nat) (m : MonSet) : MonSet :=
  { m with
    min := min m.min v
    max := max m.max v
    samples := sat 32 (m.samples + 1)
    bins := listMod m.bins (monBin bins v) (fun n => sat 32 (n + 1)) }

/-- A sample of a source reaches every channel that watches it. -/
def monSample (s : State) (source index v : Nat) : State :=
  { s with mgc := { s.mgc with channels := s.mgc.channels.map (fun c =>
      if c.cfg.source = source ∧ c.cfg.index = index then { c with active := monAdd c.cfg.bins v c.active } else c) } }

/-- The latency sample of a completion released in this breath (QUEUE_LATENCY). -/
def latencySample (s : State) (c : Compl) : State :=
  match c.ring with
  | .adm _ => s
  | .inst i _ => monSample s 1 i (s.brt.count - c.fetched)

/-! ### Token buckets (R89) -/

/-- The bucket's unit: 1/73,728,000 byte, in which a core cycle earns a whole number at every clock step. -/
def bucketUnit : Nat := 73728000

/-- The most a bucket holds: 8 KiB. -/
def bucketCap : Int := ((8192 * bucketUnit : Nat) : Int)

/-- Units of 1/18,000 µs in a core cycle at a clock step (R32). -/
def cycleTime (step : Nat) : Nat := if step = 0 then 12 else if step = 1 then 15 else 20

/-- R of R89: 31,500 for a x8 port, 63,000 for a x16 port. -/
def portRate (s : State) (p : Nat) : Nat := if (portAt s p).x16 then 63000 else 31500

/-- What an instance's bucket earns in `n` cycles. -/
def bucketEarn (s : State) (n : Nat) (x : Inst) : Inst :=
  { x with bucket := min bucketCap (x.bucket + ((x.dmaShare * portRate s x.port.val * cycleTime s.brt.clockStep * n : Nat) : Int)) }

/-- Let `n` core cycles pass for the buckets (R89) and, in the working phase, for the MAUs (R27, R232), and advance the cycle count. -/
def passCycles (s : State) (n : Nat) : State :=
  { s with
    brt := { s.brt with cycle := s.brt.cycle + n }
    insts := s.insts.map (fun e => (e.1, bucketEarn s n e.2))
    clusters := s.clusters.map (fun e => (e.1, { e.2 with mau := { e.2.mau with left := if s.brt.exhale then e.2.mau.left else e.2.mau.left - n } })) }

/-- A tick with no command waiting: one core cycle passes. Time stops before cycle L - 256 until EXHALE, and at the breath's last
cycle until INHALE (log 2). -/
def idleTick (s : State) : State :=
  let last := if s.brt.exhale then breathLen s - 1 else breathLen s - 257
  if isRunning s && s.brt.cycle < last then passCycles s 1 else s

/-- Buckets pace DMA in SERVICE, MIGRATE and SHADOW (R89, R94). -/
def bucketMode (s : State) : Bool := s.dev.mode = .service || s.dev.mode = .migrate || s.dev.mode = .shadow

/-- A read burst of `n` bytes may issue now. -/
def bucketAllows (s : State) (i n : Nat) : Bool :=
  !bucketMode s || (match tblGet s.insts i with
    | some x => decide (((n * bucketUnit : Nat) : Int) ≤ x.bucket)
    | none => false)

/-- Charge a transfer to an instance. -/
def bucketCharge (s : State) (i n : Nat) : State :=
  if bucketMode s then modInst s i (fun x => { x with bucket := x.bucket - ((n * bucketUnit : Nat) : Int) }) else s

/-- Charge a transfer of a function to its instance; a PF has no bucket. -/
def fnCharge (s : State) (p fn n : Nat) : State :=
  if fn = 0 then s
  else match instOf s p fn with
    | some (i, _) => bucketCharge s i n
    | none => s

/-- Charge a transfer on a ring to its instance; an admin ring has no bucket. -/
def ringCharge (s : State) (g : Ring) (n : Nat) : State :=
  match g with
  | .adm _ => s
  | .inst i _ => bucketCharge s i n

/-! ### Errors (R83, R467) -/

/-- An instance enters ERROR; in ERROR or RESETTING the cause changes nothing. -/
def instError (s : State) (i cause : Nat) : State :=
  modInst s i (fun x => if x.state = .active then { x with state := .error, errCause := cause } else x)

/-- An admin queue enters error; a later cause changes nothing. -/
def admError (s : State) (p cause : Nat) : State :=
  modPort s p (fun h => if h.adm.error then h else { h with adm := { h.adm with error := true, errCause := cause } })

/-- The error of the owner of a ring. -/
def ringError (s : State) (g : Ring) (cause : Nat) : State :=
  match g with
  | .adm p => admError s p.val cause
  | .inst i _ => instError s i cause

/-! ### Requests of the DMA engine (R54, R88) -/

/-- `n` bytes from an address on, cut into requests of at most `m` bytes none of which crosses a 4 KiB boundary: address and length of each. -/
def dmaCuts (m : Nat) : Nat → Nat → Nat → List (Nat × Nat)
  | 0, _, _ => []
  | fuel + 1, a, n =>
    if n = 0 then []
    else
      let k := min n (min m (4096 - a % 4096))
      (a, k) :: dmaCuts m fuel (a + k) (n - k)

/-- The bytes a Max_Payload_Size or Max_Read_Request_Size code allows. -/
def sizeOfCode (k : Nat) : Nat := 128 * 2 ^ k

/-- The writes of some bytes through a port. -/
def dmaWrites (s : State) (p addr : Nat) (ro : Bool) (bs : Bytes) : List Out :=
  (dmaCuts (sizeOfCode (portAt s p).mps) bs.length addr bs.length).map (fun e => .dmaWrite p e.1 ro (slice bs (e.1 - addr) e.2))

/-- The read requests of a function for `n` bytes. -/
def dmaReads (s : State) (p fn addr n : Nat) : List Out :=
  (dmaCuts (sizeOfCode (portAt s p).mrrs) n addr n).map (fun e => .dmaRead p fn e.1 e.2)

/-- The lowest page within a function's bytes whose translation gave no access. -/
def deniedPage (s : State) (p fn addr n : Nat) : Option Nat :=
  (((portAt s p).noAccess.filter (fun e => e.1 = fn && addr < 4096 * (e.2 + 1) && 4096 * e.2 < addr + n)).map (·.2)).min?

/-- A write has met the page: the failed translation is used up. -/
def dropDenied (s : State) (p fn page : Nat) : State :=
  modPort s p (fun h => { h with noAccess := h.noAccess.filter (· ≠ (fn, page)) })

/-! ### MSI-X (R80) -/

/-- Send a vector's message, charged to the function's instance (R89); or set its pending bit where it is masked or the function sleeps. -/
def msixSend (s : State) (p vf v : Nat) : State :=
  let e := msixEntry (msixOf s p vf) v
  if e.masked || fnAsleep s p vf then
    modMsix s p vf (fun m => { m with pending := if m.pending.contains v then m.pending else v :: m.pending })
  else fnCharge (emit s (.msix p vf v e.addr e.data)) p vf 4

/-- The function and vector of a ring's message. -/
def ringVector (s : State) (g : Ring) : Nat × Nat × Nat :=
  match g with
  | .adm p => (p.val, 0, (portAt s p.val).adm.qp.vector)
  | .inst i q => match tblGet s.insts i with
    | some x => (x.port.val, x.vf, (tblGet x.queues q).elim 0 Qp.vector)
    | none => (0, 0, 0)

/-- Send a ring's due message: at most one in a breath, after its last completion of the breath. -/
def ringMessage (s : State) (g : Ring) : State :=
  match ringQp s g with
  | none => s
  | some qp =>
    if qp.msgDue && qp.msgBreath ≠ some s.brt.count && !ringAsleep s g then
      let v := ringVector s g
      msixSend (modRing s g (fun q => { q with msgDue := false, msgBreath := some s.brt.count })) v.1 v.2.1 v.2.2
    else s

/-! ### Completions (R76 to R79, R92) -/

/-- The 32-byte completion entry (R76). -/
def complEntry (c : Compl) (len sqid head : Nat) (phase : Bool) : Bytes :=
  leBytes 2 c.tag.toNat ++ leBytes 2 (statusCode c.status) ++ leBytes 4 len ++ leBytes 4 c.breath ++ leBytes 4 c.gen ++
    leBytes 8 c.info ++ leBytes 2 sqid ++ leBytes 2 head ++ zeros 3 ++ [if phase then 0x80 else 0x00]

/-- The queue ID a completion entry carries (R76). -/
def ringSqid : Ring → Nat
  | .adm _ => 0
  | .inst _ q => q

/-- Write a completion entry at the ring's next index (R76, R77) and let its message become due (R80). Without a translation of its address
it is never written: its submission stays outstanding and the owner enters error (R83, R467, log 72). -/
def writeEntry (s : State) (c : Compl) : State :=
  match ringQp s c.ring with
  | none => s
  | some qp =>
    let n := 2 ^ qp.cqLog2
    let f := ringFn s c.ring
    let addr := qp.cqBase.toNat + 32 * (qp.wr % n)
    let phase : Bool := qp.wr / n % 2 = 0
    match deniedPage s f.1 f.2 addr 32 with
    | some page => ringError (dropDenied s f.1 f.2 page) c.ring errCqWrite
    | none =>
      let s1 := emit s (.dmaWrite f.1 addr false (complEntry c c.out.length (ringSqid c.ring) qp.head phase))
      let s2 := modRing s1 c.ring (fun q => { q with wr := q.wr + 1, out := q.out - 1, msgDue := true })
      ringCharge s2 c.ring 32

/-- Relaxed Ordering is on for data writes (R53, R92). -/
def relaxedOrder (s : State) : Bool := match s.charts.inForce with
  | some c => c.relaxed
  | none => false

/-- The instance of a ring has the generation of the completion (R86: the bell drops others). -/
def generationHolds (s : State) (c : Compl) : Bool :=
  match c.ring with
  | .adm _ => true
  | .inst i _ => match tblGet s.insts i with
    | some x => x.gen = c.gen
    | none => false

/-- Write a completion's output. Where a translation gives no access the writes before it are issued, and the submission ends with
DMA_FAULT, its owner in error (R54, R83, R84). Answers the completion as it now is. -/
def writeOutput (s : State) (c : Compl) : Compl × State :=
  if c.out = [] then (c, s)
  else
    let f := ringFn s c.ring
    let a := c.outAddr.toNat
    let send (t : State) (bs : Bytes) : State := ringCharge (emitAll t (dmaWrites t f.1 a (relaxedOrder t) bs)) c.ring bs.length
    match deniedPage s f.1 f.2 a c.out.length with
    | none => (c, send s c.out)
    | some page =>
      ({ c with status := .dmaFault, out := [], info := 0 },
        ringError (dropDenied (send s (c.out.take (4096 * page - a))) f.1 f.2 page) c.ring errDmaTranslate)

/-- Write an entry, or drop it with its generation. -/
def putEntry (s : State) (c : Compl) : State := if generationHolds s c then writeEntry s c else s

/-- Write the entries held on a ring, oldest first, up to one whose fence read is outstanding. -/
def writeHeld (g : Ring) : List Compl → State → State
  | [], s => modRing s g (fun q => { q with held := [] })
  | c :: rest, s =>
    if c.fence then modRing s g (fun q => { q with fence := some c, held := rest }) else writeHeld g rest (putEntry s c)

/-- Issue a completion (R92): its output and the fence read it needs at once, then its entry, unless a fence read before it is
outstanding (R79). A function in D3hot issues nothing: all of it waits. -/
def issueCompl (s : State) (c : Compl) : State :=
  if !generationHolds s c then s else
  match ringQp s c.ring with
  | none => s
  | some qp =>
    if ringAsleep s c.ring then modRing s c.ring (fun q => { q with asleep := q.asleep ++ [c] })
    else
      let r := writeOutput s c
      let fenced : Bool := c.fence && relaxedOrder s && r.1.out ≠ []
      let s1 := if fenced then emit r.2 (.zeroRead (ringPort s c.ring) (c.outAddr.toNat + c.out.length - 1)) else r.2
      let c1 := { r.1 with fence := fenced }
      if qp.fence.isSome then modRing s1 c.ring (fun q => { q with held := q.held ++ [c1] })
      else if fenced then modRing s1 c.ring (fun q => { q with fence := some c1 })
      else writeEntry s1 c1

/-- The function of a ring is back in D0: what waited is issued, in order. -/
def issueHeld (s : State) (g : Ring) : State :=
  match ringQp s g with
  | none => s
  | some qp =>
    let s1 := if qp.fence.isSome then s else writeHeld g qp.held s
    qp.asleep.foldl issueCompl (modRing s1 g (fun q => { q with asleep := [] }))

/-- Queue a completion off the ladder for an inhale, in class `cls` ordered by `key` (R127). -/
def addWaiting (s : State) (c : Compl) (cls key due : Nat) : State :=
  { s with waiting := s.waiting ++ [⟨c, cls, key, due⟩] }

/-- A completion may still be written to a ring in this breath: one that is due off the ladder, a result or an aborted job whose breath has
come, an entry that waits on a fence read. -/
def moreDue (s : State) (g : Ring) : Bool :=
  s.waiting.any (fun w => w.c.ring = g && w.due ≤ s.brt.count) ||
    s.jobs.any (fun e => decide (Ring.inst e.2.inst e.2.queue = g) && decide (e.2.stage = .held ∨ e.2.stage = .aborted) && e.2.internal.isNone &&
      e.2.due ≤ s.brt.count) ||
    ((ringQp s g).bind Qp.fence).isSome

/-- Send a ring's message when its last completion of the breath has been written (R80). -/
def messageIfLast (s : State) (g : Ring) : State := if moreDue s g then s else ringMessage s g

/-- Every ring of the block: the admin rings, then the instances' queues. -/
def allRings (s : State) : List Ring :=
  (List.finRange 8).map .adm ++ s.insts.flatMap (fun e => e.2.queues.map (fun q => .inst e.1 q.1))

/-- As a breath ends, the rings written in it that still owe their message send it (R80). -/
def lastMessages (s : State) : State := (allRings s).foldl ringMessage s

/-- The order of completions off the ladder in a breath (R127): class, then port or instance for commands, then the order in
which their work ended. -/
def waitingBefore (a b : Waiting) : Bool := a.cls < b.cls || (a.cls = b.cls && a.cls ≠ 2 && a.key < b.key)

/-- The first of the completions due, in that order. -/
def firstWaiting (count : Nat) : List Waiting → Option Waiting
  | [] => none
  | w :: rest =>
    match firstWaiting count rest with
    | none => if w.due ≤ count then some w else none
    | some v => if w.due ≤ count && !waitingBefore v w then some w else some v

/-- A completion of a submission with no output. -/
def bareCompl (g : Ring) (tag : BitVec 16) (st : Status) (gen fetched : Nat) : Compl :=
  ⟨g, tag, st, 0, [], 0, 0, gen, false, fetched⟩

/-- Remove a slot from every cluster key cache (R119). -/
def uncacheSlot (s : State) (i h : Nat) : State :=
  { s with clusters := s.clusters.map (fun e => (e.1, { e.2 with keyCache := e.2.keyCache.filter (· ≠ (i, h)) })) }

end Sys2Proof.Machine
end

