-- ==== Sys2Proof/Machine/Placement.lean ====
section
/-! DEFINITION. Capacity of pools, placement in the exhale (R103, R104, R113 to R118, R120, R121, R218 to R220) and the rungs of the
ladder (R33 to R37). -/

namespace Sys2Proof.Machine

/-! ### Capacity -/

/-- The pools of the chart in force. -/
def poolsNow (s : State) : List PoolCfg := match s.charts.inForce with
  | some c => c.pools
  | none => []

/-- The chart that will be in force at the inhale of breath `n` (R29). -/
def chartAt (s : State) (n : Nat) : Option Chart :=
  match s.charts.fullWait, s.charts.deltaWait with
  | some w, _ => if w.inhale ≤ n then some w.chart else s.charts.inForce
  | none, some w => if w.inhale ≤ n then some w.chart else s.charts.inForce
  | none, none => s.charts.inForce

/-- The pool of a cluster in a chart; a cluster in none is a spare (R103). -/
def clusterPool (c : Option Chart) (k : Nat) : Option Nat :=
  c.bind (fun ch => (ch.pools.find? (fun p => bitOf p.mask k)).map PoolCfg.id)

/-- The reeds of a cluster. -/
def clusterReeds (k : Nat) : List Nat := (List.range 16).map (fun i => 16 * k + i)

/-- Unmuted reeds of a pool (R104). -/
def poolReeds (s : State) (p : PoolCfg) : Nat :=
  (((maskClusters p.mask).flatMap clusterReeds).filter (fun r => !reedMuted s r)).length

/-- Unmuted MAUs of a pool (R104). -/
def poolMaus (s : State) (p : PoolCfg) : Nat := ((maskClusters p.mask).filter (fun c => !mauMuted s c)).length

/-- The routines of a chart a pool serves. -/
def poolRoutines (ch : Chart) (p : PoolCfg) : List RoutineSec := ch.routines.filter (fun r => p.routines.contains r.rid)

/-- A pool serves gang routines only (R220). -/
def gangPool (p : PoolCfg) : Bool := p.routines.any gangRoutine

/-- Complete gangs of a pool: its clusters four at a time, none of them with a muted reed (R220). -/
def poolGangs (s : State) (p : PoolCfg) : List (List Nat) :=
  (chunksOf4 (maskClusters p.mask)).filter (fun g => g.length = 4 && (g.flatMap clusterReeds).all (fun r => !reedMuted s r))
where
  chunksOf4 : List Nat → List (List Nat)
    | a :: b :: c :: d :: rest => [a, b, c, d] :: chunksOf4 rest
    | [] => []
    | _ => []

/-- A pool has fallen below its minimum (R125, R220). -/
def poolBelowMin (s : State) (ch : Chart) (p : PoolCfg) : Bool :=
  if gangPool p then 64 * (poolGangs s p).length < p.minReeds
  else poolReeds s p < p.minReeds ||
    (poolMaus s p < p.minMaus && (poolRoutines ch p).any (fun r => routineClass r = .mau))

/-- Some pool of the chart in force is below its minimum. -/
def anyPoolBelow (s : State) : Bool := match s.charts.inForce with
  | some ch => ch.pools.any (poolBelowMin s ch)
  | none => false

/-- A routine section of the chart in force. -/
def routineSec (s : State) (rid : Nat) : Option RoutineSec :=
  s.charts.inForce.bind (fun ch => ch.routines.find? (fun r => r.rid = rid))

/-- The pool of an instance's job of a routine: the lowest that serves it and in which the instance holds a share (R104). -/
def poolFor (s : State) (x : Inst) (rid : Nat) : Option Nat :=
  ((poolsNow s).find? (fun p => p.routines.contains rid && x.poolShare.getD p.id 0 ≠ 0)).map PoolCfg.id

/-! ### Units -/

/-- The reeds a job's unit holds. -/
def unitReeds : JobUnit → List Nat
  | .none => []
  | .reed r => [r]
  | .mau _ r => [r]
  | .gang cs => cs.flatMap clusterReeds

/-- A job holds its unit at the inhale of breath `n` unless its result is in the bell and `n` is its release breath (R113). -/
def holdsUnit (n : Nat) (j : Job) : Bool := j.unit ≠ .none && !(j.stage = .held && j.due ≤ n)

def reedBusy (s : State) (n r : Nat) : Bool := s.jobs.any (fun e => holdsUnit n e.2 && (unitReeds e.2.unit).contains r)
def mauBusy (s : State) (n c : Nat) : Bool := s.jobs.any (fun e => holdsUnit n e.2 && (match e.2.unit with
  | .mau k _ => k = c
  | _ => false))

/-- The lowest free reed of a cluster. -/
def freeReed (s : State) (n c : Nat) : Option Nat :=
  (clusterReeds c).find? (fun r => !reedMuted s r && !reedBusy s n r)

/-- Occupied reeds of a cluster, assignments of this exhale among them. -/
def busyReeds (s : State) (n c : Nat) : Nat := ((clusterReeds c).filter (reedBusy s n)).length

/-- A cluster serves pool `p` at the inhale of `n`: it does so in the layout then in force, has not just moved there, and its
control store is loaded (R120, R121). -/
def clusterServes (s : State) (n p c : Nat) : Bool :=
  clusterPool (chartAt s n) c = some p && clusterPool s.charts.inForce c = some p &&
    (match (clusterAt s c).entering with
      | none => true
      | some i => i + 2 ≤ n)

/-- Jobs of a routine may be placed in a pool at the inhale of `n`: one that a delta added at I, from the inhale of I + 2 (R183). -/
def routineReady (s : State) (n pool rid : Nat) : Bool :=
  !s.charts.adds.any (fun a => a.pool = pool && a.rid = rid && n < a.inhale + 2)

/-- A routine is in a cluster's control store (R183). -/
def routinePlaced (s : State) (c rid : Nat) : Bool := (clusterAt s c).placed.any (fun q => q.rid = rid)

/-- The unit a cluster can give a job of a class at the inhale of `n` (R113, R118, R163). -/
def clusterUnit (s : State) (n : Nat) (cls : UnitClass) (c : Nat) : Option JobUnit :=
  match cls with
  | .reed => (freeReed s n c).map .reed
  | .mau => if mauMuted s c || mauBusy s n c then none else (freeReed s n c).map (.mau c)
  | .gang => none

/-- The gangs of a pool free at the inhale of `n` (R220). -/
def freeGangs (s : State) (n : Nat) (p : PoolCfg) : List (List Nat) :=
  (poolGangs s p).filter (fun g => g.all (clusterServes s n p.id) && (g.flatMap clusterReeds).all (fun r => !reedBusy s n r))

/-- The built-in curve of an ALG_ID (R207, R231). -/
def builtinCurve : Nat → Option Nat
  | 0x1001 => some 0 | 0x1002 => some 1 | 0x1003 => some 2 | 0x1004 => some 7 | 0x1005 => some 8 | 0x1006 => some 9
  | 0x1101 => some 4 | 0x1102 => some 6 | 0x1201 => some 3 | 0x1202 => some 5 | _ => none

/-- What a job selects on a MAU (R118, preference 2): kind and value. What a customer's routine selects shows only as it runs. -/
def curveChoice (j : Job) : Nat × Nat :=
  let alg := le j.entry 8 2
  if j.kind ≠ .pk then (0, 0)
  else if 0x1007 ≤ alg ∧ alg ≤ 0x1009 then (2, le j.entry 42 2)
  else if 0x1301 ≤ alg ∧ alg ≤ 0x1304 then (3, le j.entry 10 2)
  else (builtinCurve alg).elim (0, 0) (fun x => (1, x))

/-- The key slot a job names, if any. -/
def jobSlot (j : Job) : Option Nat := if le j.entry 10 2 = 0xFFFF then none else some (le j.entry 10 2)

/-- How much a cluster is preferred for a job: 0 most (R118). -/
def preference (s : State) (j : Job) (c : Nat) : Nat :=
  let k := clusterAt s c
  let ch := curveChoice j
  if (match jobSlot j with
    | some h => k.keyCache.contains (j.inst, h)
    | none => false) then 0
  else if j.cls = .mau && ch.1 ≠ 0 && k.mau.lastInst = some j.inst && k.mau.lastCurve = ch.1 && k.mau.lastSlot = ch.2 then 1
  else 2

/-- Pick the first of the best by a measure, in list order. -/
def bestBy {α : Type} (f : α → Nat) : List α → Option α
  | [] => none
  | a :: as => match bestBy f as with
    | none => some a
    | some b => if f a ≤ f b then some a else some b

/-- Clusters in the order of ties at breath `n`: ascending from n mod 64, wrapping (R118). -/
def clusterOrder (n : Nat) : List Nat := (List.range 64).map (fun i => (n + i) % 64)

/-- The unit R118 gives a job at the inhale of `n`. -/
def chooseUnit (s : State) (n : Nat) (j : Job) : Option JobUnit :=
  match j.cls with
  | .gang =>
    match (poolsNow s).find? (fun p => p.id = j.pool) with
    | none => none
    | some p =>
      let gs := (freeGangs s n p).filter (fun g => g.all (fun c => routinePlaced s c j.rid) && routineReady s n j.pool j.rid)
      let order := (clusterOrder n).filterMap (fun c => gs.find? (fun g => g.head? = some c))
      (bestBy (fun g => preference s j (g.headD 0)) order).map .gang
  | cls =>
    let cs := (clusterOrder n).filter (fun c => clusterServes s n j.pool c && routinePlaced s c j.rid && routineReady s n j.pool j.rid &&
      (clusterUnit s n cls c).isSome)
    (bestBy (fun c => preference s j c * 32 + busyReeds s n c) cs).bind (clusterUnit s n cls)

/-- A MAU whose next job is of another instance than its last executes WIPE in the exhale of that assignment, and the slot that the last job named
leaves every key cache (R119, R233). -/
def ownerWipe (s : State) (inst : Nat) : JobUnit → State
  | .mau c _ =>
    let m := (clusterAt s c).mau
    match m.lastInst with
    | none => s
    | some i =>
      if i = inst then s
      else
        let s1 := modCluster s c (fun k => { k with mau := mauWipe k.mau })
        m.lastKey.elim s1 (uncacheSlot s1 i)
  | _ => s

/-- Assign a job to the unit of R118 at the inhale of `n`, if there is one. -/
def assignJob (s : State) (n k : Nat) : State :=
  match tblGet s.jobs k with
  | none => s
  | some j => match chooseUnit s n j with
    | none => s
    | some u => modJob (ownerWipe s j.inst u) k (fun x => { x with stage := .assigned, unit := u })

/-! ### Displaced jobs (R114) -/

/-- Insert by a number, after equals. -/
def insertBy {α : Type} (f : α → Nat) (a : α) : List α → List α
  | [] => [a]
  | b :: bs => if f a < f b then a :: b :: bs else b :: insertBy f a bs

/-- Sort by a number, stably. -/
def sortBy {α : Type} (f : α → Nat) (l : List α) : List α := l.foldl (fun acc a => insertBy f a acc) []

/-- Displaced jobs in ascending S, then ascending instance number; the number of attestation jobs, 4,096, is the highest. -/
def displacedOrder (s : State) : List Nat :=
  (sortBy (fun e => (e.2.start.getD 0) * 8192 + e.2.inst) (s.jobs.filter (fun e => e.2.stage = .displaced))).map (·.1)

def placeDisplaced (s : State) (n : Nat) : State := (displacedOrder s).foldl (fun t k => assignJob t n k) s

/-! ### Weighted deficit round robin (R115, R116, R218) -/

/-- The routine ID of mceliece6960119 encapsulation (R210). -/
def mcelieceEncaps : Nat := 0x0712

/-- A class of R115: MAU jobs on their own; gangs are their pool's only units. -/
def classOf (mau : Bool) (j : Job) : Bool := (j.cls = .mau) = mau

/-- Some cluster of a pool has a routine in its control store (R183). -/
def poolLoaded (s : State) (pool rid : Nat) : Bool :=
  s.clusters.any (fun e => clusterPool s.charts.inForce e.1 = some pool && e.2.placed.any (fun q => q.rid = rid))

/-- A job is pending for R115: admitted, not placed, its routine loaded (R183), and not held back by the start limiter (R116). -/
def pendingFor (s : State) (pool : Nat) (mau : Bool) (j : Job) : Bool :=
  j.stage = .pending && j.pool = pool && classOf mau j && poolLoaded s pool j.rid &&
    routineReady s (s.brt.count + 1) pool j.rid && !(j.rid = mcelieceEncaps && s.plc.mcCount < 10000)

/-- An instance's oldest pending job in a pool and class, with its budget (R116). -/
def oldestPending (s : State) (pool : Nat) (mau : Bool) (i : Nat) : Option (Nat × Job) :=
  s.jobs.find? (fun e => e.2.inst = i && pendingFor s pool mau e.2)

/-- Instances with a pending job, ascending from a pointer with wrap. -/
def backlogged (s : State) (pool : Nat) (mau : Bool) (ptr : Nat) : List Nat :=
  let l := (s.insts.filter (fun e => (oldestPending s pool mau e.1).isSome)).map (·.1)
  l.filter (fun i => ptr ≤ i) ++ l.filter (fun i => i < ptr)

def deficitOf (s : State) (i pool : Nat) (mau : Bool) : Nat :=
  match s.plc.deficits.find? (fun x => x.inst = i ∧ x.pool = pool ∧ x.mau = mau) with
  | some x => x.d
  | none => 0

/-- Set a deficit counter; a counter of zero is not listed. -/
def setDeficit (s : State) (i pool : Nat) (mau : Bool) (d : Nat) : State :=
  let rest := s.plc.deficits.filter (fun x => !(x.inst = i ∧ x.pool = pool ∧ x.mau = mau))
  { s with plc := { s.plc with deficits := if d = 0 then rest else ⟨i, pool, mau, d⟩ :: rest } }

def shareOf (s : State) (i pool : Nat) : Nat := match tblGet s.insts i with
  | some x => x.poolShare.getD pool 0
  | none => 0

/-- Rounds an instance needs before it can pay for its oldest job. -/
def roundsToPay (s : State) (pool : Nat) (mau : Bool) (i : Nat) : Nat :=
  match oldestPending s pool mau i with
  | none => 0
  | some (_, j) => ceilDiv (4096 * j.budget - deficitOf s i pool mau) (shareOf s i pool)

/-- Assign an instance's jobs while it can pay and units are free. Answers the state and the units left. -/
def payJobs (n pool : Nat) (mau : Bool) (i : Nat) : Nat → State × Nat → State × Nat
  | 0, x => x
  | fuel + 1, (s, f) =>
    match oldestPending s pool mau i with
    | none => (s, f)
    | some (k, j) =>
      let cost := 4096 * j.budget
      if f = 0 || deficitOf s i pool mau < cost || (chooseUnit s n j).isNone then (s, f)
      else
        let s1 := setDeficit (assignJob s n k) i pool mau (deficitOf s i pool mau - cost)
        let s2 := if j.rid = mcelieceEncaps then { s1 with plc := { s1.plc with mcCount := s1.plc.mcCount - 10000 } } else s1
        payJobs n pool mau i fuel (s2, f - 1)

/-- One pass over the instances of a round. -/
def roundPass (n pool : Nat) (mau : Bool) : List Nat → State × Nat → State × Nat
  | [], x => x
  | i :: rest, (s, f) =>
    if f = 0 then (s, f)
    else if (oldestPending s pool mau i).isNone then roundPass n pool mau rest (s, f)
    else
      let s1 := setDeficit s i pool mau (deficitOf s i pool mau + shareOf s i pool)
      let (s2, f2) := payJobs n pool mau i f (s1, f)
      if f2 = 0 then ({ s2 with plc := { s2.plc with ptr := tblPut s2.plc.ptr (2 * pool + flag mau) ((i + 1) % 4096) } }, 0)
      else roundPass n pool mau rest (s2, f2)

/-- The rounds of R115 in closed form: rounds in which nobody can pay are added at once. -/
def rounds (n pool : Nat) (mau : Bool) : Nat → State × Nat → State × Nat
  | 0, x => x
  | fuel + 1, (s, f) =>
    let l := backlogged s pool mau (tblGetD s.plc.ptr (2 * pool + flag mau) 0)
    match l with
    | [] => (s, f)
    | i :: rest =>
      if f = 0 then (s, f)
      else
        let k := rest.foldl (fun m j => min m (roundsToPay s pool mau j)) (roundsToPay s pool mau i)
        let s1 := l.foldl (fun t j => setDeficit t j pool mau (deficitOf t j pool mau + (k - 1) * shareOf t j pool)) s
        rounds n pool mau fuel (roundPass n pool mau l (s1, f))

/-- Units of a class of a pool free at the inhale of `n`. -/
def freeUnits (s : State) (n : Nat) (p : PoolCfg) (mau : Bool) : Nat :=
  let cs := (maskClusters p.mask).filter (clusterServes s n p.id)
  if mau then (cs.filter (fun c => (clusterUnit s n .mau c).isSome)).length
  else if gangPool p then (freeGangs s n p).length
  else ((cs.flatMap clusterReeds).filter (fun r => !reedMuted s r && !reedBusy s n r)).length

/-- Place the new jobs of one pool and class, then clear the counters of instances without a pending job. -/
def placeClass (s : State) (n : Nat) (p : PoolCfg) (mau : Bool) : State :=
  let f := freeUnits s n p mau
  let s1 := (rounds n p.id mau (f + 1) (s, f)).1
  { s1 with plc := { s1.plc with deficits := s1.plc.deficits.filter (fun x =>
      !(x.pool = p.id ∧ x.mau = mau) ∨ (oldestPending s1 p.id mau x.inst).isSome) } }

/-- Placement in the exhale for the inhale of `n`: displaced jobs, then new jobs pool by pool, reeds before MAUs. -/
def placement (s : State) (n : Nat) : State :=
  (poolsNow s).foldl (fun t p => placeClass (placeClass t n p false) n p true) (placeDisplaced s n)

/-! ### The ladder (R33 to R37) -/

/-- The release breath of a result that is in the bell by the inhale of breath `n`: the first rung it meets. -/
def rungBreath (start budget n : Nat) : Nat := start + budget * max 1 (ceilDiv (n - start) budget)

/-- RUNG in the header of a core (R143). -/
def rungIn (k : Nat) (c : ReedCore) : ReedCore := { c with opmem := storeSet c.opmem 0x7E0F (BitVec.ofNat 8 k) }

/-- RUNG in the header that a reed of a job holds, where the job was displaced in what it took along. -/
def rungReed (job k : Nat) (x : Reed) : Reed :=
  if x.job = some job then { x with core := rungIn k x.core, issue := x.issue.map (fun i => { i with before := rungIn k i.before }) } else x
def rungSaved (k : Nat) (j : Job) : Job := { j with saved := j.saved.map (fun e => (e.1.map (Option.map (rungIn k)), e.2)) }

/-- A job not done by the inhale of its rung moves to the next (R35); its header says so (R143). -/
def ladderAdvance (s : State) (k : Nat) : State :=
  match tblGet s.jobs k with
  | none => s
  | some j => match j.start with
    | none => s
    | some b =>
      if atInhale s && j.stage ≠ .held && j.rung ≤ 7 && s.brt.count = b + j.rung * j.budget then
        let s1 := modJob s k (fun x => { rungSaved (j.rung + 1) x with rung := j.rung + 1 })
        { s1 with reeds := s1.reeds.map (fun e => (e.1, rungReed k (j.rung + 1) e.2)) }
      else s

def execLadderRungAdvance (j : Nat) (s : State) : Host.Outcome State Fault Refusal := whenRunning s (ladderAdvance s j)

/-! ### The bell (R126, R127) -/

/-- Results in the hold store: BEL_STATUS.HELD. -/
def heldCount (s : State) : Nat := (s.jobs.filter (fun e => e.2.stage = .held)).length

/-- Move a posted result into the hold store (R37, R126). -/
def collectJob (s : State) (k : Nat) : State :=
  let s1 := modJob s k (fun j =>
    if j.stage = .posted then
      { j with stage := .held, due := rungBreath (j.start.getD 0) (max 1 j.budget) (s.brt.count + 1) } else j)
  { s1 with bell := ⟨max s1.bell.heldMax (heldCount s1)⟩ }

/-- A visit of the bell to a cluster's FIFO. -/
def bellVisit (s : State) (c : Nat) : State :=
  match (clusterAt s c).fifo with
  | [] => s
  | k :: rest => collectJob (modCluster s c (fun x => { x with fifo := rest })) k

/-- The bell drains every FIFO by the end of the exhale. -/
def bellDrain : Nat → State → State
  | 0, s => s
  | fuel + 1, s => match s.clusters.find? (fun e => e.2.fifo ≠ []) with
    | none => s
    | some e => bellDrain fuel (bellVisit s e.1)

/-- The order of ladder results in breath `n`: cluster from n mod 64, then order of posting (R127). -/
def releaseRank (n : Nat) (j : Job) : Nat :=
  match j.post with
  | some (c, o) => 2 ^ 64 * ((c + 64 - n % 64) % 64) + o
  | none => 0

/-- The held job to release next in this breath. -/
def nextRelease (s : State) : Option (Nat × Job) :=
  bestBy (fun e => releaseRank s.brt.count e.2) (s.jobs.filter (fun e => e.2.stage = .held && e.2.due ≤ s.brt.count))

/-! ### PLC_ registers -/

/-- Clusters in no pool. -/
def spareClusters (s : State) : Nat := ((List.range 64).filter (fun c => clusterPool s.charts.inForce c = none)).length

def plcChain (s : State) : Nat :=
  packFields [(0, 7, s.charts.deltas.length), (8, 5, (poolsNow s).length),
    (16, 7, match s.charts.inForce with
      | some _ => spareClusters s
      | none => 0)]

def plcPool (s : State) (k : Nat) : Nat :=
  match s.charts.inForce.bind (fun ch => (ch.pools.find? (fun p => p.id = k)).map (fun p => (ch, p))) with
  | none => 0
  | some (ch, p) =>
    let cs := maskClusters p.mask
    packFields [(0, 11, poolReeds s p), (16, 7, cs.length), (24, 7, poolMaus s p),
      (32, 11, 16 * cs.length - poolReeds s p), (48, 11, p.minReeds), (63, 1, flag (poolBelowMin s ch p))]

def belStatus (s : State) : Nat := packFields [(0, 11, heldCount s), (16, 11, max s.bell.heldMax (heldCount s))]

end Sys2Proof.Machine
end

