-- ==== Sys2Proof/Machine/Envelope.lean ====
section
/-! DEFINITION. Formats and algorithms of the windchest that need no state: blobs (R332), the hybrid KEM and its envelope (R339,
R340), escrow shares (R341, R342), attestation messages (R345, R346). -/

namespace Sys2Proof.Machine

/-! ### Blobs (R332) -/

/-- The header fields of a blob. -/
structure BlobHdr where
  wrap : Nat
  alg : Nat
  usage : Nat
  policy : Nat
  kind : Nat
  owner : Nat
  keyLen : Nat
  gen : Nat
  domainId : Nat
  fpr : Bytes
  custodianA : Nat
  custodianB : Nat
  deriving DecidableEq, Repr

/-- The fingerprint of key material (R332, R277). -/
def keyFpr (key : Bytes) : Bytes := (kmac256 key [] 32 (ascii "CTX1 key fpr")).take 16

/-- The 64 header bytes. -/
def blobHeader (h : BlobHdr) : Bytes :=
  leBytes 4 0x424F4C42 ++ [1] ++ leBytes 1 h.wrap ++ leBytes 2 h.alg ++ leBytes 2 h.usage ++ leBytes 1 h.policy ++
    leBytes 1 h.kind ++ leBytes 2 h.owner ++ leBytes 2 h.keyLen ++ leBytes 4 h.gen ++ zeros 4 ++ leBytes 8 h.domainId ++
    h.fpr ++ leBytes 4 h.custodianA ++ leBytes 4 h.custodianB ++ zeros 8

/-- Read the header fields. -/
def blobHdrOf (b : Bytes) : BlobHdr :=
  ⟨byteAt b 5, le b 6 2, le b 8 2, byteAt b 10, byteAt b 11, le b 12 2, le b 14 2, le b 16 4, le b 24 8, slice b 32 16,
    le b 48 4, le b 52 4⟩

/-- The length of a blob with `keyLen` bytes of material. -/
def blobLen (keyLen : Nat) : Nat := 72 + 8 * ceilDiv (64 + keyLen) 8

/-- A blob of a header and its material under a wrapping key. -/
def makeBlob (wrapKey : Bytes) (h : BlobHdr) (key : Bytes) : Bytes :=
  blobHeader h ++ kwpWrap wrapKey (blobHeader h ++ key)

/-- A custodian word: VALID with a member number (R332). -/
def custodianWord (member : Option Nat) : Nat := match member with
  | some m => 2 ^ 31 + m
  | none => 0

/-- Check 1 of R333: the form of a blob. -/
def blobFormOk (b : Bytes) : Bool :=
  let h := blobHdrOf b
  72 ≤ b.length && b.length = blobLen h.keyLen && le b 0 4 = 0x424F4C42 && byteAt b 4 = 1 && h.wrap = 1 && h.kind ≤ 3 &&
    zeroAt b 20 4 && zeroAt b 56 8 && h.usage < 2 ^ 12 && h.policy < 8 && h.owner < 2 ^ 12 &&
    bitsOf h.custodianA 30 18 = 0 && bitsOf h.custodianB 30 18 = 0 &&
    (h.kind = 2 || (h.custodianA = 0 && h.custodianB = 0))

/-- Check 3 of R333: unwrap, with the inner header equal to the outer; answers the material. -/
def blobOpen (wrapKey : Bytes) (b : Bytes) : Option Bytes :=
  match kwpUnwrap wrapKey (b.drop 64) with
  | none => none
  | some x => if x.take 64 = b.take 64 ∧ x.length = 64 + (blobHdrOf b).keyLen then some (x.drop 64) else none

/-! ### The hybrid KEM (R339) and envelopes (R340) -/

/-- X448 of RFC 7748 on byte strings. -/
def x448 (k u : Bytes) : Bytes :=
  let n := leNat k
  let clamped := (n - n % 4) % 2 ^ 447 + 2 ^ 447
  leBytes 56 (mMul curve448 clamped (leNat u % curve448.p))

/-- X25519 of RFC 7748 on byte strings. -/
def x25519 (k u : Bytes) : Bytes :=
  let n := leNat k
  let clamped := (n - n % 8) % 2 ^ 254 + 2 ^ 254
  leBytes 32 (mMul curve25519 clamped (leNat u % 2 ^ 255 % curve25519.p))

/-- RECIPIENT_ID of a hybrid public key. -/
def recipientId (pk : Bytes) : Bytes := sha3_256 pk

/-- Step 3 of R339. -/
def hybridKey (ssM ssX ctM ctX rid : Bytes) : Bytes := kmac256 (ssM ++ ssX) (ctM ++ ctX ++ rid) 32 (ascii "SYN1 hybrid kem")

/-- Encapsulation with ML-KEM randomness `m` and X448 scalar `e`: key and ciphertext; `none` on an all-zero ss_X. -/
def hybridEncaps (pk m e : Bytes) : Option (Bytes × Bytes) :=
  let pkM := pk.take 1568
  let ctM := Config.mlkemEncapsCt pkM m
  let ctX := x448 e (leBytes 56 5)
  let ssX := x448 e (pk.drop 1568)
  if allZero ssX then none
  else some (hybridKey (Config.mlkemEncapsSecret pkM m) ssX ctM ctX (recipientId pk), ctM ++ ctX)

/-- Decapsulation by an ML-KEM seed and an X448 scalar. -/
def hybridDecaps (seed scalar pk ct : Bytes) : Option Bytes :=
  let ssX := x448 scalar (ct.drop 1568)
  if allZero ssX then none
  else some (hybridKey (Config.mlkemDecaps seed (ct.take 1568)) ssX (ct.take 1568) (ct.drop 1568) (recipientId pk))

/-- The length of a KWP output. -/
def kwpLen (n : Nat) : Nat := 8 + 8 * ceilDiv n 8

/-- The length of an envelope for a payload. -/
def envelopeLen (n : Nat) : Nat := 1672 + kwpLen n

/-- An envelope (R340); `none` where the encapsulation fails. -/
def makeEnvelope (pk m e payload : Bytes) : Option Bytes :=
  (hybridEncaps pk m e).map (fun kc =>
    leBytes 4 0x564E4548 ++ [1] ++ zeros 3 ++ recipientId pk ++ leBytes 4 payload.length ++ zeros 4 ++ kc.2 ++
      kwpWrap kc.1 payload)

/-- The form of an envelope. -/
def envelopeFormOk (b : Bytes) : Bool :=
  1672 ≤ b.length && le b 0 4 = 0x564E4548 && byteAt b 4 = 1 && zeroAt b 5 3 && zeroAt b 44 4 && 1 ≤ le b 40 4 &&
    le b 40 4 ≤ 65536 && b.length = envelopeLen (le b 40 4)

/-- What opening an envelope comes to. -/
inductive Opened where
  | payload (b : Bytes)
  | wrongForm
  | badTag
  deriving DecidableEq, Repr

/-- Open an envelope addressed to the key pair (R340). -/
def openEnvelope (seed scalar pk b : Bytes) : Opened :=
  if !envelopeFormOk b || slice b 8 32 ≠ recipientId pk then .wrongForm
  else match hybridDecaps seed scalar pk (slice b 48 1624) with
    | none => .wrongForm
    | some k => match kwpUnwrap k (b.drop 1672) with
      | none => .badTag
      | some p => if p.length = le b 40 4 then .payload p else .badTag

/-! ### Escrow shares (R341, R342) -/

/-- f_j(x) for the key byte and its coefficients, lowest power first. -/
def shamirEval (x : Byte) : List Byte → Byte
  | [] => 0
  | a :: as => a ^^^ gf8Mul x (shamirEval x as)

/-- The share of a key at `x`: `coeffs` gives the K − 1 coefficients of each byte. -/
def shamirShare (x : Byte) (key : Bytes) (coeffs : List Bytes) : Bytes :=
  List.zipWith (fun k cs => shamirEval x (k :: cs)) key coeffs

/-- The Lagrange factor at 0 of `x` among the points `xs`. -/
def lagrangeAtZero (x : Byte) (xs : List Byte) : Byte :=
  (xs.filter (· ≠ x)).foldl (fun acc y => gf8Mul acc (gf8Mul y (gf8Inv (x ^^^ y)))) 1

/-- The key of K shares, given as (x, bytes). -/
def shamirCombine (n : Nat) (shares : List (Byte × Bytes)) : Bytes :=
  let xs := shares.map (·.1)
  (List.range n).map (fun j => shares.foldl (fun acc e => acc ^^^ gf8Mul (lagrangeAtZero e.1 xs) (e.2.getD j 0)) 0)

/-- The escrow package header. -/
def escrowHeader (k n : Nat) (escrowId : Bytes) (domainId : Nat) (h : BlobHdr) : Bytes :=
  leBytes 4 0x52435345 ++ [1] ++ leBytes 1 k ++ leBytes 1 n ++ [0] ++ escrowId ++ leBytes 8 domainId ++ h.fpr ++
    leBytes 2 h.alg ++ leBytes 2 h.usage ++ leBytes 1 h.policy ++ leBytes 1 h.keyLen ++ zeros 10

/-- A share payload. -/
def sharePayload (escrowId : Bytes) (x : Byte) (k : Nat) (h : BlobHdr) (share : Bytes) : Bytes :=
  escrowId ++ [x] ++ leBytes 1 k ++ leBytes 2 h.alg ++ leBytes 2 h.usage ++ leBytes 1 h.policy ++ leBytes 1 h.keyLen ++
    h.fpr ++ share

/-- A share record. -/
def shareRecord (x : Byte) (officer : Nat) (env : Bytes) : Bytes :=
  [x] ++ leBytes 1 officer ++ zeros 2 ++ leBytes 4 env.length ++ env

/-- Read share records that fill the rest of a package. -/
def shareRecords : Nat → Bytes → Option (List (Byte × Nat × Bytes))
  | _, [] => some []
  | 0, _ => none
  | fuel + 1, b =>
    let n := le b 4 4
    if 8 + n ≤ b.length && zeroAt b 2 2 then
      (shareRecords fuel (b.drop (8 + n))).map (fun r => (b.getD 0 0, byteAt b 1, slice b 8 n) :: r)
    else none

/-! ### Domain transfer packages (R403) -/

/-- An officer record is well formed (R397). -/
def officerRecordOk (b : Bytes) : Bool :=
  let kem : Bool := byteAt b 5 = 1
  b.length = (if kem then 4280 else 2656) && le b 0 4 = 0x5243464F && byteAt b 4 = 1 && byteAt b 5 ≤ 1 && zeroAt b 6 2 &&
    zeroAt b 24 40

/-- An officer's signature key and KEM key. -/
def officerSigKey (b : Bytes) : Bytes := slice b 64 2592
def officerKemKey (b : Bytes) : Option Bytes := if byteAt b 5 = 1 then some (slice b 2656 1624) else none

/-- Split the officer records of a package by its mask, in index order; answers the records and what follows them. -/
def splitOfficers : List Nat → Bytes → Option (List (Nat × Bytes) × Bytes)
  | [], b => some ([], b)
  | i :: is, b =>
    let n := if byteAt b 5 = 1 then 4280 else 2656
    if n ≤ b.length && officerRecordOk (b.take n) then
      (splitOfficers is (b.drop n)).map (fun r => ((i, b.take n) :: r.1, r.2))
    else none

/-- The indices of a 16-bit mask. -/
def maskOfficers (mask : Nat) : List Nat := (List.range 16).filter (bitOf mask)

/-- The payload of a package's envelope. -/
def packagePayload (domainId member : Nat) (digest attest : Bytes) (gens : List (Nat × Bytes)) : Bytes :=
  leBytes 8 domainId ++ leBytes 4 member ++ leBytes 2 gens.length ++ zeros 2 ++ digest ++ attest ++
    gens.flatMap (fun g => leBytes 4 g.1 ++ g.2)

/-- The clear part of a package before its officer records. -/
def packageHeader (kind domainId member mask sponsor : Nat) (digest : Bytes) : Bytes :=
  leBytes 4 0x52465844 ++ [1] ++ leBytes 1 kind ++ zeros 2 ++ leBytes 8 domainId ++ leBytes 4 member ++ leBytes 2 mask ++
    zeros 2 ++ leBytes 4 sponsor ++ zeros 4 ++ digest

end Sys2Proof.Machine
end

