-- ==== Sys2Proof/Machine/Windchest.lean ====
section
/-! DEFINITION. The windchest's state: root and identity keys (R321 to R326), slots (R327 to R331), blobs under the domain (R323,
R332, R333), stateful keys (R225 to R229, R334), and the member of a domain (R402). -/

namespace Sys2Proof.Machine

/-! ### Life cycle and domain -/

/-- Life-cycle state codes (R388). -/
def lcRaw : Nat := 0
def lcTestUnlocked : Nat := 1
def lcProvisioned : Nat := 2
def lcCustody : Nat := 3
def lcReturn : Nat := 4
def lcScrap : Nat := 5

/-- The state in force; an OTP error makes the device behave as in SCRAP (R395). -/
def lcNow (s : State) : Nat := if s.lcs.otpErr then lcScrap else s.lcs.state

/-- The device holds a domain (R402). -/
def holdsDomain (s : State) : Bool := s.dom.id ≠ 0

/-- The domain's keys may be used: held, and in CUSTODY (R388, R404). -/
def domainUsable (s : State) : Bool := holdsDomain s && lcNow s = lcCustody

/-- The newest wrapping key generation (R407). -/
def newestGen (s : State) : Option (Nat × Bytes) := s.dom.gens.getLast?

/-- The wrapping key of a generation. -/
def genKey (s : State) (g : Nat) : Option Bytes := tblGet s.dom.gens g

/-- Keys derived from the DCR and the DIS (R321). -/
def rootWrapKey (s : State) : Bytes := kmac256 s.wch.dcr [] 32 (ascii "SYN1 root wrap")
def journalKey (s : State) : Bytes := kmac256 s.wch.dcr [] 32 (ascii "SYN1 journal")
def dcrCheckOf (dcr : Bytes) : Bytes := (kmac256 dcr [] 32 (ascii "SYN1 root check")).take 8
def identityXi (s : State) : Bytes := kmac256 s.lcs.dis [] 32 (ascii "SYN1 identity")
def transportSeed (s : State) : Bytes := kmac256 s.lcs.dis [] 64 (ascii "SYN1 transport kem")
def transportScalar (s : State) : Bytes := kmac256 s.lcs.dis [] 56 (ascii "SYN1 transport x448")

/-- The transport public key (R321, R339). -/
def transportPublic (s : State) : Bytes :=
  Config.mlkemPublic (transportSeed s) ++ x448 (transportScalar s) (leBytes 56 5)

/-! ### Slots (R327, R328, R330, R331) -/

/-- The key of a slot in the slot table: instance and handle (R69). -/
def slotKey (i h : Nat) : Nat := i * 16384 + h

/-- What a slot's TAG covers, in table order; fields little-endian (R13). -/
def slotTagInput (x : Slot) : Bytes :=
  leBytes 2 x.phys ++ x.key ++ leBytes 2 x.alg ++ leBytes 2 x.usage ++ leBytes 1 x.policy ++ leBytes 2 x.owner ++
    leBytes 2 x.keyLen ++ leBytes 1 x.kind

/-- The TAG of a slot. -/
def slotTag (s : State) (x : Slot) : Bytes := (kmac256 s.wch.slotMac (slotTagInput x) 32 (ascii "SYN1 slot")).take 8

def slotAt (s : State) (i h : Nat) : Option Slot := tblGet s.wch.slots (slotKey i h)

def modWch (s : State) (f : Wch → Wch) : State := { s with wch := f s.wch }

/-- A slot that failed its TAG is marked corrupt (R328). -/
def markCorrupt (s : State) (i h : Nat) : State :=
  match slotAt s i h with
  | none => s
  | some x =>
    if x.corrupt then s
    else uncacheSlot (modWch s (fun w => { w with
      slots := tblPut w.slots (slotKey i h) { x with corrupt := true }
      corruptCount := sat 16 (w.corruptCount + 1) })) i h

/-- The slots an instance holds, reserved ones included (R211). -/
def slotsUsed (s : State) (i : Nat) : Nat := (s.wch.slots.filter (fun e => e.1 / 16384 = i)).length

/-- The number of slots that hold a key. -/
def slotsHeld (s : State) : Nat := (s.wch.slots.filter (fun e => !e.2.reserved)).length

/-- The slot fails its integrity check (R328). -/
def slotBad (s : State) (x : Slot) : Bool := x.corrupt || slotTag s x ≠ x.tag

/-- Check 4 of R211 on a slot: the quota, a loaded key. A job fetched before an UNLOAD_KEY of the slot still uses it (R331): `job` is the number of
the job that asks. -/
def slotNamed (s : State) (i h : Nat) (job : Option Nat) : Except Status Slot :=
  match tblGet s.insts i with
  | none => .error .keyNotLoaded
  | some inst =>
    if inst.maxSlots ≤ h then .error .keyNotLoaded
    else match slotAt s i h with
      | none => .error .keyNotLoaded
      | some x =>
        let going : Bool := match x.freeing, job with
          | none, _ => false
          | some n, some k => n ≤ k
          | some _, none => true
        if x.reserved || going then .error .keyNotLoaded else .ok x

/-- Check 5 of R211: the slot's integrity tag. -/
def slotSound (s : State) (x : Slot) : Except Status Slot := if slotBad s x then .error .keySlotCorrupt else .ok x

/-- Checks 4 and 5 of R211 on one slot. -/
def checkSlotAs (s : State) (i h : Nat) (job : Option Nat) : Except Status Slot := (slotNamed s i h job).bind (slotSound s)

/-- The check where no job asks: a slot being freed is gone. -/
def checkSlot (s : State) (i h : Nat) : Except Status Slot := checkSlotAs s i h none

/-- Mark the slot corrupt when a check of it found so. -/
def noteSlot (s : State) (i h : Nat) (st : Status) : State := if st = .keySlotCorrupt then markCorrupt s i h else s

/-- The windchest store of the chart, in bytes (R330, R369). -/
def storeBytes (s : State) : Nat := match s.charts.inForce with
  | some c => ((c.ddr.regions.find? (fun g => g.kind = 3)).elim 0 Region.size) * 65536
  | none => 0

/-- Extended material in the store: offset and length. -/
def storeExtents (s : State) : List (Nat × Nat) :=
  (s.wch.slots.filter (fun e => e.2.material ≠ [])).map (fun e => (e.2.handle, e.2.material.length))

/-- The lowest offset at which material fits. -/
def storeFit (s : State) (n : Nat) : Option Nat :=
  let used := storeExtents s
  let cands := 0 :: used.map (fun e => e.1 + e.2)
  let ok := cands.filter (fun a => a + n ≤ storeBytes s && used.all (fun e => a + n ≤ e.1 || e.1 + e.2 ≤ a))
  ok.foldl (fun m a => match m with
    | none => some a
    | some b => some (min a b)) none

def storeFree (s : State) : Nat := storeBytes s - ((storeExtents s).map (·.2)).sum

/-- The descriptor of extended material (R330). -/
def descriptor (material : Bytes) (off : Nat) : Bytes :=
  leBytes 4 material.length ++ zeros 4 ++ leBytes 8 off ++ sha3_256 material ++ zeros 16

/-- The lowest physical slot not in use. -/
def freePhys (s : State) : Nat :=
  let used := s.wch.slots.map (fun e => e.2.phys)
  ((List.range 16384).find? (fun p => !used.contains p)).getD 0

/-- A slot reserved as an OUT_SLOT from parse until release (R211). -/
def reserveSlot (s : State) (i h : Nat) : State :=
  let x : Slot := ⟨freePhys s, [], 0, 0, 0, i, 0, 0, [], [], 0, false, true, none⟩
  modWch s (fun w => { w with slots := tblPut w.slots (slotKey i h) x })

/-- Free a reservation that no secret filled. -/
def unreserveSlot (s : State) (i h : Nat) : State :=
  match slotAt s i h with
  | some x => if x.reserved then modWch s (fun w => { w with slots := tblDel w.slots (slotKey i h) }) else s
  | none => s

/-! ### Stateful keys (R224, R225, R227, R334, R470) -/

/-- The algorithm has stateful keys. -/
def statefulAlg (alg : Nat) : Bool := (0x0401 ≤ alg ∧ alg ≤ 0x0404) ∨ (0x0501 ≤ alg ∧ alg ≤ 0x0504)

/-- KIND of a slot for an algorithm's private key (R327). -/
def keyKind (alg keyLen : Nat) : Nat := if statefulAlg alg then 2 else if 64 < keyLen then 1 else 0

/-- The public key at the end of stateful material (R470). -/
def statefulPub (material : Bytes) : Bytes :=
  material.drop (material.length - (if material.length = 124 then 60 else if material.length = 108 then 52 else 68))

/-- Total number of leaves. -/
def totalLeaves (k : Stateful) : Nat := 2 ^ (k.levels * k.height)

def statefulOf (s : State) (pub : Bytes) : Option Stateful := s.wch.stateful.find? (fun k => k.pub = pub)

def modStateful (s : State) (pub : Bytes) (f : Stateful → Stateful) : State :=
  modWch s (fun w => { w with stateful := w.stateful.map (fun k => if k.pub = pub then f k else k) })

/-- The highest ceiling the device holds for a key by mirror, if any (R334). -/
def mirroredCeiling (s : State) (pub : Bytes) : Option Nat := (s.wch.mirrored.find? (fun e => e.1 = pub)).map (·.2)

/-- Raise the ceiling held for a key. -/
def putCeiling (s : State) (pub : Bytes) (n : Nat) : State :=
  let l := s.wch.mirrored
  let l1 := if l.any (fun e => e.1 = pub) then l.map (fun e => if e.1 = pub then (pub, max e.2 n) else e) else (pub, n) :: l
  modWch s (fun w => { w with mirrored := l1 })

/-- Whether a slot other than those removed still holds the key (R334). -/
def statefulHeld (s : State) (pub : Bytes) : Bool :=
  s.wch.slots.any (fun e => e.2.kind = 2 && statefulPub e.2.material = pub)

/-- Free a slot: zero it and its material, drop the state of a key no other slot holds (R331, R334). -/
def freeSlot (s : State) (i h : Nat) : State :=
  match slotAt s i h with
  | none => s
  | some x =>
    let s1 := uncacheSlot (modWch s (fun w => { w with slots := tblDel w.slots (slotKey i h) })) i h
    let pub := statefulPub x.material
    if x.kind = 2 && !statefulHeld s1 pub then
      modWch s1 (fun w => { w with stateful := w.stateful.filter (fun k => k.pub ≠ pub) })
    else s1

/-! ### Blobs under the domain (R323, R332, R333) -/

/-- The device can write a blob (R323). -/
def canWriteBlob (s : State) : Bool := domainUsable s && (newestGen s).isSome

/-- A header for new material, wrapped by the newest generation. -/
def newBlobHdr (s : State) (alg usage policy kind owner : Nat) (key : Bytes) : BlobHdr :=
  ⟨1, alg, usage, policy, kind, owner, key.length, ((newestGen s).getD (0, [])).1, s.dom.id, keyFpr key,
    if kind = 2 then custodianWord s.dom.member else 0,
    if kind = 2 then custodianWord (s.dom.pair.map (·.2)) else 0⟩

/-- A blob of a header under the newest generation. -/
def domainBlob (s : State) (h : BlobHdr) (key : Bytes) : Bytes := makeBlob ((newestGen s).getD (0, [])).2 h key

/-- Checks 1 to 3 of R333: answers the header and the material. -/
def blobCheck (s : State) (b : Bytes) : Except Status (BlobHdr × Bytes) :=
  if !blobFormOk b then .error .inputInvalid
  else
    let h := blobHdrOf b
    if !domainUsable s || h.domainId ≠ s.dom.id then .error .keyPolicy
    else match genKey s h.gen with
      | none => .error .keyPolicy
      | some k => match blobOpen k b with
        | none => .error .tagMismatch
        | some key => .ok (h, key)

/-- Unwrapped material of the layouts of R470 keeps them. -/
def materialOk (alg : Nat) (m : Bytes) : Bool :=
  if alg = 0x0601 then m.length = 7317
  else if statefulAlg alg then
    let n24 : Bool := alg = 0x0402 ∨ alg = 0x0404
    let hss : Bool := alg ≤ 0x0404
    let lv := byteAt m 0
    m.length = (if hss then (if n24 then 108 else 124) else 180) && byteAt m 2 = (if n24 then 24 else 32) && zeroAt m 3 13 &&
      (if hss then 1 ≤ lv && lv ≤ 8 && (byteAt m 1 = 5 || byteAt m 1 = 10)
       else byteAt m 1 = 10 && (if alg ≤ 0x0502 then lv = 1 else (lv = 2 || lv = 4 || lv = 6)))
  else true

/-- The lowest free handle of an instance within its quota. -/
def freeHandle (s : State) (i : Nat) : Option Nat :=
  match tblGet s.insts i with
  | none => none
  | some x => if slotsUsed s i < x.maxSlots
      then (List.range (slotsUsed s i + 1)).find? (fun h => !tblHas s.wch.slots (slotKey i h)) else none

/-- A member's number, zero outside a domain. -/
def memberNumber (s : State) : Nat := s.dom.member.getD 0

/-! ### Tamper (R324, R325) -/

/-- The VBAT secrets are zeroed. -/
def zeroRoot (s : State) : State :=
  modWch s (fun w => { w with dcr := zeros 32, dcrCheck := zeros 8, exportKey := zeros 32, exportSerials := [] })

/-! ### WCH_ registers -/

def wchStatus (s : State) (journal : Bool) : Nat :=
  packFields [(0, 1, flag s.wch.rootValid), (1, 1, flag s.wch.rootNew), (2, 1, flag (holdsDomain s)),
    (3, 1, flag s.wch.identityReady), (4, 1, flag journal), (8, 5, s.dom.officers.length), (16, 15, slotsHeld s)]

def wchSlots (s : State) : Nat := packFields [(0, 16, s.wch.corruptCount), (16, 16, sat 16 (storeFree s / 65536))]

end Sys2Proof.Machine
end

