-- ==== Sys2Proof/Machine/Algorithms.lean ====
section
/-! DEFINITION. The PK_JOB tables and its parse checks: R207 to R213, R221 to R228, R234, R238, R470. -/

namespace Sys2Proof.Machine

/-! ### Identifiers (R207) -/

/-- Public-key families of R207. -/
inductive PkFamily where
  | mlkem | mldsa | slhdsa | hss | xmss | xmssmt | hqc | mceliece | ecdsa | ecdsaLoaded | eddsa | xdh | rsa
  deriving DecidableEq, Repr

/-- The family of an ALG_ID of the first table. -/
def pkFamily (alg : Nat) : Option PkFamily :=
  if 0x0101 ≤ alg ∧ alg ≤ 0x0103 then some .mlkem
  else if 0x0201 ≤ alg ∧ alg ≤ 0x0203 then some .mldsa
  else if 0x0301 ≤ alg ∧ alg ≤ 0x0302 then some .slhdsa
  else if 0x0401 ≤ alg ∧ alg ≤ 0x0404 then some .hss
  else if 0x0501 ≤ alg ∧ alg ≤ 0x0502 then some .xmss
  else if 0x0503 ≤ alg ∧ alg ≤ 0x0504 then some .xmssmt
  else if alg = 0x0601 then some .hqc
  else if alg = 0x0701 then some .mceliece
  else if 0x1001 ≤ alg ∧ alg ≤ 0x1006 then some .ecdsa
  else if 0x1007 ≤ alg ∧ alg ≤ 0x1009 then some .ecdsaLoaded
  else if 0x1101 ≤ alg ∧ alg ≤ 0x1102 then some .eddsa
  else if 0x1201 ≤ alg ∧ alg ≤ 0x1202 then some .xdh
  else if 0x1301 ≤ alg ∧ alg ≤ 0x1304 then some .rsa else none

/-- Operations of R209. -/
def opKeygen : Nat := 1
def opEncaps : Nat := 2
def opDecaps : Nat := 3
def opSign : Nat := 4
def opVerify : Nat := 5
def opAgree : Nat := 6
def opTreeBuild : Nat := 7
def opLoadCurve : Nat := 8

/-- ALG_ID and OP are a pair of R209. -/
def pkPairOk (alg op : Nat) : Bool :=
  match pkFamily alg with
  | none => false
  | some f =>
    if op = opKeygen then f ≠ .mceliece && f ≠ .rsa
    else if op = opEncaps ∨ op = opDecaps then f = .mlkem || f = .hqc || f = .mceliece
    else if op = opSign ∨ op = opVerify then
      f = .mldsa || f = .slhdsa || f = .hss || f = .xmss || f = .xmssmt || f = .ecdsa || f = .ecdsaLoaded || f = .eddsa || f = .rsa
    else if op = opAgree then f = .xdh
    else if op = opTreeBuild then f = .hss || f = .xmssmt
    else op = opLoadCurve && f = .ecdsaLoaded

/-- The library routine of a PK_JOB (R210). -/
def pkRoutine (alg op : Nat) : Nat := alg / 256 * 256 + alg % 16 * 16 + op

/-- Bytes of a public key of fixed length; RSA keys are n then e (R207). -/
def pubLen (alg : Nat) : Nat :=
  match alg with
  | 0x0101 => 800 | 0x0102 => 1184 | 0x0103 => 1568 | 0x0201 => 1312 | 0x0202 => 1952 | 0x0203 => 2592
  | 0x0301 => 32 | 0x0302 => 64 | 0x0401 => 60 | 0x0402 => 52 | 0x0403 => 60 | 0x0404 => 52
  | 0x0501 => 68 | 0x0502 => 68 | 0x0503 => 68 | 0x0504 => 68 | 0x0601 => 7245 | 0x0701 => 1047319
  | 0x1001 => 65 | 0x1002 => 97 | 0x1003 => 133 | 0x1004 => 65 | 0x1005 => 97 | 0x1006 => 129
  | 0x1101 => 32 | 0x1102 => 57 | 0x1201 => 32 | 0x1202 => 56
  | 0x1301 => 264 | 0x1302 => 392 | 0x1303 => 520 | 0x1304 => 1032 | _ => 0

/-- Bytes of a signature or ciphertext of fixed length. -/
def sigLen (alg : Nat) : Nat :=
  match alg with
  | 0x0101 => 768 | 0x0102 => 1088 | 0x0103 => 1568 | 0x0201 => 2420 | 0x0202 => 3309 | 0x0203 => 4627
  | 0x0301 => 17088 | 0x0302 => 29792 | 0x0501 => 2500 | 0x0502 => 2500 | 0x0601 => 14421 | 0x0701 => 194
  | 0x1001 => 64 | 0x1002 => 96 | 0x1003 => 132 | 0x1004 => 64 | 0x1005 => 96 | 0x1006 => 128
  | 0x1101 => 64 | 0x1102 => 114 | 0x1301 => 256 | 0x1302 => 384 | 0x1303 => 512 | 0x1304 => 1024 | _ => 0

/-- Bytes of a shared secret. -/
def secretLen (alg : Nat) : Nat :=
  if alg = 0x0601 then 64 else if alg = 0x1201 then 32 else if alg = 0x1202 then 56 else 32

/-- Bytes of the private-key material of a key generated with VARIANT (R207, R470); `w` of a loaded curve. -/
def privLen (alg w : Nat) : Nat :=
  match alg with
  | 0x0101 => 64 | 0x0102 => 64 | 0x0103 => 64 | 0x0201 => 32 | 0x0202 => 32 | 0x0203 => 32
  | 0x0301 => 64 | 0x0302 => 128 | 0x0401 => 124 | 0x0402 => 108 | 0x0403 => 124 | 0x0404 => 108
  | 0x0501 => 180 | 0x0502 => 180 | 0x0503 => 180 | 0x0504 => 180 | 0x0601 => 7317
  | 0x1001 => 32 | 0x1002 => 48 | 0x1003 => 66 | 0x1004 => 32 | 0x1005 => 48 | 0x1006 => 64
  | 0x1101 => 32 | 0x1102 => 57 | 0x1201 => 32 | 0x1202 => 56 | _ => w

/-! ### Stateful parameters and signature lengths (R209, R211, R224) -/

/-- n of an HSS/LMS algorithm. -/
def lmsN (alg : Nat) : Nat := if alg = 0x0402 ∨ alg = 0x0404 then 24 else 32

/-- The LMS type codes of heights 5 and 10 (SP 800-208). -/
def lmsType (alg height : Nat) : Nat :=
  (match alg with
    | 0x0401 => 5 | 0x0402 => 10 | 0x0403 => 15 | _ => 20) + (if height = 10 then 1 else 0)

/-- The LM-OTS type code with w = 4 (SP 800-208). -/
def lmotsType (alg : Nat) : Nat := match alg with
  | 0x0401 => 3 | 0x0402 => 7 | 0x0403 => 11 | _ => 15

/-- Levels and height of an inline HSS public key: L, LMS type, LM-OTS type, I, K. -/
def hssPublicParams (alg : Nat) (pk : Bytes) : Option (Nat × Nat) :=
  let l := be pk 0 4
  let t := be pk 4 4
  if 1 ≤ l && l ≤ 8 && be pk 8 4 = lmotsType alg then
    if t = lmsType alg 5 then some (l, 5) else if t = lmsType alg 10 then some (l, 10) else none
  else none

/-- Layers of an inline XMSS or XMSS^MT public key by its OID (SP 800-208). -/
def xmssPublicLayers (alg : Nat) (pk : Bytes) : Option Nat :=
  let oid := be pk 0 4
  match alg with
  | 0x0501 => if oid = 0x01 then some 1 else none
  | 0x0502 => if oid = 0x10 then some 1 else none
  | 0x0503 => if oid = 0x01 then some 2 else if oid = 0x04 then some 4 else if oid = 0x07 then some 6 else none
  | _ => if oid = 0x29 then some 2 else if oid = 0x2C then some 4 else if oid = 0x2F then some 6 else none

/-- Length of an HSS signature: w = 4, so 67 or 51 chains. -/
def hssSigLen (alg levels height : Nat) : Nat :=
  let n := lmsN alg
  let chains := if n = 32 then 67 else 51
  let lms := 4 + (4 + n + n * chains) + 4 + height * n
  4 + (levels - 1) * (lms + 24 + n) + lms

/-- Length of an XMSS or XMSS^MT signature of layers of height 10. -/
def xmssSigLen (layers : Nat) : Nat :=
  if layers = 1 then 2500 else ceilDiv (10 * layers) 8 + 32 + 10 * layers * 32 + layers * 67 * 32

/-- Signature length of a stateful algorithm by the key's levels and height. -/
def statefulSigLen (alg levels height : Nat) : Nat :=
  if alg ≤ 0x0404 then hssSigLen alg levels height else xmssSigLen levels

/-! ### Slot 0 fields of a PK_JOB (R71, R208) -/

def jAlg (j : Job) : Nat := le j.entry 8 2
def jSlot (j : Job) : Nat := le j.entry 10 2
def jByteLen (j : Job) : Nat := le j.entry 12 4
def jOutAddr (j : Job) : Nat := le j.entry 16 8
def jOutLen (j : Job) : Nat := le j.entry 24 4
def jFence (j : Job) : Bool := bitOf (byteAt j.entry 5) 0
def jPrFlag (j : Job) : Bool := bitOf (byteAt j.entry 5) 1
def jOp (j : Job) : Nat := byteAt j.entry 32
def jVariant (j : Job) : Nat := byteAt j.entry 33
def jCtxLen (j : Job) : Nat := byteAt j.entry 34
def jOutSlot (j : Job) : Nat := le j.entry 36 2
def jNewUsage (j : Job) : Nat := le j.entry 38 2
def jNewPolicy (j : Job) : Nat := byteAt j.entry 40
def jCurveSlot (j : Job) : Nat := le j.entry 42 2

/-- No slot. -/
def noSlot : Nat := 0xFFFF

/-- VARIANT and CTX_LEN lie within their definitions (R209, R224). -/
def variantOk (alg op v ctx : Nat) : Bool :=
  let signs : Bool := op = opSign ∨ op = opVerify
  match pkFamily alg with
  | some .mldsa | some .slhdsa => if signs then v < 8 else v = 0 && ctx = 0
  | some .ecdsa | some .ecdsaLoaded => ctx = 0 && (if signs then v < 2 else v = 0)
  | some .eddsa =>
    if !signs then v = 0 && ctx = 0
    else if alg = 0x1101 then v < 3 && (ctx = 0 || v = 1 || v = 2) else v < 2
  | some .rsa => ctx = 0 && v < 16 && 1 ≤ v / 2 && v / 2 ≤ 6
  | some .hss => ctx = 0 && (if op = opKeygen then v < 32 && 1 ≤ v % 16 && v % 16 ≤ 8 else v = 0)
  | some .xmssmt => ctx = 0 && (if op = opKeygen then v = 2 || v = 4 || v = 6 else v = 0)
  | some _ => v = 0 && ctx = 0
  | none => false

/-- Least and greatest message or digest length of SIGN and VERIFY (R209). -/
def messageRange (alg v : Nat) : Nat × Nat :=
  match pkFamily alg with
  | some .mldsa | some .slhdsa => if v / 2 % 4 = 0 then (0, 8192) else (64, 64)
  | some .ecdsa | some .ecdsaLoaded => (20, 64)
  | some .eddsa => if (alg = 0x1101 && v = 2) || (alg = 0x1102 && v = 1) then (64, 64) else (0, 8192)
  | some .rsa =>
    let n := match v / 2 with
      | 1 => 32 | 2 => 48 | 3 => 64 | 4 => 32 | 5 => 48 | _ => 64
    (n, n)
  | _ => (0, 8192)

/-- w of a curve record's p: bytes of its length (R234); a record holds 6w + 1 bytes. -/
def curveRecordW (b : Bytes) : Option Nat :=
  if b.length % 6 = 1 then
    let w := b.length / 6
    let p := be b 0 w
    if p ≠ 0 && ceilDiv (Nat.log2 p + 1) 8 = w && 224 ≤ Nat.log2 p + 1 && Nat.log2 p + 1 ≤ 571 then some w else none
  else none

/-- The width class of a loaded-curve ALG_ID takes p of `bits` bits (R207, R234). -/
def loadedClassOk (alg bits : Nat) : Bool :=
  if alg = 0x1007 then 224 ≤ bits && bits ≤ 256
  else if alg = 0x1008 then 257 ≤ bits && bits ≤ 384 else 385 ≤ bits && bits ≤ 571

/-- What parse knows of the job's key and curve: material of SLOT, record of CURVE_SLOT. -/
structure PkKeys where
  slot : Option Slot
  curve : Option Slot
  deriving DecidableEq, Repr

/-- The material of a slot, extended or not. -/
def slotMaterial (x : Slot) : Bytes := if x.material = [] then x.key.take x.keyLen else x.material

/-- w of the job's loaded curve: of CURVE_SLOT's record. -/
def jobCurveW (k : PkKeys) : Nat := match k.curve with
  | some c => (slotMaterial c).length / 6
  | none => 0

/-- Public key length with a loaded curve's w. -/
def pubLenOf (alg w : Nat) : Nat := if pkFamily alg = some .ecdsaLoaded then 2 * w + 1 else pubLen alg

/-- Levels and height of the key of a stateful job: of SLOT's material or of the inline public key (check 7 of R211). -/
def jobStatefulParams (j : Job) (k : PkKeys) : Option (Nat × Nat) :=
  match k.slot with
  | some x => some (byteAt (slotMaterial x) 0, byteAt (slotMaterial x) 1)
  | none =>
    if jAlg j ≤ 0x0404 then hssPublicParams (jAlg j) j.input
    else (xmssPublicLayers (jAlg j) j.input).map (fun l => (l, 10))

/-- The signature or ciphertext length of the job; `none` where the inline key's parameters are not supported. -/
def jobSigLen (j : Job) (k : PkKeys) : Option Nat :=
  match pkFamily (jAlg j) with
  | some .hss | some .xmssmt => (jobStatefulParams j k).map (fun p => statefulSigLen (jAlg j) p.1 p.2)
  | some .xmss => (jobStatefulParams j k).map (fun _ => 2500)
  | some .ecdsaLoaded => some (2 * jobCurveW k)
  | _ => some (sigLen (jAlg j))

/-- Least and greatest BYTE_LEN (check 7 of R211). -/
def inputRange (j : Job) (k : PkKeys) : Option (Nat × Nat) :=
  let alg := jAlg j
  let op := jOp j
  let pub := if jSlot j = noSlot then pubLenOf alg (jobCurveW k) else 0
  let msg := messageRange alg (jVariant j)
  if op = opKeygen ∨ op = opTreeBuild then some (0, 0)
  else if op = opEncaps then some (pub, pub)
  else if op = opDecaps then some (sigLen alg, sigLen alg)
  else if op = opAgree then some (pubLen alg, pubLen alg)
  else if op = opSign then some (jCtxLen j + msg.1, jCtxLen j + msg.2)
  else if op = opVerify then
    (jobSigLen j k).map (fun n => (pub + n + jCtxLen j + msg.1, pub + n + jCtxLen j + msg.2))
  else match curveRecordW j.input with
    | some w => if loadedClassOk alg (Nat.log2 (be j.input 0 w) + 1) then some (6 * w + 1, 6 * w + 1) else none
    | none => none

/-- The USAGE bit an operation needs (R328 table). -/
def opUsageBit (op : Nat) : Nat :=
  if op = opSign ∨ op = opTreeBuild then 0 else if op = opVerify then 1 else if op = opEncaps then 2
  else if op = opDecaps then 3 else 4

/-- The operation needs a private key in SLOT. -/
def needsPrivate (op : Nat) : Bool := op = opDecaps || op = opSign || op = opAgree || op = opTreeBuild

/-- The operation makes a new secret (R213). -/
def makesSecret (op : Nat) : Bool := op = opKeygen || op = opEncaps || op = opDecaps || op = opAgree

/-- The job's secret is written in the clear: SLOT names a key with EXPORTABLE_CLEAR (R213). -/
def secretInClear (j : Job) (k : PkKeys) : Bool :=
  jOp j ≠ opKeygen && (match k.slot with
    | some x => bitOf x.policy 0
    | none => false)

/-- The job's output must include a blob. -/
def outputsBlob (j : Job) (k : PkKeys) : Bool := makesSecret (jOp j) && !secretInClear j k

/-- The output length of the job, where its fields fix it (R72, R213). -/
def outputLen (j : Job) (k : PkKeys) : Nat :=
  let alg := jAlg j
  let sec := if secretInClear j k then secretLen alg else blobLen (secretLen alg)
  if jOp j = opKeygen then pubLenOf alg (jobCurveW k) + blobLen (privLen alg (jobCurveW k))
  else if jOp j = opEncaps then sigLen alg + sec
  else if jOp j = opDecaps ∨ jOp j = opAgree then sec
  else if jOp j = opSign then (jobSigLen j k).getD 0 else 0

/-! ### The checks of R211 -/

/-- Check 1: the pair, VARIANT and CTX_LEN, reserved fields, and fields the operation does not use at their none values. -/
def pkCheck1 (j : Job) : Bool :=
  pkPairOk (jAlg j) (jOp j) && variantOk (jAlg j) (jOp j) (jVariant j) (jCtxLen j) && zeroAt j.entry 35 1 && zeroAt j.entry 41 1 &&
    zeroAt j.entry 44 20 && (makesSecret (jOp j) || (jNewUsage j = 0 && jNewPolicy j = 0)) && jNewUsage j < 2 ^ 12 && jNewPolicy j < 8

/-- A public key in the input beside a SLOT (check 3), where BYTE_LEN shows it: any input of an ENCAPS, and in a VERIFY of a signature of fixed
length more bytes than signature, context and the longest message have. Elsewhere check 7 meets it, with the same status (log 25). -/
def keyBeside (j : Job) : Bool :=
  jSlot j ≠ noSlot && ((jOp j = opEncaps && jByteLen j ≠ 0) ||
    (jOp j = opVerify && sigLen (jAlg j) ≠ 0 && decide (sigLen (jAlg j) + jCtxLen j + (messageRange (jAlg j) (jVariant j)).2 < jByteLen j)))

/-- Check 3: slot fields present exactly where the operation uses them. -/
def pkCheck3 (j : Job) : Bool :=
  let op := jOp j
  let loaded : Bool := 0x1007 ≤ jAlg j ∧ jAlg j ≤ 0x1009
  !(jSlot j = noSlot && needsPrivate op) && !keyBeside j &&
    !(jSlot j ≠ noSlot && (op = opKeygen || op = opLoadCurve)) &&
    !(jOutSlot j ≠ noSlot && (op = opSign || op = opVerify || op = opTreeBuild)) &&
    !(jOutSlot j = noSlot && op = opLoadCurve) &&
    !(jCurveSlot j ≠ noSlot && (op = opLoadCurve || !loaded)) &&
    !(jCurveSlot j = noSlot && op ≠ opLoadCurve && loaded)

/-- A slot of check 4 that job `n` names: none named, or one with a key. -/
def pkSlot (s : State) (n i h : Nat) : Except Status (Option Slot) :=
  if h = noSlot then .ok none else (slotNamed s i h (some n)).map some

/-- Check 5 on a slot that check 4 passed. -/
def pkSound (s : State) (x : Option Slot) : Bool := !x.any (slotBad s)

/-- OUT_SLOT of check 4: within the quota, and free. -/
def outSlotCheck (s : State) (i h : Nat) : Except Status Unit :=
  if h = noSlot then .ok ()
  else match tblGet s.insts i with
    | none => .error .keyNotLoaded
    | some x =>
      if x.maxSlots ≤ h then .error .keyNotLoaded
      else if (slotAt s i h).isSome then .error .inputInvalid else .ok ()

/-- Check 6: the key is of the algorithm and its usage allows the operation; the curve is a checked curve of the class. -/
def pkCheck6 (j : Job) (k : PkKeys) : Bool :=
  (match k.slot with
    | none => true
    | some x => x.alg = jAlg j && x.kind ≠ 3 && bitOf x.usage (opUsageBit (jOp j))) &&
  (match k.curve with
    | none => true
    | some c => c.kind = 3 && c.alg = jAlg j)

/-- Confirmed values and leaves of a stateful key a new SIGN could claim (R227, R228). -/
def confirmedLeft (k : Stateful) : Nat := min (k.ceiling.getD 0) (totalLeaves k) - k.counter - k.claims

/-- The lowest level's current tree is there, and its next one. -/
def lowestBuilt (k : Stateful) : Bool := (k.current.getLast?.getD none).isSome
def nextBuilt (k : Stateful) : Bool := (k.next.getLast?.getD none).isSome

/-- Leaves of the lowest-level tree under the counter, and of a built next tree, not yet used (R228). -/
def treeLeavesLeft (k : Stateful) : Nat :=
  let t := 2 ^ k.height
  (if lowestBuilt k && !k.spent then t - k.counter % t else 0) + (if nextBuilt k then t else 0)

/-- The index of the current lowest-level tree: the one before the counter's when it has run out. -/
def lowestTree (k : Stateful) : Nat := k.counter / 2 ^ k.height - flag k.spent

/-- Some tree is pending (R225). -/
def treePending (k : Stateful) : Bool :=
  k.current.any Option.isNone ||
    (1 < k.levels && !nextBuilt k && lowestTree k + 1 < 2 ^ ((k.levels - 1) * k.height))

/-- Check 9: the stateful conditions of a SIGN or TREE_BUILD. `durable` says a journal or a twin can hold a ceiling. The rules give no order
among them; a TREE_BUILD with no tree pending, and a SIGN with no leaf left, is told so first, and the missing journal of a solo device (R227) is
tested last (DESIGN CHOICE, log 84). -/
def statefulCheck (s : State) (durable : Bool) (j : Job) (k : PkKeys) : Except Status Unit :=
  match k.slot with
  | none => .ok ()
  | some x =>
    if !statefulAlg (jAlg j) || !(jOp j = opSign || jOp j = opTreeBuild) then .ok ()
    else match statefulOf s (statefulPub x.material) with
      | none => .error .reservationFailed
      | some st =>
        if jOp j = opTreeBuild then
          if !treePending st then .error .inputInvalid
          else if !durable || st.ceiling.isNone then .error .reservationFailed else .ok ()
        else if totalLeaves st ≤ st.counter + st.claims || totalLeaves st ≤ st.counter then .error .stateExhausted
        else if treeLeavesLeft st ≤ st.claims || st.current.any Option.isNone then .error .reservationFailed
        else if !durable || st.ceiling.isNone || confirmedLeft st = 0 then .error .reservationFailed
        else .ok ()

/-- The nine checks of R211 in order, the pool of R104 and the output length of R72 among the descriptor's checks. `n` is the job's number. Answers the
keys, or the slot handle to note and the status. -/
def pkParse (s : State) (durable : Bool) (n : Nat) (j : Job) : Except (Nat × Status) PkKeys :=
  if !pkCheck1 j then .error (noSlot, .inputInvalid)
  else if bitOf (jNewPolicy j) 0 then .error (noSlot, .keyPolicy)
  else if !pkCheck3 j then .error (noSlot, .inputInvalid)
  else match pkSlot s n j.inst (jSlot j), pkSlot s n j.inst (jCurveSlot j), outSlotCheck s j.inst (jOutSlot j) with
    | .error st, _, _ => .error (jSlot j, st)
    | .ok _, .error st, _ => .error (jCurveSlot j, st)
    | .ok _, .ok _, .error st => .error (noSlot, st)
    | .ok slot, .ok curve, .ok () =>
      let k : PkKeys := ⟨slot, curve⟩
      if !pkSound s slot then .error (jSlot j, .keySlotCorrupt)
      else if !pkSound s curve then .error (jCurveSlot j, .keySlotCorrupt)
      else if !pkCheck6 j k then .error (noSlot, .keyPolicy)
      else match inputRange j k with
        | none => .error (noSlot, .inputInvalid)
        | some (lo, hi) =>
          if jByteLen j < lo || hi < jByteLen j then .error (noSlot, .inputInvalid)
          else if outputsBlob j k && !canWriteBlob s then .error (noSlot, .keyPolicy)
          else if jOutLen j < outputLen j k then .error (noSlot, .inputInvalid)
          else match statefulCheck s durable j k with
            | .error st => .error (noSlot, st)
            | .ok () => .ok k

/-- Reads of RNDRD a library job makes (R238); `bits` and `w` are those of its curve. -/
def rndReads (alg op v bitsN w : Nat) : Nat :=
  match pkFamily alg with
  | some .mlkem => if op = opKeygen ∨ op = opEncaps then 1 else 0
  | some .mldsa => if op = opKeygen ∨ (op = opSign ∧ v % 2 = 0) then 1 else 0
  | some .slhdsa => if op = opKeygen then (if alg = 0x0301 then 1 else 2) else if op = opSign ∧ v % 2 = 0 then 1 else 0
  | some .hss => if op = opKeygen then 1 else 0
  | some .xmss | some .xmssmt => if op = opKeygen then 2 else 0
  | some .hqc => if op = opKeygen then 2 else if op = opEncaps then 1 else 0
  | some .mceliece => if op = opEncaps then 1 else 0
  | some .ecdsa | some .ecdsaLoaded =>
    if op = opKeygen ∨ (op = opSign ∧ v % 2 = 0) then ceilDiv (bitsN + 64) 512
    else if op = opLoadCurve then ceilDiv (64 * (w + 8)) 64 else 0
  | some .eddsa | some .xdh => if op = opKeygen then 1 else 0
  | some .rsa => if op = opSign ∧ v % 2 = 0 then 1 else 0
  | none => 0

end Sys2Proof.Machine
end

