-- ==== Sys2Proof/Machine/Health.lean ====
section
/-! DEFINITION. Health of units: muting and the displacement it causes, charges, suspicion (R120, R123, R124, R162, R179). -/

namespace Sys2Proof.Machine

/-- Mute a unit once, with its event (R123): class, cluster, index, cause. -/
def muteUnit (s : State) (u : UnitName) (cls cluster index cause : Nat) : State :=
  if s.health.muted.contains u then s
  else logEvent { s with health := { s.health with muted := u :: s.health.muted } } 0x0206
    (leBytes 1 cls ++ leBytes 1 cluster ++ leBytes 2 index ++ leBytes 1 cause)

/-! ### Muting and displacement (R120, R123, R162) -/

/-- The jobs on a unit leave it as of this breath: they are moved in the next one (R120). -/
def displaceJobs (s : State) (f : JobUnit → Bool) : State :=
  { s with jobs := s.jobs.map (fun e =>
      (e.1, if f e.2.unit && e.2.stage ≠ .held && e.2.moveAt.isNone then { e.2 with moveAt := some s.brt.count } else e.2)) }

def unitHasReed (r : Nat) (u : JobUnit) : Bool := (unitReeds u).contains r
def unitHasMau (c : Nat) : JobUnit → Bool
  | .mau k _ => k = c
  | _ => false
def unitInCluster (c : Nat) (u : JobUnit) : Bool := unitHasMau c u || (unitReeds u).any (fun r => reedCluster r = c)

/-- Mute a reed, a MAU, a cluster: the event names the unit at fault (R179). Causes: 1 charges, 2 suspicion, 3 self-test, 4 echo, 5 wipe
readback, 6 a control-store block. -/
def muteReed (s : State) (r cause : Nat) : State :=
  displaceJobs (muteUnit s (.reed (Fin.ofNat 1024 r)) 0 (reedCluster r) r cause) (unitHasReed r)
def muteMau (s : State) (c cause : Nat) : State :=
  displaceJobs (muteUnit s (.mau (Fin.ofNat 64 c)) 1 c c cause) (unitHasMau c)
def muteCluster (s : State) (c cause : Nat) : State :=
  if (clusterAt s c).muted then s
  else displaceJobs (logEvent (modCluster s c (fun k => { k with muted := true })) 0x0206 (leBytes 1 4 ++ leBytes 1 c ++ leBytes 2 c ++ leBytes 1 cause))
    (unitInCluster c)
/-- A muted bellows mutes its cluster (R162). -/
def muteBellows (s : State) (c b cause : Nat) : State :=
  let s1 := muteUnit s (.bellows (Fin.ofNat 64 c) (Fin.ofNat 4 b)) 2 c b cause
  displaceJobs (modCluster s1 c (fun k => { k with muted := true })) (unitInCluster c)

/-! ### Charges and suspicion (R123, R179) -/

/-- Charges of a unit for a job. -/
def chargesOf (s : State) (u : UnitName) (j : Nat) : Nat := (s.health.charges.filter (· = (u, j))).length

/-- Charge a unit for a job; the second charge mutes it. -/
def chargeReed (s : State) (r j : Nat) : State :=
  let u : UnitName := .reed (Fin.ofNat 1024 r)
  let s1 := { s with health := { s.health with charges := (u, j) :: s.health.charges } }
  if 2 ≤ chargesOf s1 u j then muteReed s1 r 1 else s1
def chargeMau (s : State) (c j : Nat) : State :=
  let u : UnitName := .mau (Fin.ofNat 64 c)
  let s1 := { s with health := { s.health with charges := (u, j) :: s.health.charges } }
  if 2 ≤ chargesOf s1 u j then muteMau s1 c 1 else s1
/-- A bellows is charged once for each error, whatever the job. -/
def chargeBellows (s : State) (c b : Nat) : State :=
  let u : UnitName := .bellows (Fin.ofNat 64 c) (Fin.ofNat 4 b)
  let s1 := { s with health := { s.health with charges := (u, 0) :: s.health.charges } }
  if 2 ≤ chargesOf s1 u 0 then muteBellows s1 c b 1 else s1
def chargeCluster (s : State) (c j : Nat) : State :=
  let s1 := { s with health := { s.health with clusterCharges := (c, j) :: s.health.clusterCharges } }
  if 2 ≤ (s1.health.clusterCharges.filter (· = (c, j))).length then muteCluster s1 c 1 else s1

def suspicionOf (s : State) (u : UnitName) : Nat := ((s.health.suspicion.find? (fun e => e.1 = u)).map (·.2)).getD 0

/-- Mute a unit whose suspicion count has reached the limit (R123, R124). -/
def muteSuspect (s : State) (u : UnitName) : State :=
  if suspicionOf s u < s.health.limit || suspicionOf s u = 0 then s
  else match u with
    | .reed r => muteReed s r.val 2
    | .mau c => muteMau s c.val 2
    | .bellows _ _ | .pipe _ => s

/-- A unit's suspicion count rises by one. -/
def suspect (s : State) (u : UnitName) : State :=
  let n := suspicionOf s u + 1
  muteSuspect { s with health := { s.health with suspicion := (u, n) :: s.health.suspicion.filter (fun e => e.1 ≠ u) } } u

/-- An INVARIANT_FAILED raises the suspicion of the unit that produced it; in a gang, of the reed whose share failed, which the device
knows (R237). -/
def suspectUnit (s : State) (u : JobUnit) : State := match u with
  | .none => s
  | .reed r => suspect s (.reed (Fin.ofNat 1024 r))
  | .mau c _ => suspect s (.mau (Fin.ofNat 64 c))
  | .gang cs =>
    let rs := cs.flatMap clusterReeds
    let (n, s1) := freshChoice rs.length s
    suspect s1 (.reed (Fin.ofNat 1024 (rs.getD n 0)))

end Sys2Proof.Machine
end

