-- ==== Sys2Proof/Machine/Jobs.lean ====
section
/-! DEFINITION. What every end of a job does: completions, claims, reservations, wipes, aborts (R41, R72 to R74, R85, R86, R172 to R174,
R211, R227). -/

namespace Sys2Proof.Machine

/-! ### Internal jobs: those the device submits for itself (R262, R265, R267) -/

def forSig1 : Nat := 1
def forSig2 : Nat := 2
def forVerify1 : Nat := 3
def forVerify2 : Nat := 4
def forAudit : Nat := 5
def forAttest : Nat := 6

/-- The number an attestation job bears in place of an instance: it belongs to none (R345). -/
def attestInst : Nat := 4096
/-- An internal job nobody waits for any more. -/
def forNobody : Nat := 0

/-- A host submitted the job. -/
def hostJob (j : Job) : Bool := j.internal.isNone

/-! ### Completions of jobs -/

def jobRing (j : Job) : Ring := .inst j.inst j.queue

/-- The completion of a job (R76): its output address, fence flag and the generation it was fetched under. -/
def jobCompl (j : Job) (st : Status) (out : Bytes) (info : Nat) : Compl :=
  ⟨jobRing j, j.tag, st, BitVec.ofNat 64 (jOutAddr j), out, info, 0, j.gen, jFence j, j.breath⟩

/-- The handle a job reserved as its OUT_SLOT, in PARAMS of a PK_JOB or a RANDOM (R208, R356). -/
def reservedSlot (j : Job) : Option Nat :=
  let h := le j.entry 36 2
  if (j.kind = .pk || (j.kind = .random && jAlg j ≠ 0)) && h ≠ noSlot then some h else none

/-- Release a claim on a stateful key that was not taken (R227). -/
def dropClaim (s : State) (j : Job) : State :=
  if !j.claim then s
  else match slotAt s j.inst (jSlot j) with
    | none => s
    | some x => modStateful s (statefulPub x.material) (fun k => { k with claims := k.claims - 1 })

/-- Take a job out of the job table: its claim and its OUT_SLOT reservation are released, its job space with it. -/
def dropJob (s : State) (k : Nat) : State :=
  match tblGet s.jobs k with
  | none => s
  | some j =>
    let s1 := dropClaim s j
    let s2 := match reservedSlot j with
      | some h => if hostJob j then unreserveSlot s1 j.inst h else s1
      | none => s1
    { s2 with
      jobs := tblDel s2.jobs k
      clusters := s2.clusters.map (fun e => (e.1, { e.2 with fifo := e.2.fifo.filter (· ≠ k) }))
      rng := { s2.rng with
        waiting := s2.rng.waiting.filter (· ≠ .job k)
        granted := s2.rng.granted.filter (· ≠ .job k) } }

/-- A job off the ladder, or a rejected one, ends: its completion waits for the inhale of `due` (R40, R72). -/
def endOffLadder (s : State) (k : Nat) (st : Status) (out : Bytes) (info due : Nat) : State :=
  match tblGet s.jobs k with
  | none => s
  | some j =>
    let s1 := dropJob s k
    if hostJob j then addWaiting s1 (jobCompl j st out info) 2 0 due else s1

/-- A rejection at parse: the completion is due at the first inhale after it (R40). -/
def rejectJob (s : State) (k : Nat) (st : Status) : State := endOffLadder s k st [] 0 (nextInhale s)

/-! ### Wipes (R172, R174, R233) -/

/-- Wipe a reed; a debugger's breakpoints stay. Where its memories have a defect the readback fails, again after the repeated wipe, and the
reed is muted (R173). -/
def wipeReed (s : State) (r : Nat) : State :=
  let x := reedAt s r
  let s1 := setReed s r { Reed.init with breakpoints := x.breakpoints, defect := x.defect }
  let s2 := { s1 with rng := { s1.rng with
      waiting := s1.rng.waiting.filter (· ≠ .reed r)
      granted := s1.rng.granted.filter (· ≠ .reed r) } }
  if x.defect && !reedMuted s r then muteReed s2 r 5 else s2

/-- Wipe a MAU's operand memory and forget what it holds. -/
def wipeMau (s : State) (c : Nat) : State :=
  modCluster s c (fun k => { k with mau := Mau.init })

/-- Wipe the units a job holds: its reeds, and the MAU of a MAU-coupled one. -/
def wipeUnits (s : State) (j : Job) : State :=
  let s1 := (unitReeds j.unit).foldl wipeReed s
  match j.unit with
  | .mau c _ => wipeMau s1 c
  | _ => s1

/-- Take the job off its units, wiping them. -/
def leaveUnits (s : State) (k : Nat) : State :=
  match tblGet s.jobs k with
  | none => s
  | some j => modJob (wipeUnits s j) k (fun x => { x with unit := .none })

/-! ### Aborts (R41, R74, R86) -/

/-- A job whose release has not begun: it may still be aborted in this breath. -/
def abortable (s : State) (j : Job) : Bool := !(j.stage = .held && j.due ≤ s.brt.count) && j.stage ≠ .aborted

/-- Mark a job to be aborted at the exhale of the breath its request counts for. -/
def markAbort (s : State) (k : Nat) (st : Status) : State :=
  modJob s k (fun j => { j with stage := .aborting, abort := some st, due := requestBreath s })

/-- A cipher job cut short wipes the context it works in. -/
def leaveContext (s : State) (j : Job) : State :=
  if j.holds then { s with bore := { s.bore with contexts := tblDel s.bore.contexts (j.inst * 4096 + le j.entry 28 2) } } else s

/-- The abort trap of an exhale, whole: the one END of its handler is done within that exhale (R174, R194), so the job's units are wiped and its completion
is due at the next inhale. An internal job leaves the table. -/
def abortNow (s : State) (k : Nat) : State :=
  match tblGet s.jobs k with
  | none => s
  | some j =>
    let s1 := leaveContext (leaveUnits s k) j
    if hostJob j then modJob s1 k (fun x => { x with stage := .aborted, due := s.brt.count + 1, slice := none }) else dropJob s1 k

/-- The CANCELs that wait for a job to complete. -/
def cancelsOf (s : State) (k : Nat) : List Nat :=
  (s.jobs.filter (fun e => e.2.kind = .cancel && e.2.stage = .running && e.2.rid = k)).map (·.1)

/-- ABORT_COMPLETE: the aborted job completes at the first inhale after its wipe, then the CANCELs that named it (R41, R74). -/
def abortComplete (s : State) (k : Nat) : State :=
  match tblGet s.jobs k with
  | none => s
  | some j =>
    if j.stage = .aborted && j.abort ≠ some .budgetExceeded && j.due ≤ s.brt.count && !s.brt.exhale && !haltHolds s then
      let cs := cancelsOf s k
      let s1 := endOffLadder s k (j.abort.getD .aborted) [] 0 s.brt.count
      cs.foldl (fun t c => endOffLadder t c .ok [] 0 s.brt.count) s1
    else s

def execAbortComplete (j : Nat) (s : State) : Host.Outcome State Fault Refusal := whenRunning s (abortComplete s j)

/-- Cancel an internal job nobody needs any more (R280): unstarted it goes at once, else at the exhale. -/
def cancelInternal (s : State) (k : Nat) : State :=
  match tblGet s.jobs k with
  | none => s
  | some j =>
    if j.unit = .none then dropJob s k
    else modJob (markAbort s k .aborted) k (fun x => { x with internal := some (forNobody, 0) })

/-! ### New jobs -/

/-- A job as fetched. -/
def newJob (inst queue : Nat) (tag : BitVec 16) (gen : Nat) (kind : JobKind) (entry : Bytes) (breath : Nat) : Job where
  inst := inst
  queue := queue
  tag := tag
  gen := gen
  kind := kind
  entry := entry
  gather := []
  input := []
  breath := breath
  stage := .ready
  pool := 0
  cls := .reed
  budget := 0
  start := none
  rung := 1
  unit := .none
  replayed := false
  replays := 0
  replayAt := 0
  abort := none
  due := 0
  result := none
  leaf := none
  claim := false
  draws := []
  drawnAt := none
  frame := none
  deferred := false
  slice := none
  done := 0
  internal := none
  rid := 0
  pages := 0
  space := []
  post := none
  moveAt := none
  saved := none
  holds := false

/-- Add a job under the next number; answers the number. -/
def addJob (s : State) (j : Job) : Nat × State :=
  (s.nextJob, { s with jobs := tblPut s.jobs s.nextJob j, nextJob := s.nextJob + 1 })

/-- The budget B in force of a routine (R214); for a library routine also the occupancy figure that placement charges (R116, R215). -/
def routineBudget (s : State) (r : RoutineSec) : Nat := match s.charts.inForce with
  | some c => scaledBudget c.log2Len r
  | none => r.budget

/-- Admit a job on a routine of the chart for an instance: its pool, unit class, budget and job space (R104, R116, R144); `none` where no
pool of the instance serves it. -/
def admitOn (s : State) (j : Job) (rid : Nat) : Option Job :=
  match tblGet s.insts j.inst, routineSec s rid with
  | some x, some r => (poolFor s x rid).map (fun p => { j with
      stage := .pending
      rid := rid
      pool := p
      cls := routineClass r
      budget := routineBudget s r
      pages := r.jobPages
      space := storeWrite [] 0 j.input })
  | _, _ => none

/-- Slot 0 of a PK_JOB the device writes for itself. -/
def internalEntry (alg op slot ctxLen byteLen : Nat) : Bytes :=
  leBytes 2 0x0100 ++ leBytes 2 0 ++ [1, 0, 0, 0] ++ leBytes 2 alg ++ leBytes 2 slot ++ leBytes 4 byteLen ++ zeros 8 ++
    leBytes 4 (2 ^ 32 - 1) ++ zeros 4 ++ leBytes 1 op ++ [0] ++ leBytes 1 ctxLen ++ [0] ++ leBytes 2 noSlot ++ zeros 4 ++
    leBytes 2 noSlot ++ zeros 20

/-- A result known without a run, released at the next inhale: a slot that fails its tag at submission (R262). -/
def endNow (s : State) (st : Status) (j : Job) : Job :=
  { j with stage := .held, result := some ⟨st, [], 0, none⟩, due := nextInhale s, post := some (0, 0) }

/-- Submit a job of the device as a job of an instance: signing or verification with a slot's key. Answers the job's number. -/
def submitInternal (s : State) (inst : Nat) (what : Nat × Nat) (alg op slot : Nat) (ctx input : Bytes) : Nat × State :=
  let gen := match tblGet s.insts inst with
    | some x => x.gen
    | none => 0
  let j0 := { newJob inst 0 0 gen .pk (internalEntry alg op slot ctx.length input.length) s.brt.count with
    input := input
    internal := some what }
  match checkSlot s inst slot with
  | .error st => addJob (noteSlot s inst slot st) (endNow s st j0)
  | .ok x =>
    if !bitOf x.usage (opUsageBit op) then addJob s (endNow s .keyPolicy j0)
    else match admitOn s j0 (pkRoutine alg op) with
      | some j => addJob s j
      | none => addJob s (endNow s .inputInvalid j0)

end Sys2Proof.Machine
end

