-- ==== Sys2Proof/Machine/Mirror.lean ====
section
/-! DEFINITION. Mirroring to the twin (R409 to R412): records queued for the exhale, and completions that wait for their
acknowledgement. -/

namespace Sys2Proof.Machine

/-- The twin link is up: keyed, and a valid record arrived within the last 16 breaths (R414). -/
def linkUp (s : State) : Bool := s.twn.linkKey.isSome && decide (s.brt.count < s.twn.lastRecord + 16)

/-- The device is the ACTIVE member of a pair. -/
def onPair (s : State) : Bool := s.twn.role = 1

/-- Mirroring takes place: ACTIVE, with the link up. -/
def mirrors (s : State) : Bool := onPair s && linkUp s

/-- Record types (R411). -/
def recHeartbeat : Nat := 1
def recAlign : Nat := 2
def recDomain : Nat := 3
def recChart : Nat := 4
def recInstance : Nat := 5
def recStream : Nat := 6
def recSlot : Nat := 7
def recReserve : Nat := 8
def recSnapshotEnd : Nat := 9

/-- Queue a record for the exhale. -/
def queueRecord (s : State) (kind : Nat) (body : Bytes) : State :=
  { s with twn := { s.twn with toSend := s.twn.toSend ++ [(kind, body)] } }

/-- The SEQ the last queued record will have: records leave in order, numbered on from the last (R411). -/
def queuedSeq (s : State) : Nat := s.twn.nextSeq + s.twn.toSend.length - 1

/-- Mirror a change, where mirroring takes place. -/
def mirror (s : State) (kind : Nat) (body : Bytes) : State := if mirrors s then queueRecord s kind body else s

/-- The completion of a command waits for the acknowledgement of the record just queued (R412). -/
def addMirrorWait (s : State) (c : Compl) (cls key : Nat) : State :=
  { s with twn := { s.twn with waits := s.twn.waits ++ [⟨queuedSeq s, c, cls, key⟩] } }

/-! ### Bodies of records (the spec gives their content, not their layout) -/

/-- An INSTANCE record: action (1 created or changed, 2 destroyed), instance, port, VF, descriptor bytes 0 to 47. -/
def instanceBody (i : Nat) (x : Inst) : Bytes :=
  [1, 0] ++ leBytes 2 i ++ leBytes 2 x.port.val ++ leBytes 2 x.vf ++
    leBytes 1 (flag x.drain) ++ leBytes 1 x.flags ++ leBytes 2 x.maxQueues ++ leBytes 2 x.maxSlots ++ leBytes 2 x.maxContexts ++
    leBytes 4 x.maxStreams ++ leBytes 2 ((x.nextShare).getD x.dmaShare) ++ zeros 2 ++ x.poolShare.flatMap (leBytes 2)

def instanceGone (i : Nat) : Bytes := [2, 0] ++ leBytes 2 i

/-- A SLOT record: action, instance, handle, then the slot's key as a blob under the domain wrapping key. -/
def slotBody (s : State) (i h : Nat) (x : Slot) : Bytes :=
  let key := if x.material = [] then x.key.take x.keyLen else x.material
  [1, 0] ++ leBytes 2 i ++ leBytes 2 h ++ zeros 2 ++ domainBlob s (newBlobHdr s x.alg x.usage x.policy x.kind x.owner key) key

def slotGone (i h : Nat) : Bytes := [2, 0] ++ leBytes 2 i ++ leBytes 2 h ++ zeros 2

/-- A RESERVE record of a leaf ceiling: kind 3, the ceiling, the public key. -/
def leafBody (pub : Bytes) (n : Nat) : Bytes := [3] ++ zeros 7 ++ leBytes 8 n ++ pub

/-- A RESERVE record of a counter ceiling: kind 2, the stream, the ceiling, the epoch. -/
def counterBody (sid epoch n : Nat) : Bytes := [2] ++ zeros 3 ++ leBytes 4 sid ++ leBytes 8 n ++ leBytes 4 epoch

end Sys2Proof.Machine
end

