-- ==== Sys2Proof/Machine/Journal.lean ====
section
/-! DEFINITION. The custody journal (R251, R434) and what is reserved through it: extent serials (R249, R250), TRANSIT counters
(R270), leaves of stateful keys (R227, R334). -/

namespace Sys2Proof.Machine

def modBore (s : State) (f : Bore → Bore) : State := { s with bore := f s.bore }
def modJournal (s : State) (f : Journal → Journal) : State := modBore s (fun b => { b with journal := f b.journal })
def modStream (s : State) (sid : Nat) (f : Stream → Stream) : State := modBore s (fun b => { b with streams := tblMod b.streams sid f })

/-! ### Records -/

/-- TYPE, SUBJECT of a record (R251). -/
def journalSubject (s : State) : JournalFor → Nat × Bytes
  | .serial => (1, leBytes 16 (memberNumber s))
  | .counter sid epoch => match tblGet s.bore.streams sid with
    | some x => (2, padTo 16 (x.linkId ++ leBytes 4 epoch))
    | none => (2, zeros 16)
  | .leaf pub => (3, (sha3_256 pub).take 16)

/-- Bytes 0 to 47 of a record. -/
def journalHead (typ seq : Nat) (subject : Bytes) (ceiling : Nat) : Bytes :=
  leBytes 2 typ ++ zeros 2 ++ leBytes 4 seq ++ subject ++ leBytes 8 ceiling ++ zeros 16

/-- A record with its MAC. -/
def journalRecord (s : State) (typ seq : Nat) (subject : Bytes) (ceiling : Nat) : Bytes :=
  let h := journalHead typ seq subject ceiling
  h ++ kmac256 (journalKey s) h 16 []

/-- Its MAC verifies. -/
def journalMacOk (s : State) (r : Bytes) : Bool := r.drop 48 = kmac256 (journalKey s) (r.take 48) 16 []

/-- The valid records, oldest first: MAC, and a SEQUENCE above that of every earlier valid one. -/
def validRecords (s : State) : List Bytes :=
  (s.bore.journal.sectors.flatten.foldl (fun (acc : List Bytes × Option Nat) r =>
    if journalMacOk s r && (match acc.2 with
      | none => true
      | some n => n < le r 4 4) then (r :: acc.1, some (le r 4 4)) else acc) ([], none)).1.reverse

/-- The next SEQUENCE. -/
def nextSequence (s : State) : Nat := match (validRecords s).getLast? with
  | some r => le r 4 4 + 1
  | none => 0

/-- The highest ceiling of a subject in valid records. -/
def journalCeiling (s : State) (typ : Nat) (subject : Bytes) : Option Nat :=
  ((validRecords s).filter (fun r => le r 0 2 = typ && slice r 8 16 = subject)).foldl (fun m r => some (max (m.getD 0) (le r 24 8))) none

/-- The highest ceiling the device holds for a stateful key, by mirror or by journal, if any (R228, R229, R334). -/
def heldCeiling (s : State) (pub : Bytes) : Option Nat := match mirroredCeiling s pub, journalCeiling s 3 ((sha3_256 pub).take 16) with
  | some a, some b => some (max a b)
  | some a, none => some a
  | none, b => b

/-- The state of a key loaded into its first slot: the ceiling held, every tree pending (R225, R334). -/
def newStateful (pub : Bytes) (alg levels height : Nat) (ceiling : Option Nat) : Stateful :=
  ⟨pub, alg, levels, height, ceiling.getD 0, ceiling, 0, List.replicate levels none, List.replicate levels none, none, false⟩

/-- Load material into a slot: the descriptor and store space of an extended key, the state of a stateful one, the TAG. -/
def fillSlot (s : State) (i h alg usage policy kind : Nat) (material : Bytes) : State :=
  let ext : Bool := 64 < material.length
  let off := (storeFit s material.length).getD 0
  let phys := match slotAt s i h with
    | some x => x.phys
    | none => freePhys s
  let x0 : Slot := ⟨phys, padTo 64 (if ext then descriptor material off else material), alg, usage, policy, i, material.length, kind,
    [], if ext then material else [], off, false, false, none⟩
  let s1 := modWch s (fun w => { w with slots := tblPut w.slots (slotKey i h) { x0 with tag := slotTag s x0 } })
  if kind = 2 && (statefulOf s (statefulPub material)).isNone then
    let pub := statefulPub material
    let k := newStateful pub alg (byteAt material 0) (byteAt material 1) (heldCeiling s pub)
    modWch s1 (fun w => { w with stateful := k :: w.stateful })
  else s1

/-- The latest epoch and its ceiling journalled for a link. -/
def journalLink (s : State) (link : Bytes) : Option (Nat × Nat) :=
  ((validRecords s).filter (fun r => le r 0 2 = 2 && slice r 8 8 = link)).foldl (fun m r =>
    let e := le r 16 4
    let n := le r 24 8
    match m with
    | none => some (e, n)
    | some (e0, n0) => if e0 < e then some (e, n) else if e = e0 then some (e, max n n0) else some (e0, n0)) none

/-! ### Writes -/

/-- Start the next write that waits. -/
def journalStart (s : State) : State :=
  let j := s.bore.journal
  match j.write, j.queue with
  | none, (f, n) :: rest =>
    if !j.present then s
    else
      let (typ, subj) := journalSubject s f
      modJournal s (fun j => { j with write := some (f, journalRecord s typ (nextSequence s) subj n), queue := rest })
  | _, _ => s

/-- Ask for a ceiling to be journalled. -/
def journalAsk (s : State) (f : JournalFor) (n : Nat) : State :=
  journalStart (modJournal s (fun j => { j with queue := j.queue ++ [(f, n)] }))

/-- The end of serial counters (R250). -/
def serialEnd : Nat := 2 ^ 46

/-- A ceiling is in force; the last one of serials raises the alarm (R250). A frame counter's ceiling belongs to the epoch it was
reserved in: one that comes late for an earlier epoch changes nothing (R269, R270). -/
def confirmCeiling (s : State) (f : JournalFor) (n : Nat) : State :=
  match f with
  | .serial =>
    let s1 := modBore s (fun b => { b with serials := { b.serials with ceiling := max b.serials.ceiling n, reserving := none } })
    if serialEnd ≤ n then logEvent s1 0x020E (leBytes 4 (memberNumber s)) else s1
  | .counter sid epoch => modStream s sid (fun x => if x.epoch = epoch then { x with ceiling := max x.ceiling n, reserving := none } else x)
  | .leaf pub =>
    modStateful (putCeiling s pub n) pub (fun k => { k with ceiling := some (max (k.ceiling.getD 0) n), reserving := none })

/-- A reservation that failed may be started again. -/
def dropReserving (s : State) (f : JournalFor) : State :=
  match f with
  | .serial => modBore s (fun b => { b with serials := { b.serials with reserving := none } })
  | .counter sid epoch => modStream s sid (fun x => if x.epoch = epoch then { x with reserving := none } else x)
  | .leaf pub => modStateful s pub (fun k => { k with reserving := none })

/-- Append a record at the head, 1,024 to a sector (R434). -/
def appendRecord (r : Bytes) (sectors : List (List Bytes)) : List (List Bytes) :=
  match sectors.getLast? with
  | none => [[r]]
  | some h => if h.length < 1024 then sectors.dropLast ++ [h ++ [r]] else sectors ++ [[r]]

/-- JOURNAL_WRITE_DONE: read back and verified, or torn. -/
def journalDone (s : State) (ok : Bool) : State :=
  match s.bore.journal.write with
  | none => s
  | some (f, r) =>
    let s1 := modJournal s (fun j => { j with write := none, sectors := if ok then appendRecord r j.sectors else j.sectors })
    journalStart (if ok then confirmCeiling s1 f (le r 24 8) else dropReserving s1 f)

def execJournalWriteDone (ok : Bool) (s : State) : Host.Outcome State Fault Refusal := whenRunning s (journalDone s ok)

/-- The newest record of each subject of a list of records. -/
def newestBySubject : List Bytes → List Bytes
  | [] => []
  | r :: rest =>
    let later := newestBySubject rest
    if rest.any (fun q => le q 0 2 = le r 0 2 && slice q 8 16 = slice r 8 16) then later else r :: later

/-- Copy records to the head with new SEQUENCE values. -/
def recopy (s : State) (r : Bytes) : State :=
  let n := journalRecord s (le r 0 2) (nextSequence s) (slice r 8 16) (le r 24 8)
  modJournal s (fun j => { j with sectors := appendRecord n j.sectors })

/-- JOURNAL_COMPACT (R434): with one erased sector of 64 left, the subjects that stand only in the oldest sector are copied to the
head, then it is erased. -/
def journalCompact (s : State) : State :=
  match s.bore.journal.sectors with
  | [] => s
  | oldest :: rest =>
    if 63 ≤ s.bore.journal.sectors.length && s.bore.journal.write.isNone then
      let mine := newestBySubject (oldest.filter (journalMacOk s))
      let kept := mine.filter (fun r => !rest.flatten.any (fun q =>
        journalMacOk s q && le q 0 2 = le r 0 2 && slice q 8 16 = slice r 8 16))
      let s1 := kept.foldl recopy s
      modJournal s1 (fun j => { j with sectors := j.sectors.drop 1 })
    else s

def execJournalCompact (s : State) : Host.Outcome State Fault Refusal := whenRunning s (journalCompact s)

/-! ### Reservations -/

/-- The device can reserve serials: it has a member number, and its journal has a valid record for it or is empty (R250). -/
def serialsReady (s : State) : Bool := s.dom.member.isSome && !s.bore.serials.blocked

/-- SERIAL_RESERVE: the next block of 2^20 values, when 2^18 or fewer of the current one remain. -/
def serialReserve (s : State) : State :=
  let x := s.bore.serials
  if serialsReady s && x.reserving.isNone && x.ceiling - x.next ≤ 2 ^ 18 && x.ceiling < serialEnd then
    let n := x.ceiling + 2 ^ 20
    let s1 := modBore s (fun b => { b with serials := { b.serials with reserving := some n } })
    journalAsk s1 .serial n
  else s

def execSerialReserve (s : State) : Host.Outcome State Fault Refusal := whenRunning s (serialReserve s)

/-- The serials as they stand after boot: the highest ceiling journalled for the member number (R250). -/
def serialsAtBoot (s : State) : State :=
  let c := journalCeiling s 1 (leBytes 16 (memberNumber s))
  modBore s (fun b => { b with serials :=
    ⟨c.getD 0, c.getD 0, none, s.dom.member.isSome && c.isNone && b.journal.sectors.flatten ≠ []⟩ })

/-- Ask for a leaf ceiling: by mirror record on a pair, else by journal (R227). -/
def askLeaf (s : State) (pub : Bytes) (n : Nat) : State :=
  if onPair s then mirror s recReserve (leafBody pub n) else journalAsk s (.leaf pub) n

/-- LEAF_RESERVE: the next block of 64 values of a stateful key, when 16 or fewer remain. -/
def leafReserve (s : State) (k : Nat) : State :=
  match s.wch.stateful[k]? with
  | none => s
  | some x => match x.ceiling with
    | none => s
    | some c =>
      if x.reserving.isNone && c - x.counter ≤ 16 && c < totalLeaves x then
        let n := c + 64
        askLeaf (modStateful s x.pub (fun y => { y with reserving := some n })) x.pub n
      else s

def execLeafReserve (k : Nat) (s : State) : Host.Outcome State Fault Refusal := whenRunning s (leafReserve s k)

/-- Frames of a TRANSIT epoch (R269). -/
def epochFrames : Nat := 2 ^ 36

/-- COUNTER_RESERVE: the next block of 2^16 frame counter values, when 2^14 or fewer remain (R270). -/
def counterReserve (s : State) (sid : Nat) : State :=
  match tblGet s.bore.streams sid with
  | none => s
  | some x =>
    if x.cls = .transit && !x.receive && x.reserving.isNone && x.ceiling - x.counter ≤ 2 ^ 14 && x.ceiling < epochFrames then
      let n := min epochFrames (x.ceiling + 2 ^ 16)
      let s1 := modStream s sid (fun y => { y with reserving := some n })
      if onPair s then mirror s1 recReserve (counterBody sid x.epoch n) else journalAsk s1 (.counter sid x.epoch) n
    else s

def execCounterReserve (sid : Nat) (s : State) : Host.Outcome State Fault Refusal := whenRunning s (counterReserve s sid)

/-- A leaf ceiling can be made durable: a journal, or a twin (R227). -/
def durable (s : State) : Bool := s.bore.journal.present || onPair s

/-! ### BOR_SERIAL, BOR_CEILING -/

def borSerial (s : State) : Nat := packFields [(0, 46, s.bore.serials.next), (46, 18, memberNumber s)]
def borCeiling (s : State) : Nat := packFields [(0, 47, s.bore.serials.ceiling)]

end Sys2Proof.Machine
end

