-- ==== Sys2Proof/Machine/Commands.lean ====
section
/-! DEFINITION. Admin and instance control commands (R64 to R70, R94): the queues of fetched commands, the checks every command
meets, completion; CREATE_INSTANCE, SET_RATE, CREATE_QUEUE, DESTROY_QUEUE, QUERY and QUERY_INSTANCE with their reports (R469). -/

namespace Sys2Proof.Machine

/-! ### Opcodes and data buffers -/

/-- Admin commands run from 0x0001 to 0x000B (R65), control commands from 0x0081 to 0x008A. -/
def admKnown (op : Nat) : Bool := 1 ≤ op && op ≤ 0xB
def ctlKnown (op : Nat) : Bool := 0x81 ≤ op && op ≤ 0x8A

/-- The command reads a data buffer. -/
def cmdReads (op : Nat) : Bool :=
  op = 1 || (6 ≤ op && op ≤ 0xA) || op = 0x83 || op = 0x86 || op = 0x89

/-- The data buffer's length is one the command takes. An ENROLL_OFFICER of length 0 removes (R397). -/
def cmdLenOk (op n : Nat) : Bool :=
  if op = 1 then n = 128
  else if op = 7 then n = 4627
  else if op = 0xA then 1 ≤ n && n ≤ 2 ^ 20
  else if op = 0x83 then n = 64
  else if op = 0x89 then n = 232
  else if op = 9 then n = 0 || n = 2656 || n = 4280
  else 1 ≤ n

/-- The command has a buffer to read before it runs. -/
def cmdWantsData (c : Cmd) : Bool := cmdReads c.opcode && c.dataLen ≠ 0

/-- Device-wide commands (R66). -/
def admWide (op : Nat) : Bool := 6 ≤ op && op ≤ 0xA

/-- An admin command acts in the mode (R94). -/
def admActs (m : Mode) (op : Nat) : Bool :=
  match m with
  | .tune => 5 ≤ op && op ≠ 8
  | .shadow => op = 5 || op = 0xA || op = 0xB
  | .service | .migrate | .recover => true
  | .boot | .halted => false

/-! ### Completion -/

/-- Write the queue of fetched commands of a port or an instance. -/
def modAdmQ (s : State) (p : Nat) (f : CmdQ → CmdQ) : State :=
  modPort s p (fun h => { h with adm := { h.adm with q := f h.adm.q } })
def modCtlQ (s : State) (i : Nat) (f : CmdQ → CmdQ) : State := modInst s i (fun x => { x with ctl := f x.ctl })

/-- The front command leaves its queue. -/
def popCmd (q : CmdQ) : CmdQ := ⟨q.cmds.drop 1, none⟩

/-- An entry whose tag is 0xFFFF completes with INPUT_INVALID however it ends (R64, R79). -/
def tagStatus (tag : BitVec 16) (st : Status) : Status := if tag = 0xFFFF then .inputInvalid else st

/-- The completion of an admin command (R76: generation 0). -/
def admCompl (p : Fin 8) (c : Cmd) (st : Status) (out : Bytes) (info : Nat) : Compl :=
  ⟨.adm p, c.tag, tagStatus c.tag st, c.dataAddr, out, info, 0, 0, false, c.fetched⟩

/-- The completion of a control command. -/
def ctlCompl (i : Nat) (c : Cmd) (st : Status) (out : Bytes) (info : Nat) : Compl :=
  ⟨.inst i 0, c.tag, tagStatus c.tag st, c.dataAddr, out, info, 0, c.gen, false, c.fetched⟩

/-- The front admin command of a port. -/
def admFront (s : State) (p : Nat) : Option Cmd := (portAt s p).adm.q.cmds.head?

/-- The front control command of an instance. -/
def ctlFront (s : State) (i : Nat) : Option Cmd := (tblGet s.insts i).bind (fun x => x.ctl.cmds.head?)

/-- Commands with no row of their own complete as they come to the front: check 1 of R66. -/
def settleAdm : Nat → Fin 8 → State → State
  | 0, _, s => s
  | fuel + 1, p, s => match admFront s p.val with
    | none => s
    | some c =>
      if admKnown c.opcode then s
      else settleAdm fuel p (addWaiting (modAdmQ s p.val popCmd) (admCompl p c .inputInvalid [] 0) 4 p.val (nextInhale s))

def settleCtl : Nat → Nat → State → State
  | 0, _, s => s
  | fuel + 1, i, s => match ctlFront s i with
    | none => s
    | some c =>
      if ctlKnown c.opcode then s
      else settleCtl fuel i (addWaiting (modCtlQ s i popCmd) (ctlCompl i c .inputInvalid [] 0) 3 i (nextInhale s))

def settleAdmAll (s : State) (p : Fin 8) : State := settleAdm ((portAt s p.val).adm.q.cmds.length + 1) p s
def settleCtlAll (s : State) (i : Nat) : State := match tblGet s.insts i with
  | none => s
  | some x => settleCtl (x.ctl.cmds.length + 1) i s

/-- The front admin command ends; its completion is due at the inhale of `due`. -/
def admDoneBy (s : State) (p : Fin 8) (st : Status) (out : Bytes) (info due : Nat) : State := match admFront s p.val with
  | none => s
  | some c => settleAdmAll (addWaiting (modAdmQ s p.val popCmd) (admCompl p c st out info) 4 p.val due) p

/-- The front admin command completes at the first inhale after its work ends (R65). -/
def admDone (s : State) (p : Fin 8) (st : Status) (out : Bytes) (info : Nat) : State := admDoneBy s p st out info (nextInhale s)

/-- The front command has begun and waits for an event. -/
def startCmd (q : CmdQ) : CmdQ := match q.cmds with
  | [] => q
  | c :: rest => { q with cmds := { c with started := true } :: rest }

/-- As `admDone`; on a mirroring device after the twin's acknowledgement of the record just queued (R412), until when the command stays at the
front of its ring (R65). -/
def admDoneMirrored (s : State) (p : Fin 8) (info : Nat) : State := match admFront s p.val with
  | none => s
  | some c => if mirrors s then addMirrorWait (modAdmQ s p.val startCmd) (admCompl p c .ok [] info) 4 p.val else admDone s p .ok [] info

/-- The front control command of an instance completes. -/
def ctlDone (s : State) (i : Nat) (st : Status) (out : Bytes) (info : Nat) : State := match ctlFront s i with
  | none => s
  | some c => settleCtlAll (addWaiting (modCtlQ s i popCmd) (ctlCompl i c st out info) 3 i (nextInhale s)) i

def ctlDoneMirrored (s : State) (i info : Nat) : State := match ctlFront s i with
  | none => s
  | some c => if mirrors s then addMirrorWait (modCtlQ s i startCmd) (ctlCompl i c .ok [] info) 3 i else ctlDone s i .ok [] info

/-- The record a command waited for is acknowledged, or no acknowledgement will come: the command leaves its ring. -/
def endWait (s : State) (w : MirrorWait) : State :=
  let s1 := addWaiting s w.c w.cls w.key (nextInhale s)
  match w.c.ring with
  | .adm p => settleAdmAll (modAdmQ s1 p.val popCmd) p
  | .inst i _ => settleCtlAll (modCtlQ s1 i popCmd) i

/-! ### Execution -/

/-- Checks 1 to 3 of R66, and the reserved bytes of R64. -/
def admChecks (s : State) (p : Fin 8) (c : Cmd) : Option Status :=
  if c.tag = 0xFFFF || !admKnown c.opcode then some .inputInvalid
  else if admWide c.opcode && !(portAt s p.val).global then some .keyPolicy
  else if !admActs s.dev.mode c.opcode then some .inputInvalid
  else if !c.reserved || (cmdReads c.opcode && !cmdLenOk c.opcode c.dataLen) then some .inputInvalid else none

def ctlChecks (c : Cmd) : Option Status :=
  if c.tag = 0xFFFF || !ctlKnown c.opcode || !c.reserved || (cmdReads c.opcode && !cmdLenOk c.opcode c.dataLen) then some .inputInvalid
  else none

/-- A command's data buffer has been read whole, where it reads one. -/
def dataWhole (q : CmdQ) (c : Cmd) : Bool := !cmdWantsData c || (q.data.getD []).length = c.dataLen

/-- Run the admin command at the front of a port's queue, where it is `op`, has not begun and has its data. -/
def admRun (s : State) (p : Fin 8) (op : Nat) (f : Cmd → Bytes → State) : State :=
  match admFront s p.val with
  | none => s
  | some c =>
    if c.opcode ≠ op || c.started then s
    else match admChecks s p c with
      | some st => admDone s p st [] 0
      | none => if dataWhole (portAt s p.val).adm.q c then f c ((portAt s p.val).adm.q.data.getD []) else s

/-- Run the control command at the front of an instance's queue 0. -/
def ctlRun (s : State) (i : Nat) (op : Nat) (f : Cmd → Bytes → State) : State :=
  match tblGet s.insts i with
  | none => s
  | some x => match x.ctl.cmds with
    | [] => s
    | c :: _ =>
      if c.opcode ≠ op || c.started then s
      else match ctlChecks c with
        | some st => ctlDone s i st [] 0
        | none => if dataWhole x.ctl c then f c (x.ctl.data.getD []) else s

/-- The front command is in execution: its data is read, or it reads none (R86). -/
def inExecution (q : CmdQ) : Bool := match q.cmds with
  | [] => false
  | c :: _ => c.started || dataWhole q c

/-! ### CREATE_INSTANCE (R60 to R62) and SET_RATE (R90) -/

/-- The instance descriptor's fields lie in their ranges (R61). -/
def instDescOk (d : Bytes) : Bool :=
  byteAt d 0 ≤ 1 && byteAt d 1 ≤ 1 && 1 ≤ le d 2 2 && le d 2 2 ≤ 4096 && le d 4 2 ≤ 16384 && le d 6 2 ≤ 4096 && le d 8 4 ≤ 2 ^ 20 &&
    1 ≤ le d 12 2 && le d 12 2 ≤ 4096 && zeroAt d 14 2 && zeroAt d 48 80 &&
    (List.range 16).all (fun k => decide (le d (16 + 2 * k) 2 ≤ 4096))

/-- The instance a descriptor makes: ACTIVE, generation 0, queue 0 disabled. -/
def instOfDesc (p : Fin 8) (vf : Nat) (d : Bytes) : Inst where
  port := p
  vf := vf
  state := .active
  drain := byteAt d 0 = 1
  flags := byteAt d 1
  errCause := 0
  gen := 0
  maxQueues := le d 2 2
  maxSlots := le d 4 2
  maxContexts := le d 6 2
  maxStreams := le d 8 4
  dmaShare := le d 12 2
  nextShare := none
  poolShare := (List.range 16).map (fun k => le d (16 + 2 * k) 2)
  q0SqBase := 0
  q0CqBase := 0
  q0SqLog2 := 6
  q0CqLog2 := 6
  q0Vector := 0
  queues := [(0, Qp.init)]
  lastQueue := 0
  ctl := CmdQ.init
  bucket := 0
  reset := none

/-- Sum of a quantity over the live instances. -/
def instSum (s : State) (f : Inst → Nat) : Nat := (s.insts.map (fun e => f e.2)).sum

/-- The DMA_SHARE an instance has from the next inhale. -/
def shareNext (x : Inst) : Nat := x.nextShare.getD x.dmaShare

/-- DMA_SHARE of a port's instances, but for one (R62, R90). -/
def portShares (s : State) (p : Fin 8) (but : Option Nat) : Nat :=
  ((s.insts.filter (fun e => e.2.port = p && some e.1 ≠ but)).map (fun e => shareNext e.2)).sum

/-- The instances of a port. -/
def portInsts (s : State) (p : Fin 8) : List Nat := (s.insts.filter (fun e => e.2.port = p)).map (·.1)

/-- The instance ceiling of a port by the chart in force (R102). -/
def chartCeiling (s : State) (p : Nat) : Nat := match s.charts.inForce with
  | some c => c.ceilings.getD p 0
  | none => 0

/-- The ceiling CREATE_INSTANCE checks: with a delta approved, the lower of the old and the new one (R110). -/
def portCeiling (s : State) (p : Nat) : Nat := match s.charts.deltaWait with
  | some w => min (chartCeiling s p) (w.chart.ceilings.getD p 0)
  | none => chartCeiling s p

/-- A new layout serves the live instances of the old one (R94, R110): their ports' ceilings, the pools they hold a share in, and the
routines those pools serve them. -/
def layoutHolds (live : List Inst) (old : List PoolCfg) (new : Chart) : Bool :=
  let share (k : Nat) (x : Inst) : Bool := x.poolShare.getD k 0 ≠ 0
  (List.range 8).all (fun k => decide ((live.filter (fun x => x.port.val = k)).length ≤ new.ceilings.getD k 0)) &&
    old.all (fun p =>
      let holders := live.filter (share p.id)
      holders = [] || (match new.pools.find? (fun q => q.id = p.id) with
        | none => false
        | some q => p.routines.all (fun r => q.routines.contains r ||
            new.pools.any (fun o => o.id ≠ p.id && o.routines.contains r && holders.any (share o.id)))))

def liveInsts (s : State) : List Inst := s.insts.map (·.2)

/-- A new instance keeps every limit of R62. -/
def instFits (s : State) (x : Inst) : Bool :=
  (portInsts s x.port).length + 1 ≤ portCeiling s x.port.val &&
    instSum s Inst.maxQueues + x.maxQueues ≤ 65536 && instSum s Inst.maxSlots + x.maxSlots ≤ 16384 &&
    instSum s Inst.maxContexts + x.maxContexts ≤ 4096 && instSum s Inst.maxStreams + x.maxStreams ≤ 2 ^ 20 &&
    (List.range 16).all (fun k => decide (instSum s (fun y => y.poolShare.getD k 0) + x.poolShare.getD k 0 ≤ 4096)) &&
    portShares s x.port none + x.dmaShare ≤ 4096 &&
    (match s.charts.deltaWait with
      | some w => layoutHolds (x :: liveInsts s) (poolsNow s) w.chart
      | none => true)

def createInstance (p : Fin 8) (s : State) (c : Cmd) (d : Bytes) : State :=
  let vf := le c.params 0 2
  if !zeroAt c.params 2 38 || vf = 0 || (portAt s p.val).totalVfs < vf || (instOf s p.val vf).isSome || !instDescOk d then
    admDone s p .inputInvalid [] 0
  else
    let x := instOfDesc p vf d
    if !instFits s x then admDone s p .reservationFailed [] 0
    else
      let i := tblFree s.insts
      let s1 := mirror { s with insts := tblPut s.insts i x } recInstance (instanceBody i x)
      admDoneMirrored s1 p i

def execCreateInstance (p : Fin 8) (s : State) : Host.Outcome State Fault Refusal :=
  whenRunning s (admRun s p 1 (createInstance p s))

/-- The instance a command names lies on the port (R66). -/
def ownInst (s : State) (p : Fin 8) (i : Nat) : Option Inst := match tblGet s.insts i with
  | some x => if x.port = p then some x else none
  | none => none

/-- SET_RATE. A share outside 1 to 4,096 is a bad parameter before it is a sum above 4,096: the model's order (log 73). -/
def setRate (p : Fin 8) (s : State) (c : Cmd) (_ : Bytes) : State :=
  let i := le c.params 0 2
  let n := le c.params 2 2
  match ownInst s p i with
  | none => admDone s p .inputInvalid [] 0
  | some x =>
    if !zeroAt c.params 4 36 || n = 0 || 4096 < n then admDone s p .inputInvalid [] 0
    else if 4096 < portShares s p (some i) + n then admDone s p .reservationFailed [] 0
    else
      let y := { x with nextShare := some n }
      admDoneMirrored (mirror { s with insts := tblPut s.insts i y } recInstance (instanceBody i y)) p 0

def execSetRate (p : Fin 8) (s : State) : Host.Outcome State Fault Refusal := whenRunning s (admRun s p 4 (setRate p s))

/-! ### Queues (R69) -/

def createQueue (i : Nat) (s : State) (c : Cmd) (_ : Bytes) : State := match tblGet s.insts i with
  | none => s
  | some x =>
    let q := le c.params 0 2
    let sqB := BitVec.ofNat 64 (le c.params 8 8)
    let cqB := BitVec.ofNat 64 (le c.params 16 8)
    let sq := byteAt c.params 2
    let cq := byteAt c.params 3
    if !zeroAt c.params 5 3 || !zeroAt c.params 24 16 || q = 0 || tblHas x.queues q || sqB.toNat % 4096 ≠ 0 || cqB.toNat % 4096 ≠ 0 ||
        sq < 6 || 16 < sq || cq < 6 || 16 < cq then ctlDone s i .inputInvalid [] 0
    else if x.maxQueues ≤ q then ctlDone s i .reservationFailed [] 0
    else
      let qp : Qp := { Qp.init with sqBase := sqB, cqBase := cqB, sqLog2 := sq, cqLog2 := cq, vector := byteAt c.params 4 }
      ctlDone (modInst s i (fun y => { y with queues := tblPut y.queues q qp })) i .ok [] 0

def execCreateQueue (i : Nat) (s : State) : Host.Outcome State Fault Refusal := whenRunning s (ctlRun s i 0x81 (createQueue i s))

def destroyQueue (i : Nat) (s : State) (c : Cmd) (_ : Bytes) : State := match tblGet s.insts i with
  | none => s
  | some x =>
    let q := le c.params 0 2
    match tblGet x.queues q with
    | none => ctlDone s i .inputInvalid [] 0
    | some qp =>
      if !zeroAt c.params 2 38 || q = 0 || qp.enable || qp.out ≠ 0 then ctlDone s i .inputInvalid [] 0
      else ctlDone (modInst s i (fun y => { y with queues := tblDel y.queues q })) i .ok [] 0

def execDestroyQueue (i : Nat) (s : State) : Host.Outcome State Fault Refusal := whenRunning s (ctlRun s i 0x82 (destroyQueue i s))

/-! ### Reports (R469) -/

/-- PART of DEV_IDENT (R4). -/
def partCode : Part → Nat
  | .xc => 1 | .xe => 2 | .lc => 3

/-- VFQ_ISTAT.STATE (R63). -/
def istatState : InstState → Nat
  | .active => 1 | .error => 2 | .resetting => 3

/-- Contexts of an instance that are OPEN; its streams. -/
def contextKey (i h : Nat) : Nat := i * 4096 + h
def contextsOpen (s : State) (i : Nat) : Nat := (s.bore.contexts.filter (fun e => e.1 / 4096 = i)).length
def streamsOf (s : State) (i : Nat) : List Nat := (s.bore.streams.filter (fun e => e.2.inst = i)).map (·.1)

/-- The class 2 report. -/
def instanceReport (s : State) (i : Nat) (x : Inst) (unacked : Nat) : Bytes :=
  padTo 128 (leBytes 2 i ++ leBytes 1 (istatState x.state) ++ leBytes 1 (flag x.drain) ++ leBytes 1 x.errCause ++ leBytes 1 x.flags ++
    leBytes 2 x.vf ++ leBytes 4 x.gen ++ leBytes 2 x.maxQueues ++ leBytes 2 x.queues.length ++ leBytes 2 x.maxSlots ++
    leBytes 2 (slotsUsed s i) ++ leBytes 2 x.maxContexts ++ leBytes 2 (contextsOpen s i) ++ leBytes 4 x.maxStreams ++
    leBytes 4 (streamsOf s i).length ++ leBytes 2 x.dmaShare ++ zeros 2 ++ leBytes 4 unacked ++ x.poolShare.flatMap (leBytes 2))

/-- The class 1 report. -/
def portReport (s : State) (p : Fin 8) : Bytes :=
  let h := portAt s p.val
  padTo 64 (leBytes 1 p.val ++ leBytes 1 h.width ++ leBytes 1 h.speed ++
    leBytes 1 (flag h.global + 2 * flag (relaxedOrder s) + 4 * flag h.vfEnable) ++ leBytes 2 (portCeiling s p.val) ++ leBytes 2 h.totalVfs ++
    leBytes 2 (portInsts s p).length ++
    leBytes 2 ((s.insts.filter (fun e => e.2.port = p)).map (fun e => e.2.dmaShare)).sum)

/-- The class 3 report. -/
def poolReport (s : State) (ch : Chart) (p : PoolCfg) : Bytes :=
  let cs := maskClusters p.mask
  padTo 64 (leBytes 1 p.id ++ leBytes 1 p.minMaus ++ leBytes 2 p.minReeds ++ leBytes 2 (poolReeds s p) ++ leBytes 1 (poolMaus s p) ++
    leBytes 1 (flag (poolBelowMin s ch p) + 2 * flag (gangPool p)) ++ leBytes 8 p.mask ++
    leBytes 2 ((cs.flatMap clusterReeds).filter (reedMuted s)).length ++ leBytes 2 p.routines.length ++
    leBytes 4 (instSum s (fun x => x.poolShare.getD p.id 0)))

/-- KIND of a staged change (R399). -/
def changeKindCode : ChangeKind → Nat
  | .fullChart => 1 | .chartDelta => 2 | .importDomain => 3 | .officer => 4 | .escrowExport => 5 | .escrowImport => 6 | .grantClear => 7
  | .lcTransition => 8 | .domainFound => 9 | .domainAdmit => 10 | .domainRotate => 11 | .successorExport => 12 | .rewrap => 13
  | .twinEnrol => 14 | .debugGrant => 15 | .migrate => 16 | .tuneEntry => 17

/-- The approval message (R399), with MAGIC and VERSION or zeros in their place. -/
def approvalMessage (s : State) (magic : Bool) (id : Nat) (c : Change) : Bytes :=
  (if magic then leBytes 4 0x56525041 ++ [1] else zeros 5) ++ leBytes 1 (changeKindCode c.kind) ++ zeros 2 ++ leBytes 4 id ++ zeros 4 ++
    leBytes 8 s.dom.id ++ leBytes 8 c.expiry ++ c.digest ++ c.nonce

/-- CARRIER of the class 4 report: a port, or 0xF; a mailbox change is told by its port. -/
def carrierCode : Carrier → Nat
  | .port p => p.val
  | .mctp => 0xF
  | .wch p => p.val
  | .lcs p => p.val

/-- The staged change whose CHANGE_ID ends in 16 bits. -/
def changeByLow (s : State) (w : Nat) : Option (Nat × Change) :=
  s.changes.live.find? (fun e => e.1 % 65536 = w && s.brt.count < e.2.expiry)

/-- The class 4 report. -/
def changeReport (s : State) (id : Nat) (c : Change) : Bytes :=
  padTo 128 (approvalMessage s false id c ++ leBytes 1 (flag c.officer.isSome) ++ leBytes 1 (carrierCode c.carrier))

end Sys2Proof.Machine
end

