-- ==== Sys2Proof/Machine/PxtMsg.lean ====
section
/-! DEFINITION. PXT messages (R295 to R298): the header, bodies, and sequence arithmetic modulo 2^32 (R301, R313). -/

namespace Sys2Proof.Machine

/-- A message as R295 lays it out. -/
structure PxtMsg where
  typ : Nat
  node : Bool
  done : Bool
  epoch : Bool
  part : Bool
  sid : Nat
  seq : Nat
  obj : Bytes
  ext : Nat
  off : Nat
  body : Bytes
  deriving DecidableEq, Repr

/-- Types (R296). -/
def tPutBegin : Nat := 1
def tPutData : Nat := 2
def tPutEnd : Nat := 3
def tGetReq : Nat := 4
def tGetData : Nat := 5
def tAbort : Nat := 6
def tAck : Nat := 7
def tNak : Nat := 8
def tCredit : Nat := 9
def tFlush : Nat := 10
def tKeepalive : Nat := 11

/-- The 32 header bytes. -/
def pxtHeader (m : PxtMsg) : Bytes :=
  beBytes 1 (16 + m.typ) ++
    beBytes 3 (2 ^ 23 * flag m.node + 2 ^ 22 * flag m.done + 2 ^ 21 * flag m.epoch + 2 ^ 20 * flag m.part + m.sid % 2 ^ 20) ++
    beBytes 4 m.seq ++ m.obj ++ beBytes 4 m.ext ++ beBytes 4 (2 ^ 18 * (32 + m.body.length) + m.off % 2 ^ 18)

def pxtBytes (m : PxtMsg) : Bytes := pxtHeader m ++ m.body

/-- Read a message. -/
def pxtOfBytes (b : Bytes) : PxtMsg :=
  let f := be b 1 3
  ⟨byteAt b 0 % 16, bitOf f 23, bitOf f 22, bitOf f 21, bitOf f 20, f % 2 ^ 20, be b 4 4, slice b 8 16, be b 24 4,
    be b 28 4 % 2 ^ 18, b.drop 32⟩

/-- FRAME_LEN of a message. -/
def frameLen (b : Bytes) : Nat := be b 28 4 / 2 ^ 18

/-- Strip the Ethernet padding of a message below the least frame size (R291). -/
def unpad (carriage : Nat) (b : Bytes) : Bytes :=
  if carriage = 0 && 32 ≤ frameLen b && frameLen b < b.length && b.length ≤ 46 then b.take (frameLen b) else b

/-- The body a type carries: length and reserved bytes (R296). -/
def bodyOk (typ : Nat) (plain : Bool) (b : Bytes) : Bool :=
  match typ with
  | 1 => b.length = 16 && zeroAt b 5 3 && (!plain || (zeroAt b 4 1 && zeroAt b 8 8))
  | 2 | 5 => 1 ≤ b.length
  | 3 | 4 | 9 | 10 => b.length = 0
  | 6 | 8 => b.length = 16 && zeroAt b 2 6
  | 7 => b.length = 16 && zeroAt b 0 8
  | 11 => b.length = 0 || b.length = 16
  | _ => false

/-- The form checks of R297, on the port's role. -/
def pxtFormOk (plain : Bool) (b : Bytes) : Bool :=
  let m := pxtOfBytes b
  32 ≤ b.length && byteAt b 0 / 16 = 1 && 1 ≤ m.typ && m.typ ≤ 11 && frameLen b = b.length && b.length ≤ 9216 &&
    bodyOk m.typ plain m.body &&
    (!m.node || ((m.typ = tCredit || m.typ = tKeepalive) && m.sid = 0 && allZero m.obj && m.ext = 0 && m.off = 0))

/-- A message with its SEQUENCE set. -/
def setSeq (n : Nat) (b : Bytes) : Bytes := b.take 4 ++ beBytes 4 n ++ b.drop 8

/-- A plain message of an operation. -/
def opMsg (typ sid : Nat) (obj : Bytes) (ext : Nat) : PxtMsg := ⟨typ, false, false, false, false, sid, 0, obj, ext, 0, []⟩

/-- A message about a peer as a whole. -/
def nodeMsg (typ seq : Nat) : PxtMsg := ⟨typ, true, false, false, false, 0, seq, zeros 16, 0, 0, []⟩

def nakBody (status serial : Nat) : Bytes := beBytes 2 status ++ zeros 6 ++ beBytes 8 serial
def ackBody (serial : Nat) : Bytes := zeros 8 ++ beBytes 8 serial
def beginBody (len code serial : Nat) : Bytes := beBytes 4 len ++ beBytes 1 code ++ zeros 3 ++ beBytes 8 serial

/-- DECL_LEN of a PUT_BEGIN. -/
def declLenOf (b : Bytes) : Nat := be b 0 4

/-- The full number with low 32 bits `w` at or above `base`, where it is less than 2^31 away. -/
def seqAbove (base w : Nat) : Option Nat :=
  let d := (w + (2 ^ 32 - base % 2 ^ 32)) % 2 ^ 32
  if d < 2 ^ 31 then some (base + d) else none

/-- The full number with low 32 bits `w` at or below `top`. -/
def seqBelow (top w : Nat) : Option Nat :=
  let d := (top % 2 ^ 32 + (2 ^ 32 - w % 2 ^ 32)) % 2 ^ 32
  if d < 2 ^ 31 && d ≤ top then some (top - d) else none

/-- Cut a payload into pieces of 8,192 bytes with their OFFSETs, in units of 4,096 bytes from `off`. -/
def payloadPieces (off : Nat) (bs : Bytes) : List (Nat × Bytes) :=
  (List.zipIdx (chunks 8192 bs)).map (fun e => (off + 2 * e.2, e.1))

/-- The pieces of a sealed record: the header goes with the first, the tag with the last (R298). -/
def recordPieces (off : Nat) (header sealed : Bytes) : List (Nat × Bytes) :=
  let ps := payloadPieces off (sealed.take (sealed.length - 16))
  (List.zipIdx ps).map (fun e =>
    (e.1.1, (if e.2 = 0 then header else []) ++ e.1.2 ++ (if e.2 + 1 = ps.length then recTag sealed else [])))
where
  recTag (b : Bytes) : Bytes := b.drop (b.length - 16)

end Sys2Proof.Machine
end

