-- ==== Sys2Proof/Machine/Frames.lean ====
section
/-! DEFINITION. Ethernet frames as bytes, from the destination address to before the FCS (R285, R286, R291): how the device builds and reads
them, and MACsec around them (R288, R290). -/

namespace Sys2Proof.Machine

/-! ### The internet checksum -/

/-- The one's complement sum of 16-bit words. -/
def inetSum (b : Bytes) : Nat :=
  let fold (x : Nat) : Nat := x % 65536 + x / 65536
  fold (fold ((chunks 2 (padTo (roundUp b.length 2) b)).map beNat).sum)

def inetCheck (b : Bytes) : Bytes := beBytes 2 (65535 - inetSum b)

/-! ### Building (R285, R286) -/

/-- The UDP source port of a message: 49,152 + (STREAM_ID mod 16,384). -/
def udpSource (msg : Bytes) : Nat := 49152 + be msg 1 3 % 16384

/-- A UDP datagram; its checksum is always computed, and zero is sent as ones. -/
def udpBytes (pseudo : Bytes) (dport : Nat) (msg : Bytes) : Bytes :=
  let head := beBytes 2 (udpSource msg) ++ beBytes 2 dport ++ beBytes 2 (8 + msg.length)
  let sum := inetCheck (pseudo ++ head ++ zeros 2 ++ msg)
  head ++ (if sum = [0, 0] then [0xFF, 0xFF] else sum) ++ msg

/-- What the checksum of UDP over IPv4 and IPv6 covers beside the datagram. -/
def pseudo4 (src dst : Bytes) (n : Nat) : Bytes := src ++ dst ++ [0, 17] ++ beBytes 2 n
def pseudo6 (src dst : Bytes) (n : Nat) : Bytes := src ++ dst ++ beBytes 4 n ++ [0, 0, 0, 17]

/-- An IP address in the form of R293: IPv4 in the first four of 16 bytes. -/
def ipBytes (a : BitVec 128) : Bytes := beBytes 16 a.toNat

/-- IPv4 with DF set and a hop limit of 64; the rest of the header that no rule fixes is free (log 76). -/
def ipv4Bytes (cfg : PxtCfg) (src dst : Peer) (msg : Bytes) : Bytes :=
  let s := (ipBytes src.ip).take 4
  let d := (ipBytes dst.ip).take 4
  let n := 8 + msg.length
  let o := (Config.ipv4Open msg).toNat
  let a := [0x45] ++ beBytes 1 (o % 256) ++ beBytes 2 (20 + n) ++ beBytes 2 (o / 256) ++ [0x40, 0, 64, 17]
  a ++ inetCheck (a ++ zeros 2 ++ s ++ d) ++ s ++ d ++ udpBytes (pseudo4 s d n) cfg.udpPort msg

/-- IPv6 with a hop limit of 64; traffic class and flow label are free (log 76). -/
def ipv6Bytes (cfg : PxtCfg) (src dst : Peer) (msg : Bytes) : Bytes :=
  let n := 8 + msg.length
  beBytes 4 (6 * 2 ^ 28 + (Config.ipv6Open msg).toNat) ++ beBytes 2 n ++ [17, 64] ++ ipBytes src.ip ++ ipBytes dst.ip ++
    udpBytes (pseudo6 (ipBytes src.ip) (ipBytes dst.ip) n) cfg.udpPort msg

/-- EtherType and payload of a message in its carriage. -/
def carriedBytes (cfg : PxtCfg) (src dst : Peer) (carriage : Nat) (msg : Bytes) : Bytes :=
  if carriage = 1 then beBytes 2 0x0800 ++ ipv4Bytes cfg src dst msg
  else if carriage = 2 then beBytes 2 0x86DD ++ ipv6Bytes cfg src dst msg
  else beBytes 2 cfg.etherType ++ msg

/-- The 802.1Q tag of a port that sends tagged: its PCP and VID. -/
def vlanTag (f : FabCfg) : Bytes := if f.tagged then beBytes 2 0x8100 ++ beBytes 2 (2 ^ 13 * f.pcp + f.vid) else []

/-- The frame of a message, before the MAC's padding and FCS. -/
def frameBytes (cfg : PxtCfg) (f : FabCfg) (src dst : Peer) (carriage : Nat) (msg : Bytes) : Bytes :=
  beBytes 6 dst.mac.toNat ++ beBytes 6 src.mac.toNat ++ vlanTag f ++ carriedBytes cfg src dst carriage msg

/-! ### MACsec (R288, R290): GCM-AES-XPN-256, confidentiality offset 0, the SCI in every SecTAG (log 77) -/

/-- The port's own SCI: its MAC address and port identifier 1. -/
def ownSci (f : FabCfg) : Nat := 2 ^ 16 * f.mac.toNat + 1

/-- The IV of a packet number under a salt and an SSCI. -/
def xpnIv (salt : BitVec 96) (ssci : BitVec 32) (pn : Nat) : Bytes :=
  beBytes 12 (salt ^^^ BitVec.ofNat 96 (2 ^ 64 * ssci.toNat + pn)).toNat

/-- The SecTAG: TCI with SC, E and C, the association number, SL, the low half of the packet number, the SCI. -/
def secTag (an n pn sci : Nat) : Bytes :=
  beBytes 2 0x88E5 ++ beBytes 1 (0x2C + an) ++ beBytes 1 (if n < 48 then n else 0) ++ beBytes 4 (pn % 2 ^ 32) ++ beBytes 8 sci

/-- Protect a frame. -/
def macsecSeal (f : FabCfg) (a : MacSa) (an pn : Nat) (frame : Bytes) : Bytes :=
  let head := frame.take 12 ++ secTag an (frame.length - 12) pn (ownSci f)
  let r := gcmSeal (beBytes 32 a.sak.toNat) (xpnIv a.salt a.ssci pn) head (frame.drop 12)
  head ++ r.1 ++ r.2

/-- The least packet number a receive SA takes: the replay window is 64. -/
def lowestPn (a : MacSa) : Nat := max 1 (a.rxNext - 64)

/-- The packet number whose low half a SecTAG shows, from the lowest acceptable one. -/
def fullPn (a : MacSa) (w : Nat) : Nat :=
  let l := lowestPn a
  w + 2 ^ 32 * (l / 2 ^ 32 + if w < 2 ^ 31 && 2 ^ 31 ≤ l % 2 ^ 32 then 1 else 0)

/-- A frame with its SecTAG: the association number, the packet number and the clear frame; `none` where it is no MACsec frame of an
association in use, lies before the replay window, or its ICV fails. -/
def macsecOpen (sas : Tbl MacSa) (b : Bytes) : Option (Nat × Nat × Bytes) :=
  let n := b.length - 44
  let an := byteAt b 14 % 4
  match tblGet sas an with
  | none => none
  | some a =>
    let pn := fullPn a (be b 16 4)
    let iv := xpnIv a.salt a.peerSsci pn
    let key := beBytes 32 a.sak.toNat
    let ct := slice b 28 n
    if 46 ≤ b.length && be b 12 2 = 0x88E5 && byteAt b 14 / 4 = 0x0B && byteAt b 15 = (if n < 48 then n else 0) &&
        be b 20 8 = a.peerSci.toNat && lowestPn a ≤ pn && pn < 2 ^ 64 && gcmTag key iv (b.take 28) ct = b.drop (28 + n) then
      some (an, pn, b.take 12 ++ gcmOpenRaw key iv ct)
    else none

/-! ### Reading (R286) -/

/-- A frame's header: destination, source, VID where it is tagged, EtherType, what follows. -/
structure EthRead where
  dst : Nat
  src : Nat
  vid : Option Nat
  typ : Nat
  rest : Bytes

def ethRead (b : Bytes) : EthRead :=
  if be b 12 2 = 0x8100 then ⟨be b 0 6, be b 6 6, some (be b 14 2 % 4096), be b 16 2, b.drop 18⟩
  else ⟨be b 0 6, be b 6 6, none, be b 12 2, b.drop 14⟩

/-- The message of a UDP datagram to the chart's port whose checksum, where it is not zero, verifies. -/
def udpRead (cfg : PxtCfg) (pseudo u : Bytes) : Option Bytes :=
  if 8 ≤ u.length && be u 2 2 = cfg.udpPort && be u 4 2 = u.length && (be u 6 2 = 0 || inetSum (pseudo ++ u) = 65535) then some (u.drop 8)
  else none

/-- The source address and message of IPv4 without options or fragments to the port's address. -/
def ipv4Read (cfg : PxtCfg) (f : FabCfg) (r : Bytes) : Option (BitVec 128 × Bytes) :=
  let n := be r 2 2
  let u := slice r 20 (n - 20)
  if byteAt r 0 = 0x45 && 28 ≤ n && n ≤ r.length && be r 6 2 % 2 ^ 14 = 0 && byteAt r 9 = 17 && be r 16 4 = f.ipv4.toNat then
    (udpRead cfg (pseudo4 (slice r 12 4) (slice r 16 4) u.length) u).map (fun m => (BitVec.ofNat 128 (2 ^ 96 * be r 12 4), m))
  else none

/-- The same of IPv6 without extension header. -/
def ipv6Read (cfg : PxtCfg) (f : FabCfg) (r : Bytes) : Option (BitVec 128 × Bytes) :=
  let n := be r 4 2
  let u := slice r 40 n
  if byteAt r 0 / 16 = 6 && 40 + n ≤ r.length && byteAt r 6 = 17 && be r 24 16 = f.ipv6.toNat then
    (udpRead cfg (pseudo6 (slice r 8 16) (slice r 24 16) u.length) u).map (fun m => (BitVec.ofNat 128 (be r 8 16), m))
  else none

/-- The tag of a frame matches the port's VLAN setting. -/
def vlanOk (f : FabCfg) (v : Option Nat) : Bool := match v with
  | none => !f.tagged
  | some n => f.tagged && n = f.vid

/-- The message a clear frame carries to the port: R286's tests. -/
def frameMessage (cfg : PxtCfg) (f : FabCfg) (p : Fin 64) (b : Bytes) : Option PxtIn :=
  let x := ethRead b
  let mac := BitVec.ofNat 48 x.src
  if b.length < 14 || x.dst ≠ f.mac.toNat || !vlanOk f x.vid then none
  else if x.typ = cfg.etherType then some ⟨p, ⟨mac, 0⟩, 0, x.rest⟩
  else if x.typ = 0x0800 then (ipv4Read cfg f x.rest).map (fun r => ⟨p, ⟨mac, r.1⟩, 1, r.2⟩)
  else if x.typ = 0x86DD then (ipv6Read cfg f x.rest).map (fun r => ⟨p, ⟨mac, r.1⟩, 2, r.2⟩)
  else none

end Sys2Proof.Machine
end

