-- ==== Sys2Proof/Machine/Sef.lean ====
section
/-! DEFINITION. The Sealed Extent Format (R245 to R248, R252 to R255), TRANSIT keys (R269) and rendezvous hashing (R318): pure formats
and arithmetic. -/

namespace Sys2Proof.Machine

/-! ### CRC-64 (R255) -/

/-- One bit of the CRC, then `n` more. -/
def crc64Bits : Nat → Nat → Nat
  | 0, x => x
  | n + 1, x => crc64Bits n (if x.testBit 63 then (2 * x % 2 ^ 64) ^^^ 0x42F0E1EBA9EA3693 else 2 * x)

/-- The CRC-64 of a string continued from `acc`. -/
def crc64From (acc : Nat) (bs : Bytes) : Nat := bs.foldl (fun c b => crc64Bits 8 (c ^^^ (2 ^ 56 * b.toNat))) acc

def crc64 (bs : Bytes) : Nat := crc64From 0 bs

/-! ### Records -/

/-- The record payload size P of a RECORD_SIZE_CODE. -/
def recSize (code : Nat) : Nat := [4096, 8192, 16384, 65536].getD code 4096

/-- Records of an extent. -/
def recCount (code len : Nat) : Nat := ceilDiv len (recSize code)

/-- PAYLOAD_LEN of record i. -/
def recLen (code len i : Nat) : Nat := min (recSize code) (len - i * recSize code)

/-- What names an extent in its records and manifest. -/
structure SefId where
  code : Nat
  serial : Nat
  obj : Bytes
  ext : Nat
  len : Nat
  deriving DecidableEq, Repr

/-- The record header of record i (R246). -/
def sefHeader (x : SefId) (i : Nat) : Bytes :=
  ascii "SEFr" ++ [1] ++ beBytes 1 x.code ++ beBytes 2 0x2043 ++ beBytes 8 x.serial ++ x.obj ++ beBytes 4 x.ext ++ beBytes 4 i ++
    beBytes 4 (recLen x.code x.len i) ++ [if i + 1 = recCount x.code x.len then 1 else 0] ++ zeros 3

/-- The extent key (R247). -/
def extentKey (archive : Bytes) (serial : Nat) : Bytes :=
  kmac256 archive ([1] ++ beBytes 8 serial ++ beBytes 2 0x2043) 32 (ascii "SEF1 extent key")

/-- ARCHIVE_KEY_ID (R247). -/
def archiveKeyId (archive : Bytes) : Bytes := kmac256 archive [] 16 (ascii "SEF1 key id")

/-- The IV of record i (R248). -/
def recordIv (i : Nat) : Bytes := zeros 8 ++ beBytes 4 i

/-- Seal record i: ciphertext and tag. -/
def sealRecord (key : Bytes) (x : SefId) (i : Nat) (pt : Bytes) : Bytes :=
  let c := gcmSeal key (recordIv i) (sefHeader x i) pt
  c.1 ++ c.2

/-- The tag of a sealed record. -/
def recTag (b : Bytes) : Bytes := b.drop (b.length - 16)

/-- Unseal record i, given whole with header and tag; `none` where its tag fails. -/
def unsealRecord (key : Bytes) (x : SefId) (i : Nat) (b : Bytes) : Option Bytes :=
  let ct := (b.drop 48).take (b.length - 64)
  if gcmTag key (recordIv i) (b.take 48) ct = recTag b ∧ b.take 48 = sefHeader x i then some (gcmOpenRaw key (recordIv i) ct) else none

/-! ### Merkle trees (R253) -/

/-- Hash neighbours; an odd last node is carried up. -/
def merkleLevel : List Bytes → List Bytes
  | a :: b :: rest => sha3_256 (1 :: (a ++ b)) :: merkleLevel rest
  | l => l

def merkleUp : Nat → List Bytes → Bytes
  | 0, l => l.headD []
  | fuel + 1, l => if l.length ≤ 1 then l.headD [] else merkleUp fuel (merkleLevel l)

def merkleLeaf (b : Bytes) : Bytes := sha3_256 (0 :: b)

/-- MerkleRoot of a list of leaves. -/
def merkleRoot (leaves : List Bytes) : Bytes := merkleUp leaves.length (leaves.map merkleLeaf)

/-- The inclusion path of a leaf. -/
def merklePath : Nat → Nat → List Bytes → List Bytes
  | 0, _, _ => []
  | fuel + 1, i, l =>
    if l.length ≤ 1 then []
    else
      let here := if i % 2 = 1 then [l.getD (i - 1) []] else if i + 1 < l.length then [l.getD (i + 1) []] else []
      here ++ merklePath fuel (i / 2) (merkleLevel l)

/-- VerifyPath's loop: the hash at the top and the entries it leaves; `none` where the path has too few. -/
def walkPath : Nat → Bytes → Nat → Nat → List Bytes → Option (Bytes × List Bytes)
  | 0, h, _, _, p => some (h, p)
  | fuel + 1, h, i, n, p =>
    if n ≤ 1 then some (h, p)
    else if i % 2 = 1 then match p with
      | [] => none
      | x :: rest => walkPath fuel (sha3_256 (1 :: (x ++ h))) (i / 2) (ceilDiv n 2) rest
    else if i + 1 < n then match p with
      | [] => none
      | x :: rest => walkPath fuel (sha3_256 (1 :: (h ++ x))) (i / 2) (ceilDiv n 2) rest
    else walkPath fuel h (i / 2) (ceilDiv n 2) p

/-- VerifyPath: the path leads from the leaf to the root and takes PATH_COUNT entries, no more and no fewer. -/
def verifyPath (leaf : Bytes) (index count : Nat) (path : List Bytes) (root : Bytes) : Bool :=
  index < count && walkPath count (merkleLeaf leaf) index count path = some (root, [])

/-! ### Manifests (R252, R254) -/

/-- TAG_ROOT over the record tags. -/
def tagRoot (tags : List Bytes) : Bytes := merkleRoot ((List.zipIdx tags).map (fun e => beBytes 4 e.2 ++ e.1))

/-- The manifest header. -/
def manifestHeader (x : SefId) (domain : Nat) (keyId sig1Id sig2Id : Bytes) (closeBreath : Nat) (root : Bytes) : Bytes :=
  ascii "SEFm" ++ [1] ++ beBytes 1 x.code ++ beBytes 2 0x2043 ++ beBytes 2 0x3110 ++ beBytes 2 0x3011 ++ beBytes 2 0x0203 ++
    beBytes 2 0x0302 ++ beBytes 8 x.serial ++ x.obj ++ beBytes 4 x.ext ++ beBytes 4 (recCount x.code x.len) ++ beBytes 8 x.len ++
    beBytes 8 domain ++ keyId ++ sig1Id ++ sig2Id ++ beBytes 8 closeBreath ++ root

/-- The batch header. -/
def batchHeader (count member breath domain : Nat) (sig2Id root : Bytes) : Bytes :=
  ascii "SEFb" ++ [1, 0] ++ beBytes 2 0x3011 ++ beBytes 2 0x0302 ++ beBytes 2 count ++ beBytes 4 member ++ beBytes 8 breath ++
    beBytes 8 domain ++ sig2Id ++ root

def sig1Len : Nat := 4627
def sig2Len : Nat := 29792

/-- The parts of a manifest as read back (R252). -/
structure Manifest where
  header : Bytes
  tags : List Bytes
  sig1 : Bytes
  batch : Bytes
  leaf : Nat
  path : List Bytes
  sig2 : Bytes
  deriving DecidableEq, Repr

/-- The bytes of a manifest. -/
def manifestBytes (m : Manifest) : Bytes :=
  m.header ++ m.tags.flatten ++ m.sig1 ++ m.batch ++ beBytes 2 m.leaf ++ beBytes 1 m.path.length ++ m.path.flatten ++ m.sig2

/-- The length of the manifest whose first bytes are here; `none` while they do not tell. -/
def manifestLen (b : Bytes) : Option Nat :=
  let n := be b 44 4
  let p := 184 + 16 * n + sig1Len + 98
  if 184 ≤ b.length && p < b.length then some (p + 1 + 32 * byteAt b p + sig2Len) else none

/-- Read a whole manifest. -/
def manifestOf (b : Bytes) : Manifest :=
  let n := be b 44 4
  let o1 := 184 + 16 * n
  let o2 := o1 + sig1Len
  let k := byteAt b (o2 + 98)
  ⟨b.take 184, (List.range n).map (fun i => slice b (184 + 16 * i) 16), slice b o1 sig1Len, slice b o2 96, be b (o2 + 96) 2,
    (List.range k).map (fun i => slice b (o2 + 99 + 32 * i) 32), slice b (o2 + 99 + 32 * k) sig2Len⟩

/-- The extent a manifest header describes. -/
def manifestId (h : Bytes) : SefId := ⟨byteAt h 5, be h 16 8, slice h 24 16, be h 40 4, be h 48 8⟩

/-- The constant fields of a manifest header and of its batch header are those of R252 and R254, and its counts agree. -/
def manifestForm (m : Manifest) : Bool :=
  let x := manifestId m.header
  m.header.take 5 = ascii "SEFm" ++ [1] && x.code ≤ 3 && slice m.header 6 10 =
    beBytes 2 0x2043 ++ beBytes 2 0x3110 ++ beBytes 2 0x3011 ++ beBytes 2 0x0203 ++ beBytes 2 0x0302 &&
    1 ≤ x.len && x.len ≤ 2 ^ 30 && m.tags.length = recCount x.code x.len && m.batch.take 10 =
    ascii "SEFb" ++ [1, 0] ++ beBytes 2 0x3011 ++ beBytes 2 0x0302

/-! ### TRANSIT (R269) -/

/-- The key of epoch e. -/
def transitKey (streamKey link : Bytes) (e : Nat) : Bytes :=
  kmac256 streamKey (link ++ beBytes 4 e) 32 (ascii "PXT1 transit epoch")

def transitIv (e c : Nat) : Bytes := beBytes 4 e ++ beBytes 8 c

/-! ### Rendezvous hashing (R318) -/

def hashF (obj : Bytes) : Nat := be obj 0 4 ^^^ be obj 4 4 ^^^ be obj 8 4 ^^^ be obj 12 4

/-- The score of replica r of a node. -/
def hashScore (f id r : Nat) : Nat :=
  let x := f ^^^ (id * 16 % 2 ^ 32) ^^^ r
  let h := x * 0x9E3779B1 % 2 ^ 32
  h ^^^ (h / 2 ^ 16)

/-- A node's best score. -/
def nodeScore (f : Nat) (n : NodeCfg) : Nat := (List.range n.weight).foldl (fun m r => max m (hashScore f n.id r)) 0

/-- The winner of a table: the largest score, the lower NODE_ID on equal ones. -/
def nodeWinner (t : NodeTable) (obj : Bytes) : Option NodeCfg :=
  t.nodes.foldl (fun w n => match w with
    | none => some n
    | some b => if nodeScore (hashF obj) b < nodeScore (hashF obj) n then some n else some b) none

end Sys2Proof.Machine
end

