-- ==== Sys2Proof/Machine/Hops.lean ====
section
/-! DEFINITION. Frames out of fabric ports (R286 to R290), hop operations with credit and go-back-N (R299 to R305), opening credits
(R301), liveness (R307). -/

namespace Sys2Proof.Machine

/-! ### Configuration -/

def fabCfg (s : State) (p : Nat) : Option FabCfg := s.charts.inForce.bind (fun c => tblGet c.fabric p)

/-- The PXT section in force, or its defaults (R292). -/
def pxtCfg (s : State) : PxtCfg := (s.charts.inForce.bind Chart.pxt).getD ⟨0x88B5, 29281, 20, 6, 8, 14, 64⟩

/-- SPEED of a port by its lanes, 100 Gb/s each: 0 = 100G, 1 = 200G, 2 = 400G (PRT_PORT, R282). -/
def laneSpeed (lanes : Nat) : Nat := if lanes = 4 then 2 else if lanes = 2 then 1 else 0

def fabPort (s : State) (p : Nat) : FabPort := tblGetD s.pxt.ports p FabPort.init
def modPxt (s : State) (f : Pxt → Pxt) : State := { s with pxt := f s.pxt }
def modFab (s : State) (p : Nat) (f : FabPort → FabPort) : State :=
  modPxt s (fun x => { x with ports := tblPut x.ports p (f (fabPort s p)) })
def modOp (s : State) (o : Nat) (f : HopOp → HopOp) : State := modPxt s (fun x => { x with ops := tblMod x.ops o f })
def modFlow (s : State) (e : Nat) (f : Flow → Flow) : State := modBore s (fun b => { b with flows := tblMod b.flows e f })

/-- The former SHADOW device of a split stays silent in RECOVER (R416). -/
def silentTwin (s : State) : Bool := s.twn.role = 2

/-- The fabric side is in service: SERVICE, MIGRATE, or RECOVER by R45 (R315). -/
def fabricServes (s : State) : Bool :=
  (s.dev.mode = .service || s.dev.mode = .migrate || s.dev.mode = .recover) && !silentTwin s

/-- New extents may be opened: not in RECOVER, not from a quiesce on, not while halting, not in SHADOW (R44, R45, R47, R301). -/
def newExtents (s : State) : Bool :=
  fabricServes s && s.dev.mode ≠ .recover && s.dev.quiesce.isNone && !s.dev.halting

/-! ### Drop counts (PXT_DROPS) -/

def dropBad (s : State) : State := modPxt s (fun x => { x with badFrame := sat 16 (x.badFrame + 1) })
def dropNoMatch (s : State) : State := modPxt s (fun x => { x with noMatch := sat 16 (x.noMatch + 1) })
def dropCredit (s : State) : State := modPxt s (fun x => { x with overCredit := sat 16 (x.overCredit + 1) })
def dropTag (s : State) : State := modPxt s (fun x => { x with tagFail := sat 16 (x.tagFail + 1) })

/-! ### Transmission (R287, R290) -/

/-- The port's own addresses as the source of a frame. -/
def portPeer (f : FabCfg) (carriage : Nat) : Peer :=
  ⟨f.mac, if carriage = 1 then BitVec.ofNat 128 (2 ^ 96 * f.ipv4.toNat) else if carriage = 2 then f.ipv6 else 0⟩

/-- A pending SAK takes effect at a frame boundary (R290). -/
def macsecNext (x : FabPort) : FabPort := match x.nextAn with
  | none => x
  | some an => { x with txAn := some an, nextAn := none, pn := 1 }

/-- The association a port sends under, with its number. -/
def macsecTx (x : FabPort) : Option (Nat × MacSa) := x.txAn.bind (fun an => (tblGet x.sas an).map (fun a => (an, a)))

/-- The port may send a frame now: link up, its PCP not paused, a usable SA where MACsec is set; packet number 2^64 - 1 is never sent. -/
def canSend (f : FabCfg) (x : FabPort) : Bool :=
  x.linkUp && !bitOf x.xoffRcvd f.pcp && (!f.macsec || ((macsecTx (macsecNext x)).isSome && (macsecNext x).pn < 2 ^ 64 - 1))

/-- MACsec frames take pipe time (R289). -/
def macsecCharge (s : State) (n : Nat) : State := modPxt s (fun x => { x with macBytes := x.macBytes + n })

/-- A frame leaves under the port's transmit association; at packet number 2^60 the device asks MKA for a new SAK (R290). -/
def txProtected (s : State) (p : Nat) (f : FabCfg) (b : Bytes) : State :=
  let y := macsecNext (fabPort s p)
  match macsecTx y with
  | none => s
  | some (an, a) =>
    let s1 := emit (macsecCharge (modFab s p (fun _ => { y with pn := y.pn + 1 })) b.length) (.frame p (macsecSeal f a an y.pn b))
    if y.pn = 2 ^ 60 then emit s1 (.macsecAsk p) else s1

/-- Put a message on the wire, or behind those that wait. -/
def txFrame (s : State) (p : Nat) (dst : Peer) (carriage : Nat) (b : Bytes) : State := match fabCfg s p with
  | none => s
  | some f =>
    let x := fabPort s p
    let w := frameBytes (pxtCfg s) f (portPeer f carriage) dst carriage b
    if x.txq ≠ [] || !canSend f x then modFab s p (fun y => { y with txq := y.txq ++ [(dst, carriage, b)] })
    else if f.macsec then txProtected s p f w else emit s (.frame p w)

/-- Send what waited on a port, oldest first. -/
def txFlush (s : State) (p : Nat) : State :=
  let q := (fabPort s p).txq
  q.foldl (fun t e => txFrame t p e.1 e.2.1 e.2.2) (modFab s p (fun y => { y with txq := [] }))

/-! ### Peers -/

/-- The source is the peer expected: by IP address under UDP, else by MAC address. -/
def peerIs (carriage : Nat) (a b : Peer) : Bool := if carriage = 0 then a.mac = b.mac else a.ip = b.ip

/-- The peer a node entry names. -/
def nodePeer (n : NodeCfg) : Peer := ⟨n.mac, n.addr⟩

/-- Liveness keys: nodes by NODE_ID, gateways above 2^32. -/
def gatewayKey (sid : Nat) : Nat := 2 ^ 32 + sid
def opPeerKey (o : HopOp) : Nat := match o.node with
  | some n => n
  | none => gatewayKey o.sid

def noteHeard (s : State) (k : Nat) : State :=
  modPxt s (fun x => { x with heard := tblPut x.heard k s.brt.count, unreachable := x.unreachable.filter (· ≠ k) })
def noteSent (s : State) (k : Nat) : State := modPxt s (fun x => { x with quiet := tblPut x.quiet k s.brt.count })

/-- The operations at a peer. -/
def opsAt (s : State) (k : Nat) : List (Nat × HopOp) := s.pxt.ops.filter (fun e => opPeerKey e.2 = k)

/-- The node tables in use. -/
def nodeTables (s : State) : List NodeTable := s.pxt.cur.toList ++ s.pxt.prev.toList ++ s.pxt.old

/-- A node entry by its ID. -/
def nodeById (s : State) (id : Nat) : Option NodeCfg := ((nodeTables s).flatMap NodeTable.nodes).find? (fun n => n.id = id)

/-- The node a message's source is. -/
def nodeBySource (s : State) (p carriage : Nat) (src : Peer) : Option NodeCfg :=
  ((nodeTables s).flatMap NodeTable.nodes).find? (fun n => n.port = p && n.carriage = carriage && peerIs carriage (nodePeer n) src)

/-- Operations the device may hold open at a node (R301). -/
def nodeOpenings (s : State) (id : Nat) : Nat := tblGetD s.pxt.nodeLimit id (pxtCfg s).nodeOps

/-- A node has a free opening. -/
def nodeFree (s : State) (id : Nat) : Bool := (s.pxt.ops.filter (fun e => e.2.node = some id)).length < nodeOpenings s id

/-! ### Sending on an operation -/

/-- Send a message on an operation's hop as it stands. -/
def opTx (s : State) (o : Nat) (b : Bytes) : State :=
  match tblGet s.pxt.ops o with
  | none => s
  | some x => noteSent (txFrame s x.fport x.peer x.carriage b) (opPeerKey x)

/-- Send what waits for credit, oldest first, while the peer's limit allows (R301). -/
def pumpList (o : Nat) : List Bytes → State → State
  | [], s => s
  | b :: rest, s =>
    match tblGet s.pxt.ops o with
    | none => s
    | some x =>
      if x.txNext < x.txLimit then
        let m := setSeq x.txNext b
        let s1 := modOp s o (fun y => { y with
          txNext := y.txNext + 1
          wait := rest
          sent := y.sent ++ [(y.txNext, m)]
          since := if y.sent = [] then s.brt.count else y.since })
        pumpList o rest (opTx s1 o m)
      else s

def opPump (s : State) (o : Nat) : State := match tblGet s.pxt.ops o with
  | none => s
  | some x => pumpList o x.wait s

/-- Send sequenced messages on an operation, within its credit. -/
def opSend (s : State) (o : Nat) (ms : List PxtMsg) : State :=
  opPump (modOp s o (fun x => { x with wait := x.wait ++ ms.map pxtBytes })) o

/-- A message of an operation with its names. -/
def opMessage (x : HopOp) (typ : Nat) : PxtMsg := opMsg typ x.sid x.obj x.ext

/-- ACK with DONE clear: the highest sequence received in order (R304). -/
def opAck (s : State) (o : Nat) : State := match tblGet s.pxt.ops o with
  | none => s
  | some x => opTx s o (pxtBytes { opMessage x tAck with seq := x.rxNext + 2 ^ 32 - 1, body := ackBody 0 })

/-- ACK with DONE set, closing the operation (R304). -/
def opDone (s : State) (o serial : Nat) : State := match tblGet s.pxt.ops o with
  | none => s
  | some x =>
    let s1 := opTx s o (pxtBytes { opMessage x tAck with done := true, seq := x.rxNext + 2 ^ 32 - 1, body := ackBody serial })
    modPxt s1 (fun y => { y with ops := tblDel y.ops o })

/-- NAK with a status that ends the operation (R300). -/
def opNak (s : State) (o : Nat) (st : Status) (serial : Nat) : State := match tblGet s.pxt.ops o with
  | none => s
  | some x =>
    let s1 := opTx s o (pxtBytes { opMessage x tNak with body := nakBody (statusCode st) serial })
    modPxt s1 (fun y => { y with ops := tblDel y.ops o })

/-- NAK with status OK: resend from `n` (R305). -/
def opResendFrom (s : State) (o n : Nat) : State := match tblGet s.pxt.ops o with
  | none => s
  | some x => opTx (modOp s o (fun y => { y with rxNak := some s.brt.count })) o
      (pxtBytes { opMessage x tNak with seq := n, body := nakBody 0 0 })

/-- FLUSH ends an operation at the peer (R303). -/
def opFlush (s : State) (o : Nat) : State := match tblGet s.pxt.ops o with
  | none => s
  | some x =>
    let s1 := opTx s o (pxtBytes (opMessage x tFlush))
    modPxt s1 (fun y => { y with ops := tblDel y.ops o })

/-- ABORT_EXTENT takes the sequence number after the last one sent, without credit; what waited is dropped (R308). -/
def opAbort (s : State) (o : Nat) (st : Status) (serial : Nat) : State := match tblGet s.pxt.ops o with
  | none => s
  | some x =>
    let m := setSeq x.txNext (pxtBytes { opMessage x tAbort with body := nakBody (statusCode st) serial })
    opTx (modOp s o (fun y => { y with
      wait := []
      sent := y.sent ++ [(y.txNext, m)]
      txNext := y.txNext + 1
      since := s.brt.count })) o m

/-- The CREDIT that states an operation's limit. -/
def opCredit (s : State) (o : Nat) : State := match tblGet s.pxt.ops o with
  | none => s
  | some x => opTx s o (pxtBytes { opMessage x tCredit with seq := x.rxLimit })

/-! ### Credit granted (R302) -/

/-- The bytes of the bore buffer. -/
def boreBuffer : Nat := 2 ^ 26

/-- The bytes in use: 9,216 for each credited frame, and what records hold. -/
def bufferUsed (s : State) : Nat :=
  (s.pxt.ops.map (fun e => 9216 * (e.2.rxLimit - e.2.rxNext))).sum +
    (s.bore.flows.map (fun e => (e.2.recs.map (fun r => r.2.input.length + r.2.result.length)).sum)).sum

/-- Frames that can still be credited. -/
def freeFrames (s : State) : Nat := (boreBuffer - bufferUsed s) / 9216

/-- Grant credit on an operation: the device's own choice within the frames it can hold (R24, R302). -/
def opGrant (s : State) (o : Nat) : State :=
  let (n, s1) := freshChoice (freeFrames s + 1) s
  if n = 0 then s1 else opCredit (modOp s1 o (fun x => { x with rxLimit := x.rxLimit + n })) o

/-! ### Receiving on an operation (R305) -/

/-- What the sequence number of a message comes to. -/
inductive SeqOutcome where
  | next | duplicate | gap | beyond
  deriving DecidableEq, Repr

def seqOutcome (x : HopOp) (w : Nat) : SeqOutcome :=
  match seqAbove x.rxNext w with
  | none => .duplicate
  | some n => if n ≠ x.rxNext then .gap else if x.rxNext < x.rxLimit then .next else .beyond

/-- Deal with a sequenced message that is not the next one within credit: a duplicate is acknowledged, a gap answered by NAK at most
once a breath, one beyond credit dropped and the limit restated. -/
def seqReject (s : State) (o : Nat) (x : HopOp) : SeqOutcome → State
  | .next => s
  | .duplicate => opAck s o
  | .gap => if x.rxNak = some s.brt.count then s else opResendFrom s o (x.rxNext % 2 ^ 32)
  | .beyond => opCredit (dropCredit s) o

/-- Count a message accepted in order. -/
def seqTake (s : State) (o : Nat) : State := modOp s o (fun x => { x with rxNext := x.rxNext + 1 })

/-- A peer's ACK up to a sequence number frees the messages it covers (R305). -/
def opAcked (s : State) (o w : Nat) : State := match tblGet s.pxt.ops o with
  | none => s
  | some x => match seqBelow (x.txNext - 1) w with
    | none => s
    | some n =>
      let rest := x.sent.filter (fun e => n < e.1)
      if rest.length = x.sent.length then s
      else modOp s o (fun y => { y with sent := rest, since := s.brt.count, timeouts := 0 })

/-- Resend what was sent from a sequence number on (R305). -/
def opResend (s : State) (o w : Nat) : State := match tblGet s.pxt.ops o with
  | none => s
  | some x => match seqBelow x.txNext w with
    | none => s
    | some n =>
      let s1 := opAcked s o (2 ^ 32 - 1 + n)
      (x.sent.filter (fun e => n ≤ e.1)).foldl (fun t e => opTx t o e.2) (modOp s1 o (fun y => { y with since := s.brt.count }))

/-- A peer's CREDIT raises an operation's limit; a lower one is ignored (R301). -/
def opLimit (s : State) (o w : Nat) : State := match tblGet s.pxt.ops o with
  | none => s
  | some x => match seqAbove x.txLimit w with
    | none => s
    | some n => opPump (modOp s o (fun y => { y with txLimit := n })) o

/-! ### Opening credits of gateways (R264, R301) -/

/-- Extents of an instance closed and not yet acknowledged (R264). -/
def extentsUnacked (s : State) (i : Nat) : Nat :=
  (s.bore.flows.filter (fun e => e.2.inst = i && e.2.kind = .put &&
    (e.2.stage = .sig1 || e.2.stage = .batched || e.2.stage = .sig2 || e.2.stage = .stored || e.2.stage = .delivered))).length

/-- The instance is held back by R264: at 4,096, until 3,072. -/
def atLimit (s : State) (i : Nat) : Bool := s.bore.atLimit.contains i

/-- Keep the set of instances R264 holds back. -/
def noteLimit (s : State) (i : Nat) : State :=
  let n := extentsUnacked s i
  if 4096 ≤ n && !atLimit s i then modBore s (fun b => { b with atLimit := i :: b.atLimit })
  else if n ≤ 3072 then modBore s (fun b => { b with atLimit := b.atLimit.filter (· ≠ i) })
  else s

/-- An operation of the stream's plain hop is open. -/
def plainOpen (s : State) (sid : Nat) : Option (Nat × HopOp) :=
  s.pxt.ops.find? (fun e => e.2.sid = sid && (e.2.kind = .putIn || e.2.kind = .getIn))

/-- Renew a stream's opening credit, where nothing withholds it: it is withheld in the conditions of R44, R45, R47, R264 and SHADOW
(R301). A bound peer is told by CREDIT. -/
def renewOpening (s : State) (sid : Nat) : State := match tblGet s.bore.streams sid with
  | none => s
  | some x =>
    if x.cls ≠ .preserve || x.opening || x.destroy || (plainOpen s sid).isSome || !newExtents s || atLimit s x.inst then s
    else
      let s1 := modStream s sid (fun y => { y with opening := true })
      match x.bound with
      | none => s1
      | some p => noteSent (txFrame s1 x.plainPort p x.carriage (pxtBytes { opMsg tCredit sid (zeros 16) 0 with seq := 1 }))
          (gatewayKey sid)

/-- Renew the openings of every stream of an instance, or of all. -/
def renewOpenings (s : State) (i : Option Nat) : State :=
  ((s.bore.streams.filter (fun e => i = none || i = some e.2.inst)).map (·.1)).foldl renewOpening s

/-! ### New operations -/

/-- Add an operation; answers its number. -/
def addOp (s : State) (x : HopOp) : Nat × State :=
  let o := tblFree s.pxt.ops
  (o, modPxt s (fun y => { y with ops := tblPut y.ops o x }))

/-- An operation at a node: its opening message is sent at SEQUENCE 0. The node's silence counts from the first of its operations. -/
def nodeOp (s : State) (kind : HopKind) (sid e : Nat) (obj : Bytes) (ext : Nat) (n : NodeCfg) : Nat × State :=
  addOp (if opsAt s n.id = [] then modPxt s (fun x => { x with heard := tblPut x.heard n.id s.brt.count }) else s)
    ⟨kind, sid, obj, ext, n.port, n.carriage, nodePeer n, some n.id, e, 0, 0, none, 0, 1, [], [], s.brt.count, 0⟩

/-- An operation opened by a peer: its opening message was SEQUENCE 0. -/
def peerOp (s : State) (kind : HopKind) (sid e : Nat) (obj : Bytes) (ext p carriage : Nat) (src : Peer) : Nat × State :=
  addOp s ⟨kind, sid, obj, ext, p, carriage, src, none, e, 1, 1, none, 0, 0, [], [], s.brt.count, 0⟩

end Sys2Proof.Machine
end

