-- ==== Sys2Proof/Machine/Query.lean ====
section
/-! DEFINITION. QUERY and QUERY_INSTANCE (R67, R69, R469). -/

namespace Sys2Proof.Machine

/-- DEV_IDENT (R4): stepping B0. -/
def devIdent (s : State) : Nat :=
  packFields [(0, 4, 0), (4, 4, 2), (8, 8, partCode s.dev.part), (16, 1, flag (s.dev.part = .lc))]

/-- The class 0 report as it is written at the next inhale. -/
def deviceReport (s : State) : Bytes :=
  let pool (k : Nat) : Option PoolCfg := (poolsNow s).find? (fun p => p.id = k)
  padTo 96 (leBytes 4 (devIdent s) ++ leBytes 1 (modeCode s.dev.mode) ++ leBytes 1 s.dev.prevMode ++ leBytes 1 s.brt.log2Len ++
    leBytes 1 s.brt.clockStep ++ leBytes 8 (nextInhale s) ++ leBytes 4 (s.charts.inForce.elim 0 Chart.generation) ++
    leBytes 1 s.charts.deltas.length ++ leBytes 1 (poolsNow s).length ++
    leBytes 1 (if s.charts.inForce.isSome then spareClusters s else 0) ++
    leBytes 1 (((List.range 8).filter (fun p => (portAt s p).formed)).map (fun p => 2 ^ p)).sum ++ zeros 8 ++
    (List.range 16).flatMap (fun k => leBytes 2 ((pool k).elim 0 (poolReeds s))) ++
    (List.range 16).flatMap (fun k => leBytes 1 ((pool k).elim 0 (poolMaus s))))

/-- The report a CLASS and INDEX select for a port; `none` for an INDEX the class does not take. -/
def queryReport (s : State) (p : Fin 8) (cls idx : Nat) : Option Bytes :=
  match cls with
  | 0 => if idx = 0 then some (deviceReport s) else none
  | 1 => if idx = p.val then some (portReport s p) else none
  | 2 => (ownInst s p idx).map (fun x => instanceReport s idx x (extentsUnacked s idx))
  | 3 => s.charts.inForce.bind (fun ch => (ch.pools.find? (fun q => q.id = idx)).map (poolReport s ch))
  | 4 => (changeByLow s idx).map (fun e => changeReport s e.1 e.2)
  | _ => none

/-- QUERY: a report no longer than DATA_LEN, written at DATA_ADDR. -/
def query (p : Fin 8) (s : State) (c : Cmd) (_ : Bytes) : State :=
  match queryReport s p (byteAt c.params 0) (le c.params 2 2) with
  | none => admDone s p .inputInvalid [] 0
  | some r =>
    if !zeroAt c.params 1 1 || !zeroAt c.params 4 36 || c.dataLen < r.length then admDone s p .inputInvalid [] 0
    else admDone s p .ok r r.length

def execQuery (p : Fin 8) (s : State) : Host.Outcome State Fault Refusal := whenRunning s (admRun s p 5 (query p s))

/-- QUERY_INSTANCE: the class 2 report of the instance itself. -/
def queryInstance (i : Nat) (s : State) (c : Cmd) (_ : Bytes) : State := match tblGet s.insts i with
  | none => s
  | some x =>
    let r := instanceReport s i x (extentsUnacked s i)
    if !zeroAt c.params 0 40 || c.dataLen < r.length then ctlDone s i .inputInvalid [] 0 else ctlDone s i .ok r r.length

def execQueryInstance (i : Nat) (s : State) : Host.Outcome State Fault Refusal := whenRunning s (ctlRun s i 0x8A (queryInstance i s))

end Sys2Proof.Machine
end

