-- ==== Sys2Proof/Machine/Staging.lean ====
section
/-! DEFINITION. Carriers of requests: staged changes (R67, R68, R426), the windchest and custody mailboxes (R335, R401) and the responses
of MCTP (R426); the end of a request and of the APPROVE that made it act (R338). -/

namespace Sys2Proof.Machine

/-! ### Staged changes (R67, R68) -/

/-- The PF a change counts against; none for MCTP. -/
def carrierPort : Carrier → Option Nat
  | .port p | .wch p | .lcs p => some p.val
  | .mctp => none

/-- Staged changes of a PF, its mailboxes included (R338), or of the MCTP endpoint. -/
def stagedOf (s : State) (c : Carrier) : Nat :=
  (s.changes.live.filter (fun e => carrierPort e.2.carrier = carrierPort c && s.brt.count < e.2.expiry)).length

/-- The next CHANGE_ID whose low 16 bits no live change has. -/
def nextChangeId (live : Tbl Change) : Nat → Nat → Nat
  | 0, n => n
  | fuel + 1, n => if live.any (fun e => e.1 % 65536 = n % 65536) then nextChangeId live fuel (n + 1) else n

/-- Stage a change: its digest, a nonce of the DRBG and its expiry (R67, R68, R399); after a health failure no nonce can be drawn (R358). -/
def stageChange (s : State) (kind : ChangeKind) (c : Carrier) (data params : Bytes) : Except Status (Nat × State) :=
  if s.rng.alarm then .error .rngFailed
  else if 4 ≤ stagedOf s c then .error .reservationFailed
  else
    let id := nextChangeId s.changes.live (s.changes.live.length + 1) s.changes.next
    let (nonce, s1) := freshBytes 32 s
    let ch : Change := ⟨kind, c, sha3_256 data, nonce, s.brt.count + 2 ^ 28, none, [], data, params⟩
    .ok (id, { s1 with changes := ⟨tblPut s1.changes.live id ch, id + 1⟩ })

def dropChange (s : State) (id : Nat) : State := { s with changes := { s.changes with live := tblDel s.changes.live id } }

/-! ### Mailboxes (R335, R338) -/

/-- The mailbox a carrier names. -/
def boxAt (s : State) (c : Carrier) : Mailbox := match c with
  | .wch p => s.wchBox.getD p.val Mailbox.init
  | .lcs p => s.lcsBox.getD p.val Mailbox.init
  | .port _ | .mctp => Mailbox.init

def modBox (s : State) (c : Carrier) (f : Mailbox → Mailbox) : State := match c with
  | .wch p => { s with wchBox := listMod s.wchBox p.val f }
  | .lcs p => { s with lcsBox := listMod s.lcsBox p.val f }
  | .port _ | .mctp => s

/-- BUSY: a request is being read or run. -/
def boxBusy (b : Mailbox) : Bool := b.busy || b.ends ≠ []

/-- STAGED: the request of WCH_REQ_CHANGE awaits its approvals. -/
def boxStaged (s : State) (c : Carrier) : Bool := match tblGet s.changes.live (boxAt s c).change with
  | some x => x.carrier = c && s.brt.count < x.expiry
  | none => false

/-- The request's end shows in the status register. -/
def boxShow (s : State) (c : Carrier) (st : Status) : State := modBox s c (fun b => { b with done := true, status := statusCode st })

/-! ### APPROVE (R65, R68) -/

/-- Complete the APPROVE that made a change act. -/
def approveDone (s : State) (a : Carrier × Nat) (st : Status) (held : Nat) : State := match a.1 with
  | .port p => (match admFront s p.val with
    | some c => if c.opcode = 7 && c.started && le c.params 0 4 = a.2 then admDone s p st [] held else s
    | none => s)
  | .mctp => emit s (.mctp st (leBytes 1 held))
  | .wch _ | .lcs _ => s

/-- As `approveDone`, after the twin's acknowledgement of the record just queued (R412). -/
def approveMirrored (s : State) (a : Carrier × Nat) (held : Nat) : State := match a.1 with
  | .port p => (match admFront s p.val with
    | some c => if c.opcode = 7 && c.started && le c.params 0 4 = a.2 then admDoneMirrored s p held else s
    | none => s)
  | .mctp => emit s (.mctp .ok (leBytes 1 held))
  | .wch _ | .lcs _ => s

/-! ### The end of a request -/

/-- A request ends with a status and output: a mailbox writes it burst by burst from the next inhale on; MCTP answers. -/
def requestEnd (s : State) (c : Carrier) (addr : Nat) (st : Status) (out : Bytes) : State := match c with
  | .mctp => emit s (.mctp st out)
  | .port p => admDone s p st out 0
  | .wch _ | .lcs _ => modBox s c (fun b => { b with req := none, ends := b.ends ++ [⟨addr, out, st, none, nextInhale s⟩] })

/-- A request at the front of its mailbox ends. -/
def boxEnd (s : State) (c : Carrier) (st : Status) (out : Bytes) : State := requestEnd s c (boxAt s c).outAddr.toNat st out

/-- A staged request has acted: its output is written where it was to go, then the APPROVE completes. -/
def changeEnd (s : State) (c : Carrier) (addr : Nat) (a : Carrier × Nat) (held : Nat) (st : Status) (out : Bytes) : State := match c with
  | .wch _ | .lcs _ =>
    if out = [] then approveDone (boxShow s c st) a st held
    else modBox s c (fun b => { b with ends := b.ends ++ [⟨addr, out, st, some a, nextInhale s⟩] })
  | .mctp => approveDone (if out = [] then s else emit s (.mctp st out)) a st held
  | .port _ => approveDone s a st held

/-- An end whose last byte is written: the status shows, the APPROVE that waits completes. -/
def boxFinish (s : State) (c : Carrier) (e : BoxEnd) : State :=
  let s1 := boxShow (modBox s c (fun b => { b with ends := b.ends.drop 1, busy := b.busy && e.approver.isSome })) c e.status
  match e.approver with
  | some a => approveDone s1 a e.status 2
  | none => s1

/-- Inhale: a mailbox moves one burst of at most 4 KiB in a breath (R335); one that meets a page without access ends with DMA_FAULT. -/
def boxInhale (p : Fin 8) (s : State) (c : Carrier) : State :=
  let b := boxAt s c
  match b.ends with
  | [] => s
  | e :: rest =>
    if (portAt s p.val).pfD3hot || s.brt.count < e.due then s
    else match deniedPage s p.val 0 e.addr (min 4096 e.data.length) with
      | some page => boxFinish (dropDenied s p.val 0 page) c { e with status := .dmaFault }
      | none =>
        let s1 := if e.data = [] then s
          else modBox (emitAll s (dmaWrites s p.val e.addr (relaxedOrder s) (e.data.take 4096))) c (fun x => { x with
            ends := { e with addr := e.addr + 4096, data := e.data.drop 4096 } :: rest
            moved := some s.brt.count })
        if e.data.length ≤ 4096 then boxFinish s1 c e else s1

def boxesInhale (s : State) : State :=
  (List.finRange 8).foldl (fun t p => boxInhale p (boxInhale p t (.wch p)) (.lcs p)) s

/-! ### GO and WITHDRAW -/

/-- GO: the request will be read from the next inhale on; one with a length out of range ends. -/
def boxGo (s : State) (c : Carrier) (lo : Nat) : State :=
  let b := boxAt s c
  if boxBusy b then s
  else
    let s1 := modBox s c (fun b => { b with busy := true, done := false, status := 0, goBreath := s.brt.count, req := some [] })
    if b.reqLen < lo || 65536 < b.reqLen then boxEnd s1 c .inputInvalid [] else s1

/-- WITHDRAW drops the staged request, which completes with ABORTED (R338). -/
def boxWithdraw (s : State) (c : Carrier) : State :=
  if boxStaged s c then boxShow (dropChange s (boxAt s c).change) c .aborted else s

def execWchGo (p : Fin 8) (s : State) : Host.Outcome State Fault Refusal := pfWhen s p (boxGo s (.wch p) 64)
where
  pfWhen (s : State) (p : Fin 8) (t : State) : Host.Outcome State Fault Refusal := whenRunning s (if (portAt s p.val).formed then t else s)

def execWchWithdraw (p : Fin 8) (s : State) : Host.Outcome State Fault Refusal :=
  whenRunning s (if (portAt s p.val).formed then boxWithdraw s (.wch p) else s)
def execLcsGo (p : Fin 8) (s : State) : Host.Outcome State Fault Refusal :=
  whenRunning s (if (portAt s p.val).formed then boxGo s (.lcs p) 32 else s)
def execLcsWithdraw (p : Fin 8) (s : State) : Host.Outcome State Fault Refusal :=
  whenRunning s (if (portAt s p.val).formed then boxWithdraw s (.lcs p) else s)

/-- CHANGE_EXPIRE: 2^28 breaths after staging a change is dropped; a mailbox request completes with ABORTED. -/
def changeExpire (s : State) (id : Nat) : State := match tblGet s.changes.live id with
  | none => s
  | some x =>
    if s.brt.count < x.expiry then s
    else
      let s1 := dropChange s id
      if (boxAt s x.carrier).change = id then boxShow s1 x.carrier .aborted else s1

def execChangeExpire (id : Nat) (s : State) : Host.Outcome State Fault Refusal := whenRunning s (changeExpire s id)

/-! ### Reading the request -/

/-- The KIND is one the mailbox knows. -/
def boxKindOk (c : Carrier) (req : Bytes) : Bool :=
  let k := le req 0 2
  match c with
  | .wch _ => 1 ≤ k && k ≤ 6
  | .lcs _ => 1 ≤ k && k ≤ 10
  | .port _ | .mctp => false

/-- The port of a mailbox. -/
def boxPort : Carrier → Nat
  | .port p | .wch p | .lcs p => p.val
  | .mctp => 0

/-- The mailbox reads its next burst of at most 4 KiB: one a breath, from the inhale after GO. Answers what it has read and where it reads. -/
def boxReads (s : State) (c : Carrier) : Option (Bytes × Nat) :=
  let b := boxAt s c
  match b.req with
  | none => none
  | some got =>
    if s.brt.count ≤ b.goBreath || b.moved = some s.brt.count || b.reqLen ≤ got.length || (portAt s (boxPort c)).pfD3hot then none
    else some (got, b.reqAddr.toNat + got.length)

/-- A burst of a request arrives. A whole request of an unassigned KIND ends; a failed read ends it with DMA_FAULT. -/
def boxRead (s : State) (c : Carrier) (r : DmaResult) : State := match boxReads s c with
  | none => s
  | some (got, addr) =>
    let n := min 4096 ((boxAt s c).reqLen - got.length)
    match r with
    | .data bs =>
      if bs.length ≠ n then s
      else
        let whole := got ++ bs
        let s1 := modBox (emitAll s (dmaReads s (boxPort c) 0 addr n)) c (fun b => { b with req := some whole, moved := some s.brt.count })
        if whole.length = (boxAt s c).reqLen && !boxKindOk c whole then boxEnd s1 c .inputInvalid [] else s1
    | _ => boxEnd (emitAll s (dmaReads s (boxPort c) 0 addr n)) c .dmaFault []

/-- The whole request of a mailbox that waits to run, of a KIND. -/
def boxRequest (s : State) (c : Carrier) (kind : Nat) : Option Bytes :=
  let b := boxAt s c
  match b.req with
  | some q => if b.busy && q.length = b.reqLen && le q 0 2 = kind then some q else none
  | none => none

/-- A message over MCTP acts, in HALTED too (R50); in SCRAP the endpoint reports the state and nothing else (R388). -/
def mctpRun (s t : State) : Host.Outcome State Fault Refusal :=
  whenLive s (if lcNow s = lcScrap then emit s (.mctp .inputInvalid []) else t)

/-- A request over MCTP that draws randomness is held until the RNG is ready (R355). -/
def mctpDraw (s : State) (c : Src) (t : State) : State :=
  if s.rng.ready || s.rng.alarm then t else { s with rng := { s.rng with held := s.rng.held ++ [(c, s.brt.count)] } }

/-- A request draws a nonce or a signature's randomness: every custody kind that is staged, and ATTEST_SIGNED. -/
def srcDraws (c : Carrier) (kind : Nat) : Bool := match c with
  | .lcs _ => kind ≠ 10
  | .wch _ => kind = 4
  | .port _ | .mctp => false

/-- A request of a kind runs: the one that waits in its mailbox, or one that MCTP carries inline (R347, R426). -/
def srcRun (s : State) (c : Src) (box : Fin 8 → Carrier) (kind : Nat) (f : Carrier → Bytes → State) :
    Host.Outcome State Fault Refusal :=
  match c with
  | .port p => whenRunning s (match boxRequest s (box p) kind with
    | some q => f (box p) q
    | none => s)
  | .mctp _ d => mctpRun s (if le d 0 2 ≠ kind then s else if srcDraws (box 0) kind then mctpDraw s c (f .mctp d) else f .mctp d)

/-- The output buffer of a mailbox holds `n` bytes; MCTP's response always does. -/
def outHolds (s : State) (c : Carrier) (n : Nat) : Bool := match c with
  | .mctp => true
  | _ => n ≤ (boxAt s c).outLen

/-- The carrier's port is a GLOBAL one; MCTP has a GLOBAL port's rights. -/
def carrierGlobal (s : State) (c : Carrier) : Bool := match carrierPort c with
  | some p => (portAt s p).global
  | none => true

/-- Where a mailbox request's output goes, held with the staged change. -/
def boxOut (s : State) (c : Carrier) : Bytes := leBytes 8 (boxAt s c).outAddr.toNat ++ leBytes 4 (boxAt s c).outLen

/-- Stage a checked request of a mailbox or of MCTP (R338, R426). -/
def stageRequest (s : State) (c : Carrier) (kind : ChangeKind) (req : Bytes) : State :=
  match stageChange s kind c req (boxOut s c) with
  | .error st => boxEnd s c st []
  | .ok (id, s1) => match c with
    | .mctp => emit s1 (.mctp .ok (leBytes 4 id))
    | _ => modBox s1 c (fun b => { b with busy := false, req := none, change := id })

end Sys2Proof.Machine
end

