-- ==== Sys2Proof/Machine/Attest.lean ====
section
/-! DEFINITION. Requests of the windchest mailbox (R336 to R347): escrow, clear grants, attestation; DMA_READ_COMPLETE hands mailbox
requests their bytes (R84, R335). -/

namespace Sys2Proof.Machine

/-! ### Checks of a request (R336, R337) -/

/-- The header's reserved bytes are zero. -/
def wchHeaderOk (q : Bytes) : Bool := 64 ≤ q.length && zeroAt q 5 3 && zeroAt q 10 6 && zeroAt q 48 16

/-- INSTANCE names a live instance of the mailbox's port. -/
def wchInst (s : State) (c : Carrier) (q : Bytes) : Bool := match tblGet s.insts (le q 2 2) with
  | some x => carrierPort c = some x.port.val
  | none => false

/-- Kinds 1 to 3: header, instance, GLOBAL, mode. -/
def wchStaged (s : State) (c : Carrier) (q : Bytes) : Option Status :=
  if !(wchHeaderOk q && wchInst s c q) then some .inputInvalid
  else if !carrierGlobal s c then some .keyPolicy
  else if !(s.dev.mode = .service || s.dev.mode = .migrate || s.dev.mode = .recover) then some .inputInvalid else none

/-- Kinds 4 to 6: header, instance or 0, length, mode. -/
def wchOpen (s : State) (c : Carrier) (q : Bytes) (n : Nat) : Bool :=
  wchHeaderOk q && (le q 2 2 = 0 || wchInst s c q) && q.length = n && s.dev.mode ≠ .boot && s.dev.mode ≠ .halted

/-- Orders 1 to 4 of R333 for the request's INSTANCE. -/
def ownedBlob (s : State) (inst : Nat) (b : Bytes) : Except Status (BlobHdr × Bytes) := match blobCheck s b with
  | .error st => .error st
  | .ok (h, key) => if !materialOk h.alg key then .error .inputInvalid else if h.owner ≠ inst then .error .keyPolicy else .ok (h, key)

/-! ### Escrow (R341, R342) -/

/-- Length of an escrow package for N officers and a key. -/
def escrowLen (n keyLen : Nat) : Nat := 64 + n * (8 + envelopeLen (40 + keyLen))

/-- The officers an escrow names. -/
def escrowOfficers (q : Bytes) : List Nat := maskOfficers (le q 8 2)

/-- The KEM key of an enrolled officer. -/
def officerKem (s : State) (i : Nat) : Option Bytes := (tblGet s.dom.officers i).bind officerKemKey

/-- The rules of R341. -/
def escrowCheck (s : State) (q : Bytes) : Except Status (BlobHdr × Bytes) := match ownedBlob s (le q 2 2) (q.drop 64) with
  | .error st => .error st
  | .ok (h, key) =>
    let n := (escrowOfficers q).length
    if h.kind = 0 && h.keyLen ≤ 64 && 2 ≤ byteAt q 4 && byteAt q 4 ≤ n && (escrowOfficers q).all (fun i => (officerKem s i).isSome) then
      .ok (h, key)
    else .error .inputInvalid

def escrowExport (s : State) (c : Carrier) (q : Bytes) : State := match wchStaged s c q with
  | some st => boxEnd s c st []
  | none => match escrowCheck s q with
    | .error st => boxEnd s c st []
    | .ok (h, _) =>
      if !outHolds s c (escrowLen (escrowOfficers q).length h.keyLen) then boxEnd s c .inputInvalid []
      else stageRequest s c .escrowExport q

def execEscrowExport (p : Fin 8) (s : State) : Host.Outcome State Fault Refusal := srcRun s (.port p) .wch 1 (escrowExport s)

/-- One share record for the officer at coordinate `x`, with the randomness of its envelope; `none` where the encapsulation fails. -/
def escrowRecord (s : State) (k : Nat) (eid : Bytes) (h : BlobHdr) (key : Bytes) (coeffs : List Bytes) (x officer : Nat) (m e : Bytes) :
    Option Bytes :=
  let xb := BitVec.ofNat 8 x
  (makeEnvelope ((officerKem s officer).getD []) m e (sharePayload eid xb k h (shamirShare xb key coeffs))).map (shareRecord xb officer)

/-- The randomness of `n` envelopes. -/
def escrowDraws : Nat → State → List (Bytes × Bytes) × State
  | 0, s => ([], s)
  | n + 1, s =>
    let m := freshBytes 32 s
    let e := freshBytes 56 m.2
    let rest := escrowDraws n e.2
    ((m.1, e.1) :: rest.1, rest.2)

/-- The records for the officers in ascending order, x from 1. -/
def escrowRecords (s : State) (k : Nat) (eid : Bytes) (h : BlobHdr) (key : Bytes) (coeffs : List Bytes) :
    Nat → List (Nat × Bytes × Bytes) → Option Bytes
  | _, [] => some []
  | x, (i, m, e) :: is =>
    (escrowRecord s k eid h key coeffs x i m e).bind (fun a => (escrowRecords s k eid h key coeffs (x + 1) is).map (fun b => a ++ b))

/-- The package of an escrow export. -/
def escrowPackage (s : State) (q : Bytes) (h : BlobHdr) (key : Bytes) : Option Bytes × State :=
  let k := byteAt q 4
  let eid := freshBytes 16 s
  let draw := freshBytes (key.length * (k - 1)) eid.2
  let envs := escrowDraws (escrowOfficers q).length draw.2
  let recs := escrowRecords s k eid.1 h key (chunks (k - 1) draw.1) 1 ((escrowOfficers q).zip envs.1)
  (recs.map (fun r => escrowHeader k (escrowOfficers q).length eid.1 s.dom.id h ++ r), envs.2)

/-- The export has its approvals. -/
def applyEscrowExport (s : State) (q : Bytes) : Status × Bytes × State :=
  if !((tblGet s.insts (le q 2 2)).isSome) then (.inputInvalid, [], s)
  else match escrowCheck s q with
    | .error st => (st, [], s)
    | .ok (h, key) =>
      if s.rng.alarm then (.rngFailed, [], s)
      else
        let x := escrowPackage s q h key
        (if x.1.isSome then .ok else .inputInvalid, x.1.getD [], x.2)

/-- The parts of an import: the package header (at byte 64) and its records. -/
def importRecords (q : Bytes) : Option (List (Byte × Nat × Bytes)) := shareRecords 17 (q.drop 128)

/-- The structure of R342: counts, distinct coordinates, the recipient of every envelope. -/
def importOk (s : State) (q : Bytes) : Bool :=
  let hd := slice q 64 64
  let k := byteAt hd 5
  let n := byteAt hd 6
  128 ≤ q.length && le hd 0 4 = 0x52435345 && byteAt hd 4 = 1 && zeroAt hd 7 1 && zeroAt hd 54 10 && 2 ≤ k && k ≤ n && n ≤ 16 &&
    1 ≤ byteAt hd 53 && byteAt hd 53 ≤ 64 && le hd 50 2 < 2 ^ 12 && byteAt hd 52 < 8 &&
    (match importRecords q with
      | none => false
      | some rs => k ≤ rs.length && rs.length ≤ n && (rs.map (·.1)).Nodup &&
        rs.all (fun r => 1 ≤ r.1.toNat && r.1.toNat ≤ 16 && r.2.1 < 16 && envelopeFormOk r.2.2 &&
          slice r.2.2 8 32 = recipientId (transportPublic s)))

def escrowImport (s : State) (c : Carrier) (q : Bytes) : State := match wchStaged s c q with
  | some st => boxEnd s c st []
  | none =>
    if !importOk s q then boxEnd s c .inputInvalid []
    else if !canWriteBlob s then boxEnd s c .keyPolicy []
    else if !outHolds s c (blobLen (byteAt q 117)) then boxEnd s c .inputInvalid []
    else stageRequest s c .escrowImport q

def execEscrowImport (p : Fin 8) (s : State) : Host.Outcome State Fault Refusal := srcRun s (.port p) .wch 2 (escrowImport s)

/-- Open share records in order; answers the coordinates with their share bytes. -/
def openShares (s : State) (hd : Bytes) : List (Byte × Nat × Bytes) → Except Status (List (Byte × Bytes))
  | [] => .ok []
  | r :: rest => match openEnvelope (transportSeed s) (transportScalar s) (transportPublic s) r.2.2 with
    | .wrongForm | .badTag => .error .tagMismatch
    | .payload b =>
      let want := slice hd 8 16 ++ [r.1] ++ slice hd 5 1 ++ slice hd 48 4 ++ slice hd 52 1 ++ slice hd 53 1 ++ slice hd 32 16
      if b.take 40 ≠ want || b.length ≠ 40 + byteAt hd 53 then .error .inputInvalid
      else match openShares s hd rest with
        | .error st => .error st
        | .ok l => .ok ((r.1, b.drop 40) :: l)

/-- The import has its approvals: K envelopes are opened and the key rebuilt. -/
def applyEscrowImport (s : State) (q : Bytes) : Status × Bytes × State :=
  let hd := slice q 64 64
  if !((tblGet s.insts (le q 2 2)).isSome) then (.inputInvalid, [], s)
  else if !canWriteBlob s then (.keyPolicy, [], s)
  else match openShares s hd (((importRecords q).getD []).take (byteAt hd 5)) with
    | .error st => (st, [], s)
    | .ok shares =>
      let key := shamirCombine (byteAt hd 53) shares
      if keyFpr key ≠ slice hd 32 16 then (.tagMismatch, [], s)
      else
        let pol := byteAt hd 52
        (.ok, domainBlob s (newBlobHdr s (le hd 48 2) (le hd 50 2) (pol - pol % 2) 0 (le q 2 2) key) key, s)

/-! ### GRANT_CLEAR (R343) -/

def grantCheck (s : State) (q : Bytes) : Except Status (BlobHdr × Bytes) := match ownedBlob s (le q 2 2) (q.drop 64) with
  | .error st => .error st
  | .ok (h, key) => if h.kind ≠ 0 then .error .inputInvalid else if !canWriteBlob s then .error .keyPolicy else .ok (h, key)

def grantClear (s : State) (c : Carrier) (q : Bytes) : State := match wchStaged s c q with
  | some st => boxEnd s c st []
  | none => match grantCheck s q with
    | .error st => boxEnd s c st []
    | .ok _ =>
      if !outHolds s c (q.length - 64) then boxEnd s c .inputInvalid [] else stageRequest s c .grantClear q

def execGrantClear (p : Fin 8) (s : State) : Host.Outcome State Fault Refusal := srcRun s (.port p) .wch 3 (grantClear s)

/-- The grant has its approvals: the same key in a blob under the newest generation (R407) with EXPORTABLE_CLEAR set. -/
def applyGrantClear (s : State) (q : Bytes) : Status × Bytes × State :=
  if !((tblGet s.insts (le q 2 2)).isSome) then (.inputInvalid, [], s)
  else match grantCheck s q with
    | .error st => (st, [], s)
    | .ok (h, key) => (.ok, domainBlob s { h with policy := h.policy ||| 1, gen := ((newestGen s).getD (0, [])).1 } key, s)

/-! ### Attestation (R344 to R347) -/

/-- The firmware slot that runs: the trial's, else the active one. -/
def runningSlot (s : State) : Nat := if s.mgc.fwTrial then 1 - s.mgc.fwActive else s.mgc.fwActive

/-- CHART_DIGEST: over the change digests of the chart in force and its deltas; zero without one. -/
def chartDigest (s : State) : Bytes :=
  if s.charts.inForce.isNone then zeros 32
  else sha3_256 ((s.charts.full.toList ++ s.charts.deltas).flatMap (fun x => slice x.msg 32 32))

/-- The measurement record. -/
def measurement (s : State) : Bytes :=
  sha3_384 (s.mgc.fwSlots.getD (runningSlot s) []) ++ chartDigest s ++ leBytes 4 (s.charts.inForce.elim 0 Chart.generation) ++
    leBytes 1 s.lcs.rollback ++ leBytes 1 (runningSlot s) ++ zeros 2 ++ leBytes 4 (devIdent s) ++ zeros 4

/-- The attestation report (R345). -/
def attestReport (s : State) (nonce : Bytes) : Bytes :=
  leBytes 4 0x52545441 ++ [1] ++ leBytes 1 (lcNow s) ++ leBytes 1 (modeCode s.dev.mode) ++
    leBytes 1 (flag s.wch.rootValid + 2 * flag s.wch.rootNew + 4 * flag (s.wch.tamper ≠ 0)) ++ leBytes 4 (memberNumber s) ++ zeros 4 ++
    leBytes 8 s.dom.id ++ leBytes 8 s.brt.count ++ nonce ++ measurement s ++ recipientId (transportPublic s)

/-- The signing job of an attestation: routine 0x0234 in the lowest pool that serves it, of no instance. -/
def attestJob (s : State) (e : Nat) (report : Bytes) : Option Job :=
  let ctx := ascii "SYN1 attest report"
  let j0 := { newJob attestInst 0 0 0 .pk (internalEntry 0x0203 opSign noSlot ctx.length report.length) s.brt.count with
    input := ctx ++ report
    internal := some (forAttest, e) }
  match (poolsNow s).find? (fun p => p.routines.contains 0x0234), routineSec s 0x0234 with
  | some p, some r => some { j0 with
      stage := .pending
      rid := 0x0234
      pool := p.id
      cls := routineClass r
      budget := routineBudget s r
      pages := r.jobPages
      space := storeWrite [] 0 j0.input }
  | _, _ => none

/-- The carrier's number in its attestation job. -/
def attestCarrier (c : Carrier) : Nat := (carrierPort c).getD 8
def attestBack (e : Nat) : Carrier := if h : e < 8 then .wch ⟨e, h⟩ else .mctp

def attestSigned (s : State) (c : Carrier) (q : Bytes) : State :=
  if !(wchOpen s c q 64 && outHolds s c 6443) then boxEnd s c .inputInvalid []
  else match attestJob s (attestCarrier c) (attestReport s (slice q 16 32)) with
    | none => boxEnd s c .inputInvalid []
    | some j => modBox (addJob s j).2 c (fun b => { b with req := none })

def execAttestSigned (c : Src) (s : State) : Host.Outcome State Fault Refusal := srcRun s c .wch 4 (attestSigned s)

/-- The signature is made: report, signature, transport public key. -/
def attestDone (s : State) (e : Nat) (st : Status) (input sig : Bytes) : State :=
  let good : Bool := st = .ok || st = .okReplayed
  boxEnd s (attestBack e) (if good then .ok else st) (if good then input.drop 18 ++ sig ++ transportPublic s else [])

/-- The 144 bytes of a member response that its MAC covers, and the MAC under an attestation secret. -/
def memberHead (s : State) (nonce : Bytes) : Bytes :=
  nonce ++ leBytes 4 (memberNumber s) ++ leBytes 1 (lcNow s) ++ leBytes 1 (modeCode s.dev.mode) ++ zeros 2 ++ leBytes 8 s.dom.id ++
    measurement s
def memberMac (secret head : Bytes) : Bytes := hmacSha3_384 secret (ascii "SYN1 member attest" ++ head)

def attestShared (s : State) (c : Carrier) (q : Bytes) : State :=
  if !(wchOpen s c q 64 && outHolds s c 192) then boxEnd s c .inputInvalid []
  else if !domainUsable s then boxEnd s c .keyPolicy []
  else
    let head := memberHead s (slice q 16 32)
    boxEnd s c .ok (head ++ memberMac s.dom.attest head)

def execAttestShared (c : Src) (s : State) : Host.Outcome State Fault Refusal := srcRun s c .wch 5 (attestShared s)

def attestCheck (s : State) (c : Carrier) (q : Bytes) : State :=
  let r := q.drop 64
  if !wchOpen s c q 256 then boxEnd s c .inputInvalid []
  else if !domainUsable s then boxEnd s c .keyPolicy []
  else boxEnd s c (if le r 40 8 = s.dom.id && r.drop 144 = memberMac s.dom.attest (r.take 144) then .ok else .signatureInvalid) []

def execAttestCheck (c : Src) (s : State) : Host.Outcome State Fault Refusal := srcRun s c .wch 6 (attestCheck s)

end Sys2Proof.Machine
end

