-- ==== Sys2Proof/Machine/Custody.lean ====
section
/-! DEFINITION. Life cycle, officers and the custody domain (R388 to R408): the requests of the custody mailbox and of admin commands,
staged, and what each does once approved; the debug port's life-cycle commands. -/

namespace Sys2Proof.Machine

/-! ### Custody requests (R401) -/

/-- A header with its reserved bytes zero and `n` bytes of data, zeros past them. -/
def lcsForm (q : Bytes) (n : Nat) : Bool := 32 + n ≤ q.length && zeroAt q 4 28 && allZero (q.drop (32 + n))

/-- A header and data of exactly `n` bytes or more, by the kind. -/
def lcsHeader (q : Bytes) : Bool := 32 ≤ q.length && zeroAt q 4 28

/-- Form, GLOBAL, mode, in that order. -/
def lcsRefused (s : State) (c : Carrier) (form mode : Bool) : Option Status :=
  if !form then some .inputInvalid else if !carrierGlobal s c then some .keyPolicy else if !mode then some .inputInvalid else none

/-- SERVICE, MIGRATE, RECOVER. -/
def modeServing (s : State) : Bool := s.dev.mode = .service || s.dev.mode = .migrate || s.dev.mode = .recover
/-- Every mode except BOOT and HALTED. -/
def modeUp (s : State) : Bool := s.dev.mode ≠ .boot && s.dev.mode ≠ .halted

/-- Run a custody request of a kind. -/
def lcsRun (s : State) (c : Src) (kind : Nat) (f : Carrier → Bytes → State) : Host.Outcome State Fault Refusal :=
  srcRun s c .lcs kind f

/-- Stage a request when nothing refuses it. -/
def lcsStage (s : State) (c : Carrier) (kind : ChangeKind) (q : Bytes) (refused : Option Status) : State := match refused with
  | some st => boxEnd s c st []
  | none => stageRequest s c kind q

/-! ### Life-cycle transitions (R391 to R396) -/

/-- TARGET's bit and the STATE code of a target state, by its life-cycle code (R393). -/
def lcTargetBit (code : Nat) : Nat := [1, 0, 2, 3, 4, 5].getD code 0
def lcStateWord (code : Nat) : BitVec 64 :=
  ([0xF0F0F0F0F0F0F0F0, 0x0F0F0F0F0F0F0F0F, 0x33333333CCCCCCCC, 0x55555555AAAAAAAA, 0x6969696996969696, 0xA5A5A5A55A5A5A5A] :
    List (BitVec 64)).getD code 0
def lcAllOnes : BitVec 64 := 0xFFFFFFFFFFFFFFFF

/-- The lowest free record for a target: record 31 is kept for SCRAP (R394). -/
def lcFreeRecord (s : State) (target : Nat) : Option Nat :=
  (List.range (if target = lcScrap then 32 else 31)).find? (fun i => (s.lcs.records.getD i ⟨0, 0, 0⟩).target = 0)

/-- Program a transition's record: it takes effect at the next reset (R392). -/
def lcWrite (s : State) (i target : Nat) : State :=
  logEvent { s with lcs := { s.lcs with
    records := listSet s.lcs.records i ⟨BitVec.ofNat 64 (2 ^ lcTargetBit target), lcStateWord target, lcAllOnes⟩
    pendingTarget := target } } 0x0303 (leBytes 1 i ++ leBytes 1 target)

/-- The transitions two officers may make (R391). -/
def lcByOfficers (from_ target : Nat) : Bool :=
  (from_ = lcProvisioned && (target = lcCustody || target = lcReturn || target = lcScrap)) ||
    (from_ = lcCustody && (target = lcReturn || target = lcScrap))

/-- A transition by officers is allowed now; a record must be free for it. -/
def lcAllowed (s : State) (target : Nat) : Option Status :=
  if !lcByOfficers (lcNow s) target || s.lcs.pendingTarget ≠ 7 then some .inputInvalid
  else if (lcFreeRecord s target).isNone then some .reservationFailed else none

/-- RETURN and SCRAP may be asked for on any port (R401). -/
def lcTransition (s : State) (c : Carrier) (q : Bytes) : State :=
  let target := byteAt q 32
  let any : Bool := target = lcReturn || target = lcScrap
  lcsStage s c .lcTransition q
    (if !lcsForm q 1 then some .inputInvalid
     else if !carrierGlobal s c && !any then some .keyPolicy
     else if !modeUp s then some .inputInvalid else lcAllowed s target)

def execLcTransition (c : Src) (s : State) : Host.Outcome State Fault Refusal := lcsRun s c 1 (lcTransition s)

def applyLcTransition (s : State) (q : Bytes) : Status × Bytes × State :=
  match lcAllowed s (byteAt q 32), lcFreeRecord s (byteAt q 32) with
  | none, some i => (.ok, [], lcWrite s i (byteAt q 32))
  | some st, _ => (st, [], s)
  | none, none => (.reservationFailed, [], s)

/-! ### Over JTAG (R390, R391, R396) -/

/-- TEST_UNLOCK: in RAW, the right token for the lowest unused entry, once per reset. A wrong token consumes nothing. -/
def jtagTestUnlock (s : State) (token : Bytes) : State :=
  if s.dev.mode ≠ .boot || lcNow s ≠ lcRaw || s.lcs.tokenTried then s
  else
    let s1 := { s with lcs := { s.lcs with tokenTried := true } }
    match (List.range 7).find? (fun j => !bitOf s.lcs.tokenUsed j), lcFreeRecord s lcTestUnlocked with
    | some j, some i =>
      if token.length ≠ 16 || s.lcs.pendingTarget ≠ 7 || sha3_256 token ≠ s.lcs.tokenHash.getD j [] then s1
      else lcWrite { s1 with lcs := { s1.lcs with tokenUsed := s1.lcs.tokenUsed ||| 2 ^ j } } i lcTestUnlocked
    | _, _ => s1

def execJtagTestUnlock (token : Bytes) (s : State) : Host.Outcome State Fault Refusal := whenRunning s (jtagTestUnlock s token)

/-- The relock of TEST_UNLOCKED to RAW needs no authority. -/
def jtagRelock (s : State) : State :=
  if s.dev.mode ≠ .boot || lcNow s ≠ lcTestUnlocked || s.lcs.pendingTarget ≠ 7 then s
  else match lcFreeRecord s lcRaw with
    | some i => lcWrite s i lcRaw
    | none => s

def execJtagRelock (s : State) : Host.Outcome State Fault Refusal := whenRunning s (jtagRelock s)

/-- The transitions a Renotte authorisation may make (R391). -/
def lcByRenotte (from_ target : Nat) : Bool :=
  (from_ = lcRaw && target = lcProvisioned) || (from_ = lcProvisioned && target = lcReturn) ||
    ((from_ = lcRaw || from_ = lcTestUnlocked || from_ = lcReturn) && target = lcScrap)

/-- Programming of the DIS and the device serial before PROVISIONED. -/
def provisionIdentity (s : State) : State :=
  let (dis, s1) := freshBytes 32 s
  let (serial, s2) := freshWord 64 s1
  { s2 with lcs := { s2.lcs with dis := dis, serial := serial } }

/-- A Renotte authorisation (R390): both signatures over the approval message of the change, with a nonce the device drew for it. `target` is
a life-cycle code, or 6 for invasive debug of this boot, allowed in PROVISIONED and RETURN (R388). The DIS of PROVISIONED comes from the
DRBG (R321), so that transition waits for a ready one. -/
def jtagAuthorise (s : State) (target : Nat) (sig : Bytes) : State :=
  let debug : Bool := target = 6
  let allowed : Bool :=
    if debug then lcNow s = lcProvisioned || lcNow s = lcReturn
    else lcByRenotte (lcNow s) target && s.lcs.pendingTarget = 7 && (target ≠ lcProvisioned || (s.rng.ready && !s.rng.alarm))
  if !allowed then s
  else
    let (nonce, s1) := freshBytes 32 s
    let msg := leBytes 4 0x56525041 ++ [1] ++ leBytes 1 (if debug then 15 else 8) ++ zeros 2 ++ leBytes 4 s.changes.next ++ zeros 4 ++
      leBytes 8 s.dom.id ++ leBytes 8 (s.brt.count + 2 ^ 28) ++ sha3_256 (leBytes 1 target) ++ nonce
    if !(Config.renotteMldsa 2 msg (sig.take 4627) && Config.renotteEcdsa 2 msg (sig.drop 4627)) then s1
    else if debug then { s1 with lcs := { s1.lcs with invasive := true } }
    else match lcFreeRecord s1 target with
      | none => s1
      | some i => lcWrite (if target = lcProvisioned then provisionIdentity s1 else s1) i target

def execJtagRenotteAuthorisation (target : Nat) (sig : Bytes) (s : State) : Host.Outcome State Fault Refusal :=
  whenRunning s (jtagAuthorise s target sig)

/-! ### The domain record (R402) -/

def modDom (s : State) (f : Domain → Domain) : State := { s with dom := { f s.dom with seq := s.dom.seq + 1 } }

/-- Insert a generation, keeping the one held. -/
def addGen (t : Tbl Bytes) (e : Nat × Bytes) : Tbl Bytes := if tblHas t e.1 then t else tblPut t e.1 e.2

/-- The officer records in index order, their mask and their digest. -/
def officerBytes (s : State) : Bytes := s.dom.officers.flatMap (·.2)
def officerMask (s : State) : Nat := (s.dom.officers.map (fun e => 2 ^ e.1)).sum
def officerDigest (s : State) : Bytes := sha3_256 (officerBytes s)

/-- A DOMAIN record with the officer set and the generations (R411). -/
def domainBody (s : State) : Bytes :=
  [2] ++ zeros 1 ++ leBytes 2 (officerMask s) ++ leBytes 2 s.dom.gens.length ++ zeros 2 ++ officerBytes s ++
    s.dom.gens.flatMap (fun g => leBytes 4 g.1 ++ g.2)

def mirrorDomain (s : State) : State := mirror s recDomain (domainBody s)

/-- The device has a new member number: serials start at what its journal holds for it (R250). -/
def newMember (s : State) : State :=
  let s1 := serialsAtBoot s
  modBore s1 (fun b => { b with serials := { b.serials with blocked := false } })

/-- Drop every change that waits for approvals: the officer set has changed (R400). -/
def dropChanges (s : State) : State :=
  s.changes.live.foldl (fun t e =>
    let t1 := dropChange t e.1
    if (boxAt t e.2.carrier).change = e.1 then boxShow t1 e.2.carrier .aborted else t1) s

/-! ### Officers (R397) -/

/-- ENROLL_OFFICER of a record, or a removal, is allowed now. -/
def enrolOk (s : State) (i : Nat) (d : Bytes) : Option Status :=
  if d = [] then
    (if !tblHas s.dom.officers i then some .inputInvalid
     else if lcNow s = lcCustody && s.dom.officers.length ≤ 2 then some .reservationFailed else none)
  else if !officerRecordOk d || tblHas s.dom.officers i then some .inputInvalid else none

def enrollOfficer (p : Fin 8) (s : State) (c : Cmd) (d : Bytes) : State :=
  if 16 ≤ byteAt c.params 0 || !zeroAt c.params 1 39 then admDone s p .inputInvalid [] 0
  else match enrolOk s (byteAt c.params 0) d with
    | some st => admDone s p st [] 0
    | none => match stageChange s .officer (.port p) d (leBytes 1 (byteAt c.params 0)) with
      | .error st => admDone s p st [] 0
      | .ok (id, s1) => admDone s1 p .ok [] id

def execEnrollOfficer (p : Fin 8) (s : State) : Host.Outcome State Fault Refusal := whenRunning s (admRun s p 9 (enrollOfficer p s))

def applyOfficer (s : State) (i : Nat) (d : Bytes) : Status × Bytes × State := match enrolOk s i d with
  | some st => (st, [], s)
  | none =>
    let s1 := modDom s (fun m => { m with officers := if d = [] then tblDel m.officers i else tblPut m.officers i d })
    (.ok, [], mirrorDomain (dropChanges s1))

/-! ### Domain transfer packages (R403 to R405) -/

/-- A package in its parts. -/
structure Package where
  admitted : Bool
  domainId : Nat
  member : Nat
  digest : Bytes
  officers : List (Nat × Bytes)
  envelope : Bytes
  deriving DecidableEq, Repr

/-- Read a package: form, officer records and their digest. -/
def packageOf (b : Bytes) : Option Package :=
  let kind := byteAt b 5
  let mask := le b 20 2
  if !(64 ≤ b.length && le b 0 4 = 0x52465844 && byteAt b 4 = 1 && (kind = 1 || kind = 2) && zeroAt b 6 2 && zeroAt b 22 2 &&
      zeroAt b 28 4 && le b 8 8 ≠ 0 && le b 16 4 < 2 ^ 18 && le b 24 4 < 2 ^ 18) then none
  else (splitOfficers (maskOfficers mask) (b.drop 64)).bind (fun r =>
    let digestOk : Bool := if kind = 1 then slice b 32 32 = sha3_256 (r.1.flatMap (·.2))
      else mask = 0 && le b 16 4 = 0 && zeroAt b 32 32
    if digestOk && envelopeFormOk r.2 then some ⟨kind = 1, le b 8 8, le b 16 4, slice b 32 32, r.1, r.2⟩ else none)

/-- Generation entries that fill a string. -/
def genEntries (b : Bytes) : List (Nat × Bytes) := (chunks 36 b).map (fun e => (le e 0 4, e.drop 4))

/-- The payload agrees with the clear fields: answers the attestation secret and the generations. -/
def payloadOf (p : Package) (b : Bytes) : Option (Bytes × List (Nat × Bytes)) :=
  let n := le b 12 2
  if 96 ≤ b.length && le b 0 8 = p.domainId && le b 8 4 = p.member && zeroAt b 14 2 && slice b 16 32 = p.digest && 1 ≤ n &&
      n ≤ (if p.admitted then 64 else 1) && b.length = 96 + 36 * n && (p.admitted || zeroAt b 48 48) then
    some (slice b 48 48, genEntries (b.drop 96))
  else none

def importDomain (p : Fin 8) (s : State) (c : Cmd) (d : Bytes) : State :=
  match packageOf d with
  | none => admDone s p .inputInvalid [] 0
  | some k =>
    if !zeroAt c.params 0 40 || slice k.envelope 8 32 ≠ recipientId (transportPublic s) then admDone s p .inputInvalid [] 0
    else match stageChange s .importDomain (.port p) d [] with
      | .error st => admDone s p st [] 0
      | .ok (id, s1) => admDone s1 p .ok [] id

def execImportDomain (p : Fin 8) (s : State) : Host.Outcome State Fault Refusal := whenRunning s (admRun s p 8 (importDomain p s))

/-- The cases of R404. -/
def takePackage (s : State) (k : Package) (attest : Bytes) (gens : List (Nat × Bytes)) : Status × Bytes × State :=
  if k.admitted && !holdsDomain s then
    let s1 := modDom s (fun m => { m with
      id := k.domainId
      member := some k.member
      officers := k.officers
      gens := gens.foldl addGen []
      attest := attest })
    (.ok, [], mirrorDomain (newMember (dropChanges s1)))
  else if k.admitted && s.dom.id = k.domainId && s.dom.member = some k.member then
    let union := gens.foldl addGen s.dom.gens
    if 64 < union.length then (.reservationFailed, [], s)
    else
      let s1 := modDom s (fun m => { m with officers := k.officers, gens := union })
      (.ok, [], mirrorDomain (if k.officers = s.dom.officers then s1 else dropChanges s1))
  else if !k.admitted then
    (if 4 ≤ s.dom.successors.length then (.reservationFailed, [], s)
     else (.ok, [], modDom s (fun m => { m with
       successors := m.successors ++ [(k.domainId, (gens.headD (0, [])).1, (gens.headD (0, [])).2)] })))
  else (.keyPolicy, [], s)

/-- Open a package addressed to this device and take it. -/
def openPackage (s : State) (d : Bytes) : Status × Bytes × State := match packageOf d with
  | none => (.inputInvalid, [], s)
  | some k => match openEnvelope (transportSeed s) (transportScalar s) (transportPublic s) k.envelope with
    | .wrongForm => (.inputInvalid, [], s)
    | .badTag => (.tagMismatch, [], s)
    | .payload b => match payloadOf k b with
      | none => (.inputInvalid, [], s)
      | some (attest, gens) => takePackage s k attest gens

/-- DOMAIN_FOUND's parameters, and that no domain is held. -/
def foundOk (s : State) (q : Bytes) : Bool := lcsForm q 12 && le q 32 8 ≠ 0 && le q 40 4 < 2 ^ 18 && !holdsDomain s

def domainFound (s : State) (c : Carrier) (q : Bytes) : State :=
  lcsStage s c .domainFound q (lcsRefused s c (foundOk s q) (s.dev.mode = .service || s.dev.mode = .tune))

def execDomainFound (c : Src) (s : State) : Host.Outcome State Fault Refusal := lcsRun s c 2 (domainFound s)

def applyDomainFound (s : State) (q : Bytes) : Status × Bytes × State :=
  if !foundOk s q then (.inputInvalid, [], s)
  else if s.rng.alarm then (.rngFailed, [], s)
  else
    let (key, s1) := freshBytes 32 s
    let (attest, s2) := freshBytes 48 s1
    (.ok, [], newMember (modDom s2 (fun m => { m with
      id := le q 32 8
      member := some (le q 40 4)
      gens := [(1, key)]
      attest := attest })))

/-- An ATTEST_SIGNED output: its report's form, and its transport key (R405). -/
def recipientOk (a : Bytes) : Bool :=
  a.length = 6443 && le a 0 4 = 0x52545441 && byteAt a 4 = 1 && (byteAt a 5 = lcProvisioned || byteAt a 5 = lcCustody) &&
    bitOf (byteAt a 7) 0 && slice a 160 32 = recipientId (a.drop 4819)

/-- A package for a recipient; `none` where the encapsulation fails. -/
def packageFor (s : State) (admitted : Bool) (member : Nat) (pk : Bytes) : Option Bytes × State :=
  let (m, s1) := freshBytes 32 s
  let (e, s2) := freshBytes 56 s1
  let digest := if admitted then officerDigest s else zeros 32
  let gens := if admitted then s.dom.gens else s.dom.gens.getLast?.toList
  let payload := packagePayload s.dom.id member digest (if admitted then s.dom.attest else zeros 48) gens
  ((makeEnvelope pk m e payload).map (fun env =>
    packageHeader (if admitted then 1 else 2) s.dom.id member (if admitted then officerMask s else 0) (memberNumber s) digest ++
      (if admitted then officerBytes s else []) ++ env), s2)

/-- The length of such a package. -/
def packageLen (s : State) (admitted : Bool) : Nat :=
  64 + (if admitted then (officerBytes s).length else 0) + envelopeLen (96 + 36 * (if admitted then s.dom.gens.length else 1))

/-- Make a package at approval. -/
def exportPackage (s : State) (admitted : Bool) (member : Nat) (a : Bytes) : Status × Bytes × State :=
  if !recipientOk a then (.inputInvalid, [], s)
  else if !domainUsable s then (.keyPolicy, [], s)
  else if s.rng.alarm then (.rngFailed, [], s)
  else match packageFor s admitted member (a.drop 4819) with
    | (some p, s1) => (.ok, p, s1)
    | (none, s1) => (.inputInvalid, [], s1)

/-- Checks of DOMAIN_ADMIT and SUCCESSOR_EXPORT at staging. -/
def exportRefused (s : State) (c : Carrier) (form admitted : Bool) : Option Status :=
  match lcsRefused s c form (modeServing s) with
  | some st => some st
  | none => if !domainUsable s then some .keyPolicy else if !outHolds s c (packageLen s admitted) then some .inputInvalid else none

def domainAdmit (s : State) (c : Carrier) (q : Bytes) : State :=
  lcsStage s c .domainAdmit q (exportRefused s c (lcsHeader q && le q 32 4 < 2 ^ 18 && recipientOk (q.drop 36)) true)

def execDomainAdmit (c : Src) (s : State) : Host.Outcome State Fault Refusal := lcsRun s c 3 (domainAdmit s)

def successorExport (s : State) (c : Carrier) (q : Bytes) : State :=
  lcsStage s c .successorExport q (exportRefused s c (lcsHeader q && recipientOk (q.drop 32)) false)

def execSuccessorExport (c : Src) (s : State) : Host.Outcome State Fault Refusal := lcsRun s c 5 (successorExport s)

/-! ### DOMAIN_ROTATE (R407) -/

def rotateRefused (s : State) : Option Status :=
  if !domainUsable s then some .keyPolicy else if 64 ≤ s.dom.gens.length then some .reservationFailed else none

def domainRotate (s : State) (c : Carrier) (q : Bytes) : State :=
  lcsStage s c .domainRotate q (match lcsRefused s c (lcsForm q 0) (modeServing s) with
    | some st => some st
    | none => rotateRefused s)

def execDomainRotate (c : Src) (s : State) : Host.Outcome State Fault Refusal := lcsRun s c 4 (domainRotate s)

def applyDomainRotate (s : State) : Status × Bytes × State := match rotateRefused s with
  | some st => (st, [], s)
  | none =>
    if s.rng.alarm then (.rngFailed, [], s)
    else
      let (key, s1) := freshBytes 32 s
      let g := (s.dom.gens.getLast?.elim 0 (·.1)) + 1
      (.ok, [], mirrorDomain (modDom s1 (fun m => { m with gens := m.gens ++ [(g, key)] })))

/-! ### REWRAP (R408) -/

/-- The newest successor entry of a domain. -/
def successorOf (s : State) (d : Nat) : Option (Nat × Bytes) :=
  (s.dom.successors.reverse.find? (fun e => e.1 = d)).map (·.2)

/-- The new blob of a REWRAP, or the status that refuses it. -/
def rewrapBlob (s : State) (q : Bytes) : Except Status Bytes :=
  let owner := le q 34 2
  match blobCheck s (q.drop 48) with
  | .error st => .error st
  | .ok (h, key) =>
    if !canWriteBlob s then .error .keyPolicy
    else
      let g := (newestGen s).getD (0, [])
      match byteAt q 32 with
      | 0 => .ok (makeBlob g.2 { h with gen := g.1 } key)
      | 1 => if owner < 4096 then .ok (makeBlob g.2 { h with gen := g.1, owner := owner } key) else .error .inputInvalid
      | 2 =>
        if 4096 ≤ owner then .error .inputInvalid
        else if h.kind = 2 then .error .keyPolicy
        else match successorOf s (le q 40 8) with
          | none => .error .keyPolicy
          | some (n, k) => .ok (makeBlob k { h with gen := n, owner := owner, domainId := le q 40 8 } key)
      | 3 => if h.kind ≠ 2 then .error .inputInvalid else match s.dom.pair with
        | none => .error .inputInvalid
        | some (_, m) => .ok (makeBlob g.2 { h with gen := g.1, custodianB := custodianWord (some m) } key)
      | _ => .error .inputInvalid

def rewrap (s : State) (c : Carrier) (q : Bytes) : State :=
  lcsStage s c .rewrap q (match lcsRefused s c (lcsHeader q && 48 ≤ q.length && zeroAt q 33 1 && zeroAt q 36 4) (modeServing s) with
    | some st => some st
    | none => match rewrapBlob s q with
      | .error st => some st
      | .ok b => if outHolds s c b.length then none else some .inputInvalid)

def execRewrap (c : Src) (s : State) : Host.Outcome State Fault Refusal := lcsRun s c 6 (rewrap s)

def applyRewrap (s : State) (q : Bytes) : Status × Bytes × State := match rewrapBlob s q with
  | .error st => (st, [], s)
  | .ok b => (.ok, b, s)

/-! ### TWIN_ENROL, DEBUG_GRANT (R390, R409) -/

def twinEnrol (s : State) (c : Carrier) (q : Bytes) : State :=
  lcsStage s c .twinEnrol q (lcsRefused s c (lcsForm q 36 && bitsOf (le q 64 4) 30 18 = 0)
    (s.dev.mode = .service || s.dev.mode = .tune || s.dev.mode = .recover))

def execTwinEnrol (c : Src) (s : State) : Host.Outcome State Fault Refusal := lcsRun s c 7 (twinEnrol s)

/-- The pair record is set, or cleared by a MEMBER without VALID; a link keyed for another partner ends. -/
def applyTwinEnrol (s : State) (q : Bytes) : Status × Bytes × State :=
  let m := le q 64 4
  let pair := if bitOf m 31 then some (slice q 32 32, bitsOf m 17 0) else none
  let s1 := modDom s (fun d => { d with pair := pair })
  (.ok, [], if pair = s.dom.pair then s1 else { s1 with twn := { s1.twn with linkKey := none } })

def debugGrant (s : State) (c : Carrier) (q : Bytes) : State :=
  lcsStage s c .debugGrant q (lcsRefused s c (lcsForm q 0) (modeUp s && lcNow s = lcCustody))

def execDebugGrant (c : Src) (s : State) : Host.Outcome State Fault Refusal := lcsRun s c 8 (debugGrant s)

def applyDebugGrant (s : State) : Status × Bytes × State :=
  if lcNow s = lcCustody then (.ok, [], { s with lcs := { s.lcs with trace := true } }) else (.inputInvalid, [], s)

end Sys2Proof.Machine
end

