-- ==== Sys2Proof/Machine/ControlStore.lean ====
section
/-! DEFINITION. The control stores (R177, R181, R182): words, their parity bits, the image of a pool, the reload of a block. -/

namespace Sys2Proof.Machine

/-- The six parity bits of a word, one for each 32-bit part (R177, R181). The parity is even (DESIGN CHOICE, log 86). -/
def wordParity (w : BitVec 192) : BitVec 6 :=
  BitVec.ofNat 6 (((List.range 6).map (fun q => popcount 32 (w.toNat / 2 ^ (32 * q)) % 2 * 2 ^ q)).sum)

/-- Write a routine's words from an address upward. -/
def writeWords (m : Store 192) (base : Nat) (ws : List (BitVec 192)) : Store 192 :=
  (List.zipIdx ws).foldl (fun t e => storeSet t (base + e.2) e.1) m

/-- Write their parity bits. -/
def writeParity (m : Store 6) (base : Nat) (ws : List (BitVec 192)) : Store 6 :=
  (List.zipIdx ws).foldl (fun t e => storeSet t (base + e.2) (wordParity e.1)) m

def chartWords (ch : Chart) (rid : Nat) : List (BitVec 192) := match ch.routines.find? (fun r => r.rid = rid) with
  | some r => r.words
  | none => []

/-- The image of a control store: the trap kernel and the routines placed. -/
def storeImage (ch : Chart) (placed : List Placed) : Store 192 :=
  placed.foldl (fun m q => writeWords m q.base (chartWords ch q.rid)) (writeWords [] 0 (chartWords ch 0))
def parityImage (ch : Chart) (placed : List Placed) : Store 6 :=
  placed.foldl (fun m q => writeParity m q.base (chartWords ch q.rid)) (writeParity [] 0 (chartWords ch 0))

/-- A control store loaded whole from the chart copy. -/
def loadedStore (ch : Chart) (placed : List Placed) (x : Cluster) : Cluster :=
  { x with cs := storeImage ch placed, par := parityImage ch placed, placed := placed, csErrors := [], reloading := [] }

/-- The word's parity does not hold. -/
def wordBad (x : Cluster) (a : Nat) : Bool := wordParity (storeGet x.cs a) ≠ storeGet x.par a

/-- A bit of a word, or of its parity bits, turns over. -/
def flipBit (x : Cluster) (word bit : Nat) : Cluster :=
  if bit < 192 then { x with cs := storeSet x.cs word (storeGet x.cs word ^^^ (1#192 <<< bit)) }
  else { x with par := storeSet x.par word (storeGet x.par word ^^^ (1#6 <<< (bit - 192))) }

/-- A store with one 64-word block taken from another. -/
def blockFrom {w : Nat} (b : Nat) (img m : Store w) : Store w :=
  (img.filter (fun e => e.1 / 64 = b)).foldl (fun t e => storeSet t e.1 e.2) (m.filter (fun e => e.1 / 64 ≠ b))

/-- A block reloaded from the DDR4 chart copy (R177). -/
def reloadBlock (ch : Chart) (b : Nat) (x : Cluster) : Cluster :=
  { x with
    cs := blockFrom b (storeImage ch x.placed) x.cs
    par := blockFrom b (parityImage ch x.placed) x.par
    reloading := x.reloading.filter (· ≠ b) }

end Sys2Proof.Machine
end

