-- ==== Sys2Proof/Machine/Pipes.lean ====
section
/-! DEFINITION. Cipher pipes and their groups (R105 to R107, R256, R258, R420). -/

namespace Sys2Proof.Machine

/-- A pipe is muted. -/
def pipeMuted (s : State) (p : Nat) : Bool := s.health.muted.any (fun u => match u with
  | .pipe x => x.val = p
  | _ => false)

def pipeAt (s : State) (p : Nat) : Pipe := s.bore.pipes.getD p Pipe.init
def modPipe (s : State) (p : Nat) (f : Pipe → Pipe) : State := { s with bore := { s.bore with pipes := listMod s.bore.pipes p f } }

/-- The unmuted pipes now in a group. -/
def groupPipes (s : State) (g : PipeGroup) : List Nat :=
  (List.range 96).filter (fun p => !pipeMuted s p && (pipeAt s p).group = g)

/-- The pipes in a group or on their way to it. -/
def groupTarget (s : State) (g : PipeGroup) : List Nat :=
  (List.range 96).filter (fun p => !pipeMuted s p && ((pipeAt s p).next.getD (pipeAt s p).group) = g)

/-- The counts in force: those of MIGRATE in MIGRATE, else those of SERVICE (R105). -/
def groupCount (s : State) (g : PipeGroup) : Nat := match s.charts.inForce with
  | none => 0
  | some c =>
    let r := if s.dev.mode = .migrate then c.mig else c.svc
    match g with
    | .spare => 0
    | .sealG => r.sealN
    | .unsealG => r.unsealN
    | .echoG => r.echoN
    | .lookG => r.lookN
    | .mig => r.resealN / 3 * 3

def workGroups : List PipeGroup := [.sealG, .unsealG, .echoG, .lookG, .mig]

/-- Send a pipe to a group: at once from the spares, else when its frame or slice ends (R107). -/
def sendPipe (s : State) (p : Nat) (g : PipeGroup) : State :=
  modPipe s p (fun x => if x.group = g then { x with next := none } else { x with next := some g })

/-- Take a group's surplus pipes out of it. -/
def shedGroup (s : State) (g : PipeGroup) : State :=
  ((groupTarget s g).drop (groupCount s g)).foldl (fun t p => sendPipe t p .spare) s

/-- Fill a group from the spares. Which of them is the device's choice (R24, R105); the model takes the lowest-numbered (log 66). -/
def fillGroup (s : State) (g : PipeGroup) : State :=
  ((groupTarget s .spare).take (groupCount s g - (groupTarget s g).length)).foldl (fun t p => sendPipe t p g) s

/-- Regroup for the counts in force: surplus pipes become spares, short groups fill from them (R107). -/
def regroup (s : State) : State := workGroups.foldl fillGroup (workGroups.foldl shedGroup s)

/-- PIPE_REGROUP: a pipe joins the group it was sent to. -/
def pipeJoin (s : State) (p : Nat) : State :=
  modPipe s p (fun x => match x.next with
    | some g => { x with group := g, next := none }
    | none => x)

/-- Every pipe has joined its group by the inhale after the change (R107). -/
def pipesJoin (s : State) : State := (List.range 96).foldl pipeJoin s

def execPipeRegroup (p : Fin 96) (s : State) : Host.Outcome State Fault Refusal := whenRunning s (pipeJoin s p.val)

/-- The code of a group in events and monitor sources. -/
def groupCode : PipeGroup → Nat
  | .sealG => 0 | .unsealG => 1 | .echoG => 2 | .lookG => 3 | .mig => 4 | .spare => 5

/-- Refill a group short of a pipe: from the spares, then from LOOKASIDE, the lowest-numbered pipe of either (log 66); else it
runs short (R106). -/
def refill (s : State) (g : PipeGroup) : State :=
  if g = .spare || groupCount s g ≤ (groupTarget s g).length then s
  else match groupTarget s .spare, groupTarget s .lookG with
    | p :: _, _ => sendPipe s p g
    | [], q :: _ => if g = .lookG then logEvent s 0x0208 (leBytes 1 (groupCode g) ++ leBytes 1 (groupTarget s g).length) else sendPipe s q g
    | [], [] => logEvent s 0x0208 (leBytes 1 (groupCode g) ++ leBytes 1 (groupTarget s g).length)

/-- PIPE_MUTE: a pipe that reached two mismatches is muted at the next inhale and its group refilled (R258). -/
def pipeMute (s : State) (p : Fin 96) : State :=
  let x := pipeAt s p.val
  if atInhale s && 2 ≤ x.mismatches && x.struck < s.brt.count && !pipeMuted s p.val then
    refill (muteUnit s (.pipe p) 3 0 p.val 4) (x.next.getD x.group)
  else s

def execPipeMute (p : Fin 96) (s : State) : Host.Outcome State Fault Refusal := whenRunning s (pipeMute s p)

/-- Charge a pipe one echo mismatch. -/
def chargePipe (s : State) (p : Nat) : State := modPipe s p (fun x => { x with mismatches := x.mismatches + 1, struck := s.brt.count })

/-- Pick one of some pipes: the device's own choice (R24); `none` where there is none. -/
def pickPipe (ps : List Nat) (s : State) : Option Nat × State :=
  if ps = [] then (none, s)
  else
    let (n, s1) := freshChoice ps.length s
    (ps[n]?, s1)

/-- BOR_PIPES. -/
def borPipes (s : State) : Nat :=
  let n (g : PipeGroup) := (groupPipes s g).length
  packFields [(0, 7, n .sealG), (8, 7, n .unsealG), (16, 7, n .echoG), (24, 7, n .lookG), (32, 7, n .mig), (40, 7, n .spare),
    (48, 7, ((List.range 96).filter (pipeMuted s)).length)]

end Sys2Proof.Machine
end

