-- ==== Sys2Proof/Machine/Settle.lean ====
section
/-! DEFINITION. Ends of flows, streams and instances: what the end of a piece of bore work settles (R63, R244, R264, R268, R274,
R301, R422). -/

namespace Sys2Proof.Machine

def streamAt (s : State) (sid : Nat) : Option Stream := tblGet s.bore.streams sid
def flowAt (s : State) (e : Nat) : Option Flow := tblGet s.bore.flows e

/-- Add a flow under the next number, from 1: 0 names none, and no number comes twice. -/
def newFlow (s : State) (f : Flow) : Nat × State :=
  let e := s.bore.flowNo + 1
  (e, modBore s (fun b => { b with flows := tblPut b.flows e f, flowNo := e }))

/-- A flow as it begins. -/
def Flow.init (kind : FlowKind) (sid inst : Nat) (obj : Bytes) (ext : Nat) : Flow where
  kind := kind
  sid := sid
  inst := inst
  obj := obj
  ext := ext
  serial := 0
  declLen := 0
  recCode := 0
  key := []
  keyId := []
  keySlot := 0
  sig1 := 0
  sig2 := 0
  stage := .opening
  inOp := none
  outOp := none
  node := none
  prevNode := none
  got := 0
  ended := false
  dataBreath := 0
  openBreath := 0
  recs := []
  nextSend := 0
  closeBreath := 0
  manifest := []
  sig := []
  checks := []
  unreach := false
  mig := none

/-! ### Key epochs (R268) -/

/-- A cipher job takes its key from a stream (R272). -/
def cipherStream (j : Job) : Option Nat :=
  if j.kind = .cipher && le j.entry 10 2 = 0xFFFF then some (le j.entry 56 4) else none

/-- Zero and free the contexts that pass a test, because their key goes (R274): the next segment of each finds its key not loaded. -/
def dropContexts (s : State) (f : Nat → CipherCtx → Bool) : State :=
  modBore s (fun b => { b with
    contexts := b.contexts.filter (fun e => !f e.1 e.2)
    lostCtx := (b.contexts.filter (fun e => f e.1 e.2)).map (·.1) ++ b.lostCtx })

/-- The contexts of an instance are wiped (R85). -/
def wipeContexts (s : State) (i : Nat) : State :=
  modBore s (fun b => { b with
    contexts := b.contexts.filter (fun e => e.1 / 4096 ≠ i)
    lostCtx := b.lostCtx.filter (fun k => k / 4096 ≠ i) })

/-- Contexts of earlier epochs of a stream end when no job of the stream runs under them. -/
def endEpoch (s : State) (sid : Nat) : State := match streamAt s sid with
  | none => s
  | some x =>
    if s.jobs.any (fun e => cipherStream e.2 = some sid && e.2.frame.any (fun n => decide (n.1 < x.epoch))) then s
    else dropContexts s (fun _ c => match c.stream with
      | some (t, n) => t = sid && n < x.epoch
      | none => false)

/-- The front control command of an instance is `op`, in execution, and names a stream. -/
def ctlWaits (s : State) (i op sid : Nat) : Bool := match ctlFront s i with
  | some c => c.opcode = op && c.started && le c.params 0 4 = sid
  | none => false

/-- A STREAM record of a live stream (the layout is the model's own): action, ID, instance, class and flags, slots, link, transport,
epoch and the next slot. -/
def streamBody (sid : Nat) (x : Stream) : Bytes :=
  leBytes 4 1 ++ leBytes 4 sid ++ leBytes 2 x.inst ++
    leBytes 1 (match x.cls with
      | .preserve => 1 | .transit => 2 | .lookaside => 3) ++ leBytes 1 x.recCode ++
    leBytes 1 (flag x.echo + 2 * flag x.defer1 + 4 * flag x.defer2 + 8 * flag x.receive) ++ zeros 1 ++ leBytes 2 x.keySlot ++
    leBytes 2 x.sig1 ++ leBytes 2 x.sig2 ++ padTo 8 x.linkId ++ leBytes 1 x.carriage ++ leBytes 1 x.plainPort ++ leBytes 1 x.sealedPort ++
    zeros 1 ++ leBytes 4 x.remote ++ bvBytes 6 x.endpoint.mac ++ bvBytes 16 x.endpoint.ip ++ leBytes 4 x.epoch ++
    leBytes 2 (x.nextSlot.getD noSlot)

def streamGone (sid : Nat) : Bytes := leBytes 4 2 ++ leBytes 4 sid

/-- The next epoch takes effect: its key, counter 0, and the STREAM_REKEY that installed it completes at the next inhale. -/
def takeEpoch (s : State) (sid : Nat) : State := match streamAt s sid with
  | none => s
  | some x =>
    let y := { x with
      keySlot := x.nextSlot.getD x.keySlot
      nextSlot := none
      epoch := x.epoch + 1
      counter := 0
      ceiling := 0
      reserving := none
      rekey := false }
    let s1 := mirror (modStream s sid (fun _ => y)) recStream (streamBody sid y)
    let s2 := endEpoch s1 sid
    if x.rekey && ctlWaits s2 x.inst 0x85 sid then ctlDoneMirrored s2 x.inst (y.epoch % 2) else s2

/-- A boundary of the stream passes: an installed epoch takes effect. -/
def epochBoundary (s : State) (sid : Nat) : State := match streamAt s sid with
  | some x => if x.nextSlot.isSome then takeEpoch s sid else s
  | none => s

/-! ### Instances and streams that are being destroyed -/

/-- DESTROY_INSTANCE has torn down the instance and waits for its streams (R63). -/
def isDestroying (x : Inst) : Bool := x.queues = [] && (match x.reset with
  | some r => r.waiters.any ResetWait.destroy
  | none => false)

/-- The instance's streams are gone: its slots and contexts are wiped and its quotas freed. -/
def finishDestroy (s : State) (i : Nat) : State := match tblGet s.insts i with
  | none => s
  | some x =>
    if !isDestroying x || streamsOf s i ≠ [] then s
    else
      let slots := (s.wch.slots.filter (fun e => e.1 / 16384 = i)).map (fun e => e.1 % 16384)
      let s1 := slots.foldl (fun t h => freeSlot t i h) s
      let s2 := wipeContexts s1 i
      let mine (g : Ring) : Bool := match g with
        | .inst k _ => k = i
        | .adm _ => false
      let s3 := mirror { s2 with
        insts := tblDel s2.insts i
        waiting := s2.waiting.filter (fun w => !mine w.c.ring)
        twn := { s2.twn with waits := s2.twn.waits.filter (fun w => !mine w.c.ring) } } recInstance (instanceGone i)
      match admFront s3 x.port.val with
      | some c => if c.opcode = 2 && c.started then admDoneMirrored s3 x.port 0 else s3
      | none => s3

/-- Work of a stream is still under way (R244). -/
def streamBusy (s : State) (sid : Nat) : Bool :=
  s.bore.flows.any (fun e => e.2.sid = sid && e.2.mig.isNone && (match e.2.kind with
    | .put | .get => true
    | .linkOut | .linkIn => e.2.recs ≠ [] || s.pxt.ops.any (fun o => o.2.flow = e.1 && (o.2.sent ≠ [] || o.2.wait ≠ [])))) ||
    s.bore.flows.any (fun e => e.2.sid = sid && e.2.mig.isSome && e.2.kind = .put) ||
    s.jobs.any (fun e => cipherStream e.2 = some sid)

/-- A stream being destroyed goes when nothing of it is under way: its derived keys, its contexts, its standing operations, its ID. -/
def settleStream (s : State) (sid : Nat) : State := match streamAt s sid with
  | none => s
  | some x =>
    if !x.destroy || streamBusy s sid then s
    else
      let s1 := modBore s (fun b => { b with
        streams := tblDel b.streams sid
        flows := b.flows.filter (fun e => e.2.sid ≠ sid || e.2.mig.isSome)
        contexts := b.contexts.filter (fun e => match e.2.stream with
          | some (t, _) => t ≠ sid
          | none => true) })
      let s2 := modPxt s1 (fun p => { p with ops := p.ops.filter (fun o => o.2.sid ≠ sid || o.2.node.isSome) })
      let s3 := mirror s2 recStream (streamGone sid)
      let s4 := if ctlWaits s3 x.inst 0x84 sid then ctlDoneMirrored s3 x.inst 0 else s3
      finishDestroy s4 x.inst

/-! ### Results of a migration (R421, R422) -/

/-- Write the result entry of a list index and count it; the entry leaves. -/
def migResult (s : State) (k : Nat) (st : Status) (serial : Nat) : State :=
  let old := match s.mig.entries.find? (fun e => e.index = k) with
    | some e => e.oldSerial
    | none => 0
  let b := leBytes 8 old ++ leBytes 8 serial ++ leBytes 2 (statusCode st) ++ [1] ++ zeros 5 ++ leBytes 8 s.brt.count
  let p := match tblGet s.insts s.mig.inst with
    | some x => x.port.val
    | none => 0
  let s1 := bucketCharge (emitAll s (dmaWrites s p (s.mig.resultAddr + 32 * k) (relaxedOrder s) b)) s.mig.inst 32
  { s1 with mig := { s1.mig with
      entries := s1.mig.entries.filter (fun e => e.index ≠ k)
      done := s1.mig.done + 1
      failed := if st = .ok then s1.mig.failed else sat 16 (s1.mig.failed + 1) } }

/-! ### Starting what waits for a node (R301) -/

/-- A PUT opens at its node. -/
def startPut (s : State) (e : Nat) (f : Flow) (n : NodeCfg) : State :=
  let (o, s1) := nodeOp s .putOut f.sid e f.obj f.ext n
  let s2 := modFlow s1 e (fun g => { g with stage := .isOpen, outOp := some o, dataBreath := s.brt.count })
  let s3 := opSend s2 o [{ opMsg tPutBegin f.sid f.obj f.ext with body := beginBody f.declLen f.recCode f.serial }]
  match f.inOp with
  | some g => opGrant s3 g
  | none => s3

/-- A GET asks a node: one credit for the first piece of the manifest (R302, R310). -/
def startGet (s : State) (e : Nat) (f : Flow) (n : NodeCfg) : State :=
  let (o, s1) := nodeOp s .getOut f.sid e f.obj f.ext n
  let s2 := modFlow s1 e (fun g => { g with stage := .manifest, inOp := some o })
  let s3 := opSend s2 o [opMsg tGetReq f.sid f.obj f.ext]
  opCredit (modOp s3 o (fun x => { x with rxLimit := 1 })) o

/-- Start a flow that waits for an opening, where its node has one. -/
def startFlow (s : State) (e : Nat) : State := match flowAt s e with
  | none => s
  | some f => match f.node with
    | none => s
    | some n =>
      if f.stage ≠ .opening || !nodeFree s n.id then s
      else match f.kind with
        | .put => startPut s e f n
        | .get => startGet s e f n
        | .linkOut | .linkIn => s

/-- Start every flow that waits and can start. -/
def startWaiting (s : State) : State := (s.bore.flows.map (·.1)).foldl startFlow s

/-- Erase a flow and settle what its end frees. -/
def endFlow (s : State) (e : Nat) : State := match flowAt s e with
  | none => s
  | some f =>
    let s1 := noteLimit (modBore s (fun b => { b with flows := tblDel b.flows e })) f.inst
    settleStream (startWaiting (renewOpenings s1 (some f.inst))) f.sid

end Sys2Proof.Machine
end

