-- ==== Sys2Proof/Machine/Put.lean ====
section
/-! DEFINITION. PUTs on PRESERVE streams (R245 to R264, R279, R280, R309): opening, data, sealing and echo, closing, batches,
manifests, aborts. -/

namespace Sys2Proof.Machine

/-- Status codes read back; a code of none is INPUT_INVALID (R309 passes a node's status on). -/
def statusOfCode (n : Nat) : Status :=
  ([Status.okReplayed, .idle, .inputInvalid, .pointNotOnCurve, .paramRejected, .signatureInvalid, .tagMismatch, .lengthOverrun,
    .lengthUnderrun, .lengthMismatch, .keySlotCorrupt, .keyPolicy, .keyNotLoaded, .vectorFault, .aborted, .instanceReset,
    .budgetExceeded, .rngNotReady, .rngFailed, .stateExhausted, .reservationFailed, .dmaFault, .invariantFailed,
    .deviceHalting].find? (fun s => statusCode s = n)).getD .inputInvalid

/-! ### Aborts (R280) -/

/-- Jobs of a flow for a purpose. -/
def flowJobs (s : State) (what e : Nat) : List Nat := (s.jobs.filter (fun j => j.2.internal = some (what, e))).map (·.1)

/-- The operation no longer belongs to a flow: its frames are answered and nothing more. -/
def orphanOp (s : State) (o : Nat) : State := modOp s o (fun x => { x with flow := 0 })

/-- The manifest of an extent in a batch is still wanted. -/
def leafWanted (s : State) (e : Nat) : Bool := match flowAt s e with
  | some f => f.stage = .sig2
  | none => false

/-- Cancel the SIG2 job of a batch that nobody else needs, while it is not assigned; once assigned, or with other manifests in the batch,
it runs on (R280). -/
def cancelBatch (s : State) (e : Nat) : State :=
  match s.bore.batches.find? (fun b => b.2.leaves.any (fun x => x.1 = e)) with
  | none => s
  | some (b, x) =>
    if x.leaves.any (fun y => y.1 ≠ e && leafWanted s y.1) then s
    else match (flowJobs s forSig2 b).find? (fun k => match tblGet s.jobs k with
        | some j => j.unit = .none && j.stage = .pending
        | none => false) with
      | none => s
      | some k => modBore (cancelInternal s k) (fun y => { y with batches := tblDel y.batches b })

/-- Abort a PUT's extent: ABORT_EXTENT to the node, NAK to the gateway, its key and plaintext erased, its manifest jobs cancelled. -/
def abortPut (s : State) (e : Nat) (st : Status) : State := match flowAt s e with
  | none => s
  | some f =>
    let s1 := match f.outOp with
      | some o => orphanOp (opAbort s o st f.serial) o
      | none => s
    let s2 := match f.inOp with
      | some o => opNak s1 o st f.serial
      | none => s1
    let s3 := cancelBatch ((flowJobs s2 forSig1 e).foldl cancelInternal s2) e
    let s4 := match f.mig with
      | some k => migResult s3 k st f.serial
      | none => s3
    endFlow s4 e

/-! ### Opening (R245, R247, R249, R309) -/

/-- Answer a message that opens nothing with NAK. -/
def replyNak (s : State) (x : PxtIn) (m : PxtMsg) (st : Status) (serial : Nat) : State :=
  txFrame s x.fport.val x.src x.carriage.val (pxtBytes { opMsg tNak m.sid m.obj m.ext with body := nakBody (statusCode st) serial })

/-- An opening message is refused: its operation opens and ends at once, so the opening credit is renewed (R300, R301). -/
def refuseOpening (s : State) (x : PxtIn) (m : PxtMsg) (st : Status) : State :=
  renewOpening (modStream (replyNak s x m st 0) m.sid (fun y => { y with opening := false })) m.sid

/-- A serial can be assigned now (R250, R45). -/
def serialLeft (s : State) : Bool :=
  serialsReady s && s.bore.serials.next < s.bore.serials.ceiling && s.bore.serials.ceiling < serialEnd

/-- The next serial (R249). -/
def nextSerial (s : State) : Nat := 2 ^ 46 * memberNumber s + s.bore.serials.next

def takeSerial (s : State) : State :=
  modBore s (fun b => { b with serials := { b.serials with next := b.serials.next + 1 } })

/-- The stream's key slot fails its integrity check (R328). -/
def streamKeyBad (s : State) (i h : Nat) : Bool := match checkSlot s i h with
  | .error st => st = .keySlotCorrupt
  | .ok _ => false

/-- Begin a PUT of a stream's instance: its serial, key and node; answers the flow's number, or the status that refuses it. -/
def beginPut (s : State) (sid : Nat) (obj : Bytes) (ext len : Nat) (mig : Option Nat) : Except Status (Nat × State) :=
  let s0 := epochBoundary s sid
  match streamAt s0 sid with
  | none => .error .inputInvalid
  | some x =>
    if len = 0 || 2 ^ 30 < len then .error .inputInvalid
    else if s.dev.mode = .recover || !serialLeft s then .error .reservationFailed
    else match s.pxt.cur.bind (fun t => nodeWinner t obj), checkSlot s x.inst x.keySlot with
      | none, _ => .error .reservationFailed
      | _, .error st => .error st
      | some n, .ok k =>
        let serial := nextSerial s
        let archive := slotMaterial k
        let f : Flow := { Flow.init .put sid x.inst obj ext with
          serial := serial
          declLen := len
          recCode := x.recCode
          key := extentKey archive serial
          keyId := archiveKeyId archive
          keySlot := x.keySlot
          sig1 := x.sig1
          sig2 := x.sig2
          node := some n
          dataBreath := s.brt.count
          openBreath := s.brt.count
          mig := mig }
        .ok (newFlow (takeSerial s0) f)

/-- A gateway's PUT_BEGIN under its opening credit. -/
def putOpen (s : State) (x : PxtIn) (m : PxtMsg) : State :=
  if be m.body 4 4 ≠ 0 || be m.body 8 8 ≠ 0 || m.off ≠ 0 then refuseOpening s x m .inputInvalid
  else match beginPut s m.sid m.obj m.ext (declLenOf m.body) none with
    | .error st =>
      refuseOpening (match streamAt s m.sid with
        | some y => noteSlot s y.inst (y.nextSlot.getD y.keySlot) st
        | none => s) x m st
    | .ok (e, s1) =>
      let (o, s2) := peerOp s1 .putIn m.sid e m.obj m.ext x.fport.val x.carriage.val x.src
      let s3 := modStream (modFlow s2 e (fun f => { f with inOp := some o })) m.sid (fun y => { y with
        opening := false
        bound := some (y.bound.getD x.src) })
      startFlow (opAck s3 o) e

/-! ### Data (R255, R279, R298, R306) -/

/-- Put up to 4,096 bytes of plaintext at their place. A record already admitted keeps what it has; where a parity error took its
plaintext (R281), what is sent again stands in for it if its CRC is the one taken on ingress. -/
def placeChunk (count seq : Nat) (f : Flow) (n : Nat) (c : Bytes) : Flow :=
  let size := recSize f.recCode
  let i := n / size
  let r := tblGetD f.recs i Rec.init
  if r.admitted.isSome && r.whole.isSome then f
  else
    let inp := r.input.take (n % size) ++ c
    let whole : Bool := inp.length = recLen f.recCode f.declLen i
    let r1 := { r with input := inp, whole := if whole then some count else none }
    let r2 := if r.admitted.isSome then { r1 with clash := whole && crc64 inp ≠ r.crc }
      else { r1 with firstSeq := if n % size = 0 then seq else r.firstSeq, crc := if whole then crc64 inp else 0 }
    { f with recs := tblPut f.recs i r2 }

/-- Put plaintext from byte `n` of the extent. -/
def placeData (count seq : Nat) (f : Flow) (n : Nat) (bs : Bytes) : Flow :=
  let g := (List.zipIdx (chunks 4096 bs)).foldl (fun g e => placeChunk count seq g (n + 4096 * e.2) e.1) f
  { g with got := max f.got (n + bs.length), dataBreath := count }

/-- A gateway's PUT_DATA, next in order. -/
def putTake (s : State) (o : Nat) (seq : Nat) (e : Nat) (m : PxtMsg) : State := match flowAt s e with
  | none => s
  | some f =>
    let n := 4096 * m.off
    let len := m.body.length
    if f.declLen < n + len then abortPut s e .lengthOverrun
    else if f.got < n || !(len = 4096 || len = 8192 || (n + len = f.declLen && len ≤ 8192)) then abortPut s e .inputInvalid
    else
      let g := placeData s.brt.count seq f n m.body
      let s1 := modFlow s e (fun _ => g)
      if g.recs.any (fun r => r.2.clash) then abortPut s1 e .invariantFailed else opGrant (opAck s1 o) o

/-- A gateway's PUT_END, next in order. The operation ends by ACK DONE when the node has closed its own (R304). -/
def putFinish (s : State) (o e : Nat) : State := match flowAt s e with
  | none => s
  | some f =>
    if f.got < f.declLen then abortPut s e .lengthUnderrun
    else if f.stage = .delivered && f.outOp.isNone then endFlow (opDone s o f.serial) e
    else opAck (modFlow s e (fun g => { g with ended := true, dataBreath := s.brt.count })) o

/-- The node closed the PUT (R263, R309 step 4). -/
def putStored (s : State) (e : Nat) : State := match flowAt s e with
  | none => s
  | some f =>
    match f.mig, f.inOp with
    | some k, _ => endFlow (migResult s k .ok f.serial) e
    | none, some o =>
      if f.ended then endFlow (opDone s o f.serial) e else modFlow s e (fun g => { g with outOp := none })
    | none, none => endFlow s e

/-! ### Sealing and echo (R255 to R259) -/

/-- Pipes of a re-seal path by their place in it: unseal, seal, echo (R420). -/
def pathPipes (s : State) (k : Nat) : List Nat :=
  ((List.zipIdx (groupPipes s .mig)).filter (fun e => e.2 % 3 = k)).map (·.1)

/-- Seal and echo pipes a flow's records use. -/
def sealPipesOf (s : State) (f : Flow) : List Nat := if f.mig.isSome then pathPipes s 1 else groupPipes s .sealG
def echoPipesOf (s : State) (f : Flow) : List Nat := if f.mig.isSome then pathPipes s 2 else groupPipes s .echoG
def unsealPipesOf (s : State) (f : Flow) : List Nat := if f.mig.isSome then pathPipes s 0 else groupPipes s .unsealG

/-- The flow seals what it carries; else it unseals. -/
def sealsFlow (f : Flow) : Bool := f.kind = .put || f.kind = .linkOut

/-- Blocks admitted in this breath by flows of the same kind of pipes. -/
def admittedBlocks (s : State) (f : Flow) : Nat :=
  ((s.bore.flows.filter (fun e => e.2.mig.isSome = f.mig.isSome && sealsFlow e.2 = sealsFlow f)).map (fun e =>
    ((e.2.recs.filter (fun r => r.2.admitted = some s.brt.count)).map (fun r => ceilDiv r.2.input.length 16)).sum)).sum

/-- A record fits what the breath still admits: N·L − L/8 blocks on the seal pipes (R256), N·L on the unseal pipes. -/
def admitFits (s : State) (f : Flow) (r : Rec) : Bool :=
  let n := if sealsFlow f then (sealPipesOf s f).length else (unsealPipesOf s f).length
  let cap := if sealsFlow f then n * breathLen s - breathLen s / 8 else n * breathLen s
  n ≠ 0 && admittedBlocks s f + ceilDiv r.input.length 16 ≤ cap

/-- The record may be admitted at this inhale. -/
def admitDue (s : State) (r : Rec) : Bool := atInhale s && !s.dev.halting && r.admitted.isNone && (match r.whole with
  | some n => n < s.brt.count
  | none => false)

/-- A strip just sealed: a seal and an echo pipe of the device's choosing. -/
def newStrips (seals echoes : List Nat) : Nat → State → List Strip × State
  | 0, s => ([], s)
  | n + 1, s =>
    let (a, s1) := pickPipe seals s
    let (b, s2) := pickPipe echoes s1
    let (rest, s3) := newStrips seals echoes n s2
    (⟨false, false, a.getD 0, b.getD 0, [], s.brt.count⟩ :: rest, s3)

/-- Change a record of a flow. -/
def modRec (s : State) (e i : Nat) (g : Rec → Rec) : State := modFlow s e (fun f => { f with recs := tblMod f.recs i g })

def sefIdOf (f : Flow) : SefId := ⟨f.recCode, f.serial, f.obj, f.ext, f.declLen⟩

/-- Plaintext with a parity error is asked for again, from the record's first frame (R281, R306). -/
def askAgain (s : State) (e i : Nat) (f : Flow) (r : Rec) : State := match f.inOp with
  | none => s
  | some o =>
    let s1 := modRec s e i (fun r => { r with input := [], whole := none })
    opResendFrom (modOp s1 o (fun x => { x with rxNext := r.firstSeq })) o (r.firstSeq % 2 ^ 32)

/-- Admit a record of a PUT: it is sealed and its strips go to echo. -/
def admitPut (s : State) (e i : Nat) (f : Flow) (r : Rec) (parity : Bool) : State :=
  if parity then askAgain s e i f r
  else if (echoPipesOf s f) = [] || !admitFits s f r then s
  else
    let (strips, s1) := newStrips (sealPipesOf s f) (echoPipesOf s f) (ceilDiv r.input.length 4096) s
    modRec s1 e i (fun r => { r with
      admitted := some s.brt.count
      result := sefHeader (sefIdOf f) i ++ sealRecord f.key (sefIdOf f) i r.input
      strips := strips })

/-- Seal pipes that failed a strip, and its echo pipes that did: `bad` lists the pairs. -/
def badSeals : List Nat → List Nat
  | a :: _ :: rest => a :: badSeals rest
  | _ => []

def badEchoes : List Nat → List Nat
  | _ :: b :: rest => b :: badEchoes rest
  | _ => []

/-- What fails its echo waits for a reseal, its pipes noted. -/
def echoFailed (t : Strip) : Strip := { t with failed := true, bad := t.sealPipe :: t.echoPipe :: t.bad }

/-- Failed on three distinct pipes. -/
def echoLost (t : Strip) : Bool := 3 ≤ (badSeals t.bad).eraseDups.length

/-- Count a mismatch (BOR_ECHO). -/
def countMismatch (s : State) : State := modBore s (fun b => { b with mismatches := sat 16 (b.mismatches + 1) })

/-- What failed is sealed again in a later breath, on a pipe other than those that failed it and with an echo pipe other than theirs. -/
def resealOn (s : State) (seals echoes : List Nat) (t : Strip) : Option (Strip × State) :=
  let ss := seals.filter (fun p => !(badSeals t.bad).contains p)
  let es := echoes.filter (fun p => !(badEchoes t.bad).contains p)
  if !t.failed || s.brt.count ≤ t.breath || ss = [] || es = [] then none
  else
    let (a, s1) := pickPipe ss s
    let (b, s2) := pickPipe es s1
    some ({ t with failed := false, sealPipe := a.getD 0, echoPipe := b.getD 0, breath := s.brt.count }, s2)

/-- Change a strip of a record. -/
def modStrip (s : State) (e i n : Nat) (g : Strip → Strip) : State := modRec s e i (fun r => { r with strips := listMod r.strips n g })

/-- A strip passes or fails its echo (R257, R258). -/
def echoResult (s : State) (e i strip : Nat) (good : Bool) : State := match flowAt s e with
  | none => s
  | some f => match tblGet f.recs i with
    | none => s
    | some r => match r.strips[strip]? with
      | none => s
      | some t =>
        if t.passed || t.failed then s
        else if good then
          let s1 := t.bad.foldl chargePipe s
          let strips := listMod r.strips strip (fun t => { t with passed := true })
          modRec s1 e i (fun r => { r with
            strips := strips
            ready := if strips.all Strip.passed then some s.brt.count else none })
        else
          let s2 := modStrip (countMismatch s) e i strip echoFailed
          if echoLost (echoFailed t) && f.kind = .put then
            abortPut (logEvent (modBore s2 (fun b => { b with echoAborts := sat 16 (b.echoAborts + 1) })) 0x020C (leBytes 8 f.serial))
              e .invariantFailed
          else s2

/-- A failed strip is sealed again from the plaintext held (R258, R259). -/
def reseal (s : State) (e i strip : Nat) : State := match flowAt s e with
  | none => s
  | some f => match tblGet f.recs i with
    | none => s
    | some r => match r.strips[strip]? with
      | none => s
      | some t =>
        if r.whole.isNone then s
        else match resealOn s (sealPipesOf s f) (echoPipesOf s f) t with
          | none => s
          | some (u, s1) => modStrip s1 e i strip (fun _ => u)

/-- A record may leave at this inhale: n + 2, and after its last echo passed (R256, R258). -/
def sendDue (s : State) (r : Rec) : Bool := atInhale s && !s.dev.halting && r.sent.isNone && (match r.admitted, r.ready with
  | some a, some b => a + 2 ≤ s.brt.count && b < s.brt.count
  | _, _ => false)

/-- Send a sealed record to the node; its plaintext stays until the node has acknowledged the last frame (R259). -/
def sendSealed (s : State) (e i o : Nat) (f : Flow) (r : Rec) : State :=
  let off := i * (recSize f.recCode / 4096)
  let ps := recordPieces off (r.result.take 48) (r.result.drop 48)
  let s1 := opSend s o (ps.map (fun p => { opMsg tPutData f.sid f.obj f.ext with off := p.1, body := p.2 }))
  let last := (tblGet s.pxt.ops o).map (fun x => x.txNext + x.wait.length + ps.length - 1)
  modFlow s1 e (fun g => { g with nextSend := i + 1, recs := tblMod g.recs i (fun r => { r with sent := some s.brt.count, lastSeq := last }) })

/-- Free what the bore buffer holds of a record; its tag stays for the manifest. -/
def freeRec (r : Rec) : Rec := { r with input := [], result := recTag r.result }

/-- The records of a PUT whose last frame the node has acknowledged leave the bore buffer (R259). -/
def freeAcked (s : State) (o : Nat) : State := match tblGet s.pxt.ops o with
  | none => s
  | some x =>
    let low := (x.sent.head?.map (·.1)).getD x.txNext
    if x.kind ≠ .putOut then s
    else modFlow s x.flow (fun f => { f with
      recs := f.recs.map (fun r => (r.1, if r.2.lastSeq.elim false (fun n => decide (n < low)) then freeRec r.2 else r.2)) })

/-! ### Closing (R252, R261) -/

/-- The key ID of a signing key in a slot: SHA3-256 of its public key. -/
def sigKeyId (alg : Nat) (material : Bytes) : Bytes :=
  sha3_256 (if alg = 0x0203 then Config.mldsaPublic material else material.drop 64)

def slotKeyId (s : State) (i h alg : Nat) : Bytes := match slotAt s i h with
  | some x => sigKeyId alg (slotMaterial x)
  | none => zeros 32

/-- Every record of the extent has passed echo. -/
def allSealed (f : Flow) : Bool :=
  (List.range (recCount f.recCode f.declLen)).all (fun i => ((tblGet f.recs i).bind Rec.ready).isSome)

/-- CLOSE_BREATH: the last sealing that passed echo. -/
def lastSealing (f : Flow) : Nat :=
  (f.recs.flatMap (fun r => r.2.strips.map Strip.breath)).foldl max 0

/-- EXTENT_CLOSE: header and tags of the manifest; the key is erased; the SIG1 job is submitted. -/
def extentClose (s : State) (e : Nat) : State := match flowAt s e with
  | none => s
  | some f =>
    if f.kind ≠ .put || f.stage ≠ .isOpen || !allSealed f then s
    else
      let tags := f.recs.map (fun r => recTag r.2.result)
      let h := manifestHeader (sefIdOf f) s.dom.id f.keyId (slotKeyId s f.inst f.sig1 0x0203) (slotKeyId s f.inst f.sig2 0x0302)
        (lastSealing f) (tagRoot tags)
      let s1 := modFlow s e (fun g => { g with
        key := []
        stage := .sig1
        closeBreath := lastSealing f
        manifest := h ++ tags.flatten })
      noteLimit (submitInternal s1 f.inst (forSig1, e) 0x0203 opSign f.sig1 (ascii "SEF1 manifest") (ascii "SEF1 manifest" ++ h)).2 f.inst

def execExtentClose (e : Nat) (s : State) : Host.Outcome State Fault Refusal :=
  whenRunning s (if s.dev.halting then s else extentClose s e)

/-- The SIG1 job of an extent was released (R262). -/
def sig1Done (s : State) (e : Nat) (st : Status) (sig : Bytes) : State :=
  if st = .ok || st = .okReplayed then modFlow s e (fun f => { f with sig := sig, stage := .batched }) else abortPut s e st

/-! ### Batches (R253, R254, R262) -/

/-- The SIG2 key of a flow, by its ID. -/
def flowKey (s : State) (f : Flow) : Nat × Bytes := (f.inst, slotKeyId s f.inst f.sig2 0x0302)

/-- The extents whose manifests wait for a batch of a key of an instance. -/
def batchedFlows (s : State) (k : Nat × Bytes) : List (Nat × Flow) :=
  s.bore.flows.filter (fun e => e.2.stage = .batched && flowKey s e.2 = k)

/-- Form one batch: at most 1,024 manifests; its SIG2 job is submitted, with the slot the first of them names. -/
def formBatch (s : State) (k : Nat × Bytes) : State := match (batchedFlows s k).take 1024 with
  | [] => s
  | first :: rest =>
    let fs := first :: rest
    let inst := k.1
    let slot := first.2.sig2
    let leaves := fs.map (fun e => e.2.manifest.take 184 ++ e.2.sig)
    let hashes := leaves.map merkleLeaf
    let h := batchHeader fs.length (memberNumber s) s.brt.count s.dom.id k.2 (merkleRoot leaves)
    let b := s.bore.flowNo + 1
    let batch : Batch := ⟨inst, slot, h, (List.zipIdx fs).map (fun e => (e.1.1, merklePath fs.length e.2 hashes))⟩
    let s1 := modBore s (fun x => { x with batches := tblPut x.batches b batch, flowNo := b })
    let s2 := fs.foldl (fun t e => modFlow t e.1 (fun f => { f with stage := .sig2 })) s1
    (submitInternal s2 inst (forSig2, b) 0x0302 opSign slot (ascii "SEF1 batch") (ascii "SEF1 batch" ++ h)).2

/-- The exhale's batches: one for each SIG2 key with manifests whose SIG1 was released in the breath. -/
def formBatches (s : State) : State :=
  (((s.bore.flows.filter (fun e => e.2.stage = .batched)).map (fun e => flowKey s e.2)).eraseDups).foldl formBatch s

/-- The SIG2 job of a batch was released: each manifest of the batch still wanted is whole (R263), or its extent is aborted. -/
def sig2Done (s : State) (b : Nat) (st : Status) (sig : Bytes) : State := match tblGet s.bore.batches b with
  | none => s
  | some x =>
    let s1 := modBore s (fun y => { y with batches := tblDel y.batches b })
    let mine := (List.zipIdx x.leaves).filter (fun e => leafWanted s e.1.1)
    if st = .ok || st = .okReplayed then
      mine.foldl (fun t e => modFlow t e.1.1 (fun f => { f with
        stage := .stored
        manifest := f.manifest ++ f.sig ++ x.header ++ beBytes 2 e.2 ++ beBytes 1 e.1.2.length ++ e.1.2.flatten ++ sig })) s1
    else mine.foldl (fun t e => abortPut t e.1.1 st) s1

/-- MANIFEST_SEND: the manifest in PART 1 pieces, then PUT_END (R263, R309 step 3), after the last record. -/
def manifestSend (s : State) (e : Nat) : State := match flowAt s e with
  | none => s
  | some f => match f.outOp with
    | none => s
    | some o =>
      if f.stage ≠ .stored || f.nextSend < recCount f.recCode f.declLen then s
      else
        let ms := (payloadPieces 0 f.manifest).map (fun p => { opMsg tPutData f.sid f.obj f.ext with part := true, off := p.1, body := p.2 })
        opSend (modFlow s e (fun g => { g with stage := .delivered })) o (ms ++ [opMsg tPutEnd f.sid f.obj f.ext])

def execManifestSend (e : Nat) (s : State) : Host.Outcome State Fault Refusal :=
  whenRunning s (if s.dev.halting then s else manifestSend s e)

/-! ### Timeouts (R44, R45, R279) -/

/-- PUT_IDLE_TIMEOUT: no data for the idle limit. The limit runs from the credit grant, while data or PUT_END is still to come. -/
def putIdle (s : State) (e : Nat) : State := match flowAt s e with
  | none => s
  | some f =>
    if f.kind = .put && f.mig.isNone && f.stage ≠ .opening && !f.ended && f.dataBreath + 2 ^ (pxtCfg s).idleLog2 ≤ s.brt.count then
      abortPut s e .lengthUnderrun
    else s

def execPutIdleTimeout (e : Nat) (s : State) : Host.Outcome State Fault Refusal :=
  whenRunning s (if s.dev.halting then s else putIdle s e)

/-- 65,536 breaths have passed since the quiesce began (R44), or since RECOVER was entered (R45). -/
def extentsOverdue (s : State) : Bool :=
  (match s.dev.quiesce with
    | some q => q + 65536 ≤ s.brt.count
    | none => false) || (s.dev.mode = .recover && s.dev.modeBreath + 65536 ≤ s.brt.count)

/-- QUIESCE_EXTENT_TIMEOUT: an extent still open then is aborted. -/
def quiesceTimeout (s : State) (e : Nat) : State := match flowAt s e with
  | some f => if f.kind = .put && extentsOverdue s then abortPut s e .lengthUnderrun else s
  | none => s

def execQuiesceExtentTimeout (e : Nat) (s : State) : Host.Outcome State Fault Refusal :=
  whenRunning s (if s.dev.halting then s else quiesceTimeout s e)

end Sys2Proof.Machine
end

