-- ==== Sys2Proof/Machine/Get.lean ====
section
/-! DEFINITION. GETs on PRESERVE streams (R265 to R267, R302, R310, R320), the audit sweep, and the GET side of a migration (R421). -/

namespace Sys2Proof.Machine

/-! ### Ends -/

/-- Verification jobs of a GET that still run. -/
def getJobs (s : State) (e : Nat) : List Nat := flowJobs s forVerify1 e ++ flowJobs s forVerify2 e

/-- The migration entry of a flow. -/
def migEntry (s : State) (k : Nat) : Option MigEntry := s.mig.entries.find? (fun m => m.index = k)

/-- The PUT flow of a migration entry, once begun. -/
def migPut (s : State) (k : Nat) : Option Nat := (migEntry s k).bind MigEntry.ext

/-- End a GET with NAK: FLUSH to the node, the checks cancelled, and a migration entry failed. -/
def failGet (s : State) (e : Nat) (st : Status) (nak : Bool) : State := match flowAt s e with
  | none => s
  | some f =>
    let s1 := match f.inOp with
      | some o => opFlush s o
      | none => s
    let s2 := match f.outOp with
      | some o => if nak then opNak s1 o st 0 else modPxt s1 (fun x => { x with ops := tblDel x.ops o })
      | none => s1
    let s3 := endFlow ((getJobs s2 e).foldl cancelInternal s2) e
    match f.mig with
    | none => s3
    | some k => match migPut s3 k with
      | some p => abortPut s3 p st
      | none => migResult s3 k st 0

/-- The node does not hold the extent, or cannot be reached: ask the previous table's winner, or end (R320). The manifest and the
records not yet sent start over. -/
def getFallback (s : State) (e : Nat) (unreach : Bool) : State := match flowAt s e with
  | none => s
  | some f =>
    let un := f.unreach || unreach
    match f.prevNode with
    | some n =>
      startFlow (modFlow s e (fun g => { g with
        stage := .opening
        inOp := none
        node := some n
        prevNode := none
        unreach := un
        manifest := []
        got := 0
        recs := g.recs.filter (fun r => r.1 < g.nextSend) })) e
    | none => failGet (modFlow s e (fun g => { g with inOp := none })) e (if un then .aborted else .inputInvalid) true

/-! ### Opening (R310, R320) -/

/-- The previous table's winner, where it is another node. -/
def prevWinner (s : State) (obj : Bytes) (n : NodeCfg) : Option NodeCfg :=
  (s.pxt.prev.bind (fun t => nodeWinner t obj)).bind (fun m => if m.id = n.id then none else some m)

/-- Begin a GET; answers the flow's number. -/
def beginGet (s : State) (sid inst : Nat) (obj : Bytes) (ext : Nat) (mig : Option Nat) : Option (Nat × State) :=
  (s.pxt.cur.bind (fun t => nodeWinner t obj)).map (fun n =>
    newFlow s { Flow.init .get sid inst obj ext with
      node := some n
      prevNode := prevWinner s obj n
      openBreath := s.brt.count
      mig := mig })

/-- A gateway's GET_REQ under its opening credit. -/
def getOpen (s : State) (x : PxtIn) (m : PxtMsg) (st : Stream) : State :=
  if m.off ≠ 0 then refuseOpening s x m .inputInvalid
  else if streamKeyBad s st.inst st.keySlot then refuseOpening (markCorrupt s st.inst st.keySlot) x m .keySlotCorrupt
  else match beginGet s m.sid st.inst m.obj m.ext none with
    | none => refuseOpening s x m .inputInvalid
    | some (e, s1) =>
      let (o, s2) := peerOp s1 .getIn m.sid e m.obj m.ext x.fport.val x.carriage.val x.src
      let s3 := modStream (modFlow s2 e (fun f => { f with outOp := some o })) m.sid (fun y => { y with
        opening := false
        bound := some (y.bound.getD x.src) })
      startFlow (opAck s3 o) e

/-! ### The manifest (R265, R266) -/

/-- The lowest handle of an instance's loaded slots that holds a key of an algorithm with a given ID. -/
def slotWithId (s : State) (i alg : Nat) (f : Bytes → Bytes) (id : Bytes) : Option Nat :=
  (s.wch.slots.find? (fun e => e.1 / 16384 = i && e.2.alg = alg && !e.2.reserved && e.2.freeing.isNone && f (slotMaterial e.2) = id)).map
    (fun e => e.1 % 16384)

/-- Step 5 and 6 of R265: the extent key, and credit for the records; a migration's PUT begins. -/
def startRecords (s : State) (e : Nat) : State := match flowAt s e with
  | none => s
  | some f =>
    match f.mig with
    | none => match f.inOp with
      | some o => opGrant (modFlow s e (fun g => { g with stage := .records })) o
      | none => modFlow s e (fun g => { g with stage := .records })
    | some k =>
      let s0 := { s with mig := { s.mig with
        entries := s.mig.entries.map (fun m => if m.index = k then { m with oldSerial := f.serial } else m) } }
      match migEntry s0 k with
      | none => s0
      | some m => match beginPut s0 s0.mig.stream m.dstObj m.dstExt f.declLen (some k) with
        | .error st => failGet s0 e st true
        | .ok (p, s1) =>
          let s2 := { s1 with mig := { s1.mig with
            entries := s1.mig.entries.map (fun m => if m.index = k then { m with ext := some p } else m) } }
          let s3 := modFlow (startFlow s2 p) e (fun g => { g with stage := .records })
          match f.inOp with
          | some o => opGrant s3 o
          | none => s3

/-- Defer a check to the audit sweep (R267). -/
def deferAudit (s : State) (a : Audit) : State := modBore s (fun b => { b with audits := b.audits ++ [a] })

/-- Steps 2 to 4 of R265 on a whole manifest: keys, TAG_ROOT, the two signatures and the path. -/
def checkManifest (s : State) (e : Nat) (f : Flow) : State :=
  let m := manifestOf f.manifest
  let x := manifestId m.header
  if !manifestForm m || x.obj ≠ f.obj || x.ext ≠ f.ext then failGet s e .tagMismatch true
  else match slotWithId s f.inst 0x3110 archiveKeyId (slice m.header 64 16), slotWithId s f.inst 0x0203 (sigKeyId 0x0203) (slice m.header 80 32),
      slotWithId s f.inst 0x0302 (sigKeyId 0x0302) (slice m.header 112 32) with
    | some ka, some k1, some k2 =>
      match checkSlot s f.inst ka with
      | .error st => failGet (noteSlot s f.inst ka st) e st true
      | .ok slot =>
        let leaf := m.header ++ m.sig1
        let pathOk := verifyPath leaf m.leaf (be m.batch 10 2) m.path (slice m.batch 64 32) && slice m.batch 32 32 = slice m.header 112 32
        let strm := streamAt s f.sid
        let d1 := f.mig.isNone && (strm.elim false Stream.defer1)
        let d2 := f.mig.isNone && (strm.elim false Stream.defer2)
        if tagRoot m.tags ≠ slice m.header 152 32 then failGet s e .tagMismatch true
        else if !d2 && !pathOk then failGet s e .signatureInvalid true
        else
          let in1 := m.sig1 ++ ascii "SEF1 manifest" ++ m.header
          let in2 := m.sig2 ++ ascii "SEF1 batch" ++ m.batch
          let s1 := modFlow s e (fun g => { g with
            stage := .verify
            serial := x.serial
            declLen := x.len
            recCode := x.code
            key := extentKey (slotMaterial slot) x.serial })
          let (c1, s2) := if d1 then ([], deferAudit s1 ⟨f.inst, f.obj, f.ext, x.serial, false, k1, in1, [], true, none⟩)
            else
              let r := submitInternal s1 f.inst (forVerify1, e) 0x0203 opVerify k1 (ascii "SEF1 manifest") in1
              ([r.1], r.2)
          let (c2, s3) := if d2 then ([], deferAudit s2 ⟨f.inst, f.obj, f.ext, x.serial, true, k2, in2, [], pathOk, none⟩)
            else
              let r := submitInternal s2 f.inst (forVerify2, e) 0x0302 opVerify k2 (ascii "SEF1 batch") in2
              ([r.1], r.2)
          let s4 := modFlow s3 e (fun g => { g with checks := c1 ++ c2 })
          if c1 ++ c2 = [] then startRecords s4 e else s4
    | _, _, _ => failGet s e .keyNotLoaded true

/-- A verification job of a GET ended. -/
def verifyDone (s : State) (e k : Nat) (st : Status) : State := match flowAt s e with
  | none => s
  | some f =>
    if st = .ok || st = .okReplayed then
      let rest := f.checks.filter (· ≠ k)
      let s1 := modFlow s e (fun g => { g with checks := rest })
      if rest = [] && f.stage = .verify then startRecords s1 e else s1
    else failGet s e st true

/-- GET_DATA of a node that breaks a rule of its operation is answered by NAK with INPUT_INVALID, which ends the operation and the GET it
served (R297). -/
def getBad (s : State) (o e : Nat) : State :=
  failGet (modFlow (startWaiting (opNak s o .inputInvalid 0)) e (fun f => { f with inOp := none })) e .inputInvalid true

/-- A piece of the manifest (PART 1), next in order: 8,192 bytes, but for the last (R298); credit for the pieces still to come once its
length is known (R302). -/
def manifestPiece (s : State) (o e : Nat) (f : Flow) (m : PxtMsg) : State :=
  let b := f.manifest ++ m.body
  let whole : Bool := manifestLen b = some b.length
  if f.stage ≠ .manifest || 4096 * m.off ≠ f.manifest.length || 8192 < m.body.length || (m.body.length < 8192 && !whole) then getBad s o e
  else
    let s1 := opAck (modFlow s e (fun g => { g with manifest := b })) o
    match manifestLen b with
    | none => opCredit (modOp s1 o (fun x => { x with rxLimit := x.rxLimit + 1 })) o
    | some n =>
      if n < b.length then getBad s o e
      else if b.length = n then checkManifest s1 e { f with manifest := b }
      else opCredit (modOp s1 o (fun x => { x with rxLimit := x.rxNext + ceilDiv (n - b.length) 8192 })) o

/-! ### Records (R265, R298) -/

/-- The ciphertext length of a piece of `len` bytes that stands at byte `pos` of a record of `total` payload bytes; `none` where
R298 allows no such piece. -/
def pieceLen (pos total len : Nat) : Option Nat :=
  let h := if pos = 0 then 48 else 0
  let c := len - h - 16
  if h + 16 < len && pos + c = total && c ≤ 8192 then some c
  else if h < len && (len - h = 4096 || len - h = 8192) && pos + (len - h) < total then some (len - h) else none

/-- A piece of a sealed record (PART 0), next in order. A record sent before a fallback is passed over. -/
def recordPiece (s : State) (o e : Nat) (f : Flow) (m : PxtMsg) : State :=
  let n := 4096 * m.off
  let size := recSize f.recCode
  let i := n / size
  let total := recLen f.recCode f.declLen i
  if f.stage ≠ .records || n ≠ f.got || f.declLen ≤ n then getBad s o e
  else match pieceLen (n % size) total m.body.length with
    | none => getBad s o e
    | some c =>
      let r := tblGetD f.recs i Rec.init
      let inp := r.input ++ m.body
      let whole : Bool := n % size + c = total
      let r1 := { r with input := inp, whole := if whole then some s.brt.count else none }
      let s1 := modFlow s e (fun g => { g with
        got := n + c
        recs := if i < g.nextSend then g.recs else tblPut g.recs i r1 })
      opGrant (opAck s1 o) o

/-- Admit a record of a GET: it is unsealed, its header and its tag checked against the manifest (R265, R266). -/
def admitGet (s : State) (e i : Nat) (f : Flow) (r : Rec) : State :=
  if !admitFits s f r then s
  else
    let tag := slice f.manifest (184 + 16 * i) 16
    match unsealRecord f.key (sefIdOf f) i r.input with
    | none => failGet s e .tagMismatch true
    | some pt =>
      if recTag r.input ≠ tag then failGet s e .tagMismatch true
      else modRec s e i (fun r => { r with admitted := some s.brt.count, result := pt, ready := some s.brt.count })

/-- The plaintext of a record leaves toward the gateway, or into the PUT of a migration. -/
def sendPlain (s : State) (e i : Nat) (f : Flow) (r : Rec) : State :=
  let size := recSize f.recCode
  let s1 := modFlow s e (fun g => { g with
    nextSend := i + 1
    recs := tblDel g.recs i
    stage := if i + 1 = recCount f.recCode f.declLen then .delivered else g.stage })
  match f.outOp, f.mig with
  | some o, _ =>
    opSend s1 o ((payloadPieces (i * (size / 4096)) r.result).map (fun p => { opMsg tGetData f.sid f.obj f.ext with off := p.1, body := p.2 }))
  | none, some k => match migPut s1 k with
    | some p =>
      let s2 := modFlow s1 p (fun g => placeData s.brt.count 0 g (i * size) r.result)
      if i + 1 = recCount f.recCode f.declLen then endFlow s2 e else s2
    | none => s1
  | none, none => s1

/-- The gateway has acknowledged every GET_DATA: ACK DONE ends the GET (R304, R310). -/
def getCheckDone (s : State) (e : Nat) : State := match flowAt s e with
  | none => s
  | some f => match f.outOp with
    | none => s
    | some o => match tblGet s.pxt.ops o with
      | none => s
      | some x => if f.stage = .delivered && x.sent = [] && x.wait = [] then
          let s1 := match f.inOp with
            | some i => orphanOp s i
            | none => s
          endFlow (opDone s1 o 0) e
        else s

/-! ### The audit sweep (R267) -/

/-- Record a failed deferred check: the catalogue's record with serial and extent number, and the object ID, which its 16 bytes of DATA
have no room for, in a second record of the code (log 79). -/
def auditFail (s : State) (a : Audit) : State :=
  let s1 := logEvent (modBore s (fun b => { b with auditFailed := sat 16 (b.auditFailed + 1) })) 0x020D (leBytes 8 a.serial ++ leBytes 4 a.ext)
  logEvent s1 0x020D a.obj

/-- AUDIT_CHECK: the oldest deferred check without a job is run as a job of its instance. -/
def auditCheck (s : State) : State := match s.bore.audits.find? (fun a => a.job.isNone) with
  | none => s
  | some a =>
    let alg := if a.second then 0x0302 else 0x0203
    let ctx := if a.second then ascii "SEF1 batch" else ascii "SEF1 manifest"
    let (k, s1) := submitInternal s a.inst (forAudit, 0) alg opVerify a.slot ctx a.msg
    modBore s1 (fun b => { b with audits := listMod b.audits ((findIdx? (fun x => x = a) b.audits).getD 0) (fun x => { x with job := some k }) })

def execAuditCheck (s : State) : Host.Outcome State Fault Refusal :=
  whenRunning s (if s.dev.halting then s else auditCheck s)

/-- A deferred check's job ended. -/
def auditDone (s : State) (k : Nat) (st : Status) : State := match s.bore.audits.find? (fun a => a.job = some k) with
  | none => s
  | some a =>
    let s1 := modBore s (fun b => { b with audits := b.audits.filter (fun x => x.job ≠ some k) })
    if (st = .ok || st = .okReplayed) && a.pathOk then s1 else auditFail s1 a

end Sys2Proof.Machine
end

