-- ==== Sys2Proof/Machine/Transit.lean ====
section
/-! DEFINITION. TRANSIT links (R269 to R271, R311 to R314): the sending and the receiving stream, sealed KEEPALIVEs, epochs; and
RECORD_ADMIT and RECORD_SEND over every kind of flow. -/

namespace Sys2Proof.Machine

/-! ### Numbers and keys -/

/-- A frame's number on the sealed hop: epoch and counter; its low 32 bits are the counter's (R311, R313). -/
def linkNumber (epoch c : Nat) : Nat := 2 ^ 36 * epoch + c

/-- The key of epoch `e` of a stream under the stream key in a slot (R269). -/
def linkKey (s : State) (x : Stream) (slot e : Nat) : Bytes := match slotAt s x.inst slot with
  | some k => transitKey (slotMaterial k) x.linkId e
  | none => zeros 32

/-! ### Opening (R312) -/

/-- A standing operation. -/
def standing (kind : HopKind) (sid e fport carriage : Nat) (peer : Peer) (rxLimit txLimit : Nat) : HopOp :=
  ⟨kind, sid, zeros 16, 0, fport, carriage, peer, none, e, 0, rxLimit, none, 0, txLimit, [], [], 0, 0⟩

def noPeer : Peer := ⟨0, 0⟩

/-- The flow and the two standing operations of a TRANSIT stream. The sealed hop begins with one frame of credit (log 41). -/
def openLink (s : State) (sid : Nat) (x : Stream) : State :=
  if x.cls ≠ .transit then s
  else
    let kind : FlowKind := if x.receive then .linkIn else .linkOut
    let (e, s1) := newFlow s { Flow.init kind sid x.inst (zeros 16) 0 with stage := .isOpen }
    let plain := if x.receive then standing .plainOut sid e x.plainPort x.carriage x.endpoint 0 0
      else standing .plainIn sid e x.plainPort x.carriage noPeer 0 0
    let far := if x.receive then standing .sealedIn sid e x.sealedPort x.carriage noPeer 1 0
      else standing .sealedOut x.remote e x.sealedPort x.carriage x.endpoint 0 1
    let (o, s2) := addOp s1 plain
    let (q, s3) := addOp s2 far
    modFlow s3 e (fun f => if x.receive then { f with inOp := some q, outOp := some o } else { f with inOp := some o, outOp := some q })

/-- The link's flow. -/
def linkOf (s : State) (sid : Nat) : Option (Nat × Flow) :=
  s.bore.flows.find? (fun e => e.2.sid = sid && (e.2.kind = .linkOut || e.2.kind = .linkIn))

/-! ### The sending stream (R311, R314) -/

/-- Acknowledge to the plain-side peer what the remote device has acknowledged. -/
def linkAck (s : State) (o got : Nat) : State := match tblGet s.pxt.ops o with
  | none => s
  | some x => opTx s o (pxtBytes { opMessage x tAck with seq := got + 2 ^ 32 - 1, body := ackBody 0 })

/-- A confirmed counter value is left, and the link may seal (R45, R270). -/
def counterLeft (s : State) (x : Stream) : Bool := s.dev.mode ≠ .recover && x.counter < x.ceiling && x.counter < epochFrames

/-- Credit on the plain hop, withheld while no confirmed value is left. -/
def linkGrant (s : State) (sid o : Nat) : State := match streamAt s sid with
  | some x => if counterLeft s x then opGrant s o else s
  | none => s

/-- PUT_DATA from the plain-side peer. -/
def linkData (s : State) (sid o e : Nat) (x : PxtIn) (m : PxtMsg) : State := match tblGet s.pxt.ops o, flowAt s e, streamAt s sid with
  | some op, some f, some st =>
    if st.destroy then dropNoMatch s
    else if streamKeyBad s st.inst st.keySlot then replyNak (markCorrupt s st.inst st.keySlot) x m .keySlotCorrupt 0
    else if m.body.length = 0 || 8192 < m.body.length then replyNak s x m .inputInvalid 0
    else match seqOutcome op m.seq with
      | .next =>
        let r : Rec := { Rec.init with hdr := pxtHeader m, input := m.body, whole := some s.brt.count, firstSeq := op.rxNext }
        linkGrant (modFlow (seqTake s o) e (fun g => { g with recs := tblPut g.recs op.rxNext r })) sid o
      | .duplicate => linkAck s o f.got
      | .gap => seqReject s o op .gap
      | .beyond => seqReject s o op .beyond
  | _, _, _ => s

/-- The header of a sealed frame. -/
def sealedHeader (x : Stream) (typ c : Nat) (plain : PxtMsg) (len : Nat) : Bytes :=
  pxtHeader { opMsg typ x.remote plain.obj plain.ext with
    epoch := x.epoch % 2 = 1
    seq := c % 2 ^ 32
    off := plain.off
    body := zeros (len + 16) }

/-- The sealed KEEPALIVE with which a link resumes at a higher counter (R313). -/
def resumeLink (s : State) (sid e o : Nat) (x : Stream) : State := match tblGet s.pxt.ops o with
  | none => s
  | some op =>
    let h := sealedHeader x tKeepalive x.counter (opMsg tKeepalive sid (zeros 16) 0) 0
    let b := h ++ (gcmSeal (linkKey s x x.keySlot x.epoch) (transitIv x.epoch x.counter) h []).2
    let n := linkNumber x.epoch x.counter
    let s1 := modStream s sid (fun y => { y with counter := y.counter + 1 })
    let s2 := modOp (modFlow s1 e (fun f => { f with stage := .isOpen })) o (fun y => { y with
      txLimit := n + 1 + (op.txLimit - op.txNext)
      txNext := n + 1
      sent := y.sent ++ [(n, b)]
      since := s.brt.count })
    opTx s2 o b

/-- The oldest frame not yet admitted. -/
def firstUnadmitted (f : Flow) : Option Nat := (f.recs.find? (fun r => r.2.admitted.isNone)).map (·.1)

/-- A frame with a parity error is asked for again from its sender; those after it come again too (R281, R306). -/
def linkAskAgain (s : State) (e i : Nat) (f : Flow) (r : Rec) : State := match f.inOp with
  | none => s
  | some o =>
    let s1 := modFlow s e (fun g => { g with recs := g.recs.filter (fun x => x.2.admitted.isSome || decide (x.1 < i)) })
    opResendFrom (modOp s1 o (fun x => { x with rxNext := r.firstSeq })) o (r.firstSeq % 2 ^ 32)

/-- Admit a frame of a sending link: an installed epoch takes effect, the next counter seals it. -/
def admitLinkOut (s : State) (e i : Nat) (f : Flow) (r : Rec) (parity : Bool) : State :=
  if firstUnadmitted f ≠ some i || s.dev.mode = .recover then s
  else if parity then linkAskAgain s e i f r
  else
    let s0 := epochBoundary s f.sid
    match streamAt s0 f.sid, f.outOp with
    | some x, some o =>
      if !counterLeft s0 x || (x.echo && echoPipesOf s0 f = []) || !admitFits s0 f r then s0
      else if f.stage = .opening then resumeLink s0 f.sid e o x
      else
        let h := sealedHeader x tPutData x.counter (pxtOfBytes r.hdr) r.input.length
        let c := gcmSeal (linkKey s0 x x.keySlot x.epoch) (transitIv x.epoch x.counter) h r.input
        let (strips, s1) := newStrips (sealPipesOf s0 f) (echoPipesOf s0 f) (if x.echo then ceilDiv r.input.length 4096 else 0) s0
        let s2 := modStream s1 f.sid (fun y => { y with counter := y.counter + 1 })
        modRec s2 e i (fun r => { r with
          admitted := some s.brt.count
          result := h ++ c.1 ++ c.2
          strips := strips
          epoch := x.epoch
          counter := x.counter
          ready := if x.echo then none else some s.brt.count })
    | _, _ => s0

/-- A sealed frame leaves, within the remote device's credit. -/
def sendLinkOut (s : State) (e i o : Nat) (r : Rec) : State := match tblGet s.pxt.ops o with
  | none => s
  | some op =>
    if op.txLimit ≤ op.txNext then s
    else
      let n := linkNumber r.epoch r.counter
      let s1 := modOp s o (fun y => { y with
        txLimit := n + (op.txLimit - op.txNext)
        txNext := n + 1
        sent := y.sent ++ [(n, r.result)]
        since := if y.sent = [] then s.brt.count else y.since })
      opTx (modFlow s1 e (fun g => { g with nextSend := i + 1, recs := tblDel g.recs i })) o r.result

/-- The sent frames up to the last one whose number ends in `w`. -/
def throughNumber (w : Nat) : List (Nat × Bytes) → Nat → Option Nat → Option Nat
  | [], _, acc => acc
  | e :: rest, k, acc => throughNumber w rest (k + 1) (if e.1 % 2 ^ 32 = w then some (k + 1) else acc)

/-- The remote device's ACK on the sealed hop: frames it covers are freed and acknowledged to the plain-side peer (R314). -/
def linkAcked (s : State) (o e w : Nat) : State := match tblGet s.pxt.ops o, flowAt s e with
  | some op, some f => match throughNumber w op.sent 0 none with
    | none => s
    | some k =>
      let data := ((op.sent.take k).filter (fun m => (pxtOfBytes m.2).typ = tPutData)).length
      let s1 := modOp s o (fun y => { y with sent := y.sent.drop k, since := s.brt.count, timeouts := 0 })
      let s2 := modFlow s1 e (fun g => { g with got := g.got + data })
      match f.inOp with
      | some p => settleStream (linkGrant (if data = 0 then s2 else linkAck s2 p (f.got + data)) f.sid p) f.sid
      | none => s2
  | _, _ => s

/-- NAK with status OK on the sealed hop: resend the stored frames from a number, never a reseal (R313). -/
def linkResend (s : State) (o w : Nat) : State := match tblGet s.pxt.ops o with
  | none => s
  | some op =>
    let k := (findIdx? (fun m => m.1 % 2 ^ 32 = w) op.sent).getD 0
    (op.sent.drop k).foldl (fun t m => opTx t o m.2) (modOp s o (fun y => { y with since := s.brt.count }))

/-- TRANSIT_EPOCH_ADVANCE: after frame 2^36 − 1 the stream takes epoch e + 1 on its own (R269). -/
def epochAdvance (s : State) (sid : Nat) : State := match streamAt s sid with
  | some x => if x.cls = .transit && !x.receive && epochFrames ≤ x.counter then takeEpoch s sid else s
  | none => s

def execTransitEpochAdvance (sid : Nat) (s : State) : Host.Outcome State Fault Refusal := whenRunning s (epochAdvance s sid)

/-! ### The receiving stream (R271, R311, R313) -/

/-- The epoch a frame's EPOCH bit names, the counter expected in it, and the slot of its key: the next epoch starts at 0 under the stream
key in force on the stream, an installed one first. -/
def rxEpoch (x : Stream) (bit : Bool) : Nat × Nat × Nat :=
  if bit = (x.epoch % 2 = 1) then (x.epoch, x.counter, x.keySlot) else (x.epoch + 1, 0, x.nextSlot.getD x.keySlot)

/-- A frame or KEEPALIVE verified: the receiver binds its source, moves to its epoch and expects the counter after it. `used` is the
credit it took. -/
def rxAdvance (s : State) (sid o : Nat) (x : PxtIn) (e c used : Nat) : State := match streamAt s sid, tblGet s.pxt.ops o with
  | some st, some op =>
    let s1 := if e ≠ st.epoch then takeEpoch s sid else s
    let s2 := modStream s1 sid (fun y => { y with counter := c + 1, bound := some (y.bound.getD x.src) })
    let n := linkNumber e (c + 1)
    modOp s2 o (fun y => { y with
      rxLimit := n + (op.rxLimit - op.rxNext - used)
      rxNext := n
      rxNak := none
      peer := x.src
      fport := x.fport.val })
  | _, _ => s

/-- A frame whose tag fails is discarded and NAKed (R271). -/
def rxBadTag (s : State) (x : PxtIn) (m : PxtMsg) (expected : Nat) : State :=
  txFrame (dropTag s) x.fport.val x.src x.carriage.val (pxtBytes { opMsg tNak m.sid m.obj m.ext with
    seq := expected % 2 ^ 32
    body := nakBody (statusCode .tagMismatch) 0 })

/-- A sealed PUT_DATA from the remote device. -/
def linkRx (s : State) (sid o e : Nat) (x : PxtIn) (m : PxtMsg) : State := match streamAt s sid, tblGet s.pxt.ops o with
  | some st, some op =>
    let (ep, c, slot) := rxEpoch st m.epoch
    let at0 := { op with peer := x.src, fport := x.fport.val }
    if streamKeyBad s st.inst slot then replyNak (markCorrupt s st.inst slot) x m .keySlotCorrupt 0
    else match seqAbove c m.seq with
    | none => opAck (modOp s o (fun _ => at0)) o
    | some n =>
      if n ≠ c then (if op.rxNak = some s.brt.count then s else opResendFrom (modOp s o (fun _ => at0)) o (c % 2 ^ 32))
      else if op.rxLimit ≤ op.rxNext then opCredit (dropCredit (modOp s o (fun _ => at0))) o
      else if m.body.length < 17 || 8208 < m.body.length then replyNak s x m .inputInvalid 0
      else
        let key := linkKey s st slot ep
        let ct := m.body.take (m.body.length - 16)
        let h := pxtHeader m
        if gcmTag key (transitIv ep c) h ct ≠ m.body.drop (m.body.length - 16) then rxBadTag s x m c
        else
          let s1 := rxAdvance s sid o x ep c 1
          match flowAt s1 e with
          | none => s1
          | some f =>
            let r : Rec := { Rec.init with hdr := h, input := gcmOpenRaw key (transitIv ep c) ct, whole := some s.brt.count, epoch := ep, counter := c }
            opGrant (opAck (modFlow s1 e (fun g => { g with got := f.got + 1, recs := tblPut g.recs f.got r })) o) o
  | _, _ => s

/-- A sealed KEEPALIVE: its tag verifies and its counter lies above the expected one; then the counter after it is expected. -/
def linkKeepalive (s : State) (sid o : Nat) (x : PxtIn) (m : PxtMsg) : State := match streamAt s sid with
  | none => s
  | some st =>
    let (ep, c, slot) := rxEpoch st m.epoch
    match seqAbove c m.seq with
    | none => dropTag s
    | some n =>
      if n = c || m.body.length ≠ 16 || gcmTag (linkKey s st slot ep) (transitIv ep n) (pxtHeader m) [] ≠ m.body then dropTag s
      else rxAdvance s sid o x ep n 0

/-- Admit a received frame to the unseal pipes. -/
def admitLinkIn (s : State) (e i : Nat) (f : Flow) (r : Rec) : State :=
  if !admitFits s f r then s
  else modRec s e i (fun r => { r with admitted := some s.brt.count, result := r.input, ready := some s.brt.count })

/-- The plaintext of a frame leaves toward the plain-side peer, within its credit; identifiers pass through. -/
def sendLinkIn (s : State) (e i o : Nat) (f : Flow) (r : Rec) : State :=
  let h := pxtOfBytes r.hdr
  opSend (modFlow s e (fun g => { g with nextSend := i + 1, recs := tblDel g.recs i })) o
    [{ opMsg tPutData f.sid h.obj h.ext with off := h.off, body := r.result }]

/-! ### RECORD_ADMIT and RECORD_SEND -/

/-- A parity error in the plaintext of a record that is sealed and not acknowledged: it is asked for again (R281). -/
def plainLost (s : State) (e i : Nat) (f : Flow) (r : Rec) : State :=
  if f.kind = .put && r.admitted.isSome && r.whole.isSome && r.input ≠ [] && !s.dev.halting then askAgain s e i f r else s

/-- A record or frame is admitted at the first inhale after its last byte arrived (R255). -/
def recordAdmit (s : State) (e i : Nat) (parity : Bool) : State := match flowAt s e with
  | none => s
  | some f => match tblGet f.recs i with
    | none => s
    | some r =>
      if !admitDue s r then (if parity then plainLost s e i f r else s)
      else match f.kind with
        | .put => if f.stage = .isOpen then admitPut s e i f r parity else s
        | .get => if f.stage = .records then admitGet s e i f r else s
        | .linkOut => admitLinkOut s e i f r parity
        | .linkIn => admitLinkIn s e i f r

def execRecordAdmit (e i : Nat) (parity : Bool) (s : State) : Host.Outcome State Fault Refusal := whenRunning s (recordAdmit s e i parity)

/-- The next record of a flow leaves. A frame hit by parity while it is sent ends with an invalid FCS and leaves again (R281). -/
def recordSend (s : State) (e : Nat) (parity : Bool) : State := match flowAt s e with
  | none => s
  | some f => match tblGet f.recs f.nextSend with
    | none => s
    | some r =>
      let o := (f.outOp.getD 0)
      if !sendDue s r then s
      else if parity && sealsFlow f then emit s (.badFcs ((tblGet s.pxt.ops o).elim 0 HopOp.fport))
      else match f.kind with
        | .put => sendSealed s e f.nextSend o f r
        | .get => sendPlain s e f.nextSend f r
        | .linkOut => sendLinkOut s e f.nextSend o r
        | .linkIn => sendLinkIn s e f.nextSend o f r

def execRecordSend (e : Nat) (parity : Bool) (s : State) : Host.Outcome State Fault Refusal := whenRunning s (recordSend s e parity)

end Sys2Proof.Machine
end

