-- ==== Sys2Proof/Machine/Fabric.lean ====
section
/-! DEFINITION. What arrives on fabric ports and what their timers do (R286 to R290, R294 to R307, R312, R315, R320). -/

namespace Sys2Proof.Machine

/-! ### Receive buffers and PFC (R287) -/

/-- Bytes of a port's receive buffer. -/
def rxBufferOf (f : FabCfg) : Nat := 262144 * f.lanes

/-- XOFF on a port's PCP. -/
def pfcStop (s : State) (p : Nat) (f : FabCfg) : State :=
  if f.pfc && !(fabPort s p).xoffSent then emit (modFab s p (fun y => { y with xoffSent := true })) (.pfc p f.pcp true) else s

/-- A frame enters the port's buffer, which drains meanwhile at the device's own pace; at three quarters it sends XOFF. -/
def rxFill (s : State) (p : Nat) (f : FabCfg) (n : Nat) : State :=
  let x := fabPort s p
  let (d, s1) := freshChoice (x.fill + n + 1) s
  let fill := x.fill + n - d
  let s2 := modFab s1 p (fun y => { y with fill := fill })
  if 3 * rxBufferOf f ≤ 4 * fill then pfcStop s2 p f else s2

/-! ### The pipes MACsec takes (R289) -/

/-- A MACsec port that lacks pipe time is held back by PFC. -/
def macsecHold (s : State) : State := match s.charts.inForce with
  | none => s
  | some c => (c.fabric.filter (fun e => e.2.macsec)).foldl (fun t e => pfcStop t e.1 e.2) s

/-- At an inhale MACsec takes lookaside pipes, ahead of the slices, for the frames of the breath that ended: 16 bytes a cycle each.
What the group is too small for waits, and holds the ports back (log 78). -/
def macsecInhale (s : State) : State :=
  let per := 16 * breathLen s
  let n := min (groupPipes s .lookG).length (ceilDiv s.pxt.macBytes per)
  let left := s.pxt.macBytes - n * per
  let s1 := modPxt s (fun x => { x with macBytes := left, macPipes := n, macHeld := decide (0 < left) })
  if left = 0 then s1 else macsecHold s1

/-- PFC_XON_SEND: the buffer has drained to half, and MACsec does not hold the port back. -/
def pfcXon (s : State) (p : Nat) : State := match fabCfg s p with
  | none => s
  | some f =>
    let x := fabPort s p
    if !x.xoffSent || s.dev.mode = .shadow || (f.macsec && s.pxt.macHeld) then s
    else emit (modFab s p (fun y => { y with fill := min y.fill (rxBufferOf f / 2), xoffSent := false })) (.pfc p f.pcp false)

def execPfcXonSend (p : Fin 64) (s : State) : Host.Outcome State Fault Refusal := whenRunning s (pfcXon s p.val)

/-- PFC_XOFF_RECEIVE: transmission on a priority pauses; a pause of 0 ends it. -/
def pfcXoff (s : State) (p prio quanta : Nat) : State := match fabCfg s p with
  | none => s
  | some f =>
    if !f.pfc then s
    else if quanta = 0 then txFlush (modFab s p (fun y => { y with xoffRcvd := y.xoffRcvd - flag (bitOf y.xoffRcvd prio) * 2 ^ prio })) p
    else modFab s p (fun y => { y with xoffRcvd := y.xoffRcvd ||| 2 ^ prio })

def execPfcXoffReceive (p : Fin 64) (prio : Fin 8) (quanta : BitVec 16) (s : State) : Host.Outcome State Fault Refusal :=
  whenRunning s (pfcXoff s p.val prio.val quanta.toNat)

/-- The pause time of a priority is over. -/
def execPfcPauseTimeExpire (p : Fin 64) (prio : Fin 8) (s : State) : Host.Outcome State Fault Refusal :=
  whenRunning s (pfcXoff s p.val prio.val 0)

/-! ### Links and MACsec (R285, R288, R290, R428) -/

/-- LINK_UP: a formed port's link is up, a fabric port's with every lane of a used port at the speed of its quad mode (R285); what waited
is sent. -/
def linkUpOp (s : State) (l : LinkName) (width speed : Nat) : State := match l with
  | .host p =>
    let h := portAt s p.val
    if h.formed && (width = 1 || width = 2 || width = 4 || width = 8 || (width = 16 && h.x16)) && 1 ≤ speed && speed ≤ 5 then
      modPort s p.val (fun h => { h with width := width, speed := speed })
    else s
  | .fabric p => match fabCfg s p.val with
    | none => s
    | some f => if f.role ≠ 0 && width = f.lanes && speed = laneSpeed f.lanes then
        txFlush (modFab s p.val (fun y => { y with linkUp := true })) p.val else s

/-- LINK_DOWN. -/
def linkDownOp (s : State) (l : LinkName) : State := match l with
  | .host p => modPort s p.val (fun h => { h with width := 0, speed := 0 })
  | .fabric p => if (fabCfg s p.val).isSome then modFab s p.val (fun y => { y with linkUp := false }) else s

def execLinkUp (l : LinkName) (width speed : Nat) (s : State) : Host.Outcome State Fault Refusal := whenLive s (linkUpOp s l width speed)
def execLinkDown (l : LinkName) (s : State) : Host.Outcome State Fault Refusal := whenLive s (linkDownOp s l)

/-- SAK_INSTALL: the SAK is the next epoch of the port's transmit channel, which needs a CAK; on receive it is taken beside the one before
it, until MKA retires that, whose SAK is then erased. -/
def sakInstall (s : State) (p an : Nat) (op : SakOp) : State := match fabCfg s p with
  | none => s
  | some f =>
    if !f.macsec || (fabPort s p).cak = [] then s
    else match op with
      | .install sak salt ssci peerSsci peerSci =>
        txFlush (emit (modFab s p (fun y => { y with
          sas := tblPut y.sas an ⟨sak, salt, ssci, peerSsci, peerSci, 1⟩
          nextAn := some an })) (.macsecSa p an)) p
      | .retire => modFab s p (fun y => { y with
          sas := tblDel y.sas an
          txAn := if y.txAn = some an then none else y.txAn
          nextAn := if y.nextAn = some an then none else y.nextAn })

def execSakInstall (p : Fin 64) (an : Fin 4) (op : SakOp) (s : State) : Host.Outcome State Fault Refusal :=
  whenRunning s (sakInstall s p.val an.val op)

/-- The PAE group address. -/
def paeGroup : BitVec 48 := 0x0180C2000003

/-- EAPOL_RECEIVE: passed to the management controller on a MACsec port; elsewhere a frame of another protocol. -/
def eapolReceive (s : State) (p : Nat) (dst : BitVec 48) (bs : Bytes) : State := match fabCfg s p with
  | none => s
  | some f =>
    if !(fabPort s p).linkUp || !fabricServes s then s
    else if f.macsec && dst = paeGroup then emit s (.eapol p bs) else dropBad s

def execEapolReceive (p : Fin 64) (dst : BitVec 48) (bs : Bytes) (s : State) : Host.Outcome State Fault Refusal :=
  whenRunning s (eapolReceive s p.val dst bs)

/-! ### Unreachable peers (R307) -/

/-- A peer is unreachable for an operation. -/
def opUnreachable (s : State) (o : Nat) : State := match tblGet s.pxt.ops o with
  | none => s
  | some x =>
    let s0 := match x.node with
      | some n => modPxt s (fun y => { y with unreachable := if y.unreachable.contains n then y.unreachable else n :: y.unreachable })
      | none => s
    let gone := modPxt s0 (fun y => { y with ops := tblDel y.ops o })
    match x.kind with
    | .putOut => if x.flow = 0 then startWaiting gone else abortPut s0 x.flow .aborted
    | .getOut => if x.flow = 0 then startWaiting gone else getFallback gone x.flow true
    | .getIn => failGet s0 x.flow .aborted false
    | .putIn | .plainIn | .plainOut | .sealedOut | .sealedIn => s0

/-- A message that carries a record or plaintext: while halting none leaves the bore again (R47). -/
def carriesData (b : Bytes) : Bool := byteAt b 0 % 16 = tPutData || byteAt b 0 % 16 = tGetData

/-- RETRANSMIT_TIMEOUT: resend from the oldest message not acknowledged; after RETRY_MAX in a row the peer is unreachable (R305). -/
def retransmit (s : State) (o : Nat) : State := match tblGet s.pxt.ops o with
  | none => s
  | some x =>
    if x.sent = [] || s.brt.count < x.since + 2 ^ (pxtCfg s).retryLog2 || !fabricServes s then s
    else
      let s1 := modOp s o (fun y => { y with timeouts := y.timeouts + 1, since := s.brt.count })
      if x.timeouts + 1 = (pxtCfg s).retryMax then opUnreachable s1 o
      else (x.sent.filter (fun e => !s.dev.halting || !carriesData e.2)).foldl (fun t e => opTx t o e.2) s1

def execRetransmitTimeout (o : Nat) (s : State) : Host.Outcome State Fault Refusal := whenRunning s (retransmit s o)

/-- The liveness key of a peer. -/
def peerKey : PeerName → Nat
  | .node n => n
  | .gateway sid => gatewayKey sid

/-- KEEPALIVE_SEND: to a peer with an open operation that has been sent nothing for the interval. -/
def keepaliveSend (s : State) (n : PeerName) : State := match (opsAt s (peerKey n)).head? with
  | none => s
  | some (_, x) =>
    if !fabricServes s || s.brt.count < tblGetD s.pxt.quiet (peerKey n) 0 + 2 ^ (pxtCfg s).keepaliveLog2 then s
    else noteSent (txFrame s x.fport x.peer x.carriage (pxtBytes (nodeMsg tKeepalive 0))) (peerKey n)

def execKeepaliveSend (n : PeerName) (s : State) : Host.Outcome State Fault Refusal := whenRunning s (keepaliveSend s n)

/-- PEER_SILENCE_TIMEOUT: a silent peer is unreachable for every operation. -/
def peerSilence (s : State) (n : PeerName) : State :=
  if !fabricServes s || s.brt.count < tblGetD s.pxt.heard (peerKey n) 0 + 2 ^ ((pxtCfg s).keepaliveLog2 + 2) then s
  else ((opsAt s (peerKey n)).map (·.1)).foldl opUnreachable s

def execPeerSilenceTimeout (n : PeerName) (s : State) : Host.Outcome State Fault Refusal := whenRunning s (peerSilence s n)

/-! ### Plain-side messages of PRESERVE streams -/

/-- The operation of a stream's plain hop that a message names. -/
def plainOp (s : State) (m : PxtMsg) : Option (Nat × HopOp) :=
  s.pxt.ops.find? (fun e => (e.2.kind = .putIn || e.2.kind = .getIn) && e.2.sid = m.sid && e.2.obj = m.obj && e.2.ext = m.ext)

/-- A sequenced message that breaks a rule of its operation ends it with INPUT_INVALID (R297). -/
def plainBad (s : State) (x : HopOp) : State :=
  if x.kind = .putIn then abortPut s x.flow .inputInvalid else failGet s x.flow .inputInvalid true

/-- An opening message (R300, R301). -/
def plainOpening (s : State) (x : PxtIn) (m : PxtMsg) (st : Stream) : State :=
  match plainOpen s m.sid with
  | some (o, op) =>
    if op.obj = m.obj && op.ext = m.ext then (if m.seq = 0 then opAck s o else plainBad s op)
    else replyNak s x m .inputInvalid 0
  | none =>
    if m.seq ≠ 0 then dropNoMatch s
    else if !st.opening then
      txFrame (dropCredit s) x.fport.val x.src x.carriage.val (pxtBytes (opMsg tCredit m.sid (zeros 16) 0))
    else if m.typ = tPutBegin then putOpen s x m else getOpen s x m st

/-- PUT_DATA or PUT_END of a gateway. -/
def plainPut (s : State) (m : PxtMsg) : State := match plainOp s m with
  | none => dropNoMatch s
  | some (o, op) =>
    if op.kind ≠ .putIn then plainBad s op
    else match seqOutcome op m.seq with
      | .next => if m.typ = tPutData then putTake (seqTake s o) o op.rxNext op.flow m else putFinish (seqTake s o) o op.flow
      | w => seqReject s o op w

/-- What a gateway receives of a GET: ACK, NAK, CREDIT; and FLUSH of either. -/
def plainOther (s : State) (m : PxtMsg) : State := match plainOp s m with
  | none => dropNoMatch s
  | some (o, op) =>
    if m.typ = tFlush then (if op.kind = .putIn then abortPut s op.flow .aborted else failGet s op.flow .aborted true)
    else if op.kind = .putIn then s
    else if m.typ = tAck then getCheckDone (opAcked s o m.seq) op.flow
    else if m.typ = tCredit then opLimit s o m.seq
    else if be m.body 0 2 = 0 then opResend s o m.seq
    else failGet s op.flow (statusOfCode (be m.body 0 2)) false

def plainPreserve (s : State) (x : PxtIn) (m : PxtMsg) (st : Stream) : State :=
  if m.typ = tPutBegin || m.typ = tGetReq then plainOpening s x m st
  else if m.typ = tPutData || m.typ = tPutEnd then plainPut s m
  else if m.typ = tKeepalive then s
  else if m.typ = tAck || m.typ = tNak || m.typ = tCredit || m.typ = tFlush then plainOther s m
  else match plainOp s m with
    | none => dropNoMatch s
    | some (_, op) => plainBad s op

/-! ### Plain-side messages of TRANSIT streams (R311, R312) -/

/-- A sending stream's plain hop binds its peer at its first message. -/
def bindPlain (s : State) (sid o : Nat) (x : PxtIn) (st : Stream) : State :=
  if st.receive || st.bound.isSome then s
  else modOp (modStream s sid (fun y => { y with bound := some x.src })) o (fun y => { y with peer := x.src })

def plainTransit (s0 : State) (x : PxtIn) (m : PxtMsg) (st : Stream) : State := match linkOf s0 m.sid with
  | none => dropNoMatch s0
  | some (e, f) =>
    let o := (if st.receive then f.outOp else f.inOp).getD 0
    let s := bindPlain s0 m.sid o x st
    if m.typ = tPutData && !st.receive then linkData s m.sid o e x m
    else if m.typ ≤ tAbort || m.typ = tFlush then replyNak s x m .inputInvalid 0
    else if !st.receive || m.typ = tKeepalive then s
    else if m.typ = tAck then settleStream (opAcked s o m.seq) m.sid
    else if m.typ = tCredit then opLimit s o m.seq
    else if be m.body 0 2 = 0 then opResend s o m.seq
    else s

/-- The peer R294 lets a stream hear on its plain side; `none` before the first. -/
def plainPeer (st : Stream) : Option Peer := if st.cls = .transit && st.receive then some st.endpoint else st.bound

/-- Answers of a device that halts (R47). -/
def haltingAnswer (s : State) (x : PxtIn) (m : PxtMsg) : State :=
  if m.typ ≤ tGetReq then replyNak s x m .deviceHalting 0 else s

/-- A message of a stream on a plain-side port: its source is the bound one, its stream is cached (R243). -/
def rxPlain (s : State) (x : PxtIn) (m : PxtMsg) : State := match streamAt s m.sid with
  | none => dropNoMatch s
  | some st =>
    if st.cls = .lookaside || st.plainPort ≠ x.fport.val || st.carriage ≠ x.carriage.val ||
        (match plainPeer st with
          | some p => !peerIs x.carriage.val p x.src
          | none => false) then dropNoMatch s
    else if s.dev.halting then haltingAnswer s x m
    else if !st.cached then modStream s m.sid (fun y => { y with loading := true, held := y.held ++ [x] })
    else
      let s1 := noteHeard (modStream s m.sid (fun y => { y with used := s.brt.count })) (gatewayKey m.sid)
      if st.cls = .preserve then plainPreserve s1 x m st else plainTransit s1 x m st

/-! ### Sealed-side messages -/

/-- The operation at a node that a message names. -/
def sealedOp (s : State) (x : PxtIn) (m : PxtMsg) : Option (Nat × HopOp) :=
  s.pxt.ops.find? (fun e => e.2.node.isSome && e.2.sid = m.sid && e.2.obj = m.obj && e.2.ext = m.ext && e.2.fport = x.fport.val &&
    e.2.carriage = x.carriage.val && peerIs x.carriage.val e.2.peer x.src)

/-- The node ended its operation: it is closed and its opening free. -/
def nodeClosed (s : State) (o : Nat) : State := startWaiting (modPxt s (fun y => { y with ops := tblDel y.ops o }))

/-- The extent that a PUT at a node served is aborted, ABORT_EXTENT first; then the operation, which the node's NAK or FLUSH or the device's
own NAK ends, is closed (R280, R300). -/
def putCut (s : State) (x : HopOp) (st : Status) : State := if x.flow = 0 then s else abortPut s x.flow st

/-- A node breaks a rule: NAK ends its operation and what it served. -/
def nodeBad (s : State) (o : Nat) (x : HopOp) : State :=
  if x.kind = .putOut then startWaiting (opNak (putCut s x .inputInvalid) o .inputInvalid 0)
  else if x.flow = 0 then startWaiting (opNak s o .inputInvalid 0) else getBad s o x.flow

/-- A node's ACK DONE. -/
def nodeDone (s : State) (o : Nat) (x : HopOp) (_ : PxtMsg) : State :=
  if x.flow = 0 then nodeClosed s o
  else match flowAt s x.flow with
    | none => nodeClosed s o
    | some f =>
      if x.kind = .putOut then
        if f.stage = .delivered && x.wait = [] then putStored (nodeClosed s o) x.flow else s
      else if (f.stage = .records || f.stage = .delivered) && f.got = f.declLen then
        nodeClosed (modFlow s x.flow (fun f => { f with inOp := none })) o
      else nodeBad s o x

/-- A node's NAK with a status other than OK. -/
def nodeNak (s : State) (o : Nat) (x : HopOp) (m : PxtMsg) : State :=
  let st := statusOfCode (be m.body 0 2)
  let s1 := nodeClosed s o
  if x.kind = .putOut then nodeClosed (putCut s x st) o
  else if x.flow = 0 then s1
  else if st = .inputInvalid then getFallback (modFlow s1 x.flow (fun f => { f with inOp := none })) x.flow false
  else failGet (modFlow s1 x.flow (fun f => { f with inOp := none })) x.flow st true

/-- GET_DATA from a node. -/
def nodeData (s : State) (o : Nat) (x : HopOp) (m : PxtMsg) : State :=
  if x.kind ≠ .getOut then nodeBad s o x
  else match seqOutcome x m.seq with
    | .next =>
      let s1 := seqTake s o
      match flowAt s1 x.flow with
      | none => opAck s1 o
      | some f => if x.flow = 0 then opAck s1 o
          else if m.part then manifestPiece s1 o x.flow f m else recordPiece s1 o x.flow f m
    | w => seqReject s o x w

def rxNodeOp (s : State) (o : Nat) (x : HopOp) (m : PxtMsg) : State :=
  if m.typ = tAck then
    let s1 := freeAcked (opAcked s o m.seq) o
    if m.done then nodeDone s1 o x m else s1
  else if m.typ = tNak then (if be m.body 0 2 = 0 then freeAcked (opResend s o m.seq) o else nodeNak s o x m)
  else if m.typ = tCredit then opLimit s o m.seq
  else if m.typ = tGetData then nodeData s o x m
  else if m.typ = tKeepalive then s
  else if m.typ = tFlush then
    let s1 := nodeClosed s o
    if x.kind = .putOut then nodeClosed (putCut s x .aborted) o
    else if x.flow = 0 then s1
    else failGet (modFlow s1 x.flow (fun f => { f with inOp := none })) x.flow .aborted true
  else nodeBad s o x

/-- The sending stream's sealed hop that an ACK, NAK or CREDIT of the remote device names. -/
def farOp (s : State) (x : PxtIn) (m : PxtMsg) : Option (Nat × HopOp) :=
  s.pxt.ops.find? (fun e => e.2.kind = .sealedOut && e.2.sid = m.sid && e.2.fport = x.fport.val && e.2.carriage = x.carriage.val &&
    peerIs x.carriage.val e.2.peer x.src)

/-- A sealed frame or KEEPALIVE to a receiving stream. -/
def rxLink (s : State) (x : PxtIn) (m : PxtMsg) (st : Stream) : State :=
  if match st.bound with
    | some p => !peerIs x.carriage.val p x.src
    | none => false then dropNoMatch s
  else if !st.cached then modStream s m.sid (fun y => { y with loading := true, held := y.held ++ [x] })
  else match linkOf s m.sid with
    | none => dropNoMatch s
    | some (e, f) =>
      let s1 := modStream s m.sid (fun y => { y with used := s.brt.count })
      if m.typ = tPutData then linkRx s1 m.sid (f.inOp.getD 0) e x m else linkKeepalive s1 m.sid (f.inOp.getD 0) x m

/-- A message that names a stream, on a sealed-side port. -/
def rxSealed (s : State) (x : PxtIn) (m : PxtMsg) : State :=
  match sealedOp s x m with
  | some (o, op) =>
    if s.dev.halting then haltingAnswer s x m else rxNodeOp (noteHeard s (opPeerKey op)) o op m
  | none =>
    if m.typ = tPutData || m.typ = tKeepalive then
      match streamAt s m.sid with
      | none => dropNoMatch s
      | some st =>
        if st.cls = .transit && st.receive && st.sealedPort = x.fport.val && st.carriage = x.carriage.val then
          (if s.dev.halting then haltingAnswer s x m else rxLink s x m st)
        else dropNoMatch s
    else match farOp s x m with
      | none => dropNoMatch s
      | some (o, op) =>
        if s.dev.halting then s
        else if m.typ = tAck then linkAcked s o op.flow m.seq
        else if m.typ = tCredit then opLimit s o m.seq
        else if m.typ = tNak then linkResend s o m.seq
        else s

/-- A message about a peer as a whole: CREDIT of a node sets its openings (R301), KEEPALIVE shows it alive. -/
def rxNode (s : State) (x : PxtIn) (m : PxtMsg) (plain : Bool) : State :=
  if plain then
    let mine := s.bore.streams.filter (fun e => e.2.plainPort = x.fport.val && (match plainPeer e.2 with
      | some p => peerIs x.carriage.val p x.src
      | none => false))
    if mine = [] then dropNoMatch s else mine.foldl (fun t e => noteHeard t (gatewayKey e.1)) s
  else match nodeBySource s x.fport.val x.carriage.val x.src with
    | none =>
      if s.pxt.ops.any (fun e => (e.2.kind = .sealedOut || e.2.kind = .sealedIn) && peerIs x.carriage.val e.2.peer x.src) then s
      else dropNoMatch s
    | some n =>
      let s1 := noteHeard s n.id
      if m.typ = tCredit then startWaiting (modPxt s1 (fun y => { y with nodeLimit := tblPut y.nodeLimit n.id m.seq })) else s1

/-! ### Messages -/

/-- A message that came through R286: R297's checks, then what it concerns. -/
def rxMessage (s : State) (x : PxtIn) (f : FabCfg) : State :=
  let plain : Bool := f.role = 1
  let b := unpad x.carriage.val x.msg
  if !carriageOk f x.carriage.val || !pxtFormOk plain b then dropBad s
  else
    let m := pxtOfBytes b
    if m.node then rxNode s x m plain else if plain then rxPlain s x m else rxSealed s x m

/-- A PXT message of a type arrives on a port: outside SERVICE, MIGRATE and RECOVER it is dropped (R315). -/
def rxTyped (s : State) (x : PxtIn) (typ : Nat) : State := match fabCfg s x.fport.val with
  | none => s
  | some f =>
    if !(fabPort s x.fport.val).linkUp || !fabricServes s || byteAt x.msg 0 % 16 ≠ typ then s
    else rxMessage (rxFill s x.fport.val f x.msg.length) x f

def execPutBegin (m : PxtIn) (s : State) : Host.Outcome State Fault Refusal := whenRunning s (rxTyped s m tPutBegin)
def execPutData (m : PxtIn) (s : State) : Host.Outcome State Fault Refusal := whenRunning s (rxTyped s m tPutData)
def execPutEnd (m : PxtIn) (s : State) : Host.Outcome State Fault Refusal := whenRunning s (rxTyped s m tPutEnd)
def execGetReq (m : PxtIn) (s : State) : Host.Outcome State Fault Refusal := whenRunning s (rxTyped s m tGetReq)
def execGetData (m : PxtIn) (s : State) : Host.Outcome State Fault Refusal := whenRunning s (rxTyped s m tGetData)
def execAck (m : PxtIn) (s : State) : Host.Outcome State Fault Refusal := whenRunning s (rxTyped s m tAck)
def execNak (m : PxtIn) (s : State) : Host.Outcome State Fault Refusal := whenRunning s (rxTyped s m tNak)
def execCredit (m : PxtIn) (s : State) : Host.Outcome State Fault Refusal := whenRunning s (rxTyped s m tCredit)
def execFlush (m : PxtIn) (s : State) : Host.Outcome State Fault Refusal := whenRunning s (rxTyped s m tFlush)
def execKeepalive (m : PxtIn) (s : State) : Host.Outcome State Fault Refusal := whenRunning s (rxTyped s m tKeepalive)

/-! ### Frames (R285, R286, R288) -/

/-- MACsec on receive: the clear frame, with the association's progress and the pipe time noted; `none` for a frame to drop. -/
def macsecReceive (s : State) (p : Nat) (b : Bytes) : Option (Bytes × State) :=
  (macsecOpen (fabPort s p).sas b).map (fun r => (r.2.2,
    macsecCharge (modFab s p (fun y => { y with sas := tblMod y.sas r.1 (fun a => { a with rxNext := max a.rxNext (r.2.1 + 1) }) })) b.length))

/-- A clear frame within the size limit goes to the PXT engine where it is a PXT message to the port; any other is dropped and counted. -/
def clearFrame (s : State) (p : Fin 64) (f : FabCfg) (n : Nat) (b : Bytes) : State :=
  if 9318 < n + 4 then dropBad s
  else match frameMessage (pxtCfg s) f p b with
    | none => dropBad s
    | some m => rxMessage (rxFill s p.val f n) m f

/-- An EAPOL frame to the PAE group. -/
def isEapol (b : Bytes) : Bool := be b 0 6 = paeGroup.toNat && be b 12 2 = 0x888E

/-- ETHERNET_FRAME_RECEIVE: a frame that is no valid PXT message is dropped and counted; one that is goes to the PXT engine. -/
def frameReceive (s : State) (x : EthFrame) : State := match fabCfg s x.fport.val with
  | none => s
  | some f =>
    let p := x.fport.val
    if !(fabPort s p).linkUp then s
    else if !x.fecOk then modFab s p (fun y => { y with fecUncorr := sat 16 (y.fecUncorr + 1) })
    else if !fabricServes s then s
    else if !f.macsec then clearFrame s x.fport f x.bytes.length x.bytes
    else if isEapol x.bytes then eapolReceive s p paeGroup (x.bytes.drop 14)
    else match macsecReceive s p x.bytes with
      | none => modFab s p (fun y => { y with macsecDrop := sat 16 (y.macsecDrop + 1) })
      | some (b, t) => clearFrame t x.fport f x.bytes.length b

def execEthernetFrameReceive (f : EthFrame) (s : State) : Host.Outcome State Fault Refusal := whenRunning s (frameReceive s f)

/-! ### The stream cache (R243) -/

/-- Entries of the stream cache. -/
def streamCacheSize : Nat := 65536

/-- An entry with nothing in flight may be evicted. -/
def evictable (s : State) (sid : Nat) : Bool := !streamBusy s sid && (plainOpen s sid).isNone

/-- Make room: the least recently used entry without work leaves the cache; `none` where every entry has work in flight. -/
def cacheRoom (s : State) : Option State :=
  let cached := s.bore.streams.filter (fun e => e.2.cached)
  if cached.length < streamCacheSize then some s
  else (bestBy (fun e => e.2.used) (cached.filter (fun e => evictable s e.1))).map
    (fun e => modStream s e.1 (fun y => { y with cached := false }))

/-- An entry as it comes from DDR4: a TRANSIT sender resumes at its ceiling (R270). -/
def reloadEntry (s : State) (sid : Nat) (x : Stream) : State :=
  let s1 := modStream s sid (fun y => { y with
    cached := true
    loading := false
    used := s.brt.count
    held := []
    counter := if x.cls = .transit && !x.receive then x.ceiling else y.counter })
  match linkOf s1 sid with
  | some (e, f) => if f.kind = .linkOut then modFlow s1 e (fun g => { g with stage := .opening }) else s1
  | none => s1

/-- STREAM_CACHE_LOAD_DONE: the entry that was asked for is cached, where the cache has room, and what waited for it is handled; an entry
in which the cache met a parity error is reloaded (R281). -/
def cacheLoaded (s : State) (sid : Nat) (parity : Bool) : State := match streamAt s sid with
  | none => s
  | some x =>
    if parity && x.cached then reloadEntry s sid x
    else if parity || !x.loading then s
    else match cacheRoom s with
    | none => s
    | some s0 =>
      let s2 := reloadEntry s0 sid x
      x.held.foldl (fun t m => match fabCfg t m.fport.val with
        | some f => rxMessage t m f
        | none => t) s2

def execStreamCacheLoadDone (sid : Access Nat) (s : State) : Host.Outcome State Fault Refusal :=
  whenRunning s (cacheLoaded s sid.target sid.parity)

/-! ### Storage-node tables (R319, R320) -/

/-- A node entry is used by a flow. -/
def nodeInUse (s : State) (n : NodeCfg) : Bool :=
  s.bore.flows.any (fun e => e.2.node = some n || e.2.prevNode = some n) || s.pxt.ops.any (fun e => e.2.node = some n.id)

/-- The entries of a kept table that neither the current nor the previous one has. -/
def onlyOld (s : State) (t : NodeTable) : List NodeCfg :=
  t.nodes.filter (fun n => !(s.pxt.cur.toList ++ s.pxt.prev.toList).any (fun u => u.nodes.contains n))

/-- PREV_TABLE_DROP. -/
def execPrevTableDrop (s : State) : Host.Outcome State Fault Refusal :=
  whenRunning s (modPxt s (fun x => { x with old := x.old.filter (fun t => (onlyOld s t).any (nodeInUse s)) }))

/-- A new generation takes effect: the current table becomes the previous one. -/
def installNodes (s : State) (t : NodeTable) : State :=
  modPxt s (fun x => { x with cur := some t, prev := x.cur, old := x.prev.toList ++ x.old })

end Sys2Proof.Machine
end

