-- ==== Sys2Proof/Machine/CipherParams.lean ====
section
/-! DEFINITION. The PARAMS of a CIPHER_JOB (R273, R468). -/

namespace Sys2Proof.Machine

def cMode (alg : Nat) : Nat := alg / 16 % 16
def cSize (alg : Nat) : Nat := alg % 16
def jSegment (j : Job) : Nat := byteAt j.entry 33
def jFirst (j : Job) : Bool := bitOf (jSegment j) 0
def jLast (j : Job) : Bool := bitOf (jSegment j) 1
def jDiscard (j : Job) : Bool := bitOf (jSegment j) 2
def jTagLen (j : Job) : Nat := byteAt j.entry 34
def jIvLen (j : Job) : Nat := byteAt j.entry 35
def jAadLen (j : Job) : Nat := le j.entry 36 4
def jIv (j : Job) : Bytes := slice j.entry 40 (jIvLen j)
def jContext (j : Job) : Nat := le j.entry 28 2
def jMode (j : Job) : Nat := cMode (jAlg j)

/-- A mode and a key size of R272. -/
def cipherAlgOk (alg : Nat) : Bool :=
  alg / 256 = 0x20 && 1 ≤ cMode alg && cMode alg ≤ 9 && 1 ≤ cSize alg && cSize alg ≤ 3

/-- Bytes 60 to 63 are reserved; STREAM names one only where SLOT names no key. -/
def cipherTailOk (j : Job) : Bool := zeroAt j.entry 60 4 && (jSlot j = noSlot || zeroAt j.entry 56 4)

/-- A DISCARD (R274): BYTE_LEN 0 and no other flag; it uses none of TAG_LEN, IV_LEN, AAD_LEN and IV, which are zero (R468, log 74). -/
def discardFormOk (j : Job) : Bool :=
  cipherAlgOk (jAlg j) && jSegment j = 4 && jByteLen j = 0 && zeroAt j.entry 34 22 && cipherTailOk j

/-- TAG_LEN, IV_LEN, AAD_LEN as the mode has them, and zeros elsewhere. -/
def cipherFormOk (j : Job) : Bool :=
  let m := jMode j
  let iv := if !jFirst j then 0 else if m = 4 || m = 5 then 12 else if m = 2 || m = 3 || m = 6 then 16 else 0
  let tag : Bool := if m = 4 then 12 ≤ jTagLen j && jTagLen j ≤ 16 else if m = 5 then jTagLen j = 16
    else if m = 9 then 8 ≤ jTagLen j && jTagLen j ≤ 16 else jTagLen j = 0
  cipherAlgOk (jAlg j) && jSegment j < 4 && tag && jIvLen j = iv && zeroAt j.entry (40 + iv) (16 - iv) &&
    (jAadLen j = 0 || ((m = 4 || m = 5) && jFirst j)) && cipherTailOk j

/-- The fields of a CIPHER_JOB hold what its form lets them (R19, R273, R468). -/
def cipherFieldsOk (j : Job) : Bool := if jDiscard j then discardFormOk j else cipherFormOk j

end Sys2Proof.Machine
end

