-- ==== Sys2Proof/Machine/PkMath.lean ====
section
/-! DEFINITION. The input checks of the library routines (R38, R39, R221, R222, R235, R236), what their signatures are verified by where the
spec's words or the device's own curves fix it, and the values derived for stateful keys (R226, R470). -/

namespace Sys2Proof.Machine

/-! ### ML-KEM (R221) and ML-DSA (R222) -/

/-- Coefficient `j` of an encapsulation key: 12 bits. -/
def mlkemCoeff (ek : Bytes) (j : Nat) : Nat := bitsOf (le ek (3 * (j / 2)) 3) (12 * (j % 2) + 11) (12 * (j % 2))

/-- The modulus check of FIPS 203: every coefficient of the 2, 3 or 4 polynomials decodes below 3,329. -/
def mlkemKeyOk (alg : Nat) (ek : Bytes) : Bool := (List.range (256 * (alg - 0x00FF))).all (fun j => decide (mlkemCoeff ek j < 3329))

/-- Parameters of an ML-DSA set that shape a signature: k, l, bytes of the challenge, bits of γ1, β, ω (FIPS 204). -/
structure MldsaParams where
  k : Nat
  l : Nat
  cLen : Nat
  gammaBits : Nat
  beta : Nat
  omega : Nat
  deriving DecidableEq, Repr

def mldsaParams (alg : Nat) : MldsaParams :=
  if alg = 0x0201 then ⟨4, 4, 32, 17, 78, 80⟩ else if alg = 0x0202 then ⟨6, 5, 48, 19, 196, 55⟩ else ⟨8, 7, 64, 19, 120, 75⟩

/-- Coefficient `i` of z: γ1 less a field of one bit more than γ1 - 1 has. -/
def mldsaZ (p : MldsaParams) (sig : Bytes) (i : Nat) : Int :=
  let n := p.gammaBits + 1
  (2 ^ p.gammaBits : Nat) - (bitsOf (le sig (p.cLen + i * n / 8) 4) (i * n % 8 + p.gammaBits) (i * n % 8) : Int)

/-- ‖z‖∞ < γ1 - β. -/
def mldsaNormOk (p : MldsaParams) (sig : Bytes) : Bool :=
  (List.range (256 * p.l)).all (fun i => decide ((mldsaZ p sig i).natAbs < 2 ^ p.gammaBits - p.beta))

/-- Positions rise strictly. -/
def byteRising : Bytes → Bool
  | [] => true
  | [_] => true
  | a :: b :: rest => decide (a.toNat < b.toNat) && byteRising (b :: rest)

/-- The hint of `k` polynomials from position `from0` on: their ends do not fall, none passes ω, positions rise within each, the rest is
zero. -/
def hintOk (omega : Nat) (pos ends : Bytes) (from0 : Nat) : Bool := match ends with
  | [] => allZero (pos.drop from0)
  | e :: rest => decide (from0 ≤ e.toNat ∧ e.toNat ≤ omega) && byteRising (slice pos from0 (e.toNat - from0)) && hintOk omega pos rest e.toNat

/-- The hint encoding of a signature is well formed. -/
def mldsaHintOk (p : MldsaParams) (sig : Bytes) : Bool :=
  let y := sig.drop (sig.length - (p.omega + p.k))
  hintOk p.omega (y.take p.omega) (y.drop p.omega) 0

/-! ### Curves of a job (R207, R234) -/

/-- The curve of a record of 6w + 1 bytes (R234). -/
def recordCurve (b : Bytes) : Weierstrass :=
  let w := b.length / 6
  ⟨be b 0 w, be b w w, be b (2 * w) w, be b (3 * w) w, be b (4 * w) w, be b (5 * w) w, byteAt b (6 * w)⟩

/-- The curve of an ECDSA job: its ALG_ID's, or that of its CURVE_SLOT's record. -/
def ecdsaCurve (alg : Nat) (record : Bytes) : Option Weierstrass :=
  if pkFamily alg = some .ecdsaLoaded then some (recordCurve record) else (builtinCurve alg).bind builtinW

/-- The number of bits of a number. -/
def bitCount (x : Nat) : Nat := if x = 0 then 0 else Nat.log2 x + 1

/-! ### ECDSA (R236) -/

/-- The private scalar: not 0, below the order. -/
def scalarOk (n : Nat) (key : Bytes) : Bool := decide (1 ≤ beNat key ∧ beNat key < n)

/-- What is wrong with an uncompressed public key of coordinates of `w` bytes. -/
def pointFault (c : Weierstrass) (w : Nat) (pk : Bytes) : Option Status :=
  let x := be pk 1 w
  let y := be pk (1 + w) w
  if byteAt pk 0 ≠ 4 || decide (c.p ≤ x ∨ c.p ≤ y) then some .inputInvalid
  else if wOn c x y then none else some .pointNotOnCurve

/-- The leftmost bits of a digest, as many as n has (FIPS 186-5). -/
def digestInt (n : Nat) (d : Bytes) : Nat := beNat d / 2 ^ (8 * d.length - bitCount n)

/-- The verification of r and s over a digest under Q (FIPS 186-5), on a curve of prime order. -/
def ecdsaHolds (c : Weierstrass) (q : Point) (sig d : Bytes) : Bool :=
  let h := sig.length / 2
  let r := be sig 0 h
  let s := be sig h h
  let v := invMod s c.n
  if decide (1 ≤ r ∧ r < c.n ∧ 1 ≤ s ∧ s < c.n) then
    match wAdd c (wMul c (digestInt c.n d * v % c.n) (some (c.gx, c.gy))) (wMul c (r * v % c.n) q) with
    | some (x, _) => x % c.n = r
    | none => false
  else false

/-! ### EdDSA (R236) -/

/-- A square root modulo p, where there is one: p is 3 mod 4 or 5 mod 8. -/
def sqrtMod (p x : Nat) : Option Nat :=
  let r := if p % 4 = 3 then powMod x ((p + 1) / 4) p else powMod x ((p + 3) / 8) p
  [r, r * powMod 2 ((p - 1) / 4) p % p].find? (fun y => y * y % p = x % p)

/-- Decode a point of `b.length` bytes: y below p, the sign of x in the last bit; `none` where it does not decode (RFC 8032). -/
def eDecode (c : Edwards) (b : Bytes) : Option (Nat × Nat) :=
  let m := 2 ^ (8 * b.length - 1)
  let y := leNat b % m
  let sign := leNat b / m
  if c.p ≤ y then none
  else match sqrtMod c.p (subModP 1 (y * y) c.p * invMod (subModP c.a (c.d * (y * y % c.p)) c.p) c.p % c.p) with
    | none => none
    | some x => if x = 0 ∧ sign = 1 then none else some (if x % 2 = sign then x else c.p - x, y)

/-- The hash of Ed25519 and Ed448, and the octets that separate their variants (RFC 8032). -/
def edHash (alg : Nat) (m : Bytes) : Bytes := if alg = 0x1101 then sha512 m else shake256 m 114
def edDom (alg v : Nat) (ctx : Bytes) : Bytes :=
  if alg = 0x1101 then (if v = 0 then [] else
    ascii "SigEd25519 no Ed25519 collisions" ++ leBytes 1 (flag (v = 2)) ++ leBytes 1 ctx.length ++ ctx)
  else ascii "SigEd448" ++ leBytes 1 v ++ leBytes 1 ctx.length ++ ctx

/-- The secret scalar of a private key: the first half of its hash, clamped. -/
def edScalar (alg : Nat) (seed : Bytes) : Nat :=
  let x := leNat ((edHash alg seed).take seed.length)
  if alg = 0x1101 then x / 8 * 8 % 2 ^ 254 + 2 ^ 254 else x / 4 * 4 % 2 ^ 447 + 2 ^ 447

/-- The encoding of a point. -/
def eEncode (n : Nat) (q : Nat × Nat) : Bytes := leBytes n (q.2 + q.1 % 2 * 2 ^ (8 * n - 1))

/-- The cofactored equation of a signature R ‖ S under A (FIPS 186-5): R decodes and S is below L. -/
def eddsaHolds (c : Edwards) (alg v : Nat) (a : Bytes) (sig ctx m : Bytes) : Bool :=
  let n := sig.length / 2
  let s := leNat (sig.drop n)
  let h := leNat (edHash alg (edDom alg v ctx ++ sig.take n ++ a ++ m)) % c.n
  let cof := if alg = 0x1101 then 8 else 4
  match eDecode c (sig.take n), eDecode c a with
  | some r, some q => decide (s < c.n) && decide (eMul c cof (eMul c s (c.gx, c.gy)) = eMul c cof (eAdd c r (eMul c h q)))
  | _, _ => false

/-! ### X25519 and X448 (R236) -/

/-- A scalar clamped as RFC 7748 says. -/
def xdhScalar (alg : Nat) (k : Bytes) : Nat :=
  if alg = 0x1201 then leNat k / 8 * 8 % 2 ^ 254 + 2 ^ 254 else leNat k / 4 * 4 % 2 ^ 447 + 2 ^ 447

/-- The agreed u-coordinate; a peer's u is reduced, and X25519 ignores its top bit. -/
def xdhAgree (alg : Nat) (key peer : Bytes) : Nat :=
  if alg = 0x1201 then mMul curve25519 (xdhScalar alg key) (leNat peer % 2 ^ 255) else mMul curve448 (xdhScalar alg key) (leNat peer)

/-- The curve of an XDH ALG_ID. -/
def xdhCurve (alg : Nat) : Montgomery := if alg = 0x1201 then curve25519 else curve448

/-! ### RSA (R236) -/

/-- n of the ALG_ID's exact bit length; e odd, from 65,537, below 2^64. -/
def rsaPublicOk (alg n e : Nat) : Bool := decide (bitCount n = 8 * sigLen alg ∧ e % 2 = 1 ∧ 65537 ≤ e ∧ e < 2 ^ 64)

/-- The fields of a private key in CRT form, whose layout the spec does not give (log 23): n, e, p, q, dP, dQ, qInv. -/
def rsaField (i : Nat) (m : Bytes) : Nat := Config.rsaField i m

/-- The consistency of a private key. -/
def rsaPrivateOk (alg : Nat) (m : Bytes) : Bool :=
  let p := rsaField 2 m
  let q := rsaField 3 m
  decide (p * q = rsaField 0 m ∧ bitCount p = 4 * sigLen alg ∧ bitCount q = 4 * sigLen alg ∧
    rsaField 1 m * rsaField 4 m % (p - 1) = 1 ∧ rsaField 1 m * rsaField 5 m % (q - 1) = 1 ∧ rsaField 6 m * q % p = 1)

/-! ### The check that a job's input fails (R38, R39, R221, R222, R223, R236) -/

/-- The input check made in the job that fails, by family; the families not named make none: any key of the right length is used, and no
ciphertext is refused. `key` is SLOT's material, empty where SLOT is 0xFFFF. -/
def inputFault (alg op : Nat) (key record input : Bytes) : Option Status := match pkFamily alg with
  | some .mlkem => if op = opEncaps && key = [] && !mlkemKeyOk alg input then some .inputInvalid else none
  | some .ecdsa | some .ecdsaLoaded => match ecdsaCurve alg record with
    | none => none
    | some c =>
      if op ≠ opSign && op ≠ opVerify then none
      else if key ≠ [] then (if scalarOk c.n key then none else some .inputInvalid)
      else pointFault c ((pubLenOf alg (record.length / 6) - 1) / 2) input
  | some .eddsa => if op = opVerify && key = [] && ((builtinCurve alg).bind builtinE).any (fun c => (eDecode c (input.take (pubLen alg))).isNone)
      then some .pointNotOnCurve else none
  | some .xdh => if op = opAgree && xdhAgree alg key input = 0 then some .inputInvalid else none
  | some .rsa =>
    if key ≠ [] then
      (if rsaPublicOk alg (rsaField 0 key) (rsaField 1 key) && (op ≠ opSign || rsaPrivateOk alg key) then none else some .inputInvalid)
    else if rsaPublicOk alg (be input 0 (sigLen alg)) (be input (sigLen alg) 8) then none else some .inputInvalid
  | _ => none

/-! ### VERIFY (R222, R223, R236) -/

/-- A signature verifies. `pub` is the inline public key, empty where SLOT names the key. -/
def signatureHolds (alg v : Nat) (key record pub sig ctx m : Bytes) : Bool :=
  let standard := Config.pkVerifies alg v (key ++ record) (pub ++ sig ++ ctx ++ m)
  match pkFamily alg with
  | some .mldsa => mldsaHintOk (mldsaParams alg) sig && mldsaNormOk (mldsaParams alg) sig && standard
  | some .ecdsa | some .ecdsaLoaded => match ecdsaCurve alg record with
    | none => false
    | some c =>
      let w := (pub.length - 1) / 2
      let q := if key ≠ [] then wMul c (beNat key) (some (c.gx, c.gy)) else some (be pub 1 w, be pub (1 + w) w)
      if pkFamily alg = some .ecdsa || primeNat c.p then ecdsaHolds c q sig m else standard
  | some .eddsa => match (builtinCurve alg).bind builtinE with
    | none => false
    | some c => eddsaHolds c alg v (if key ≠ [] then eEncode (pubLen alg) (eMul c (edScalar alg key) (c.gx, c.gy)) else pub) sig ctx m
  | some .rsa => decide (beNat sig < if key ≠ [] then rsaField 0 key else be pub 0 (sigLen alg)) && standard
  | _ => standard

/-! ### LOAD_CURVE (R235) -/

/-- `n` Miller-Rabin rounds of m on the bases drawn, of `len` bytes each, from base number `i` on: each reduced into [2, m - 2]. -/
def primeRounds (m : Nat) (draws : Bytes) (len i n : Nat) : Bool :=
  decide (5 ≤ m ∧ m % 2 = 1) && (List.range n).all (fun k => millerRabin m (2 + be draws ((i + k) * len) len % (m - 3)))

/-- The seven checks: 40 rounds for p, 24 for n, the others by CHECKCURVE's arithmetic. -/
def curvePasses (record draws : Bytes) : Bool :=
  let c := recordCurve record
  let len := record.length / 6 + 8
  let p1 := primeRounds c.p draws len 0 40
  let p5 := primeRounds c.n draws len 40 24
  p1 && curveForm c && p5 && curveOrder c

/-! ### Stateful keys (R226, R470) -/

/-- SEED and I of tree `index` of a level of an HSS key, the top level being 0; for XMSS^MT SK_SEED ‖ PUB_SEED, which every tree shares. -/
def treeSeed (alg : Nat) (key : Bytes) (level index : Nat) : Bytes :=
  if alg ≤ 0x0404 then
    let n := lmsN alg
    if level = 0 then slice key 16 (n + 16)
    else kmac256 (slice key 16 n) (leBytes 1 level ++ beBytes 8 index) (n + 16) (ascii "SYN1 hss child")
  else slice key 16 32 ++ slice key 80 32

/-- The randomiser of leaf `q` of tree `index` of a level: LMS C from the key's seed, the tree's I and q by a derivation the spec leaves to the
device; PRF(SK_PRF, q) of XMSS by SP 800-208's hash with the prefix 3. -/
def leafRandomiser (alg : Nat) (key : Bytes) (level index q : Nat) : Bytes :=
  if alg ≤ 0x0404 then Config.lmsRandomiser (slice key 16 (lmsN alg)) ((treeSeed alg key level index).drop (lmsN alg)) q
  else
    let m := beBytes 32 3 ++ slice key 48 32 ++ beBytes 32 q
    if alg = 0x0501 ∨ alg = 0x0503 then sha256 m else shake256 m 32

/-- A tree of a stateful key: its cached nodes by the standard, and its root's signature by leaf `index` of the level above (R225). -/
def makeTree (alg height : Nat) (key : Bytes) (level index : Nat) : LeafTree :=
  let nodes := Config.treeNodes alg height level index (treeSeed alg key level index)
  let t := 2 ^ height
  ⟨index, nodes, if level = 0 then [] else
    Config.rootSignature alg (treeSeed alg key (level - 1) (index / t)) (leafRandomiser alg key (level - 1) (index / t) index) index nodes⟩

/-! ### What a routine takes from the random supply (R222, R223, R226, R238) -/

/-- The randomness a job's result depends on: rnd of ML-DSA is 32 zero bytes and opt_rand of SLH-DSA PK.seed when signing is deterministic; a
stateful signature has its leaf and the randomiser derived for it; the others what the job drew. -/
def resultRandom (alg op v levels height : Nat) (leaf : Option Nat) (key draws : Bytes) : Bytes :=
  if op ≠ opSign then draws
  else match pkFamily alg with
    | some .mldsa => if v % 2 = 1 then zeros 32 else draws.take 32
    | some .slhdsa =>
      let n := if alg = 0x0301 then 16 else 32
      if v % 2 = 1 then slice key (2 * n) n else draws.take n
    | some .hss | some .xmss | some .xmssmt => match leaf with
      | some q => leafRandomiser alg key (levels - 1) (q / 2 ^ height) q ++ leBytes 8 q
      | none => []
    | some .ecdsa | some .ecdsaLoaded | some .rsa => if v % 2 = 1 then [] else draws
    | _ => []

end Sys2Proof.Machine
end

