-- ==== Sys2Proof/Machine/HostRings.lean ====
section
/-! DEFINITION. Rings, doorbells, queue control, admin queue registers, MSI-X, ATS and power states of functions (02: R53 to R59,
R78 to R82, R92, R467), and DEV_HALT_VEC (R49). -/

namespace Sys2Proof.Machine

/-! ### Doorbells (R78, R81) -/

/-- A VF's instance as its BAR sees it: VF Enable set and not HALTED (R50, R55). -/
def vfInst (s : State) (p : Fin 8) (vf : Nat) : Option (Nat × Inst) :=
  if (portAt s p.val).vfEnable && vf ≠ 0 then instOf s p.val vf else none

/-- A doorbelled queue: it exists and no reset of its instance is under way (R81, R86). -/
def doorbellQueue (s : State) (p : Fin 8) (vf q : Nat) : Option (Nat × Inst × Qp) :=
  match vfInst s p vf with
  | none => none
  | some (i, x) =>
    if x.state = .resetting then none
    else match tblGet x.queues q with
      | none => none
      | some qp => some (i, x, qp)

/-- The submission ring size a doorbell value is held to: the ring in force, or for a disabled queue 0 the size configured (log 73). -/
def tailLimit (x : Inst) (q : Nat) (qp : Qp) : Nat := 2 ^ (if q = 0 && !qp.enable then x.q0SqLog2 else qp.sqLog2)

/-- The completion ring size a doorbell value is held to, in the same way. -/
def headLimit (x : Inst) (q : Nat) (qp : Qp) : Nat := 2 ^ (if q = 0 && !qp.enable then x.q0CqLog2 else qp.cqLog2)

/-- Record a submission tail. -/
def putTail (v : Nat) (qp : Qp) : Qp := { qp with tail := v, shortTail := none }

/-- The entries freed once the host's head index is `v` in a completion ring of `n` entries. -/
def freedTo (n v : Nat) (qp : Qp) : Nat := qp.freed + (v + n - qp.freed % n) % n

/-- Free the entries before a head index. -/
def putHead (n v : Nat) (qp : Qp) : Qp := { qp with freed := freedTo n v qp }

/-- SQ_TAIL (R78, R81). -/
def sqTail (s : State) (p : Fin 8) (vf q v : Nat) : State :=
  match doorbellQueue s p vf q with
  | none => s
  | some (i, x, qp) =>
    if tailLimit x q qp ≤ v then instError s i errDoorbell else modRing s (.inst i q) (putTail v)

/-- CQ_HEAD (R78). -/
def cqHead (s : State) (p : Fin 8) (vf q v : Nat) : State :=
  match doorbellQueue s p vf q with
  | none => s
  | some (i, x, qp) =>
    let n := headLimit x q qp
    if n ≤ v then instError s i errDoorbell
    else if qp.wr < freedTo n v qp then instError s i errHeadOverrun
    else modRing s (.inst i q) (putHead n v)

def execSqTailDoorbell (p : Fin 8) (vf q : Nat) (v : BitVec 16) (s : State) : Host.Outcome State Fault Refusal :=
  whenRunning s (sqTail s p vf q v.toNat)

def execCqHeadDoorbell (p : Fin 8) (vf q : Nat) (v : BitVec 16) (s : State) : Host.Outcome State Fault Refusal :=
  whenRunning s (cqHead s p vf q v.toNat)

/-! ### Queue control (R58, R59, R82) -/

/-- A ring base is aligned to 4 KiB (R59). -/
def baseOk (a : BitVec 64) : Bool := a.toNat % 4096 = 0

/-- A ring size field lies in its range. -/
def log2Ok (hi n : Nat) : Bool := 6 ≤ n && n ≤ hi

/-- Queue 0's configuration is good (R59). -/
def q0CfgOk (x : Inst) : Bool := baseOk x.q0SqBase && baseOk x.q0CqBase && log2Ok 16 x.q0SqLog2 && log2Ok 16 x.q0CqLog2

/-- Enable queue `q`: queue 0 takes its registers (R58), a work queue keeps what CREATE_QUEUE set. The device's head, completion position and
phase go on from where they stood (R82), also where the registers now give queue 0 rings of other sizes: the model's choice (log 73). -/
def enableQueue (x : Inst) (q : Nat) (qp : Qp) : Qp :=
  if q = 0 then
    { qp with
      enable := true
      sqBase := x.q0SqBase
      cqBase := x.q0CqBase
      sqLog2 := x.q0SqLog2
      cqLog2 := x.q0CqLog2
      vector := x.q0Vector }
  else { qp with enable := true }

/-- VFQ_QCSR[q].ENABLE written 1 (R59). -/
def queueEnableOp (s : State) (p : Fin 8) (vf q : Nat) : State :=
  match doorbellQueue s p vf q with
  | none => s
  | some (i, x, qp) =>
    if qp.enable || (q = 0 && !q0CfgOk x) then s else modRing s (.inst i q) (enableQueue x q)

/-- VFQ_QCSR[q].ENABLE written 0 (R82). -/
def queueDisableOp (s : State) (p : Fin 8) (vf q : Nat) : State :=
  match doorbellQueue s p vf q with
  | none => s
  | some (i, _, _) => modRing s (.inst i q) (fun qp => { qp with enable := false })

def execQueueEnable (p : Fin 8) (vf q : Nat) (s : State) : Host.Outcome State Fault Refusal :=
  whenRunning s (queueEnableOp s p vf q)

def execQueueDisable (p : Fin 8) (vf q : Nat) (s : State) : Host.Outcome State Fault Refusal :=
  whenRunning s (queueDisableOp s p vf q)

/-! ### The admin queue registers (R467) -/

/-- Change a port's admin queue. -/
def modAdm (s : State) (p : Nat) (f : Adm → Adm) : State := modPort s p (fun h => { h with adm := f h.adm })

/-- The admin rings may start: bases aligned, sizes 6 to 12. -/
def admCfgOk (a : Adm) : Bool := baseOk a.sqBase && baseOk a.cqBase && log2Ok 12 a.sqLog2 && log2Ok 12 a.cqLog2

/-- The rings at index 0 with the settings of the registers; fetched commands stay outstanding. -/
def admStart (a : Adm) : Qp :=
  { Qp.init with
    enable := true
    sqBase := a.sqBase
    cqBase := a.cqBase
    sqLog2 := a.sqLog2
    cqLog2 := a.cqLog2
    vector := a.vector
    out := a.qp.out }

/-- ENABLE written 1: it stays 0 while the queue is in error. -/
def admEnable (a : Adm) : Adm :=
  if a.qp.enable || a.error then a
  else if admCfgOk a then { a with qp := admStart a, cfgErr := false }
  else { a with cfgErr := true }

/-- ENABLE written 0. -/
def admDisable (a : Adm) : Adm := { a with qp := { a.qp with enable := false }, cfgErr := false }

/-- ERROR and ERR_CAUSE clear once the queue is disabled and idle. -/
def admErrorClear (a : Adm) : Adm :=
  if a.error && !a.qp.enable && a.qp.out = 0 then { a with error := false, errCause := 0 } else a

/-- ADM_SQ_TAIL. While ENABLE is 0 the value is held to the size written in ADM_CFG, and may put the queue into error: the model's choice
(log 73). -/
def admTail (s : State) (p v : Nat) : State :=
  let a := (portAt s p).adm
  if 2 ^ (if a.qp.enable then a.qp.sqLog2 else a.sqLog2) ≤ v then admError s p errDoorbell
  else modAdm s p (fun a => { a with qp := putTail v a.qp })

/-- ADM_CQ_HEAD, held to a size in the same way. -/
def admHead (s : State) (p v : Nat) : State :=
  let a := (portAt s p).adm
  let n := 2 ^ (if a.qp.enable then a.qp.cqLog2 else a.cqLog2)
  if n ≤ v then admError s p errDoorbell
  else if a.qp.wr < freedTo n v a.qp then admError s p errHeadOverrun
  else modAdm s p (fun a => { a with qp := putHead n v a.qp })

/-- The PF of a port can be written: the port is formed. -/
def pfWhenRunning (s : State) (p : Fin 8) (t : State) : Host.Outcome State Fault Refusal :=
  whenRunning s (if (portAt s p.val).formed then t else s)

def execAdminEnable (p : Fin 8) (s : State) : Host.Outcome State Fault Refusal :=
  pfWhenRunning s p (modAdm s p.val admEnable)

def execAdminDisable (p : Fin 8) (s : State) : Host.Outcome State Fault Refusal :=
  pfWhenRunning s p (modAdm s p.val admDisable)

def execAdminErrorClear (p : Fin 8) (s : State) : Host.Outcome State Fault Refusal :=
  pfWhenRunning s p (modAdm s p.val admErrorClear)

def execAdmSqTailWrite (p : Fin 8) (v : BitVec 32) (s : State) : Host.Outcome State Fault Refusal :=
  pfWhenRunning s p (admTail s p.val (bitsOf v.toNat 15 0))

def execAdmCqHeadWrite (p : Fin 8) (v : BitVec 32) (s : State) : Host.Outcome State Fault Refusal :=
  pfWhenRunning s p (admHead s p.val (bitsOf v.toNat 15 0))

/-! ### MSI-X, ATS, power states (R53, R54, R80) -/

/-- Unmask a vector; a pending message is sent (R80). -/
def msixUnmask (s : State) (p vf v : Nat) : State :=
  let m := msixOf s p vf
  let e := msixEntry m v
  let s1 := modMsix s p vf (fun m => { m with table := tblPut m.table v { e with masked := false } })
  if e.masked && m.pending.contains v then
    msixSend (modMsix s1 p vf (fun m => { m with pending := m.pending.filter (· ≠ v) })) p vf v
  else s1

def execMsixVectorUnmask (p : Fin 8) (vf v : Nat) (s : State) : Host.Outcome State Fault Refusal :=
  pfWhenRunning s p (if v < (if vf = 0 then 2048 else 256) then msixUnmask s p.val vf v else s)

/-- An ATS invalidation waits for the transfers that use the translation; they have left by the next inhale (R54). At most 32 wait (R53). -/
def atsInvalidate (s : State) (p vf : Nat) : State :=
  modPort s p (fun h => if h.atsInv.length < 32 then { h with atsInv := h.atsInv ++ [⟨vf, s.brt.count⟩] } else h)

def execAtsInvalidate (p : Fin 8) (vf : Nat) (s : State) : Host.Outcome State Fault Refusal :=
  pfWhenRunning s p (atsInvalidate s p.val vf)

/-- The invalidations of a port complete; what translations gave their functions is forgotten. -/
def atsFlush (s : State) (p : Nat) : State :=
  let s1 := (portAt s p).atsInv.foldl (fun t a => emit t (.atsDone p a.fn)) s
  modPort s1 p (fun h => { h with
    noAccess := h.noAccess.filter (fun e => !h.atsInv.any (fun a => a.fn = e.1))
    atsInv := [] })

/-- The rings of a function. -/
def functionRings (s : State) (p : Fin 8) (vf : Nat) : List Ring :=
  if vf = 0 then [.adm p]
  else match instOf s p.val vf with
    | none => []
    | some (i, x) => x.queues.map (fun e => .inst i e.1)

/-- Configuration space answers in HALTED too (R50): a write to a function of a formed port acts while the device is live. -/
def cfgWhenLive (s : State) (p : Fin 8) (t : State) : Host.Outcome State Fault Refusal :=
  whenLive s (if (portAt s p.val).formed then t else s)

/-- The messages a function could not send while it slept. -/
def wakeVectors (s : State) (p vf : Nat) : State :=
  ((msixOf s p vf).pending.filter (fun v => !(msixEntry (msixOf s p vf) v).masked)).foldl (fun t v =>
    msixSend (modMsix t p vf (fun m => { m with pending := m.pending.filter (· ≠ v) })) p vf v) s

/-- Move a function between D0 and D3hot (R53); back in D0 what it held is issued, but not in HALTED. -/
def d3Move (s : State) (p : Fin 8) (vf : Nat) (d3 : Bool) : State :=
  let s1 := if vf = 0 then modPort s p.val (fun h => { h with pfD3hot := d3 })
    else modPort s p.val (fun h => { h with vfs := tblPut h.vfs vf { tblGetD h.vfs vf Vf.init with d3hot := d3 } })
  if d3 || s.dev.mode = .halted then s1
  else wakeVectors ((functionRings s1 p vf).foldl (fun t g => messageIfLast (issueHeld t g) g) s1) p.val vf

def execD3hotTransition (p : Fin 8) (vf : Nat) (d3 : Bool) (s : State) : Host.Outcome State Fault Refusal :=
  cfgWhenLive s p (d3Move s p vf d3)

/-- The host sets VF Enable (R55), and has set the port's payload and read request sizes by then (log 71). -/
def vfEnable (s : State) (p mps mrrs : Nat) : State := modPort s p (fun h => { h with vfEnable := true, mps := mps, mrrs := mrrs })

def execVfEnableSet (x : CfgWrite) (s : State) : Host.Outcome State Fault Refusal :=
  cfgWhenLive s x.port (vfEnable s x.port.val x.mps.val x.mrrs.val)

/-! ### Fence reads (R92) -/

/-- The completion after its fence read: a read that failed makes it DMA_FAULT. -/
def fenced (c : Compl) (ok : Bool) : Compl :=
  if ok then { c with fence := false } else { c with fence := false, status := .dmaFault, out := [], info := 0 }

/-- The oldest fence read of a ring returns; its completion is written and those behind it follow. -/
def fenceDone (s : State) (g : Ring) (ok : Bool) : State :=
  match ringQp s g with
  | none => s
  | some qp => match qp.fence with
    | none => s
    | some c =>
      let s1 := modRing s g (fun q => { q with fence := none })
      let s2 := if ok then s1 else ringError s1 g errDmaRead
      if ringAsleep s g then modRing s2 g (fun q => { q with held := fenced c ok :: q.held })
      else messageIfLast (writeHeld g (fenced c ok :: qp.held) s2) g

def execFenceReadComplete (g : Ring) (ok : Bool) (s : State) : Host.Outcome State Fault Refusal :=
  whenRunning s (fenceDone s g ok)

/-! ### Halt messages (R49) -/

/-- Arm a halt message with the table entry of a vector; a masked entry fails. -/
def haltArm (s : State) (p v : Nat) : State :=
  let e := msixEntry (portAt s p).msix v
  modPort s p (fun h => { h with haltVector := v, haltArmed := if e.masked then none else some (e.addr, e.data) })

def execHaltVecArm (p : Fin 8) (vector : BitVec 11) (s : State) : Host.Outcome State Fault Refusal :=
  pfWhenRunning s p (haltArm s p.val vector.toNat)

def execHaltVecDisarm (p : Fin 8) (s : State) : Host.Outcome State Fault Refusal :=
  pfWhenRunning s p (modPort s p.val (fun h => { h with haltArmed := none }))

/-! ### Completions off the ladder (R40, R127) -/

/-- Ladder results of this breath are still to be written: they go first (R127). -/
def ladderDue (s : State) : Bool := s.jobs.any (fun e => decide (e.2.stage = .held) && e.2.due ≤ s.brt.count)

/-- Write the next completion off the ladder that is due. -/
def nonLadderComplete (s : State) : State :=
  if s.brt.exhale || ladderDue s || haltHolds s then s
  else match firstWaiting s.brt.count s.waiting with
    | none => s
    | some w =>
      let s1 := { s with waiting := s.waiting.erase w }
      messageIfLast (latencySample (issueCompl s1 { w.c with breath := s.brt.count }) w.c) w.c.ring

def execNonLadderComplete (s : State) : Host.Outcome State Fault Refusal := whenRunning s (nonLadderComplete s)

end Sys2Proof.Machine
end

