-- ==== Sys2Proof/Machine/Streams.lean ====
section
/-! DEFINITION. CREATE_STREAM, DESTROY_STREAM and STREAM_REKEY (R240 to R244, R268, R293). -/

namespace Sys2Proof.Machine

/-! ### CREATE_STREAM -/

/-- The class a CLASS byte names. -/
def streamClass (n : Nat) : Option StreamClass :=
  if n = 1 then some .preserve else if n = 2 then some .transit else if n = 3 then some .lookaside else none

/-- A bare AES key, or a pair of them for XTS (R272). -/
def aesKeyAlg (alg : Nat) : Bool := (0x2001 ≤ alg ∧ alg ≤ 0x2003) ∨ (0x2061 ≤ alg ∧ alg ≤ 0x2063)

/-- The key of a stream's KEY_SLOT is one its class takes. -/
def streamKeyOk (c : StreamClass) (alg : Nat) : Bool := match c with
  | .preserve | .transit => alg = 0x3110
  | .lookaside => aesKeyAlg alg

/-- A slot a descriptor or a rekey names: corrupt, or not a key of the right kind (R242, R328). -/
def streamSlot (s : State) (i h : Nat) (ok : Nat → Bool) : Except Status Slot :=
  match checkSlot s i h with
  | .error st => .error (if st = .keySlotCorrupt then st else .inputInvalid)
  | .ok x => if ok x.alg then .ok x else .error .inputInvalid

/-- The stream key's check: a PRESERVE or TRANSIT key needs DERIVE (R328 table). -/
def streamKeySlot (s : State) (i h : Nat) (c : StreamClass) : Except Status Unit :=
  match streamSlot s i h (streamKeyOk c) with
  | .error st => .error st
  | .ok x => if c = .lookaside || bitOf x.usage 10 then .ok () else .error .keyPolicy

/-- A fabric port of a role takes the carriage. -/
def portTakes (s : State) (p role carriage : Nat) : Bool := match fabCfg s p with
  | some f => f.role = role && carriageOk f carriage
  | none => false

/-- The descriptor's TRANSPORT parameters (R293). -/
def transportOk (s : State) (c : StreamClass) (receive : Bool) (d : Bytes) : Bool :=
  let carriage := byteAt d 24
  match c with
  | .lookaside => zeroAt d 24 40
  | .preserve => carriage ≤ 2 && portTakes s (byteAt d 25) 1 carriage && zeroAt d 26 38
  | .transit =>
    carriage ≤ 2 && portTakes s (byteAt d 25) 1 carriage && portTakes s (byteAt d 26) 2 carriage && zeroAt d 27 1 &&
      (if receive then zeroAt d 28 4 else le d 28 4 < 2 ^ 20) && zeroAt d 38 2 && zeroAt d 56 8 && (carriage ≠ 1 || zeroAt d 44 12)

/-- The other fields of the descriptor (R242). -/
def streamFieldsOk (c : StreamClass) (d : Bytes) : Bool :=
  let flags := byteAt d 2
  zeroAt d 3 1 && zeroAt d 10 6 && (match c with
    | .preserve => byteAt d 1 ≤ 3 && flags < 8 && zeroAt d 16 8
    | .transit => byteAt d 1 = 0 && bitsOf flags 2 1 = 0 && flags < 16 && zeroAt d 6 4
    | .lookaside => byteAt d 1 = 0 && flags = 0 && zeroAt d 6 4 && zeroAt d 16 8)

/-- The routines a PRESERVE stream needs a pool for. -/
def preserveRoutines : List Nat := [0x0234, 0x0324, 0x0235, 0x0325]

/-- The slots a descriptor names, in its order. -/
def streamSlots (s : State) (i : Nat) (c : StreamClass) (d : Bytes) : Except (Nat × Status) Unit :=
  match streamKeySlot s i (le d 4 2) c with
  | .error st => .error (le d 4 2, st)
  | .ok () =>
    if c ≠ .preserve then .ok ()
    else match streamSlot s i (le d 6 2) (· = 0x0203) with
      | .error st => .error (le d 6 2, st)
      | .ok _ => match streamSlot s i (le d 8 2) (· = 0x0302) with
        | .error st => .error (le d 8 2, st)
        | .ok _ => .ok ()

/-- The stream of a good descriptor. A TRANSIT sender resumes at the ceiling journalled for its link (R270). -/
def streamOfDesc (s : State) (i : Nat) (c : StreamClass) (d : Bytes) : Stream :=
  let flags := byteAt d 2
  let receive : Bool := c = .transit && bitOf flags 3
  let link := slice d 16 8
  let past := if c = .transit && !receive then (journalLink s link).getD (0, 0) else (0, 0)
  { inst := i
    cls := c
    recCode := byteAt d 1
    echo := c = .preserve || (c = .transit && bitOf flags 0 && !receive)
    defer1 := c = .preserve && bitOf flags 1
    defer2 := c = .preserve && bitOf flags 2
    receive := receive
    keySlot := le d 4 2
    descSlot := le d 4 2
    sig1 := le d 6 2
    sig2 := le d 8 2
    linkId := link
    carriage := byteAt d 24
    plainPort := byteAt d 25
    sealedPort := byteAt d 26
    remote := le d 28 4
    endpoint := ⟨BitVec.ofNat 48 (be d 32 6), BitVec.ofNat 128 (be d 40 16)⟩
    epoch := past.1
    nextSlot := none
    counter := past.2
    ceiling := past.2
    reserving := none
    bound := none
    opening := c = .preserve
    cached := true
    loading := false
    used := s.brt.count
    held := []
    rekey := false
    destroy := false }

/-- The next stream ID: the next free one after the last assigned, wrapping (R241). -/
def nextStreamId (s : State) : Nat :=
  let start := match s.bore.lastStream with
    | some n => (n + 1) % 2 ^ 20
    | none => 0
  let a := tblFreeFrom s.bore.streams (s.bore.streams.length + 1) start
  if a < 2 ^ 20 then a else tblFree s.bore.streams

/-- A TRANSIT sender that resumes announces its counter first (R313). -/
def resumeFlow (s : State) (sid : Nat) (x : Stream) : State :=
  if x.counter = 0 then s
  else match linkOf s sid with
    | some (e, f) => if f.kind = .linkOut then modFlow s e (fun g => { g with stage := .opening }) else s
    | none => s

/-- Add a stream to the table, and to the cache where that has room. -/
def addStream (s : State) (sid : Nat) (x : Stream) : State :=
  let (s0, y) := match cacheRoom s with
    | some t => (t, x)
    | none => (s, { x with cached := false })
  let s1 := modBore s0 (fun b => { b with streams := tblPut b.streams sid y, lastStream := some sid })
  resumeFlow (openLink s1 sid y) sid y

def createStream (i : Nat) (s : State) (c : Cmd) (d : Bytes) : State := match tblGet s.insts i with
  | none => s
  | some x => match streamClass (byteAt d 0) with
    | none => ctlDone s i .inputInvalid [] 0
    | some k =>
      let receive : Bool := k = .transit && bitOf (byteAt d 2) 3
      if byteAt c.params 0 ≠ byteAt d 0 || !zeroAt c.params 1 39 || !streamFieldsOk k d || !transportOk s k receive d ||
          (s.dev.part = .lc && k ≠ .lookaside) || (k = .preserve && !preserveRoutines.all (fun r => (poolFor s x r).isSome)) then
        ctlDone s i .inputInvalid [] 0
      else match streamSlots s i k d with
        | .error (h, st) => ctlDone (noteSlot s i h st) i st [] 0
        | .ok () =>
          if x.maxStreams ≤ (streamsOf s i).length then ctlDone s i .reservationFailed [] 0
          else
            let sid := nextStreamId s
            let y := streamOfDesc s i k d
            ctlDoneMirrored (mirror (addStream s sid y) recStream (streamBody sid y)) i sid

def execCreateStream (i : Nat) (s : State) : Host.Outcome State Fault Refusal := whenRunning s (ctlRun s i 0x83 (createStream i s))

/-! ### DESTROY_STREAM (R244) -/

/-- A stream is being destroyed: its open PUTs abort, the rest finishes. -/
def destroyStreamNow (s : State) (sid : Nat) : State :=
  let s1 := modStream s sid (fun y => { y with destroy := true, held := [] })
  let open' := s1.bore.flows.filter (fun e => e.2.sid = sid && e.2.kind = .put && e.2.mig.isNone &&
    (e.2.stage = .opening || e.2.stage = .isOpen))
  settleStream (open'.foldl (fun t e => abortPut t e.1 .aborted) s1) sid

/-- A stream of the instance that a command names. -/
def ownStream (s : State) (i sid : Nat) : Option Stream := match streamAt s sid with
  | some x => if x.inst = i then some x else none
  | none => none

def destroyStream (i : Nat) (s : State) (c : Cmd) (_ : Bytes) : State :=
  let sid := le c.params 0 4
  match ownStream s i sid with
  | none => ctlDone s i .inputInvalid [] 0
  | some _ =>
    if !zeroAt c.params 4 36 then ctlDone s i .inputInvalid [] 0
    else destroyStreamNow (modCtlQ s i startCmd) sid

def execDestroyStream (i : Nat) (s : State) : Host.Outcome State Fault Refusal := whenRunning s (ctlRun s i 0x84 (destroyStream i s))

/-! ### STREAM_REKEY (R268) -/

/-- Work under an epoch before the current one is still under way. -/
def oldEpochWork (s : State) (sid : Nat) (x : Stream) : Bool :=
  s.bore.flows.any (fun e => e.2.sid = sid && e.2.kind = .put && x.cls = .preserve && e.2.keySlot ≠ x.keySlot) ||
    s.bore.flows.any (fun e => e.2.sid = sid && (e.2.kind = .linkOut || e.2.kind = .linkIn) &&
      (e.2.recs.any (fun r => r.2.admitted.isSome && decide (r.2.epoch < x.epoch)) ||
        s.pxt.ops.any (fun o => o.2.flow = e.1 && o.2.kind = .sealedOut && o.2.sent.any (fun m => decide (m.1 / 2 ^ 36 < x.epoch))))) ||
    s.jobs.any (fun e => cipherStream e.2 = some sid && e.2.frame.any (fun n => decide (n.1 < x.epoch)))

def streamRekey (i : Nat) (s : State) (c : Cmd) (_ : Bytes) : State :=
  let sid := le c.params 0 4
  let h := le c.params 4 2
  match ownStream s i sid with
  | none => ctlDone s i .inputInvalid [] 0
  | some x =>
    if !zeroAt c.params 6 34 || x.destroy then ctlDone s i .inputInvalid [] 0
    else match streamKeySlot s i h x.cls with
      | .error st => ctlDone (noteSlot s i h st) i st [] 0
      | .ok () =>
        if oldEpochWork s sid x then s
        else modStream (modCtlQ s i startCmd) sid (fun y => { y with nextSlot := some h, rekey := true })

def execStreamRekey (i : Nat) (s : State) : Host.Outcome State Fault Refusal := whenRunning s (ctlRun s i 0x85 (streamRekey i s))

end Sys2Proof.Machine
end

