-- ==== Sys2Proof/Machine/Keys.lean ====
section
/-! DEFINITION. Slots and contexts by command: LOAD_KEY, UNLOAD_KEY (R70, R331, R333), EXPORT_CONTEXT and IMPORT_CONTEXT (R277). -/

namespace Sys2Proof.Machine

/-! ### LOAD_KEY -/

/-- This device's member number is a custodian of a stateful key's blob (R333 check 5). -/
def custodianOk (s : State) (h : BlobHdr) : Bool :=
  h.kind ≠ 2 || custodianWord (some (memberNumber s)) = h.custodianA || custodianWord (some (memberNumber s)) = h.custodianB

/-- The checks of R333 in order; answers the header, the material and the handle. -/
def loadCheck (s : State) (i : Nat) (b : Bytes) : Except Status (BlobHdr × Bytes × Nat) :=
  match blobCheck s b with
  | .error st => .error st
  | .ok (h, key) =>
    if !materialOk h.alg key then .error .inputInvalid
    else if h.owner ≠ i || !custodianOk s h then .error .keyPolicy
    else match freeHandle s i with
      | none => .error .reservationFailed
      | some n => if 64 < key.length && (storeFit s key.length).isNone then .error .reservationFailed else .ok (h, key, n)

/-- The blob passes checks 1 to 3 and names another owner (R70). -/
def ownerBroken (s : State) (i : Nat) (b : Bytes) : Bool := match blobCheck s b with
  | .ok (h, key) => materialOk h.alg key && h.owner ≠ i
  | .error _ => false

def loadKey (i : Nat) (s : State) (c : Cmd) (d : Bytes) : State :=
  if !zeroAt c.params 0 40 then ctlDone s i .inputInvalid [] 0
  else match loadCheck s i d with
    | .error st => ctlDone (if ownerBroken s i d then instError s i errOwner else s) i st [] 0
    | .ok (h, key, n) =>
      let s1 := fillSlot s i n h.alg h.usage h.policy h.kind key
      match slotAt s1 i n with
      | none => ctlDone s1 i .ok [] n
      | some x => ctlDoneMirrored (mirror s1 recSlot (slotBody s1 i n x)) i n

def execLoadKey (i : Nat) (s : State) : Host.Outcome State Fault Refusal := whenRunning s (ctlRun s i 0x86 (loadKey i s))

/-! ### UNLOAD_KEY -/

/-- A slot is named by a live stream's descriptor or is the current or next epoch of a stream. -/
def slotInStream (s : State) (i h : Nat) : Bool :=
  s.bore.streams.any (fun e => e.2.inst = i && (e.2.descSlot = h || e.2.keySlot = h || e.2.nextSlot = some h ||
    (e.2.cls = .preserve && (e.2.sig1 = h || e.2.sig2 = h))))

def unloadKey (i : Nat) (s : State) (c : Cmd) (_ : Bytes) : State := match tblGet s.insts i with
  | none => s
  | some x =>
    let h := le c.params 0 2
    if !zeroAt c.params 2 38 then ctlDone s i .inputInvalid [] 0
    else if x.maxSlots ≤ h then ctlDone s i .keyNotLoaded [] 0
    else match slotAt s i h with
      | none => ctlDone s i .keyNotLoaded [] 0
      | some k =>
        if k.reserved then ctlDone s i .inputInvalid [] 0
        else if k.freeing.isSome then ctlDone s i .keyNotLoaded [] 0
        else if slotInStream s i h then ctlDone s i .keyPolicy [] 0
        else modWch (modCtlQ s i startCmd) (fun w => { w with slots := tblPut w.slots (slotKey i h) { k with freeing := some s.nextJob } })

def execUnloadKey (i : Nat) (s : State) : Host.Outcome State Fault Refusal := whenRunning s (ctlRun s i 0x87 (unloadKey i s))

/-- A job names the slot as its key or its curve. -/
def jobNames (j : Job) (h : Nat) : Bool := le j.entry 10 2 = h || (j.kind = .pk && jCurveSlot j = h)

/-- UNLOAD_KEY_FREE: the jobs fetched before the UNLOAD_KEY have been released; the slot and its contexts go (R274, R331). -/
def unloadKeyFree (s : State) (i h : Nat) : State := match slotAt s i h with
  | none => s
  | some k => match k.freeing with
    | none => s
    | some n =>
      if s.jobs.any (fun e => decide (e.1 < n) && e.2.inst = i && jobNames e.2 h) then s
      else
        let s1 := dropContexts (freeSlot s i h) (fun n c => decide (n / 4096 = i) && c.slot = h)
        let s2 := mirror s1 recSlot (slotGone i h)
        match ctlFront s2 i with
        | some c => if c.opcode = 0x87 && c.started && le c.params 0 2 = h then ctlDoneMirrored s2 i 0 else s2
        | none => s2

def execUnloadKeyFree (i h : Nat) (s : State) : Host.Outcome State Fault Refusal := whenRunning s (unloadKeyFree s i h)

/-! ### Wrapped contexts (R277) -/

/-- Bytes 0 to 63 of a wrapped context. -/
def contextHead (wrap alg op serial domain : Nat) (fpr : Bytes) : Bytes :=
  leBytes 4 0x58544357 ++ [1] ++ leBytes 1 wrap ++ leBytes 2 alg ++ leBytes 1 op ++ zeros 7 ++ leBytes 8 serial ++ leBytes 8 domain ++
    fpr ++ zeros 16

/-- The 96 bytes of context state (the spec gives their number, not their layout). -/
def contextState (c : CipherCtx) : Bytes :=
  padTo 96 (padTo 16 c.chain ++ padTo 16 c.acc ++ padTo 16 c.iv ++ leBytes 8 c.aadLen ++ leBytes 8 c.dataLen ++ leBytes 1 c.tagLen)

/-- Read context state back; GCM's IV has 12 bytes (R273). -/
def contextOf (alg op slot : Nat) (b : Bytes) : CipherCtx :=
  ⟨alg, op, slot, none, slice b 0 16, slice b 16 16, slice b 32 (if cMode alg = 4 then 12 else 16), le b 48 8, le b 56 8, byteAt b 64⟩

/-- Encryption in CTR, GCM, CBC or ECB: never exported under the domain key. -/
def replaysKeystream (c : CipherCtx) : Bool := c.op = 0 && 1 ≤ c.alg / 16 % 16 && c.alg / 16 % 16 ≤ 4

/-- A job holds the context (R274). -/
def contextHeld (s : State) (i h : Nat) : Bool :=
  s.jobs.any (fun e => e.2.kind = .cipher && e.2.inst = i && le e.2.entry 28 2 = h)

/-- The checks of an export; answers the key's slot. -/
def exportCheck (s : State) (i : Nat) (x : Inst) (wrap room : Nat) (c : CipherCtx) : Except Status Slot :=
  if 1 < wrap || room < 232 then .error .inputInvalid
  else if bitOf x.flags 0 then .error .keyPolicy
  else match checkSlot s i c.slot with
    | .error st => .error st
    | .ok k =>
      if bitOf k.policy 1 || (wrap = 1 && (replaysKeystream c || !canWriteBlob s)) then .error .keyPolicy
      else if wrap = 0 && 1024 ≤ s.wch.exportSerials.length then .error .reservationFailed else .ok k

def exportContext (i : Nat) (s : State) (c : Cmd) (_ : Bytes) : State := match tblGet s.insts i with
  | none => s
  | some x =>
    let h := le c.params 0 2
    let wrap := byteAt c.params 2
    if !zeroAt c.params 3 37 || x.maxContexts ≤ h then ctlDone s i .inputInvalid [] 0
    else if contextHeld s i h then s
    else match tblGet s.bore.contexts (contextKey i h) with
      | none => ctlDone s i .inputInvalid [] 0
      | some k => match exportCheck s i x wrap c.dataLen k with
        | .error st => ctlDone (noteSlot s i k.slot st) i st [] 0
        | .ok slot =>
          let n := s.bore.exportSerial
          let head := contextHead wrap k.alg k.op n (if wrap = 1 then s.dom.id else 0) (keyFpr (slotMaterial slot))
          let key := if wrap = 1 then ((newestGen s).getD (0, [])).2 else s.wch.exportKey
          let out := head ++ kwpWrap key (head ++ contextState k)
          let s1 := modBore s (fun b => { b with contexts := tblDel b.contexts (contextKey i h), exportSerial := n + 1 })
          let s2 := if wrap = 0 then modWch s1 (fun w => { w with exportSerials := w.exportSerials ++ [n] }) else s1
          ctlDone s2 i .ok out out.length

def execExportContext (i : Nat) (s : State) : Host.Outcome State Fault Refusal := whenRunning s (ctlRun s i 0x88 (exportContext i s))

/-- The first key of a list that unwraps. -/
def unwrapFirst (b : Bytes) : List Bytes → Option Bytes
  | [] => none
  | k :: rest => match kwpUnwrap k b with
    | some p => some p
    | none => unwrapFirst b rest

/-- The form of a wrapped context. -/
def contextFormOk (d : Bytes) : Bool :=
  let m := le d 6 2 / 16
  d.length = 232 && le d 0 4 = 0x58544357 && byteAt d 4 = 1 && byteAt d 5 ≤ 1 && ((0x201 ≤ m && m ≤ 0x204) || m = 0x209) &&
    1 ≤ byteAt d 6 % 16 && byteAt d 6 % 16 ≤ 3 && byteAt d 8 ≤ 1 && zeroAt d 9 7 && zeroAt d 48 16 && (byteAt d 5 = 1 || zeroAt d 24 8)

/-- Unwrap a context: answers its 96 bytes of state. -/
def contextOpen (s : State) (d : Bytes) : Except Status Bytes :=
  if !contextFormOk d then .error .inputInvalid
  else
    let wrap := byteAt d 5
    if wrap = 1 && (!domainUsable s || le d 24 8 ≠ s.dom.id) then .error .keyPolicy
    else match unwrapFirst (d.drop 64) (if wrap = 1 then s.dom.gens.map (·.2) else [s.wch.exportKey]) with
      | none => .error .tagMismatch
      | some p =>
        if p.take 64 ≠ d.take 64 || p.length ≠ 160 then .error .tagMismatch
        else if wrap = 0 && !s.wch.exportSerials.contains (le d 16 8) then .error .inputInvalid else .ok (p.drop 64)

/-- The lowest handle of the instance whose loaded AES key has a fingerprint. -/
def slotByFpr (s : State) (i k : Nat) (fpr : Bytes) : Option Nat :=
  (s.wch.slots.find? (fun e => e.1 / 16384 = i && e.2.alg = 0x2000 + k && !e.2.reserved && e.2.freeing.isNone &&
    keyFpr (slotMaterial e.2) = fpr)).map (fun e => e.1 % 16384)

/-- The lowest free context handle. -/
def freeContext (s : State) (i : Nat) (x : Inst) : Option Nat :=
  (List.range x.maxContexts).find? (fun h => !tblHas s.bore.contexts (contextKey i h) && !contextHeld s i h)

def importContext (i : Nat) (s : State) (c : Cmd) (d : Bytes) : State := match tblGet s.insts i with
  | none => s
  | some x =>
    if !zeroAt c.params 0 40 then ctlDone s i .inputInvalid [] 0
    else match contextOpen s d with
      | .error st => ctlDone s i st [] 0
      | .ok b => match slotByFpr s i (byteAt d 6 % 16) (slice d 32 16) with
        | none => ctlDone s i .keyNotLoaded [] 0
        | some h => match checkSlot s i h with
          | .error st => ctlDone (noteSlot s i h st) i st [] 0
          | .ok _ => match freeContext s i x with
            | none => ctlDone s i .reservationFailed [] 0
            | some n =>
              let s1 := modBore s (fun y => { y with
                contexts := tblPut y.contexts (contextKey i n) (contextOf (le d 6 2) (byteAt d 8) h b) })
              let s2 := if byteAt d 5 = 0 then modWch s1 (fun w => { w with exportSerials := w.exportSerials.filter (· ≠ le d 16 8) }) else s1
              ctlDone s2 i .ok [] n

def execImportContext (i : Nat) (s : State) : Host.Outcome State Fault Refusal := whenRunning s (ctlRun s i 0x89 (importContext i s))

end Sys2Proof.Machine
end

