-- ==== Sys2Proof/Machine/HostFetch.lean ====
section
/-! DEFINITION. Fetching submissions and their input (R71 to R73, R78, R84, R88, R89, R91, R94, R116, R468) and ATS failures (R54, R83). -/

namespace Sys2Proof.Machine

/-! ### What may be fetched (R44, R45, R47, R78, R84, R94) -/

/-- The mode lets the device fetch from a ring. -/
def modeFetches (s : State) (g : Ring) : Bool :=
  let m := s.dev.mode
  !s.dev.halting && (match g with
    | .adm _ => m = .tune || m = .service || m = .migrate || m = .shadow || m = .recover
    | .inst _ 0 => m = .service || m = .migrate || m = .recover
    | .inst _ _ => (m = .service || m = .migrate) && s.dev.quiesce.isNone)

/-- The owner of a ring lets it be fetched. -/
def ownerFetches (s : State) (g : Ring) : Bool := match g with
  | .adm p => (portAt s p.val).formed && !(portAt s p.val).adm.error
  | .inst i _ => match tblGet s.insts i with
    | some x => x.state = .active && (portAt s x.port.val).vfEnable
    | none => false

/-- The ring holds an entry, and a completion of it has room (R78). -/
def ringReady (qp : Qp) : Bool :=
  qp.enable && qp.tail % 2 ^ qp.sqLog2 ≠ qp.head && qp.out + (qp.wr - qp.freed) < 2 ^ qp.cqLog2 && qp.shortTail.isNone

/-- The device could fetch from the ring, its turn and its bucket apart. -/
def fetchable (s : State) (g : Ring) : Bool :=
  modeFetches s g && ownerFetches s g && !ringAsleep s g && (ringQp s g).any ringReady

/-- How long after the queue fetched last a queue's turn comes (R116). -/
def queueTurn (last q : Nat) : Nat := (q + 65535 - last) % 65536

/-- It is the ring's turn among the queues of its instance. -/
def ringTurn (s : State) (g : Ring) : Bool := match g with
  | .adm _ => true
  | .inst i q => match tblGet s.insts i with
    | none => false
    | some x => x.queues.all (fun e => !fetchable s (.inst i e.1) || decide (queueTurn x.lastQueue q ≤ queueTurn x.lastQueue e.1))

/-- The instance's bucket holds a burst. -/
def ringAllows (s : State) (g : Ring) (n : Nat) : Bool := match g with
  | .adm _ => true
  | .inst i _ => bucketAllows s i n

/-! ### Entries -/

/-- Entries of the ring the tail covers. -/
def entriesLeft (qp : Qp) : Nat := let n := 2 ^ qp.sqLog2; (qp.tail % n + n - qp.head) % n

/-- Consume `n` slots. -/
def consume (s : State) (g : Ring) (n : Nat) : State :=
  let s1 := modRing (ringCharge s g (64 * n)) g (fun q => { q with head := (q.head + n) % 2 ^ q.sqLog2, out := q.out + 1 })
  match g with
  | .adm _ => s1
  | .inst i q => modInst s1 i (fun x => { x with lastQueue := q })

/-- The read requests for `n` slots from the ring's head on: two where the entry wraps (R71, R88). -/
def slotReads (s : State) (g : Ring) (qp : Qp) (n : Nat) : List Out :=
  let f := ringFn s g
  let k := min n (2 ^ qp.sqLog2 - qp.head)
  dmaReads s f.1 f.2 (qp.sqBase.toNat + 64 * qp.head) (64 * k) ++ dmaReads s f.1 f.2 qp.sqBase.toNat (64 * (n - k))

/-- A command entry (R64). -/
def cmdOf (bs : Bytes) (gen fetched : Nat) : Cmd :=
  ⟨le bs 0 2, BitVec.ofNat 16 (le bs 2 2), BitVec.ofNat 64 (le bs 8 8), le bs 16 4, zeroAt bs 4 4 && zeroAt bs 20 4, slice bs 24 40, gen,
    fetched, false⟩

/-- A fetched command joins its queue. -/
def pushCmd (c : Cmd) (q : CmdQ) : CmdQ := { q with cmds := q.cmds ++ [c] }

/-- The kind of job an opcode makes. -/
def jobKindOf (op : Nat) : Option JobKind :=
  if op = 0x0100 then some .pk else if op = 0x0101 then some .routine else if op = 0x0200 then some .cipher
  else if op = 0x0300 then some .random else if op = 0x0F00 then some .cancel else none

/-- The gather elements of an entry: address and length. -/
def gatherOf (bs : Bytes) (n : Nat) : List (BitVec 64 × Nat) :=
  (List.range n).map (fun i => (BitVec.ofNat 64 (le bs (64 + 16 * i) 8), le bs (72 + 16 * i) 4))

/-- The gather list is well formed: its count, its lengths, its reserved bytes and the unused positions (R71, R72). -/
def gatherOk (bs : Bytes) : Bool :=
  let n := le bs 6 2
  n ≤ 60 && n ≤ 4 * (byteAt bs 4 - 1) && (List.range n).all (fun i => decide (1 ≤ le bs (72 + 16 * i) 4) && zeroAt bs (76 + 16 * i) 4) &&
    allZero (bs.drop (64 + 16 * n))

/-- Fields an opcode does not use hold their none values, reserved ones are zero, and the operation is one a row carries out (R19, R468). -/
def workFieldsOk (k : JobKind) (bs : Bytes) : Bool :=
  let flags := byteAt bs 5
  zeroAt bs 30 2 && flags < 8 && (!bitOf flags 2 || k = .cipher) && (!bitOf flags 1 || k = .pk || k = .routine || k = .random) &&
    (k = .cipher || zeroAt bs 28 2) && (match k with
      | .pk => 1 ≤ byteAt bs 32 && byteAt bs 32 ≤ 8
      | .routine => true
      | .cipher => byteAt bs 32 ≤ 1
      | .random => le bs 10 2 = 0xFFFF
      | .cancel => flags = 0 && le bs 6 2 = 0 && zeroAt bs 8 2 && le bs 10 2 = 0xFFFF && zeroAt bs 12 16 && zeroAt bs 34 30)

/-- The tags of the submissions of a queue without a written completion (R73). -/
def outstandingTags (s : State) (i q : Nat) : List (BitVec 16) :=
  (s.jobs.filter (fun e => e.2.inst = i && e.2.queue = q && hostJob e.2)).map (fun e => e.2.tag) ++
    (s.waiting.filter (fun w => w.c.ring = .inst i q)).map (fun w => w.c.tag) ++
    (match ringQp s (.inst i q) with
      | some qp => qp.held.map Compl.tag ++ qp.fence.toList.map Compl.tag ++ qp.asleep.map Compl.tag
      | none => [])

/-- The defects of a work submission seen from its entry alone (R72, R73). -/
def workDefect (s : State) (i q : Nat) (bs : Bytes) : Option Status :=
  let tag := BitVec.ofNat 16 (le bs 2 2)
  match jobKindOf (le bs 0 2) with
  | none => some .inputInvalid
  | some k =>
    if tag = 0xFFFF || (outstandingTags s i q).contains tag || !gatherOk bs || !workFieldsOk k bs then some .inputInvalid
    else if ((gatherOf bs (le bs 6 2)).map (·.2)).sum ≠ le bs 12 4 then some .lengthMismatch else none

/-- A work submission becomes a job, or is rejected at parse. -/
def takeWork (s : State) (i q : Nat) (gen : Nat) (bs : Bytes) : State :=
  let tag := BitVec.ofNat 16 (le bs 2 2)
  match workDefect s i q bs, jobKindOf (le bs 0 2) with
  | none, some k =>
    let g := gatherOf bs (le bs 6 2)
    (addJob s { newJob i q tag gen k (bs.take 64) s.brt.count with
      gather := g
      stage := if g = [] then .ready else .reading }).2
  | st, _ => addWaiting s (bareCompl (.inst i q) tag (st.getD .inputInvalid) gen s.brt.count) 2 0 (nextInhale s)

/-- A job of a LOOKASIDE stream that is not refused for its fields is a boundary of it: it takes the epoch then in force (R19, R268, R272). -/
def bindEpoch (s : State) (k : Nat) : State := match tblGet s.jobs k with
  | none => s
  | some j => match cipherStream j with
    | none => s
    | some sid => match streamAt s sid with
      | none => s
      | some x =>
        if x.inst ≠ j.inst || x.cls ≠ .lookaside || !cipherFieldsOk j then s
        else
          let s1 := epochBoundary s sid
          match streamAt s1 sid with
          | some y => modJob s1 k (fun z => { z with frame := some (y.epoch, y.keySlot) })
          | none => s1

/-- SUBMISSION_FETCH of an admin queue. -/
def fetchAdmin (s : State) (p : Fin 8) (bs : Bytes) : State :=
  if bs.length ≠ 64 then s
  else settleAdmAll (modAdmQ (consume s (.adm p) 1) p.val (pushCmd (cmdOf bs 0 s.brt.count))) p

/-- SUBMISSION_FETCH of queue 0. -/
def fetchControl (s : State) (i gen : Nat) (bs : Bytes) : State :=
  if bs.length ≠ 64 then s
  else settleCtlAll (modCtlQ (consume s (.inst i 0) 1) i (pushCmd (cmdOf bs gen s.brt.count))) i

/-- SUBMISSION_FETCH of a work queue: slot 0 first, then the entry whole (R71). -/
def fetchWork (s : State) (i q gen : Nat) (qp : Qp) (bs : Bytes) : State :=
  let n := byteAt bs 4
  if bs.length < 64 || s.plc.pageWait.isSome then s
  else if n = 0 || 16 < n then instError (bucketCharge s i 64) i errFraming
  else if entriesLeft qp < n then modRing (bucketCharge s i 64) (.inst i q) (fun q => { q with shortTail := some q.tail })
  else if bs.length ≠ 64 * n || !bucketAllows s i (64 * n) then s
  else bindEpoch (takeWork (consume s (.inst i q) n) i q gen bs) s.nextJob

/-- A fetch, once a ring may be fetched. -/
def fetchEntry (s : State) (g : Ring) (bs : Bytes) : State := match g with
  | .adm p => fetchAdmin s p bs
  | .inst i q => match tblGet s.insts i, ringQp s g with
    | some x, some qp => if q = 0 then fetchControl s i x.gen bs else fetchWork s i q x.gen qp bs
    | _, _ => s

def submissionFetch (s : State) (g : Ring) (bs : Bytes) : State :=
  if !fetchable s g || !ringTurn s g || !ringAllows s g 64 then s
  else fetchEntry (emitAll s ((ringQp s g).elim [] (fun qp => slotReads s g qp (bs.length / 64)))) g bs

def execSubmissionFetch (g : Ring) (bs : Bytes) (s : State) : Host.Outcome State Fault Refusal := whenRunning s (submissionFetch s g bs)

/-! ### DMA reads (R83, R84, R88, R89) -/

/-- A job's gather failed: it completes with DMA_FAULT and its instance enters ERROR. -/
def gatherFailed (s : State) (k i cause : Nat) : State := endOffLadder (instError s i cause) k .dmaFault [] 0 (nextInhale s)

/-- The next gather of a job may run: its instance is not being reset, its function is awake, the device is not halting. -/
def gathers (s : State) (j : Job) : Bool := j.stage = .reading && !s.dev.halting && (match tblGet s.insts j.inst with
  | some x => x.state ≠ .resetting && !fnAsleep s x.port.val x.vf
  | none => false)

/-- The function an instance's transfers go by: port and number. -/
def instFn (s : State) (i : Nat) : Nat × Nat := ringFn s (.inst i 0)

/-- One burst of a gather element: at most 4 KiB, within a 4 KiB page, paid for. -/
def gatherBurst (s : State) (k : Nat) (j : Job) (bs : Bytes) : State := match j.gather with
  | [] => s
  | (a, n) :: rest =>
    let m := bs.length
    if m = 0 || n < m || 4096 < a.toNat % 4096 + m || !bucketAllows s j.inst m then s
    else
      let g := if m = n then rest else (a + BitVec.ofNat 64 m, n - m) :: rest
      let s1 := emitAll s (dmaReads s (instFn s j.inst).1 (instFn s j.inst).2 a.toNat m)
      modJob (bucketCharge s1 j.inst m) k (fun j => { j with
        input := j.input ++ bs
        gather := g
        stage := if g = [] then .ready else .reading })

/-- A read for a job. -/
def dmaJob (s : State) (k : Nat) (r : DmaResult) : State := match tblGet s.jobs k with
  | none => s
  | some j =>
    if !gathers s j then s
    else match r with
      | .data bs => gatherBurst s k j bs
      | _ => gatherFailed s k j.inst errDmaRead

/-- The front command of a queue, which fails none of the checks made before its data (R64, R66), waits for more of its data buffer. Answers the
command, where it reads and how many bytes are missing. -/
def wantsData (q : CmdQ) (refused : Cmd → Bool) : Option (Cmd × Nat × Nat) := match q.cmds with
  | [] => none
  | c :: _ =>
    let got := (q.data.getD []).length
    if cmdWantsData c && !c.started && !refused c && got < c.dataLen then some (c, c.dataAddr.toNat + got, c.dataLen - got) else none

def admWants (s : State) (p : Fin 8) : Option (Cmd × Nat × Nat) :=
  if s.dev.halting || fnAsleep s p.val 0 then none
  else wantsData (portAt s p.val).adm.q (fun c => (admChecks s p c).isSome)

def ctlWants (s : State) (i : Nat) : Option (Cmd × Nat × Nat) := match tblGet s.insts i with
  | none => none
  | some x =>
    if s.dev.halting || x.state = .resetting || fnAsleep s x.port.val x.vf then none else wantsData x.ctl (fun c => (ctlChecks c).isSome)

/-- A burst of a data buffer: at most 4 KiB within a page (R88, R91). -/
def burstOk (addr left : Nat) (bs : Bytes) : Bool := 0 < bs.length && bs.length ≤ left && addr % 4096 + bs.length ≤ 4096

/-- Bytes of a data buffer arrive. -/
def addData (bs : Bytes) (q : CmdQ) : CmdQ := { q with data := some (q.data.getD [] ++ bs) }

/-- A read of an admin command's data buffer. -/
def dmaAdm (s : State) (p : Fin 8) (r : DmaResult) : State := match admWants s p with
  | none => s
  | some (_, addr, left) => match r with
    | .data bs => if burstOk addr left bs then modAdmQ (emitAll s (dmaReads s p.val 0 addr bs.length)) p.val (addData bs) else s
    | _ => admDone (admError s p.val errDmaRead) p .dmaFault [] 0

/-- A read of a control command's data buffer. -/
def dmaCtl (s : State) (i : Nat) (r : DmaResult) : State := match ctlWants s i with
  | none => s
  | some (_, addr, left) => match r with
    | .data bs =>
      if burstOk addr left bs && bucketAllows s i bs.length then
        modCtlQ (bucketCharge (emitAll s (dmaReads s (instFn s i).1 (instFn s i).2 addr bs.length)) i bs.length) i (addData bs)
      else s
    | _ => ctlDone (instError s i errDmaRead) i .dmaFault [] 0

/-- A read of a submission entry failed. -/
def dmaEntry (s : State) (g : Ring) (r : DmaResult) : State :=
  if !fetchable s g then s
  else match r with
    | .data _ => s
    | _ => ringError s g errDmaRead

/-- DMA_READ_COMPLETE, by what was read (R84, R335). -/
def dmaRead (s : State) (t : DmaTarget) (r : DmaResult) : State := match t with
  | .job j => dmaJob s j r
  | .adm p => dmaAdm s p r
  | .ctl i => dmaCtl s i r
  | .wch p => boxRead s (.wch p) r
  | .lcs p => boxRead s (.lcs p) r
  | .entry g => dmaEntry s g r

def execDmaReadComplete (t : DmaTarget) (r : DmaResult) (s : State) : Host.Outcome State Fault Refusal := whenRunning s (dmaRead s t r)

/-! ### Translations without access (R54, R83, R84, R467) -/

/-- The function's reads that wait at a page: gathers, data buffers, entries, requests of a mailbox. -/
def jobsAtPage (s : State) (p fn page : Nat) : List (Nat × Job) :=
  s.jobs.filter (fun e => gathers s e.2 && decide (instFn s e.2.inst = (p, fn)) && (match e.2.gather with
    | [] => false
    | (a, _) :: _ => a.toNat / 4096 = page))

def ctlsAtPage (s : State) (p fn page : Nat) : List Nat :=
  (s.insts.filter (fun e => e.2.port.val = p && e.2.vf = fn && (ctlWants s e.1).any (fun w => w.2.1 / 4096 = page))).map (·.1)

def entryAtPage (s : State) (page : Nat) (g : Ring) : Bool :=
  fetchable s g && (ringQp s g).any (fun qp => (qp.sqBase.toNat + 64 * qp.head) / 4096 = page)

def boxesAtPage (s : State) (p : Fin 8) (fn page : Nat) : List Carrier :=
  if fn ≠ 0 then [] else ([.wch p, .lcs p] : List Carrier).filter (fun c => (boxReads s c).any (fun w => w.2 / 4096 = page))

/-- An admin command's data buffer lies at the page. -/
def admAtPage (s : State) (p : Fin 8) (fn page : Nat) : Bool := fn = 0 && (admWants s p).any (fun w => w.2.1 / 4096 = page)

/-- A read or a later write of the function needs the page. -/
def pageNeeded (s : State) (p : Fin 8) (fn page : Nat) : Bool :=
  admAtPage s p fn page || jobsAtPage s p.val fn page ≠ [] || ctlsAtPage s p.val fn page ≠ [] || boxesAtPage s p fn page ≠ [] ||
    (functionRings s p fn).any (entryAtPage s page)

/-- What needs the page ends: commands and jobs with DMA_FAULT, their owners in error; an entry puts the owner of its ring into error. -/
def denyReads (s : State) (p : Fin 8) (fn page : Nat) : State :=
  let gs := (functionRings s p fn).filter (entryAtPage s page)
  let s1 := (jobsAtPage s p.val fn page).foldl (fun t e => gatherFailed t e.1 e.2.inst errDmaTranslate) s
  let s2 := (ctlsAtPage s p.val fn page).foldl (fun t i => ctlDone (instError t i errDmaTranslate) i .dmaFault [] 0) s1
  let s3 := if admAtPage s p fn page then admDone (admError s2 p.val errDmaTranslate) p .dmaFault [] 0 else s2
  let s4 := (boxesAtPage s p fn page).foldl (fun t c => boxEnd t c .dmaFault []) s3
  gs.foldl (fun t g => ringError t g errDmaTranslate) s4

/-- A translation with the function's requester ID completes (R54). Without access what needs the page ends; where no read waits for it, the
write that meets the page does (log 72). -/
def atsTranslation (s : State) (p : Fin 8) (fn page : Nat) (access : Bool) : State :=
  if !(portAt s p.val).formed then s
  else
    let s1 := emit s (.atsRequest p.val fn page)
    if access then s1
    else if pageNeeded s p fn page then denyReads s1 p fn page
    else modPort s1 p.val (fun h => { h with noAccess := (fn, page) :: h.noAccess.filter (· ≠ (fn, page)) })

def execAtsTranslationComplete (x : AtsPage) (access : Bool) (s : State) : Host.Outcome State Fault Refusal :=
  whenRunning s (atsTranslation s x.port x.vf x.page access)

end Sys2Proof.Machine
end

