-- ==== Sys2Proof/Machine/Submit.lean ====
section
/-! DEFINITION. Parsing of PK_JOBs and ROUTINE_JOBs (R104, R205, R208 to R211, R329, R369), and CANCEL (R41, R74). -/

namespace Sys2Proof.Machine

/-! ### Job-space pages (R144, R369) -/

/-- 16 KiB pages of the JOB_SPACE region. -/
def jobPagesTotal (s : State) : Nat := match s.charts.inForce with
  | some c => ((c.ddr.regions.find? (fun g => g.kind = 1)).elim 0 Region.size) * 4
  | none => 0

def jobPagesUsed (s : State) : Nat := (s.jobs.map (fun e => e.2.pages)).sum

/-- Give a parsed job its pages, or hold fetch device-wide until some are freed. -/
def admitJob (s : State) (k : Nat) (j : Job) (t : State) : State :=
  if jobPagesTotal s < jobPagesUsed s + j.pages then { s with plc := { s.plc with pageWait := some (jobRing j) } }
  else { t with
    jobs := tblPut t.jobs k j
    plc := { t.plc with pageWait := if s.plc.pageWait = some (jobRing j) then none else s.plc.pageWait } }

/-- The instance of the job is not being reset (R86). -/
def notResetting (s : State) (i : Nat) : Bool := match tblGet s.insts i with
  | some x => x.state ≠ .resetting
  | none => false

/-- A job whose input is whole and which is not parsed yet; nothing is admitted while halting (R47), and nothing of an instance that is
being reset, whose jobs all end in the reset (R86). -/
def parseable (s : State) (k : Nat) (kind : JobKind) : Option Job := match tblGet s.jobs k with
  | some j => if j.stage = .ready && j.kind = kind && !s.dev.halting && notResetting s j.inst then some j else none
  | none => none

/-! ### PK_JOB -/

/-- The claim a SIGN takes on its stateful key (R227). -/
def claimOf (s : State) (j : Job) (k : PkKeys) : Option Bytes := match k.slot with
  | some x => if statefulAlg (jAlg j) && jOp j = opSign && (statefulOf s (statefulPub x.material)).isSome then some (statefulPub x.material) else none
  | none => none

/-- The reservations a parsed PK_JOB makes: its claim, its OUT_SLOT. -/
def pkReserve (s : State) (j : Job) (claim : Option Bytes) : State :=
  let s1 := match claim with
    | some pub => modStateful s pub (fun x => { x with claims := x.claims + 1 })
    | none => s
  if jOutSlot j = noSlot then s1 else reserveSlot s1 j.inst (jOutSlot j)

/-- The parse of a PK_JOB of operation `op`. -/
def parsePk (s : State) (k op : Nat) : State := match parseable s k .pk with
  | none => s
  | some j =>
    if jOp j ≠ op then s
    else match pkParse s (durable s) k j with
      | .error (h, st) => rejectJob (noteSlot s j.inst h st) k st
      | .ok keys => match admitOn s j (pkRoutine (jAlg j) op) with
        | none => rejectJob s k .inputInvalid
        | some a =>
          let claim := claimOf s j keys
          admitJob s k { a with claim := claim.isSome } (pkReserve s j claim)

def execKeygen (j : Nat) (s : State) : Host.Outcome State Fault Refusal := whenRunning s (parsePk s j opKeygen)
def execEncaps (j : Nat) (s : State) : Host.Outcome State Fault Refusal := whenRunning s (parsePk s j opEncaps)
def execDecaps (j : Nat) (s : State) : Host.Outcome State Fault Refusal := whenRunning s (parsePk s j opDecaps)
def execSign (j : Nat) (s : State) : Host.Outcome State Fault Refusal := whenRunning s (parsePk s j opSign)
def execVerify (j : Nat) (s : State) : Host.Outcome State Fault Refusal := whenRunning s (parsePk s j opVerify)
def execAgree (j : Nat) (s : State) : Host.Outcome State Fault Refusal := whenRunning s (parsePk s j opAgree)
def execTreeBuild (j : Nat) (s : State) : Host.Outcome State Fault Refusal := whenRunning s (parsePk s j opTreeBuild)
def execLoadCurve (j : Nat) (s : State) : Host.Outcome State Fault Refusal := whenRunning s (parsePk s j opLoadCurve)

/-! ### ROUTINE_JOB (R205, R329) -/

def parseRoutine (s : State) (k : Nat) : State := match parseable s k .routine with
  | none => s
  | some j => match routineSec s (jAlg j) with
    | none => rejectJob s k .inputInvalid
    | some r =>
      if jAlg j < 0x8000 || r.maxInput < jByteLen j || jOutLen j < r.minOut then rejectJob s k .inputInvalid
      else match pkSlot s k j.inst (jSlot j) with
        | .error st => rejectJob s k st
        | .ok x =>
          if !pkSound s x then rejectJob (noteSlot s j.inst (jSlot j) .keySlotCorrupt) k .keySlotCorrupt
          else match admitOn s j r.rid with
            | none => rejectJob s k .inputInvalid
            | some a => admitJob s k a s

def execRoutineJob (j : Nat) (s : State) : Host.Outcome State Fault Refusal := whenRunning s (parseRoutine s j)

/-! ### CANCEL (R74) -/

/-- The tag a CANCEL names. -/
def cancelTag (j : Job) : BitVec 16 := BitVec.ofNat 16 (le j.entry 32 2)

/-- The outstanding job of the CANCEL's queue with that tag whose release has not begun. -/
def cancelTarget (s : State) (k : Nat) (j : Job) : Option (Nat × Job) :=
  s.jobs.find? (fun e => decide (e.1 ≠ k) && hostJob e.2 && e.2.inst = j.inst && e.2.queue = j.queue && e.2.tag = cancelTag j &&
    abortable s e.2 && !(e.2.stage = .fence))

/-- Mark the CANCEL as waiting for the target's completion. -/
def awaitTarget (s : State) (k t : Nat) : State := modJob s k (fun j => { j with stage := .running, rid := t })

/-- CANCEL acts in the working phase. A RANDOM job that has drawn nothing ends at once; any other is aborted at the exhale. -/
def cancelJob (s : State) (k : Nat) : State :=
  if s.brt.exhale then s
  else match parseable s k .cancel with
    | none => s
    | some j => match cancelTarget s k j with
      | none => rejectJob s k .inputInvalid
      | some (t, x) =>
        if x.kind = .random then endOffLadder (endOffLadder s t .aborted [] 0 (nextInhale s)) k .ok [] 0 (nextInhale s)
        else if x.stage = .aborting then awaitTarget s k t
        else awaitTarget (markAbort s t .aborted) k t

def execCancel (j : Nat) (s : State) : Host.Outcome State Fault Refusal := whenRunning s (cancelJob s j)

end Sys2Proof.Machine
end

