-- ==== Sys2Proof/Machine/Library.lean ====
section
/-! DEFINITION. What a library routine leaves at its end (R207 to R213, R221 to R226, R234 to R239) and the posting of results (R126, R170). -/

namespace Sys2Proof.Machine

/-! ### What an algorithm comes to -/

/-- The material of the slot a job names, and the record of its curve. -/
def jobMaterial (s : State) (i h : Nat) : Bytes :=
  if h = noSlot then [] else match slotAt s i h with
    | some x => slotMaterial x
    | none => []

/-- The reads of RNDRD a library job makes (R238), by the curve it uses; LOAD_CURVE by the record it is given. -/
def jobReads (s : State) (j : Job) : Nat :=
  let record := if jOp j = opLoadCurve then j.input else jobMaterial s j.inst (jCurveSlot j)
  rndReads (jAlg j) (jOp j) (jVariant j) ((ecdsaCurve (jAlg j) record).elim 0 (fun c => bitCount c.n)) (record.length / 6)

/-- Cut or fill a byte string to a length. -/
def fit (n : Nat) (b : Bytes) : Bytes := padTo n (b.take n)

/-- The parameter block of stateful material (R224, R470). -/
def paramBlock (alg v : Nat) : Bytes :=
  let hss : Bool := alg ≤ 0x0404
  let levels := if hss then v % 16 else if alg ≤ 0x0502 then 1 else v
  leBytes 1 levels ++ leBytes 1 (if hss && bitOf v 4 then 5 else 10) ++ leBytes 1 (if hss then lmsN alg else 32) ++ zeros 13

/-- The private-key material KEYGEN makes of the standard's secret and public key (R470). -/
def keygenMaterial (alg v w : Nat) (secret pub : Bytes) : Bytes :=
  if statefulAlg alg then paramBlock alg v ++ fit (privLen alg w - 16 - pub.length) secret ++ pub
  else if alg = 0x0601 then fit (7317 - pub.length) secret ++ pub
  else fit (privLen alg w) secret

/-- The operation has an end-of-operation check (R237). -/
def hasCheck (alg op : Nat) : Bool := match pkFamily alg with
  | some .mldsa | some .slhdsa => op = opSign
  | some .hss | some .xmss | some .xmssmt => op = opSign || op = opTreeBuild
  | some .ecdsa | some .ecdsaLoaded | some .eddsa => op = opSign || op = opKeygen
  | some .xdh => op = opKeygen || op = opAgree
  | some .rsa => op = opSign
  | _ => false

/-- Leaves left in the current lowest-level tree, and whether the next one is built (R226). -/
def leavesInfo (s : State) (key : Bytes) : Nat := match statefulOf s (statefulPub key) with
  | none => 0
  | some k => (if k.spent then 0 else 2 ^ k.height - k.counter % 2 ^ k.height) % 65536 + 65536 * flag (nextBuilt k)

/-- A secret as it is written: in the clear or as a blob; and what OUT_SLOT receives (R213). -/
def secretOut (s : State) (j : Job) (alg kind : Nat) (clear : Bool) (key : Bytes) : Bytes × NewSecret :=
  let sec : NewSecret := ⟨jOutSlot j, alg, jNewUsage j, jNewPolicy j, key, kind⟩
  (if clear then key else domainBlob s (newBlobHdr s alg (jNewUsage j) (jNewPolicy j) kind j.inst key) key, sec)

/-- A shared secret's algorithm (R329). -/
def sharedAlg (n : Nat) : Nat := if n = 32 then 0x2003 else 0x3110

/-- The parts of a VERIFY's input after the public key: signature, context, message. -/
def verifyHolds (j : Job) (key record : Bytes) (sigN : Nat) : Bool :=
  let alg := jAlg j
  let pubN := if key = [] then pubLenOf alg (record.length / 6) else 0
  signatureHolds alg (jVariant j) key record (j.input.take pubN) (slice j.input pubN sigN) (slice j.input (pubN + sigN) (jCtxLen j))
    (j.input.drop (pubN + sigN + jCtxLen j))

/-- The result of a library routine with its checks passed. A stateful signature is one of the leaf its job took at S (R226). -/
def libraryOk (s : State) (j : Job) (key curve : Bytes) : JobResult :=
  let alg := jAlg j
  let op := jOp j
  let v := jVariant j
  let w := curve.length / 6
  let full := key ++ curve
  let rnd := resultRandom alg op v (byteAt key 0) (byteAt key 1) j.leaf key j.draws
  let pub := Config.pkPublic alg op v full j.input rnd
  let secret := Config.pkSecret alg op v full j.input rnd
  let sigN := (jobSigLen j ⟨slotAt s j.inst (jSlot j), slotAt s j.inst (jCurveSlot j)⟩).getD 0
  let clear : Bool := match slotAt s j.inst (jSlot j) with
    | some x => jSlot j ≠ noSlot && op ≠ opKeygen && bitOf x.policy 0
    | none => false
  if op = opKeygen then
    let pk := fit (pubLenOf alg w) pub
    let m := keygenMaterial alg v w secret pk
    let r := secretOut s j alg (keyKind alg m.length) false m
    ⟨.ok, pk ++ r.1, 0, some r.2⟩
  else if op = opEncaps then
    let k := fit (secretLen alg) secret
    let r := secretOut s j (sharedAlg k.length) 0 clear k
    ⟨.ok, fit (sigLen alg) pub ++ r.1, 0, some r.2⟩
  else if op = opDecaps ∨ op = opAgree then
    let k := if op = opAgree then leBytes (secretLen alg) (xdhAgree alg key j.input) else fit (secretLen alg) secret
    let r := secretOut s j (sharedAlg k.length) 0 clear k
    ⟨.ok, r.1, 0, some r.2⟩
  else if op = opSign then ⟨.ok, fit sigN pub, if statefulAlg alg then leavesInfo s key else 0, none⟩
  else if op = opVerify then ⟨if verifyHolds j key curve sigN then .ok else .signatureInvalid, [], 0, none⟩
  else if op = opLoadCurve then
    if curvePasses j.input j.draws then ⟨.ok, [], 0, some ⟨jOutSlot j, alg, 0, 0, j.input, 3⟩⟩ else ⟨.paramRejected, [], 0, none⟩
  else ⟨.ok, [], 0, none⟩

/-- The end-of-operation check fails (R237): a fault of the hardware, which is free, or an agreed u that does not lie on the curve. -/
def checkFails (s : State) (j : Job) (key : Bytes) : Bool :=
  hasCheck (jAlg j) (jOp j) &&
    (!Config.invariantHolds s.free || (jOp j = opAgree && !mOn (xdhCurve (jAlg j)) (xdhAgree (jAlg j) key j.input)))

/-- What the library routine of a job comes to (R38, R39, R221 to R226, R235 to R237). -/
def libraryResult (s : State) (j : Job) : JobResult × State :=
  let key := if j.inst = attestInst then identityXi s else jobMaterial s j.inst (jSlot j)
  let curve := jobMaterial s j.inst (jCurveSlot j)
  let s1 := { s with free := s.free + 1 }
  match inputFault (jAlg j) (jOp j) key curve j.input with
  | some st => (⟨st, [], 0, none⟩, s1)
  | none => if checkFails s j key then (⟨.invariantFailed, [], 0, none⟩, s1) else (libraryOk s j key curve, s1)

/-! ### Posting (R126, R170) -/

/-- The cluster that produces a job's result: that of its lowest reed. -/
def unitCluster (u : JobUnit) : Nat := reedCluster ((unitReeds u).headD 0)

/-- Put a result into the cluster's FIFO. -/
def postResult (s : State) (k : Nat) (r : JobResult) : State := match tblGet s.jobs k with
  | none => s
  | some j =>
    let c := unitCluster j.unit
    let s1 := if r.status = .invariantFailed then suspectUnit s j.unit else s
    let s2 := modJob s1 k (fun x => { x with stage := .posted, result := some r, post := some (c, s.plc.nextPost) })
    modCluster { s2 with plc := { s2.plc with nextPost := s2.plc.nextPost + 1 } } c (fun x => { x with fifo := x.fifo ++ [k] })

end Sys2Proof.Machine
end

