-- ==== Sys2Proof/Machine/ChartApply.lean ====
section
/-! DEFINITION. The charts of the device: staging (R108, R109), the checks at the second approval (R110, R111, R183, R433), control stores
(R121, R182, R183), and the inhale at which a delta or a full chart takes effect (R29, R108, R120, R466). -/

namespace Sys2Proof.Machine

/-! ### Stored images and generations -/

def onLc (s : State) : Bool := s.dev.part = .lc

/-- The signature key of an enrolled officer (R397). -/
def officerKey (s : State) (i : Nat) : Option Bytes := (tblGet s.dom.officers i).map (fun r => slice r 64 2592)

/-- An officer's signature over an approval message verifies (R399). -/
def approvalOk (s : State) (officer : Nat) (msg sig : Bytes) : Bool := match officerKey s officer with
  | some pk => Config.mldsa87Verify pk (ascii "SYN1 approval") msg sig
  | none => false

/-- A stored image has the approvals of two distinct officers over a message that names its digest (R111). -/
def storedOk (s : State) (x : StoredImage) : Bool := match x.approvals with
  | [a, b] => a.1 ≠ b.1 && approvalOk s a.1 x.msg a.2 && approvalOk s b.1 x.msg b.2 && slice x.msg 32 32 = sha3_256 x.image
  | _ => false

/-- The generation a stored image establishes, 0 where its approvals do not verify. -/
def storedGeneration (s : State) (x : StoredImage) : Nat :=
  if storedOk s x then (chartHeader x.image).elim 0 ChartHeader.generation else 0

/-- The generation a new full chart must exceed (R108). -/
def heldGeneration (s : State) : Nat :=
  (((s.charts.full.toList ++ s.charts.deltas).map (storedGeneration s)) ++
    [s.charts.inForce.elim 0 Chart.generation, s.charts.fullWait.elim 0 (fun w => w.chart.generation)]).foldl max 0

/-! ### Checks of an image -/

/-- The ranges of a chart end within the installed capacity (R369). -/
def rangesInstalled (s : State) (c : Chart) : Bool :=
  c.ddr.ranges.all (fun r => r.2 = 0 || rangeUnit * (r.1 + r.2) ≤ 2 ^ 30 * s.mpr.capacity)

/-- An image's DOMAIN_ID is the device's, or 0. -/
def domainOk (s : State) (d : Nat) : Bool := d = 0 || d = s.dom.id

/-- Every pool has MIN_REEDS unmuted reeds as the chart is checked (R103, R104). -/
def poolsMeetMin (s : State) (c : Chart) : Bool := c.pools.all (fun p => decide (p.minReeds ≤ poolReeds s p))

/-- A full chart (R96 to R100, R103, R108). -/
def fullCheck (s : State) (image : Bytes) : Except Status Chart :=
  match readFullChart (onLc s) image with
  | .bad => .error .inputInvalid
  | .unsigned => .error .signatureInvalid
  | .good _ c =>
    if heldGeneration s < c.generation && domainOk s c.domainId && rangesInstalled s c && poolsMeetMin s c then .ok c else .error .inputInvalid

/-- A new storage-node table has a higher generation than the one in force (R317). -/
def nodesRise (base new : Chart) : Bool := match base.nodes, new.nodes with
  | some a, some b => a = b || a.gen < b.gen
  | _, _ => true

/-- A delta against the chart in force (R98, R109). -/
def deltaCheck (s : State) (image : Bytes) : Except Status Chart :=
  match s.charts.inForce with
  | none => .error .inputInvalid
  | some base => match readDelta (onLc s) base image with
    | .bad => .error .inputInvalid
    | .unsigned => .error .signatureInvalid
    | .good h c =>
      if h.base = base.generation && h.generation = h.base + 1 && domainOk s h.domainId && nodesRise base c then .ok c
      else .error .inputInvalid

/-- CHART_DELTA: in TUNE a full chart, elsewhere a delta, is checked and staged; it takes no parameters (R64, R65). -/
def chartDelta (p : Fin 8) (s : State) (c : Cmd) (d : Bytes) : State :=
  let full : Bool := s.dev.mode = .tune
  if !zeroAt c.params 0 40 then admDone s p .inputInvalid [] 0
  else match (if full then fullCheck s d else deltaCheck s d) with
  | .error st => admDone s p st [] 0
  | .ok _ => match stageChange s (if full then .fullChart else .chartDelta) (.port p) d [] with
    | .error st => admDone s p st [] 0
    | .ok (id, s1) => admDone s1 p .ok [] id

def execChartDelta (p : Fin 8) (s : State) : Host.Outcome State Fault Refusal := whenRunning s (admRun s p 6 (chartDelta p s))

/-! ### Control stores (R182, R183) -/

/-- Routines back to back from a word upward. -/
def packFrom : Nat → List RoutineSec → List Placed
  | _, [] => []
  | b, r :: rs => ⟨r.rid, b, r.words.length⟩ :: packFrom (b + r.words.length) rs

/-- The lowest free run of `n` words at or above word 0x400. -/
def freeRun (placed : List Placed) (n : Nat) : Option Nat :=
  (sortBy id (0x400 :: placed.map (fun q => q.base + q.words))).find?
    (fun b => b + n ≤ 0x4000 && placed.all (fun q => b + n ≤ q.base || q.base + q.words ≤ b))

/-- Place added routines, in ascending order, each in the lowest free run. -/
def planAdds : List Placed → List RoutineSec → Option (List Placed)
  | placed, [] => some placed
  | placed, r :: rs => (freeRun placed r.words.length).bind (fun b => planAdds (placed ++ [⟨r.rid, b, r.words.length⟩]) rs)

/-- The routines of a pool that are not placed. -/
def missing (ch : Chart) (p : PoolCfg) (placed : List Placed) : List RoutineSec :=
  (poolRoutines ch p).filter (fun r => !placed.any (fun q => q.rid = r.rid))

/-- A cluster that served a pool before and serves it in a chart: its image is the pool's. -/
def referenceCluster (s : State) (p : PoolCfg) : Option Nat :=
  (maskClusters p.mask).find? (fun c => (clusterAt s c).entering.isNone && clusterPool s.charts.inForce c = some p.id)

/-- The words of a pool's routines in a layout: what its clusters hold, and the added routines. -/
def poolPlan (s : State) (ch : Chart) (p : PoolCfg) : Option (List Placed) := match referenceCluster s p with
  | none => some (packFrom 0x400 (poolRoutines ch p))
  | some c => planAdds (clusterAt s c).placed (missing ch p (clusterAt s c).placed)

/-! ### The second approval -/

/-- Bytes of the chart store an image takes, with its approvals and its approval message (R432). -/
def storedSize (n : Nat) : Nat := n + 2 * 4627 + 96

/-- The chart store holds one image more (R111, R433). -/
def storeHolds (s : State) (image : Bytes) : Bool :=
  s.charts.deltas.length < 64 &&
    (((s.charts.full.toList ++ s.charts.deltas).map (fun x => storedSize x.image.length)).sum + storedSize image.length ≤ 24 * 2 ^ 20)

/-- A pool falls below MIN_REEDS or MIN_MAUS, counting unmuted units (R110). -/
def poolShort (s : State) (p : PoolCfg) : Bool := decide (poolReeds s p < p.minReeds ∨ poolMaus s p < p.minMaus)

/-- The live checks of a delta (R110, R183). -/
def deltaLive (s : State) (c : Chart) : Bool :=
  layoutHolds (liveInsts s) (poolsNow s) c && c.pools.all (fun p => !poolShort s p && (poolPlan s c p).isSome)

/-- DATA of CHANGE_APPLIED (R437): KIND, CHANGE_ID, the digest's first 8 bytes. -/
def appliedNote (id : Nat) (ch : Change) : Bytes := leBytes 1 (changeKindCode ch.kind) ++ zeros 3 ++ leBytes 4 id ++ ch.digest.take 8

/-- A CHART record (R412): the inhale, the delta, its approval message and approvals. -/
def chartBody (inhale : Nat) (x : StoredImage) : Bytes :=
  leBytes 8 inhale ++ leBytes 4 x.image.length ++ x.image ++ x.msg ++ x.approvals.flatMap (fun a => leBytes 1 a.1 ++ a.2)

/-- A full chart has its second approval: it is written to SPI NOR, and takes effect at the next inhale. -/
def approveFull (s : State) (id : Nat) (ch : Change) (aps : List (Nat × Bytes)) (a : Carrier × Nat) : State :=
  if s.dev.mode ≠ .tune then approveDone s a .inputInvalid aps.length
  else match fullCheck s ch.data with
    | .error st => approveDone s a st aps.length
    | .ok c =>
      if !layoutHolds (liveInsts s) (poolsNow s) c then approveDone s a .reservationFailed aps.length
      else { s with charts := { s.charts with
        full := some ⟨ch.data, approvalMessage s true id ch, aps⟩
        deltas := []
        fullWait := some ⟨c, s.brt.count + 1, c.sections.map (·.1), some a, appliedNote id ch, none⟩
        leaveTune := none } }

/-- The first inhale that begins at least one full breath from now (R29). -/
def deltaInhale (s : State) : Nat := if atInhale s then s.brt.count + 1 else s.brt.count + 2

/-- A delta is accepted in the mode (R109). -/
def deltaMode (m : Mode) : Bool := m = .service || m = .migrate || m = .recover

/-- A delta has its second approval: it is checked against live state, written to SPI NOR, mirrored, and takes effect by R29. -/
def approveDelta (s : State) (id : Nat) (ch : Change) (aps : List (Nat × Bytes)) (a : Carrier × Nat) : State :=
  if !deltaMode s.dev.mode || s.charts.deltaWait.isSome then approveDone s a .inputInvalid aps.length
  else match deltaCheck s ch.data with
    | .error st => approveDone s a st aps.length
    | .ok c =>
      if !(deltaLive s c && storeHolds s ch.data) then approveDone s a .reservationFailed aps.length
      else
        let x : StoredImage := ⟨ch.data, approvalMessage s true id ch, aps⟩
        let s1 := mirror s recChart (chartBody (deltaInhale s) x)
        let types := ((chartHeader ch.data).bind (fun h => chartSections h.count (ch.data.drop 64))).elim [] (fun l => l.map (·.1))
        { s1 with charts := { s1.charts with
          deltas := s1.charts.deltas ++ [x]
          deltaWait := some ⟨c, deltaInhale s, types, some a, appliedNote id ch, if mirrors s then some (queuedSeq s1) else none⟩ } }

/-! ### Taking effect -/

/-- The storage-node table in force changes; the one before it stays PREV, older ones while extents use them (R319). -/
def setNodes (s : State) (new : Option NodeTable) : State :=
  if new = s.pxt.cur then s
  else { s with pxt := { s.pxt with cur := new, prev := s.pxt.cur, old := s.pxt.prev.toList ++ s.pxt.old } }

/-- Every monitor channel restarts with the chart's settings (R443). -/
def restartMonitors (s : State) (c : Chart) : State :=
  { s with mgc := { s.mgc with channels := c.monitors.map (fun m => { MonChan.init with cfg := m, start := s.brt.count }) } }

/-- The suspicion limit in force mutes every unit at or above it (R124). -/
def setSuspicion (s : State) (limit : Nat) : State :=
  (s.health.suspicion.map (·.1)).foldl muteSuspect { s with health := { s.health with limit := limit } }

/-- The change that a chart carried is told, and its APPROVE completes. -/
def chartTold (s : State) (w : ChartWait) : State :=
  let s1 := logEvent s 0x0301 w.note
  match w.approver with
  | some a => approveDone s1 a .ok 2
  | none => s1

/-- Clusters whose pool a new chart changes: those it has a pool for enter it at this inhale. -/
def enterClusters (s : State) (old new : Option Chart) : State :=
  ((List.range 64).filter (fun c => clusterPool old c ≠ clusterPool new c)).foldl (fun t c =>
    modCluster t c (fun k => { k with entering := if (clusterPool new c).isSome then some s.brt.count else none })) s

/-- The start limiter's count stands at its cap when a chart is applied (R218). -/
def limiterFull (s : State) : State := { s with plc := { s.plc with mcCount := breathLen s + 10000 } }

/-- Routines a chart adds to the lists of pools that were there before. -/
def routineAdds (s : State) (c : Chart) : List RoutineAdd :=
  c.pools.flatMap (fun p => match (poolsNow s).find? (fun q => q.id = p.id) with
    | none => []
    | some q => (p.routines.filter (fun r => !q.routines.contains r)).map (fun r => ⟨p.id, r, s.brt.count⟩))

/-- A delta takes effect at this inhale. -/
def applyDelta (s : State) (w : ChartWait) : State :=
  let old := s.charts.inForce
  let new := some w.chart
  let leaves (c : Nat) : Bool := (clusterPool old c).isSome && clusterPool old c ≠ clusterPool new c
  let gone := (List.range 64).filter leaves
  let adds := s.charts.adds.filter (fun a => s.brt.count < a.inhale + 2) ++ routineAdds s w.chart
  let s1 := limiterFull { s with charts := { s.charts with inForce := new, deltaWait := none, adds := adds } }
  let s2 := enterClusters (displaceJobs s1 (fun u => gone.any (fun c => unitInCluster c u))) old new
  let s3 := setNodes (regroup s2) w.chart.nodes
  let s4 := if w.types.contains 0xB then restartMonitors s3 w.chart else s3
  chartTold (setSuspicion s4 w.chart.suspicionLimit) w

def chartDeltaApply (s : State) : State := match s.charts.deltaWait with
  | some w => if atInhale s && w.inhale ≤ s.brt.count then applyDelta s w else s
  | none => s

def execChartDeltaApply (s : State) : Host.Outcome State Fault Refusal := whenRunning s (chartDeltaApply s)

/-- A host port as HOST_PORTS forms it; a port whose forming changes retrains its link (R466). -/
def formPort (c : Chart) (k : Nat) (h : HostPort) : HostPort :=
  if !isPort c.unitEnable c.x16Mask k then { HostPort.init with formed := false }
  else
    let x16 : Bool := k % 2 = 0 && bitOf c.x16Mask (k / 2)
    let same : Bool := h.formed && h.x16 = x16
    { h with
      formed := true
      x16 := x16
      width := if same then h.width else 0
      speed := if same then h.speed else 0
      global := bitOf c.globalMask k
      totalVfs := c.ceilings.getD k 0 }

/-- Fabric ports as FABRIC_PORTS forms them: every link retrains (R284). A port whose entry is unchanged keeps its MACsec associations and
what waits on it; a CAK is lost only at reset (R428). -/
def formFabric (s : State) (c : Chart) : Tbl FabPort :=
  let old := s.charts.inForce.elim [] Chart.fabric
  c.fabric.map (fun e =>
    let x := tblGetD s.pxt.ports e.1 FabPort.init
    (e.1, if tblGet old e.1 = some e.2 then { x with linkUp := false, fill := 0, xoffSent := false, xoffRcvd := 0 }
      else { FabPort.init with cak := x.cak }))

/-- A new key for every range (R370). -/
def drawRangeKeys (s : State) : State :=
  (List.range 16).foldl (fun t r =>
    let (k, t1) := freshBytes 32 t
    { t1 with mpr := { t1.mpr with ranges := listMod t1.mpr.ranges r (fun x => { x with key := k }) } }) s

/-- The ranges of a DDR_MAP: a map other than the one in force starts with nothing written, under new keys. -/
def mapRanges (s : State) (d : DdrMap) : State :=
  let now := s.mpr.ranges.map (fun x => (x.base, x.size))
  if now = d.ranges then { s with mpr := { s.mpr with scrubHours := d.scrubHours } }
  else
    let used := s.mpr.ranges.any (fun x => x.size ≠ 0)
    let s1 := { s with mpr := { s.mpr with
      ranges := (List.zipIdx d.ranges).map (fun e =>
        { MemRange.empty with base := e.1.1, size := e.1.2, key := (memRange s.mpr e.2).key })
      pages := []
      lines := []
      tree := []
      scrubNext := 0
      scrubHours := d.scrubHours } }
    if used then drawRangeKeys s1 else s1

/-- Load every control store for a chart. -/
def loadStores (s : State) (c : Chart) : State :=
  (List.range 64).foldl (fun t k =>
    let placed := match c.pools.find? (fun p => bitOf p.mask k) with
      | some p => packFrom 0x400 (poolRoutines c p)
      | none => []
    modCluster t k (fun x => { loadedStore c placed x with entering := none })) s

/-- A full chart takes effect, in TUNE or in BOOT. -/
def applyFull (s : State) (c : Chart) : State :=
  let s1 := { s with
    ports := (List.zipIdx s.ports).map (fun e => formPort c e.2 e.1)
    pxt := { s.pxt with ports := formFabric s c }
    rng := { s.rng with conditioner := c.conditioner }
    brt := { s.brt with nextLog2 := some c.log2Len } }
  let s2 := { mapRanges s1 c.ddr with charts := { s1.charts with inForce := some c, fullWait := none, deltaWait := none, adds := [] } }
  let s3 := pipesJoin (regroup (loadStores (limiterFull s2) c))
  setSuspicion (restartMonitors (setNodes s3 c.nodes) c) c.suspicionLimit

/-- FULL_CHART_APPLY: at the next inhale, in TUNE; TUNE is left at the inhale after. -/
def fullChartApply (s : State) : State := match s.charts.fullWait with
  | some w =>
    if atInhale s && s.dev.mode = .tune && w.inhale ≤ s.brt.count then
      let s1 := applyFull s w.chart
      chartTold { s1 with charts := { s1.charts with leaveTune := some (s.brt.count + 1) } } w
    else s
  | none => s

def execFullChartApply (s : State) : Host.Outcome State Fault Refusal := whenRunning s (fullChartApply s)

/-! ### Breath I + 1 of a delta -/

/-- The pool a cluster now belongs to. -/
def poolOfCluster (s : State) (c : Nat) : Option (Chart × PoolCfg) :=
  s.charts.inForce.bind (fun ch => (ch.pools.find? (fun p => bitOf p.mask c)).map (fun p => (ch, p)))

/-- CLUSTER_CONTROL_STORE_LOAD: from breath I + 1 an entering cluster receives its new pool's image. -/
def clusterStoreLoad (s : State) (c : Nat) : State := match (clusterAt s c).entering, poolOfCluster s c with
  | some i, some (ch, p) =>
    if s.brt.count ≤ i then s
    else match poolPlan s ch p with
      | none => s
      | some placed =>
        modCluster s c (loadedStore ch placed)
  | _, _ => s

def execClusterControlStoreLoad (c : Fin 64) (s : State) : Host.Outcome State Fault Refusal := whenRunning s (clusterStoreLoad s c.val)

/-- A delta that takes effect at this inhale or a later one added the routine to the pool: breath I + 1 has not begun. -/
def addedNow (s : State) (pool rid : Nat) : Bool := s.charts.adds.any (fun a => a.pool = pool && a.rid = rid && s.brt.count ≤ a.inhale)

/-- ROUTINE_LOAD: from breath I + 1 an added routine is written into its words in a cluster of the pool. -/
def routineLoad (s : State) (c rid : Nat) : State := match poolOfCluster s c with
  | some (ch, p) =>
    let k := clusterAt s c
    if addedNow s p.id rid || k.entering.isSome || !p.routines.contains rid || routinePlaced s c rid then s
    else match (planAdds k.placed (missing ch p k.placed)).bind (fun l => l.find? (fun q => q.rid = rid)) with
      | none => s
      | some q => modCluster s c (fun x => { x with
          cs := writeWords x.cs q.base (chartWords ch rid)
          par := writeParity x.par q.base (chartWords ch rid)
          placed := x.placed ++ [q] })
  | none => s

def execRoutineLoad (c : Fin 64) (rid : BitVec 16) (s : State) : Host.Outcome State Fault Refusal :=
  whenRunning s (routineLoad s c.val rid.toNat)

/-- ROUTINE_WORDS_FREE: at an inhale, once no job of a dropped routine is left in the pool. -/
def routineWordsFree (s : State) (c rid : Nat) : State := match poolOfCluster s c with
  | some (_, p) =>
    if !atInhale s || p.routines.contains rid || s.jobs.any (fun e => e.2.rid = rid && e.2.pool = p.id) then s
    else modCluster s c (fun x => { x with placed := x.placed.filter (fun q => q.rid ≠ rid) })
  | none => s

def execRoutineWordsFree (c : Fin 64) (rid : BitVec 16) (s : State) : Host.Outcome State Fault Refusal :=
  whenRunning s (routineWordsFree s c.val rid.toNat)

end Sys2Proof.Machine
end

