-- ==== Sys2Proof/Machine/Halts.lean ====
section
/-! DEFINITION. The two paths into HALTED (R46 to R51): the immediate halt, the controlled halt with its flush, the halt messages. -/

namespace Sys2Proof.Machine

/-! ### Halt causes (DEV_MODE.HALT_CAUSE) -/

def haltMemTag : Nat := 1
def haltMemRmw : Nat := 2
def haltMemTree : Nat := 3
def haltRngHealth : Nat := 4
def haltRngStartup : Nat := 5
def haltMgmt : Nat := 6

/-! ### Entry into HALTED -/

/-- Each armed PF sends its latched halt message, whatever the mask (R49). -/
def haltMessages (s : State) : State :=
  (List.zipIdx s.ports).foldl (fun t e => match e.1.haltArmed with
    | some (a, d) => emit t (.haltMsg e.2 a d)
    | none => t) s

/-- MODE becomes HALTED and HALT_N is asserted; nothing waits any more, on a fabric port either; the memory engine's keys and roots are erased (R386), and the
DDR4 log ring is lost (R387). -/
def enterHalted (s : State) : State :=
  { s with
    mpr := memErase s.mpr
    mgc := { s.mgc with ring := [] }
    pxt := { s.pxt with ports := s.pxt.ports.map (fun e => (e.1, { e.2 with txq := [] })) }
    dev := { s.dev with
      prevMode := modeCode s.dev.mode
      mode := .halted
      modeBreath := s.brt.count
      halting := false
      haltN := false
      modeReq := none
      quiesce := none
      tuneReq := none } }

/-- A frame still on a port's wire ends with an invalid FCS; whether one is, is not the model's to know. -/
def cutFrame (s : State) (p : Nat) : State :=
  let (n, s1) := freshChoice 2 s
  if n = 1 then emit s1 (.badFcs p) else s1

def cutFrames (s : State) : State :=
  ((s.pxt.ports.filter (fun e => e.2.linkUp)).map (·.1)).foldl cutFrame s

/-- An immediate halt, also out of a controlled one (R46, R48): the DMA engine, the fabric ports and breath work stop at once, the cause
is recorded, the halt messages are sent. -/
def immediateHalt (s : State) (cause code : Nat) (data : Bytes) : State :=
  let s1 := enterHalted (cutFrames s)
  haltMessages (logEvent { s1 with dev := { s1.dev with haltCause := cause, haltImmediate := true } } code data)

/-! ### The controlled halt (R47) -/

/-- Extents and GETs end with DEVICE_HALTING; what is open at a node is aborted there. -/
def haltFlow (s : State) (e : Nat) : State := match flowAt s e with
  | none => s
  | some f => match f.kind with
    | .put => abortPut s e .deviceHalting
    | .get => failGet s e .deviceHalting true
    | .linkOut | .linkIn => s

def haltFlows (s : State) : State := (s.bore.flows.map (·.1)).foldl haltFlow s

/-- A controlled cause is detected: it is logged; unless a halt is already under way, HALTING is set in this breath H. -/
def controlledHalt (s : State) (cause code : Nat) (data : Bytes) : State :=
  let s1 := logEvent s code data
  if s.dev.halting || s.dev.mode = .halted then s1
  else haltFlows { s1 with dev := { s1.dev with
    halting := true
    haltCause := cause
    haltImmediate := false
    haltBreath := s.brt.count
    haltFlushed := false
    modeReq := none
    quiesce := none
    tuneReq := none } }

/-- The status of every job not released. -/
def haltStatus (cause : Nat) : Status := if cause = haltRngHealth || cause = haltRngStartup then .rngFailed else .deviceHalting

/-- A completion that was waiting is written without output, with the halt's status; a refused draw keeps RNG_FAILED (R358), an entry without
a usable tag INPUT_INVALID (R79). -/
def haltCompl (st : Status) (w : Waiting) (now : Nat) : Waiting :=
  let cmd : Bool := w.cls = 3 || w.cls = 4
  { w with
    due := now
    c := { w.c with
      status := tagStatus w.c.tag (if cmd then (if w.c.status = .rngFailed then .rngFailed else .deviceHalting) else st)
      out := []
      info := 0 } }

/-- The completion of a job not yet released: a posted result keeps its place in the bell's order. -/
def haltJob (st : Status) (now : Nat) (j : Job) : Waiting :=
  let posted : Bool := j.stage = .posted || j.stage = .held
  ⟨jobCompl j st [] 0, if posted then 1 else 2, if posted then releaseRank now j else 0, now⟩

/-- The commands fetched and not complete of a PF's admin queue, of an instance's queue 0. -/
def haltAdm (s : State) (p : Fin 8) : List Waiting :=
  (portAt s p.val).adm.q.cmds.map (fun c => ⟨admCompl p c .deviceHalting [] 0, 4, p.val, s.brt.count⟩)
def haltCtl (s : State) (e : Nat × Inst) : List Waiting :=
  e.2.ctl.cmds.map (fun c => ⟨ctlCompl e.1 c .deviceHalting [] 0, 3, e.1, s.brt.count⟩)

/-- Wipe a cluster's MAU and forget the results in its FIFO. -/
def haltCluster (c : Cluster) : Cluster := { c with mau := Mau.init, fifo := [] }

/-- Every unreleased job and outstanding command completes with no output; operand memories, windows, MAU memories and contexts
are wiped; management requests that wait for the RNG complete with RNG_FAILED. -/
def haltFlush (s : State) : State :=
  let st := haltStatus s.dev.haltCause
  let now := s.brt.count
  let jobs := ((s.jobs.map (·.2)).filter (fun j => hostJob j && j.stage ≠ .fence)).map (haltJob st now)
  let cmds := (List.finRange 8).flatMap (haltAdm s) ++ s.insts.flatMap (haltCtl s)
  let s1 := { s with
    waiting := s.waiting.map (fun w => haltCompl st w now) ++ jobs ++ cmds
    jobs := []
    ports := s.ports.map (fun h => { h with adm := { h.adm with q := CmdQ.init } })
    insts := s.insts.map (fun e => (e.1, { e.2 with ctl := CmdQ.init }))
    clusters := s.clusters.map (fun e => (e.1, haltCluster e.2))
    twn := { s.twn with waits := [] }
    bore := { s.bore with contexts := [], lostCtx := [] }
    rng := { s.rng with waiting := [], granted := [], held := [] }
    dev := { s.dev with haltFlushed := true } }
  s.rng.held.foldl (fun t _ => emit t (.mctp .rngFailed [])) ((s.reeds.map (·.1)).foldl wipeReed s1)

/-- CONTROLLED_HALT_FLUSH: at the inhale of H + 1. -/
def controlledHaltFlush (s : State) : State :=
  if s.dev.halting && !s.dev.haltFlushed && atInhale s && s.dev.haltBreath < s.brt.count then haltFlush s else s

def execControlledHaltFlush (s : State) : Host.Outcome State Fault Refusal := whenRunning s (controlledHaltFlush s)

/-- Every completion due has left the engine. -/
def writesLeft (s : State) : Bool :=
  !s.waiting.any (fun w => w.due ≤ s.brt.count) && s.ports.all (fun h => h.adm.qp.fence.isNone) &&
    s.insts.all (fun e => e.2.queues.all (fun q => q.2.fence.isNone))

/-- HALTED_ENTER: from the inhale of H + 2, once the last write has left. -/
def haltedEnter (s : State) : State :=
  if s.dev.halting && s.dev.haltFlushed && !s.brt.exhale && s.dev.haltBreath + 2 ≤ s.brt.count && writesLeft s then
    haltMessages (enterHalted s)
  else s

def execHaltedEnter (s : State) : Host.Outcome State Fault Refusal := whenRunning s (haltedEnter s)

end Sys2Proof.Machine
end

