-- ==== Sys2Proof/Machine/Digest.lean ====
section
/-! DEFINITION. The commands of the digest port (R359 to R363). -/

namespace Sys2Proof.Machine

def dgpAt (s : State) (c : Nat) : Dgp := s.dgp.getD c Dgp.init
def modDgp (s : State) (c : Nat) (f : Dgp → Dgp) : State := { s with dgp := listMod s.dgp c f }

/-- A write of an agent to a context: ignored from any but its owner. -/
def dgpOwned (s : State) (a : DgpAgent) (c : Nat) (f : Dgp → Dgp) : State :=
  if (dgpAt s c).owner = some a then modDgp s c f else s

/-- The agent can write: a PF on a formed port outside HALTED, the management controller while the device is live (R50). -/
def dgpWhen (s : State) (a : DgpAgent) (t : State) : Host.Outcome State Fault Refusal := match a with
  | .pf p => whenRunning s (if (portAt s p.val).formed then t else s)
  | .mgmt => whenLive s t

def execDgpInit (a : DgpAgent) (c : Fin 16) (v : BitVec 32) (s : State) : Host.Outcome State Fault Refusal :=
  dgpWhen s a (dgpOwned s a c.val (fun d => dgpInitOp d (decide (c.val < 4)) s.dom.attest v.toNat))

def execDgpFinal (a : DgpAgent) (c : Fin 16) (s : State) : Host.Outcome State Fault Refusal :=
  dgpWhen s a (dgpOwned s a c.val dgpFinalOp)

/-- The final block is absorbed. -/
def execDgpFinalDone (c : Fin 16) (s : State) : Host.Outcome State Fault Refusal := whenLive s (modDgp s c.val dgpDone)

/-- CLAIM of a free context by a PF (R359). -/
def execDgpClaim (p : Fin 8) (c : Fin 16) (s : State) : Host.Outcome State Fault Refusal :=
  dgpWhen s (.pf p) (if 4 ≤ c.val && (dgpAt s c.val).owner.isNone then modDgp s c.val (fun d => { d with owner := some (.pf p) }) else s)

/-- RELEASE zeroes and frees the context; contexts 0 to 3 stay the management controller's. -/
def dgpFree (c : Nat) (d : Dgp) : Dgp := if c < 4 then { Dgp.init with owner := d.owner } else Dgp.init

def execDgpRelease (a : DgpAgent) (c : Fin 16) (s : State) : Host.Outcome State Fault Refusal :=
  dgpWhen s a (dgpOwned s a c.val (dgpFree c.val))

def execDgpData (a : DgpAgent) (c : Fin 16) (v : BitVec 32) (s : State) : Host.Outcome State Fault Refusal :=
  dgpWhen s a (dgpOwned s a c.val (fun d => dgpAppend d (leBytes 4 v.toNat)))

def execDgpData8 (a : DgpAgent) (c : Fin 16) (v : BitVec 32) (s : State) : Host.Outcome State Fault Refusal :=
  dgpWhen s a (dgpOwned s a c.val (fun d => dgpAppend d (leBytes 1 v.toNat)))

/-- A block of the message is absorbed and BUSY clears. -/
def execDgpBlockAbsorbed (c : Fin 16) (s : State) : Host.Outcome State Fault Refusal := whenLive s (modDgp s c.val dgpAbsorbed)

/-- A PF's contexts are freed with its port (R359). -/
def dgpFreePort (s : State) (p : Fin 8) : State :=
  { s with dgp := s.dgp.map (fun d => if d.owner = some (.pf p) then Dgp.init else d) }

/-- Every context of every PF reads as after reset. -/
def dgpWipe (s : State) : State := { s with dgp := Dgp.reset }

end Sys2Proof.Machine
end

