-- ==== Sys2Proof/Machine/Migration.lean ====
section
/-! DEFINITION. Migration (R420 to R422): the plan, its entries, its end. Reading, re-sealing and writing of an extent are the GET and the
PUT of the bore (Get, Put). -/

namespace Sys2Proof.Machine

/-! ### The request (R420) -/

/-- The chart has re-seal paths and a region for them. -/
def canMigrate (s : State) : Bool := match s.charts.inForce with
  | some c => 3 ≤ c.mig.resealN && c.ddr.regions.any (fun g => g.kind = 8)
  | none => false

/-- The request's plan holds: an instance of the carrier's port, its PRESERVE stream, the numbers in range. -/
def planOk (s : State) (c : Carrier) (q : Bytes) : Bool :=
  let i := le q 2 2
  lcsForm q 32 && canMigrate s && 1 ≤ le q 36 4 && le q 36 4 ≤ 2 ^ 24 && 1 ≤ byteAt q 56 && byteAt q 56 ≤ 64 && zeroAt q 57 7 &&
    (match tblGet s.insts i, streamAt s (le q 32 4) with
      | some x, some t => (carrierPort c).all (· = x.port.val) && t.inst = i && t.cls = .preserve && !t.destroy
      | _, _ => false)

def migrate (s : State) (c : Carrier) (q : Bytes) : State :=
  lcsStage s c .migrate q (lcsRefused s c (planOk s c q) (s.dev.mode = .service))

def execMigrate (c : Src) (s : State) : Host.Outcome State Fault Refusal := lcsRun s c 9 (migrate s)

/-- The plan has its approvals: the device enters MIGRATE at the next inhale. -/
def applyMigrate (s : State) (c : Carrier) (q : Bytes) : Status × Bytes × State :=
  if !planOk s c q || s.dev.mode ≠ .service || s.dev.halting || s.dev.modeReq.isSome || s.dev.tuneReq.isSome || s.dev.quiesce.isSome then (.inputInvalid, [], s)
  else (.ok, [], { s with
    dev := { s.dev with modeReq := some (.migrate, nextInhale s) }
    mig := ⟨true, le q 2 2, le q 32 4, le q 36 4, le q 40 8, le q 48 8, byteAt q 56, 0, false, [], 0, 0⟩ })

/-- MIGRATE_STOP: no further entry is started. -/
def migrateStop (s : State) (c : Carrier) (q : Bytes) : State := match lcsRefused s c (lcsForm q 0) (s.dev.mode = .migrate) with
  | some st => boxEnd s c st []
  | none => boxEnd { s with mig := { s.mig with stop := true } } c .ok []

def execMigrateStop (c : Src) (s : State) : Host.Outcome State Fault Refusal := lcsRun s c 10 (migrateStop s)

/-! ### Entries (R421) -/

/-- The device may fetch the next list entry. -/
def entryDue (s : State) : Bool :=
  s.dev.mode = .migrate && !s.dev.halting && s.mig.active && !s.mig.stop && s.mig.next < s.mig.count &&
    s.mig.entries.length < s.mig.maxInFlight && bucketAllows s s.mig.inst 48

/-- A list entry has its zeros, and a target other than its source. -/
def entryOk (b : Bytes) : Bool := b.length = 48 && zeroAt b 20 4 && zeroAt b 44 4 && b.take 20 ≠ slice b 24 20

/-- MIGRATION_ENTRY_START: the next entry is fetched; its source is read as a GET. -/
def entryStart (s : State) (b : Bytes) : State :=
  if !entryDue s || b.length ≠ 48 then s
  else
    let k := s.mig.next
    let s1 := bucketCharge s s.mig.inst 48
    let m : MigEntry := ⟨k, b.take 16, be b 16 4, slice b 24 16, be b 40 4, none, none, 0⟩
    let s2 := { s1 with mig := { s1.mig with next := k + 1, entries := s1.mig.entries ++ [m] } }
    if !entryOk b then migResult s2 k .inputInvalid 0
    else match beginGet s2 s2.mig.stream s2.mig.inst m.srcObj m.srcExt (some k) with
      | none => migResult s2 k .inputInvalid 0
      | some (e, s3) => startFlow { s3 with mig := { s3.mig with
          entries := s3.mig.entries.map (fun x => if x.index = k then { x with getOp := some e } else x) } } e

def execMigrationEntryStart (entry : Bytes) (s : State) : Host.Outcome State Fault Refusal := whenRunning s (entryStart s entry)

/-! ### The end (R422) -/

/-- The last entry has ended, or the migration was stopped and no extent is in progress. -/
def migrationOver (s : State) : Bool :=
  s.dev.mode = .migrate && s.mig.active && (s.mig.stop || s.mig.count ≤ s.mig.next) && s.mig.entries = []

/-- Entry into RECOVER: no further entry is started, and extents whose new PUT has not begun end with ABORTED. -/
def migrationRecover (s : State) : State :=
  let s1 := { s with mig := { s.mig with active := false, stop := true } }
  (s.mig.entries.filter (fun m => m.ext.isNone)).foldl (fun t m => match m.getOp with
    | some e => failGet t e .aborted true
    | none => t) s1

def lcsMig (s : State) : Nat := packFields [(0, 32, s.mig.done), (32, 16, s.mig.failed), (48, 7, s.mig.entries.length)]

end Sys2Proof.Machine
end

