-- ==== Sys2Proof/Machine/Firmware.lean ====
section
/-! DEFINITION. Firmware update (R438 to R442): the session, the chunks and the checks at FINAL; MON_FW. -/

namespace Sys2Proof.Machine

def modMgc (s : State) (f : Mgc → Mgc) : State := { s with mgc := f s.mgc }

/-- The slot an update writes: not the one whose image runs. -/
def fwTarget (s : State) : Nat := 1 - runningSlot s

/-- The image of a slot; a slot that never held one, or was marked empty, holds none. -/
def fwSlot (s : State) (k : Nat) : Bytes := s.mgc.fwSlots.getD k []

/-- SECURITY_VERSION and RELEASE of an image. -/
def fwSecurity (b : Bytes) : Nat := byteAt b 5
def fwRelease (b : Bytes) : Nat := le b 8 4

/-- Check 1 of R440: the header is well formed. -/
def fwHeaderOk (b : Bytes) : Bool :=
  64 ≤ b.length && le b 0 4 = 0x4D495746 && byteAt b 4 = 1 && fwSecurity b ≤ 128 && zeroAt b 6 2 && zeroAt b 18 46 &&
    b.length = 64 + le b 12 4 + 4723

/-- Check 2: the part, and stepping B0. -/
def fwPartOk (s : State) (b : Bytes) : Bool := bitOf (byteAt b 16) (partCode s.dev.part - 1) && byteAt b 17 = devIdent s % 256

/-- Check 3: both signatures of R203's block verify over the header and the code. -/
def fwSigned (b : Bytes) : Bool :=
  let n := 64 + le b 12 4
  Config.renotteMldsa 1 (b.take n) (slice b n 4627) && Config.renotteEcdsa 1 (b.take n) (b.drop (n + 4627))

/-- The checks of R440, in order; `none` passes. -/
def fwCheck (s : State) (b : Bytes) : Option Status :=
  if !fwHeaderOk b || !fwPartOk s b then some .inputInvalid
  else if !fwSigned b then some .signatureInvalid
  else if fwSecurity b < s.lcs.rollback then some .inputInvalid else none

/-- The session belongs to another carrier. -/
def fwForeign (s : State) (c : Carrier) : Bool := match s.mgc.fwSession with
  | some x => x.carrier ≠ c
  | none => false

/-- Bytes of the image written so far. -/
def fwWritten (s : State) : Nat := (s.mgc.fwSession.map FwSession.written).getD 0

/-- A chunk is the next of the image: at OFFSET 0 it opens a session. The image is at most 8 MiB. -/
def fwFits (s : State) (off : Nat) (d : Bytes) : Bool := off = fwWritten s && off + d.length ≤ 2 ^ 23

/-- Write a chunk to the target slot; the first one replaces what the slot held, so that slot is no longer pending. -/
def fwWrite (s : State) (c : Carrier) (off : Nat) (d : Bytes) : State :=
  let t := fwTarget s
  modMgc s (fun m => { m with
    fwSlots := listSet m.fwSlots t ((fwSlot s t).take off ++ d)
    fwPending := if m.fwPending = some t then none else m.fwPending
    fwSession := some ⟨c, off + d.length, s.brt.count⟩ })

/-- FINAL: the image becomes the pending slot, or its slot is marked empty; the session ends. -/
def fwFinish (s : State) : Status × State :=
  let t := fwTarget s
  match fwCheck s (fwSlot s t) with
  | none => (.ok, modMgc s (fun m => { m with fwPending := some t, fwSession := none }))
  | some st => (st, modMgc s (fun m => { m with fwSlots := listSet m.fwSlots t [], fwSession := none }))

/-- A chunk, with FINAL or without: status, RESULT_INFO, state. -/
def fwChunk (s : State) (c : Carrier) (final : Bool) (off : Nat) (d : Bytes) : Status × Nat × State :=
  if fwForeign s c then (.reservationFailed, 0, s)
  else if !fwFits s off d then (.inputInvalid, 0, s)
  else
    let s1 := fwWrite s c off d
    if final then
      let r := fwFinish s1
      (r.1, if r.1 = .ok then fwTarget s else 0, r.2)
    else (.ok, 0, s1)

/-- The parameters' reserved bytes are zero. -/
def fwFormOk (q : Bytes) : Bool := byteAt q 4 ≤ 1 && zeroAt q 5 35

/-- The completion codes of PLDM firmware update that its answers carry in place of R95's (R21, R439; log 75): success, data or a
length that is not valid, a session of another carrier, an offset out of range, and a failed check. -/
def pldmOk : Nat := 0x00
def pldmBadData : Nat := 0x02
def pldmBusy : Nat := 0x81
def pldmRange : Nat := 0x82
def pldmFailed : Nat := 0x01

/-- The code of a chunk's outcome: a session of another carrier, a chunk that does not follow, an image that fails its checks. -/
def pldmCode (s : State) (off : Nat) (d : Bytes) (st : Status) : Nat :=
  if fwForeign s .mctp then pldmBusy else if !fwFits s off d then pldmRange else if st = .ok then pldmOk else pldmFailed

/-- A chunk over PLDM. -/
def pldmChunk (s : State) (final : Bool) (q d : Bytes) : State :=
  if !fwFormOk q || d = [] || 2 ^ 20 < d.length then emit s (.pldm pldmBadData [])
  else
    let r := fwChunk s .mctp final (le q 0 4) d
    emit r.2.2 (.pldm (pldmCode s (le q 0 4) d r.1) [])

/-- A chunk on an admin queue. -/
def admChunk (p : Fin 8) (final : Bool) (s : State) (c : Cmd) (d : Bytes) : State :=
  if !fwFormOk c.params then admDone s p .inputInvalid [] 0
  else
    let r := fwChunk s (.port p) final (le c.params 0 4) d
    admDone r.2.2 p r.1 [] r.2.1

/-- The front command of a port carries FINAL as `final` says; a value that is neither goes with the chunks. -/
def finalIs (s : State) (p : Fin 8) (final : Bool) : Bool := match admFront s p.val with
  | some c => (byteAt c.params 4 = 1) = final
  | none => false

/-- FW_UPDATE. -/
def execFwUpdate (c : Src) (s : State) : Host.Outcome State Fault Refusal := match c with
  | .port p => whenRunning s (if finalIs s p false then admRun s p 0xA (admChunk p false s) else s)
  | .mctp q d => mctpRun s (if byteAt q 4 = 1 then s else pldmChunk s false q d)

/-- FW_UPDATE with FINAL. -/
def execFwUpdateFinal (c : Src) (s : State) : Host.Outcome State Fault Refusal := match c with
  | .port p => whenRunning s (if finalIs s p true then admRun s p 0xA (admChunk p true s) else s)
  | .mctp q d => mctpRun s (if byteAt q 4 = 1 then pldmChunk s true q d else s)

/-- PLDM RequestUpdate opens a session (R439). -/
def pldmRequest (s : State) : State :=
  if s.mgc.fwSession.isSome then emit s (.pldm pldmBusy [])
  else emit (modMgc s (fun m => { m with fwSession := some ⟨.mctp, 0, s.brt.count⟩ })) (.pldm pldmOk [])

def execPldmRequestUpdate (s : State) : Host.Outcome State Fault Refusal := mctpRun s (pldmRequest s)

/-- FW_SESSION_TIMEOUT: 2^28 breaths without a chunk. -/
def fwTimeout (s : State) : State := match s.mgc.fwSession with
  | some x => if x.breath + 2 ^ 28 ≤ s.brt.count then modMgc s (fun m => { m with fwSession := none }) else s
  | none => s

def execFwSessionTimeout (s : State) : Host.Outcome State Fault Refusal := whenLive s (fwTimeout s)

/-- MON_FW. -/
def monFw (s : State) : Nat :=
  packFields [(0, 1, s.mgc.fwActive), (1, 1, flag s.mgc.fwPending.isSome), (2, 1, flag s.mgc.fwTrial), (3, 1, flag s.mgc.fwSession.isSome),
    (4, 8, s.lcs.rollback)]

end Sys2Proof.Machine
end

