-- ==== Sys2Proof/Machine/Monitors.lean ====
section
/-! DEFINITION. The monitor channels (R443 to R446): MONITOR_CFG, windows, snapshots, and the samples of a breath. -/

namespace Sys2Proof.Machine

def chanAt (s : State) (c : Nat) : MonChan := s.mgc.channels.getD c MonChan.init
def modChan (s : State) (c : Nat) (f : MonChan → MonChan) : State := modMgc s (fun m => { m with channels := listMod m.channels c f })

/-- The monitor snapshot (80 bytes). -/
def snapshotBytes (m : MonSet) : Bytes :=
  leBytes 4 m.min ++ leBytes 4 m.max ++ leBytes 4 m.samples ++ leBytes 4 m.lastBreath ++ m.bins.flatMap (fun b => leBytes 4 b)

/-- The active set, closed by the breath before this one. -/
def closedSet (s : State) (m : MonSet) : MonSet := { m with lastBreath := s.brt.count - 1 }

/-- A channel that restarts now. -/
def freshChan (s : State) (cfg : MonCfg) : MonChan := { MonChan.init with cfg := cfg, start := s.brt.count }

/-! ### Windows (R445) -/

/-- 2^k breaths have passed since a channel's window began. -/
def windowDue (s : State) (x : MonChan) : Bool :=
  x.cfg.source ≠ 0 && x.cfg.windowLog2 ≤ 30 && x.start + 2 ^ x.cfg.windowLog2 ≤ s.brt.count

/-- Sources that are sampled at each inhale. -/
def inhaleSource (n : Nat) : Bool := n = 3 || n = 4

/-- The value of a channel's inhale sample. -/
def inhaleValue (s : State) (x : MonChan) : Nat :=
  if x.cfg.source = 3 then s.mgc.readings.junction.getD x.cfg.index 0 else s.mgc.readings.millivolts.getD x.cfg.index 0

/-- Add the inhale sample of this breath to a channel. -/
def inhaleSampleOne (s : State) (x : MonChan) : MonChan :=
  if inhaleSource x.cfg.source then { x with active := monAdd x.cfg.bins (inhaleValue s x) x.active } else x

/-- The active set moves to the latch, with its alarm; the sample of this inhale is the first of the new set. -/
def windowMove (s : State) (c : Nat) : State :=
  let x := chanAt s c
  let moved := closedSet s x.active
  let s1 := modChan s c (fun y => inhaleSampleOne s { y with latched := moved, active := MonSet.init, start := s.brt.count })
  if x.cfg.limit < x.active.max then logEvent s1 0x0210 (leBytes 4 c ++ leBytes 4 x.active.max) else s1

/-- MONITOR_WINDOW_END, at the first inhale after the window's end. -/
def windowEnd (s : State) (c : Nat) : State := if atInhale s && windowDue s (chanAt s c) then windowMove s c else s

def execMonitorWindowEnd (c : Fin 64) (s : State) : Host.Outcome State Fault Refusal := whenRunning s (windowEnd s c.val)

/-! ### Snapshots (R446) -/

/-- Write one snapshot: the latched set, after a window that ends now; or the active set with every sample before this inhale, which
restarts the window. -/
def snapshotOne (s : State) (x : MonSnap) : State :=
  let s1 := if x.action = 1 then windowEnd s x.chan else s
  let m := if x.action = 1 then (chanAt s1 x.chan).latched else closedSet s1 (chanAt s1 x.chan).active
  let s2 := if x.action = 1 then s1 else modChan s1 x.chan (fun y => { y with active := MonSet.init, start := s1.brt.count })
  match x.asker with
  | some p => admDoneBy s2 p .ok (snapshotBytes m) 0 s2.brt.count
  | none => emit s2 (.mctp .ok (snapshotBytes m))

/-! ### MONITOR_CFG (R446) -/

def chanOf (q : Bytes) : Nat := byteAt q 0
def actionOf (q : Bytes) : Nat := byteAt q 1

/-- The settings in the parameters. -/
def cfgOf (q : Bytes) : MonCfg := ⟨byteAt q 2, byteAt q 3, byteAt q 4, le q 5 2, 0xFFFFFFFF⟩

/-- The parameters of an action: channel, reserved bytes, settings that exist. -/
def monFormOk (q : Bytes) : Bool :=
  chanOf q < 64 && zeroAt q 7 33 &&
    (if actionOf q = 0 then monCfgOk (cfgOf q) else actionOf q ≤ 3 && zeroAt q 2 5)

/-- The rights of R446: CONFIGURE, SNAPSHOT_AND_CLEAR and DISABLE on a GLOBAL port; the latency of an instance on its own port. -/
def monAllowed (s : State) (p : Fin 8) (q : Bytes) : Bool :=
  if actionOf q = 1 then
    let x := chanAt s (chanOf q)
    x.cfg.source ≠ 1 || (match tblGet s.insts x.cfg.index with
      | some i => i.port = p
      | none => false)
  else (portAt s p.val).global

/-- The effect of CONFIGURE: the channel restarts at the next inhale. -/
def monConfigure (s : State) (q : Bytes) : State := modChan s (chanOf q) (fun x => { x with next := some (cfgOf q) })

/-- The effect of DISABLE. -/
def monDisable (s : State) (q : Bytes) : State := modChan s (chanOf q) (fun x => { x with cfg := { x.cfg with source := 0 }, next := none })

/-- A snapshot on an admin queue is written at the next inhale; until then its command stays at the front of its ring (R65). -/
def admSnapshot (p : Fin 8) (s : State) (c : Cmd) : State :=
  if c.dataLen < 80 then admDone s p .inputInvalid [] 0
  else modMgc (modAdmQ s p.val startCmd) (fun m => { m with snaps := m.snaps ++ [⟨chanOf c.params, actionOf c.params, some p⟩] })

/-- MONITOR_CFG on an admin queue. -/
def admMonitor (p : Fin 8) (s : State) (c : Cmd) (_ : Bytes) : State :=
  if !monFormOk c.params then admDone s p .inputInvalid [] 0
  else if !monAllowed s p c.params then admDone s p .keyPolicy [] 0
  else if actionOf c.params = 0 then admDone (monConfigure s c.params) p .ok [] 0
  else if actionOf c.params = 3 then admDone (monDisable s c.params) p .ok [] 0
  else admSnapshot p s c

/-- MONITOR over MCTP, with the rights of a GLOBAL port. In HALTED no inhale follows, and a snapshot is answered at once. -/
def mctpMonitor (s : State) (q : Bytes) : State :=
  if !monFormOk q then emit s (.mctp .inputInvalid [])
  else if actionOf q = 0 then emit (monConfigure s q) (.mctp .ok [])
  else if actionOf q = 3 then emit (monDisable s q) (.mctp .ok [])
  else
    let x : MonSnap := ⟨chanOf q, actionOf q, none⟩
    if s.dev.mode = .halted then snapshotOne s x else modMgc s (fun m => { m with snaps := m.snaps ++ [x] })

/-- The front command of a port asks for an action; one that is none of the four goes with CONFIGURE. -/
def frontAction (s : State) (p : Fin 8) (action : Nat) : Bool := match admFront s p.val with
  | some c => actionOf c.params = action || (action = 0 && 3 < actionOf c.params)
  | none => false

/-- MONITOR_CFG with an action, from its carrier. -/
def monRun (c : Src) (action : Nat) (s : State) : Host.Outcome State Fault Refusal := match c with
  | .port p => whenRunning s (if frontAction s p action then admRun s p 0xB (admMonitor p s) else s)
  | .mctp q _ => mctpRun s (if actionOf q = action || (action = 0 && 3 < actionOf q) then mctpMonitor s q else s)

def execConfigure (c : Src) (s : State) : Host.Outcome State Fault Refusal := monRun c 0 s
def execSnapshot (c : Src) (s : State) : Host.Outcome State Fault Refusal := monRun c 1 s
def execSnapshotAndClear (c : Src) (s : State) : Host.Outcome State Fault Refusal := monRun c 2 s
def execDisable (c : Src) (s : State) : Host.Outcome State Fault Refusal := monRun c 3 s

/-! ### At the inhale -/

/-- The inhale for the channels: snapshots, settings that take effect, then the samples taken at an inhale. -/
def monitorsInhale (s : State) : State :=
  let s1 := s.mgc.snaps.foldl snapshotOne (modMgc s (fun m => { m with snaps := [] }))
  modMgc s1 (fun m => { m with channels := m.channels.map (fun x =>
    let y := match x.next with
      | some cfg => freshChan s1 cfg
      | none => x
    if windowDue s1 y then y else inhaleSampleOne s1 y) })

/-! ### At the end of a breath -/

/-- Reeds of a pool, and those a job occupies. -/
def reedUtil (s : State) (k : Nat) : Option Nat := match (poolsNow s).find? (fun p => p.id = k) with
  | none => none
  | some p =>
    let reeds := ((maskClusters p.mask).flatMap clusterReeds).filter (fun r => !reedMuted s r)
    let busy := (reeds.filter (fun r => (reedAt s r).job.isSome)).length
    if reeds = [] then none else some (busy * 256 / reeds.length)

/-- The corrected errors of a rank in this breath. -/
def eccThisBreath (s : State) (index : Nat) : Nat := (s.mgc.eccRecent.filter (fun e => e.1 = index && e.2 = s.brt.count)).length

/-- The sample of a channel at the end of a breath. What a port or a pipe group carried is not counted in the model: a free value. -/
def breathSampleOne (s : State) (c : Nat) : State :=
  let x := chanAt s c
  let put (t : State) (v : Nat) : State := modChan t c (fun y => { y with active := monAdd y.cfg.bins v y.active })
  if x.cfg.source = 2 || x.cfg.source = 6 then
    let (v, s1) := freshChoice 257 s
    put s1 v
  else if x.cfg.source = 5 then put s (heldCount s)
  else if x.cfg.source = 7 then (match reedUtil s x.cfg.index with
    | some v => put s v
    | none => s)
  else if x.cfg.source = 9 then put s (eccThisBreath s x.cfg.index) else s

def monitorsExhale (s : State) : State := (List.range 64).foldl breathSampleOne s

end Sys2Proof.Machine
end

