-- ==== Sys2Proof/Machine/Random.lean ====
section
/-! DEFINITION. The random number generator (R348 to R355, R358) and RANDOM jobs (R356, R357). -/

namespace Sys2Proof.Machine

def modRng (s : State) (f : Rng → Rng) : State := { s with rng := f s.rng }

/-! ### DRBGs (R350, R351, R353) -/

/-- Generate calls of an instance since its last reseed. -/
def drbgCalls (s : State) (i : Nat) : Nat := s.rng.calls.getD i 0

/-- The instance delivers: instantiated, no health failure, below the stretch limit. -/
def drbgRuns (s : State) (i : Nat) : Bool := s.rng.ready && !s.rng.alarm && drbgCalls s i < 2 ^ 20

/-- Due for reseed. -/
def drbgDue (s : State) (i : Nat) : Bool := 2 ^ 12 ≤ drbgCalls s i

/-- Count one generate call; one past 2^12 is stretched. -/
def drbgCount (s : State) (i : Nat) : State :=
  modRng s (fun r => { r with
    calls := listMod r.calls i (· + 1)
    stretched := if drbgDue s i then sat 32 (r.stretched + 1) else r.stretched })

/-- One generate call of `n` bytes. -/
def drbgDraw (s : State) (i n : Nat) : Bytes × State := freshBytes n (drbgCount s i)

/-- The instance that serves a reed (R350 table). -/
def reedDrbg (r : Nat) : Nat := 1 + reedCluster r % 14

/-- The instance a prediction-resistant read waits for. -/
def waiterDrbg : PrWaiter → Nat
  | .reed r => reedDrbg r
  | .job _ => 15

/-- The next waiter of the reeds, or of the host jobs, in the order the requests arose. -/
def nextReedWaiter (s : State) : Option PrWaiter := s.rng.waiting.find? (fun w => waiterDrbg w ≠ 15)
def nextHostWaiter (s : State) : Option PrWaiter := s.rng.waiting.find? (fun w => waiterDrbg w = 15)

/-- Instances 1 to 14 have one that is due. -/
def anyReedDue (s : State) : Bool := (List.range 14).any (fun i => drbgDue s (i + 1))

/-- Reseed an instance. -/
def reseedOf (s : State) (i : Nat) : State :=
  modRng s (fun r => { r with calls := listSet r.calls i 0, reseeds := sat 32 (r.reseeds + 1) })

/-- Grant a block to a waiter: its instance is reseeded with it. -/
def grantBlock (s : State) (i : Nat) (w : Option PrWaiter) : State := match w with
  | none => s
  | some x =>
    if waiterDrbg x = i then modRng (reseedOf s i) (fun r => { r with waiting := r.waiting.erase x, granted := r.granted ++ [x] }) else s

/-- DRBG_RESEED: the block goes to instance `i` where nothing of a higher priority waits (R351). -/
def drbgReseed (s : State) (i : Nat) : State :=
  if !s.rng.ready || s.rng.alarm then s
  else if i = 0 then (if drbgDue s 0 then reseedOf s 0 else s)
  else if drbgDue s 0 then s
  else if i < 15 then (if drbgDue s i then reseedOf s i else if anyReedDue s then s else grantBlock s i (nextReedWaiter s))
  else if anyReedDue s || (nextReedWaiter s).isSome then s
  else if drbgDue s 15 then reseedOf s 15 else grantBlock s 15 (nextHostWaiter s)

def execDrbgReseed (i : Fin 16) (s : State) : Host.Outcome State Fault Refusal := whenRunning s (drbgReseed s i.val)

/-- DRBG_STRETCH_LIMIT: at 2^20 calls the instance stops delivering until a reseed (R351); `drbgRuns` is that stop. -/
def execDrbgStretchLimit (_ : Fin 16) (s : State) : Host.Outcome State Fault Refusal := whenRunning s s

/-! ### RANDOM jobs (R356, R357) -/

def rndCount (j : Job) : Nat := le j.entry 32 4
def rndWait (j : Job) : Nat := byteAt j.entry 41

/-- Bytes of the key an ALG_ID makes; `none` for one that makes none. -/
def rndKeyLen (alg : Nat) : Option Nat :=
  if alg = 0x2001 then some 16 else if alg = 0x2002 then some 24 else if alg = 0x2003 then some 32
  else if alg = 0x2061 then some 32 else if alg = 0x2062 then some 48 else if alg = 0x2063 then some 64
  else if alg = 0x3101 ∨ alg = 0x3110 then some 32 else none

/-- Fields common to every RANDOM job. -/
def rndFieldsOk (j : Job) : Bool := jByteLen j ≤ 256 && rndWait j ≤ 20 && zeroAt j.entry 42 22

/-- Parse of RANDOM with ALG_ID 0. -/
def rndBytesCheck (j : Job) : Option Status :=
  if !rndFieldsOk j || jOutSlot j ≠ noSlot || !zeroAt j.entry 38 3 || rndCount j = 0 || 65536 < rndCount j || jOutLen j < rndCount j then
    some .inputInvalid
  else none

/-- Parse of RANDOM that makes a key. -/
def rndKeyCheck (s : State) (j : Job) : Option Status := match rndKeyLen (jAlg j) with
  | none => some .inputInvalid
  | some n =>
    if !rndFieldsOk j || rndCount j ≠ 0 || 2 ^ 12 ≤ jNewUsage j || 8 ≤ jNewPolicy j || jOutLen j < blobLen n then some .inputInvalid
    else if bitOf (jNewPolicy j) 0 then some .keyPolicy
    else match outSlotCheck s j.inst (jOutSlot j) with
      | .error st => some st
      | .ok () => if canWriteBlob s then none else some .keyPolicy

/-- A parsed RANDOM job waits for its generate call from the first inhale after its parse (R357). -/
def rndParse (s : State) (k : Nat) (j : Job) (bad : Option Status) : State := match bad with
  | some st => rejectJob s k st
  | none =>
    let s1 := modJob s k (fun x => { x with stage := .pending, due := nextInhale s })
    if jOutSlot j = noSlot then s1 else reserveSlot s1 j.inst (jOutSlot j)

/-- The generate call may begin: instance 15 runs, and has been reseeded for a PR_STRICT job. -/
def rndMayDraw (s : State) (k : Nat) (j : Job) : Bool :=
  drbgRuns s 15 && notResetting s j.inst && !s.dev.halting && (!jPrFlag j || s.rng.granted.contains (.job k))

/-- A PR_STRICT job asks for its reseed. -/
def rndAsk (s : State) (k : Nat) (j : Job) : State :=
  if jPrFlag j && !s.rng.waiting.contains (.job k) && !s.rng.granted.contains (.job k) then
    modRng s (fun r => { r with waiting := r.waiting ++ [.job k] })
  else s

/-- The generate call and the completion at the next inhale; a key is wrapped and loaded where OUT_SLOT says. -/
def rndDraw (s : State) (k : Nat) (j : Job) : State := match rndKeyLen (jAlg j) with
  | none =>
    let (b, s1) := drbgDraw s 15 (rndCount j)
    endOffLadder s1 k .ok b 0 (nextInhale s)
  | some n =>
    let (b, s1) := drbgDraw s 15 n
    let blob := domainBlob s1 (newBlobHdr s1 (jAlg j) (jNewUsage j) (jNewPolicy j) 0 j.inst b) b
    let s2 := if jOutSlot j = noSlot then s1 else fillSlot s1 j.inst (jOutSlot j) (jAlg j) (jNewUsage j) (jNewPolicy j) 0 b
    let s3 := match slotAt s2 j.inst (jOutSlot j) with
      | some x => if jOutSlot j = noSlot then s2 else mirror s2 recSlot (slotBody s2 j.inst (jOutSlot j) x)
      | none => s2
    endOffLadder s3 k .ok blob 0 (nextInhale s)

/-- The parsed job draws where it may, else it waits. -/
def rndGo (s : State) (k : Nat) : State := match tblGet s.jobs k with
  | none => s
  | some j =>
    if j.stage ≠ .pending || j.kind ≠ .random then s
    else if rndMayDraw s k j then rndDraw s k j else rndAsk s k j

/-- RANDOM_BYTES: parse, then the generate call as soon as it may begin. -/
def randomBytes (s : State) (k : Nat) : State := match tblGet s.jobs k with
  | none => s
  | some j =>
    if j.kind ≠ .random || jAlg j ≠ 0 then s
    else match parseable s k .random with
      | some j => rndGo (rndParse s k j (rndBytesCheck j)) k
      | none => rndGo s k

def execRandomBytes (j : Nat) (s : State) : Host.Outcome State Fault Refusal := whenRunning s (randomBytes s j)

/-- RANDOM_KEYGEN. -/
def randomKeygen (s : State) (k : Nat) : State := match tblGet s.jobs k with
  | none => s
  | some j =>
    if j.kind ≠ .random || jAlg j = 0 then s
    else match parseable s k .random with
      | some j => rndGo (rndParse s k j (rndKeyCheck s j)) k
      | none => rndGo s k

def execRandomKeygen (j : Nat) (s : State) : Host.Outcome State Fault Refusal := whenRunning s (randomKeygen s j)

/-- RANDOM_WAIT_TIMEOUT: at the inhale of P + 2^WAIT_LOG2. -/
def randomTimeout (s : State) (k : Nat) : State := match tblGet s.jobs k with
  | none => s
  | some j =>
    if j.kind = .random && j.stage = .pending && !s.brt.exhale && notResetting s j.inst && !haltHolds s && j.due + 2 ^ rndWait j ≤ s.brt.count then
      endOffLadder (modRng s (fun r => { r with notReady := sat 16 (r.notReady + 1) })) k .rngNotReady [] 0 s.brt.count
    else s

def execRandomWaitTimeout (j : Nat) (s : State) : Host.Outcome State Fault Refusal := whenRunning s (randomTimeout s j)

/-- MGMT_RNG_TIMEOUT: a management request held for 1,024 breaths before READY ends (R355). -/
def mgmtRngTimeout (s : State) (k : Nat) : State := match s.rng.held[k]? with
  | none => s
  | some (_, b) =>
    if b + 1024 ≤ s.brt.count then emit (modRng s (fun r => { r with held := r.held.eraseIdx k })) (.mctp .rngNotReady []) else s

def execMgmtRngTimeout (k : Nat) (s : State) : Host.Outcome State Fault Refusal := whenRunning s (mgmtRngTimeout s k)

/-- RNG_STATUS, RNG_WAIT. -/
def rngStatus (s : State) : Nat :=
  packFields [(0, 1, flag s.rng.ready), (1, 1, flag s.rng.alarm), (2, 1, s.rng.conditioner), (8, 16, s.rng.cellFail)]
def rngSupply (s : State) : Nat := packFields [(0, 32, s.rng.reseeds), (32, 32, s.rng.stretched)]
def rngWait (s : State) : Nat := packFields [(0, 16, s.rng.waiting.length), (16, 16, s.rng.notReady)]

end Sys2Proof.Machine
end

