-- ==== Sys2Proof/Machine/Release.lean ====
section
/-! DEFINITION. Ends of ladder jobs: JOB_RELEASE (R34, R37, R127, R213, R225, R227, R262, R265, R267) and BUDGET_EXCEEDED (R35, R174). -/

namespace Sys2Proof.Machine

/-! ### Stateful keys at release -/

/-- A generated key of its own: the device holds ceiling 0 for it and reserves the first block; KEYGEN has built the top tree
(R225, R227, R334). -/
def bornStateful (s : State) (key : Bytes) : State :=
  let pub := statefulPub key
  let s1 := putCeiling s pub 0
  askLeaf (modStateful s1 pub (fun k => { k with
    current := listSet k.current 0 (some (makeTree k.alg k.height key 0 0))
    ceiling := some 0
    counter := 0
    reserving := some 64 })) pub 64

/-- The tree of a level under which a lowest-level tree lies. -/
def treeAbove (k : Stateful) (level lowest : Nat) : Nat := lowest / 2 ^ (k.height * (k.levels - 1 - level))

/-- TREE_BUILD has built the highest pending current tree; or the next tree of the lowest level, with every parent tree of it not yet built
(R225). -/
def builtTree (key : Bytes) (k : Stateful) : Stateful :=
  let tree (l low : Nat) := makeTree k.alg k.height key l (treeAbove k l low)
  match findIdx? Option.isNone k.current with
  | some l => { k with current := listSet k.current l (some (tree l (lowestTree k))) }
  | none =>
    let low := lowestTree k + 1
    { k with next := (List.range k.levels).map (fun l =>
        if l + 1 = k.levels || (k.current.getD l none).any (fun t => t.index ≠ treeAbove k l low) then some (tree l low) else none) }

/-- The effect of a released TREE_BUILD. -/
def treeDone (s : State) (j : Job) : State := match slotAt s j.inst (jSlot j) with
  | none => s
  | some x => modStateful s (statefulPub x.material) (builtTree x.material)

/-- What a good result leaves in the windchest: the new secret in its slot, the trees built. -/
def keepResult (s : State) (j : Job) (r : JobResult) : State :=
  let s1 := match r.secret with
    | none => s
    | some n =>
      let a := if n.slot = noSlot then s else
        let b := fillSlot s j.inst n.slot n.alg n.usage n.policy n.kind n.key
        match slotAt b j.inst n.slot with
        | some x => mirror b recSlot (slotBody b j.inst n.slot x)
        | none => b
      if n.kind = 2 then bornStateful a n.key else a
  if j.kind = .pk && jOp j = opTreeBuild then treeDone s1 j else s1

/-! ### Release -/

/-- OK of a replayed job is OK_REPLAYED (R171). -/
def releasedStatus (j : Job) (st : Status) : Status := if st = .ok && j.replayed then .okReplayed else st

/-- The device's own job ended: what waited for it goes on (R262, R265, R267, R345). -/
def internalDone (s : State) (k : Nat) (what e : Nat) (st : Status) (input out : Bytes) : State :=
  if what = forSig1 then sig1Done s e st out
  else if what = forSig2 then sig2Done s e st out
  else if what = forVerify1 ∨ what = forVerify2 then verifyDone s e k st
  else if what = forAudit then auditDone s k st
  else if what = forAttest then attestDone s e st input out
  else s

/-- Release one held result: output, then completion; its reservations end and its job leaves. -/
def releaseJob (s : State) (k : Nat) (j : Job) : State := match j.result with
  | none => s
  | some r =>
    let st := releasedStatus j r.status
    let good : Bool := r.status = .ok
    let s1 := if good then keepResult s j r else s
    let s2 := dropJob s1 k
    match j.internal with
    | some (what, e) => internalDone s2 k what e st j.input (if good then r.out else [])
    | none =>
      let c := { jobCompl j st (if good then r.out else []) r.info with breath := s.brt.count }
      messageIfLast (latencySample (issueCompl s2 c) c) c.ring

/-- JOB_RELEASE: the next result due in this breath, in the bell's order (R127). -/
def jobRelease (s : State) : State :=
  if s.brt.exhale || haltHolds s then s
  else match nextRelease s with
    | none => s
    | some (k, j) => releaseJob s k j

def execJobRelease (s : State) : Host.Outcome State Fault Refusal := whenRunning s (jobRelease s)

/-! ### BUDGET_EXCEEDED (R35, R174) -/

/-- The job takes the abort micro-trap in this exhale: it is not posted, and the inhale of S + 8B is the next. -/
def budgetEnds (s : State) (j : Job) : Bool :=
  j.start.any (fun b => b + 8 * j.budget ≤ s.brt.count + 1) &&
    decide (j.stage = .running ∨ j.stage = .replayWait ∨ j.stage = .displaced ∨ j.stage = .assigned)

/-- The abort: nothing is written back, the job's memories are wiped with its units. Its completion ranks by the cluster that ran it, one that
holds no unit by cluster 0 (DESIGN CHOICE, log 87). -/
def budgetAbort (s : State) (k : Nat) : State := match tblGet s.jobs k with
  | none => s
  | some j =>
    let s1 := modJob (leaveUnits s k) k (fun x => { x with
      stage := .aborted
      abort := some .budgetExceeded
      due := s.brt.count + 1
      saved := none
      moveAt := none
      post := some (unitCluster j.unit, s.plc.nextPost) })
    { s1 with plc := { s1.plc with nextPost := s1.plc.nextPost + 1 } }

/-- Jobs whose last breath this exhale ends. -/
def budgetsExhale (s : State) : State := ((s.jobs.filter (fun e => budgetEnds s e.2)).map (·.1)).foldl budgetAbort s

/-- BUDGET_EXCEEDED: the job completes in its bell's order from the inhale of S + 8B on. -/
def budgetExceeded (s : State) (k : Nat) : State := match tblGet s.jobs k with
  | none => s
  | some j =>
    if s.brt.exhale || j.stage ≠ .aborted || j.abort ≠ some .budgetExceeded || s.brt.count < j.due then s
    else modJob s k (fun x => { x with
      stage := .held
      result := some ⟨.budgetExceeded, [], 0, none⟩
      due := s.brt.count
      rung := 8 })

def execBudgetExceeded (j : Nat) (s : State) : Host.Outcome State Fault Refusal := whenRunning s (budgetExceeded s j)

end Sys2Proof.Machine
end

