-- ==== Sys2Proof/Machine/Resets.lean ====
section
/-! DEFINITION. Resets and destruction of instances (R55, R63, R85 to R87). -/

namespace Sys2Proof.Machine

/-! ### The request, and its breath T -/

/-- A fetched control command not in execution does not run: it is dropped, or completes with INSTANCE_RESET. -/
def resetCommands (s : State) (i : Nat) (x : Inst) : State :=
  let keep := if inExecution x.ctl then x.ctl.cmds.take 1 else []
  let rest := if inExecution x.ctl then x.ctl.cmds.drop 1 else x.ctl.cmds
  let s1 := modInst s i (fun y => { y with ctl := { y.ctl with cmds := keep, data := if keep = [] then none else y.ctl.data } })
  if x.drain then rest.foldl (fun t c => addWaiting t (ctlCompl i c .instanceReset [] 0) 3 i (s.brt.count + 1)) s1 else s1

/-- The reset begins, in breath T: RESETTING; in GENERATION mode the generation rises at once. -/
def beginReset (s : State) (i : Nat) : State := match tblGet s.insts i with
  | none => s
  | some x =>
    let s1 := resetCommands s i x
    modInst s1 i (fun y => { y with
      state := .resetting
      gen := if y.drain then y.gen else (y.gen + 1) % 2 ^ 32 })

/-- Request a reset; one under way takes it in (R87). -/
def requestReset (s : State) (i : Nat) (ws : List ResetWait) : State := match tblGet s.insts i with
  | none => s
  | some x => match x.reset with
    | some r => modInst s i (fun y => { y with reset := some { r with waiters := r.waiters ++ ws } })
    | none =>
      let s1 := modInst s i (fun y => { y with reset := some ⟨requestBreath s, false, ws⟩ })
      if s.brt.exhale then s1 else beginReset s1 i

/-- Begin, at an inhale, the resets requested in the exhale before it. -/
def resetsInhale (s : State) : State :=
  ((s.insts.filter (fun e => e.2.state ≠ .resetting && (match e.2.reset with
    | some r => r.breath ≤ s.brt.count
    | none => false))).map (·.1)).foldl beginReset s

/-! ### The exhale of T -/

/-- A host job of an instance that the reset aborts: not one whose release has begun, nor one being cancelled. -/
def resetAborts (s : State) (i : Nat) (j : Job) : Bool :=
  j.inst = i && hostJob j && j.stage ≠ .aborting && j.stage ≠ .aborted && !(j.stage = .held && j.due ≤ s.brt.count) &&
    !(j.kind = .cancel && j.stage = .running)

/-- Abort a job for a reset: wiped, then dropped or due to complete with INSTANCE_RESET. -/
def resetJob (drain : Bool) (s : State) (k : Nat) : State :=
  if drain then abortNow (modJob s k (fun j => { j with abort := some .instanceReset })) k else dropJob (leaveUnits s k) k

/-- The exhale of T for one instance. -/
def resetExhaleOne (s : State) (i : Nat) : State := match tblGet s.insts i with
  | none => s
  | some x => ((s.jobs.filter (fun e => resetAborts s i e.2)).map (·.1)).foldl (resetJob x.drain) s

/-- The exhale of T for every instance being reset. -/
def resetsExhale (s : State) : State :=
  ((s.insts.filter (fun e => e.2.state = .resetting && (match e.2.reset with
    | some r => r.breath = s.brt.count
    | none => false))).map (·.1)).foldl resetExhaleOne s

/-! ### T + 1 and T + 2 -/

/-- The reset of an instance, once begun. -/
def resetOf (s : State) (i : Nat) : Option (Inst × ResetRun) := match tblGet s.insts i with
  | some x => if x.state = .resetting && !isDestroying x then x.reset.map (fun r => (x, r)) else none
  | none => none

/-- RESET_DRAIN_COMPLETIONS: in T + 1 the jobs of a DRAIN reset complete, in fetch order, off the ladder. -/
def drainCompletions (s : State) (i : Nat) : State := match resetOf s i with
  | none => s
  | some (x, r) =>
    if !x.drain || r.drained || s.brt.exhale || s.brt.count ≤ r.breath || haltHolds s then s
    else
      let ks := (s.jobs.filter (fun e => e.2.inst = i && e.2.stage = .aborted && e.2.abort = some .instanceReset)).map (·.1)
      let s1 := ks.foldl (fun t k => endOffLadder t k .instanceReset [] 0 s.brt.count) s
      modInst s1 i (fun y => { y with reset := some { r with drained := true } })

def execResetDrainCompletions (i : Nat) (s : State) : Host.Outcome State Fault Refusal := whenRunning s (drainCompletions s i)

/-- Nothing of the instance is still to be written (R86). -/
def instanceQuiet (s : State) (i : Nat) (x : Inst) : Bool :=
  !s.jobs.any (fun e => e.2.inst = i && hostJob e.2) && x.ctl.cmds = [] &&
    !s.waiting.any (fun w => match w.c.ring with
      | .inst k _ => k = i
      | .adm _ => false) &&
    x.queues.all (fun e => e.2.fence.isNone && e.2.held = [] && e.2.asleep = [])

/-- The instance after a reset (R85). -/
def resetInst (x : Inst) : Inst :=
  { x with
    state := .active
    errCause := 0
    gen := if x.drain then (x.gen + 1) % 2 ^ 32 else x.gen
    q0SqLog2 := 6
    q0CqLog2 := 6
    q0Vector := 0
    queues := [(0, Qp.init)]
    lastQueue := 0
    reset := none }

/-- A RESET_INSTANCE that waited completes at this inhale with the new generation (R86). -/
def resetWaiter (i gen : Nat) (s : State) (w : ResetWait) : State := match admFront s w.port.val with
  | some c => if c.opcode = 3 && c.started && le c.params 0 2 = i then admDoneBy s w.port .ok [] gen s.brt.count else s
  | none => s

/-- After the reset of a DESTROY_INSTANCE: the streams go, then the instance (R63). -/
def destroyAfterReset (s : State) (i : Nat) (x : Inst) (r : ResetRun) : State :=
  let s1 := modInst s i (fun _ => { resetInst x with state := .resetting, queues := [], reset := some r })
  finishDestroy ((streamsOf s1 i).foldl destroyStreamNow s1) i

/-- INSTANCE_RESET_DONE. -/
def instanceResetDone (s : State) (i : Nat) : State := match resetOf s i with
  | none => s
  | some (x, r) =>
    if s.brt.exhale || s.dev.halting || s.brt.count < r.breath + (if x.drain then 2 else 1) || (x.drain && !instanceQuiet s i x) then s
    else
      let s1 := wipeContexts s i
      if r.waiters.any ResetWait.destroy then destroyAfterReset s1 i x r
      else
        let y := resetInst x
        r.waiters.foldl (resetWaiter i y.gen) (modInst s1 i (fun _ => y))

def execInstanceResetDone (i : Nat) (s : State) : Host.Outcome State Fault Refusal := whenRunning s (instanceResetDone s i)

/-! ### Who requests (R55, R65, R85) -/

def resetInstance (p : Fin 8) (s : State) (c : Cmd) (_ : Bytes) : State :=
  let i := le c.params 0 2
  match ownInst s p i with
  | none => admDone s p .inputInvalid [] 0
  | some _ =>
    if !zeroAt c.params 2 38 then admDone s p .inputInvalid [] 0
    else requestReset (modAdmQ s p.val startCmd) i [⟨p, c.tag, false⟩]

def execResetInstance (p : Fin 8) (s : State) : Host.Outcome State Fault Refusal := whenRunning s (admRun s p 3 (resetInstance p s))

def destroyInstance (p : Fin 8) (s : State) (c : Cmd) (_ : Bytes) : State :=
  let i := le c.params 0 2
  match ownInst s p i with
  | none => admDone s p .inputInvalid [] 0
  | some _ =>
    if !zeroAt c.params 2 38 then admDone s p .inputInvalid [] 0
    else requestReset (modAdmQ s p.val startCmd) i [⟨p, c.tag, true⟩]

def execDestroyInstance (p : Fin 8) (s : State) : Host.Outcome State Fault Refusal := whenRunning s (admRun s p 2 (destroyInstance p s))

/-- VFQ_ICTL.RESET of a VF's instance. -/
def execVfResetRequest (p : Fin 8) (vf : Nat) (s : State) : Host.Outcome State Fault Refusal :=
  whenRunning s (match vfInst s p vf with
    | some (i, _) => if s.dev.halting then s else requestReset s i []
    | none => s)

/-- A VF FLR resets its instance and the VF's MSI-X table and power state; in HALTED and while halting no instance is reset. -/
def vfFlr (s : State) (p : Fin 8) (vf : Nat) : State :=
  if !(portAt s p.val).vfEnable || vf = 0 then s
  else
    let s1 := modPort s p.val (fun h => { h with vfs := tblDel h.vfs vf, noAccess := h.noAccess.filter (fun e => e.1 ≠ vf) })
    match instOf s1 p.val vf with
    | some (i, _) => if s.dev.halting || s.dev.mode = .halted then s1 else requestReset s1 i []
    | none => s1

def execVfFlr (p : Fin 8) (vf : Nat) (s : State) : Host.Outcome State Fault Refusal := whenLive s (vfFlr s p vf)

/-- What a reset of a port's PF does to its registers: the admin queue, the halt message, the MSI-X tables, VF Enable, the request sizes (a
function reset keeps Max_Payload_Size: PRESUMED, log 71), translations that gave no access; PERST_N and a hot reset latch TotalVFs from the chart
again. The PF's staged changes stay (log 13): R68's reset is the device's, since the changes of a mailbox and
of MCTP belong to no PCIe function. -/
def resetPort (s : State) (p : Fin 8) (k : PortReset) : State :=
  let n := chartCeiling s p.val
  { modPort s p.val (fun h => { h with
      totalVfs := if k = .pfFlr then h.totalVfs else n
      vfEnable := false
      pfD3hot := false
      adm := Adm.init
      haltVector := 0
      haltArmed := none
      msix := Msix.init
      vfs := []
      atsInv := []
      mps := if k = .pfFlr then h.mps else 0
      mrrs := 2
      noAccess := [] }) with
    waiting := s.waiting.filter (fun w => w.c.ring ≠ .adm p)
    mgc := { s.mgc with snaps := s.mgc.snaps.filter (fun x => x.asker ≠ some p) }
    twn := { s.twn with waits := s.twn.waits.filter (fun w => w.c.ring ≠ .adm p) } }

/-- PERST_N, hot reset or PF FLR (R49, R55); PERST_N also reaches a halted device's endpoint. -/
def portReset (s : State) (p : Fin 8) (k : PortReset) : State :=
  if !(portAt s p.val).formed then s
  else
    let s1 := dgpFreePort (resetPort s p k) p
    if s.dev.mode = .halted || s.dev.halting then s1
    else (portInsts s1 p).foldl (fun t i => requestReset t i []) s1

def execPerstNAssert (p : Fin 8) (k : PortReset) (s : State) : Host.Outcome State Fault Refusal := whenLive s (portReset s p k)

end Sys2Proof.Machine
end

