-- ==== Sys2Proof/Machine/Twin.lean ====
section
/-! DEFINITION. The twin (R409 to R419): the link, records sent and received, alignment, loss of the link, evidence, takeover. -/

namespace Sys2Proof.Machine

def modTwn (s : State) (f : Twn → Twn) : State := { s with twn := f s.twn }

/-! ### The partner's pins (R414, R417) -/

/-- TWIN_ALIVE_IN has toggled within the last 4,096 breaths. -/
def partnerAlive (s : State) : Bool := match s.twn.lastToggle with
  | some t => s.brt.count < t + 4096
  | none => false

/-- TWIN_ALIVE_IN has not toggled for 4,096 consecutive breaths. -/
def partnerGone (s : State) : Bool := match s.twn.lastToggle with
  | some t => t + 4096 ≤ s.brt.count
  | none => 4096 ≤ s.brt.count

/-- The evidence on which a SHADOW takes over: 1 the partner is halted, 2 the link is lost and the partner gone; 0 none. -/
def takeoverEvidence (s : State) : Nat :=
  if s.twn.partnerHalt then 1 else if s.twn.linkKey.isNone && partnerGone s then 2 else 0

def twnStatus (s : State) : Nat :=
  packFields [(0, 2, s.twn.role), (2, 1, flag s.dom.pair.isSome), (3, 1, flag (linkUp s)), (4, 1, flag s.twn.aligned),
    (5, 1, flag (partnerAlive s)), (6, 1, flag s.twn.partnerHalt), (7, 1, flag s.twn.split), (8, 1, flag s.twn.takeover),
    (16, 16, sat 16 s.twn.sent.length)]

/-! ### Training (R410) and the initial transfer (R419) -/

/-- Queue records for the exhale. -/
def queueRecords (s : State) (l : List (Nat × Bytes)) : State := l.foldl (fun t e => queueRecord t e.1 e.2) s

/-- RESERVE records for every ceiling held. -/
def reserveRecords (s : State) : List (Nat × Bytes) :=
  s.wch.stateful.filterMap (fun k => k.ceiling.map (fun c => (recReserve, leafBody k.pub c))) ++
    (s.bore.streams.filter (fun e => e.2.cls = .transit && !e.2.receive)).map (fun e => (recReserve, counterBody e.1 e.2.epoch e.2.ceiling))

/-- Everything a replacement needs, in order: the breath, the domain unless it holds it, the chart chain, every live item, the end. -/
def snapshotRecords (s : State) (package : Option Bytes) : List (Nat × Bytes) :=
  [(recAlign, leBytes 8 (requestBreath s + 1))] ++
    package.toList.map (fun p => (recDomain, [1] ++ zeros 7 ++ p)) ++
    (s.charts.full.toList ++ s.charts.deltas).map (fun x => (recChart, chartBody 0 x)) ++
    s.insts.map (fun e => (recInstance, instanceBody e.1 e.2)) ++
    s.bore.streams.map (fun e => (recStream, streamBody e.1 e.2)) ++
    (s.wch.slots.filter (fun e => !e.2.reserved && !e.2.corrupt)).map (fun e => (recSlot, slotBody s (e.1 / 16384) (e.1 % 16384) e.2)) ++
    reserveRecords s ++ [(recSnapshotEnd, [])]

/-- The running device of a pair starts the transfer; its own role is ACTIVE of a pair again. -/
def sendSnapshot (s : State) (h : TwinHello) : State :=
  if !((s.twn.role = 1 || s.twn.role = 3) && modeServing s) then s
  else
    let s0 := modTwn s (fun t => { t with role := 1 })
    let member := (s.dom.pair.map (·.2)).getD 0
    if h.member.toNat = member then queueRecords s0 (snapshotRecords s0 none)
    else
      let (p, s1) := packageFor s0 true member h.transportKey
      queueRecords s1 (snapshotRecords s1 p)

/-- The link is refused: the device stays unpaired and behaves as if the link were lost. -/
def refuseTwin (s : State) (id : Bytes) : State :=
  logEvent (modTwn s (fun t => { t with linkKey := none, aligned := false })) 0x020A (id.take 16)

/-- Whether the card refuses to train with what the hello names: not the partner of the pair record, or a part of another grade (R410). -/
def twinStranger (s : State) (h : TwinHello) : Bool :=
  !(s.dom.pair.elim false (fun p => decide (p.1 = recipientId h.transportKey))) || h.partIsLc ≠ onLc s || h.transportKey.length ≠ 1624

/-- The link key of the pair, from the two secrets with the lower member's first (R410). -/
def twinLinkKey (s : State) (h : TwinHello) (m e back : Bytes) : Option Bytes :=
  let id := recipientId h.transportKey
  let own := recipientId (transportPublic s)
  let lower : Bool := memberNumber s < h.member.toNat
  (hybridEncaps h.transportKey m e).map (fun x =>
    if lower then kmac256 (x.1 ++ back) (own ++ id) 32 (ascii "SYN1 twin link")
    else kmac256 (back ++ x.1) (id ++ own) 32 (ascii "SYN1 twin link"))

/-- A pair that has just keyed its link: sequence numbers from 0 and nothing sent or taken. -/
def twinLinked (s : State) (n : Nat) (key : Bytes) : State :=
  modTwn s (fun t => { t with
    linkKey := some key
    aligned := t.role = 1 || t.role = 3
    split := false
    nextSeq := 0
    ackIn := none
    ackOut := none
    toSend := []
    sent := []
    inbox := []
    lastRecord := n
    lastPulse := n
    snapshotDone := false })

/-- TWIN_LINK_TRAIN: with the partner the pair record names, of a matching part, the link key is derived. -/
def twinTrain (s : State) (h : TwinHello) : State :=
  let m := freshBytes 32 s
  let e := freshBytes 56 m.2
  let back := freshBytes 32 e.2
  if twinStranger s h then refuseTwin s (recipientId h.transportKey)
  else match twinLinkKey s h m.1 e.1 back.1 with
    | none => refuseTwin back.2 (recipientId h.transportKey)
    | some key => sendSnapshot (twinLinked back.2 s.brt.count key) h

def execTwinLinkTrain (h : TwinHello) (s : State) : Host.Outcome State Fault Refusal := whenRunning s (twinTrain s h)

/-! ### Sending (R411, R412) -/

/-- ACK_SEQ while nothing has been received. -/
def noAck : Nat := 2 ^ 64 - 1

/-- A HEARTBEAT: mode, partner-alive flag, chart generation. -/
def heartbeatBody (s : State) : Bytes :=
  leBytes 1 (modeCode s.dev.mode) ++ leBytes 1 (flag (partnerAlive s)) ++ zeros 2 ++ leBytes 4 (s.charts.inForce.elim 0 Chart.generation)

/-- Put one record on the link; it stays until it is acknowledged. -/
def sendRecord (s : State) (r : TwinRec) : State :=
  emit s (.twin r.kind r.breath r.seq (s.twn.ackIn.getD noAck) r.body)

def sendNew (s : State) (e : Nat × Bytes) : State :=
  let r : TwinRec := ⟨e.1, s.brt.count, s.twn.nextSeq, e.2⟩
  sendRecord (modTwn s (fun t => { t with nextSeq := t.nextSeq + 1, sent := t.sent ++ [r] })) r

/-- In the exhale: the records queued, in order, then a HEARTBEAT. -/
def twinExhale (s : State) : State :=
  if s.twn.linkKey.isNone then s
  else (s.twn.toSend ++ [(recHeartbeat, heartbeatBody s)]).foldl sendNew (modTwn s (fun t => { t with toSend := [] }))

/-- TWIN_RECORD_RESEND: in the exhale, records that the breath after their sending did not acknowledge. -/
def twinResend (s : State) : State :=
  if s.twn.linkKey.isNone || !s.brt.exhale then s
  else
    let late (r : TwinRec) : Bool := r.breath + 2 ≤ s.brt.count
    let again := (s.twn.sent.filter late).map (fun r => { r with breath := s.brt.count })
    again.foldl sendRecord (modTwn s (fun t => { t with sent := t.sent.map (fun r => if late r then { r with breath := s.brt.count } else r) }))

def execTwinRecordResend (s : State) : Host.Outcome State Fault Refusal := whenRunning s (twinResend s)

/-! ### Acknowledgement -/

/-- An acknowledged RESERVE record makes its ceiling durable (R227, R270). -/
def reserveAcked (s : State) (b : Bytes) : State :=
  if byteAt b 0 = 3 then confirmCeiling s (.leaf (b.drop 16)) (le b 8 8) else confirmCeiling s (.counter (le b 4 4) (le b 16 4)) (le b 8 8)

/-- Our records up to a number are acknowledged: ceilings hold, completions that waited are due at the next inhale. -/
def ackTo (s : State) (n : Nat) : State :=
  let acked := s.twn.sent.filter (fun r => r.seq ≤ n)
  let s1 := (acked.filter (fun r => r.kind = recReserve)).foldl (fun t r => reserveAcked t r.body) s
  let due := s.twn.waits.filter (fun w => w.seq ≤ n)
  due.foldl endWait (modTwn s1 (fun t => { t with
    sent := t.sent.filter (fun r => n < r.seq)
    waits := t.waits.filter (fun w => n < w.seq)
    ackOut := some n }))

/-! ### Receiving -/

/-- The next record number expected. -/
def expectedSeq (s : State) : Nat := (s.twn.ackIn.elim 0 (· + 1)) + s.twn.inbox.length

/-- A valid record arrives: it acknowledges, tells of the partner at once, and waits in order for the next inhale. -/
def twinReceive (s : State) (t : TwinIn) (kind : Nat) (f : State → State) : State :=
  if s.twn.linkKey.isNone || !t.tagOk then s
  else
    let s1 := modTwn s (fun x => { x with lastRecord := s.brt.count })
    let s2 := if t.ackSeq = noAck then s1 else ackTo s1 t.ackSeq
    if t.seq ≠ expectedSeq s then s2
    else f (modTwn s2 (fun x => { x with inbox := x.inbox ++ [⟨kind, t.breath.toNat, t.seq, t.body⟩] }))

/-- The device mirrors its partner: SHADOW, a former SHADOW in RECOVER, or a replacement that waits in TUNE (R419). -/
def mirrorTarget (s : State) : Bool :=
  s.twn.role = 2 || (s.twn.role = 0 && s.dev.mode = .tune && s.dev.prevMode = modeCode .boot)

def heartbeatIn (b : Bytes) (s : State) : State :=
  modTwn s (fun x => { x with partnerMode := byteAt b 0, partnerChart := le b 4 4, lastHeartbeat := s.brt.count })

/-- ALIGN: the count to adopt at the next pulse. -/
def alignIn (b : Bytes) (s : State) : State := if mirrorTarget s then modTwn s (fun x => { x with adopt := some (le b 0 8) }) else s

def execHeartbeat (t : TwinIn) (s : State) : Host.Outcome State Fault Refusal :=
  whenRunning s (twinReceive s t recHeartbeat (heartbeatIn t.body))
def execAlign (t : TwinIn) (s : State) : Host.Outcome State Fault Refusal := whenRunning s (twinReceive s t recAlign (alignIn t.body))
def execDomain (t : TwinIn) (s : State) : Host.Outcome State Fault Refusal := whenRunning s (twinReceive s t recDomain id)
def execChart (t : TwinIn) (s : State) : Host.Outcome State Fault Refusal := whenRunning s (twinReceive s t recChart id)
def execInstanceRec (t : TwinIn) (s : State) : Host.Outcome State Fault Refusal := whenRunning s (twinReceive s t recInstance id)
def execStream (t : TwinIn) (s : State) : Host.Outcome State Fault Refusal := whenRunning s (twinReceive s t recStream id)
def execSlot (t : TwinIn) (s : State) : Host.Outcome State Fault Refusal := whenRunning s (twinReceive s t recSlot id)
def execReserve (t : TwinIn) (s : State) : Host.Outcome State Fault Refusal := whenRunning s (twinReceive s t recReserve id)
def execSnapshotEnd (t : TwinIn) (s : State) : Host.Outcome State Fault Refusal := whenRunning s (twinReceive s t recSnapshotEnd id)

/-! ### What records do at the inhale -/

/-- A DOMAIN record: a package, or the officer set and generations. -/
def domainRecord (s : State) (b : Bytes) : State :=
  if byteAt b 0 = 1 then (openPackage s (b.drop 8)).2.2
  else match splitOfficers (maskOfficers (le b 2 2)) (b.drop 8) with
    | none => s
    | some (os, rest) => modDom s (fun d => { d with officers := os, gens := (genEntries rest).foldl addGen d.gens })

/-- A stored image of a CHART record. -/
def chartRecordImage (b : Bytes) : StoredImage :=
  let n := le b 8 4
  ⟨slice b 12 n, slice b (12 + n) 96, (chunks 4628 (b.drop (108 + n))).map (fun a => (byteAt a 0, a.drop 1))⟩

/-- A full chart of the partner's chain: stored and applied, unless it is in force already. -/
def fullRecord (s : State) (x : StoredImage) : State := match readFullChart (onLc s) x.image with
  | .good _ c =>
    if !storedOk s x || c.generation ≤ s.charts.inForce.elim 0 Chart.generation then s
    else applyFull { s with charts := { s.charts with full := some x, deltas := [] } } c
  | _ => s

/-- A delta of the partner: it waits for the breath the record names, or takes effect now if that is past; a later breath for one that
waits moves it. -/
def deltaRecord (s : State) (inhale : Nat) (x : StoredImage) : State :=
  match s.charts.deltaWait, s.charts.inForce with
  | some w, _ => if s.charts.deltas.getLast? = some x then { s with charts := { s.charts with deltaWait := some { w with inhale := inhale } } } else s
  | none, none => s
  | none, some base => match readDelta (onLc s) base x.image with
    | .good h c =>
      if !storedOk s x || h.base ≠ base.generation || h.generation ≠ h.base + 1 then s
      else
        let types := ((chartHeader x.image).bind (fun h => chartSections h.count (x.image.drop 64))).elim [] (fun l => l.map (·.1))
        let note := leBytes 1 2 ++ zeros 3 ++ slice x.msg 8 4 ++ slice x.msg 32 8
        let w : ChartWait := ⟨c, inhale, types, none, note, none⟩
        let s1 := { s with charts := { s.charts with deltas := s.charts.deltas ++ [x] } }
        if inhale ≤ s.brt.count then applyDelta s1 w else { s1 with charts := { s1.charts with deltaWait := some w } }
    | _ => s

def chartRecord (s : State) (b : Bytes) : State :=
  let x := chartRecordImage b
  match chartHeader x.image with
  | some h => if h.delta then deltaRecord s (le b 0 8) x else fullRecord s x
  | none => s

/-- Remove a destroyed instance with its slots, streams and contexts. -/
def dropInstance (s : State) (i : Nat) : State :=
  let slots := (s.wch.slots.filter (fun e => e.1 / 16384 = i)).map (fun e => e.1 % 16384)
  let s1 := slots.foldl (fun t h => freeSlot t i h) s
  let s2 := modBore s1 (fun b => { b with
    streams := b.streams.filter (fun e => e.2.inst ≠ i)
    flows := b.flows.filter (fun e => e.2.inst ≠ i)
    contexts := b.contexts.filter (fun e => e.1 / 4096 ≠ i) })
  { s2 with insts := tblDel s2.insts i }

def instanceRecord (s : State) (b : Bytes) : State :=
  let i := le b 2 2
  if byteAt b 0 = 2 then dropInstance s i
  else if h : le b 4 2 < 8 then
    match tblGet s.insts i with
    | some _ => modInst s i (fun x => { x with dmaShare := le b 20 2 })
    | none => { s with insts := tblPut s.insts i (instOfDesc ⟨le b 4 2, h⟩ (le b 6 2) (b.drop 8)) }
  else s

/-- The stream a STREAM record describes. -/
def recordStream (s : State) (b : Bytes) : Stream :=
  let code := byteAt b 10
  let fl := byteAt b 12
  let next := le b 62 2
  { inst := le b 8 2
    cls := if code = 1 then .preserve else if code = 2 then .transit else .lookaside
    recCode := byteAt b 11
    echo := bitOf fl 0
    defer1 := bitOf fl 1
    defer2 := bitOf fl 2
    receive := bitOf fl 3
    keySlot := le b 14 2
    descSlot := le b 14 2
    sig1 := le b 16 2
    sig2 := le b 18 2
    linkId := slice b 20 8
    carriage := byteAt b 28
    plainPort := byteAt b 29
    sealedPort := byteAt b 30
    remote := le b 32 4
    endpoint := ⟨BitVec.ofNat 48 (le b 36 6), BitVec.ofNat 128 (le b 42 16)⟩
    epoch := le b 58 4
    nextSlot := if next = noSlot then none else some next
    counter := 0
    ceiling := 0
    reserving := none
    bound := none
    opening := code = 1
    cached := true
    loading := false
    used := s.brt.count
    held := []
    rekey := false
    destroy := false }

def streamRecord (s : State) (b : Bytes) : State :=
  let sid := le b 4 4
  let x := recordStream s b
  if le b 0 4 = 2 then modBore s (fun o => { o with
    streams := tblDel o.streams sid
    flows := o.flows.filter (fun e => e.2.sid ≠ sid) })
  else match tblGet s.bore.streams sid with
    | some _ => modStream s sid (fun y => { y with
        keySlot := x.keySlot
        nextSlot := x.nextSlot
        epoch := x.epoch
        counter := if x.epoch = y.epoch then y.counter else 0
        ceiling := if x.epoch = y.epoch then y.ceiling else 0 })
    | none => addStream s sid x

/-- A SLOT record: an unload, or a key loaded without check 5 of R333. -/
def slotRecord (s : State) (b : Bytes) : State :=
  let i := le b 2 2
  let h := le b 4 2
  if byteAt b 0 = 2 then freeSlot s i h
  else match blobCheck s (b.drop 8) with
    | .error _ => s
    | .ok (d, key) => fillSlot s i h d.alg d.usage d.policy d.kind key

/-- A RESERVE record: the ceiling a takeover resumes at. -/
def reserveRecord (s : State) (b : Bytes) : State :=
  if byteAt b 0 = 3 then putCeiling s (b.drop 16) (le b 8 8)
  else modStream s (le b 4 4) (fun x => { x with epoch := le b 16 4, ceiling := le b 8 8, counter := le b 8 8 })

/-- The end of the initial transfer; a replacement in TUNE enters SHADOW at the inhale after its acknowledgement. -/
def snapshotRecord (s : State) : State :=
  let s1 := modTwn s (fun x => { x with snapshotDone := true })
  if s.dev.mode = .tune && s.charts.inForce.isSome then { s1 with dev := { s1.dev with modeReq := some (.shadow, s.brt.count + 1) } } else s1

def applyRecord (s : State) (r : TwinRec) : State :=
  if !mirrorTarget s then s
  else if r.kind = recDomain then domainRecord s r.body
  else if r.kind = recChart then chartRecord s r.body
  else if r.kind = recInstance then instanceRecord s r.body
  else if r.kind = recStream then streamRecord s r.body
  else if r.kind = recSlot then slotRecord s r.body
  else if r.kind = recReserve then reserveRecord s r.body
  else if r.kind = recSnapshotEnd then snapshotRecord s else s

/-- At the inhale: the records received are applied in order; the next exhale acknowledges them. -/
def twinInhale (s : State) : State :=
  s.twn.inbox.foldl (fun t r => modTwn (applyRecord t r) (fun x => { x with ackIn := some r.seq })) (modTwn s (fun x => { x with inbox := [] }))

/-! ### Alignment (R413) -/

/-- BREATH_SYNC_PULSE: a SHADOW that holds a count to adopt begins that breath now. -/
def syncPulse (s : State) : State := match s.twn.adopt with
  | none => modTwn s (fun x => { x with lastPulse := s.brt.count })
  | some n =>
    let s1 := modTwn s (fun x => { x with
      adopt := none
      aligned := true
      lastPulse := n
      lastRecord := n
      lastHeartbeat := n
      lastToggle := x.lastToggle.map (fun t => n - (s.brt.count - t)) })
    { s1 with brt := { s1.brt with count := n, cycle := 0, exhale := false } }

def execBreathSyncPulse (s : State) : Host.Outcome State Fault Refusal := whenRunning s (syncPulse s)

/-! ### Loss of the link (R414, R416) -/

/-- An ACTIVE device without a partner goes on alone: what waited for acknowledgements completes, and ceilings go to its journal. -/
def goAlone (s : State) : State :=
  if s.twn.role ≠ 1 then s
  else
    let s1 := s.twn.waits.foldl endWait (modTwn s (fun x => { x with role := 3, waits := [] }))
    let s2 := s1.wch.stateful.foldl (fun t k => match k.reserving with
      | some n => journalAsk t (.leaf k.pub) n
      | none => t) s1
    s2.bore.streams.foldl (fun t e => match e.2.reserving with
      | some n => journalAsk t (.counter e.1 e.2.epoch) n
      | none => t) s2

/-- The takeover's evidence arises in this breath (R418). -/
def takeEvidence (s : State) : State :=
  let e := takeoverEvidence s
  if s.twn.role ≠ 2 || s.dev.mode ≠ .shadow || s.twn.evidence.isSome || e = 0 then s
  else logEvent (modTwn s (fun x => { x with takeover := true, evidence := some s.brt.count })) 0x020B (leBytes 8 e ++ leBytes 8 s.brt.count)

/-- TWIN_LINK_LOST: no valid record, or no pulse, for 16 breaths. With the partner alive both enter RECOVER. -/
def linkLost (s : State) : State :=
  if s.twn.linkKey.isNone || (s.brt.count < s.twn.lastRecord + 16 && s.brt.count < s.twn.lastPulse + 16) then s
  else
    let s1 := modTwn s (fun x => { x with linkKey := none, aligned := false, toSend := [], sent := [], inbox := [] })
    if s.twn.role = 0 then s1
    else if partnerAlive s && !s.twn.partnerHalt then
      let s2 := modTwn s1 (fun x => { x with split := true })
      let leaves : Bool := s.dev.mode = .service || s.dev.mode = .migrate || s.dev.mode = .shadow
      logEvent (if leaves && !s.dev.halting then { s2 with dev := { s2.dev with modeReq := some (.recover, nextInhale s) } } else s2) 0x0209
        (leBytes 4 (twnStatus s2))
    else takeEvidence (goAlone s1)

def execTwinLinkLost (s : State) : Host.Outcome State Fault Refusal := whenRunning s (linkLost s)

def execTwinAliveEdge (s : State) : Host.Outcome State Fault Refusal :=
  whenRunning s (modTwn s (fun x => { x with lastToggle := some s.brt.count }))

/-- PARTNER_ALIVE_TIMEOUT: with the link lost the SHADOW has its evidence, and an ACTIVE goes on alone. -/
def aliveTimeout (s : State) : State :=
  if !partnerGone s || s.twn.linkKey.isSome then s else takeEvidence (goAlone s)

def execPartnerAliveTimeout (s : State) : Host.Outcome State Fault Refusal := whenRunning s (aliveTimeout s)

/-- TWIN_HALT_IN_N asserts. -/
def execTwinHaltIn (s : State) : Host.Outcome State Fault Refusal :=
  whenRunning s (takeEvidence (modTwn s (fun x => { x with partnerHalt := true })))
def execTwinHaltInRelease (s : State) : Host.Outcome State Fault Refusal :=
  whenRunning s (modTwn s (fun x => { x with partnerHalt := false }))

/-! ### Takeover (R418) -/

/-- Every instance as after a reset, with a new generation. -/
def takeInstances (s : State) : State :=
  { s with insts := s.insts.map (fun e => (e.1, { resetInst e.2 with gen := (e.2.gen + 1) % 2 ^ 32, ctl := CmdQ.init })) }

/-- Stateful keys and TRANSIT senders resume at their ceilings. -/
def resumeCeilings (s : State) : State :=
  let s1 := modWch s (fun w => { w with
    stateful := w.stateful.map (fun k => newStateful k.pub k.alg k.levels k.height (heldCeiling s k.pub)) })
  s1.bore.streams.foldl (fun t e =>
    if e.2.cls ≠ .transit || e.2.receive then t
    else
      let x := { e.2 with counter := e.2.ceiling }
      resumeFlow (modStream t e.1 (fun _ => x)) e.1 x) s1

/-- KEEPALIVE on every fabric port and to every node (R315). -/
def announce (s : State) : State :=
  let s1 := (s.pxt.ports.map (·.1)).foldl (fun t p => txFrame t p noPeer 0 (pxtBytes (nodeMsg tKeepalive 0))) s
  (s.pxt.cur.elim [] NodeTable.nodes).foldl (fun t n => txFrame t n.port (nodePeer n) n.carriage (pxtBytes (nodeMsg tKeepalive 0))) s1

/-- TAKEOVER: at the inhale of T + 1 the SHADOW becomes ACTIVE alone. -/
def takeover (s : State) : State := match s.twn.evidence with
  | none => s
  | some t =>
    if s.twn.role ≠ 2 || !atInhale s || s.brt.count ≤ t || s.dev.halting || !(s.dev.mode = .shadow || s.dev.mode = .recover) then s
    else
      let s1 := modTwn s (fun x => { x with role := 3, evidence := none, split := false, adopt := none })
      let s2 := { s1 with dev := { s1.dev with mode := .service, prevMode := modeCode s.dev.mode, modeBreath := s.brt.count, modeReq := none } }
      startWaiting (serialReserve (announce (resumeCeilings (takeInstances (regroup s2)))))

def execTakeover (s : State) : Host.Outcome State Fault Refusal := whenRunning s (takeover s)

end Sys2Proof.Machine
end

