-- ==== Sys2Proof/Machine/Regs.lean ====
section
/-! DEFINITION. The registers as they are read through a PF or a VF (R16 to R20, R50, R56 to R59), the reads that clear, and writes to
registers without a behaviour of their own. -/

namespace Sys2Proof.Machine

/-! ### Device-wide registers -/

def devMode (s : State) : Nat :=
  packFields [(0, 4, modeCode s.dev.mode), (4, 4, s.dev.prevMode), (8, 4, s.dev.haltCause), (12, 1, flag s.dev.haltImmediate),
    (13, 1, flag s.dev.halting)]

def brtCfg (s : State) : Nat := packFields [(0, 5, s.brt.log2Len), (8, 2, s.brt.clockStep)]

/-- T_max and the lowest sensor that gives it. -/
def tMax (r : Readings) : Nat := r.junction.foldl max 0
def hotSensor (r : Readings) : Nat := (findIdx? (fun t => decide (t = tMax r)) r.junction).getD 0
def monThermal (s : State) : Nat := packFields [(0, 11, tMax s.mgc.readings), (16, 5, hotSensor s.mgc.readings)]

def plcChart (s : State) : Nat := s.charts.inForce.elim 0 Chart.generation

def borEcho (s : State) : Nat := packFields [(0, 16, s.bore.mismatches), (16, 16, s.bore.echoAborts)]
def borAudit (s : State) : Nat := packFields [(0, 16, sat 16 s.bore.audits.length), (16, 16, s.bore.auditFailed)]
def borStreams (s : State) : Nat :=
  packFields [(0, 21, s.bore.streams.length), (32, 17, (s.bore.streams.filter (fun e => e.2.cached)).length)]

def prtPort (s : State) (p : Nat) : Nat :=
  let x := fabPort s p
  packFields [(0, 1, flag (fabCfg s p).isSome), (1, 2, (fabCfg s p).elim 0 FabCfg.role), (3, 2, (fabCfg s p).elim 0 (fun f => laneSpeed f.lanes)),
    (5, 1, flag x.linkUp), (6, 1, flag x.txAn.isSome), (7, 1, flag x.xoffSent), (8, 8, x.xoffRcvd), (32, 16, x.fecUncorr),
    (48, 16, x.macsecDrop)]

def pxtCfgReg (s : State) : Nat := packFields [(0, 16, (pxtCfg s).etherType), (16, 16, (pxtCfg s).udpPort)]
def pxtNodes (s : State) : Nat := packFields [(0, 32, s.pxt.cur.elim 0 NodeTable.gen), (32, 32, s.pxt.prev.elim 0 NodeTable.gen)]
def pxtCount (s : State) : Nat :=
  packFields [(0, 13, s.pxt.cur.elim 0 (fun t => t.nodes.length)), (16, 13, s.pxt.unreachable.length)]
def pxtDrops (s : State) : Nat :=
  packFields [(0, 16, s.pxt.badFrame), (16, 16, s.pxt.noMatch), (32, 16, s.pxt.overCredit), (48, 16, s.pxt.tagFail)]

def mprRange (s : State) (r : Nat) : Nat := match s.mpr.ranges[r]? with
  | none => 0
  | some x => packFields [(0, 16, x.base), (16, 16, x.size), (32, 1, flag x.oldKey.isSome), (40, 24, x.gen)]
def mprWrites (s : State) (r : Nat) : Nat := (s.mpr.ranges[r]?).elim 0 MemRange.writes
def mprSweep (s : State) (r : Nat) : Nat := (s.mpr.ranges[r]?).elim 0 MemRange.sweepPage

def lcsState (s : State) : Nat :=
  packFields [(0, 3, lcNow s), (4, 3, s.lcs.pendingTarget), (8, 3, 7 - popcount 7 s.lcs.tokenUsed),
    (12, 6, (s.lcs.records.filter (fun r => r.target ≠ 0)).length), (18, 1, flag s.lcs.otpErr), (19, 1, flag s.lcs.resolved),
    (20, 1, flag s.lcs.invasive), (21, 1, flag s.lcs.trace)]
def lcsMember (s : State) : Nat := packFields [(0, 18, memberNumber s), (31, 1, flag s.dom.member.isSome)]
def twnPartner (s : State) : Nat :=
  packFields [(0, 18, s.dom.pair.elim 0 (·.2)), (20, 4, s.twn.partnerMode), (32, 32, s.twn.lastHeartbeat)]

/-! ### Registers of a PF -/

/-- ADM_STATUS: READY says that admin commands are fetched in this mode (R94), whatever ENABLE is. -/
def admStatus (s : State) (p : Nat) : Nat :=
  let h := portAt s p
  let a := h.adm
  let fetches : Bool := s.dev.mode ≠ .boot && s.dev.mode ≠ .halted
  packFields [(0, 1, flag (!a.error && fetches)), (1, 1, flag (a.qp.out = 0)), (2, 1, flag a.cfgErr), (3, 1, flag h.global),
    (4, 1, flag a.error), (8, 4, a.errCause)]
def admCfg (a : Adm) : Nat := packFields [(0, 5, a.sqLog2), (8, 5, a.cqLog2), (16, 11, a.vector)]

def haltVec (h : HostPort) : Nat := packFields [(0, 11, h.haltVector), (31, 1, flag h.haltArmed.isSome)]

/-- A request mailbox: status, and its 32-bit words by offset from its base. -/
def boxStatus (s : State) (c : Carrier) : Nat :=
  packFields [(0, 1, flag (boxBusy (boxAt s c))), (1, 1, flag (boxStaged s c)), (2, 1, flag (boxAt s c).done), (16, 16, (boxAt s c).status)]
def boxWord (s : State) (c : Carrier) (off : Nat) : Nat :=
  let b := boxAt s c
  match off with
  | 0x00 => bitsOf b.reqAddr.toNat 31 0
  | 0x04 => bitsOf b.reqAddr.toNat 63 32
  | 0x08 => b.reqLen
  | 0x10 => bitsOf b.outAddr.toNat 31 0
  | 0x14 => bitsOf b.outAddr.toNat 63 32
  | 0x18 => b.outLen
  | 0x24 => boxStatus s c
  | 0x28 => b.change
  | _ => 0

/-- A digest port context as its owner reads it; nothing to others (R359). -/
def dgpWord (s : State) (a : DgpAgent) (c off : Nat) : Nat :=
  let d := dgpAt s c
  if d.owner ≠ some a then 0
  else if off = 0 then dgpCtrl d
  else if off = 4 then dgpStatus d
  else if off = 0x10 then bitsOf d.msg.length 31 0
  else if off = 0x14 then bitsOf d.msg.length 63 32
  else if 0x40 ≤ off ∧ off < 0x80 then dgpResult d ((off - 0x40) / 4) else 0

/-- An MSI-X table entry's words. -/
def msixWord (m : Msix) (off : Nat) : Nat :=
  let e := msixEntry m (off / 16)
  match off % 16 with
  | 0 => bitsOf e.addr.toNat 31 0
  | 4 => bitsOf e.addr.toNat 63 32
  | 8 => e.data.toNat
  | 12 => flag e.masked
  | _ => 0

/-- A word of the pending bit array. -/
def pbaWord (m : Msix) (k : Nat) : Nat := ((m.pending.filter (fun v => v / 32 = k)).map (fun v => 2 ^ (v % 32))).sum

/-- Device-wide registers by 64-bit offset. -/
def wideReg (s : State) (off : Nat) : Nat :=
  match off with
  | 0x000108 => s.brt.count
  | 0x050008 => rngSupply s
  | 0x060008 => s.dom.id
  | 0x060018 => lcsMig s
  | 0x068008 => twnPartner s
  | 0x070020 => mprEcc s.mpr
  | 0x070040 => mprFault s.mpr
  | 0x090000 => borPipes s
  | 0x090008 => borSerial s
  | 0x090010 => borCeiling s
  | 0x090028 => borStreams s
  | 0x098008 => pxtNodes s
  | 0x098018 => pxtDrops s
  | _ =>
    if 0x070100 ≤ off ∧ off < 0x070180 then mprRange s ((off - 0x070100) / 8)
    else if 0x070180 ≤ off ∧ off < 0x0701F8 then mprWrites s ((off - 0x070180) / 8)
    else if 0x070200 ≤ off ∧ off < 0x070278 then mprSweep s ((off - 0x070200) / 8)
    else if 0x080100 ≤ off ∧ off < 0x080180 then plcPool s ((off - 0x080100) / 8)
    else if 0x0A0000 ≤ off ∧ off < 0x0A0200 then prtPort s ((off - 0x0A0000) / 8) else 0

/-- Device-wide registers by 32-bit offset. -/
def narrowReg (s : State) (off : Nat) : Nat :=
  match off with
  | 0x000000 => devIdent s
  | 0x000004 => devMode s
  | 0x000100 => brtCfg s
  | 0x030000 => Config.ianaPen.toNat
  | 0x030008 => monThermal s
  | 0x030010 => s.mgc.alarms
  | 0x030018 => monFw s
  | 0x040000 => wchStatus s s.bore.journal.present
  | 0x040008 => s.wch.tamper
  | 0x040010 => wchSlots s
  | 0x050000 => rngStatus s
  | 0x050010 => rngWait s
  | 0x060000 => lcsState s
  | 0x060010 => lcsMember s
  | 0x068000 => twnStatus s
  | 0x070000 => mprStatus s.mpr
  | 0x080000 => plcChart s
  | 0x080004 => plcChain s
  | 0x088000 => belStatus s
  | 0x090018 => borEcho s
  | 0x090020 => borAudit s
  | 0x098000 => pxtCfgReg s
  | 0x098010 => pxtCount s
  | _ => 0

/-- Registers of a PF by 32-bit offset. -/
def ownReg (s : State) (p : Fin 8) (off : Nat) : Nat :=
  let h := portAt s p.val
  match off with
  | 0x00000C => haltVec h
  | 0x010000 => flag h.adm.qp.enable
  | 0x010004 => admStatus s p.val
  | 0x010008 => bitsOf h.adm.sqBase.toNat 31 0
  | 0x01000C => bitsOf h.adm.sqBase.toNat 63 32
  | 0x010010 => bitsOf h.adm.cqBase.toNat 31 0
  | 0x010014 => bitsOf h.adm.cqBase.toNat 63 32
  | 0x010018 => admCfg h.adm
  | _ =>
    if 0x020000 ≤ off ∧ off < 0x021000 then dgpWord s (.pf p) ((off - 0x020000) / 256) (off % 256)
    else if 0x040100 ≤ off ∧ off < 0x040130 then boxWord s (.wch p) (off - 0x040100)
    else if 0x060100 ≤ off ∧ off < 0x060130 then boxWord s (.lcs p) (off - 0x060100)
    else if 0x100000 ≤ off ∧ off < 0x108000 then msixWord h.msix (off - 0x100000)
    else if 0x108000 ≤ off ∧ off < 0x108100 then pbaWord h.msix ((off - 0x108000) / 4) else 0

/-- The high half of BRT_COUNT as a port reads it: what its last read of the low half latched; before any, the count's own. -/
def countHigh (s : State) (p : Nat) : Nat := (s.brt.latchHi.getD p none).getD (bitsOf s.brt.count 63 32)

/-- What a 32-bit read through a PF returns, its clearing and latching apart (R50, R57). -/
def pfRead (s : State) (p : Fin 8) (off : Nat) : Nat :=
  if off % 4 ≠ 0 || (s.dev.mode = .halted && 0x1000 ≤ off) then 0
  else if off = 0x00010C then countHigh s p.val
  else
    let w := wideReg s (off / 8 * 8)
    (if off % 8 = 0 then bitsOf w 31 0 else bitsOf w 63 32) + narrowReg s off + ownReg s p off

/-- VFQ_ISTAT of a VF. -/
def vfqIstat (e : Option (Nat × Inst)) : Nat := match e with
  | none => 0
  | some (i, x) => packFields [(0, 3, istatState x.state), (3, 1, flag x.drain), (8, 4, x.errCause), (16, 12, i)]

/-- VFQ_QCSR of a queue. -/
def vfqQcsr (x : Inst) (q : Nat) : Nat := match tblGet x.queues q with
  | none => 2
  | some qp => packFields [(0, 1, flag qp.enable), (1, 1, flag (qp.out = 0)), (2, 1, flag (q ≠ 0 || x.state ≠ .resetting))]

/-- What a 32-bit read through a VF returns (R56, R59). -/
def vfRead (s : State) (p : Fin 8) (vf off : Nat) : Nat :=
  if off % 4 ≠ 0 || s.dev.mode = .halted then 0
  else match vfInst s p vf with
    | none => 0
    | some (i, x) => match off with
      | 0x0000 => vfqIstat (some (i, x))
      | 0x0004 => x.gen
      | 0x0010 => bitsOf x.q0SqBase.toNat 31 0
      | 0x0014 => bitsOf x.q0SqBase.toNat 63 32
      | 0x0018 => bitsOf x.q0CqBase.toNat 31 0
      | 0x001C => bitsOf x.q0CqBase.toNat 63 32
      | 0x0020 => packFields [(0, 5, x.q0SqLog2), (8, 5, x.q0CqLog2), (16, 8, x.q0Vector)]
      | _ =>
        if 0x1000 ≤ off ∧ off < 0x2000 then msixWord (msixOf s p.val vf) (off - 0x1000)
        else if 0x3000 ≤ off ∧ off < 0x3020 then pbaWord (msixOf s p.val vf) ((off - 0x3000) / 4)
        else if 0x4000 ≤ off ∧ off < 0x8000 then vfqQcsr x ((off - 0x4000) / 4) else 0

/-! ### Reads with an effect (R17, R31) -/

/-- A PF's read: the value goes out on its port, and the register clears. In HALTED the blocks beyond the first 4 KiB read zero. -/
def pfReadClear (s : State) (p : Fin 8) (v : Nat) (clear : State → State) : Host.Outcome State Fault Refusal :=
  whenLive s (if !(portAt s p.val).formed then s
    else if s.dev.mode = .halted then emit s (.readData 0) else emit (clear s) (.readData v))

/-- BRT_COUNT_LOW_READ latches the high half for the port's next read. -/
def brtLowRead (s : State) (p : Nat) : State :=
  if !(portAt s p).formed then s
  else emit { s with brt := { s.brt with latchHi := listSet s.brt.latchHi p (some (bitsOf s.brt.count 63 32)) } } (.readData (bitsOf s.brt.count 31 0))

def execBrtCountLowRead (p : Fin 8) (s : State) : Host.Outcome State Fault Refusal := whenLive s (brtLowRead s p.val)
def execBelStatusRead (p : Fin 8) (s : State) : Host.Outcome State Fault Refusal :=
  pfReadClear s p (belStatus s) (fun t => { t with bell := ⟨0⟩ })
def execPrtPortRead (p : Fin 8) (f : Fin 64) (s : State) : Host.Outcome State Fault Refusal :=
  pfReadClear s p (prtPort s f.val) (fun t =>
    if tblHas t.pxt.ports f.val then modFab t f.val (fun x => { x with fecUncorr := 0, macsecDrop := 0 }) else t)
def execPxtDropsRead (p : Fin 8) (s : State) : Host.Outcome State Fault Refusal :=
  pfReadClear s p (pxtDrops s) (fun t => modPxt t (fun x => { x with badFrame := 0, noMatch := 0, overCredit := 0, tagFail := 0 }))
def execRngSupplyRead (p : Fin 8) (s : State) : Host.Outcome State Fault Refusal :=
  pfReadClear s p (rngSupply s) (fun t => modRng t (fun r => { r with reseeds := 0, stretched := 0 }))
def execRngWaitRead (p : Fin 8) (s : State) : Host.Outcome State Fault Refusal :=
  pfReadClear s p (rngWait s) (fun t => modRng t (fun r => { r with notReady := 0 }))
def execMprEccRead (p : Fin 8) (s : State) : Host.Outcome State Fault Refusal :=
  pfReadClear s p (mprEcc s.mpr) (fun t => { t with mpr := { t.mpr with corrected := 0, retries := 0 } })
def execMonAlarmsRead (p : Fin 8) (s : State) : Host.Outcome State Fault Refusal :=
  pfReadClear s p s.mgc.alarms (fun t => modMgc t (fun m => { m with alarms := 0 }))

/-! ### Writes (R57, R58) -/

/-- Replace the low or the high half of a 64-bit register. -/
def setHalf (x : BitVec 64) (high : Bool) (v : Nat) : BitVec 64 :=
  BitVec.ofNat 64 (if high then bitsOf x.toNat 31 0 + 2 ^ 32 * v else 2 ^ 32 * bitsOf x.toNat 63 32 + v)

/-- A 32-bit write to an admin ring register: ignored while ENABLE reads 1 (R467). -/
def admWord (a : Adm) (off v : Nat) : Adm :=
  if a.qp.enable then a
  else match off with
    | 0x08 => { a with sqBase := setHalf a.sqBase false v }
    | 0x0C => { a with sqBase := setHalf a.sqBase true v }
    | 0x10 => { a with cqBase := setHalf a.cqBase false v }
    | 0x14 => { a with cqBase := setHalf a.cqBase true v }
    | 0x18 => { a with sqLog2 := bitsOf v 4 0, cqLog2 := bitsOf v 12 8, vector := bitsOf v 26 16 }
    | _ => a

/-- A 32-bit write to a mailbox register. -/
def boxSetWord (b : Mailbox) (off v : Nat) : Mailbox :=
  match off with
  | 0x00 => { b with reqAddr := setHalf b.reqAddr false v }
  | 0x04 => { b with reqAddr := setHalf b.reqAddr true v }
  | 0x08 => { b with reqLen := bitsOf v 16 0 }
  | 0x10 => { b with outAddr := setHalf b.outAddr false v }
  | 0x14 => { b with outAddr := setHalf b.outAddr true v }
  | 0x18 => { b with outLen := bitsOf v 16 0 }
  | _ => b

/-- DGP_CTRL written without a command bit: the fields of the next INIT. -/
def dgpFields (c v : Nat) (d : Dgp) : Dgp :=
  if bitOf v 16 || bitOf v 17 || bitOf v 24 || bitOf v 25 then d else dgpSetCtrl d (decide (c < 4)) v

/-- An MSI-X table with an entry written; one as at reset is not listed. -/
def msixPut (m : Msix) (k : Nat) (e : MsixEntry) : Msix :=
  { m with table := if e = MsixEntry.init then tblDel m.table k else tblPut m.table k e }

/-- A 32-bit write to an MSI-X table: clearing the mask bit sends a pending message (R80). -/
def msixSetWord (s : State) (p vf off v : Nat) : State :=
  let k := off / 16
  let e := msixEntry (msixOf s p vf) k
  match off % 16 with
  | 0 => modMsix s p vf (fun m => msixPut m k { e with addr := setHalf e.addr false v })
  | 4 => modMsix s p vf (fun m => msixPut m k { e with addr := setHalf e.addr true v })
  | 8 => modMsix s p vf (fun m => msixPut m k { e with data := BitVec.ofNat 32 v })
  | 12 => if bitOf v 0 then modMsix s p vf (fun m => msixPut m k { e with masked := true })
    else if e.masked then msixUnmask s p vf k else s
  | _ => s

/-- DEV_HALT_VEC written with ARM 0: the vector, and disarmed. -/
def haltVecWrite (s : State) (p v : Nat) : State :=
  if bitOf v 31 then s else modPort s p (fun h => { h with haltVector := bitsOf v 10 0, haltArmed := none })

/-- A 32-bit write through a PF. -/
def pfWriteWord (s : State) (p : Fin 8) (off v : Nat) : State :=
  if off % 4 ≠ 0 || !(portAt s p.val).formed then s
  else if off = 0x00000C then haltVecWrite s p.val v
  else if 0x010000 ≤ off ∧ off < 0x010100 then modAdm s p.val (fun a => admWord a (off - 0x010000) v)
  else if 0x020000 ≤ off ∧ off < 0x021000 then
    (if off % 256 = 0 then dgpOwned s (.pf p) ((off - 0x020000) / 256) (dgpFields ((off - 0x020000) / 256) v) else s)
  else if 0x040100 ≤ off ∧ off < 0x040130 then modBox s (.wch p) (fun b => boxSetWord b (off - 0x040100) v)
  else if 0x060100 ≤ off ∧ off < 0x060130 then modBox s (.lcs p) (fun b => boxSetWord b (off - 0x060100) v)
  else if 0x100000 ≤ off ∧ off < 0x108000 then msixSetWord s p.val 0 (off - 0x100000) v else s

/-- Queue 0's ring registers, ignored while it is enabled (R58). -/
def vfqSetWord (x : Inst) (off v : Nat) : Inst :=
  if (tblGet x.queues 0).elim false Qp.enable then x
  else match off with
    | 0x10 => { x with q0SqBase := setHalf x.q0SqBase false v }
    | 0x14 => { x with q0SqBase := setHalf x.q0SqBase true v }
    | 0x18 => { x with q0CqBase := setHalf x.q0CqBase false v }
    | 0x1C => { x with q0CqBase := setHalf x.q0CqBase true v }
    | 0x20 => { x with q0SqLog2 := bitsOf v 4 0, q0CqLog2 := bitsOf v 12 8, q0Vector := bitsOf v 23 16 }
    | _ => x

/-- A 32-bit write through a VF. -/
def vfWriteWord (s : State) (p : Fin 8) (vf off v : Nat) : State :=
  if off % 4 ≠ 0 || vf = 0 || !(portAt s p.val).vfEnable || (portAt s p.val).totalVfs < vf then s
  else if 0x1000 ≤ off ∧ off < 0x2000 then msixSetWord s p.val vf (off - 0x1000) v
  else match vfInst s p vf with
    | none => s
    | some (i, _) => modInst s i (fun x => vfqSetWord x off v)

/-- REGISTER_WRITE: one or two words. -/
def registerWriteOp (s : State) (a : BarAddr) (wide : Bool) (v : Nat) : State :=
  let lo := bitsOf v 31 0
  let hi := bitsOf v 63 32
  match a with
  | .pf p off => if wide && off.toNat % 8 ≠ 0 then s
    else if wide then pfWriteWord (pfWriteWord s p off.toNat lo) p (off.toNat + 4) hi else pfWriteWord s p off.toNat lo
  | .vf p vf off => if wide && off.toNat % 8 ≠ 0 then s
    else if wide then vfWriteWord (vfWriteWord s p vf off.toNat lo) p vf (off.toNat + 4) hi else vfWriteWord s p vf off.toNat lo

def execRegisterWrite (a : BarAddr) (wide : Bool) (v : BitVec 64) (s : State) : Host.Outcome State Fault Refusal :=
  whenRunning s (registerWriteOp s a wide v.toNat)

end Sys2Proof.Machine
end

