-- ==== Sys2Proof/Machine/Mgmt.lean ====
section
/-! DEFINITION. The management controller: MCTP commands (R424 to R428), sensors, thermal steps and watchdog (R429 to R431, R457). -/

namespace Sys2Proof.Machine

def answer (s : State) (st : Status) (body : Bytes) : State := emit s (.mctp st body)

/-! ### Reads over MCTP (R426) -/

/-- GET_STATUS: DEV_MODE, LCS_STATE, TWN_STATUS, MON_ALARMS, MON_FW. -/
def statusBody (s : State) : Bytes :=
  leBytes 4 (devMode s) ++ leBytes 4 (lcsState s) ++ leBytes 4 (twnStatus s) ++ leBytes 4 s.mgc.alarms ++ leBytes 4 (monFw s)

/-- In SCRAP the endpoint reports the state and nothing else (R388). -/
def execGetStatus (s : State) : Host.Outcome State Fault Refusal :=
  whenLive s (answer s .ok (if lcNow s = lcScrap then leBytes 4 (lcsState s) else statusBody s))

/-- READ_SENSORS: every sensor's latest reading in the value codes of the monitor sources. -/
def sensorsBody (s : State) : Bytes :=
  (List.range 32).flatMap (fun i => leBytes 2 (s.mgc.readings.junction.getD i 0)) ++
    (List.range 16).flatMap (fun i => leBytes 2 (s.mgc.readings.millivolts.getD i 0))

def execReadSensors (s : State) : Host.Outcome State Fault Refusal := mctpRun s (answer s .ok (sensorsBody s))

/-- READ_LOG: sealed records from a SEQUENCE on, oldest first, up to 1,024. -/
def logBody (s : State) (n : Nat) : Bytes :=
  ((s.mgc.sealedLog.reverse.filter (fun r => n ≤ r.seq)).take 1024).flatMap (fun r => logBytes r ++ r.mac)

def execReadLog (n : Nat) (s : State) : Host.Outcome State Fault Refusal := mctpRun s (answer s .ok (logBody s n))

/-- QUERY_CHANGE: the class 4 report. -/
def queryChange (s : State) (idx : Nat) : State := match changeByLow s idx with
  | some (id, c) => answer s .ok (changeReport s id c)
  | none => answer s .inputInvalid []

def execQueryChange (idx : BitVec 16) (s : State) : Host.Outcome State Fault Refusal := mctpRun s (queryChange s idx.toNat)

/-! ### Settings over MCTP -/

def execSetTime (ms : BitVec 64) (s : State) : Host.Outcome State Fault Refusal :=
  mctpRun s (answer (modMgc s (fun m => { m with timeBase := some (ms.toNat, m.readings.millis) })) .ok [])

/-- SET_ENDPOINT_ID: the bus owner assigns the EID. The answer is MCTP control's own (R21): completion code 0, the assignment accepted, the
EID, no pool (log 75). -/
def execSetEndpointId (eid : Byte) (s : State) : Host.Outcome State Fault Refusal :=
  mctpRun s (emit (modMgc s (fun m => { m with eid := eid })) (.mctpControl 0 [0, eid, 0]))

/-- The payload of SET_CAK: a MACsec port, CKN length and CKN, CAK. -/
def cakOk (s : State) (b : Bytes) : Bool :=
  let n := byteAt b 1
  1 ≤ n && n ≤ 32 && b.length = 34 + n && ((fabCfg s (byteAt b 0)).elim false FabCfg.macsec)

/-- SET_CAK: the envelope opens under the transport key, which the device uses in PROVISIONED and CUSTODY only (R388). -/
def setCak (s : State) (d : Bytes) : State :=
  if !(lcNow s = lcProvisioned || lcNow s = lcCustody) then answer s .keyPolicy []
  else match openEnvelope (transportSeed s) (transportScalar s) (transportPublic s) d with
    | .wrongForm => answer s .inputInvalid []
    | .badTag => answer s .tagMismatch []
    | .payload b =>
      if cakOk s b then answer (modFab s (byteAt b 0) (fun x => { x with cak := b.drop 1 })) .ok [] else answer s .inputInvalid []

def execSetCak (d : Bytes) (s : State) : Host.Outcome State Fault Refusal := mctpRun s (setCak s d)

/-! ### Mode requests (R427) -/

/-- No halt and no other transition is under way. -/
def modeFree (s : State) : Bool := !s.dev.halting && s.dev.modeReq.isNone

/-- Answer a mode request: refused, or taken. -/
def modeAnswer (s : State) (ok : Bool) (t : State) : State := if ok then answer t .ok [] else answer s .inputInvalid []

/-- Ask for a transition at the next inhale. -/
def askMode (s : State) (r : ModeReq) : State := { s with dev := { s.dev with modeReq := some (r, nextInhale s) } }

/-- The alarm that an entry into RECOVER by request logs (R43): a record of the ALARM class whose code and data the catalogue does not
give (log 43). -/
def recoverAlarm (s : State) : State :=
  let (d, s1) := freshBytes 16 s
  logRecord s1 Config.recoverEventCode.toNat sevAlarm none d

def execModeRequestRecover (s : State) : Host.Outcome State Fault Refusal :=
  mctpRun s (modeAnswer s (modeFree s && (s.dev.mode = .service || s.dev.mode = .migrate || s.dev.mode = .shadow))
    (askMode (recoverAlarm s) .recover))

/-- The link is up, breaths are aligned, and the last heartbeat fits the device's own role (R416, R448). -/
def rolesAgree (s : State) : Bool :=
  let p := s.twn.partnerMode
  linkUp s && s.twn.aligned && (if s.twn.role = 2 then p = modeCode .service || p = modeCode .migrate || p = modeCode .recover
    else p = modeCode .shadow || p = modeCode .recover)

/-- RECOVER may be left (R43): pools at their minimum; in a pair, the twin agreed. -/
def recoverOver (s : State) : Bool := !anyPoolBelow s && (s.twn.role = 0 || s.twn.role = 3 || rolesAgree s)

/-- A former SHADOW with the evidence of R417 takes over; another goes back to its role. -/
def requestService (s : State) : State :=
  if !modeFree s || s.dev.mode ≠ .recover then answer s .inputInvalid []
  else if s.twn.role = 2 && takeoverEvidence s ≠ 0 && !anyPoolBelow s then
    answer (logEvent (modTwn s (fun t => { t with takeover := true, evidence := some s.brt.count })) 0x020B
      (leBytes 8 (takeoverEvidence s) ++ leBytes 8 s.brt.count)) .ok []
  else modeAnswer s (recoverOver s) (askMode s (if s.twn.role = 2 then .shadow else .service))

def execModeRequestService (s : State) : Host.Outcome State Fault Refusal := mctpRun s (requestService s)

/-- TUNE may be asked for. -/
def tuneFrom (s : State) : Bool :=
  modeFree s && s.dev.tuneReq.isNone && (s.dev.mode = .service || s.dev.mode = .shadow || s.dev.mode = .recover)

/-- The request of 16 bytes is staged as TUNE_ENTRY. -/
def requestTune (s : State) (q : Bytes) : State :=
  if q.length ≠ 16 || !tuneFrom s then answer s .inputInvalid [] else stageRequest s .mctp .tuneEntry q

def execModeRequestTune (q : Bytes) (s : State) : Host.Outcome State Fault Refusal :=
  mctpRun s (mctpDraw s (.mctp [] q) (requestTune s q))

/-- HALTED is entered by a controlled halt, from every mode. -/
def requestHalt (s : State) (eid : Byte) : State :=
  modeAnswer s (s.dev.mode ≠ .halted && !s.dev.halting) (controlledHalt s haltMgmt 0x0114 [eid])

def execModeRequestHalted (eid : Byte) (s : State) : Host.Outcome State Fault Refusal := mctpRun s (requestHalt s eid)

/-! ### Thermal steps (R430, R431) -/

/-- The code of a temperature in °C: quarters of a degree above -64 °C. -/
def degrees (c : Int) : Nat := ((c + 64) * 4).toNat

/-- The clock step that will be in force from the next inhale. -/
def stepNow (s : State) : Nat := s.brt.stepReq.getD s.brt.clockStep

/-- Ask for a step at the next inhale, and log it. -/
def thermalStep (s : State) (n : Nat) : State :=
  if n = stepNow s then s
  else
    let down : Bool := stepNow s < n
    let s1 := logEvent s 0x0201 (leBytes 1 (stepNow s) ++ leBytes 1 n ++ leBytes 2 (tMax s.mgc.readings))
    let s2 := { s1 with brt := { s1.brt with stepReq := some n } }
    if down then modMgc s2 (fun m => { m with stepDown := some m.readings.millis }) else s2

/-- Since when a reading has been low without a break. -/
def lowFor (now : Nat) (low : Bool) (since : Option Nat) : Option Nat := if low then some (since.getD now) else none

/-- 10 ms have passed since. -/
def longLow (now : Nat) (since : Option Nat) : Bool := match since with
  | some t => t + 10 ≤ now
  | none => false

/-- A step up is not barred by a step down within 100 ms. -/
def mayStepUp (m : Mgc) : Bool := match m.stepDown with
  | some t => t + 100 ≤ m.readings.millis
  | none => true

/-- The step decided at a sample. -/
def stepWanted (s : State) : Nat :=
  let t := tMax s.mgc.readings
  let n := stepNow s
  let now := s.mgc.readings.millis
  if degrees 104 ≤ t then 2
  else if degrees 100 ≤ t then max 1 n
  else if n = 2 && longLow now s.mgc.low98 && mayStepUp s.mgc then 1
  else if n = 1 && longLow now s.mgc.low94 && mayStepUp s.mgc then 0 else n

/-- Note since when T_max is low, then decide. -/
def thermalDecide (s : State) : State :=
  let t := tMax s.mgc.readings
  let s1 := modMgc s (fun m => { m with
    low98 := lowFor m.readings.millis (decide (t ≤ degrees 98)) m.low98
    low94 := lowFor m.readings.millis (decide (t ≤ degrees 94)) m.low94 })
  thermalStep s1 (stepWanted s1)

/-! ### Bands (R429) -/

/-- The sensors' bands as `warned` names them: voltage alarm, clock alarm, clock lost or beyond its action band, VBAT, cold junction, hot
junction. -/
def bandVolt : Nat := 0
def bandClock : Nat := 1
def bandClockAction : Nat := 2
def bandVbat : Nat := 3
def bandCold : Nat := 4
def bandHot : Nat := 5

/-- A sensor is outside a band or back within it: what that brings happens once, as it goes outside. -/
def band (s : State) (kind i : Nat) (outside : Bool) (f : State → State) : State :=
  let known : Bool := s.mgc.warned.contains (kind, i)
  if outside && !known then f (modMgc s (fun m => { m with warned := (kind, i) :: m.warned }))
  else if !outside && known then modMgc s (fun m => { m with warned := m.warned.filter (· ≠ (kind, i)) }) else s

/-- The VDD_CORE set point in force, 0.68 to 0.82 V (R457). -/
def coreSetPoint (s : State) : Nat := 680 + Config.avsSetPoint s.mgc.bootCount s.brt.clockStep % 141

/-- The alarm band of a voltage monitor but VBAT's, in mV. -/
def voltBand (s : State) (m : Nat) : Nat × Nat :=
  if m < 5 then (coreSetPoint s - 25, coreSetPoint s + 25)
  else if m < 7 then (825, 875)
  else if m < 9 then (1170, 1230)
  else if m < 11 then (875, 925)
  else if m < 13 then (1170, 1230)
  else if m = 13 then (1750, 1850) else (780, 820)

def voltSample (s : State) (m : Nat) : State :=
  let v := s.mgc.readings.millivolts.getD m 0
  if m = 15 then band s bandVbat 0 (decide (v < 2500)) (fun t => logEvent t 0x0204 (leBytes 2 v))
  else
    let b := voltBand s m
    band s bandVolt m (decide (v < b.1 ∨ b.2 < v)) (fun t => logEvent t 0x0202 (leBytes 2 m ++ leBytes 2 v))

/-- The deviation of a clock in DATA; a lost clock reads all ones. -/
def ppmBytes (d : Option Nat) : Bytes := leBytes 4 (d.getD 0xFFFFFFFF)

/-- A clock is off by more than `n` ppm, or lost. -/
def clockOff (d : Option Nat) (n : Nat) : Bool := match d with
  | some x => n < x
  | none => true

/-- A reference clock's alarm: clock 0 the system's, 1 to 4 PCIe's, 5 to 8 Ethernet's. -/
def clockAlarm (s : State) (k limit : Nat) (d : Option Nat) : State :=
  band s bandClock k (clockOff d limit) (fun t => logEvent t 0x0203 (leBytes 4 k ++ ppmBytes d))

/-- Links of the ports a lost reference clock feeds drop (R451). -/
def dropHostLinks (s : State) (k : Nat) : State :=
  ([2 * k, 2 * k + 1].filter (fun p => decide (p < 8))).foldl (fun t p => modPort t p (fun h => { h with width := 0, speed := 0 })) s
def dropFabricLinks (s : State) (j : Nat) : State :=
  ((s.pxt.ports.filter (fun e => e.1 / 16 = j)).map (·.1)).foldl (fun t p => modFab t p (fun y => { y with linkUp := false })) s

def pcieSample (s : State) (k : Nat) : State :=
  let d := s.mgc.readings.pciePpm.getD k (some 0)
  let s1 := clockAlarm s (1 + k) 300 d
  band s1 bandClockAction (1 + k) d.isNone (fun t => dropHostLinks t k)
def ethSample (s : State) (j : Nat) : State :=
  let d := s.mgc.readings.ethPpm.getD j (some 0)
  let s1 := clockAlarm s (5 + j) 100 d
  band s1 bandClockAction (5 + j) d.isNone (fun t => dropFabricLinks t j)

/-- The system reference: its alarm, and a controlled halt beyond 1,000 ppm or lost. -/
def sysSample (s : State) : State :=
  let d := s.mgc.readings.sysPpm
  band (clockAlarm s 0 200 d) bandClockAction 0 (clockOff d 1000) (fun t => controlledHalt t haltMgmt 0x0112 (ppmBytes d))

/-- The grade minimum of R3 less 5 °C. -/
def coldLimit (s : State) : Nat := if s.dev.part = .xe then degrees (-25) else degrees (-5)

/-- The junction sensors: cold alarm (the spec names no code for it: the log shows a step that changes nothing), halt at 110 °C. -/
def junctionSample (s : State) : State :=
  let t := tMax s.mgc.readings
  let n := stepNow s
  let s1 := band s bandCold 0 (decide (t ≤ coldLimit s)) (fun u => logEvent u 0x0201 (leBytes 1 n ++ leBytes 1 n ++ leBytes 2 t))
  band s1 bandHot 0 (decide (degrees 110 ≤ t)) (fun u =>
    controlledHalt u haltMgmt 0x0110 (leBytes 2 (hotSensor u.mgc.readings) ++ leBytes 2 t))

/-- A sample has 32 junction values and 16 voltages. -/
def readingsOk (r : Readings) : Bool :=
  r.junction.length = 32 && r.millivolts.length = 16 && r.pciePpm.length = 4 && r.ethPpm.length = 4 && r.junction.all (· < 2048) &&
    r.millivolts.all (· < 65536)

/-- SENSOR_SAMPLE: readings, alarms and actions; thermal steps while the core clock runs. -/
def sensorSample (s : State) (r : Readings) : State :=
  if !readingsOk r || r.millis < s.mgc.readings.millis then s
  else
    let s1 := (List.range 16).foldl voltSample (modMgc s (fun m => { m with readings := r }))
    let s2 := (List.range 4).foldl ethSample ((List.range 4).foldl pcieSample (sysSample s1))
    let s3 := junctionSample s2
    if s3.dev.mode = .halted then s3 else thermalDecide s3

def execSensorSample (r : Readings) (s : State) : Host.Outcome State Fault Refusal := whenLive s (sensorSample s r)

/-- VOLTAGE_FAULT: a rail outside its action band for 1 ms. VBAT has none. -/
def voltageFault (s : State) (m : Nat) : State :=
  if m = 15 then s else controlledHalt s haltMgmt 0x0111 (leBytes 2 m ++ leBytes 2 (s.mgc.readings.millivolts.getD m 0))

def execVoltageFault (m : Fin 16) (s : State) : Host.Outcome State Fault Refusal := whenLive s (voltageFault s m.val)

/-- THERMAL_COMPARATOR: the 104 °C step or the 110 °C halt, in hardware. -/
def execThermalComparator (halt : Bool) (s : State) : Host.Outcome State Fault Refusal :=
  whenLive s (if halt then
      controlledHalt s haltMgmt 0x0110 (leBytes 2 (hotSensor s.mgc.readings) ++ leBytes 2 (tMax s.mgc.readings))
    else if s.dev.mode = .halted then s else thermalStep s 2)

/-- CLOCK_STEP_APPLY: a decided step takes effect at an inhale (R32). -/
def clockStepApply (s : State) : State := match s.brt.stepReq with
  | some n => if atInhale s then { s with brt := { s.brt with clockStep := n, stepReq := none } } else s
  | none => s

def execClockStepApply (s : State) : Host.Outcome State Fault Refusal := whenRunning s (clockStepApply s)

/-- The trial image failed (R441): it is not tried again, and the device is reset. -/
def trialFailed (s : State) : State :=
  let s1 := logEvent s 0x0306 (leBytes 1 (1 - s.mgc.fwActive))
  modMgc { s1 with dev := { s1.dev with held := true } } (fun m => { m with fwTrial := false, fwPending := none })

/-- WATCHDOG_EXPIRE: a trial in BOOT fails; else a controlled halt. -/
def execWatchdogExpire (s : State) : Host.Outcome State Fault Refusal :=
  whenLive s (if s.dev.mode = .boot && s.mgc.fwTrial then trialFailed s else controlledHalt s haltMgmt 0x0115 [])

end Sys2Proof.Machine
end

