-- ==== Sys2Proof/Machine/Tamper.lean ====
section
/-! DEFINITION. Tamper and zeroing (R324 to R326), and the RNG's start-up and health events (R354, R358). -/

namespace Sys2Proof.Machine

/-! ### Tamper -/

/-- The WCH_TAMPER bit of a source. -/
def tamperBit : TamperSrc → Nat
  | .loop i => i.val
  | .tempLow => 4
  | .tempHigh => 5
  | .vbatLow => 6
  | .clockGlitch => 7
  | .voltGlitch => 8
  | .enclosure => 9

/-- The glitch detectors work only with VDD_CORE. -/
def tamperSenses (s : State) (t : TamperSrc) : Bool := match t with
  | .clockGlitch | .voltGlitch => s.dev.powerGood
  | _ => true

/-- What a powered device zeroes beside the VBAT secrets (R325): slots, domain secrets, the stream cache's derived keys, the clusters'
key caches. -/
def zeroKeys (s : State) : State :=
  { s with
    wch := { s.wch with slots := [], stateful := [] }
    dom := { s.dom with gens := [], attest := [], successors := [] }
    bore := { s.bore with
      streams := s.bore.streams.map (fun e => (e.1, { e.2 with cached := false }))
      flows := s.bore.flows.map (fun e => (e.1, { e.2 with key := [] })) }
    clusters := s.clusters.map (fun e => (e.1, { e.2 with keyCache := [] })) }

/-- A tamper source fires: its bit and ZEROED latch, the VBAT secrets are zeroed; a powered device zeroes its keys and begins a controlled
halt. -/
def tamperFire (s : State) (t : TamperSrc) : State :=
  if !tamperSenses s t then s
  else
    let s1 := modWch (zeroRoot s) (fun w => { w with tamper := w.tamper ||| 2 ^ tamperBit t ||| 2 ^ 16 })
    if !s.dev.powerGood then s1
    else
      let s2 := zeroKeys s1
      if isLive s2 then controlledHalt s2 haltMgmt 0x0113 (leBytes 4 s2.wch.tamper) else s2

/-- TAMPER_EVENT acts whether the device is powered or not. -/
def execTamperEvent (t : TamperSrc) (s : State) : Host.Outcome State Fault Refusal := .next (tamperFire s t)

/-- TAMPER_CLEAR by the management controller. -/
def execTamperClear (mask : BitVec 32) (s : State) : Host.Outcome State Fault Refusal :=
  whenLive s (modWch s (fun w => { w with tamper := w.tamper - (w.tamper &&& mask.toNat) }))

/-! ### RNG start-up (R354, R355) -/

/-- A root is to be drawn at this boot: a state that uses one found none valid (R322, R389). -/
def rootDue (s : State) : Bool := (lcNow s = lcProvisioned || lcNow s = lcCustody) && !s.wch.rootValid && !s.wch.rootNew

/-- Draw a new DCR with its check value: ROOT_NEW is set and logged, the event log's chain starts anew (R322, R436). -/
def newRoot (s : State) : State :=
  let (k, s1) := drbgDraw s 15 32
  let s2 := modWch s1 (fun w => { w with dcr := k, dcrCheck := dcrCheckOf k, rootNew := true })
  logEvent { s2 with mgc := { s2.mgc with logKey := some (kmac256 k [] 32 (ascii "SYN1 event log")), logMac := zeros 16 } } 0x0211
    (leBytes 4 s.wch.tamper)

/-- Draw the device export key where the VBAT domain holds none (R277). -/
def newExportKey (s : State) : State :=
  if s.wch.exportKey ≠ zeros 32 then s
  else
    let (k, s1) := drbgDraw s 15 32
    modWch s1 (fun w => { w with exportKey := k })

/-- The DRBGs are instantiated; instance 0 seeds the mask generators, instance 15 draws the slot MAC key, the range keys, and the root and
the export key where there is none. -/
def rngStart (s : State) : State :=
  let s1 := modRng s (fun r => { r with ready := true, calls := List.replicate 16 0, held := [] })
  let (k, s2) := drbgDraw (drbgCount s1 0) 15 32
  let s3 := drawRangeKeys (modWch s2 (fun w => { w with slotMac := k }))
  let s4 := newExportKey { s3 with mpr := { s3.mpr with keysReady := s3.mpr.trained } }
  if rootDue s then newRoot s4 else s4

/-- RNG_READY in BOOT. Requests held till now find the device in BOOT, where none of them acts. -/
def rngReady (s : State) : State :=
  if s.dev.mode ≠ .boot || s.rng.ready || s.rng.alarm || s.dev.halting then s
  else s.rng.held.foldl (fun t _ => answer t .inputInvalid []) (rngStart s)

def execRngReady (s : State) : Host.Outcome State Fault Refusal := whenRunning s (rngReady s)

/-- RNG_STARTUP_TIMEOUT: READY not set in time, or a known-answer test failed. -/
def rngStartupTimeout (s : State) : State :=
  if s.dev.mode ≠ .boot || s.rng.ready then s
  else
    let s1 := modRng s (fun r => { r with alarm := true })
    controlledHalt s1 haltRngStartup 0x0105 (leBytes 4 (rngStatus s1))

def execRngStartupTimeout (s : State) : Host.Outcome State Fault Refusal := whenRunning s (rngStartupTimeout s)

/-- RNG_HEALTH_FAIL: every DRBG stops at once (R358); in BOOT the cause is RNG_STARTUP. -/
def rngHealthFail (s : State) (cell : Nat) : State :=
  let s1 := modRng s (fun r => { r with alarm := true, ready := false, cellFail := r.cellFail ||| 2 ^ cell })
  if s.dev.mode = .boot then controlledHalt s1 haltRngStartup 0x0105 (leBytes 4 (rngStatus s1) ++ [1])
  else controlledHalt s1 haltRngHealth 0x0104 (leBytes 4 (rngStatus s1))

def execRngHealthFail (cell : Fin 16) (s : State) : Host.Outcome State Fault Refusal := whenRunning s (rngHealthFail s cell.val)

end Sys2Proof.Machine
end

