-- ==== Sys2Proof/Machine/Approve.lean ====
section
/-! DEFINITION. APPROVE (R65, R67, R68, R398 to R400, R426): the check of an officer's approval, and what the second one sets in motion. -/

namespace Sys2Proof.Machine

/-- The live staged change of a CHANGE_ID. -/
def liveChange (s : State) (id : Nat) : Option Change := match tblGet s.changes.live id with
  | some c => if s.brt.count < c.expiry then some c else none
  | none => none

/-- An enrolment that one approval by the officer being enrolled applies (R398): in PROVISIONED, with fewer than two officers. -/
def bootstraps (s : State) (c : Change) (officer : Nat) : Bool :=
  c.kind = .officer && c.data ≠ [] && byteAt c.params 0 = officer && lcNow s = lcProvisioned && s.dom.officers.length < 2 &&
    !tblHas s.dom.officers officer

/-- The approval verifies: under the officer's enrolled key, or under the key of the record being enrolled. -/
def approvalVerifies (s : State) (id : Nat) (c : Change) (officer : Nat) (sig : Bytes) : Bool :=
  let msg := approvalMessage s true id c
  if bootstraps s c officer then Config.mldsa87Verify (slice c.data 64 2592) (ascii "SYN1 approval") msg sig
  else approvalOk s officer msg sig

/-- What APPROVE fails with, in the order of R68. -/
def approveRefused (s : State) (id officer : Nat) (sig : Bytes) : Option Status := match liveChange s id with
  | none => some .inputInvalid
  | some c =>
    if 16 ≤ officer then some .inputInvalid
    else if !approvalVerifies s id c officer sig then some .signatureInvalid
    else if c.officer = some officer then some .keyPolicy else none

/-- A change whose application draws from the DRBG (R358). -/
def changeDraws (k : ChangeKind) : Bool :=
  k = .escrowExport || k = .domainFound || k = .domainAdmit || k = .domainRotate || k = .successorExport

/-- TUNE_ENTRY: the quiesce begins at the next inhale (R44). -/
def applyTune (s : State) : Status × Bytes × State :=
  if tuneFrom s then (.ok, [], { s with dev := { s.dev with tuneReq := some (nextInhale s) } }) else (.inputInvalid, [], s)

/-- What an approved change does: status, output, state. Charts have their own ways. -/
def applyChange (s : State) (c : Change) : Status × Bytes × State :=
  if s.rng.alarm && changeDraws c.kind then (.rngFailed, [], s)
  else match c.kind with
    | .fullChart | .chartDelta => (.inputInvalid, [], s)
    | .importDomain => openPackage s c.data
    | .officer => applyOfficer s (byteAt c.params 0) c.data
    | .tuneEntry => applyTune s
    | .escrowExport => applyEscrowExport s c.data
    | .escrowImport => applyEscrowImport s c.data
    | .grantClear => applyGrantClear s c.data
    | .lcTransition => applyLcTransition s c.data
    | .domainFound => applyDomainFound s c.data
    | .domainAdmit => exportPackage s true (le c.data 32 4) (c.data.drop 36)
    | .domainRotate => applyDomainRotate s
    | .successorExport => exportPackage s false 0 (c.data.drop 32)
    | .rewrap => applyRewrap s c.data
    | .twinEnrol => applyTwinEnrol s c.data
    | .debugGrant => applyDebugGrant s
    | .migrate => applyMigrate s c.carrier c.data

/-- End the APPROVE, with the approvals held, and the request it approved. Where a mirror record was queued, the APPROVE waits for its acknowledgement (R412). -/
def approveEnd (s0 : State) (c : Change) (a : Carrier × Nat) (held : Nat) (r : Status × Bytes × State) : State :=
  let s := r.2.2
  if r.1 = .ok && r.2.1 = [] && s0.twn.toSend.length < s.twn.toSend.length then
    approveMirrored (match c.carrier with
      | .wch _ | .lcs _ => boxShow s c.carrier .ok
      | .port _ | .mctp => s) a held
  else changeEnd s c.carrier (le c.params 0 8) a held r.1 r.2.1

/-- The approvals are complete: the change leaves the live list and acts. -/
def approveLast (s : State) (id : Nat) (c : Change) (aps : List (Nat × Bytes)) (a : Carrier × Nat) : State :=
  let s1 := dropChange s id
  match c.kind with
  | .fullChart => approveFull s1 id c aps a
  | .chartDelta => approveDelta s1 id c aps a
  | _ =>
    let r := applyChange s1 c
    approveEnd s1 c a aps.length (r.1, r.2.1, if r.1 = .ok then logEvent r.2.2 0x0301 (appliedNote id c) else r.2.2)

/-- The first approval of a change is held. -/
def approveFirst (s : State) (id officer : Nat) (sig : Bytes) (a : Carrier × Nat) : State :=
  approveDone { s with changes := { s.changes with
    live := tblMod s.changes.live id (fun c => { c with officer := some officer, approval := sig }) } } a .ok 1

/-- APPROVE of a change by an officer, from a carrier. -/
def approveOp (s : State) (id officer : Nat) (sig : Bytes) (a : Carrier × Nat) : State :=
  match approveRefused s id officer sig, liveChange s id with
  | some st, c => approveDone s a st (c.elim 0 (fun x => flag x.officer.isSome))
  | none, none => s
  | none, some c =>
    let s1 := logEvent s 0x0302 (leBytes 4 id ++ leBytes 1 officer)
    if bootstraps s c officer then approveLast s1 id c [(officer, sig)] a
    else match c.officer with
      | none => approveFirst s1 id officer sig a
      | some o => approveLast s1 id c [(o, c.approval), (officer, sig)] a

/-- APPROVE on an admin queue: the command is in execution from here on. -/
def admApprove (p : Fin 8) (s : State) (c : Cmd) (sig : Bytes) : State :=
  if !zeroAt c.params 5 35 then admDone s p .inputInvalid [] 0
  else approveOp (modAdmQ s p.val startCmd) (le c.params 0 4) (byteAt c.params 4) sig (.port p, le c.params 0 4)

/-- APPROVE over MCTP: CHANGE_ID and OFFICER in the parameters, the signature inline. -/
def mctpApprove (s : State) (q sig : Bytes) : State :=
  if sig.length ≠ 4627 || !zeroAt q 5 35 || s.dev.mode = .halted then answer s .inputInvalid []
  else approveOp s (le q 0 4) (byteAt q 4) sig (.mctp, le q 0 4)

def execApprove (c : Src) (s : State) : Host.Outcome State Fault Refusal := match c with
  | .port p => whenRunning s (admRun s p 7 (admApprove p s))
  | .mctp q d => mctpRun s (mctpApprove s q d)

end Sys2Proof.Machine
end

