-- ==== Sys2Proof/Machine/Modes.lean ====
section
/-! DEFINITION. Mode transitions (R42 to R45, R125, R415, R422): MODE_CHANGE, the quiesce before TUNE, the role a twin takes. -/

namespace Sys2Proof.Machine

/-- Enter a mode at this inhale. -/
def enterMode (s : State) (m : Mode) : State :=
  { s with dev := { s.dev with mode := m, prevMode := modeCode s.dev.mode, modeBreath := s.brt.count, modeReq := none } }

def setRole (s : State) (r : Nat) : State := modTwn s (fun t => { t with role := r })

/-- Work that a mode held back may start. -/
def resumeWork (s : State) : State := startWaiting (renewOpenings (regroup s) none)

/-- Enter SERVICE. -/
def enterService (s : State) : State := resumeWork (modTwn (enterMode s .service) (fun t => { t with split := false }))

/-- Enter SHADOW as the standby of a pair. -/
def enterShadow (s : State) : State := modTwn (enterMode s .shadow) (fun t => { t with role := 2, split := false })

/-! ### RECOVER (R43, R125) -/

/-- DATA of POOL_BELOW_MIN for the lowest such pool. -/
def poolBelowNote (s : State) : Bytes :=
  match s.charts.inForce.bind (fun ch => ch.pools.find? (poolBelowMin s ch)) with
  | some p => leBytes 1 p.id ++ leBytes 2 (poolReeds s p) ++ leBytes 1 (poolMaus s p)
  | none => []

/-- Enter RECOVER; a migration in progress ends (R422). -/
def enterRecover (s : State) : State :=
  let s1 := enterMode s .recover
  if s.dev.mode = .migrate then regroup (migrationRecover s1) else s1

/-- SERVICE, MIGRATE and SHADOW leave for RECOVER when a pool is below its minimum. -/
def poolsFail (s : State) : Bool :=
  (s.dev.mode = .service || s.dev.mode = .migrate || s.dev.mode = .shadow) && anyPoolBelow s

/-! ### The role of a twin (R415) -/

/-- A heartbeat has arrived since reset. -/
def heardTwin (s : State) : Bool := linkUp s && s.twn.lastHeartbeat ≠ 0

/-- The role a device takes under a chart: 0 solo, 1 ACTIVE, 2 SHADOW, 3 ACTIVE alone; `none`: it stays where it is. -/
def twinRole (s : State) (c : Chart) : Option Nat :=
  let p := s.twn.partnerMode
  if !c.twin then some 0
  else match s.dom.pair with
    | none => if partnerGone s then some 3 else none
    | some (_, member) =>
      if s.twn.partnerHalt then some 3
      else if heardTwin s && (p = modeCode .service || p = modeCode .migrate || p = modeCode .recover) then some 2
      else if heardTwin s && p = modeCode .boot then some (if memberNumber s < member then 1 else 2)
      else if !linkUp s && partnerGone s then some 3 else none

/-- An ACTIVE device of a new pair tells its partner the breath and what is live (R412, R413). -/
def becomeActive (s : State) : State := queueRecords (modTwn s (fun t => { t with role := 1, aligned := true })) (snapshotRecords s none)

/-- Take a role: SHADOW, or SERVICE. -/
def takeRole (s : State) (r : Nat) : State :=
  if r = 2 then enterShadow s else enterService (if r = 1 then becomeActive s else setRole s r)

/-- No role can be taken: SPLIT shows, and the device stays. -/
def noRole (s : State) : State := modTwn s (fun t => { t with split := true })

/-! ### Leaving TUNE (R43, R108) -/

/-- An ACTIVE member keeps its role; a device without one chooses it as at boot. -/
def leaveTuneNow (s : State) (c : Chart) : State :=
  let s1 := { s with charts := { s.charts with leaveTune := none } }
  if !c.twin then takeRole s1 0
  else if s.twn.role = 1 || s.twn.role = 3 then enterService s1
  else match twinRole s c with
    | some r => takeRole s1 r
    | none => noRole s

/-! ### MODE_CHANGE -/

/-- A requested transition whose inhale has come. -/
def requested (s : State) (r : ModeReq) : State := match r with
  | .recover => enterRecover s
  | .service => enterService s
  | .shadow => { enterShadow s with charts := { s.charts with leaveTune := none } }
  | .migrate => regroup (enterMode s .migrate)

/-- MODE_CHANGE, at an inhale: a pool below its minimum, a request, the end of a migration, or a chart applied in TUNE. -/
def modeChange (s : State) : State :=
  if !atInhale s || s.dev.halting then s
  else if poolsFail s then enterRecover (logEvent s 0x0207 (poolBelowNote s))
  else match s.dev.modeReq, s.charts.leaveTune, s.charts.inForce with
    | some (r, n), _, _ => if n ≤ s.brt.count then requested s r else s
    | none, some n, some c =>
      if s.dev.mode = .tune && n ≤ s.brt.count then leaveTuneNow s c else s
    | none, _, _ =>
      if migrationOver s then enterService { s with mig := { s.mig with active := false } } else s

def execModeChange (s : State) : Host.Outcome State Fault Refusal := whenRunning s (modeChange s)

/-! ### Quiesce and TUNE (R44) -/

/-- Enter TUNE. -/
def enterTune (s : State) : State :=
  let s1 := enterMode s .tune
  { s1 with dev := { s1.dev with quiesce := none, tuneReq := none } }

/-- QUIESCE_BEGIN: from this inhale Q no work queue is fetched and no opening credit granted. A SHADOW enters TUNE and stops mirroring. -/
def quiesceBegin (s : State) : State := match s.dev.tuneReq with
  | none => s
  | some n =>
    if !atInhale s || s.dev.halting || s.brt.count < n then s
    else if s.dev.mode = .shadow then enterTune (setRole s 0)
    else if s.dev.mode = .service || s.dev.mode = .recover then
      { s with dev := { s.dev with quiesce := some s.brt.count, tuneReq := none } }
    else s

def execQuiesceBegin (s : State) : Host.Outcome State Fault Refusal := whenRunning s (quiesceBegin s)

/-- Every submission fetched before Q is released, every extent is closed, every control command fetched has completed. -/
def quiesced (s : State) : Bool :=
  s.jobs.all (fun e => !hostJob e.2) && s.bore.flows.all (fun e => e.2.kind = .linkOut || e.2.kind = .linkIn) &&
    s.insts.all (fun e => decide (e.2.ctl.cmds = [])) && s.waiting.all (fun w => decide (w.cls ≠ 2 ∧ w.cls ≠ 3)) &&
    s.twn.waits.all (fun w => decide (w.cls ≠ 3))

/-- TUNE_ENTER, at an inhale after Q. -/
def tuneEnter (s : State) : State := match s.dev.quiesce with
  | some q => if atInhale s && !s.dev.halting && q < s.brt.count && quiesced s then enterTune s else s
  | none => s

def execTuneEnter (s : State) : Host.Outcome State Fault Refusal := whenRunning s (tuneEnter s)

end Sys2Proof.Machine
end

