-- ==== Sys2Proof/Machine/Boot.lean ====
section
/-! DEFINITION. Reset and BOOT (R43, R111, R322, R366, R389, R395, R441, R455, R456): POWER_ON_RESET, the end of the boot checks, power-down. -/

namespace Sys2Proof.Machine

/-! ### OTP (R393 to R395) -/

/-- The transitions of R391. -/
def lcMayFollow (a t : Nat) : Bool :=
  lcByOfficers a t || lcByRenotte a t || (a = lcRaw && t = lcTestUnlocked) || (a = lcTestUnlocked && t = lcRaw)

/-- The target a record names; `none` where TARGET is not one-hot. -/
def lcRecordTarget (r : OtpRecord) : Option Nat :=
  (List.range 6).find? (fun t => r.target = BitVec.ofNat 64 (2 ^ lcTargetBit t))

def lcRecordVoid (r : OtpRecord) : Bool := r.state = lcAllOnes
def lcRecordWhole (r : OtpRecord) (t : Nat) : Bool := r.state = lcStateWord t && r.commit = lcAllOnes

/-- A record's effect on the state in force; `none` is an invalid record. One never committed has no effect. -/
def lcFold (a : Option Nat) (r : OtpRecord) : Option Nat := match a with
  | none => none
  | some x =>
    if r.target = 0 || lcRecordVoid r then some x
    else match lcRecordTarget r with
      | none => none
      | some t =>
        if r.state &&& ~~~ lcStateWord t ≠ 0 then none
        else if !lcRecordWhole r t then some x
        else if lcMayFollow x t then some t else none

/-- The state in force under some records. -/
def lcInForce (rs : List OtpRecord) : Option Nat := rs.foldl lcFold (some lcRaw)

/-- The last record whose TARGET is nonzero. -/
def lcLast (rs : List OtpRecord) : Option Nat := ((List.range rs.length).filter (fun i => (rs.getD i ⟨0, 0, 0⟩).target ≠ 0)).getLast?

/-- The resolution of a torn last record: its index, the record as programmed, and 1 completed, 2 voided; `none`: nothing to resolve. A torn
record of a transition R391 does not allow stays as it is, and is invalid. -/
def lcTorn (rs : List OtpRecord) : Option (Nat × OtpRecord × Nat) := match lcLast rs with
  | none => none
  | some i =>
    let r := rs.getD i ⟨0, 0, 0⟩
    match lcRecordTarget r, lcInForce (rs.take i) with
    | some t, some a =>
      if lcRecordVoid r || lcRecordWhole r t || r.state &&& ~~~ lcStateWord t ≠ 0 || !lcMayFollow a t then none
      else if t = lcTestUnlocked then some (i, { r with state := lcAllOnes, commit := lcAllOnes }, 2)
      else some (i, { r with state := lcStateWord t, commit := lcAllOnes }, 1)
    | _, _ => none

/-- The last record is torn and its transition is not allowed. -/
def lcTornBad (rs : List OtpRecord) : Bool := match lcLast rs with
  | none => false
  | some i =>
    let r := rs.getD i ⟨0, 0, 0⟩
    match lcRecordTarget r, lcInForce (rs.take i) with
    | some t, some a => !lcRecordVoid r && !lcRecordWhole r t && !lcMayFollow a t
    | _, _ => false

/-- OTP is resolved and the state evaluated; what a boot forgets is forgotten. -/
def lcBoot (x : Lcs) : Lcs :=
  let rs := match lcTorn x.records with
    | some (i, r, _) => listSet x.records i r
    | none => x.records
  let bad : Bool := lcTornBad rs || (lcInForce rs).isNone
  { x with
    records := rs
    state := (lcInForce rs).getD lcScrap
    pendingTarget := 7
    otpErr := bad
    resolved := (lcTorn x.records).isSome
    invasive := false
    trace := false
    tokenTried := false }

/-! ### What outlasts a reset -/

/-- A write to the journal cut short is there whole, or torn and ignored (R250). -/
def cutJournal (s : State) : List (List Bytes) × State :=
  match s.bore.journal.write with
  | none => (s.bore.journal.sectors, s)
  | some (_, r) =>
    let (n, s1) := freshChoice 2 s
    (if n = 1 then appendRecord r s.bore.journal.sectors else s.bore.journal.sectors, s1)

/-- The device at reset: what VBAT, OTP and the SPI NOR hold stays, and the queue and the trace, which are the model's; straps are sampled
as PWR_GOOD rises (R453), when the export key is drawn anew (R277). -/
def bootKeeps (b : BootInfo) (s : State) : State :=
  let (sectors, s1) := cutJournal s
  let r := State.reset
  let rise := b.powerRise
  { r with
    pending := s1.pending
    out := s1.out
    free := s1.free
    dev := { r.dev with
      part := s.dev.part
      mctpAddr := if rise then b.mctpAddr else s.dev.mctpAddr
      busSel := if rise then b.busSel else s.dev.busSel }
    lcs := lcBoot s.lcs
    wch := { r.wch with
      dcr := s.wch.dcr
      dcrCheck := s.wch.dcrCheck
      exportKey := if rise then zeros 32 else s.wch.exportKey
      exportSerials := if rise then [] else s.wch.exportSerials
      tamper := s.wch.tamper }
    charts := { r.charts with full := s.charts.full, deltas := s.charts.deltas }
    dom := s.dom
    bore := { r.bore with
      exportSerial := s.bore.exportSerial
      journal := { r.bore.journal with present := true, sectors := sectors } }
    mgc := { r.mgc with
      sealedLog := s.mgc.sealedLog
      logSeq := s.mgc.logSeq
      logMac := s.mgc.logMac
      bootCount := s.mgc.bootCount + 1
      timeBase := if rise then none else s.mgc.timeBase
      readings := { r.mgc.readings with millis := if rise then 0 else s.mgc.readings.millis }
      fwSlots := s.mgc.fwSlots
      fwActive := s.mgc.fwActive
      fwPending := if s.mgc.fwTrial then some (1 - s.mgc.fwActive) else s.mgc.fwPending } }

/-! ### The windchest at boot (R321, R322, R389) -/

/-- The DCR passes its check, and no tamper bit is set (R322, R326). -/
def rootOk (s : State) : Bool := s.wch.dcr ≠ zeros 32 && s.wch.dcrCheck = dcrCheckOf s.wch.dcr && s.wch.tamper = 0

/-- RETURN zeroes the root; PROVISIONED and CUSTODY check it; where it is not valid no domain record can be unwrapped. -/
def bootRoot (s : State) : State :=
  let st := lcNow s
  let uses : Bool := st = lcProvisioned || st = lcCustody
  let ok : Bool := uses && rootOk s
  let s1 := modWch s (fun w => { w with
    dcr := if st = lcReturn then zeros 32 else w.dcr
    dcrCheck := if st = lcReturn then zeros 8 else w.dcrCheck
    rootValid := ok
    identityReady := uses || st = lcReturn })
  let s2 := { s1 with
    dom := if ok then s.dom else Domain.none
    mgc := { s1.mgc with logKey := if ok then some (kmac256 s.wch.dcr [] 32 (ascii "SYN1 event log")) else none } }
  serialsAtBoot s2

/-- LC_RESOLVED for a torn record of the boot before. -/
def bootResolved (old : Lcs) (s : State) : State := match lcTorn old.records with
  | some (i, _, n) => logEvent s 0x0304 (leBytes 1 i ++ leBytes 1 n)
  | none => s

/-! ### Memory, self-test, firmware -/

/-- Training of the DIMMs: a population R365 does not support holds the device in BOOT (R366). What the event names is the board's. -/
def bootMemory (d : Dimms) (s : State) : State :=
  if dimmsOk d then
    { s with mpr := { s.mpr with
        trained := true
        chMask := if d.channels = 8 then 0xFF else 0x0F
        speed := d.perChannel - 1
        capacity := d.channels * d.perChannel * d.dimmGiB } }
  else
    let (x, s1) := freshBytes 3 s
    logEvent { s1 with dev := { s1.dev with bootHold := true } } 0x020F x

/-- A unit that failed self-test is muted (R123). -/
def muteFailed (s : State) (u : UnitName) : State := match u with
  | .reed r => muteReed s r.val 3
  | .mau c => muteMau s c.val 3
  | .bellows c b => muteBellows s c.val b.val 3
  | .pipe p => muteUnit s u 3 0 p.val 3

/-- The image of a slot may run: it verifies, and its SECURITY_VERSION is not below the OTP count (R441, R442). -/
def mayBoot (s : State) (verifies : Bool) (slot : Nat) : Bool := verifies && s.lcs.rollback ≤ fwSecurity (fwSlot s slot)

/-- A pending image runs as a trial, or fails and is not tried again. -/
def bootTrial (b : BootInfo) (s : State) : State := match s.mgc.fwPending with
  | none => s
  | some k =>
    if mayBoot s b.trialVerifies k then modMgc s (fun m => { m with fwPending := none, fwTrial := true })
    else logEvent (modMgc s (fun m => { m with fwPending := none })) 0x0306 (leBytes 1 k)

/-- Without an image that may run the device stays in BOOT. -/
def bootFirmware (b : BootInfo) (s : State) : State :=
  let s1 := bootTrial b s
  if s1.mgc.fwTrial || mayBoot s1 b.activeVerifies s1.mgc.fwActive then s1
  else { s1 with dev := { s1.dev with bootHold := true } }

/-- Reset is released and BOOT begins. -/
def powerOn (b : BootInfo) (s : State) : State :=
  let s1 := bootResolved s.lcs (bootRoot (bootKeeps b s))
  bootFirmware b (b.failed.foldl muteFailed (bootMemory b.dimms s1))

/-- POWER_ON_RESET: PWR_GOOD rises, or SYS_RST_N is released with the power good. -/
def execPowerOnReset (b : BootInfo) (s : State) : Host.Outcome State Fault Refusal :=
  .next (if b.powerRise || s.dev.powerGood then powerOn b s else s)

/-- POWER_DOWN: PWR_GOOD falls; nothing further is issued, and HALT_N floats high. -/
def execPowerDown (s : State) : Host.Outcome State Fault Refusal :=
  .next { s with dev := { s.dev with powerGood := false, haltN := true } }

/-- SYS_RST_N_ASSERT: the device is held in reset. -/
def execSysRstNAssert (s : State) : Host.Outcome State Fault Refusal :=
  .next { s with dev := { s.dev with held := true, haltN := true } }

/-! ### The end of the boot checks (R43, R111) -/

/-- The stored full chart, where it verifies. -/
def bootFull (s : State) : Option Chart := match s.charts.full with
  | none => none
  | some x =>
    if !storedOk s x then none
    else match readFullChart (onLc s) x.image with
      | .good _ c => if domainOk s c.domainId && rangesInstalled s c then some c else none
      | _ => none

/-- A stored delta on the chart before it. -/
def bootDelta (s : State) (base : Option Chart) (x : StoredImage) : Option Chart := match base with
  | none => none
  | some c =>
    if !storedOk s x then none
    else match deltaCheck { s with charts := { s.charts with inForce := some c } } x.image with
      | .ok d => some d
      | .error _ => none

/-- The chart of the chain in SPI NOR; `none` where there is none or a check fails. -/
def bootChart (s : State) : Option Chart := s.charts.deltas.foldl (bootDelta s) (bootFull s)

/-- A trial image that reaches the end of BOOT becomes the active one (R441, R442). -/
def trialPassed (s : State) : State :=
  if !s.mgc.fwTrial || s.dev.mode = .boot then s
  else
    let k := runningSlot s
    let v := fwSecurity (fwSlot s k)
    logEvent (modMgc { s with lcs := { s.lcs with rollback := max s.lcs.rollback v } } (fun m => { m with fwActive := k, fwTrial := false }))
      0x0305 (leBytes 1 k ++ leBytes 4 (fwRelease (fwSlot s k)) ++ leBytes 1 v)

/-- The memory failed its integrity check at boot: which fault it was, and where, is not the model's to know. -/
def bootMemoryFault (s : State) : State :=
  let (k, s1) := freshChoice 7 s
  let (r, s2) := freshChoice 16 s1
  let (l, s3) := freshWord 35 s2
  let m := memFaulted s3.mpr (k + 1) r l.toNat
  immediateHalt { s3 with mpr := m } (memCause (k + 1)) (0x0100 + memCause (k + 1)) (leBytes 8 (mprFault m))

/-- The mode after BOOT. -/
def leaveBoot (s : State) : State := match bootChart s with
  | none => enterMode s .tune
  | some c =>
    let s1 := applyFull s c
    if anyPoolBelow s1 then enterMode (logEvent s1 0x0207 (poolBelowNote s1)) .recover
    else match twinRole s1 c with
      | some r => takeRole s1 r
      | none => noRole s1

/-- The checks can end: at an inhale of BOOT, with the RNG ready, the memory trained, and in PROVISIONED or CUSTODY. -/
def bootMayEnd (s : State) : Bool :=
  s.dev.mode = .boot && atInhale s && !s.dev.bootHold && !s.dev.halting && s.rng.ready && s.mpr.trained &&
    (lcNow s = lcProvisioned || lcNow s = lcCustody)

def execBootChecksComplete (memOk : Bool) (s : State) : Host.Outcome State Fault Refusal :=
  whenRunning s (if !bootMayEnd s then s else if memOk then trialPassed (leaveBoot s) else bootMemoryFault s)

end Sys2Proof.Machine
end

