-- ==== Sys2Proof/Machine/Cipher.lean ====
section
/-! DEFINITION. Lookaside ciphers (R257, R258, R272 to R276, R278, R281): CIPHER_JOBs, their contexts and the slices of the lookaside pipes. -/

namespace Sys2Proof.Machine

/-! ### Lengths (R272, R274, R278) -/

/-- Bytes of tag at the end of the input. -/
def cipherTagIn (j : Job) : Nat :=
  if jOp j = 1 && jLast j && (jMode j = 4 || jMode j = 5 || jMode j = 9) then jTagLen j else 0

/-- Bytes of data. -/
def cipherDataLen (j : Job) : Nat := jByteLen j - jAadLen j - cipherTagIn j

/-- A data length of the table. -/
def modeLenOk (m op n : Nat) : Bool :=
  if m = 1 then n % 16 = 0
  else if m = 2 then op = 0 || (n % 16 = 0 && 16 ≤ n)
  else if m = 6 then 16 ≤ n && n ≤ 2 ^ 24
  else if m = 7 then n % 8 = 0 && 16 ≤ n && n ≤ 65536
  else if m = 8 then (if op = 0 then 1 ≤ n && n ≤ 65536 else n % 8 = 0 && 16 ≤ n && n ≤ 65544)
  else true

/-- A mode whose messages are one job, in this direction. -/
def singleOnly (m op : Nat) : Bool := (5 ≤ m && m ≤ 8) || (m = 4 && op = 1)

/-- The segment rules and the lengths. -/
def cipherLenOk (j : Job) : Bool :=
  jAadLen j + cipherTagIn j ≤ jByteLen j && modeLenOk (jMode j) (jOp j) (cipherDataLen j) &&
    (jLast j || cipherDataLen j % 16 = 0) && (!singleOnly (jMode j) (jOp j) || (jFirst j && jLast j))

/-- The least output buffer: the output's length, or the least it can be where the data decides. -/
def cipherOutLen (j : Job) : Nat :=
  let n := cipherDataLen j
  let m := jMode j
  if m = 2 then (if !jLast j then n else if jOp j = 0 then n / 16 * 16 + 16 else n - 1)
  else if m = 4 || m = 5 then (if jOp j = 0 && jLast j then n + jTagLen j else n)
  else if m = 7 then (if jOp j = 0 then n + 8 else n - 8)
  else if m = 8 then (if jOp j = 0 then roundUp n 8 + 8 else n - 8)
  else if m = 9 then (if jOp j = 0 && jLast j then jTagLen j else 0)
  else n

/-! ### Key and context (R272, R274) -/

/-- The ALG_ID of the key a mode takes. -/
def cipherKeyAlg (alg : Nat) : Nat := (if cMode alg = 6 then 0x2060 else 0x2000) + cSize alg

/-- The usage bit an operation needs (R328 table). -/
def cipherUsage (m op : Nat) : Nat := if m = 9 then 9 else (if m = 7 || m = 8 then 7 else 5) + op

/-- The handle of the job's key: SLOT, or that of the stream's epoch it was fetched under. -/
def cipherHandle (j : Job) : Option Nat := if jSlot j = noSlot then j.frame.map (·.2) else some (jSlot j)

/-- The key pairs with the mode and allows the operation. -/
def cipherKeyOk (alg op : Nat) (x : Slot) : Bool :=
  x.alg = cipherKeyAlg alg && !(cMode alg = 5 && cSize alg = 2) && bitOf x.usage (cipherUsage (cMode alg) op)

def ctxOf (s : State) (j : Job) : Option CipherCtx := tblGet s.bore.contexts (contextKey j.inst (jContext j))

/-- The stream and epoch a job's key comes from. -/
def cipherSource (j : Job) : Option (Nat × Nat) := match cipherStream j, j.frame with
  | some sid, some (n, _) => some (sid, n)
  | _, _ => none

/-- A segment goes on in a context of its own mode and key. -/
def segmentOk (j : Job) (c : CipherCtx) : Option Status :=
  if c.alg ≠ jAlg j || c.op ≠ jOp j then some .inputInvalid
  else match c.stream, cipherSource j with
    | none, none => if c.slot = jSlot j then none else some .inputInvalid
    | some (a, n), some (b, k) => if a ≠ b then some .inputInvalid else if n ≠ k then some .keyNotLoaded else none
    | _, _ => some .inputInvalid

/-- The context's state suits the segment. -/
def contextCheck (s : State) (j : Job) : Option Status := match ctxOf s j with
  | none => if jFirst j then none
    else if s.bore.lostCtx.contains (contextKey j.inst (jContext j)) then some .keyNotLoaded else some .inputInvalid
  | some c => if jFirst j then some .inputInvalid else segmentOk j c

/-- The handle lies within the quota. -/
def contextNamed (s : State) (j : Job) : Bool := match tblGet s.insts j.inst with
  | some x => jContext j < x.maxContexts
  | none => false

/-- Jobs that name one context run one after another, in fetch order. -/
def contextTurn (s : State) (k : Nat) (j : Job) : Bool :=
  !s.jobs.any (fun e => decide (e.1 < k) && e.2.kind = .cipher && e.2.inst = j.inst && jContext e.2 = jContext j)

/-! ### The modes (R272, R275) -/

/-- GHASH from an accumulator. -/
def ghashFrom (h acc x : Bytes) : Bytes :=
  beBytes 16 ((chunks 16 x).foldl (fun y b => ghashMul (y ^^^ beNat b) (beNat h)) (beNat acc))

/-- A context as FIRST opens it. For CMAC `chain` is the block held back. -/
def ctxOpen (j : Job) (slot : Nat) : CipherCtx where
  alg := jAlg j
  op := jOp j
  slot := slot
  stream := cipherSource j
  chain := if jMode j = 4 then jIv j ++ beBytes 4 2 else if jMode j = 2 || jMode j = 3 then jIv j else []
  acc := zeros 16
  iv := jIv j
  aadLen := jAadLen j
  dataLen := 0
  tagLen := jTagLen j

/-- The block a CMAC context holds back. -/
def cmacHeld (c : CipherCtx) : Bytes := if c.dataLen = 0 then [] else c.chain

/-- Work on AAD and data of a message in a mode that streams: the context after it and the output. -/
def cipherFeed (key : Bytes) (c : CipherCtx) (aad d : Bytes) : CipherCtx × Bytes :=
  let m := cMode c.alg
  let c1 := { c with dataLen := c.dataLen + d.length }
  let bs := chunks 16 d
  if m = 1 then (c1, (bs.map (if c.op = 0 then aesEnc key else aesDec key)).flatten)
  else if m = 2 then
    let out := if c.op = 0 then cbcEnc key c.chain bs else cbcDec key c.chain bs
    ({ c1 with chain := ((if c.op = 0 then chunks 16 out else bs).getLast?).getD c.chain }, out)
  else if m = 3 then ({ c1 with chain := ctrAdd c.chain bs.length }, aesCtr key c.chain d)
  else if m = 4 then
    let h := aesEnc key (zeros 16)
    let ct := gctr key c.chain d
    ({ c1 with chain := inc32 c.chain bs.length, acc := ghashFrom h (ghashFrom h c.acc (pad16 aad)) (pad16 ct) }, ct)
  else if m = 9 && d ≠ [] then
    let all := chunks 16 (cmacHeld c ++ d)
    ({ c1 with chain := all.getLastD [], acc := cbcMac key c.acc all.dropLast }, [])
  else (c1, [])

/-- The end of a streamed message on its last data: output, or the status of a failed check. `sofar` is this job's output before. -/
def cipherFinish (key : Bytes) (c : CipherCtx) (tagLen : Nat) (sofar aad d tag : Bytes) : Status × Bytes :=
  let m := cMode c.alg
  if m = 2 && c.op = 0 then (.ok, sofar ++ (cipherFeed key c [] (pkcs7Pad d)).2)
  else if m = 2 then match pkcs7Unpad (sofar ++ (cipherFeed key c [] d).2) with
    | some p => (.ok, p)
    | none => (.inputInvalid, [])
  else if m = 4 then
    let (c1, ct) := cipherFeed key c aad d
    let h := aesEnc key (zeros 16)
    let t := xorBytes (ghashFrom h c1.acc (beBytes 8 (8 * c1.aadLen) ++ beBytes 8 (8 * c1.dataLen))) (aesEnc key (c1.iv ++ beBytes 4 1))
    (.ok, sofar ++ ct ++ t.take tagLen)
  else if m = 9 then
    let t := (cmacFrom key c.acc (cmacHeld c ++ d)).take tagLen
    if c.op = 0 then (.ok, t) else if t = tag then (.ok, []) else (.tagMismatch, [])
  else (.ok, sofar ++ (cipherFeed key c aad d).2)

/-- A message that is one job, in a mode that does not stream. -/
def cipherWhole (key : Bytes) (m op : Nat) (iv aad d tag : Bytes) : Status × Bytes :=
  let opened (x : Option Bytes) : Status × Bytes := match x with
    | some p => (.ok, p)
    | none => (.tagMismatch, [])
  if m = 4 then
    if (gcmTag key iv aad d).take tag.length = tag then (.ok, gcmOpenRaw key iv d) else (.tagMismatch, [])
  else if m = 5 then
    let k := (sivKeys key iv).2
    if op = 0 then
      let t := sivTag key iv aad d
      (.ok, sivCtr k t d ++ t)
    else
      let p := sivCtr k tag d
      if sivTag key iv aad p = tag then (.ok, p) else (.tagMismatch, [])
  else if m = 6 then (.ok, xtsUnit (op = 0) key iv d)
  else if m = 7 then (if op = 0 then (.ok, kwWrap key d) else opened (kwUnwrap key d))
  else (if op = 0 then (.ok, kwpWrap key d) else opened (kwpUnwrap key d))

/-! ### Parse -/

/-- The checks of a CIPHER_JOB: the handle of its key, or a status with the slot it concerns. -/
def cipherCheck (s : State) (k : Nat) (j : Job) : Except (Nat × Status) Nat :=
  if !cipherFormOk j || !contextNamed s j then .error (0, .inputInvalid)
  else match cipherHandle j with
    | none => .error (0, .inputInvalid)
    | some h => match contextCheck s j with
      | some st => .error (0, st)
      | none => match checkSlotAs s j.inst h (some k) with
        | .error st => .error (h, st)
        | .ok x =>
          if !cipherKeyOk (jAlg j) (jOp j) x then .error (0, .keyPolicy)
          else if !cipherLenOk j || jOutLen j < cipherOutLen j then .error (0, .inputInvalid) else .ok h

/-- A job of a stream whose entry is not cached asks for it (R243). -/
def touchStream (s : State) (j : Job) : State := match cipherStream j with
  | none => s
  | some sid => modStream s sid (fun x => if x.cached then { x with used := s.brt.count } else { x with loading := true })

/-- A parsed job holds its context, opened by FIRST, and waits for a pipe. -/
def cipherAdmit (s : State) (k h : Nat) (j : Job) : State :=
  let key := contextKey j.inst (jContext j)
  let s1 := if jFirst j then modBore s (fun b => { b with
      contexts := tblPut b.contexts key (ctxOpen j h)
      lostCtx := b.lostCtx.filter (· ≠ key) }) else s
  touchStream (modJob s1 k (fun x => { x with stage := .running, holds := true, due := nextInhale s })) j

/-- A segment told of its lost key: the context is free like any other from then on. -/
def tellLost (s : State) (j : Job) (st : Status) : State :=
  if st = .keyNotLoaded && (ctxOf s j).isNone then
    modBore s (fun b => { b with lostCtx := b.lostCtx.filter (· ≠ contextKey j.inst (jContext j)) })
  else s

/-- The parse of a CIPHER_JOB without DISCARD. -/
def parseCipher (s : State) (k op : Nat) : State := match parseable s k .cipher with
  | none => s
  | some j =>
    if jOp j ≠ op || jDiscard j || !contextTurn s k j then s
    else match cipherCheck s k j with
      | .error (h, st) => rejectJob (tellLost (noteSlot s j.inst h st) j st) k st
      | .ok h => cipherAdmit s k h j

def execCipherEncrypt (j : Nat) (s : State) : Host.Outcome State Fault Refusal := whenRunning s (parseCipher s j 0)
def execCipherDecrypt (j : Nat) (s : State) : Host.Outcome State Fault Refusal := whenRunning s (parseCipher s j 1)

/-- DISCARD zeroes and frees an OPEN context. -/
def cipherDiscard (s : State) (k : Nat) : State := match parseable s k .cipher with
  | none => s
  | some j =>
    if !jDiscard j || !contextTurn s k j then s
    else if !discardFormOk j || !contextNamed s j || (ctxOf s j).isNone then rejectJob s k .inputInvalid
    else endOffLadder (modBore s (fun b => { b with contexts := tblDel b.contexts (contextKey j.inst (jContext j)) })) k .ok [] 0 (nextInhale s)

def execCipherDiscard (j : Nat) (s : State) : Host.Outcome State Fault Refusal := whenRunning s (cipherDiscard s j)

/-! ### Slices (R276) -/

/-- AAD, data and tag of a job's input. -/
def cipherAad (j : Job) : Bytes := j.input.take (jAadLen j)
def cipherData (j : Job) : Bytes := slice j.input (jAadLen j) (cipherDataLen j)
def cipherTag (j : Job) : Bytes := j.input.drop (jAadLen j + cipherDataLen j)

/-- The AAD takes whole blocks of pipe time. -/
def aadSpan (j : Job) : Nat := roundUp (jAadLen j) 16

/-- The bytes of pipe work of a job: a decryption that checks before it writes passes twice over its data (R275). -/
def cipherWork (j : Job) : Nat :=
  aadSpan j + cipherDataLen j * (if jOp j = 1 && (jMode j = 4 || jMode j = 5) then 2 else 1)

/-- The most a slice works on. -/
def sliceMax (s : State) : Nat := min 65536 (16 * breathLen s)

/-- A parsed job may take a pipe: it has none, and its stream's entry is cached. -/
def wantsPipe (s : State) (j : Job) : Bool :=
  j.kind = .cipher && j.holds && j.stage = .running && j.slice.isNone && j.due ≤ s.brt.count && (match cipherStream j with
    | none => true
    | some sid => match streamAt s sid with
      | some x => x.cached
      | none => false)

/-- Jobs in rotation: one per instance per round, instances ascending from the one after the last served. -/
def lookOrder (s : State) (l : List (Nat × Job)) : List (Nat × Job) :=
  let turn (e : Nat × Job) : Nat := (l.filter (fun x => x.2.inst = e.2.inst && decide (x.1 < e.1))).length
  sortBy (fun e => turn e * 4096 + (e.2.inst + 4095 - s.bore.lookLast) % 4096) l

/-- The jobs that want a pipe, in the order they get one: first those that have not yet run a slice. -/
def lookQueue (s : State) : List (Nat × Job) :=
  let l := s.jobs.filter (fun e => wantsPipe s e.2)
  lookOrder s (l.filter (fun e => e.2.done = 0)) ++ lookOrder s (l.filter (fun e => e.2.done ≠ 0))

/-- At the inhale the lookaside pipes that MACsec leaves (R289) take a slice each. -/
def lookasideInhale (s : State) : State :=
  let picks := (lookQueue s).zip ((groupPipes s .lookG).drop s.pxt.macPipes)
  let s1 := picks.foldl (fun t e =>
    modJob t e.1.1 (fun j => { j with slice := some ⟨e.2, min (sliceMax s) (cipherWork j - j.done), none⟩ })) s
  match picks.getLast? with
  | some e => modBore s1 (fun b => { b with lookLast := e.1.2.inst })
  | none => s1

/-- Put or free the context at the end of a job. -/
def closeContext (s : State) (j : Job) (c : CipherCtx) : State :=
  let key := contextKey j.inst (jContext j)
  modBore s (fun b => { b with contexts := if jLast j then tblDel b.contexts key else tblPut b.contexts key c })

/-- The job's last slice: its result, and its completion at the next inhale. -/
def cipherLast (s : State) (k : Nat) (j : Job) (c : CipherCtx) (key aad d : Bytes) : State :=
  if !jLast j then
    let (c1, out) := cipherFeed key c aad d
    endOffLadder (closeContext s j c1) k .ok (j.draws ++ out) 0 (nextInhale s)
  else
    let r := if singleOnly (jMode j) (jOp j) then cipherWhole key (jMode j) (jOp j) c.iv (cipherAad j) (cipherData j) (cipherTag j)
      else cipherFinish key c (jTagLen j) j.draws aad d (cipherTag j)
    endOffLadder (closeContext s j c) k r.1 r.2 0 (nextInhale s)

/-- A slice before the last: the context's copy is updated. -/
def cipherMore (s : State) (k n : Nat) (j : Job) (c : CipherCtx) (key aad d : Bytes) : State :=
  let (c1, out) := if singleOnly (jMode j) (jOp j) then (c, []) else cipherFeed key c aad d
  let s1 := modBore s (fun b => { b with contexts := tblPut b.contexts (contextKey j.inst (jContext j)) c1 })
  modJob s1 k (fun x => { x with done := x.done + n, slice := none, draws := x.draws ++ out })

/-- The slice's part of AAD and data. -/
def sliceParts (j : Job) (n : Nat) : Bytes × Bytes :=
  (slice (pad16 (cipherAad j)) j.done n, slice (cipherData j) (j.done - aadSpan j) (n - (aadSpan j - j.done)))

/-- A slice ends with its key at hand; a key that fails its check ends the job and its context. -/
def sliceEnd (s : State) (k n : Nat) (j : Job) (c : CipherCtx) : State :=
  match checkSlotAs s j.inst c.slot (some k) with
  | .error st => endOffLadder (leaveContext (noteSlot s j.inst c.slot st) j) k st [] 0 (nextInhale s)
  | .ok x =>
    let p := sliceParts j n
    if cipherWork j ≤ j.done + n then cipherLast s k j c (slotMaterial x) p.1 p.2
    else cipherMore s k n j c (slotMaterial x) p.1 p.2

/-- The job asks for echo (R257). -/
def jEcho (j : Job) : Bool := bitOf (byteAt j.entry 5) 2

/-- Change the slice of a job. -/
def modSlice (s : State) (k : Nat) (x : Slice) : State := modJob s k (fun j => { j with slice := some x })

/-- The slice of a job that sets ECHO goes to an echo pipe of the device's choosing. -/
def sliceToEcho (s : State) (k : Nat) (x : Slice) : State :=
  if x.echo.isSome then s
  else match pickPipe (groupPipes s .echoG) s with
    | (some p, s1) => modSlice s1 k { x with echo := some ⟨false, false, x.pipe, p, [], s.brt.count⟩ }
    | (none, _) => s

/-- CIPHER_SLICE_DONE. A job of an instance that is being reset ends in the reset (R86). A parity error in the context store reloads the entry, and the slice is run again (R281). -/
def sliceDone (s : State) (k : Nat) (parity : Bool) : State := match tblGet s.jobs k with
  | none => s
  | some j => match j.slice, ctxOf s j with
    | some x, some c =>
      if j.stage ≠ .running || !notResetting s j.inst then s
      else if parity then modJob s k (fun y => { y with slice := none })
      else if jEcho j then sliceToEcho s k x
      else sliceEnd s k x.bytes j c
    | _, _ => s

/-- After a job of a stream ends, what waited for it may settle (R244, R268). -/
def settleCipher (s t : State) (k : Nat) : State := match (tblGet s.jobs k).bind cipherStream with
  | some sid => if tblHas t.jobs k then t else settleStream (endEpoch t sid) sid
  | none => t

def execCipherSliceDone (j : Nat) (parity : Bool) (s : State) : Host.Outcome State Fault Refusal :=
  whenRunning s (settleCipher s (sliceDone s j parity) j)

/-! ### ECHO_RESULT and RESEAL (R257, R258) -/

/-- A slice passes or fails its echo. Passed, it ends; failed on three distinct pipes it ends the job with INVARIANT_FAILED, and its
context goes (log 80). -/
def sliceEchoed (s : State) (k : Nat) (good : Bool) : State := match tblGet s.jobs k with
  | none => s
  | some j => match j.slice, ctxOf s j with
    | some x, some c => match x.echo with
      | none => s
      | some t =>
        if t.failed || j.stage ≠ .running || !notResetting s j.inst then s
        else if good then sliceEnd (t.bad.foldl chargePipe s) k x.bytes j c
        else if echoLost (echoFailed t) then endOffLadder (leaveContext (countMismatch s) j) k .invariantFailed [] 0 (nextInhale s)
        else modSlice (countMismatch s) k { x with echo := some (echoFailed t) }
    | _, _ => s

/-- A slice that failed its echo runs again in a later breath, on another lookaside pipe and with another echo pipe. -/
def resealSlice (s : State) (k : Nat) : State := match (tblGet s.jobs k).bind Job.slice with
  | none => s
  | some x => match x.echo.bind (resealOn s (groupPipes s .lookG) (groupPipes s .echoG)) with
    | none => s
    | some (t, s1) => modSlice s1 k { x with pipe := t.sealPipe, echo := some t }

/-- ECHO_RESULT. -/
def echoOf (s : State) (x : EchoOf) (i n : Nat) (good : Bool) : State := match x with
  | .flow e => echoResult s e i n good
  | .job k => settleCipher s (sliceEchoed s k good) k

def execEchoResult (x : EchoOf) (i n : Nat) (good : Bool) (s : State) : Host.Outcome State Fault Refusal :=
  whenRunning s (if s.dev.halting then s else echoOf s x i n good)

/-- RESEAL. -/
def resealOf (s : State) (x : EchoOf) (i n : Nat) : State := match x with
  | .flow e => reseal s e i n
  | .job k => resealSlice s k

def execReseal (x : EchoOf) (i n : Nat) (s : State) : Host.Outcome State Fault Refusal :=
  whenRunning s (if s.dev.halting then s else resealOf s x i n)

end Sys2Proof.Machine
end

