-- ==== Sys2Proof/Machine/ReedMem.lean ====
section
/-! DEFINITION. The memory field of a microword: addresses, windows, faults, loads and stores (R142 to R148, R156, R157,
R166, R167); the trap frame (R198). -/

namespace Sys2Proof.Machine

/-- Where a reed address lies (R142): operand memory at an offset, or a window and the offset in its page. -/
inductive Place where
  | op (off : Nat)
  | win (w off : Nat)
  | none
  deriving DecidableEq, Repr

/-- The place of a 64-bit address; bits [63:17] must be zero (R142). -/
def placeOf (a : BitVec 64) : Place :=
  let n := a.toNat
  if n < 0x8000 then .op n
  else if n < 0x18000 then .win ((n - 0x8000) / 0x4000) ((n - 0x8000) % 0x4000)
  else .none

/-- The job page an address falls in, where it falls in a window. -/
def pageOf (c : ReedCore) (a : BitVec 64) : Option Nat :=
  match placeOf a with
  | .win w _ => some (c.win.getD w 0)
  | _ => none

/-- The cause an element's access meets, RANGE before ALIGN before READONLY before WINDOW (R166, R167). -/
def elemCause (c : ReedCore) (store : Bool) (align : Nat) (a : BitVec 64) : Option Nat :=
  let page := pageOf c a
  let range : Bool := match placeOf a with
    | .none => true
    | .win w _ => decide (c.win.getD w 0 ≥ jobPages c)
    | .op _ => false
  let ro : Bool := store && (match placeOf a with
    | .op off => decide (0x7E00 ≤ off)
    | .win w _ => decide (c.win.getD w 0 < inputPages c)
    | .none => false)
  let miss : Bool := match page with
    | some p => (resident c p).isNone
    | none => false
  if range then some causeRange
  else if a.toNat % align ≠ 0 then some causeAlign
  else if ro then some causeReadonly
  else if miss then some causeWindow
  else none

/-- Read `n` bytes at an address that meets no fault. -/
def readAt (c : ReedCore) (a : BitVec 64) (n : Nat) : Bytes :=
  match placeOf a with
  | .op off => storeRead c.opmem off n
  | .win w off =>
    match resident c (c.win.getD w 0) with
    | some i => match c.frames[i]? with
      | some fr => storeRead fr.data off n
      | none => zeros n
    | none => zeros n
  | .none => zeros n

/-- Write bytes at an address that meets no fault, into the core `t`; `c` has the windows (R141). The frame written becomes modified
(R147). -/
def writeAt (c t : ReedCore) (a : BitVec 64) (bs : Bytes) : ReedCore :=
  match placeOf a with
  | .op off => { t with opmem := storeWrite t.opmem off bs }
  | .win w off =>
    match resident t (c.win.getD w 0) with
    | some i => { t with frames := listMod t.frames i (fun fr => { fr with data := storeWrite fr.data off bs, dirty := true }) }
    | none => t
  | .none => t

/-- A use of the frame an address falls in, for the replacement order of R147. -/
def touch (c t : ReedCore) (a : BitVec 64) : ReedCore :=
  match pageOf c a with
  | some p =>
    match resident t p with
    | some i => { t with clock := t.clock + 1, frames := listMod t.frames i (fun fr => { fr with used := t.clock + 1 }) }
    | none => t
  | none => t

/-- The distinct job pages of a list of addresses; a window's number at or above JOB_PAGES is no job page (R145, R148). -/
def pagesOf (c : ReedCore) (as : List (BitVec 64)) : List Nat := ((as.filterMap (pageOf c)).filter (· < jobPages c)).eraseDups

/-- The fault of a memory operation (R166, R167): instruction-level causes first, by ascending value (log 8); else that
of the lowest element. `els` lists each active element's index within the instruction with its address, and `rest` those not yet moved
(R200); `groupBad` covers GROUP; `a0` is element 0's address. -/
def memFault (c : ReedCore) (store : Bool) (align : Nat) (groupBad : Bool) (a0 : BitVec 64)
    (els rest : List (Nat × BitVec 64)) : Option RFault :=
  if (pagesOf c (els.map (·.2))).length > 2 then some ⟨causeSpan, 0, a0⟩
  else if groupBad then some ⟨causeGroup, 0, a0⟩
  else if c.vl > emax c then some ⟨causeVlen, 0, a0⟩
  else rest.findSome? (fun e => (elemCause c store align e.2).map (fun k => ⟨k, e.1, e.2⟩))

/-- The bytes of an element. -/
def ewBytes (c : ReedCore) : Nat := ewBits c / 8

/-- A scalar register as an unsigned number added to a byte offset, modulo 2^64. -/
def addrAdd (base : BitVec 64) (n : Nat) : BitVec 64 := base + BitVec.ofNat 64 n

/-- The address of element `i`: unit stride, or the stride of S[t]. -/
def strideAddr (c : ReedCore) (f : MField) (strided : Bool) (i : Nat) : BitVec 64 :=
  if strided then sGet c f.s.val + BitVec.ofNat 64 i * sGet c f.t.val
  else addrAdd (sGet c f.s.val) (i * ewBytes c)

/-- The address of element `i` of a gather or scatter (R157). -/
def indexAddr (c : ReedCore) (f : MField) (i : Nat) : BitVec 64 :=
  addrAdd (sGet c f.s.val) (vElem c f.x.val i * ewBytes c)

/-- Load a list of (element, address) into group v; each address is a use of its frame. -/
def loadElems (c : ReedCore) (v : Nat) (els : List (Nat × BitVec 64)) (t : ReedCore) : ReedCore :=
  let r (i : Nat) : Option Nat := (els.find? (fun e => e.1 = i)).map (fun e => leNat (readAt c e.2 (ewBytes c)))
  els.foldl (fun t e => touch c t e.2) (groupWith (ewBits c) (gsize c) v r t)

/-- Store a list of (element, address) from group v, in ascending element order (R157). -/
def storeElems (c : ReedCore) (v : Nat) (els : List (Nat × BitVec 64)) (t : ReedCore) : ReedCore :=
  els.foldl (fun t e => touch c (writeAt c t e.2 (leBytes (ewBytes c) (vElem c v e.1))) e.2) t

/-- A memory-field result. With VL = 0 an operation writes nothing (R131). -/
def memRes (c : ReedCore) (cls : FieldClass) (reads writes : List Nat) (flt : Option RFault) (upd : Nat → Nat → ReedCore → ReedCore) :
    FieldRes :=
  { cls := cls
    use := ⟨2, reads, writes, restarts cls⟩
    fault := flt
    free := 0
    upd := fun lo hi t => if c.vl = 0 then t else upd lo hi t }

/-- VLD, VST, VLDS, VSTS (R156), from beat `lo` on. -/
def fieldMemStride (store strided : Bool) (c : ReedCore) (lo : Nat) (f : MField) : FieldRes :=
  let v := f.v.val
  let els := ((List.range c.vl).filter (active c f.mask)).map (fun i => (i, strideAddr c f strided i))
  let part (lo hi : Nat) := els.filter (fun e => inBeats (ewBits c) lo hi e.1)
  let regs := sRes f.s.val ++ (if strided then sRes f.t.val else []) ++ maskRes f.mask
  memRes c .beats (if store then regs ++ groupRes c v else regs) (if store then [] else groupRes c v)
    (memFault c store (ewBytes c) (!groupOk c v) (strideAddr c f strided 0) els (part lo (beatCount (gsize c))))
    (fun lo hi => if store then storeElems c v (part lo hi) else loadElems c v (part lo hi))

/-- VGATHER and VSCATTER: at most the 16 elements of segment seg (R157). -/
def fieldMemIndex (store : Bool) (c : ReedCore) (f : MField) : FieldRes :=
  let v := f.v.val
  let base := 16 * f.seg.val
  let els := (((List.range 16).map (fun k => base + k)).filter (active c f.mask)).map (fun i => (i, indexAddr c f i))
  let regs := sRes f.s.val ++ groupRes c f.x.val ++ maskRes f.mask
  let named := els.map (fun e => (e.1 - base, e.2))
  memRes c .restarting (if store then regs ++ groupRes c v else regs) (if store then [] else groupRes c v)
    (memFault c store (ewBytes c) (!groupOk c v || !groupOk c f.x.val) (indexAddr c f base) named named)
    (fun _ _ => if store then storeElems c v els else loadElems c v els)

/-- The address of SLD and SST: S[s] plus a signed offset in units of 8 bytes (R184). -/
def scalarAddr (c : ReedCore) (f : MField) : BitVec 64 := sGet c f.s.val + (f.off.signExtend 64) * 8

/-- SLD and SST: 64 bits at a multiple of 8. -/
def fieldMemScalar (store : Bool) (c : ReedCore) (f : MField) : FieldRes :=
  let a := scalarAddr c f
  memRes c .restarting (sRes f.s.val ++ (if store then sRes f.t.val else [])) (if store then [] else sRes f.t.val)
    (memFault c store 8 false a [(0, a)] [(0, a)])
    (fun _ _ t =>
      touch c (if store then writeAt c t a (leBytes 8 (sGet c f.t.val).toNat)
        else sSet t f.t.val (BitVec.ofNat 64 (leNat (readAt c a 8)))) a)

/-- A load of 64 bytes into register v: KEYRD, RNDRD, MSKRD (R156, R158). A fault records a free address (log 1). -/
def fieldLoad512 (c : ReedCore) (fr : Nat) (f : MField) (cause : Option Nat) (x : BitVec 512) : FieldRes :=
  let k : Option Nat := match cause with
    | some e => if e < causeVlen then some e else if c.vl > emax c then some causeVlen else some e
    | none => if c.vl > emax c then some causeVlen else none
  { cls := .restarting
    use := ⟨2, [], [32 + f.v.val], true⟩
    fault := k.map (fun e => ⟨e, 0, freeAddr fr⟩)
    free := 1
    upd := fun _ _ t => if c.vl = 0 then t else vSet t f.v.val x }

/-- The base address of a micro-trap entry (R194). -/
def trapEntryAddr (entry : Nat) : Nat := 0x80 * entry

/-- The bytes of a trap frame that the spec gives no content: call stack entries above SP, and, where no word is pending, what
describes one (log 1). -/
def freeFrame (fr lo n : Nat) : Bytes := leBytes n ((Config.freeWord 1024 fr).toNat / 2 ^ (8 * lo))

/-- A trap frame's 128 bytes (R198). -/
def trapFrame (c : ReedCore) (routine upc entry : Nat) (word : BitVec 192) (pend : Option Resume) (breath fr : Nat) : Bytes :=
  let st := c.stack.reverse
  let stack := (List.range 4).flatMap (fun i => if i < st.length then leBytes 2 (st.getD i 0) else freeFrame fr (8 + 2 * i) 2)
  let lcs := (List.range 4).flatMap (fun i => leBytes 2 (c.lc.getD i 0).toNat)
  match pend with
  | some p =>
    leBytes 2 routine ++ leBytes 2 upc ++ leBytes 1 entry ++ [3] ++ leBytes 1 p.beat ++ leBytes 1 (p.done % 64) ++ stack ++ leBytes 1 c.stack.length ++ [0] ++
      (if bitOf p.done 5 then leBytes 2 p.next else freeFrame fr 18 2) ++ zeros 4 ++ lcs ++ leBytes 24 word.toNat ++
      leBytes 8 p.latchV.toNat ++ leBytes 8 p.latchMs.toNat ++ leBytes 8 p.latchMt.toNat ++ leBytes 8 breath ++ zeros 40
  | none =>
    leBytes 2 routine ++ leBytes 2 upc ++ leBytes 1 entry ++ [1] ++ freeFrame fr 6 1 ++ leBytes 1 (leNat (freeFrame fr 7 1) % 64) ++ stack ++ leBytes 1 c.stack.length ++ [0] ++
      freeFrame fr 18 2 ++ zeros 4 ++ lcs ++ freeFrame fr 32 48 ++ leBytes 8 breath ++ zeros 40

/-- Where frame 0 and frame 1 lie (R198). -/
def frameAddr (level : Nat) : Nat := if level = 0 then 0x7F00 else 0x7F80

end Sys2Proof.Machine
end

