-- ==== Sys2Proof/Machine/ReedCodes.lean ====
section
/-! DEFINITION. The fields of a stored microword (R184, R185) and the operation each code names (R150 to R157). -/

namespace Sys2Proof.Machine

/-! ### Fields of a word -/

def vopOf (w : BitVec 192) : Nat := mw w 40 33
def sopOf (w : BitVec 192) : Nat := mw w 83 78
def mopOf (w : BitVec 192) : Nat := mw w 120 117
def bopOf (w : BitVec 192) : Nat := mw w 159 157
def aopOf (w : BitVec 192) : Nat := mw w 172 170
def seqOf (w : BitVec 192) : Nat := mw w 2 0
def lcopOf (w : BitVec 192) : Nat := mw w 30 29

def vFieldOf (w : BitVec 192) : VField where
  d := Fin.ofNat 32 (mw w 45 41)
  a := Fin.ofNat 32 (mw w 50 46)
  b := Fin.ofNat 32 (mw w 55 51)
  c := Fin.ofNat 32 (mw w 60 56)
  mask := if mw w 64 64 = 1 then some (Fin.ofNat 8 (mw w 63 61)) else none
  zero := mw w 65 65 = 1
  k := BitVec.ofNat 6 (mw w 71 66)
  ssel := mw w 72 72 = 1
  s := Fin.ofNat 32 (mw w 77 73)

def sFieldOf (w : BitVec 192) : SField where
  d := Fin.ofNat 32 (mw w 88 84)
  a := Fin.ofNat 32 (mw w 93 89)
  b := Fin.ofNat 32 (mw w 98 94)
  imm := BitVec.ofNat 16 (mw w 114 99)
  sh := Fin.ofNat 4 (mw w 116 115)

def mFieldOf (w : BitVec 192) : MField where
  v := Fin.ofNat 32 (mw w 125 121)
  x := Fin.ofNat 32 (mw w 130 126)
  s := Fin.ofNat 32 (mw w 135 131)
  t := Fin.ofNat 32 (mw w 140 136)
  seg := Fin.ofNat 16 (mw w 144 141)
  mask := if mw w 148 148 = 1 then some (Fin.ofNat 8 (mw w 147 145)) else none
  off := BitVec.ofNat 8 (mw w 156 149)

def bFieldOf (w : BitVec 192) : BField := ⟨Fin.ofNat 32 (mw w 164 160), Fin.ofNat 32 (mw w 169 165)⟩
def aFieldOf (w : BitVec 192) : AField := ⟨Fin.ofNat 32 (mw w 177 173), BitVec.ofNat 8 (mw w 185 178), Fin.ofNat 32 (mw w 190 186)⟩
def qFieldOf (w : BitVec 192) : QField := ⟨BitVec.ofNat 14 (mw w 16 3), Fin.ofNat 32 (mw w 21 17), Fin.ofNat 32 (mw w 26 22)⟩
def lFieldOf (w : BitVec 192) : LField := ⟨Fin.ofNat 4 (mw w 32 31), BitVec.ofNat 16 (mw w 114 99), Fin.ofNat 32 (mw w 93 89)⟩

/-- The fields a word leaves empty, by the bits of FIELD_DONE (R198), and bit 6 where it has no LCOP. -/
def emptyFields (w : BitVec 192) : Nat :=
  flag (vopOf w = 0) + 2 * flag (sopOf w = 0) + 4 * flag (mopOf w = 0) + 8 * flag (bopOf w = 0) + 16 * flag (aopOf w = 0) +
    64 * flag (lcopOf w = 0)

/-! ### Vector codes (R150) -/

abbrev VecOp : Type := ReedCore → Nat → VField → FieldRes

def opVadd : VecOp := fieldVec2 (fun w a b => (a + b) % 2 ^ w)
def opVsub : VecOp := fieldVec2 (fun w a b => (a + 2 ^ w - b) % 2 ^ w)
def opVand : VecOp := fieldVec2 (fun _ a b => a &&& b)
def opVor : VecOp := fieldVec2 (fun _ a b => a ||| b)
def opVxor : VecOp := fieldVec2 (fun _ a b => a ^^^ b)
def opVandn : VecOp := fieldVec2 (fun w a b => a &&& (2 ^ w - 1 - b))
def opVsll : VecOp := fieldVecShift (fun w x n => x * 2 ^ n % 2 ^ w)
def opVsrl : VecOp := fieldVecShift (fun _ x n => x / 2 ^ n)
def opVsra : VecOp := fieldVecShift sraNat
def opVrotl : VecOp := fieldVecShift rotlNat
def opVmullo : VecOp := fieldVec2 (fun w a b => a * b % 2 ^ w)
def opVmulhi : VecOp := fieldVec2 (fun w a b => a * b / 2 ^ w)
def opVmov : VecOp := fieldVec1 (fun _ => false) (fun _ a => a)
def opVcmpeq : VecOp := fun c fr f => fieldVcmp [f.a.val, f.b.val] (fun c i => vElem c f.a.val i = vElem c f.b.val i) c fr f
def opVcmpltu : VecOp := fun c fr f => fieldVcmp [f.a.val, f.b.val] (fun c i => vElem c f.a.val i < vElem c f.b.val i) c fr f
def opVcmplt : VecOp := fun c fr f => fieldVcmp [f.a.val, f.b.val]
  (fun c i => signedOf (ewBits c) (vElem c f.a.val i) < signedOf (ewBits c) (vElem c f.b.val i)) c fr f
def opVparity : VecOp := fun c fr f => fieldVcmp [f.a.val] (fun c i => popcount 64 (vElem c f.a.val i) % 2 = 1) c fr f
def opVmma : VecOp := fun c fr f => fieldVmod [f.a.val, f.b.val, f.c.val]
  (fun q i => (vElem c f.a.val i * vElem c f.b.val i + vElem c f.c.val i) % q) c fr f
def opVmadd : VecOp := fun c fr f => fieldVmod [f.a.val, f.b.val] (fun q i => (vElem c f.a.val i + vElem c f.b.val i) % q) c fr f
def opVmsub : VecOp := fun c fr f => fieldVmod [f.a.val, f.b.val] (fun q i => subMod (vElem c f.a.val i) (vElem c f.b.val i) q) c fr f
def opVmred : VecOp := fun c fr f => fieldVmod [f.a.val] (fun q i => vElem c f.a.val i % q) c fr f
def opVbfly : VecOp := fieldBfly bfly
def opVibfly : VecOp := fieldBfly ibfly
def opVbflyi : VecOp := fieldBflyi bfly
def opVibflyi : VecOp := fieldBflyi ibfly
def opVcomp : VecOp := fieldVcompress compressNat
def opVdecomp : VecOp := fieldVcompress decompressNat
def opVclmullo : VecOp := fieldVclmul false
def opVclmulhi : VecOp := fieldVclmul true
def opVbtr8 : VecOp := fieldVec1 (fun c => ewBits c ≠ 64) (fun _ a => btr8 a)
def opMsetlt : VecOp := fun c fr f => fieldMask [] [f.s.val] (fun c => maskBelow (sGet c f.s.val).toNat) c fr f
def opMand : VecOp := fun c fr f => fieldMask [f.a.val, f.b.val] [] (fun c => mGet c (f.a.val % 8) &&& mGet c (f.b.val % 8)) c fr f
def opMor : VecOp := fun c fr f => fieldMask [f.a.val, f.b.val] [] (fun c => mGet c (f.a.val % 8) ||| mGet c (f.b.val % 8)) c fr f
def opMxor : VecOp := fun c fr f => fieldMask [f.a.val, f.b.val] [] (fun c => mGet c (f.a.val % 8) ^^^ mGet c (f.b.val % 8)) c fr f
def opMnot : VecOp := fun c fr f => fieldMask [f.a.val] [] (fun c => ~~~ mGet c (f.a.val % 8)) c fr f
def opMpopc : VecOp := fieldMaskScalar popcount
def opMfirst : VecOp := fieldMaskScalar firstBit

/-- The operation of a vector code; none for 0x00, the empty field. -/
def vecOp : Nat → Option VecOp
  | 0x01 => some opVadd | 0x02 => some opVsub | 0x03 => some opVand | 0x04 => some opVor | 0x05 => some opVxor
  | 0x06 => some opVandn | 0x07 => some opVsll | 0x08 => some opVsrl | 0x09 => some opVsra | 0x0A => some opVrotl
  | 0x0B => some opVmullo | 0x0C => some opVmulhi | 0x0D => some opVmov | 0x0E => some fieldVbcast | 0x0F => some fieldVext
  | 0x10 => some opVcmpeq | 0x11 => some opVcmpltu | 0x12 => some opVcmplt | 0x13 => some opVparity
  | 0x20 => some opVmma | 0x21 => some opVmadd | 0x22 => some opVmsub | 0x23 => some opVmred | 0x24 => some opVbfly
  | 0x25 => some opVibfly | 0x26 => some opVbflyi | 0x27 => some opVibflyi | 0x28 => some fieldVbrev | 0x29 => some fieldVperm
  | 0x2A => some fieldVslideup | 0x2B => some fieldVslidedn | 0x30 => some fieldVcbd | 0x31 => some fieldVrej
  | 0x32 => some opVcomp | 0x33 => some opVdecomp | 0x34 => some fieldVpack | 0x35 => some fieldVunpack
  | 0x38 => some fieldVgfmul | 0x39 => some opVclmullo | 0x3A => some opVclmulhi | 0x3B => some opVbtr8
  | 0x40 => some opMsetlt | 0x41 => some opMand | 0x42 => some opMor | 0x43 => some opMxor | 0x44 => some opMnot
  | 0x45 => some opMpopc | 0x46 => some opMfirst
  | _ => none

/-! ### Scalar codes (R155) -/

abbrev ScalOp : Type := Nat → ReedCore → SField → FieldRes

def opSadd : ScalOp := fun _ => fieldScal2 (fun a b => a + b)
def opSsub : ScalOp := fun _ => fieldScal2 (fun a b => a - b)
def opSand : ScalOp := fun _ => fieldScal2 (fun a b => a &&& b)
def opSor : ScalOp := fun _ => fieldScal2 (fun a b => a ||| b)
def opSxor : ScalOp := fun _ => fieldScal2 (fun a b => a ^^^ b)
def opSsll : ScalOp := fun _ => fieldScal2 (fun a b => a <<< (b.toNat % 64))
def opSsrl : ScalOp := fun _ => fieldScal2 (fun a b => a >>> (b.toNat % 64))
def opSsra : ScalOp := fun _ => fieldScal2 (fun a b => a.sshiftRight (b.toNat % 64))
def opSmul : ScalOp := fun _ => fieldScal2 (fun a b => a * b)
def opSaddi : ScalOp := fun _ => fieldSaddi
def opSli : ScalOp := fun _ => fieldSli
def opScmpeq : ScalOp := fun _ => fieldScal2 (fun a b => if a = b then 1 else 0)
def opScmpltu : ScalOp := fun _ => fieldScal2 (fun a b => if a.toNat < b.toNat then 1 else 0)
def opScmplt : ScalOp := fun _ => fieldScal2 (fun a b => if a.toInt < b.toInt then 1 else 0)

/-- The control register index of CSRR and CSRW (R184). -/
def csrIndex (f : SField) : Nat := f.imm.toNat % 256

/-- CSRR; the first argument of a scalar operation is the current cycle of the breath. -/
def opCsrr : ScalOp := fun cyc c f => scalRes [] f.d.val (fun t => sSet t f.d.val (csrGet c cyc (csrIndex f)))
def opCsrw : ScalOp := fun _ c f => scalRes [f.a.val] 0 (fun t => csrSet t (csrIndex f) (sGet c f.a.val))

/-- The operation of a scalar code; none for SNOP, the empty field. -/
def scalOp : Nat → Option ScalOp
  | 0x01 => some opSadd | 0x02 => some opSsub | 0x03 => some opSand | 0x04 => some opSor | 0x05 => some opSxor
  | 0x06 => some opSsll | 0x07 => some opSsrl | 0x08 => some opSsra | 0x09 => some opSmul | 0x0A => some opSaddi
  | 0x0B => some opSli | 0x0C => some opScmpeq | 0x0D => some opScmpltu | 0x0E => some opScmplt | 0x0F => some opCsrr
  | 0x10 => some opCsrw
  | _ => none

/-! ### Memory codes (R156) -/

/-- The first argument is the beat at which an operation issued again resumes. -/
abbrev MemOp : Type := Nat → ReedCore → MField → FieldRes

def opVld : MemOp := fun lo c => fieldMemStride false false c lo
def opVst : MemOp := fun lo c => fieldMemStride true false c lo
def opVlds : MemOp := fun lo c => fieldMemStride false true c lo
def opVsts : MemOp := fun lo c => fieldMemStride true true c lo
def opVgather : MemOp := fun _ => fieldMemIndex false
def opVscatter : MemOp := fun _ => fieldMemIndex true
def opSld : MemOp := fun _ => fieldMemScalar false
def opSst : MemOp := fun _ => fieldMemScalar true

/-- The operation of a memory code that reads nothing but the reed. -/
def memOp : Nat → Option MemOp
  | 1 => some opVld | 2 => some opVst | 3 => some opVlds | 4 => some opVsts
  | 5 => some opVgather | 6 => some opVscatter | 7 => some opSld | 8 => some opSst
  | _ => none

end Sys2Proof.Machine
end

