-- ==== Sys2Proof/Machine/ReedFields.lean ====
section
/-! DEFINITION. What the fields of the word at a reed's sequencer come to (R141, R166, R167, R192): the vector, scalar and memory fields, the key
and random reads (R156, R158, R238, R239), the bellows port (R159 to R161), the MAU port (R163, R164, R230, R231). -/

namespace Sys2Proof.Machine

/-! ### Reeds and their words -/

/-- The job a reed has. -/
def reedJob (s : State) (r : Nat) : Option (Nat × Job) :=
  (reedAt s r).job.bind (fun k => (tblGet s.jobs k).map (fun j => (k, j)))

/-- The reed issues words: it has a job that runs, in the working phase (R27, R187). -/
def reedRuns (s : State) (r : Nat) : Bool :=
  (reedAt s r).run = .running && !s.brt.exhale && (match reedJob s r with
    | some (_, j) => j.stage = .running || j.stage = .aborting
    | none => false)

/-- The lowest-numbered reed of a job's unit posts its result. -/
def postingReed (j : Job) : Nat := (unitReeds j.unit).headD 0

/-- Where a routine lies in the control store of a reed's cluster (R182). -/
def routineBase (s : State) (r rid : Nat) : Nat :=
  ((clusterAt s (reedCluster r)).placed.find? (fun p => p.rid = rid)).elim 0 Placed.base

/-- The control store address of a UPC (R187). -/
def wordAddr (s : State) (r : Nat) (c : ReedCore) : Nat :=
  if c.level = 0 then routineBase s r (reedAt s r).routine + c.upc else c.upc

/-- The word at a UPC. -/
def wordAt (s : State) (r : Nat) (c : ReedCore) : BitVec 192 := storeGet (clusterAt s (reedCluster r)).cs (wordAddr s r c)

/-- The word at the sequencer. -/
def wordNow (s : State) (r : Nat) : BitVec 192 := wordAt s r (reedAt s r).core

/-- The word at the sequencer, as it is or as it is about to be issued. -/
def issueOf (x : Reed) : Issue := x.issue.getD ⟨x.core, 0, false, none, none, none⟩

/-- FIELD_DONE of a word with the bit of LCOP: its fields that are empty, have acted, or were done before it was issued again. A word whose
sequencing is done has its LCOP done (R199). -/
def doneOf (w : BitVec 192) (iss : Issue) : Nat :=
  let d := iss.done ||| emptyFields w ||| iss.resume.elim 0 Resume.done
  if bitOf d 5 then d ||| 64 else d

/-- The beat at which the fields of a word issued again resume (R200). -/
def startBeat (iss : Issue) : Nat := iss.resume.elim 0 Resume.beat

/-- Vector fields read S[VS] from LATCH_V, memory fields S[MS] and S[MT] from theirs (R200). -/
def vecView (f : VField) (iss : Issue) : ReedCore := iss.resume.elim iss.before (fun p => sSet iss.before f.s.val p.latchV)
def memView (f : MField) (iss : Issue) : ReedCore :=
  iss.resume.elim iss.before (fun p => sSet (sSet iss.before f.t.val p.latchMt) f.s.val p.latchMs)

/-! ### Key and random reads -/

/-- What KEYRD meets: no slot, a corrupt one, a key a customer routine may not use (R158, R166). -/
def keyrdCause (s : State) (j : Job) : Option Nat :=
  if j.inst = attestInst then none
  else if jSlot j = noSlot then some causePort
  else match slotAt s j.inst (jSlot j) with
    | none => some causeKeyCorrupt
    | some x => if slotBad s x then some causeKeyCorrupt
      else if 0x8000 ≤ j.rid && !bitOf x.usage 11 then some causeKeyUse else none

/-- What KEYRD reads: the job's slot, or the identity key's seed for an attestation job (R345). -/
def slotWord (s : State) (j : Job) : BitVec 512 :=
  if j.inst = attestInst then BitVec.ofNat 512 (leNat (identityXi s)) else match slotAt s j.inst (jSlot j) with
  | some x => BitVec.ofNat 512 (leNat (x.key.take 64))
  | none => 0

/-- The job's reads wait for fresh entropy: flagged PR_STRICT, or using a key whose policy says so (R239). -/
def prStrict (s : State) (j : Job) : Bool :=
  jPrFlag j || (jSlot j ≠ noSlot && (match slotAt s j.inst (jSlot j) with
    | some x => bitOf x.policy 2
    | none => false))

/-- The random bits of RNDRD and of MSKRD. -/
def randomWord (fr : Nat) : BitVec 512 := Config.freeWord 512 fr

/-- A library job makes the reads of R238 and no other, one a breath (R239). -/
def mayRead (s : State) (j : Job) : Bool :=
  0x8000 ≤ j.rid || (decide (j.draws.length < 64 * jobReads s j) && decide (j.drawnAt ≠ some s.brt.count))

/-- RNDRD must wait: its DRBG delivers nothing, or nothing fresh yet, or the job's next read belongs to a later slice. -/
def rndrdWaits (s : State) (r : Nat) : Bool := match reedJob s r with
  | none => true
  | some (_, j) => !drbgRuns s (reedDrbg r) || !mayRead s j || (prStrict s j && !s.rng.granted.contains (.reed r))

/-! ### The bellows port -/

/-- Group V(a) of four registers is aligned (R129, R159). -/
def quadOk (a : Nat) : Bool := a % 4 = 0
def quadRes (a : Nat) : List Nat := (List.range 4).map (fun i => 32 + a + i)

/-- The bytes of `n` registers from V(a). -/
def regBytes (c : ReedCore) (a n : Nat) : Bytes := (List.range n).flatMap (fun i => bvBytes 64 (vGet c (a + i)))

/-- The field of a send: registers it reads, whether they are misplaced, its result; `grant` is the bellows it was given and the cycle. The result
is ready 12 cycles after the 8 of the send (R160). -/
def fieldSend (c : ReedCore) (fr : Nat) (grant : Nat × Nat) (reads : List Nat) (badGroup group : Bool) (result : Bytes) : FieldRes :=
  { cls := .restarting
    use := ⟨3, reads, [], true⟩
    fault := if badGroup then some ⟨causeGroup, 0, freeAddr fr⟩ else if c.send.isSome then some ⟨causePort, 0, freeAddr fr⟩ else none
    free := 0
    upd := fun _ _ t => { t with send := some ⟨group, result, grant.1, grant.2 + 20, false⟩ } }

/-- One Keccak-f[1600] permutation of lanes 0 to 24; the other bytes of the group's layout are not part of the result. -/
def bkeccakBytes (b : Bytes) : Bytes :=
  (keccakF ((List.range 25).map (fun i => BitVec.ofNat 64 (le b (8 * i) 8)))).flatMap (fun x => bvBytes 8 x)

def opBkeccak (c : ReedCore) (fr : Nat) (g : Nat × Nat) (f : BField) : FieldRes :=
  fieldSend c fr g (quadRes f.a.val) (!quadOk f.a.val) true (bkeccakBytes (regBytes c f.a.val 4))

/-- H0 to H7 lie in the low 32 bytes of register a. -/
def opBsha256 (c : ReedCore) (fr : Nat) (g : Nat × Nat) (f : BField) : FieldRes :=
  fieldSend c fr g [32 + f.a.val, 32 + f.b.val] false false
    ((sha256Compress ((List.range 8).map (fun i => BitVec.ofNat 32 (le (regBytes c f.a.val 1) (4 * i) 4))) (regBytes c f.b.val 1)).flatMap
      (fun x => bvBytes 4 x))

def opBsha512 (c : ReedCore) (fr : Nat) (g : Nat × Nat) (f : BField) : FieldRes :=
  fieldSend c fr g [32 + f.a.val, 32 + f.b.val, 33 + f.b.val] (decide (31 < f.b.val + 1)) false
    ((sha512Compress ((List.range 8).map (fun i => BitVec.ofNat 64 (le (regBytes c f.a.val 1) (8 * i) 8))) (regBytes c f.b.val 2)).flatMap
      (fun x => bvBytes 8 x))

/-- The bytes of a register that a result's layout does not name are free (log 1). -/
def putResult (fr a : Nat) (x : Send) (t : ReedCore) : ReedCore :=
  let n := if x.group then 4 else 1
  let b := x.result ++ leBytes (64 * n - x.result.length) (Config.freeWord 2048 fr).toNat
  (List.range n).foldl (fun c i => vSet c (a + i) (BitVec.ofNat 512 (le b (64 * i) 64))) t

/-- BRECV of an outstanding send. -/
def opBrecv (c : ReedCore) (fr : Nat) (f : BField) : FieldRes := match c.send with
  | none => { cls := .restarting, use := ⟨3, [], [], true⟩, fault := some ⟨causePort, 0, freeAddr fr⟩, free := 1, upd := fun _ _ t => t }
  | some x =>
    { cls := .restarting
      use := ⟨3, [], if x.group then quadRes f.a.val else [32 + f.a.val], true⟩
      fault := if x.group && !quadOk f.a.val then some ⟨causeGroup, 0, freeAddr fr⟩ else none
      free := 1
      upd := fun _ _ t => { putResult fr f.a.val x t with send := none } }

/-- A word with a send. -/
def isSend (w : BitVec 192) : Bool := decide (1 ≤ bopOf w ∧ bopOf w ≤ 3)

/-! ### The MAU port -/

/-- The cluster whose MAU the reed's job holds. -/
def coupledMau (s : State) (r : Nat) : Option Nat := match reedJob s r with
  | some (_, j) => (match j.unit with
    | .mau c _ => some c
    | _ => none)
  | none => none

/-- The registers MPUT and MGET move: a group of a fixed size, whatever VCFG holds (R129); the size is not stated (log 16). -/
def mauGroup : Nat := 2 ^ Config.mauGroup.val
def mauGroupOk (k : Nat) : Bool := k % mauGroup = 0 ∧ k + mauGroup ≤ 32
def mauGroupRes (k : Nat) : List Nat := (List.range mauGroup).map (fun j => 32 + k + j)

/-- The byte offset of a transfer. -/
def aoff (f : AField) : Nat := 64 * f.off.toNat

/-- A MAU port field: GROUP for a misplaced group, PORT without a coupled MAU or for what `bad` says. -/
def fieldMau (m : Option Mau) (fr : Nat) (reads writes : List Nat) (badGroup : Bool) (bad : Mau → Bool) (upd : Mau → ReedCore → ReedCore) :
    FieldRes :=
  { cls := .restarting
    use := ⟨4, reads, writes, true⟩
    fault := if badGroup then some ⟨causeGroup, 0, freeAddr fr⟩ else if m.all bad then some ⟨causePort, 0, freeAddr fr⟩ else none
    free := 0
    upd := fun _ _ t => m.elim t (fun x => upd x t) }

/-- MPUT: not past 16 KiB, nor into the control area (R164, R230). -/
def opMput (m : Option Mau) (_ : ReedCore) (fr : Nat) (f : AField) : FieldRes :=
  fieldMau m fr (mauGroupRes f.a.val) [] (!mauGroupOk f.a.val) (fun _ => 0x3C00 < aoff f + 64 * mauGroup) (fun _ t => t)

/-- MGET: MAU operand memory to the group. -/
def mgetRegs (f : AField) (m : Mau) (t : ReedCore) : ReedCore :=
  (List.range mauGroup).foldl (fun acc i => vSet acc (f.a.val + i)
    (BitVec.ofNat 512 (leNat ((List.range 64).map (fun b => mauByte m (aoff f + 64 * i + b)))))) t

def opMget (m : Option Mau) (_ : ReedCore) (fr : Nat) (f : AField) : FieldRes :=
  fieldMau m fr [] (mauGroupRes f.a.val) (!mauGroupOk f.a.val) (fun _ => 0x4000 < aoff f + 64 * mauGroup) (mgetRegs f)

/-- MRUN. While an operation runs, only what no modulus and no curve can mend is a fault: the operation under way may be the one that sets them,
and the MAU-busy trap comes first (DEDUCED from R164 and R194, log 85). -/
def opMrun (m : Option Mau) (c : ReedCore) (fr : Nat) (f : AField) : FieldRes :=
  let o := mauOpOf (sGet c f.s.val).toNat
  fieldMau m fr (sRes f.s.val) [] false (fun x => if x.op.isSome then mauPortNever true o else mauPortBad x o) (fun _ t => t)

/-! ### The fields of the word at the sequencer -/

/-- The vector field. -/
def vecField (s : State) (iss : Issue) (w : BitVec 192) : Option FieldRes :=
  (vecOp (vopOf w)).map (fun g => g (vecView (vFieldOf w) iss) s.free (vFieldOf w))

/-- The scalar field. -/
def scalField (s : State) (iss : Issue) (w : BitVec 192) : Option FieldRes :=
  (scalOp (sopOf w)).map (fun g => g s.brt.cycle iss.before (sFieldOf w))

/-- The memory field: KEYRD is 9, RNDRD 10, MSKRD 11 (R156). -/
def memField (s : State) (r : Nat) (iss : Issue) (w : BitVec 192) : Option FieldRes :=
  let f := mFieldOf w
  if mopOf w = 9 then (reedJob s r).map (fun e => fieldLoad512 iss.before s.free f (keyrdCause s e.2) (slotWord s e.2))
  else if mopOf w = 10 ∨ mopOf w = 11 then some (fieldLoad512 iss.before s.free f none (randomWord s.free))
  else (memOp (mopOf w)).map (fun g => g (startBeat iss) (memView f iss) f)

/-- The bellows field. -/
def belField (s : State) (iss : Issue) (w : BitVec 192) : Option FieldRes :=
  let f := bFieldOf w
  let g := iss.grant.getD (0, 0)
  if bopOf w = 1 then some (opBkeccak iss.before s.free g f)
  else if bopOf w = 2 then some (opBsha256 iss.before s.free g f)
  else if bopOf w = 3 then some (opBsha512 iss.before s.free g f)
  else if bopOf w = 4 then some (opBrecv iss.before s.free f)
  else none

/-- The MAU field. -/
def mauField (s : State) (r : Nat) (iss : Issue) (w : BitVec 192) : Option FieldRes :=
  let f := aFieldOf w
  let m := (coupledMau s r).map (fun c => (clusterAt s c).mau)
  if aopOf w = 1 then some (opMput m iss.before s.free f)
  else if aopOf w = 2 then some (opMget m iss.before s.free f)
  else if aopOf w = 3 then some (opMrun m iss.before s.free f)
  else none

/-- Field `k` of the word, numbered as in FIELD_DONE. -/
def wordField (s : State) (r : Nat) (iss : Issue) (w : BitVec 192) (k : Nat) : Option FieldRes := match k with
  | 0 => vecField s iss w
  | 1 => scalField s iss w
  | 2 => memField s r iss w
  | 3 => belField s iss w
  | 4 => mauField s r iss w
  | _ => none

/-- The fields that have not acted. -/
def fieldsLeft (s : State) (r : Nat) (iss : Issue) (w : BitVec 192) : List FieldRes :=
  ((List.range 5).filter (fun k => !bitOf (doneOf w iss) k)).filterMap (wordField s r iss w)

/-! ### Faults of a word (R141, R166, R167, R192) -/

def meets (a b : List Nat) : Bool := a.any b.contains

/-- Two fields of one word collide. -/
def usesClash (a b : FieldUse) : Bool :=
  meets a.writes b.writes || ((a.restarting || b.restarting) && (meets a.reads b.writes || meets a.writes b.reads))

def anyClash : List FieldUse → Bool
  | [] => false
  | u :: us => us.any (usesClash u) || anyClash us

/-- The registers that BRANCH and LCOP read. -/
def seqUses (w : BitVec 192) (done : Nat) : List FieldUse :=
  (if bitOf done 5 then [] else [⟨5, if seqOf w = 2 then condReads (mw w 21 17) (mw w 26 22) else [], [], false⟩]) ++
    (if bitOf done 6 then [] else [⟨6, if lcopOf w = 2 then sRes (mw w 93 89) else [], [], false⟩])

/-- Statuses a routine may post (R171). -/
def endStatus (n : Nat) : Option Status :=
  [Status.ok, .inputInvalid, .pointNotOnCurve, .paramRejected, .signatureInvalid, .tagMismatch, .keyPolicy, .stateExhausted,
    .invariantFailed].find? (fun st => statusCode st = n)

/-- The status and the length of the output in S1 and S2. -/
def endCode (c : ReedCore) : Nat := bitsOf (sGet c 1).toNat 15 0
def endLength (c : ReedCore) : Nat := bitsOf (sGet c 2).toNat 31 0

/-- An END at level 0 that posts a result which R171 does not allow. A library routine leaves an allowed one. -/
def resultBad (s : State) (r : Nat) (iss : Issue) (w : BitVec 192) : Bool := match reedJob s r with
  | none => false
  | some (_, j) => seqOf w = 7 && iss.before.level = 0 && !bitOf (doneOf w iss) 5 && 0x8000 ≤ j.rid && r = postingReed j &&
      ((endStatus (endCode iss.before)).isNone || decide (jOutLen j < endLength iss.before))

/-- The fault of a word: of the instruction-level causes of its fields the lowest (log 8), else the element fault of its memory field. -/
def wordFault (s : State) (r : Nat) (iss : Issue) (w : BitVec 192) : Option RFault :=
  let fs := fieldsLeft s r iss w
  let bad := fs.filterMap FieldRes.fault
  let own (b : Bool) (cause : Nat) : List RFault := if b then [⟨cause, 0, freeAddr s.free⟩] else []
  let whole := bad ++ own (anyClash (fs.map FieldRes.use ++ seqUses w (doneOf w iss))) causeHazard ++ own (resultBad s r iss w) causeResult
  match (sortBy RFault.cause (whole.filter (fun e => causeSpan ≤ e.cause))).head? with
  | some e => some e
  | none => bad.head?

/-- A MAU port operation meets a MAU that still runs (R164). -/
def portBusy (s : State) (r : Nat) (iss : Issue) (w : BitVec 192) : Bool :=
  !bitOf (doneOf w iss) 4 && (coupledMau s r).any (fun c => (clusterAt s c).mau.op.isSome)

/-- A send issued after cycle L - 308, or not granted within 24 cycles (R161). -/
def sendLate (s : State) (iss : Issue) (w : BitVec 192) : Bool :=
  isSend w && !bitOf (doneOf w iss) 3 &&
    (decide (breathLen s < s.brt.cycle + 308) || iss.since.any (fun t => t + 24 < s.brt.cycle))

/-! ### Grants of bellows (R159 to R161) -/

/-- The bellows that take a send now. -/
def freeBellows (s : State) (c : Nat) : List Nat :=
  (List.range 4).filter (fun b => (clusterAt s c).bellows.getD b 0 ≤ s.brt.cycle)

/-- A reed's distance from the one granted last, in the fixed rotation of its cluster. -/
def turn (s : State) (r : Nat) : Nat := (r % 16 + 15 - (clusterAt s (reedCluster r)).granted % 16) % 16

/-- The reed waits for a grant. -/
def awaitsGrant (s : State) (q : Nat) : Bool :=
  reedRuns s q && (reedAt s q).issue.any (fun i => !i.issued && i.since.any (fun t => s.brt.cycle ≤ t + 24))

/-- A free bellows is left for the reed by those that wait before it. -/
def granted (s : State) (r : Nat) : Bool :=
  ((clusterReeds (reedCluster r)).filter (fun q => awaitsGrant s q && decide (turn s q < turn s r))).length < (freeBellows s (reedCluster r)).length

/-- The grant: any free bellows, the device's choice (R24), takes the send for 8 cycles. -/
def grantBellows (s : State) (r : Nat) : Nat × State :=
  let c := reedCluster r
  let free := freeBellows s c
  let (n, s1) := freshChoice free.length s
  let b := free.getD n 0
  (b, modCluster s1 c (fun x => { x with bellows := listSet x.bellows b (s.brt.cycle + 8), granted := r % 16 }))

end Sys2Proof.Machine
end

