-- ==== Sys2Proof/Machine/Reed.lean ====
section
/-! DEFINITION. How a reed runs: words and their rows (R141, R187 to R193), faults and micro-traps (R166 to R169, R194 to R202),
windows and staging (R145 to R149, R197), ends of jobs (R170 to R173), the exhale (R28, R169, R199), starts and replays (R143, R144, R146, R177 to
R180, R212). -/

namespace Sys2Proof.Machine

/-! ### Job space -/

/-- The bytes of a page of a memory, from its first byte. -/
def storePage (m : Store 8) (p : Nat) : Store 8 :=
  (m.filter (fun e => e.1 / 16384 = p)).map (fun e => (e.1 % 16384, e.2))

/-- Replace a page of a memory. -/
def storeSetPage (m : Store 8) (p : Nat) (d : Store 8) : Store 8 :=
  d.foldl (fun t e => storeSet t (16384 * p + e.1) e.2) (m.filter (fun e => e.1 / 16384 ≠ p))

/-- Put a reed's modified frames back into its job's space (R147, R149, R170). -/
def flushFrames (s : State) (r : Nat) : State :=
  match (reedAt s r).job with
  | none => s
  | some k => modJob s k (fun j => { j with
      space := (reedAt s r).core.frames.foldl (fun m fr => match fr.page with
        | some p => if fr.dirty then storeSetPage m p fr.data else m
        | none => m) j.space })

/-! ### Trap frames and micro-traps (R194 to R200) -/

/-- What the frame of a word that has not issued holds: its empty fields done, and its scalar operands; a word issued again keeps what its frame
held (R198 to R200). -/
def pendingWord (w : BitVec 192) (iss : Issue) : Resume := match iss.resume with
  | some p => { p with done := p.done ||| emptyFields w }
  | none => ⟨emptyFields w, 0, 0, 0, sGet iss.before (mw w 77 73), sGet iss.before (mw w 135 131), sGet iss.before (mw w 140 136)⟩

/-- Save a core in the frame of its level. -/
def saveFrame (s : State) (r entry : Nat) (c : ReedCore) (pend : Option Resume) : ReedCore :=
  let b := trapFrame c (if c.level = 0 then (reedAt s r).routine else 0) c.upc entry (wordAt s r c) pend s.brt.count s.free
  { c with opmem := storeWrite c.opmem (frameAddr c.level) b }

/-- Enter the kernel: level 1, an empty call stack. -/
def enterKernel (entry : Nat) (c : ReedCore) : ReedCore :=
  { c with level := 1, entry := entry, upc := trapEntryAddr entry, stack := [] }

/-- Take a micro-trap at level 0. -/
def microTrap (s : State) (r entry : Nat) (c : ReedCore) (pend : Option Resume) (run : ReedRun) : State :=
  setReed { s with free := s.free + 1 } r { reedAt s r with
    run := run
    issue := none
    core := enterKernel entry (saveFrame s r entry c pend) }

/-- A frame holds saved state. -/
def frameValid (c : ReedCore) (level : Nat) : Bool := (storeGet c.opmem (frameAddr level + 5)).toNat % 2 = 1

/-- Restore a frame and clear its VALID; answers the core and what is pending. -/
def restoreFrame (level : Nat) (c : ReedCore) : ReedCore × Option Resume :=
  let b := storeRead c.opmem (frameAddr level) 128
  ({ c with
      opmem := storeWrite c.opmem (frameAddr level + 5) [BitVec.ofNat 8 (byteAt b 5 / 2 * 2)]
      upc := le b 2 2 % 2 ^ 14
      stack := ((List.range (byteAt b 16)).map (fun i => le b (8 + 2 * i) 2)).reverse
      lc := (List.range 4).map (fun i => BitVec.ofNat 16 (le b (24 + 2 * i) 2))
      level := level },
    if bitOf (byteAt b 5) 1 then
      some ⟨byteAt b 7, byteAt b 6, le b 18 2 % 2 ^ 14, byteAt b 4, BitVec.ofNat 64 (le b 56 8), BitVec.ofNat 64 (le b 64 8),
        BitVec.ofNat 64 (le b 72 8)⟩
    else none)

/-- Resume a restored core: its pending word is issued again. -/
def resumeCore (x : Reed) (c : ReedCore × Option Resume) (run : ReedRun) : Reed :=
  { x with run := run, core := c.1, issue := c.2.map (fun p => ⟨c.1, 0, false, none, none, some p⟩) }

/-! ### Ends (R170 to R173, R195, R196, R219) -/

/-- A library routine leaves its MAU's operand registers zeroed; modulus and curve stay (R233). -/
def endMau (s : State) (j : Job) : State := match j.unit with
  | .mau c _ => modCluster s c (fun k => { k with mau := { k.mau with mem := if j.rid < 0x8000 then [] else k.mau.mem, op := none } })
  | _ => s

/-- A job ends with a result: it is posted and the reeds of its unit are wiped. A job being aborted posts nothing. -/
def endWith (s : State) (r : Nat) (res : JobResult) : State := match reedJob s r with
  | none => s
  | some (k, j) =>
    let s1 := if j.stage = .running then endMau (postResult s k res) j else s
    wipeReed ((unitReeds j.unit).foldl wipeReed s1) r

/-- The status of an END under entry 1 (R196). -/
def faultStatus (c : ReedCore) : Status :=
  let k := bitsOf c.trapElem.toNat 11 8
  if k = causeKeyCorrupt then .keySlotCorrupt else if k = causeKeyUse then .keyPolicy else .vectorFault

/-- A job that the trap kernel ends (R195). -/
def kernelFault (s : State) (r : Nat) : State := endWith s r ⟨.vectorFault, [], 0, none⟩

/-! ### Faults and busy ports (R161, R164, R166 to R168, R193, R195) -/

/-- A word faults: none of its fields acts. At level 1 the job ends. -/
def takeFault (s : State) (r : Nat) (w : BitVec 192) (e : RFault) : State :=
  let iss := issueOf (reedAt s r)
  let c : ReedCore := { iss.before with
    trapElem := BitVec.ofNat 64 (e.elem % 256 + 256 * e.cause)
    trapAddr := e.addr }
  if c.level = 1 then kernelFault s r
  else microTrap s r (if e.cause = causeWindow then 4 else 1) c (some (pendingWord w iss)) .running

/-- A busy bellows or MAU: entry 5 or 6. -/
def takeBusy (s : State) (r entry : Nat) (w : BitVec 192) : State :=
  let iss := issueOf (reedAt s r)
  if iss.before.level = 1 then kernelFault s r
  else microTrap s r entry iss.before (some (pendingWord w iss)) .running

/-- An instruction-level fault with no address of its own: the recorded address is free (log 1). -/
def faultNow (s : State) (r cause : Nat) : State :=
  takeFault { s with free := s.free + 1 } r (wordNow s r) ⟨cause, 0, freeAddr s.free⟩

/-! ### Parity and replay (R177 to R180) -/

/-- The first inhale at least 128 cycles from now. -/
def replayBreath (s : State) : Nat := if s.brt.cycle + 128 ≤ breathLen s then s.brt.count + 1 else s.brt.count + 2

/-- A parity error touches a job: it will be replayed. -/
def touchJob (s : State) (k : Nat) : State :=
  modJob s k (fun j => { j with replayed := true, replayAt := replayBreath s })

/-- The job leaves its units' state for a replay: everything is wiped; an abort prevails. -/
def awaitReplay (s : State) (k : Nat) : State := match tblGet s.jobs k with
  | none => s
  | some j => modJob (wipeUnits s j) k (fun x => { x with stage := if x.stage = .aborting then .aborting else .replayWait })

/-- The job runs a replay: an error it meets is charged (R179). -/
def inReplay (s : State) (k : Nat) : Bool := match tblGet s.jobs k with
  | some j => 1 ≤ j.replays
  | none => false

/-- Both trap frames are discarded (R195, R202). -/
def dropFrames (c : ReedCore) : ReedCore := { c with opmem := storeWrite c.opmem (frameAddr 0) (zeros 256) }

/-- A parity error in the memory, the registers or the frames of a reed: the parity trap, whose frame is not kept; a charge in a replay. -/
def reedParity (s : State) (r : Nat) : State := match reedJob s r with
  | none => s
  | some (k, _) =>
    let s1 := modReed (touchJob s k) r (fun x => { x with issue := none, core := enterKernel 2 (dropFrames x.core) })
    if inReplay s k then chargeReed s1 r k else s1

/-- A parity error in the control store as a word is fetched: the reed waits for the word's block and the cluster is charged; a second error of a
block after its reload mutes it. -/
def storeParity (s : State) (r block : Nat) : State := match reedJob s r with
  | none => s
  | some (k, _) =>
    let c := reedCluster r
    let again : Bool := (clusterAt s c).csErrors.contains block
    let s1 := modJob s k (fun j => { j with replayed := true })
    let s2 := modCluster s1 c (fun x => { x with
      csErrors := if again then x.csErrors else block :: x.csErrors
      reloading := if x.reloading.contains block then x.reloading else block :: x.reloading })
    let s3 := chargeCluster (modReed s2 r (fun x => { x with run := .reload block })) c k
    if again then muteCluster s3 c 6 else s3

/-- CONTROL_STORE_RELOAD_DONE: the block is whole again and the reeds that wait for it run on. -/
def reloadDone (s : State) (c block : Nat) : State :=
  if !(clusterAt s c).reloading.contains block then s
  else
    let s1 := modCluster s c (fun x => match s.charts.inForce with
      | some ch => reloadBlock ch block x
      | none => { x with reloading := x.reloading.filter (· ≠ block) })
    { s1 with reeds := s1.reeds.map (fun e =>
        (e.1, if reedCluster e.1 = c && e.2.run = .reload block then { e.2 with run := .running } else e.2)) }

def execControlStoreReloadDone (c : Fin 64) (block : BitVec 8) (s : State) : Host.Outcome State Fault Refusal :=
  whenRunning s (reloadDone s c.val block.toNat)

/-! ### Fetch and issue (R181, R187, R191 to R194) -/

/-- The fetch of the word at the sequencer stalls: its block is under reload, or its parity does not hold (R177). -/
def fetchStalls (s : State) (r : Nat) : Bool :=
  let x := reedAt s r
  let k := clusterAt s (reedCluster r)
  let a := wordAddr s r x.core
  !x.issue.any Issue.issued && (k.reloading.contains (a / 64) || wordBad k a)

def stallFetch (s : State) (r : Nat) : State :=
  let b := wordAddr s r (reedAt s r).core / 64
  if (clusterAt s (reedCluster r)).reloading.contains b then modReed s r (fun x => { x with run := .reload b }) else storeParity s r b

/-- UPC meets a breakpoint, where debug is open; not when the DEBUG handler has just returned to the word (log 21). -/
def meetsBreakpoint (s : State) (r : Nat) (iss : Issue) : Bool :=
  iss.before.level = 0 && (reedAt s r).breakpoints.contains iss.before.upc && s.lcs.invasive && !iss.resume.any (fun p => p.entry = 7)

/-- The word waits: for random bits, for the result that BRECV receives, for the grant of its send. -/
def waitsRandom (s : State) (r : Nat) (iss : Issue) (w : BitVec 192) : Bool :=
  mopOf w = 10 && !bitOf (doneOf w iss) 2 && rndrdWaits s r
def waitsResult (iss : Issue) (w : BitVec 192) : Bool :=
  bopOf w = 4 && !bitOf (doneOf w iss) 3 && iss.before.send.any (fun x => !x.ready)
def sends (iss : Issue) (w : BitVec 192) : Bool := isSend w && !bitOf (doneOf w iss) 3

/-- A read that needs fresh entropy asks for it. -/
def askFresh (s : State) (r : Nat) : State := match reedJob s r with
  | none => s
  | some (_, j) =>
    if prStrict s j && mayRead s j && !s.rng.granted.contains (.reed r) && !s.rng.waiting.contains (.reed r) then
      modRng s (fun g => { g with waiting := g.waiting ++ [.reed r] })
    else s

/-- The word issues, its send with the bellows it is granted. -/
def issueWord (s : State) (r : Nat) (iss : Issue) (w : BitVec 192) : State :=
  if sends iss w then
    let (b, s1) := grantBellows s r
    setReed s1 r { reedAt s1 r with issue := some { iss with issued := true, since := none, grant := some (b, s.brt.cycle) } }
  else setReed s r { reedAt s r with issue := some { iss with issued := true } }

/-- KEYRD that meets a slot failing its tag marks it corrupt (R328). -/
def noteCorrupt (s : State) (r : Nat) (e : RFault) : State := match reedJob s r with
  | some (_, j) => if e.cause = causeKeyCorrupt then markCorrupt s j.inst (jSlot j) else s
  | none => s

/-- The word at the sequencer issues, or waits, or takes the micro-trap of the lowest priority number among its causes (R194): the vector fault and
the window miss, a busy bellows, a busy MAU, a breakpoint. -/
def openWord (s : State) (r : Nat) : State :=
  let x := reedAt s r
  if x.issue.any Issue.issued then s
  else
    let w := wordNow s r
    let iss := { issueOf x with before := x.core }
    match wordFault s r iss w with
    | some e => takeFault { noteCorrupt s r e with free := s.free + 1 } r w e
    | none =>
      if sendLate s iss w then takeBusy s r 5 w
      else if portBusy s r iss w then takeBusy s r 6 w
      else if meetsBreakpoint s r iss then microTrap s r 7 iss.before (some (pendingWord w iss)) .debug
      else if waitsRandom s r iss w then askFresh (setReed s r { x with issue := some iss }) r
      else if waitsResult iss w then setReed s r { x with issue := some iss }
      else if sends iss w && !granted s r then
        setReed s r { x with issue := some { iss with since := some (iss.since.getD s.brt.cycle) } }
      else issueWord s r iss w

/-- A row of the word at the sequencer: one that the stored word holds. The first of them fetches and issues the word. -/
def rowStep (s : State) (r : Nat) (names : BitVec 192 → Bool) (act : State → State) : State :=
  if !reedRuns s r then s
  else if fetchStalls s r then stallFetch s r
  else if !names (wordNow s r) then s
  else
    let t := openWord s r
    if reedRuns t r && (reedAt t r).issue.any Issue.issued then act t else t

/-! ### Rows of fields -/

/-- Field `k` of the issued word acts, whole or from the beat at which it resumes. `after` says what it does outside the reed; it is given the
state before. -/
def actField (s : State) (r k : Nat) (after : State → State → State) : State :=
  let x := reedAt s r
  let w := wordNow s r
  match x.issue with
  | none => s
  | some iss =>
    if bitOf (doneOf w iss) k then s
    else match wordField s r iss w k with
      | none => s
      | some res => after s (setReed { s with free := s.free + res.free } r { x with
          core := res.upd (startBeat iss) (beatCount (gsize iss.before)) x.core
          issue := some { iss with done := iss.done ||| 2 ^ k } })

def onlyReed : State → State → State := fun _ t => t

def vecStep (s : State) (r : Fin 1024) (code : Nat) (f : VField) : State :=
  rowStep s r.val (fun w => vopOf w = code && vFieldOf w = f) (fun t => actField t r.val 0 onlyReed)
def memStep (s : State) (r : Fin 1024) (code : Nat) (f : MField) (after : State → State → State) : State :=
  rowStep s r.val (fun w => mopOf w = code && mFieldOf w = f) (fun t => actField t r.val 2 after)
def belStep (s : State) (r : Fin 1024) (code : Nat) (f : BField) : State :=
  rowStep s r.val (fun w => bopOf w = code && bFieldOf w = f) (fun t => actField t r.val 3 onlyReed)
def mauStep (s : State) (r : Fin 1024) (code : Nat) (f : AField) (after : ReedCore → Mau → Mau) : State :=
  rowStep s r.val (fun w => aopOf w = code && aFieldOf w = f) (fun t => actField t r.val 4 (fun t0 t1 => match coupledMau t0 r.val with
    | some c => modCluster t1 c (fun k => { k with mau := after (issueOf (reedAt t0 r.val)).before k.mau })
    | none => t1))

/-! ### Windows (R145 to R147, R197) -/

/-- The frame whose page was used least recently. -/
def oldestFrame (c : ReedCore) : Nat := match c.frames with
  | [a, b] => if a.used ≤ b.used then 0 else 1
  | _ => 0

/-- Write a frame back where it was modified, and empty it. -/
def evictFrame (s : State) (r i : Nat) : State :=
  let c := (reedAt s r).core
  let s1 := match (reedAt s r).job, c.frames[i]? with
    | some k, some ⟨some p, d, true, _⟩ => modJob s k (fun j => { j with space := storeSetPage j.space p d })
    | _, _ => s
  modReed s1 r (fun x => { x with core := { x.core with
    frames := listMod x.core.frames i (fun fr => ⟨none, [], false, fr.used⟩) } })

/-- Start staging a page that is no input of a staging under way. The page it replaces stays resident until then (log 10). -/
def startStaging (s : State) (r page : Nat) : State :=
  let x := reedAt s r
  if jobPages x.core ≤ page || (resident x.core page).isSome || x.staging.any (fun g => g.page = page) then s
  else
    let i := match x.staging with
      | g :: _ => 1 - g.frame
      | [] => oldestFrame x.core
    modReed s r (fun y => { y with staging := y.staging ++ [⟨page, i⟩] })

/-- WINDOW_STAGE_DONE: the oldest staging of a reed completes, between two words or while one waits, and its page is resident. -/
def stageDone (s : State) (r : Nat) : State :=
  let x := reedAt s r
  match x.staging, reedJob s r with
  | g :: rest, some (_, j) =>
    if x.issue.any Issue.issued then s
    else
      let d := storePage j.space g.page
      modReed (evictFrame s r g.frame) r (fun y => { y with
        staging := rest
        core := { y.core with
          clock := y.core.clock + 1
          frames := listSet y.core.frames g.frame ⟨some g.page, d, false, y.core.clock + 1⟩ } })
  | _, _ => s

/-- The write-back of the replaced frame may meet a parity error (R177): the job is replayed. -/
def execWindowStageDone (r : Access (Fin 1024)) (s : State) : Host.Outcome State Fault Refusal :=
  let k := r.target.val
  whenRunning s (if r.parity && reedRuns s k && (reedAt s k).staging ≠ [] then reedParity s k else stageDone s k)

/-- CSRW of a WIN that names a page not resident starts staging it (R197). -/
def csrwAfter (r : Nat) (f : SField) (s : State) : State :=
  let i := csrIndex f
  if 8 ≤ i ∧ i ≤ 11 then startStaging s r ((reedAt s r).core.win.getD (i - 8) 0) else s

/-- What the scalar field of a word does outside the registers. -/
def scalAfter (r : Nat) (w : BitVec 192) (s : State) : State := if sopOf w = 0x10 then csrwAfter r (sFieldOf w) s else s

def scalStep (s : State) (r : Fin 1024) (code : Nat) (f : SField) : State :=
  rowStep s r.val (fun w => sopOf w = code && sFieldOf w = f) (fun t => actField t r.val 1 (fun t0 t1 => scalAfter r.val (wordNow t0 r.val) t1))

/-! ### Sequencing (R187 to R191, R200) -/

def stepInc (before c : ReedCore) : ReedCore := { c with upc := (before.upc + 1) % 2 ^ 14 }
def stepJump (target : Nat) (_ c : ReedCore) : ReedCore := { c with upc := target }
def stepBranch (target cond creg : Nat) (before c : ReedCore) : ReedCore :=
  { condCounters c cond with upc := if condHolds before cond creg then target else (before.upc + 1) % 2 ^ 14 }
def stepCall (target : Nat) (before c : ReedCore) : ReedCore :=
  { c with upc := target, stack := (before.upc + 1) % 2 ^ 14 :: before.stack }
def stepRet (before c : ReedCore) : ReedCore := { c with upc := before.stack.headD 0, stack := before.stack.drop 1 }

/-- The sequencing of a word by its bits; TRET and END form no next address. -/
def seqCore (w : BitVec 192) (before c : ReedCore) : ReedCore :=
  let target := mw w 16 3
  match seqOf w with
  | 0 | 6 => stepInc before c
  | 1 => stepJump target before c
  | 2 => stepBranch target (mw w 21 17) (mw w 26 22) before c
  | 3 => stepCall target before c
  | 4 => stepRet before c
  | _ => c

/-- The sequencer goes on at the next word. -/
def nextWord (s : State) (r : Nat) (c : ReedCore) : State := setReed s r { reedAt s r with core := c, issue := none }

/-- Every field of the issued word, LCOP too, has acted. -/
def fieldsDone (s : State) (r : Nat) : Bool :=
  (reedAt s r).issue.any (fun iss => let d := doneOf (wordNow s r) iss; d % 32 = 31 && bitOf d 6)

/-- A sequencing operation ends the word once its fields have acted; one done before a trap only goes on at NEXT_UPC. -/
def seqStep (s : State) (r : Nat) (names : BitVec 192 → Bool) (f : ReedCore → ReedCore → ReedCore) (run : ReedRun) : State :=
  rowStep s r names (fun t =>
    let x := reedAt t r
    let iss := issueOf x
    if !fieldsDone t r then t
    else if iss.resume.any (fun p => bitOf p.done 5) then nextWord t r { x.core with upc := iss.resume.elim 0 Resume.next }
    else modReed (nextWord t r (f iss.before x.core)) r (fun y => { y with run := run }))

/-- The word holds a sequencing code with these fields. -/
def seqNamed (code : Nat) (f : QField) (w : BitVec 192) : Bool := seqOf w = code && qFieldOf w = f

/-- What befalls the reed beside the row: a parity error comes before it, a bit that turns over or a defect shows later. -/
def withEvent (s : State) (r : Fin 1024) (ev : WordEvent) (go : State → State) : State := match ev with
  | .clean => go s
  | .registers => if reedRuns s r.val then reedParity s r.val else s
  | .store word bit => modCluster (go s) (reedCluster r.val) (fun x => flipBit x word.val bit.val)
  | .defect => go (modReed s r.val (fun x => { x with defect := true }))

def execInc (r : Fin 1024) (f : QField) (ev : WordEvent) (s : State) : Host.Outcome State Fault Refusal :=
  whenRunning s (withEvent s r ev (fun t => seqStep t r.val (seqNamed 0 f) stepInc .running))
def execJump (r : Fin 1024) (f : SeqRow) (s : State) : Host.Outcome State Fault Refusal :=
  whenRunning s (withEvent s r f.event (fun t => seqStep t r.val (seqNamed 1 f.field) (stepJump f.field.target.toNat) .running))
def execBranch (r : Fin 1024) (f : SeqRow) (s : State) : Host.Outcome State Fault Refusal :=
  whenRunning s (withEvent s r f.event (fun t => seqStep t r.val (seqNamed 2 f.field) (stepBranch f.field.target.toNat f.field.cond.val f.field.creg.val) .running))
def execCall (r : Fin 1024) (f : SeqRow) (s : State) : Host.Outcome State Fault Refusal :=
  whenRunning s (withEvent s r f.event (fun t => seqStep t r.val (seqNamed 3 f.field) (stepCall f.field.target.toNat) .running))
def execRet (r : Fin 1024) (f : SeqRow) (s : State) : Host.Outcome State Fault Refusal :=
  whenRunning s (withEvent s r f.event (fun t => seqStep t r.val (seqNamed 4 f.field) stepRet .running))

/-- WAITI: nothing more issues until the exhale micro-trap. -/
def execWaiti (r : Fin 1024) (f : SeqRow) (s : State) : Host.Outcome State Fault Refusal :=
  whenRunning s (withEvent s r f.event (fun t => seqStep t r.val (seqNamed 6 f.field) stepInc .waiti))

/-- TRET: the kernel returns to the routine, whose pending word is issued again. -/
def tretStep (s : State) (r : Nat) (f : QField) : State :=
  rowStep s r (seqNamed 5 f) (fun t =>
    let x := reedAt t r
    if !fieldsDone t r || x.core.level ≠ 1 || !frameValid x.core 0 then t
    else setReed t r (resumeCore x (restoreFrame 0 { x.core with entry := 0 }) .running))
def execTret (r : Fin 1024) (f : SeqRow) (s : State) : Host.Outcome State Fault Refusal :=
  whenRunning s (withEvent s r f.event (fun t => tretStep t r.val f.field))

/-- DEBUG_RELEASE: the kernel's DEBUG handler goes on to its TRET. -/
def execDebugRelease (r : Fin 1024) (s : State) : Host.Outcome State Fault Refusal :=
  whenRunning s (if (reedAt s r.val).run = .debug then modReed s r.val (fun x => { x with run := .running }) else s)

/-- What LCOP sets its counter to (R189). -/
def lcValue (w : BitVec 192) (before : ReedCore) : BitVec 16 :=
  if lcopOf w = 1 then BitVec.ofNat 16 (mw w 114 99) else if lcopOf w = 2 then BitVec.ofNat 16 (sGet before (mw w 93 89)).toNat else 0

/-- The loop counter operation of the issued word acts. -/
def actLc (s : State) (r : Nat) : State :=
  let x := reedAt s r
  let w := wordNow s r
  match x.issue with
  | none => s
  | some iss =>
    if bitOf (doneOf w iss) 6 then s
    else setReed s r { x with
      core := { x.core with lc := listSet x.core.lc (mw w 32 31) (lcValue w iss.before) }
      issue := some { iss with done := iss.done ||| 64 } }

def lcStep (s : State) (r : Fin 1024) (code : Nat) (f : LField) : State :=
  rowStep s r.val (fun w => lcopOf w = code && lFieldOf w = f) (fun t => actLc t r.val)

def execLcSetImmediate (r : Fin 1024) (f : LField) (s : State) : Host.Outcome State Fault Refusal := whenRunning s (lcStep s r 1 f)
def execLcSetScalar (r : Fin 1024) (f : LField) (s : State) : Host.Outcome State Fault Refusal := whenRunning s (lcStep s r 2 f)
def execLcClear (r : Fin 1024) (f : LField) (s : State) : Host.Outcome State Fault Refusal := whenRunning s (lcStep s r 3 f)

/-! ### END (R170, R171, R196) -/

/-- The result that S1, S2 and the output pages of job space hold. -/
def routineResult (space : Store 8) (outLen : Nat) (c : ReedCore) : Option JobResult :=
  match endStatus (endCode c) with
  | some st => if endLength c ≤ outLen then some ⟨st, storeRead space (16384 * inputPages c) (endLength c), 0, none⟩ else none
  | none => none

/-- What a library routine has left by its END: its status in S1, the length of its output in S2, the output from byte 0 of page INPUT_PAGES (R128,
R144, R170). -/
def libraryLeaves (c : ReedCore) (j : Job) (res : JobResult) : ReedCore × Store 8 :=
  (sSet (sSet c 1 (BitVec.ofNat 64 (statusCode res.status))) 2 (BitVec.ofNat 64 res.out.length),
    storeWrite j.space (16384 * inputPages c) res.out)

/-- The state of the posting reed at its END, the job space, and what the result carries beside its output: RESULT_INFO and a new secret. -/
def endState (s : State) (c : ReedCore) (j : Job) : (ReedCore × Store 8) × (Nat × Option NewSecret) × State :=
  if j.rid < 0x8000 then
    let x := libraryResult s j
    (libraryLeaves c j x.1, (x.1.info, x.1.secret), x.2)
  else ((c, j.space), (0, none), s)

/-- A library job makes all its reads before its END (R238). -/
def readsMade (s : State) (j : Job) : Bool := 0x8000 ≤ j.rid || decide (j.draws.length = 64 * jobReads s j)

/-- END at level 0: the posting reed posts, any other reed of a gang is wiped. -/
def endRoutine (s : State) (r : Nat) : State :=
  let c := (issueOf (reedAt s r)).before
  match reedJob s r with
  | none => s
  | some (k, j) =>
    if r ≠ postingReed j then wipeReed (flushFrames s r) r
    else if !readsMade s j then s
    else
      let s1 := (unitReeds j.unit).foldl flushFrames s
      match tblGet s1.jobs k with
      | none => s
      | some j1 =>
        let (e, more, s2) := endState s1 c j1
        match routineResult e.2 (jOutLen j1) e.1 with
        | some res => endWith s2 r { res with info := more.1, secret := more.2 }
        | none => faultNow s1 r causeResult

/-- END at level 1: the outcome of the entry. -/
def endKernel (s : State) (r : Nat) : State :=
  let c := (reedAt s r).core
  match reedJob s r with
  | none => s
  | some (k, _) =>
    if c.entry = 1 then endWith s r ⟨faultStatus c, [], 0, none⟩
    else if c.entry = 2 then awaitReplay (wipeReed s r) k
    else wipeReed s r

def endStep (s : State) (r : Nat) : State :=
  rowStep s r (fun w => seqOf w = 7) (fun t =>
    if !fieldsDone t r then t else if (reedAt t r).core.level = 0 then endRoutine t r else endKernel t r)
def execEndJob (r : Fin 1024) (ev : WordEvent) (s : State) : Host.Outcome State Fault Refusal :=
  whenRunning s (withEvent s r ev (fun t => endStep t r.val))

/-! ### The exhale micro-trap (R28, R169, R180, R195, R199) -/

/-- The classes that run in beats. -/
def inBeatsClass (c : FieldClass) : Bool := decide (c = .beats ∨ c = .butterfly)

/-- The class of the vector or the memory field of a word. -/
def fieldCls (s : State) (r : Nat) (iss : Issue) (w : BitVec 192) (k : Nat) : Option FieldClass :=
  if bitOf (emptyFields w) k then none else (wordField s r iss w k).map FieldRes.cls

/-- The beats that the vector and memory fields of an issued word have issued by cycle L - 256: they issue together (R191), so all of them where
one has acted whole in this issue; else any number above those done before, the device's choice (log 42). -/
def beatsIssued (s : State) (r : Nat) (iss : Issue) (w : BitVec 192) : Nat :=
  let n := beatCount (gsize iss.before)
  let lo := startBeat iss
  let beats (k : Nat) : Bool := (fieldCls s r iss w k).any inBeatsClass
  if [0, 2].any (fun k => fieldCls s r iss w k = some .beats && bitOf iss.done k) then n
  else if [0, 2].any (fun k => beats k && !bitOf (doneOf w iss) k) && lo < n then lo + 1 + Config.freeChoice s.free (n - lo) % (n - lo)
  else lo

/-- Field `k` of an issued word is cut after `b` beats: what these wrote stays, and the field is done where they were all. -/
def cutField (s : State) (r : Nat) (iss : Issue) (w : BitVec 192) (b k : Nat) (c : ReedCore × Nat) : ReedCore × Nat :=
  if bitOf (doneOf w iss) k then c
  else match wordField s r iss w k with
    | some res =>
      if inBeatsClass res.cls then
        (res.upd (startBeat iss) b c.1, if beatCount (gsize iss.before) ≤ b then c.2 ||| 2 ^ k else c.2)
      else c
    | none => c

/-- The core to save and what is pending of a word that had issued, its scalar field and LCOP done. -/
def cutWord (s : State) (r : Nat) (iss : Issue) (w : BitVec 192) (c : ReedCore) : ReedCore × Option Resume :=
  let b := beatsIssued s r iss w
  let (c1, done) := cutField s r iss w b 2 (cutField s r iss w b 0 (c, doneOf w iss))
  let p := pendingWord w iss
  let halts : Bool := seqOf w = 5 || seqOf w = 7
  if iss.resume.any (fun q => bitOf q.done 5) then
    if done % 32 = 31 && !halts then ({ c1 with upc := p.next }, none)
    else ({ c1 with upc := iss.before.upc }, some { p with done := done, beat := b })
  else
    let c2 := seqCore w iss.before c1
    if done % 32 = 31 && !halts then (c2, none)
    else ({ c2 with upc := iss.before.upc }, some { p with
      done := done ||| 32
      beat := b
      next := if halts then (Config.freeWord 14 s.free).toNat else c2.upc })

/-- What the exhale finds of the word at the sequencer: nothing issued, a word that waits, a word cut. -/
def exhaleWord (s : State) (r : Nat) : (ReedCore × Option Resume) × State :=
  let w := wordNow s r
  match (reedAt s r).issue with
  | none => (((reedAt s r).core, none), s)
  | some iss =>
    if !iss.issued then (((reedAt s r).core, some (pendingWord w iss)), s)
    else
      let s1 := actLc (actField s r 1 (fun t0 t1 => scalAfter r (wordNow t0 r) t1)) r
      let x := reedAt s1 r
      (cutWord s1 r (issueOf x) w x.core, { s1 with free := s1.free + 1 })

/-- The exhale of one reed: its bellows state is gone, its micro-state saved. A reed under the parity trap is wiped for its replay. -/
def exhaleReed (s : State) (r : Nat) : State :=
  let x := reedAt s r
  match x.job with
  | none => s
  | some k =>
    if x.run = .idle then s
    else if x.core.level = 1 && x.core.entry = 2 then awaitReplay s k
    else
      let (e, s1) := exhaleWord s r
      let c1 := { e.1 with send := none }
      if c1.level = 0 then microTrap s1 r 0 c1 e.2 .trapped
      else setReed { s1 with free := s1.free + 1 } r { reedAt s1 r with
        run := if x.run = .debug then .debug else .trapped
        issue := none
        core := saveFrame s1 r 0 c1 e.2 }

/-- The exhale of every reed, and of the bellows, which keep nothing (R160). -/
def exhaleReeds (s : State) : State :=
  let s1 := (s.reeds.map (·.1)).foldl exhaleReed s
  { s1 with clusters := s1.clusters.map (fun e => (e.1, { e.2 with bellows := [0, 0, 0, 0] })) }

/-! ### Inhale: resuming (R195, R201) -/

/-- A trapped reed resumes: at the kernel's state saved in frame 1, else at entry 0. -/
def inhaleReed (s : State) (r : Nat) : State :=
  let x := reedAt s r
  match reedJob s r with
  | none => s
  | some (_, j) =>
    if (x.run = .trapped || x.run = .debug) && (j.stage = .running || j.stage = .aborting) && j.moveAt.isNone then
      let run : ReedRun := if x.run = .debug then .debug else .running
      if frameValid x.core 1 then setReed s r (resumeCore x (let q := restoreFrame 1 x.core; ({ q.1 with level := 1 }, q.2)) run)
      else setReed s r { x with run := run }
    else s

/-- After a health failure no slice begins (R358). -/
def inhaleReeds (s : State) : State := if s.rng.alarm || s.dev.halting then s else (s.reeds.map (·.1)).foldl inhaleReed s

/-! ### Starting a job on its unit (R143, R144, R146, R212, R233) -/

/-- The extended keys of a job, in the order they are copied: SLOT's, then CURVE_SLOT's record of a PK_JOB (R212; the order is a DESIGN CHOICE,
log 83). -/
def startMaterials (s : State) (j : Job) : List Slot :=
  ((if j.kind = .pk && jAlg j < 0x8000 then [jSlot j, jCurveSlot j] else [jSlot j]).filter (· ≠ noSlot)).filterMap
    (fun h => (slotAt s j.inst h).bind (fun x => if x.material = [] then none else some x))

/-- Input pages: the input's and those of the extended keys. -/
def startInputPages (s : State) (j : Job) : Nat :=
  ceilDiv (jByteLen j) 16384 + ((startMaterials s j).map (fun x => ceilDiv x.material.length 16384)).sum

/-- Write extended keys, each from a page of its own. -/
def copyMaterials : Nat → List Slot → Store 8 → Store 8
  | _, [], m => m
  | page, x :: rest, m => copyMaterials (page + ceilDiv x.material.length 16384) rest (storeWrite m (16384 * page) x.material)

/-- Job space at a start: the input, the extended keys after it, zeros. -/
def startSpace (s : State) (j : Job) : Store 8 :=
  copyMaterials (ceilDiv (jByteLen j) 16384) (startMaterials s j) (storeWrite [] 0 j.input)

/-- The job header (R143). -/
def jobHeader (s : State) (j : Job) : Bytes :=
  leBytes 2 (jAlg j) ++ leBytes 2 (jSlot j) ++ leBytes 4 (jByteLen j) ++ leBytes 4 (jOutLen j) ++ slice j.entry 5 1 ++
    leBytes 1 (startInputPages s j) ++ leBytes 1 j.pages ++ leBytes 1 j.rung ++ leBytes 8 (j.start.getD 0) ++ leBytes 4 j.budget ++
    leBytes 1 j.replays ++ zeros 3 ++ slice j.entry 32 32

/-- A reed's core at the start of a job: the header, the windows, pages 0 and 1 staged. Of the two, page 0 counts as used later (DESIGN CHOICE, log 10):
the first miss replaces page 1. -/
def startCore (hdr : Bytes) (pages entry : Nat) (space : Store 8) : ReedCore :=
  { ReedCore.init with
    opmem := storeWrite [] 0x7E00 hdr
    win := (List.range 4).map (fun w => if w < pages then w else 0)
    frames := [⟨some 0, storePage space 0, false, 1⟩,
      if 1 < pages then ⟨some 1, storePage space 1, false, 0⟩ else ⟨none, [], false, 0⟩]
    clock := 1
    upc := entry }

/-- The slot's extended material fails its tag or its digest (R212, R328). -/
def materialBad (s : State) (x : Slot) : Bool := slotBad s x || slice x.key 16 32 ≠ sha3_256 x.material

/-- The slots whose material fails are marked corrupt (R328). -/
def markMaterials (s : State) (j : Job) : State :=
  ([jSlot j, jCurveSlot j].filter (fun h => h ≠ noSlot && (slotAt s j.inst h).any (fun x => x.material ≠ [] && materialBad s x))).foldl
    (fun t h => markCorrupt t j.inst h) s

/-- Start one reed of a job. -/
def startReed (hdr : Bytes) (j : Job) (k entry : Nat) (bad : Bool) (s : State) (r : Nat) : State :=
  let x := reedAt s r
  let s1 := setReed s r { Reed.init with
    job := some k
    routine := j.rid
    run := .running
    core := startCore hdr j.pages entry j.space
    breakpoints := x.breakpoints
    defect := x.defect }
  if bad then faultNow s1 r causeKeyCorrupt else s1

/-- The MAU of a starting job, wiped at its assignment where the owner changed (R233), takes note of the job. -/
def startMau (s : State) (j : Job) : State := match j.unit with
  | .mau c _ =>
    modCluster s c (fun k => { k with mau := { k.mau with
      op := none
      lastInst := some j.inst
      lastKey := jobSlot j
      lastCurve := (curveChoice j).1
      lastSlot := (curveChoice j).2 } })
  | _ => s

/-- Start or replay a job from its inputs on the unit it has. -/
def startFresh (s : State) (k : Nat) : State := match tblGet s.jobs k with
  | none => s
  | some j =>
    let j1 := { j with stage := .running, space := startSpace s j, draws := [], drawnAt := none, saved := none }
    let bad : Bool := (startMaterials s j).any (materialBad s)
    let s1 := if bad then markMaterials s j else s
    let s2 := startMau (modJob s1 k (fun _ => j1)) j1
    (unitReeds j1.unit).foldl (startReed (jobHeader s j1) j1 k ((routineSec s j1.rid).elim 0 RoutineSec.entry) bad) s2

/-- Give a moved job its cores on the new unit: no page is resident there (R149, R201). A reed of a gang that had ended stays wiped. -/
def restoreCores (k rid : Nat) : List Nat → List (Option ReedCore) → State → State
  | r :: rs, some c :: cs, s =>
    restoreCores k rid rs cs (setReed s r { Reed.init with
      job := some k
      routine := rid
      run := .trapped
      core := { c with frames := ReedCore.init.frames }
      breakpoints := (reedAt s r).breakpoints
      defect := (reedAt s r).defect })
  | _ :: rs, none :: cs, s => restoreCores k rid rs cs s
  | _, _, s => s

/-- A moved job resumes on its new unit. -/
def startMoved (s : State) (k : Nat) (cores : List (Option ReedCore)) (m : Mau) : State := match tblGet s.jobs k with
  | none => s
  | some j =>
    let s1 := modJob (startMau s j) k (fun x => { x with stage := .running, saved := none })
    let s2 := match j.unit with
      | .mau c _ => modCluster s1 c (fun x => { x with mau := { m with
          lastInst := x.mau.lastInst
          lastKey := x.mau.lastKey
          lastCurve := x.mau.lastCurve
          lastSlot := x.mau.lastSlot } })
      | _ => s1
    restoreCores k j.rid (unitReeds j.unit) cores s2

/-- JOB_REPLAY_START: at the first inhale at least 128 cycles after detection, on the unit the job holds (R178). -/
def replayStart (s : State) (k : Nat) : State := match tblGet s.jobs k with
  | none => s
  | some j =>
    if atInhale s && j.stage = .replayWait && j.replayAt ≤ s.brt.count && j.moveAt.isNone && !s.rng.alarm then
      startFresh (modJob s k (fun x => { x with replays := x.replays + 1 })) k
    else s

def execJobReplayStart (j : Nat) (s : State) : Host.Outcome State Fault Refusal := whenRunning s (replayStart s j)

/-! ### BELL_COLLECT (R126, R177) -/

/-- The bell reads an entry with a parity error: it is discarded and the job replayed on its unit; an abort prevails (R180). -/
def bellParity (s : State) (c : Nat) : State := match (clusterAt s c).fifo with
  | [] => s
  | k :: rest =>
    let s1 := modCluster s c (fun x => { x with fifo := rest })
    let s2 := modJob (touchJob s1 k) k (fun j => { j with
      stage := if j.stage = .aborting then .aborting else .replayWait
      result := none
      post := none })
    if inReplay s k then chargeCluster s2 c k else s2

def execBellCollect (c : Fin 64) (parity : Bool) (s : State) : Host.Outcome State Fault Refusal :=
  whenRunning s (if parity then bellParity s c.val else bellVisit s c.val)

end Sys2Proof.Machine
end

