-- ==== Sys2Proof/Machine/ReedPorts.lean ====
section
/-! DEFINITION. The rows of the key, random and mask reads (R156, R158, R238, R239, R353), of the bellows port (R159 to R162) and of the MAU port
(R163, R164), and the MAU's operations (R230 to R233). -/

namespace Sys2Proof.Machine

/-! ### KEYRD, RNDRD, MSKRD -/

/-- A use of a slot by a unit of a cluster: it becomes the newest of 32 cached (R119). -/
def cacheKey (s : State) (c : Nat) (e : Nat × Nat) : State :=
  modCluster s c (fun k => { k with keyCache := (e :: k.keyCache.filter (· ≠ e)).take 32 })

def execKeyrd (r : Fin 1024) (f : MField) (s : State) : Host.Outcome State Fault Refusal :=
  whenRunning s (memStep s r 9 f (fun t0 t1 => match reedJob t0 r.val with
    | some (_, j) => cacheKey t1 (reedCluster r.val) (j.inst, jSlot j)
    | none => t1))

/-- RNDRD takes the 512 bits from its DRBG, as the job's next draw. -/
def rndrdAfter (r : Nat) (t0 t1 : State) : State := match reedJob t0 r with
  | none => t1
  | some (k, _) =>
    modJob (modRng (drbgCount t1 (reedDrbg r)) (fun g => { g with granted := g.granted.filter (· ≠ .reed r) })) k (fun y => { y with
      draws := y.draws ++ bvBytes 64 (randomWord t0.free)
      drawnAt := some t0.brt.count })
def execRndrd (r : Fin 1024) (f : MField) (s : State) : Host.Outcome State Fault Refusal :=
  whenRunning s (memStep s r 10 f (rndrdAfter r.val))

/-- MSKRD: bits of the cluster mask generator. -/
def execMskrd (r : Fin 1024) (f : MField) (s : State) : Host.Outcome State Fault Refusal := whenRunning s (memStep s r 11 f onlyReed)

/-! ### The bellows port -/

def execBkeccak (r : Fin 1024) (f : BField) (s : State) : Host.Outcome State Fault Refusal := whenRunning s (belStep s r 1 f)
def execBsha256 (r : Fin 1024) (f : BField) (s : State) : Host.Outcome State Fault Refusal := whenRunning s (belStep s r 2 f)
def execBsha512 (r : Fin 1024) (f : BField) (s : State) : Host.Outcome State Fault Refusal := whenRunning s (belStep s r 3 f)

/-- A parity error in a result that BRECV receives: the job is replayed and the bellows that delivered it charged (R177, R179). -/
def brecvParity (s : State) (r : Nat) : State := match reedJob s r, (issueOf (reedAt s r)).before.send with
  | some (k, _), some x => chargeBellows (modReed (touchJob s k) r (fun y => { y with
      issue := none
      core := enterKernel 2 (dropFrames { y.core with send := none }) })) (reedCluster r) x.bellows
  | _, _ => s
def execBrecv (r : Fin 1024) (f : BField) (parity : Bool) (s : State) : Host.Outcome State Fault Refusal :=
  whenRunning s (
    if parity then rowStep s r.val (fun w => bopOf w = 4 && bFieldOf w = f) (fun t =>
      if bitOf (doneOf (wordNow t r.val) (issueOf (reedAt t r.val))) 3 then t else brecvParity t r.val)
    else belStep s r 4 f)

/-- BELLOWS_RESULT_READY: the outstanding result is ready, 12 cycles after the send ended (R160). -/
def resultReady (s : State) (r : Nat) : State :=
  let mark (c : ReedCore) : ReedCore := { c with send := c.send.map (fun x => { x with ready := true }) }
  if (reedAt s r).core.send.any (fun x => x.readyAt ≤ s.brt.cycle) && !s.brt.exhale then
    modReed s r (fun x => { x with core := mark x.core, issue := x.issue.map (fun i => { i with before := mark i.before }) })
  else s
def execBellowsResultReady (r : Fin 1024) (s : State) : Host.Outcome State Fault Refusal := whenRunning s (resultReady s r.val)

/-! ### The MAU port -/

def execMput (r : Fin 1024) (f : AField) (s : State) : Host.Outcome State Fault Refusal :=
  whenRunning s (mauStep s r 1 f (fun c m => { m with mem := storeWrite m.mem (aoff f) (regBytes c f.a.val mauGroup) }))

/-- MGET; a parity error in the bytes read replays the job and, in a replay, charges the MAU (R177, R179). -/
def mgetParity (s : State) (r : Nat) : State := match reedJob s r, coupledMau s r with
  | some (k, _), some c =>
    let s1 := awaitReplay (touchJob s k) k
    if inReplay s k then chargeMau s1 c k else s1
  | _, _ => s
def execMget (r : Fin 1024) (f : Access AField) (s : State) : Host.Outcome State Fault Refusal :=
  whenRunning s (
    if f.parity then rowStep s r.val (fun w => aopOf w = 2 && aFieldOf w = f.target) (fun t =>
      if bitOf (doneOf (wordNow t r.val) (issueOf (reedAt t r.val))) 4 then t else mgetParity t r.val)
    else mauStep s r 2 f.target (fun _ m => m))

/-- MRUN: the operation begins and takes its fixed time. -/
def execMrun (r : Fin 1024) (f : AField) (s : State) : Host.Outcome State Fault Refusal :=
  whenRunning s (mauStep s r 3 f (fun c m =>
    let o := mauOpOf (sGet c f.s.val).toNat
    { m with op := some o, acted := false, left := mauCycles m o }))

/-! ### MAU operations -/

/-- The effect of the operation a MAU runs, once. -/
def mauRun (s : State) (c : Fin 64) (code : Nat) (f : Mau → Nat → MauOp → Mau) : State :=
  let m := (clusterAt s c.val).mau
  match m.op with
  | some o => if o.op = code && !m.acted then
      modCluster { s with free := s.free + 2 } c.val (fun k => { k with mau := { f m s.free o with acted := true } })
    else s
  | none => s

def execSetmod (c : Fin 64) (s : State) : Host.Outcome State Fault Refusal := whenRunning s (mauRun s c 0 mauSetmod)
def execMmul (c : Fin 64) (s : State) : Host.Outcome State Fault Refusal := whenRunning s (mauRun s c 1 mauMmul)
def execMadd (c : Fin 64) (s : State) : Host.Outcome State Fault Refusal := whenRunning s (mauRun s c 2 mauMadd)
def execMsub (c : Fin 64) (s : State) : Host.Outcome State Fault Refusal := whenRunning s (mauRun s c 3 mauMsub)
def execMexp (c : Fin 64) (s : State) : Host.Outcome State Fault Refusal := whenRunning s (mauRun s c 4 mauMexp)
def execMexps (c : Fin 64) (s : State) : Host.Outcome State Fault Refusal := whenRunning s (mauRun s c 5 mauMexps)
def execMinv (c : Fin 64) (s : State) : Host.Outcome State Fault Refusal := whenRunning s (mauRun s c 6 mauMinv)
def execCurve (c : Fin 64) (s : State) : Host.Outcome State Fault Refusal := whenRunning s (mauRun s c 7 mauCurve)
def execSmulg (c : Fin 64) (s : State) : Host.Outcome State Fault Refusal := whenRunning s (mauRun s c 8 mauSmulg)
def execMauSmul (c : Fin 64) (s : State) : Host.Outcome State Fault Refusal := whenRunning s (mauRun s c 9 mauSmulV)
def execOncurve (c : Fin 64) (s : State) : Host.Outcome State Fault Refusal := whenRunning s (mauRun s c 10 mauOncurve)
def execPadd (c : Fin 64) (s : State) : Host.Outcome State Fault Refusal := whenRunning s (mauRun s c 11 mauPadd)
def execMr (c : Fin 64) (s : State) : Host.Outcome State Fault Refusal := whenRunning s (mauRun s c 12 mauMr)
def execCheckcurve (c : Fin 64) (s : State) : Host.Outcome State Fault Refusal := whenRunning s (mauRun s c 13 mauCheckcurve)
def execWipe (c : Fin 64) (s : State) : Host.Outcome State Fault Refusal := whenRunning s (mauRun s c 14 (fun m _ _ => mauWipe m))

/-- The job that holds a cluster's MAU. -/
def mauJob (s : State) (c : Nat) : Option Nat := (s.jobs.find? (fun e => unitHasMau c e.2.unit && e.2.stage = .running)).map (·.1)

/-- MAU_OPERATION_DONE: after its cycles the MAU is free; a parity error in its operand memory replays the job, and is charged to the
MAU in a replay (R177, R179). -/
def mauDone (s : State) (c : Nat) (parity : Bool) : State :=
  let m := (clusterAt s c).mau
  if m.op.isNone || !m.acted || m.left ≠ 0 then s
  else
    let s1 := modCluster s c (fun k => { k with mau := { k.mau with op := none, acted := false } })
    match mauJob s c with
    | some k => if parity then
        let s2 := awaitReplay (touchJob s1 k) k
        if inReplay s k then chargeMau s2 c k else s2
      else s1
    | none => s1
def execMauOperationDone (c : Fin 64) (parity : Bool) (s : State) : Host.Outcome State Fault Refusal :=
  whenRunning s (mauDone s c.val parity)

end Sys2Proof.Machine
end

