-- ==== Sys2Proof/Machine/Breath.lean ====
section
/-! DEFINITION. The breath (R26 to R29): INHALE, EXHALE and, in the breath after a displacement, DISPLACED_JOB_MOVE. Events of an inhale or an
exhale that have a row of their own are not repeated here. -/

namespace Sys2Proof.Machine

/-! ### Starting jobs (R113, R143, R226) -/

/-- A SIGN of a stateful key takes the counter's next value when it is first assigned; a next tree becomes current where the
lowest one has run out (R225, R226). -/
def takeLeaf (s : State) (k : Nat) (j : Job) : State :=
  if !(j.kind = .pk && jOp j = opSign && statefulAlg (jAlg j) && j.leaf.isNone) then s
  else match slotAt s j.inst (jSlot j) with
    | none => s
    | some x => match statefulOf s (statefulPub x.material) with
      | none => s
      | some st =>
        let q := st.counter
        let s1 := modStateful s st.pub (fun y => { y with
          counter := q + 1
          claims := if j.claim then y.claims - 1 else y.claims
          current := if y.spent then (List.zip y.current y.next).map (fun t => if t.2.isSome then t.2 else t.1) else y.current
          next := if y.spent then List.replicate y.levels none else y.next
          spent := (q + 1) % 2 ^ y.height = 0 })
        modJob s1 k (fun x => { x with leaf := some q, claim := false })

/-- JOB_START: an assigned job begins at this inhale; a displaced one goes on, from its trap frame or from its inputs. -/
def startJob (s : State) (k : Nat) : State := match tblGet s.jobs k with
  | none => s
  | some j =>
    if j.stage ≠ .assigned then s
    else match j.saved, j.start with
      | some (cores, m), _ => startMoved s k cores m
      | none, some _ => startFresh (modJob s k (fun x => { x with replays := x.replays + 1 })) k
      | none, none =>
        let s1 := modJob s k (fun x => { x with start := some s.brt.count, rung := 1 })
        startFresh (takeLeaf s1 k j) k

/-- An assigned job whose unit was muted since is placed again (R123). -/
def unplace (j : Job) : Job :=
  if j.stage = .assigned && j.moveAt.isSome then { j with stage := .displaced, unit := .none, moveAt := none } else j

/-- The assignments of the exhale take effect; no job starts while halting or after a health failure (R47, R358). -/
def startJobs (s : State) : State :=
  if s.dev.halting || s.rng.alarm then s
  else
    let s1 : State := { s with jobs := s.jobs.map (fun e => (e.1, unplace e.2)) }
    ((s1.jobs.filter (fun e => e.2.stage = .assigned)).map (·.1)).foldl startJob s1

/-- Jobs whose release breath has come leave their units (R113). -/
def freeUnitsNow (s : State) : State :=
  { s with jobs := s.jobs.map (fun e => (e.1, if e.2.stage = .held && e.2.due ≤ s.brt.count then { e.2 with unit := .none } else e.2)) }

/-! ### INHALE (R27) -/

/-- The first cycle of the next breath; a length that waited since TUNE or BOOT was left takes effect (R26). -/
def nextBreath (s : State) : State :=
  let s1 := passCycles s (breathLen s - s.brt.cycle)
  let n := s.brt.count + 1
  let left : Bool := s.dev.mode ≠ .tune && s.dev.mode ≠ .boot && decide (s.dev.modeBreath < n)
  { s1 with brt := { s1.brt with
      count := n
      cycle := 0
      exhale := false
      log2Len := if left then s1.brt.nextLog2.getD s1.brt.log2Len else s1.brt.log2Len
      nextLog2 := if left then none else s1.brt.nextLog2 } }

/-- TWIN_ALIVE_OUT toggles and BREATH_SYNC_OUT pulses (R413, R414). -/
def inhalePins (s : State) : State :=
  let level := !s.twn.aliveOut
  emit (emit (modTwn s (fun t => { t with aliveOut := level })) (.twinAlive level)) .breathSync

/-- SET_RATE takes effect (R90). -/
def sharesNow (s : State) : State :=
  { s with insts := s.insts.map (fun e => (e.1, { e.2 with dmaShare := shareNext e.2, nextShare := none })) }

/-- The start limiter earns L (R218). -/
def limiterEarn (s : State) : State :=
  { s with plc := { s.plc with mcCount := min (s.plc.mcCount + breathLen s) (breathLen s + 10000) } }

/-- A cluster that moved and holds its new pool's routines has arrived (R121). -/
def clusterArrives (s : State) (c : Nat) (k : Cluster) : Cluster := match k.entering, poolOfCluster s c with
  | some i, some (ch, p) => if i + 2 ≤ s.brt.count && missing ch p k.placed = [] then { k with entering := none } else k
  | _, _ => k

def clustersArrive (s : State) : State := { s with clusters := s.clusters.map (fun e => (e.1, clusterArrives s e.1 e.2)) }

/-- Streams whose work has ended settle (R244, R268). -/
def streamsSettle (s : State) : State := (s.bore.streams.map (·.1)).foldl (fun t sid => settleStream (endEpoch t sid) sid) s

/-- What an inhale does beside the commands that name one. -/
def inhaleWork (s : State) : State :=
  let s1 := limiterEarn (freeUnitsNow (sharesNow (resetsInhale (twinInhale (inhalePins s)))))
  let s2 := inhaleReeds (startJobs (clustersArrive s1))
  let s3 := boxesInhale (monitorsInhale (pipesJoin ((List.range 8).foldl atsFlush s2)))
  let s4 := macsecInhale (streamsSettle (startWaiting (renewOpenings s3 none)))
  if s.dev.halting then s4 else lookasideInhale s4

/-- A twin record number is not acknowledged. -/
def unacked (s : State) (q : Nat) : Bool := s.twn.nextSeq ≤ q || s.twn.sent.any (fun r => r.seq = q)

/-- A delta whose CHART record was not acknowledged by the exhale of I - 1, all of whose records have come when the next inhale begins, is put
off (R412): a new record names the first inhale by whose exhale before it can be acknowledged. -/
def deltaPutOff (s : State) : State := match s.charts.deltaWait, s.charts.deltas.getLast? with
  | some w, some x => match w.seq with
    | some q =>
      if onPair s && w.inhale = s.brt.count + 1 && unacked s q then
        let s1 := mirror s recChart (chartBody (w.inhale + 2) x)
        { s1 with charts := { s1.charts with deltaWait := some { w with
            inhale := w.inhale + 2
            seq := if mirrors s then some (queuedSeq s1) else w.seq } } }
      else s
    | none => s
  | _, _ => s

/-- INHALE; the messages of the breath that ends, not sent yet, go first (R80). In HALTED no further breath begins (R46, R50). -/
def inhale (s : State) : State := if s.brt.exhale then inhaleWork (nextBreath (deltaPutOff (lastMessages s))) else s

def execInhale (s : State) : Host.Outcome State Fault Refusal := whenRunning s (inhale s)

/-! ### EXHALE (R27 to R29) -/

/-- Cycle L - 256. -/
def beginExhale (s : State) : State :=
  let s1 := passCycles s (breathLen s - 256 - s.brt.cycle)
  { s1 with brt := { s1.brt with exhale := true } }

/-- Jobs to be aborted at this exhale (R41). -/
def abortsExhale (s : State) : State :=
  ((s.jobs.filter (fun e => e.2.stage = .aborting && e.2.due ≤ s.brt.count)).map (·.1)).foldl abortNow s

/-- The device's own attestation jobs, which no instance pays for (R345). -/
def placeAttest (s : State) (n : Nat) : State :=
  ((s.jobs.filter (fun e => e.2.inst = attestInst && e.2.stage = .pending)).map (·.1)).foldl (fun t k => assignJob t n k) s

/-- Placement for the next inhale; none while halting (R47). -/
def placeNext (s : State) : State :=
  let n := s.brt.count + 1
  if s.dev.halting then s else placement (placeAttest (placeDisplaced s n) n) n

/-- The mask generators reseed from instance 0 (R352). -/
def masksReseed (s : State) : State := if s.rng.ready && !s.rng.alarm then drbgCount s 0 else s

/-- What an exhale does beside the commands that name one. -/
def exhaleWork (s : State) : State :=
  let s1 := resetsExhale (exhaleReeds (budgetsExhale (abortsExhale s)))
  let s2 := bellDrain ((s1.clusters.map (fun e => e.2.fifo.length)).sum) s1
  let s3 := placeNext (formBatches s2)
  monitorsExhale (masksReseed (twinExhale s3))

/-- EXHALE. -/
def exhale (s : State) : State := if s.brt.exhale then s else exhaleWork (beginExhale s)

def execExhale (s : State) : Host.Outcome State Fault Refusal := whenRunning s (exhale s)

/-! ### DISPLACED_JOB_MOVE (R120) -/

/-- What a job takes from its units: the states of its reeds that have not ended, its MAU. -/
def savedOf (s : State) (k : Nat) (j : Job) : List (Option ReedCore) × Mau :=
  ((unitReeds j.unit).map (fun r => if (reedAt s r).job = some k then some (reedAt s r).core else none), match j.unit with
    | .mau c _ => (clusterAt s c).mau
    | _ => Mau.init)

/-- A unit of the job is muted. -/
def unitMuted (s : State) (u : JobUnit) : Bool := (unitReeds u).any (reedMuted s) || (match u with
  | .mau c _ => mauMuted s c
  | _ => false)

/-- In the breath after its displacement a job leaves its units. One whose cluster left its pool takes its trap frames and operand state along
(R120, R149); one on a muted unit, or one that waits for a replay, leaves with nothing but its inputs (R179; log 88). `parity` says that the
write-back of a frame met a parity error (R177). -/
def displacedMove (s : State) (k : Nat) (parity : Bool) : State := match tblGet s.jobs k with
  | none => s
  | some j => match j.moveAt with
    | none => s
    | some i =>
      if s.brt.exhale || s.brt.count ≤ i || !(j.stage = .running || j.stage = .replayWait) then s
      else
        let fresh : Bool := j.stage = .replayWait || unitMuted s j.unit || parity
        let s1 := (unitReeds j.unit).foldl flushFrames s
        let s2 := if parity && inReplay s k then chargeReed s1 (postingReed j) k else s1
        modJob (wipeUnits s2 j) k (fun x => { x with
          stage := .displaced
          unit := .none
          moveAt := none
          replayed := x.replayed || fresh
          saved := if fresh then none else some (savedOf s1 k j) })

def execDisplacedJobMove (j : Access Nat) (s : State) : Host.Outcome State Fault Refusal := whenRunning s (displacedMove s j.target j.parity)

end Sys2Proof.Machine
end

