-- ==== Sys2Proof/Machine/DdrMem.lean ====
section
/-! DEFINITION. Accesses to the protected DDR4 memory as the device's clients make them (R367 to R387), with what an error does. -/

namespace Sys2Proof.Machine

/-- The address lies beyond the installed capacity (R367). -/
def beyondMemory (s : State) (a : Nat) : Bool := 2 ^ 30 * s.mpr.capacity ≤ a

/-- The engine serves accesses. -/
def memServes (s : State) : Bool := isRunning s && s.mpr.keysReady

/-- The data range of an address. -/
def dataRange (s : State) (a : Nat) : Option Nat := (rangeOf s.mpr a).bind (fun r => if r < 15 then some r else none)

/-- A corrected error counts for its rank (R447); which rank a line lies in the spec leaves open. -/
def eccCount (s : State) (line : Nat) : State :=
  let ch := memChannel s.mpr (64 * line)
  let (rank, s1) := freshChoice 8 s
  let key := ch * 8 + rank
  let now := s1.brt.count
  let recent := (key, now) :: s1.mgc.eccRecent.filter (fun e => now < e.2 + 2 ^ 28)
  let n := (recent.filter (fun e => e.1 = key)).length
  let s2 := { s1 with mgc := { s1.mgc with eccRecent := recent } }
  let quietNow : Bool := match tblGet s2.mgc.eccRaised key with
    | some b => b + 2 ^ 28 ≤ now
    | none => true
  if 1024 < n && quietNow then
    logEvent { s2 with mgc := { s2.mgc with eccRaised := tblPut s2.mgc.eccRaised key now } } 0x0205
      (leBytes 1 ch ++ leBytes 1 rank ++ leBytes 4 n)
  else s2

/-- An access that meets an outcome: it goes on as `f`, or the device halts at once (R384, R386). -/
def memAccess (s : State) (r line : Nat) (o : MemOutcome) (f : State → State) : State :=
  match o with
  | .ok => f s
  | .corrected => f (eccCount { s with mpr := countOutcome s.mpr o } line)
  | .retried => f { s with mpr := countOutcome s.mpr o }
  | .halt cause kind =>
    let m := memFaulted s.mpr kind r line
    immediateHalt { s with mpr := m } cause (0x0100 + cause) (leBytes 8 (mprFault m))

/-- The device stands in HALTED by an immediate memory halt. No cycle passes there, so a further immediate cause is one of the same cycle. -/
def inHaltCycle (s : State) : Bool := isLive s && s.dev.mode = .halted && s.dev.haltImmediate && s.mpr.fault.isSome

/-- The keys are gone: a line that is as it was stored is no error. -/
def asStored (m : Mpr) (line : Nat) (ev : MemEvent) : Bool := match ev, tblGet m.lines line with
  | .tampered l t, some x => x.ct = bvBytes 64 l && x.tag = bvBytes 8 t
  | _, _ => false

/-- A further memory fault of the cycle of an immediate halt: HALT_CAUSE and MPR_FAULT take the lowest, the log records every one (R48,
R386). -/
def alsoFault (s : State) (r line : Nat) (ev : MemEvent) (o : MemOutcome) : State := match o, s.mpr.fault with
  | .halt cause kind, some g =>
    if asStored s.mpr line ev then s
    else
      let f : MemFault := ⟨kind, line % 2 ^ 35, r, memChannel s.mpr (64 * line)⟩
      let s1 := if faultBefore f g then { s with mpr := { s.mpr with fault := some f }, dev := { s.dev with haltCause := cause } } else s
      logEvent s1 (0x0100 + cause) (leBytes 8 (mprFault { s.mpr with fault := some f }))
  | _, _ => s

/-- A read that was under way in the cycle of the halt, and a write. -/
def lateRead (s : State) (a : Nat) (ev : MemEvent) : State := match dataRange s a with
  | some r => if inHaltCycle s then alsoFault s r (a / 64) ev (readOutcome s.mpr r (a / 64) false ev) else s
  | none => s
def lateWrite (s : State) (a off n : Nat) (ev : MemEvent) : State := match dataRange s a with
  | some r =>
    if inHaltCycle s && n ≠ 0 && off + n ≤ 64 then alsoFault s r (a / 64) ev (writeOutcome s.mpr r (a / 64) (off = 0 && n = 64) ev) else s
  | none => s

/-- One read in 64 is a sample of DDR4_LATENCY; which one, and its latency, are the device's. -/
def latencyOfRead (s : State) (line : Nat) : State :=
  let (n, s1) := freshChoice 64 s
  if n ≠ 0 then s1
  else
    let (v, s2) := freshWord 32 s1
    monSample s2 8 (memChannel s2.mpr (64 * line)) v.toNat

/-- A line read returns: its data goes to the client that asked. -/
def ddrRead (s : State) (a : Nat) (ev : MemEvent) : State := match dataRange s a with
  | none => s
  | some r =>
    let line := a / 64
    memAccess s r line (readOutcome s.mpr r line false ev) (fun t => latencyOfRead (emit t (.memData (linePlain t.mpr r line))) line)

def execDdrReadComplete (a : Nat) (ev : MemEvent) (s : State) : Host.Outcome State Fault Refusal :=
  if memServes s then (if beyondMemory s a then .fault (.noSuchAddress a) else .next (ddrRead s a ev)) else .next (lateRead s a ev)

/-- A client's write of part or the whole of a line; it waits while R383 holds it back. -/
def ddrWrite (s : State) (a off : Nat) (bs : Bytes) (ev : MemEvent) : State := match dataRange s a with
  | none => s
  | some r =>
    let line := a / 64
    if bs = [] || 64 < off + bs.length || writeWaits (memRange s.mpr r) (line / 64) then s
    else memAccess s r line (writeOutcome s.mpr r line (off = 0 && bs.length = 64) ev)
      (fun t => { t with mpr := clientWrite t.mpr r line off bs })

def execDdrLineWrite (a off : Nat) (bs : Bytes) (ev : MemEvent) (s : State) : Host.Outcome State Fault Refusal :=
  if memServes s then (if beyondMemory s a then .fault (.noSuchAddress a) else .next (ddrWrite s a off bs ev)) else .next (lateWrite s a off bs.length ev)

/-- KEY_GENERATION_ROLL: a data range's writes have reached 2^39 and no sweep runs on it. -/
def keyRoll (s : State) (r : Nat) : State :=
  let x := memRange s.mpr r
  if !memServes s || s.rng.alarm || 15 ≤ r || x.oldKey.isSome || x.writes < 2 ^ 39 then s
  else
    let (k, s1) := freshBytes 32 s
    { s1 with mpr := rollKey s1.mpr r k }

def execKeyGenerationRoll (r : Fin 16) (s : State) : Host.Outcome State Fault Refusal := whenRunning s (keyRoll s r.val)

/-- SWEEP_PAGE: the page at P passes to the new key; one whose counter line was never written is passed over. -/
def sweepPageOf (s : State) (r : Nat) (ev : MemEvent) : State :=
  let x := memRange s.mpr r
  if !memServes s || x.oldKey.isNone then s
  else
    let page := rangeUnit * x.base / 4096 + x.sweepPage
    let o := if tblHas s.mpr.pages page then sweepOutcome s.mpr r page ev else .ok
    memAccess s r (64 * page) o (fun t => { t with mpr := sweepStep t.mpr r })

def execSweepPage (r : Fin 16) (ev : MemEvent) (s : State) : Host.Outcome State Fault Refusal := whenRunning s (sweepPageOf s r.val ev)

/-- The end of memory: a pass is complete. -/
def scrubEnd (s : State) : State :=
  { s with mpr := { s.mpr with scrubNext := 0, scrubPasses := sat 16 (s.mpr.scrubPasses + 1) } }

/-- The scrub goes on after a line. -/
def scrubOn (s : State) (next : Nat) : State :=
  if (nextWritten s.mpr next).isSome then { s with mpr := { s.mpr with scrubNext := next } } else scrubEnd s

/-- PATROL_SCRUB: the next written line, in every mode except BOOT and HALTED. -/
def patrolScrub (s : State) (ev : MemEvent) : State :=
  if !memServes s || s.dev.mode = .boot then s
  else match nextWritten s.mpr s.mpr.scrubNext with
    | none => scrubEnd s
    | some l => memAccess s ((rangeOf s.mpr (64 * l)).getD 0) l (scrubOutcome ev) (fun t => scrubOn t (l + 1))

def execPatrolScrub (ev : MemEvent) (s : State) : Host.Outcome State Fault Refusal := whenRunning s (patrolScrub s ev)

end Sys2Proof.Machine
end

