-- ==== Sys2Proof/Machine/ReedWords.lean ====
section
/-! DEFINITION. The vector, mask, scalar and memory rows of a microword (R150 to R157): each row is one field of the word at the sequencer, with the
code it bears there. What a code does is in `vecOp`, `scalOp` and `memOp`. -/

namespace Sys2Proof.Machine

/-! ### Vector field (R150 to R154) -/

def execVnop (r : Fin 1024) (f : VField) (s : State) : Host.Outcome State Fault Refusal := whenRunning s (vecStep s r 0x00 f)
def execVadd (r : Fin 1024) (f : VField) (s : State) : Host.Outcome State Fault Refusal := whenRunning s (vecStep s r 0x01 f)
def execVsub (r : Fin 1024) (f : VField) (s : State) : Host.Outcome State Fault Refusal := whenRunning s (vecStep s r 0x02 f)
def execVand (r : Fin 1024) (f : VField) (s : State) : Host.Outcome State Fault Refusal := whenRunning s (vecStep s r 0x03 f)
def execVor (r : Fin 1024) (f : VField) (s : State) : Host.Outcome State Fault Refusal := whenRunning s (vecStep s r 0x04 f)
def execVxor (r : Fin 1024) (f : VField) (s : State) : Host.Outcome State Fault Refusal := whenRunning s (vecStep s r 0x05 f)
def execVandn (r : Fin 1024) (f : VField) (s : State) : Host.Outcome State Fault Refusal := whenRunning s (vecStep s r 0x06 f)
def execVsll (r : Fin 1024) (f : VField) (s : State) : Host.Outcome State Fault Refusal := whenRunning s (vecStep s r 0x07 f)
def execVsrl (r : Fin 1024) (f : VField) (s : State) : Host.Outcome State Fault Refusal := whenRunning s (vecStep s r 0x08 f)
def execVsra (r : Fin 1024) (f : VField) (s : State) : Host.Outcome State Fault Refusal := whenRunning s (vecStep s r 0x09 f)
def execVrotl (r : Fin 1024) (f : VField) (s : State) : Host.Outcome State Fault Refusal := whenRunning s (vecStep s r 0x0A f)
def execVmullo (r : Fin 1024) (f : VField) (s : State) : Host.Outcome State Fault Refusal := whenRunning s (vecStep s r 0x0B f)
def execVmulhi (r : Fin 1024) (f : VField) (s : State) : Host.Outcome State Fault Refusal := whenRunning s (vecStep s r 0x0C f)
def execVmov (r : Fin 1024) (f : VField) (s : State) : Host.Outcome State Fault Refusal := whenRunning s (vecStep s r 0x0D f)
def execVbcast (r : Fin 1024) (f : VField) (s : State) : Host.Outcome State Fault Refusal := whenRunning s (vecStep s r 0x0E f)
def execVext (r : Fin 1024) (f : VField) (s : State) : Host.Outcome State Fault Refusal := whenRunning s (vecStep s r 0x0F f)
def execVcmpeq (r : Fin 1024) (f : VField) (s : State) : Host.Outcome State Fault Refusal := whenRunning s (vecStep s r 0x10 f)
def execVcmpltu (r : Fin 1024) (f : VField) (s : State) : Host.Outcome State Fault Refusal := whenRunning s (vecStep s r 0x11 f)
def execVcmplt (r : Fin 1024) (f : VField) (s : State) : Host.Outcome State Fault Refusal := whenRunning s (vecStep s r 0x12 f)
def execVparity (r : Fin 1024) (f : VField) (s : State) : Host.Outcome State Fault Refusal := whenRunning s (vecStep s r 0x13 f)
def execVmma (r : Fin 1024) (f : VField) (s : State) : Host.Outcome State Fault Refusal := whenRunning s (vecStep s r 0x20 f)
def execVmadd (r : Fin 1024) (f : VField) (s : State) : Host.Outcome State Fault Refusal := whenRunning s (vecStep s r 0x21 f)
def execVmsub (r : Fin 1024) (f : VField) (s : State) : Host.Outcome State Fault Refusal := whenRunning s (vecStep s r 0x22 f)
def execVmred (r : Fin 1024) (f : VField) (s : State) : Host.Outcome State Fault Refusal := whenRunning s (vecStep s r 0x23 f)
def execVbfly (r : Fin 1024) (f : VField) (s : State) : Host.Outcome State Fault Refusal := whenRunning s (vecStep s r 0x24 f)
def execVibfly (r : Fin 1024) (f : VField) (s : State) : Host.Outcome State Fault Refusal := whenRunning s (vecStep s r 0x25 f)
def execVbflyi (r : Fin 1024) (f : VField) (s : State) : Host.Outcome State Fault Refusal := whenRunning s (vecStep s r 0x26 f)
def execVibflyi (r : Fin 1024) (f : VField) (s : State) : Host.Outcome State Fault Refusal := whenRunning s (vecStep s r 0x27 f)
def execVbrev (r : Fin 1024) (f : VField) (s : State) : Host.Outcome State Fault Refusal := whenRunning s (vecStep s r 0x28 f)
def execVperm (r : Fin 1024) (f : VField) (s : State) : Host.Outcome State Fault Refusal := whenRunning s (vecStep s r 0x29 f)
def execVslideup (r : Fin 1024) (f : VField) (s : State) : Host.Outcome State Fault Refusal := whenRunning s (vecStep s r 0x2A f)
def execVslidedn (r : Fin 1024) (f : VField) (s : State) : Host.Outcome State Fault Refusal := whenRunning s (vecStep s r 0x2B f)
def execVcbd (r : Fin 1024) (f : VField) (s : State) : Host.Outcome State Fault Refusal := whenRunning s (vecStep s r 0x30 f)
def execVrej (r : Fin 1024) (f : VField) (s : State) : Host.Outcome State Fault Refusal := whenRunning s (vecStep s r 0x31 f)
def execVcomp (r : Fin 1024) (f : VField) (s : State) : Host.Outcome State Fault Refusal := whenRunning s (vecStep s r 0x32 f)
def execVdecomp (r : Fin 1024) (f : VField) (s : State) : Host.Outcome State Fault Refusal := whenRunning s (vecStep s r 0x33 f)
def execVpack (r : Fin 1024) (f : VField) (s : State) : Host.Outcome State Fault Refusal := whenRunning s (vecStep s r 0x34 f)
def execVunpack (r : Fin 1024) (f : VField) (s : State) : Host.Outcome State Fault Refusal := whenRunning s (vecStep s r 0x35 f)
def execVgfmul (r : Fin 1024) (f : VField) (s : State) : Host.Outcome State Fault Refusal := whenRunning s (vecStep s r 0x38 f)
def execVclmullo (r : Fin 1024) (f : VField) (s : State) : Host.Outcome State Fault Refusal := whenRunning s (vecStep s r 0x39 f)
def execVclmulhi (r : Fin 1024) (f : VField) (s : State) : Host.Outcome State Fault Refusal := whenRunning s (vecStep s r 0x3A f)
def execVbtr8 (r : Fin 1024) (f : VField) (s : State) : Host.Outcome State Fault Refusal := whenRunning s (vecStep s r 0x3B f)

/-! ### Masks (R134, R150) -/

def execMsetlt (r : Fin 1024) (f : VField) (s : State) : Host.Outcome State Fault Refusal := whenRunning s (vecStep s r 0x40 f)
def execMand (r : Fin 1024) (f : VField) (s : State) : Host.Outcome State Fault Refusal := whenRunning s (vecStep s r 0x41 f)
def execMor (r : Fin 1024) (f : VField) (s : State) : Host.Outcome State Fault Refusal := whenRunning s (vecStep s r 0x42 f)
def execMxor (r : Fin 1024) (f : VField) (s : State) : Host.Outcome State Fault Refusal := whenRunning s (vecStep s r 0x43 f)
def execMnot (r : Fin 1024) (f : VField) (s : State) : Host.Outcome State Fault Refusal := whenRunning s (vecStep s r 0x44 f)
def execMpopc (r : Fin 1024) (f : VField) (s : State) : Host.Outcome State Fault Refusal := whenRunning s (vecStep s r 0x45 f)
def execMfirst (r : Fin 1024) (f : VField) (s : State) : Host.Outcome State Fault Refusal := whenRunning s (vecStep s r 0x46 f)

/-! ### Scalar field (R155) -/

def execSnop (r : Fin 1024) (f : SField) (s : State) : Host.Outcome State Fault Refusal := whenRunning s (scalStep s r 0x00 f)
def execSadd (r : Fin 1024) (f : SField) (s : State) : Host.Outcome State Fault Refusal := whenRunning s (scalStep s r 0x01 f)
def execSsub (r : Fin 1024) (f : SField) (s : State) : Host.Outcome State Fault Refusal := whenRunning s (scalStep s r 0x02 f)
def execSand (r : Fin 1024) (f : SField) (s : State) : Host.Outcome State Fault Refusal := whenRunning s (scalStep s r 0x03 f)
def execSor (r : Fin 1024) (f : SField) (s : State) : Host.Outcome State Fault Refusal := whenRunning s (scalStep s r 0x04 f)
def execSxor (r : Fin 1024) (f : SField) (s : State) : Host.Outcome State Fault Refusal := whenRunning s (scalStep s r 0x05 f)
def execSsll (r : Fin 1024) (f : SField) (s : State) : Host.Outcome State Fault Refusal := whenRunning s (scalStep s r 0x06 f)
def execSsrl (r : Fin 1024) (f : SField) (s : State) : Host.Outcome State Fault Refusal := whenRunning s (scalStep s r 0x07 f)
def execSsra (r : Fin 1024) (f : SField) (s : State) : Host.Outcome State Fault Refusal := whenRunning s (scalStep s r 0x08 f)
def execSmul (r : Fin 1024) (f : SField) (s : State) : Host.Outcome State Fault Refusal := whenRunning s (scalStep s r 0x09 f)
def execSaddi (r : Fin 1024) (f : SField) (s : State) : Host.Outcome State Fault Refusal := whenRunning s (scalStep s r 0x0A f)
def execSli (r : Fin 1024) (f : SField) (s : State) : Host.Outcome State Fault Refusal := whenRunning s (scalStep s r 0x0B f)
def execScmpeq (r : Fin 1024) (f : SField) (s : State) : Host.Outcome State Fault Refusal := whenRunning s (scalStep s r 0x0C f)
def execScmpltu (r : Fin 1024) (f : SField) (s : State) : Host.Outcome State Fault Refusal := whenRunning s (scalStep s r 0x0D f)
def execScmplt (r : Fin 1024) (f : SField) (s : State) : Host.Outcome State Fault Refusal := whenRunning s (scalStep s r 0x0E f)
def execCsrr (r : Fin 1024) (f : SField) (s : State) : Host.Outcome State Fault Refusal := whenRunning s (scalStep s r 0x0F f)
def execCsrw (r : Fin 1024) (f : SField) (s : State) : Host.Outcome State Fault Refusal := whenRunning s (scalStep s r 0x10 f)

/-! ### Memory field (R156, R157) -/

/-- VLD; a parity error in the bytes read takes the parity trap (R177). -/
def execVld (r : Fin 1024) (f : MField) (parity : Bool) (s : State) : Host.Outcome State Fault Refusal :=
  whenRunning s (
    if parity then rowStep s r.val (fun w => mopOf w = 1 && mFieldOf w = f) (fun t =>
      if bitOf (doneOf (wordNow t r.val) (issueOf (reedAt t r.val))) 2 then t else reedParity t r.val)
    else memStep s r 1 f onlyReed)
def execVst (r : Fin 1024) (f : MField) (s : State) : Host.Outcome State Fault Refusal := whenRunning s (memStep s r 2 f onlyReed)
def execVlds (r : Fin 1024) (f : MField) (s : State) : Host.Outcome State Fault Refusal := whenRunning s (memStep s r 3 f onlyReed)
def execVsts (r : Fin 1024) (f : MField) (s : State) : Host.Outcome State Fault Refusal := whenRunning s (memStep s r 4 f onlyReed)
def execVgather (r : Fin 1024) (f : MField) (s : State) : Host.Outcome State Fault Refusal := whenRunning s (memStep s r 5 f onlyReed)
def execVscatter (r : Fin 1024) (f : MField) (s : State) : Host.Outcome State Fault Refusal := whenRunning s (memStep s r 6 f onlyReed)
def execSld (r : Fin 1024) (f : MField) (s : State) : Host.Outcome State Fault Refusal := whenRunning s (memStep s r 7 f onlyReed)
def execSst (r : Fin 1024) (f : MField) (s : State) : Host.Outcome State Fault Refusal := whenRunning s (memStep s r 8 f onlyReed)

end Sys2Proof.Machine
end

