-- ==== Sys2Proof/Machine/Dispatch.lean ====
section
/-! DEFINITION. The effect of every command: one arm for each constructor of Instr. -/

namespace Sys2Proof.Machine

def exec (i : Instr) (s : State) : Host.Outcome State Fault Refusal :=
  match i with
  | .inhale => Sys2Proof.Machine.execInhale s
  | .exhale => Sys2Proof.Machine.execExhale s
  | .jobRelease => Sys2Proof.Machine.execJobRelease s
  | .ladderRungAdvance j => Sys2Proof.Machine.execLadderRungAdvance j s
  | .budgetExceeded j => Sys2Proof.Machine.execBudgetExceeded j s
  | .nonLadderComplete => Sys2Proof.Machine.execNonLadderComplete s
  | .abortComplete j => Sys2Proof.Machine.execAbortComplete j s
  | .fenceReadComplete g ok => Sys2Proof.Machine.execFenceReadComplete g ok s
  | .bellCollect c parity => Sys2Proof.Machine.execBellCollect c parity s
  | .clockStepApply => Sys2Proof.Machine.execClockStepApply s
  | .powerOnReset b => Sys2Proof.Machine.execPowerOnReset b s
  | .powerDown => Sys2Proof.Machine.execPowerDown s
  | .bootChecksComplete memOk => Sys2Proof.Machine.execBootChecksComplete memOk s
  | .modeChange => Sys2Proof.Machine.execModeChange s
  | .quiesceBegin => Sys2Proof.Machine.execQuiesceBegin s
  | .quiesceExtentTimeout e => Sys2Proof.Machine.execQuiesceExtentTimeout e s
  | .tuneEnter => Sys2Proof.Machine.execTuneEnter s
  | .controlledHaltFlush => Sys2Proof.Machine.execControlledHaltFlush s
  | .haltedEnter => Sys2Proof.Machine.execHaltedEnter s
  | .haltVecArm p vector => Sys2Proof.Machine.execHaltVecArm p vector s
  | .haltVecDisarm p => Sys2Proof.Machine.execHaltVecDisarm p s
  | .brtCountLowRead p => Sys2Proof.Machine.execBrtCountLowRead p s
  | .registerWrite a wide v => Sys2Proof.Machine.execRegisterWrite a wide v s
  | .belStatusRead p => Sys2Proof.Machine.execBelStatusRead p s
  | .prtPortRead p f => Sys2Proof.Machine.execPrtPortRead p f s
  | .pxtDropsRead p => Sys2Proof.Machine.execPxtDropsRead p s
  | .rngSupplyRead p => Sys2Proof.Machine.execRngSupplyRead p s
  | .rngWaitRead p => Sys2Proof.Machine.execRngWaitRead p s
  | .mprEccRead p => Sys2Proof.Machine.execMprEccRead p s
  | .monAlarmsRead p => Sys2Proof.Machine.execMonAlarmsRead p s
  | .perstNAssert p k => Sys2Proof.Machine.execPerstNAssert p k s
  | .vfFlr p vf => Sys2Proof.Machine.execVfFlr p vf s
  | .atsInvalidate p vf => Sys2Proof.Machine.execAtsInvalidate p vf s
  | .sqTailDoorbell p vf q v => Sys2Proof.Machine.execSqTailDoorbell p vf q v s
  | .cqHeadDoorbell p vf q v => Sys2Proof.Machine.execCqHeadDoorbell p vf q v s
  | .queueEnable p vf q => Sys2Proof.Machine.execQueueEnable p vf q s
  | .queueDisable p vf q => Sys2Proof.Machine.execQueueDisable p vf q s
  | .vfResetRequest p vf => Sys2Proof.Machine.execVfResetRequest p vf s
  | .submissionFetch g bs => Sys2Proof.Machine.execSubmissionFetch g bs s
  | .dmaReadComplete t r => Sys2Proof.Machine.execDmaReadComplete t r s
  | .instanceResetDone ix => Sys2Proof.Machine.execInstanceResetDone ix s
  | .resetDrainCompletions ix => Sys2Proof.Machine.execResetDrainCompletions ix s
  | .adminEnable p => Sys2Proof.Machine.execAdminEnable p s
  | .adminDisable p => Sys2Proof.Machine.execAdminDisable p s
  | .adminErrorClear p => Sys2Proof.Machine.execAdminErrorClear p s
  | .admSqTailWrite p v => Sys2Proof.Machine.execAdmSqTailWrite p v s
  | .admCqHeadWrite p v => Sys2Proof.Machine.execAdmCqHeadWrite p v s
  | .createInstance p => Sys2Proof.Machine.execCreateInstance p s
  | .destroyInstance p => Sys2Proof.Machine.execDestroyInstance p s
  | .resetInstance p => Sys2Proof.Machine.execResetInstance p s
  | .setRate p => Sys2Proof.Machine.execSetRate p s
  | .query p => Sys2Proof.Machine.execQuery p s
  | .chartDelta p => Sys2Proof.Machine.execChartDelta p s
  | .approve c => Sys2Proof.Machine.execApprove c s
  | .importDomain p => Sys2Proof.Machine.execImportDomain p s
  | .enrollOfficer p => Sys2Proof.Machine.execEnrollOfficer p s
  | .fwUpdate c => Sys2Proof.Machine.execFwUpdate c s
  | .fwUpdateFinal c => Sys2Proof.Machine.execFwUpdateFinal c s
  | .configure c => Sys2Proof.Machine.execConfigure c s
  | .snapshot c => Sys2Proof.Machine.execSnapshot c s
  | .snapshotAndClear c => Sys2Proof.Machine.execSnapshotAndClear c s
  | .disable c => Sys2Proof.Machine.execDisable c s
  | .changeExpire id => Sys2Proof.Machine.execChangeExpire id s
  | .createQueue ix => Sys2Proof.Machine.execCreateQueue ix s
  | .destroyQueue ix => Sys2Proof.Machine.execDestroyQueue ix s
  | .createStream ix => Sys2Proof.Machine.execCreateStream ix s
  | .destroyStream ix => Sys2Proof.Machine.execDestroyStream ix s
  | .streamRekey ix => Sys2Proof.Machine.execStreamRekey ix s
  | .loadKey ix => Sys2Proof.Machine.execLoadKey ix s
  | .unloadKey ix => Sys2Proof.Machine.execUnloadKey ix s
  | .unloadKeyFree ix h => Sys2Proof.Machine.execUnloadKeyFree ix h s
  | .exportContext ix => Sys2Proof.Machine.execExportContext ix s
  | .importContext ix => Sys2Proof.Machine.execImportContext ix s
  | .queryInstance ix => Sys2Proof.Machine.execQueryInstance ix s
  | .keygen j => Sys2Proof.Machine.execKeygen j s
  | .encaps j => Sys2Proof.Machine.execEncaps j s
  | .decaps j => Sys2Proof.Machine.execDecaps j s
  | .sign j => Sys2Proof.Machine.execSign j s
  | .verify j => Sys2Proof.Machine.execVerify j s
  | .agree j => Sys2Proof.Machine.execAgree j s
  | .treeBuild j => Sys2Proof.Machine.execTreeBuild j s
  | .loadCurve j => Sys2Proof.Machine.execLoadCurve j s
  | .routineJob j => Sys2Proof.Machine.execRoutineJob j s
  | .cipherEncrypt j => Sys2Proof.Machine.execCipherEncrypt j s
  | .cipherDecrypt j => Sys2Proof.Machine.execCipherDecrypt j s
  | .cipherDiscard j => Sys2Proof.Machine.execCipherDiscard j s
  | .cipherSliceDone j parity => Sys2Proof.Machine.execCipherSliceDone j parity s
  | .randomBytes j => Sys2Proof.Machine.execRandomBytes j s
  | .randomKeygen j => Sys2Proof.Machine.execRandomKeygen j s
  | .randomWaitTimeout j => Sys2Proof.Machine.execRandomWaitTimeout j s
  | .cancel j => Sys2Proof.Machine.execCancel j s
  | .chartDeltaApply => Sys2Proof.Machine.execChartDeltaApply s
  | .fullChartApply => Sys2Proof.Machine.execFullChartApply s
  | .displacedJobMove j => Sys2Proof.Machine.execDisplacedJobMove j s
  | .clusterControlStoreLoad c => Sys2Proof.Machine.execClusterControlStoreLoad c s
  | .routineLoad c rid => Sys2Proof.Machine.execRoutineLoad c rid s
  | .routineWordsFree c rid => Sys2Proof.Machine.execRoutineWordsFree c rid s
  | .pipeRegroup p => Sys2Proof.Machine.execPipeRegroup p s
  | .pipeMute p => Sys2Proof.Machine.execPipeMute p s
  | .vnop r f => Sys2Proof.Machine.execVnop r f s
  | .vadd r f => Sys2Proof.Machine.execVadd r f s
  | .vsub r f => Sys2Proof.Machine.execVsub r f s
  | .vand r f => Sys2Proof.Machine.execVand r f s
  | .vor r f => Sys2Proof.Machine.execVor r f s
  | .vxor r f => Sys2Proof.Machine.execVxor r f s
  | .vandn r f => Sys2Proof.Machine.execVandn r f s
  | .vsll r f => Sys2Proof.Machine.execVsll r f s
  | .vsrl r f => Sys2Proof.Machine.execVsrl r f s
  | .vsra r f => Sys2Proof.Machine.execVsra r f s
  | .vrotl r f => Sys2Proof.Machine.execVrotl r f s
  | .vmullo r f => Sys2Proof.Machine.execVmullo r f s
  | .vmulhi r f => Sys2Proof.Machine.execVmulhi r f s
  | .vmov r f => Sys2Proof.Machine.execVmov r f s
  | .vbcast r f => Sys2Proof.Machine.execVbcast r f s
  | .vext r f => Sys2Proof.Machine.execVext r f s
  | .vcmpeq r f => Sys2Proof.Machine.execVcmpeq r f s
  | .vcmpltu r f => Sys2Proof.Machine.execVcmpltu r f s
  | .vcmplt r f => Sys2Proof.Machine.execVcmplt r f s
  | .vparity r f => Sys2Proof.Machine.execVparity r f s
  | .vmma r f => Sys2Proof.Machine.execVmma r f s
  | .vmadd r f => Sys2Proof.Machine.execVmadd r f s
  | .vmsub r f => Sys2Proof.Machine.execVmsub r f s
  | .vmred r f => Sys2Proof.Machine.execVmred r f s
  | .vbfly r f => Sys2Proof.Machine.execVbfly r f s
  | .vibfly r f => Sys2Proof.Machine.execVibfly r f s
  | .vbflyi r f => Sys2Proof.Machine.execVbflyi r f s
  | .vibflyi r f => Sys2Proof.Machine.execVibflyi r f s
  | .vbrev r f => Sys2Proof.Machine.execVbrev r f s
  | .vperm r f => Sys2Proof.Machine.execVperm r f s
  | .vslideup r f => Sys2Proof.Machine.execVslideup r f s
  | .vslidedn r f => Sys2Proof.Machine.execVslidedn r f s
  | .vcbd r f => Sys2Proof.Machine.execVcbd r f s
  | .vrej r f => Sys2Proof.Machine.execVrej r f s
  | .vcomp r f => Sys2Proof.Machine.execVcomp r f s
  | .vdecomp r f => Sys2Proof.Machine.execVdecomp r f s
  | .vpack r f => Sys2Proof.Machine.execVpack r f s
  | .vunpack r f => Sys2Proof.Machine.execVunpack r f s
  | .vgfmul r f => Sys2Proof.Machine.execVgfmul r f s
  | .vclmullo r f => Sys2Proof.Machine.execVclmullo r f s
  | .vclmulhi r f => Sys2Proof.Machine.execVclmulhi r f s
  | .vbtr8 r f => Sys2Proof.Machine.execVbtr8 r f s
  | .msetlt r f => Sys2Proof.Machine.execMsetlt r f s
  | .mand r f => Sys2Proof.Machine.execMand r f s
  | .mor r f => Sys2Proof.Machine.execMor r f s
  | .mxor r f => Sys2Proof.Machine.execMxor r f s
  | .mnot r f => Sys2Proof.Machine.execMnot r f s
  | .mpopc r f => Sys2Proof.Machine.execMpopc r f s
  | .mfirst r f => Sys2Proof.Machine.execMfirst r f s
  | .snop r f => Sys2Proof.Machine.execSnop r f s
  | .sadd r f => Sys2Proof.Machine.execSadd r f s
  | .ssub r f => Sys2Proof.Machine.execSsub r f s
  | .sand r f => Sys2Proof.Machine.execSand r f s
  | .sor r f => Sys2Proof.Machine.execSor r f s
  | .sxor r f => Sys2Proof.Machine.execSxor r f s
  | .ssll r f => Sys2Proof.Machine.execSsll r f s
  | .ssrl r f => Sys2Proof.Machine.execSsrl r f s
  | .ssra r f => Sys2Proof.Machine.execSsra r f s
  | .smul r f => Sys2Proof.Machine.execSmul r f s
  | .saddi r f => Sys2Proof.Machine.execSaddi r f s
  | .sli r f => Sys2Proof.Machine.execSli r f s
  | .scmpeq r f => Sys2Proof.Machine.execScmpeq r f s
  | .scmpltu r f => Sys2Proof.Machine.execScmpltu r f s
  | .scmplt r f => Sys2Proof.Machine.execScmplt r f s
  | .csrr r f => Sys2Proof.Machine.execCsrr r f s
  | .csrw r f => Sys2Proof.Machine.execCsrw r f s
  | .vld r f parity => Sys2Proof.Machine.execVld r f parity s
  | .vst r f => Sys2Proof.Machine.execVst r f s
  | .vlds r f => Sys2Proof.Machine.execVlds r f s
  | .vsts r f => Sys2Proof.Machine.execVsts r f s
  | .vgather r f => Sys2Proof.Machine.execVgather r f s
  | .vscatter r f => Sys2Proof.Machine.execVscatter r f s
  | .sld r f => Sys2Proof.Machine.execSld r f s
  | .sst r f => Sys2Proof.Machine.execSst r f s
  | .keyrd r f => Sys2Proof.Machine.execKeyrd r f s
  | .rndrd r f => Sys2Proof.Machine.execRndrd r f s
  | .mskrd r f => Sys2Proof.Machine.execMskrd r f s
  | .bkeccak r f => Sys2Proof.Machine.execBkeccak r f s
  | .bsha256 r f => Sys2Proof.Machine.execBsha256 r f s
  | .bsha512 r f => Sys2Proof.Machine.execBsha512 r f s
  | .brecv r f parity => Sys2Proof.Machine.execBrecv r f parity s
  | .bellowsResultReady r => Sys2Proof.Machine.execBellowsResultReady r s
  | .mput r f => Sys2Proof.Machine.execMput r f s
  | .mget r f => Sys2Proof.Machine.execMget r f s
  | .mrun r f => Sys2Proof.Machine.execMrun r f s
  | .setmod c => Sys2Proof.Machine.execSetmod c s
  | .mmul c => Sys2Proof.Machine.execMmul c s
  | .madd c => Sys2Proof.Machine.execMadd c s
  | .msub c => Sys2Proof.Machine.execMsub c s
  | .mexp c => Sys2Proof.Machine.execMexp c s
  | .mexps c => Sys2Proof.Machine.execMexps c s
  | .minv c => Sys2Proof.Machine.execMinv c s
  | .curve c => Sys2Proof.Machine.execCurve c s
  | .smulg c => Sys2Proof.Machine.execSmulg c s
  | .mauSmul c => Sys2Proof.Machine.execMauSmul c s
  | .oncurve c => Sys2Proof.Machine.execOncurve c s
  | .padd c => Sys2Proof.Machine.execPadd c s
  | .mr c => Sys2Proof.Machine.execMr c s
  | .checkcurve c => Sys2Proof.Machine.execCheckcurve c s
  | .wipe c => Sys2Proof.Machine.execWipe c s
  | .mauOperationDone c parity => Sys2Proof.Machine.execMauOperationDone c parity s
  | .inc r f ev => Sys2Proof.Machine.execInc r f ev s
  | .jump r f => Sys2Proof.Machine.execJump r f s
  | .branch r f => Sys2Proof.Machine.execBranch r f s
  | .call r f => Sys2Proof.Machine.execCall r f s
  | .ret r f => Sys2Proof.Machine.execRet r f s
  | .tret r f => Sys2Proof.Machine.execTret r f s
  | .waiti r f => Sys2Proof.Machine.execWaiti r f s
  | .endJob r ev => Sys2Proof.Machine.execEndJob r ev s
  | .lcSetImmediate r f => Sys2Proof.Machine.execLcSetImmediate r f s
  | .lcSetScalar r f => Sys2Proof.Machine.execLcSetScalar r f s
  | .lcClear r f => Sys2Proof.Machine.execLcClear r f s
  | .windowStageDone r => Sys2Proof.Machine.execWindowStageDone r s
  | .debugRelease r => Sys2Proof.Machine.execDebugRelease r s
  | .controlStoreReloadDone c block => Sys2Proof.Machine.execControlStoreReloadDone c block s
  | .jobReplayStart j => Sys2Proof.Machine.execJobReplayStart j s
  | .leafReserve k => Sys2Proof.Machine.execLeafReserve k s
  | .counterReserve sid => Sys2Proof.Machine.execCounterReserve sid s
  | .serialReserve => Sys2Proof.Machine.execSerialReserve s
  | .journalWriteDone ok => Sys2Proof.Machine.execJournalWriteDone ok s
  | .journalCompact => Sys2Proof.Machine.execJournalCompact s
  | .putBegin m => Sys2Proof.Machine.execPutBegin m s
  | .putData m => Sys2Proof.Machine.execPutData m s
  | .putEnd m => Sys2Proof.Machine.execPutEnd m s
  | .getReq m => Sys2Proof.Machine.execGetReq m s
  | .getData m => Sys2Proof.Machine.execGetData m s
  | .ack m => Sys2Proof.Machine.execAck m s
  | .nak m => Sys2Proof.Machine.execNak m s
  | .credit m => Sys2Proof.Machine.execCredit m s
  | .flush m => Sys2Proof.Machine.execFlush m s
  | .keepalive m => Sys2Proof.Machine.execKeepalive m s
  | .streamCacheLoadDone sid => Sys2Proof.Machine.execStreamCacheLoadDone sid s
  | .recordAdmit e ix parity => Sys2Proof.Machine.execRecordAdmit e ix parity s
  | .echoResult x ix strip good => Sys2Proof.Machine.execEchoResult x ix strip good s
  | .reseal x ix strip => Sys2Proof.Machine.execReseal x ix strip s
  | .recordSend e parity => Sys2Proof.Machine.execRecordSend e parity s
  | .extentClose e => Sys2Proof.Machine.execExtentClose e s
  | .manifestSend e => Sys2Proof.Machine.execManifestSend e s
  | .putIdleTimeout e => Sys2Proof.Machine.execPutIdleTimeout e s
  | .auditCheck => Sys2Proof.Machine.execAuditCheck s
  | .transitEpochAdvance sid => Sys2Proof.Machine.execTransitEpochAdvance sid s
  | .retransmitTimeout o => Sys2Proof.Machine.execRetransmitTimeout o s
  | .keepaliveSend n => Sys2Proof.Machine.execKeepaliveSend n s
  | .peerSilenceTimeout n => Sys2Proof.Machine.execPeerSilenceTimeout n s
  | .prevTableDrop => Sys2Proof.Machine.execPrevTableDrop s
  | .ethernetFrameReceive f => Sys2Proof.Machine.execEthernetFrameReceive f s
  | .pfcXoffReceive p prio quanta => Sys2Proof.Machine.execPfcXoffReceive p prio quanta s
  | .pfcXonSend p => Sys2Proof.Machine.execPfcXonSend p s
  | .linkUp l width speed => Sys2Proof.Machine.execLinkUp l width speed s
  | .linkDown l => Sys2Proof.Machine.execLinkDown l s
  | .sakInstall p an op => Sys2Proof.Machine.execSakInstall p an op s
  | .eapolReceive p dst bs => Sys2Proof.Machine.execEapolReceive p dst bs s
  | .migrationEntryStart entry => Sys2Proof.Machine.execMigrationEntryStart entry s
  | .tamperEvent t => Sys2Proof.Machine.execTamperEvent t s
  | .tamperClear mask => Sys2Proof.Machine.execTamperClear mask s
  | .wchGo p => Sys2Proof.Machine.execWchGo p s
  | .wchWithdraw p => Sys2Proof.Machine.execWchWithdraw p s
  | .escrowExport p => Sys2Proof.Machine.execEscrowExport p s
  | .escrowImport p => Sys2Proof.Machine.execEscrowImport p s
  | .grantClear p => Sys2Proof.Machine.execGrantClear p s
  | .attestSigned c => Sys2Proof.Machine.execAttestSigned c s
  | .attestShared c => Sys2Proof.Machine.execAttestShared c s
  | .attestCheck c => Sys2Proof.Machine.execAttestCheck c s
  | .rngReady => Sys2Proof.Machine.execRngReady s
  | .rngStartupTimeout => Sys2Proof.Machine.execRngStartupTimeout s
  | .rngHealthFail cell => Sys2Proof.Machine.execRngHealthFail cell s
  | .drbgReseed ix => Sys2Proof.Machine.execDrbgReseed ix s
  | .drbgStretchLimit ix => Sys2Proof.Machine.execDrbgStretchLimit ix s
  | .mgmtRngTimeout k => Sys2Proof.Machine.execMgmtRngTimeout k s
  | .dgpInit a c v => Sys2Proof.Machine.execDgpInit a c v s
  | .dgpFinal a c => Sys2Proof.Machine.execDgpFinal a c s
  | .dgpFinalDone c => Sys2Proof.Machine.execDgpFinalDone c s
  | .dgpClaim p c => Sys2Proof.Machine.execDgpClaim p c s
  | .dgpRelease a c => Sys2Proof.Machine.execDgpRelease a c s
  | .dgpData a c v => Sys2Proof.Machine.execDgpData a c v s
  | .dgpData8 a c v => Sys2Proof.Machine.execDgpData8 a c v s
  | .dgpBlockAbsorbed c => Sys2Proof.Machine.execDgpBlockAbsorbed c s
  | .ddrReadComplete addr ev => Sys2Proof.Machine.execDdrReadComplete addr ev s
  | .ddrLineWrite addr off bs ev => Sys2Proof.Machine.execDdrLineWrite addr off bs ev s
  | .keyGenerationRoll r => Sys2Proof.Machine.execKeyGenerationRoll r s
  | .sweepPage r ev => Sys2Proof.Machine.execSweepPage r ev s
  | .patrolScrub ev => Sys2Proof.Machine.execPatrolScrub ev s
  | .jtagTestUnlock token => Sys2Proof.Machine.execJtagTestUnlock token s
  | .jtagRelock => Sys2Proof.Machine.execJtagRelock s
  | .jtagRenotteAuthorisation target sig => Sys2Proof.Machine.execJtagRenotteAuthorisation target sig s
  | .lcsGo p => Sys2Proof.Machine.execLcsGo p s
  | .lcsWithdraw p => Sys2Proof.Machine.execLcsWithdraw p s
  | .lcTransition c => Sys2Proof.Machine.execLcTransition c s
  | .domainFound c => Sys2Proof.Machine.execDomainFound c s
  | .domainAdmit c => Sys2Proof.Machine.execDomainAdmit c s
  | .domainRotate c => Sys2Proof.Machine.execDomainRotate c s
  | .successorExport c => Sys2Proof.Machine.execSuccessorExport c s
  | .rewrap c => Sys2Proof.Machine.execRewrap c s
  | .twinEnrol c => Sys2Proof.Machine.execTwinEnrol c s
  | .debugGrant c => Sys2Proof.Machine.execDebugGrant c s
  | .migrate c => Sys2Proof.Machine.execMigrate c s
  | .migrateStop c => Sys2Proof.Machine.execMigrateStop c s
  | .twinLinkTrain h => Sys2Proof.Machine.execTwinLinkTrain h s
  | .heartbeat t => Sys2Proof.Machine.execHeartbeat t s
  | .align t => Sys2Proof.Machine.execAlign t s
  | .domain t => Sys2Proof.Machine.execDomain t s
  | .chart t => Sys2Proof.Machine.execChart t s
  | .instanceRec t => Sys2Proof.Machine.execInstanceRec t s
  | .stream t => Sys2Proof.Machine.execStream t s
  | .slot t => Sys2Proof.Machine.execSlot t s
  | .reserve t => Sys2Proof.Machine.execReserve t s
  | .snapshotEnd t => Sys2Proof.Machine.execSnapshotEnd t s
  | .twinRecordResend => Sys2Proof.Machine.execTwinRecordResend s
  | .breathSyncPulse => Sys2Proof.Machine.execBreathSyncPulse s
  | .twinLinkLost => Sys2Proof.Machine.execTwinLinkLost s
  | .twinAliveEdge => Sys2Proof.Machine.execTwinAliveEdge s
  | .partnerAliveTimeout => Sys2Proof.Machine.execPartnerAliveTimeout s
  | .twinHaltIn => Sys2Proof.Machine.execTwinHaltIn s
  | .takeover => Sys2Proof.Machine.execTakeover s
  | .getStatus => Sys2Proof.Machine.execGetStatus s
  | .readSensors => Sys2Proof.Machine.execReadSensors s
  | .readLog from_ => Sys2Proof.Machine.execReadLog from_ s
  | .modeRequestRecover => Sys2Proof.Machine.execModeRequestRecover s
  | .modeRequestService => Sys2Proof.Machine.execModeRequestService s
  | .modeRequestTune req => Sys2Proof.Machine.execModeRequestTune req s
  | .modeRequestHalted eid => Sys2Proof.Machine.execModeRequestHalted eid s
  | .queryChange idx => Sys2Proof.Machine.execQueryChange idx s
  | .setTime ms => Sys2Proof.Machine.execSetTime ms s
  | .setCak data => Sys2Proof.Machine.execSetCak data s
  | .setEndpointId eid => Sys2Proof.Machine.execSetEndpointId eid s
  | .pldmRequestUpdate => Sys2Proof.Machine.execPldmRequestUpdate s
  | .fwSessionTimeout => Sys2Proof.Machine.execFwSessionTimeout s
  | .sensorSample r => Sys2Proof.Machine.execSensorSample r s
  | .voltageFault m => Sys2Proof.Machine.execVoltageFault m s
  | .thermalComparator halt => Sys2Proof.Machine.execThermalComparator halt s
  | .watchdogExpire => Sys2Proof.Machine.execWatchdogExpire s
  | .monitorWindowEnd c => Sys2Proof.Machine.execMonitorWindowEnd c s
  | .sysRstNAssert => Sys2Proof.Machine.execSysRstNAssert s
  | .pfcPauseTimeExpire p prio => Sys2Proof.Machine.execPfcPauseTimeExpire p prio s
  | .msixVectorUnmask p vf v => Sys2Proof.Machine.execMsixVectorUnmask p vf v s
  | .atsTranslationComplete x access => Sys2Proof.Machine.execAtsTranslationComplete x access s
  | .twinHaltInRelease => Sys2Proof.Machine.execTwinHaltInRelease s
  | .vfEnableSet x => Sys2Proof.Machine.execVfEnableSet x s
  | .d3hotTransition p vf d3 => Sys2Proof.Machine.execD3hotTransition p vf d3 s

end Sys2Proof.Machine
end

