-- ==== Sys2Proof/Safety.lean ====
section
/-! DEFINITION. What every state of a run holds, in the terms the statements use: the breath's clock (R26, R27, R32), the canonical
form of the protected memory's tables (R371 to R375), the counts of ports, mailboxes and digest port contexts. -/

namespace Sys2Proof.Safety

open Sys2Proof.Machine

/-- LOG2_LEN lies in 10 to 14 (R26). -/
def LenOk (n : Nat) : Prop := 10 ≤ n ∧ n ≤ 14

/-- A full chart that waits to take effect gives a breath length R26 allows. -/
def WaitOk (w : Option ChartWait) : Prop := ∀ x, w = some x → LenOk x.chart.log2Len

/-- The clock of the breath: a length R26 allows, now and waiting; a clock step of R32; the working phase before cycle L - 256 and the
exhale from there to the breath's last cycle (R27). -/
structure ClockOk (b : Brt) : Prop where
  len : LenOk b.log2Len
  next : ∀ n, b.nextLog2 = some n → LenOk n
  step : b.clockStep ≤ 2
  req : ∀ n, b.stepReq = some n → n ≤ 2
  work : b.exhale = false → b.cycle + 256 ≤ 2 ^ b.log2Len
  out : b.exhale = true → 2 ^ b.log2Len ≤ b.cycle + 256 ∧ b.cycle < 2 ^ b.log2Len

/-- Every MINOR store of the counter lines is canonical: rising line numbers, no zero. -/
def MinorsOk (t : Tbl CounterLine) : Prop := ∀ e ∈ t, storeWf e.2.minors = true

/-- The tables of the protected memory are canonical: rising keys, and minors that list no zero. -/
structure MemOk (m : Mpr) : Prop where
  pages : tblWfFrom none m.pages = true
  minors : MinorsOk m.pages
  lines : tblWfFrom none m.lines = true
  tree : tblWfFrom none m.tree = true

/-- Eight host ports with a windchest and a custody mailbox each (R52, R335, R401), sixteen digest port contexts (R359). -/
structure ShapeOk (ports : List HostPort) (wch lcs : List Mailbox) (dgp : List Dgp) : Prop where
  ports : ports.length = 8
  wch : wch.length = 8
  lcs : lcs.length = 8
  dgp : dgp.length = 16

/-- What every step keeps. -/
structure BlockInv (s : State) : Prop where
  clock : ClockOk s.brt
  mem : MemOk s.mpr
  wait : WaitOk s.charts.fullWait
  shape : ShapeOk s.ports s.wchBox s.lcsBox s.dgp

/-! ### A field of a microword (R141, R166, R191 to R193) -/

/-- Reed `r` issues words, the word at its sequencer can be fetched, and it has issued, as `iss`, in `t`: which is `s` where it had issued
before, else `s` after the issue. -/
structure Issues (s t : State) (r : Fin 1024) (iss : Issue) : Prop where
  live : isRunning s = true
  runs : reedRuns s r.val = true
  fetched : fetchStalls s r.val = false
  after : t = openWord s r.val
  going : reedRuns t r.val = true
  issue : (reedAt t r.val).issue = some iss
  issued : iss.issued = true

/-- Field `k` of that word, numbered as in FIELD_DONE, has not acted. -/
structure Takes (s t : State) (r : Fin 1024) (iss : Issue) (k : Nat) : Prop extends Issues s t r iss where
  undone : bitOf (doneOf (wordNow s r.val) iss) k = false

/-- `t` after field `k` of reed `r`'s word has acted: the reed's core is `y`, the field is done, and the free values up to `free` are used up.
Nothing else differs from `t`. -/
def acted (t : State) (r : Fin 1024) (k : Nat) (iss : Issue) (free : Nat) (y : ReedCore) : State :=
  setReed { t with free := t.free + free } r.val { reedAt t r.val with
    core := y
    issue := some { iss with done := iss.done ||| 2 ^ k } }

/-- `y` is `x` with some elements of `w` bits of the group of `g` registers at V(d) replaced: `val` says which and by what. Every other
element of the group, every other vector register and everything else in the core is unchanged. -/
structure GroupSet (w g d : Nat) (x y : ReedCore) (val : Nat → Option Nat) : Prop where
  elems : ∀ i, i < g * (512 / w) → elemAt w y d i = (val i).getD (elemAt w x d i)
  others : ∀ k, k < d ∨ d + g ≤ k → vGet y k = vGet x k
  frame : { y with v := x.v } = x

/-- `y` is `x` with scalar register `d` set; S0 takes no write (R128). Nothing else differs. -/
structure ScalarSet (d : Nat) (x y : ReedCore) (v : BitVec 64) : Prop where
  zero : d = 0 → y = x
  value : d ≠ 0 → sGet y d = v
  others : ∀ k, k ≠ d → sGet y k = sGet x k
  frame : { y with s := x.s } = x

/-- `y` is `x` with mask register `d` set to what `bit` says of each of its 256 bits. Nothing else differs. -/
structure MaskSet (d : Nat) (x y : ReedCore) (bit : Nat → Bool) : Prop where
  bits : ∀ i, i < 256 → (mGet y d).getLsbD i = bit i
  others : ∀ k, k ≠ d → mGet y k = mGet x k
  frame : { y with m := x.m } = x

/-- What element `i` of a destination receives under masking (R132, R133): the result where the element is active, zero where it is
inactive below VL and ZERO is set, else nothing. -/
def underMask (c : ReedCore) (f : VField) (value : Nat → Nat) (i : Nat) : Option Nat :=
  if active c f.mask i then some (value i) else if i < c.vl ∧ f.zero = true then some 0 else none

/-- Of a result in elements of `w` bits, what the beats from the one at which the word resumes write: a beat is 256 bits (R138, R200). -/
def fromBeat (w beat : Nat) (v : Nat → Option Nat) (i : Nat) : Option Nat := if beat * 256 ≤ i * w then v i else none

end Sys2Proof.Safety
end

