-- ==== Sys2Proof/WellFormed.lean ====
section
/-! DEFINITION. The commands whose operands the outside can present: queue, function and vector numbers inside their tables, memory lines
inside a line, readings of every sensor, negotiated widths and speeds of R53. The meanings are total on every command; this says which of
them a sender that keeps the interface sends. -/

namespace Sys2Proof

/-- An instance has up to 4,096 queue pairs, queue 0 included (R102). -/
def queueOk (q : Nat) : Bool := q < 4096

/-- A function of a port: 0 is the PF, and a VF's number is a requester ID's offset of 16 bits (R53). -/
def functionOk (vf : Nat) : Bool := vf < 2 ^ 16

/-- A VF, not the PF. -/
def vfOk (vf : Nat) : Bool := vf ≠ 0 && functionOk vf

/-- A vector of a function: 2,048 of a PF, 256 of a VF (R53). -/
def vectorOk (vf v : Nat) : Bool := if vf = 0 then v < 2048 else v < 256

/-- A register access is aligned on its own width, 4 or 8 bytes (PRESUMED: PCIe software accesses, log 9). -/
def accessOk (a : BarAddr) (wide : Bool) : Bool := match a with
  | .pf _ off => off.toNat % (if wide then 8 else 4) = 0
  | .vf _ vf off => vfOk vf && off.toNat % (if wide then 8 else 4) = 0

/-- Bytes written into a 64-byte line (R367). -/
def lineBytesOk (off : Nat) (bs : Bytes) : Bool := bs ≠ [] && off + bs.length ≤ 64

/-- One sample of every sensor (R429). -/
def readingsOk (r : Readings) : Bool :=
  r.junction.length = 32 && r.millivolts.length = 16 && r.pciePpm.length = 4 && r.ethPpm.length = 4

/-- A negotiated link: x1 to x16, 2.5 to 32 GT/s (R53); an Ethernet port names neither. -/
def linkOk (l : LinkName) (width speed : Nat) : Bool := match l with
  | .host _ => (width = 1 || width = 2 || width = 4 || width = 8 || width = 16) && 1 ≤ speed && speed ≤ 5
  | .fabric _ => width = 0 && speed = 0

/-- DIMMs a board can carry (R365). -/
def dimmsOk (d : Dimms) : Bool := d.channels ≤ 8 && d.perChannel ≤ 2

/-- A twin record's numbers are 64-bit fields of its header (R411). -/
def twinOk (t : TwinIn) : Bool := t.seq < 2 ^ 64 && t.ackSeq < 2 ^ 64

/-- A ring's queue number. -/
def ringOk (g : Ring) : Bool := match g with
  | .adm _ => true
  | .inst _ q => queueOk q

/-- A submission entry is 1 to 16 slots of 64 bytes (R71). -/
def entryOk (bs : Bytes) : Bool := bs.length % 64 = 0 && bs ≠ [] && bs.length ≤ 1024

/-- A DMA read's target. -/
def targetOk (t : DmaTarget) : Bool := match t with
  | .entry g => ringOk g
  | .job _ | .adm _ | .ctl _ | .wch _ | .lcs _ => true

/-- The commands an outside that keeps the interface sends. -/
def Instr.wf : Instr → Bool
  | .fenceReadComplete g _ => ringOk g
  | .powerOnReset b => dimmsOk b.dimms
  | .registerWrite a wide v => accessOk a wide && (wide || v.toNat < 2 ^ 32)
  | .vfFlr _ vf | .atsInvalidate _ vf | .vfResetRequest _ vf => vfOk vf
  | .sqTailDoorbell _ vf q _ | .cqHeadDoorbell _ vf q _ | .queueEnable _ vf q | .queueDisable _ vf q => vfOk vf && queueOk q
  | .submissionFetch g bs => ringOk g && entryOk bs
  | .dmaReadComplete t _ => targetOk t
  | .linkUp l width speed => linkOk l width speed
  | .ddrLineWrite _ off bs _ => lineBytesOk off bs
  | .heartbeat t | .align t | .domain t | .chart t | .instanceRec t | .stream t | .slot t | .reserve t | .snapshotEnd t => twinOk t
  | .sensorSample r => readingsOk r
  | .msixVectorUnmask _ vf v => functionOk vf && vectorOk vf v
  | .d3hotTransition _ vf _ => functionOk vf
  | .inhale | .exhale | .jobRelease | .ladderRungAdvance _ | .budgetExceeded _ | .nonLadderComplete | .abortComplete _
  | .bellCollect _ _ | .clockStepApply | .powerDown | .bootChecksComplete _ | .modeChange | .quiesceBegin | .quiesceExtentTimeout _
  | .tuneEnter | .controlledHaltFlush | .haltedEnter | .haltVecArm _ _ | .haltVecDisarm _ | .brtCountLowRead _ | .belStatusRead _
  | .prtPortRead _ _ | .pxtDropsRead _ | .rngSupplyRead _ | .rngWaitRead _ | .mprEccRead _ | .monAlarmsRead _ | .perstNAssert _ _
  | .instanceResetDone _ | .resetDrainCompletions _ | .adminEnable _ | .adminDisable _ | .adminErrorClear _ | .admSqTailWrite _ _
  | .admCqHeadWrite _ _ | .createInstance _ | .destroyInstance _ | .resetInstance _ | .setRate _ | .query _ | .chartDelta _
  | .approve _ | .importDomain _ | .enrollOfficer _ | .fwUpdate _ | .fwUpdateFinal _ | .configure _ | .snapshot _
  | .snapshotAndClear _ | .disable _ | .changeExpire _ | .createQueue _ | .destroyQueue _ | .createStream _ | .destroyStream _
  | .streamRekey _ | .loadKey _ | .unloadKey _ | .unloadKeyFree _ _ | .exportContext _ | .importContext _ | .queryInstance _
  | .keygen _ | .encaps _ | .decaps _ | .sign _ | .verify _ | .agree _ | .treeBuild _ | .loadCurve _ | .routineJob _
  | .cipherEncrypt _ | .cipherDecrypt _ | .cipherDiscard _ | .cipherSliceDone _ _ | .randomBytes _ | .randomKeygen _
  | .randomWaitTimeout _ | .cancel _ | .chartDeltaApply | .fullChartApply | .displacedJobMove _ | .clusterControlStoreLoad _
  | .routineLoad _ _ | .routineWordsFree _ _ | .pipeRegroup _ | .pipeMute _ | .vnop _ _ | .vadd _ _ | .vsub _ _ | .vand _ _ | .vor _ _
  | .vxor _ _ | .vandn _ _ | .vsll _ _ | .vsrl _ _ | .vsra _ _ | .vrotl _ _ | .vmullo _ _ | .vmulhi _ _ | .vmov _ _ | .vbcast _ _
  | .vext _ _ | .vcmpeq _ _ | .vcmpltu _ _ | .vcmplt _ _ | .vparity _ _ | .vmma _ _ | .vmadd _ _ | .vmsub _ _ | .vmred _ _
  | .vbfly _ _ | .vibfly _ _ | .vbflyi _ _ | .vibflyi _ _ | .vbrev _ _ | .vperm _ _ | .vslideup _ _ | .vslidedn _ _ | .vcbd _ _
  | .vrej _ _ | .vcomp _ _ | .vdecomp _ _ | .vpack _ _ | .vunpack _ _ | .vgfmul _ _ | .vclmullo _ _ | .vclmulhi _ _ | .vbtr8 _ _
  | .msetlt _ _ | .mand _ _ | .mor _ _ | .mxor _ _ | .mnot _ _ | .mpopc _ _ | .mfirst _ _ | .snop _ _ | .sadd _ _ | .ssub _ _
  | .sand _ _ | .sor _ _ | .sxor _ _ | .ssll _ _ | .ssrl _ _ | .ssra _ _ | .smul _ _ | .saddi _ _ | .sli _ _ | .scmpeq _ _
  | .scmpltu _ _ | .scmplt _ _ | .csrr _ _ | .csrw _ _ | .vld _ _ _ | .vst _ _ | .vlds _ _ | .vsts _ _ | .vgather _ _ | .vscatter _ _
  | .sld _ _ | .sst _ _ | .keyrd _ _ | .rndrd _ _ | .mskrd _ _ | .bkeccak _ _ | .bsha256 _ _ | .bsha512 _ _ | .brecv _ _ _
  | .bellowsResultReady _ | .mput _ _ | .mget _ _ | .mrun _ _ | .setmod _ | .mmul _ | .madd _ | .msub _ | .mexp _ | .mexps _ | .minv _
  | .curve _ | .smulg _ | .mauSmul _ | .oncurve _ | .padd _ | .mr _ | .checkcurve _ | .wipe _ | .mauOperationDone _ _ | .inc _ _ _
  | .jump _ _ | .branch _ _ | .call _ _ | .ret _ _ | .tret _ _ | .waiti _ _ | .endJob _ _ | .lcSetImmediate _ _ | .lcSetScalar _ _
  | .lcClear _ _ | .windowStageDone _ | .debugRelease _ | .controlStoreReloadDone _ _ | .jobReplayStart _ | .leafReserve _
  | .counterReserve _ | .serialReserve | .journalWriteDone _ | .journalCompact | .putBegin _ | .putData _ | .putEnd _ | .getReq _
  | .getData _ | .ack _ | .nak _ | .credit _ | .flush _ | .keepalive _ | .streamCacheLoadDone _ | .recordAdmit _ _ _
  | .echoResult _ _ _ _ | .reseal _ _ _ | .recordSend _ _ | .extentClose _ | .manifestSend _ | .putIdleTimeout _ | .auditCheck
  | .transitEpochAdvance _ | .retransmitTimeout _ | .keepaliveSend _ | .peerSilenceTimeout _ | .prevTableDrop
  | .ethernetFrameReceive _ | .pfcXoffReceive _ _ _ | .pfcXonSend _ | .linkDown _ | .sakInstall _ _ _ | .eapolReceive _ _ _
  | .migrationEntryStart _ | .tamperEvent _ | .tamperClear _ | .wchGo _ | .wchWithdraw _ | .escrowExport _ | .escrowImport _
  | .grantClear _ | .attestSigned _ | .attestShared _ | .attestCheck _ | .rngReady | .rngStartupTimeout | .rngHealthFail _
  | .drbgReseed _ | .drbgStretchLimit _ | .mgmtRngTimeout _ | .dgpInit _ _ _ | .dgpFinal _ _ | .dgpFinalDone _ | .dgpClaim _ _
  | .dgpRelease _ _ | .dgpData _ _ _ | .dgpData8 _ _ _ | .dgpBlockAbsorbed _ | .ddrReadComplete _ _ | .keyGenerationRoll _
  | .sweepPage _ _ | .patrolScrub _ | .jtagTestUnlock _ | .jtagRelock | .jtagRenotteAuthorisation _ _ | .lcsGo _ | .lcsWithdraw _
  | .lcTransition _ | .domainFound _ | .domainAdmit _ | .domainRotate _ | .successorExport _ | .rewrap _ | .twinEnrol _
  | .debugGrant _ | .migrate _ | .migrateStop _ | .twinLinkTrain _ | .twinRecordResend | .breathSyncPulse | .twinLinkLost
  | .twinAliveEdge | .partnerAliveTimeout | .twinHaltIn | .takeover | .getStatus | .readSensors | .readLog _ | .modeRequestRecover
  | .modeRequestService | .modeRequestTune _ | .modeRequestHalted _ | .queryChange _ | .setTime _ | .setCak _ | .setEndpointId _
  | .pldmRequestUpdate | .fwSessionTimeout | .voltageFault _ | .thermalComparator _ | .watchdogExpire | .monitorWindowEnd _
  | .sysRstNAssert | .pfcPauseTimeExpire _ _ | .atsTranslationComplete _ _ | .twinHaltInRelease | .vfEnableSet _ => true

end Sys2Proof
end

