-- ==== Sys2Proof/Certificates/Slice0/Obligations.lean ====
section
/-! DEFINITION. The statements about this model for the provers. -/

namespace Sys2Proof.Rows

open Sys2Proof Sys2Proof.Machine Sys2Proof.Safety

/-! ### Tables of microword rows: an instruction, what it reads, when it faults, and its value -/

/-- A row of the vector field whose result goes to the elements of group d under the mask: its code, the groups and scalars it reads, whether
it is a restarting operation, when its own operands are in range, the free values it takes, the active elements it leaves, and the value of
element `i`. -/
structure ElemRow where
  instr : Fin 1024 → VField → Instr
  code : Nat
  srcs : VField → List Nat
  restarting : Bool := false
  ok : ReedCore → VField → Bool := fun _ _ => true
  free : ReedCore → VField → Nat := fun _ _ => 0
  first : ReedCore → VField → Nat := fun _ _ => 0
  value : Nat → ReedCore → VField → Nat → Nat

/-- The word at the sequencer holds vector code `n` with fields `f` (R184); its scalar, memory, bellows and MAU fields likewise. -/
def VecIs (s : State) (r : Fin 1024) (n : Nat) (f : VField) : Prop := vopOf (wordNow s r.val) = n ∧ vFieldOf (wordNow s r.val) = f
def ScalIs (s : State) (r : Fin 1024) (n : Nat) (f : SField) : Prop := sopOf (wordNow s r.val) = n ∧ sFieldOf (wordNow s r.val) = f
def MemIs (s : State) (r : Fin 1024) (n : Nat) (f : MField) : Prop := mopOf (wordNow s r.val) = n ∧ mFieldOf (wordNow s r.val) = f
def BelIs (s : State) (r : Fin 1024) (n : Nat) (f : BField) : Prop := bopOf (wordNow s r.val) = n ∧ bFieldOf (wordNow s r.val) = f
def MauIs (s : State) (r : Fin 1024) (n : Nat) (f : AField) : Prop := aopOf (wordNow s r.val) = n ∧ aFieldOf (wordNow s r.val) = f
def SeqIs (s : State) (r : Fin 1024) (n : Nat) (f : QField) : Prop := seqOf (wordNow s r.val) = n ∧ qFieldOf (wordNow s r.val) = f
def LcIs (s : State) (r : Fin 1024) (n : Nat) (f : LField) : Prop := lcopOf (wordNow s r.val) = n ∧ lFieldOf (wordNow s r.val) = f

/-- The beat from which an operation of a class acts: an operation of its class that restarts does so from its first (R192, R200). -/
def beatOf (restarting : Bool) (iss : Issue) : Nat := if restarting then 0 else startBeat iss

/-- What a statement about a table of rows says of one row: where the word has issued and its vector field has not acted, with aligned groups
(R129), VL within the group (R131) and operands in the row's own range, the row completes, and writes its values to the elements the mask
selects, from the beat at which the word resumes, and nothing else. -/
def ElemRow.Holds (row : ElemRow) : Prop :=
  ∀ (s t : State) (r : Fin 1024) (f : VField) (iss : Issue), let c := vecView f iss
    Takes s t r iss 0 → VecIs s r row.code f → groupOk c f.d.val = true → (∀ k ∈ row.srcs f, groupOk c k = true) → c.vl ≤ emax c →
    row.ok c f = true →
    ∃ y, GroupSet (ewBits c) (gsize c) f.d.val (reedAt t r.val).core y (fromBeat (ewBits c) (beatOf row.restarting iss) (fun i =>
        if i < row.first c f ∧ active c f.mask i = true then none else underMask c f (row.value t.free c f) i)) ∧
      exec (row.instr r f) s = .next (acted t r 0 iss (row.free c f) y)

/-- Element `i` of the group at V(k), as a number of the element width. -/
def el (c : ReedCore) (k : Fin 32) (i : Nat) : BitVec (ewBits c) := BitVec.ofNat (ewBits c) (vElem c k.val i)

/-- The shift amount of R150: S[s] or the constant, modulo EW. -/
def amount (c : ReedCore) (f : VField) : Nat := (if f.ssel then (sGet c f.s.val).toNat else f.k.toNat) % ewBits c

/-- Two-source rows, shifts, and rows with a formula of their own. -/
def row2 (i : Fin 1024 → VField → Instr) (n : Nat) (g : {w : Nat} → BitVec w → BitVec w → BitVec w) : ElemRow where
  instr := i
  code := n
  srcs f := [f.a.val, f.b.val]
  value _ c f e := (g (el c f.a e) (el c f.b e)).toNat

def rowShift (i : Fin 1024 → VField → Instr) (n : Nat) (g : {w : Nat} → BitVec w → Nat → BitVec w) : ElemRow where
  instr := i
  code := n
  srcs f := [f.a.val]
  value _ c f e := (g (el c f.a e) (amount c f)).toNat

/-- The integer rows of R150. -/
def integerRows : List ElemRow := [
  row2 .vadd 0x01 (fun x y => x + y),
  row2 .vsub 0x02 (fun x y => x - y),
  row2 .vand 0x03 (fun x y => x &&& y),
  row2 .vor 0x04 (fun x y => x ||| y),
  row2 .vxor 0x05 (fun x y => x ^^^ y),
  row2 .vandn 0x06 (fun x y => x &&& ~~~y),
  row2 .vmullo 0x0B (fun x y => x * y),
  { instr := .vmulhi, code := 0x0C, srcs := fun f => [f.a.val, f.b.val], value := fun _ c f i => vElem c f.a.val i * vElem c f.b.val i / 2 ^ ewBits c },
  rowShift .vsll 0x07 (fun x n => x <<< n),
  rowShift .vsrl 0x08 (fun x n => x >>> n),
  rowShift .vsra 0x09 (fun x n => x.sshiftRight n),
  rowShift .vrotl 0x0A (fun x n => x.rotateLeft n),
  { instr := .vmov, code := 0x0D, srcs := fun f => [f.a.val], value := fun _ c f i => vElem c f.a.val i },
  { instr := .vbcast, code := 0x0E, srcs := fun _ => [], value := fun _ c f _ => (sGet c f.s.val).toNat % 2 ^ ewBits c }]

/-- Rows modulo QMOD (R136, R150, R151). -/
def modRow (i : Fin 1024 → VField → Instr) (n : Nat) (srcs : VField → List Nat) (g : Nat → ReedCore → VField → Nat → Nat) : ElemRow where
  instr := i
  code := n
  srcs := srcs
  ok c _ := qmodOk c
  value _ c f e := g c.qmod.toNat c f e

def modularRows : List ElemRow := [
  modRow .vmma 0x20 (fun f => [f.a.val, f.b.val, f.c.val]) (fun q c f i => (vElem c f.a.val i * vElem c f.b.val i + vElem c f.c.val i) % q),
  modRow .vmadd 0x21 (fun f => [f.a.val, f.b.val]) (fun q c f i => (vElem c f.a.val i + vElem c f.b.val i) % q),
  modRow .vmsub 0x22 (fun f => [f.a.val, f.b.val]) (fun q c f i => (((vElem c f.a.val i : Int) - vElem c f.b.val i) % (q : Int)).toNat),
  modRow .vmred 0x23 (fun f => [f.a.val]) (fun q c f i => vElem c f.a.val i % q),
  { instr := .vcomp, code := 0x32, srcs := fun f => [f.a.val], ok := fun c f => qmodOk c && 1 ≤ f.k.toNat && f.k.toNat ≤ 12,
    value := fun _ c f i => ((2 ^ (f.k.toNat + 1) * (vElem c f.a.val i % c.qmod.toNat) + c.qmod.toNat) / (2 * c.qmod.toNat)) % 2 ^ f.k.toNat },
  { instr := .vdecomp, code := 0x33, srcs := fun f => [f.a.val], ok := fun c f => qmodOk c && 1 ≤ f.k.toNat && f.k.toNat ≤ 12,
    value := fun _ c f i => (c.qmod.toNat * (vElem c f.a.val i % 2 ^ f.k.toNat) + 2 ^ (f.k.toNat - 1)) / 2 ^ f.k.toNat }]

/-- Bit `j` of the stream of the group at V(k) (R153). -/
def streamBit (c : ReedCore) (k : Nat) (j : Nat) : Bool := (vGet c (k + j / 512)).getLsbD (j % 512)

/-- The sum of `n` bits of that stream from bit `lo`, and the number they spell. -/
def bitSum (c : ReedCore) (k lo n : Nat) : Nat := ((List.range n).map (fun j => flag (streamBit c k (lo + j)))).sum
def bitWord (c : ReedCore) (k lo n : Nat) : Nat := ((List.range n).map (fun j => flag (streamBit c k (lo + j)) * 2 ^ j)).sum

/-- The low `k` bits of `i` reversed (R150). -/
def reversed (k i : Nat) : Nat := i / 2 ^ k * 2 ^ k + ((List.range k).map (fun j => (i / 2 ^ (k - 1 - j) % 2) * 2 ^ j)).sum

/-- The 8 × 8 transpose: bit 8r + c moves to bit 8c + r (R150). -/
def transposed (x : Nat) : Nat := ((List.range 64).map (fun j => flag (x.testBit j) * 2 ^ (8 * (j % 8) + j / 8))).sum

/-- The whole-group rows of R150 and R153: their destination is no source (R169). A value the spec does not state (VBREV past the group,
VCBD without a modulus of the element width, VUNPACK of a field wider than the element) is the model's free value (log 1). -/
def wholeGroupRows : List ElemRow := [
  { instr := .vbrev, code := 0x28, srcs := fun f => [f.a.val], restarting := true, ok := fun _ f => 1 ≤ f.k.toNat && f.k.toNat ≤ 8 && f.a ≠ f.d,
    free := fun c f => if 2 ^ f.k.toNat > emax c then 1 else 0,
    value := fun fr c f i => if reversed f.k.toNat i < emax c then vElem c f.a.val (reversed f.k.toNat i) else freeElem fr (ewBits c) i },
  { instr := .vperm, code := 0x29, srcs := fun f => [f.a.val, f.b.val], restarting := true, ok := fun _ f => f.a ≠ f.d && f.b ≠ f.d,
    value := fun _ c f i => vElem c f.a.val (vElem c f.b.val i % emax c) },
  { instr := .vslideup, code := 0x2A, srcs := fun f => [f.a.val], restarting := true, ok := fun _ f => f.a ≠ f.d,
    first := fun c f => (sGet c f.s.val).toNat, value := fun _ c f i => vElem c f.a.val (i - (sGet c f.s.val).toNat) },
  { instr := .vslidedn, code := 0x2B, srcs := fun f => [f.a.val], restarting := true, ok := fun _ f => f.a ≠ f.d,
    value := fun _ c f i => if i + (sGet c f.s.val).toNat < emax c then vElem c f.a.val (i + (sGet c f.s.val).toNat) else 0 },
  { instr := .vcbd, code := 0x30, srcs := fun f => [f.a.val], restarting := true,
    ok := fun c f => 1 ≤ f.k.toNat && f.k.toNat ≤ 4 && f.a ≠ f.d && 2 * f.k.toNat * c.vl ≤ 512 * gsize c,
    free := fun c _ => if c.qmod.toNat = 0 ∨ c.qmod.toNat > 2 ^ ewBits c then 1 else 0,
    value := fun fr c f i =>
      if c.qmod.toNat = 0 ∨ c.qmod.toNat > 2 ^ ewBits c then freeElem fr (ewBits c) i
      else (((bitSum c f.a.val (2 * f.k.toNat * i) f.k.toNat : Int) - bitSum c f.a.val (2 * f.k.toNat * i + f.k.toNat) f.k.toNat)
        % (c.qmod.toNat : Int)).toNat },
  { instr := .vunpack, code := 0x35, srcs := fun f => [f.a.val], restarting := true, ok := fun c f => f.a ≠ f.d && f.k.toNat * c.vl ≤ 512 * gsize c,
    free := fun c f => if f.k.toNat > ewBits c then 1 else 0,
    value := fun fr c f i => if f.k.toNat > ewBits c then freeElem fr (ewBits c) i else bitWord c f.a.val (f.k.toNat * i) f.k.toNat }]

/-- The carry-less product of two numbers, bit by bit: bit n is the parity of the products of bits that sum to n. -/
def carryless (x y : Nat) : Nat :=
  ((List.range 127).map (fun n => flag (((List.range 64).filter (fun j => j ≤ n && y.testBit j && x.testBit (n - j))).length % 2 = 1) * 2 ^ n)).sum

/-- Rows on polynomials over GF(2) and bit matrices, each with the element width it needs (R137, R150). -/
def polynomialRows : List ElemRow := [
  { instr := .vgfmul, code := 0x38, srcs := fun f => [f.a.val, f.b.val], ok := fun c _ => ewBits c ≠ 64 && gfpolyOk c,
    value := fun _ c f i => polyMod 64 (gfM c) (gfPolyOf c) (clmul (ewBits c) (vElem c f.a.val i) (vElem c f.b.val i)) },
  { instr := .vclmullo, code := 0x39, srcs := fun f => [f.a.val, f.b.val], ok := fun c _ => ewBits c = 64,
    value := fun _ c f i => carryless (vElem c f.a.val i) (vElem c f.b.val i) % 2 ^ 64 },
  { instr := .vclmulhi, code := 0x3A, srcs := fun f => [f.a.val, f.b.val], ok := fun c _ => ewBits c = 64,
    value := fun _ c f i => carryless (vElem c f.a.val i) (vElem c f.b.val i) / 2 ^ 64 },
  { instr := .vbtr8, code := 0x3B, srcs := fun f => [f.a.val], ok := fun c _ => ewBits c = 64, value := fun _ c f i => transposed (vElem c f.a.val i) }]

/-- A row that writes bits of a mask register, or all of it (R134). -/
structure MaskRow where
  instr : Fin 1024 → VField → Instr
  code : Nat
  srcs : VField → List Nat
  masked : Bool
  bit : ReedCore → VField → Nat → Bool

/-- The bits a row writes: a compare the bit of each active element, from the beat at which the word resumes; a mask operation all 256, unless
VL is 0 (R131, R134). -/
def MaskRow.writes (row : MaskRow) (c : ReedCore) (f : VField) (beat i : Nat) : Bool :=
  if row.masked then active c f.mask i && decide (beat * 256 ≤ i * ewBits c) else decide (c.vl ≠ 0)

def MaskRow.Holds (row : MaskRow) : Prop :=
  ∀ (s t : State) (r : Fin 1024) (f : VField) (iss : Issue), let c := vecView f iss
    let x := (reedAt t r.val).core
    Takes s t r iss 0 → VecIs s r row.code f → (∀ k ∈ row.srcs f, groupOk c k = true) → c.vl ≤ emax c →
    ∃ y, MaskSet (f.d.val % 8) x y (fun i => if row.writes c f (startBeat iss) i then row.bit c f i else (mGet x (f.d.val % 8)).getLsbD i) ∧
      exec (row.instr r f) s = .next (acted t r 0 iss 0 y)

def maskRows : List MaskRow := [
  ⟨.vcmpeq, 0x10, fun f => [f.a.val, f.b.val], true, fun c f i => vElem c f.a.val i = vElem c f.b.val i⟩,
  ⟨.vcmpltu, 0x11, fun f => [f.a.val, f.b.val], true, fun c f i => vElem c f.a.val i < vElem c f.b.val i⟩,
  ⟨.vcmplt, 0x12, fun f => [f.a.val, f.b.val], true, fun c f i => (el c f.a i).toInt < (el c f.b i).toInt⟩,
  ⟨.vparity, 0x13, fun f => [f.a.val], true, fun c f i => ((List.range 64).filter (fun j => (vElem c f.a.val i).testBit j)).length % 2 = 1⟩,
  ⟨.msetlt, 0x40, fun _ => [], false, fun c f i => i < (sGet c f.s.val).toNat⟩,
  ⟨.mand, 0x41, fun _ => [], false, fun c f i => (mGet c (f.a.val % 8)).getLsbD i && (mGet c (f.b.val % 8)).getLsbD i⟩,
  ⟨.mor, 0x42, fun _ => [], false, fun c f i => (mGet c (f.a.val % 8)).getLsbD i || (mGet c (f.b.val % 8)).getLsbD i⟩,
  ⟨.mxor, 0x43, fun _ => [], false, fun c f i => (mGet c (f.a.val % 8)).getLsbD i ^^ (mGet c (f.b.val % 8)).getLsbD i⟩,
  ⟨.mnot, 0x44, fun _ => [], false, fun c f i => !(mGet c (f.a.val % 8)).getLsbD i⟩]

/-- A scalar row of R155: its code and the value it gives S[d], from the reed before the word. -/
structure ScalRow where
  instr : Fin 1024 → SField → Instr
  code : Nat
  value : State → ReedCore → SField → BitVec 64

def ScalRow.Holds (row : ScalRow) : Prop :=
  ∀ (s t : State) (r : Fin 1024) (f : SField) (iss : Issue), Takes s t r iss 1 → ScalIs s r row.code f →
    ∃ y, ScalarSet f.d.val (reedAt t r.val).core y (row.value s iss.before f) ∧ exec (row.instr r f) s = .next (acted t r 1 iss 0 y)

def scal2 (i : Fin 1024 → SField → Instr) (n : Nat) (g : BitVec 64 → BitVec 64 → BitVec 64) : ScalRow :=
  ⟨i, n, fun _ c f => g (sGet c f.a.val) (sGet c f.b.val)⟩

/-- A control register as CSRR reads it, by R135's table. -/
def controlValue (s : State) (c : ReedCore) (i : Nat) : BitVec 64 :=
  if i = 0x00 then BitVec.ofNat 64 (c.ew % 4 + 4 * (c.log2g % 4))
  else if i = 0x01 then BitVec.ofNat 64 (c.vl % 512)
  else if i = 0x02 then c.qmod
  else if i = 0x03 then c.gfpoly
  else if i = 0x04 then c.trapElem
  else if i = 0x05 then c.trapAddr
  else if 0x08 ≤ i ∧ i ≤ 0x0B then
    let p := c.win.getD (i - 8) 0
    BitVec.ofNat 64 (p % 256 + 256 * flag (c.frames.any (fun fr => fr.page = some p)) + 512 * flag (decide (p < (storeGet c.opmem 0x7E0D).toNat)))
  else if i = 0x10 then BitVec.ofNat 64 (s.brt.cycle % 2 ^ 14)
  else 0

def scalarRows : List ScalRow := [
  scal2 .sadd 0x01 (fun x y => x + y),
  scal2 .ssub 0x02 (fun x y => x - y),
  scal2 .sand 0x03 (fun x y => x &&& y),
  scal2 .sor 0x04 (fun x y => x ||| y),
  scal2 .sxor 0x05 (fun x y => x ^^^ y),
  scal2 .ssll 0x06 (fun x y => BitVec.ofNat 64 (x.toNat * 2 ^ (y.toNat % 64))),
  scal2 .ssrl 0x07 (fun x y => BitVec.ofNat 64 (x.toNat / 2 ^ (y.toNat % 64))),
  scal2 .ssra 0x08 (fun x y => BitVec.ofInt 64 (x.toInt / 2 ^ (y.toNat % 64))),
  scal2 .smul 0x09 (fun x y => BitVec.ofNat 64 (x.toNat * y.toNat)),
  scal2 .scmpeq 0x0C (fun x y => if x = y then 1 else 0),
  scal2 .scmpltu 0x0D (fun x y => if x.toNat < y.toNat then 1 else 0),
  scal2 .scmplt 0x0E (fun x y => if x.toInt < y.toInt then 1 else 0),
  ⟨.saddi, 0x0A, fun _ c f => sGet c f.a.val + BitVec.ofInt 64 f.imm.toInt⟩,
  ⟨.csrr, 0x0F, fun s c f => controlValue s c (csrIndex f)⟩]

/-! ### Butterflies -/

/-- VBFLY and VIBFLY write groups a and b under the mask; with one group for both the result is unstated, a free value (log 1). -/
def ButterflyHolds (i : Fin 1024 → VField → Instr) (code : Nat) (g : Int → Int → Int → Int × Int) : Prop :=
  ∀ (s t : State) (r : Fin 1024) (f : VField) (iss : Issue), let c := vecView f iss
    Takes s t r iss 0 → VecIs s r code f → (∀ k ∈ [f.a.val, f.b.val, f.c.val], groupOk c k = true) → c.vl ≤ emax c → qmodOk c = true →
    let v (n : Nat) := g (vElem c f.a.val n) (vElem c f.b.val n) (vElem c f.c.val n)
    let q : Int := c.qmod.toNat
    let part (value : Nat → Nat) := fromBeat (ewBits c) (startBeat iss) (underMask c f value)
    (f.a ≠ f.b → ∃ y z, GroupSet (ewBits c) (gsize c) f.a.val (reedAt t r.val).core y (part (fun n => ((v n).1 % q).toNat)) ∧
      GroupSet (ewBits c) (gsize c) f.b.val y z (part (fun n => ((v n).2 % q).toNat)) ∧
      exec (i r f) s = .next (acted t r 0 iss 0 z)) ∧
    (f.a = f.b → ∃ y, GroupSet (ewBits c) (gsize c) f.a.val (reedAt t r.val).core y (part (freeElem t.free (ewBits c))) ∧
      exec (i r f) s = .next (acted t r 0 iss 1 y))

/-- VBFLYI and VIBFLYI work on pairs (i, i + 2^k) of group a whose elements are both active, with twiddle c[i] (R152); a word issued again
goes on at the first beat of the register it was working on (R169). -/
def PairHolds (i : Fin 1024 → VField → Instr) (code : Nat) (g : Int → Int → Int → Int × Int) : Prop :=
  ∀ (s t : State) (r : Fin 1024) (f : VField) (iss : Issue), let c := vecView f iss
    Takes s t r iss 0 → VecIs s r code f → groupOk c f.a.val = true → groupOk c f.c.val = true → c.vl ≤ emax c → qmodOk c = true →
    2 ^ f.k.toNat < 512 / ewBits c →
    let q : Int := c.qmod.toNat
    let h := 2 ^ f.k.toNat
    let v (n : Nat) := g (vElem c f.a.val n) (vElem c f.a.val (n + h)) (vElem c f.c.val n)
    ∃ y, GroupSet (ewBits c) (gsize c) f.a.val (reedAt t r.val).core y (fromBeat (ewBits c) (startBeat iss / 2 * 2) (fun n =>
          if n.testBit f.k.toNat = false ∧ active c f.mask n ∧ active c f.mask (n + h) then some ((v n).1 % q).toNat
          else if n.testBit f.k.toNat = true ∧ active c f.mask (n - h) ∧ active c f.mask n then some ((v (n - h)).2 % q).toNat
          else if active c f.mask n then none
          else if n < c.vl ∧ f.zero then some 0 else none)) ∧
      exec (i r f) s = .next (acted t r 0 iss 0 y)

/-- t = c × b; (a + t, a - t), and (u + b, (u - b) × c) (R150). -/
def forward (a b w : Int) : Int × Int := (a + w * b, a - w * b)
def inverse (a b w : Int) : Int × Int := (a + b, (a - b) * w)

/-! ### VREJ and the scalars of the vector field -/

/-- The values VREJ accepts, in stream order: fields of k bits, cut to the bit length of q, below q (R154). -/
def accepted (c : ReedCore) (f : VField) : List Nat :=
  ((List.range (512 * gsize c / f.k.toNat)).map (fun j =>
    bitWord c f.a.val (j * f.k.toNat) f.k.toNat % 2 ^ (Nat.log2 c.qmod.toNat + 1))).filter (fun v => v < c.qmod.toNat)

/-- The set bits of a mask below VL. -/
def maskBits (c : ReedCore) (k : Nat) : List Nat := (List.range c.vl).filter (fun i => (mGet c (k % 8)).getLsbD i)

/-! ### Memory rows -/

/-- A byte a reed can reach: an offset of operand memory, or an offset of a job page (R142, R145). -/
inductive Cell where
  | op (off : Nat)
  | page (p off : Nat)
  deriving DecidableEq, Repr

/-- The cell of an address, through the windows of `c`. -/
def cellOf (c : ReedCore) (a : BitVec 64) : Option Cell :=
  if a.toNat < 0x8000 then some (.op a.toNat)
  else if a.toNat < 0x18000 then some (.page (c.win.getD ((a.toNat - 0x8000) / 0x4000) 0) ((a.toNat - 0x8000) % 0x4000))
  else none

/-- What a cell holds: operand memory, or the frame that holds the page. -/
def cellByte (c : ReedCore) : Cell → Byte
  | .op off => storeGet c.opmem off
  | .page p off => ((c.frames.find? (fun fr => fr.page = some p)).map (fun fr => storeGet fr.data off)).getD 0

def addrByte (c : ReedCore) (a : BitVec 64) : Byte := ((cellOf c a).map (cellByte c)).getD 0

/-- A memory row: its code, whether it stores, and whether it goes by an index group or a stride. -/
structure MemRow where
  instr : Fin 1024 → MField → Instr
  code : Nat
  store : Bool
  index : Bool
  stride : Bool

/-- The groups the row names: v, and the index group of a gather or scatter. -/
def MemRow.groups (row : MemRow) (f : MField) : List Nat := if row.index then [f.v.val, f.x.val] else [f.v.val]

/-- The active elements and their addresses (R156, R157); a load or store issued again goes on at its saved beat (R200). -/
def MemRow.els (row : MemRow) (c : ReedCore) (f : MField) (beat : Nat) : List (Nat × BitVec 64) :=
  let w := ewBits c / 8
  if row.index then (((List.range 16).map (fun k => 16 * f.seg.val + k)).filter (active c f.mask)).map (fun i =>
    (i, sGet c f.s.val + BitVec.ofNat 64 (vElem c f.x.val i * w)))
  else ((List.range c.vl).filter (fun i => active c f.mask i && decide (beat * 256 ≤ i * ewBits c))).map (fun i =>
    (i, if row.stride then sGet c f.s.val + BitVec.ofNat 64 i * sGet c f.t.val else sGet c f.s.val + BitVec.ofNat 64 (i * w)))

/-- No element meets a fault of R166 (R148 keeps the pages of a whole instruction to two), and the pages they fall in lie in the frames of the
core being made as well. -/
def Reaches (c x : ReedCore) (store : Bool) (align : Nat) (els : List (Nat × BitVec 64)) : Prop :=
  ∀ e ∈ els, elemCause c store align e.2 = none ∧ (∀ p, pageOf c e.2 = some p → (resident x p).isSome = true)

/-- `y` has the frames of `x` but for the order of their use. -/
def SameFrames (x y : ReedCore) : Prop := y.frames.map (fun fr => (fr.page, fr.data, fr.dirty)) = x.frames.map (fun fr => (fr.page, fr.data, fr.dirty))

/-- A load: each active element receives the bytes at its address, lowest first; no other element, register or byte changes. -/
def MemRow.Loads (row : MemRow) : Prop :=
  ∀ (s t : State) (r : Fin 1024) (f : MField) (iss : Issue), let c := memView f iss
    let x := (reedAt t r.val).core
    let els := row.els c f (startBeat iss)
    Takes s t r iss 2 → MemIs s r row.code f → (∀ k ∈ row.groups f, groupOk c k = true) → c.vl ≤ emax c → Reaches c x false (ewBits c / 8) els →
    ∃ y, exec (row.instr r f) s = .next (acted t r 2 iss 0 y) ∧ SameFrames x y ∧
      GroupSet (ewBits c) (gsize c) f.v.val x { y with frames := x.frames, clock := x.clock } (fun i =>
        (els.find? (fun e => e.1 = i)).map (fun e =>
          leNat ((List.range (ewBits c / 8)).map (fun b => addrByte c (e.2 + BitVec.ofNat 64 b)))))

/-- The byte the last of the stores to a cell puts there. -/
def lastStore (c : ReedCore) (w : Nat) (value : Nat → Nat) (els : List (Nat × BitVec 64)) (z : Cell) : Option Byte :=
  els.reverse.findSome? (fun e => ((List.range w).find? (fun b => cellOf c (e.2 + BitVec.ofNat 64 b) = some z)).map (fun b =>
    BitVec.ofNat 8 (value e.1 / 2 ^ (8 * b))))

/-- A store: the bytes of each active element go to its address, and where two name one byte the higher element prevails. Every other byte
of operand memory and of the pages in the frames is unchanged, and no register changes. -/
def MemRow.Stores (row : MemRow) : Prop :=
  ∀ (s t : State) (r : Fin 1024) (f : MField) (iss : Issue), let c := memView f iss
    let x := (reedAt t r.val).core
    let els := row.els c f (startBeat iss)
    Takes s t r iss 2 → MemIs s r row.code f → (∀ k ∈ row.groups f, groupOk c k = true) → c.vl ≤ emax c → Reaches c x true (ewBits c / 8) els →
    ∃ y, exec (row.instr r f) s = .next (acted t r 2 iss 0 y) ∧
      { y with frames := x.frames, clock := x.clock, opmem := x.opmem } = x ∧ y.frames.map Frame.page = x.frames.map Frame.page ∧
      ∀ z, cellByte y z = (lastStore c (ewBits c / 8) (vElem c f.v.val) els z).getD (cellByte x z)

def loadRows : List MemRow := [⟨fun r f => .vld r f false, 1, false, false, false⟩, ⟨.vlds, 3, false, false, true⟩, ⟨.vgather, 5, false, true, false⟩]
def storeRows : List MemRow := [⟨.vst, 2, true, false, false⟩, ⟨.vsts, 4, true, false, true⟩, ⟨.vscatter, 6, true, true, false⟩]

/-- The address of SLD and SST: S[s] plus 8 times the signed offset (R156, R184). -/
def wordAddress (c : ReedCore) (f : MField) : BitVec 64 := sGet c f.s.val + BitVec.ofInt 64 (8 * f.off.toInt)

/-! ### Register reads, ports and sequencing -/

/-- The send is outstanding at the bellows it was granted, its result not ready: it comes 20 cycles after the grant, 8 for the send and 12 for the
bellows (R160). -/
def sent (t : State) (r : Fin 1024) (iss : Issue) (group : Bool) (result : Bytes) : State :=
  let g := iss.grant.getD (0, 0)
  acted t r 3 iss 0 { (reedAt t r.val).core with send := some ⟨group, result, g.1, g.2 + 20, false⟩ }

/-- Lanes of a Keccak state from 200 bytes, words of a SHA state and the bytes of either (R159). -/
def lanes (b : Bytes) (n size w : Nat) : List (BitVec w) := (List.range n).map (fun i => BitVec.ofNat w (leNat ((b.drop (size * i)).take size)))

/-- The registers V(a) to V(a + n - 1) as bytes, lowest first (R130). -/
def regsBytes (c : ReedCore) (a n : Nat) : Bytes := (List.range n).flatMap (fun i => leBytes 64 (vGet c (a + i)).toNat)

/-- A MAU of cluster `k` after the effect of the operation it runs, which counts once (R231). -/
def mauDid (s : State) (k : Nat) (m : Mau) : State :=
  setCluster { s with free := s.free + 2 } k { clusterAt s k with mau := { m with acted := true } }

/-- MAU `k` runs operation `code` and has not computed its effect. -/
def MauRuns (s : State) (c : Fin 64) (code : Nat) (o : MauOp) : Prop :=
  isRunning s = true ∧ (clusterAt s c.val).mau.op = some o ∧ o.op = code ∧ (clusterAt s c.val).mau.acted = false

/-- A row of R231 whose result is a number in A[D]: reductions modulo the modulus in force. -/
structure MauRow where
  instr : Fin 64 → Instr
  code : Nat
  result : Mau → MauOp → Nat

def mauRows : List MauRow := [
  ⟨.mmul, 1, fun m o => mauReg m o.x * mauReg m o.y % m.modulus⟩,
  ⟨.madd, 2, fun m o => (mauReg m o.x + mauReg m o.y) % m.modulus⟩,
  ⟨.msub, 3, fun m o => (((mauReg m o.x : Int) - mauReg m o.y) % (m.modulus : Int)).toNat⟩]

/-- A row of R231 whose result is a point in A[D] and A[D + 1]. -/
structure PointRow where
  instr : Fin 64 → Instr
  code : Nat
  point : Mau → Nat → MauOp → PointRes
  checks : Bool

def pointRows : List PointRow := [
  ⟨.smulg, 8, fun m fr o => selMulG m.curve fr (mauReg m o.x), true⟩,
  ⟨.mauSmul, 9, fun m fr o => selMul m.curve fr (mauReg m o.x) (mauReg m o.y) (mauReg m (o.y + 1)), true⟩,
  ⟨.padd, 11, fun m fr o => selAdd m.curve fr (mauReg m o.x) (mauReg m (o.x + 1)) (mauReg m o.y) (mauReg m (o.y + 1)), false⟩]

/-- The word that has issued ends with its sequencing field: its other fields have all acted, and its sequencing has not been done before a trap
(R191, R199). -/
structure Ends (s t : State) (r : Fin 1024) (iss : Issue) : Prop extends Issues s t r iss where
  fields : fieldsDone t r.val = true
  first : iss.resume.any (fun p => bitOf p.done 5) = false

/-- The word has ended and the reed stands at the next with core `c`. -/
def stepped (s : State) (r : Fin 1024) (c : ReedCore) : State := setReed s r.val { reedAt s r.val with core := c, issue := none }

/-- The conditions of R188's table, on a scalar, a mask's bits below VL and a loop counter. -/
def branchTaken (cond : Nat) (x : BitVec 64) (bits : List Nat) (lc : Nat) : Bool :=
  match cond with
  | 0 => true
  | 1 => x = 0
  | 2 => x ≠ 0
  | 3 => x.getLsbD 63
  | 4 => !x.getLsbD 63 && x ≠ 0
  | 5 => !x.getLsbD 63
  | 6 => x.getLsbD 63 || x = 0
  | 7 => x.getLsbD 0
  | 8 | 9 | 10 | 11 => 2 ≤ lc
  | 12 => bits ≠ []
  | 13 => bits = []
  | _ => false

/-- A micro-trap at level 0 (R194, R195, R198): frame 0 holds the word, and the kernel runs at the cause's entry with an empty stack. The
registers and the job's memory below the frame stay. -/
structure Trapped (x y : ReedCore) (e : Nat) : Prop where
  atLevel : y.level = 1
  atEntry : y.entry = e
  atUpc : y.upc = 0x80 * e
  emptyStack : y.stack = []
  frame : storeGet y.opmem 0x7F04 = BitVec.ofNat 8 e ∧ storeRead y.opmem 0x7F02 2 = leBytes 2 x.upc ∧
    (storeGet y.opmem 0x7F05).getLsbD 0 = true ∧ storeRead y.opmem 0x7F18 8 = (List.range 4).flatMap (fun i => leBytes 2 (x.lc.getD i 0).toNat)
  memory : ∀ a, a < 0x7F00 ∨ 0x7F80 ≤ a → storeGet y.opmem a = storeGet x.opmem a
  others : ({ y with level := x.level, entry := x.entry, upc := x.upc, stack := x.stack, opmem := x.opmem, trapElem := x.trapElem, trapAddr := x.trapAddr } : ReedCore) = x

/-- A wiped reed (R172); a debugger's breakpoints and a defect are no state of a job. -/
def wiped (s : State) (r : Nat) : Reed := { Reed.init with breakpoints := (reedAt s r).breakpoints, defect := (reedAt s r).defect }

/-- A word of reed `r` that has not been opened yet, with one of its five fields, of FIELD_DONE bit `k`, and neither END nor a breakpoint in its
way. -/
structure Alone (s : State) (r : Fin 1024) (k : Nat) : Prop where
  live : isRunning s = true
  runs : reedRuns s r.val = true
  fetched : fetchStalls s r.val = false
  fresh : (reedAt s r.val).issue = none
  one : emptyFields (wordNow s r.val) % 32 = 31 - 2 ^ k
  going : seqOf (wordNow s r.val) ≠ 7
  free : (reedAt s r.val).core.level = 1 ∨ s.lcs.invasive = false

/-- Reed `r` of `s` has taken a micro-trap at entry `e` in `t`, its core from `x` to `y`; nothing else has changed. -/
structure TookTrap (s t : State) (r : Fin 1024) (e : Nat) (y : ReedCore) : Prop where
  trapped : Trapped (reedAt s r.val).core y e
  reed : reedAt t r.val = { reedAt s r.val with core := y, issue := none, run := .running }
  reeds : ∀ k, k ≠ r.val → reedAt t k = reedAt s k
  frame : { t with reeds := s.reeds, free := s.free } = s

/-- A parity error of reed `r`, which runs job `k` (`j`) for the first time: the job is marked for a replay at the first inhale at least 128 cycles
on, and the reed stands at entry 2 with no frame (R177, R178, R180, R195). -/
structure ParityTrap (s t : State) (r : Fin 1024) (k : Nat) (j : Job) : Prop where
  job : tblGet t.jobs k = some { j with
    replayed := true
    replayAt := if s.brt.cycle + 128 ≤ 2 ^ s.brt.log2Len then s.brt.count + 1 else s.brt.count + 2 }
  jobs : ∀ i, i ≠ k → tblGet t.jobs i = tblGet s.jobs i
  reed : (reedAt t r.val).issue = none ∧ (reedAt t r.val).core.level = 1 ∧ (reedAt t r.val).core.entry = 2 ∧ (reedAt t r.val).core.upc = 0x100 ∧
    (reedAt t r.val).core.stack = [] ∧ ∀ a, 0x7F00 ≤ a → a < 0x8000 → storeGet (reedAt t r.val).core.opmem a = 0
  reeds : ∀ q, q ≠ r.val → reedAt t q = reedAt s q

/-- A parity error outside the reed's own memories, in a MAU: the job's units are wiped and it waits for its replay (R177, R178). -/
structure MauParity (s t : State) (k : Nat) (j : Job) : Prop where
  job : tblGet t.jobs k = some { j with
    replayed := true
    replayAt := (if s.brt.cycle + 128 ≤ 2 ^ s.brt.log2Len then s.brt.count + 1 else s.brt.count + 2)
    stage := .replayWait }
  jobs : ∀ i, i ≠ k → tblGet t.jobs i = tblGet s.jobs i
  reeds : ∀ r ∈ unitReeds j.unit, reedAt t r = wiped s r
  others : ∀ r, r ∉ unitReeds j.unit → reedAt t r = reedAt s r

/-! ### Ends, staging and replays -/

/-- The core a trap-return restores from its frame (R200): the return point, the call stack, oldest entry at the bottom, the loop counters, and
VALID cleared. Nothing else changes. -/
structure Returned (x y : ReedCore) : Prop where
  atLevel : y.level = 0 ∧ y.entry = 0
  upc : y.upc = leNat (storeRead x.opmem 0x7F02 2) % 2 ^ 14
  lc : ∀ i, i < 4 → y.lc[i]? = some (BitVec.ofNat 16 (leNat (storeRead x.opmem (0x7F18 + 2 * i) 2)))
  stack : y.stack.length = (storeGet x.opmem 0x7F10).toNat ∧
    ∀ i, i < y.stack.length → i < 4 → y.stack.reverse[i]? = some (leNat (storeRead x.opmem (0x7F08 + 2 * i) 2))
  memory : ∀ a, storeGet y.opmem a = if a = 0x7F05 then storeGet x.opmem a &&& 0xFE else storeGet x.opmem a
  others : ({ y with level := x.level, entry := x.entry, upc := x.upc, stack := x.stack, lc := x.lc, opmem := x.opmem } : ReedCore) = x

/-- Job `k` of reed `r` has posted `res` into its cluster's FIFO and its reed is wiped; no other reed, job or cluster has changed. -/
structure Posted (s t : State) (r k : Nat) (j : Job) (res : JobResult) : Prop where
  job : tblGet t.jobs k = some { j with stage := .posted, result := some res, post := some (r / 16, s.plc.nextPost) }
  fifo : (clusterAt t (r / 16)).fifo = (clusterAt s (r / 16)).fifo ++ [k]
  reed : reedAt t r = wiped s r
  reeds : ∀ q, q ≠ r → reedAt t q = reedAt s q
  jobs : ∀ i, i ≠ k → tblGet t.jobs i = tblGet s.jobs i
  clusters : ∀ c, c ≠ r / 16 → clusterAt t c = clusterAt s c

/-- The statuses a routine may post (R171). -/
def postable : List Status := [.ok, .inputInvalid, .pointNotOnCurve, .paramRejected, .signatureInvalid, .tagMismatch, .keyPolicy, .stateExhausted,
  .invariantFailed]

/-! ### Commands that answer a state -/

/-- The command completes: it answers a next state, of which `P` holds. -/
def Does (c : Instr) (s : State) (P : State → Prop) : Prop := ∃ t, exec c s = .next t ∧ P t

/-- Commands that act in HALTED, or before the device is live: reset and power (R43, R455), tamper (R326), the register reads and the writes of
configuration space of R50, links, resets of a port or function (R49), the management controller and its sensors (R50), the digest port, DDR4
accesses, which a halted engine refuses (R386). -/
def outlives (c : Instr) : Bool := match c with
  | .powerOnReset _ | .powerDown | .sysRstNAssert | .tamperEvent _ | .tamperClear _ => true
  | .brtCountLowRead _ | .belStatusRead _ | .prtPortRead _ _ | .pxtDropsRead _ | .rngSupplyRead _ | .rngWaitRead _ | .mprEccRead _ => true
  | .monAlarmsRead _ | .perstNAssert _ _ | .linkUp _ _ _ | .linkDown _ => true
  | .vfFlr _ _ | .vfEnableSet _ | .d3hotTransition _ _ _ => true
  | .configure _ | .snapshot _ | .snapshotAndClear _ | .disable _ | .getStatus | .readSensors | .readLog _ | .modeRequestRecover => true
  | .modeRequestService | .modeRequestTune _ | .modeRequestHalted _ | .queryChange _ | .setTime _ | .setCak _ | .setEndpointId _ => true
  | .pldmRequestUpdate | .fwSessionTimeout | .sensorSample _ | .voltageFault _ | .thermalComparator _ | .watchdogExpire => true
  | .approve _ | .fwUpdate _ | .fwUpdateFinal _ | .attestSigned _ | .attestShared _ | .attestCheck _ | .lcTransition _ | .domainFound _ => true
  | .domainAdmit _ | .domainRotate _ | .successorExport _ | .rewrap _ | .twinEnrol _ | .debugGrant _ | .migrate _ | .migrateStop _ => true
  | .escrowExport _ | .escrowImport _ | .grantClear _ => true
  | .dgpInit _ _ _ | .dgpFinal _ _ | .dgpFinalDone _ | .dgpClaim _ _ | .dgpRelease _ _ | .dgpData _ _ _ | .dgpData8 _ _ _ => true
  | .dgpBlockAbsorbed _ | .ddrReadComplete _ _ | .ddrLineWrite _ _ _ _ => true
  | _ => false

/-- Commands at which the breath moves: its own two, the pulse that aligns a SHADOW (R31), and reset. -/
def movesBreath (c : Instr) : Bool := match c with
  | .inhale | .exhale | .breathSyncPulse | .powerOnReset _ => true
  | _ => false

/-- The fields of a completion entry (R76), each where the table puts it. -/
structure IsEntry (e : Bytes) (c : Compl) (sqid head : Nat) (phase : Bool) : Prop where
  size : e.length = 32
  tag : le e 0 2 = c.tag.toNat
  status : le e 2 2 = statusCode c.status
  len : le e 4 4 = c.out.length % 2 ^ 32
  breath : le e 8 4 = c.breath % 2 ^ 32
  gen : le e 12 4 = c.gen % 2 ^ 32
  info : le e 16 8 = c.info % 2 ^ 64
  sq : le e 24 2 = sqid % 2 ^ 16
  head : le e 26 2 = head % 2 ^ 16
  zero : slice e 28 3 = [0, 0, 0]
  phase : le e 31 1 = if phase then 0x80 else 0

/-- A completion can be written to its ring: the ring is there, its function is awake, no page of the function has been refused a translation,
and the instance still has the generation it was fetched under. -/
structure CanWrite (s : State) (qp : Qp) (c : Compl) : Prop where
  ring : ringQp s c.ring = some qp
  awake : ringAsleep s c.ring = false
  holds : generationHolds s c = true
  ports : ∀ p, c.ring = .adm p → s.ports.length = 8
  access : ∀ e ∈ (portAt s (ringFn s c.ring).1).noAccess, e.1 ≠ (ringFn s c.ring).2

/-- Nothing holds it behind a fence read, and it asks for none itself (R92). -/
def Unfenced (s : State) (qp : Qp) (c : Compl) : Prop := qp.fence = none ∧ (c.fence = false ∨ relaxedOrder s = false ∨ c.out = [])

/-- Writes of port `p` from address `a` on, in ascending order, that carry `bs`: none longer than `limit`, none across a 4 KiB boundary (R88). -/
def Bursts (p limit : Nat) (ro : Bool) : Nat → Bytes → List Out → Prop
  | _, bs, [] => bs = []
  | a, bs, o :: rest => ∃ n, 1 ≤ n ∧ n ≤ limit ∧ n ≤ bs.length ∧ a % 4096 + n ≤ 4096 ∧ o = .dmaWrite p a ro (bs.take n) ∧
      Bursts p limit ro (a + n) (bs.drop n) rest

/-- The reads of a function of port `p` from address `a` on, in ascending order, that ask for `n` bytes, within the same bounds (R88). -/
def ReadBursts (p fn limit : Nat) : Nat → Nat → List Out → Prop
  | _, n, [] => n = 0
  | a, n, o :: rest => ∃ m, 1 ≤ m ∧ m ≤ limit ∧ m ≤ n ∧ a % 4096 + m ≤ 4096 ∧ o = .dmaRead p fn a m ∧ ReadBursts p fn limit (a + m) (n - m) rest

/-- What was read by function `fn` of port `p`: `n` bytes from `a` on, within Max_Read_Request_Size. -/
def Reads (s t : State) (p fn a n : Nat) : Prop :=
  ∃ l, t.out = l.reverse ++ s.out ∧ ReadBursts p fn (128 * 2 ^ (portAt s p).mrrs) a n l

/-- The reads of `n` slots of a ring from its head on: two requests where the entry wraps (R71, R88). -/
def SlotReads (s t : State) (p fn : Nat) (qp : Qp) (n : Nat) : Prop :=
  let k := min n (2 ^ qp.sqLog2 - qp.head)
  ∃ a b, t.out = (a ++ b).reverse ++ s.out ∧ ReadBursts p fn (128 * 2 ^ (portAt s p).mrrs) (qp.sqBase.toNat + 64 * qp.head) (64 * k) a ∧
    ReadBursts p fn (128 * 2 ^ (portAt s p).mrrs) qp.sqBase.toNat (64 * (n - k)) b

/-- A completion was written: its entry at the ring's next index with the phase of this pass (R77), behind the writes of its output, which have the
chart's Relaxed Ordering, in posted order (R92), and after it at most MSI-X messages (R80). -/
structure Completed (s t : State) (qp : Qp) (c : Compl) (written : Bytes) : Prop where
  entry : ∃ pre e data, t.out = pre ++ .dmaWrite (ringPort s c.ring) (qp.cqBase.toNat + 32 * (qp.wr % 2 ^ qp.cqLog2)) false e :: (data ++ s.out) ∧
    IsEntry e c (ringSqid c.ring) qp.head (qp.wr / 2 ^ qp.cqLog2 % 2 = 0) ∧ (∀ o ∈ pre, ∃ p vf v a d, o = .msix p vf v a d) ∧
    Bursts (ringPort s c.ring) (128 * 2 ^ (portAt s (ringPort s c.ring)).mps) (relaxedOrder s) c.outAddr.toNat written data.reverse
  ring : ∃ m b, ringQp t c.ring = some { qp with wr := qp.wr + 1, out := qp.out - 1, msgDue := m, msgBreath := b }

/-- The mode a waiting transition leads to. -/
def askedMode : ModeReq → Mode
  | .recover => .recover
  | .service => .service
  | .shadow => .shadow
  | .migrate => .migrate

/-- The halt messages of the armed ports, the lowest first (R49). -/
def armedMessages (s : State) : List Out :=
  (List.finRange 8).filterMap (fun p => (portAt s p.val).haltArmed.map (fun m => .haltMsg p.val m.1 m.2))

/-- Only port `p` has changed, to `h`; only instance `i`, to `x`; only ring `g`, to `q`. -/
structure OnlyPort (s t : State) (p : Fin 8) (h : HostPort) : Prop where
  port : portAt t p.val = h
  others : ∀ q : Fin 8, q ≠ p → portAt t q.val = portAt s q.val
  frame : { t with ports := s.ports } = s

structure OnlyInst (s t : State) (i : Nat) (x : Inst) : Prop where
  inst : tblGet t.insts i = some x
  others : ∀ k, k ≠ i → tblGet t.insts k = tblGet s.insts k
  frame : { t with insts := s.insts } = s

structure OnlyQueue (s t : State) (i : Nat) (x : Inst) (q : Nat) (qp : Qp) : Prop where
  inst : ∃ qs, tblGet t.insts i = some { x with queues := qs } ∧ tblGet qs q = some qp ∧ ∀ k, k ≠ q → tblGet qs k = tblGet x.queues k
  others : ∀ k, k ≠ i → tblGet t.insts k = tblGet s.insts k
  frame : { t with insts := s.insts } = s

/-- A read of PF `p`: the value is returned, nothing else happens but what `u` says. -/
def readsAs (u : State) (v : Nat) : State := { u with out := .readData v :: u.out }

/-- A 64-bit register with its low or high word written. -/
def lowWritten (x v : BitVec 64) : BitVec 64 := x.extractLsb' 32 32 ++ v.extractLsb' 0 32
def highWritten (x v : BitVec 64) : BitVec 64 := v.extractLsb' 0 32 ++ x.extractLsb' 0 32

/-- Queue `q` of the instance of VF `vf`, as its doorbells and registers reach it: VF Enable is set and no reset is under way. -/
def HasQueue (s : State) (p : Fin 8) (vf i q : Nat) (x : Inst) (qp : Qp) : Prop :=
  (portAt s p.val).vfEnable = true ∧ vf ≠ 0 ∧ instOf s p.val vf = some (i, x) ∧ tblGet s.insts i = some x ∧ x.state ≠ .resetting ∧
    tblGet x.queues q = some qp

/-- The ring sizes a doorbell is held to: those in force, for a disabled queue 0 the configured ones. -/
def sqSize (x : Inst) (q : Nat) (qp : Qp) : Nat := 2 ^ (if q = 0 ∧ qp.enable = false then x.q0SqLog2 else qp.sqLog2)
def cqSize (x : Inst) (q : Nat) (qp : Qp) : Nat := 2 ^ (if q = 0 ∧ qp.enable = false then x.q0CqLog2 else qp.cqLog2)

/-- An instance in error (R83); in error or under reset a later cause changes nothing. -/
def erred (x : Inst) (cause : Nat) : Inst := if x.state = .active then { x with state := .error, errCause := cause } else x
def admErred (h : HostPort) (cause : Nat) : HostPort :=
  if h.adm.error then h else { h with adm := { h.adm with error := true, errCause := cause } }

/-- A command entry of R64 with the generation and breath of its fetch. -/
def entryCmd (bs : Bytes) (gen breath : Nat) : Cmd :=
  ⟨le bs 0 2, BitVec.ofNat 16 (le bs 2 2), BitVec.ofNat 64 (le bs 8 8), le bs 16 4, zeroAt bs 4 4 && zeroAt bs 20 4, slice bs 24 40, gen, breath, false⟩

/-- An instance charged for `n` bytes (R89: in SERVICE, MIGRATE and SHADOW). -/
def charged (s : State) (x : Inst) (n : Nat) : Inst :=
  if bucketMode s then { x with bucket := x.bucket - ((n * 73728000 : Nat) : Int) } else x

/-- A ring whose device head moved over `n` entries of one submission. -/
def headMoved (qp : Qp) (n : Nat) : Qp := { qp with head := (qp.head + n) % 2 ^ qp.sqLog2, out := qp.out + 1 }

/-- A completion off the ladder of a work queue, due at the next inhale. -/
def bareDue (s : State) (i q : Nat) (tag : BitVec 16) (st : Status) (gen breath : Nat) : Waiting :=
  ⟨⟨.inst i q, tag, st, 0, [], 0, 0, gen, false, breath⟩, 2, 0, s.brt.count + 1⟩

/-- Queue `q` of instance `i` may be fetched from, and it is its turn. -/
def MayFetch (s : State) (i q : Nat) (x : Inst) (qp : Qp) : Prop :=
  isRunning s = true ∧ tblGet s.insts i = some x ∧ tblGet x.queues q = some qp ∧ fetchable s (.inst i q) = true ∧
    ringTurn s (.inst i q) = true ∧ bucketAllows s i 64 = true

/-- Job `k` gathers its input. -/
def Gathering (s : State) (k : Nat) (j : Job) (x : Inst) : Prop :=
  isRunning s = true ∧ tblGet s.jobs k = some j ∧ j.stage = .reading ∧ s.dev.halting = false ∧ tblGet s.insts j.inst = some x ∧
    x.state ≠ .resetting ∧ fnAsleep s x.port.val x.vf = false

/-- A job whose read failed: it leaves with DMA_FAULT and its instance enters ERROR (R83). -/
def GatherLost (s t : State) (k : Nat) (j : Job) (x : Inst) (cause : Nat) : Prop :=
  tblGet t.jobs k = none ∧ tblGet t.insts j.inst = some (erred x cause) ∧
    (j.internal = none → ∃ w, t.waiting = s.waiting ++ [w] ∧ w.c.ring = .inst j.inst j.queue ∧ w.c.tag = j.tag ∧ w.c.status = .dmaFault ∧
      w.c.out = [] ∧ w.due = s.brt.count + 1) ∧ (∀ i, i ≠ j.inst → tblGet t.insts i = tblGet s.insts i) ∧
    ∀ i, i ≠ k → tblGet t.jobs i = tblGet s.jobs i

/-- What refuses an admin command before its own checks (R64, R66, R94). -/
def admRefusal (s : State) (p : Fin 8) (c : Cmd) : Option Status :=
  if c.tag = 0xFFFF then some .inputInvalid
  else if 6 ≤ c.opcode ∧ c.opcode ≤ 0xA ∧ (portAt s p.val).global = false then some .keyPolicy
  else if admActs s.dev.mode c.opcode = false then some .inputInvalid
  else if c.reserved = false ∨ (cmdReads c.opcode = true ∧ cmdLenOk c.opcode c.dataLen = false) then some .inputInvalid else none

/-- Command `c` stands at the front of port `p`'s admin queue, a known command (if any) behind it. -/
structure AdmFront (s : State) (p : Fin 8) (c : Cmd) (data : Option Bytes) : Prop where
  live : isRunning s = true
  ports : s.ports.length = 8
  queue : ∃ rest, (portAt s p.val).adm.q = ⟨c :: rest, data⟩ ∧ ∀ x ∈ rest.head?, 1 ≤ x.opcode ∧ x.opcode ≤ 0xB
  fresh : c.started = false

/-- It is `op`, nothing refuses it, and it has read its data. -/
def AdmRuns (s : State) (p : Fin 8) (op : Nat) (c : Cmd) (d : Bytes) : Prop :=
  c.opcode = op ∧ admRefusal s p c = none ∧ ∃ data, AdmFront s p c data ∧ d = data.getD [] ∧ (cmdWantsData c = true → d.length = c.dataLen)

/-- The completion of an admin command (R76). -/
def admResult (p : Fin 8) (c : Cmd) (st : Status) (out : Bytes) (info : Nat) : Compl :=
  ⟨.adm p, c.tag, st, c.dataAddr, out, info, 0, 0, false, c.fetched⟩

/-- The front command leaves; its completion is due at the next inhale (R65). -/
def admLeft (s : State) (p : Fin 8) : State :=
  modPort s p.val (fun h => { h with adm := { h.adm with q := ⟨h.adm.q.cmds.drop 1, none⟩ } })
def admEnds (s : State) (p : Fin 8) (c : Cmd) (st : Status) (out : Bytes) (info : Nat) : State :=
  { admLeft s p with waiting := s.waiting ++ [⟨admResult p c st out info, 4, p.val, s.brt.count + 1⟩] }

/-- As `admEnds`, its effect mirrored on a pair whose link is up: the completion waits for the record's acknowledgement (R412), until when the
command stays in front of those behind it (R65). -/
def admMirrored (s : State) (p : Fin 8) (c : Cmd) (kind : Nat) (body : Bytes) (info : Nat) : State :=
  if s.twn.role = 1 ∧ s.twn.linkKey.isSome = true ∧ s.brt.count < s.twn.lastRecord + 16 then
    { modPort s p.val (fun h => { h with adm := { h.adm with q := startCmd h.adm.q } }) with twn := { s.twn with
      toSend := s.twn.toSend ++ [(kind, body)]
      waits := s.twn.waits ++ [⟨s.twn.nextSeq + s.twn.toSend.length, admResult p c .ok [] info, 4, p.val⟩] } }
  else admEnds s p c .ok [] info

/-- The commands of an admin queue, by opcode. -/
def admCommands (p : Fin 8) : List (Nat × Instr) := [(1, .createInstance p), (2, .destroyInstance p), (3, .resetInstance p), (4, .setRate p),
  (5, .query p), (6, .chartDelta p), (7, .approve (.port p)), (8, .importDomain p), (9, .enrollOfficer p)]

/-- An instance whose reset was requested now, for the command of port `p` with tag `tag` (R86, R87). -/
structure ResetAsked (s t : State) (i : Nat) (x : Inst) (w : ResetWait) : Prop where
  inst : ∃ y, tblGet t.insts i = some y ∧
    (x.reset = none → y.reset = some ⟨if s.brt.exhale then s.brt.count + 1 else s.brt.count, false, [w]⟩ ∧
      (s.brt.exhale = false → y.state = .resetting ∧ y.gen = if x.drain then x.gen else (x.gen + 1) % 2 ^ 32) ∧
      (s.brt.exhale = true → y = { x with reset := y.reset })) ∧
    ∀ r, x.reset = some r → y = { x with reset := some { r with waiters := r.waiters ++ [w] } }
  others : ∀ k, k ≠ i → tblGet t.insts k = tblGet s.insts k
  front : t.ports = (modPort s w.port.val (fun h => { h with adm := { h.adm with q := startCmd h.adm.q } })).ports
  waiting : x.drain = false → t.waiting = s.waiting
  frame : { t with insts := s.insts, ports := s.ports, waiting := s.waiting } = s

/-- A change may be staged by a carrier (R68, R358): fewer than 4 of its own wait, and a nonce can be drawn. -/
def MayStage (s : State) (c : Carrier) : Prop := s.rng.alarm = false ∧ stagedOf s c < 4 ∧ s.changes.live.length < 65536

/-- The CHANGE_ID a new change gets (R67): the next number whose low 16 bits no change that waits has. -/
def NewId (s : State) (id : Nat) : Prop :=
  s.changes.next ≤ id ∧ (∀ e ∈ s.changes.live, e.1 % 65536 ≠ id % 65536) ∧
    ∀ n, s.changes.next ≤ n → n < id → ∃ e ∈ s.changes.live, e.1 % 65536 = n % 65536

/-- A change staged under a number, with a free nonce (R67, R68, R399). -/
def staged (s : State) (id : Nat) (kind : ChangeKind) (c : Carrier) (data params : Bytes) : State :=
  { s with
    changes := ⟨tblPut s.changes.live id ⟨kind, c, sha3_256 data, bvBytes 32 (Config.freeWord 256 s.free), s.brt.count + 2 ^ 28, none, [], data, params⟩, id + 1⟩
    free := s.free + 1 }

/-- An event was logged (R435). -/
def Logged (s t : State) (code : Nat) : Prop :=
  t.mgc.logSeq = s.mgc.logSeq + 1 ∧ ∀ r ∈ t.mgc.ring.head?, r.code = code ∧ r.seq = s.mgc.logSeq ∧ r.breath = s.brt.count

/-- Command `c` on port `p` approves change `x`, of number `id`, as officer `o` with signature `sig`, which verifies (R68, R399). -/
structure Approves (s : State) (p : Fin 8) (c : Cmd) (id o : Nat) (sig : Bytes) (x : Change) : Prop where
  runs : AdmRuns s p 7 c sig
  names : id = le c.params 0 4 ∧ o = byteAt c.params 4 ∧ zeroAt c.params 5 35 = true
  change : tblGet s.changes.live id = some x
  inTime : s.brt.count < x.expiry
  officer : o < 16
  verifies : approvalVerifies s id x o sig = true

/-- The APPROVE completed with `info` approvals held. -/
def Approved (s t : State) (p : Fin 8) (c : Cmd) (st : Status) (info : Nat) : Prop :=
  t.waiting = s.waiting ++ [⟨admResult p c st [] info, 4, p.val, s.brt.count + 1⟩] ∧ t.ports = (admLeft s p).ports

/-- Command `c` stands at the front of queue 0's commands of instance `i` (`x`), and it is `op`; nothing refuses it (R64) and its data is read. -/
structure CtlFront (s : State) (i op : Nat) (c : Cmd) (data : Option Bytes) (x : Inst) : Prop where
  live : isRunning s = true
  inst : tblGet s.insts i = some x
  queue : ∃ rest, x.ctl = ⟨c :: rest, data⟩ ∧ ∀ y ∈ rest.head?, 0x81 ≤ y.opcode ∧ y.opcode ≤ 0x8A
  op : c.opcode = op
  fresh : c.started = false

def CtlRuns (s : State) (i op : Nat) (c : Cmd) (d : Bytes) (x : Inst) : Prop :=
  c.tag ≠ 0xFFFF ∧ c.reserved = true ∧ (cmdReads op = true → cmdLenOk op c.dataLen = true) ∧
    ∃ data, CtlFront s i op c data x ∧ d = data.getD [] ∧ (cmdWantsData c = true → d.length = c.dataLen)

/-- The completion of a control command (R76), its end at the next inhale, and its end where its effect is mirrored (R412). -/
def ctlResult (i : Nat) (c : Cmd) (st : Status) (out : Bytes) (info : Nat) : Compl :=
  ⟨.inst i 0, c.tag, st, c.dataAddr, out, info, 0, c.gen, false, c.fetched⟩
def ctlLeft (s : State) (i : Nat) : State := modInst s i (fun y => { y with ctl := ⟨y.ctl.cmds.drop 1, none⟩ })
def ctlEnds (s : State) (i : Nat) (c : Cmd) (st : Status) (out : Bytes) (info : Nat) : State :=
  { ctlLeft s i with waiting := s.waiting ++ [⟨ctlResult i c st out info, 3, i, s.brt.count + 1⟩] }
def ctlMirrored (s : State) (i : Nat) (c : Cmd) (kind : Nat) (body : Bytes) (info : Nat) : State :=
  if s.twn.role = 1 ∧ s.twn.linkKey.isSome = true ∧ s.brt.count < s.twn.lastRecord + 16 then
    { modInst s i (fun y => { y with ctl := startCmd y.ctl }) with twn := { s.twn with
      toSend := s.twn.toSend ++ [(kind, body)]
      waits := s.twn.waits ++ [⟨s.twn.nextSeq + s.twn.toSend.length, ctlResult i c .ok [] info, 3, i⟩] } }
  else ctlEnds s i c .ok [] info

/-- The command has begun and waits. -/
def ctlBegun (s : State) (i : Nat) : State := modInst s i (fun y => { y with ctl := startCmd y.ctl })

/-- The control commands, by opcode. -/
def ctlCommands (i : Nat) : List (Nat × Instr) := [(0x81, .createQueue i), (0x82, .destroyQueue i), (0x83, .createStream i),
  (0x84, .destroyStream i), (0x85, .streamRekey i), (0x86, .loadKey i), (0x87, .unloadKey i), (0x88, .exportContext i), (0x89, .importContext i),
  (0x8A, .queryInstance i)]

/-- A slot as a command fills it (R327, R330): short keys in the slot, padded; longer ones in the store, the slot holding their descriptor. -/
structure Filled (s : State) (y : Slot) (i alg usage policy kind : Nat) (key : Bytes) : Prop where
  fields : y.alg = alg ∧ y.usage = usage ∧ y.policy = policy ∧ y.kind = kind ∧ y.owner = i ∧ y.keyLen = key.length
  state : y.corrupt = false ∧ y.reserved = false ∧ y.freeing = none
  short : key.length ≤ 64 → y.key = padTo 64 key ∧ y.material = []
  long : 64 < key.length → y.material = key ∧ y.key = padTo 64 (leBytes 4 key.length ++ zeros 4 ++ leBytes 8 y.handle ++ sha3_256 key ++ zeros 16)
  tag : y.tag = slotTag s y

/-- The job's instance is not being reset (R86). -/
def Standing (s : State) (j : Job) : Prop := ∃ x, tblGet s.insts j.inst = some x ∧ x.state ≠ .resetting

/-- Job `k` is whole and waits for its parse. -/
def Parses (s : State) (k : Nat) (kind : JobKind) (j : Job) : Prop :=
  isRunning s = true ∧ s.dev.halting = false ∧ tblGet s.jobs k = some j ∧ j.stage = .ready ∧ j.kind = kind ∧ Standing s j

/-- Job `k` (`j`) ends off the ladder: it leaves the table, and where a host submitted it its completion is due at the inhale of `due`. -/
def JobEnds (s t : State) (k : Nat) (j : Job) (st : Status) (out : Bytes) (info due : Nat) : Prop :=
  tblGet t.jobs k = none ∧ (∀ i, i ≠ k → tblGet t.jobs i = tblGet s.jobs i) ∧ (j.internal = none → t.waiting = s.waiting ++
    [⟨⟨.inst j.inst j.queue, j.tag, st, BitVec.ofNat 64 (jOutAddr j), out, info, 0, j.gen, jFence j, j.breath⟩, 2, 0, due⟩])

/-- The rows of a PK_JOB by OP. -/
def pkRows : List (Nat × (Nat → Instr)) := [(1, .keygen), (2, .encaps), (3, .decaps), (4, .sign), (5, .verify), (6, .agree), (7, .treeBuild),
  (8, .loadCurve)]

/-- A job admitted on a routine: its pool, class and budget in force, its pages, its input at offset 0 of its job space (R104, R144). -/
def onRoutine (s : State) (j : Job) (r : RoutineSec) (rid p : Nat) : Job :=
  { j with
    stage := .pending
    rid := rid
    pool := p
    cls := routineClass r
    budget := routineBudget s r
    pages := r.jobPages
    space := storeWrite [] 0 j.input }

/-- The context a CIPHER_JOB names (R274). -/
def ctxKey (j : Job) : Nat := j.inst * 4096 + jContext j

/-- The pool of a cluster in a chart (R101, R104). -/
def poolIn (c : Option Chart) (k : Nat) : Option Nat := c.bind (fun ch => (ch.pools.find? (fun p => bitOf p.mask k)).map PoolCfg.id)

/-- A ceiling was asked of the journal (R251, R434): its record is written at once where the journal is free, else it waits. -/
def Journalled (s t : State) (f : JournalFor) (typ : Nat) (subject : Bytes) (n : Nat) : Prop :=
  let j := s.bore.journal
  let head := leBytes 2 typ ++ zeros 2 ++ leBytes 4 (nextSequence s) ++ subject ++ leBytes 8 n ++ zeros 16
  (j.present = true → j.write = none → j.queue = [] →
    t.bore.journal = { j with write := some (f, head ++ kmac256 (journalKey s) head 16 []) }) ∧
  (j.write.isSome = true → t.bore.journal = { j with queue := j.queue ++ [(f, n)] })

/-! ### The bore and the fabric -/

/-- Only stream `sid` has changed, to `y`; only flow `e`, to `g`; only fabric port `p`, to `y`. -/
structure OnlyStream (s t : State) (sid : Nat) (y : Machine.Stream) : Prop where
  stream : streamAt t sid = some y
  others : ∀ k, k ≠ sid → streamAt t k = streamAt s k
  frame : { t with bore := { t.bore with streams := s.bore.streams } } = s

structure OnlyFlow (s t : State) (e : Nat) (g : Machine.Flow) : Prop where
  flow : flowAt t e = some g
  others : ∀ k, k ≠ e → flowAt t k = flowAt s k
  frame : { t with bore := { t.bore with flows := s.bore.flows } } = s

structure OnlyFab (s t : State) (p : Nat) (y : FabPort) : Prop where
  port : fabPort t p = y
  others : ∀ q, q ≠ p → fabPort t q = fabPort s q
  frame : { t with pxt := { t.pxt with ports := s.pxt.ports } } = s

/-- Operation `o` has come to `y`, and flow `e` to `g`; no other operation, flow or stream has changed. -/
structure OpFlow (s t : State) (o : Nat) (y : HopOp) (e : Nat) (g : Machine.Flow) : Prop where
  op : tblGet t.pxt.ops o = some y
  flow : flowAt t e = some g
  ops : ∀ k, k ≠ o → tblGet t.pxt.ops k = tblGet s.pxt.ops k
  flows : ∀ k, k ≠ e → flowAt t k = flowAt s k
  jobs : t.jobs = s.jobs

/-- A frame of port `p` leaves at once: the link is up, nothing waits, the priority is not paused, no MACsec. -/
def SendsNow (s : State) (p : Nat) (f : FabCfg) : Prop :=
  fabCfg s p = some f ∧ (fabPort s p).linkUp = true ∧ (fabPort s p).txq = [] ∧ bitOf (fabPort s p).xoffRcvd f.pcp = false ∧ f.macsec = false

/-- Message `m` of type `typ` arrives on a port that serves, by a carriage the port takes, and passes R297's checks. -/
structure Arrives (s : State) (x : PxtIn) (typ : Nat) (plain : Bool) (m : PxtMsg) : Prop where
  live : isRunning s = true
  serves : fabricServes s = true
  steady : s.dev.halting = false
  port : ∃ f, fabCfg s x.fport.val = some f ∧ plain = decide (f.role = 1) ∧ carriageOk f x.carriage.val = true
  up : (fabPort s x.fport.val).linkUp = true
  form : pxtFormOk plain (unpad x.carriage.val x.msg) = true
  message : m = pxtOfBytes (unpad x.carriage.val x.msg)
  kind : byteAt x.msg 0 % 16 = typ ∧ m.typ = typ

/-- It comes from the gateway of a PRESERVE stream whose entry is cached (R243, R294). -/
structure FromGateway (s : State) (x : PxtIn) (m : PxtMsg) (st : Machine.Stream) : Prop where
  stream : streamAt s m.sid = some st
  cls : st.cls = .preserve
  side : st.plainPort = x.fport.val ∧ st.carriage = x.carriage.val
  bound : ∀ p, st.bound = some p → peerIs x.carriage.val p x.src = true
  cached : st.cached = true
  own : m.node = false

/-- It names operation `o` of the stream's plain hop, here `op`, of flow `f`. -/
def NamesOp (s : State) (m : PxtMsg) (o : Nat) (op : HopOp) (f : Machine.Flow) : Prop :=
  plainOp s m = some (o, op) ∧ tblGet s.pxt.ops o = some op ∧ flowAt s op.flow = some f

/-- The types of R296, with the rows they arrive by. -/
def pxtRows : List (Nat × (PxtIn → Instr)) := [(1, .putBegin), (2, .putData), (3, .putEnd), (4, .getReq), (5, .getData), (7, .ack), (8, .nak),
  (9, .credit), (10, .flush), (11, .keepalive)]

/-! ### Randomness, the digest port, memory -/

/-- A controlled halt has begun with `cause` (R46, R47). -/
def haltBegun (s : State) (cause : Nat) : Dev :=
  { s.dev with
    halting := true
    haltCause := cause
    haltImmediate := false
    haltBreath := s.brt.count
    haltFlushed := false
    modeReq := none
    quiesce := none
    tuneReq := none }

/-- The device has halted at once for a memory fault (R48, R386): keys erased, the fault kept. -/
structure MemHalted (t : State) (cause kind r line : Nat) : Prop where
  mode : t.dev.mode = .halted ∧ t.dev.haltImmediate = true ∧ t.dev.haltCause = cause ∧ t.dev.haltN = false
  keys : t.mpr.keysReady = false ∧ ∀ x ∈ t.mpr.ranges, x.key = [] ∧ x.oldKey = none
  fault : ∃ f, t.mpr.fault = some f ∧ f.kind = kind ∧ f.range = r ∧ f.line = line % 2 ^ 35

/-- Agent `a` can write to the digest port (R50, R359). -/
def DgpMay (s : State) : DgpAgent → Prop
  | .pf p => isRunning s = true ∧ (portAt s p.val).formed = true
  | .mgmt => isLive s = true

/-- Only digest context `c` has changed, to `d`. -/
structure OnlyDgp (s t : State) (c : Nat) (d : Dgp) : Prop where
  ctx : dgpAt t c = d
  others : ∀ k, k ≠ c → dgpAt t k = dgpAt s k
  frame : { t with dgp := s.dgp } = s

/-- Context `c` takes bytes of a job: it is the agent's, its job runs, no block is being absorbed. -/
def DgpTakes (s : State) (a : DgpAgent) (c : Nat) : Prop :=
  DgpMay s a ∧ (dgpAt s c).owner = some a ∧ (dgpAt s c).started = true ∧ (dgpAt s c).finalised = false

/-- A context after `bs` joined its message: BUSY sets where a block of its algorithm is complete. -/
def dgpTaken (d : Dgp) (bs : Bytes) : Dgp :=
  let n := dgpBlock d.jobAlg
  { d with msg := d.msg ++ bs, busy := decide ((d.msg ++ bs).length / n ≠ d.msg.length / n) }

/-- A line as the engine stores plaintext `pt` under given counters and key. -/
def storedAs (key : Bytes) (major minor r line : Nat) (pt : Bytes) : StoredLine :=
  ⟨lineCrypt key major minor r line pt, lineTag key major minor r line (lineCrypt key major minor r line pt)⟩

/-! ### Mailbox requests -/

/-- The mailbox `c` holds the whole request `q` of kind `k`, which waits to run (R335, R401). -/
structure BoxHolds (s : State) (c : Carrier) (k : Nat) (q : Bytes) : Prop where
  live : isRunning s = true
  boxes : s.wchBox.length = 8 ∧ s.lcsBox.length = 8
  request : (boxAt s c).busy = true ∧ (boxAt s c).req = some q ∧ q.length = (boxAt s c).reqLen
  kind : le q 0 2 = k

/-- The request ends: its status and output are written from the next inhale on. -/
def boxEnded (s : State) (c : Carrier) (st : Status) (out : Bytes) : State :=
  modBox s c (fun b => { b with req := none, ends := b.ends ++ [⟨(boxAt s c).outAddr.toNat, out, st, none, s.brt.count + 1⟩] })

/-- The request is staged under CHANGE_ID `id` (R338): its mailbox is free again and shows the number. -/
def boxStagedAs (s : State) (c : Carrier) (id : Nat) (kind : ChangeKind) (q : Bytes) : State :=
  modBox (staged s id kind c q (leBytes 8 (boxAt s c).outAddr.toNat ++ leBytes 4 (boxAt s c).outLen)) c (fun b =>
    { b with busy := false, req := none, change := id })

/-- The kinds that are staged: number, command, change, and what must hold of the request. -/
structure BoxKind where
  code : Nat
  box : Fin 8 → Carrier
  cmd : Fin 8 → Instr
  kind : ChangeKind
  good : State → Fin 8 → Bytes → Prop

/-- The output buffer of the custody mailbox, or of the windchest's. -/
def lcsRoom (s : State) (p : Fin 8) : Nat := (s.lcsBox.getD p.val Mailbox.init).outLen
def wchRoom (s : State) (p : Fin 8) : Nat := (s.wchBox.getD p.val Mailbox.init).outLen

/-- Kinds 1 to 3 of the windchest (R341 to R343): a GLOBAL port, in SERVICE, MIGRATE or RECOVER, for an instance of the port. -/
def WchMay (s : State) (p : Fin 8) (q : Bytes) : Prop :=
  64 ≤ q.length ∧ zeroAt q 5 3 = true ∧ zeroAt q 10 6 = true ∧ zeroAt q 48 16 = true ∧ (portAt s p.val).global = true ∧
    (s.dev.mode = .service ∨ s.dev.mode = .migrate ∨ s.dev.mode = .recover) ∧
    ∃ x, tblGet s.insts (le q 2 2) = some x ∧ x.port = p

/-- A custody request with `n` bytes of data and zeros behind them. -/
def LcsForm (q : Bytes) (n : Nat) : Prop := 32 + n ≤ q.length ∧ zeroAt q 4 28 = true ∧ allZero (q.drop (32 + n)) = true

/-- SERVICE, MIGRATE or RECOVER, on a GLOBAL port. -/
def LcsServes (s : State) (p : Fin 8) : Prop :=
  (portAt s p.val).global = true ∧ (s.dev.mode = .service ∨ s.dev.mode = .migrate ∨ s.dev.mode = .recover)

def IsBoxKind (k : BoxKind) : Prop :=
  k = ⟨1, .wch, .escrowExport, .escrowExport, fun s p q => WchMay s p q ∧ ∃ h key, escrowCheck s q = .ok (h, key) ∧
    64 + (maskOfficers (le q 8 2)).length * (8 + envelopeLen (40 + h.keyLen)) ≤ wchRoom s p⟩ ∨
  k = ⟨2, .wch, .escrowImport, .escrowImport, fun s p q => WchMay s p q ∧ importOk s q = true ∧ canWriteBlob s = true ∧
    blobLen (byteAt q 117) ≤ wchRoom s p⟩ ∨
  k = ⟨3, .wch, .grantClear, .grantClear, fun s p q => WchMay s p q ∧ canWriteBlob s = true ∧ q.length - 64 ≤ wchRoom s p ∧
    ∃ h key, ownedBlob s (le q 2 2) (q.drop 64) = .ok (h, key) ∧ h.kind = 0⟩ ∨
  k = ⟨1, .lcs, fun p => .lcTransition (.port p), .lcTransition, fun s p q => LcsForm q 1 ∧ s.dev.mode ≠ .boot ∧
    ((portAt s p.val).global = true ∨ byteAt q 32 = 4 ∨ byteAt q 32 = 5) ∧ lcAllowed s (byteAt q 32) = none⟩ ∨
  k = ⟨2, .lcs, fun p => .domainFound (.port p), .domainFound, fun s p q => LcsForm q 12 ∧ (portAt s p.val).global = true ∧
    (s.dev.mode = .service ∨ s.dev.mode = .tune) ∧ le q 32 8 ≠ 0 ∧ le q 40 4 < 2 ^ 18 ∧ s.dom.id = 0⟩ ∨
  k = ⟨3, .lcs, fun p => .domainAdmit (.port p), .domainAdmit, fun s p q => LcsServes s p ∧ 32 ≤ q.length ∧ zeroAt q 4 28 = true ∧
    le q 32 4 < 2 ^ 18 ∧ recipientOk (q.drop 36) = true ∧ domainUsable s = true ∧ packageLen s true ≤ lcsRoom s p⟩ ∨
  k = ⟨4, .lcs, fun p => .domainRotate (.port p), .domainRotate, fun s p q => LcsServes s p ∧ LcsForm q 0 ∧ domainUsable s = true ∧
    s.dom.gens.length < 64⟩ ∨
  k = ⟨5, .lcs, fun p => .successorExport (.port p), .successorExport, fun s p q => LcsServes s p ∧ 32 ≤ q.length ∧ zeroAt q 4 28 = true ∧
    recipientOk (q.drop 32) = true ∧ domainUsable s = true ∧ packageLen s false ≤ lcsRoom s p⟩ ∨
  k = ⟨6, .lcs, fun p => .rewrap (.port p), .rewrap, fun s p q => LcsServes s p ∧ 48 ≤ q.length ∧ zeroAt q 4 28 = true ∧ zeroAt q 33 1 = true ∧
    zeroAt q 36 4 = true ∧ ∃ b, rewrapBlob s q = .ok b ∧ b.length ≤ lcsRoom s p⟩ ∨
  k = ⟨7, .lcs, fun p => .twinEnrol (.port p), .twinEnrol, fun s p q => LcsForm q 36 ∧ (portAt s p.val).global = true ∧
    (s.dev.mode = .service ∨ s.dev.mode = .tune ∨ s.dev.mode = .recover) ∧ le q 64 4 / 2 ^ 18 % 2 ^ 13 = 0⟩ ∨
  k = ⟨8, .lcs, fun p => .debugGrant (.port p), .debugGrant, fun s p q => LcsForm q 0 ∧ (portAt s p.val).global = true ∧ s.dev.mode ≠ .boot ∧
    lcNow s = 3⟩ ∨
  k = ⟨9, .lcs, fun p => .migrate (.port p), .migrate, fun s p q => (portAt s p.val).global = true ∧ s.dev.mode = .service ∧
    planOk s (.lcs p) q = true⟩

/-- A record of OTP programmed for a life-cycle target (R392 to R394), in force at the next reset. -/
def lcWritten (s : State) (i target : Nat) : Lcs :=
  { s.lcs with
    records := listSet s.lcs.records i ⟨BitVec.ofNat 64 (2 ^ lcTargetBit target), lcStateWord target, BitVec.allOnes 64⟩
    pendingTarget := target }

/-- What a Renotte authorisation signs (R390, R399): the approval message of a change of kind `kind` for `target`, with the device's nonce. -/
def renotteMessage (s : State) (kind target : Nat) : Bytes :=
  leBytes 4 0x56525041 ++ [1] ++ leBytes 1 kind ++ zeros 2 ++ leBytes 4 s.changes.next ++ zeros 4 ++ leBytes 8 s.dom.id ++
    leBytes 8 (s.brt.count + 2 ^ 28) ++ sha3_256 (leBytes 1 target) ++ bvBytes 32 (Config.freeWord 256 s.free)

/-! ### The twin and the management controller -/

/-- The records of R411, by type, with the rows they arrive by. A Prop over the rows: each is named once. -/
def EachRecord (P : Nat → (TwinIn → Instr) → Prop) : Prop :=
  P 1 .heartbeat ∧ P 2 .align ∧ P 3 .domain ∧ P 4 .chart ∧ P 5 .instanceRec ∧ P 6 .stream ∧ P 7 .slot ∧ P 8 .reserve ∧ P 9 .snapshotEnd

/-- Record `t` arrives on a keyed link, its tag good, next in order. -/
def TwinNext (s : State) (t : TwinIn) : Prop :=
  isRunning s = true ∧ s.twn.linkKey.isSome = true ∧ t.tagOk = true ∧ t.seq = s.twn.ackIn.elim 0 (· + 1) + s.twn.inbox.length

/-- A record waits for the next inhale. -/
def boxed (s : State) (kind : Nat) (t : TwinIn) : Twn :=
  { s.twn with lastRecord := s.brt.count, inbox := s.twn.inbox ++ [⟨kind, t.breath.toNat, t.seq, t.body⟩] }

/-- MCTP is answered and nothing else happens. -/
def mctpSaid (s : State) (st : Status) (body : Bytes) : State := { s with out := .mctp st body :: s.out }

/-- MCTP commands act: the device is live and not scrapped (R50, R388). -/
def MctpActs (s : State) : Prop := isLive s = true ∧ lcNow s ≠ 5

/-- The evidence of a takeover has arisen (R417, R418). -/
def evident (s : State) : Twn := { s.twn with takeover := true, evidence := some s.brt.count }

end Sys2Proof.Rows

open Sys2Proof Sys2Proof.Machine Sys2Proof.Safety Sys2Proof.Rows

/-- The rows of the vector field that work element by element, integer, modulo QMOD (R136, R150, R151) and over GF(2) (R137, R150): under the
mask each element receives the result of the table, and nothing else changes. -/
def Obligations.VectorElementRows : Prop :=
  (∀ row ∈ Sys2Proof.Rows.integerRows, row.Holds) ∧ (∀ row ∈ Sys2Proof.Rows.modularRows, row.Holds) ∧ ∀ row ∈ Sys2Proof.Rows.polynomialRows, row.Holds

/-- The whole-group rows and the butterflies, which compute both halves modulo q, between groups and inside a group (R151, R169). -/
def Obligations.VectorWholeGroupRows : Prop :=
  (∀ row ∈ Sys2Proof.Rows.wholeGroupRows, row.Holds) ∧
  ButterflyHolds .vbfly 0x24 forward ∧ ButterflyHolds .vibfly 0x25 inverse ∧ PairHolds .vbflyi 0x26 forward ∧ PairHolds .vibflyi 0x27 inverse

/-- The rows that write mask registers. -/
def Obligations.MaskRows : Prop := ∀ row ∈ Sys2Proof.Rows.maskRows, row.Holds

/-- The scalar field (R155): the codes that write a whole register, SLI, a half-word of one, and CSRW, the control registers with their read-only
fields (R135). A WIN that names a page not resident, none of whose stagings is under way, starts staging it (R197). SNOP does nothing. -/
def Obligations.ScalarRows : Prop :=
  (∀ row ∈ Sys2Proof.Rows.scalarRows, row.Holds) ∧
  (∀ (s t : State) (r : Fin 1024) (f : SField) (iss : Issue), let c := iss.before
    let x := (reedAt t r.val).core
    let n := (sGet c f.a.val).toNat
    let i := csrIndex f
    let w (y : ReedCore) : State := acted t r 1 iss 0 y
    (Issues s t r iss → ScalIs s r 0x00 f → exec (.snop r f) s = .next t) ∧
    (Takes s t r iss 1 → ScalIs s r 0x0B f → ∃ y v, ScalarSet f.d.val x y v ∧
      (∀ b, b < 64 → v.getLsbD b = if 16 * f.sh.val ≤ b ∧ b < 16 * f.sh.val + 16 then f.imm.getLsbD (b - 16 * f.sh.val)
        else (sGet c f.d.val).getLsbD b) ∧
      exec (.sli r f) s = .next (w y)) ∧
    (Takes s t r iss 1 → ScalIs s r 0x10 f →
      (i = 0x00 → exec (.csrw r f) s = .next (w { x with ew := if n % 4 = 3 then x.ew else n % 4, log2g := n / 4 % 4 })) ∧
      (i = 0x01 → exec (.csrw r f) s = .next (w { x with vl := n % 512 })) ∧
      (i = 0x02 → exec (.csrw r f) s = .next (w { x with qmod := BitVec.ofNat 64 n })) ∧
      (i = 0x03 → exec (.csrw r f) s = .next (w { x with gfpoly := BitVec.ofNat 64 (n % 2 ^ 17 + 2 ^ 24 * (n / 2 ^ 24 % 2 ^ 5)) })) ∧
      (0x08 ≤ i → i ≤ 0x0B → x.win.length = 4 →
        let y := { x with win := listSet x.win (i - 8) (n % 256) }
        exec (.csrw r f) s = .next (
          if (storeGet x.opmem 0x7E0E).toNat ≤ n % 256 ∨ x.frames.any (fun fr => fr.page = some (n % 256)) ∨
              (reedAt t r.val).staging.any (fun g => g.page = n % 256) then w y
          else modReed (w y) r.val (fun q => { q with staging := q.staging ++ [⟨n % 256, match q.staging with
            | g :: _ => 1 - g.frame
            | [] => oldestFrame x⟩] }))) ∧
      ((0x04 ≤ i ∧ i < 0x08) ∨ 0x0C ≤ i → exec (.csrw r f) s = .next (w x))))

/-- VPACK and VREJ work on the bit stream of a group; VEXT, MPOPC and MFIRST write one scalar register, nothing with VL = 0 (R131); VNOP writes
nothing. -/
def Obligations.VectorStreamRows : Prop :=
  ∀ (s t : State) (r : Fin 1024) (f : VField) (iss : Issue), let c := vecView f iss
    let x := (reedAt t r.val).core
    (Takes s t r iss 0 → VecIs s r 0x34 f → groupOk c f.d.val = true → groupOk c f.a.val = true → c.vl ≤ emax c → f.a ≠ f.d →
      f.k.toNat * c.vl ≤ 512 * gsize c →
      ∃ y, exec (.vpack r f) s = .next (acted t r 0 iss 0 y) ∧ { y with v := x.v } = x ∧
        (∀ j, j < 512 * gsize c → streamBit y f.d.val j =
          if j < f.k.toNat * c.vl then ((underMask c f (vElem c f.a.val) (j / f.k.toNat)).map (fun v => v.testBit (j % f.k.toNat))).getD
              (streamBit x f.d.val j)
          else streamBit x f.d.val j) ∧
        ∀ k, k < f.d.val ∨ f.d.val + gsize c ≤ k → vGet y k = vGet x k) ∧
    (Takes s t r iss 0 → VecIs s r 0x31 f → groupOk c f.d.val = true → groupOk c f.a.val = true → c.vl ≤ emax c → f.a ≠ f.d → qmodOk c = true →
      1 ≤ f.k.toNat → f.k.toNat ≤ 32 →
      let n0 := (sGet c f.s.val).toNat
      let vs := (accepted c f).take (c.vl - n0)
      (c.vl ≠ 0 → ∃ y z, GroupSet (ewBits c) (gsize c) f.d.val x y (fun i => if n0 ≤ i then vs[i - n0]? else none) ∧
        ScalarSet f.s.val y z (sGet c f.s.val + BitVec.ofNat 64 vs.length) ∧ exec (.vrej r f) s = .next (acted t r 0 iss 0 z)) ∧
      (c.vl = 0 → exec (.vrej r f) s = .next (acted t r 0 iss 0 x))) ∧
    (Takes s t r iss 0 → VecIs s r 0x0F f → groupOk c f.a.val = true → c.vl ≤ emax c →
      (c.vl ≠ 0 →
        ∃ y, ScalarSet f.d.val x y (BitVec.ofNat 64 (if (sGet c f.s.val).toNat < emax c then vElem c f.a.val (sGet c f.s.val).toNat else 0)) ∧
          exec (.vext r f) s = .next (acted t r 0 iss 0 y)) ∧
      (c.vl = 0 → exec (.vext r f) s = .next (acted t r 0 iss 0 x))) ∧
    (∀ e ∈ [(0x45, Instr.mpopc r f, (maskBits c f.a.val).length), (0x46, .mfirst r f, (maskBits c f.a.val).headD 256)],
      Takes s t r iss 0 → VecIs s r e.1 f → c.vl ≤ emax c →
      (c.vl ≠ 0 → ∃ y, ScalarSet f.d.val x y (BitVec.ofNat 64 e.2.2) ∧ exec e.2.1 s = .next (acted t r 0 iss 0 y)) ∧
      (c.vl = 0 → exec e.2.1 s = .next (acted t r 0 iss 0 x))) ∧
    (Issues s t r iss → VecIs s r 0x00 f → exec (.vnop r f) s = .next t)

/-- The vector loads and stores (R156, R157), and SLD and SST, which move 8 bytes, lowest first; none with VL = 0 (R131). -/
def Obligations.MemoryRows : Prop :=
  (∀ row ∈ Sys2Proof.Rows.loadRows, row.Loads) ∧ (∀ row ∈ Sys2Proof.Rows.storeRows, row.Stores) ∧
  ∀ (s t : State) (r : Fin 1024) (f : MField) (iss : Issue), let c := memView f iss
    let x := (reedAt t r.val).core
    let a := wordAddress c f
    Takes s t r iss 2 → c.vl ≤ emax c →
    (MemIs s r 7 f → c.vl ≠ 0 → Reaches c x false 8 [(0, a)] → ∃ y, exec (.sld r f) s = .next (acted t r 2 iss 0 y) ∧ SameFrames x y ∧
      ScalarSet f.t.val x { y with frames := x.frames, clock := x.clock }
        (BitVec.ofNat 64 (leNat ((List.range 8).map (fun b => addrByte c (a + BitVec.ofNat 64 b)))))) ∧
    (MemIs s r 8 f → c.vl ≠ 0 → Reaches c x true 8 [(0, a)] → ∃ y, exec (.sst r f) s = .next (acted t r 2 iss 0 y) ∧
      { y with frames := x.frames, clock := x.clock, opmem := x.opmem } = x ∧ y.frames.map Frame.page = x.frames.map Frame.page ∧
      ∀ z, cellByte y z = (lastStore c 8 (fun _ => (sGet c f.t.val).toNat) [(0, a)] z).getD (cellByte x z)) ∧
    (c.vl = 0 → (MemIs s r 7 f → exec (.sld r f) s = .next (acted t r 2 iss 0 x)) ∧
      (MemIs s r 8 f → exec (.sst r f) s = .next (acted t r 2 iss 0 x)))

/-- KEYRD, RNDRD and MSKRD. A key's bytes go from byte 0, the rest zero (R158); RNDRD takes the next 512 bits of the cluster's DRBG, which are a free
value (log 1); with VL = 0 no register is written (R131). -/
def Obligations.RegisterReads : Prop :=
  ∀ (s t : State) (r : Fin 1024) (f : MField) (iss : Issue), let c := iss.before
    let x := (reedAt t r.val).core
    let put (v : BitVec 512) : ReedCore := if c.vl = 0 then x else vSet x f.v.val v
    let rnd : BitVec 512 := Config.freeWord 512 t.free
    Takes s t r iss 2 → c.vl ≤ emax c →
    (∀ k j y, MemIs s r 9 f → reedJob t r.val = some (k, j) → j.inst ≠ attestInst → jSlot j ≠ noSlot → slotAt t j.inst (jSlot j) = some y →
      ∃ v : BitVec 512, (∀ i, i < 64 → BitVec.ofNat 8 (v.toNat / 2 ^ (8 * i)) = y.key.getD i 0) ∧
        exec (.keyrd r f) s = .next (cacheKey (acted t r 2 iss 1 (put v)) (r.val / 16) (j.inst, jSlot j))) ∧
    (∀ k j, MemIs s r 10 f → reedJob t r.val = some (k, j) → let d := 1 + r.val / 16 % 14
      ∃ u, exec (.rndrd r f) s = .next u ∧ reedAt u r.val = reedAt (acted t r 2 iss 1 (put rnd)) r.val ∧
        tblGet u.jobs k = some { j with draws := j.draws ++ leBytes 64 rnd.toNat, drawnAt := some t.brt.count } ∧
        (∀ i, i ≠ k → tblGet u.jobs i = tblGet t.jobs i) ∧
        drbgCalls u d = drbgCalls t d + (if d < t.rng.calls.length then 1 else 0) ∧
        { u with reeds := t.reeds, jobs := t.jobs, rng := t.rng, free := t.free } = t) ∧
    (MemIs s r 11 f → exec (.mskrd r f) s = .next (acted t r 2 iss 1 (put rnd)))

/-- The bellows port: a send computes Keccak-f[1600], the SHA-256 or the SHA-512 compression, its result comes when the bellows says so,
and BRECV takes it into the same layout. The bytes of a register that the layout does not name are free (log 1). -/
def Obligations.BellowsPort : Prop :=
  ∀ (s t : State) (r : Fin 1024) (f : BField) (iss : Issue), let c := iss.before
    let a := f.a.val
    let b := f.b.val
    (Takes s t r iss 3 → BelIs s r 1 f → exec (.bkeccak r f) s = .next (sent t r iss true
      ((keccakF (lanes (regsBytes c a 4) 25 8 64)).flatMap (fun x => leBytes 8 x.toNat)))) ∧
    (Takes s t r iss 3 → BelIs s r 2 f → exec (.bsha256 r f) s = .next (sent t r iss false
      ((sha256Compress (lanes (regsBytes c a 1) 8 4 32) (regsBytes c b 1)).flatMap (fun x => leBytes 4 x.toNat)))) ∧
    (Takes s t r iss 3 → BelIs s r 3 f → exec (.bsha512 r f) s = .next (sent t r iss false
      ((sha512Compress (lanes (regsBytes c a 1) 8 8 64) (regsBytes c b 2)).flatMap (fun x => leBytes 8 x.toNat)))) ∧
    (∀ x, isRunning s = true → s.brt.exhale = false → (reedAt s r.val).core.send = some x → x.readyAt ≤ s.brt.cycle →
      ∃ u, exec (.bellowsResultReady r) s = .next u ∧ (reedAt u r.val).core = { (reedAt s r.val).core with send := some { x with ready := true } } ∧
        (∀ k, k ≠ r.val → reedAt u k = reedAt s k) ∧ { u with reeds := s.reeds } = s) ∧
    (∀ x, Takes s t r iss 3 → BelIs s r 4 f → c.send = some x → x.result.length ≤ 64 * (if x.group then 4 else 1) →
      ∃ y, exec (.brecv r f false) s = .next (acted t r 3 iss 1 y) ∧ y.send = none ∧
        (regsBytes y a (if x.group then 4 else 1)).take x.result.length = x.result ∧
        (∀ k, k < a ∨ a + (if x.group then 4 else 1) ≤ k → vGet y k = vGet (reedAt t r.val).core k) ∧
        { y with v := (reedAt t r.val).core.v, send := (reedAt t r.val).core.send } = (reedAt t r.val).core) ∧
    (∀ x k j, Takes s t r iss 3 → BelIs s r 4 f → c.send = some x → reedJob t r.val = some (k, j) →
      (UnitName.bellows (Fin.ofNat 64 (r.val / 16)) (Fin.ofNat 4 x.bellows), 0) ∉ t.health.charges →
      ∃ u, exec (.brecv r f true) s = .next u ∧ ParityTrap t u r k j ∧
        u.health.charges = (.bellows (Fin.ofNat 64 (r.val / 16)) (Fin.ofNat 4 x.bellows), 0) :: t.health.charges)

/-- The MAU port: MPUT and MGET move groups of the port's fixed size (R129; the size is the model's free constant, log 16) to and from operand
memory, MRUN starts an operation and its fixed time. A parity error in what MGET reads replays the job (R177). -/
def Obligations.MauPort : Prop :=
  ∀ (s t : State) (r : Fin 1024) (f : AField) (iss : Issue) (k : Nat), let c := iss.before
    let m := (clusterAt t k).mau
    let x := (reedAt t r.val).core
    let o : MauOp := ⟨(sGet c f.s.val).toNat % 16, (sGet c f.s.val).toNat / 16 % 16, (sGet c f.s.val).toNat / 256 % 16, (sGet c f.s.val).toNat / 4096 % 16⟩
    Takes s t r iss 4 → coupledMau t r.val = some k →
    (MauIs s r 1 f → exec (.mput r f) s = .next (modCluster (acted t r 4 iss 0 x) k (fun q => { q with mau := { q.mau with
      mem := storeWrite q.mau.mem (64 * f.off.toNat) (regsBytes c f.a.val mauGroup) } }))) ∧
    (MauIs s r 2 f → ∃ y u, exec (.mget r ⟨f, false⟩) s = .next u ∧ reedAt u r.val = reedAt (acted t r 4 iss 0 y) r.val ∧
      (∀ i b, i < mauGroup → b < 64 → BitVec.ofNat 8 ((vGet y (f.a.val + i)).toNat / 2 ^ (8 * b)) = mauByte m (64 * f.off.toNat + 64 * i + b)) ∧
      (∀ j, j < f.a.val ∨ f.a.val + mauGroup ≤ j → vGet y j = vGet x j) ∧ { y with v := x.v } = x ∧
      (∀ n, clusterAt u n = clusterAt t n) ∧ { u with reeds := t.reeds, clusters := t.clusters } = t) ∧
    (MauIs s r 3 f → exec (.mrun r f) s = .next (modCluster (acted t r 4 iss 0 x) k (fun q => { q with mau := { q.mau with
      op := some o, acted := false, left := mauCycles q.mau o } }))) ∧
    (∀ n j, MauIs s r 2 f → reedJob t r.val = some (n, j) → j.stage = .running → j.replays = 0 → (∀ q ∈ unitReeds j.unit, (reedAt t q).defect = false) →
      ∃ u, exec (.mget r ⟨f, true⟩) s = .next u ∧ MauParity t u n j ∧ (clusterAt u k).mau = Mau.init)

/-- The operations of the MAU (R231): numbers, exponents, points, the modulus, the curve, the flags of the status word, and the wipe. What the spec
does not state is a free value: SETMOD of an even number, CHECKCURVE of a built-in curve (log 17). -/
def Obligations.MauOperations : Prop :=
  ∀ (s : State) (c : Fin 64) (o : MauOp), let m := (clusterAt s c.val).mau
    let x := mauReg m o.x
    let y := mauReg m o.y
    let number (v : Nat) : Mau := { mauSetReg m o.d v with isZero := decide (v = 0) }
    (∀ row ∈ mauRows, MauRuns s c row.code o → 0 < m.modulus → exec (row.instr c) s = .next (mauDid s c.val (number (row.result m o)))) ∧
    (MauRuns s c 4 o → ∃ v, exec (.mexp c) s = .next (mauDid s c.val (number v)) ∧
      (0 < m.modulus → v < m.modulus ∧ v % m.modulus = x ^ (y % 2 ^ classBits m.wclass) % m.modulus)) ∧
    (MauRuns s c 5 o → ∃ v, exec (.mexps c) s = .next (mauDid s c.val (number v)) ∧
      (0 < m.modulus → y < 2 ^ 64 → v < m.modulus ∧ v % m.modulus = x ^ y % m.modulus)) ∧
    (MauRuns s c 6 o → ∃ v, exec (.minv c) s = .next (mauDid s c.val (number v)) ∧
      (0 < m.modulus → v < m.modulus ∧ v % m.modulus = x ^ (m.modulus - 2) % m.modulus)) ∧
    (MauRuns s c 0 o → ∃ v, exec (.setmod c) s = .next (mauDid s c.val { m with modulus := v, wclass := widthClass v }) ∧ (x % 2 = 1 → v = x)) ∧
    (MauRuns s c 7 o → o.x ≠ 15 → exec (.curve c) s = .next (mauDid s c.val { m with
      curve := .builtin o.x, curveOk := false, lastCurve := 1, lastSlot := o.x })) ∧
    (MauRuns s c 7 o → o.x = 15 → exec (.curve c) s = .next (mauDid s c.val { m with
      curve := .loaded (mauReg m o.y) (mauReg m (o.y + 1)) (mauReg m (o.y + 2)) (mauReg m (o.y + 3)) (mauReg m (o.y + 4))
        (mauReg m (o.y + 5)) (mauReg m (o.y + 6))
      curveOk := false
      lastCurve := if m.lastCurve = 2 then 2 else 0 })) ∧
    (∀ row ∈ pointRows, MauRuns s c row.code o → let p := row.point m s.free o
      exec (row.instr c) s = .next (mauDid s c.val { mauSetReg (mauSetReg m o.d p.x) (o.d + 1) p.y with
        isZero := p.zero, onCurve := if row.checks then onSel m.curve p.x p.y else m.onCurve })) ∧
    (MauRuns s c 10 o → exec (.oncurve c) s = .next (mauDid s c.val { m with onCurve := onSel m.curve x (mauReg m (o.x + 1)) })) ∧
    (MauRuns s c 12 o → exec (.mr c) s = .next (mauDid s c.val { m with
      probPrime := if o.x = 15 then true else m.probPrime && millerRabin m.modulus x })) ∧
    (MauRuns s c 13 o → ∃ b, exec (.checkcurve c) s = .next (mauDid s c.val { m with curveOk := b }) ∧
      ∀ p a b' gx gy n h, m.curve = .loaded p a b' gx gy n h → b = checkCurve ⟨p, a, b', gx, gy, n, h⟩ s.free) ∧
    (MauRuns s c 14 o → exec (.wipe c) s = .next (mauDid s c.val { m with
      mem := [], modulus := 0, wclass := 0, curve := .none, onCurve := false, isZero := false, probPrime := false, curveOk := false,
      lastCurve := 0, lastSlot := 0xFFFF }))

/-- Sequencing (R187 to R189): the next address, the call stack, the branch conditions and the loop counters. A word waits at WAITI. A word whose
sequencing was done before a trap goes on at NEXT_UPC (R200). What befalls beside a word is the word's event: a bit of the control store that turns
over, a defect. -/
def Obligations.Sequencing : Prop :=
  ∀ (s t : State) (r : Fin 1024) (f : QField) (iss : Issue), let b := iss.before
    let x := (reedAt t r.val).core
    let up := (b.upc + 1) % 2 ^ 14
    let cond := f.cond.val
    let counters := if 8 ≤ cond ∧ cond ≤ 11 then listMod x.lc (cond - 8) (fun n => if n = 0 then 0 else n - 1) else x.lc
    let taken := branchTaken cond (sGet b f.creg.val) ((List.range b.vl).filter (fun i => (mGet b (f.creg.val % 8)).getLsbD i))
      (b.lc.getD (cond - 8) 0).toNat
    (Ends s t r iss →
      (SeqIs s r 0 f → exec (.inc r f .clean) s = .next (stepped t r { x with upc := up })) ∧
      (SeqIs s r 1 f → exec (.jump r ⟨f, .clean⟩) s = .next (stepped t r { x with upc := f.target.toNat })) ∧
      (SeqIs s r 2 f → exec (.branch r ⟨f, .clean⟩) s = .next (stepped t r { x with upc := if taken then f.target.toNat else up, lc := counters })) ∧
      (SeqIs s r 3 f → exec (.call r ⟨f, .clean⟩) s = .next (stepped t r { x with upc := f.target.toNat, stack := up :: b.stack })) ∧
      (∀ ra rest, SeqIs s r 4 f → b.stack = ra :: rest → exec (.ret r ⟨f, .clean⟩) s = .next (stepped t r { x with upc := ra, stack := rest })) ∧
      (SeqIs s r 6 f → exec (.waiti r ⟨f, .clean⟩) s = .next (setReed t r.val { reedAt t r.val with
        core := { x with upc := up }, issue := none, run := .waiti }))) ∧
    (∀ p, Issues s t r iss → fieldsDone t r.val = true → iss.resume = some p → bitOf p.done 5 = true →
      ∀ e ∈ [(0, Instr.inc r f .clean), (1, .jump r ⟨f, .clean⟩), (2, .branch r ⟨f, .clean⟩), (3, .call r ⟨f, .clean⟩), (4, .ret r ⟨f, .clean⟩),
        (6, .waiti r ⟨f, .clean⟩)], SeqIs s r e.1 f → exec e.2 s = .next (stepped t r { x with upc := p.next })) ∧
    (isRunning s = true → ∀ i ∈ [Instr.inc r f, fun e => .jump r ⟨f, e⟩, fun e => .branch r ⟨f, e⟩, fun e => .call r ⟨f, e⟩, fun e => .ret r ⟨f, e⟩,
      fun e => .waiti r ⟨f, e⟩, fun e => .tret r ⟨f, e⟩, .endJob r],
      (∀ w n u, exec (i .clean) s = .next u → exec (i (.store w n)) s = .next (setCluster u (r.val / 16) (flipBit (clusterAt u (r.val / 16)) w.val n.val))) ∧
      exec (i .defect) s = exec (i .clean) (setReed s r.val { reedAt s r.val with defect := true })) ∧
    (∀ l : LField, Takes s t r iss 6 →
      (LcIs s r 1 l → exec (.lcSetImmediate r l) s = .next (acted t r 6 iss 0 { x with lc := listSet x.lc l.sel.val l.imm })) ∧
      (LcIs s r 2 l → exec (.lcSetScalar r l) s = .next (acted t r 6 iss 0 { x with lc := listSet x.lc l.sel.val ((sGet b l.sa.val).truncate 16) })) ∧
      (LcIs s r 3 l → exec (.lcClear r l) s = .next (acted t r 6 iss 0 { x with lc := listSet x.lc l.sel.val 0 })))

/-- A word issues whole or takes a micro-trap (R166, R191, R193 to R195): VMADD alone in its word acts where nothing is wrong; else none of its fields
acts, the cause is recorded, and the kernel runs at entry 1, 5 for a send too late or 6 for a MAU that runs; at level 1 the job ends. A parity error
stands at entry 2 (R177, R180), a bad word of the control store waits for the reload of its block (R177, R181). -/
def Obligations.FaultsTakeMicroTraps : Prop :=
  ∀ (s : State) (r : Fin 1024), let x := (reedAt s r.val).core
    (∀ f : VField, Alone s r 0 → VecIs s r 0x21 f →
      let good := groupOk x f.d.val = true ∧ groupOk x f.a.val = true ∧ groupOk x f.b.val = true
      let cause := if good then (if emax x < x.vl then 7 else 8) else 6
      (good → x.vl ≤ emax x → qmodOk x = true → ∃ t, Issues s t r ⟨x, 0, true, none, none, none⟩ ∧
        t = setReed s r.val { reedAt s r.val with issue := some ⟨x, 0, true, none, none, none⟩ } ∧
        ∃ y, GroupSet (ewBits x) (gsize x) f.d.val x y (underMask x f (fun i => (vElem x f.a.val i + vElem x f.b.val i) % x.qmod.toNat)) ∧
          exec (.vmadd r f) s = .next (acted t r 0 ⟨x, 0, true, none, none, none⟩ 0 y)) ∧
      (x.level = 0 → cause ≠ 8 ∨ qmodOk x = false →
        ∃ t y, exec (.vmadd r f) s = .next t ∧ TookTrap s t r 1 y ∧ y.trapElem.toNat = 256 * cause) ∧
      (x.level = 1 → cause ≠ 8 ∨ qmodOk x = false → ∀ k j, reedJob s r.val = some (k, j) → j.unit = .reed r.val → j.stage = .running →
        (reedAt s r.val).defect = false → ∃ t, exec (.vmadd r f) s = .next t ∧ Posted s t r.val k j ⟨.vectorFault, [], 0, none⟩)) ∧
    (∀ f : BField, Alone s r 3 → BelIs s r 1 f → x.level = 0 → f.a.val % 4 = 0 → x.send = none → 2 ^ s.brt.log2Len < s.brt.cycle + 308 →
      ∃ t y, exec (.bkeccak r f) s = .next t ∧ TookTrap s t r 5 y ∧ y.trapElem = x.trapElem) ∧
    (∀ (f : AField) c, Alone s r 4 → MauIs s r 3 f → x.level = 0 → coupledMau s r.val = some c → (clusterAt s c).mau.op.isSome = true →
      mauPortNever true (mauOpOf (sGet x f.s.val).toNat) = false →
      ∃ t y, exec (.mrun r f) s = .next t ∧ TookTrap s t r 6 y ∧ y.trapElem = x.trapElem) ∧
    (∀ k j (f : QField), isRunning s = true → reedRuns s r.val = true → reedJob s r.val = some (k, j) → j.replays = 0 →
      Does (.inc r f .registers) s (fun t => ParityTrap s t r k j ∧ t.health = s.health) ∧
      ((reedAt s r.val).staging ≠ [] → Does (.windowStageDone ⟨r, true⟩) s (fun t => ParityTrap s t r k j ∧ t.health = s.health))) ∧
    (∀ k j (f : QField), isRunning s = true → reedRuns s r.val = true → reedJob s r.val = some (k, j) → (reedAt s r.val).issue = none →
      let c := r.val / 16
      let b := wordAddr s r.val x / 64
      wordBad (clusterAt s c) (wordAddr s r.val x) = true → b ∉ (clusterAt s c).reloading → b ∉ (clusterAt s c).csErrors →
      (c, k) ∉ s.health.clusterCharges →
      Does (.inc r f .clean) s (fun t => reedAt t r.val = { reedAt s r.val with run := .reload b } ∧
        clusterAt t c = { clusterAt s c with csErrors := b :: (clusterAt s c).csErrors, reloading := b :: (clusterAt s c).reloading } ∧
        tblGet t.jobs k = some { j with replayed := true } ∧ t.health.clusterCharges = (c, k) :: s.health.clusterCharges ∧
        ∀ q, q ≠ r.val → reedAt t q = reedAt s q))

/-- TRET returns to the routine, whose pending word is issued again; DEBUG_RELEASE lets a held reed go on; END posts a customer routine's result
(R170, R171), the kernel's outcome under entry 1 (R196), or nothing, and wipes the reed. A reed whose wipe cannot be read back is muted (R173). -/
def Obligations.EndsAndReturns : Prop :=
  ∀ (s t : State) (r : Fin 1024) (f : QField) (iss : Issue), let x := reedAt t r.val
    let c := iss.before
    (Issues s t r iss → SeqIs s r 5 f → fieldsDone t r.val = true → x.core.level = 1 → (storeGet x.core.opmem 0x7F05).getLsbD 0 = true →
      ∃ y, Returned x.core y ∧
        ((storeGet x.core.opmem 0x7F05).getLsbD 1 = false →
          exec (.tret r ⟨f, .clean⟩) s = .next (setReed t r.val { x with run := .running, core := y, issue := none })) ∧
        ((storeGet x.core.opmem 0x7F05).getLsbD 1 = true →
          exec (.tret r ⟨f, .clean⟩) s = .next (setReed t r.val { x with run := .running, core := y, issue := some ⟨y, 0, false, none, none, some
            ⟨(storeGet x.core.opmem 0x7F07).toNat, (storeGet x.core.opmem 0x7F06).toNat, leNat (storeRead x.core.opmem 0x7F12 2) % 2 ^ 14,
              (storeGet x.core.opmem 0x7F04).toNat, BitVec.ofNat 64 (leNat (storeRead x.core.opmem 0x7F38 8)),
              BitVec.ofNat 64 (leNat (storeRead x.core.opmem 0x7F40 8)), BitVec.ofNat 64 (leNat (storeRead x.core.opmem 0x7F48 8))⟩⟩ }))) ∧
    (isRunning s = true → (reedAt s r.val).run = .debug → exec (.debugRelease r) s = .next (setReed s r.val { reedAt s r.val with run := .running })) ∧
    (∀ k j st, Issues s t r iss → seqOf (wordNow s r.val) = 7 → fieldsDone t r.val = true → x.core.level = 0 → x.defect = false →
      reedJob (flushFrames t r.val) r.val = some (k, j) → j.unit = .reed r.val →
      j.stage = .running → 0x8000 ≤ j.rid → st ∈ postable → st ≠ .invariantFailed → (sGet c 1).toNat % 2 ^ 16 = statusCode st →
      (sGet c 2).toNat % 2 ^ 32 ≤ jOutLen j →
      ∃ u, exec (.endJob r .clean) s = .next u ∧
        Posted t u r.val k j ⟨st, storeRead j.space (0x4000 * (storeGet c.opmem 0x7E0D).toNat) ((sGet c 2).toNat % 2 ^ 32), 0, none⟩) ∧
    (∀ k j, Issues s t r iss → seqOf (wordNow s r.val) = 7 → fieldsDone t r.val = true → x.core.level = 1 → reedJob t r.val = some (k, j) →
      j.unit = .reed r.val → j.stage = .running →
      (x.core.entry = 1 → x.defect = false → ∃ u, exec (.endJob r .clean) s = .next u ∧
        Posted t u r.val k j ⟨if x.core.trapElem.toNat / 256 % 16 = 12 then .keySlotCorrupt
          else if x.core.trapElem.toNat / 256 % 16 = 13 then .keyPolicy else .vectorFault, [], 0, none⟩) ∧
      (x.core.entry = 2 → x.defect = false → ∃ u, exec (.endJob r .clean) s = .next u ∧ reedAt u r.val = wiped t r.val ∧
        tblGet u.jobs k = some { j with stage := .replayWait } ∧ (∀ q, q ≠ r.val → reedAt u q = reedAt t q) ∧
        (∀ i, i ≠ k → tblGet u.jobs i = tblGet t.jobs i) ∧ u.clusters = t.clusters) ∧
      (x.core.entry ≠ 1 → x.core.entry ≠ 2 → x.defect = false → ∃ u, exec (.endJob r .clean) s = .next u ∧ reedAt u r.val = wiped t r.val ∧
        u.jobs = t.jobs ∧ u.clusters = t.clusters ∧ ∀ q, q ≠ r.val → reedAt u q = reedAt t q) ∧
      (x.defect = true → ∃ u, exec (.endJob r .clean) s = .next u ∧ reedMuted u r.val = true))

/-- What a cluster does beside its words: a staged page becomes resident and the page it replaces goes back to job space (R147), a control-store
block is whole again (R177), a replay starts from the job's inputs (R178), the bell collects a result and finds its rung (R33, R126), a MAU is free
again when its time is over (R232). -/
def Obligations.ClusterEvents : Prop :=
  ∀ (s : State) (r : Fin 1024) (c : Fin 64) (b : BitVec 8), let x := reedAt s r.val
    isRunning s = true →
    (∀ g rest k j, x.staging = g :: rest → reedJob s r.val = some (k, j) → (∀ i, x.issue = some i → i.issued = false) →
      g.frame < x.core.frames.length →
      ∃ t d, exec (.windowStageDone ⟨r, false⟩) s = .next t ∧ (reedAt t r.val).staging = rest ∧
        (reedAt t r.val).core.frames[g.frame]? = some ⟨some g.page, d, false, x.core.clock + 1⟩ ∧
        (∀ o, o < 0x4000 → storeGet d o = storeGet j.space (0x4000 * g.page + o)) ∧
        (∀ i, i ≠ g.frame → (reedAt t r.val).core.frames[i]? = x.core.frames[i]?) ∧
        { (reedAt t r.val).core with frames := x.core.frames, clock := x.core.clock } = x.core ∧
        tblGet t.jobs k = some { j with space := match x.core.frames[g.frame]? with
          | some ⟨some p, e, true, _⟩ => storeSetPage j.space p e
          | _ => j.space } ∧
        (∀ q, q ≠ r.val → reedAt t q = reedAt s q) ∧ (∀ i, i ≠ k → tblGet t.jobs i = tblGet s.jobs i) ∧
        { t with reeds := s.reeds, jobs := s.jobs } = s) ∧
    (b.toNat ∈ (clusterAt s c.val).reloading → ∃ t k, exec (.controlStoreReloadDone c b) s = .next t ∧ clusterAt t c.val = k ∧
      k.reloading = (clusterAt s c.val).reloading.filter (· ≠ b.toNat) ∧
      (∀ ch a, s.charts.inForce = some ch → storeGet k.cs a = if a / 64 = b.toNat then storeGet (storeImage ch k.placed) a
        else storeGet (clusterAt s c.val).cs a) ∧
      (∀ ch a, s.charts.inForce = some ch → storeGet k.par a = if a / 64 = b.toNat then storeGet (parityImage ch k.placed) a
        else storeGet (clusterAt s c.val).par a) ∧
      { k with cs := (clusterAt s c.val).cs, par := (clusterAt s c.val).par, reloading := (clusterAt s c.val).reloading } = clusterAt s c.val ∧
      (∀ q, reedAt t q = if q / 16 = c.val ∧ (reedAt s q).run = .reload b.toNat then { reedAt s q with run := .running } else reedAt s q) ∧
      (∀ k, k ≠ c.val → clusterAt t k = clusterAt s k) ∧ { t with reeds := s.reeds, clusters := s.clusters } = s) ∧
    (∀ k j, tblGet s.jobs k = some j → atInhale s = true → j.stage = .replayWait → j.replayAt ≤ s.brt.count → j.moveAt = none →
      s.rng.alarm = false → j.unit = .reed r.val → (∀ y ∈ startMaterials s j, materialBad s y = false) →
      ∃ t m, exec (.jobReplayStart k) s = .next t ∧
        tblGet t.jobs k = some { j with
          stage := .running, replays := j.replays + 1, space := startSpace s j, draws := [], drawnAt := none, saved := none } ∧
        (reedAt t r.val).job = some k ∧ (reedAt t r.val).run = .running ∧ (reedAt t r.val).issue = none ∧
        (reedAt t r.val).core = { startCore m j.pages ((routineSec s j.rid).elim 0 RoutineSec.entry) (startSpace s j) with s := [], v := [], m := [] } ∧
        m = leBytes 2 (le j.entry 8 2) ++ leBytes 2 (jSlot j) ++ leBytes 4 (jByteLen j) ++ leBytes 4 (jOutLen j) ++ slice j.entry 5 1 ++
          leBytes 1 (startInputPages s j) ++ leBytes 1 j.pages ++ leBytes 1 j.rung ++ leBytes 8 (j.start.getD 0) ++ leBytes 4 j.budget ++
          leBytes 1 (j.replays + 1) ++ zeros 3 ++ slice j.entry 32 32 ∧
        (∀ q, q ≠ r.val → reedAt t q = reedAt s q) ∧ { t with reeds := s.reeds, jobs := s.jobs } = s) ∧
    (∀ k rest j, (clusterAt s c.val).fifo = k :: rest → tblGet s.jobs k = some j → j.stage = .posted →
      (∃ t, exec (.bellCollect c false) s = .next t ∧ clusterAt t c.val = { clusterAt s c.val with fifo := rest } ∧
        tblGet t.jobs k = some { j with stage := .held, due := rungBreath (j.start.getD 0) (max 1 j.budget) (s.brt.count + 1) } ∧
        (∀ i, i ≠ k → tblGet t.jobs i = tblGet s.jobs i) ∧ s.bell.heldMax ≤ t.bell.heldMax ∧
        { t with clusters := s.clusters, jobs := s.jobs, bell := s.bell } = s) ∧
      (j.replays = 0 → ∃ t, exec (.bellCollect c true) s = .next t ∧ clusterAt t c.val = { clusterAt s c.val with fifo := rest } ∧
        tblGet t.jobs k = some { j with replayed := true, replayAt := replayBreath s, stage := .replayWait, result := none, post := none } ∧
        (∀ i, i ≠ k → tblGet t.jobs i = tblGet s.jobs i) ∧ { t with clusters := s.clusters, jobs := s.jobs } = s)) ∧
    (∀ o, (clusterAt s c.val).mau.op = some o → (clusterAt s c.val).mau.acted = true → (clusterAt s c.val).mau.left = 0 →
      exec (.mauOperationDone c false) s = .next (setCluster s c.val { clusterAt s c.val with mau := { (clusterAt s c.val).mau with
        op := none, acted := false } }) ∧
      ∀ k j, mauJob s c.val = some k → tblGet s.jobs k = some j → j.replays = 0 → (∀ q ∈ unitReeds j.unit, (reedAt s q).defect = false) →
        Does (.mauOperationDone c true) s (fun t => MauParity s t k j ∧ (clusterAt t c.val).mau = Mau.init))

/-- A step takes the command at the front of the queue and runs it with the queue's rest. -/
def Obligations.FrontOfTheQueue : Prop :=
  ∀ (c : Instr) (rest : List Instr) (s : State), step { s with pending := c :: rest } = exec c { s with pending := rest }

/-- On an empty queue one core cycle passes where the phase has one left, for the clock, the token buckets (R89) and the MAUs (R27), and nothing
else; without one left, in HALTED or without power, nothing does. That a cycle passes there is the model's choice (log 2). -/
def Obligations.EmptyQueueTicks : Prop :=
  ∀ s : State, s.pending = [] →
    let last := 2 ^ s.brt.log2Len - (if s.brt.exhale then 1 else 257)
    (isRunning s = true → s.brt.cycle < last → ∃ t, step s = .next t ∧ t.brt = { s.brt with cycle := s.brt.cycle + 1 } ∧
      (∀ i, tblGet t.insts i = (tblGet s.insts i).map (fun x => { x with bucket := min (8192 * 73728000) (x.bucket +
        ((x.dmaShare * (if (portAt s x.port.val).x16 then 63000 else 31500) *
          (if s.brt.clockStep = 0 then 12 else if s.brt.clockStep = 1 then 15 else 20) : Nat) : Int)) })) ∧
      (∀ c, tblGet t.clusters c = (tblGet s.clusters c).map (fun k =>
        { k with mau := { k.mau with left := k.mau.left - if s.brt.exhale then 0 else 1 } })) ∧
      { t with brt := s.brt, insts := s.insts, clusters := s.clusters } = s) ∧
    (isRunning s = false ∨ last ≤ s.brt.cycle → step s = .next s)

/-- The state after reset meets the invariant. -/
def Obligations.InvariantAtReset : Prop := BlockInv State.reset

/-- The state after reset shows the reset values of the registers: DEV_MODE, BRT_CFG, BRT_COUNT, DEV_HALT_VEC, the admin queue, PLC_, RNG_ and MPR_
registers, and no instance, job, key or chart. -/
def Obligations.ResetValues : Prop :=
  let s := State.reset
  s.dev.mode = .boot ∧ s.dev.prevMode = 0 ∧ s.dev.haltCause = 0 ∧ s.dev.halting = false ∧ s.dev.haltImmediate = false ∧
    s.brt.log2Len = 12 ∧ s.brt.clockStep = 0 ∧ s.brt.count = 0 ∧ s.charts.inForce = none ∧
    (∀ p : Fin 8, (portAt s p.val).haltVector = 0 ∧ (portAt s p.val).haltArmed = none ∧ (portAt s p.val).vfEnable = false ∧
      (portAt s p.val).adm.qp.enable = false ∧ (portAt s p.val).adm.sqLog2 = 6 ∧ (portAt s p.val).adm.cqLog2 = 6 ∧
      (portAt s p.val).adm.error = false) ∧
    s.insts = [] ∧ s.jobs = [] ∧ s.waiting = [] ∧ s.bell.heldMax = 0 ∧ s.wch.slots = [] ∧ s.wch.rootValid = false ∧
    s.rng.ready = false ∧ s.rng.alarm = false ∧ s.rng.conditioner = 0 ∧ s.mpr.trained = false ∧ s.mpr.corrected = 0 ∧ s.mpr.fault = none ∧
    s.mgc.alarms = 0 ∧ s.pxt.badFrame = 0 ∧ s.twn.role = 0 ∧ s.bore.mismatches = 0 ∧ s.pending = []

/-- Every step keeps the invariant: the clock of the breath stays in its phases, the protected memory's tables stay canonical, a waiting chart has a
length R26 allows. -/
def Obligations.EveryStepKeepsInvariant : Prop := ∀ s t : State, BlockInv s → step s = .next t → BlockInv t

/-- No command touches the queue, and only INHALE, EXHALE, an aligning pulse and reset move the breath: its count, cycle, phase and length. -/
def Obligations.QueueAndBreathKept : Prop :=
  ∀ (c : Instr) (s t : State), BlockInv s → exec c s = .next t → t.pending = s.pending ∧
    (movesBreath c = false → (t.brt.count, t.brt.cycle, t.brt.exhale, t.brt.log2Len) = (s.brt.count, s.brt.cycle, s.brt.exhale, s.brt.log2Len))

/-- INHALE begins the next breath at cycle 0 and lets a waiting length take effect once TUNE and BOOT are left; EXHALE begins the last 256
cycles, in which no reed issues a word; a decided clock step takes effect at an inhale. -/
def Obligations.BreathPhases : Prop :=
  ∀ s : State, BlockInv s → isRunning s = true →
    (s.brt.exhale = true → Does .inhale s (fun t => t.brt.count = s.brt.count + 1 ∧ t.brt.cycle = 0 ∧ t.brt.exhale = false ∧
      t.brt.log2Len = (if s.dev.mode ≠ .tune ∧ s.dev.mode ≠ .boot ∧ s.dev.modeBreath ≤ s.brt.count then s.brt.nextLog2.getD s.brt.log2Len
        else s.brt.log2Len))) ∧
    (s.brt.exhale = false → Does .exhale s (fun t => t.brt.count = s.brt.count ∧ t.brt.cycle = 2 ^ s.brt.log2Len - 256 ∧ t.brt.exhale = true ∧
      t.brt.log2Len = s.brt.log2Len ∧ ∀ r, reedRuns t r = false)) ∧
    (∀ n, s.brt.stepReq = some n → s.brt.cycle = 0 → s.brt.exhale = false →
      exec .clockStepApply s = .next { s with brt := { s.brt with clockStep := n, stepReq := none } })

/-- The rungs of the ladder (R33 to R35), the release of a result held in the bell (R34, R37), and the completion of an aborted job (R41). -/
def Obligations.JobLadder : Prop :=
  ∀ (s : State) (k : Nat) (j : Job), isRunning s = true → tblGet s.jobs k = some j →
    (∀ b, j.start = some b → s.brt.cycle = 0 → s.brt.exhale = false → j.stage ≠ .held → j.rung ≤ 7 → s.brt.count = b + j.rung * j.budget →
      Does (.ladderRungAdvance k) s (fun t => (∃ y, tblGet t.jobs k = some { j with rung := j.rung + 1, saved := y } ∧ (j.saved = none → y = none)) ∧
        (∀ i, i ≠ k → tblGet t.jobs i = tblGet s.jobs i) ∧
        (∀ r, (reedAt s r).job ≠ some k → reedAt t r = reedAt s r) ∧
        (∀ r, (reedAt s r).job = some k → storeGet (reedAt t r).core.opmem 0x7E0F = BitVec.ofNat 8 (j.rung + 1) ∧
          (∀ a, a ≠ 0x7E0F → storeGet (reedAt t r).core.opmem a = storeGet (reedAt s r).core.opmem a) ∧
          ({ reedAt t r with issue := (reedAt s r).issue, core := { (reedAt t r).core with opmem := (reedAt s r).core.opmem } } : Reed) = reedAt s r) ∧
        { t with jobs := s.jobs, reeds := s.reeds } = s)) ∧
    (s.brt.exhale = false → j.stage = .aborted → j.abort = some .budgetExceeded → j.due ≤ s.brt.count →
      Does (.budgetExceeded k) s (fun t => tblGet t.jobs k = some { j with
          stage := .held, result := some ⟨.budgetExceeded, [], 0, none⟩, due := s.brt.count, rung := 8 } ∧
        (∀ i, i ≠ k → tblGet t.jobs i = tblGet s.jobs i) ∧ { t with jobs := s.jobs } = s)) ∧
    (∀ r qp, let st := if r.status = .ok ∧ j.replayed = true then .okReplayed else r.status
      let c : Compl := { jobCompl j st (if r.status = .ok then r.out else []) r.info with breath := s.brt.count }
      s.brt.exhale = false → haltHolds s = false → nextRelease s = some (k, j) → j.internal = none → j.result = some r → r.secret = none →
      j.kind = .routine → j.claim = false → CanWrite s qp c → Unfenced s qp c →
      Does .jobRelease s (fun t => Completed s t qp c c.out ∧ tblGet t.jobs k = none ∧ ∀ i, i ≠ k → tblGet t.jobs i = tblGet s.jobs i)) ∧
    (j.stage = .aborted → j.abort ≠ some .budgetExceeded → j.due ≤ s.brt.count → s.brt.exhale = false → haltHolds s = false → cancelsOf s k = [] → j.internal = none → j.claim = false →
      reservedSlot j = none →
      Does (.abortComplete k) s (fun t => tblGet t.jobs k = none ∧
        t.waiting = s.waiting ++ [⟨jobCompl j (j.abort.getD .aborted) [] 0, 2, 0, s.brt.count⟩] ∧ t.out = s.out ∧
        ∀ i, i ≠ k → tblGet t.jobs i = tblGet s.jobs i))

/-- Completions off the ladder are written once no result of the ladder is due (R40, R127); a completion that waited on its fence read is written
when the read completes, and as DMA_FAULT where it fails (R92). -/
def Obligations.Completions : Prop :=
  ∀ (s : State) (g : Ring) (qp : Qp), isRunning s = true →
    (∀ w, let c := { w.c with breath := s.brt.count }
      s.brt.exhale = false → ladderDue s = false → haltHolds s = false → firstWaiting s.brt.count s.waiting = some w → CanWrite s qp c →
      Unfenced s qp c → Does .nonLadderComplete s (fun t => Completed s t qp c c.out ∧ t.waiting = s.waiting.erase w ∧ t.jobs = s.jobs)) ∧
    (∀ c, CanWrite s qp c → qp.fence = some c → c.ring = g → qp.held = [] →
      Does (.fenceReadComplete g true) s (fun t => Completed s t { qp with fence := none } c [] ∧ t.jobs = s.jobs) ∧
      Does (.fenceReadComplete g false) s (fun t => Completed s t { qp with fence := none } { c with status := .dmaFault, out := [], info := 0 } [] ∧
        t.jobs = s.jobs))

/-- In HALTED, without power and under reset every other command leaves the state as it is; and HALTED is terminal: no command but reset leaves it
(R42, R50). -/
def Obligations.HaltedIgnores : Prop :=
  (∀ (c : Instr) (s : State), isRunning s = false → outlives c = false → exec c s = .next s) ∧
  (∀ (c : Instr) (s t : State), s.dev.mode = .halted → (∀ b, c ≠ .powerOnReset b) → exec c s = .next t → t.dev.mode = .halted)

/-- Transitions take effect at an inhale (R43): a requested one, the quiesce before TUNE from SERVICE and RECOVER, TUNE itself once the quiesce is
over, from SHADOW at once (R44); an extent overdue under the quiesce is aborted. -/
def Obligations.ModeTransitions : Prop :=
  ∀ s : State, isRunning s = true → s.dev.halting = false →
    (s.brt.cycle = 0 → s.brt.exhale = false →
      (∀ r n, poolsFail s = false → s.dev.modeReq = some (r, n) → n ≤ s.brt.count → Does .modeChange s (fun t =>
        t.dev = { s.dev with mode := askedMode r, prevMode := modeCode s.dev.mode, modeBreath := s.brt.count, modeReq := none })) ∧
      (poolsFail s = true → Does .modeChange s (fun t => t.dev.mode = .recover ∧ t.dev.prevMode = modeCode s.dev.mode ∧
        s.mgc.logSeq < t.mgc.logSeq)) ∧
      (∀ n, s.dev.tuneReq = some n → n ≤ s.brt.count →
        ((s.dev.mode = .service ∨ s.dev.mode = .recover) →
          exec .quiesceBegin s = .next { s with dev := { s.dev with quiesce := some s.brt.count, tuneReq := none } }) ∧
        (s.dev.mode = .shadow → exec .quiesceBegin s = .next { s with
          twn := { s.twn with role := 0 }
          dev := { s.dev with mode := .tune, prevMode := 3, modeBreath := s.brt.count, modeReq := none, quiesce := none, tuneReq := none } })) ∧
      (∀ q, s.dev.quiesce = some q → q < s.brt.count → quiesced s = true → exec .tuneEnter s = .next { s with dev := { s.dev with
        mode := .tune, prevMode := modeCode s.dev.mode, modeBreath := s.brt.count, modeReq := none, quiesce := none, tuneReq := none } })) ∧
    (∀ e f, tblGet s.bore.flows e = some f → f.kind = .put → extentsOverdue s = true →
      Does (.quiesceExtentTimeout e) s (fun t => tblGet t.bore.flows e = none ∧ t.dev = s.dev ∧ t.brt = s.brt))

/-- Reset releases the device into BOOT at breath 0 with nothing of the run before but the VBAT domain, OTP and what the SPI NOR holds (R31, R43);
without power nothing is issued, and HALT_N floats (R456). The boot checks end in TUNE without a chart, in SERVICE or SHADOW by the twin role, in
RECOVER with a pool below its minimum, and a memory fault halts at once (R43). -/
def Obligations.PowerAndBoot : Prop :=
  ∀ (s : State) (b : BootInfo),
    (b.powerRise = true ∨ s.dev.powerGood = true → Does (.powerOnReset b) s (fun t => t.dev.mode = .boot ∧ t.brt = Brt.init ∧ t.insts = [] ∧
      t.jobs = [] ∧ t.wch.slots = [] ∧ t.charts.inForce = none ∧ t.rng.ready = false ∧ t.dev.held = false ∧ t.dev.powerGood = true ∧
      t.wch.tamper = s.wch.tamper ∧ t.mgc.bootCount = s.mgc.bootCount + 1 ∧ t.mpr.ranges = List.replicate 16 MemRange.empty ∧ t.lcs.dis = s.lcs.dis ∧
      t.pending = s.pending)) ∧
    exec .powerDown s = .next { s with dev := { s.dev with powerGood := false, haltN := true } } ∧
    exec .sysRstNAssert s = .next { s with dev := { s.dev with held := true, haltN := true } } ∧
    (isRunning s = true → bootMayEnd s = true →
      (bootChart s = none → Does (.bootChecksComplete true) s (fun t => t.dev.mode = .tune ∧ t.dev.prevMode = 0)) ∧
      (∀ c, bootChart s = some c → Does (.bootChecksComplete true) s (fun t => t.charts.inForce = some c ∧
        (t.dev.mode = .recover ∨ t.dev.mode = .service ∨ t.dev.mode = .shadow ∨ t.dev.mode = .boot ∧ t.twn.split = true) ∧
        (t.dev.mode = .recover ↔ anyPoolBelow (applyFull s c) = true) ∧
        (c.twin = false → anyPoolBelow (applyFull s c) = false → t.dev.mode = .service ∧ t.twn.role = 0))) ∧
      Does (.bootChecksComplete false) s (fun t => t.dev.mode = .halted ∧ t.dev.haltImmediate = true ∧ t.dev.haltN = false ∧
        1 ≤ t.dev.haltCause ∧ t.dev.haltCause ≤ 3 ∧ ∀ x ∈ t.mpr.ranges, x.key = [] ∧ x.oldKey = none))

/-- The halt messages are armed and disarmed (R49); a controlled halt begins with HALTING and its cause, completes every unreleased job and
outstanding command without output at the inhale of H + 1, and ends in HALTED with HALT_N asserted and the messages sent (R47). -/
def Obligations.Halts : Prop :=
  ∀ s : State, isRunning s = true → s.ports.length = 8 →
    (∀ (p : Fin 8) (v : BitVec 11), (portAt s p.val).formed = true →
      let e := msixEntry (portAt s p.val).msix v.toNat
      Does (.haltVecArm p v) s (fun t => portAt t p.val = { portAt s p.val with
          haltVector := v.toNat, haltArmed := if e.masked then none else some (e.addr, e.data) } ∧
        (∀ q : Fin 8, q ≠ p → portAt t q.val = portAt s q.val) ∧ { t with ports := s.ports } = s) ∧
      Does (.haltVecDisarm p) s (fun t => portAt t p.val = { portAt s p.val with haltArmed := none } ∧
        (∀ q : Fin 8, q ≠ p → portAt t q.val = portAt s q.val) ∧ { t with ports := s.ports } = s)) ∧
    (s.dev.halting = false → (s.dev.mode = .boot → s.mgc.fwTrial = false) → Does .watchdogExpire s (fun t => t.dev = { s.dev with
        halting := true, haltCause := 6, haltImmediate := false, haltBreath := s.brt.count, haltFlushed := false, modeReq := none, quiesce := none,
        tuneReq := none } ∧
      s.mgc.logSeq < t.mgc.logSeq ∧ t.brt = s.brt)) ∧
    (s.dev.halting = true → s.dev.haltFlushed = false → s.brt.cycle = 0 → s.brt.exhale = false → s.dev.haltBreath < s.brt.count →
      Does .controlledHaltFlush s (fun t => t.jobs = [] ∧ t.dev = { s.dev with haltFlushed := true } ∧ t.bore.contexts = [] ∧ t.twn.waits = [] ∧
        (∀ r, (tblGet s.reeds r).isSome = true → reedAt t r = wiped s r) ∧ (∀ c, (clusterAt t c).fifo = [] ∧ (clusterAt t c).mau.mem = []) ∧
        (∀ w ∈ t.waiting, w.due = s.brt.count ∧ w.c.out = [] ∧ (w.c.status = .rngFailed ∨ w.c.status = .deviceHalting ∨
          w.c.tag = 0xFFFF ∧ w.c.status = .inputInvalid)) ∧
        (∀ e ∈ s.jobs, e.2.internal = none → e.2.stage ≠ .fence → ∃ w ∈ t.waiting, w.c.ring = jobRing e.2 ∧ w.c.tag = e.2.tag ∧
          w.c.status = if s.dev.haltCause = 4 ∨ s.dev.haltCause = 5 then .rngFailed else .deviceHalting))) ∧
    (s.dev.halting = true → s.dev.haltFlushed = true → s.brt.exhale = false → s.dev.haltBreath + 2 ≤ s.brt.count → writesLeft s = true →
      Does .haltedEnter s (fun t => t.dev.mode = .halted ∧ t.dev.prevMode = modeCode s.dev.mode ∧ t.dev.haltN = false ∧ t.dev.halting = false ∧
        t.dev.haltCause = s.dev.haltCause ∧ t.out = (armedMessages s).reverse ++ s.out ∧ t.mpr.keysReady = false ∧
        (∀ x ∈ t.mpr.ranges, x.key = [] ∧ x.oldKey = none) ∧ t.brt = s.brt))

/-- Registers that clear on read return their fields and clear (R17); a 32-bit read of BRT_COUNT's low half latches the high half (R31); in HALTED
the blocks beyond the first 4 KiB read zero and keep what they hold (R50). -/
def Obligations.CountersClearOnRead : Prop :=
  ∀ (s : State) (p : Fin 8) (f : Fin 64), isLive s = true → (portAt s p.val).formed = true →
    exec (.brtCountLowRead p) s = .next (readsAs { s with brt := { s.brt with latchHi := listSet s.brt.latchHi p.val (some (s.brt.count / 2 ^ 32 % 2 ^ 32)) } }
      (s.brt.count % 2 ^ 32)) ∧
    (s.dev.mode ≠ .halted →
      (let h := (s.jobs.filter (fun e => e.2.stage = .held)).length;
        exec (.belStatusRead p) s = .next (readsAs { s with bell := ⟨0⟩ } (h % 2 ^ 11 + 2 ^ 16 * (max s.bell.heldMax h % 2 ^ 11)))) ∧
      (∀ x, tblGet s.pxt.ports f.val = some x → Does (.prtPortRead p f) s (fun t =>
        (∃ v, t.out = .readData v :: s.out ∧ v / 2 ^ 32 = x.fecUncorr % 2 ^ 16 + 2 ^ 16 * (x.macsecDrop % 2 ^ 16) ∧
          v.testBit 5 = x.linkUp ∧ v.testBit 7 = x.xoffSent ∧ v / 2 ^ 8 % 2 ^ 8 = x.xoffRcvd % 2 ^ 8) ∧
        tblGet t.pxt.ports f.val = some { x with fecUncorr := 0, macsecDrop := 0 } ∧
        (∀ q, q ≠ f.val → tblGet t.pxt.ports q = tblGet s.pxt.ports q) ∧
        { t with out := s.out, pxt := { t.pxt with ports := s.pxt.ports } } = s)) ∧
      exec (.pxtDropsRead p) s = .next (readsAs { s with pxt := { s.pxt with badFrame := 0, noMatch := 0, overCredit := 0, tagFail := 0 } }
        (s.pxt.badFrame % 2 ^ 16 + 2 ^ 16 * (s.pxt.noMatch % 2 ^ 16) + 2 ^ 32 * (s.pxt.overCredit % 2 ^ 16) + 2 ^ 48 * (s.pxt.tagFail % 2 ^ 16))) ∧
      exec (.rngSupplyRead p) s = .next (readsAs { s with rng := { s.rng with reseeds := 0, stretched := 0 } }
        (s.rng.reseeds % 2 ^ 32 + 2 ^ 32 * (s.rng.stretched % 2 ^ 32))) ∧
      exec (.rngWaitRead p) s = .next (readsAs { s with rng := { s.rng with notReady := 0 } }
        (s.rng.waiting.length % 2 ^ 16 + 2 ^ 16 * (s.rng.notReady % 2 ^ 16))) ∧
      exec (.mprEccRead p) s = .next (readsAs { s with mpr := { s.mpr with corrected := 0, retries := 0 } }
        (s.mpr.corrected % 2 ^ 32 + 2 ^ 32 * (s.mpr.retries % 2 ^ 16) + 2 ^ 48 * (s.mpr.scrubPasses % 2 ^ 16))) ∧
      exec (.monAlarmsRead p) s = .next (readsAs { s with mgc := { s.mgc with alarms := 0 } } s.mgc.alarms)) ∧
    (s.dev.mode = .halted → ∀ c ∈ [Instr.belStatusRead p, .prtPortRead p f, .pxtDropsRead p, .rngSupplyRead p, .rngWaitRead p, .mprEccRead p,
      .monAlarmsRead p], exec c s = .next (readsAs s 0))

/-- REGISTER_WRITE: the ring registers of the admin queue and of queue 0 take a write while ENABLE reads 0 and ignore it while it reads 1 (R58, R467);
DEV_HALT_VEC without ARM disarms (R49); the mailbox registers and the MSI-X table take their words; other offsets take nothing (R19). -/
def Obligations.RegisterWrites : Prop :=
  ∀ (s : State) (p : Fin 8) (v : BitVec 64), isRunning s = true → s.ports.length = 8 → s.wchBox.length = 8 → s.lcsBox.length = 8 →
    (portAt s p.val).formed = true →
    let h := portAt s p.val
    let w (off : BitVec 24) := Instr.registerWrite (.pf p off) false v
    (h.adm.qp.enable = false →
      Does (w 0x010008) s (fun t => OnlyPort s t p { h with adm := { h.adm with sqBase := lowWritten h.adm.sqBase v } }) ∧
      Does (w 0x01000C) s (fun t => OnlyPort s t p { h with adm := { h.adm with sqBase := highWritten h.adm.sqBase v } }) ∧
      Does (w 0x010010) s (fun t => OnlyPort s t p { h with adm := { h.adm with cqBase := lowWritten h.adm.cqBase v } }) ∧
      Does (w 0x010014) s (fun t => OnlyPort s t p { h with adm := { h.adm with cqBase := highWritten h.adm.cqBase v } }) ∧
      Does (.registerWrite (.pf p 0x010008) true v) s (fun t => OnlyPort s t p { h with adm := { h.adm with sqBase := v } }) ∧
      Does (w 0x010018) s (fun t => OnlyPort s t p { h with adm := { h.adm with
        sqLog2 := v.toNat % 2 ^ 5, cqLog2 := v.toNat / 2 ^ 8 % 2 ^ 5, vector := v.toNat / 2 ^ 16 % 2 ^ 11 } })) ∧
    (h.adm.qp.enable = true → ∀ off ∈ [0x010008, 0x01000C, 0x010010, 0x010014, 0x010018], Does (w off) s (fun t => OnlyPort s t p h)) ∧
    (v.getLsbD 31 = false → Does (w 0x00000C) s (fun t => OnlyPort s t p { h with haltVector := v.toNat % 2 ^ 11, haltArmed := none })) ∧
    (let b := s.wchBox.getD p.val Mailbox.init;
      Does (w 0x040108) s (fun t => t.wchBox.getD p.val Mailbox.init = { b with reqLen := v.toNat % 2 ^ 17 } ∧
        (∀ q : Fin 8, q ≠ p → t.wchBox.getD q.val Mailbox.init = s.wchBox.getD q.val Mailbox.init) ∧ { t with wchBox := s.wchBox } = s) ∧
      Does (.registerWrite (.pf p 0x040100) true v) s (fun t => t.wchBox.getD p.val Mailbox.init = { b with reqAddr := v } ∧
        { t with wchBox := s.wchBox } = s)) ∧
    (let b := s.lcsBox.getD p.val Mailbox.init;
      Does (.registerWrite (.pf p 0x060110) true v) s (fun t => t.lcsBox.getD p.val Mailbox.init = { b with outAddr := v } ∧
        (∀ q : Fin 8, q ≠ p → t.lcsBox.getD q.val Mailbox.init = s.lcsBox.getD q.val Mailbox.init) ∧ { t with lcsBox := s.lcsBox } = s)) ∧
    (∀ k, k < 2048 → let e := msixEntry h.msix k
      Does (w (BitVec.ofNat 24 (0x100008 + 16 * k))) s (fun t => msixEntry (portAt t p.val).msix k = { e with data := v.truncate 32 } ∧
        (∀ i, i ≠ k → msixEntry (portAt t p.val).msix i = msixEntry h.msix i) ∧ (portAt t p.val).msix.pending = h.msix.pending ∧
        OnlyPort s t p { h with msix := (portAt t p.val).msix })) ∧
    (∀ vf i x qp, h.vfEnable = true → vf ≠ 0 → vf ≤ h.totalVfs → instOf s p.val vf = some (i, x) → tblGet s.insts i = some x →
      tblGet x.queues 0 = some qp →
      (qp.enable = false →
        Does (.registerWrite (.vf p vf 0x0010) true v) s (fun t => OnlyInst s t i { x with q0SqBase := v }) ∧
        Does (.registerWrite (.vf p vf 0x0018) true v) s (fun t => OnlyInst s t i { x with q0CqBase := v }) ∧
        Does (.registerWrite (.vf p vf 0x0020) false v) s (fun t => OnlyInst s t i { x with
          q0SqLog2 := v.toNat % 2 ^ 5, q0CqLog2 := v.toNat / 2 ^ 8 % 2 ^ 5, q0Vector := v.toNat / 2 ^ 16 % 2 ^ 8 })) ∧
      (qp.enable = true → Does (.registerWrite (.vf p vf 0x0020) false v) s (fun t => OnlyInst s t i x))) ∧
    (∀ off ∈ [0x000000, 0x000004, 0x000100, 0x030010, 0x040000, 0x050000, 0x070000, 0x080000], exec (w off) s = .next s)

/-- Events of a function: resets (R49, R55), VF Enable, D3hot (R53), ATS invalidation (R54), an unmasked vector (R80), a host link. -/
def Obligations.FunctionEvents : Prop :=
  ∀ (s : State) (p : Fin 8), isRunning s = true → s.ports.length = 8 → (portAt s p.val).formed = true →
    let h := portAt s p.val
    (∀ mps mrrs, Does (.vfEnableSet ⟨p, mps, mrrs⟩) s (fun t => OnlyPort s t p { h with vfEnable := true, mps := mps.val, mrrs := mrrs.val })) ∧
    (∀ vf, h.atsInv.length < 32 → Does (.atsInvalidate p vf) s (fun t => OnlyPort s t p { h with atsInv := h.atsInv ++ [⟨vf, s.brt.count⟩] })) ∧
    Does (.d3hotTransition p 0 true) s (fun t => OnlyPort s t p { h with pfD3hot := true }) ∧
    (∀ vf, vf ≠ 0 → Does (.d3hotTransition p vf true) s (fun t => OnlyPort s t p { h with
      vfs := tblPut h.vfs vf { tblGetD h.vfs vf Vf.init with d3hot := true } })) ∧
    (h.adm.qp.held = [] → h.adm.qp.asleep = [] → h.adm.qp.msgDue = false → (∀ v ∈ h.msix.pending, (msixEntry h.msix v).masked = true) →
      Does (.d3hotTransition p 0 false) s (fun t => OnlyPort s t p { h with pfD3hot := false })) ∧
    (∀ v, v < 2048 → h.pfD3hot = false → let e := msixEntry h.msix v
      Does (.msixVectorUnmask p 0 v) s (fun t => msixEntry (portAt t p.val).msix v = { e with masked := false } ∧
        (∀ i, i ≠ v → msixEntry (portAt t p.val).msix i = msixEntry h.msix i) ∧
        (e.masked = true ∧ v ∈ h.msix.pending → t.out = .msix p.val 0 v e.addr e.data :: s.out ∧
          (portAt t p.val).msix.pending = h.msix.pending.filter (· ≠ v)) ∧
        (¬ (e.masked = true ∧ v ∈ h.msix.pending) → t.out = s.out ∧ (portAt t p.val).msix.pending = h.msix.pending) ∧
        { t with ports := s.ports, out := s.out } = s)) ∧
    (∀ width speed, width ∈ [1, 2, 4, 8] → 1 ≤ speed → speed ≤ 5 →
      Does (.linkUp (.host p) width speed) s (fun t => OnlyPort s t p { h with width := width, speed := speed })) ∧
    Does (.linkDown (.host p)) s (fun t => OnlyPort s t p { h with width := 0, speed := 0 }) ∧
    (∀ k, Does (.perstNAssert p k) s (fun t =>
      (portAt t p.val).vfEnable = false ∧ (portAt t p.val).haltVector = 0 ∧ (portAt t p.val).haltArmed = none ∧ (portAt t p.val).adm = Adm.init ∧
      (portAt t p.val).msix = Msix.init ∧ (portAt t p.val).vfs = [] ∧ (portAt t p.val).pfD3hot = false ∧
      (portAt t p.val).width = h.width ∧ (portAt t p.val).mrrs = 2 ∧ (portAt t p.val).mps = (if k = .pfFlr then h.mps else 0) ∧ (∀ q : Fin 8, q ≠ p → portAt t q.val = portAt s q.val) ∧
      (∀ d ∈ t.dgp, d.owner ≠ some (.pf p)) ∧ t.dev = s.dev ∧
      (s.dev.halting = false → s.brt.exhale = false → ∀ i x, tblGet s.insts i = some x → x.port = p → x.reset = none →
        ∃ y, tblGet t.insts i = some y ∧ y.state = .resetting ∧ y.reset = some ⟨s.brt.count, false, []⟩ ∧
          y.gen = if x.drain then x.gen else (x.gen + 1) % 2 ^ 32))) ∧
    (∀ vf i x, h.vfEnable = true → vf ≠ 0 → instOf s p.val vf = some (i, x) → tblGet s.insts i = some x → x.reset = none →
      s.brt.exhale = false → s.dev.halting = false →
      Does (.vfFlr p vf) s (fun t => tblGet (portAt t p.val).vfs vf = none ∧ ∃ y, tblGet t.insts i = some y ∧ y.state = .resetting ∧
        y.reset = some ⟨s.brt.count, false, []⟩ ∧ y.gen = if x.drain then x.gen else (x.gen + 1) % 2 ^ 32) ∧
      Does (.vfResetRequest p vf) s (fun t => ∃ y, tblGet t.insts i = some y ∧ y.state = .resetting ∧
        y.reset = some ⟨s.brt.count, false, []⟩ ∧ y.gen = if x.drain then x.gen else (x.gen + 1) % 2 ^ 32))

/-- Doorbells and queue control of an instance (R59, R78, R81, R82) and of an admin queue (R467): a value in range moves the index, one at or
beyond the ring's size is error cause DOORBELL, a head past the entries written HEAD_OVERRUN; ENABLE starts queue 0 and the admin rings with the
registers' settings where these are good. -/
def Obligations.QueueRegisters : Prop :=
  ∀ (s : State) (p : Fin 8), isRunning s = true → s.ports.length = 8 →
    (∀ vf i q x qp (v : BitVec 16), HasQueue s p vf i q x qp →
      (v.toNat < sqSize x q qp → Does (.sqTailDoorbell p vf q v) s (fun t => OnlyQueue s t i x q { qp with tail := v.toNat, shortTail := none })) ∧
      (sqSize x q qp ≤ v.toNat → Does (.sqTailDoorbell p vf q v) s (fun t => OnlyInst s t i (erred x 2))) ∧
      (v.toNat < cqSize x q qp →
        let n := qp.freed + (v.toNat + cqSize x q qp - qp.freed % cqSize x q qp) % cqSize x q qp
        (n ≤ qp.wr → Does (.cqHeadDoorbell p vf q v) s (fun t => OnlyQueue s t i x q { qp with freed := n })) ∧
        (qp.wr < n → Does (.cqHeadDoorbell p vf q v) s (fun t => OnlyInst s t i (erred x 3)))) ∧
      (cqSize x q qp ≤ v.toNat → Does (.cqHeadDoorbell p vf q v) s (fun t => OnlyInst s t i (erred x 2))) ∧
      (qp.enable = false → q ≠ 0 → Does (.queueEnable p vf q) s (fun t => OnlyQueue s t i x q { qp with enable := true })) ∧
      (qp.enable = false → q = 0 →
        (x.q0SqBase.toNat % 4096 = 0 ∧ x.q0CqBase.toNat % 4096 = 0 ∧ 6 ≤ x.q0SqLog2 ∧ x.q0SqLog2 ≤ 16 ∧ 6 ≤ x.q0CqLog2 ∧ x.q0CqLog2 ≤ 16 →
          Does (.queueEnable p vf q) s (fun t => OnlyQueue s t i x q { qp with
            enable := true, sqBase := x.q0SqBase, cqBase := x.q0CqBase, sqLog2 := x.q0SqLog2, cqLog2 := x.q0CqLog2, vector := x.q0Vector })) ∧
        (¬ (x.q0SqBase.toNat % 4096 = 0 ∧ x.q0CqBase.toNat % 4096 = 0 ∧ 6 ≤ x.q0SqLog2 ∧ x.q0SqLog2 ≤ 16 ∧ 6 ≤ x.q0CqLog2 ∧ x.q0CqLog2 ≤ 16) →
          exec (.queueEnable p vf q) s = .next s)) ∧
      Does (.queueDisable p vf q) s (fun t => OnlyQueue s t i x q { qp with enable := false })) ∧
    ((portAt s p.val).formed = true → let h := portAt s p.val
      let a := h.adm
      let good := a.sqBase.toNat % 4096 = 0 ∧ a.cqBase.toNat % 4096 = 0 ∧ 6 ≤ a.sqLog2 ∧ a.sqLog2 ≤ 12 ∧ 6 ≤ a.cqLog2 ∧ a.cqLog2 ≤ 12
      (a.qp.enable = false → a.error = false → good → Does (.adminEnable p) s (fun t => OnlyPort s t p { h with adm := { a with
        qp := admStart a
        cfgErr := false } }) ∧ admStart a = ⟨true, a.sqBase, a.cqBase, a.sqLog2, a.cqLog2, a.vector, 0, 0, 0, 0, a.qp.out, none, [], [], false, none, none⟩) ∧
      (a.qp.enable = false → a.error = false → ¬ good → Does (.adminEnable p) s (fun t => OnlyPort s t p { h with adm := { a with cfgErr := true } })) ∧
      Does (.adminDisable p) s (fun t => OnlyPort s t p { h with adm := { a with qp := { a.qp with enable := false }, cfgErr := false } }) ∧
      (a.error = true → a.qp.enable = false → a.qp.out = 0 →
        Does (.adminErrorClear p) s (fun t => OnlyPort s t p { h with adm := { a with error := false, errCause := 0 } })) ∧
      (∀ v : BitVec 32,
        let sq := 2 ^ (if a.qp.enable then a.qp.sqLog2 else a.sqLog2)
        let cq := 2 ^ (if a.qp.enable then a.qp.cqLog2 else a.cqLog2)
        let w := v.toNat % 2 ^ 16
        let n := a.qp.freed + (w + cq - a.qp.freed % cq) % cq
        (w < sq → Does (.admSqTailWrite p v) s (fun t => OnlyPort s t p { h with adm := { a with qp := { a.qp with tail := w, shortTail := none } } })) ∧
        (sq ≤ w → Does (.admSqTailWrite p v) s (fun t => OnlyPort s t p (admErred h 2))) ∧
        (w < cq → n ≤ a.qp.wr → Does (.admCqHeadWrite p v) s (fun t => OnlyPort s t p { h with adm := { a with qp := { a.qp with freed := n } } })) ∧
        (w < cq → a.qp.wr < n → Does (.admCqHeadWrite p v) s (fun t => OnlyPort s t p (admErred h 3))) ∧
        (cq ≤ w → Does (.admCqHeadWrite p v) s (fun t => OnlyPort s t p (admErred h 2)))))

/-- SUBMISSION_FETCH (R64, R71, R78, R89): an entry of an admin queue or of queue 0 joins its command queue; a whole entry of a work queue
becomes a job under the next number, or is rejected at the next inhale; a slot count out of range is error cause FRAMING, one beyond the
tail waits for the tail to move. -/
def Obligations.SubmissionFetches : Prop :=
  ∀ (s : State) (bs : Bytes),
    (∀ p, isRunning s = true → s.ports.length = 8 → fetchable s (.adm p) = true → bs.length = 64 → let h := portAt s p.val
      (∀ c ∈ (h.adm.q.cmds ++ [entryCmd bs 0 s.brt.count]).head?, 1 ≤ c.opcode ∧ c.opcode ≤ 0xB) →
      Does (.submissionFetch (.adm p) bs) s (fun t => SlotReads s t p.val 0 h.adm.qp 1 ∧
        OnlyPort { s with out := t.out } t p { h with adm := { h.adm with
          qp := headMoved h.adm.qp 1
          q := { h.adm.q with cmds := h.adm.q.cmds ++ [entryCmd bs 0 s.brt.count] } } })) ∧
    (∀ i x qp, MayFetch s i 0 x qp → bs.length = 64 →
      (∀ c ∈ (x.ctl.cmds ++ [entryCmd bs x.gen s.brt.count]).head?, 0x81 ≤ c.opcode ∧ c.opcode ≤ 0x8A) →
      Does (.submissionFetch (.inst i 0) bs) s (fun t => SlotReads s t x.port.val x.vf qp 1 ∧ OnlyInst { s with out := t.out } t i { charged s x 64 with
        queues := tblMod x.queues 0 (fun _ => headMoved qp 1)
        lastQueue := 0
        ctl := { x.ctl with cmds := x.ctl.cmds ++ [entryCmd bs x.gen s.brt.count] } })) ∧
    (∀ i q x qp, MayFetch s i q x qp → q ≠ 0 → s.plc.pageWait = none → 64 ≤ bs.length → let n := byteAt bs 4
      let tag := BitVec.ofNat 16 (le bs 2 2)
      let y := { charged s x (64 * n) with
        queues := tblMod x.queues q (fun _ => headMoved qp n)
        lastQueue := q }
      let g := gatherOf bs (le bs 6 2)
      (n = 0 ∨ 16 < n → Does (.submissionFetch (.inst i q) bs) s (fun t => OnlyInst { s with out := t.out } t i (erred (charged s x 64) 1))) ∧
      (1 ≤ n → n ≤ 16 → entriesLeft qp < n → Does (.submissionFetch (.inst i q) bs) s (fun t => OnlyInst { s with out := t.out } t i
        { charged s x 64 with queues := tblMod x.queues q (fun _ => { qp with shortTail := some qp.tail }) })) ∧
      (1 ≤ n → n ≤ 16 → n ≤ entriesLeft qp → bs.length = 64 * n → bucketAllows s i (64 * n) = true → tblGet s.jobs s.nextJob = none →
        (∀ k, jobKindOf (le bs 0 2) = some k → (k = .cipher → le bs 10 2 ≠ 0xFFFF) →
          workDefect { s with insts := tblMod s.insts i (fun _ => y) } i q bs = none →
          Does (.submissionFetch (.inst i q) bs) s (fun t => SlotReads s t x.port.val x.vf qp n ∧
            tblGet t.insts i = some y ∧ (∀ m, m ≠ i → tblGet t.insts m = tblGet s.insts m) ∧
            tblGet t.jobs s.nextJob = some { newJob i q tag x.gen k (bs.take 64) s.brt.count with
              gather := g
              stage := if g = [] then .ready else .reading } ∧
            (∀ m, m ≠ s.nextJob → tblGet t.jobs m = tblGet s.jobs m) ∧ t.nextJob = s.nextJob + 1 ∧
            { t with insts := s.insts, jobs := s.jobs, nextJob := s.nextJob, out := s.out } = s)) ∧
        (∀ st, workDefect { s with insts := tblMod s.insts i (fun _ => y) } i q bs = some st →
          Does (.submissionFetch (.inst i q) bs) s (fun t => SlotReads s t x.port.val x.vf qp n ∧ tblGet t.insts i = some y ∧
            t.waiting = s.waiting ++ [bareDue s i q tag st x.gen s.brt.count] ∧ t.jobs = s.jobs ∧ t.nextJob = s.nextJob))))

/-- DMA_READ_COMPLETE and ATS_TRANSLATION_COMPLETE (R54, R83, R88): a burst of a job's gather joins its input and the last one makes the job
ready to parse; the data of a command is held for it; a read that fails ends the job or command with DMA_FAULT and its owner enters the
error state. -/
def Obligations.DmaReads : Prop :=
  ∀ (s : State), isRunning s = true →
    (∀ k j x a n rest bs, Gathering s k j x → j.gather = (a, n) :: rest → bs ≠ [] → bs.length ≤ n → a.toNat % 4096 + bs.length ≤ 4096 →
      bucketAllows s j.inst bs.length = true → let m := bs.length
      Does (.dmaReadComplete (.job k) (.data bs)) s (fun t => Reads s t x.port.val x.vf a.toNat m ∧ tblGet t.jobs k = some { j with
          input := j.input ++ bs
          gather := if m = n then rest else (a + BitVec.ofNat 64 m, n - m) :: rest
          stage := if m = n ∧ rest = [] then .ready else .reading } ∧
        tblGet t.insts j.inst = some (charged s x m) ∧ (∀ i, i ≠ k → tblGet t.jobs i = tblGet s.jobs i) ∧
        (∀ i, i ≠ j.inst → tblGet t.insts i = tblGet s.insts i) ∧ { t with jobs := s.jobs, insts := s.insts, out := s.out } = s)) ∧
    (∀ k j x r, Gathering s k j x → (∀ bs, r ≠ .data bs) → Does (.dmaReadComplete (.job k) r) s (fun t => GatherLost s t k j x 4)) ∧
    (∀ p c rest d bs r, s.ports.length = 8 → s.dev.halting = false → (∀ b, r ≠ .data b) → let h := portAt s p.val
      h.pfD3hot = false → h.adm.q = ⟨c :: rest, d⟩ → cmdWantsData c = true → c.started = false → 1 ≤ c.opcode → c.opcode ≤ 0xB →
      admRefusal s p c = none → let got := d.getD []
      got.length < c.dataLen →
      (bs ≠ [] → got.length + bs.length ≤ c.dataLen → (c.dataAddr.toNat + got.length) % 4096 + bs.length ≤ 4096 →
        Does (.dmaReadComplete (.adm p) (.data bs)) s (fun t => Reads s t p.val 0 (c.dataAddr.toNat + got.length) bs.length ∧
          OnlyPort { s with out := t.out } t p { h with adm := { h.adm with q := ⟨c :: rest, some (got ++ bs)⟩ } })) ∧
      ((∀ e ∈ rest.head?, 1 ≤ e.opcode ∧ e.opcode ≤ 0xB) → Does (.dmaReadComplete (.adm p) r) s (fun t =>
        OnlyPort { s with waiting := s.waiting ++ [⟨admResult p c .dmaFault [] 0, 4, p.val, s.brt.count + 1⟩] } t p
          { admErred h 4 with adm := { (admErred h 4).adm with q := ⟨rest, none⟩ } }))) ∧
    (∀ i x c rest d bs r, s.dev.halting = false → tblGet s.insts i = some x → x.state ≠ .resetting → fnAsleep s x.port.val x.vf = false →
      (∀ b, r ≠ .data b) → x.ctl = ⟨c :: rest, d⟩ → cmdWantsData c = true → c.started = false → c.tag ≠ 0xFFFF → 0x81 ≤ c.opcode →
      c.opcode ≤ 0x8A → c.reserved = true → cmdLenOk c.opcode c.dataLen = true → let got := d.getD []
      got.length < c.dataLen →
      (bs ≠ [] → got.length + bs.length ≤ c.dataLen → (c.dataAddr.toNat + got.length) % 4096 + bs.length ≤ 4096 →
        bucketAllows s i bs.length = true →
        Does (.dmaReadComplete (.ctl i) (.data bs)) s (fun t => Reads s t x.port.val x.vf (c.dataAddr.toNat + got.length) bs.length ∧
          OnlyInst { s with out := t.out } t i { charged s x bs.length with ctl := ⟨c :: rest, some (got ++ bs)⟩ })) ∧
      ((∀ e ∈ rest.head?, 0x81 ≤ e.opcode ∧ e.opcode ≤ 0x8A) → Does (.dmaReadComplete (.ctl i) r) s (fun t =>
        OnlyInst { s with waiting := s.waiting ++ [⟨ctlResult i c .dmaFault [] 0, 3, i, s.brt.count + 1⟩] } t i
          { erred x 4 with ctl := ⟨rest, none⟩ }))) ∧
    (∀ p r, s.ports.length = 8 → fetchable s (.adm p) = true → (∀ bs, r ≠ .data bs) →
      Does (.dmaReadComplete (.entry (.adm p)) r) s (fun t => OnlyPort s t p (admErred (portAt s p.val) 4))) ∧
    (∀ i q x r, tblGet s.insts i = some x → fetchable s (.inst i q) = true → (∀ bs, r ≠ .data bs) →
      Does (.dmaReadComplete (.entry (.inst i q)) r) s (fun t => OnlyInst s t i (erred x 4)))

/-- ATS_TRANSLATION_COMPLETE (R54, R83): a translation request leaves with the function's requester ID; with access nothing else happens; without,
the jobs whose gather waits for the page end with DMA_FAULT and their instances enter ERROR with cause DMA_TRANSLATE, and where no read needs the
page its refusal is kept for the write that meets it (log 72). -/
def Obligations.Translations : Prop :=
  ∀ (s : State) (p : Fin 8) (vf page : Nat), isRunning s = true → (portAt s p.val).formed = true → s.ports.length = 8 → let h := portAt s p.val
    exec (.atsTranslationComplete ⟨p, vf, page⟩ true) s = .next { s with out := .atsRequest p.val vf page :: s.out } ∧
    (∀ k j x a n rest, Gathering s k j x → x.port = p → x.vf = vf → j.gather = (a, n) :: rest → a.toNat / 4096 = page → j.internal = none →
      Does (.atsTranslationComplete ⟨p, vf, page⟩ false) s (fun t => tblGet t.jobs k = none ∧
        (∃ y, tblGet t.insts j.inst = some y ∧ (x.state = .active → y.state = .error ∧ y.errCause = 5)) ∧
        ∃ w ∈ t.waiting, w.c.ring = .inst j.inst j.queue ∧ w.c.tag = j.tag ∧ w.c.status = .dmaFault ∧ w.c.out = [] ∧ w.due = s.brt.count + 1)) ∧
    (vf ≠ 0 → (∀ k j, tblGet s.jobs k = some j → j.stage ≠ .reading) → (∀ i x, tblGet s.insts i = some x → x.port = p → x.vf = vf →
        x.state = .error ∧ ∀ c ∈ x.ctl.cmds.head?, cmdReads c.opcode = false) →
      Does (.atsTranslationComplete ⟨p, vf, page⟩ false) s (fun t => t.out = .atsRequest p.val vf page :: s.out ∧
        OnlyPort { s with out := t.out } t p { h with noAccess := (vf, page) :: h.noAccess.filter (· ≠ (vf, page)) }))

/-- The checks every admin command meets, in the order of R66; CREATE_INSTANCE (R60 to R62), SET_RATE (R90), RESET_INSTANCE, DESTROY_INSTANCE (R63, R86, R87) and QUERY (R469). -/
def Obligations.InstanceCommands : Prop :=
  ∀ (s : State) (p : Fin 8) (c : Cmd) (d : Bytes),
    (∀ data, AdmFront s p c data → ∀ e ∈ admCommands p, c.opcode = e.1 → ∀ st, admRefusal s p c = some st →
      exec e.2 s = .next (admEnds s p c st [] 0)) ∧
    (AdmRuns s p 1 c d → let vf := le c.params 0 2
      let x := instOfDesc p vf d
      let good := zeroAt c.params 2 38 = true ∧ vf ≠ 0 ∧ vf ≤ (portAt s p.val).totalVfs ∧ instOf s p.val vf = none ∧ instDescOk d = true
      (good → instFits s x = true → ∀ i, tblGet s.insts i = none → (∀ k, k < i → (tblGet s.insts k).isSome = true) →
        exec (.createInstance p) s = .next (admMirrored { s with insts := tblPut s.insts i x } p c 5 (instanceBody i x) i)) ∧
      (good → instFits s x = false → exec (.createInstance p) s = .next (admEnds s p c .reservationFailed [] 0)) ∧
      (¬ good → exec (.createInstance p) s = .next (admEnds s p c .inputInvalid [] 0))) ∧
    (AdmRuns s p 4 c d → ∀ x, tblGet s.insts (le c.params 0 2) = some x → x.port = p → let i := le c.params 0 2
      let n := le c.params 2 2
      let good := zeroAt c.params 4 36 = true ∧ 1 ≤ n ∧ n ≤ 4096
      let y := { x with nextShare := some n }
      (good → portShares s p (some i) + n ≤ 4096 →
        exec (.setRate p) s = .next (admMirrored { s with insts := tblPut s.insts i y } p c 5 (instanceBody i y) 0)) ∧
      (good → 4096 < portShares s p (some i) + n → exec (.setRate p) s = .next (admEnds s p c .reservationFailed [] 0)) ∧
      (¬ good → exec (.setRate p) s = .next (admEnds s p c .inputInvalid [] 0))) ∧
    (AdmRuns s p 3 c d → zeroAt c.params 2 38 = true → ∀ x, tblGet s.insts (le c.params 0 2) = some x → x.port = p →
      Does (.resetInstance p) s (fun t => ResetAsked s t (le c.params 0 2) x ⟨p, c.tag, false⟩)) ∧
    (AdmRuns s p 2 c d → zeroAt c.params 2 38 = true → ∀ x, tblGet s.insts (le c.params 0 2) = some x → x.port = p →
      Does (.destroyInstance p) s (fun t => ResetAsked s t (le c.params 0 2) x ⟨p, c.tag, true⟩)) ∧
    (∀ e ∈ [(2, Instr.destroyInstance p), (3, .resetInstance p), (4, .setRate p)], AdmRuns s p e.1 c d →
      (∀ x, tblGet s.insts (le c.params 0 2) = some x → x.port ≠ p) ∨ zeroAt c.params (if e.1 = 4 then 4 else 2) (if e.1 = 4 then 36 else 38) = false →
      exec e.2 s = .next (admEnds s p c .inputInvalid [] 0)) ∧
    (AdmRuns s p 5 c d → let cls := byteAt c.params 0
      let i := le c.params 2 2
      let rep := if cls = 0 ∧ i = 0 then some (deviceReport s) else if cls = 1 ∧ i = p.val then some (portReport s p)
        else if cls = 2 then ((tblGet s.insts i).filter (fun x => decide (x.port = p))).map (fun x => instanceReport s i x (extentsUnacked s i))
        else if cls = 3 then s.charts.inForce.bind (fun ch => (ch.pools.find? (fun q => q.id = i)).map (poolReport s ch))
        else if cls = 4 then (s.changes.live.find? (fun e => e.1 % 65536 = i && s.brt.count < e.2.expiry)).map (fun e => changeReport s e.1 e.2)
        else none
      let good := zeroAt c.params 1 1 = true ∧ zeroAt c.params 4 36 = true
      (∀ r, rep = some r → good → r.length ≤ c.dataLen → exec (.query p) s = .next (admEnds s p c .ok r r.length)) ∧
      (rep = none ∨ ¬ good ∨ (∃ r, rep = some r ∧ c.dataLen < r.length) → exec (.query p) s = .next (admEnds s p c .inputInvalid [] 0)))

/-- INSTANCE_RESET_DONE (R85, R86): the instance is ACTIVE again with queue 0 alone, its generation raised once, its contexts gone; and
RESET_DRAIN_COMPLETIONS of a DRAIN instance. -/
def Obligations.InstanceResets : Prop :=
  ∀ (s : State) (i : Nat) (x : Inst) (r : ResetRun), isRunning s = true → s.brt.exhale = false → tblGet s.insts i = some x → x.state = .resetting →
    x.reset = some r → (∀ w ∈ r.waiters, w.destroy = false) → s.dev.halting = false →
    (r.breath + (if x.drain then 2 else 1) ≤ s.brt.count → (x.drain = true → instanceQuiet s i x = true) → r.waiters = [] →
      Does (.instanceResetDone i) s (fun t => tblGet t.insts i = some { x with
          state := .active
          errCause := 0
          gen := if x.drain then (x.gen + 1) % 2 ^ 32 else x.gen
          q0SqLog2 := 6
          q0CqLog2 := 6
          q0Vector := 0
          queues := [(0, Qp.init)]
          lastQueue := 0
          reset := none } ∧
        (∀ k, k ≠ i → tblGet t.insts k = tblGet s.insts k) ∧
        (∀ e, e ∈ t.bore.contexts ↔ e ∈ s.bore.contexts ∧ e.1 / 4096 ≠ i) ∧
        { t with insts := s.insts, bore := s.bore } = s)) ∧
    (r.breath + (if x.drain then 2 else 1) ≤ s.brt.count → (x.drain = true → instanceQuiet s i x = true) → ∀ w c, r.waiters = [w] →
      (portAt s w.port.val).adm.q = ⟨[c], none⟩ → c.opcode = 3 → c.tag ≠ 0xFFFF → c.started = true → le c.params 0 2 = i →
      Does (.instanceResetDone i) s (fun t => (∃ y, tblGet t.insts i = some y ∧ y.state = .active ∧ y.reset = none ∧
          t.waiting = s.waiting ++ [⟨admResult w.port c .ok [] y.gen, 4, w.port.val, s.brt.count⟩]))) ∧
    (x.drain = true → r.drained = false → r.breath < s.brt.count →
      Does (.resetDrainCompletions i) s (fun t => tblGet t.insts i = some { x with reset := some { r with drained := true } } ∧
        (∀ k j, tblGet t.jobs k = some j → j.inst = i → j.stage = .aborted → j.abort ≠ some .instanceReset) ∧
        (∀ k j, tblGet s.jobs k = some j → j.inst = i → j.stage = .aborted → j.abort = some .instanceReset → j.internal = none →
          ∃ w ∈ t.waiting, w.c.ring = .inst i j.queue ∧ w.c.tag = j.tag ∧ w.c.status = .instanceReset ∧ w.c.out = [] ∧ w.due = s.brt.count)))

/-- CHART_DELTA, IMPORT_DOMAIN and ENROLL_OFFICER check their data and stage a change whose number they answer (R67, R68, R108, R109, R397, R403);
after 2^28 breaths it is dropped (R68). -/
def Obligations.StagedChanges : Prop :=
  ∀ (s : State) (p : Fin 8) (c : Cmd) (d : Bytes),
    (AdmRuns s p 6 c d → (zeroAt c.params 0 40 = false → exec (.chartDelta p) s = .next (admEnds s p c .inputInvalid [] 0)) ∧
      (zeroAt c.params 0 40 = true → ∀ ch, (if s.dev.mode = .tune then fullCheck s d else deltaCheck s d) = .ok ch → MayStage s (.port p) → ∃ id, NewId s id ∧
        exec (.chartDelta p) s = .next (admEnds (staged s id (if s.dev.mode = .tune then .fullChart else .chartDelta) (.port p) d []) p c .ok [] id)) ∧
      (zeroAt c.params 0 40 = true → ∀ st, (if s.dev.mode = .tune then fullCheck s d else deltaCheck s d) = .error st →
        exec (.chartDelta p) s = .next (admEnds s p c st [] 0))) ∧
    (AdmRuns s p 8 c d →
      (∀ k, packageOf d = some k → zeroAt c.params 0 40 = true → slice k.envelope 8 32 = recipientId (transportPublic s) →
        MayStage s (.port p) → ∃ id, NewId s id ∧
          exec (.importDomain p) s = .next (admEnds (staged s id .importDomain (.port p) d []) p c .ok [] id)) ∧
      (packageOf d = none → exec (.importDomain p) s = .next (admEnds s p c .inputInvalid [] 0))) ∧
    (AdmRuns s p 9 c d → let i := byteAt c.params 0
      (i < 16 → zeroAt c.params 1 39 = true → enrolOk s i d = none → MayStage s (.port p) → ∃ id, NewId s id ∧
        exec (.enrollOfficer p) s = .next (admEnds (staged s id .officer (.port p) d (leBytes 1 i)) p c .ok [] id)) ∧
      (16 ≤ i ∨ zeroAt c.params 1 39 = false → exec (.enrollOfficer p) s = .next (admEnds s p c .inputInvalid [] 0))) ∧
    (∀ e ∈ [(6, Instr.chartDelta p), (8, .importDomain p), (9, .enrollOfficer p)], AdmRuns s p e.1 c d → 4 ≤ stagedOf s (.port p) →
      ∃ st, st ≠ .ok ∧ exec e.2 s = .next (admEnds s p c st [] 0)) ∧
    (∀ id x, isRunning s = true → tblGet s.changes.live id = some x → x.expiry ≤ s.brt.count →
      Does (.changeExpire id) s (fun t => tblGet t.changes.live id = none ∧
        (∀ k, k ≠ id → tblGet t.changes.live k = tblGet s.changes.live k) ∧ t.changes.next = s.changes.next ∧
        ((boxAt s x.carrier).change ≠ id → t.wchBox = s.wchBox ∧ t.lcsBox = s.lcsBox) ∧
        ((boxAt s x.carrier).change = id → s.wchBox.length = 8 → s.lcsBox.length = 8 → ∀ q, x.carrier = .wch q ∨ x.carrier = .lcs q →
          boxAt t x.carrier = { boxAt s x.carrier with done := true, status := 0x0041 }) ∧
        { t with changes := s.changes, wchBox := s.wchBox, lcsBox := s.lcsBox } = s))

/-- APPROVE (R65, R68, R398): the first approval is held; the second, of another officer, makes the change act; what fails is answered in R68's
order. -/
def Obligations.Approvals : Prop :=
  ∀ (s : State) (p : Fin 8) (c : Cmd) (id o : Nat) (sig : Bytes) (x : Change),
    (Approves s p c id o sig x → x.officer = none → bootstraps s x o = false → Does (.approve (.port p)) s (fun t =>
      tblGet t.changes.live id = some { x with officer := some o, approval := sig } ∧
      (∀ k, k ≠ id → tblGet t.changes.live k = tblGet s.changes.live k) ∧ Approved s t p c .ok 1 ∧ Logged s t 0x0302 ∧
      { t with changes := { t.changes with live := s.changes.live }, waiting := s.waiting, ports := s.ports, mgc := s.mgc } = s)) ∧
    (Approves s p c id o sig x → x.officer = some o → exec (.approve (.port p)) s = .next (admEnds s p c .keyPolicy [] 1)) ∧
    (AdmRuns s p 7 c sig → zeroAt c.params 5 35 = true → tblGet s.changes.live (le c.params 0 4) = some x → s.brt.count < x.expiry →
      byteAt c.params 4 < 16 → approvalVerifies s (le c.params 0 4) x (byteAt c.params 4) sig = false →
      exec (.approve (.port p)) s = .next (admEnds s p c .signatureInvalid [] (if x.officer.isSome then 1 else 0))) ∧
    (AdmRuns s p 7 c sig → tblGet s.changes.live (le c.params 0 4) = none → exec (.approve (.port p)) s = .next (admEnds s p c .inputInvalid [] 0)) ∧
    (∀ f, Approves s p c id o sig x → bootstraps s x o = false → x.officer = some f → f ≠ o →
      (x.kind = .tuneEntry → x.carrier = .mctp → tuneFrom s = true → Does (.approve (.port p)) s (fun t =>
        t.dev = { s.dev with tuneReq := some (s.brt.count + 1) } ∧ tblGet t.changes.live id = none ∧ Approved s t p c .ok 2)) ∧
      (x.kind = .officer → (∃ q, x.carrier = .port q) → x.data ≠ [] → enrolOk s (byteAt x.params 0) x.data = none → s.twn.role = 0 →
        Does (.approve (.port p)) s (fun t => t.dom = { s.dom with
            officers := tblPut s.dom.officers (byteAt x.params 0) x.data
            seq := s.dom.seq + 1 } ∧ t.changes.live = [] ∧ Approved s t p c .ok 2)) ∧
      (x.kind = .chartDelta → s.charts.deltaWait = none → (s.dev.mode = .service ∨ s.dev.mode = .migrate ∨ s.dev.mode = .recover) →
        ∀ ch, deltaCheck s x.data = .ok ch → deltaLive s ch = true → storeHolds s x.data = true → Does (.approve (.port p)) s (fun t =>
          (∃ w, t.charts.deltaWait = some w ∧ w.chart = ch ∧ w.approver = some (.port p, id) ∧
            w.inhale = (if s.brt.cycle = 0 ∧ s.brt.exhale = false then s.brt.count + 1 else s.brt.count + 2)) ∧
          t.charts.deltas = s.charts.deltas ++ [⟨x.data, approvalMessage s true id x, [(f, x.approval), (o, sig)]⟩] ∧
          t.waiting = s.waiting ∧ t.charts.inForce = s.charts.inForce))) ∧
    (∀ q, isLive s = true → lcNow s ≠ 5 → s.dev.mode ≠ .halted → sig.length = 4627 → zeroAt q 5 35 = true →
      tblGet s.changes.live (le q 0 4) = some x → s.brt.count < x.expiry → byteAt q 4 < 16 → approvalVerifies s (le q 0 4) x (byteAt q 4) sig = true →
      x.officer = none → bootstraps s x (byteAt q 4) = false → Does (.approve (.mctp q sig)) s (fun t => t.out = .mctp .ok [1] :: s.out ∧
        tblGet t.changes.live (le q 0 4) = some { x with officer := some (byteAt q 4), approval := sig } ∧ Logged s t 0x0302))

/-- FW_UPDATE, FINAL, RequestUpdate and the session's end (R438 to R441): chunks follow one another into the slot that does not run; FINAL
makes an image that passes R440's checks pending. PLDM's own completion codes are presumed (log 75). -/
def Obligations.FirmwareUpdate : Prop :=
  ∀ (s : State), let slot := 1 - runningSlot s
    let held := s.mgc.fwSlots.getD slot []
    let written := match s.mgc.fwSession with
      | some x => x.written
      | none => 0
    (∀ p c d, AdmRuns s p 0xA c d → zeroAt c.params 5 35 = true → let off := le c.params 0 4
      let wrote := { s with mgc := { s.mgc with
        fwSlots := listSet s.mgc.fwSlots slot (held.take off ++ d)
        fwPending := if s.mgc.fwPending = some slot then none else s.mgc.fwPending
        fwSession := some ⟨.port p, off + d.length, s.brt.count⟩ } }
      let mine := ∀ x, s.mgc.fwSession = some x → x.carrier = .port p
      (byteAt c.params 4 = 0 → mine → off = written → off + d.length ≤ 2 ^ 23 → exec (.fwUpdate (.port p)) s = .next (admEnds wrote p c .ok [] 0)) ∧
      (byteAt c.params 4 = 0 → mine → off ≠ written ∨ 2 ^ 23 < off + d.length → exec (.fwUpdate (.port p)) s = .next (admEnds s p c .inputInvalid [] 0)) ∧
      (byteAt c.params 4 = 0 → ¬ mine → exec (.fwUpdate (.port p)) s = .next (admEnds s p c .reservationFailed [] 0)) ∧
      (byteAt c.params 4 = 1 → mine → off = written → off + d.length ≤ 2 ^ 23 → slot < s.mgc.fwSlots.length →
        (fwCheck s (held.take off ++ d) = none → exec (.fwUpdateFinal (.port p)) s = .next (admEnds { wrote with mgc := { wrote.mgc with
          fwPending := some slot
          fwSession := none } } p c .ok [] slot)) ∧
        (∀ st, fwCheck s (held.take off ++ d) = some st → exec (.fwUpdateFinal (.port p)) s = .next (admEnds { wrote with mgc := { wrote.mgc with
          fwSlots := listSet wrote.mgc.fwSlots slot []
          fwSession := none } } p c st [] 0)))) ∧
    (isLive s = true → lcNow s ≠ 5 →
      (s.mgc.fwSession = none → exec .pldmRequestUpdate s = .next { s with
        mgc := { s.mgc with fwSession := some ⟨.mctp, 0, s.brt.count⟩ }
        out := .pldm 0x00 [] :: s.out }) ∧
      (∀ x, s.mgc.fwSession = some x → exec .pldmRequestUpdate s = .next { s with
        out := .pldm 0x81 [] :: s.out }) ∧
      (∀ x q d, s.mgc.fwSession = some x → x.carrier = .mctp → byteAt q 4 = 0 → zeroAt q 5 35 = true → d ≠ [] → d.length ≤ 2 ^ 20 →
        le q 0 4 = x.written → x.written + d.length ≤ 2 ^ 23 → Does (.fwUpdate (.mctp q d)) s (fun t => t.out = .pldm 0x00 [] :: s.out ∧
          t.mgc.fwSlots = listSet s.mgc.fwSlots slot (held.take x.written ++ d) ∧
          t.mgc.fwSession = some ⟨.mctp, x.written + d.length, s.brt.count⟩ ∧ { t with out := s.out, mgc := s.mgc } = s))) ∧
    (∀ x, isLive s = true → s.mgc.fwSession = some x → x.breath + 2 ^ 28 ≤ s.brt.count →
      exec .fwSessionTimeout s = .next { s with mgc := { s.mgc with fwSession := none } })

/-- MONITOR_CFG and the end of a window (R443 to R446). -/
def Obligations.MonitorCommands : Prop :=
  ∀ (s : State), s.mgc.channels.length = 64 →
    (∀ p c d, AdmRuns s p 0xB c d → byteAt c.params 0 < 64 → zeroAt c.params 7 33 = true → let k := byteAt c.params 0
      let x := s.mgc.channels.getD k MonChan.init
      let put (y : MonChan) : State := { s with mgc := { s.mgc with channels := listMod s.mgc.channels k (fun _ => y) } }
      let cfg : MonCfg := ⟨byteAt c.params 2, byteAt c.params 3, byteAt c.params 4, le c.params 5 2, 0xFFFFFFFF⟩
      let waits (action : Nat) : State :=
        { modPort s p.val (fun h => { h with adm := { h.adm with q := startCmd h.adm.q } }) with
          mgc := { s.mgc with snaps := s.mgc.snaps ++ [⟨k, action, some p⟩] } }
      (byteAt c.params 1 = 0 → monCfgOk cfg = true → (portAt s p.val).global = true →
        exec (.configure (.port p)) s = .next (admEnds (put { x with next := some cfg }) p c .ok [] 0)) ∧
      (byteAt c.params 1 = 3 → zeroAt c.params 2 5 = true → (portAt s p.val).global = true →
        exec (.disable (.port p)) s = .next (admEnds (put { x with cfg := { x.cfg with source := 0 }, next := none }) p c .ok [] 0)) ∧
      (byteAt c.params 1 = 1 → zeroAt c.params 2 5 = true →
        (x.cfg.source = 1 → ∃ e, tblGet s.insts x.cfg.index = some e ∧ e.port = p) → 80 ≤ c.dataLen → exec (.snapshot (.port p)) s = .next (waits 1)) ∧
      (byteAt c.params 1 = 2 → zeroAt c.params 2 5 = true → (portAt s p.val).global = true → 80 ≤ c.dataLen →
        exec (.snapshotAndClear (.port p)) s = .next (waits 2)) ∧
      (byteAt c.params 1 = 0 → monCfgOk cfg = true → (portAt s p.val).global = false →
        exec (.configure (.port p)) s = .next (admEnds s p c .keyPolicy [] 0))) ∧
    (∀ q d, isLive s = true → lcNow s ≠ 5 → byteAt q 0 < 64 → zeroAt q 7 33 = true → let k := byteAt q 0
      let x := s.mgc.channels.getD k MonChan.init
      (byteAt q 1 = 3 → zeroAt q 2 5 = true → exec (.disable (.mctp q d)) s = .next { s with
        mgc := { s.mgc with channels := listMod s.mgc.channels k (fun _ => { x with cfg := { x.cfg with source := 0 }, next := none }) }
        out := .mctp .ok [] :: s.out }) ∧
      (byteAt q 1 = 2 → zeroAt q 2 5 = true → s.dev.mode ≠ .halted → exec (.snapshotAndClear (.mctp q d)) s = .next { s with
        mgc := { s.mgc with snaps := s.mgc.snaps ++ [⟨k, 2, none⟩] } })) ∧
    (∀ c : Fin 64, isRunning s = true → s.brt.cycle = 0 → s.brt.exhale = false → let x := s.mgc.channels.getD c.val MonChan.init
      x.cfg.source ≠ 0 → x.cfg.windowLog2 ≤ 30 → x.start + 2 ^ x.cfg.windowLog2 ≤ s.brt.count → Does (.monitorWindowEnd c) s (fun t =>
        (∃ y, t.mgc.channels = listMod s.mgc.channels c.val (fun _ => y) ∧ y.latched = { x.active with lastBreath := s.brt.count - 1 } ∧
          y.start = s.brt.count ∧ y.cfg = x.cfg ∧ (x.cfg.source ≠ 3 → x.cfg.source ≠ 4 → y.active = MonSet.init)) ∧
        (x.cfg.limit < x.active.max → Logged s t 0x0210) ∧ (x.active.max ≤ x.cfg.limit → t.mgc.logSeq = s.mgc.logSeq) ∧
        { t with mgc := s.mgc } = s))

/-- Control commands with a bad tag, reserved byte or data length (R64), and CREATE_QUEUE, DESTROY_QUEUE (R69) and QUERY_INSTANCE (R469). -/
def Obligations.QueueCommands : Prop :=
  ∀ (s : State) (i : Nat) (c : Cmd) (d : Bytes) (x : Inst),
    (∀ e ∈ ctlCommands i, ∀ data, CtlFront s i e.1 c data x →
      (c.tag = 0xFFFF ∨ c.reserved = false ∨ (cmdReads e.1 = true ∧ cmdLenOk e.1 c.dataLen = false)) →
      exec e.2 s = .next (ctlEnds s i c .inputInvalid [] 0)) ∧
    (CtlRuns s i 0x81 c d x →
      let q := le c.params 0 2
      let sqBase := BitVec.ofNat 64 (le c.params 8 8)
      let cqBase := BitVec.ofNat 64 (le c.params 16 8)
      let good := zeroAt c.params 5 3 = true ∧ zeroAt c.params 24 16 = true ∧ q ≠ 0 ∧ tblGet x.queues q = none ∧ sqBase.toNat % 4096 = 0 ∧
        cqBase.toNat % 4096 = 0 ∧ 6 ≤ byteAt c.params 2 ∧ byteAt c.params 2 ≤ 16 ∧ 6 ≤ byteAt c.params 3 ∧ byteAt c.params 3 ≤ 16
      let qp : Qp := ⟨false, sqBase, cqBase, byteAt c.params 2, byteAt c.params 3, byteAt c.params 4, 0, 0, 0, 0, 0, none, [], [], false, none, none⟩
      (good → q < x.maxQueues → exec (.createQueue i) s = .next (ctlEnds (modInst s i (fun y => { y with queues := tblPut y.queues q qp })) i c .ok [] 0)) ∧
      (good → x.maxQueues ≤ q → exec (.createQueue i) s = .next (ctlEnds s i c .reservationFailed [] 0)) ∧
      (¬ good → exec (.createQueue i) s = .next (ctlEnds s i c .inputInvalid [] 0))) ∧
    (CtlRuns s i 0x82 c d x → let q := le c.params 0 2
      (∀ qp, tblGet x.queues q = some qp → zeroAt c.params 2 38 = true → q ≠ 0 → qp.enable = false → qp.out = 0 →
        exec (.destroyQueue i) s = .next (ctlEnds (modInst s i (fun y => { y with queues := tblDel y.queues q })) i c .ok [] 0)) ∧
      ((∀ qp, tblGet x.queues q = some qp → q = 0 ∨ qp.enable = true ∨ qp.out ≠ 0) →
        exec (.destroyQueue i) s = .next (ctlEnds s i c .inputInvalid [] 0))) ∧
    (CtlRuns s i 0x8A c d x → zeroAt c.params 0 40 = true → let r := instanceReport s i x (extentsUnacked s i)
      (r.length ≤ c.dataLen → exec (.queryInstance i) s = .next (ctlEnds s i c .ok r r.length)) ∧
      (c.dataLen < r.length → exec (.queryInstance i) s = .next (ctlEnds s i c .inputInvalid [] 0)))

/-- CREATE_STREAM, DESTROY_STREAM and STREAM_REKEY (R241, R242, R244, R268), here of a device without a twin. -/
def Obligations.StreamCommands : Prop :=
  ∀ (s : State) (i : Nat) (c : Cmd) (d : Bytes) (x : Inst), s.twn.role = 0 →
    (CtlRuns s i 0x83 c d x → ∀ k, streamClass (byteAt d 0) = some k → byteAt c.params 0 = byteAt d 0 → zeroAt c.params 1 39 = true →
      streamFieldsOk k d = true → transportOk s k (k = .transit && bitOf (byteAt d 2) 3) d = true → (s.dev.part = .lc → k = .lookaside) →
      (k = .preserve → ∀ r ∈ [0x0234, 0x0324, 0x0235, 0x0325], (poolFor s x r).isSome = true) → streamSlots s i k d = .ok () →
      ((streamsOf s i).length < x.maxStreams → Does (.createStream i) s (fun t => ∃ sid y, t.bore.lastStream = some sid ∧
        tblGet t.bore.streams sid = some y ∧ y.inst = i ∧ y.cls = k ∧ y.keySlot = le d 4 2 ∧ y.linkId = slice d 16 8 ∧ y.counter = y.ceiling ∧
        y.destroy = false ∧ (k ≠ .transit → y.epoch = 0 ∧ y.counter = 0) ∧ (y.opening = true ↔ k = .preserve) ∧
        (s.bore.lastStream = none → tblGet s.bore.streams 0 = none → sid = 0) ∧
        (∀ n, s.bore.lastStream = some n → tblGet s.bore.streams ((n + 1) % 2 ^ 20) = none → sid = (n + 1) % 2 ^ 20) ∧
        t.waiting = s.waiting ++ [⟨ctlResult i c .ok [] sid, 3, i, s.brt.count + 1⟩] ∧ t.insts = (ctlLeft s i).insts)) ∧
      (x.maxStreams ≤ (streamsOf s i).length → exec (.createStream i) s = .next (ctlEnds s i c .reservationFailed [] 0))) ∧
    (CtlRuns s i 0x84 c d x → zeroAt c.params 4 36 = true → let sid := le c.params 0 4
      ∀ y, tblGet s.bore.streams sid = some y → y.inst = i →
      ((∀ e ∈ s.bore.flows, e.2.sid ≠ sid) → (∀ e ∈ s.jobs, cipherStream e.2 ≠ some sid) → x.queues ≠ [] →
        Does (.destroyStream i) s (fun t => t.bore.streams = tblDel s.bore.streams sid ∧
          (∀ e ∈ t.bore.contexts, ∀ n, e.2.stream ≠ some (sid, n)) ∧ t.insts = (ctlLeft s i).insts ∧
          t.waiting = s.waiting ++ [⟨ctlResult i c .ok [] 0, 3, i, s.brt.count + 1⟩])) ∧
      (streamBusy s sid = true → (∀ e ∈ s.bore.flows, e.2.sid = sid → e.2.kind ≠ .put) →
        exec (.destroyStream i) s = .next { ctlBegun s i with bore := { s.bore with
          streams := tblMod s.bore.streams sid (fun z => { z with destroy := true, held := [] }) } })) ∧
    (CtlRuns s i 0x85 c d x → zeroAt c.params 6 34 = true → let sid := le c.params 0 4
      let h := le c.params 4 2
      ∀ y, tblGet s.bore.streams sid = some y → y.inst = i → y.destroy = false →
      (streamKeySlot s i h y.cls = .ok () → oldEpochWork s sid y = false →
        exec (.streamRekey i) s = .next { ctlBegun s i with bore := { s.bore with
          streams := tblMod s.bore.streams sid (fun z => { z with nextSlot := some h, rekey := true }) } }) ∧
      (streamKeySlot s i h y.cls = .error .inputInvalid → exec (.streamRekey i) s = .next (ctlEnds s i c .inputInvalid [] 0))) ∧
    (∀ e ∈ [(0x84, Instr.destroyStream i), (0x85, .streamRekey i)], CtlRuns s i e.1 c d x → tblGet s.bore.streams (le c.params 0 4) = none →
      exec e.2 s = .next (ctlEnds s i c .inputInvalid [] 0))

/-- LOAD_KEY (R333), UNLOAD_KEY and its end (R331), EXPORT_CONTEXT and IMPORT_CONTEXT (R277). -/
def Obligations.KeyCommands : Prop :=
  ∀ (s : State) (i : Nat) (c : Cmd) (d : Bytes) (x : Inst),
    (CtlRuns s i 0x86 c d x → zeroAt c.params 0 40 = true →
      (∀ h key n, loadCheck s i d = .ok (h, key, n) → s.twn.role = 0 → Does (.loadKey i) s (fun t =>
        (∃ y, slotAt t i n = some y ∧ Filled s y i h.alg h.usage h.policy h.kind key) ∧
        (∀ k, k ≠ i * 16384 + n → tblGet t.wch.slots k = tblGet s.wch.slots k) ∧
        t.waiting = s.waiting ++ [⟨ctlResult i c .ok [] n, 3, i, s.brt.count + 1⟩] ∧
        { t with wch := s.wch, insts := s.insts, waiting := s.waiting } = s)) ∧
      (∀ h key, blobCheck s d = .ok (h, key) → materialOk h.alg key = true → h.owner ≠ i →
        exec (.loadKey i) s = .next (ctlEnds (modInst s i (fun y => erred y 7)) i c .keyPolicy [] 0)) ∧
      (∀ st, blobCheck s d = .error st → exec (.loadKey i) s = .next (ctlEnds s i c st [] 0))) ∧
    (CtlRuns s i 0x87 c d x → zeroAt c.params 2 38 = true → let h := le c.params 0 2
      (h < x.maxSlots → ∀ k, slotAt s i h = some k → k.reserved = false → k.freeing = none →
        (slotInStream s i h = false → exec (.unloadKey i) s = .next { ctlBegun s i with wch := { s.wch with
          slots := tblPut s.wch.slots (i * 16384 + h) { k with freeing := some s.nextJob } } }) ∧
        (slotInStream s i h = true → exec (.unloadKey i) s = .next (ctlEnds s i c .keyPolicy [] 0))) ∧
      (x.maxSlots ≤ h ∨ slotAt s i h = none → exec (.unloadKey i) s = .next (ctlEnds s i c .keyNotLoaded [] 0))) ∧
    (∀ h k n rest, isRunning s = true → tblGet s.insts i = some x → slotAt s i h = some k → k.freeing = some n →
      (∀ e ∈ s.jobs, e.1 < n → e.2.inst = i → jobNames e.2 h = false) → x.ctl = ⟨c :: rest, none⟩ → c.opcode = 0x87 → c.tag ≠ 0xFFFF → c.started = true →
      le c.params 0 2 = h → (∀ y ∈ rest.head?, 0x81 ≤ y.opcode ∧ y.opcode ≤ 0x8A) → s.twn.role = 0 →
      Does (.unloadKeyFree i h) s (fun t => slotAt t i h = none ∧ (∀ k, k ≠ i * 16384 + h → tblGet t.wch.slots k = tblGet s.wch.slots k) ∧
        (∀ e ∈ t.bore.contexts, ¬ (e.1 / 4096 = i ∧ e.2.slot = h)) ∧ (∀ j, (i, h) ∉ (clusterAt t j).keyCache) ∧
        t.insts = (ctlLeft s i).insts ∧ t.waiting = s.waiting ++ [⟨ctlResult i c .ok [] 0, 3, i, s.brt.count + 1⟩])) ∧
    (CtlRuns s i 0x88 c d x → zeroAt c.params 3 37 = true → let h := le c.params 0 2
      h < x.maxContexts → contextHeld s i h = false → ∀ k slot, tblGet s.bore.contexts (i * 4096 + h) = some k →
      exportCheck s i x (byteAt c.params 2) c.dataLen k = .ok slot → let n := s.bore.exportSerial
      let left : Bore := { s.bore with
        contexts := tblDel s.bore.contexts (i * 4096 + h)
        exportSerial := n + 1 }
      (byteAt c.params 2 = 0 → let head := contextHead 0 k.alg k.op n 0 (keyFpr (slotMaterial slot))
        let out := head ++ kwpWrap s.wch.exportKey (head ++ contextState k)
        exec (.exportContext i) s = .next (ctlEnds { s with
          bore := left
          wch := { s.wch with exportSerials := s.wch.exportSerials ++ [n] } } i c .ok out out.length)) ∧
      (byteAt c.params 2 = 1 → ∀ g, s.dom.gens.getLast? = some g → let head := contextHead 1 k.alg k.op n s.dom.id (keyFpr (slotMaterial slot))
        let out := head ++ kwpWrap g.2 (head ++ contextState k)
        exec (.exportContext i) s = .next (ctlEnds { s with bore := left } i c .ok out out.length))) ∧
    (CtlRuns s i 0x89 c d x → zeroAt c.params 0 40 = true →
      (∀ b h slot n, contextOpen s d = .ok b → slotByFpr s i (byteAt d 6 % 16) (slice d 32 16) = some h → checkSlot s i h = .ok slot →
        freeContext s i x = some n → exec (.importContext i) s = .next (ctlEnds { s with
          bore := { s.bore with contexts := tblPut s.bore.contexts (i * 4096 + n) (contextOf (le d 6 2) (byteAt d 8) h b) }
          wch := if byteAt d 5 = 0 then { s.wch with exportSerials := s.wch.exportSerials.filter (· ≠ le d 16 8) } else s.wch } i c .ok [] n)) ∧
      (∀ st, contextOpen s d = .error st → exec (.importContext i) s = .next (ctlEnds s i c st [] 0)))

/-- The rows of PK_JOB and ROUTINE_JOB: a job that passes the checks of R211 (R205) is admitted on its routine, in its pool, with its pages
(R144); without pages left fetch waits (R369); one that fails a check is rejected (R40). -/
def Obligations.JobParse : Prop :=
  ∀ (s : State) (k : Nat) (j : Job),
    (∀ e ∈ pkRows, Parses s k .pk j → jOp j = e.1 → let rid := pkRoutine (jAlg j) e.1
      (∀ keys x r p, pkParse s (durable s) k j = .ok keys → tblGet s.insts j.inst = some x → routineSec s rid = some r → poolFor s x rid = some p →
        (jobPagesUsed s + r.jobPages ≤ jobPagesTotal s → Does (e.2 k) s (fun t =>
          tblGet t.jobs k = some { onRoutine s j r rid p with claim := (claimOf s j keys).isSome } ∧
          (∀ i, i ≠ k → tblGet t.jobs i = tblGet s.jobs i) ∧
          (jOutSlot j ≠ 0xFFFF → ∃ y, slotAt t j.inst (jOutSlot j) = some y ∧ y.reserved = true) ∧
          t.plc = { s.plc with pageWait := if s.plc.pageWait = some (jobRing j) then none else s.plc.pageWait } ∧
          { t with jobs := s.jobs, wch := s.wch, plc := s.plc } = s)) ∧
        (jobPagesTotal s < jobPagesUsed s + r.jobPages →
          exec (e.2 k) s = .next { s with plc := { s.plc with pageWait := some (jobRing j) } })) ∧
      (∀ h st, pkParse s (durable s) k j = .error (h, st) → Does (e.2 k) s (fun t => JobEnds s t k j st [] 0 (s.brt.count + 1)))) ∧
    (Parses s k .routine j → ∀ r, routineSec s (jAlg j) = some r →
      (0x8000 ≤ jAlg j → jByteLen j ≤ r.maxInput → r.minOut ≤ jOutLen j → (jSlot j = 0xFFFF ∨ ∃ y, checkSlotAs s j.inst (jSlot j) (some k) = .ok y) →
        ∀ x p, tblGet s.insts j.inst = some x → poolFor s x r.rid = some p → jobPagesUsed s + r.jobPages ≤ jobPagesTotal s →
        Does (.routineJob k) s (fun t => tblGet t.jobs k = some (onRoutine s j r r.rid p) ∧ (∀ i, i ≠ k → tblGet t.jobs i = tblGet s.jobs i) ∧
          { t with jobs := s.jobs, plc := s.plc } = s)) ∧
      (jAlg j < 0x8000 ∨ r.maxInput < jByteLen j ∨ jOutLen j < r.minOut →
        Does (.routineJob k) s (fun t => JobEnds s t k j .inputInvalid [] 0 (s.brt.count + 1))))

/-- RANDOM jobs (R356, R357) draw from DRBG instance 15, and CANCEL (R74). The bytes drawn are free (log 1). -/
def Obligations.RandomAndCancel : Prop :=
  ∀ (s : State) (k : Nat) (j : Job),
    (Parses s k .random j → jAlg j = 0 → rndBytesCheck j = none → let due := s.brt.count + 1
      (rndMayDraw s k j = true → Does (.randomBytes k) s (fun t =>
        JobEnds s t k j .ok (bvBytes (rndCount j) (Config.freeWord (8 * rndCount j) s.free)) 0 due ∧
        drbgCalls t 15 = drbgCalls s 15 + (if 15 < s.rng.calls.length then 1 else 0) ∧ t.free = s.free + 1)) ∧
      (rndMayDraw s k j = false → Does (.randomBytes k) s (fun t => tblGet t.jobs k = some { j with stage := .pending, due := due } ∧
        (∀ i, i ≠ k → tblGet t.jobs i = tblGet s.jobs i) ∧ t.waiting = s.waiting ∧ t.free = s.free))) ∧
    (Parses s k .random j → jAlg j = 0 → ∀ st, rndBytesCheck j = some st →
      Does (.randomBytes k) s (fun t => JobEnds s t k j st [] 0 (s.brt.count + 1))) ∧
    (Parses s k .random j → jAlg j ≠ 0 → rndKeyCheck s j = none → ∀ n, rndKeyLen (jAlg j) = some n → rndMayDraw s k j = true →
      let key := bvBytes n (Config.freeWord (8 * n) s.free)
      Does (.randomKeygen k) s (fun t =>
        JobEnds s t k j .ok (domainBlob s (newBlobHdr s (jAlg j) (jNewUsage j) (jNewPolicy j) 0 j.inst key) key) 0 (s.brt.count + 1) ∧
        (jOutSlot j ≠ 0xFFFF → ∃ y, slotAt t j.inst (jOutSlot j) = some y ∧ Filled s y j.inst (jAlg j) (jNewUsage j) (jNewPolicy j) 0 key))) ∧
    (isRunning s = true → tblGet s.jobs k = some j → j.kind = .random → j.stage = .pending → s.brt.exhale = false → Standing s j → haltHolds s = false →
      j.due + 2 ^ rndWait j ≤ s.brt.count → Does (.randomWaitTimeout k) s (fun t => JobEnds s t k j .rngNotReady [] 0 s.brt.count ∧
        t.rng.notReady = min (s.rng.notReady + 1) 65535)) ∧
    (Parses s k .cancel j → s.brt.exhale = false →
      (∀ i x, cancelTarget s k j = some (i, x) → tblGet s.jobs i = some x →
        (x.kind = .random → Does (.cancel k) s (fun t => tblGet t.jobs i = none ∧ tblGet t.jobs k = none ∧
          (j.internal = none → ∃ a b, t.waiting = s.waiting ++ [a, b] ∧ a.c.tag = x.tag ∧ a.c.status = .aborted ∧ a.c.out = [] ∧
            b.c.tag = j.tag ∧ b.c.status = .ok ∧ b.c.out = [] ∧ a.due = s.brt.count + 1 ∧ b.due = s.brt.count + 1))) ∧
        (x.kind ≠ .random → x.stage ≠ .aborting → Does (.cancel k) s (fun t =>
          tblGet t.jobs i = some { x with stage := .aborting, abort := some .aborted, due := s.brt.count } ∧
          tblGet t.jobs k = some { j with stage := .running, rid := i } ∧ (∀ m, m ≠ i → m ≠ k → tblGet t.jobs m = tblGet s.jobs m) ∧
          { t with jobs := s.jobs } = s))) ∧
      (cancelTarget s k j = none → Does (.cancel k) s (fun t => JobEnds s t k j .inputInvalid [] 0 (s.brt.count + 1))))

/-- CIPHER_JOBs (R272 to R276, R281): a job that passes its checks holds its context, which FIRST opens, until its slices are done. -/
def Obligations.CipherJobs : Prop :=
  ∀ (s : State) (k : Nat) (j : Job),
    (∀ e ∈ [(0, Instr.cipherEncrypt k), (1, .cipherDecrypt k)], Parses s k .cipher j → jOp j = e.1 → jDiscard j = false →
      contextTurn s k j = true →
      (∀ h, cipherCheck s k j = .ok h → Does e.2 s (fun t => tblGet t.jobs k = some { j with stage := .running, holds := true, due := s.brt.count + 1 } ∧
        (∀ i, i ≠ k → tblGet t.jobs i = tblGet s.jobs i) ∧
        (jFirst j = true → tblGet t.bore.contexts (ctxKey j) = some (ctxOpen j h)) ∧ (jFirst j = false → t.bore.contexts = s.bore.contexts) ∧
        (∀ c, c ≠ ctxKey j → tblGet t.bore.contexts c = tblGet s.bore.contexts c) ∧ { t with jobs := s.jobs, bore := s.bore } = s)) ∧
      (∀ h st, cipherCheck s k j = .error (h, st) → Does e.2 s (fun t => JobEnds s t k j st [] 0 (s.brt.count + 1)))) ∧
    (Parses s k .cipher j → jDiscard j = true → contextTurn s k j = true →
      (discardFormOk j = true → (∃ x, tblGet s.insts j.inst = some x ∧ jContext j < x.maxContexts) →
        (tblGet s.bore.contexts (ctxKey j)).isSome = true → Does (.cipherDiscard k) s (fun t => tblGet t.bore.contexts (ctxKey j) = none ∧
          JobEnds s t k j .ok [] 0 (s.brt.count + 1))) ∧
      (jSegment j ≠ 4 ∨ jByteLen j ≠ 0 ∨ zeroAt j.entry 34 22 = false ∨ tblGet s.bore.contexts (ctxKey j) = none →
        Does (.cipherDiscard k) s (fun t => JobEnds s t k j .inputInvalid [] 0 (s.brt.count + 1)))) ∧
    (∀ z c, isRunning s = true → tblGet s.jobs k = some j → j.stage = .running → j.slice = some z → tblGet s.bore.contexts (ctxKey j) = some c →
      cipherStream j = none → Standing s j →
      exec (.cipherSliceDone k true) s = .next { s with jobs := tblMod s.jobs k (fun y => { y with slice := none }) } ∧
      (jEcho j = true → z.echo = none → Does (.cipherSliceDone k false) s (fun t =>
        (∃ y, tblGet t.jobs k = some { j with slice := some { z with echo := y } } ∧ (y = none → groupPipes s .echoG = []) ∧
          ∀ e, y = some e → e.sealPipe = z.pipe ∧ e.echoPipe ∈ groupPipes s .echoG ∧ e.passed = false ∧ e.failed = false ∧ e.breath = s.brt.count) ∧
        t.waiting = s.waiting ∧ t.bore.contexts = s.bore.contexts)) ∧
      (∀ x, jEcho j = false → checkSlotAs s j.inst c.slot (some k) = .ok x → j.done + z.bytes < cipherWork j → singleOnly (jMode j) (jOp j) = false →
        let p := sliceParts j z.bytes
        let r := cipherFeed (slotMaterial x) c p.1 p.2
        Does (.cipherSliceDone k false) s (fun t =>
          tblGet t.jobs k = some { j with done := j.done + z.bytes, slice := none, draws := j.draws ++ r.2 } ∧
          tblGet t.bore.contexts (ctxKey j) = some r.1 ∧ t.waiting = s.waiting)) ∧
      (∀ x, jEcho j = false → checkSlotAs s j.inst c.slot (some k) = .ok x → cipherWork j ≤ j.done + z.bytes → jLast j = true →
        singleOnly (jMode j) (jOp j) = true →
        let r := cipherWhole (slotMaterial x) (jMode j) (jOp j) c.iv (cipherAad j) (cipherData j) (cipherTag j)
        Does (.cipherSliceDone k false) s (fun t => tblGet t.bore.contexts (ctxKey j) = none ∧ JobEnds s t k j r.1 r.2 0 (s.brt.count + 1))) ∧
      (∀ x, jEcho j = false → checkSlotAs s j.inst c.slot (some k) = .ok x → cipherWork j ≤ j.done + z.bytes → jLast j = false →
        let p := sliceParts j z.bytes
        let r := cipherFeed (slotMaterial x) c p.1 p.2
        Does (.cipherSliceDone k false) s (fun t => tblGet t.bore.contexts (ctxKey j) = some r.1 ∧
          JobEnds s t k j .ok (j.draws ++ r.2) 0 (s.brt.count + 1))))

/-- A delta and a full chart take effect at their inhale (R29, R108, R120, R466). -/
def Obligations.ChartsTakeEffect : Prop :=
  ∀ (s : State), isRunning s = true → s.brt.cycle = 0 → s.brt.exhale = false →
    (∀ w, s.charts.deltaWait = some w → w.inhale ≤ s.brt.count → w.approver = none → Does .chartDeltaApply s (fun t =>
      (∃ a, t.charts = { s.charts with inForce := some w.chart, deltaWait := none, adds := a } ∧ ∀ p ∈ w.chart.pools, ∀ q rid,
        (poolsNow s).find? (fun x => x.id = p.id) = some q → rid ∈ p.routines → rid ∉ q.routines → ⟨p.id, rid, s.brt.count⟩ ∈ a) ∧
      (∀ c, c < 64 → poolIn s.charts.inForce c ≠ poolIn (some w.chart) c →
        (clusterAt t c).entering = if (poolIn (some w.chart) c).isSome then some s.brt.count else none) ∧
      (∀ c, c < 64 → poolIn s.charts.inForce c = poolIn (some w.chart) c → (clusterAt t c).entering = (clusterAt s c).entering) ∧
      t.pxt.cur = w.chart.nodes ∧ t.plc.mcCount = 2 ^ s.brt.log2Len + 10000 ∧ t.brt = s.brt ∧ t.ports = s.ports ∧ t.insts = s.insts ∧
      (∀ k j, tblGet s.jobs k = some j → ∃ y, tblGet t.jobs k = some { j with moveAt := y }))) ∧
    (∀ w, s.charts.fullWait = some w → s.dev.mode = .tune → w.inhale ≤ s.brt.count → w.approver = none → Does .fullChartApply s (fun t =>
      t.charts = { s.charts with inForce := some w.chart, fullWait := none, deltaWait := none, adds := [], leaveTune := some (s.brt.count + 1) } ∧
      t.brt = { s.brt with nextLog2 := some w.chart.log2Len } ∧ t.ports.length = s.ports.length ∧
      (∀ p : Fin 8, p.val < s.ports.length → (portAt t p.val).formed = isPort w.chart.unitEnable w.chart.x16Mask p.val ∧
        ((portAt t p.val).formed = true → (portAt t p.val).totalVfs = w.chart.ceilings.getD p.val 0 ∧
          (portAt t p.val).global = bitOf w.chart.globalMask p.val)) ∧
      (∀ c, c < 64 → (clusterAt t c).entering = none ∧ (∀ p, w.chart.pools.find? (fun q => bitOf q.mask c) = some p →
        (clusterAt t c).cs = storeImage w.chart (clusterAt t c).placed ∧ (clusterAt t c).par = parityImage w.chart (clusterAt t c).placed ∧
        (clusterAt t c).placed.map Placed.rid = (poolRoutines w.chart p).map RoutineSec.rid)) ∧
      t.rng.conditioner = w.chart.conditioner ∧ t.mgc.channels = w.chart.monitors.map (fun m => { MonChan.init with cfg := m, start := s.brt.count })))

/-- Control stores (R120, R121, R182, R183): an entering cluster takes its new pool's image from breath I + 1 on; an added routine goes into the
lowest free words; a dropped one leaves at an inhale when no job of it is left. A displaced job leaves its units in the breath after (R114,
R120), its reeds' state saved, or to be replayed where a unit of it was muted (R179). A pipe joins the group it was sent to (R107); one with two echo mismatches is muted, and its group refilled from the spares (R106,
R258). -/
def Obligations.Placement : Prop :=
  ∀ (s : State), isRunning s = true →
    (∀ (c : Fin 64) i ch p placed, (clusterAt s c.val).entering = some i → i < s.brt.count → poolOfCluster s c.val = some (ch, p) →
      poolPlan s ch p = some placed → exec (.clusterControlStoreLoad c) s = .next (setCluster s c.val { clusterAt s c.val with
        cs := storeImage ch placed
        par := parityImage ch placed
        placed := placed
        csErrors := []
        reloading := [] })) ∧
    (∀ (c : Fin 64) (rid : BitVec 16) ch p plan q, poolOfCluster s c.val = some (ch, p) → (∀ a ∈ s.charts.adds, a.pool = p.id → a.rid = rid.toNat → a.inhale < s.brt.count) →
      (clusterAt s c.val).entering = none → rid.toNat ∈ p.routines → (∀ x ∈ (clusterAt s c.val).placed, x.rid ≠ rid.toNat) →
      planAdds (clusterAt s c.val).placed (missing ch p (clusterAt s c.val).placed) = some plan → plan.find? (fun x => x.rid = rid.toNat) = some q →
      exec (.routineLoad c rid) s = .next (setCluster s c.val { clusterAt s c.val with
        cs := writeWords (clusterAt s c.val).cs q.base (chartWords ch rid.toNat)
        par := writeParity (clusterAt s c.val).par q.base (chartWords ch rid.toNat)
        placed := (clusterAt s c.val).placed ++ [q] })) ∧
    (∀ (c : Fin 64) (rid : BitVec 16) ch p, poolOfCluster s c.val = some (ch, p) → s.brt.cycle = 0 → s.brt.exhale = false → rid.toNat ∉ p.routines →
      (∀ e ∈ s.jobs, ¬ (e.2.rid = rid.toNat ∧ e.2.pool = p.id)) → exec (.routineWordsFree c rid) s = .next (setCluster s c.val { clusterAt s c.val with
        placed := (clusterAt s c.val).placed.filter (fun q => q.rid ≠ rid.toNat) })) ∧
    (∀ k j i parity, tblGet s.jobs k = some j → j.moveAt = some i → i < s.brt.count → s.brt.exhale = false → j.stage = .running ∨ j.stage = .replayWait →
      (∀ r ∈ unitReeds j.unit, (reedAt s r).defect = false) →
      let fresh : Bool := j.stage = .replayWait || unitMuted s j.unit || parity
      Does (.displacedJobMove ⟨k, parity⟩) s (fun t => (∃ y, tblGet t.jobs k = some y ∧ { y with space := j.space } = { j with
          stage := .displaced
          unit := .none
          moveAt := none
          replayed := j.replayed || fresh
          saved := if fresh then none else some ((unitReeds j.unit).map (fun r => if (reedAt s r).job = some k then some (reedAt s r).core else none),
            match j.unit with
            | .mau c _ => (clusterAt s c).mau
            | _ => Mau.init) }) ∧
        (∀ r ∈ unitReeds j.unit, reedAt t r = wiped s r) ∧ (∀ r, r ∉ unitReeds j.unit → reedAt t r = reedAt s r) ∧ t.waiting = s.waiting)) ∧
    (∀ (p : Fin 96), s.bore.pipes.length = 96 → let x := pipeAt s p.val
      (∀ g, x.next = some g → Does (.pipeRegroup p) s (fun t => pipeAt t p.val = { x with group := g, next := none } ∧
        (∀ q : Fin 96, q ≠ p → pipeAt t q.val = pipeAt s q.val) ∧ { t with bore := s.bore } = s)) ∧
      (s.brt.cycle = 0 → s.brt.exhale = false → 2 ≤ x.mismatches → x.struck < s.brt.count → UnitName.pipe p ∉ s.health.muted → let g := x.next.getD x.group
        let u := { s with health := { s.health with muted := .pipe p :: s.health.muted } }
        Does (.pipeMute p) s (fun t => t.health = u.health ∧ s.mgc.logSeq < t.mgc.logSeq ∧
          (g ≠ .spare → (groupTarget u g).length < groupCount s g → ∀ q rest, groupTarget u .spare = q :: rest →
            (pipeAt t q).next.getD (pipeAt t q).group = g) ∧
          { t with health := s.health, mgc := s.mgc, bore := { t.bore with pipes := s.bore.pipes } } = s)))

/-- Reservations through the custody journal (R227, R249 to R251, R270, R334, R434). -/
def Obligations.Reservations : Prop :=
  ∀ (s : State), isRunning s = true →
    (s.dom.member.isSome = true → s.bore.serials.blocked = false → s.bore.serials.reserving = none → let x := s.bore.serials
      x.ceiling - x.next ≤ 2 ^ 18 → x.ceiling < 2 ^ 46 → Does .serialReserve s (fun t =>
        t.bore.serials = { x with reserving := some (x.ceiling + 2 ^ 20) } ∧
        Journalled s t .serial 1 (leBytes 16 (s.dom.member.getD 0)) (x.ceiling + 2 ^ 20) ∧
        { t with bore := { t.bore with serials := s.bore.serials, journal := s.bore.journal } } = s)) ∧
    (∀ sid x, tblGet s.bore.streams sid = some x → x.cls = .transit → x.receive = false → x.reserving = none → x.ceiling - x.counter ≤ 2 ^ 14 →
      x.ceiling < 2 ^ 36 → let n := min (2 ^ 36) (x.ceiling + 2 ^ 16)
      Does (.counterReserve sid) s (fun t => tblGet t.bore.streams sid = some { x with reserving := some n } ∧
        (∀ k, k ≠ sid → tblGet t.bore.streams k = tblGet s.bore.streams k) ∧
        (s.twn.role ≠ 1 → Journalled s t (.counter sid x.epoch) 2 (padTo 16 (x.linkId ++ leBytes 4 x.epoch)) n) ∧
        (s.twn.role = 1 → s.twn.linkKey.isSome = true → s.brt.count < s.twn.lastRecord + 16 →
          t.twn.toSend = s.twn.toSend ++ [(8, counterBody sid x.epoch n)] ∧ t.bore.journal = s.bore.journal))) ∧
    (∀ k x c, s.wch.stateful[k]? = some x → (∀ i, i < k → ∀ y, s.wch.stateful[i]? = some y → y.pub ≠ x.pub) → x.ceiling = some c → x.reserving = none →
      c - x.counter ≤ 16 → c < totalLeaves x → Does (.leafReserve k) s (fun t => statefulOf t x.pub = some { x with reserving := some (c + 64) } ∧
        (s.twn.role ≠ 1 → Journalled s t (.leaf x.pub) 3 ((sha3_256 x.pub).take 16) (c + 64)) ∧
        (s.twn.role = 1 → s.twn.linkKey.isSome = true → s.brt.count < s.twn.lastRecord + 16 →
          t.twn.toSend = s.twn.toSend ++ [(8, leafBody x.pub (c + 64))] ∧ t.bore.journal = s.bore.journal))) ∧
    (∀ f r, s.bore.journal.write = some (f, r) → s.bore.journal.queue = [] → let n := le r 24 8
      Does (.journalWriteDone true) s (fun t => t.bore.journal = { s.bore.journal with
          write := none
          sectors := appendRecord r s.bore.journal.sectors } ∧
        (f = .serial → t.bore.serials = { s.bore.serials with ceiling := max s.bore.serials.ceiling n, reserving := none } ∧
          (2 ^ 46 ≤ n → s.mgc.logSeq < t.mgc.logSeq)) ∧
        (∀ sid e x, f = .counter sid e → tblGet s.bore.streams sid = some x →
          tblGet t.bore.streams sid = some (if x.epoch = e then { x with ceiling := max x.ceiling n, reserving := none } else x)) ∧
        (∀ pub x, f = .leaf pub → statefulOf s pub = some x →
          statefulOf t pub = some { x with ceiling := some (max (x.ceiling.getD 0) n), reserving := none })) ∧
      Does (.journalWriteDone false) s (fun t => t.bore.journal = { s.bore.journal with write := none } ∧
        (f = .serial → t.bore.serials = { s.bore.serials with reserving := none }) ∧ t.mgc = s.mgc)) ∧
    (∀ oldest rest, s.bore.journal.sectors = oldest :: rest → 63 ≤ (oldest :: rest).length → s.bore.journal.write = none →
      Does .journalCompact s (fun t => (∃ extra, t.bore.journal.sectors.flatten = rest.flatten ++ extra ∧
        ∀ r ∈ extra, journalMacOk s r = true ∧ ∃ q ∈ oldest, journalMacOk s q = true ∧ le q 0 2 = le r 0 2 ∧ slice q 8 16 = slice r 8 16 ∧
          le q 24 8 = le r 24 8) ∧ { t with bore := { t.bore with journal := s.bore.journal } } = s))

/-- What a PXT message does on the plain side of a PRESERVE stream and, for GET_DATA, at a node (R296 to R310): an opening under the stream's
opening credit begins a PUT or GET, data in order go to their place, acknowledgements free what was sent, credit lets what waits leave. A message
that breaks R297 is dropped and counted. -/
def Obligations.PxtMessages : Prop :=
  ∀ (s : State) (x : PxtIn) (m : PxtMsg) (st : Machine.Stream),
    (∀ e ∈ pxtRows, ∀ f, isRunning s = true → fabricServes s = true → fabCfg s x.fport.val = some f → (fabPort s x.fport.val).linkUp = true →
      byteAt x.msg 0 % 16 = e.1 → (carriageOk f x.carriage.val = false ∨ pxtFormOk (decide (f.role = 1)) (unpad x.carriage.val x.msg) = false) →
      Does (e.2 x) s (fun t => t.pxt.badFrame = min 65535 (s.pxt.badFrame + 1) ∧ t.pxt.ops = s.pxt.ops ∧ t.bore = s.bore ∧ t.jobs = s.jobs)) ∧
    (Arrives s x 1 true m → FromGateway s x m st → plainOpen s m.sid = none → m.seq = 0 → m.off = 0 → st.opening = true →
      1 ≤ declLenOf m.body → declLenOf m.body ≤ 2 ^ 30 → st.nextSlot = none → s.dev.mode ≠ .recover → serialLeft s = true →
      ∀ n k, (s.pxt.cur.bind (fun c => nodeWinner c m.obj)) = some n → checkSlot s st.inst st.keySlot = .ok k →
      Does (.putBegin x) s (fun t => ∃ e f o y z, flowAt s e = none ∧ flowAt t e = some f ∧ f.kind = .put ∧ f.sid = m.sid ∧ f.obj = m.obj ∧
        f.ext = m.ext ∧ f.serial = nextSerial s ∧ f.declLen = declLenOf m.body ∧ f.key = extentKey (slotMaterial k) (nextSerial s) ∧
        f.node = some n ∧ f.inOp = some o ∧ tblGet t.pxt.ops o = some y ∧ y.kind = .putIn ∧ y.flow = e ∧ y.rxNext = 1 ∧
        t.bore.serials.next = s.bore.serials.next + 1 ∧ streamAt t m.sid = some z ∧ z.opening = false ∧ z.bound = some (st.bound.getD x.src) ∧
        ∀ i, i ≠ e → flowAt t i = flowAt s i)) ∧
    (Arrives s x 4 true m → FromGateway s x m st → plainOpen s m.sid = none → m.seq = 0 → m.off = 0 → st.opening = true →
      streamKeyBad s st.inst st.keySlot = false → ∀ n, (s.pxt.cur.bind (fun c => nodeWinner c m.obj)) = some n →
      Does (.getReq x) s (fun t => ∃ e f o y z, flowAt s e = none ∧ flowAt t e = some f ∧ f.kind = .get ∧ f.sid = m.sid ∧ f.obj = m.obj ∧
        f.ext = m.ext ∧ f.node = some n ∧ f.outOp = some o ∧ tblGet t.pxt.ops o = some y ∧ y.kind = .getIn ∧ y.flow = e ∧
        streamAt t m.sid = some z ∧ z.opening = false ∧ z.bound = some (st.bound.getD x.src) ∧ ∀ i, i ≠ e → flowAt t i = flowAt s i)) ∧
    (∀ o op f, FromGateway s x m st → NamesOp s m o op f →
      (Arrives s x 2 true m → op.kind = .putIn → seqOutcome op m.seq = .next → let n := 4096 * m.off
        n + m.body.length ≤ f.declLen → n ≤ f.got → (∀ r ∈ f.recs, (r.2.admitted.isSome = true → r.2.whole.isSome = true) ∧ r.2.clash = false) →
        (m.body.length = 4096 ∨ m.body.length = 8192 ∨ (n + m.body.length = f.declLen ∧ m.body.length ≤ 8192)) →
        Does (.putData x) s (fun t => ∃ g l, OpFlow s t o { op with rxNext := op.rxNext + 1, rxLimit := l } op.flow g ∧ op.rxLimit ≤ l ∧
          g.got = max f.got (n + m.body.length) ∧ g.dataBreath = s.brt.count ∧
          { g with recs := f.recs, got := f.got, dataBreath := f.dataBreath } = f ∧
          ∀ i r, tblGet f.recs i = some r → r.admitted.isSome = true → tblGet g.recs i = some r)) ∧
      (Arrives s x 3 true m → op.kind = .putIn → seqOutcome op m.seq = .next → f.declLen ≤ f.got → (f.stage ≠ .delivered ∨ f.outOp.isSome = true) →
        Does (.putEnd x) s (fun t => OpFlow s t o { op with rxNext := op.rxNext + 1 } op.flow { f with ended := true, dataBreath := s.brt.count })) ∧
      (Arrives s x 7 true m → op.kind = .getIn → f.stage ≠ .delivered → ∀ n, seqBelow (op.txNext - 1) m.seq = some n →
        let rest := op.sent.filter (fun e => n < e.1)
        Does (.ack x) s (fun t => OpFlow s t o (if rest.length = op.sent.length then op
          else { op with sent := rest, since := s.brt.count, timeouts := 0 }) op.flow f)) ∧
      (Arrives s x 9 true m → op.kind = .getIn → ∀ n, seqAbove op.txLimit m.seq = some n →
        Does (.credit x) s (fun t => ∃ y k, OpFlow s t o y op.flow f ∧ y.txLimit = n ∧ y.txNext = op.txNext + k ∧ y.wait = op.wait.drop k ∧
          k ≤ op.wait.length ∧ y.sent.length = op.sent.length + k ∧ (y.wait = [] ∨ n ≤ y.txNext))) ∧
      (Arrives s x 8 true m → op.kind = .getIn → be m.body 0 2 = 0 → ∀ n, seqBelow op.txNext m.seq = some n →
        Does (.nak x) s (fun t => ∃ y, OpFlow s t o y op.flow f ∧ y.wait = op.wait ∧ y.txNext = op.txNext ∧ y.since = s.brt.count ∧
          ∀ c, SendsNow s op.fport c → ∀ e ∈ op.sent, n ≤ e.1 → Out.frame op.fport (frameBytes (pxtCfg s) c (portPeer c op.carriage) op.peer op.carriage e.2) ∈ t.out)) ∧
      (Arrives s x 10 true m → op.kind = .putIn → Does (.flush x) s (fun t => flowAt t op.flow = none))) ∧
    (Arrives s x 11 true m → FromGateway s x m st → Does (.keepalive x) s (fun t =>
      tblGet t.pxt.heard (gatewayKey m.sid) = some s.brt.count ∧ t.pxt.ops = s.pxt.ops ∧ t.bore.flows = s.bore.flows ∧ t.jobs = s.jobs)) ∧
    (∀ o op f, Arrives s x 5 false m → m.node = false → sealedOp s x m = some (o, op) → tblGet s.pxt.ops o = some op → op.kind = .getOut →
      op.flow ≠ 0 → flowAt s op.flow = some f → seqOutcome op m.seq = .next →
      (m.part = true → f.stage = .manifest → 4096 * m.off = f.manifest.length → m.body.length = 8192 → let b := f.manifest ++ m.body
        ∀ n, manifestLen b = some n → b.length < n → Does (.getData x) s (fun t => OpFlow s t o { op with
          rxNext := op.rxNext + 1
          rxLimit := op.rxNext + 1 + (n - b.length + 8191) / 8192 } op.flow { f with manifest := b })) ∧
      (m.part = false → f.stage = .records → 4096 * m.off = f.got → f.got < f.declLen → let size := recSize f.recCode
        let i := f.got / size
        ∀ c, pieceLen (f.got % size) (recLen f.recCode f.declLen i) m.body.length = some c → f.nextSend ≤ i →
        Does (.getData x) s (fun t => ∃ g l r, OpFlow s t o { op with rxNext := op.rxNext + 1, rxLimit := l } op.flow g ∧ op.rxLimit ≤ l ∧
          g.got = f.got + c ∧ tblGet g.recs i = some r ∧ r.input = (tblGetD f.recs i Rec.init).input ++ m.body ∧
          (r.whole = some s.brt.count ↔ f.got % size + c = recLen f.recCode f.declLen i) ∧
          (∀ k, k ≠ i → tblGet g.recs k = tblGet f.recs k) ∧ { g with recs := f.recs, got := f.got } = f)))

/-- The way of a record through the bore (R252 to R264): a whole record is admitted and sealed, each strip passes or fails its echo and is sealed
again where it fails, a sealed record leaves two breaths after its admission, the extent closes, its manifest follows. A loaded stream entry is
cached (R243); a deferred check becomes a job (R267); a TRANSIT sender takes the next epoch (R269). -/
def Obligations.BoreRecords : Prop :=
  ∀ (s : State), isRunning s = true → s.dev.halting = false →
    (∀ sid x, streamAt s sid = some x → x.cached = true → linkOf s sid = none → x.cls ≠ .transit → Does (.streamCacheLoadDone ⟨sid, true⟩) s (fun t =>
      OnlyStream s t sid { x with loading := false, used := s.brt.count, held := [] })) ∧
    (∀ sid x, streamAt s sid = some x → x.loading = true → x.held = [] → (s.bore.streams.filter (fun e => e.2.cached)).length < 65536 →
      (linkOf s sid = none → x.cls ≠ .transit → Does (.streamCacheLoadDone ⟨sid, false⟩) s (fun t =>
        OnlyStream s t sid { x with cached := true, loading := false, used := s.brt.count })) ∧
      (∀ e f, x.cls = .transit → x.receive = false → linkOf s sid = some (e, f) → flowAt s e = some f → f.kind = .linkOut →
        Does (.streamCacheLoadDone ⟨sid, false⟩) s (fun t => streamAt t sid = some { x with
          cached := true
          loading := false
          used := s.brt.count
          counter := x.ceiling } ∧ flowAt t e = some { f with stage := .opening }))) ∧
    (∀ e i f r, flowAt s e = some f → tblGet f.recs i = some r → admitDue s r = true →
      (f.kind = .put → f.stage = .isOpen → f.mig = none → groupPipes s .echoG ≠ [] → admitFits s f r = true →
        Does (.recordAdmit e i false) s (fun t => ∃ g q, flowAt t e = some g ∧ { g with recs := f.recs } = f ∧
          tblGet g.recs i = some { r with
            admitted := some s.brt.count
            result := sefHeader (sefIdOf f) i ++ sealRecord f.key (sefIdOf f) i r.input
            strips := q } ∧
          q.length = (r.input.length + 4095) / 4096 ∧
          (∀ w ∈ q, w.sealPipe ∈ groupPipes s .sealG ∧ w.echoPipe ∈ groupPipes s .echoG ∧ w.passed = false ∧ w.failed = false ∧
            w.breath = s.brt.count) ∧
          (∀ k, k ≠ i → tblGet g.recs k = tblGet f.recs k) ∧ (∀ k, k ≠ e → flowAt t k = flowAt s k) ∧
          { t with bore := { t.bore with flows := s.bore.flows }, free := s.free } = s)) ∧
      (∀ o op, f.kind = .put → f.stage = .isOpen → f.inOp = some o → tblGet s.pxt.ops o = some op →
        Does (.recordAdmit e i true) s (fun t => ∃ g, OpFlow s t o { op with rxNext := r.firstSeq, rxNak := some s.brt.count } e g ∧
          tblGet g.recs i = some { r with input := [], whole := none } ∧ ∀ k, k ≠ i → tblGet g.recs k = tblGet f.recs k)) ∧
      (∀ p, f.kind = .get → f.stage = .records → admitFits s f r = true → unsealRecord f.key (sefIdOf f) i r.input = some p →
        r.input.drop (r.input.length - 16) = slice f.manifest (184 + 16 * i) 16 →
        Does (.recordAdmit e i false) s (fun t => ∃ g, OnlyFlow s t e g ∧ { g with recs := f.recs } = f ∧
          tblGet g.recs i = some { r with admitted := some s.brt.count, result := p, ready := some s.brt.count } ∧
          ∀ k, k ≠ i → tblGet g.recs k = tblGet f.recs k)) ∧
      (f.kind = .linkIn → admitFits s f r = true → Does (.recordAdmit e i false) s (fun t => ∃ g, OnlyFlow s t e g ∧
        tblGet g.recs i = some { r with admitted := some s.brt.count, result := r.input, ready := some s.brt.count }))) ∧
    (∀ e i k f r w, flowAt s e = some f → tblGet f.recs i = some r → r.strips[k]? = some w →
      (w.passed = false → w.failed = false → w.bad = [] → Does (.echoResult (.flow e) i k true) s (fun t => ∃ g, OnlyFlow s t e g ∧
        { g with recs := f.recs } = f ∧ (∀ n, n ≠ i → tblGet g.recs n = tblGet f.recs n) ∧
        ∃ q, tblGet g.recs i = some { r with
            strips := q
            ready := if q.all Strip.passed then some s.brt.count else none } ∧
          q[k]? = some { w with passed := true } ∧ ∀ n, n ≠ k → q[n]? = r.strips[n]?)) ∧
      (w.passed = false → w.failed = false → w.bad = [] → Does (.echoResult (.flow e) i k false) s (fun t =>
        t.bore.mismatches = min 65535 (s.bore.mismatches + 1) ∧ ∃ g q, flowAt t e = some g ∧ tblGet g.recs i = some { r with strips := q } ∧
          q[k]? = some { w with failed := true, bad := [w.sealPipe, w.echoPipe] } ∧ (∀ n, n ≠ k → q[n]? = r.strips[n]?) ∧
          (∀ n, n ≠ e → flowAt t n = flowAt s n))) ∧
      (w.failed = true → r.whole.isSome = true → w.breath < s.brt.count → (∃ p ∈ sealPipesOf s f, p ∉ badSeals w.bad) → (∃ p ∈ echoPipesOf s f, p ∉ badEchoes w.bad) →
        Does (.reseal (.flow e) i k) s (fun t => ∃ g q a b, flowAt t e = some g ∧ tblGet g.recs i = some { r with strips := q } ∧
          q[k]? = some { w with failed := false, sealPipe := a, echoPipe := b, breath := s.brt.count } ∧
          a ∈ sealPipesOf s f ∧ a ∉ badSeals w.bad ∧ b ∈ echoPipesOf s f ∧ b ∉ badEchoes w.bad ∧ (∀ n, n ≠ k → q[n]? = r.strips[n]?) ∧
          (∀ n, n ≠ e → flowAt t n = flowAt s n) ∧ { t with bore := { t.bore with flows := s.bore.flows }, free := s.free } = s))) ∧
    (∀ e f r, flowAt s e = some f → tblGet f.recs f.nextSend = some r → sendDue s r = true →
      (∀ o op, f.kind = .put → f.outOp = some o → tblGet s.pxt.ops o = some op →
        let n := (recordPieces (f.nextSend * (recSize f.recCode / 4096)) (r.result.take 48) (r.result.drop 48)).length
        Does (.recordSend e false) s (fun t => ∃ g y, OpFlow s t o y e g ∧ g.nextSend = f.nextSend + 1 ∧
          tblGet g.recs f.nextSend = some { r with sent := some s.brt.count, lastSeq := some (op.txNext + op.wait.length + n - 1) } ∧
          (∀ k, k ≠ f.nextSend → tblGet g.recs k = tblGet f.recs k) ∧ y.txNext + y.wait.length = op.txNext + op.wait.length + n)) ∧
      (∀ o op, f.kind = .get → f.outOp = some o → tblGet s.pxt.ops o = some op → Does (.recordSend e false) s (fun t => ∃ g y,
        OpFlow s t o y e g ∧ g.nextSend = f.nextSend + 1 ∧ (∀ k, k ≠ f.nextSend → tblGet g.recs k = tblGet f.recs k) ∧
        (g.stage = .delivered ∨ g.stage = f.stage) ∧ (f.nextSend + 1 = recCount f.recCode f.declLen → g.stage = .delivered))) ∧
      (∀ o op, f.kind = .put → f.outOp = some o → tblGet s.pxt.ops o = some op →
        exec (.recordSend e true) s = .next { s with out := .badFcs op.fport :: s.out })) ∧
    (∀ e f, flowAt s e = some f → f.kind = .put → f.stage = .isOpen → allSealed f = true → Does (.extentClose e) s (fun t => ∃ b,
      flowAt t e = some { f with
        key := []
        stage := .sig1
        closeBreath := lastSealing f
        manifest := b } ∧
      b = manifestHeader (sefIdOf f) s.dom.id f.keyId (slotKeyId s f.inst f.sig1 0x0203) (slotKeyId s f.inst f.sig2 0x0302) (lastSealing f)
          (tagRoot (f.recs.map (fun r => recTag r.2.result))) ++ (f.recs.map (fun r => recTag r.2.result)).flatten ∧
      (∀ k, k ≠ e → flowAt t k = flowAt s k) ∧ ∃ j, tblGet t.jobs s.nextJob = some j ∧ j.internal = some (forSig1, e))) ∧
    (∀ e f o op, flowAt s e = some f → f.outOp = some o → tblGet s.pxt.ops o = some op → f.stage = .stored →
      recCount f.recCode f.declLen ≤ f.nextSend → Does (.manifestSend e) s (fun t => ∃ y, OpFlow s t o y e { f with stage := .delivered } ∧
        y.txNext + y.wait.length = op.txNext + op.wait.length + (payloadPieces 0 f.manifest).length + 1)) ∧
    (∀ pre a post, s.bore.audits = pre ++ a :: post → a.job = none → (∀ b ∈ pre, b.job.isSome = true) → Does .auditCheck s (fun t =>
      (∃ j, tblGet t.jobs s.nextJob = some j ∧ j.internal.isSome = true) ∧ t.bore.audits = pre ++ { a with job := some s.nextJob } :: post ∧
      t.bore.flows = s.bore.flows)) ∧
    (∀ sid x, streamAt s sid = some x → x.cls = .transit → x.receive = false → 2 ^ 36 ≤ x.counter → Does (.transitEpochAdvance sid) s (fun t =>
      streamAt t sid = some { x with
        keySlot := x.nextSlot.getD x.keySlot
        nextSlot := none
        epoch := x.epoch + 1
        counter := 0
        ceiling := 0
        reserving := none
        rekey := false } ∧ (∀ k, k ≠ sid → streamAt t k = streamAt s k) ∧ t.bore.flows = s.bore.flows))

/-- Frames, links and MACsec of a fabric port (R285 to R290): what is not a valid PXT message is dropped and counted, a pause stops its priority
until it ends, the buffer at half ends the device's own pause, a link up sends what waits, a SAK is the next of the channel; and the timers of the
fabric side (R279, R305, R307, R319): a PUT without data, messages without acknowledgement, silence in both directions, and node tables of which
nothing is used. -/
def Obligations.FabricPorts : Prop :=
  (∀ (s : State) (p : Fin 64) (f : FabCfg), isRunning s = true → fabCfg s p.val = some f → let x := fabPort s p.val
    (∀ y, y.fport = p → x.linkUp = true →
      (y.fecOk = false → Does (.ethernetFrameReceive y) s (fun t => OnlyFab s t p.val { x with fecUncorr := min 65535 (x.fecUncorr + 1) })) ∧
      (y.fecOk = true → fabricServes s = true → f.macsec = true → isEapol y.bytes = false →
        (macsecOpen x.sas y.bytes = none →
          Does (.ethernetFrameReceive y) s (fun t => OnlyFab s t p.val { x with macsecDrop := min 65535 (x.macsecDrop + 1) })) ∧
        (∀ an pn b a, macsecOpen x.sas y.bytes = some (an, pn, b) → tblGet x.sas an = some a → frameMessage (pxtCfg s) f p b = none →
          Does (.ethernetFrameReceive y) s (fun t => t.pxt.badFrame = min 65535 (s.pxt.badFrame + 1) ∧
            tblGet (fabPort t p.val).sas an = some { a with rxNext := max a.rxNext (pn + 1) } ∧ t.pxt.ops = s.pxt.ops ∧ t.bore = s.bore))) ∧
      (y.fecOk = true → fabricServes s = true → f.macsec = false →
        (9314 < y.bytes.length ∨ y.bytes.length < 14 ∨ be y.bytes 0 6 ≠ f.mac.toNat ∨ (f.tagged = false ∧ be y.bytes 12 2 = 0x8100) ∨
          (f.tagged = true ∧ (be y.bytes 12 2 ≠ 0x8100 ∨ be y.bytes 14 2 % 4096 ≠ f.vid)) ∨ frameMessage (pxtCfg s) f p y.bytes = none) →
        exec (.ethernetFrameReceive y) s = .next { s with pxt := { s.pxt with badFrame := min 65535 (s.pxt.badFrame + 1) } }) ∧
      (∀ z m st, y.fecOk = true → f.macsec = false → y.bytes.length ≤ 9314 → frameMessage (pxtCfg s) f p y.bytes = some z →
        Arrives s z 11 true m → FromGateway s z m st →
        Does (.ethernetFrameReceive y) s (fun t => tblGet t.pxt.heard (gatewayKey m.sid) = some s.brt.count ∧ t.pxt.ops = s.pxt.ops ∧
          t.bore.flows = s.bore.flows))) ∧
    (∀ (prio : Fin 8) (q : BitVec 16), f.pfc = true →
      (q ≠ 0 → Does (.pfcXoffReceive p prio q) s (fun t => ∃ n, OnlyFab s t p.val { x with xoffRcvd := n } ∧
        ∀ b, n.testBit b = (x.xoffRcvd.testBit b || b = prio.val))) ∧
      (x.txq = [] → ∀ c ∈ [Instr.pfcXoffReceive p prio 0, .pfcPauseTimeExpire p prio], Does c s (fun t => ∃ n,
        OnlyFab s t p.val { x with xoffRcvd := n } ∧ ∀ b, n.testBit b = (x.xoffRcvd.testBit b && b ≠ prio.val)))) ∧
    (x.xoffSent = true → s.dev.mode ≠ .shadow → (f.macsec = true → s.pxt.macHeld = false) → Does (.pfcXonSend p) s (fun t =>
      OnlyFab { s with out := .pfc p.val f.pcp false :: s.out } t p.val { x with fill := min x.fill (131072 * f.lanes), xoffSent := false })) ∧
    (f.role ≠ 0 → x.txq = [] → Does (.linkUp (.fabric p) f.lanes (laneSpeed f.lanes)) s (fun t => OnlyFab s t p.val { x with linkUp := true })) ∧
    (∀ w v, f.role = 0 ∨ w ≠ f.lanes ∨ v ≠ laneSpeed f.lanes → exec (.linkUp (.fabric p) w v) s = .next s) ∧
    Does (.linkDown (.fabric p)) s (fun t => OnlyFab s t p.val { x with linkUp := false }) ∧
    (∀ (sak : BitVec 256) salt ssci peerSsci peerSci (an : Fin 4), f.macsec = true → x.cak ≠ [] → x.txq = [] →
      Does (.sakInstall p an (.install sak salt ssci peerSsci peerSci)) s (fun t => ∃ l,
        OnlyFab { s with out := .macsecSa p.val an.val :: s.out } t p.val { x with sas := l, nextAn := some an.val } ∧
        tblGet l an.val = some ⟨sak, salt, ssci, peerSsci, peerSci, 1⟩ ∧ ∀ k, k ≠ an.val → tblGet l k = tblGet x.sas k) ∧
      Does (.sakInstall p an .retire) s (fun t => ∃ l, OnlyFab s t p.val { x with
          sas := l
          txAn := if x.txAn = some an.val then none else x.txAn
          nextAn := if x.nextAn = some an.val then none else x.nextAn } ∧
        tblGet l an.val = none ∧ ∀ k, k ≠ an.val → tblGet l k = tblGet x.sas k)) ∧
    (∀ (d : BitVec 48) (bs : Bytes), x.linkUp = true → fabricServes s = true →
      (f.macsec = true → d = 0x0180C2000003 → exec (.eapolReceive p d bs) s = .next { s with out := .eapol p.val bs :: s.out }) ∧
      (f.macsec = false ∨ d ≠ 0x0180C2000003 →
        exec (.eapolReceive p d bs) s = .next { s with pxt := { s.pxt with badFrame := min 65535 (s.pxt.badFrame + 1) } }))) ∧
  (∀ (s : State), isRunning s = true → s.dev.halting = false →
    (∀ e f, flowAt s e = some f → f.kind = .put → f.mig = none → f.stage ≠ .opening → f.ended = false →
      f.dataBreath + 2 ^ (pxtCfg s).idleLog2 ≤ s.brt.count → Does (.putIdleTimeout e) s (fun t => flowAt t e = none)) ∧
    (∀ o x, tblGet s.pxt.ops o = some x → x.sent ≠ [] → x.since + 2 ^ (pxtCfg s).retryLog2 ≤ s.brt.count → fabricServes s = true →
      (x.timeouts + 1 ≠ (pxtCfg s).retryMax → Does (.retransmitTimeout o) s (fun t =>
        tblGet t.pxt.ops o = some { x with timeouts := x.timeouts + 1, since := s.brt.count } ∧
        (∀ k, k ≠ o → tblGet t.pxt.ops k = tblGet s.pxt.ops k) ∧ t.bore = s.bore ∧ t.jobs = s.jobs ∧
        ∀ c, SendsNow s x.fport c → ∀ e ∈ x.sent, Out.frame x.fport (frameBytes (pxtCfg s) c (portPeer c x.carriage) x.peer x.carriage e.2) ∈ t.out)) ∧
      (∀ n f, x.timeouts + 1 = (pxtCfg s).retryMax → x.kind = .putOut → x.node = some n → x.flow ≠ 0 → flowAt s x.flow = some f →
        Does (.retransmitTimeout o) s (fun t => flowAt t x.flow = none ∧ n ∈ t.pxt.unreachable))) ∧
    (∀ p o x rest, opsAt s (peerKey p) = (o, x) :: rest → fabricServes s = true →
      (tblGetD s.pxt.quiet (peerKey p) 0 + 2 ^ (pxtCfg s).keepaliveLog2 ≤ s.brt.count → Does (.keepaliveSend p) s (fun t =>
        tblGet t.pxt.quiet (peerKey p) = some s.brt.count ∧ t.pxt.ops = s.pxt.ops ∧ t.bore = s.bore ∧ t.jobs = s.jobs ∧
        ∀ c, SendsNow s x.fport c → t.out = .frame x.fport (frameBytes (pxtCfg s) c (portPeer c x.carriage) x.peer x.carriage (pxtBytes (nodeMsg 11 0))) :: s.out)) ∧
      (∀ f, tblGetD s.pxt.heard (peerKey p) 0 + 2 ^ ((pxtCfg s).keepaliveLog2 + 2) ≤ s.brt.count → rest = [] → tblGet s.pxt.ops o = some x →
        x.kind = .putOut → x.flow ≠ 0 → flowAt s x.flow = some f → Does (.peerSilenceTimeout p) s (fun t => flowAt t x.flow = none))) ∧
    Does .prevTableDrop s (fun t => (∀ b, b ∈ t.pxt.old ↔ b ∈ s.pxt.old ∧ ∃ n ∈ b.nodes,
        (∀ u, s.pxt.cur = some u ∨ s.pxt.prev = some u → n ∉ u.nodes) ∧ nodeInUse s n = true) ∧
      { t with pxt := { t.pxt with old := s.pxt.old } } = s))

/-- The noise source and the DRBGs (R350 to R358): start-up instantiates them and draws the keys, a failure stops them and begins a halt, a
reseed clears an instance's calls by priority, a held request ends. -/
def Obligations.RandomSource : Prop :=
  ∀ (s : State), isRunning s = true →
    (s.dev.mode = .boot → s.rng.ready = false → s.rng.alarm = false → s.dev.halting = false → Does .rngReady s (fun t =>
      t.rng.ready = true ∧ t.rng.alarm = false ∧ t.rng.held = [] ∧ (∀ i, drbgCalls t i ≤ 20) ∧ t.mpr.keysReady = s.mpr.trained ∧
      (∀ r, r < 16 → r < s.mpr.ranges.length → (memRange t.mpr r).key.length = 32) ∧
      (rootDue s = true → t.wch.rootNew = true ∧ t.wch.dcrCheck = dcrCheckOf t.wch.dcr ∧ s.mgc.logSeq < t.mgc.logSeq) ∧
      (rootDue s = false → t.wch.dcr = s.wch.dcr ∧ t.mgc = s.mgc) ∧ (s.wch.exportKey ≠ zeros 32 → t.wch.exportKey = s.wch.exportKey) ∧
      t.dev = s.dev ∧ t.brt = s.brt ∧ t.out.length = s.out.length + s.rng.held.length)) ∧
    (s.dev.mode = .boot → s.rng.ready = false → s.dev.halting = false → Does .rngStartupTimeout s (fun t =>
      t.rng.alarm = true ∧ t.dev = haltBegun s 5 ∧ s.mgc.logSeq < t.mgc.logSeq)) ∧
    (∀ c : Fin 16, s.dev.halting = false → Does (.rngHealthFail c) s (fun t => t.rng.alarm = true ∧ t.rng.ready = false ∧
      t.rng.cellFail.testBit c.val = true ∧ t.dev = haltBegun s (if s.dev.mode = .boot then 5 else 4) ∧ ∀ i, drbgRuns t i = false)) ∧
    (∀ i : Fin 16, s.rng.ready = true → s.rng.alarm = false → (i ≠ 0 → drbgDue s 0 = false) →
      let reset : Rng := { s.rng with calls := listSet s.rng.calls i.val 0, reseeds := min (2 ^ 32 - 1) (s.rng.reseeds + 1) }
      (2 ^ 12 ≤ drbgCalls s i.val → (i = 15 → anyReedDue s = false ∧ nextReedWaiter s = none) →
        exec (.drbgReseed i) s = .next { s with rng := reset }) ∧
      (∀ w, anyReedDue s = false → i ≠ 0 → drbgCalls s i.val < 2 ^ 12 → waiterDrbg w = i.val →
        (i ≠ 15 → nextReedWaiter s = some w) → (i = 15 → nextReedWaiter s = none ∧ nextHostWaiter s = some w) →
        exec (.drbgReseed i) s = .next { s with rng := { reset with
          waiting := s.rng.waiting.erase w
          granted := s.rng.granted ++ [w] } })) ∧
    (∀ i : Fin 16, 2 ^ 20 ≤ drbgCalls s i.val → exec (.drbgStretchLimit i) s = .next s ∧ drbgRuns s i.val = false) ∧
    (∀ k c b, s.rng.held[k]? = some (c, b) → b + 1024 ≤ s.brt.count → exec (.mgmtRngTimeout k) s = .next { s with
      rng := { s.rng with held := s.rng.held.eraseIdx k }
      out := .mctp .rngNotReady [] :: s.out })

/-- The digest port (R359 to R363): claim and release of a context, a job from INIT over its data to its digest. -/
def Obligations.DigestPort : Prop :=
  ∀ (s : State) (a : DgpAgent) (c : Fin 16) (v : BitVec 32), s.dgp.length = 16 → let d := dgpAt s c.val
    let alg := v.toNat % 2 ^ 4
    let keypad := if c.val < 4 then v.toNat / 2 ^ 18 % 4 else 0
    let keyed := keypad = 1 ∨ keypad = 2
    (DgpMay s a → d.owner = some a →
      (1 ≤ alg → alg ≤ 8 → ¬ keyed → Does (.dgpInit a c v) s (fun t => OnlyDgp s t c.val { d with
        alg := alg
        jobAlg := alg
        outLen := v.toNat / 2 ^ 8 % 2 ^ 7
        keypad := keypad
        busy := false
        valid := false
        overrun := false
        code := 2
        started := true
        finalised := false
        msg := []
        result := [] })) ∧
      (keyed → alg = 5 → Does (.dgpInit a c v) s (fun t => (dgpAt t c.val).started = true ∧ (dgpAt t c.val).busy = true ∧
        (dgpAt t c.val).msg = (padTo 104 s.dom.attest).map (fun b => b ^^^ if keypad = 1 then 0x36 else 0x5C) ∧
        OnlyDgp s t c.val (dgpAt t c.val))) ∧
      (alg = 0 ∨ 8 < alg ∨ (keyed ∧ alg ≠ 5) → Does (.dgpInit a c v) s (fun t => (dgpAt t c.val).code = 0x10 ∧ (dgpAt t c.val).started = false ∧
        (dgpAt t c.val).valid = false ∧ OnlyDgp s t c.val (dgpAt t c.val))) ∧
      Does (.dgpRelease a c) s (fun t => OnlyDgp s t c.val { Dgp.init with owner := if c.val < 4 then d.owner else none })) ∧
    (DgpTakes s a c.val →
      (d.busy = false → Does (.dgpData a c v) s (fun t => OnlyDgp s t c.val (dgpTaken d ((List.range 4).map (fun i => BitVec.ofNat 8 (v.toNat / 2 ^ (8 * i)))))) ∧
        Does (.dgpData8 a c v) s (fun t => OnlyDgp s t c.val (dgpTaken d [BitVec.ofNat 8 v.toNat]))) ∧
      (d.busy = true → ∀ x ∈ [Instr.dgpData a c v, .dgpData8 a c v, .dgpFinal a c], Does x s (fun t => OnlyDgp s t c.val { d with overrun := true })) ∧
      (d.busy = false → d.overrun = false → (d.jobAlg < 7 ∨ (1 ≤ d.outLen ∧ d.outLen ≤ 64)) →
        Does (.dgpFinal a c) s (fun t => OnlyDgp s t c.val { d with finalised := true, busy := true })) ∧
      (d.busy = false → (d.overrun = true ∨ (7 ≤ d.jobAlg ∧ (d.outLen = 0 ∨ 64 < d.outLen))) →
        Does (.dgpFinal a c) s (fun t => OnlyDgp s t c.val { d with code := 0x10, finalised := true, started := false }))) ∧
    (isLive s = true → d.finalised = false → Does (.dgpBlockAbsorbed c) s (fun t => OnlyDgp s t c.val { d with busy := false })) ∧
    (isLive s = true → d.finalised = true → d.started = true → Does (.dgpFinalDone c) s (fun t => OnlyDgp s t c.val { d with
      busy := false
      valid := true
      code := 0
      started := false
      result := padTo 64 (dgpDigest d.jobAlg d.outLen d.msg) })) ∧
    (∀ p : Fin 8, isRunning s = true → (portAt s p.val).formed = true → 4 ≤ c.val →
      (d.owner = none → Does (.dgpClaim p c) s (fun t => OnlyDgp s t c.val { d with owner := some (.pf p) })) ∧
      (d.owner.isSome = true → exec (.dgpClaim p c) s = .next s))

/-- The protected memory (R367 to R386): a read answers the line's plaintext, a write stores it under the next counter, or re-encrypts its page at
minor 127; a key generation is swept page by page; the scrub goes over the written lines. A tag that fails halts the device at once, and an address
beyond the installed memory is the model's fault. -/
def Obligations.ProtectedMemory : Prop :=
  ∀ (s : State), memServes s = true →
    (∀ a ev off bs, 2 ^ 30 * s.mpr.capacity ≤ a → exec (.ddrReadComplete a ev) s = .fault (.noSuchAddress a) ∧
      exec (.ddrLineWrite a off bs ev) s = .fault (.noSuchAddress a)) ∧
    (∀ a r, a < 2 ^ 30 * s.mpr.capacity → dataRange s a = some r → let line := a / 64
      let page := line / 64
      let x := memRange s.mpr r
      let k := pageCounters s.mpr page
      let n := minorOf s.mpr line
      let key := if x.oldKey.isSome && x.sweepPage ≤ page - 2 ^ 26 * x.base / 4096 then x.oldKey.getD [] else x.key
      Does (.ddrReadComplete a .clean) s (fun t => t.out = .memData (linePlain s.mpr r line) :: s.out ∧ t.mpr = s.mpr ∧ t.dev = s.dev) ∧
      (∀ l g, n ≠ 0 → s.mpr.fault = none → bvBytes 8 g ≠ lineTag key k.major n r line (bvBytes 64 l) →
        Does (.ddrReadComplete a (.tampered l g)) s (fun t => MemHalted t 1 1 r line)) ∧
      (∀ off bs, bs ≠ [] → off + bs.length ≤ 64 → writeWaits x page = false →
        let old := linePlain s.mpr r line
        let pt := if off = 0 ∧ bs.length = 64 then bs else old.take off ++ bs ++ old.drop (off + bs.length)
        (n ≠ 127 → Does (.ddrLineWrite a off bs .clean) s (fun t => t.out = s.out ∧ t.dev = s.dev ∧
          tblGet t.mpr.lines line = some (storedAs key k.major (n + 1) r line pt) ∧ minorOf t.mpr line = n + 1 ∧
          (pageCounters t.mpr page).major = k.major ∧
          (∀ l, l ≠ line → tblGet t.mpr.lines l = tblGet s.mpr.lines l ∧ minorOf t.mpr l = minorOf s.mpr l))) ∧
        (n = 127 → Does (.ddrLineWrite a off bs .clean) s (fun t => t.out = s.out ∧ t.dev = s.dev ∧
          (pageCounters t.mpr page).major = k.major + 1 ∧
          (∀ l ∈ writtenLines s.mpr page, tblGet t.mpr.lines l = some (storedAs key (k.major + 1) 1 r l
            (if l = line then pt else linePlain s.mpr r l))) ∧
          (∀ p, p ≠ page → pageCounters t.mpr p = pageCounters s.mpr p))))) ∧
    (∀ r : Fin 16, r.val < s.mpr.ranges.length → let x := memRange s.mpr r.val
      (r.val < 15 → s.rng.alarm = false → x.oldKey = none → 2 ^ 39 ≤ x.writes → Does (.keyGenerationRoll r) s (fun t =>
        memRange t.mpr r.val = { x with
          oldKey := some x.key
          oldWrites := x.writes
          key := bvBytes 32 (Config.freeWord 256 s.free)
          gen := x.gen + 1
          writes := 0
          sweepPage := 0 } ∧
        (∀ q, q ≠ r.val → memRange t.mpr q = memRange s.mpr q) ∧ { t with mpr := { t.mpr with ranges := s.mpr.ranges }, free := s.free } = s)) ∧
      (∀ k, x.oldKey = some k → let page := 2 ^ 26 * x.base / 4096 + x.sweepPage
        Does (.sweepPage r .clean) s (fun t => t.dev = s.dev ∧ t.out = s.out ∧
          (∀ l ∈ writtenLines s.mpr page, tblGet t.mpr.lines l = some (storedAs x.key 0 1 r.val l (linePlain s.mpr r.val l))) ∧
          (memRange t.mpr r.val).key = x.key ∧
          (if 2 ^ 26 * x.size ≤ (x.sweepPage + 1) * 4096 then (memRange t.mpr r.val).oldKey = none ∧ (memRange t.mpr r.val).sweepPage = 0
            else (memRange t.mpr r.val).oldKey = some k ∧ (memRange t.mpr r.val).sweepPage = x.sweepPage + 1) ∧
          ∀ q, q ≠ r.val → memRange t.mpr q = memRange s.mpr q))) ∧
    (s.dev.mode ≠ .boot →
      (∀ l, nextWritten s.mpr s.mpr.scrubNext = some l →
        (let m := s.mpr;
          exec (.patrolScrub .clean) s = .next { s with mpr := if (nextWritten m (l + 1)).isSome then { m with scrubNext := l + 1 }
            else { m with scrubNext := 0, scrubPasses := min 65535 (m.scrubPasses + 1) } }) ∧
        Does (.patrolScrub .singleBit) s (fun t => t.mpr.corrected = min (2 ^ 32 - 1) (s.mpr.corrected + 1) ∧ t.mpr.lines = s.mpr.lines ∧
          t.dev = s.dev) ∧
        (s.mpr.fault = none → Does (.patrolScrub .uncorrectable) s (fun t => MemHalted t 1 3 ((rangeOf s.mpr (64 * l)).getD 0) l))) ∧
      (nextWritten s.mpr s.mpr.scrubNext = none → exec (.patrolScrub .clean) s = .next { s with mpr := { s.mpr with
        scrubNext := 0
        scrubPasses := min 65535 (s.mpr.scrubPasses + 1) } }))

/-- The windchest and custody mailboxes (R335 to R347, R401): GO takes a request, WITHDRAW drops a staged one; the kinds that need officers
are staged under a CHANGE_ID where their checks pass, attestation and MIGRATE_STOP answer at once; a bad header is INPUT_INVALID. -/
def Obligations.MailboxRequests : Prop :=
  ∀ (s : State) (p : Fin 8) (q : Bytes),
    (∀ k, IsBoxKind k → BoxHolds s (k.box p) k.code q → k.good s p q → MayStage s (k.box p) → ∃ id, NewId s id ∧
      exec (k.cmd p) s = .next (boxStagedAs s (k.box p) id k.kind q)) ∧
    (∀ k, IsBoxKind k → BoxHolds s (k.box p) k.code q → zeroAt q (if k.box p = .wch p then 5 else 4) (if k.box p = .wch p then 3 else 28) = false →
      exec (k.cmd p) s = .next (boxEnded s (k.box p) .inputInvalid [])) ∧
    (let open64 := 64 ≤ q.length ∧ zeroAt q 5 3 = true ∧ zeroAt q 10 6 = true ∧ zeroAt q 48 16 = true ∧ s.dev.mode ≠ .boot ∧
        (le q 2 2 = 0 ∨ ∃ x, tblGet s.insts (le q 2 2) = some x ∧ x.port = p);
      (BoxHolds s (.wch p) 4 q → open64 → q.length = 64 → 6443 ≤ wchRoom s p → ∀ j, attestJob s p.val (attestReport s (slice q 16 32)) = some j →
        exec (.attestSigned (.port p)) s = .next (modBox { s with jobs := tblPut s.jobs s.nextJob j, nextJob := s.nextJob + 1 } (.wch p)
          (fun b => { b with req := none }))) ∧
      (BoxHolds s (.wch p) 5 q → open64 → q.length = 64 → 192 ≤ wchRoom s p →
        let head := slice q 16 32 ++ leBytes 4 (s.dom.member.getD 0) ++ leBytes 1 (lcNow s) ++ leBytes 1 (modeCode s.dev.mode) ++ zeros 2 ++
          leBytes 8 s.dom.id ++ measurement s
        (domainUsable s = true → exec (.attestShared (.port p)) s = .next (boxEnded s (.wch p) .ok
          (head ++ hmacSha3_384 s.dom.attest (ascii "SYN1 member attest" ++ head)))) ∧
        (domainUsable s = false → exec (.attestShared (.port p)) s = .next (boxEnded s (.wch p) .keyPolicy []))) ∧
      (BoxHolds s (.wch p) 6 q → open64 → q.length = 256 → domainUsable s = true → let r := q.drop 64
        let good := le r 40 8 = s.dom.id ∧ r.drop 144 = hmacSha3_384 s.dom.attest (ascii "SYN1 member attest" ++ r.take 144)
        (good → exec (.attestCheck (.port p)) s = .next (boxEnded s (.wch p) .ok [])) ∧
        (¬ good → exec (.attestCheck (.port p)) s = .next (boxEnded s (.wch p) .signatureInvalid [])))) ∧
    (BoxHolds s (.lcs p) 10 q → LcsForm q 0 →
      ((portAt s p.val).global = true → s.dev.mode = .migrate →
        exec (.migrateStop (.port p)) s = .next (boxEnded { s with mig := { s.mig with stop := true } } (.lcs p) .ok [])) ∧
      ((portAt s p.val).global = false → exec (.migrateStop (.port p)) s = .next (boxEnded s (.lcs p) .keyPolicy []))) ∧
    (isRunning s = true → (portAt s p.val).formed = true → s.wchBox.length = 8 → s.lcsBox.length = 8 →
      ∀ e ∈ [(Carrier.wch p, Instr.wchGo p, Instr.wchWithdraw p, 64), (.lcs p, .lcsGo p, .lcsWithdraw p, 32)],
      let b := boxAt s e.1
      let begun := modBox s e.1 (fun b => { b with busy := true, done := false, status := 0, goBreath := s.brt.count, req := some [] })
      (b.busy = false → b.ends = [] → e.2.2.2 ≤ b.reqLen → b.reqLen ≤ 65536 → exec e.2.1 s = .next begun) ∧
      (b.busy = false → b.ends = [] → (b.reqLen < e.2.2.2 ∨ 65536 < b.reqLen) → exec e.2.1 s = .next (boxEnded begun e.1 .inputInvalid [])) ∧
      (b.busy = true ∨ b.ends ≠ [] → exec e.2.1 s = .next s) ∧
      (∀ x, tblGet s.changes.live b.change = some x → x.carrier = e.1 → s.brt.count < x.expiry → Does e.2.2.1 s (fun t =>
        tblGet t.changes.live b.change = none ∧ (∀ k, k ≠ b.change → tblGet t.changes.live k = tblGet s.changes.live k) ∧
        boxAt t e.1 = { b with done := true, status := 0x41 } ∧
        { t with changes := s.changes, wchBox := s.wchBox, lcsBox := s.lcsBox } = s)))

/-- Tamper (R324 to R326), the life cycle over JTAG (R388 to R396), and the entries of a migration (R421). -/
def Obligations.TamperAndLifeCycle : Prop :=
  ∀ (s : State),
    (∀ x, (match x with | .clockGlitch | .voltGlitch => s.dev.powerGood = true | _ => True) → Does (.tamperEvent x) s (fun t =>
      t.wch.dcr = zeros 32 ∧ t.wch.dcrCheck = zeros 8 ∧ t.wch.exportKey = zeros 32 ∧
      (∀ b, t.wch.tamper.testBit b = (s.wch.tamper.testBit b || b = 16 || b = tamperBit x)) ∧
      (s.dev.powerGood = true → t.wch.slots = [] ∧ t.dom.gens = [] ∧ t.dom.attest = [] ∧ ∀ e ∈ t.clusters, e.2.keyCache = []) ∧
      (isRunning s = true → s.dev.halting = false → t.dev = haltBegun s 6 ∧ s.mgc.logSeq < t.mgc.logSeq) ∧
      (s.dev.powerGood = false → { t with wch := s.wch } = s))) ∧
    (∀ m : BitVec 32, isLive s = true → Does (.tamperClear m) s (fun t => (∀ b, t.wch.tamper.testBit b = (s.wch.tamper.testBit b && !m.toNat.testBit b)) ∧
      { t with wch := { t.wch with tamper := s.wch.tamper } } = s)) ∧
    (isRunning s = true →
      (∀ token j i, s.dev.mode = .boot → lcNow s = 0 → s.lcs.tokenTried = false → j < 7 → s.lcs.tokenUsed.testBit j = false →
        (∀ k, k < j → s.lcs.tokenUsed.testBit k = true) → lcFreeRecord s 1 = some i →
        (token.length = 16 → s.lcs.pendingTarget = 7 → sha3_256 token = s.lcs.tokenHash.getD j [] → Does (.jtagTestUnlock token) s (fun t =>
          t.lcs = { lcWritten s i 1 with tokenTried := true, tokenUsed := s.lcs.tokenUsed ||| 2 ^ j } ∧ Logged s t 0x0303)) ∧
        (sha3_256 token ≠ s.lcs.tokenHash.getD j [] →
          exec (.jtagTestUnlock token) s = .next { s with lcs := { s.lcs with tokenTried := true } })) ∧
      (∀ i, s.dev.mode = .boot → lcNow s = 1 → s.lcs.pendingTarget = 7 → lcFreeRecord s 0 = some i → Does .jtagRelock s (fun t =>
        t.lcs = lcWritten s i 0 ∧ Logged s t 0x0303)) ∧
      (∀ target sig i, lcByRenotte (lcNow s) target = true → target ≠ 2 → s.lcs.pendingTarget = 7 → lcFreeRecord s target = some i →
        let m := renotteMessage s 8 target
        let verifies := Config.renotteMldsa 2 m (sig.take 4627) = true ∧ Config.renotteEcdsa 2 m (sig.drop 4627) = true
        (verifies → Does (.jtagRenotteAuthorisation target sig) s (fun t => t.lcs = lcWritten s i target ∧ Logged s t 0x0303)) ∧
        (¬ verifies → exec (.jtagRenotteAuthorisation target sig) s = .next { s with free := s.free + 1 })) ∧
      (∀ sig, (lcNow s = 2 ∨ lcNow s = 4) → Config.renotteMldsa 2 (renotteMessage s 15 6) (sig.take 4627) = true →
        Config.renotteEcdsa 2 (renotteMessage s 15 6) (sig.drop 4627) = true →
        exec (.jtagRenotteAuthorisation 6 sig) s = .next { s with free := s.free + 1, lcs := { s.lcs with invasive := true } }) ∧
      (∀ b, entryDue s = true → b.length = 48 → (∀ m ∈ s.mig.entries, m.index ≠ s.mig.next) → let k := s.mig.next
        (Machine.entryOk b = true → ∀ n, (s.pxt.cur.bind (fun c => nodeWinner c (b.take 16))) = some n → Does (.migrationEntryStart b) s (fun t =>
          ∃ e f, flowAt s e = none ∧ flowAt t e = some f ∧ f.kind = .get ∧ f.sid = s.mig.stream ∧ f.obj = b.take 16 ∧ f.ext = be b 16 4 ∧
            f.mig = some k ∧ f.node = some n ∧ t.mig = { s.mig with
              next := k + 1
              entries := s.mig.entries ++ [⟨k, b.take 16, be b 16 4, slice b 24 16, be b 40 4, some e, none, 0⟩] })) ∧
        (Machine.entryOk b = false → Does (.migrationEntryStart b) s (fun t => t.mig = { s.mig with
            next := k + 1
            done := s.mig.done + 1
            failed := min 65535 (s.mig.failed + 1) } ∧ t.bore = s.bore ∧
          ∃ d l, t.out = l.reverse ++ s.out ∧ d.length = 32 ∧ le d 16 2 = 0x10 ∧
            let p := (tblGet s.insts s.mig.inst).elim 0 (fun x => x.port.val)
            Bursts p (128 * 2 ^ (portAt s p).mps) (relaxedOrder s) (s.mig.resultAddr + 32 * k) d l))))

/-- The twin link (R409 to R414): training with the partner of the pair record keys it and starts from number 0, records are acknowledged and wait
for the inhale in order, what was not acknowledged is sent again, a pulse aligns a SHADOW's count. -/
def Obligations.TwinLink : Prop :=
  ∀ (s : State),
    (∀ h, isRunning s = true → let id := recipientId h.transportKey
      ((∀ p, s.dom.pair = some p → p.1 ≠ id) ∨ h.partIsLc ≠ decide (s.dev.part = .lc) → Does (.twinLinkTrain h) s (fun t =>
        t.twn = { s.twn with linkKey := none, aligned := false } ∧ Logged s t 0x020A ∧ t.free = s.free)) ∧
      (∀ p k ct, s.dom.pair = some p → p.1 = id → h.partIsLc = decide (s.dev.part = .lc) → h.transportKey.length = 1624 →
        hybridEncaps h.transportKey (bvBytes 32 (Config.freeWord 256 s.free)) (bvBytes 56 (Config.freeWord 448 (s.free + 1))) = some (k, ct) →
        (s.twn.role = 0 ∨ s.twn.role = 2) → let back := bvBytes 32 (Config.freeWord 256 (s.free + 2))
          let own := recipientId (transportPublic s)
          exec (.twinLinkTrain h) s = .next { s with
            free := s.free + 3
            twn := { s.twn with
              linkKey := some (if s.dom.member.getD 0 < h.member.toNat then kmac256 (k ++ back) (own ++ id) 32 (ascii "SYN1 twin link")
                else kmac256 (back ++ k) (id ++ own) 32 (ascii "SYN1 twin link"))
              aligned := false
              split := false
              nextSeq := 0
              ackIn := none
              ackOut := none
              toSend := []
              sent := []
              inbox := []
              lastRecord := s.brt.count
              lastPulse := s.brt.count
              snapshotDone := false } })) ∧
    EachRecord (fun kind row => ∀ t : TwinIn,
      (t.tagOk = false ∨ s.twn.linkKey = none → isRunning s = true → exec (row t) s = .next s) ∧
      (TwinNext s t → t.ackSeq = 2 ^ 64 - 1 → Does (row t) s (fun u =>
        (3 ≤ kind → u = { s with twn := boxed s kind t }) ∧
        (kind = 1 → u = { s with twn := { boxed s kind t with
          partnerMode := byteAt t.body 0
          partnerChart := le t.body 4 4
          lastHeartbeat := s.brt.count } }) ∧
        (kind = 2 → mirrorTarget s = true → u = { s with twn := { boxed s kind t with adopt := some (le t.body 0 8) } }) ∧
        (kind = 2 → mirrorTarget s = false → u = { s with twn := boxed s kind t }))) ∧
      (TwinNext s t → t.ackSeq ≠ 2 ^ 64 - 1 → (∀ r ∈ s.twn.sent, r.seq ≤ t.ackSeq → r.kind ≠ 8) → Does (row t) s (fun u =>
        u.twn.sent = s.twn.sent.filter (fun r => t.ackSeq < r.seq) ∧ u.twn.waits = s.twn.waits.filter (fun w => t.ackSeq < w.seq) ∧
        u.twn.ackOut = some t.ackSeq ∧ u.twn.inbox = (boxed s kind t).inbox ∧
        u.waiting = s.waiting ++ (s.twn.waits.filter (fun w => w.seq ≤ t.ackSeq)).map (fun w => ⟨w.c, w.cls, w.key, s.brt.count + 1⟩) ∧
        { u with twn := s.twn, waiting := s.waiting } = s))) ∧
    (isRunning s = true → s.twn.linkKey.isSome = true → s.brt.exhale = true → Does .twinRecordResend s (fun t =>
      t.twn = { s.twn with sent := s.twn.sent.map (fun r => if r.breath + 2 ≤ s.brt.count then { r with breath := s.brt.count } else r) } ∧
      (∀ r ∈ s.twn.sent, r.breath + 2 ≤ s.brt.count →
        Out.twin r.kind s.brt.count r.seq (s.twn.ackIn.getD (2 ^ 64 - 1)) r.body ∈ t.out) ∧
      { t with twn := s.twn, out := s.out } = s)) ∧
    (isRunning s = true →
      (s.twn.adopt = none → exec .breathSyncPulse s = .next { s with twn := { s.twn with lastPulse := s.brt.count } }) ∧
      (∀ n, s.twn.adopt = some n → Does .breathSyncPulse s (fun t => t.brt = { s.brt with count := n, cycle := 0, exhale := false } ∧
        t.twn.aligned = true ∧ t.twn.adopt = none ∧ t.twn.lastPulse = n ∧ { t with brt := s.brt, twn := s.twn } = s)))

/-- The twin lost (R414 to R418): the pins of the partner, the loss of the link with the partner alive or gone, the evidence on which a SHADOW takes
over, and the takeover at the inhale after it. -/
def Obligations.TwinLoss : Prop :=
  ∀ (s : State), isRunning s = true →
    exec .twinAliveEdge s = .next { s with twn := { s.twn with lastToggle := some s.brt.count } } ∧
    exec .twinHaltInRelease s = .next { s with twn := { s.twn with partnerHalt := false } } ∧
    (s.twn.role ≠ 2 → exec .twinHaltIn s = .next { s with twn := { s.twn with partnerHalt := true } }) ∧
    (s.twn.role = 2 → s.dev.mode = .shadow → s.twn.evidence = none → Does .twinHaltIn s (fun t =>
      t.twn = { evident s with partnerHalt := true } ∧ Logged s t 0x020B ∧ t.dev = s.dev)) ∧
    (s.twn.linkKey.isSome = true → (s.twn.lastRecord + 16 ≤ s.brt.count ∨ s.twn.lastPulse + 16 ≤ s.brt.count) →
      let lost : Twn := { s.twn with linkKey := none, aligned := false, toSend := [], sent := [], inbox := [] }
      (s.twn.role = 0 → exec .twinLinkLost s = .next { s with twn := lost }) ∧
      (s.twn.role ≠ 0 → partnerAlive s = true → s.twn.partnerHalt = false → Does .twinLinkLost s (fun t =>
        t.twn = { lost with split := true } ∧ Logged s t 0x0209 ∧
        t.dev = (if (s.dev.mode = .service ∨ s.dev.mode = .migrate ∨ s.dev.mode = .shadow) ∧ s.dev.halting = false
          then { s.dev with modeReq := some (.recover, s.brt.count + 1) } else s.dev))) ∧
      (s.twn.role = 1 → (partnerAlive s = false ∨ s.twn.partnerHalt = true) → Does .twinLinkLost s (fun t =>
        t.twn = { lost with role := 3, waits := [] } ∧ t.dev = s.dev ∧
        t.waiting = s.waiting ++ s.twn.waits.map (fun w => ⟨w.c, w.cls, w.key, s.brt.count + 1⟩)))) ∧
    (partnerGone s = true → s.twn.linkKey = none →
      (s.twn.role = 2 → s.dev.mode = .shadow → s.twn.evidence = none → Does .partnerAliveTimeout s (fun t => t.twn = evident s ∧
        Logged s t 0x020B ∧ t.dev = s.dev)) ∧
      (s.twn.role = 1 → Does .partnerAliveTimeout s (fun t => t.twn = { s.twn with role := 3, waits := [] } ∧ t.dev = s.dev ∧
        t.waiting = s.waiting ++ s.twn.waits.map (fun w => ⟨w.c, w.cls, w.key, s.brt.count + 1⟩)))) ∧
    (∀ n, s.twn.evidence = some n → n < s.brt.count → s.twn.role = 2 → s.brt.cycle = 0 → s.brt.exhale = false → s.dev.halting = false →
      (s.dev.mode = .shadow ∨ s.dev.mode = .recover) → Does .takeover s (fun t =>
        t.dev = { s.dev with mode := .service, prevMode := modeCode s.dev.mode, modeBreath := s.brt.count, modeReq := none } ∧
        t.twn.role = 3 ∧ t.twn.evidence = none ∧ t.twn.split = false ∧ t.brt = s.brt ∧
        (∀ i x, tblGet s.insts i = some x → ∃ y, tblGet t.insts i = some y ∧ y.state = .active ∧ y.gen = (x.gen + 1) % 2 ^ 32 ∧
          y.queues = [(0, Qp.init)] ∧ y.reset = none) ∧
        (∀ i, tblGet s.insts i = none → tblGet t.insts i = none)))

/-- The management controller (R424 to R431, R457): its reads, its settings, the mode requests, the sensors with their steps and halts. -/
def Obligations.Management : Prop :=
  ∀ (s : State),
    (isLive s = true → exec .getStatus s = .next (mctpSaid s .ok (if lcNow s = 5 then leBytes 4 (lcsState s)
      else leBytes 4 (devMode s) ++ leBytes 4 (lcsState s) ++ leBytes 4 (twnStatus s) ++ leBytes 4 s.mgc.alarms ++ leBytes 4 (monFw s)))) ∧
    (MctpActs s →
      exec .readSensors s = .next (mctpSaid s .ok ((List.range 32).flatMap (fun i => leBytes 2 (s.mgc.readings.junction.getD i 0)) ++
        (List.range 16).flatMap (fun i => leBytes 2 (s.mgc.readings.millivolts.getD i 0)))) ∧
      (∀ n, exec (.readLog n) s = .next (mctpSaid s .ok (((s.mgc.sealedLog.reverse.filter (fun r => n ≤ r.seq)).take 1024).flatMap
        (fun r => logBytes r ++ r.mac)))) ∧
      (∀ i : BitVec 16, (∀ id c, changeByLow s i.toNat = some (id, c) → exec (.queryChange i) s = .next (mctpSaid s .ok (changeReport s id c))) ∧
        (changeByLow s i.toNat = none → exec (.queryChange i) s = .next (mctpSaid s .inputInvalid []))) ∧
      (∀ ms : BitVec 64, exec (.setTime ms) s = .next (mctpSaid { s with mgc := { s.mgc with
        timeBase := some (ms.toNat, s.mgc.readings.millis) } } .ok [])) ∧
      (∀ e : Byte, exec (.setEndpointId e) s = .next { s with
        mgc := { s.mgc with eid := e }
        out := .mctpControl 0 [0, e, 0] :: s.out }) ∧
      (∀ d, (lcNow s ≠ 2 ∧ lcNow s ≠ 3 → exec (.setCak d) s = .next (mctpSaid s .keyPolicy [])) ∧
        (∀ b f, (lcNow s = 2 ∨ lcNow s = 3) → openEnvelope (transportSeed s) (transportScalar s) (transportPublic s) d = .payload b →
          fabCfg s (byteAt b 0) = some f → f.macsec = true → 1 ≤ byteAt b 1 → byteAt b 1 ≤ 32 → b.length = 34 + byteAt b 1 →
          Does (.setCak d) s (fun t => OnlyFab { s with out := .mctp .ok [] :: s.out } t (byteAt b 0)
            { fabPort s (byteAt b 0) with cak := b.drop 1 })) ∧
        ((lcNow s = 2 ∨ lcNow s = 3) → openEnvelope (transportSeed s) (transportScalar s) (transportPublic s) d = .badTag →
          exec (.setCak d) s = .next (mctpSaid s .tagMismatch []))) ∧
      (let free := s.dev.halting = false ∧ s.dev.modeReq = none
        let ask (r : ModeReq) : State := mctpSaid { s with dev := { s.dev with modeReq := some (r, s.brt.count + 1) } } .ok []
        let ups := s.dev.mode = .service ∨ s.dev.mode = .migrate ∨ s.dev.mode = .shadow
        (free → ups → Does .modeRequestRecover s (fun t => t.dev = (ask .recover).dev ∧ t.out = (ask .recover).out ∧ s.mgc.logSeq < t.mgc.logSeq)) ∧
        (¬ free ∨ ¬ ups → exec .modeRequestRecover s = .next (mctpSaid s .inputInvalid [])) ∧
        (free → s.dev.mode = .recover → s.twn.role = 0 →
          (anyPoolBelow s = false → exec .modeRequestService s = .next (ask .service)) ∧
          (anyPoolBelow s = true → exec .modeRequestService s = .next (mctpSaid s .inputInvalid []))) ∧
        (∀ q, free → s.dev.tuneReq = none → (s.dev.mode = .service ∨ s.dev.mode = .shadow ∨ s.dev.mode = .recover) → q.length = 16 →
          s.rng.ready = true → MayStage s .mctp → ∃ id, NewId s id ∧
          exec (.modeRequestTune q) s = .next (mctpSaid (staged s id .tuneEntry .mctp q (zeros 12)) .ok (leBytes 4 id))) ∧
        (∀ e, s.dev.mode ≠ .halted → s.dev.halting = false → Does (.modeRequestHalted e) s (fun t => t.dev = haltBegun s 6 ∧
          t.out.head? = some (.mctp .ok []) ∧ s.mgc.logSeq < t.mgc.logSeq)))) ∧
    (isRunning s = true → s.dev.halting = false →
      (∀ m : Fin 16, m ≠ 15 → Does (.voltageFault m) s (fun t => t.dev = haltBegun s 6 ∧ s.mgc.logSeq < t.mgc.logSeq)) ∧
      exec (.voltageFault 15) s = .next s ∧
      Does (.thermalComparator true) s (fun t => t.dev = haltBegun s 6 ∧ s.mgc.logSeq < t.mgc.logSeq) ∧
      (stepNow s ≠ 2 → Does (.thermalComparator false) s (fun t => t.brt = { s.brt with stepReq := some 2 } ∧ t.dev = s.dev ∧ Logged s t 0x0201)) ∧
      (stepNow s = 2 → exec (.thermalComparator false) s = .next s) ∧
      (∀ r, Machine.readingsOk r = true → s.mgc.readings.millis ≤ r.millis → let hot := tMax r
        Does (.sensorSample r) s (fun t => t.mgc.readings = r ∧ { t.brt with stepReq := s.brt.stepReq } = s.brt ∧
          (672 ≤ hot → stepNow t = 2) ∧ (656 ≤ hot → hot < 672 → stepNow t = max 1 (stepNow s)) ∧ (hot < 656 → stepNow s = 0 → stepNow t = 0) ∧
          (696 ≤ hot → (bandHot, 0) ∉ s.mgc.warned → t.dev = haltBegun s 6) ∧
          (hot < 696 → (bandClockAction, 0) ∈ s.mgc.warned → t.dev = s.dev))))
end

