-- ==== Sys2Proof/Laws/Store.lean ====
section
/-! SUPPORT. The laws of stores and tables: a read after a write, and the canonical form that every operation keeps. -/

namespace Sys2Proof.Laws

open Sys2Proof.Machine

/-! ### Tables -/

theorem tblGet_put_same {α : Type} (t : Tbl α) (k : Nat) (x : α) : tblGet (tblPut t k x) k = some x := by
  induction t with
  | nil => simp [tblPut, tblGet]
  | cons e rest ih =>
    obtain ⟨j, v⟩ := e
    unfold tblPut
    split
    · simp [tblGet]
    · split
      · simp [tblGet]
      · rename_i h1 h2
        simp [tblGet, h2, ih]

theorem tblGet_put_other {α : Type} (t : Tbl α) (k i : Nat) (x : α) (h : i ≠ k) : tblGet (tblPut t k x) i = tblGet t i := by
  induction t with
  | nil => simp [tblPut, tblGet, Ne.symm h]
  | cons e rest ih =>
    obtain ⟨j, v⟩ := e
    unfold tblPut
    split
    · simp [tblGet, Ne.symm h]
    · split
      · rename_i h1 h2
        simp [tblGet, Ne.symm h, h2 ▸ (Ne.symm h)]
      · simp [tblGet, ih]

theorem tblGet_mod_other {α : Type} (t : Tbl α) (k i : Nat) (f : α → α) (h : i ≠ k) : tblGet (tblMod t k f) i = tblGet t i := by
  induction t with
  | nil => simp [tblMod, tblGet]
  | cons e rest ih =>
    obtain ⟨j, v⟩ := e
    unfold tblMod
    split
    · rename_i h1
      simp [tblGet, h1 ▸ (Ne.symm h)]
    · simp [tblGet, ih]

theorem tblGet_del_same {α : Type} (t : Tbl α) (k : Nat) : tblGet (tblDel t k) k = none := by
  induction t with
  | nil => rfl
  | cons e rest ih =>
    obtain ⟨j, v⟩ := e
    unfold tblDel
    split
    · exact ih
    · simp [tblGet, *]

theorem tblGet_mod_same {α : Type} (t : Tbl α) (k : Nat) (f : α → α) : tblGet (tblMod t k f) k = (tblGet t k).map f := by
  induction t with
  | nil => simp [tblMod, tblGet]
  | cons e rest ih =>
    obtain ⟨j, v⟩ := e
    unfold tblMod
    split
    · rename_i h1
      simp [tblGet, h1]
    · rename_i h1
      simp [tblGet, h1, ih]

theorem tblGet_del_other {α : Type} (t : Tbl α) (k i : Nat) (h : i ≠ k) : tblGet (tblDel t k) i = tblGet t i := by
  induction t with
  | nil => simp [tblDel, tblGet]
  | cons e rest ih =>
    obtain ⟨j, v⟩ := e
    unfold tblDel
    split
    · rename_i h1
      simpa [tblGet, h1 ▸ (Ne.symm h)] using ih
    · simp [tblGet, ih]

/-- A lower bound may be weakened. -/
theorem tblWfFrom_none {α : Type} (t : Tbl α) (l : Nat) (h : tblWfFrom (some l) t = true) : tblWfFrom none t = true := by
  cases t with
  | nil => rfl
  | cons e rest => obtain ⟨j, v⟩ := e; simp [tblWfFrom] at h ⊢; exact h.2

theorem tblWfFrom_lower {α : Type} (t : Tbl α) (l m : Nat) (hl : l ≤ m) (h : tblWfFrom (some m) t = true) : tblWfFrom (some l) t = true := by
  cases t with
  | nil => rfl
  | cons e rest => obtain ⟨j, v⟩ := e; simp [tblWfFrom] at h ⊢; exact ⟨by omega, h.2⟩

theorem tblPut_wfFrom {α : Type} (t : Tbl α) (k : Nat) (x : α) :
    ∀ lo : Option Nat, (∀ l, lo = some l → l < k) → tblWfFrom lo t = true → tblWfFrom lo (tblPut t k x) = true := by
  induction t with
  | nil =>
    intro lo hlo _
    cases lo with
    | none => simp [tblPut, tblWfFrom]
    | some l => simpa [tblPut, tblWfFrom] using hlo l rfl
  | cons e rest ih =>
    obtain ⟨j, v⟩ := e
    intro lo hlo h
    unfold tblPut
    split
    · rename_i h1
      cases lo with
      | none => simpa [tblWfFrom, h1] using h
      | some l => simp [tblWfFrom, h1] at h ⊢; exact ⟨hlo l rfl, h.2⟩
    · split
      · rename_i h1 h2
        subst h2
        simpa [tblWfFrom] using h
      · rename_i h1 h2
        simp only [tblWfFrom, Bool.and_eq_true] at h ⊢
        exact ⟨h.1, ih (some j) (by intro l hl; cases hl; omega) h.2⟩

/-- Putting a record keeps the keys rising. -/
theorem tblPut_wf {α : Type} (t : Tbl α) (k : Nat) (x : α) (h : tblWfFrom none t = true) : tblWfFrom none (tblPut t k x) = true :=
  tblPut_wfFrom t k x none (by simp) h

theorem tblMod_wfFrom {α : Type} (t : Tbl α) (k : Nat) (f : α → α) :
    ∀ lo : Option Nat, tblWfFrom lo t = true → tblWfFrom lo (tblMod t k f) = true := by
  induction t with
  | nil => intro lo h; simp [tblMod, tblWfFrom]
  | cons e rest ih =>
    obtain ⟨j, v⟩ := e
    intro lo h
    unfold tblMod
    split
    · simpa [tblWfFrom] using h
    · simp only [tblWfFrom, Bool.and_eq_true] at h ⊢
      exact ⟨h.1, ih (some j) h.2⟩

/-- Changing a record keeps the keys rising. -/
theorem tblMod_wf {α : Type} (t : Tbl α) (k : Nat) (f : α → α) (h : tblWfFrom none t = true) : tblWfFrom none (tblMod t k f) = true :=
  tblMod_wfFrom t k f none h

theorem tblDel_wfFrom {α : Type} (t : Tbl α) (k : Nat) : ∀ lo : Option Nat, tblWfFrom lo t = true → tblWfFrom lo (tblDel t k) = true := by
  induction t with
  | nil => intro lo h; simp [tblDel, tblWfFrom]
  | cons e rest ih =>
    obtain ⟨j, v⟩ := e
    intro lo h
    unfold tblDel
    split
    · simp only [tblWfFrom, Bool.and_eq_true] at h
      cases lo with
      | none => exact ih none (tblWfFrom_none rest j h.2)
      | some l => exact ih (some l) (tblWfFrom_lower rest l j (by simp at h; omega) h.2)
    · simp only [tblWfFrom, Bool.and_eq_true] at h ⊢
      exact ⟨h.1, ih (some j) h.2⟩

/-- Removing a record keeps the keys rising. -/
theorem tblDel_wf {α : Type} (t : Tbl α) (k : Nat) (h : tblWfFrom none t = true) : tblWfFrom none (tblDel t k) = true :=
  tblDel_wfFrom t k none h

/-- What a put table lists: the new record, or a record of before. -/
theorem mem_tblPut {α : Type} (t : Tbl α) (k : Nat) (x : α) (e : Nat × α) (h : e ∈ tblPut t k x) : e = (k, x) ∨ e ∈ t := by
  induction t with
  | nil => simp [tblPut] at h; exact .inl h
  | cons d rest ih =>
    obtain ⟨j, v⟩ := d
    unfold tblPut at h
    split at h
    · simpa using h
    · split at h
      · rcases List.mem_cons.mp h with h | h
        · exact .inl h
        · exact .inr (List.mem_cons_of_mem _ h)
      · rcases List.mem_cons.mp h with h | h
        · exact .inr (by simp [h])
        · rcases ih h with h | h
          · exact .inl h
          · exact .inr (List.mem_cons_of_mem _ h)

theorem tblGet_mem {α : Type} (t : Tbl α) (k : Nat) (x : α) (h : tblGet t k = some x) : (k, x) ∈ t := by
  induction t with
  | nil => simp [tblGet] at h
  | cons d rest ih =>
    obtain ⟨j, v⟩ := d
    unfold tblGet at h
    split at h
    · rename_i h1; simp at h; simp [h1, h]
    · exact List.mem_cons_of_mem _ (ih h)

/-! ### Stores -/

theorem storeGet_del_other {w : Nat} (m : Store w) (k i : Nat) (h : i ≠ k) : storeGet (storeDel m k) i = storeGet m i := by
  induction m with
  | nil => simp [storeDel, storeGet]
  | cons e rest ih =>
    obtain ⟨j, v⟩ := e
    unfold storeDel
    split
    · rename_i h1; simp [storeGet, ih, h1 ▸ (Ne.symm h)]
    · simp [storeGet, ih]

theorem storeGet_put_other {w : Nat} (m : Store w) (k i : Nat) (x : BitVec w) (h : i ≠ k) : storeGet (storePut m k x) i = storeGet m i := by
  induction m with
  | nil => simp [storePut, storeGet, Ne.symm h]
  | cons e rest ih =>
    obtain ⟨j, v⟩ := e
    unfold storePut
    split
    · simp [storeGet, Ne.symm h]
    · split
      · rename_i h1 h2; simp [storeGet, Ne.symm h, h2 ▸ (Ne.symm h)]
      · simp [storeGet, ih]

theorem storeGet_put_same {w : Nat} (m : Store w) (k : Nat) (x : BitVec w) : storeGet (storePut m k x) k = x := by
  induction m with
  | nil => simp [storePut, storeGet]
  | cons e rest ih =>
    obtain ⟨j, v⟩ := e
    unfold storePut
    split
    · simp [storeGet]
    · split
      · simp [storeGet]
      · rename_i h1 h2; simp [storeGet, h2, ih]

/-- A write leaves every other key alone. -/
theorem storeGet_set_other {w : Nat} (m : Store w) (k i : Nat) (x : BitVec w) (h : i ≠ k) : storeGet (storeSet m k x) i = storeGet m i := by
  unfold storeSet
  split
  · exact storeGet_del_other m k i h
  · exact storeGet_put_other m k i x h

theorem storeWfFrom_none {w : Nat} (m : Store w) (l : Nat) (h : storeWfFrom (some l) m = true) : storeWfFrom none m = true := by
  cases m with
  | nil => rfl
  | cons e rest => obtain ⟨j, v⟩ := e; simp [storeWfFrom] at h ⊢; exact ⟨h.1.2, h.2⟩

theorem storeWfFrom_lower {w : Nat} (m : Store w) (l k : Nat) (hl : l ≤ k) (h : storeWfFrom (some k) m = true) : storeWfFrom (some l) m = true := by
  cases m with
  | nil => rfl
  | cons e rest => obtain ⟨j, v⟩ := e; simp [storeWfFrom] at h ⊢; exact ⟨⟨by omega, h.1.2⟩, h.2⟩

/-- A key at or below the bound of a canonical store is not listed. -/
theorem storeGet_below {w : Nat} (m : Store w) (l i : Nat) (hi : i ≤ l) (h : storeWfFrom (some l) m = true) : storeGet m i = 0 := by
  induction m generalizing l with
  | nil => rfl
  | cons e rest ih =>
    obtain ⟨j, v⟩ := e
    simp [storeWfFrom] at h
    have h1 : j ≠ i := by omega
    simp [storeGet, h1]
    exact ih j (by omega) h.2

theorem storeGet_del_same {w : Nat} (m : Store w) (k : Nat) : storeGet (storeDel m k) k = 0 := by
  induction m with
  | nil => rfl
  | cons e rest ih =>
    obtain ⟨j, v⟩ := e
    unfold storeDel
    split
    · exact ih
    · rename_i h1; simp [storeGet, h1, ih]

/-- A read after a write to the same key gives the value written. -/
theorem storeGet_set_same {w : Nat} (m : Store w) (k : Nat) (x : BitVec w) : storeGet (storeSet m k x) k = x := by
  unfold storeSet
  split
  · rename_i hx; rw [hx]; exact storeGet_del_same m k
  · exact storeGet_put_same m k x

theorem storeDel_wfFrom {w : Nat} (m : Store w) (k : Nat) : ∀ lo : Option Nat, storeWfFrom lo m = true → storeWfFrom lo (storeDel m k) = true := by
  induction m with
  | nil => intro lo h; simp [storeDel, storeWfFrom]
  | cons e rest ih =>
    obtain ⟨j, v⟩ := e
    intro lo h
    unfold storeDel
    split
    · simp only [storeWfFrom, Bool.and_eq_true] at h
      cases lo with
      | none => exact ih none (storeWfFrom_none rest j h.2)
      | some l => exact ih (some l) (storeWfFrom_lower rest l j (by simp at h; omega) h.2)
    · simp only [storeWfFrom, Bool.and_eq_true] at h ⊢
      exact ⟨h.1, ih (some j) h.2⟩

theorem storePut_wfFrom {w : Nat} (m : Store w) (k : Nat) (x : BitVec w) (hx : x ≠ 0) :
    ∀ lo : Option Nat, (∀ l, lo = some l → l < k) → storeWfFrom lo m = true → storeWfFrom lo (storePut m k x) = true := by
  induction m with
  | nil =>
    intro lo hlo _
    cases lo with
    | none => simpa [storePut, storeWfFrom] using hx
    | some l => simp [storePut, storeWfFrom]; exact ⟨hlo l rfl, hx⟩
  | cons e rest ih =>
    obtain ⟨j, v⟩ := e
    intro lo hlo h
    unfold storePut
    split
    · rename_i h1
      cases lo with
      | none => simp [storeWfFrom, h1] at h ⊢; exact ⟨hx, h⟩
      | some l => simp [storeWfFrom, h1] at h ⊢; exact ⟨⟨hlo l rfl, hx⟩, h.1.2, h.2⟩
    · split
      · rename_i h1 h2
        subst h2
        simp only [storeWfFrom, Bool.and_eq_true, decide_eq_true_eq] at h ⊢
        exact ⟨⟨h.1.1, hx⟩, h.2⟩
      · rename_i h1 h2
        simp only [storeWfFrom, Bool.and_eq_true] at h ⊢
        exact ⟨h.1, ih (some j) (by intro l hl; cases hl; omega) h.2⟩

/-- A write keeps the canonical form. -/
theorem storeSet_wf {w : Nat} (m : Store w) (k : Nat) (x : BitVec w) (h : storeWf m = true) : storeWf (storeSet m k x) = true := by
  unfold storeSet
  split
  · exact storeDel_wfFrom m k none h
  · rename_i hx; exact storePut_wfFrom m k x hx none (by simp) h

/-- A write of a byte string keeps the canonical form. -/
theorem storeWrite_wf (bs : Bytes) : ∀ (m : Store 8) (a : Nat), storeWf m = true → storeWf (storeWrite m a bs) = true := by
  induction bs with
  | nil => intro m a h; simpa [storeWrite] using h
  | cons b rest ih => intro m a h; exact ih _ _ (storeSet_wf m a b h)

/-- A byte string written leaves every address outside it alone. -/
theorem storeGet_write_other (bs : Bytes) :
    ∀ (m : Store 8) (a i : Nat), (i < a ∨ a + bs.length ≤ i) → storeGet (storeWrite m a bs) i = storeGet m i := by
  induction bs with
  | nil => intro m a i _; rfl
  | cons b rest ih =>
    intro m a i h
    simp only [List.length_cons] at h
    simp only [storeWrite]
    rw [ih _ _ _ (by omega), storeGet_set_other m a i b (by omega)]

/-- A byte string written reads back. -/
theorem storeRead_write (bs : Bytes) :
    ∀ (m : Store 8) (a : Nat), storeRead (storeWrite m a bs) a bs.length = bs := by
  induction bs with
  | nil => intro m a; rfl
  | cons b rest ih =>
    intro m a
    simp only [storeWrite, List.length_cons, storeRead]
    rw [storeGet_write_other rest _ (a + 1) a (by omega), storeGet_set_same m a b, ih _ _]

theorem storeWfFrom_map {w : Nat} (m : Store w) (f : BitVec w → BitVec w) (hf : ∀ x, f x ≠ 0) :
    ∀ lo : Option Nat, storeWfFrom lo m = true → storeWfFrom lo (m.map (fun e => (e.1, f e.2))) = true := by
  induction m with
  | nil => intro lo h; rfl
  | cons e rest ih =>
    obtain ⟨j, v⟩ := e
    intro lo h
    simp only [List.map_cons, storeWfFrom, Bool.and_eq_true] at h ⊢
    exact ⟨⟨h.1.1, by simpa using hf v⟩, ih (some j) h.2⟩

end Sys2Proof.Laws
end

