-- ==== Sys2Proof/Laws/KeepOps.lean ====
section
/-! SUPPORT. That each function over the state keeps what every state of a run holds (`BlockInv` of Safety.lean): the shared operations of the device, its work queues and journal. -/

set_option linter.unusedSimpArgs false
set_option linter.unusedTactic false
set_option linter.unreachableTactic false
set_option linter.unusedVariables false

namespace Sys2Proof.Laws

open Sys2Proof Sys2Proof.Machine Sys2Proof.Safety

/-- What a command that is no INHALE, EXHALE, BREATH_SYNC_PULSE or POWER_ON_RESET keeps beside the invariant: the queue, and of the breath
its count, cycle, phase and length. -/
structure Keep where
  queue : List Instr
  phase : Nat × Nat × Bool × Nat

variable {Q : Keep}



/-- The invariant of every step, and what `Q` says is kept; each part names `Q`, which simp's lemmas need. -/
structure KeptClock (Q : Keep) (b : Brt) : Prop extends ClockOk b where
  phase : (b.count, b.cycle, b.exhale, b.log2Len) = Q.phase
def KeptMem (_ : Keep) (m : Mpr) : Prop := MemOk m
def KeptWait (_ : Keep) (w : Option ChartWait) : Prop := WaitOk w
def KeptShape (_ : Keep) (ports : List HostPort) (wch lcs : List Mailbox) (dgp : List Dgp) : Prop := ShapeOk ports wch lcs dgp

structure Kept (Q : Keep) (s : State) : Prop where
  clock : KeptClock Q s.brt
  mem : MemOk s.mpr
  wait : WaitOk s.charts.fullWait
  queue : s.pending = Q.queue
  shape : ShapeOk s.ports s.wchBox s.lcsBox s.dgp

theorem Kept.inv {Q : Keep} {s : State} (h : Kept Q s) : BlockInv s := ⟨h.clock.toClockOk, h.mem, h.wait, h.shape⟩

/-- The values a state with the invariant keeps are its own. -/
theorem kept_of_inv {s : State} (h : BlockInv s) : Kept ⟨s.pending, (s.brt.count, s.brt.cycle, s.brt.exhale, s.brt.log2Len)⟩ s :=
  ⟨⟨h.clock, rfl⟩, h.mem, h.wait, rfl, h.shape⟩

theorem inv_mk (dev : Dev) (brt : Brt) (ports : List HostPort) (insts : Tbl Inst) (jobs : Tbl Job) (nextJob : Nat) (waiting : List Waiting)
    (plc : Plc) (clusters : Tbl Cluster) (reeds : Tbl Reed) (health : UnitHealth) (bell : Bell) (charts : Charts) (changes : Changes)
    (wch : Wch) (wchBox lcsBox : List Mailbox) (rng : Rng) (dgp : List Dgp) (mpr : Mpr) (mgc : Mgc) (dom : Domain) (lcs : Lcs) (twn : Twn)
    (mig : Mig) (bore : Bore) (pxt : Pxt) (pending : List Instr) (out : List Out) (free : Nat) :
    Kept Q ⟨dev, brt, ports, insts, jobs, nextJob, waiting, plc, clusters, reeds, health, bell, charts, changes, wch, wchBox, lcsBox, rng, dgp,
      mpr, mgc, dom, lcs, twn, mig, bore, pxt, pending, out, free⟩ ↔ KeptClock Q brt ∧ KeptMem Q mpr ∧ KeptWait Q charts.fullWait ∧ pending = Q.queue ∧ KeptShape Q ports wchBox lcsBox dgp :=
  ⟨fun h => ⟨h.clock, h.mem, h.wait, h.queue, h.shape⟩, fun h => ⟨h.1, h.2.1, h.2.2.1, h.2.2.2.1, h.2.2.2.2⟩⟩

theorem inv_clock {s : State} (h : Kept Q s) : KeptClock Q s.brt := h.clock
theorem inv_mem {s : State} (h : Kept Q s) : KeptMem Q s.mpr := h.mem
theorem inv_wait {s : State} (h : Kept Q s) : KeptWait Q s.charts.fullWait := h.wait
theorem inv_queue {s : State} (h : Kept Q s) : (s.pending = Q.queue) = True := eq_true h.queue

theorem inv_shape {s : State} (h : Kept Q s) : KeptShape Q s.ports s.wchBox s.lcsBox s.dgp := h.shape

theorem length_listMod {α : Type} (l : List α) (i : Nat) (f : α → α) : (listMod l i f).length = l.length := by
  induction l generalizing i with
  | nil => rfl
  | cons a l ih => cases i <;> simp [listMod, ih]

theorem shape_ports (a : List HostPort) (i : Nat) (f : HostPort → HostPort) (b c : List Mailbox) (d : List Dgp) :
    KeptShape Q (listMod a i f) b c d = KeptShape Q a b c d := by
  simp only [KeptShape, eq_iff_iff]
  exact ⟨fun h => ⟨by simpa [length_listMod] using h.1, h.2, h.3, h.4⟩, fun h => ⟨by simpa [length_listMod] using h.1, h.2, h.3, h.4⟩⟩

theorem shape_portsMap (a : List HostPort) (f : HostPort → HostPort) (b c : List Mailbox) (d : List Dgp) :
    KeptShape Q (a.map f) b c d = KeptShape Q a b c d := by
  simp only [KeptShape, eq_iff_iff]
  exact ⟨fun h => ⟨by simpa using h.1, h.2, h.3, h.4⟩, fun h => ⟨by simpa using h.1, h.2, h.3, h.4⟩⟩

theorem shape_wch (a : List HostPort) (b : List Mailbox) (i : Nat) (f : Mailbox → Mailbox) (c : List Mailbox) (d : List Dgp) :
    KeptShape Q a (listMod b i f) c d = KeptShape Q a b c d := by
  simp only [KeptShape, eq_iff_iff]
  exact ⟨fun h => ⟨h.1, by simpa [length_listMod] using h.2, h.3, h.4⟩, fun h => ⟨h.1, by simpa [length_listMod] using h.2, h.3, h.4⟩⟩

theorem shape_lcs (a : List HostPort) (b c : List Mailbox) (i : Nat) (f : Mailbox → Mailbox) (d : List Dgp) :
    KeptShape Q a b (listMod c i f) d = KeptShape Q a b c d := by
  simp only [KeptShape, eq_iff_iff]
  exact ⟨fun h => ⟨h.1, h.2, by simpa [length_listMod] using h.3, h.4⟩, fun h => ⟨h.1, h.2, by simpa [length_listMod] using h.3, h.4⟩⟩

theorem shape_dgp (a : List HostPort) (b c : List Mailbox) (d : List Dgp) (i : Nat) (f : Dgp → Dgp) :
    KeptShape Q a b c (listMod d i f) = KeptShape Q a b c d := by
  simp only [KeptShape, eq_iff_iff]
  exact ⟨fun h => ⟨h.1, h.2, h.3, by simpa [length_listMod] using h.4⟩, fun h => ⟨h.1, h.2, h.3, by simpa [length_listMod] using h.4⟩⟩

/-- The same after a change of every port or every context. -/
theorem shape_map {s : State} (h : Kept Q s) (p : List HostPort) (d : List Dgp) (hp : p.length = s.ports.length) (hd : d.length = s.dgp.length) :
    KeptShape Q p s.wchBox s.lcsBox d := ⟨hp.trans h.shape.1, h.shape.2, h.shape.3, hd.trans h.shape.4⟩

theorem inv_ite {c : Prop} [Decidable c] {a b : State} (ha : Kept Q a) (hb : Kept Q b) : Kept Q (if c then a else b) := by
  split <;> assumption

theorem inv_foldl {α : Type} (f : State → α → State) (l : List α) (s : State) (hf : ∀ t a, Kept Q t → Kept Q (f t a)) (h : Kept Q s) :
    Kept Q (l.foldl f s) := by
  induction l generalizing s with
  | nil => exact h
  | cons a rest ih => exact ih _ (hf s a h)

theorem inv_let {α : Type} {s : State} {f : State → State} (h : Kept Q s) (hf : ∀ t, Kept Q t → Kept Q (f t)) : Kept Q (f s) := hf s h

/-- Where an outcome is a next state, the invariant holds there and the queue is as it was; the breath may be another. -/
def OutAny (Q : Keep) (o : Host.Outcome State Fault Refusal) : Prop := ∀ t, o = .next t → ∃ p, Kept ⟨Q.queue, p⟩ t

/-- Where an outcome is a next state, all of it is kept there. -/
def OutInv (Q : Keep) (o : Host.Outcome State Fault Refusal) : Prop := ∀ t, o = .next t → Kept Q t

theorem outInv_next {t : State} (h : Kept Q t) : OutInv Q (.next t) := fun _ e => by cases e; exact h
theorem outInv_fault (e : Fault) : OutInv Q (.fault e) := fun _ h => by cases h
theorem outInv_ite {c : Prop} [Decidable c] {a b : Host.Outcome State Fault Refusal} (ha : OutInv Q a) (hb : OutInv Q b) :
    OutInv Q (if c then a else b) := by
  split <;> assumption

theorem modPort_inv (s : State) (p : Nat) (f : HostPort → HostPort) (h0 : Kept Q s) : Kept Q (modPort s p f) := by
  unfold modPort
  simp only [inv_mk, inv_clock, inv_mem, inv_wait, inv_queue, inv_shape, shape_ports, shape_wch, shape_lcs, shape_dgp, and_self, h0]

theorem modInst_inv (s : State) (i : Nat) (f : Inst → Inst) (h0 : Kept Q s) : Kept Q (modInst s i f) := by
  unfold modInst
  simp only [inv_mk, inv_clock, inv_mem, inv_wait, inv_queue, inv_shape, shape_ports, shape_wch, shape_lcs, shape_dgp, and_self, h0]

theorem modRing_inv (s : State) (g : Ring) (f : Qp → Qp) (h0 : Kept Q s) : Kept Q (modRing s g f) := by
  unfold modRing
  split <;> simp (maxDischargeDepth := 40) only [modPort_inv, modInst_inv, h0]

theorem bucketCharge_inv (s : State) (i : Nat) (n : Nat) (h0 : Kept Q s) : Kept Q (bucketCharge s i n) := by
  unfold bucketCharge
  simp (maxDischargeDepth := 40) only [inv_ite, modInst_inv, h0]

theorem ringCharge_inv (s : State) (g : Ring) (n : Nat) (h0 : Kept Q s) : Kept Q (ringCharge s g n) := by
  unfold ringCharge
  split <;> simp (maxDischargeDepth := 40) only [bucketCharge_inv, h0]

theorem emit_inv (s : State) (o : Out) (h0 : Kept Q s) : Kept Q (emit s o) := by
  unfold emit
  simp only [inv_mk, inv_clock, inv_mem, inv_wait, inv_queue, inv_shape, shape_ports, shape_wch, shape_lcs, shape_dgp, and_self, h0]

theorem admError_inv (s : State) (p : Nat) (cause : Nat) (h0 : Kept Q s) : Kept Q (admError s p cause) := by
  unfold admError
  simp only [modPort_inv, h0]

theorem instError_inv (s : State) (i : Nat) (cause : Nat) (h0 : Kept Q s) : Kept Q (instError s i cause) := by
  unfold instError
  simp only [modInst_inv, h0]

theorem ringError_inv (s : State) (g : Ring) (cause : Nat) (h0 : Kept Q s) : Kept Q (ringError s g cause) := by
  unfold ringError
  split <;> simp (maxDischargeDepth := 40) only [admError_inv, instError_inv, h0]

theorem dropDenied_inv (s : State) (p : Nat) (fn : Nat) (page : Nat) (h0 : Kept Q s) : Kept Q (dropDenied s p fn page) := by
  unfold dropDenied
  simp only [modPort_inv, h0]

theorem writeEntry_inv (s : State) (c : Compl) (h0 : Kept Q s) : Kept Q (writeEntry s c) := by
  unfold writeEntry
  (repeat' (first | (simp (maxDischargeDepth := 40) +contextual only [ringError_inv, dropDenied_inv, emit_inv, modRing_inv, ringCharge_inv, h0]; done) | split | (simp only []; split)))

theorem emitAll_inv (s : State) (l : List Out) (h0 : Kept Q s) : Kept Q (emitAll s l) := by
  unfold emitAll
  simp only [inv_mk, inv_clock, inv_mem, inv_wait, inv_queue, inv_shape, shape_ports, shape_portsMap, shape_wch, shape_lcs, shape_dgp, and_self, h0]

theorem writeOutput_inv (s : State) (c : Compl) (h0 : Kept Q s) : Kept Q (writeOutput s c).2 := by
  unfold writeOutput
  (repeat' (first | (simp (maxDischargeDepth := 40) +contextual only [ringCharge_inv, emitAll_inv, ringError_inv, dropDenied_inv, h0]; done) | split | (simp only []; split)))

theorem issueCompl_inv (s : State) (c : Compl) (h0 : Kept Q s) : Kept Q (issueCompl s c) := by
  unfold issueCompl
  (repeat' (first | (simp (maxDischargeDepth := 40) only [inv_ite, inv_mk, inv_clock, inv_mem, inv_wait, inv_queue, inv_shape, shape_ports, shape_portsMap, shape_wch, shape_lcs, shape_dgp, and_self, modRing_inv, writeOutput_inv, emit_inv, writeEntry_inv, h0]; done) | split))

theorem logRecord_inv (s : State) (code : Nat) (sev : Nat) (bit : Option Nat) (data : Bytes) (h0 : Kept Q s) : Kept Q (logRecord s code sev bit data) := by
  unfold logRecord
  simp only [inv_mk, inv_clock, inv_mem, inv_wait, inv_queue, inv_shape, shape_ports, shape_portsMap, shape_wch, shape_lcs, shape_dgp, and_self, h0]

theorem logEvent_inv (s : State) (code : Nat) (data : Bytes) (h0 : Kept Q s) : Kept Q (logEvent s code data) := by
  unfold logEvent
  simp only [logRecord_inv, h0]

theorem freshWord_inv (w : Nat) (s : State) (h1 : Kept Q s) : Kept Q (freshWord w s).2 := by
  unfold freshWord
  simp only [inv_mk, inv_clock, inv_mem, inv_wait, inv_queue, inv_shape, shape_ports, shape_wch, shape_lcs, shape_dgp, and_self, h1]

theorem modJob_inv (s : State) (j : Nat) (f : Job → Job) (h0 : Kept Q s) : Kept Q (modJob s j f) := by
  unfold modJob
  simp only [inv_mk, inv_clock, inv_mem, inv_wait, inv_queue, inv_shape, shape_ports, shape_wch, shape_lcs, shape_dgp, and_self, h0]

theorem modMsix_inv (s : State) (p : Nat) (vf : Nat) (f : Msix → Msix) (h0 : Kept Q s) : Kept Q (modMsix s p vf f) := by
  unfold modMsix
  simp (maxDischargeDepth := 40) only [inv_ite, modPort_inv, h0]

theorem fnCharge_inv (s : State) (p : Nat) (fn : Nat) (n : Nat) (h0 : Kept Q s) : Kept Q (fnCharge s p fn n) := by
  unfold fnCharge
  (repeat' (first | (simp (maxDischargeDepth := 40) only [bucketCharge_inv, h0]; done) | split))

theorem msixSend_inv (s : State) (p : Nat) (vf : Nat) (v : Nat) (h0 : Kept Q s) : Kept Q (msixSend s p vf v) := by
  unfold msixSend
  simp (maxDischargeDepth := 40) only [inv_ite, modMsix_inv, fnCharge_inv, emit_inv, h0]

theorem ringMessage_inv (s : State) (g : Ring) (h0 : Kept Q s) : Kept Q (ringMessage s g) := by
  unfold ringMessage
  (repeat' (first | (simp (maxDischargeDepth := 40) only [modRing_inv, ringCharge_inv, msixSend_inv, h0]; done) | split))

theorem messageIfLast_inv (s : State) (g : Ring) (h0 : Kept Q s) : Kept Q (messageIfLast s g) := by
  unfold messageIfLast
  simp (maxDischargeDepth := 40) only [inv_ite, ringMessage_inv, h0]

theorem monSample_inv (s : State) (source : Nat) (index : Nat) (v : Nat) (h0 : Kept Q s) : Kept Q (monSample s source index v) := by
  unfold monSample
  simp only [inv_mk, inv_clock, inv_mem, inv_wait, inv_queue, inv_shape, shape_ports, shape_wch, shape_lcs, shape_dgp, and_self, h0]

theorem latencySample_inv (s : State) (c : Compl) (h0 : Kept Q s) : Kept Q (latencySample s c) := by
  unfold latencySample
  split <;> simp (maxDischargeDepth := 40) only [monSample_inv, h0]

theorem freshBytes_inv (n : Nat) (s : State) (h1 : Kept Q s) : Kept Q (freshBytes n s).2 := by
  unfold freshBytes
  simp only [inv_mk, inv_clock, inv_mem, inv_wait, inv_queue, inv_shape, shape_ports, shape_wch, shape_lcs, shape_dgp, and_self, h1]

theorem passCycles_brt (s : State) (n : Nat) : (passCycles s n).brt = { s.brt with cycle := s.brt.cycle + n } := rfl

theorem passCycles_mpr (s : State) (n : Nat) : (passCycles s n).mpr = s.mpr := rfl

theorem passCycles_charts (s : State) (n : Nat) : (passCycles s n).charts = s.charts := rfl

theorem passCycles_inv (s : State) (n : Nat) (h0 : Kept Q s)
    (hw : s.brt.exhale = false → s.brt.cycle + n + 256 ≤ 2 ^ s.brt.log2Len) (ho : s.brt.exhale = true → s.brt.cycle + n < 2 ^ s.brt.log2Len) :
    ∃ p, Kept ⟨Q.queue, p⟩ (passCycles s n) := by
  obtain ⟨⟨⟨a, b, c, d, e, f⟩, p⟩, m, w, q, sh⟩ := h0
  exact ⟨_, ⟨⟨a, b, c, d, hw, fun h => ⟨by have := (f h).1; rw [passCycles_brt]; simp only; omega, ho h⟩⟩, rfl⟩, m, w, q, sh⟩

theorem setReed_inv (s : State) (r : Nat) (x : Reed) (h0 : Kept Q s) : Kept Q (setReed s r x) := by
  unfold setReed
  simp only [inv_mk, inv_clock, inv_mem, inv_wait, inv_queue, inv_shape, shape_ports, shape_wch, shape_lcs, shape_dgp, and_self, h0]

theorem addWaiting_inv (s : State) (c : Compl) (cls : Nat) (key : Nat) (due : Nat) (h0 : Kept Q s) : Kept Q (addWaiting s c cls key due) := by
  unfold addWaiting
  simp only [inv_mk, inv_clock, inv_mem, inv_wait, inv_queue, inv_shape, shape_ports, shape_wch, shape_lcs, shape_dgp, and_self, h0]

theorem modReed_inv (s : State) (r : Nat) (f : Reed → Reed) (h0 : Kept Q s) : Kept Q (modReed s r f) := by
  unfold modReed
  simp only [setReed_inv, h0]

theorem whenLive_inv (s : State) (t : State) (h0 : Kept Q s) (h1 : Kept Q t) : OutInv Q (whenLive s t) := by
  unfold whenLive
  (repeat' (first | (simp (maxDischargeDepth := 40) +contextual only [outInv_next, inv_ite, h0, h1]; done) | split | (simp only []; split)))

theorem putEntry_inv (s : State) (c : Compl) (h0 : Kept Q s) : Kept Q (putEntry s c) := by
  unfold putEntry
  simp (maxDischargeDepth := 40) only [inv_ite, writeEntry_inv, h0]

theorem writeHeld_inv (g : Ring) (l : List Machine.Compl) : ∀ s : State, Kept Q s → Kept Q (writeHeld g l s) := by
  induction l with
  | nil => exact fun s h => modRing_inv _ _ _ h
  | cons c rest ih =>
    intro s h
    unfold writeHeld
    exact inv_ite (modRing_inv _ _ _ h) (ih _ (putEntry_inv _ _ h))

theorem issueHeld_inv (s : State) (g : Ring) (h0 : Kept Q s) : Kept Q (issueHeld s g) := by
  unfold issueHeld
  (repeat' (first | (simp (maxDischargeDepth := 40) +contextual only [outInv_next, outInv_fault, outInv_ite, inv_ite, inv_foldl, inv_mk, inv_clock, inv_mem, inv_wait, inv_queue, inv_shape, shape_ports, shape_portsMap, shape_wch, shape_lcs, shape_dgp, and_self, implies_true, writeHeld_inv, issueCompl_inv, modRing_inv, h0]; done) | split | (simp only []; split)))

theorem idleTick_inv (s : State) (h0 : Kept Q s) : ∃ p, Kept ⟨Q.queue, p⟩ (idleTick s) := by
  unfold idleTick breathLen
  cases hx : s.brt.exhale with
  | true =>
    simp only [if_true, Bool.and_eq_true, decide_eq_true_eq]
    split
    · rename_i h
      exact passCycles_inv s 1 h0 (fun e => by simp [hx] at e) (fun _ => by omega)
    · exact ⟨_, h0⟩
  | false =>
    simp only [Bool.false_eq_true, if_false, Bool.and_eq_true, decide_eq_true_eq]
    split
    · rename_i h
      exact passCycles_inv s 1 h0 (fun _ => by omega) (fun e => by simp [hx] at e)
    · exact ⟨_, h0⟩

theorem setCluster_inv (s : State) (c : Nat) (x : Cluster) (h0 : Kept Q s) : Kept Q (setCluster s c x) := by
  unfold setCluster
  simp only [inv_mk, inv_clock, inv_mem, inv_wait, inv_queue, inv_shape, shape_ports, shape_wch, shape_lcs, shape_dgp, and_self, h0]

theorem modCluster_inv (s : State) (c : Nat) (f : Cluster → Cluster) (h0 : Kept Q s) : Kept Q (modCluster s c f) := by
  unfold modCluster
  simp only [setCluster_inv, h0]

theorem freshChoice_inv (k : Nat) (s : State) (h1 : Kept Q s) : Kept Q (freshChoice k s).2 := by
  unfold freshChoice
  simp only [inv_mk, inv_clock, inv_mem, inv_wait, inv_queue, inv_shape, shape_ports, shape_wch, shape_lcs, shape_dgp, and_self, h1]

theorem whenRunning_inv (s : State) (t : State) (h0 : Kept Q s) (h1 : Kept Q t) : OutInv Q (whenRunning s t) := by
  unfold whenRunning
  (repeat' (first | (simp (maxDischargeDepth := 40) +contextual only [outInv_next, inv_ite, h0, h1]; done) | split | (simp only []; split)))

theorem whenRunning_any (s : State) (t : State) (h0 : Kept Q s) (h1 : ∃ p, Kept ⟨Q.queue, p⟩ t) : OutAny Q (whenRunning s t) := by
  unfold whenRunning
  intro u hu
  split at hu <;> cases hu
  · exact h1
  · exact ⟨_, h0⟩

theorem modWch_inv (s : State) (f : Wch → Wch) (h0 : Kept Q s) : Kept Q (modWch s f) := by
  unfold modWch
  simp only [inv_mk, inv_clock, inv_mem, inv_wait, inv_queue, inv_shape, shape_ports, shape_wch, shape_lcs, shape_dgp, and_self, h0]

theorem putCeiling_inv (s : State) (pub : Bytes) (n : Nat) (h0 : Kept Q s) : Kept Q (putCeiling s pub n) := by
  unfold putCeiling
  simp only [modWch_inv, h0]

theorem zeroRoot_inv (s : State) (h0 : Kept Q s) : Kept Q (zeroRoot s) := by
  unfold zeroRoot
  simp only [modWch_inv, h0]

theorem uncacheSlot_inv (s : State) (i : Nat) (h : Nat) (h0 : Kept Q s) : Kept Q (uncacheSlot s i h) := by
  unfold uncacheSlot
  simp only [inv_mk, inv_clock, inv_mem, inv_wait, inv_queue, inv_shape, shape_ports, shape_wch, shape_lcs, shape_dgp, and_self, h0]

theorem freeSlot_inv (s : State) (i : Nat) (h : Nat) (h0 : Kept Q s) : Kept Q (freeSlot s i h) := by
  unfold freeSlot
  (repeat' (first | (simp (maxDischargeDepth := 40) only [inv_ite, uncacheSlot_inv, modWch_inv, h0]; done) | split))

theorem unreserveSlot_inv (s : State) (i : Nat) (h : Nat) (h0 : Kept Q s) : Kept Q (unreserveSlot s i h) := by
  unfold unreserveSlot
  (repeat' (first | (simp (maxDischargeDepth := 40) only [modWch_inv, h0]; done) | split))

theorem markCorrupt_inv (s : State) (i : Nat) (h : Nat) (h0 : Kept Q s) : Kept Q (markCorrupt s i h) := by
  unfold markCorrupt
  (repeat' (first | (simp (maxDischargeDepth := 40) only [uncacheSlot_inv, modWch_inv, h0]; done) | split))

theorem noteSlot_inv (s : State) (i : Nat) (h : Nat) (st : Status) (h0 : Kept Q s) : Kept Q (noteSlot s i h st) := by
  unfold noteSlot
  simp (maxDischargeDepth := 40) only [inv_ite, markCorrupt_inv, h0]

theorem modStateful_inv (s : State) (pub : Bytes) (f : Stateful → Stateful) (h0 : Kept Q s) : Kept Q (modStateful s pub f) := by
  unfold modStateful
  simp only [modWch_inv, h0]

theorem fillSlot_inv (s : State) (i : Nat) (h : Nat) (alg : Nat) (usage : Nat) (policy : Nat) (kind : Nat) (material : Bytes) (h0 : Kept Q s) : Kept Q (fillSlot s i h alg usage policy kind material) := by
  unfold fillSlot
  simp (maxDischargeDepth := 40) only [inv_ite, modWch_inv, h0]

theorem reserveSlot_inv (s : State) (i : Nat) (h : Nat) (h0 : Kept Q s) : Kept Q (reserveSlot s i h) := by
  unfold reserveSlot
  simp only [modWch_inv, h0]

theorem ownerWipe_inv (s : State) (i : Nat) (u : JobUnit) (h0 : Kept Q s) : Kept Q (ownerWipe s i u) := by
  unfold ownerWipe
  split
  · dsimp only
    split
    · exact h0
    · split
      · exact h0
      · rename_i c _ _ _ _ _
        have h1 := modCluster_inv s c (fun k => { k with mau := mauWipe k.mau }) h0
        cases (clusterAt s c).mau.lastKey with
        | none => exact h1
        | some k => exact uncacheSlot_inv _ _ _ h1
  · exact h0

theorem assignJob_inv (s : State) (n : Nat) (k : Nat) (h0 : Kept Q s) : Kept Q (assignJob s n k) := by
  unfold assignJob
  (repeat' (first | (simp (maxDischargeDepth := 40) only [modJob_inv, ownerWipe_inv, h0]; done) | split))

theorem placeDisplaced_inv (s : State) (n : Nat) (h0 : Kept Q s) : Kept Q (placeDisplaced s n) := by
  unfold placeDisplaced
  (repeat' (first | (simp (maxDischargeDepth := 40) +contextual only [inv_foldl, implies_true, assignJob_inv, h0]; done) | split | (simp only []; split)))

theorem setDeficit_inv (s : State) (i : Nat) (pool : Nat) (mau : Bool) (d : Nat) (h0 : Kept Q s) : Kept Q (setDeficit s i pool mau d) := by
  unfold setDeficit
  simp only [inv_mk, inv_clock, inv_mem, inv_wait, inv_queue, inv_shape, shape_ports, shape_wch, shape_lcs, shape_dgp, and_self, h0]

theorem payJobs_inv (n pool : Nat) (mau : Bool) (i fuel : Nat) : ∀ x : State × Nat, Kept Q x.1 → Kept Q (payJobs n pool mau i fuel x).1 := by
  induction fuel with
  | zero => intro x h; exact h
  | succ k ih =>
    intro x h
    obtain ⟨s, f⟩ := x
    unfold payJobs
    split
    · exact h
    · dsimp only
      split
      · exact h
      · apply ih
        split <;> simp (maxDischargeDepth := 40) only [inv_mk, inv_clock, inv_mem, inv_wait, inv_queue, inv_shape, shape_ports, shape_wch, shape_lcs, shape_dgp, and_self, setDeficit_inv, assignJob_inv, h]

theorem roundPass_inv (n pool : Nat) (mau : Bool) (l : List Nat) : ∀ x : State × Nat, Kept Q x.1 → Kept Q (roundPass n pool mau l x).1 := by
  induction l with
  | nil => intro x h; exact h
  | cons i rest ih =>
    intro x h
    obtain ⟨s, f⟩ := x
    unfold roundPass
    split
    · exact h
    · split
      · exact ih _ h
      · dsimp only
        have h2 := payJobs_inv n pool mau i f (setDeficit s i pool mau (deficitOf s i pool mau + shareOf s i pool), f) (setDeficit_inv s _ _ _ _ h)
        split
        · simp (maxDischargeDepth := 40) only [inv_mk, inv_clock, inv_mem, inv_wait, inv_queue, inv_shape, shape_ports, shape_wch, shape_lcs, shape_dgp, and_self, h2]
        · exact ih _ h2

theorem rounds_inv (n pool : Nat) (mau : Bool) (fuel : Nat) : ∀ x : State × Nat, Kept Q x.1 → Kept Q (rounds n pool mau fuel x).1 := by
  induction fuel with
  | zero => intro x h; exact h
  | succ k ih =>
    intro x h
    obtain ⟨s, f⟩ := x
    unfold rounds
    dsimp only
    split
    · exact h
    · split
      · exact h
      · exact ih _ (roundPass_inv n pool mau _ _ (inv_foldl _ _ _ (fun t a ht => setDeficit_inv _ _ _ _ _ ht) h))

theorem placeClass_inv (s : State) (n : Nat) (p : PoolCfg) (mau : Bool) (h0 : Kept Q s) : Kept Q (placeClass s n p mau) := by
  unfold placeClass
  have h := rounds_inv n p.id mau (freeUnits s n p mau + 1) (s, freeUnits s n p mau) h0
  simp (maxDischargeDepth := 40) only [inv_mk, inv_clock, inv_mem, inv_wait, inv_queue, inv_shape, shape_ports, shape_wch, shape_lcs, shape_dgp, and_self, h]

theorem collectJob_inv (s : State) (k : Nat) (h0 : Kept Q s) : Kept Q (collectJob s k) := by
  unfold collectJob
  simp only [inv_mk, inv_clock, inv_mem, inv_wait, inv_queue, inv_shape, shape_ports, shape_wch, shape_lcs, shape_dgp, and_self, modJob_inv, h0]

theorem bellVisit_inv (s : State) (c : Nat) (h0 : Kept Q s) : Kept Q (bellVisit s c) := by
  unfold bellVisit
  split <;> simp (maxDischargeDepth := 40) only [collectJob_inv, modCluster_inv, h0]

theorem placement_inv (s : State) (n : Nat) (h0 : Kept Q s) : Kept Q (placement s n) := by
  unfold placement
  (repeat' (first | (simp (maxDischargeDepth := 40) +contextual only [inv_foldl, implies_true, placeClass_inv, placeDisplaced_inv, h0]; done) | split | (simp only []; split)))

theorem ladderAdvance_inv (s : State) (k : Nat) (h0 : Kept Q s) : Kept Q (ladderAdvance s k) := by
  unfold ladderAdvance
  (repeat' (first | (simp (maxDischargeDepth := 40) only [inv_mk, inv_clock, inv_mem, inv_wait, inv_queue, inv_shape, shape_ports, shape_portsMap, shape_wch, shape_lcs, shape_dgp, and_self, modJob_inv, h0]; done) | split))

theorem bellDrain_inv (x0 : Nat) (x1 : State) (h1 : Kept Q x1) : Kept Q (bellDrain x0 x1) := by
  induction x0 generalizing x1 with
  | zero => exact h1
  | succ k ih =>
    unfold bellDrain
    split
    · exact h1
    · exact ih _ (bellVisit_inv _ _ h1)

theorem execLadderRungAdvance_inv (j : Nat) (s : State) (h1 : Kept Q s) : OutInv Q (execLadderRungAdvance j s) := by
  unfold execLadderRungAdvance
  simp only [whenRunning_inv, ladderAdvance_inv, h1]

theorem dropClaim_inv (s : State) (j : Job) (h0 : Kept Q s) : Kept Q (dropClaim s j) := by
  unfold dropClaim
  (repeat' (first | (simp (maxDischargeDepth := 40) only [modStateful_inv, h0]; done) | split))

theorem dropJob_inv (s : State) (k : Nat) (h0 : Kept Q s) : Kept Q (dropJob s k) := by
  unfold dropJob
  (repeat' (first | (simp (maxDischargeDepth := 40) only [inv_mk, inv_clock, inv_mem, inv_wait, inv_queue, inv_shape, shape_ports, shape_wch, shape_lcs, shape_dgp, and_self, dropClaim_inv, unreserveSlot_inv, h0]; done) | split))

theorem wipeMau_inv (s : State) (c : Nat) (h0 : Kept Q s) : Kept Q (wipeMau s c) := by
  unfold wipeMau
  simp only [modCluster_inv, h0]

theorem markAbort_inv (s : State) (k : Nat) (st : Status) (h0 : Kept Q s) : Kept Q (markAbort s k st) := by
  unfold markAbort
  simp only [modJob_inv, h0]

theorem cancelInternal_inv (s : State) (k : Nat) (h0 : Kept Q s) : Kept Q (cancelInternal s k) := by
  unfold cancelInternal
  (repeat' (first | (simp (maxDischargeDepth := 40) only [dropJob_inv, modJob_inv, markAbort_inv, h0]; done) | split))

theorem addJob_inv (s : State) (j : Job) (h0 : Kept Q s) : Kept Q (addJob s j).2 := by
  unfold addJob
  simp only [inv_mk, inv_clock, inv_mem, inv_wait, inv_queue, inv_shape, shape_ports, shape_wch, shape_lcs, shape_dgp, and_self, h0]

theorem endOffLadder_inv (s : State) (k : Nat) (st : Status) (out : Bytes) (info : Nat) (due : Nat) (h0 : Kept Q s) : Kept Q (endOffLadder s k st out info due) := by
  unfold endOffLadder
  (repeat' (first | (simp (maxDischargeDepth := 40) only [dropJob_inv, addWaiting_inv, h0]; done) | split))

theorem abortComplete_inv (s : State) (k : Nat) (h0 : Kept Q s) : Kept Q (abortComplete s k) := by
  unfold abortComplete
  (repeat' (first | (simp (maxDischargeDepth := 40) +contextual only [inv_ite, inv_foldl, implies_true, endOffLadder_inv, h0]; done) | split | (simp only []; split)))

theorem execAbortComplete_inv (j : Nat) (s : State) (h1 : Kept Q s) : OutInv Q (execAbortComplete j s) := by
  unfold execAbortComplete
  simp only [whenRunning_inv, abortComplete_inv, h1]

theorem submitInternal_inv (s : State) (x1 : Nat) (what : Nat × Nat) (alg : Nat) (op : Nat) (slot : Nat) (ctx : Bytes) (input : Bytes) (h0 : Kept Q s) : Kept Q (submitInternal s x1 what alg op slot ctx input).2 := by
  unfold submitInternal
  (repeat' (first | (simp (maxDischargeDepth := 40) +contextual only [addJob_inv, noteSlot_inv, h0]; done) | split | (simp only []; split)))

theorem leaveContext_inv (s : State) (j : Job) (h0 : Kept Q s) : Kept Q (leaveContext s j) := by
  unfold leaveContext
  simp (maxDischargeDepth := 40) only [inv_ite, inv_mk, inv_clock, inv_mem, inv_wait, inv_queue, inv_shape, shape_ports, shape_wch, shape_lcs, shape_dgp, and_self, h0]

theorem rejectJob_inv (s : State) (k : Nat) (st : Status) (h0 : Kept Q s) : Kept Q (rejectJob s k st) := by
  unfold rejectJob
  simp only [endOffLadder_inv, h0]

theorem queueRecord_inv (s : State) (kind : Nat) (body : Bytes) (h0 : Kept Q s) : Kept Q (queueRecord s kind body) := by
  unfold queueRecord
  simp only [inv_mk, inv_clock, inv_mem, inv_wait, inv_queue, inv_shape, shape_ports, shape_wch, shape_lcs, shape_dgp, and_self, h0]

theorem mirror_inv (s : State) (kind : Nat) (body : Bytes) (h0 : Kept Q s) : Kept Q (mirror s kind body) := by
  unfold mirror
  simp (maxDischargeDepth := 40) only [inv_ite, queueRecord_inv, h0]

theorem modBore_inv (s : State) (f : Bore → Bore) (h0 : Kept Q s) : Kept Q (modBore s f) := by
  unfold modBore
  simp only [inv_mk, inv_clock, inv_mem, inv_wait, inv_queue, inv_shape, shape_ports, shape_wch, shape_lcs, shape_dgp, and_self, h0]

theorem modStream_inv (s : State) (sid : Nat) (f : Stream → Stream) (h0 : Kept Q s) : Kept Q (modStream s sid f) := by
  unfold modStream
  simp only [modBore_inv, h0]

theorem modJournal_inv (s : State) (f : Journal → Journal) (h0 : Kept Q s) : Kept Q (modJournal s f) := by
  unfold modJournal
  simp only [modBore_inv, h0]

theorem journalStart_inv (s : State) (h0 : Kept Q s) : Kept Q (journalStart s) := by
  unfold journalStart
  (repeat' (first | (simp (maxDischargeDepth := 40) +contextual only [modJournal_inv, h0]; done) | split | (simp only []; split)))

theorem journalAsk_inv (s : State) (f : JournalFor) (n : Nat) (h0 : Kept Q s) : Kept Q (journalAsk s f n) := by
  unfold journalAsk
  simp only [journalStart_inv, modJournal_inv, h0]

theorem counterReserve_inv (s : State) (sid : Nat) (h0 : Kept Q s) : Kept Q (counterReserve s sid) := by
  unfold counterReserve
  (repeat' (first | (simp (maxDischargeDepth := 40) only [modStream_inv, mirror_inv, journalAsk_inv, h0]; done) | split))

theorem execCounterReserve_inv (sid : Nat) (s : State) (h1 : Kept Q s) : OutInv Q (execCounterReserve sid s) := by
  unfold execCounterReserve
  simp only [whenRunning_inv, counterReserve_inv, h1]

theorem askLeaf_inv (s : State) (pub : Bytes) (n : Nat) (h0 : Kept Q s) : Kept Q (askLeaf s pub n) := by
  unfold askLeaf
  simp (maxDischargeDepth := 40) only [inv_ite, mirror_inv, journalAsk_inv, h0]

theorem leafReserve_inv (s : State) (k : Nat) (h0 : Kept Q s) : Kept Q (leafReserve s k) := by
  unfold leafReserve
  (repeat' (first | (simp (maxDischargeDepth := 40) only [askLeaf_inv, modStateful_inv, h0]; done) | split))

theorem dropReserving_inv (s : State) (f : JournalFor) (h0 : Kept Q s) : Kept Q (dropReserving s f) := by
  unfold dropReserving
  split <;> simp (maxDischargeDepth := 40) only [modBore_inv, modStream_inv, modStateful_inv, h0]

theorem confirmCeiling_inv (s : State) (f : JournalFor) (n : Nat) (h0 : Kept Q s) : Kept Q (confirmCeiling s f n) := by
  unfold confirmCeiling
  (repeat' (first | (simp (maxDischargeDepth := 40) only [modBore_inv, logEvent_inv, modStream_inv, modStateful_inv, putCeiling_inv, h0]; done) | split))

theorem recopy_inv (s : State) (r : Bytes) (h0 : Kept Q s) : Kept Q (recopy s r) := by
  unfold recopy
  simp only [modJournal_inv, h0]

theorem journalCompact_inv (s : State) (h0 : Kept Q s) : Kept Q (journalCompact s) := by
  unfold journalCompact
  (repeat' (first | (simp (maxDischargeDepth := 40) +contextual only [inv_ite, inv_foldl, implies_true, recopy_inv, modJournal_inv, h0]; done) | split | (simp only []; split)))

theorem execJournalCompact_inv (s : State) (h0 : Kept Q s) : OutInv Q (execJournalCompact s) := by
  unfold execJournalCompact
  simp only [whenRunning_inv, journalCompact_inv, h0]

theorem serialReserve_inv (s : State) (h0 : Kept Q s) : Kept Q (serialReserve s) := by
  unfold serialReserve
  simp (maxDischargeDepth := 40) only [inv_ite, modBore_inv, journalAsk_inv, h0]

theorem execSerialReserve_inv (s : State) (h0 : Kept Q s) : OutInv Q (execSerialReserve s) := by
  unfold execSerialReserve
  simp only [whenRunning_inv, serialReserve_inv, h0]

theorem serialsAtBoot_inv (s : State) (h0 : Kept Q s) : Kept Q (serialsAtBoot s) := by
  unfold serialsAtBoot
  simp only [modBore_inv, h0]

theorem journalDone_inv (s : State) (ok : Bool) (h0 : Kept Q s) : Kept Q (journalDone s ok) := by
  unfold journalDone
  (repeat' (first | (simp (maxDischargeDepth := 40) only [modJournal_inv, journalStart_inv, confirmCeiling_inv, dropReserving_inv, h0]; done) | split))

theorem execJournalWriteDone_inv (ok : Bool) (s : State) (h1 : Kept Q s) : OutInv Q (execJournalWriteDone ok s) := by
  unfold execJournalWriteDone
  simp only [whenRunning_inv, journalDone_inv, h1]

theorem execLeafReserve_inv (k : Nat) (s : State) (h1 : Kept Q s) : OutInv Q (execLeafReserve k s) := by
  unfold execLeafReserve
  simp only [whenRunning_inv, leafReserve_inv, h1]

theorem cqHead_inv (s : State) (p : Fin 8) (vf : Nat) (q : Nat) (v : Nat) (h0 : Kept Q s) : Kept Q (cqHead s p vf q v) := by
  unfold cqHead
  (repeat' (first | (simp (maxDischargeDepth := 40) only [inv_ite, instError_inv, modRing_inv, h0]; done) | split))

theorem execCqHeadDoorbell_inv (p : Fin 8) (vf : Nat) (q : Nat) (v : BitVec 16) (s : State) (h4 : Kept Q s) : OutInv Q (execCqHeadDoorbell p vf q v s) := by
  unfold execCqHeadDoorbell
  simp only [whenRunning_inv, cqHead_inv, h4]

theorem pfWhenRunning_inv (s : State) (p : Fin 8) (t : State) (h0 : Kept Q s) (h2 : Kept Q t) : OutInv Q (pfWhenRunning s p t) := by
  unfold pfWhenRunning
  simp (maxDischargeDepth := 40) only [inv_ite, whenRunning_inv, h0, h2]

theorem modAdm_inv (s : State) (p : Nat) (f : Adm → Adm) (h0 : Kept Q s) : Kept Q (modAdm s p f) := by
  unfold modAdm
  simp only [modPort_inv, h0]

theorem execAdminEnable_inv (p : Fin 8) (s : State) (h1 : Kept Q s) : OutInv Q (execAdminEnable p s) := by
  unfold execAdminEnable
  simp only [pfWhenRunning_inv, modAdm_inv, h1]

theorem execHaltVecDisarm_inv (p : Fin 8) (s : State) (h1 : Kept Q s) : OutInv Q (execHaltVecDisarm p s) := by
  unfold execHaltVecDisarm
  simp only [pfWhenRunning_inv, modPort_inv, h1]

theorem queueEnableOp_inv (s : State) (p : Fin 8) (vf : Nat) (q : Nat) (h0 : Kept Q s) : Kept Q (queueEnableOp s p vf q) := by
  unfold queueEnableOp
  (repeat' (first | (simp (maxDischargeDepth := 40) only [modRing_inv, h0]; done) | split))

theorem execQueueEnable_inv (p : Fin 8) (vf : Nat) (q : Nat) (s : State) (h3 : Kept Q s) : OutInv Q (execQueueEnable p vf q s) := by
  unfold execQueueEnable
  simp only [whenRunning_inv, queueEnableOp_inv, h3]

theorem execAdminErrorClear_inv (p : Fin 8) (s : State) (h1 : Kept Q s) : OutInv Q (execAdminErrorClear p s) := by
  unfold execAdminErrorClear
  simp only [pfWhenRunning_inv, modAdm_inv, h1]

theorem msixUnmask_inv (s : State) (p : Nat) (vf : Nat) (v : Nat) (h0 : Kept Q s) : Kept Q (msixUnmask s p vf v) := by
  unfold msixUnmask
  simp (maxDischargeDepth := 40) only [inv_ite, modMsix_inv, msixSend_inv, h0]

theorem nonLadderComplete_inv (s : State) (h0 : Kept Q s) : Kept Q (nonLadderComplete s) := by
  unfold nonLadderComplete
  (repeat' (first | (simp (maxDischargeDepth := 40) only [inv_mk, inv_clock, inv_mem, inv_wait, inv_queue, inv_shape, shape_ports, shape_wch, shape_lcs, shape_dgp, and_self, messageIfLast_inv, latencySample_inv, issueCompl_inv, h0]; done) | split))

theorem admHead_inv (s : State) (p : Nat) (v : Nat) (h0 : Kept Q s) : Kept Q (admHead s p v) := by
  unfold admHead
  simp (maxDischargeDepth := 40) only [inv_ite, admError_inv, modAdm_inv, h0]

theorem execMsixVectorUnmask_inv (p : Fin 8) (vf : Nat) (v : Nat) (s : State) (h3 : Kept Q s) : OutInv Q (execMsixVectorUnmask p vf v s) := by
  unfold execMsixVectorUnmask
  simp (maxDischargeDepth := 40) only [inv_ite, pfWhenRunning_inv, msixUnmask_inv, h3]

theorem atsFlush_inv (s : State) (p : Nat) (h0 : Kept Q s) : Kept Q (atsFlush s p) := by
  unfold atsFlush
  (repeat' (first | (simp (maxDischargeDepth := 40) +contextual only [inv_foldl, implies_true, emit_inv, modPort_inv, h0]; done) | split | (simp only []; split)))

theorem wakeVectors_inv (s : State) (p : Nat) (vf : Nat) (h0 : Kept Q s) : Kept Q (wakeVectors s p vf) := by
  unfold wakeVectors
  (repeat' (first | (simp (maxDischargeDepth := 40) +contextual only [outInv_next, outInv_fault, outInv_ite, inv_ite, inv_foldl, inv_mk, inv_clock, inv_mem, inv_wait, inv_queue, inv_shape, shape_ports, shape_portsMap, shape_wch, shape_lcs, shape_dgp, and_self, implies_true, msixSend_inv, modMsix_inv, h0]; done) | split | (simp only []; split)))

theorem d3Move_inv (s : State) (p : Fin 8) (vf : Nat) (d3 : Bool) (h0 : Kept Q s) : Kept Q (d3Move s p vf d3) := by
  unfold d3Move
  (repeat' (first | (simp (maxDischargeDepth := 40) +contextual only [outInv_next, outInv_fault, outInv_ite, inv_ite, inv_foldl, inv_mk, inv_clock, inv_mem, inv_wait, inv_queue, inv_shape, shape_ports, shape_portsMap, shape_wch, shape_lcs, shape_dgp, and_self, implies_true, modPort_inv, wakeVectors_inv, messageIfLast_inv, issueHeld_inv, h0]; done) | split | (simp only []; split)))

theorem cfgWhenLive_inv (s : State) (p : Fin 8) (t : State) (h0 : Kept Q s) (h2 : Kept Q t) : OutInv Q (cfgWhenLive s p t) := by
  unfold cfgWhenLive
  simp (maxDischargeDepth := 40) only [inv_ite, whenLive_inv, h0, h2]

theorem execD3hotTransition_inv (p : Fin 8) (vf : Nat) (d3 : Bool) (s : State) (h3 : Kept Q s) : OutInv Q (execD3hotTransition p vf d3 s) := by
  unfold execD3hotTransition
  simp only [cfgWhenLive_inv, d3Move_inv, h3]

theorem vfEnable_inv (s : State) (p : Nat) (mps : Nat) (mrrs : Nat) (h0 : Kept Q s) : Kept Q (vfEnable s p mps mrrs) := by
  unfold vfEnable
  simp only [modPort_inv, h0]

theorem execVfEnableSet_inv (x : CfgWrite) (s : State) (h1 : Kept Q s) : OutInv Q (execVfEnableSet x s) := by
  unfold execVfEnableSet
  simp only [cfgWhenLive_inv, vfEnable_inv, h1]

theorem admTail_inv (s : State) (p : Nat) (v : Nat) (h0 : Kept Q s) : Kept Q (admTail s p v) := by
  unfold admTail
  simp (maxDischargeDepth := 40) only [inv_ite, admError_inv, modAdm_inv, h0]

theorem execAdmSqTailWrite_inv (p : Fin 8) (v : BitVec 32) (s : State) (h2 : Kept Q s) : OutInv Q (execAdmSqTailWrite p v s) := by
  unfold execAdmSqTailWrite
  simp only [pfWhenRunning_inv, admTail_inv, h2]

theorem sqTail_inv (s : State) (p : Fin 8) (vf : Nat) (q : Nat) (v : Nat) (h0 : Kept Q s) : Kept Q (sqTail s p vf q v) := by
  unfold sqTail
  (repeat' (first | (simp (maxDischargeDepth := 40) only [instError_inv, modRing_inv, h0]; done) | split))

theorem haltArm_inv (s : State) (p : Nat) (v : Nat) (h0 : Kept Q s) : Kept Q (haltArm s p v) := by
  unfold haltArm
  simp only [modPort_inv, h0]

theorem execSqTailDoorbell_inv (p : Fin 8) (vf : Nat) (q : Nat) (v : BitVec 16) (s : State) (h4 : Kept Q s) : OutInv Q (execSqTailDoorbell p vf q v s) := by
  unfold execSqTailDoorbell
  simp only [whenRunning_inv, sqTail_inv, h4]

theorem fenceDone_inv (s : State) (g : Ring) (ok : Bool) (h0 : Kept Q s) : Kept Q (fenceDone s g ok) := by
  unfold fenceDone
  (repeat' (first | (simp (maxDischargeDepth := 40) only [modRing_inv, ringError_inv, messageIfLast_inv, writeHeld_inv, h0]; done) | split))

theorem execHaltVecArm_inv (p : Fin 8) (vector : BitVec 11) (s : State) (h2 : Kept Q s) : OutInv Q (execHaltVecArm p vector s) := by
  unfold execHaltVecArm
  simp only [pfWhenRunning_inv, haltArm_inv, h2]

theorem atsInvalidate_inv (s : State) (p : Nat) (vf : Nat) (h0 : Kept Q s) : Kept Q (atsInvalidate s p vf) := by
  unfold atsInvalidate
  simp only [modPort_inv, h0]

theorem execAtsInvalidate_inv (p : Fin 8) (vf : Nat) (s : State) (h2 : Kept Q s) : OutInv Q (execAtsInvalidate p vf s) := by
  unfold execAtsInvalidate
  simp only [pfWhenRunning_inv, atsInvalidate_inv, h2]

theorem execAdminDisable_inv (p : Fin 8) (s : State) (h1 : Kept Q s) : OutInv Q (execAdminDisable p s) := by
  unfold execAdminDisable
  simp only [pfWhenRunning_inv, modAdm_inv, h1]

theorem execNonLadderComplete_inv (s : State) (h0 : Kept Q s) : OutInv Q (execNonLadderComplete s) := by
  unfold execNonLadderComplete
  simp only [whenRunning_inv, nonLadderComplete_inv, h0]

theorem queueDisableOp_inv (s : State) (p : Fin 8) (vf : Nat) (q : Nat) (h0 : Kept Q s) : Kept Q (queueDisableOp s p vf q) := by
  unfold queueDisableOp
  split <;> simp (maxDischargeDepth := 40) only [modRing_inv, h0]

theorem execQueueDisable_inv (p : Fin 8) (vf : Nat) (q : Nat) (s : State) (h3 : Kept Q s) : OutInv Q (execQueueDisable p vf q s) := by
  unfold execQueueDisable
  simp only [whenRunning_inv, queueDisableOp_inv, h3]

theorem execAdmCqHeadWrite_inv (p : Fin 8) (v : BitVec 32) (s : State) (h2 : Kept Q s) : OutInv Q (execAdmCqHeadWrite p v s) := by
  unfold execAdmCqHeadWrite
  simp only [pfWhenRunning_inv, admHead_inv, h2]

theorem execFenceReadComplete_inv (g : Ring) (ok : Bool) (s : State) (h2 : Kept Q s) : OutInv Q (execFenceReadComplete g ok s) := by
  unfold execFenceReadComplete
  simp only [whenRunning_inv, fenceDone_inv, h2]

theorem addMirrorWait_inv (s : State) (c : Compl) (cls : Nat) (key : Nat) (h0 : Kept Q s) : Kept Q (addMirrorWait s c cls key) := by
  unfold addMirrorWait
  simp only [inv_mk, inv_clock, inv_mem, inv_wait, inv_queue, inv_shape, shape_ports, shape_portsMap, shape_wch, shape_lcs, shape_dgp, and_self, h0]

theorem lastMessages_inv (s : State) (h0 : Kept Q s) : Kept Q (lastMessages s) := by
  unfold lastMessages
  (repeat' (first | (simp (maxDischargeDepth := 40) +contextual only [outInv_next, outInv_fault, outInv_ite, inv_ite, inv_foldl, inv_mk, inv_clock, inv_mem, inv_wait, inv_queue, inv_shape, shape_ports, shape_portsMap, shape_wch, shape_lcs, shape_dgp, and_self, implies_true, ringMessage_inv, h0]; done) | split | (simp only []; split)))

end Sys2Proof.Laws
end

