-- ==== Sys2Proof/Laws/KeepBore.lean ====
section
/-! SUPPORT. That each function over the state keeps what every state of a run holds (`BlockInv` of Safety.lean): the bore: hops, PUTs, GETs, sealed links and streams. -/

set_option linter.unusedSimpArgs false
set_option linter.unusedTactic false
set_option linter.unreachableTactic false
set_option linter.unusedVariables false

namespace Sys2Proof.Laws

open Sys2Proof Sys2Proof.Machine Sys2Proof.Safety

variable {Q : Keep}

theorem muteUnit_inv (s : State) (u : UnitName) (cls : Nat) (cluster : Nat) (index : Nat) (cause : Nat) (h0 : Kept Q s) : Kept Q (muteUnit s u cls cluster index cause) := by
  unfold muteUnit
  simp (maxDischargeDepth := 40) only [inv_ite, inv_mk, inv_clock, inv_mem, inv_wait, inv_queue, inv_shape, shape_ports, shape_wch, shape_lcs, shape_dgp, and_self, logEvent_inv, h0]

theorem modCtlQ_inv (s : State) (i : Nat) (f : CmdQ → CmdQ) (h0 : Kept Q s) : Kept Q (modCtlQ s i f) := by
  unfold modCtlQ
  simp only [modInst_inv, h0]

theorem settleCtl_inv (x0 : Nat) (x1 : Nat) (x2 : State) (h2 : Kept Q x2) : Kept Q (settleCtl x0 x1 x2) := by
  induction x0 generalizing x2 with
  | zero => exact h2
  | succ k ih =>
    unfold settleCtl
    split
    · exact h2
    · split
      · exact h2
      · exact ih _ (addWaiting_inv _ _ _ _ _ (modCtlQ_inv _ _ _ h2))

theorem settleCtlAll_inv (s : State) (i : Nat) (h0 : Kept Q s) : Kept Q (settleCtlAll s i) := by
  unfold settleCtlAll
  split <;> simp (maxDischargeDepth := 40) only [settleCtl_inv, h0]

theorem modAdmQ_inv (s : State) (p : Nat) (f : CmdQ → CmdQ) (h0 : Kept Q s) : Kept Q (modAdmQ s p f) := by
  unfold modAdmQ
  simp only [modPort_inv, h0]

theorem settleAdm_inv (x0 : Nat) (x1 : Fin 8) (x2 : State) (h2 : Kept Q x2) : Kept Q (settleAdm x0 x1 x2) := by
  induction x0 generalizing x2 with
  | zero => exact h2
  | succ k ih =>
    unfold settleAdm
    split
    · exact h2
    · split
      · exact h2
      · exact ih _ (addWaiting_inv _ _ _ _ _ (modAdmQ_inv _ _ _ h2))

theorem settleAdmAll_inv (s : State) (p : Fin 8) (h0 : Kept Q s) : Kept Q (settleAdmAll s p) := by
  unfold settleAdmAll
  simp only [settleAdm_inv, h0]

theorem admDoneBy_inv (s : State) (p : Fin 8) (st : Status) (out : Bytes) (info : Nat) (due : Nat) (h0 : Kept Q s) : Kept Q (admDoneBy s p st out info due) := by
  unfold admDoneBy
  split <;> simp (maxDischargeDepth := 40) only [settleAdmAll_inv, addWaiting_inv, modAdmQ_inv, h0]

theorem admDone_inv (s : State) (p : Fin 8) (st : Status) (out : Bytes) (info : Nat) (h0 : Kept Q s) : Kept Q (admDone s p st out info) := by
  unfold admDone
  simp only [admDoneBy_inv, h0]

theorem admRun_inv (s : State) (p : Fin 8) (op : Nat) (f : Cmd → Bytes → State) (h0 : Kept Q s) (h3 : ∀ y0 : Cmd, ∀ y1 : Bytes, Kept Q (f y0 y1)) : Kept Q (admRun s p op f) := by
  unfold admRun
  (repeat' (first | (simp (maxDischargeDepth := 40) only [admDone_inv, h0, h3]; done) | split))

theorem admDoneMirrored_inv (s : State) (p : Fin 8) (info : Nat) (h0 : Kept Q s) : Kept Q (admDoneMirrored s p info) := by
  unfold admDoneMirrored
  (repeat' (first | (simp (maxDischargeDepth := 40) only [addMirrorWait_inv, modAdmQ_inv, admDone_inv, h0]; done) | split))

theorem createInstance_inv (p : Fin 8) (s : State) (c : Cmd) (d : Bytes) (h1 : Kept Q s) : Kept Q (createInstance p s c d) := by
  unfold createInstance
  simp (maxDischargeDepth := 40) only [inv_ite, inv_mk, inv_clock, inv_mem, inv_wait, inv_queue, inv_shape, shape_ports, shape_wch, shape_lcs, shape_dgp, and_self, admDone_inv, mirror_inv, admDoneMirrored_inv, h1]

theorem execCreateInstance_inv (p : Fin 8) (s : State) (h1 : Kept Q s) : OutInv Q (execCreateInstance p s) := by
  unfold execCreateInstance
  (repeat' (first | (simp (maxDischargeDepth := 40) +contextual only [implies_true, whenRunning_inv, admRun_inv, createInstance_inv, h1]; done) | split | (simp only []; split)))

theorem ctlDone_inv (s : State) (i : Nat) (st : Status) (out : Bytes) (info : Nat) (h0 : Kept Q s) : Kept Q (ctlDone s i st out info) := by
  unfold ctlDone
  split <;> simp (maxDischargeDepth := 40) only [settleCtlAll_inv, addWaiting_inv, modCtlQ_inv, h0]

theorem ctlRun_inv (s : State) (i : Nat) (op : Nat) (f : Cmd → Bytes → State) (h0 : Kept Q s) (h3 : ∀ y0 : Cmd, ∀ y1 : Bytes, Kept Q (f y0 y1)) : Kept Q (ctlRun s i op f) := by
  unfold ctlRun
  (repeat' (first | (simp (maxDischargeDepth := 40) only [ctlDone_inv, h0, h3]; done) | split))

theorem destroyQueue_inv (i : Nat) (s : State) (c : Cmd) (x3 : Bytes) (h1 : Kept Q s) : Kept Q (destroyQueue i s c x3) := by
  unfold destroyQueue
  (repeat' (first | (simp (maxDischargeDepth := 40) +contextual only [ctlDone_inv, modInst_inv, h1]; done) | split | (simp only []; split)))

theorem execDestroyQueue_inv (i : Nat) (s : State) (h1 : Kept Q s) : OutInv Q (execDestroyQueue i s) := by
  unfold execDestroyQueue
  (repeat' (first | (simp (maxDischargeDepth := 40) +contextual only [implies_true, whenRunning_inv, ctlRun_inv, destroyQueue_inv, h1]; done) | split | (simp only []; split)))

theorem createQueue_inv (i : Nat) (s : State) (c : Cmd) (x3 : Bytes) (h1 : Kept Q s) : Kept Q (createQueue i s c x3) := by
  unfold createQueue
  (repeat' (first | (simp (maxDischargeDepth := 40) only [inv_ite, ctlDone_inv, modInst_inv, h1]; done) | split))

theorem execCreateQueue_inv (i : Nat) (s : State) (h1 : Kept Q s) : OutInv Q (execCreateQueue i s) := by
  unfold execCreateQueue
  (repeat' (first | (simp (maxDischargeDepth := 40) +contextual only [implies_true, whenRunning_inv, ctlRun_inv, createQueue_inv, h1]; done) | split | (simp only []; split)))

theorem setRate_inv (p : Fin 8) (s : State) (c : Cmd) (x3 : Bytes) (h1 : Kept Q s) : Kept Q (setRate p s c x3) := by
  unfold setRate
  (repeat' (first | (simp (maxDischargeDepth := 40) +contextual only [inv_mk, inv_clock, inv_mem, inv_wait, inv_queue, inv_shape, shape_ports, shape_wch, shape_lcs, shape_dgp, and_self, admDone_inv, admDoneMirrored_inv, mirror_inv, h1]; done) | split | (simp only []; split)))

theorem execSetRate_inv (p : Fin 8) (s : State) (h1 : Kept Q s) : OutInv Q (execSetRate p s) := by
  unfold execSetRate
  (repeat' (first | (simp (maxDischargeDepth := 40) +contextual only [implies_true, whenRunning_inv, admRun_inv, setRate_inv, h1]; done) | split | (simp only []; split)))

theorem ctlDoneMirrored_inv (s : State) (i : Nat) (info : Nat) (h0 : Kept Q s) : Kept Q (ctlDoneMirrored s i info) := by
  unfold ctlDoneMirrored
  (repeat' (first | (simp (maxDischargeDepth := 40) only [addMirrorWait_inv, modCtlQ_inv, ctlDone_inv, h0]; done) | split))

theorem modBox_inv (s : State) (c : Carrier) (f : Mailbox → Mailbox) (h0 : Kept Q s) : Kept Q (modBox s c f) := by
  unfold modBox
  split <;> simp (maxDischargeDepth := 40) only [inv_mk, inv_clock, inv_mem, inv_wait, inv_queue, inv_shape, shape_ports, shape_wch, shape_lcs, shape_dgp, and_self, h0]

theorem boxShow_inv (s : State) (c : Carrier) (st : Status) (h0 : Kept Q s) : Kept Q (boxShow s c st) := by
  unfold boxShow
  simp only [modBox_inv, h0]

theorem approveDone_inv (s : State) (a : Carrier × Nat) (st : Status) (held : Nat) (h0 : Kept Q s) : Kept Q (approveDone s a st held) := by
  unfold approveDone
  (repeat' (first | (simp (maxDischargeDepth := 40) only [admDone_inv, emit_inv, h0]; done) | split))

theorem boxFinish_inv (s : State) (c : Carrier) (e : BoxEnd) (h0 : Kept Q s) : Kept Q (boxFinish s c e) := by
  unfold boxFinish
  split <;> simp (maxDischargeDepth := 40) only [boxShow_inv, modBox_inv, approveDone_inv, h0]

theorem mctpDraw_inv (s : State) (c : Src) (t : State) (h0 : Kept Q s) (h2 : Kept Q t) : Kept Q (mctpDraw s c t) := by
  unfold mctpDraw
  simp (maxDischargeDepth := 40) only [inv_ite, inv_mk, inv_clock, inv_mem, inv_wait, inv_queue, inv_shape, shape_ports, shape_wch, shape_lcs, shape_dgp, and_self, h0, h2]

theorem requestEnd_inv (s : State) (c : Carrier) (addr : Nat) (st : Status) (out : Bytes) (h0 : Kept Q s) : Kept Q (requestEnd s c addr st out) := by
  unfold requestEnd
  split <;> simp (maxDischargeDepth := 40) only [emit_inv, admDone_inv, modBox_inv, h0]

theorem boxEnd_inv (s : State) (c : Carrier) (st : Status) (out : Bytes) (h0 : Kept Q s) : Kept Q (boxEnd s c st out) := by
  unfold boxEnd
  simp only [requestEnd_inv, h0]

theorem boxGo_inv (s : State) (c : Carrier) (lo : Nat) (h0 : Kept Q s) : Kept Q (boxGo s c lo) := by
  unfold boxGo
  simp (maxDischargeDepth := 40) only [inv_ite, modBox_inv, boxEnd_inv, h0]

theorem dropChange_inv (s : State) (id : Nat) (h0 : Kept Q s) : Kept Q (dropChange s id) := by
  unfold dropChange
  simp only [inv_mk, inv_clock, inv_mem, inv_wait, inv_queue, inv_shape, shape_ports, shape_wch, shape_lcs, shape_dgp, and_self, h0]

theorem boxWithdraw_inv (s : State) (c : Carrier) (h0 : Kept Q s) : Kept Q (boxWithdraw s c) := by
  unfold boxWithdraw
  simp (maxDischargeDepth := 40) only [inv_ite, boxShow_inv, dropChange_inv, h0]

theorem execLcsWithdraw_inv (p : Fin 8) (s : State) (h1 : Kept Q s) : OutInv Q (execLcsWithdraw p s) := by
  unfold execLcsWithdraw
  simp (maxDischargeDepth := 40) only [inv_ite, whenRunning_inv, boxWithdraw_inv, h1]

theorem approveMirrored_inv (s : State) (a : Carrier × Nat) (held : Nat) (h0 : Kept Q s) : Kept Q (approveMirrored s a held) := by
  unfold approveMirrored
  (repeat' (first | (simp (maxDischargeDepth := 40) only [admDoneMirrored_inv, emit_inv, h0]; done) | split))

theorem stageChange_inv (s : State) (kind : ChangeKind) (c : Carrier) (data : Bytes) (params : Bytes) (h0 : Kept Q s) : ∀ r, stageChange s kind c data params = .ok r → Kept Q r.2 := by
  intro r h
  unfold stageChange at h
  (repeat' (first | (cases h; done) | (cases h; simp (maxDischargeDepth := 40) +contextual only [inv_mk, inv_clock, inv_mem, inv_wait, inv_queue, inv_shape, shape_ports, shape_wch, shape_lcs, shape_dgp, and_self, h0]; done) | (split at h)))

theorem stageRequest_inv (s : State) (c : Carrier) (kind : ChangeKind) (req : Bytes) (h0 : Kept Q s) : Kept Q (stageRequest s c kind req) := by
  unfold stageRequest
  split
  · exact boxEnd_inv _ _ _ _ h0
  · rename_i e
    have h1 := stageChange_inv _ _ _ _ _ h0 _ e
    split
    · exact emit_inv _ _ h1
    · exact modBox_inv _ _ _ h1

theorem boxInhale_inv (p : Fin 8) (s : State) (c : Carrier) (h1 : Kept Q s) : Kept Q (boxInhale p s c) := by
  unfold boxInhale
  (repeat' (first | (simp (maxDischargeDepth := 40) +contextual only [boxFinish_inv, dropDenied_inv, modBox_inv, emitAll_inv, h1]; done) | split | (simp only []; split)))

theorem boxesInhale_inv (s : State) (h0 : Kept Q s) : Kept Q (boxesInhale s) := by
  unfold boxesInhale
  (repeat' (first | (simp (maxDischargeDepth := 40) +contextual only [inv_foldl, implies_true, boxInhale_inv, h0]; done) | split | (simp only []; split)))

theorem execWchGo.pfWhen_inv (s : State) (p : Fin 8) (t : State) (h0 : Kept Q s) (h2 : Kept Q t) : OutInv Q (execWchGo.pfWhen s p t) := by
  unfold execWchGo.pfWhen
  simp (maxDischargeDepth := 40) only [inv_ite, whenRunning_inv, h0, h2]

theorem changeExpire_inv (s : State) (id : Nat) (h0 : Kept Q s) : Kept Q (changeExpire s id) := by
  unfold changeExpire
  (repeat' (first | (simp (maxDischargeDepth := 40) only [dropChange_inv, boxShow_inv, h0]; done) | split))

theorem execLcsGo_inv (p : Fin 8) (s : State) (h1 : Kept Q s) : OutInv Q (execLcsGo p s) := by
  unfold execLcsGo
  simp (maxDischargeDepth := 40) only [inv_ite, whenRunning_inv, boxGo_inv, h1]

theorem mctpRun_inv (s : State) (t : State) (h0 : Kept Q s) (h1 : Kept Q t) : OutInv Q (mctpRun s t) := by
  unfold mctpRun
  simp (maxDischargeDepth := 40) only [inv_ite, whenLive_inv, emit_inv, h0, h1]

theorem srcRun_inv (s : State) (c : Src) (box : Fin 8 → Carrier) (kind : Nat) (f : Carrier → Bytes → State) (h0 : Kept Q s) (h4 : ∀ y0 : Carrier, ∀ y1 : Bytes, Kept Q (f y0 y1)) : OutInv Q (srcRun s c box kind f) := by
  unfold srcRun
  (repeat' (first | (simp (maxDischargeDepth := 40) only [whenRunning_inv, mctpRun_inv, mctpDraw_inv, h0, h4]; done) | split))

theorem execWchWithdraw_inv (p : Fin 8) (s : State) (h1 : Kept Q s) : OutInv Q (execWchWithdraw p s) := by
  unfold execWchWithdraw
  simp (maxDischargeDepth := 40) only [inv_ite, whenRunning_inv, boxWithdraw_inv, h1]

theorem boxRead_inv (s : State) (c : Carrier) (r : DmaResult) (h0 : Kept Q s) : Kept Q (boxRead s c r) := by
  unfold boxRead
  (repeat' (first | (simp (maxDischargeDepth := 40) only [inv_ite, inv_mk, inv_clock, inv_mem, inv_wait, inv_queue, inv_shape, shape_ports, shape_portsMap, shape_wch, shape_lcs, shape_dgp, and_self, modBox_inv, emitAll_inv, boxEnd_inv, h0]; done) | split))

theorem execChangeExpire_inv (id : Nat) (s : State) (h1 : Kept Q s) : OutInv Q (execChangeExpire id s) := by
  unfold execChangeExpire
  simp only [whenRunning_inv, changeExpire_inv, h1]

theorem changeEnd_inv (s : State) (c : Carrier) (addr : Nat) (a : Carrier × Nat) (held : Nat) (st : Status) (out : Bytes) (h0 : Kept Q s) : Kept Q (changeEnd s c addr a held st out) := by
  unfold changeEnd
  (repeat' (first | (simp (maxDischargeDepth := 40) only [approveDone_inv, boxShow_inv, modBox_inv, emit_inv, h0]; done) | split))

theorem execWchGo_inv (p : Fin 8) (s : State) (h1 : Kept Q s) : OutInv Q (execWchGo p s) := by
  unfold execWchGo
  simp only [execWchGo.pfWhen_inv, boxGo_inv, h1]

theorem modPxt_inv (s : State) (f : Pxt → Pxt) (h0 : Kept Q s) : Kept Q (modPxt s f) := by
  unfold modPxt
  simp only [inv_mk, inv_clock, inv_mem, inv_wait, inv_queue, inv_shape, shape_ports, shape_wch, shape_lcs, shape_dgp, and_self, h0]

theorem modOp_inv (s : State) (o : Nat) (f : HopOp → HopOp) (h0 : Kept Q s) : Kept Q (modOp s o f) := by
  unfold modOp
  simp only [modPxt_inv, h0]

theorem dropCredit_inv (s : State) (h0 : Kept Q s) : Kept Q (dropCredit s) := by
  unfold dropCredit
  simp only [modPxt_inv, h0]

theorem dropTag_inv (s : State) (h0 : Kept Q s) : Kept Q (dropTag s) := by
  unfold dropTag
  simp only [modPxt_inv, h0]

theorem noteLimit_inv (s : State) (i : Nat) (h0 : Kept Q s) : Kept Q (noteLimit s i) := by
  unfold noteLimit
  simp (maxDischargeDepth := 40) only [inv_ite, modBore_inv, h0]

theorem noteSent_inv (s : State) (k : Nat) (h0 : Kept Q s) : Kept Q (noteSent s k) := by
  unfold noteSent
  simp only [modPxt_inv, h0]

theorem modFab_inv (s : State) (p : Nat) (f : FabPort → FabPort) (h0 : Kept Q s) : Kept Q (modFab s p f) := by
  unfold modFab
  simp only [modPxt_inv, h0]

theorem macsecCharge_inv (s : State) (n : Nat) (h0 : Kept Q s) : Kept Q (macsecCharge s n) := by
  unfold macsecCharge
  simp only [modPxt_inv, h0]

theorem txProtected_inv (s : State) (p : Nat) (f : FabCfg) (b : Bytes) (h0 : Kept Q s) : Kept Q (txProtected s p f b) := by
  unfold txProtected
  (repeat' (first | (simp (maxDischargeDepth := 40) +contextual only [emit_inv, macsecCharge_inv, modFab_inv, h0]; done) | split | (simp only []; split)))

theorem txFrame_inv (s : State) (p : Nat) (dst : Peer) (carriage : Nat) (b : Bytes) (h0 : Kept Q s) : Kept Q (txFrame s p dst carriage b) := by
  unfold txFrame
  (repeat' (first | (simp (maxDischargeDepth := 40) only [inv_ite, inv_mk, inv_clock, inv_mem, inv_wait, inv_queue, inv_shape, shape_ports, shape_portsMap, shape_wch, shape_lcs, shape_dgp, and_self, modFab_inv, txProtected_inv, emit_inv, h0]; done) | split))

theorem opTx_inv (s : State) (o : Nat) (b : Bytes) (h0 : Kept Q s) : Kept Q (opTx s o b) := by
  unfold opTx
  split <;> simp (maxDischargeDepth := 40) only [noteSent_inv, txFrame_inv, h0]

theorem opAbort_inv (s : State) (o : Nat) (st : Status) (serial : Nat) (h0 : Kept Q s) : Kept Q (opAbort s o st serial) := by
  unfold opAbort
  split <;> simp (maxDischargeDepth := 40) only [opTx_inv, modOp_inv, h0]

theorem dropNoMatch_inv (s : State) (h0 : Kept Q s) : Kept Q (dropNoMatch s) := by
  unfold dropNoMatch
  simp only [modPxt_inv, h0]

theorem addOp_inv (s : State) (x : HopOp) (h0 : Kept Q s) : Kept Q (addOp s x).2 := by
  unfold addOp
  simp only [modPxt_inv, h0]

theorem nodeOp_inv (s : State) (kind : HopKind) (sid : Nat) (e : Nat) (obj : Bytes) (ext : Nat) (n : NodeCfg) (h0 : Kept Q s) : Kept Q (nodeOp s kind sid e obj ext n).2 := by
  unfold nodeOp
  simp (maxDischargeDepth := 40) only [inv_ite, addOp_inv, modPxt_inv, h0]

theorem opAck_inv (s : State) (o : Nat) (h0 : Kept Q s) : Kept Q (opAck s o) := by
  unfold opAck
  split <;> simp (maxDischargeDepth := 40) only [opTx_inv, h0]

theorem opResendFrom_inv (s : State) (o : Nat) (n : Nat) (h0 : Kept Q s) : Kept Q (opResendFrom s o n) := by
  unfold opResendFrom
  split <;> simp (maxDischargeDepth := 40) only [opTx_inv, modOp_inv, h0]

theorem opCredit_inv (s : State) (o : Nat) (h0 : Kept Q s) : Kept Q (opCredit s o) := by
  unfold opCredit
  split <;> simp (maxDischargeDepth := 40) only [opTx_inv, h0]

theorem seqReject_inv (s : State) (o : Nat) (x : HopOp) (x3 : SeqOutcome) (h0 : Kept Q s) : Kept Q (seqReject s o x x3) := by
  unfold seqReject
  (repeat' (first | (simp (maxDischargeDepth := 40) only [opAck_inv, opResendFrom_inv, opCredit_inv, dropCredit_inv, h0]; done) | split))

theorem noteHeard_inv (s : State) (k : Nat) (h0 : Kept Q s) : Kept Q (noteHeard s k) := by
  unfold noteHeard
  simp only [modPxt_inv, h0]

theorem pumpList_inv (o : Nat) (x1 : List Bytes) (x2 : State) (h2 : Kept Q x2) : Kept Q (pumpList o x1 x2) := by
  induction x1 generalizing x2 with
  | nil => exact h2
  | cons b rest ih =>
    unfold pumpList
    split
    · exact h2
    · split
      · exact ih _ (opTx_inv _ _ _ (modOp_inv _ _ _ h2))
      · exact h2

theorem opPump_inv (s : State) (o : Nat) (h0 : Kept Q s) : Kept Q (opPump s o) := by
  unfold opPump
  split <;> simp (maxDischargeDepth := 40) only [pumpList_inv, h0]

theorem renewOpening_inv (s : State) (sid : Nat) (h0 : Kept Q s) : Kept Q (renewOpening s sid) := by
  unfold renewOpening
  (repeat' (first | (simp (maxDischargeDepth := 40) only [modStream_inv, noteSent_inv, txFrame_inv, h0]; done) | split))

theorem opLimit_inv (s : State) (o : Nat) (w : Nat) (h0 : Kept Q s) : Kept Q (opLimit s o w) := by
  unfold opLimit
  (repeat' (first | (simp (maxDischargeDepth := 40) only [opPump_inv, modOp_inv, h0]; done) | split))

theorem opAcked_inv (s : State) (o : Nat) (w : Nat) (h0 : Kept Q s) : Kept Q (opAcked s o w) := by
  unfold opAcked
  (repeat' (first | (simp (maxDischargeDepth := 40) only [inv_ite, modOp_inv, h0]; done) | split))

theorem peerOp_inv (s : State) (kind : HopKind) (sid : Nat) (e : Nat) (obj : Bytes) (ext : Nat) (p : Nat) (carriage : Nat) (src : Peer) (h0 : Kept Q s) : Kept Q (peerOp s kind sid e obj ext p carriage src).2 := by
  unfold peerOp
  simp only [addOp_inv, h0]

theorem opNak_inv (s : State) (o : Nat) (st : Status) (serial : Nat) (h0 : Kept Q s) : Kept Q (opNak s o st serial) := by
  unfold opNak
  split <;> simp (maxDischargeDepth := 40) only [opTx_inv, modPxt_inv, h0]

theorem seqTake_inv (s : State) (o : Nat) (h0 : Kept Q s) : Kept Q (seqTake s o) := by
  unfold seqTake
  simp only [modOp_inv, h0]

theorem opSend_inv (s : State) (o : Nat) (ms : List PxtMsg) (h0 : Kept Q s) : Kept Q (opSend s o ms) := by
  unfold opSend
  simp only [opPump_inv, modOp_inv, h0]

theorem opResend_inv (s : State) (o : Nat) (w : Nat) (h0 : Kept Q s) : Kept Q (opResend s o w) := by
  unfold opResend
  (repeat' (first | (simp (maxDischargeDepth := 40) +contextual only [inv_foldl, implies_true, opAcked_inv, opTx_inv, modOp_inv, h0]; done) | split | (simp only []; split)))

theorem modFlow_inv (s : State) (e : Nat) (f : Flow → Flow) (h0 : Kept Q s) : Kept Q (modFlow s e f) := by
  unfold modFlow
  simp only [modBore_inv, h0]

theorem opGrant_inv (s : State) (o : Nat) (h0 : Kept Q s) : Kept Q (opGrant s o) := by
  unfold opGrant
  simp (maxDischargeDepth := 40) only [inv_ite, freshChoice_inv, opCredit_inv, modOp_inv, h0]

theorem renewOpenings_inv (s : State) (i : Option Nat) (h0 : Kept Q s) : Kept Q (renewOpenings s i) := by
  unfold renewOpenings
  (repeat' (first | (simp (maxDischargeDepth := 40) +contextual only [inv_foldl, implies_true, renewOpening_inv, h0]; done) | split | (simp only []; split)))

theorem dropBad_inv (s : State) (h0 : Kept Q s) : Kept Q (dropBad s) := by
  unfold dropBad
  simp only [modPxt_inv, h0]

theorem opDone_inv (s : State) (o : Nat) (serial : Nat) (h0 : Kept Q s) : Kept Q (opDone s o serial) := by
  unfold opDone
  split <;> simp (maxDischargeDepth := 40) only [opTx_inv, modPxt_inv, h0]

theorem txFlush_inv (s : State) (p : Nat) (h0 : Kept Q s) : Kept Q (txFlush s p) := by
  unfold txFlush
  (repeat' (first | (simp (maxDischargeDepth := 40) +contextual only [inv_foldl, implies_true, txFrame_inv, modFab_inv, h0]; done) | split | (simp only []; split)))

theorem opFlush_inv (s : State) (o : Nat) (h0 : Kept Q s) : Kept Q (opFlush s o) := by
  unfold opFlush
  split <;> simp (maxDischargeDepth := 40) only [opTx_inv, modPxt_inv, h0]

theorem query_inv (p : Fin 8) (s : State) (c : Cmd) (x3 : Bytes) (h1 : Kept Q s) : Kept Q (query p s c x3) := by
  unfold query
  (repeat' (first | (simp (maxDischargeDepth := 40) only [admDone_inv, h1]; done) | split))

theorem queryInstance_inv (i : Nat) (s : State) (c : Cmd) (x3 : Bytes) (h1 : Kept Q s) : Kept Q (queryInstance i s c x3) := by
  unfold queryInstance
  (repeat' (first | (simp (maxDischargeDepth := 40) only [inv_ite, ctlDone_inv, h1]; done) | split))

theorem execQueryInstance_inv (i : Nat) (s : State) (h1 : Kept Q s) : OutInv Q (execQueryInstance i s) := by
  unfold execQueryInstance
  (repeat' (first | (simp (maxDischargeDepth := 40) +contextual only [implies_true, whenRunning_inv, ctlRun_inv, queryInstance_inv, h1]; done) | split | (simp only []; split)))

theorem execQuery_inv (p : Fin 8) (s : State) (h1 : Kept Q s) : OutInv Q (execQuery p s) := by
  unfold execQuery
  (repeat' (first | (simp (maxDischargeDepth := 40) +contextual only [implies_true, whenRunning_inv, admRun_inv, query_inv, h1]; done) | split | (simp only []; split)))

theorem modPipe_inv (s : State) (p : Nat) (f : Pipe → Pipe) (h0 : Kept Q s) : Kept Q (modPipe s p f) := by
  unfold modPipe
  simp only [inv_mk, inv_clock, inv_mem, inv_wait, inv_queue, inv_shape, shape_ports, shape_wch, shape_lcs, shape_dgp, and_self, h0]

theorem pipeJoin_inv (s : State) (p : Nat) (h0 : Kept Q s) : Kept Q (pipeJoin s p) := by
  unfold pipeJoin
  simp only [modPipe_inv, h0]

theorem sendPipe_inv (s : State) (p : Nat) (g : PipeGroup) (h0 : Kept Q s) : Kept Q (sendPipe s p g) := by
  unfold sendPipe
  simp only [modPipe_inv, h0]

theorem fillGroup_inv (s : State) (g : PipeGroup) (h0 : Kept Q s) : Kept Q (fillGroup s g) := by
  unfold fillGroup
  (repeat' (first | (simp (maxDischargeDepth := 40) +contextual only [inv_foldl, implies_true, sendPipe_inv, h0]; done) | split | (simp only []; split)))

theorem shedGroup_inv (s : State) (g : PipeGroup) (h0 : Kept Q s) : Kept Q (shedGroup s g) := by
  unfold shedGroup
  (repeat' (first | (simp (maxDischargeDepth := 40) +contextual only [inv_foldl, implies_true, sendPipe_inv, h0]; done) | split | (simp only []; split)))

theorem regroup_inv (s : State) (h0 : Kept Q s) : Kept Q (regroup s) := by
  unfold regroup
  (repeat' (first | (simp (maxDischargeDepth := 40) +contextual only [inv_foldl, implies_true, fillGroup_inv, shedGroup_inv, h0]; done) | split | (simp only []; split)))

theorem chargePipe_inv (s : State) (p : Nat) (h0 : Kept Q s) : Kept Q (chargePipe s p) := by
  unfold chargePipe
  simp only [modPipe_inv, h0]

theorem refill_inv (s : State) (g : PipeGroup) (h0 : Kept Q s) : Kept Q (refill s g) := by
  unfold refill
  (repeat' (first | (simp (maxDischargeDepth := 40) only [sendPipe_inv, logEvent_inv, h0]; done) | split))

theorem pickPipe_inv (ps : List Nat) (s : State) (h1 : Kept Q s) : Kept Q (pickPipe ps s).2 := by
  unfold pickPipe
  split <;> simp (maxDischargeDepth := 40) only [freshChoice_inv, h1]

theorem pipesJoin_inv (s : State) (h0 : Kept Q s) : Kept Q (pipesJoin s) := by
  unfold pipesJoin
  (repeat' (first | (simp (maxDischargeDepth := 40) +contextual only [inv_foldl, implies_true, pipeJoin_inv, h0]; done) | split | (simp only []; split)))

theorem pipeMute_inv (s : State) (p : Fin 96) (h0 : Kept Q s) : Kept Q (pipeMute s p) := by
  unfold pipeMute
  simp (maxDischargeDepth := 40) only [inv_ite, refill_inv, muteUnit_inv, h0]

theorem execPipeMute_inv (p : Fin 96) (s : State) (h1 : Kept Q s) : OutInv Q (execPipeMute p s) := by
  unfold execPipeMute
  simp only [whenRunning_inv, pipeMute_inv, h1]

theorem execPipeRegroup_inv (p : Fin 96) (s : State) (h1 : Kept Q s) : OutInv Q (execPipeRegroup p s) := by
  unfold execPipeRegroup
  simp only [whenRunning_inv, pipeJoin_inv, h1]

theorem startPut_inv (s : State) (e : Nat) (f : Flow) (n : NodeCfg) (h0 : Kept Q s) : Kept Q (startPut s e f n) := by
  unfold startPut
  have h1 := nodeOp_inv s .putOut f.sid e f.obj f.ext n h0
  split
  rename_i e1
  rw [e1] at h1
  dsimp only at h1 ⊢
  (repeat' (first | split | (simp (maxDischargeDepth := 40) only [opGrant_inv, opSend_inv, modFlow_inv, h1]; done)))

theorem dropContexts_inv (s : State) (f : Nat → CipherCtx → Bool) (h0 : Kept Q s) : Kept Q (dropContexts s f) := by
  unfold dropContexts
  simp only [modBore_inv, h0]

theorem endEpoch_inv (s : State) (sid : Nat) (h0 : Kept Q s) : Kept Q (endEpoch s sid) := by
  unfold endEpoch
  (repeat' (first | (simp (maxDischargeDepth := 40) only [dropContexts_inv, h0]; done) | split))

theorem startGet_inv (s : State) (e : Nat) (f : Flow) (n : NodeCfg) (h0 : Kept Q s) : Kept Q (startGet s e f n) := by
  unfold startGet
  simp (maxDischargeDepth := 40) only [nodeOp_inv, modFlow_inv, opSend_inv, opCredit_inv, modOp_inv, h0]

theorem startFlow_inv (s : State) (e : Nat) (h0 : Kept Q s) : Kept Q (startFlow s e) := by
  unfold startFlow
  (repeat' (first | (simp (maxDischargeDepth := 40) only [startPut_inv, startGet_inv, h0]; done) | split))

theorem startWaiting_inv (s : State) (h0 : Kept Q s) : Kept Q (startWaiting s) := by
  unfold startWaiting
  (repeat' (first | (simp (maxDischargeDepth := 40) +contextual only [inv_foldl, implies_true, startFlow_inv, h0]; done) | split | (simp only []; split)))

theorem takeEpoch_inv (s : State) (sid : Nat) (h0 : Kept Q s) : Kept Q (takeEpoch s sid) := by
  unfold takeEpoch
  (repeat' (first | (simp (maxDischargeDepth := 40) only [inv_ite, mirror_inv, modStream_inv, endEpoch_inv, ctlDoneMirrored_inv, h0]; done) | split))

theorem wipeContexts_inv (s : State) (i : Nat) (h0 : Kept Q s) : Kept Q (wipeContexts s i) := by
  unfold wipeContexts
  simp only [modBore_inv, h0]

theorem epochBoundary_inv (s : State) (sid : Nat) (h0 : Kept Q s) : Kept Q (epochBoundary s sid) := by
  unfold epochBoundary
  (repeat' (first | (simp (maxDischargeDepth := 40) only [takeEpoch_inv, h0]; done) | split))

theorem finishDestroy_inv (s : State) (i : Nat) (h0 : Kept Q s) : Kept Q (finishDestroy s i) := by
  unfold finishDestroy
  (repeat' (first | (simp (maxDischargeDepth := 40) +contextual only [inv_ite, inv_foldl, inv_mk, inv_clock, inv_mem, inv_wait, inv_queue, inv_shape, shape_ports, shape_wch, shape_lcs, shape_dgp, and_self, implies_true, freeSlot_inv, wipeContexts_inv, mirror_inv, admDoneMirrored_inv, h0]; done) | split | (simp only []; split)))

theorem newFlow_inv (s : State) (f : Flow) (h0 : Kept Q s) : Kept Q (newFlow s f).2 := by
  unfold newFlow
  simp only [modBore_inv, h0]

theorem settleStream_inv (s : State) (sid : Nat) (h0 : Kept Q s) : Kept Q (settleStream s sid) := by
  unfold settleStream
  (repeat' (first | (simp (maxDischargeDepth := 40) only [inv_ite, modBore_inv, modPxt_inv, mirror_inv, ctlDoneMirrored_inv, finishDestroy_inv, h0]; done) | split))

theorem migResult_inv (s : State) (k : Nat) (st : Status) (serial : Nat) (h0 : Kept Q s) : Kept Q (migResult s k st serial) := by
  unfold migResult
  simp (maxDischargeDepth := 40) only [inv_mk, inv_clock, inv_mem, inv_wait, inv_queue, inv_shape, shape_ports, shape_portsMap, shape_wch, shape_lcs, shape_dgp, and_self, bucketCharge_inv, emitAll_inv, h0]

theorem endFlow_inv (s : State) (e : Nat) (h0 : Kept Q s) : Kept Q (endFlow s e) := by
  unfold endFlow
  split <;> simp (maxDischargeDepth := 40) only [noteLimit_inv, modBore_inv, settleStream_inv, startWaiting_inv, renewOpenings_inv, h0]

theorem orphanOp_inv (s : State) (o : Nat) (h0 : Kept Q s) : Kept Q (orphanOp s o) := by
  unfold orphanOp
  simp only [modOp_inv, h0]

theorem cancelBatch_inv (s : State) (e : Nat) (h0 : Kept Q s) : Kept Q (cancelBatch s e) := by
  unfold cancelBatch
  (repeat' (first | (simp (maxDischargeDepth := 40) only [modBore_inv, cancelInternal_inv, h0]; done) | split))

theorem abortPut_inv (s : State) (e : Nat) (st : Status) (h0 : Kept Q s) : Kept Q (abortPut s e st) := by
  unfold abortPut
  (repeat' (first | (simp (maxDischargeDepth := 40) +contextual only [outInv_next, outInv_fault, outInv_ite, inv_ite, inv_foldl, inv_mk, inv_clock, inv_mem, inv_wait, inv_queue, inv_shape, shape_ports, shape_portsMap, shape_wch, shape_lcs, shape_dgp, and_self, implies_true, orphanOp_inv, opAbort_inv, opNak_inv, cancelBatch_inv, cancelInternal_inv, migResult_inv, endFlow_inv, h0]; done) | split | (simp only []; split)))

theorem quiesceTimeout_inv (s : State) (e : Nat) (h0 : Kept Q s) : Kept Q (quiesceTimeout s e) := by
  unfold quiesceTimeout
  (repeat' (first | (simp (maxDischargeDepth := 40) only [abortPut_inv, h0]; done) | split))

theorem newStrips_inv (seals : List Nat) (echoes : List Nat) (x2 : Nat) (x3 : State) (h3 : Kept Q x3) : Kept Q (newStrips seals echoes x2 x3).2 := by
  induction x2 generalizing x3 with
  | zero => exact h3
  | succ n ih => exact ih _ (pickPipe_inv _ _ (pickPipe_inv _ _ h3))

theorem modRec_inv (s : State) (e : Nat) (i : Nat) (g : Rec → Rec) (h0 : Kept Q s) : Kept Q (modRec s e i g) := by
  unfold modRec
  simp only [modFlow_inv, h0]

theorem modStrip_inv (s : State) (e : Nat) (i : Nat) (n : Nat) (g : Strip → Strip) (h0 : Kept Q s) : Kept Q (modStrip s e i n g) := by
  unfold modStrip
  simp only [modRec_inv, h0]

theorem countMismatch_inv (s : State) (h0 : Kept Q s) : Kept Q (countMismatch s) := by
  unfold countMismatch
  simp only [modBore_inv, h0]

theorem echoResult_inv (s : State) (e : Nat) (i : Nat) (strip : Nat) (good : Bool) (h0 : Kept Q s) : Kept Q (echoResult s e i strip good) := by
  unfold echoResult
  (repeat' (first | (simp (maxDischargeDepth := 40) +contextual only [outInv_next, outInv_fault, outInv_ite, inv_ite, inv_foldl, inv_mk, inv_clock, inv_mem, inv_wait, inv_queue, inv_shape, shape_ports, shape_portsMap, shape_wch, shape_lcs, shape_dgp, and_self, implies_true, chargePipe_inv, modRec_inv, modStrip_inv, countMismatch_inv, abortPut_inv, logEvent_inv, modBore_inv, h0]; done) | split | (simp only []; split)))

theorem replyNak_inv (s : State) (x : PxtIn) (m : PxtMsg) (st : Status) (serial : Nat) (h0 : Kept Q s) : Kept Q (replyNak s x m st serial) := by
  unfold replyNak
  simp only [txFrame_inv, h0]

theorem extentClose_inv (s : State) (e : Nat) (h0 : Kept Q s) : Kept Q (extentClose s e) := by
  unfold extentClose
  (repeat' (first | (simp (maxDischargeDepth := 40) only [modFlow_inv, noteLimit_inv, submitInternal_inv, h0]; done) | split))

theorem execQuiesceExtentTimeout_inv (e : Nat) (s : State) (h1 : Kept Q s) : OutInv Q (execQuiesceExtentTimeout e s) := by
  unfold execQuiesceExtentTimeout
  simp (maxDischargeDepth := 40) only [inv_ite, whenRunning_inv, quiesceTimeout_inv, h1]

theorem formBatch_inv (s : State) (k : Nat × Bytes) (h0 : Kept Q s) : Kept Q (formBatch s k) := by
  unfold formBatch
  (repeat' (first | (simp (maxDischargeDepth := 40) +contextual only [outInv_next, outInv_fault, outInv_ite, inv_ite, inv_foldl, inv_mk, inv_clock, inv_mem, inv_wait, inv_queue, inv_shape, shape_ports, shape_portsMap, shape_wch, shape_lcs, shape_dgp, and_self, implies_true, modBore_inv, modFlow_inv, submitInternal_inv, h0]; done) | split | (simp only []; split)))

theorem formBatches_inv (s : State) (h0 : Kept Q s) : Kept Q (formBatches s) := by
  unfold formBatches
  (repeat' (first | (simp (maxDischargeDepth := 40) +contextual only [inv_foldl, implies_true, formBatch_inv, h0]; done) | split | (simp only []; split)))

theorem takeSerial_inv (s : State) (h0 : Kept Q s) : Kept Q (takeSerial s) := by
  unfold takeSerial
  simp only [modBore_inv, h0]

theorem beginPut_inv (s : State) (sid : Nat) (obj : Bytes) (ext : Nat) (len : Nat) (mig : Option Nat) (h0 : Kept Q s) : ∀ r, beginPut s sid obj ext len mig = .ok r → Kept Q r.2 := by
  intro r h
  unfold beginPut at h
  have h1 := epochBoundary_inv s sid h0
  generalize epochBoundary s sid = s0 at h h1
  dsimp only at h
  split at h
  · cases h
  · split at h
    · cases h
    · split at h
      · cases h
      · split at h
        · cases h
        · cases h
        · cases h
          exact newFlow_inv _ _ (takeSerial_inv _ h1)

theorem sig2Done_inv (s : State) (b : Nat) (st : Status) (sig : Bytes) (h0 : Kept Q s) : Kept Q (sig2Done s b st sig) := by
  unfold sig2Done
  (repeat' (first | (simp (maxDischargeDepth := 40) +contextual only [inv_ite, inv_foldl, implies_true, modBore_inv, modFlow_inv, abortPut_inv, h0]; done) | split | (simp only []; split)))

theorem putIdle_inv (s : State) (e : Nat) (h0 : Kept Q s) : Kept Q (putIdle s e) := by
  unfold putIdle
  (repeat' (first | (simp (maxDischargeDepth := 40) only [abortPut_inv, h0]; done) | split))

theorem refuseOpening_inv (s : State) (x : PxtIn) (m : PxtMsg) (st : Status) (h0 : Kept Q s) : Kept Q (refuseOpening s x m st) := by
  unfold refuseOpening
  simp (maxDischargeDepth := 40) only [renewOpening_inv, modStream_inv, replyNak_inv, h0]

theorem manifestSend_inv (s : State) (e : Nat) (h0 : Kept Q s) : Kept Q (manifestSend s e) := by
  unfold manifestSend
  (repeat' (first | (simp (maxDischargeDepth := 40) only [opSend_inv, modFlow_inv, h0]; done) | split))

theorem execManifestSend_inv (e : Nat) (s : State) (h1 : Kept Q s) : OutInv Q (execManifestSend e s) := by
  unfold execManifestSend
  simp (maxDischargeDepth := 40) only [inv_ite, whenRunning_inv, manifestSend_inv, h1]

theorem resealOn_inv (s : State) (seals : List Nat) (echoes : List Nat) (t : Strip) (h0 : Kept Q s) : ∀ r, resealOn s seals echoes t = some r → Kept Q r.2 := by
  intro r h
  unfold resealOn at h
  (repeat' (first | (cases h; done) | (cases h; simp (maxDischargeDepth := 40) +contextual only [outInv_next, outInv_fault, outInv_ite, inv_ite, inv_foldl, inv_mk, inv_clock, inv_mem, inv_wait, inv_queue, inv_shape, shape_ports, shape_portsMap, shape_wch, shape_lcs, shape_dgp, and_self, implies_true, pickPipe_inv, h0]; done) | (split at h) | (simp only [] at h; split at h)))

theorem reseal_inv (s : State) (e : Nat) (i : Nat) (strip : Nat) (h0 : Kept Q s) : Kept Q (reseal s e i strip) := by
  unfold reseal
  split
  · exact h0
  · split
    · exact h0
    · split
      · exact h0
      · refine inv_ite h0 ?_
        split
        · exact h0
        · rename_i r
          exact modStrip_inv _ _ _ _ _ (resealOn_inv _ _ _ _ h0 _ r)

theorem askAgain_inv (s : State) (e : Nat) (i : Nat) (f : Machine.Flow) (r : Rec) (h0 : Kept Q s) : Kept Q (askAgain s e i f r) := by
  unfold askAgain
  split <;> simp (maxDischargeDepth := 40) only [modRec_inv, opResendFrom_inv, modOp_inv, h0]

theorem admitPut_inv (s : State) (e : Nat) (i : Nat) (f : Flow) (r : Rec) (parity : Bool) (h0 : Kept Q s) : Kept Q (admitPut s e i f r parity) := by
  unfold admitPut
  simp (maxDischargeDepth := 40) only [inv_ite, askAgain_inv, newStrips_inv, modRec_inv, h0]

theorem sendSealed_inv (s : State) (e : Nat) (i : Nat) (o : Nat) (f : Flow) (r : Rec) (h0 : Kept Q s) : Kept Q (sendSealed s e i o f r) := by
  unfold sendSealed
  simp only [opSend_inv, modFlow_inv, h0]

theorem execPutIdleTimeout_inv (e : Nat) (s : State) (h1 : Kept Q s) : OutInv Q (execPutIdleTimeout e s) := by
  unfold execPutIdleTimeout
  simp (maxDischargeDepth := 40) only [inv_ite, whenRunning_inv, putIdle_inv, h1]

theorem execExtentClose_inv (e : Nat) (s : State) (h1 : Kept Q s) : OutInv Q (execExtentClose e s) := by
  unfold execExtentClose
  simp (maxDischargeDepth := 40) only [inv_ite, whenRunning_inv, extentClose_inv, h1]

theorem putStored_inv (s : State) (e : Nat) (h0 : Kept Q s) : Kept Q (putStored s e) := by
  unfold putStored
  (repeat' (first | (simp (maxDischargeDepth := 40) only [endFlow_inv, migResult_inv, opDone_inv, modFlow_inv, h0]; done) | split))

theorem putFinish_inv (s : State) (o : Nat) (e : Nat) (h0 : Kept Q s) : Kept Q (putFinish s o e) := by
  unfold putFinish
  (repeat' (first | (simp (maxDischargeDepth := 40) only [abortPut_inv, endFlow_inv, opDone_inv, opAck_inv, modFlow_inv, h0]; done) | split))

theorem putTake_inv (s : State) (o : Nat) (seq : Nat) (e : Nat) (m : PxtMsg) (h0 : Kept Q s) : Kept Q (putTake s o seq e m) := by
  unfold putTake
  (repeat' (first | (simp (maxDischargeDepth := 40) only [inv_ite, abortPut_inv, opGrant_inv, opAck_inv, modFlow_inv, h0]; done) | split))

theorem sig1Done_inv (s : State) (e : Nat) (st : Status) (sig : Bytes) (h0 : Kept Q s) : Kept Q (sig1Done s e st sig) := by
  unfold sig1Done
  simp (maxDischargeDepth := 40) only [inv_ite, modFlow_inv, abortPut_inv, h0]

theorem putOpen_inv (s : State) (x : PxtIn) (m : PxtMsg) (h0 : Kept Q s) : Kept Q (putOpen s x m) := by
  unfold putOpen
  split
  · simp (maxDischargeDepth := 40) only [refuseOpening_inv, h0]
  · split
    · apply refuseOpening_inv
      split <;> simp (maxDischargeDepth := 40) only [noteSlot_inv, h0]
    · rename_i e s1 e1
      have h1 := beginPut_inv _ _ _ _ _ _ h0 _ e1
      dsimp only at h1
      split
      rename_i o s2 e2
      have h2 := peerOp_inv s1 .putIn m.sid e m.obj m.ext x.fport.val x.carriage.val x.src h1
      rw [e2] at h2
      dsimp only at h2
      simp (maxDischargeDepth := 40) only [startFlow_inv, opAck_inv, modStream_inv, modFlow_inv, h2]

theorem failGet_inv (s : State) (e : Nat) (st : Status) (nak : Bool) (h0 : Kept Q s) : Kept Q (failGet s e st nak) := by
  unfold failGet
  (repeat' (first | (simp (maxDischargeDepth := 40) +contextual only [inv_foldl, implies_true, opFlush_inv, opNak_inv, modPxt_inv, endFlow_inv, cancelInternal_inv, abortPut_inv, migResult_inv, h0]; done) | split | (simp only []; split)))

theorem getFallback_inv (s : State) (e : Nat) (unreach : Bool) (h0 : Kept Q s) : Kept Q (getFallback s e unreach) := by
  unfold getFallback
  (repeat' (first | (simp (maxDischargeDepth := 40) only [startFlow_inv, modFlow_inv, failGet_inv, h0]; done) | split))

theorem sendPlain_inv (s : State) (e : Nat) (i : Nat) (f : Flow) (r : Rec) (h0 : Kept Q s) : Kept Q (sendPlain s e i f r) := by
  unfold sendPlain
  (repeat' (first | (simp (maxDischargeDepth := 40) +contextual only [modFlow_inv, opSend_inv, endFlow_inv, h0]; done) | split | (simp only []; split)))

theorem beginGet_inv (s : State) (sid : Nat) (x2 : Nat) (obj : Bytes) (ext : Nat) (mig : Option Nat) (h0 : Kept Q s) : ∀ r, beginGet s sid x2 obj ext mig = some r → Kept Q r.2 := by
  intro r h
  unfold beginGet at h
  obtain ⟨n, _, hn⟩ := Option.map_eq_some_iff.mp h
  rw [← hn]
  exact newFlow_inv _ _ h0

theorem admitGet_inv (s : State) (e : Nat) (i : Nat) (f : Flow) (r : Rec) (h0 : Kept Q s) : Kept Q (admitGet s e i f r) := by
  unfold admitGet
  (repeat' (first | (simp (maxDischargeDepth := 40) only [inv_ite, failGet_inv, modRec_inv, h0]; done) | split))

theorem auditCheck_inv (s : State) (h0 : Kept Q s) : Kept Q (auditCheck s) := by
  unfold auditCheck
  split <;> simp (maxDischargeDepth := 40) only [submitInternal_inv, modBore_inv, h0]

theorem execAuditCheck_inv (s : State) (h0 : Kept Q s) : OutInv Q (execAuditCheck s) := by
  unfold execAuditCheck
  simp (maxDischargeDepth := 40) only [inv_ite, whenRunning_inv, auditCheck_inv, h0]

theorem startRecords_inv (s : State) (e : Nat) (h0 : Kept Q s) : Kept Q (startRecords s e) := by
  unfold startRecords
  split
  · exact h0
  · split
    · split <;> simp (maxDischargeDepth := 40) only [opGrant_inv, modFlow_inv, h0]
    · rename_i f _ _ k _
      dsimp only
      have h1 : Kept Q { s with mig := { s.mig with
          entries := s.mig.entries.map (fun m => if m.index = k then { m with oldSerial := f.serial } else m) } } := by
        simp (maxDischargeDepth := 40) only [inv_mk, inv_clock, inv_mem, inv_wait, inv_queue, inv_shape, shape_ports, shape_wch, shape_lcs, shape_dgp, and_self, h0]
      split
      · exact h1
      · split
        · exact failGet_inv _ _ _ _ h1
        · rename_i e1
          have h2 := beginPut_inv _ _ _ _ _ _ h1 _ e1
          dsimp only at h2
          split <;> simp (maxDischargeDepth := 40) only [opGrant_inv, modFlow_inv, startFlow_inv, inv_mk, inv_clock, inv_mem, inv_wait, inv_queue, inv_shape, shape_ports, shape_wch, shape_lcs, shape_dgp, and_self, h2]

theorem verifyDone_inv (s : State) (e : Nat) (k : Nat) (st : Status) (h0 : Kept Q s) : Kept Q (verifyDone s e k st) := by
  unfold verifyDone
  (repeat' (first | (simp (maxDischargeDepth := 40) only [inv_ite, modFlow_inv, startRecords_inv, failGet_inv, h0]; done) | split))

theorem getBad_inv (s : State) (o : Nat) (e : Nat) (h0 : Kept Q s) : Kept Q (getBad s o e) := by
  unfold getBad
  simp (maxDischargeDepth := 40) only [failGet_inv, modFlow_inv, startWaiting_inv, opNak_inv, h0]

theorem recordPiece_inv (s : State) (o : Nat) (e : Nat) (f : Flow) (m : PxtMsg) (h0 : Kept Q s) : Kept Q (recordPiece s o e f m) := by
  unfold recordPiece
  (repeat' (first | (simp (maxDischargeDepth := 40) +contextual only [getBad_inv, modFlow_inv, opGrant_inv, opAck_inv, h0]; done) | split | (simp only []; split)))

theorem auditFail_inv (s : State) (a : Audit) (h0 : Kept Q s) : Kept Q (auditFail s a) := by
  unfold auditFail
  simp (maxDischargeDepth := 40) only [logEvent_inv, modBore_inv, h0]

theorem auditDone_inv (s : State) (k : Nat) (st : Status) (h0 : Kept Q s) : Kept Q (auditDone s k st) := by
  unfold auditDone
  (repeat' (first | (simp (maxDischargeDepth := 40) only [modBore_inv, auditFail_inv, h0]; done) | split))

theorem deferAudit_inv (s : State) (a : Audit) (h0 : Kept Q s) : Kept Q (deferAudit s a) := by
  unfold deferAudit
  simp only [modBore_inv, h0]

theorem checkManifest_inv (s : State) (e : Nat) (f : Flow) (h0 : Kept Q s) : Kept Q (checkManifest s e f) := by
  have fail := fun (t : State) (st : Status) (ht : Kept Q t) => failGet_inv t e st true ht
  have last : ∀ (p q : List Nat) (t : State), Kept Q t → Kept Q (if p ++ q = [] then startRecords (modFlow t e (fun g => { g with checks := p ++ q })) e
      else modFlow t e (fun g => { g with checks := p ++ q })) := fun p q t ht => by
    by_cases k : p ++ q = []
    · rw [if_pos k]; exact startRecords_inv _ _ (modFlow_inv _ _ _ ht)
    · rw [if_neg k]; exact modFlow_inv _ _ _ ht
  unfold checkManifest
  dsimp only
  split
  · exact fail _ _ h0
  · split
    · split
      · exact fail _ _ (noteSlot_inv _ _ _ _ h0)
      · split
        · exact fail _ _ h0
        · split
          · exact fail _ _ h0
          · have h1 : ∀ g, Kept Q (modFlow s e g) := fun g => modFlow_inv _ _ _ h0
            split <;> split <;> dsimp only <;> refine last _ _ _ ?_
            · exact deferAudit_inv _ _ (deferAudit_inv _ _ (h1 _))
            · exact submitInternal_inv _ _ _ _ _ _ _ _ (deferAudit_inv _ _ (h1 _))
            · exact deferAudit_inv _ _ (submitInternal_inv _ _ _ _ _ _ _ _ (h1 _))
            · exact submitInternal_inv _ _ _ _ _ _ _ _ (submitInternal_inv _ _ _ _ _ _ _ _ (h1 _))
    · exact fail _ _ h0

theorem manifestPiece_inv (s : State) (o : Nat) (e : Nat) (f : Flow) (m : PxtMsg) (h0 : Kept Q s) : Kept Q (manifestPiece s o e f m) := by
  unfold manifestPiece
  (repeat' (first | (simp (maxDischargeDepth := 40) +contextual only [getBad_inv, opAck_inv, modFlow_inv, opCredit_inv, modOp_inv, checkManifest_inv, h0]; done) | split | (simp only []; split)))

theorem getCheckDone_inv (s : State) (e : Nat) (h0 : Kept Q s) : Kept Q (getCheckDone s e) := by
  unfold getCheckDone
  (repeat' (first | (simp (maxDischargeDepth := 40) only [orphanOp_inv, endFlow_inv, opDone_inv, h0]; done) | split))

theorem getOpen_inv (s : State) (x : PxtIn) (m : PxtMsg) (st : Machine.Stream) (h0 : Kept Q s) : Kept Q (getOpen s x m st) := by
  unfold getOpen
  (repeat' (first | (simp (maxDischargeDepth := 40) only [refuseOpening_inv, markCorrupt_inv, h0]; done) | split))
  rename_i e s1 e1 _ o s2 e2
  have h1 := beginGet_inv _ _ _ _ _ _ h0 _ e1
  dsimp only at h1
  have h2 := peerOp_inv s1 .getIn m.sid e m.obj m.ext x.fport.val x.carriage.val x.src h1
  rw [e2] at h2
  dsimp only at h2
  simp (maxDischargeDepth := 40) only [startFlow_inv, opAck_inv, modStream_inv, modFlow_inv, h2]

theorem resumeLink_inv (s : State) (sid : Nat) (e : Nat) (o : Nat) (x : Stream) (h0 : Kept Q s) : Kept Q (resumeLink s sid e o x) := by
  unfold resumeLink
  split <;> simp (maxDischargeDepth := 40) only [modStream_inv, modOp_inv, modFlow_inv, opTx_inv, h0]

theorem linkAskAgain_inv (s : State) (e : Nat) (i : Nat) (f : Machine.Flow) (r : Rec) (h0 : Kept Q s) : Kept Q (linkAskAgain s e i f r) := by
  unfold linkAskAgain
  split <;> simp (maxDischargeDepth := 40) only [modFlow_inv, opResendFrom_inv, modOp_inv, h0]

theorem admitLinkOut_inv (s : State) (e : Nat) (i : Nat) (f : Machine.Flow) (r : Rec) (parity : Bool) (h0 : Kept Q s) : Kept Q (admitLinkOut s e i f r parity) := by
  unfold admitLinkOut
  (repeat' (first | (simp (maxDischargeDepth := 40) +contextual only [linkAskAgain_inv, epochBoundary_inv, resumeLink_inv, newStrips_inv, modStream_inv, modRec_inv, h0]; done) | split | (simp only []; split)))

theorem admitLinkIn_inv (s : State) (e : Nat) (i : Nat) (f : Flow) (r : Rec) (h0 : Kept Q s) : Kept Q (admitLinkIn s e i f r) := by
  unfold admitLinkIn
  simp (maxDischargeDepth := 40) only [inv_ite, modRec_inv, h0]

theorem plainLost_inv (s : State) (e : Nat) (i : Nat) (f : Machine.Flow) (r : Rec) (h0 : Kept Q s) : Kept Q (plainLost s e i f r) := by
  unfold plainLost
  simp (maxDischargeDepth := 40) only [inv_ite, askAgain_inv, h0]

theorem recordAdmit_inv (s : State) (e : Nat) (i : Nat) (parity : Bool) (h0 : Kept Q s) : Kept Q (recordAdmit s e i parity) := by
  unfold recordAdmit
  (repeat' (first | (simp (maxDischargeDepth := 40) only [plainLost_inv, admitPut_inv, admitGet_inv, admitLinkOut_inv, admitLinkIn_inv, h0]; done) | split))

theorem execRecordAdmit_inv (e : Nat) (i : Nat) (parity : Bool) (s : State) (h3 : Kept Q s) : OutInv Q (execRecordAdmit e i parity s) := by
  unfold execRecordAdmit
  simp only [whenRunning_inv, recordAdmit_inv, h3]

theorem linkGrant_inv (s : State) (sid : Nat) (o : Nat) (h0 : Kept Q s) : Kept Q (linkGrant s sid o) := by
  unfold linkGrant
  (repeat' (first | (simp (maxDischargeDepth := 40) only [opGrant_inv, h0]; done) | split))

theorem linkAck_inv (s : State) (o : Nat) (got : Nat) (h0 : Kept Q s) : Kept Q (linkAck s o got) := by
  unfold linkAck
  split <;> simp (maxDischargeDepth := 40) only [opTx_inv, h0]

theorem linkData_inv (s : State) (sid : Nat) (o : Nat) (e : Nat) (x : PxtIn) (m : PxtMsg) (h0 : Kept Q s) : Kept Q (linkData s sid o e x m) := by
  unfold linkData
  (repeat' (first | (simp (maxDischargeDepth := 40) only [dropNoMatch_inv, replyNak_inv, markCorrupt_inv, linkGrant_inv, modFlow_inv, seqTake_inv, linkAck_inv, seqReject_inv, h0]; done) | split))

theorem sendLinkOut_inv (s : State) (e : Nat) (i : Nat) (o : Nat) (r : Rec) (h0 : Kept Q s) : Kept Q (sendLinkOut s e i o r) := by
  unfold sendLinkOut
  (repeat' (first | (simp (maxDischargeDepth := 40) only [modOp_inv, opTx_inv, modFlow_inv, h0]; done) | split))

theorem sendLinkIn_inv (s : State) (e : Nat) (i : Nat) (o : Nat) (f : Flow) (r : Rec) (h0 : Kept Q s) : Kept Q (sendLinkIn s e i o f r) := by
  unfold sendLinkIn
  simp only [opSend_inv, modFlow_inv, h0]

theorem recordSend_inv (s : State) (e : Nat) (parity : Bool) (h0 : Kept Q s) : Kept Q (recordSend s e parity) := by
  unfold recordSend
  (repeat' (first | (simp (maxDischargeDepth := 40) only [emit_inv, sendSealed_inv, sendPlain_inv, sendLinkOut_inv, sendLinkIn_inv, h0]; done) | split))

theorem execRecordSend_inv (e : Nat) (parity : Bool) (s : State) (h2 : Kept Q s) : OutInv Q (execRecordSend e parity s) := by
  unfold execRecordSend
  simp only [whenRunning_inv, recordSend_inv, h2]

theorem openLink_inv (s : State) (sid : Nat) (x : Stream) (h0 : Kept Q s) : Kept Q (openLink s sid x) := by
  unfold openLink
  simp (maxDischargeDepth := 40) only [inv_ite, newFlow_inv, addOp_inv, modFlow_inv, h0]

theorem rxAdvance_inv (s : State) (sid : Nat) (o : Nat) (x : PxtIn) (e : Nat) (c : Nat) (used : Nat) (h0 : Kept Q s) : Kept Q (rxAdvance s sid o x e c used) := by
  unfold rxAdvance
  (repeat' (first | (simp (maxDischargeDepth := 40) only [takeEpoch_inv, modStream_inv, modOp_inv, h0]; done) | split))

theorem linkKeepalive_inv (s : State) (sid : Nat) (o : Nat) (x : PxtIn) (m : PxtMsg) (h0 : Kept Q s) : Kept Q (linkKeepalive s sid o x m) := by
  unfold linkKeepalive
  (repeat' (first | (simp (maxDischargeDepth := 40) only [dropTag_inv, rxAdvance_inv, h0]; done) | split))

theorem epochAdvance_inv (s : State) (sid : Nat) (h0 : Kept Q s) : Kept Q (epochAdvance s sid) := by
  unfold epochAdvance
  (repeat' (first | (simp (maxDischargeDepth := 40) only [takeEpoch_inv, h0]; done) | split))

theorem linkResend_inv (s : State) (o : Nat) (w : Nat) (h0 : Kept Q s) : Kept Q (linkResend s o w) := by
  unfold linkResend
  (repeat' (first | (simp (maxDischargeDepth := 40) +contextual only [inv_foldl, implies_true, opTx_inv, modOp_inv, h0]; done) | split | (simp only []; split)))

theorem rxBadTag_inv (s : State) (x : PxtIn) (m : PxtMsg) (expected : Nat) (h0 : Kept Q s) : Kept Q (rxBadTag s x m expected) := by
  unfold rxBadTag
  simp only [txFrame_inv, dropTag_inv, h0]

theorem linkRx_inv (s : State) (sid : Nat) (o : Nat) (e : Nat) (x : PxtIn) (m : PxtMsg) (h0 : Kept Q s) : Kept Q (linkRx s sid o e x m) := by
  unfold linkRx
  (repeat' (first | (simp (maxDischargeDepth := 40) +contextual only [replyNak_inv, markCorrupt_inv, opAck_inv, modOp_inv, opResendFrom_inv, opCredit_inv, dropCredit_inv, rxBadTag_inv, rxAdvance_inv, opGrant_inv, modFlow_inv, h0]; done) | split | (simp only []; split)))

theorem execTransitEpochAdvance_inv (sid : Nat) (s : State) (h1 : Kept Q s) : OutInv Q (execTransitEpochAdvance sid s) := by
  unfold execTransitEpochAdvance
  simp only [whenRunning_inv, epochAdvance_inv, h1]

theorem linkAcked_inv (s : State) (o : Nat) (e : Nat) (w : Nat) (h0 : Kept Q s) : Kept Q (linkAcked s o e w) := by
  unfold linkAcked
  (repeat' (first | (simp (maxDischargeDepth := 40) only [inv_ite, modOp_inv, modFlow_inv, settleStream_inv, linkGrant_inv, linkAck_inv, h0]; done) | split))

theorem rxNode_inv (s : State) (x : PxtIn) (m : PxtMsg) (plain : Bool) (h0 : Kept Q s) : Kept Q (rxNode s x m plain) := by
  unfold rxNode
  (repeat' (first | (simp (maxDischargeDepth := 40) +contextual only [inv_ite, inv_foldl, implies_true, dropNoMatch_inv, noteHeard_inv, startWaiting_inv, modPxt_inv, h0]; done) | split | (simp only []; split)))

theorem haltingAnswer_inv (s : State) (x : PxtIn) (m : PxtMsg) (h0 : Kept Q s) : Kept Q (haltingAnswer s x m) := by
  unfold haltingAnswer
  simp (maxDischargeDepth := 40) only [inv_ite, replyNak_inv, h0]

theorem plainBad_inv (s : State) (x : HopOp) (h0 : Kept Q s) : Kept Q (plainBad s x) := by
  unfold plainBad
  simp (maxDischargeDepth := 40) only [inv_ite, abortPut_inv, failGet_inv, h0]

theorem plainOpening_inv (s : State) (x : PxtIn) (m : PxtMsg) (st : Stream) (h0 : Kept Q s) : Kept Q (plainOpening s x m st) := by
  unfold plainOpening
  (repeat' (first | (simp (maxDischargeDepth := 40) only [opAck_inv, plainBad_inv, replyNak_inv, dropNoMatch_inv, txFrame_inv, dropCredit_inv, putOpen_inv, getOpen_inv, h0]; done) | split))

theorem plainPut_inv (s : State) (m : PxtMsg) (h0 : Kept Q s) : Kept Q (plainPut s m) := by
  unfold plainPut
  (repeat' (first | (simp (maxDischargeDepth := 40) only [dropNoMatch_inv, plainBad_inv, putTake_inv, seqTake_inv, putFinish_inv, seqReject_inv, h0]; done) | split))

theorem plainOther_inv (s : State) (m : PxtMsg) (h0 : Kept Q s) : Kept Q (plainOther s m) := by
  unfold plainOther
  (repeat' (first | (simp (maxDischargeDepth := 40) only [dropNoMatch_inv, abortPut_inv, failGet_inv, getCheckDone_inv, opAcked_inv, opLimit_inv, opResend_inv, h0]; done) | split))

theorem plainPreserve_inv (s : State) (x : PxtIn) (m : PxtMsg) (st : Stream) (h0 : Kept Q s) : Kept Q (plainPreserve s x m st) := by
  unfold plainPreserve
  (repeat' (first | (simp (maxDischargeDepth := 40) only [plainOpening_inv, plainPut_inv, plainOther_inv, dropNoMatch_inv, plainBad_inv, h0]; done) | split))

theorem bindPlain_inv (s : State) (sid : Nat) (o : Nat) (x : PxtIn) (st : Stream) (h0 : Kept Q s) : Kept Q (bindPlain s sid o x st) := by
  unfold bindPlain
  simp (maxDischargeDepth := 40) only [inv_ite, modOp_inv, modStream_inv, h0]

theorem plainTransit_inv (s0 : State) (x : PxtIn) (m : PxtMsg) (st : Stream) (h0 : Kept Q s0) : Kept Q (plainTransit s0 x m st) := by
  unfold plainTransit
  (repeat' (first | (simp (maxDischargeDepth := 40) only [dropNoMatch_inv, bindPlain_inv, linkData_inv, replyNak_inv, settleStream_inv, opAcked_inv, opLimit_inv, opResend_inv, h0]; done) | split))

theorem rxPlain_inv (s : State) (x : PxtIn) (m : PxtMsg) (h0 : Kept Q s) : Kept Q (rxPlain s x m) := by
  unfold rxPlain
  (repeat' (first | (simp (maxDischargeDepth := 40) only [dropNoMatch_inv, haltingAnswer_inv, modStream_inv, noteHeard_inv, plainPreserve_inv, plainTransit_inv, h0]; done) | split))

theorem nodeClosed_inv (s : State) (o : Nat) (h0 : Kept Q s) : Kept Q (nodeClosed s o) := by
  unfold nodeClosed
  simp only [startWaiting_inv, modPxt_inv, h0]

theorem putCut_inv (s : State) (x : HopOp) (st : Status) (h0 : Kept Q s) : Kept Q (putCut s x st) := by
  unfold putCut
  simp (maxDischargeDepth := 40) only [inv_ite, abortPut_inv, h0]

theorem nodeBad_inv (s : State) (o : Nat) (x : HopOp) (h0 : Kept Q s) : Kept Q (nodeBad s o x) := by
  unfold nodeBad
  simp (maxDischargeDepth := 40) only [inv_ite, startWaiting_inv, opNak_inv, putCut_inv, getBad_inv, h0]

theorem nodeDone_inv (s : State) (o : Nat) (x : HopOp) (x3 : PxtMsg) (h0 : Kept Q s) : Kept Q (nodeDone s o x x3) := by
  unfold nodeDone
  (repeat' (first | (simp (maxDischargeDepth := 40) only [nodeClosed_inv, putStored_inv, modFlow_inv, nodeBad_inv, h0]; done) | split))

theorem nodeNak_inv (s : State) (o : Nat) (x : HopOp) (m : PxtMsg) (h0 : Kept Q s) : Kept Q (nodeNak s o x m) := by
  unfold nodeNak
  simp (maxDischargeDepth := 40) only [inv_ite, nodeClosed_inv, putCut_inv, getFallback_inv, modFlow_inv, failGet_inv, h0]

theorem nodeData_inv (s : State) (o : Nat) (x : HopOp) (m : PxtMsg) (h0 : Kept Q s) : Kept Q (nodeData s o x m) := by
  unfold nodeData
  (repeat' (first | (simp (maxDischargeDepth := 40) +contextual only [nodeBad_inv, seqTake_inv, opAck_inv, manifestPiece_inv, recordPiece_inv, seqReject_inv, h0]; done) | split | (simp only []; split)))

theorem freeAcked_inv (s : State) (o : Nat) (h0 : Kept Q s) : Kept Q (freeAcked s o) := by
  unfold freeAcked
  (repeat' (first | (simp (maxDischargeDepth := 40) only [modFlow_inv, h0]; done) | split))

theorem rxNodeOp_inv (s : State) (o : Nat) (x : HopOp) (m : PxtMsg) (h0 : Kept Q s) : Kept Q (rxNodeOp s o x m) := by
  unfold rxNodeOp
  simp (maxDischargeDepth := 40) only [inv_ite, freeAcked_inv, opAcked_inv, nodeDone_inv, opResend_inv, nodeNak_inv, opLimit_inv, nodeData_inv, nodeClosed_inv, putCut_inv, failGet_inv, modFlow_inv, nodeBad_inv, h0]

theorem rxLink_inv (s : State) (x : PxtIn) (m : PxtMsg) (st : Stream) (h0 : Kept Q s) : Kept Q (rxLink s x m st) := by
  unfold rxLink
  (repeat' (first | (simp (maxDischargeDepth := 40) only [dropNoMatch_inv, modStream_inv, linkRx_inv, linkKeepalive_inv, h0]; done) | split))

theorem rxSealed_inv (s : State) (x : PxtIn) (m : PxtMsg) (h0 : Kept Q s) : Kept Q (rxSealed s x m) := by
  unfold rxSealed
  (repeat' (first | (simp (maxDischargeDepth := 40) only [haltingAnswer_inv, rxNodeOp_inv, noteHeard_inv, dropNoMatch_inv, rxLink_inv, linkAcked_inv, opLimit_inv, linkResend_inv, h0]; done) | split))

theorem rxMessage_inv (s : State) (x : PxtIn) (f : FabCfg) (h0 : Kept Q s) : Kept Q (rxMessage s x f) := by
  unfold rxMessage
  simp (maxDischargeDepth := 40) only [inv_ite, dropBad_inv, rxNode_inv, rxPlain_inv, rxSealed_inv, h0]

theorem pfcStop_inv (s : State) (p : Nat) (f : FabCfg) (h0 : Kept Q s) : Kept Q (pfcStop s p f) := by
  unfold pfcStop
  simp (maxDischargeDepth := 40) only [inv_ite, emit_inv, modFab_inv, h0]

theorem rxFill_inv (s : State) (p : Nat) (f : FabCfg) (n : Nat) (h0 : Kept Q s) : Kept Q (rxFill s p f n) := by
  unfold rxFill
  simp (maxDischargeDepth := 40) only [inv_ite, freshChoice_inv, modFab_inv, pfcStop_inv, h0]

theorem rxTyped_inv (s : State) (x : PxtIn) (typ : Nat) (h0 : Kept Q s) : Kept Q (rxTyped s x typ) := by
  unfold rxTyped
  (repeat' (first | (simp (maxDischargeDepth := 40) only [rxMessage_inv, rxFill_inv, h0]; done) | split))

theorem execAck_inv (m : PxtIn) (s : State) (h1 : Kept Q s) : OutInv Q (execAck m s) := by
  unfold execAck
  simp only [whenRunning_inv, rxTyped_inv, h1]

theorem installNodes_inv (s : State) (t : NodeTable) (h0 : Kept Q s) : Kept Q (installNodes s t) := by
  unfold installNodes
  simp only [modPxt_inv, h0]

theorem cacheRoom_inv (s : State) (h0 : Kept Q s) : ∀ r, cacheRoom s = some r → Kept Q r := by
  intro r h
  unfold cacheRoom at h
  dsimp only at h
  split at h
  · cases h; exact h0
  · obtain ⟨e, _, rfl⟩ := Option.map_eq_some_iff.mp h
    exact modStream_inv _ _ _ h0

theorem reloadEntry_inv (s : State) (sid : Nat) (x : Machine.Stream) (h0 : Kept Q s) : Kept Q (reloadEntry s sid x) := by
  unfold reloadEntry
  (repeat' (first | (simp (maxDischargeDepth := 40) +contextual only [modStream_inv, modFlow_inv, h0]; done) | split | (simp only []; split)))

theorem cacheLoaded_inv (s : State) (sid : Nat) (parity : Bool) (h0 : Kept Q s) : Kept Q (cacheLoaded s sid parity) := by
  unfold cacheLoaded
  split
  · exact h0
  · refine inv_ite (reloadEntry_inv _ _ _ h0) (inv_ite h0 ?_)
    split
    · exact h0
    · rename_i t ht
      refine inv_foldl _ _ _ (fun t a h => ?_) (reloadEntry_inv _ _ _ (cacheRoom_inv s h0 _ ht))
      split
      · exact rxMessage_inv _ _ _ h
      · exact h

theorem keepaliveSend_inv (s : State) (n : PeerName) (h0 : Kept Q s) : Kept Q (keepaliveSend s n) := by
  unfold keepaliveSend
  (repeat' (first | (simp (maxDischargeDepth := 40) only [noteSent_inv, txFrame_inv, h0]; done) | split))

theorem execStreamCacheLoadDone_inv (sid : Access Nat) (s : State) (h1 : Kept Q s) : OutInv Q (execStreamCacheLoadDone sid s) := by
  unfold execStreamCacheLoadDone
  simp only [whenRunning_inv, cacheLoaded_inv, h1]

theorem sakInstall_inv (s : State) (p : Nat) (an : Nat) (op : SakOp) (h0 : Kept Q s) : Kept Q (sakInstall s p an op) := by
  unfold sakInstall
  (repeat' (first | (simp (maxDischargeDepth := 40) only [txFlush_inv, emit_inv, modFab_inv, h0]; done) | split))

theorem execSakInstall_inv (p : Fin 64) (an : Fin 4) (op : SakOp) (s : State) (h3 : Kept Q s) : OutInv Q (execSakInstall p an op s) := by
  unfold execSakInstall
  simp only [whenRunning_inv, sakInstall_inv, h3]

theorem eapolReceive_inv (s : State) (p : Nat) (dst : BitVec 48) (bs : Bytes) (h0 : Kept Q s) : Kept Q (eapolReceive s p dst bs) := by
  unfold eapolReceive
  (repeat' (first | (simp (maxDischargeDepth := 40) only [emit_inv, dropBad_inv, h0]; done) | split))

theorem clearFrame_inv (s : State) (p : Fin 64) (f : FabCfg) (n : Nat) (b : Bytes) (h0 : Kept Q s) : Kept Q (clearFrame s p f n b) := by
  unfold clearFrame
  (repeat' (first | (simp (maxDischargeDepth := 40) only [dropBad_inv, rxMessage_inv, rxFill_inv, h0]; done) | split))

theorem macsecReceive_inv (s : State) (p : Nat) (b : Bytes) (h0 : Kept Q s) : ∀ r, macsecReceive s p b = some r → Kept Q r.2 := by
  intro r h
  unfold macsecReceive at h
  obtain ⟨e, _, rfl⟩ := Option.map_eq_some_iff.mp h
  exact macsecCharge_inv _ _ (modFab_inv _ _ _ h0)

theorem frameReceive_inv (s : State) (x : EthFrame) (h0 : Kept Q s) : Kept Q (frameReceive s x) := by
  unfold frameReceive
  split
  · exact h0
  · dsimp only
    refine inv_ite h0 (inv_ite (modFab_inv _ _ _ h0) (inv_ite h0 (inv_ite (clearFrame_inv _ _ _ _ _ h0) (inv_ite (eapolReceive_inv _ _ _ _ h0) ?_))))
    split
    · exact modFab_inv _ _ _ h0
    · rename_i t e
      exact clearFrame_inv _ _ _ _ _ (macsecReceive_inv _ _ _ h0 _ e)

theorem execEthernetFrameReceive_inv (f : EthFrame) (s : State) (h1 : Kept Q s) : OutInv Q (execEthernetFrameReceive f s) := by
  unfold execEthernetFrameReceive
  simp only [whenRunning_inv, frameReceive_inv, h1]

theorem execKeepalive_inv (m : PxtIn) (s : State) (h1 : Kept Q s) : OutInv Q (execKeepalive m s) := by
  unfold execKeepalive
  simp only [whenRunning_inv, rxTyped_inv, h1]

theorem pfcXoff_inv (s : State) (p : Nat) (prio : Nat) (quanta : Nat) (h0 : Kept Q s) : Kept Q (pfcXoff s p prio quanta) := by
  unfold pfcXoff
  (repeat' (first | (simp (maxDischargeDepth := 40) only [txFlush_inv, modFab_inv, h0]; done) | split))

theorem execPfcPauseTimeExpire_inv (p : Fin 64) (prio : Fin 8) (s : State) (h2 : Kept Q s) : OutInv Q (execPfcPauseTimeExpire p prio s) := by
  unfold execPfcPauseTimeExpire
  simp only [whenRunning_inv, pfcXoff_inv, h2]

theorem execGetReq_inv (m : PxtIn) (s : State) (h1 : Kept Q s) : OutInv Q (execGetReq m s) := by
  unfold execGetReq
  simp only [whenRunning_inv, rxTyped_inv, h1]

theorem execKeepaliveSend_inv (n : PeerName) (s : State) (h1 : Kept Q s) : OutInv Q (execKeepaliveSend n s) := by
  unfold execKeepaliveSend
  simp only [whenRunning_inv, keepaliveSend_inv, h1]

theorem execFlush_inv (m : PxtIn) (s : State) (h1 : Kept Q s) : OutInv Q (execFlush m s) := by
  unfold execFlush
  simp only [whenRunning_inv, rxTyped_inv, h1]

theorem opUnreachable_inv (s : State) (o : Nat) (h0 : Kept Q s) : Kept Q (opUnreachable s o) := by
  unfold opUnreachable
  (repeat' (first | (simp (maxDischargeDepth := 40) only [modPxt_inv, startWaiting_inv, abortPut_inv, getFallback_inv, failGet_inv, h0]; done) | split))

theorem peerSilence_inv (s : State) (n : PeerName) (h0 : Kept Q s) : Kept Q (peerSilence s n) := by
  unfold peerSilence
  (repeat' (first | (simp (maxDischargeDepth := 40) +contextual only [inv_ite, inv_foldl, implies_true, opUnreachable_inv, h0]; done) | split | (simp only []; split)))

theorem execPeerSilenceTimeout_inv (n : PeerName) (s : State) (h1 : Kept Q s) : OutInv Q (execPeerSilenceTimeout n s) := by
  unfold execPeerSilenceTimeout
  simp only [whenRunning_inv, peerSilence_inv, h1]

theorem linkUpOp_inv (s : State) (l : LinkName) (width : Nat) (speed : Nat) (h0 : Kept Q s) : Kept Q (linkUpOp s l width speed) := by
  unfold linkUpOp
  (repeat' (first | (simp (maxDischargeDepth := 40) only [inv_ite, modPort_inv, txFlush_inv, modFab_inv, h0]; done) | split))

theorem execLinkUp_inv (l : LinkName) (width : Nat) (speed : Nat) (s : State) (h3 : Kept Q s) : OutInv Q (execLinkUp l width speed s) := by
  unfold execLinkUp
  simp only [whenLive_inv, linkUpOp_inv, h3]

theorem linkDownOp_inv (s : State) (l : LinkName) (h0 : Kept Q s) : Kept Q (linkDownOp s l) := by
  unfold linkDownOp
  (repeat' (first | (simp (maxDischargeDepth := 40) only [modPort_inv, modFab_inv, h0]; done) | split))

theorem execLinkDown_inv (l : LinkName) (s : State) (h1 : Kept Q s) : OutInv Q (execLinkDown l s) := by
  unfold execLinkDown
  simp only [whenLive_inv, linkDownOp_inv, h1]

theorem execEapolReceive_inv (p : Fin 64) (dst : BitVec 48) (bs : Bytes) (s : State) (h3 : Kept Q s) : OutInv Q (execEapolReceive p dst bs s) := by
  unfold execEapolReceive
  simp only [whenRunning_inv, eapolReceive_inv, h3]

theorem pfcXon_inv (s : State) (p : Nat) (h0 : Kept Q s) : Kept Q (pfcXon s p) := by
  unfold pfcXon
  (repeat' (first | (simp (maxDischargeDepth := 40) only [inv_ite, emit_inv, modFab_inv, h0]; done) | split))

theorem execGetData_inv (m : PxtIn) (s : State) (h1 : Kept Q s) : OutInv Q (execGetData m s) := by
  unfold execGetData
  simp only [whenRunning_inv, rxTyped_inv, h1]

theorem execCredit_inv (m : PxtIn) (s : State) (h1 : Kept Q s) : OutInv Q (execCredit m s) := by
  unfold execCredit
  simp only [whenRunning_inv, rxTyped_inv, h1]

theorem execPutData_inv (m : PxtIn) (s : State) (h1 : Kept Q s) : OutInv Q (execPutData m s) := by
  unfold execPutData
  simp only [whenRunning_inv, rxTyped_inv, h1]

theorem retransmit_inv (s : State) (o : Nat) (h0 : Kept Q s) : Kept Q (retransmit s o) := by
  unfold retransmit
  (repeat' (first | (simp (maxDischargeDepth := 40) +contextual only [inv_ite, inv_foldl, implies_true, modOp_inv, opUnreachable_inv, opTx_inv, h0]; done) | split | (simp only []; split)))

theorem execRetransmitTimeout_inv (o : Nat) (s : State) (h1 : Kept Q s) : OutInv Q (execRetransmitTimeout o s) := by
  unfold execRetransmitTimeout
  simp only [whenRunning_inv, retransmit_inv, h1]

theorem execPrevTableDrop_inv (s : State) (h0 : Kept Q s) : OutInv Q (execPrevTableDrop s) := by
  unfold execPrevTableDrop
  simp only [whenRunning_inv, modPxt_inv, h0]

theorem execNak_inv (m : PxtIn) (s : State) (h1 : Kept Q s) : OutInv Q (execNak m s) := by
  unfold execNak
  simp only [whenRunning_inv, rxTyped_inv, h1]

theorem execPutEnd_inv (m : PxtIn) (s : State) (h1 : Kept Q s) : OutInv Q (execPutEnd m s) := by
  unfold execPutEnd
  simp only [whenRunning_inv, rxTyped_inv, h1]

theorem execPfcXoffReceive_inv (p : Fin 64) (prio : Fin 8) (quanta : BitVec 16) (s : State) (h3 : Kept Q s) : OutInv Q (execPfcXoffReceive p prio quanta s) := by
  unfold execPfcXoffReceive
  simp only [whenRunning_inv, pfcXoff_inv, h3]

theorem execPfcXonSend_inv (p : Fin 64) (s : State) (h1 : Kept Q s) : OutInv Q (execPfcXonSend p s) := by
  unfold execPfcXonSend
  simp only [whenRunning_inv, pfcXon_inv, h1]

theorem execPutBegin_inv (m : PxtIn) (s : State) (h1 : Kept Q s) : OutInv Q (execPutBegin m s) := by
  unfold execPutBegin
  simp only [whenRunning_inv, rxTyped_inv, h1]

theorem destroyStreamNow_inv (s : State) (sid : Nat) (h0 : Kept Q s) : Kept Q (destroyStreamNow s sid) := by
  unfold destroyStreamNow
  (repeat' (first | (simp (maxDischargeDepth := 40) +contextual only [inv_foldl, implies_true, modStream_inv, settleStream_inv, abortPut_inv, h0]; done) | split | (simp only []; split)))

theorem destroyStream_inv (i : Nat) (s : State) (c : Cmd) (x3 : Bytes) (h1 : Kept Q s) : Kept Q (destroyStream i s c x3) := by
  unfold destroyStream
  (repeat' (first | (simp (maxDischargeDepth := 40) +contextual only [ctlDone_inv, destroyStreamNow_inv, modCtlQ_inv, h1]; done) | split | (simp only []; split)))

theorem execDestroyStream_inv (i : Nat) (s : State) (h1 : Kept Q s) : OutInv Q (execDestroyStream i s) := by
  unfold execDestroyStream
  (repeat' (first | (simp (maxDischargeDepth := 40) +contextual only [implies_true, whenRunning_inv, ctlRun_inv, destroyStream_inv, h1]; done) | split | (simp only []; split)))

theorem resumeFlow_inv (s : State) (sid : Nat) (x : Stream) (h0 : Kept Q s) : Kept Q (resumeFlow s sid x) := by
  unfold resumeFlow
  (repeat' (first | (simp (maxDischargeDepth := 40) only [modFlow_inv, h0]; done) | split))

theorem addStream_inv (s : State) (sid : Nat) (x : Machine.Stream) (h0 : Kept Q s) : Kept Q (addStream s sid x) := by
  unfold addStream
  split
  rename_i a y e
  have h : Kept Q a := by
    split at e
    · rename_i t ht; cases e; exact cacheRoom_inv s h0 _ ht
    · cases e; exact h0
  exact resumeFlow_inv _ _ _ (openLink_inv _ _ _ (modBore_inv _ _ h))

theorem createStream_inv (i : Nat) (s : State) (c : Cmd) (d : Bytes) (h1 : Kept Q s) : Kept Q (createStream i s c d) := by
  unfold createStream
  (repeat' (first | (simp (maxDischargeDepth := 40) only [inv_ite, ctlDone_inv, noteSlot_inv, ctlDoneMirrored_inv, mirror_inv, addStream_inv, h1]; done) | split))

theorem execCreateStream_inv (i : Nat) (s : State) (h1 : Kept Q s) : OutInv Q (execCreateStream i s) := by
  unfold execCreateStream
  (repeat' (first | (simp (maxDischargeDepth := 40) +contextual only [implies_true, whenRunning_inv, ctlRun_inv, createStream_inv, h1]; done) | split | (simp only []; split)))

theorem streamRekey_inv (i : Nat) (s : State) (c : Cmd) (x3 : Bytes) (h1 : Kept Q s) : Kept Q (streamRekey i s c x3) := by
  unfold streamRekey
  (repeat' (first | (simp (maxDischargeDepth := 40) +contextual only [ctlDone_inv, noteSlot_inv, modStream_inv, modCtlQ_inv, h1]; done) | split | (simp only []; split)))

theorem execStreamRekey_inv (i : Nat) (s : State) (h1 : Kept Q s) : OutInv Q (execStreamRekey i s) := by
  unfold execStreamRekey
  (repeat' (first | (simp (maxDischargeDepth := 40) +contextual only [implies_true, whenRunning_inv, ctlRun_inv, streamRekey_inv, h1]; done) | split | (simp only []; split)))

theorem endWait_inv (s : State) (w : MirrorWait) (h0 : Kept Q s) : Kept Q (endWait s w) := by
  unfold endWait
  split <;> simp (maxDischargeDepth := 40) only [addWaiting_inv, settleAdmAll_inv, modAdmQ_inv, settleCtlAll_inv, modCtlQ_inv, h0]

theorem macsecHold_inv (s : State) (h0 : Kept Q s) : Kept Q (macsecHold s) := by
  unfold macsecHold
  (repeat' (first | (simp (maxDischargeDepth := 40) +contextual only [outInv_next, outInv_fault, outInv_ite, inv_ite, inv_foldl, inv_mk, inv_clock, inv_mem, inv_wait, inv_queue, inv_shape, shape_ports, shape_portsMap, shape_wch, shape_lcs, shape_dgp, and_self, implies_true, pfcStop_inv, h0]; done) | split | (simp only []; split)))

theorem macsecInhale_inv (s : State) (h0 : Kept Q s) : Kept Q (macsecInhale s) := by
  unfold macsecInhale
  simp (maxDischargeDepth := 40) only [inv_ite, modPxt_inv, macsecHold_inv, h0]

end Sys2Proof.Laws
end

