-- ==== Sys2Proof/Laws/KeepWork.lean ====
section
/-! SUPPORT. That each function over the state keeps what every state of a run holds (`BlockInv` of Safety.lean): keys, submissions, the library, attestations, resets and randomness. -/

set_option linter.unusedSimpArgs false
set_option linter.unusedTactic false
set_option linter.unreachableTactic false
set_option linter.unusedVariables false

namespace Sys2Proof.Laws

open Sys2Proof Sys2Proof.Machine Sys2Proof.Safety

variable {Q : Keep}

theorem displaceJobs_inv (s : State) (f : JobUnit → Bool) (h0 : Kept Q s) : Kept Q (displaceJobs s f) := by
  unfold displaceJobs
  simp only [inv_mk, inv_clock, inv_mem, inv_wait, inv_queue, inv_shape, shape_ports, shape_wch, shape_lcs, shape_dgp, and_self, h0]

theorem muteReed_inv (s : State) (r : Nat) (cause : Nat) (h0 : Kept Q s) : Kept Q (muteReed s r cause) := by
  unfold muteReed
  simp only [displaceJobs_inv, muteUnit_inv, h0]

theorem wipeReed_inv (s : State) (r : Nat) (h0 : Kept Q s) : Kept Q (wipeReed s r) := by
  unfold wipeReed
  simp (maxDischargeDepth := 40) only [inv_ite, inv_mk, inv_clock, inv_mem, inv_wait, inv_queue, inv_shape, shape_ports, shape_portsMap, shape_wch, shape_lcs, shape_dgp, and_self, setReed_inv, muteReed_inv, h0]

theorem wipeUnits_inv (s : State) (j : Job) (h0 : Kept Q s) : Kept Q (wipeUnits s j) := by
  unfold wipeUnits
  (repeat' (first | (simp (maxDischargeDepth := 40) +contextual only [inv_foldl, implies_true, wipeReed_inv, wipeMau_inv, h0]; done) | split | (simp only []; split)))

theorem leaveUnits_inv (s : State) (k : Nat) (h0 : Kept Q s) : Kept Q (leaveUnits s k) := by
  unfold leaveUnits
  split <;> simp (maxDischargeDepth := 40) only [modJob_inv, wipeUnits_inv, h0]

theorem abortNow_inv (s : State) (k : Nat) (h0 : Kept Q s) : Kept Q (abortNow s k) := by
  unfold abortNow
  (repeat' (first | (simp (maxDischargeDepth := 40) only [leaveContext_inv, leaveUnits_inv, modJob_inv, dropJob_inv, h0]; done) | split))

theorem applyGrantClear_inv (s : State) (q : Bytes) (h0 : Kept Q s) : Kept Q (applyGrantClear s q).2.2 := by
  unfold applyGrantClear
  (repeat' (first | (simp (maxDischargeDepth := 40) only [h0]; done) | split))

theorem grantClear_inv (s : State) (c : Carrier) (q : Bytes) (h0 : Kept Q s) : Kept Q (grantClear s c q) := by
  unfold grantClear
  (repeat' (first | (simp (maxDischargeDepth := 40) only [boxEnd_inv, stageRequest_inv, h0]; done) | split))

theorem escrowImport_inv (s : State) (c : Carrier) (q : Bytes) (h0 : Kept Q s) : Kept Q (escrowImport s c q) := by
  unfold escrowImport
  (repeat' (first | (simp (maxDischargeDepth := 40) only [boxEnd_inv, stageRequest_inv, h0]; done) | split))

theorem execEscrowImport_inv (p : Fin 8) (s : State) (h1 : Kept Q s) : OutInv Q (execEscrowImport p s) := by
  unfold execEscrowImport
  (repeat' (first | (simp (maxDischargeDepth := 40) +contextual only [implies_true, srcRun_inv, escrowImport_inv, h1]; done) | split | (simp only []; split)))

theorem attestShared_inv (s : State) (c : Carrier) (q : Bytes) (h0 : Kept Q s) : Kept Q (attestShared s c q) := by
  unfold attestShared
  simp (maxDischargeDepth := 40) only [inv_ite, boxEnd_inv, h0]

theorem execAttestShared_inv (c : Src) (s : State) (h1 : Kept Q s) : OutInv Q (execAttestShared c s) := by
  unfold execAttestShared
  (repeat' (first | (simp (maxDischargeDepth := 40) +contextual only [implies_true, srcRun_inv, attestShared_inv, h1]; done) | split | (simp only []; split)))

theorem escrowDraws_inv (x0 : Nat) (x1 : State) (h1 : Kept Q x1) : Kept Q (escrowDraws x0 x1).2 := by
  induction x0 generalizing x1 with
  | zero => exact h1
  | succ k ih => exact ih _ (freshBytes_inv _ _ (freshBytes_inv _ _ h1))

theorem escrowPackage_inv (s : State) (q : Bytes) (h : BlobHdr) (key : Bytes) (h0 : Kept Q s) : Kept Q (escrowPackage s q h key).2 := by
  unfold escrowPackage
  simp (maxDischargeDepth := 40) only [freshBytes_inv, escrowDraws_inv, h0]

theorem attestCheck_inv (s : State) (c : Carrier) (q : Bytes) (h0 : Kept Q s) : Kept Q (attestCheck s c q) := by
  unfold attestCheck
  simp (maxDischargeDepth := 40) only [inv_ite, boxEnd_inv, h0]

theorem execAttestCheck_inv (c : Src) (s : State) (h1 : Kept Q s) : OutInv Q (execAttestCheck c s) := by
  unfold execAttestCheck
  (repeat' (first | (simp (maxDischargeDepth := 40) +contextual only [implies_true, srcRun_inv, attestCheck_inv, h1]; done) | split | (simp only []; split)))

theorem attestSigned_inv (s : State) (c : Carrier) (q : Bytes) (h0 : Kept Q s) : Kept Q (attestSigned s c q) := by
  unfold attestSigned
  (repeat' (first | (simp (maxDischargeDepth := 40) only [boxEnd_inv, modBox_inv, addJob_inv, h0]; done) | split))

theorem execGrantClear_inv (p : Fin 8) (s : State) (h1 : Kept Q s) : OutInv Q (execGrantClear p s) := by
  unfold execGrantClear
  (repeat' (first | (simp (maxDischargeDepth := 40) +contextual only [implies_true, srcRun_inv, grantClear_inv, h1]; done) | split | (simp only []; split)))

theorem escrowExport_inv (s : State) (c : Carrier) (q : Bytes) (h0 : Kept Q s) : Kept Q (escrowExport s c q) := by
  unfold escrowExport
  (repeat' (first | (simp (maxDischargeDepth := 40) only [boxEnd_inv, stageRequest_inv, h0]; done) | split))

theorem attestDone_inv (s : State) (e : Nat) (st : Status) (input : Bytes) (sig : Bytes) (h0 : Kept Q s) : Kept Q (attestDone s e st input sig) := by
  unfold attestDone
  simp only [boxEnd_inv, h0]

theorem execAttestSigned_inv (c : Src) (s : State) (h1 : Kept Q s) : OutInv Q (execAttestSigned c s) := by
  unfold execAttestSigned
  (repeat' (first | (simp (maxDischargeDepth := 40) +contextual only [implies_true, srcRun_inv, attestSigned_inv, h1]; done) | split | (simp only []; split)))

theorem applyEscrowImport_inv (s : State) (q : Bytes) (h0 : Kept Q s) : Kept Q (applyEscrowImport s q).2.2 := by
  unfold applyEscrowImport
  (repeat' (first | (simp (maxDischargeDepth := 40) +contextual only [h0]; done) | split | (simp only []; split)))

theorem applyEscrowExport_inv (s : State) (q : Bytes) (h0 : Kept Q s) : Kept Q (applyEscrowExport s q).2.2 := by
  unfold applyEscrowExport
  (repeat' (first | (simp (maxDischargeDepth := 40) only [escrowPackage_inv, h0]; done) | split))

theorem execEscrowExport_inv (p : Fin 8) (s : State) (h1 : Kept Q s) : OutInv Q (execEscrowExport p s) := by
  unfold execEscrowExport
  (repeat' (first | (simp (maxDischargeDepth := 40) +contextual only [implies_true, srcRun_inv, escrowExport_inv, h1]; done) | split | (simp only []; split)))

theorem unloadKeyFree_inv (s : State) (i : Nat) (h : Nat) (h0 : Kept Q s) : Kept Q (unloadKeyFree s i h) := by
  unfold unloadKeyFree
  (repeat' (first | (simp (maxDischargeDepth := 40) +contextual only [dropContexts_inv, freeSlot_inv, mirror_inv, ctlDoneMirrored_inv, h0]; done) | split | (simp only []; split)))

theorem loadKey_inv (i : Nat) (s : State) (c : Cmd) (d : Bytes) (h1 : Kept Q s) : Kept Q (loadKey i s c d) := by
  unfold loadKey
  (repeat' (first | (simp (maxDischargeDepth := 40) +contextual only [ctlDone_inv, instError_inv, fillSlot_inv, ctlDoneMirrored_inv, mirror_inv, h1]; done) | split | (simp only []; split)))

theorem execLoadKey_inv (i : Nat) (s : State) (h1 : Kept Q s) : OutInv Q (execLoadKey i s) := by
  unfold execLoadKey
  (repeat' (first | (simp (maxDischargeDepth := 40) +contextual only [implies_true, whenRunning_inv, ctlRun_inv, loadKey_inv, h1]; done) | split | (simp only []; split)))

theorem importContext_inv (i : Nat) (s : State) (c : Cmd) (d : Bytes) (h1 : Kept Q s) : Kept Q (importContext i s c d) := by
  unfold importContext
  (repeat' (first | (simp (maxDischargeDepth := 40) only [ctlDone_inv, noteSlot_inv, modBore_inv, modWch_inv, h1]; done) | split))

theorem exportContext_inv (i : Nat) (s : State) (c : Cmd) (x3 : Bytes) (h1 : Kept Q s) : Kept Q (exportContext i s c x3) := by
  unfold exportContext
  (repeat' (first | (simp (maxDischargeDepth := 40) +contextual only [ctlDone_inv, noteSlot_inv, modBore_inv, modWch_inv, h1]; done) | split | (simp only []; split)))

theorem execExportContext_inv (i : Nat) (s : State) (h1 : Kept Q s) : OutInv Q (execExportContext i s) := by
  unfold execExportContext
  (repeat' (first | (simp (maxDischargeDepth := 40) +contextual only [implies_true, whenRunning_inv, ctlRun_inv, exportContext_inv, h1]; done) | split | (simp only []; split)))

theorem unloadKey_inv (i : Nat) (s : State) (c : Cmd) (x3 : Bytes) (h1 : Kept Q s) : Kept Q (unloadKey i s c x3) := by
  unfold unloadKey
  (repeat' (first | (simp (maxDischargeDepth := 40) +contextual only [ctlDone_inv, modWch_inv, modCtlQ_inv, h1]; done) | split | (simp only []; split)))

theorem execUnloadKey_inv (i : Nat) (s : State) (h1 : Kept Q s) : OutInv Q (execUnloadKey i s) := by
  unfold execUnloadKey
  (repeat' (first | (simp (maxDischargeDepth := 40) +contextual only [implies_true, whenRunning_inv, ctlRun_inv, unloadKey_inv, h1]; done) | split | (simp only []; split)))

theorem execUnloadKeyFree_inv (i : Nat) (h : Nat) (s : State) (h2 : Kept Q s) : OutInv Q (execUnloadKeyFree i h s) := by
  unfold execUnloadKeyFree
  simp only [whenRunning_inv, unloadKeyFree_inv, h2]

theorem execImportContext_inv (i : Nat) (s : State) (h1 : Kept Q s) : OutInv Q (execImportContext i s) := by
  unfold execImportContext
  (repeat' (first | (simp (maxDischargeDepth := 40) +contextual only [implies_true, whenRunning_inv, ctlRun_inv, importContext_inv, h1]; done) | split | (simp only []; split)))

theorem bindEpoch_inv (s : State) (k : Nat) (h0 : Kept Q s) : Kept Q (bindEpoch s k) := by
  unfold bindEpoch
  (repeat' (first | (simp (maxDischargeDepth := 40) +contextual only [epochBoundary_inv, modJob_inv, h0]; done) | split | (simp only []; split)))

theorem consume_inv (s : State) (g : Ring) (n : Nat) (h0 : Kept Q s) : Kept Q (consume s g n) := by
  unfold consume
  split <;> simp (maxDischargeDepth := 40) only [modRing_inv, ringCharge_inv, modInst_inv, h0]

theorem fetchControl_inv (s : State) (i : Nat) (gen : Nat) (bs : Bytes) (h0 : Kept Q s) : Kept Q (fetchControl s i gen bs) := by
  unfold fetchControl
  simp (maxDischargeDepth := 40) only [inv_ite, settleCtlAll_inv, modCtlQ_inv, consume_inv, h0]

theorem takeWork_inv (s : State) (i : Nat) (q : Nat) (gen : Nat) (bs : Bytes) (h0 : Kept Q s) : Kept Q (takeWork s i q gen bs) := by
  unfold takeWork
  split <;> simp (maxDischargeDepth := 40) only [addJob_inv, addWaiting_inv, h0]

theorem fetchWork_inv (s : State) (i : Nat) (q : Nat) (gen : Nat) (qp : Qp) (bs : Bytes) (h0 : Kept Q s) : Kept Q (fetchWork s i q gen qp bs) := by
  unfold fetchWork
  simp (maxDischargeDepth := 40) only [inv_ite, instError_inv, bucketCharge_inv, modRing_inv, bindEpoch_inv, takeWork_inv, consume_inv, h0]

theorem dmaCtl_inv (s : State) (i : Nat) (r : DmaResult) (h0 : Kept Q s) : Kept Q (dmaCtl s i r) := by
  unfold dmaCtl
  (repeat' (first | (simp (maxDischargeDepth := 40) only [modCtlQ_inv, bucketCharge_inv, emitAll_inv, ctlDone_inv, instError_inv, h0]; done) | split))

theorem fetchAdmin_inv (s : State) (p : Fin 8) (bs : Bytes) (h0 : Kept Q s) : Kept Q (fetchAdmin s p bs) := by
  unfold fetchAdmin
  simp (maxDischargeDepth := 40) only [inv_ite, settleAdmAll_inv, modAdmQ_inv, consume_inv, h0]

theorem gatherBurst_inv (s : State) (k : Nat) (j : Job) (bs : Bytes) (h0 : Kept Q s) : Kept Q (gatherBurst s k j bs) := by
  unfold gatherBurst
  (repeat' (first | (simp (maxDischargeDepth := 40) only [inv_ite, inv_mk, inv_clock, inv_mem, inv_wait, inv_queue, inv_shape, shape_ports, shape_portsMap, shape_wch, shape_lcs, shape_dgp, and_self, emitAll_inv, modJob_inv, bucketCharge_inv, h0]; done) | split))

theorem gatherFailed_inv (s : State) (k : Nat) (i : Nat) (cause : Nat) (h0 : Kept Q s) : Kept Q (gatherFailed s k i cause) := by
  unfold gatherFailed
  simp only [endOffLadder_inv, instError_inv, h0]

theorem dmaJob_inv (s : State) (k : Nat) (r : DmaResult) (h0 : Kept Q s) : Kept Q (dmaJob s k r) := by
  unfold dmaJob
  (repeat' (first | (simp (maxDischargeDepth := 40) only [gatherBurst_inv, gatherFailed_inv, h0]; done) | split))

theorem dmaAdm_inv (s : State) (p : Fin 8) (r : DmaResult) (h0 : Kept Q s) : Kept Q (dmaAdm s p r) := by
  unfold dmaAdm
  (repeat' (first | (simp (maxDischargeDepth := 40) only [modAdmQ_inv, emitAll_inv, admDone_inv, admError_inv, h0]; done) | split))

theorem dmaEntry_inv (s : State) (g : Ring) (r : DmaResult) (h0 : Kept Q s) : Kept Q (dmaEntry s g r) := by
  unfold dmaEntry
  (repeat' (first | (simp (maxDischargeDepth := 40) only [ringError_inv, h0]; done) | split))

theorem dmaRead_inv (s : State) (t : DmaTarget) (r : DmaResult) (h0 : Kept Q s) : Kept Q (dmaRead s t r) := by
  unfold dmaRead
  split <;> simp (maxDischargeDepth := 40) only [dmaJob_inv, dmaAdm_inv, dmaCtl_inv, boxRead_inv, dmaEntry_inv, h0]

theorem execDmaReadComplete_inv (t : DmaTarget) (r : DmaResult) (s : State) (h2 : Kept Q s) : OutInv Q (execDmaReadComplete t r s) := by
  unfold execDmaReadComplete
  simp only [whenRunning_inv, dmaRead_inv, h2]

theorem denyReads_inv (s : State) (p : Fin 8) (fn : Nat) (page : Nat) (h0 : Kept Q s) : Kept Q (denyReads s p fn page) := by
  unfold denyReads
  (repeat' (first | (simp (maxDischargeDepth := 40) +contextual only [outInv_next, outInv_fault, outInv_ite, inv_ite, inv_foldl, inv_mk, inv_clock, inv_mem, inv_wait, inv_queue, inv_shape, shape_ports, shape_portsMap, shape_wch, shape_lcs, shape_dgp, and_self, implies_true, gatherFailed_inv, ctlDone_inv, instError_inv, admDone_inv, admError_inv, boxEnd_inv, ringError_inv, h0]; done) | split | (simp only []; split)))

theorem atsTranslation_inv (s : State) (p : Fin 8) (fn : Nat) (page : Nat) (access : Bool) (h0 : Kept Q s) : Kept Q (atsTranslation s p fn page access) := by
  unfold atsTranslation
  simp (maxDischargeDepth := 40) only [inv_ite, emit_inv, denyReads_inv, modPort_inv, h0]

theorem execAtsTranslationComplete_inv (x : AtsPage) (access : Bool) (s : State) (h2 : Kept Q s) : OutInv Q (execAtsTranslationComplete x access s) := by
  unfold execAtsTranslationComplete
  simp only [whenRunning_inv, atsTranslation_inv, h2]

theorem fetchEntry_inv (s : State) (g : Ring) (bs : Bytes) (h0 : Kept Q s) : Kept Q (fetchEntry s g bs) := by
  unfold fetchEntry
  (repeat' (first | (simp (maxDischargeDepth := 40) only [fetchAdmin_inv, fetchControl_inv, fetchWork_inv, h0]; done) | split))

theorem submissionFetch_inv (s : State) (g : Ring) (bs : Bytes) (h0 : Kept Q s) : Kept Q (submissionFetch s g bs) := by
  unfold submissionFetch
  simp (maxDischargeDepth := 40) only [inv_ite, fetchEntry_inv, emitAll_inv, h0]

theorem execSubmissionFetch_inv (g : Ring) (bs : Bytes) (s : State) (h2 : Kept Q s) : OutInv Q (execSubmissionFetch g bs s) := by
  unfold execSubmissionFetch
  simp only [whenRunning_inv, submissionFetch_inv, h2]

theorem admitJob_inv (s : State) (k : Nat) (j : Job) (t : State) (h0 : Kept Q s) (h3 : Kept Q t) : Kept Q (admitJob s k j t) := by
  unfold admitJob
  simp (maxDischargeDepth := 40) only [inv_ite, inv_mk, inv_clock, inv_mem, inv_wait, inv_queue, inv_shape, shape_ports, shape_wch, shape_lcs, shape_dgp, and_self, h0, h3]

theorem pkReserve_inv (s : State) (j : Job) (claim : Option Bytes) (h0 : Kept Q s) : Kept Q (pkReserve s j claim) := by
  unfold pkReserve
  (repeat' (first | (simp (maxDischargeDepth := 40) only [modStateful_inv, reserveSlot_inv, h0]; done) | split))

theorem parsePk_inv (s : State) (k : Nat) (op : Nat) (h0 : Kept Q s) : Kept Q (parsePk s k op) := by
  unfold parsePk
  (repeat' (first | (simp (maxDischargeDepth := 40) only [rejectJob_inv, noteSlot_inv, admitJob_inv, pkReserve_inv, h0]; done) | split))

theorem execKeygen_inv (j : Nat) (s : State) (h1 : Kept Q s) : OutInv Q (execKeygen j s) := by
  unfold execKeygen
  simp only [whenRunning_inv, parsePk_inv, h1]

theorem execAgree_inv (j : Nat) (s : State) (h1 : Kept Q s) : OutInv Q (execAgree j s) := by
  unfold execAgree
  simp only [whenRunning_inv, parsePk_inv, h1]

theorem execLoadCurve_inv (j : Nat) (s : State) (h1 : Kept Q s) : OutInv Q (execLoadCurve j s) := by
  unfold execLoadCurve
  simp only [whenRunning_inv, parsePk_inv, h1]

theorem parseRoutine_inv (s : State) (k : Nat) (h0 : Kept Q s) : Kept Q (parseRoutine s k) := by
  unfold parseRoutine
  (repeat' (first | (simp (maxDischargeDepth := 40) only [rejectJob_inv, noteSlot_inv, admitJob_inv, h0]; done) | split))

theorem execRoutineJob_inv (j : Nat) (s : State) (h1 : Kept Q s) : OutInv Q (execRoutineJob j s) := by
  unfold execRoutineJob
  simp only [whenRunning_inv, parseRoutine_inv, h1]

theorem awaitTarget_inv (s : State) (k : Nat) (t : Nat) (h0 : Kept Q s) : Kept Q (awaitTarget s k t) := by
  unfold awaitTarget
  simp only [modJob_inv, h0]

theorem cancelJob_inv (s : State) (k : Nat) (h0 : Kept Q s) : Kept Q (cancelJob s k) := by
  unfold cancelJob
  (repeat' (first | (simp (maxDischargeDepth := 40) only [rejectJob_inv, endOffLadder_inv, awaitTarget_inv, markAbort_inv, h0]; done) | split))

theorem execCancel_inv (j : Nat) (s : State) (h1 : Kept Q s) : OutInv Q (execCancel j s) := by
  unfold execCancel
  simp only [whenRunning_inv, cancelJob_inv, h1]

theorem execTreeBuild_inv (j : Nat) (s : State) (h1 : Kept Q s) : OutInv Q (execTreeBuild j s) := by
  unfold execTreeBuild
  simp only [whenRunning_inv, parsePk_inv, h1]

theorem execDecaps_inv (j : Nat) (s : State) (h1 : Kept Q s) : OutInv Q (execDecaps j s) := by
  unfold execDecaps
  simp only [whenRunning_inv, parsePk_inv, h1]

theorem execVerify_inv (j : Nat) (s : State) (h1 : Kept Q s) : OutInv Q (execVerify j s) := by
  unfold execVerify
  simp only [whenRunning_inv, parsePk_inv, h1]

theorem execSign_inv (j : Nat) (s : State) (h1 : Kept Q s) : OutInv Q (execSign j s) := by
  unfold execSign
  simp only [whenRunning_inv, parsePk_inv, h1]

theorem execEncaps_inv (j : Nat) (s : State) (h1 : Kept Q s) : OutInv Q (execEncaps j s) := by
  unfold execEncaps
  simp only [whenRunning_inv, parsePk_inv, h1]

theorem muteCluster_inv (s : State) (c : Nat) (cause : Nat) (h0 : Kept Q s) : Kept Q (muteCluster s c cause) := by
  unfold muteCluster
  simp (maxDischargeDepth := 40) only [inv_ite, displaceJobs_inv, logEvent_inv, modCluster_inv, h0]

theorem chargeCluster_inv (s : State) (c : Nat) (j : Nat) (h0 : Kept Q s) : Kept Q (chargeCluster s c j) := by
  unfold chargeCluster
  simp (maxDischargeDepth := 40) only [inv_ite, inv_mk, inv_clock, inv_mem, inv_wait, inv_queue, inv_shape, shape_ports, shape_wch, shape_lcs, shape_dgp, and_self, muteCluster_inv, h0]

theorem muteMau_inv (s : State) (c : Nat) (cause : Nat) (h0 : Kept Q s) : Kept Q (muteMau s c cause) := by
  unfold muteMau
  simp only [displaceJobs_inv, muteUnit_inv, h0]

theorem muteSuspect_inv (s : State) (u : UnitName) (h0 : Kept Q s) : Kept Q (muteSuspect s u) := by
  unfold muteSuspect
  (repeat' (first | (simp (maxDischargeDepth := 40) only [muteReed_inv, muteMau_inv, h0]; done) | split))

theorem suspect_inv (s : State) (u : UnitName) (h0 : Kept Q s) : Kept Q (suspect s u) := by
  unfold suspect
  simp only [inv_mk, inv_clock, inv_mem, inv_wait, inv_queue, inv_shape, shape_ports, shape_wch, shape_lcs, shape_dgp, and_self, muteSuspect_inv, h0]

theorem suspectUnit_inv (s : State) (u : JobUnit) (h0 : Kept Q s) : Kept Q (suspectUnit s u) := by
  unfold suspectUnit
  split <;> simp (maxDischargeDepth := 40) only [suspect_inv, freshChoice_inv, h0]

theorem postResult_inv (s : State) (k : Nat) (r : JobResult) (h0 : Kept Q s) : Kept Q (postResult s k r) := by
  unfold postResult
  (repeat' (first | (simp (maxDischargeDepth := 40) only [inv_mk, inv_clock, inv_mem, inv_wait, inv_queue, inv_shape, shape_ports, shape_wch, shape_lcs, shape_dgp, and_self, suspectUnit_inv, modJob_inv, modCluster_inv, h0]; done) | split))

theorem chargeMau_inv (s : State) (c : Nat) (j : Nat) (h0 : Kept Q s) : Kept Q (chargeMau s c j) := by
  unfold chargeMau
  simp (maxDischargeDepth := 40) only [inv_ite, inv_mk, inv_clock, inv_mem, inv_wait, inv_queue, inv_shape, shape_ports, shape_wch, shape_lcs, shape_dgp, and_self, muteMau_inv, h0]

theorem chargeReed_inv (s : State) (r : Nat) (j : Nat) (h0 : Kept Q s) : Kept Q (chargeReed s r j) := by
  unfold chargeReed
  simp (maxDischargeDepth := 40) only [inv_ite, inv_mk, inv_clock, inv_mem, inv_wait, inv_queue, inv_shape, shape_ports, shape_wch, shape_lcs, shape_dgp, and_self, muteReed_inv, h0]

theorem muteBellows_inv (s : State) (c : Nat) (b : Nat) (cause : Nat) (h0 : Kept Q s) : Kept Q (muteBellows s c b cause) := by
  unfold muteBellows
  simp (maxDischargeDepth := 40) only [muteUnit_inv, displaceJobs_inv, modCluster_inv, h0]

theorem chargeBellows_inv (s : State) (c : Nat) (b : Nat) (h0 : Kept Q s) : Kept Q (chargeBellows s c b) := by
  unfold chargeBellows
  simp (maxDischargeDepth := 40) only [inv_ite, inv_mk, inv_clock, inv_mem, inv_wait, inv_queue, inv_shape, shape_ports, shape_wch, shape_lcs, shape_dgp, and_self, muteBellows_inv, h0]

theorem libraryResult_inv (s : State) (j : Job) (h0 : Kept Q s) : Kept Q (libraryResult s j).2 := by
  unfold libraryResult
  (repeat' (first | (simp (maxDischargeDepth := 40) +contextual only [inv_mk, inv_clock, inv_mem, inv_wait, inv_queue, inv_shape, shape_ports, shape_wch, shape_lcs, shape_dgp, and_self, h0]; done) | split | (simp only []; split)))

theorem bornStateful_inv (s : State) (pub : Bytes) (h0 : Kept Q s) : Kept Q (bornStateful s pub) := by
  unfold bornStateful
  simp (maxDischargeDepth := 40) only [putCeiling_inv, askLeaf_inv, modStateful_inv, h0]

theorem treeDone_inv (s : State) (j : Job) (h0 : Kept Q s) : Kept Q (treeDone s j) := by
  unfold treeDone
  split <;> simp (maxDischargeDepth := 40) only [modStateful_inv, h0]

theorem keepResult_inv (s : State) (j : Job) (r : JobResult) (h0 : Kept Q s) : Kept Q (keepResult s j r) := by
  unfold keepResult
  (repeat' (first | (simp (maxDischargeDepth := 40) +contextual only [fillSlot_inv, mirror_inv, bornStateful_inv, treeDone_inv, h0]; done) | split | (simp only []; split)))

theorem internalDone_inv (s : State) (k : Nat) (what : Nat) (e : Nat) (st : Status) (input : Bytes) (out : Bytes) (h0 : Kept Q s) : Kept Q (internalDone s k what e st input out) := by
  unfold internalDone
  simp (maxDischargeDepth := 40) only [inv_ite, sig1Done_inv, sig2Done_inv, verifyDone_inv, auditDone_inv, attestDone_inv, h0]

theorem releaseJob_inv (s : State) (k : Nat) (j : Job) (h0 : Kept Q s) : Kept Q (releaseJob s k j) := by
  unfold releaseJob
  (repeat' (first | (simp (maxDischargeDepth := 40) only [inv_ite, keepResult_inv, dropJob_inv, internalDone_inv, messageIfLast_inv, latencySample_inv, issueCompl_inv, h0]; done) | split))

theorem jobRelease_inv (s : State) (h0 : Kept Q s) : Kept Q (jobRelease s) := by
  unfold jobRelease
  (repeat' (first | (simp (maxDischargeDepth := 40) only [releaseJob_inv, h0]; done) | split))

theorem execJobRelease_inv (s : State) (h0 : Kept Q s) : OutInv Q (execJobRelease s) := by
  unfold execJobRelease
  simp only [whenRunning_inv, jobRelease_inv, h0]

theorem budgetExceeded_inv (s : State) (k : Nat) (h0 : Kept Q s) : Kept Q (budgetExceeded s k) := by
  unfold budgetExceeded
  (repeat' (first | (simp (maxDischargeDepth := 40) only [inv_mk, inv_clock, inv_mem, inv_wait, inv_queue, inv_shape, shape_ports, shape_wch, shape_lcs, shape_dgp, and_self, modJob_inv, leaveUnits_inv, h0]; done) | split))

theorem execBudgetExceeded_inv (j : Nat) (s : State) (h1 : Kept Q s) : OutInv Q (execBudgetExceeded j s) := by
  unfold execBudgetExceeded
  simp only [whenRunning_inv, budgetExceeded_inv, h1]

theorem dgpWhen_inv (s : State) (a : DgpAgent) (t : State) (h0 : Kept Q s) (h2 : Kept Q t) : OutInv Q (dgpWhen s a t) := by
  unfold dgpWhen
  (repeat' (first | (simp (maxDischargeDepth := 40) only [whenRunning_inv, whenLive_inv, h0, h2]; done) | split))

theorem modDgp_inv (s : State) (c : Nat) (f : Dgp → Dgp) (h0 : Kept Q s) : Kept Q (modDgp s c f) := by
  unfold modDgp
  simp only [inv_mk, inv_clock, inv_mem, inv_wait, inv_queue, inv_shape, shape_ports, shape_wch, shape_lcs, shape_dgp, and_self, h0]

theorem execDgpClaim_inv (p : Fin 8) (c : Fin 16) (s : State) (h2 : Kept Q s) : OutInv Q (execDgpClaim p c s) := by
  unfold execDgpClaim
  simp (maxDischargeDepth := 40) only [inv_ite, dgpWhen_inv, modDgp_inv, h2]

theorem dgpOwned_inv (s : State) (a : DgpAgent) (c : Nat) (f : Dgp → Dgp) (h0 : Kept Q s) : Kept Q (dgpOwned s a c f) := by
  unfold dgpOwned
  simp (maxDischargeDepth := 40) only [inv_ite, modDgp_inv, h0]

theorem execDgpInit_inv (a : DgpAgent) (c : Fin 16) (v : BitVec 32) (s : State) (h3 : Kept Q s) : OutInv Q (execDgpInit a c v s) := by
  unfold execDgpInit
  simp only [dgpWhen_inv, dgpOwned_inv, h3]

theorem execDgpFinal_inv (a : DgpAgent) (c : Fin 16) (s : State) (h2 : Kept Q s) : OutInv Q (execDgpFinal a c s) := by
  unfold execDgpFinal
  simp only [dgpWhen_inv, dgpOwned_inv, h2]

theorem execDgpBlockAbsorbed_inv (c : Fin 16) (s : State) (h1 : Kept Q s) : OutInv Q (execDgpBlockAbsorbed c s) := by
  unfold execDgpBlockAbsorbed
  simp only [whenLive_inv, modDgp_inv, h1]

theorem dgpWipe_inv (s : State) (h0 : Kept Q s) : Kept Q (dgpWipe s) := by
  unfold dgpWipe
  exact ⟨h0.clock, h0.mem, h0.wait, h0.queue, shape_map h0 _ _ rfl (h0.shape.dgp ▸ rfl)⟩

theorem execDgpData_inv (a : DgpAgent) (c : Fin 16) (v : BitVec 32) (s : State) (h3 : Kept Q s) : OutInv Q (execDgpData a c v s) := by
  unfold execDgpData
  simp only [dgpWhen_inv, dgpOwned_inv, h3]

theorem execDgpRelease_inv (a : DgpAgent) (c : Fin 16) (s : State) (h2 : Kept Q s) : OutInv Q (execDgpRelease a c s) := by
  unfold execDgpRelease
  simp only [dgpWhen_inv, dgpOwned_inv, h2]

theorem execDgpData8_inv (a : DgpAgent) (c : Fin 16) (v : BitVec 32) (s : State) (h3 : Kept Q s) : OutInv Q (execDgpData8 a c v s) := by
  unfold execDgpData8
  simp only [dgpWhen_inv, dgpOwned_inv, h3]

theorem execDgpFinalDone_inv (c : Fin 16) (s : State) (h1 : Kept Q s) : OutInv Q (execDgpFinalDone c s) := by
  unfold execDgpFinalDone
  simp only [whenLive_inv, modDgp_inv, h1]

theorem dgpFreePort_inv (s : State) (p : Fin 8) (h0 : Kept Q s) : Kept Q (dgpFreePort s p) := by
  unfold dgpFreePort
  exact ⟨h0.clock, h0.mem, h0.wait, h0.queue, shape_map h0 _ _ rfl (List.length_map _)⟩

theorem resetCommands_inv (s : State) (i : Nat) (x : Inst) (h0 : Kept Q s) : Kept Q (resetCommands s i x) := by
  unfold resetCommands
  (repeat' (first | (simp (maxDischargeDepth := 40) +contextual only [inv_ite, inv_foldl, implies_true, modInst_inv, addWaiting_inv, h0]; done) | split | (simp only []; split)))

theorem beginReset_inv (s : State) (i : Nat) (h0 : Kept Q s) : Kept Q (beginReset s i) := by
  unfold beginReset
  split <;> simp (maxDischargeDepth := 40) only [resetCommands_inv, modInst_inv, h0]

theorem requestReset_inv (s : State) (i : Nat) (ws : List ResetWait) (h0 : Kept Q s) : Kept Q (requestReset s i ws) := by
  unfold requestReset
  (repeat' (first | (simp (maxDischargeDepth := 40) only [modInst_inv, beginReset_inv, h0]; done) | split))

theorem vfFlr_inv (s : State) (p : Fin 8) (vf : Nat) (h0 : Kept Q s) : Kept Q (vfFlr s p vf) := by
  unfold vfFlr
  (repeat' (first | (simp (maxDischargeDepth := 40) +contextual only [modPort_inv, requestReset_inv, h0]; done) | split | (simp only []; split)))

theorem execVfFlr_inv (p : Fin 8) (vf : Nat) (s : State) (h2 : Kept Q s) : OutInv Q (execVfFlr p vf s) := by
  unfold execVfFlr
  simp only [whenLive_inv, vfFlr_inv, h2]

theorem destroyInstance_inv (p : Fin 8) (s : State) (c : Cmd) (x3 : Bytes) (h1 : Kept Q s) : Kept Q (destroyInstance p s c x3) := by
  unfold destroyInstance
  (repeat' (first | (simp (maxDischargeDepth := 40) +contextual only [admDone_inv, requestReset_inv, modAdmQ_inv, h1]; done) | split | (simp only []; split)))

theorem drainCompletions_inv (s : State) (i : Nat) (h0 : Kept Q s) : Kept Q (drainCompletions s i) := by
  unfold drainCompletions
  (repeat' (first | (simp (maxDischargeDepth := 40) +contextual only [inv_ite, inv_foldl, implies_true, endOffLadder_inv, modInst_inv, h0]; done) | split | (simp only []; split)))

theorem resetPort_inv (s : State) (p : Fin 8) (k : PortReset) (h0 : Kept Q s) : Kept Q (resetPort s p k) := by
  unfold resetPort
  simp only [inv_mk, inv_clock, inv_mem, inv_wait, inv_queue, inv_shape, shape_ports, shape_wch, shape_lcs, shape_dgp, and_self, modPort_inv, h0]

theorem portReset_inv (s : State) (p : Fin 8) (k : PortReset) (h0 : Kept Q s) : Kept Q (portReset s p k) := by
  unfold portReset
  (repeat' (first | (simp (maxDischargeDepth := 40) +contextual only [inv_ite, inv_foldl, implies_true, dgpFreePort_inv, resetPort_inv, requestReset_inv, h0]; done) | split | (simp only []; split)))

theorem execPerstNAssert_inv (p : Fin 8) (k : PortReset) (s : State) (h2 : Kept Q s) : OutInv Q (execPerstNAssert p k s) := by
  unfold execPerstNAssert
  simp only [whenLive_inv, portReset_inv, h2]

theorem resetJob_inv (drain : Bool) (s : State) (k : Nat) (h1 : Kept Q s) : Kept Q (resetJob drain s k) := by
  unfold resetJob
  simp (maxDischargeDepth := 40) only [inv_ite, abortNow_inv, modJob_inv, dropJob_inv, leaveUnits_inv, h1]

theorem resetExhaleOne_inv (s : State) (i : Nat) (h0 : Kept Q s) : Kept Q (resetExhaleOne s i) := by
  unfold resetExhaleOne
  (repeat' (first | (simp (maxDischargeDepth := 40) +contextual only [inv_foldl, implies_true, resetJob_inv, h0]; done) | split | (simp only []; split)))

theorem destroyAfterReset_inv (s : State) (i : Nat) (x : Inst) (r : ResetRun) (h0 : Kept Q s) : Kept Q (destroyAfterReset s i x r) := by
  unfold destroyAfterReset
  (repeat' (first | (simp (maxDischargeDepth := 40) +contextual only [inv_foldl, implies_true, modInst_inv, finishDestroy_inv, destroyStreamNow_inv, h0]; done) | split | (simp only []; split)))

theorem resetWaiter_inv (i : Nat) (gen : Nat) (s : State) (w : ResetWait) (h2 : Kept Q s) : Kept Q (resetWaiter i gen s w) := by
  unfold resetWaiter
  (repeat' (first | (simp (maxDischargeDepth := 40) only [admDoneBy_inv, h2]; done) | split))

theorem instanceResetDone_inv (s : State) (i : Nat) (h0 : Kept Q s) : Kept Q (instanceResetDone s i) := by
  unfold instanceResetDone
  (repeat' (first | (simp (maxDischargeDepth := 40) +contextual only [inv_ite, inv_foldl, implies_true, wipeContexts_inv, destroyAfterReset_inv, resetWaiter_inv, modInst_inv, h0]; done) | split | (simp only []; split)))

theorem execInstanceResetDone_inv (i : Nat) (s : State) (h1 : Kept Q s) : OutInv Q (execInstanceResetDone i s) := by
  unfold execInstanceResetDone
  simp only [whenRunning_inv, instanceResetDone_inv, h1]

theorem execVfResetRequest_inv (p : Fin 8) (vf : Nat) (s : State) (h2 : Kept Q s) : OutInv Q (execVfResetRequest p vf s) := by
  unfold execVfResetRequest
  (repeat' (first | (simp (maxDischargeDepth := 40) only [whenRunning_inv, requestReset_inv, h2]; done) | split))

theorem resetInstance_inv (p : Fin 8) (s : State) (c : Cmd) (x3 : Bytes) (h1 : Kept Q s) : Kept Q (resetInstance p s c x3) := by
  unfold resetInstance
  (repeat' (first | (simp (maxDischargeDepth := 40) +contextual only [admDone_inv, requestReset_inv, modAdmQ_inv, h1]; done) | split | (simp only []; split)))

theorem execResetInstance_inv (p : Fin 8) (s : State) (h1 : Kept Q s) : OutInv Q (execResetInstance p s) := by
  unfold execResetInstance
  (repeat' (first | (simp (maxDischargeDepth := 40) +contextual only [implies_true, whenRunning_inv, admRun_inv, resetInstance_inv, h1]; done) | split | (simp only []; split)))

theorem resetsExhale_inv (s : State) (h0 : Kept Q s) : Kept Q (resetsExhale s) := by
  unfold resetsExhale
  (repeat' (first | (simp (maxDischargeDepth := 40) +contextual only [inv_foldl, implies_true, resetExhaleOne_inv, h0]; done) | split | (simp only []; split)))

theorem execResetDrainCompletions_inv (i : Nat) (s : State) (h1 : Kept Q s) : OutInv Q (execResetDrainCompletions i s) := by
  unfold execResetDrainCompletions
  simp only [whenRunning_inv, drainCompletions_inv, h1]

theorem resetsInhale_inv (s : State) (h0 : Kept Q s) : Kept Q (resetsInhale s) := by
  unfold resetsInhale
  (repeat' (first | (simp (maxDischargeDepth := 40) +contextual only [inv_foldl, implies_true, beginReset_inv, h0]; done) | split | (simp only []; split)))

theorem execDestroyInstance_inv (p : Fin 8) (s : State) (h1 : Kept Q s) : OutInv Q (execDestroyInstance p s) := by
  unfold execDestroyInstance
  (repeat' (first | (simp (maxDischargeDepth := 40) +contextual only [implies_true, whenRunning_inv, admRun_inv, destroyInstance_inv, h1]; done) | split | (simp only []; split)))

theorem modRng_inv (s : State) (f : Rng → Rng) (h0 : Kept Q s) : Kept Q (modRng s f) := by
  unfold modRng
  simp only [inv_mk, inv_clock, inv_mem, inv_wait, inv_queue, inv_shape, shape_ports, shape_wch, shape_lcs, shape_dgp, and_self, h0]

theorem drbgCount_inv (s : State) (i : Nat) (h0 : Kept Q s) : Kept Q (drbgCount s i) := by
  unfold drbgCount
  simp only [modRng_inv, h0]

theorem drbgDraw_inv (s : State) (i : Nat) (n : Nat) (h0 : Kept Q s) : Kept Q (drbgDraw s i n).2 := by
  unfold drbgDraw
  simp only [freshBytes_inv, drbgCount_inv, h0]

theorem rndDraw_inv (s : State) (k : Nat) (j : Job) (h0 : Kept Q s) : Kept Q (rndDraw s k j) := by
  unfold rndDraw
  split
  · have h1 := drbgDraw_inv s 15 (rndCount j) h0
    split
    rename_i e; rw [e] at h1
    exact endOffLadder_inv _ _ _ _ _ _ h1
  · rename_i n _
    have h1 := drbgDraw_inv s 15 n h0
    generalize drbgDraw s 15 n = p at h1 ⊢
    obtain ⟨b, s1⟩ := p
    dsimp only at h1 ⊢
    (repeat' (first | (simp (maxDischargeDepth := 40) only [inv_ite, endOffLadder_inv, mirror_inv, fillSlot_inv, h1]; done) | split))

theorem rndAsk_inv (s : State) (k : Nat) (j : Job) (h0 : Kept Q s) : Kept Q (rndAsk s k j) := by
  unfold rndAsk
  simp (maxDischargeDepth := 40) only [inv_ite, modRng_inv, h0]

theorem rndGo_inv (s : State) (k : Nat) (h0 : Kept Q s) : Kept Q (rndGo s k) := by
  unfold rndGo
  (repeat' (first | (simp (maxDischargeDepth := 40) only [rndDraw_inv, rndAsk_inv, h0]; done) | split))

theorem rndParse_inv (s : State) (k : Nat) (j : Job) (bad : Option Status) (h0 : Kept Q s) : Kept Q (rndParse s k j bad) := by
  unfold rndParse
  (repeat' (first | (simp (maxDischargeDepth := 40) only [rejectJob_inv, modJob_inv, reserveSlot_inv, h0]; done) | split))

theorem randomKeygen_inv (s : State) (k : Nat) (h0 : Kept Q s) : Kept Q (randomKeygen s k) := by
  unfold randomKeygen
  (repeat' (first | (simp (maxDischargeDepth := 40) only [rndGo_inv, rndParse_inv, h0]; done) | split))

theorem reseedOf_inv (s : State) (i : Nat) (h0 : Kept Q s) : Kept Q (reseedOf s i) := by
  unfold reseedOf
  simp only [modRng_inv, h0]

theorem grantBlock_inv (s : State) (i : Nat) (w : Option PrWaiter) (h0 : Kept Q s) : Kept Q (grantBlock s i w) := by
  unfold grantBlock
  (repeat' (first | (simp (maxDischargeDepth := 40) only [modRng_inv, reseedOf_inv, h0]; done) | split))

theorem randomTimeout_inv (s : State) (k : Nat) (h0 : Kept Q s) : Kept Q (randomTimeout s k) := by
  unfold randomTimeout
  (repeat' (first | (simp (maxDischargeDepth := 40) only [endOffLadder_inv, modRng_inv, h0]; done) | split))

theorem drbgReseed_inv (s : State) (i : Nat) (h0 : Kept Q s) : Kept Q (drbgReseed s i) := by
  unfold drbgReseed
  simp (maxDischargeDepth := 40) only [inv_ite, reseedOf_inv, grantBlock_inv, h0]

theorem execDrbgReseed_inv (i : Fin 16) (s : State) (h1 : Kept Q s) : OutInv Q (execDrbgReseed i s) := by
  unfold execDrbgReseed
  simp only [whenRunning_inv, drbgReseed_inv, h1]

theorem execRandomKeygen_inv (j : Nat) (s : State) (h1 : Kept Q s) : OutInv Q (execRandomKeygen j s) := by
  unfold execRandomKeygen
  simp only [whenRunning_inv, randomKeygen_inv, h1]

theorem randomBytes_inv (s : State) (k : Nat) (h0 : Kept Q s) : Kept Q (randomBytes s k) := by
  unfold randomBytes
  (repeat' (first | (simp (maxDischargeDepth := 40) only [rndGo_inv, rndParse_inv, h0]; done) | split))

theorem execRandomBytes_inv (j : Nat) (s : State) (h1 : Kept Q s) : OutInv Q (execRandomBytes j s) := by
  unfold execRandomBytes
  simp only [whenRunning_inv, randomBytes_inv, h1]

theorem mgmtRngTimeout_inv (s : State) (k : Nat) (h0 : Kept Q s) : Kept Q (mgmtRngTimeout s k) := by
  unfold mgmtRngTimeout
  (repeat' (first | (simp (maxDischargeDepth := 40) only [emit_inv, modRng_inv, h0]; done) | split))

theorem execMgmtRngTimeout_inv (k : Nat) (s : State) (h1 : Kept Q s) : OutInv Q (execMgmtRngTimeout k s) := by
  unfold execMgmtRngTimeout
  simp only [whenRunning_inv, mgmtRngTimeout_inv, h1]

theorem execDrbgStretchLimit_inv (x0 : Fin 16) (s : State) (h1 : Kept Q s) : OutInv Q (execDrbgStretchLimit x0 s) := by
  unfold execDrbgStretchLimit
  simp only [whenRunning_inv, h1]

theorem execRandomWaitTimeout_inv (j : Nat) (s : State) (h1 : Kept Q s) : OutInv Q (execRandomWaitTimeout j s) := by
  unfold execRandomWaitTimeout
  simp only [whenRunning_inv, randomTimeout_inv, h1]

theorem budgetAbort_inv (s : State) (k : Nat) (h0 : Kept Q s) : Kept Q (budgetAbort s k) := by
  unfold budgetAbort
  split <;> simp (maxDischargeDepth := 40) only [inv_mk, inv_clock, inv_mem, inv_wait, inv_queue, inv_shape, shape_ports, shape_portsMap, shape_wch, shape_lcs, shape_dgp, and_self, modJob_inv, leaveUnits_inv, h0]

theorem budgetsExhale_inv (s : State) (h0 : Kept Q s) : Kept Q (budgetsExhale s) := by
  unfold budgetsExhale
  (repeat' (first | (simp (maxDischargeDepth := 40) +contextual only [outInv_next, outInv_fault, outInv_ite, inv_ite, inv_foldl, inv_mk, inv_clock, inv_mem, inv_wait, inv_queue, inv_shape, shape_ports, shape_portsMap, shape_wch, shape_lcs, shape_dgp, and_self, implies_true, budgetAbort_inv, h0]; done) | split | (simp only []; split)))

end Sys2Proof.Laws
end

