-- ==== Sys2Proof/Laws/KeepReed.lean ====
section
/-! SUPPORT. That each function over the state keeps what every state of a run holds (`BlockInv` of Safety.lean): the reeds. -/

set_option linter.unusedSimpArgs false
set_option linter.unusedTactic false
set_option linter.unreachableTactic false
set_option linter.unusedVariables false

namespace Sys2Proof.Laws

open Sys2Proof Sys2Proof.Machine Sys2Proof.Safety

variable {Q : Keep}

theorem restoreCores_inv (k rid : Nat) (l : List Nat) (cs : List (Option ReedCore)) (s : State) (h : Kept Q s) : Kept Q (restoreCores k rid l cs s) := by
  induction l generalizing cs s with
  | nil => simpa [restoreCores] using h
  | cons r rs ih =>
    rcases cs with _ | ⟨_ | c, cs⟩
    · simpa [restoreCores] using h
    · exact ih _ _ h
    · exact ih _ _ (setReed_inv _ _ _ h)

theorem microTrap_inv (s : State) (r : Nat) (entry : Nat) (c : ReedCore) (pend : Option Resume) (run : ReedRun) (h0 : Kept Q s) : Kept Q (microTrap s r entry c pend run) := by
  unfold microTrap
  simp only [inv_mk, inv_clock, inv_mem, inv_wait, inv_queue, inv_shape, shape_ports, shape_wch, shape_lcs, shape_dgp, and_self, setReed_inv, h0]

theorem inhaleReed_inv (s : State) (r : Nat) (h0 : Kept Q s) : Kept Q (inhaleReed s r) := by
  unfold inhaleReed
  (repeat' (first | (simp (maxDischargeDepth := 40) only [inv_ite, setReed_inv, h0]; done) | split))

theorem inhaleReeds_inv (s : State) (h0 : Kept Q s) : Kept Q (inhaleReeds s) := by
  unfold inhaleReeds
  (repeat' (first | (simp (maxDischargeDepth := 40) +contextual only [inv_ite, inv_foldl, implies_true, inhaleReed_inv, h0]; done) | split | (simp only []; split)))

theorem startMau_inv (s : State) (j : Job) (h0 : Kept Q s) : Kept Q (startMau s j) := by
  unfold startMau
  (repeat' (first | (simp (maxDischargeDepth := 40) +contextual only [uncacheSlot_inv, modCluster_inv, h0]; done) | split | (simp only []; split)))

theorem startMoved_inv (s : State) (k : Nat) (cores : List (Option ReedCore)) (m : Mau) (h0 : Kept Q s) : Kept Q (startMoved s k cores m) := by
  unfold startMoved
  (repeat' (first | (simp (maxDischargeDepth := 40) only [modJob_inv, startMau_inv, modCluster_inv, restoreCores_inv, h0]; done) | split))

theorem flushFrames_inv (s : State) (r : Nat) (h0 : Kept Q s) : Kept Q (flushFrames s r) := by
  unfold flushFrames
  split <;> simp (maxDischargeDepth := 40) only [modJob_inv, h0]

theorem endMau_inv (s : State) (j : Job) (h0 : Kept Q s) : Kept Q (endMau s j) := by
  unfold endMau
  split <;> simp (maxDischargeDepth := 40) only [modCluster_inv, h0]

theorem endWith_inv (s : State) (r : Nat) (res : JobResult) (h0 : Kept Q s) : Kept Q (endWith s r res) := by
  unfold endWith
  (repeat' (first | (simp (maxDischargeDepth := 40) +contextual only [outInv_next, outInv_fault, outInv_ite, inv_ite, inv_foldl, inv_mk, inv_clock, inv_mem, inv_wait, inv_queue, inv_shape, shape_ports, shape_portsMap, shape_wch, shape_lcs, shape_dgp, and_self, implies_true, endMau_inv, postResult_inv, wipeReed_inv, h0]; done) | split | (simp only []; split)))

theorem kernelFault_inv (s : State) (r : Nat) (h0 : Kept Q s) : Kept Q (kernelFault s r) := by
  unfold kernelFault
  simp only [endWith_inv, h0]

theorem takeFault_inv (s : State) (r : Nat) (w : BitVec 192) (e : RFault) (h0 : Kept Q s) : Kept Q (takeFault s r w e) := by
  unfold takeFault
  simp (maxDischargeDepth := 40) only [inv_ite, kernelFault_inv, microTrap_inv, h0]

theorem faultNow_inv (s : State) (r : Nat) (cause : Nat) (h0 : Kept Q s) : Kept Q (faultNow s r cause) := by
  unfold faultNow
  simp only [inv_mk, inv_clock, inv_mem, inv_wait, inv_queue, inv_shape, shape_ports, shape_wch, shape_lcs, shape_dgp, and_self, takeFault_inv, h0]

theorem actField_inv (s : State) (r : Nat) (k : Nat) (after : State → State → State) (h0 : Kept Q s) (h3 : ∀ y0 : State, ∀ y1 : State, Kept Q y0 → Kept Q y1 → Kept Q (after y0 y1)) : Kept Q (actField s r k after) := by
  unfold actField
  (repeat' (first | (simp (maxDischargeDepth := 40) +contextual only [inv_mk, inv_clock, inv_mem, inv_wait, inv_queue, inv_shape, shape_ports, shape_portsMap, shape_wch, shape_lcs, shape_dgp, and_self, setReed_inv, h0, h3]; done) | split | (simp only []; split)))

theorem evictFrame_inv (s : State) (r : Nat) (i : Nat) (h0 : Kept Q s) : Kept Q (evictFrame s r i) := by
  unfold evictFrame
  (repeat' (first | (simp (maxDischargeDepth := 40) +contextual only [modJob_inv, modReed_inv, h0]; done) | split | (simp only []; split)))

theorem startStaging_inv (s : State) (r : Nat) (page : Nat) (h0 : Kept Q s) : Kept Q (startStaging s r page) := by
  unfold startStaging
  simp (maxDischargeDepth := 40) only [inv_ite, modReed_inv, evictFrame_inv, h0]

theorem csrwAfter_inv (r : Nat) (f : SField) (s : State) (h2 : Kept Q s) : Kept Q (csrwAfter r f s) := by
  unfold csrwAfter
  simp (maxDischargeDepth := 40) only [inv_ite, startStaging_inv, h2]

theorem scalAfter_inv (r : Nat) (w : BitVec 192) (s : State) (h2 : Kept Q s) : Kept Q (scalAfter r w s) := by
  unfold scalAfter
  simp (maxDischargeDepth := 40) only [inv_ite, csrwAfter_inv, h2]

theorem storeParity_inv (s : State) (r : Nat) (block : Nat) (h0 : Kept Q s) : Kept Q (storeParity s r block) := by
  unfold storeParity
  (repeat' (first | (simp (maxDischargeDepth := 40) only [inv_ite, inv_mk, inv_clock, inv_mem, inv_wait, inv_queue, inv_shape, shape_ports, shape_portsMap, shape_wch, shape_lcs, shape_dgp, and_self, modJob_inv, modCluster_inv, chargeCluster_inv, modReed_inv, muteCluster_inv, h0]; done) | split))

theorem stallFetch_inv (s : State) (r : Nat) (h0 : Kept Q s) : Kept Q (stallFetch s r) := by
  unfold stallFetch
  simp (maxDischargeDepth := 40) only [inv_ite, modReed_inv, storeParity_inv, h0]

theorem takeBusy_inv (s : State) (r : Nat) (entry : Nat) (w : BitVec 192) (h0 : Kept Q s) : Kept Q (takeBusy s r entry w) := by
  unfold takeBusy
  simp (maxDischargeDepth := 40) only [inv_ite, kernelFault_inv, microTrap_inv, h0]

theorem askFresh_inv (s : State) (r : Nat) (h0 : Kept Q s) : Kept Q (askFresh s r) := by
  unfold askFresh
  (repeat' (first | (simp (maxDischargeDepth := 40) only [modRng_inv, h0]; done) | split))

theorem noteCorrupt_inv (s : State) (r : Nat) (e : RFault) (h0 : Kept Q s) : Kept Q (noteCorrupt s r e) := by
  unfold noteCorrupt
  (repeat' (first | (simp (maxDischargeDepth := 40) only [markCorrupt_inv, h0]; done) | split))

theorem grantBellows_inv (s : State) (r : Nat) (h0 : Kept Q s) : Kept Q (grantBellows s r).2 := by
  unfold grantBellows
  simp only [freshChoice_inv, modCluster_inv, h0]

theorem issueWord_inv (s : State) (r : Nat) (iss : Issue) (w : BitVec 192) (h0 : Kept Q s) : Kept Q (issueWord s r iss w) := by
  unfold issueWord
  simp (maxDischargeDepth := 40) only [inv_ite, grantBellows_inv, setReed_inv, h0]

theorem openWord_inv (s : State) (r : Nat) (h0 : Kept Q s) : Kept Q (openWord s r) := by
  unfold openWord
  (repeat' (first | (simp (maxDischargeDepth := 40) +contextual only [inv_mk, inv_clock, inv_mem, inv_wait, inv_queue, inv_shape, shape_ports, shape_portsMap, shape_wch, shape_lcs, shape_dgp, and_self, takeFault_inv, noteCorrupt_inv, takeBusy_inv, microTrap_inv, askFresh_inv, setReed_inv, issueWord_inv, h0]; done) | split | (simp only []; split)))

theorem rowStep_inv (s : State) (r : Nat) (names : BitVec 192 → Bool) (act : State → State) (h0 : Kept Q s) (h3 : ∀ y0 : State, Kept Q y0 → Kept Q (act y0)) : Kept Q (rowStep s r names act) := by
  unfold rowStep
  simp (maxDischargeDepth := 40) only [inv_ite, stallFetch_inv, openWord_inv, h0, h3]

theorem scalStep_inv (s : State) (r : Fin 1024) (code : Nat) (f : SField) (h0 : Kept Q s) : Kept Q (scalStep s r code f) := by
  unfold scalStep
  (repeat' (first | (simp (maxDischargeDepth := 40) +contextual only [outInv_next, outInv_fault, outInv_ite, inv_ite, inv_foldl, inv_mk, inv_clock, inv_mem, inv_wait, inv_queue, inv_shape, shape_ports, shape_portsMap, shape_wch, shape_lcs, shape_dgp, and_self, implies_true, rowStep_inv, actField_inv, scalAfter_inv, h0]; done) | split | (simp only []; split)))

theorem nextWord_inv (s : State) (r : Nat) (c : ReedCore) (h0 : Kept Q s) : Kept Q (nextWord s r c) := by
  unfold nextWord
  simp only [setReed_inv, h0]

theorem seqStep_inv (s : State) (r : Nat) (names : BitVec 192 → Bool) (f : ReedCore → ReedCore → ReedCore) (run : ReedRun) (h0 : Kept Q s) : Kept Q (seqStep s r names f run) := by
  unfold seqStep
  (repeat' (first | (simp (maxDischargeDepth := 40) +contextual only [outInv_next, outInv_fault, outInv_ite, inv_ite, inv_foldl, inv_mk, inv_clock, inv_mem, inv_wait, inv_queue, inv_shape, shape_ports, shape_portsMap, shape_wch, shape_lcs, shape_dgp, and_self, implies_true, rowStep_inv, nextWord_inv, modReed_inv, h0]; done) | split | (simp only []; split)))

theorem touchJob_inv (s : State) (k : Nat) (h0 : Kept Q s) : Kept Q (touchJob s k) := by
  unfold touchJob
  simp only [modJob_inv, h0]

theorem reedParity_inv (s : State) (r : Nat) (h0 : Kept Q s) : Kept Q (reedParity s r) := by
  unfold reedParity
  (repeat' (first | (simp (maxDischargeDepth := 40) only [modReed_inv, touchJob_inv, chargeReed_inv, h0]; done) | split))

theorem withEvent_inv (s : State) (r : Fin 1024) (ev : WordEvent) (go : State → State) (h0 : Kept Q s) (h3 : ∀ y0 : State, Kept Q y0 → Kept Q (go y0)) : Kept Q (withEvent s r ev go) := by
  unfold withEvent
  (repeat' (first | (simp (maxDischargeDepth := 40) only [reedParity_inv, modCluster_inv, modReed_inv, h0, h3]; done) | split))

theorem execWaiti_inv (r : Fin 1024) (f : SeqRow) (s : State) (h2 : Kept Q s) : OutInv Q (execWaiti r f s) := by
  unfold execWaiti
  (repeat' (first | (simp (maxDischargeDepth := 40) +contextual only [outInv_next, outInv_fault, outInv_ite, inv_ite, inv_foldl, inv_mk, inv_clock, inv_mem, inv_wait, inv_queue, inv_shape, shape_ports, shape_portsMap, shape_wch, shape_lcs, shape_dgp, and_self, implies_true, whenRunning_inv, withEvent_inv, seqStep_inv, h2]; done) | split | (simp only []; split)))

theorem execInc_inv (r : Fin 1024) (x1 : QField) (ev : WordEvent) (s : State) (h3 : Kept Q s) : OutInv Q (execInc r x1 ev s) := by
  unfold execInc
  (repeat' (first | (simp (maxDischargeDepth := 40) +contextual only [outInv_next, outInv_fault, outInv_ite, inv_ite, inv_foldl, inv_mk, inv_clock, inv_mem, inv_wait, inv_queue, inv_shape, shape_ports, shape_portsMap, shape_wch, shape_lcs, shape_dgp, and_self, implies_true, whenRunning_inv, withEvent_inv, seqStep_inv, h3]; done) | split | (simp only []; split)))

theorem awaitReplay_inv (s : State) (k : Nat) (h0 : Kept Q s) : Kept Q (awaitReplay s k) := by
  unfold awaitReplay
  split <;> simp (maxDischargeDepth := 40) only [modJob_inv, wipeUnits_inv, h0]

theorem endKernel_inv (s : State) (r : Nat) (h0 : Kept Q s) : Kept Q (endKernel s r) := by
  unfold endKernel
  (repeat' (first | (simp (maxDischargeDepth := 40) only [inv_ite, inv_mk, inv_clock, inv_mem, inv_wait, inv_queue, inv_shape, shape_ports, shape_portsMap, shape_wch, shape_lcs, shape_dgp, and_self, endWith_inv, awaitReplay_inv, wipeReed_inv, h0]; done) | split))

theorem execBranch_inv (r : Fin 1024) (f : SeqRow) (s : State) (h2 : Kept Q s) : OutInv Q (execBranch r f s) := by
  unfold execBranch
  (repeat' (first | (simp (maxDischargeDepth := 40) +contextual only [outInv_next, outInv_fault, outInv_ite, inv_ite, inv_foldl, inv_mk, inv_clock, inv_mem, inv_wait, inv_queue, inv_shape, shape_ports, shape_portsMap, shape_wch, shape_lcs, shape_dgp, and_self, implies_true, whenRunning_inv, withEvent_inv, seqStep_inv, h2]; done) | split | (simp only []; split)))

theorem endState_inv (s : State) (c : ReedCore) (j : Job) (h0 : Kept Q s) : Kept Q (endState s c j).2.2 := by
  unfold endState
  split <;> simp (maxDischargeDepth := 40) only [libraryResult_inv, h0]

theorem endRoutine_inv (s : State) (r : Nat) (h0 : Kept Q s) : Kept Q (endRoutine s r) := by
  unfold endRoutine
  (repeat' (first | (simp (maxDischargeDepth := 40) +contextual only [outInv_next, outInv_fault, outInv_ite, inv_ite, inv_foldl, inv_mk, inv_clock, inv_mem, inv_wait, inv_queue, inv_shape, shape_ports, shape_portsMap, shape_wch, shape_lcs, shape_dgp, and_self, implies_true, wipeReed_inv, flushFrames_inv, endState_inv, endWith_inv, faultNow_inv, h0]; done) | split | (simp only []; split)))

theorem endStep_inv (s : State) (r : Nat) (h0 : Kept Q s) : Kept Q (endStep s r) := by
  unfold endStep
  (repeat' (first | (simp (maxDischargeDepth := 40) +contextual only [outInv_next, outInv_fault, outInv_ite, inv_ite, inv_foldl, inv_mk, inv_clock, inv_mem, inv_wait, inv_queue, inv_shape, shape_ports, shape_portsMap, shape_wch, shape_lcs, shape_dgp, and_self, implies_true, rowStep_inv, endRoutine_inv, endKernel_inv, h0]; done) | split | (simp only []; split)))

theorem bellParity_inv (s : State) (c : Nat) (h0 : Kept Q s) : Kept Q (bellParity s c) := by
  unfold bellParity
  (repeat' (first | (simp (maxDischargeDepth := 40) only [modCluster_inv, modJob_inv, touchJob_inv, chargeCluster_inv, h0]; done) | split))

theorem execBellCollect_inv (c : Fin 64) (parity : Bool) (s : State) (h2 : Kept Q s) : OutInv Q (execBellCollect c parity s) := by
  unfold execBellCollect
  simp (maxDischargeDepth := 40) only [inv_ite, whenRunning_inv, bellParity_inv, bellVisit_inv, h2]

theorem actLc_inv (s : State) (r : Nat) (h0 : Kept Q s) : Kept Q (actLc s r) := by
  unfold actLc
  (repeat' (first | (simp (maxDischargeDepth := 40) +contextual only [setReed_inv, h0]; done) | split | (simp only []; split)))

theorem lcStep_inv (s : State) (r : Fin 1024) (code : Nat) (f : LField) (h0 : Kept Q s) : Kept Q (lcStep s r code f) := by
  unfold lcStep
  (repeat' (first | (simp (maxDischargeDepth := 40) +contextual only [outInv_next, outInv_fault, outInv_ite, inv_ite, inv_foldl, inv_mk, inv_clock, inv_mem, inv_wait, inv_queue, inv_shape, shape_ports, shape_portsMap, shape_wch, shape_lcs, shape_dgp, and_self, implies_true, rowStep_inv, actLc_inv, h0]; done) | split | (simp only []; split)))

theorem execLcSetImmediate_inv (r : Fin 1024) (f : LField) (s : State) (h2 : Kept Q s) : OutInv Q (execLcSetImmediate r f s) := by
  unfold execLcSetImmediate
  simp only [whenRunning_inv, lcStep_inv, h2]

theorem execLcClear_inv (r : Fin 1024) (f : LField) (s : State) (h2 : Kept Q s) : OutInv Q (execLcClear r f s) := by
  unfold execLcClear
  simp only [whenRunning_inv, lcStep_inv, h2]

theorem execCall_inv (r : Fin 1024) (f : SeqRow) (s : State) (h2 : Kept Q s) : OutInv Q (execCall r f s) := by
  unfold execCall
  (repeat' (first | (simp (maxDischargeDepth := 40) +contextual only [outInv_next, outInv_fault, outInv_ite, inv_ite, inv_foldl, inv_mk, inv_clock, inv_mem, inv_wait, inv_queue, inv_shape, shape_ports, shape_portsMap, shape_wch, shape_lcs, shape_dgp, and_self, implies_true, whenRunning_inv, withEvent_inv, seqStep_inv, h2]; done) | split | (simp only []; split)))

theorem tretStep_inv (s : State) (r : Nat) (f : QField) (h0 : Kept Q s) : Kept Q (tretStep s r f) := by
  unfold tretStep
  (repeat' (first | (simp (maxDischargeDepth := 40) +contextual only [outInv_next, outInv_fault, outInv_ite, inv_ite, inv_foldl, inv_mk, inv_clock, inv_mem, inv_wait, inv_queue, inv_shape, shape_ports, shape_portsMap, shape_wch, shape_lcs, shape_dgp, and_self, implies_true, rowStep_inv, setReed_inv, h0]; done) | split | (simp only []; split)))

theorem exhaleWord_inv (s : State) (r : Nat) (h0 : Kept Q s) : Kept Q (exhaleWord s r).2 := by
  unfold exhaleWord
  (repeat' (first | (simp (maxDischargeDepth := 40) +contextual only [outInv_next, outInv_fault, outInv_ite, inv_ite, inv_foldl, inv_mk, inv_clock, inv_mem, inv_wait, inv_queue, inv_shape, shape_ports, shape_portsMap, shape_wch, shape_lcs, shape_dgp, and_self, implies_true, actLc_inv, actField_inv, scalAfter_inv, h0]; done) | split | (simp only []; split)))

theorem exhaleReed_inv (s : State) (r : Nat) (h0 : Kept Q s) : Kept Q (exhaleReed s r) := by
  unfold exhaleReed
  dsimp only
  split
  · exact h0
  · refine inv_ite h0 (inv_ite (awaitReplay_inv _ _ h0) ?_)
    have h1 := exhaleWord_inv s r h0
    generalize exhaleWord s r = w at h1 ⊢
    refine inv_ite (microTrap_inv _ _ _ _ _ _ h1) (setReed_inv _ _ _ ?_)
    simp only [inv_mk, inv_clock, inv_mem, inv_wait, inv_queue, inv_shape, and_self, h1]

theorem stageDone_inv (s : State) (r : Nat) (h0 : Kept Q s) : Kept Q (stageDone s r) := by
  unfold stageDone
  (repeat' (first | (simp (maxDischargeDepth := 40) +contextual only [modReed_inv, evictFrame_inv, h0]; done) | split | (simp only []; split)))

theorem execWindowStageDone_inv (r : Access (Fin 1024)) (s : State) (h1 : Kept Q s) : OutInv Q (execWindowStageDone r s) := by
  unfold execWindowStageDone
  simp (maxDischargeDepth := 40) only [inv_ite, whenRunning_inv, reedParity_inv, stageDone_inv, h1]

theorem execLcSetScalar_inv (r : Fin 1024) (f : LField) (s : State) (h2 : Kept Q s) : OutInv Q (execLcSetScalar r f s) := by
  unfold execLcSetScalar
  simp only [whenRunning_inv, lcStep_inv, h2]

theorem startReed_inv (hdr : Bytes) (j : Job) (k : Nat) (entry : Nat) (bad : Bool) (s : State) (r : Nat) (h5 : Kept Q s) : Kept Q (startReed hdr j k entry bad s r) := by
  unfold startReed
  simp (maxDischargeDepth := 40) only [inv_ite, setReed_inv, faultNow_inv, h5]

theorem markMaterials_inv (s : State) (j : Job) (h0 : Kept Q s) : Kept Q (markMaterials s j) := by
  unfold markMaterials
  (repeat' (first | (simp (maxDischargeDepth := 40) +contextual only [outInv_next, outInv_fault, outInv_ite, inv_ite, inv_foldl, inv_mk, inv_clock, inv_mem, inv_wait, inv_queue, inv_shape, shape_ports, shape_portsMap, shape_wch, shape_lcs, shape_dgp, and_self, implies_true, markCorrupt_inv, h0]; done) | split | (simp only []; split)))

theorem startFresh_inv (s : State) (k : Nat) (h0 : Kept Q s) : Kept Q (startFresh s k) := by
  unfold startFresh
  (repeat' (first | (simp (maxDischargeDepth := 40) +contextual only [outInv_next, outInv_fault, outInv_ite, inv_ite, inv_foldl, inv_mk, inv_clock, inv_mem, inv_wait, inv_queue, inv_shape, shape_ports, shape_portsMap, shape_wch, shape_lcs, shape_dgp, and_self, implies_true, markMaterials_inv, startMau_inv, modJob_inv, startReed_inv, h0]; done) | split | (simp only []; split)))

theorem replayStart_inv (s : State) (k : Nat) (h0 : Kept Q s) : Kept Q (replayStart s k) := by
  unfold replayStart
  (repeat' (first | (simp (maxDischargeDepth := 40) only [startFresh_inv, modJob_inv, h0]; done) | split))

theorem execJobReplayStart_inv (j : Nat) (s : State) (h1 : Kept Q s) : OutInv Q (execJobReplayStart j s) := by
  unfold execJobReplayStart
  simp only [whenRunning_inv, replayStart_inv, h1]

theorem reloadDone_inv (s : State) (c : Nat) (block : Nat) (h0 : Kept Q s) : Kept Q (reloadDone s c block) := by
  unfold reloadDone
  simp (maxDischargeDepth := 40) only [inv_ite, inv_mk, inv_clock, inv_mem, inv_wait, inv_queue, inv_shape, shape_ports, shape_wch, shape_lcs, shape_dgp, and_self, modCluster_inv, h0]

theorem execControlStoreReloadDone_inv (c : Fin 64) (block : BitVec 8) (s : State) (h2 : Kept Q s) : OutInv Q (execControlStoreReloadDone c block s) := by
  unfold execControlStoreReloadDone
  simp only [whenRunning_inv, reloadDone_inv, h2]

theorem exhaleReeds_inv (s : State) (h0 : Kept Q s) : Kept Q (exhaleReeds s) := by
  unfold exhaleReeds
  (repeat' (first | (simp (maxDischargeDepth := 40) +contextual only [outInv_next, outInv_fault, outInv_ite, inv_ite, inv_foldl, inv_mk, inv_clock, inv_mem, inv_wait, inv_queue, inv_shape, shape_ports, shape_portsMap, shape_wch, shape_lcs, shape_dgp, and_self, implies_true, exhaleReed_inv, h0]; done) | split | (simp only []; split)))

theorem memStep_inv (s : State) (r : Fin 1024) (code : Nat) (f : MField) (after : State → State → State) (h0 : Kept Q s) (h4 : ∀ y0 : State, ∀ y1 : State, Kept Q y0 → Kept Q y1 → Kept Q (after y0 y1)) : Kept Q (memStep s r code f after) := by
  unfold memStep
  (repeat' (first | (simp (maxDischargeDepth := 40) +contextual only [outInv_next, outInv_fault, outInv_ite, inv_ite, inv_foldl, inv_mk, inv_clock, inv_mem, inv_wait, inv_queue, inv_shape, shape_ports, shape_portsMap, shape_wch, shape_lcs, shape_dgp, and_self, implies_true, rowStep_inv, actField_inv, h0, h4]; done) | split | (simp only []; split)))

theorem execJump_inv (r : Fin 1024) (f : SeqRow) (s : State) (h2 : Kept Q s) : OutInv Q (execJump r f s) := by
  unfold execJump
  (repeat' (first | (simp (maxDischargeDepth := 40) +contextual only [outInv_next, outInv_fault, outInv_ite, inv_ite, inv_foldl, inv_mk, inv_clock, inv_mem, inv_wait, inv_queue, inv_shape, shape_ports, shape_portsMap, shape_wch, shape_lcs, shape_dgp, and_self, implies_true, whenRunning_inv, withEvent_inv, seqStep_inv, h2]; done) | split | (simp only []; split)))

theorem execDebugRelease_inv (r : Fin 1024) (s : State) (h1 : Kept Q s) : OutInv Q (execDebugRelease r s) := by
  unfold execDebugRelease
  simp (maxDischargeDepth := 40) only [inv_ite, whenRunning_inv, modReed_inv, h1]

theorem onlyReed_inv (x0 : State) (x1 : State) (h0 : Kept Q x0) (h1 : Kept Q x1) : Kept Q (onlyReed x0 x1) := by
  unfold onlyReed
  simp only [h0, h1]

theorem vecStep_inv (s : State) (r : Fin 1024) (code : Nat) (f : VField) (h0 : Kept Q s) : Kept Q (vecStep s r code f) := by
  unfold vecStep
  (repeat' (first | (simp (maxDischargeDepth := 40) +contextual only [outInv_next, outInv_fault, outInv_ite, inv_ite, inv_foldl, inv_mk, inv_clock, inv_mem, inv_wait, inv_queue, inv_shape, shape_ports, shape_portsMap, shape_wch, shape_lcs, shape_dgp, and_self, implies_true, rowStep_inv, actField_inv, onlyReed_inv, h0]; done) | split | (simp only []; split)))

theorem execTret_inv (r : Fin 1024) (f : SeqRow) (s : State) (h2 : Kept Q s) : OutInv Q (execTret r f s) := by
  unfold execTret
  (repeat' (first | (simp (maxDischargeDepth := 40) +contextual only [outInv_next, outInv_fault, outInv_ite, inv_ite, inv_foldl, inv_mk, inv_clock, inv_mem, inv_wait, inv_queue, inv_shape, shape_ports, shape_portsMap, shape_wch, shape_lcs, shape_dgp, and_self, implies_true, whenRunning_inv, withEvent_inv, tretStep_inv, h2]; done) | split | (simp only []; split)))

theorem execEndJob_inv (r : Fin 1024) (ev : WordEvent) (s : State) (h2 : Kept Q s) : OutInv Q (execEndJob r ev s) := by
  unfold execEndJob
  (repeat' (first | (simp (maxDischargeDepth := 40) +contextual only [outInv_next, outInv_fault, outInv_ite, inv_ite, inv_foldl, inv_mk, inv_clock, inv_mem, inv_wait, inv_queue, inv_shape, shape_ports, shape_portsMap, shape_wch, shape_lcs, shape_dgp, and_self, implies_true, whenRunning_inv, withEvent_inv, endStep_inv, h2]; done) | split | (simp only []; split)))

theorem execRet_inv (r : Fin 1024) (f : SeqRow) (s : State) (h2 : Kept Q s) : OutInv Q (execRet r f s) := by
  unfold execRet
  (repeat' (first | (simp (maxDischargeDepth := 40) +contextual only [outInv_next, outInv_fault, outInv_ite, inv_ite, inv_foldl, inv_mk, inv_clock, inv_mem, inv_wait, inv_queue, inv_shape, shape_ports, shape_portsMap, shape_wch, shape_lcs, shape_dgp, and_self, implies_true, whenRunning_inv, withEvent_inv, seqStep_inv, h2]; done) | split | (simp only []; split)))

theorem mauRun_inv (s : State) (c : Fin 64) (code : Nat) (f : Mau → Nat → MauOp → Mau) (h0 : Kept Q s) : Kept Q (mauRun s c code f) := by
  unfold mauRun
  (repeat' (first | (simp (maxDischargeDepth := 40) +contextual only [inv_mk, inv_clock, inv_mem, inv_wait, inv_queue, inv_shape, shape_ports, shape_wch, shape_lcs, shape_dgp, and_self, modCluster_inv, h0]; done) | split | (simp only []; split)))

theorem execPadd_inv (c : Fin 64) (s : State) (h1 : Kept Q s) : OutInv Q (execPadd c s) := by
  unfold execPadd
  simp only [whenRunning_inv, mauRun_inv, h1]

theorem execMmul_inv (c : Fin 64) (s : State) (h1 : Kept Q s) : OutInv Q (execMmul c s) := by
  unfold execMmul
  simp only [whenRunning_inv, mauRun_inv, h1]

theorem mauDone_inv (s : State) (c : Nat) (parity : Bool) (h0 : Kept Q s) : Kept Q (mauDone s c parity) := by
  unfold mauDone
  (repeat' (first | (simp (maxDischargeDepth := 40) only [inv_ite, modCluster_inv, awaitReplay_inv, touchJob_inv, chargeMau_inv, h0]; done) | split))

theorem execMauOperationDone_inv (c : Fin 64) (parity : Bool) (s : State) (h2 : Kept Q s) : OutInv Q (execMauOperationDone c parity s) := by
  unfold execMauOperationDone
  simp only [whenRunning_inv, mauDone_inv, h2]

theorem belStep_inv (s : State) (r : Fin 1024) (code : Nat) (f : BField) (h0 : Kept Q s) : Kept Q (belStep s r code f) := by
  unfold belStep
  (repeat' (first | (simp (maxDischargeDepth := 40) +contextual only [outInv_next, outInv_fault, outInv_ite, inv_ite, inv_foldl, inv_mk, inv_clock, inv_mem, inv_wait, inv_queue, inv_shape, shape_ports, shape_portsMap, shape_wch, shape_lcs, shape_dgp, and_self, implies_true, rowStep_inv, actField_inv, onlyReed_inv, h0]; done) | split | (simp only []; split)))

theorem brecvParity_inv (s : State) (r : Nat) (h0 : Kept Q s) : Kept Q (brecvParity s r) := by
  unfold brecvParity
  split <;> simp (maxDischargeDepth := 40) only [chargeBellows_inv, modReed_inv, touchJob_inv, h0]

theorem execBrecv_inv (r : Fin 1024) (f : BField) (parity : Bool) (s : State) (h3 : Kept Q s) : OutInv Q (execBrecv r f parity s) := by
  unfold execBrecv
  (repeat' (first | (simp (maxDischargeDepth := 40) +contextual only [outInv_next, outInv_fault, outInv_ite, inv_ite, inv_foldl, inv_mk, inv_clock, inv_mem, inv_wait, inv_queue, inv_shape, shape_ports, shape_portsMap, shape_wch, shape_lcs, shape_dgp, and_self, implies_true, whenRunning_inv, rowStep_inv, brecvParity_inv, belStep_inv, h3]; done) | split | (simp only []; split)))

theorem execBsha256_inv (r : Fin 1024) (f : BField) (s : State) (h2 : Kept Q s) : OutInv Q (execBsha256 r f s) := by
  unfold execBsha256
  simp only [whenRunning_inv, belStep_inv, h2]

theorem rndrdAfter_inv (r : Nat) (t0 : State) (t1 : State) (h1 : Kept Q t0) (h2 : Kept Q t1) : Kept Q (rndrdAfter r t0 t1) := by
  unfold rndrdAfter
  split <;> simp (maxDischargeDepth := 40) only [modJob_inv, modRng_inv, drbgCount_inv, h1, h2]

theorem execRndrd_inv (r : Fin 1024) (f : MField) (s : State) (h2 : Kept Q s) : OutInv Q (execRndrd r f s) := by
  unfold execRndrd
  (repeat' (first | (simp (maxDischargeDepth := 40) +contextual only [outInv_next, outInv_fault, outInv_ite, inv_ite, inv_foldl, inv_mk, inv_clock, inv_mem, inv_wait, inv_queue, inv_shape, shape_ports, shape_portsMap, shape_wch, shape_lcs, shape_dgp, and_self, implies_true, whenRunning_inv, memStep_inv, rndrdAfter_inv, h2]; done) | split | (simp only []; split)))

theorem execMskrd_inv (r : Fin 1024) (f : MField) (s : State) (h2 : Kept Q s) : OutInv Q (execMskrd r f s) := by
  unfold execMskrd
  (repeat' (first | (simp (maxDischargeDepth := 40) +contextual only [outInv_next, outInv_fault, outInv_ite, inv_ite, inv_foldl, inv_mk, inv_clock, inv_mem, inv_wait, inv_queue, inv_shape, shape_ports, shape_portsMap, shape_wch, shape_lcs, shape_dgp, and_self, implies_true, whenRunning_inv, memStep_inv, onlyReed_inv, h2]; done) | split | (simp only []; split)))

theorem execSetmod_inv (c : Fin 64) (s : State) (h1 : Kept Q s) : OutInv Q (execSetmod c s) := by
  unfold execSetmod
  simp only [whenRunning_inv, mauRun_inv, h1]

theorem mauStep_inv (s : State) (r : Fin 1024) (code : Nat) (f : AField) (after : ReedCore → Mau → Mau) (h0 : Kept Q s) : Kept Q (mauStep s r code f after) := by
  unfold mauStep
  refine rowStep_inv _ _ _ _ h0 (fun t ht => actField_inv _ _ _ _ ht (fun t0 t1 _ h => ?_))
  split
  · exact modCluster_inv _ _ _ h
  · exact h

theorem mgetParity_inv (s : State) (r : Nat) (h0 : Kept Q s) : Kept Q (mgetParity s r) := by
  unfold mgetParity
  (repeat' (first | (simp (maxDischargeDepth := 40) only [awaitReplay_inv, touchJob_inv, chargeMau_inv, h0]; done) | split))

theorem execMget_inv (r : Fin 1024) (f : Access AField) (s : State) (h2 : Kept Q s) : OutInv Q (execMget r f s) := by
  unfold execMget
  (repeat' (first | (simp (maxDischargeDepth := 40) +contextual only [outInv_next, outInv_fault, outInv_ite, inv_ite, inv_foldl, inv_mk, inv_clock, inv_mem, inv_wait, inv_queue, inv_shape, shape_ports, shape_portsMap, shape_wch, shape_lcs, shape_dgp, and_self, implies_true, whenRunning_inv, rowStep_inv, mgetParity_inv, mauStep_inv, h2]; done) | split | (simp only []; split)))

theorem execMexp_inv (c : Fin 64) (s : State) (h1 : Kept Q s) : OutInv Q (execMexp c s) := by
  unfold execMexp
  simp only [whenRunning_inv, mauRun_inv, h1]

theorem execMput_inv (r : Fin 1024) (f : AField) (s : State) (h2 : Kept Q s) : OutInv Q (execMput r f s) := by
  unfold execMput
  simp only [whenRunning_inv, mauStep_inv, h2]

theorem execWipe_inv (c : Fin 64) (s : State) (h1 : Kept Q s) : OutInv Q (execWipe c s) := by
  unfold execWipe
  simp only [whenRunning_inv, mauRun_inv, h1]

theorem execOncurve_inv (c : Fin 64) (s : State) (h1 : Kept Q s) : OutInv Q (execOncurve c s) := by
  unfold execOncurve
  simp only [whenRunning_inv, mauRun_inv, h1]

theorem cacheKey_inv (s : State) (c : Nat) (e : Nat × Nat) (h0 : Kept Q s) : Kept Q (cacheKey s c e) := by
  unfold cacheKey
  simp only [modCluster_inv, h0]

theorem execKeyrd_inv (r : Fin 1024) (f : MField) (s : State) (h2 : Kept Q s) : OutInv Q (execKeyrd r f s) := by
  unfold execKeyrd
  refine whenRunning_inv _ _ h2 (memStep_inv _ _ _ _ _ h2 (fun t0 t1 _ h => ?_))
  split
  · exact cacheKey_inv _ _ _ h
  · exact h

theorem execCheckcurve_inv (c : Fin 64) (s : State) (h1 : Kept Q s) : OutInv Q (execCheckcurve c s) := by
  unfold execCheckcurve
  simp only [whenRunning_inv, mauRun_inv, h1]

theorem execMrun_inv (r : Fin 1024) (f : AField) (s : State) (h2 : Kept Q s) : OutInv Q (execMrun r f s) := by
  unfold execMrun
  simp only [whenRunning_inv, mauStep_inv, h2]

theorem execMr_inv (c : Fin 64) (s : State) (h1 : Kept Q s) : OutInv Q (execMr c s) := by
  unfold execMr
  simp only [whenRunning_inv, mauRun_inv, h1]

theorem execBsha512_inv (r : Fin 1024) (f : BField) (s : State) (h2 : Kept Q s) : OutInv Q (execBsha512 r f s) := by
  unfold execBsha512
  simp only [whenRunning_inv, belStep_inv, h2]

theorem resultReady_inv (s : State) (r : Nat) (h0 : Kept Q s) : Kept Q (resultReady s r) := by
  unfold resultReady
  simp (maxDischargeDepth := 40) only [inv_ite, modReed_inv, h0]

theorem execMinv_inv (c : Fin 64) (s : State) (h1 : Kept Q s) : OutInv Q (execMinv c s) := by
  unfold execMinv
  simp only [whenRunning_inv, mauRun_inv, h1]

theorem execMauSmul_inv (c : Fin 64) (s : State) (h1 : Kept Q s) : OutInv Q (execMauSmul c s) := by
  unfold execMauSmul
  simp only [whenRunning_inv, mauRun_inv, h1]

theorem execBkeccak_inv (r : Fin 1024) (f : BField) (s : State) (h2 : Kept Q s) : OutInv Q (execBkeccak r f s) := by
  unfold execBkeccak
  simp only [whenRunning_inv, belStep_inv, h2]

theorem execMsub_inv (c : Fin 64) (s : State) (h1 : Kept Q s) : OutInv Q (execMsub c s) := by
  unfold execMsub
  simp only [whenRunning_inv, mauRun_inv, h1]

theorem execBellowsResultReady_inv (r : Fin 1024) (s : State) (h1 : Kept Q s) : OutInv Q (execBellowsResultReady r s) := by
  unfold execBellowsResultReady
  simp (maxDischargeDepth := 40) only [inv_ite, whenRunning_inv, resultReady_inv, h1]

theorem execMexps_inv (c : Fin 64) (s : State) (h1 : Kept Q s) : OutInv Q (execMexps c s) := by
  unfold execMexps
  simp only [whenRunning_inv, mauRun_inv, h1]

theorem execMadd_inv (c : Fin 64) (s : State) (h1 : Kept Q s) : OutInv Q (execMadd c s) := by
  unfold execMadd
  simp only [whenRunning_inv, mauRun_inv, h1]

theorem execCurve_inv (c : Fin 64) (s : State) (h1 : Kept Q s) : OutInv Q (execCurve c s) := by
  unfold execCurve
  simp only [whenRunning_inv, mauRun_inv, h1]

theorem execSmulg_inv (c : Fin 64) (s : State) (h1 : Kept Q s) : OutInv Q (execSmulg c s) := by
  unfold execSmulg
  simp only [whenRunning_inv, mauRun_inv, h1]

theorem execVadd_inv (r : Fin 1024) (f : VField) (s : State) (h2 : Kept Q s) : OutInv Q (execVadd r f s) := by
  unfold execVadd
  simp only [whenRunning_inv, vecStep_inv, h2]

theorem execVsts_inv (r : Fin 1024) (f : MField) (s : State) (h2 : Kept Q s) : OutInv Q (execVsts r f s) := by
  unfold execVsts
  (repeat' (first | (simp (maxDischargeDepth := 40) +contextual only [outInv_next, outInv_fault, outInv_ite, inv_ite, inv_foldl, inv_mk, inv_clock, inv_mem, inv_wait, inv_queue, inv_shape, shape_ports, shape_portsMap, shape_wch, shape_lcs, shape_dgp, and_self, implies_true, whenRunning_inv, memStep_inv, onlyReed_inv, h2]; done) | split | (simp only []; split)))

theorem execVclmulhi_inv (r : Fin 1024) (f : VField) (s : State) (h2 : Kept Q s) : OutInv Q (execVclmulhi r f s) := by
  unfold execVclmulhi
  simp only [whenRunning_inv, vecStep_inv, h2]

theorem execCsrw_inv (r : Fin 1024) (f : SField) (s : State) (h2 : Kept Q s) : OutInv Q (execCsrw r f s) := by
  unfold execCsrw
  simp only [whenRunning_inv, scalStep_inv, h2]

theorem execVst_inv (r : Fin 1024) (f : MField) (s : State) (h2 : Kept Q s) : OutInv Q (execVst r f s) := by
  unfold execVst
  (repeat' (first | (simp (maxDischargeDepth := 40) +contextual only [outInv_next, outInv_fault, outInv_ite, inv_ite, inv_foldl, inv_mk, inv_clock, inv_mem, inv_wait, inv_queue, inv_shape, shape_ports, shape_portsMap, shape_wch, shape_lcs, shape_dgp, and_self, implies_true, whenRunning_inv, memStep_inv, onlyReed_inv, h2]; done) | split | (simp only []; split)))

theorem execVmullo_inv (r : Fin 1024) (f : VField) (s : State) (h2 : Kept Q s) : OutInv Q (execVmullo r f s) := by
  unfold execVmullo
  simp only [whenRunning_inv, vecStep_inv, h2]

theorem execVpack_inv (r : Fin 1024) (f : VField) (s : State) (h2 : Kept Q s) : OutInv Q (execVpack r f s) := by
  unfold execVpack
  simp only [whenRunning_inv, vecStep_inv, h2]

theorem execSor_inv (r : Fin 1024) (f : SField) (s : State) (h2 : Kept Q s) : OutInv Q (execSor r f s) := by
  unfold execSor
  simp only [whenRunning_inv, scalStep_inv, h2]

theorem execMand_inv (r : Fin 1024) (f : VField) (s : State) (h2 : Kept Q s) : OutInv Q (execMand r f s) := by
  unfold execMand
  simp only [whenRunning_inv, vecStep_inv, h2]

theorem execVcmplt_inv (r : Fin 1024) (f : VField) (s : State) (h2 : Kept Q s) : OutInv Q (execVcmplt r f s) := by
  unfold execVcmplt
  simp only [whenRunning_inv, vecStep_inv, h2]

theorem execSli_inv (r : Fin 1024) (f : SField) (s : State) (h2 : Kept Q s) : OutInv Q (execSli r f s) := by
  unfold execSli
  simp only [whenRunning_inv, scalStep_inv, h2]

theorem execVibflyi_inv (r : Fin 1024) (f : VField) (s : State) (h2 : Kept Q s) : OutInv Q (execVibflyi r f s) := by
  unfold execVibflyi
  simp only [whenRunning_inv, vecStep_inv, h2]

theorem execMpopc_inv (r : Fin 1024) (f : VField) (s : State) (h2 : Kept Q s) : OutInv Q (execMpopc r f s) := by
  unfold execMpopc
  simp only [whenRunning_inv, vecStep_inv, h2]

theorem execSld_inv (r : Fin 1024) (f : MField) (s : State) (h2 : Kept Q s) : OutInv Q (execSld r f s) := by
  unfold execSld
  (repeat' (first | (simp (maxDischargeDepth := 40) +contextual only [outInv_next, outInv_fault, outInv_ite, inv_ite, inv_foldl, inv_mk, inv_clock, inv_mem, inv_wait, inv_queue, inv_shape, shape_ports, shape_portsMap, shape_wch, shape_lcs, shape_dgp, and_self, implies_true, whenRunning_inv, memStep_inv, onlyReed_inv, h2]; done) | split | (simp only []; split)))

theorem execSxor_inv (r : Fin 1024) (f : SField) (s : State) (h2 : Kept Q s) : OutInv Q (execSxor r f s) := by
  unfold execSxor
  simp only [whenRunning_inv, scalStep_inv, h2]

theorem execVperm_inv (r : Fin 1024) (f : VField) (s : State) (h2 : Kept Q s) : OutInv Q (execVperm r f s) := by
  unfold execVperm
  simp only [whenRunning_inv, vecStep_inv, h2]

theorem execVor_inv (r : Fin 1024) (f : VField) (s : State) (h2 : Kept Q s) : OutInv Q (execVor r f s) := by
  unfold execVor
  simp only [whenRunning_inv, vecStep_inv, h2]

theorem execVsrl_inv (r : Fin 1024) (f : VField) (s : State) (h2 : Kept Q s) : OutInv Q (execVsrl r f s) := by
  unfold execVsrl
  simp only [whenRunning_inv, vecStep_inv, h2]

theorem execVbflyi_inv (r : Fin 1024) (f : VField) (s : State) (h2 : Kept Q s) : OutInv Q (execVbflyi r f s) := by
  unfold execVbflyi
  simp only [whenRunning_inv, vecStep_inv, h2]

theorem execVandn_inv (r : Fin 1024) (f : VField) (s : State) (h2 : Kept Q s) : OutInv Q (execVandn r f s) := by
  unfold execVandn
  simp only [whenRunning_inv, vecStep_inv, h2]

theorem execVrej_inv (r : Fin 1024) (f : VField) (s : State) (h2 : Kept Q s) : OutInv Q (execVrej r f s) := by
  unfold execVrej
  simp only [whenRunning_inv, vecStep_inv, h2]

theorem execCsrr_inv (r : Fin 1024) (f : SField) (s : State) (h2 : Kept Q s) : OutInv Q (execCsrr r f s) := by
  unfold execCsrr
  simp only [whenRunning_inv, scalStep_inv, h2]

theorem execSsub_inv (r : Fin 1024) (f : SField) (s : State) (h2 : Kept Q s) : OutInv Q (execSsub r f s) := by
  unfold execSsub
  simp only [whenRunning_inv, scalStep_inv, h2]

theorem execVcbd_inv (r : Fin 1024) (f : VField) (s : State) (h2 : Kept Q s) : OutInv Q (execVcbd r f s) := by
  unfold execVcbd
  simp only [whenRunning_inv, vecStep_inv, h2]

theorem execSsra_inv (r : Fin 1024) (f : SField) (s : State) (h2 : Kept Q s) : OutInv Q (execSsra r f s) := by
  unfold execSsra
  simp only [whenRunning_inv, scalStep_inv, h2]

theorem execVunpack_inv (r : Fin 1024) (f : VField) (s : State) (h2 : Kept Q s) : OutInv Q (execVunpack r f s) := by
  unfold execVunpack
  simp only [whenRunning_inv, vecStep_inv, h2]

theorem execVld_inv (r : Fin 1024) (f : MField) (parity : Bool) (s : State) (h3 : Kept Q s) : OutInv Q (execVld r f parity s) := by
  unfold execVld
  (repeat' (first | (simp (maxDischargeDepth := 40) +contextual only [outInv_next, outInv_fault, outInv_ite, inv_ite, inv_foldl, inv_mk, inv_clock, inv_mem, inv_wait, inv_queue, inv_shape, shape_ports, shape_portsMap, shape_wch, shape_lcs, shape_dgp, and_self, implies_true, whenRunning_inv, rowStep_inv, reedParity_inv, memStep_inv, onlyReed_inv, h3]; done) | split | (simp only []; split)))

theorem execVand_inv (r : Fin 1024) (f : VField) (s : State) (h2 : Kept Q s) : OutInv Q (execVand r f s) := by
  unfold execVand
  simp only [whenRunning_inv, vecStep_inv, h2]

theorem execVgfmul_inv (r : Fin 1024) (f : VField) (s : State) (h2 : Kept Q s) : OutInv Q (execVgfmul r f s) := by
  unfold execVgfmul
  simp only [whenRunning_inv, vecStep_inv, h2]

theorem execSnop_inv (r : Fin 1024) (f : SField) (s : State) (h2 : Kept Q s) : OutInv Q (execSnop r f s) := by
  unfold execSnop
  simp only [whenRunning_inv, scalStep_inv, h2]

theorem execVxor_inv (r : Fin 1024) (f : VField) (s : State) (h2 : Kept Q s) : OutInv Q (execVxor r f s) := by
  unfold execVxor
  simp only [whenRunning_inv, vecStep_inv, h2]

theorem execVbfly_inv (r : Fin 1024) (f : VField) (s : State) (h2 : Kept Q s) : OutInv Q (execVbfly r f s) := by
  unfold execVbfly
  simp only [whenRunning_inv, vecStep_inv, h2]

theorem execVcmpeq_inv (r : Fin 1024) (f : VField) (s : State) (h2 : Kept Q s) : OutInv Q (execVcmpeq r f s) := by
  unfold execVcmpeq
  simp only [whenRunning_inv, vecStep_inv, h2]

theorem execVcmpltu_inv (r : Fin 1024) (f : VField) (s : State) (h2 : Kept Q s) : OutInv Q (execVcmpltu r f s) := by
  unfold execVcmpltu
  simp only [whenRunning_inv, vecStep_inv, h2]

theorem execSst_inv (r : Fin 1024) (f : MField) (s : State) (h2 : Kept Q s) : OutInv Q (execSst r f s) := by
  unfold execSst
  (repeat' (first | (simp (maxDischargeDepth := 40) +contextual only [outInv_next, outInv_fault, outInv_ite, inv_ite, inv_foldl, inv_mk, inv_clock, inv_mem, inv_wait, inv_queue, inv_shape, shape_ports, shape_portsMap, shape_wch, shape_lcs, shape_dgp, and_self, implies_true, whenRunning_inv, memStep_inv, onlyReed_inv, h2]; done) | split | (simp only []; split)))

theorem execSmul_inv (r : Fin 1024) (f : SField) (s : State) (h2 : Kept Q s) : OutInv Q (execSmul r f s) := by
  unfold execSmul
  simp only [whenRunning_inv, scalStep_inv, h2]

theorem execVbtr8_inv (r : Fin 1024) (f : VField) (s : State) (h2 : Kept Q s) : OutInv Q (execVbtr8 r f s) := by
  unfold execVbtr8
  simp only [whenRunning_inv, vecStep_inv, h2]

theorem execMfirst_inv (r : Fin 1024) (f : VField) (s : State) (h2 : Kept Q s) : OutInv Q (execMfirst r f s) := by
  unfold execMfirst
  simp only [whenRunning_inv, vecStep_inv, h2]

theorem execVgather_inv (r : Fin 1024) (f : MField) (s : State) (h2 : Kept Q s) : OutInv Q (execVgather r f s) := by
  unfold execVgather
  (repeat' (first | (simp (maxDischargeDepth := 40) +contextual only [outInv_next, outInv_fault, outInv_ite, inv_ite, inv_foldl, inv_mk, inv_clock, inv_mem, inv_wait, inv_queue, inv_shape, shape_ports, shape_portsMap, shape_wch, shape_lcs, shape_dgp, and_self, implies_true, whenRunning_inv, memStep_inv, onlyReed_inv, h2]; done) | split | (simp only []; split)))

theorem execVext_inv (r : Fin 1024) (f : VField) (s : State) (h2 : Kept Q s) : OutInv Q (execVext r f s) := by
  unfold execVext
  simp only [whenRunning_inv, vecStep_inv, h2]

theorem execVlds_inv (r : Fin 1024) (f : MField) (s : State) (h2 : Kept Q s) : OutInv Q (execVlds r f s) := by
  unfold execVlds
  (repeat' (first | (simp (maxDischargeDepth := 40) +contextual only [outInv_next, outInv_fault, outInv_ite, inv_ite, inv_foldl, inv_mk, inv_clock, inv_mem, inv_wait, inv_queue, inv_shape, shape_ports, shape_portsMap, shape_wch, shape_lcs, shape_dgp, and_self, implies_true, whenRunning_inv, memStep_inv, onlyReed_inv, h2]; done) | split | (simp only []; split)))

theorem execVbrev_inv (r : Fin 1024) (f : VField) (s : State) (h2 : Kept Q s) : OutInv Q (execVbrev r f s) := by
  unfold execVbrev
  simp only [whenRunning_inv, vecStep_inv, h2]

theorem execMsetlt_inv (r : Fin 1024) (f : VField) (s : State) (h2 : Kept Q s) : OutInv Q (execMsetlt r f s) := by
  unfold execMsetlt
  simp only [whenRunning_inv, vecStep_inv, h2]

theorem execVclmullo_inv (r : Fin 1024) (f : VField) (s : State) (h2 : Kept Q s) : OutInv Q (execVclmullo r f s) := by
  unfold execVclmullo
  simp only [whenRunning_inv, vecStep_inv, h2]

theorem execSadd_inv (r : Fin 1024) (f : SField) (s : State) (h2 : Kept Q s) : OutInv Q (execSadd r f s) := by
  unfold execSadd
  simp only [whenRunning_inv, scalStep_inv, h2]

theorem execVparity_inv (r : Fin 1024) (f : VField) (s : State) (h2 : Kept Q s) : OutInv Q (execVparity r f s) := by
  unfold execVparity
  simp only [whenRunning_inv, vecStep_inv, h2]

theorem execVibfly_inv (r : Fin 1024) (f : VField) (s : State) (h2 : Kept Q s) : OutInv Q (execVibfly r f s) := by
  unfold execVibfly
  simp only [whenRunning_inv, vecStep_inv, h2]

theorem execVmadd_inv (r : Fin 1024) (f : VField) (s : State) (h2 : Kept Q s) : OutInv Q (execVmadd r f s) := by
  unfold execVmadd
  simp only [whenRunning_inv, vecStep_inv, h2]

theorem execVmov_inv (r : Fin 1024) (f : VField) (s : State) (h2 : Kept Q s) : OutInv Q (execVmov r f s) := by
  unfold execVmov
  simp only [whenRunning_inv, vecStep_inv, h2]

theorem execVdecomp_inv (r : Fin 1024) (f : VField) (s : State) (h2 : Kept Q s) : OutInv Q (execVdecomp r f s) := by
  unfold execVdecomp
  simp only [whenRunning_inv, vecStep_inv, h2]

theorem execMxor_inv (r : Fin 1024) (f : VField) (s : State) (h2 : Kept Q s) : OutInv Q (execMxor r f s) := by
  unfold execMxor
  simp only [whenRunning_inv, vecStep_inv, h2]

theorem execVmma_inv (r : Fin 1024) (f : VField) (s : State) (h2 : Kept Q s) : OutInv Q (execVmma r f s) := by
  unfold execVmma
  simp only [whenRunning_inv, vecStep_inv, h2]

theorem execVscatter_inv (r : Fin 1024) (f : MField) (s : State) (h2 : Kept Q s) : OutInv Q (execVscatter r f s) := by
  unfold execVscatter
  (repeat' (first | (simp (maxDischargeDepth := 40) +contextual only [outInv_next, outInv_fault, outInv_ite, inv_ite, inv_foldl, inv_mk, inv_clock, inv_mem, inv_wait, inv_queue, inv_shape, shape_ports, shape_portsMap, shape_wch, shape_lcs, shape_dgp, and_self, implies_true, whenRunning_inv, memStep_inv, onlyReed_inv, h2]; done) | split | (simp only []; split)))

theorem execVsll_inv (r : Fin 1024) (f : VField) (s : State) (h2 : Kept Q s) : OutInv Q (execVsll r f s) := by
  unfold execVsll
  simp only [whenRunning_inv, vecStep_inv, h2]

theorem execMnot_inv (r : Fin 1024) (f : VField) (s : State) (h2 : Kept Q s) : OutInv Q (execMnot r f s) := by
  unfold execMnot
  simp only [whenRunning_inv, vecStep_inv, h2]

theorem execScmpeq_inv (r : Fin 1024) (f : SField) (s : State) (h2 : Kept Q s) : OutInv Q (execScmpeq r f s) := by
  unfold execScmpeq
  simp only [whenRunning_inv, scalStep_inv, h2]

theorem execScmplt_inv (r : Fin 1024) (f : SField) (s : State) (h2 : Kept Q s) : OutInv Q (execScmplt r f s) := by
  unfold execScmplt
  simp only [whenRunning_inv, scalStep_inv, h2]

theorem execSand_inv (r : Fin 1024) (f : SField) (s : State) (h2 : Kept Q s) : OutInv Q (execSand r f s) := by
  unfold execSand
  simp only [whenRunning_inv, scalStep_inv, h2]

theorem execScmpltu_inv (r : Fin 1024) (f : SField) (s : State) (h2 : Kept Q s) : OutInv Q (execScmpltu r f s) := by
  unfold execScmpltu
  simp only [whenRunning_inv, scalStep_inv, h2]

theorem execVslidedn_inv (r : Fin 1024) (f : VField) (s : State) (h2 : Kept Q s) : OutInv Q (execVslidedn r f s) := by
  unfold execVslidedn
  simp only [whenRunning_inv, vecStep_inv, h2]

theorem execVslideup_inv (r : Fin 1024) (f : VField) (s : State) (h2 : Kept Q s) : OutInv Q (execVslideup r f s) := by
  unfold execVslideup
  simp only [whenRunning_inv, vecStep_inv, h2]

theorem execSsll_inv (r : Fin 1024) (f : SField) (s : State) (h2 : Kept Q s) : OutInv Q (execSsll r f s) := by
  unfold execSsll
  simp only [whenRunning_inv, scalStep_inv, h2]

theorem execSaddi_inv (r : Fin 1024) (f : SField) (s : State) (h2 : Kept Q s) : OutInv Q (execSaddi r f s) := by
  unfold execSaddi
  simp only [whenRunning_inv, scalStep_inv, h2]

theorem execVmsub_inv (r : Fin 1024) (f : VField) (s : State) (h2 : Kept Q s) : OutInv Q (execVmsub r f s) := by
  unfold execVmsub
  simp only [whenRunning_inv, vecStep_inv, h2]

theorem execVmulhi_inv (r : Fin 1024) (f : VField) (s : State) (h2 : Kept Q s) : OutInv Q (execVmulhi r f s) := by
  unfold execVmulhi
  simp only [whenRunning_inv, vecStep_inv, h2]

theorem execVsra_inv (r : Fin 1024) (f : VField) (s : State) (h2 : Kept Q s) : OutInv Q (execVsra r f s) := by
  unfold execVsra
  simp only [whenRunning_inv, vecStep_inv, h2]

theorem execVnop_inv (r : Fin 1024) (f : VField) (s : State) (h2 : Kept Q s) : OutInv Q (execVnop r f s) := by
  unfold execVnop
  simp only [whenRunning_inv, vecStep_inv, h2]

theorem execVcomp_inv (r : Fin 1024) (f : VField) (s : State) (h2 : Kept Q s) : OutInv Q (execVcomp r f s) := by
  unfold execVcomp
  simp only [whenRunning_inv, vecStep_inv, h2]

theorem execSsrl_inv (r : Fin 1024) (f : SField) (s : State) (h2 : Kept Q s) : OutInv Q (execSsrl r f s) := by
  unfold execSsrl
  simp only [whenRunning_inv, scalStep_inv, h2]

theorem execMor_inv (r : Fin 1024) (f : VField) (s : State) (h2 : Kept Q s) : OutInv Q (execMor r f s) := by
  unfold execMor
  simp only [whenRunning_inv, vecStep_inv, h2]

theorem execVmred_inv (r : Fin 1024) (f : VField) (s : State) (h2 : Kept Q s) : OutInv Q (execVmred r f s) := by
  unfold execVmred
  simp only [whenRunning_inv, vecStep_inv, h2]

theorem execVbcast_inv (r : Fin 1024) (f : VField) (s : State) (h2 : Kept Q s) : OutInv Q (execVbcast r f s) := by
  unfold execVbcast
  simp only [whenRunning_inv, vecStep_inv, h2]

theorem execVsub_inv (r : Fin 1024) (f : VField) (s : State) (h2 : Kept Q s) : OutInv Q (execVsub r f s) := by
  unfold execVsub
  simp only [whenRunning_inv, vecStep_inv, h2]

theorem execVrotl_inv (r : Fin 1024) (f : VField) (s : State) (h2 : Kept Q s) : OutInv Q (execVrotl r f s) := by
  unfold execVrotl
  simp only [whenRunning_inv, vecStep_inv, h2]

end Sys2Proof.Laws
end

