-- ==== Sys2Proof/Laws/KeepMem.lean ====
section
/-! SUPPORT. That each function over the state keeps what every state of a run holds (`BlockInv` of Safety.lean): halts, the protected memory and charts. -/

set_option linter.unusedSimpArgs false
set_option linter.unusedTactic false
set_option linter.unreachableTactic false
set_option linter.unusedVariables false

namespace Sys2Proof.Laws

open Sys2Proof Sys2Proof.Machine Sys2Proof.Safety

variable {Q : Keep}

theorem limiterFull_inv (s : State) (h0 : Kept Q s) : Kept Q (limiterFull s) := by
  unfold limiterFull
  simp only [inv_mk, inv_clock, inv_mem, inv_wait, inv_queue, inv_shape, shape_ports, shape_wch, shape_lcs, shape_dgp, and_self, h0]

theorem enterClusters_inv (s : State) (old : Option Chart) (new : Option Chart) (h0 : Kept Q s) : Kept Q (enterClusters s old new) := by
  unfold enterClusters
  (repeat' (first | (simp (maxDischargeDepth := 40) +contextual only [inv_foldl, implies_true, modCluster_inv, h0]; done) | split | (simp only []; split)))

theorem setNodes_inv (s : State) (new : Option NodeTable) (h0 : Kept Q s) : Kept Q (setNodes s new) := by
  unfold setNodes
  simp (maxDischargeDepth := 40) only [inv_ite, inv_mk, inv_clock, inv_mem, inv_wait, inv_queue, inv_shape, shape_ports, shape_wch, shape_lcs, shape_dgp, and_self, h0]

theorem restartMonitors_inv (s : State) (c : Chart) (h0 : Kept Q s) : Kept Q (restartMonitors s c) := by
  unfold restartMonitors
  simp only [inv_mk, inv_clock, inv_mem, inv_wait, inv_queue, inv_shape, shape_ports, shape_wch, shape_lcs, shape_dgp, and_self, h0]

theorem chartTold_inv (s : State) (w : ChartWait) (h0 : Kept Q s) : Kept Q (chartTold s w) := by
  unfold chartTold
  split <;> simp (maxDischargeDepth := 40) only [logEvent_inv, approveDone_inv, h0]

theorem setSuspicion_inv (s : State) (limit : Nat) (h0 : Kept Q s) : Kept Q (setSuspicion s limit) := by
  unfold setSuspicion
  (repeat' (first | (simp (maxDischargeDepth := 40) +contextual only [inv_foldl, inv_mk, inv_clock, inv_mem, inv_wait, inv_queue, inv_shape, shape_ports, shape_wch, shape_lcs, shape_dgp, and_self, implies_true, muteSuspect_inv, h0]; done) | split | (simp only []; split)))

theorem applyDelta_inv (s : State) (w : ChartWait) (h0 : Kept Q s) : Kept Q (applyDelta s w) := by
  unfold applyDelta
  simp (maxDischargeDepth := 40) only [inv_ite, inv_mk, inv_clock, inv_mem, inv_wait, inv_queue, inv_shape, shape_ports, shape_wch, shape_lcs, shape_dgp, and_self, limiterFull_inv, enterClusters_inv, displaceJobs_inv, setNodes_inv, regroup_inv, restartMonitors_inv, chartTold_inv, setSuspicion_inv, h0]

theorem chartDeltaApply_inv (s : State) (h0 : Kept Q s) : Kept Q (chartDeltaApply s) := by
  unfold chartDeltaApply
  (repeat' (first | (simp (maxDischargeDepth := 40) only [applyDelta_inv, h0]; done) | split))

theorem loadStores_inv (s : State) (c : Chart) (h0 : Kept Q s) : Kept Q (loadStores s c) := by
  unfold loadStores
  (repeat' (first | (simp (maxDischargeDepth := 40) +contextual only [inv_foldl, implies_true, modCluster_inv, h0]; done) | split | (simp only []; split)))

theorem mem_ranges {m : Mpr} (h : MemOk m) (r : List MemRange) : MemOk { m with ranges := r } := ⟨h.1, h.2, h.3, h.4⟩

theorem mem_mk (chMask speed : Nat) (trained keysReady : Bool) (capacity : Nat) (ranges : List MemRange) (pages : Tbl CounterLine)
    (lines : Tbl StoredLine) (tree : Tbl Nat) (corrected retries scrubPasses : Nat) (fault : Option MemFault) (scrubNext scrubHours : Nat) :
    MemOk ⟨chMask, speed, trained, keysReady, capacity, ranges, pages, lines, tree, corrected, retries, scrubPasses, fault, scrubNext,
      scrubHours⟩ ↔ tblWfFrom none pages = true ∧ MinorsOk pages ∧ tblWfFrom none lines = true ∧ tblWfFrom none tree = true :=
  ⟨fun h => ⟨h.1, h.2, h.3, h.4⟩, fun h => ⟨h.1, h.2.1, h.2.2.1, h.2.2.2⟩⟩

theorem mem_pages {m : Mpr} (h : MemOk m) : tblWfFrom none m.pages = true := h.pages

theorem mem_minors {m : Mpr} (h : MemOk m) : MinorsOk m.pages := h.minors

theorem mem_lines {m : Mpr} (h : MemOk m) : tblWfFrom none m.lines = true := h.lines

theorem mem_tree {m : Mpr} (h : MemOk m) : tblWfFrom none m.tree = true := h.tree

theorem minors_nil : MinorsOk [] := by intro e he; cases he

theorem minors_put (t : Tbl CounterLine) (k : Nat) (x : CounterLine) (h : MinorsOk t) (hx : storeWf x.minors = true) :
    MinorsOk (tblPut t k x) := by
  intro e he
  rcases mem_tblPut t k x e he with rfl | he
  · exact hx
  · exact h e he

theorem minors_page {m : Mpr} (h : MemOk m) (page : Nat) : storeWf (pageCounters m page).minors = true := by
  unfold pageCounters tblGetD
  cases hp : tblGet m.pages page with
  | none => rfl
  | some x => exact h.minors (page, x) (tblGet_mem _ _ _ hp)

theorem minors_ones (t : Store 7) (h : storeWf t = true) : storeWf (t.map (fun e => (e.1, (1 : BitVec 7)))) = true :=
  storeWfFrom_map t (fun _ => 1) (by decide) none h

theorem memOk_putLine (m : Mpr) (key : Bytes) (r line major minor : Nat) (pt : Bytes) (h : MemOk m) :
    MemOk (putLine m key r line major minor pt) := ⟨h.1, h.2, tblPut_wf _ _ _ h.3, h.4⟩

theorem tree_foldl (l : List Nat) (f : Tbl Nat → Nat → Tbl Nat) (hf : ∀ t k, tblWfFrom none t = true → tblWfFrom none (f t k) = true) :
    ∀ t, tblWfFrom none t = true → tblWfFrom none (l.foldl f t) = true := by
  induction l with
  | nil => intro t h; exact h
  | cons a rest ih => intro t h; exact ih _ (hf t a h)

theorem memOk_foldl {α : Type} (l : List α) (f : Mpr → α → Mpr) (hf : ∀ m a, MemOk m → MemOk (f m a)) : ∀ m, MemOk m → MemOk (l.foldl f m) := by
  induction l with
  | nil => intro m h; exact h
  | cons a rest ih => intro m h; exact ih _ (hf m a h)

theorem memOk_bumpTree (m : Mpr) (r page : Nat) (h : MemOk m) : MemOk (bumpTree m r page) :=
  ⟨h.1, h.2, h.3, tree_foldl _ _ (fun _ _ ht => tblPut_wf _ _ _ ht) _ h.4⟩

theorem memOk_countWrites (m : Mpr) (r page n : Nat) (h : MemOk m) : MemOk (countWrites m r page n) := ⟨h.1, h.2, h.3, h.4⟩

theorem memOk_writeLine (m : Mpr) (r line : Nat) (pt : Bytes) (h : MemOk m) : MemOk (writeLine m r line pt) := by
  unfold writeLine
  apply memOk_countWrites
  apply memOk_bumpTree
  apply memOk_putLine
  exact ⟨tblPut_wf _ _ _ h.1, minors_put _ _ _ h.2 (storeSet_wf _ _ _ (minors_page h _)), h.3, h.4⟩

theorem memOk_reencryptPage (m : Mpr) (r line : Nat) (pt : Bytes) (h : MemOk m) : MemOk (reencryptPage m r line pt) := by
  unfold reencryptPage
  apply memOk_countWrites
  apply memOk_bumpTree
  apply memOk_foldl
  · intro t a ht; exact memOk_putLine _ _ _ _ _ _ _ ht
  · exact ⟨tblPut_wf _ _ _ h.1, minors_put _ _ _ h.2 (minors_ones _ (minors_page h _)), h.3, h.4⟩

theorem memOk_clientWrite (m : Mpr) (r line off : Nat) (bs : Bytes) (h : MemOk m) : MemOk (clientWrite m r line off bs) := by
  unfold clientWrite
  dsimp only
  split
  · exact memOk_reencryptPage _ _ _ _ h
  · exact memOk_writeLine _ _ _ _ h

theorem memOk_memErase (m : Mpr) (h : MemOk m) : MemOk (memErase m) := ⟨h.1, h.2, h.3, rfl⟩

theorem memOk_memFaulted (m : Mpr) (kind r line : Nat) (h : MemOk m) : MemOk (memFaulted m kind r line) := ⟨h.1, h.2, h.3, rfl⟩

theorem memOk_countOutcome (m : Mpr) (o : MemOutcome) (h : MemOk m) : MemOk (countOutcome m o) := by
  unfold countOutcome
  split
  · exact ⟨h.1, h.2, h.3, h.4⟩
  · exact ⟨h.1, h.2, h.3, h.4⟩
  · exact h

theorem memOk_rollKey (m : Mpr) (r : Nat) (k : Bytes) (h : MemOk m) : MemOk (rollKey m r k) := ⟨h.1, h.2, h.3, h.4⟩

theorem memOk_restartTree (m : Mpr) (r i : Nat) (last : Bool) (h : MemOk m) : MemOk (restartTree m r i last) := by
  refine ⟨h.1, h.2, h.3, tree_foldl _ _ ?_ _ h.4⟩
  intro t k ht
  split
  · exact tblMod_wf _ _ _ ht
  · exact ht

theorem memOk_sweepStep (m : Mpr) (r : Nat) (h : MemOk m) : MemOk (sweepStep m r) := by
  unfold sweepStep
  dsimp only
  apply mem_ranges
  apply memOk_restartTree
  split
  · exact h
  · rename_i c e
    apply mem_ranges
    apply memOk_foldl
    · intro t a ht; exact memOk_putLine _ _ _ _ _ _ _ ht
    · exact ⟨tblPut_wf _ _ _ h.1, minors_put _ _ _ h.2 (minors_ones _ (h.minors _ (tblGet_mem _ _ _ e))), h.3, h.4⟩

/-- A new memory state keeps the invariant where its tables are canonical. -/
theorem inv_setMem {s : State} (h : Kept Q s) {m : Mpr} (hm : MemOk m) : Kept Q { s with mpr := m } := ⟨h.clock, hm, h.wait, h.queue, h.shape⟩

theorem drawRangeKeys_inv (s : State) (h0 : Kept Q s) : Kept Q (drawRangeKeys s) := by
  unfold drawRangeKeys
  apply inv_foldl
  · intro t r ht
    have h1 := freshBytes_inv 32 t ht
    exact inv_setMem h1 (mem_ranges h1.mem _)
  · exact h0

theorem chartDelta_inv (p : Fin 8) (s : State) (c : Cmd) (d : Bytes) (h1 : Kept Q s) : Kept Q (chartDelta p s c d) := by
  unfold chartDelta
  dsimp only
  split
  · exact admDone_inv _ _ _ _ _ h1
  · generalize (if decide (s.dev.mode = Mode.tune) = true then fullCheck s d else deltaCheck s d) = q
    cases q with
    | error st => exact admDone_inv _ _ _ _ _ h1
    | ok c =>
      dsimp only
      split
      · exact admDone_inv _ _ _ _ _ h1
      · rename_i e
        exact admDone_inv _ _ _ _ _ (stageChange_inv _ _ _ _ _ h1 _ e)

theorem execChartDelta_inv (p : Fin 8) (s : State) (h1 : Kept Q s) : OutInv Q (execChartDelta p s) := by
  unfold execChartDelta
  (repeat' (first | (simp (maxDischargeDepth := 40) +contextual only [implies_true, whenRunning_inv, admRun_inv, chartDelta_inv, h1]; done) | split | (simp only []; split)))

theorem mapRanges_inv (s : State) (d : DdrMap) (h0 : Kept Q s) : Kept Q (mapRanges s d) := by
  unfold mapRanges
  dsimp only
  have h1 : ∀ r, Kept Q { s with mpr := { s.mpr with ranges := r, pages := [], lines := [], tree := [], scrubNext := 0, scrubHours := d.scrubHours } } :=
    fun r => inv_setMem h0 ⟨rfl, minors_nil, rfl, rfl⟩
  split
  · exact inv_setMem h0 ⟨h0.mem.1, h0.mem.2, h0.mem.3, h0.mem.4⟩
  · split
    · exact drawRangeKeys_inv _ (h1 _)
    · exact h1 _

theorem of_ite_none {α : Type} {c : Prop} [Decidable c] {x : Option α} {y : α} (h : (if c then none else x) = some y) : ¬ c ∧ x = some y := by
  by_cases k : c
  · simp only [if_pos k] at h; cases h
  · exact ⟨k, by simpa only [if_neg k] using h⟩

theorem chartOf_len (lc : Bool) (g d : Nat) (l : List (Nat × Bytes)) (c : Chart) (h : chartOf lc g d l = some c) : LenOk c.log2Len := by
  unfold chartOf at h
  obtain ⟨_, h⟩ := of_ite_none h
  obtain ⟨hb, h⟩ := of_ite_none h
  simp only [Bool.not_eq_true', Bool.not_eq_false, Bool.and_eq_true, decide_eq_true_eq] at hb
  obtain ⟨_, _, h⟩ := Option.bind_eq_some_iff.mp h
  obtain ⟨_, _, h⟩ := Option.bind_eq_some_iff.mp h
  obtain ⟨_, h⟩ := of_ite_none h
  obtain ⟨_, _, h⟩ := Option.bind_eq_some_iff.mp h
  obtain ⟨_, _, h⟩ := Option.bind_eq_some_iff.mp h
  obtain ⟨_, _, h⟩ := Option.bind_eq_some_iff.mp h
  obtain ⟨_, _, h⟩ := Option.bind_eq_some_iff.mp h
  obtain ⟨_, _, h⟩ := Option.bind_eq_some_iff.mp h
  obtain ⟨_, _, h⟩ := Option.bind_eq_some_iff.mp h
  obtain ⟨_, _, h⟩ := Option.bind_eq_some_iff.mp h
  obtain ⟨_, _, h⟩ := Option.bind_eq_some_iff.mp h
  obtain ⟨_, _, h⟩ := Option.bind_eq_some_iff.mp h
  obtain ⟨_, _, h⟩ := Option.bind_eq_some_iff.mp h
  cases h
  exact ⟨hb.1.1.2, hb.1.2⟩

theorem readFullChart_len (lc : Bool) (b : Bytes) (h : ChartHeader) (c : Chart) (e : readFullChart lc b = .good h c) : LenOk c.log2Len := by
  unfold readFullChart at e
  split at e
  · cases e
  · split at e
    · cases e
    · split at e
      · cases e
      · rename_i hc
        obtain ⟨_, _, hc⟩ := Option.bind_eq_some_iff.mp hc
        split at e
        · cases e; exact chartOf_len _ _ _ _ _ hc
        · cases e

theorem readDelta_len (lc : Bool) (base : Chart) (b : Bytes) (h : ChartHeader) (c : Chart) (e : readDelta lc base b = .good h c) : LenOk c.log2Len := by
  unfold readDelta at e
  split at e
  · cases e
  · split at e
    · cases e
    · split at e
      · cases e
      · split at e
        · split at e
          · cases e
          · rename_i hc; cases e; exact chartOf_len _ _ _ _ _ hc
        · cases e

theorem fullCheck_len (s : State) (b : Bytes) (c : Chart) (e : fullCheck s b = .ok c) : LenOk c.log2Len := by
  unfold fullCheck at e
  split at e
  · cases e
  · cases e
  · rename_i hc
    split at e
    · cases e; exact readFullChart_len _ _ _ _ hc
    · cases e

theorem deltaCheck_len (s : State) (b : Bytes) (c : Chart) (e : deltaCheck s b = .ok c) : LenOk c.log2Len := by
  unfold deltaCheck at e
  split at e
  · cases e
  · split at e
    · cases e
    · cases e
    · rename_i hc
      split at e
      · cases e; exact readDelta_len _ _ _ _ _ hc
      · cases e

theorem applyFull_inv (s : State) (c : Chart) (h0 : Kept Q s) (hc : LenOk c.log2Len) : Kept Q (applyFull s c) := by
  unfold applyFull
  dsimp only
  apply setSuspicion_inv
  apply restartMonitors_inv
  apply setNodes_inv
  apply pipesJoin_inv
  apply regroup_inv
  apply loadStores_inv
  apply limiterFull_inv
  have h1 : Kept Q { s with
      ports := (List.zipIdx s.ports).map (fun e => formPort c e.2 e.1)
      pxt := { s.pxt with ports := formFabric s c }
      rng := { s.rng with conditioner := c.conditioner }
      brt := { s.brt with nextLog2 := some c.log2Len } } :=
    ⟨⟨⟨h0.clock.len, fun n hn => by cases hn; exact hc, h0.clock.step, h0.clock.req, h0.clock.work, h0.clock.out⟩, h0.clock.phase⟩, h0.mem, h0.wait, h0.queue,
      shape_map h0 _ _ (by simp) rfl⟩
  have h2 := mapRanges_inv _ c.ddr h1
  exact ⟨h2.clock, h2.mem, (fun x hx => by cases hx), h2.queue, h2.shape⟩

theorem fullChartApply_inv (s : State) (h0 : Kept Q s) : Kept Q (fullChartApply s) := by
  unfold fullChartApply
  split
  · rename_i w hw
    split
    · have h1 := applyFull_inv s w.chart h0 (h0.wait w hw)
      apply chartTold_inv
      exact ⟨h1.clock, h1.mem, h1.wait, h1.queue, h1.shape⟩
    · exact h0
  · exact h0

theorem execFullChartApply_inv (s : State) (h0 : Kept Q s) : OutInv Q (execFullChartApply s) := by
  unfold execFullChartApply
  simp only [whenRunning_inv, fullChartApply_inv, h0]

theorem clusterStoreLoad_inv (s : State) (c : Nat) (h0 : Kept Q s) : Kept Q (clusterStoreLoad s c) := by
  unfold clusterStoreLoad
  (repeat' (first | (simp (maxDischargeDepth := 40) only [modCluster_inv, h0]; done) | split))

theorem routineLoad_inv (s : State) (c : Nat) (rid : Nat) (h0 : Kept Q s) : Kept Q (routineLoad s c rid) := by
  unfold routineLoad
  (repeat' (first | (simp (maxDischargeDepth := 40) +contextual only [modCluster_inv, h0]; done) | split | (simp only []; split)))

theorem approveFull_inv (s : State) (id : Nat) (ch : Change) (aps : List (Nat × Bytes)) (a : Carrier × Nat) (h0 : Kept Q s) : Kept Q (approveFull s id ch aps a) := by
  unfold approveFull
  split
  · exact approveDone_inv _ _ _ _ h0
  · split
    · exact approveDone_inv _ _ _ _ h0
    · rename_i e
      split
      · exact approveDone_inv _ _ _ _ h0
      · exact ⟨h0.clock, h0.mem, (fun x hx => by cases hx; exact fullCheck_len _ _ _ e), h0.queue, h0.shape⟩

theorem execRoutineLoad_inv (c : Fin 64) (rid : BitVec 16) (s : State) (h2 : Kept Q s) : OutInv Q (execRoutineLoad c rid s) := by
  unfold execRoutineLoad
  simp only [whenRunning_inv, routineLoad_inv, h2]

theorem routineWordsFree_inv (s : State) (c : Nat) (rid : Nat) (h0 : Kept Q s) : Kept Q (routineWordsFree s c rid) := by
  unfold routineWordsFree
  (repeat' (first | (simp (maxDischargeDepth := 40) only [modCluster_inv, h0]; done) | split))

theorem execRoutineWordsFree_inv (c : Fin 64) (rid : BitVec 16) (s : State) (h2 : Kept Q s) : OutInv Q (execRoutineWordsFree c rid s) := by
  unfold execRoutineWordsFree
  simp only [whenRunning_inv, routineWordsFree_inv, h2]

theorem approveDelta_inv (s : State) (id : Nat) (ch : Change) (aps : List (Nat × Bytes)) (a : Carrier × Nat) (h0 : Kept Q s) : Kept Q (approveDelta s id ch aps a) := by
  unfold approveDelta
  (repeat' (first | (simp (maxDischargeDepth := 40) only [inv_mk, inv_clock, inv_mem, inv_wait, inv_queue, inv_shape, shape_ports, shape_wch, shape_lcs, shape_dgp, and_self, approveDone_inv, mirror_inv, h0]; done) | split))

theorem execClusterControlStoreLoad_inv (c : Fin 64) (s : State) (h1 : Kept Q s) : OutInv Q (execClusterControlStoreLoad c s) := by
  unfold execClusterControlStoreLoad
  simp only [whenRunning_inv, clusterStoreLoad_inv, h1]

theorem execChartDeltaApply_inv (s : State) (h0 : Kept Q s) : OutInv Q (execChartDeltaApply s) := by
  unfold execChartDeltaApply
  simp only [whenRunning_inv, chartDeltaApply_inv, h0]

theorem haltFlow_inv (s : State) (e : Nat) (h0 : Kept Q s) : Kept Q (haltFlow s e) := by
  unfold haltFlow
  (repeat' (first | (simp (maxDischargeDepth := 40) only [abortPut_inv, failGet_inv, h0]; done) | split))

theorem haltFlush_inv (s : State) (h0 : Kept Q s) : Kept Q (haltFlush s) := by
  unfold haltFlush
  (repeat' (first | (simp (maxDischargeDepth := 40) +contextual only [inv_foldl, inv_mk, inv_clock, inv_mem, inv_wait, inv_queue, inv_shape, shape_ports, shape_portsMap, shape_wch, shape_lcs, shape_dgp, and_self, implies_true, emit_inv, wipeReed_inv, h0]; done) | split | (simp only []; split)))

theorem controlledHaltFlush_inv (s : State) (h0 : Kept Q s) : Kept Q (controlledHaltFlush s) := by
  unfold controlledHaltFlush
  simp (maxDischargeDepth := 40) only [inv_ite, haltFlush_inv, h0]

theorem execControlledHaltFlush_inv (s : State) (h0 : Kept Q s) : OutInv Q (execControlledHaltFlush s) := by
  unfold execControlledHaltFlush
  simp only [whenRunning_inv, controlledHaltFlush_inv, h0]

theorem cutFrame_inv (s : State) (p : Nat) (h0 : Kept Q s) : Kept Q (cutFrame s p) := by
  unfold cutFrame
  simp (maxDischargeDepth := 40) only [inv_ite, freshChoice_inv, emit_inv, h0]

theorem haltMessages_inv (s : State) (h0 : Kept Q s) : Kept Q (haltMessages s) := by
  unfold haltMessages
  apply inv_foldl
  · intro t a ht
    split
    · exact emit_inv _ _ ht
    · exact ht
  · exact h0

theorem enterHalted_inv (s : State) (h0 : Kept Q s) : Kept Q (enterHalted s) :=
  ⟨h0.clock, memOk_memErase _ h0.mem, h0.wait, h0.queue, h0.shape⟩

theorem haltedEnter_inv (s : State) (h0 : Kept Q s) : Kept Q (haltedEnter s) := by
  unfold haltedEnter
  simp (maxDischargeDepth := 40) only [inv_ite, haltMessages_inv, enterHalted_inv, h0]

theorem haltFlows_inv (s : State) (h0 : Kept Q s) : Kept Q (haltFlows s) := by
  unfold haltFlows
  (repeat' (first | (simp (maxDischargeDepth := 40) +contextual only [inv_foldl, implies_true, haltFlow_inv, h0]; done) | split | (simp only []; split)))

theorem cutFrames_inv (s : State) (h0 : Kept Q s) : Kept Q (cutFrames s) := by
  unfold cutFrames
  (repeat' (first | (simp (maxDischargeDepth := 40) +contextual only [inv_foldl, implies_true, cutFrame_inv, h0]; done) | split | (simp only []; split)))

theorem immediateHalt_inv (s : State) (cause : Nat) (code : Nat) (data : Bytes) (h0 : Kept Q s) : Kept Q (immediateHalt s cause code data) := by
  unfold immediateHalt
  simp (maxDischargeDepth := 40) only [inv_mk, inv_clock, inv_mem, inv_wait, inv_queue, inv_shape, shape_ports, shape_wch, shape_lcs, shape_dgp, and_self, enterHalted_inv, cutFrames_inv, haltMessages_inv, logEvent_inv, h0]

theorem controlledHalt_inv (s : State) (cause : Nat) (code : Nat) (data : Bytes) (h0 : Kept Q s) : Kept Q (controlledHalt s cause code data) := by
  unfold controlledHalt
  simp (maxDischargeDepth := 40) only [inv_ite, inv_mk, inv_clock, inv_mem, inv_wait, inv_queue, inv_shape, shape_ports, shape_wch, shape_lcs, shape_dgp, and_self, logEvent_inv, haltFlows_inv, h0]

theorem execHaltedEnter_inv (s : State) (h0 : Kept Q s) : OutInv Q (execHaltedEnter s) := by
  unfold execHaltedEnter
  simp only [whenRunning_inv, haltedEnter_inv, h0]

theorem keyRoll_inv (s : State) (r : Nat) (h0 : Kept Q s) : Kept Q (keyRoll s r) := by
  unfold keyRoll
  dsimp only
  split
  · exact h0
  · have h1 := freshBytes_inv 32 s h0
    exact inv_setMem h1 (memOk_rollKey _ _ _ h1.mem)

theorem execKeyGenerationRoll_inv (r : Fin 16) (s : State) (h1 : Kept Q s) : OutInv Q (execKeyGenerationRoll r s) := by
  unfold execKeyGenerationRoll
  simp only [whenRunning_inv, keyRoll_inv, h1]

theorem scrubEnd_inv (s : State) (h0 : Kept Q s) : Kept Q (scrubEnd s) := inv_setMem h0 ⟨h0.mem.1, h0.mem.2, h0.mem.3, h0.mem.4⟩

theorem eccCount_inv (s : State) (line : Nat) (h0 : Kept Q s) : Kept Q (eccCount s line) := by
  unfold eccCount
  simp (maxDischargeDepth := 40) only [inv_ite, inv_mk, inv_clock, inv_mem, inv_wait, inv_queue, inv_shape, shape_ports, shape_wch, shape_lcs, shape_dgp, and_self, freshChoice_inv, logEvent_inv, h0]

theorem memAccess_inv (s : State) (r : Nat) (line : Nat) (o : MemOutcome) (f : State → State) (h0 : Kept Q s) (h4 : ∀ y0 : State, Kept Q y0 → Kept Q (f y0)) : Kept Q (memAccess s r line o f) := by
  unfold memAccess
  split
  · exact h4 _ h0
  · exact h4 _ (eccCount_inv _ _ (inv_setMem h0 (memOk_countOutcome _ _ h0.mem)))
  · exact h4 _ (inv_setMem h0 (memOk_countOutcome _ _ h0.mem))
  · exact immediateHalt_inv _ _ _ _ (inv_setMem h0 (memOk_memFaulted _ _ _ _ h0.mem))

theorem scrubOn_inv (s : State) (next : Nat) (h0 : Kept Q s) : Kept Q (scrubOn s next) := by
  unfold scrubOn
  split
  · exact inv_setMem h0 ⟨h0.mem.1, h0.mem.2, h0.mem.3, h0.mem.4⟩
  · exact scrubEnd_inv _ h0

theorem patrolScrub_inv (s : State) (ev : MemEvent) (h0 : Kept Q s) : Kept Q (patrolScrub s ev) := by
  unfold patrolScrub
  (repeat' (first | (simp (maxDischargeDepth := 40) +contextual only [implies_true, scrubEnd_inv, memAccess_inv, scrubOn_inv, h0]; done) | split | (simp only []; split)))

theorem execPatrolScrub_inv (ev : MemEvent) (s : State) (h1 : Kept Q s) : OutInv Q (execPatrolScrub ev s) := by
  unfold execPatrolScrub
  simp only [whenRunning_inv, patrolScrub_inv, h1]

theorem ddrWrite_inv (s : State) (a : Nat) (off : Nat) (bs : Bytes) (ev : MemEvent) (h0 : Kept Q s) : Kept Q (ddrWrite s a off bs ev) := by
  unfold ddrWrite
  split
  · exact h0
  · dsimp only
    split
    · exact h0
    · exact memAccess_inv _ _ _ _ _ h0 (fun t ht => inv_setMem ht (memOk_clientWrite _ _ _ _ _ ht.mem))

theorem latencyOfRead_inv (s : State) (line : Nat) (h0 : Kept Q s) : Kept Q (latencyOfRead s line) := by
  unfold latencyOfRead
  simp (maxDischargeDepth := 40) only [inv_ite, freshChoice_inv, freshWord_inv, monSample_inv, h0]

theorem ddrRead_inv (s : State) (a : Nat) (ev : MemEvent) (h0 : Kept Q s) : Kept Q (ddrRead s a ev) := by
  unfold ddrRead
  (repeat' (first | (simp (maxDischargeDepth := 40) +contextual only [implies_true, memAccess_inv, latencyOfRead_inv, emit_inv, h0]; done) | split | (simp only []; split)))

theorem alsoFault_inv (s : State) (r : Nat) (line : Nat) (ev : MemEvent) (o : MemOutcome) (h0 : Kept Q s) : Kept Q (alsoFault s r line ev o) := by
  unfold alsoFault
  split
  · split
    · exact h0
    · dsimp only
      apply logEvent_inv
      split
      · exact ⟨h0.clock, ⟨h0.mem.1, h0.mem.2, h0.mem.3, h0.mem.4⟩, h0.wait, h0.queue, h0.shape⟩
      · exact h0
  · exact h0

theorem lateRead_inv (s : State) (a : Nat) (ev : MemEvent) (h0 : Kept Q s) : Kept Q (lateRead s a ev) := by
  unfold lateRead
  (repeat' (first | (simp (maxDischargeDepth := 40) only [alsoFault_inv, h0]; done) | split))

theorem execDdrReadComplete_inv (a : Nat) (ev : MemEvent) (s : State) (h2 : Kept Q s) : OutInv Q (execDdrReadComplete a ev s) := by
  unfold execDdrReadComplete
  (repeat' (first | (simp (maxDischargeDepth := 40) +contextual only [outInv_next, outInv_fault, outInv_ite, ddrRead_inv, lateRead_inv, h2]; done) | split | (simp only []; split)))

theorem lateWrite_inv (s : State) (a : Nat) (off : Nat) (n : Nat) (ev : MemEvent) (h0 : Kept Q s) : Kept Q (lateWrite s a off n ev) := by
  unfold lateWrite
  (repeat' (first | (simp (maxDischargeDepth := 40) only [alsoFault_inv, h0]; done) | split))

theorem execDdrLineWrite_inv (a : Nat) (off : Nat) (bs : Bytes) (ev : MemEvent) (s : State) (h4 : Kept Q s) : OutInv Q (execDdrLineWrite a off bs ev s) := by
  unfold execDdrLineWrite
  (repeat' (first | (simp (maxDischargeDepth := 40) +contextual only [outInv_next, outInv_fault, outInv_ite, ddrWrite_inv, lateWrite_inv, h4]; done) | split | (simp only []; split)))

theorem sweepPageOf_inv (s : State) (r : Nat) (ev : MemEvent) (h0 : Kept Q s) : Kept Q (sweepPageOf s r ev) := by
  unfold sweepPageOf
  dsimp only
  split
  · exact h0
  · exact memAccess_inv _ _ _ _ _ h0 (fun t ht => inv_setMem ht (memOk_sweepStep _ _ ht.mem))

theorem execSweepPage_inv (r : Fin 16) (ev : MemEvent) (s : State) (h2 : Kept Q s) : OutInv Q (execSweepPage r ev s) := by
  unfold execSweepPage
  simp only [whenRunning_inv, sweepPageOf_inv, h2]

end Sys2Proof.Laws
end

