-- ==== Sys2Proof/Laws/KeepTwin.lean ====
section
/-! SUPPORT. That each function over the state keeps what every state of a run holds (`BlockInv` of Safety.lean): custody, the twin link, migrations, firmware and monitors. -/

set_option linter.unusedSimpArgs false
set_option linter.unusedTactic false
set_option linter.unreachableTactic false
set_option linter.unusedVariables false

namespace Sys2Proof.Laws

open Sys2Proof Sys2Proof.Machine Sys2Proof.Safety

variable {Q : Keep}

theorem mirrorDomain_inv (s : State) (h0 : Kept Q s) : Kept Q (mirrorDomain s) := by
  unfold mirrorDomain
  simp only [mirror_inv, h0]

theorem modDom_inv (s : State) (f : Domain → Domain) (h0 : Kept Q s) : Kept Q (modDom s f) := by
  unfold modDom
  simp only [inv_mk, inv_clock, inv_mem, inv_wait, inv_queue, inv_shape, shape_ports, shape_wch, shape_lcs, shape_dgp, and_self, h0]

theorem applyDomainRotate_inv (s : State) (h0 : Kept Q s) : Kept Q (applyDomainRotate s).2.2 := by
  unfold applyDomainRotate
  (repeat' (first | (simp (maxDischargeDepth := 40) only [freshBytes_inv, mirrorDomain_inv, modDom_inv, h0]; done) | split))

theorem newMember_inv (s : State) (h0 : Kept Q s) : Kept Q (newMember s) := by
  unfold newMember
  simp only [serialsAtBoot_inv, modBore_inv, h0]

theorem applyDomainFound_inv (s : State) (q : Bytes) (h0 : Kept Q s) : Kept Q (applyDomainFound s q).2.2 := by
  unfold applyDomainFound
  (repeat' (first | (simp (maxDischargeDepth := 40) only [freshBytes_inv, newMember_inv, modDom_inv, h0]; done) | split))

theorem lcsRun_inv (s : State) (c : Src) (kind : Nat) (f : Carrier → Bytes → State) (h0 : Kept Q s) (h3 : ∀ y0 : Carrier, ∀ y1 : Bytes, Kept Q (f y0 y1)) : OutInv Q (lcsRun s c kind f) := by
  unfold lcsRun
  (repeat' (first | (simp (maxDischargeDepth := 40) +contextual only [implies_true, srcRun_inv, h0, h3]; done) | split | (simp only []; split)))

theorem lcWrite_inv (s : State) (i : Nat) (target : Nat) (h0 : Kept Q s) : Kept Q (lcWrite s i target) := by
  unfold lcWrite
  simp only [inv_mk, inv_clock, inv_mem, inv_wait, inv_queue, inv_shape, shape_ports, shape_wch, shape_lcs, shape_dgp, and_self, logEvent_inv, h0]

theorem provisionIdentity_inv (s : State) (h0 : Kept Q s) : Kept Q (provisionIdentity s) := by
  unfold provisionIdentity
  simp (maxDischargeDepth := 40) only [inv_mk, inv_clock, inv_mem, inv_wait, inv_queue, inv_shape, shape_ports, shape_wch, shape_lcs, shape_dgp, and_self, freshBytes_inv, freshWord_inv, h0]

theorem jtagAuthorise_inv (s : State) (target : Nat) (sig : Bytes) (h0 : Kept Q s) : Kept Q (jtagAuthorise s target sig) := by
  unfold jtagAuthorise
  dsimp only
  have h1 := freshBytes_inv 32 s h0
  generalize freshBytes 32 s = p at h1 ⊢
  obtain ⟨nonce, s1⟩ := p
  dsimp only at h1 ⊢
  (repeat' (first | exact h0 | exact h1 | split | (simp (maxDischargeDepth := 40) only [inv_mk, inv_clock, inv_mem, inv_wait, inv_queue, inv_shape, shape_ports, shape_wch, shape_lcs, shape_dgp, and_self, lcWrite_inv, provisionIdentity_inv, h1]; done)))

theorem execJtagRenotteAuthorisation_inv (target : Nat) (sig : Bytes) (s : State) (h2 : Kept Q s) : OutInv Q (execJtagRenotteAuthorisation target sig s) := by
  unfold execJtagRenotteAuthorisation
  simp only [whenRunning_inv, jtagAuthorise_inv, h2]

theorem packageFor_inv (s : State) (admitted : Bool) (member : Nat) (pk : Bytes) (h0 : Kept Q s) : Kept Q (packageFor s admitted member pk).2 := by
  unfold packageFor
  simp only [freshBytes_inv, h0]

theorem exportPackage_inv (s : State) (admitted : Bool) (member : Nat) (a : Bytes) (h0 : Kept Q s) : Kept Q (exportPackage s admitted member a).2.2 := by
  unfold exportPackage
  split
  · exact h0
  · split
    · exact h0
    · split
      · exact h0
      · have h1 := packageFor_inv s admitted member (a.drop 4819) h0
        split <;> (rename_i e; rw [e] at h1; exact h1)

theorem lcsStage_inv (s : State) (c : Carrier) (kind : ChangeKind) (q : Bytes) (refused : Option Status) (h0 : Kept Q s) : Kept Q (lcsStage s c kind q refused) := by
  unfold lcsStage
  split <;> simp (maxDischargeDepth := 40) only [boxEnd_inv, stageRequest_inv, h0]

theorem successorExport_inv (s : State) (c : Carrier) (q : Bytes) (h0 : Kept Q s) : Kept Q (successorExport s c q) := by
  unfold successorExport
  simp only [lcsStage_inv, h0]

theorem execSuccessorExport_inv (c : Src) (s : State) (h1 : Kept Q s) : OutInv Q (execSuccessorExport c s) := by
  unfold execSuccessorExport
  (repeat' (first | (simp (maxDischargeDepth := 40) +contextual only [implies_true, lcsRun_inv, successorExport_inv, h1]; done) | split | (simp only []; split)))

theorem rewrap_inv (s : State) (c : Carrier) (q : Bytes) (h0 : Kept Q s) : Kept Q (rewrap s c q) := by
  unfold rewrap
  simp only [lcsStage_inv, h0]

theorem execRewrap_inv (c : Src) (s : State) (h1 : Kept Q s) : OutInv Q (execRewrap c s) := by
  unfold execRewrap
  (repeat' (first | (simp (maxDischargeDepth := 40) +contextual only [implies_true, lcsRun_inv, rewrap_inv, h1]; done) | split | (simp only []; split)))

theorem domainRotate_inv (s : State) (c : Carrier) (q : Bytes) (h0 : Kept Q s) : Kept Q (domainRotate s c q) := by
  unfold domainRotate
  simp only [lcsStage_inv, h0]

theorem twinEnrol_inv (s : State) (c : Carrier) (q : Bytes) (h0 : Kept Q s) : Kept Q (twinEnrol s c q) := by
  unfold twinEnrol
  simp only [lcsStage_inv, h0]

theorem importDomain_inv (p : Fin 8) (s : State) (c : Cmd) (d : Bytes) (h1 : Kept Q s) : Kept Q (importDomain p s c d) := by
  unfold importDomain
  split
  · exact admDone_inv _ _ _ _ _ h1
  · split
    · exact admDone_inv _ _ _ _ _ h1
    · split
      · exact admDone_inv _ _ _ _ _ h1
      · rename_i e
        exact admDone_inv _ _ _ _ _ (stageChange_inv _ _ _ _ _ h1 _ e)

theorem dropChanges_inv (s : State) (h0 : Kept Q s) : Kept Q (dropChanges s) := by
  unfold dropChanges
  (repeat' (first | (simp (maxDischargeDepth := 40) +contextual only [inv_ite, inv_foldl, implies_true, dropChange_inv, boxShow_inv, h0]; done) | split | (simp only []; split)))

theorem takePackage_inv (s : State) (k : Package) (attest : Bytes) (gens : List (Nat × Bytes)) (h0 : Kept Q s) : Kept Q (takePackage s k attest gens).2.2 := by
  unfold takePackage
  (repeat' (first | (simp (maxDischargeDepth := 40) +contextual only [modDom_inv, mirrorDomain_inv, newMember_inv, dropChanges_inv, h0]; done) | split | (simp only []; split)))

theorem applyRewrap_inv (s : State) (q : Bytes) (h0 : Kept Q s) : Kept Q (applyRewrap s q).2.2 := by
  unfold applyRewrap
  split <;> simp (maxDischargeDepth := 40) only [h0]

theorem enrollOfficer_inv (p : Fin 8) (s : State) (c : Cmd) (d : Bytes) (h1 : Kept Q s) : Kept Q (enrollOfficer p s c d) := by
  unfold enrollOfficer
  split
  · exact admDone_inv _ _ _ _ _ h1
  · split
    · exact admDone_inv _ _ _ _ _ h1
    · split
      · exact admDone_inv _ _ _ _ _ h1
      · rename_i e
        exact admDone_inv _ _ _ _ _ (stageChange_inv _ _ _ _ _ h1 _ e)

theorem execEnrollOfficer_inv (p : Fin 8) (s : State) (h1 : Kept Q s) : OutInv Q (execEnrollOfficer p s) := by
  unfold execEnrollOfficer
  (repeat' (first | (simp (maxDischargeDepth := 40) +contextual only [implies_true, whenRunning_inv, admRun_inv, enrollOfficer_inv, h1]; done) | split | (simp only []; split)))

theorem domainAdmit_inv (s : State) (c : Carrier) (q : Bytes) (h0 : Kept Q s) : Kept Q (domainAdmit s c q) := by
  unfold domainAdmit
  simp only [lcsStage_inv, h0]

theorem execDomainAdmit_inv (c : Src) (s : State) (h1 : Kept Q s) : OutInv Q (execDomainAdmit c s) := by
  unfold execDomainAdmit
  (repeat' (first | (simp (maxDischargeDepth := 40) +contextual only [implies_true, lcsRun_inv, domainAdmit_inv, h1]; done) | split | (simp only []; split)))

theorem jtagTestUnlock_inv (s : State) (token : Bytes) (h0 : Kept Q s) : Kept Q (jtagTestUnlock s token) := by
  unfold jtagTestUnlock
  (repeat' (first | (simp (maxDischargeDepth := 40) only [inv_mk, inv_clock, inv_mem, inv_wait, inv_queue, inv_shape, shape_ports, shape_wch, shape_lcs, shape_dgp, and_self, lcWrite_inv, h0]; done) | split))

theorem execJtagTestUnlock_inv (token : Bytes) (s : State) (h1 : Kept Q s) : OutInv Q (execJtagTestUnlock token s) := by
  unfold execJtagTestUnlock
  simp only [whenRunning_inv, jtagTestUnlock_inv, h1]

theorem domainFound_inv (s : State) (c : Carrier) (q : Bytes) (h0 : Kept Q s) : Kept Q (domainFound s c q) := by
  unfold domainFound
  simp only [lcsStage_inv, h0]

theorem execDomainFound_inv (c : Src) (s : State) (h1 : Kept Q s) : OutInv Q (execDomainFound c s) := by
  unfold execDomainFound
  (repeat' (first | (simp (maxDischargeDepth := 40) +contextual only [implies_true, lcsRun_inv, domainFound_inv, h1]; done) | split | (simp only []; split)))

theorem applyOfficer_inv (s : State) (i : Nat) (d : Bytes) (h0 : Kept Q s) : Kept Q (applyOfficer s i d).2.2 := by
  unfold applyOfficer
  split <;> simp (maxDischargeDepth := 40) only [modDom_inv, mirrorDomain_inv, dropChanges_inv, h0]

theorem openPackage_inv (s : State) (d : Bytes) (h0 : Kept Q s) : Kept Q (openPackage s d).2.2 := by
  unfold openPackage
  (repeat' (first | (simp (maxDischargeDepth := 40) only [takePackage_inv, h0]; done) | split))

theorem lcTransition_inv (s : State) (c : Carrier) (q : Bytes) (h0 : Kept Q s) : Kept Q (lcTransition s c q) := by
  unfold lcTransition
  simp only [lcsStage_inv, h0]

theorem jtagRelock_inv (s : State) (h0 : Kept Q s) : Kept Q (jtagRelock s) := by
  unfold jtagRelock
  (repeat' (first | (simp (maxDischargeDepth := 40) only [lcWrite_inv, h0]; done) | split))

theorem execJtagRelock_inv (s : State) (h0 : Kept Q s) : OutInv Q (execJtagRelock s) := by
  unfold execJtagRelock
  simp only [whenRunning_inv, jtagRelock_inv, h0]

theorem execImportDomain_inv (p : Fin 8) (s : State) (h1 : Kept Q s) : OutInv Q (execImportDomain p s) := by
  unfold execImportDomain
  (repeat' (first | (simp (maxDischargeDepth := 40) +contextual only [implies_true, whenRunning_inv, admRun_inv, importDomain_inv, h1]; done) | split | (simp only []; split)))

theorem execDomainRotate_inv (c : Src) (s : State) (h1 : Kept Q s) : OutInv Q (execDomainRotate c s) := by
  unfold execDomainRotate
  (repeat' (first | (simp (maxDischargeDepth := 40) +contextual only [implies_true, lcsRun_inv, domainRotate_inv, h1]; done) | split | (simp only []; split)))

theorem debugGrant_inv (s : State) (c : Carrier) (q : Bytes) (h0 : Kept Q s) : Kept Q (debugGrant s c q) := by
  unfold debugGrant
  simp only [lcsStage_inv, h0]

theorem execDebugGrant_inv (c : Src) (s : State) (h1 : Kept Q s) : OutInv Q (execDebugGrant c s) := by
  unfold execDebugGrant
  (repeat' (first | (simp (maxDischargeDepth := 40) +contextual only [implies_true, lcsRun_inv, debugGrant_inv, h1]; done) | split | (simp only []; split)))

theorem applyDebugGrant_inv (s : State) (h0 : Kept Q s) : Kept Q (applyDebugGrant s).2.2 := by
  unfold applyDebugGrant
  split <;> simp (maxDischargeDepth := 40) only [inv_mk, inv_clock, inv_mem, inv_wait, inv_queue, inv_shape, shape_ports, shape_wch, shape_lcs, shape_dgp, and_self, h0]

theorem execTwinEnrol_inv (c : Src) (s : State) (h1 : Kept Q s) : OutInv Q (execTwinEnrol c s) := by
  unfold execTwinEnrol
  (repeat' (first | (simp (maxDischargeDepth := 40) +contextual only [implies_true, lcsRun_inv, twinEnrol_inv, h1]; done) | split | (simp only []; split)))

theorem execLcTransition_inv (c : Src) (s : State) (h1 : Kept Q s) : OutInv Q (execLcTransition c s) := by
  unfold execLcTransition
  (repeat' (first | (simp (maxDischargeDepth := 40) +contextual only [implies_true, lcsRun_inv, lcTransition_inv, h1]; done) | split | (simp only []; split)))

theorem applyTwinEnrol_inv (s : State) (q : Bytes) (h0 : Kept Q s) : Kept Q (applyTwinEnrol s q).2.2 := by
  unfold applyTwinEnrol
  simp (maxDischargeDepth := 40) only [inv_ite, inv_mk, inv_clock, inv_mem, inv_wait, inv_queue, inv_shape, shape_ports, shape_wch, shape_lcs, shape_dgp, and_self, modDom_inv, h0]

theorem applyLcTransition_inv (s : State) (q : Bytes) (h0 : Kept Q s) : Kept Q (applyLcTransition s q).2.2 := by
  unfold applyLcTransition
  split <;> simp (maxDischargeDepth := 40) only [lcWrite_inv, h0]

theorem migrate_inv (s : State) (c : Carrier) (q : Bytes) (h0 : Kept Q s) : Kept Q (migrate s c q) := by
  unfold migrate
  simp only [lcsStage_inv, h0]

theorem execMigrate_inv (c : Src) (s : State) (h1 : Kept Q s) : OutInv Q (execMigrate c s) := by
  unfold execMigrate
  (repeat' (first | (simp (maxDischargeDepth := 40) +contextual only [implies_true, lcsRun_inv, migrate_inv, h1]; done) | split | (simp only []; split)))

theorem entryStart_inv (s : State) (b : Bytes) (h0 : Kept Q s) : Kept Q (entryStart s b) := by
  unfold entryStart
  dsimp only
  have h1 := bucketCharge_inv s s.mig.inst 48 h0
  generalize bucketCharge s s.mig.inst 48 = s1 at h1 ⊢
  split
  · exact h0
  · split
    · simp (maxDischargeDepth := 40) only [migResult_inv, inv_mk, inv_clock, inv_mem, inv_wait, inv_queue, inv_shape, shape_ports, shape_wch, shape_lcs, shape_dgp, and_self, h1]
    · split
      · simp (maxDischargeDepth := 40) only [migResult_inv, inv_mk, inv_clock, inv_mem, inv_wait, inv_queue, inv_shape, shape_ports, shape_wch, shape_lcs, shape_dgp, and_self, h1]
      · rename_i e1
        have h2 := beginGet_inv (Q := Q) _ _ _ _ _ _ (by simp (maxDischargeDepth := 40) only [inv_mk, inv_clock, inv_mem, inv_wait, inv_queue, inv_shape, shape_ports, shape_wch, shape_lcs, shape_dgp, and_self, h1]) _ e1
        dsimp only at h2
        simp (maxDischargeDepth := 40) only [startFlow_inv, inv_mk, inv_clock, inv_mem, inv_wait, inv_queue, inv_shape, shape_ports, shape_wch, shape_lcs, shape_dgp, and_self, h2]

theorem execMigrationEntryStart_inv (entry : Bytes) (s : State) (h1 : Kept Q s) : OutInv Q (execMigrationEntryStart entry s) := by
  unfold execMigrationEntryStart
  simp only [whenRunning_inv, entryStart_inv, h1]

theorem applyMigrate_inv (s : State) (c : Carrier) (q : Bytes) (h0 : Kept Q s) : Kept Q (applyMigrate s c q).2.2 := by
  unfold applyMigrate
  split <;> simp (maxDischargeDepth := 40) only [inv_mk, inv_clock, inv_mem, inv_wait, inv_queue, inv_shape, shape_ports, shape_wch, shape_lcs, shape_dgp, and_self, h0]

theorem migrationRecover_inv (s : State) (h0 : Kept Q s) : Kept Q (migrationRecover s) := by
  unfold migrationRecover
  apply inv_foldl
  · intro t a ht
    split
    · exact failGet_inv _ _ _ _ ht
    · exact ht
  · simp (maxDischargeDepth := 40) only [inv_mk, inv_clock, inv_mem, inv_wait, inv_queue, inv_shape, shape_ports, shape_wch, shape_lcs, shape_dgp, and_self, h0]

theorem migrateStop_inv (s : State) (c : Carrier) (q : Bytes) (h0 : Kept Q s) : Kept Q (migrateStop s c q) := by
  unfold migrateStop
  split <;> simp (maxDischargeDepth := 40) only [inv_mk, inv_clock, inv_mem, inv_wait, inv_queue, inv_shape, shape_ports, shape_wch, shape_lcs, shape_dgp, and_self, boxEnd_inv, h0]

theorem execMigrateStop_inv (c : Src) (s : State) (h1 : Kept Q s) : OutInv Q (execMigrateStop c s) := by
  unfold execMigrateStop
  (repeat' (first | (simp (maxDischargeDepth := 40) +contextual only [implies_true, lcsRun_inv, migrateStop_inv, h1]; done) | split | (simp only []; split)))

theorem modMgc_inv (s : State) (f : Mgc → Mgc) (h0 : Kept Q s) : Kept Q (modMgc s f) := by
  unfold modMgc
  simp only [inv_mk, inv_clock, inv_mem, inv_wait, inv_queue, inv_shape, shape_ports, shape_wch, shape_lcs, shape_dgp, and_self, h0]

theorem fwWrite_inv (s : State) (c : Carrier) (off : Nat) (d : Bytes) (h0 : Kept Q s) : Kept Q (fwWrite s c off d) := by
  unfold fwWrite
  simp only [modMgc_inv, h0]

theorem fwFinish_inv (s : State) (h0 : Kept Q s) : Kept Q (fwFinish s).2 := by
  unfold fwFinish
  (repeat' (first | (simp (maxDischargeDepth := 40) +contextual only [modMgc_inv, h0]; done) | split | (simp only []; split)))

theorem fwChunk_inv (s : State) (c : Carrier) (final : Bool) (off : Nat) (d : Bytes) (h0 : Kept Q s) : Kept Q (fwChunk s c final off d).2.2 := by
  unfold fwChunk
  (repeat' (first | (simp (maxDischargeDepth := 40) only [fwWrite_inv, fwFinish_inv, h0]; done) | split))

theorem admChunk_inv (p : Fin 8) (final : Bool) (s : State) (c : Cmd) (d : Bytes) (h2 : Kept Q s) : Kept Q (admChunk p final s c d) := by
  unfold admChunk
  simp (maxDischargeDepth := 40) only [inv_ite, admDone_inv, fwChunk_inv, h2]

theorem pldmChunk_inv (s : State) (final : Bool) (q : Bytes) (d : Bytes) (h0 : Kept Q s) : Kept Q (pldmChunk s final q d) := by
  unfold pldmChunk
  simp (maxDischargeDepth := 40) only [inv_ite, emit_inv, fwChunk_inv, h0]

theorem execFwUpdate_inv (c : Src) (s : State) (h1 : Kept Q s) : OutInv Q (execFwUpdate c s) := by
  unfold execFwUpdate
  (repeat' (first | (simp (maxDischargeDepth := 40) +contextual only [inv_ite, implies_true, whenRunning_inv, admRun_inv, admChunk_inv, mctpRun_inv, pldmChunk_inv, h1]; done) | split | (simp only []; split)))

theorem pldmRequest_inv (s : State) (h0 : Kept Q s) : Kept Q (pldmRequest s) := by
  unfold pldmRequest
  simp (maxDischargeDepth := 40) only [inv_ite, emit_inv, modMgc_inv, h0]

theorem execPldmRequestUpdate_inv (s : State) (h0 : Kept Q s) : OutInv Q (execPldmRequestUpdate s) := by
  unfold execPldmRequestUpdate
  simp only [mctpRun_inv, pldmRequest_inv, h0]

theorem fwTimeout_inv (s : State) (h0 : Kept Q s) : Kept Q (fwTimeout s) := by
  unfold fwTimeout
  (repeat' (first | (simp (maxDischargeDepth := 40) only [modMgc_inv, h0]; done) | split))

theorem execFwSessionTimeout_inv (s : State) (h0 : Kept Q s) : OutInv Q (execFwSessionTimeout s) := by
  unfold execFwSessionTimeout
  simp only [whenLive_inv, fwTimeout_inv, h0]

theorem execFwUpdateFinal_inv (c : Src) (s : State) (h1 : Kept Q s) : OutInv Q (execFwUpdateFinal c s) := by
  unfold execFwUpdateFinal
  (repeat' (first | (simp (maxDischargeDepth := 40) +contextual only [inv_ite, implies_true, whenRunning_inv, admRun_inv, admChunk_inv, mctpRun_inv, pldmChunk_inv, h1]; done) | split | (simp only []; split)))

theorem modChan_inv (s : State) (c : Nat) (f : MonChan → MonChan) (h0 : Kept Q s) : Kept Q (modChan s c f) := by
  unfold modChan
  simp only [modMgc_inv, h0]

theorem windowMove_inv (s : State) (c : Nat) (h0 : Kept Q s) : Kept Q (windowMove s c) := by
  unfold windowMove
  simp (maxDischargeDepth := 40) only [inv_ite, modChan_inv, logEvent_inv, h0]

theorem windowEnd_inv (s : State) (c : Nat) (h0 : Kept Q s) : Kept Q (windowEnd s c) := by
  unfold windowEnd
  simp (maxDischargeDepth := 40) only [inv_ite, windowMove_inv, h0]

theorem execMonitorWindowEnd_inv (c : Fin 64) (s : State) (h1 : Kept Q s) : OutInv Q (execMonitorWindowEnd c s) := by
  unfold execMonitorWindowEnd
  simp only [whenRunning_inv, windowEnd_inv, h1]

theorem monConfigure_inv (s : State) (q : Bytes) (h0 : Kept Q s) : Kept Q (monConfigure s q) := by
  unfold monConfigure
  simp only [modChan_inv, h0]

theorem monDisable_inv (s : State) (q : Bytes) (h0 : Kept Q s) : Kept Q (monDisable s q) := by
  unfold monDisable
  simp only [modChan_inv, h0]

theorem admSnapshot_inv (p : Fin 8) (s : State) (c : Cmd) (h1 : Kept Q s) : Kept Q (admSnapshot p s c) := by
  unfold admSnapshot
  simp (maxDischargeDepth := 40) only [inv_ite, admDone_inv, settleAdmAll_inv, modMgc_inv, modAdmQ_inv, h1]

theorem admMonitor_inv (p : Fin 8) (s : State) (c : Cmd) (x3 : Bytes) (h1 : Kept Q s) : Kept Q (admMonitor p s c x3) := by
  unfold admMonitor
  simp (maxDischargeDepth := 40) only [inv_ite, admDone_inv, monConfigure_inv, monDisable_inv, admSnapshot_inv, h1]

theorem snapshotOne_inv (s : State) (x : MonSnap) (h0 : Kept Q s) : Kept Q (snapshotOne s x) := by
  unfold snapshotOne
  (repeat' (first | (simp (maxDischargeDepth := 40) only [windowEnd_inv, modChan_inv, admDoneBy_inv, emit_inv, h0]; done) | split))

theorem mctpMonitor_inv (s : State) (q : Bytes) (h0 : Kept Q s) : Kept Q (mctpMonitor s q) := by
  unfold mctpMonitor
  simp (maxDischargeDepth := 40) only [inv_ite, emit_inv, monConfigure_inv, monDisable_inv, snapshotOne_inv, modMgc_inv, h0]

theorem monRun_inv (c : Src) (action : Nat) (s : State) (h2 : Kept Q s) : OutInv Q (monRun c action s) := by
  unfold monRun
  (repeat' (first | (simp (maxDischargeDepth := 40) +contextual only [inv_ite, implies_true, whenRunning_inv, admRun_inv, admMonitor_inv, mctpRun_inv, mctpMonitor_inv, h2]; done) | split | (simp only []; split)))

theorem execConfigure_inv (c : Src) (s : State) (h1 : Kept Q s) : OutInv Q (execConfigure c s) := by
  unfold execConfigure
  simp only [monRun_inv, h1]

theorem execSnapshot_inv (c : Src) (s : State) (h1 : Kept Q s) : OutInv Q (execSnapshot c s) := by
  unfold execSnapshot
  simp only [monRun_inv, h1]

theorem breathSampleOne_inv (s : State) (c : Nat) (h0 : Kept Q s) : Kept Q (breathSampleOne s c) := by
  unfold breathSampleOne
  have h1 := freshChoice_inv 257 s h0
  generalize freshChoice 257 s = p at h1 ⊢
  obtain ⟨v, s1⟩ := p
  dsimp only at h1 ⊢
  (repeat' (first | exact h0 | (simp (maxDischargeDepth := 40) only [inv_ite, modChan_inv, h0, h1]; done) | split))

theorem execSnapshotAndClear_inv (c : Src) (s : State) (h1 : Kept Q s) : OutInv Q (execSnapshotAndClear c s) := by
  unfold execSnapshotAndClear
  simp only [monRun_inv, h1]

theorem monitorsInhale_inv (s : State) (h0 : Kept Q s) : Kept Q (monitorsInhale s) := by
  unfold monitorsInhale
  (repeat' (first | (simp (maxDischargeDepth := 40) +contextual only [inv_foldl, implies_true, snapshotOne_inv, modMgc_inv, h0]; done) | split | (simp only []; split)))

theorem execDisable_inv (c : Src) (s : State) (h1 : Kept Q s) : OutInv Q (execDisable c s) := by
  unfold execDisable
  simp only [monRun_inv, h1]

theorem monitorsExhale_inv (s : State) (h0 : Kept Q s) : Kept Q (monitorsExhale s) := by
  unfold monitorsExhale
  (repeat' (first | (simp (maxDischargeDepth := 40) +contextual only [inv_foldl, implies_true, breathSampleOne_inv, h0]; done) | split | (simp only []; split)))

theorem modTwn_inv (s : State) (f : Twn → Twn) (h0 : Kept Q s) : Kept Q (modTwn s f) := by
  unfold modTwn
  simp only [inv_mk, inv_clock, inv_mem, inv_wait, inv_queue, inv_shape, shape_ports, shape_wch, shape_lcs, shape_dgp, and_self, h0]

theorem alignIn_inv (b : Bytes) (s : State) (h1 : Kept Q s) : Kept Q (alignIn b s) := by
  unfold alignIn
  simp (maxDischargeDepth := 40) only [inv_ite, modTwn_inv, h1]

theorem announce_inv (s : State) (h0 : Kept Q s) : Kept Q (announce s) := by
  unfold announce
  (repeat' (first | (simp (maxDischargeDepth := 40) +contextual only [inv_foldl, implies_true, txFrame_inv, h0]; done) | split | (simp only []; split)))

theorem resumeCeilings_inv (s : State) (h0 : Kept Q s) : Kept Q (resumeCeilings s) := by
  unfold resumeCeilings
  (repeat' (first | (simp (maxDischargeDepth := 40) +contextual only [inv_ite, inv_foldl, implies_true, modWch_inv, resumeFlow_inv, modStream_inv, h0]; done) | split | (simp only []; split)))

theorem takeInstances_inv (s : State) (h0 : Kept Q s) : Kept Q (takeInstances s) := by
  unfold takeInstances
  simp only [inv_mk, inv_clock, inv_mem, inv_wait, inv_queue, inv_shape, shape_ports, shape_wch, shape_lcs, shape_dgp, and_self, h0]

theorem takeover_inv (s : State) (h0 : Kept Q s) : Kept Q (takeover s) := by
  unfold takeover
  (repeat' (first | (simp (maxDischargeDepth := 40) only [inv_mk, inv_clock, inv_mem, inv_wait, inv_queue, inv_shape, shape_ports, shape_wch, shape_lcs, shape_dgp, and_self, modTwn_inv, startWaiting_inv, serialReserve_inv, announce_inv, resumeCeilings_inv, takeInstances_inv, regroup_inv, h0]; done) | split))

theorem execTakeover_inv (s : State) (h0 : Kept Q s) : OutInv Q (execTakeover s) := by
  unfold execTakeover
  simp only [whenRunning_inv, takeover_inv, h0]

theorem bootDelta_len (s : State) (base : Option Chart) (x : StoredImage) (hb : ∀ c, base = some c → LenOk c.log2Len) :
    ∀ c, bootDelta s base x = some c → LenOk c.log2Len := by
  intro c h
  unfold bootDelta at h
  split at h
  · cases h
  · split at h
    · cases h
    · split at h
      · rename_i e; cases h; exact deltaCheck_len _ _ _ e
      · cases h

theorem bootChart_len (s : State) (c : Chart) (h : bootChart s = some c) : LenOk c.log2Len := by
  have key : ∀ (l : List StoredImage) (b : Option Chart), (∀ c, b = some c → LenOk c.log2Len) →
      ∀ c, l.foldl (bootDelta s) b = some c → LenOk c.log2Len := by
    intro l
    induction l with
    | nil => intro b hb; exact hb
    | cons x rest ih => intro b hb; exact ih _ (bootDelta_len s b x hb)
  refine key _ _ ?_ c h
  intro d hd
  unfold bootFull at hd
  split at hd
  · cases hd
  · split at hd
    · cases hd
    · split at hd
      · rename_i e
        split at hd
        · cases hd; exact readFullChart_len _ _ _ _ e
        · cases hd
      · cases hd

theorem syncPulse_inv (s : State) (h0 : Kept Q s) : ∃ p, Kept ⟨Q.queue, p⟩ (syncPulse s) := by
  unfold syncPulse
  split
  · exact ⟨_, modTwn_inv _ _ h0⟩
  · have hl := h0.clock.len
    refine ⟨_, ⟨⟨h0.clock.len, h0.clock.next, h0.clock.step, h0.clock.req, fun _ => ?_, fun h => by cases h⟩, rfl⟩, h0.mem, h0.wait, h0.queue, h0.shape⟩
    have : (2 : Nat) ^ 10 ≤ 2 ^ s.brt.log2Len := Nat.pow_le_pow_right (by decide) hl.1
    simpa [modTwn] using Nat.le_trans (by decide) this

theorem takeEvidence_inv (s : State) (h0 : Kept Q s) : Kept Q (takeEvidence s) := by
  unfold takeEvidence
  simp (maxDischargeDepth := 40) only [inv_ite, logEvent_inv, modTwn_inv, h0]

theorem goAlone_inv (s : State) (h0 : Kept Q s) : Kept Q (goAlone s) := by
  unfold goAlone
  split
  · exact h0
  · dsimp only
    have h1 : Kept Q (s.twn.waits.foldl endWait (modTwn s (fun x => { x with role := 3, waits := [] }))) :=
      inv_foldl _ _ _ (fun t a ht => endWait_inv _ _ ht) (modTwn_inv _ _ h0)
    generalize List.foldl endWait (modTwn s (fun x => { x with role := 3, waits := [] })) s.twn.waits = s1 at h1 ⊢
    apply inv_foldl
    · intro t a ht
      split
      · exact journalAsk_inv _ _ _ ht
      · exact ht
    · apply inv_foldl
      · intro t a ht
        split
        · exact journalAsk_inv _ _ _ ht
        · exact ht
      · exact h1

theorem aliveTimeout_inv (s : State) (h0 : Kept Q s) : Kept Q (aliveTimeout s) := by
  unfold aliveTimeout
  simp (maxDischargeDepth := 40) only [inv_ite, takeEvidence_inv, goAlone_inv, h0]

theorem execPartnerAliveTimeout_inv (s : State) (h0 : Kept Q s) : OutInv Q (execPartnerAliveTimeout s) := by
  unfold execPartnerAliveTimeout
  simp only [whenRunning_inv, aliveTimeout_inv, h0]

theorem reserveAcked_inv (s : State) (b : Bytes) (h0 : Kept Q s) : Kept Q (reserveAcked s b) := by
  unfold reserveAcked
  simp (maxDischargeDepth := 40) only [inv_ite, confirmCeiling_inv, h0]

theorem ackTo_inv (s : State) (n : Nat) (h0 : Kept Q s) : Kept Q (ackTo s n) := by
  unfold ackTo
  (repeat' (first | (simp (maxDischargeDepth := 40) +contextual only [outInv_next, outInv_fault, outInv_ite, inv_ite, inv_foldl, inv_mk, inv_clock, inv_mem, inv_wait, inv_queue, inv_shape, shape_ports, shape_portsMap, shape_wch, shape_lcs, shape_dgp, and_self, implies_true, reserveAcked_inv, endWait_inv, modTwn_inv, h0]; done) | split | (simp only []; split)))

theorem twinReceive_inv (s : State) (t : TwinIn) (kind : Nat) (f : State → State) (h0 : Kept Q s) (h3 : ∀ y0 : State, Kept Q y0 → Kept Q (f y0)) : Kept Q (twinReceive s t kind f) := by
  unfold twinReceive
  simp (maxDischargeDepth := 40) only [inv_ite, modTwn_inv, ackTo_inv, h0, h3]

theorem execInstanceRec_inv (t : TwinIn) (s : State) (h1 : Kept Q s) : OutInv Q (execInstanceRec t s) := by
  unfold execInstanceRec
  exact whenRunning_inv _ _ (by assumption) (twinReceive_inv _ _ _ _ (by assumption) (fun _ h => h))

theorem domainRecord_inv (s : State) (b : Bytes) (h0 : Kept Q s) : Kept Q (domainRecord s b) := by
  unfold domainRecord
  (repeat' (first | (simp (maxDischargeDepth := 40) only [openPackage_inv, modDom_inv, h0]; done) | split))

theorem deltaRecord_inv (s : State) (inhale : Nat) (x : StoredImage) (h0 : Kept Q s) : Kept Q (deltaRecord s inhale x) := by
  unfold deltaRecord
  (repeat' (first | (simp (maxDischargeDepth := 40) only [inv_mk, inv_clock, inv_mem, inv_wait, inv_queue, inv_shape, shape_ports, shape_wch, shape_lcs, shape_dgp, and_self, applyDelta_inv, h0]; done) | split))

theorem fullRecord_inv (s : State) (x : StoredImage) (h0 : Kept Q s) : Kept Q (fullRecord s x) := by
  unfold fullRecord
  split
  · rename_i e
    split
    · exact h0
    · exact applyFull_inv _ _ ⟨h0.clock, h0.mem, h0.wait, h0.queue, h0.shape⟩ (readFullChart_len _ _ _ _ e)
  · exact h0

theorem chartRecord_inv (s : State) (b : Bytes) (h0 : Kept Q s) : Kept Q (chartRecord s b) := by
  unfold chartRecord
  (repeat' (first | (simp (maxDischargeDepth := 40) +contextual only [deltaRecord_inv, fullRecord_inv, h0]; done) | split | (simp only []; split)))

theorem dropInstance_inv (s : State) (i : Nat) (h0 : Kept Q s) : Kept Q (dropInstance s i) := by
  unfold dropInstance
  (repeat' (first | (simp (maxDischargeDepth := 40) +contextual only [inv_foldl, inv_mk, inv_clock, inv_mem, inv_wait, inv_queue, inv_shape, shape_ports, shape_wch, shape_lcs, shape_dgp, and_self, implies_true, freeSlot_inv, modBore_inv, h0]; done) | split | (simp only []; split)))

theorem instanceRecord_inv (s : State) (b : Bytes) (h0 : Kept Q s) : Kept Q (instanceRecord s b) := by
  unfold instanceRecord
  (repeat' (first | (simp (maxDischargeDepth := 40) +contextual only [inv_mk, inv_clock, inv_mem, inv_wait, inv_queue, inv_shape, shape_ports, shape_wch, shape_lcs, shape_dgp, and_self, dropInstance_inv, modInst_inv, h0]; done) | split | (simp only []; split)))

theorem streamRecord_inv (s : State) (b : Bytes) (h0 : Kept Q s) : Kept Q (streamRecord s b) := by
  unfold streamRecord
  (repeat' (first | (simp (maxDischargeDepth := 40) +contextual only [modBore_inv, modStream_inv, addStream_inv, h0]; done) | split | (simp only []; split)))

theorem slotRecord_inv (s : State) (b : Bytes) (h0 : Kept Q s) : Kept Q (slotRecord s b) := by
  unfold slotRecord
  (repeat' (first | (simp (maxDischargeDepth := 40) only [freeSlot_inv, fillSlot_inv, h0]; done) | split))

theorem reserveRecord_inv (s : State) (b : Bytes) (h0 : Kept Q s) : Kept Q (reserveRecord s b) := by
  unfold reserveRecord
  simp (maxDischargeDepth := 40) only [inv_ite, putCeiling_inv, modStream_inv, h0]

theorem snapshotRecord_inv (s : State) (h0 : Kept Q s) : Kept Q (snapshotRecord s) := by
  unfold snapshotRecord
  simp (maxDischargeDepth := 40) only [inv_ite, inv_mk, inv_clock, inv_mem, inv_wait, inv_queue, inv_shape, shape_ports, shape_wch, shape_lcs, shape_dgp, and_self, modTwn_inv, h0]

theorem applyRecord_inv (s : State) (r : TwinRec) (h0 : Kept Q s) : Kept Q (applyRecord s r) := by
  unfold applyRecord
  simp (maxDischargeDepth := 40) only [inv_ite, domainRecord_inv, chartRecord_inv, instanceRecord_inv, streamRecord_inv, slotRecord_inv, reserveRecord_inv, snapshotRecord_inv, h0]

theorem twinInhale_inv (s : State) (h0 : Kept Q s) : Kept Q (twinInhale s) := by
  unfold twinInhale
  (repeat' (first | (simp (maxDischargeDepth := 40) +contextual only [inv_foldl, implies_true, modTwn_inv, applyRecord_inv, h0]; done) | split | (simp only []; split)))

theorem execBreathSyncPulse_inv (s : State) (h0 : Kept Q s) : OutAny Q (execBreathSyncPulse s) := by
  unfold execBreathSyncPulse
  exact whenRunning_any _ _ h0 (syncPulse_inv s h0)

theorem twinLinked_inv (s : State) (n : Nat) (key : Bytes) (h0 : Kept Q s) : Kept Q (twinLinked s n key) := by
  unfold twinLinked
  simp only [modTwn_inv, h0]

theorem refuseTwin_inv (s : State) (id : Bytes) (h0 : Kept Q s) : Kept Q (refuseTwin s id) := by
  unfold refuseTwin
  simp only [logEvent_inv, modTwn_inv, h0]

theorem queueRecords_inv (s : State) (l : List (Nat × Bytes)) (h0 : Kept Q s) : Kept Q (queueRecords s l) := by
  unfold queueRecords
  (repeat' (first | (simp (maxDischargeDepth := 40) +contextual only [inv_foldl, implies_true, queueRecord_inv, h0]; done) | split | (simp only []; split)))

theorem sendSnapshot_inv (s : State) (h : TwinHello) (h0 : Kept Q s) : Kept Q (sendSnapshot s h) := by
  unfold sendSnapshot
  simp (maxDischargeDepth := 40) only [inv_ite, modTwn_inv, queueRecords_inv, packageFor_inv, h0]

theorem twinTrain_inv (s : State) (h : TwinHello) (h0 : Kept Q s) : Kept Q (twinTrain s h) := by
  unfold twinTrain
  (repeat' (first | (simp (maxDischargeDepth := 40) +contextual only [freshBytes_inv, refuseTwin_inv, sendSnapshot_inv, twinLinked_inv, h0]; done) | split | (simp only []; split)))

theorem sendRecord_inv (s : State) (r : TwinRec) (h0 : Kept Q s) : Kept Q (sendRecord s r) := by
  unfold sendRecord
  simp only [emit_inv, h0]

theorem sendNew_inv (s : State) (e : Nat × Bytes) (h0 : Kept Q s) : Kept Q (sendNew s e) := by
  unfold sendNew
  simp only [sendRecord_inv, modTwn_inv, h0]

theorem twinExhale_inv (s : State) (h0 : Kept Q s) : Kept Q (twinExhale s) := by
  unfold twinExhale
  (repeat' (first | (simp (maxDischargeDepth := 40) +contextual only [inv_ite, inv_foldl, implies_true, sendNew_inv, modTwn_inv, h0]; done) | split | (simp only []; split)))

theorem twinResend_inv (s : State) (h0 : Kept Q s) : Kept Q (twinResend s) := by
  unfold twinResend
  (repeat' (first | (simp (maxDischargeDepth := 40) +contextual only [inv_ite, inv_foldl, implies_true, sendRecord_inv, modTwn_inv, h0]; done) | split | (simp only []; split)))

theorem execTwinRecordResend_inv (s : State) (h0 : Kept Q s) : OutInv Q (execTwinRecordResend s) := by
  unfold execTwinRecordResend
  simp only [whenRunning_inv, twinResend_inv, h0]

theorem linkLost_inv (s : State) (h0 : Kept Q s) : Kept Q (linkLost s) := by
  unfold linkLost
  simp (maxDischargeDepth := 40) only [inv_ite, inv_mk, inv_clock, inv_mem, inv_wait, inv_queue, inv_shape, shape_ports, shape_wch, shape_lcs, shape_dgp, and_self, modTwn_inv, logEvent_inv, takeEvidence_inv, goAlone_inv, h0]

theorem execTwinLinkLost_inv (s : State) (h0 : Kept Q s) : OutInv Q (execTwinLinkLost s) := by
  unfold execTwinLinkLost
  simp only [whenRunning_inv, linkLost_inv, h0]

theorem execSnapshotEnd_inv (t : TwinIn) (s : State) (h1 : Kept Q s) : OutInv Q (execSnapshotEnd t s) := by
  unfold execSnapshotEnd
  exact whenRunning_inv _ _ (by assumption) (twinReceive_inv _ _ _ _ (by assumption) (fun _ h => h))

theorem execDomain_inv (t : TwinIn) (s : State) (h1 : Kept Q s) : OutInv Q (execDomain t s) := by
  unfold execDomain
  exact whenRunning_inv _ _ (by assumption) (twinReceive_inv _ _ _ _ (by assumption) (fun _ h => h))

theorem execAlign_inv (t : TwinIn) (s : State) (h1 : Kept Q s) : OutInv Q (execAlign t s) := by
  unfold execAlign
  (repeat' (first | (simp (maxDischargeDepth := 40) +contextual only [implies_true, whenRunning_inv, twinReceive_inv, alignIn_inv, h1]; done) | split | (simp only []; split)))

theorem heartbeatIn_inv (b : Bytes) (s : State) (h1 : Kept Q s) : Kept Q (heartbeatIn b s) := by
  unfold heartbeatIn
  simp only [modTwn_inv, h1]

theorem execChart_inv (t : TwinIn) (s : State) (h1 : Kept Q s) : OutInv Q (execChart t s) := by
  unfold execChart
  exact whenRunning_inv _ _ (by assumption) (twinReceive_inv _ _ _ _ (by assumption) (fun _ h => h))

theorem execStream_inv (t : TwinIn) (s : State) (h1 : Kept Q s) : OutInv Q (execStream t s) := by
  unfold execStream
  exact whenRunning_inv _ _ (by assumption) (twinReceive_inv _ _ _ _ (by assumption) (fun _ h => h))

theorem execSlot_inv (t : TwinIn) (s : State) (h1 : Kept Q s) : OutInv Q (execSlot t s) := by
  unfold execSlot
  exact whenRunning_inv _ _ (by assumption) (twinReceive_inv _ _ _ _ (by assumption) (fun _ h => h))

theorem execHeartbeat_inv (t : TwinIn) (s : State) (h1 : Kept Q s) : OutInv Q (execHeartbeat t s) := by
  unfold execHeartbeat
  (repeat' (first | (simp (maxDischargeDepth := 40) +contextual only [implies_true, whenRunning_inv, twinReceive_inv, heartbeatIn_inv, h1]; done) | split | (simp only []; split)))

theorem execReserve_inv (t : TwinIn) (s : State) (h1 : Kept Q s) : OutInv Q (execReserve t s) := by
  unfold execReserve
  exact whenRunning_inv _ _ (by assumption) (twinReceive_inv _ _ _ _ (by assumption) (fun _ h => h))

theorem execTwinHaltIn_inv (s : State) (h0 : Kept Q s) : OutInv Q (execTwinHaltIn s) := by
  unfold execTwinHaltIn
  simp (maxDischargeDepth := 40) only [whenRunning_inv, takeEvidence_inv, modTwn_inv, h0]

theorem execTwinLinkTrain_inv (h : TwinHello) (s : State) (h1 : Kept Q s) : OutInv Q (execTwinLinkTrain h s) := by
  unfold execTwinLinkTrain
  simp only [whenRunning_inv, twinTrain_inv, h1]

theorem execTwinHaltInRelease_inv (s : State) (h0 : Kept Q s) : OutInv Q (execTwinHaltInRelease s) := by
  unfold execTwinHaltInRelease
  simp only [whenRunning_inv, modTwn_inv, h0]

theorem execTwinAliveEdge_inv (s : State) (h0 : Kept Q s) : OutInv Q (execTwinAliveEdge s) := by
  unfold execTwinAliveEdge
  simp only [whenRunning_inv, modTwn_inv, h0]

end Sys2Proof.Laws
end

