-- ==== Sys2Proof/Laws/KeepDevice.lean ====
section
/-! SUPPORT. That each function over the state keeps what every state of a run holds (`BlockInv` of Safety.lean): registers, management, tamper, modes, boot, ciphers and the breath. -/

set_option linter.unusedSimpArgs false
set_option linter.unusedTactic false
set_option linter.unreachableTactic false
set_option linter.unusedVariables false

namespace Sys2Proof.Laws

open Sys2Proof Sys2Proof.Machine Sys2Proof.Safety

variable {Q : Keep}

theorem settleCipher_inv (s : State) (t : State) (k : Nat) (h0 : Kept Q s) (h1 : Kept Q t) : Kept Q (settleCipher s t k) := by
  unfold settleCipher
  (repeat' (first | (simp (maxDischargeDepth := 40) only [settleStream_inv, endEpoch_inv, h1]; done) | split))

theorem closeContext_inv (s : State) (j : Job) (c : CipherCtx) (h0 : Kept Q s) : Kept Q (closeContext s j c) := by
  unfold closeContext
  simp only [modBore_inv, h0]

theorem cipherLast_inv (s : State) (k : Nat) (j : Job) (c : CipherCtx) (key : Bytes) (aad : Bytes) (d : Bytes) (h0 : Kept Q s) : Kept Q (cipherLast s k j c key aad d) := by
  unfold cipherLast
  simp (maxDischargeDepth := 40) only [inv_ite, endOffLadder_inv, closeContext_inv, h0]

theorem cipherMore_inv (s : State) (k : Nat) (n : Nat) (j : Job) (c : CipherCtx) (key : Bytes) (aad : Bytes) (d : Bytes) (h0 : Kept Q s) : Kept Q (cipherMore s k n j c key aad d) := by
  unfold cipherMore
  simp only [modBore_inv, modJob_inv, h0]

theorem sliceEnd_inv (s : State) (k : Nat) (n : Nat) (j : Job) (c : CipherCtx) (h0 : Kept Q s) : Kept Q (sliceEnd s k n j c) := by
  unfold sliceEnd
  (repeat' (first | (simp (maxDischargeDepth := 40) only [endOffLadder_inv, leaveContext_inv, noteSlot_inv, cipherLast_inv, cipherMore_inv, h0]; done) | split))

theorem modSlice_inv (s : State) (k : Nat) (x : Slice) (h0 : Kept Q s) : Kept Q (modSlice s k x) := by
  unfold modSlice
  simp only [modJob_inv, h0]

theorem sliceEchoed_inv (s : State) (k : Nat) (good : Bool) (h0 : Kept Q s) : Kept Q (sliceEchoed s k good) := by
  unfold sliceEchoed
  (repeat' (first | (simp (maxDischargeDepth := 40) +contextual only [outInv_next, outInv_fault, outInv_ite, inv_ite, inv_foldl, inv_mk, inv_clock, inv_mem, inv_wait, inv_queue, inv_shape, shape_ports, shape_portsMap, shape_wch, shape_lcs, shape_dgp, and_self, implies_true, sliceEnd_inv, chargePipe_inv, endOffLadder_inv, leaveContext_inv, countMismatch_inv, modSlice_inv, h0]; done) | split | (simp only []; split)))

theorem echoOf_inv (s : State) (x : EchoOf) (i : Nat) (n : Nat) (good : Bool) (h0 : Kept Q s) : Kept Q (echoOf s x i n good) := by
  unfold echoOf
  split <;> simp (maxDischargeDepth := 40) only [echoResult_inv, settleCipher_inv, sliceEchoed_inv, h0]

theorem execEchoResult_inv (x : EchoOf) (i : Nat) (n : Nat) (good : Bool) (s : State) (h4 : Kept Q s) : OutInv Q (execEchoResult x i n good s) := by
  unfold execEchoResult
  simp (maxDischargeDepth := 40) only [inv_ite, whenRunning_inv, echoOf_inv, h4]

theorem resealSlice_inv (s : State) (k : Nat) (h0 : Kept Q s) : Kept Q (resealSlice s k) := by
  unfold resealSlice
  split
  · exact h0
  · rename_i x _
    cases hx : x.echo with
    | none => exact h0
    | some t =>
      simp only [Option.bind_some]
      split
      · exact h0
      · rename_i e
        exact modSlice_inv _ _ _ (resealOn_inv _ _ _ _ h0 _ e)

theorem resealOf_inv (s : State) (x : EchoOf) (i : Nat) (n : Nat) (h0 : Kept Q s) : Kept Q (resealOf s x i n) := by
  unfold resealOf
  split <;> simp (maxDischargeDepth := 40) only [reseal_inv, resealSlice_inv, h0]

theorem execReseal_inv (x : EchoOf) (i : Nat) (n : Nat) (s : State) (h3 : Kept Q s) : OutInv Q (execReseal x i n s) := by
  unfold execReseal
  simp (maxDischargeDepth := 40) only [inv_ite, whenRunning_inv, resealOf_inv, h3]

theorem pfReadClear_inv (s : State) (p : Fin 8) (v : Nat) (clear : State → State) (h0 : Kept Q s) (h3 : ∀ y0 : State, Kept Q y0 → Kept Q (clear y0)) : OutInv Q (pfReadClear s p v clear) := by
  unfold pfReadClear
  simp (maxDischargeDepth := 40) only [inv_ite, whenLive_inv, emit_inv, h0, h3]

theorem execPxtDropsRead_inv (p : Fin 8) (s : State) (h1 : Kept Q s) : OutInv Q (execPxtDropsRead p s) := by
  unfold execPxtDropsRead
  (repeat' (first | (simp (maxDischargeDepth := 40) +contextual only [implies_true, pfReadClear_inv, modPxt_inv, h1]; done) | split | (simp only []; split)))

theorem execRngSupplyRead_inv (p : Fin 8) (s : State) (h1 : Kept Q s) : OutInv Q (execRngSupplyRead p s) := by
  unfold execRngSupplyRead
  (repeat' (first | (simp (maxDischargeDepth := 40) +contextual only [implies_true, pfReadClear_inv, modRng_inv, h1]; done) | split | (simp only []; split)))

theorem brtLowRead_inv (s : State) (p : Nat) (h0 : Kept Q s) : Kept Q (brtLowRead s p) := by
  unfold brtLowRead
  split
  · exact h0
  · apply emit_inv
    exact ⟨⟨⟨h0.clock.len, h0.clock.next, h0.clock.step, h0.clock.req, h0.clock.work, h0.clock.out⟩, h0.clock.phase⟩, h0.mem, h0.wait, h0.queue, h0.shape⟩

theorem execBrtCountLowRead_inv (p : Fin 8) (s : State) (h1 : Kept Q s) : OutInv Q (execBrtCountLowRead p s) := by
  unfold execBrtCountLowRead
  simp only [whenLive_inv, brtLowRead_inv, h1]

theorem execPrtPortRead_inv (p : Fin 8) (f : Fin 64) (s : State) (h2 : Kept Q s) : OutInv Q (execPrtPortRead p f s) := by
  unfold execPrtPortRead
  (repeat' (first | (simp (maxDischargeDepth := 40) +contextual only [inv_ite, implies_true, pfReadClear_inv, modFab_inv, h2]; done) | split | (simp only []; split)))

theorem haltVecWrite_inv (s : State) (p : Nat) (v : Nat) (h0 : Kept Q s) : Kept Q (haltVecWrite s p v) := by
  unfold haltVecWrite
  simp (maxDischargeDepth := 40) only [inv_ite, modPort_inv, h0]

theorem msixSetWord_inv (s : State) (p : Nat) (vf : Nat) (off : Nat) (v : Nat) (h0 : Kept Q s) : Kept Q (msixSetWord s p vf off v) := by
  unfold msixSetWord
  (repeat' (first | (simp (maxDischargeDepth := 40) only [inv_ite, modMsix_inv, msixUnmask_inv, h0]; done) | split))

theorem pfWriteWord_inv (s : State) (p : Fin 8) (off : Nat) (v : Nat) (h0 : Kept Q s) : Kept Q (pfWriteWord s p off v) := by
  unfold pfWriteWord
  simp (maxDischargeDepth := 40) only [inv_ite, haltVecWrite_inv, modAdm_inv, dgpOwned_inv, modBox_inv, msixSetWord_inv, h0]

theorem execMprEccRead_inv (p : Fin 8) (s : State) (h1 : Kept Q s) : OutInv Q (execMprEccRead p s) :=
  pfReadClear_inv _ _ _ _ h1 (fun _ h => inv_setMem h ⟨h.mem.1, h.mem.2, h.mem.3, h.mem.4⟩)

theorem vfWriteWord_inv (s : State) (p : Fin 8) (vf : Nat) (off : Nat) (v : Nat) (h0 : Kept Q s) : Kept Q (vfWriteWord s p vf off v) := by
  unfold vfWriteWord
  (repeat' (first | (simp (maxDischargeDepth := 40) only [msixSetWord_inv, modInst_inv, h0]; done) | split))

theorem registerWriteOp_inv (s : State) (a : BarAddr) (wide : Bool) (v : Nat) (h0 : Kept Q s) : Kept Q (registerWriteOp s a wide v) := by
  unfold registerWriteOp
  (repeat' (first | (simp (maxDischargeDepth := 40) only [pfWriteWord_inv, vfWriteWord_inv, h0]; done) | split))

theorem execRngWaitRead_inv (p : Fin 8) (s : State) (h1 : Kept Q s) : OutInv Q (execRngWaitRead p s) := by
  unfold execRngWaitRead
  (repeat' (first | (simp (maxDischargeDepth := 40) +contextual only [implies_true, pfReadClear_inv, modRng_inv, h1]; done) | split | (simp only []; split)))

theorem execRegisterWrite_inv (a : BarAddr) (wide : Bool) (v : BitVec 64) (s : State) (h3 : Kept Q s) : OutInv Q (execRegisterWrite a wide v s) := by
  unfold execRegisterWrite
  simp only [whenRunning_inv, registerWriteOp_inv, h3]

theorem execBelStatusRead_inv (p : Fin 8) (s : State) (h1 : Kept Q s) : OutInv Q (execBelStatusRead p s) := by
  unfold execBelStatusRead
  (repeat' (first | (simp (maxDischargeDepth := 40) +contextual only [inv_mk, inv_clock, inv_mem, inv_wait, inv_queue, inv_shape, shape_ports, shape_wch, shape_lcs, shape_dgp, and_self, implies_true, pfReadClear_inv, h1]; done) | split | (simp only []; split)))

theorem execMonAlarmsRead_inv (p : Fin 8) (s : State) (h1 : Kept Q s) : OutInv Q (execMonAlarmsRead p s) := by
  unfold execMonAlarmsRead
  (repeat' (first | (simp (maxDischargeDepth := 40) +contextual only [implies_true, pfReadClear_inv, modMgc_inv, h1]; done) | split | (simp only []; split)))

theorem answer_inv (s : State) (st : Status) (body : Bytes) (h0 : Kept Q s) : Kept Q (answer s st body) := by
  unfold answer
  simp only [emit_inv, h0]

theorem setCak_inv (s : State) (d : Bytes) (h0 : Kept Q s) : Kept Q (setCak s d) := by
  unfold setCak
  (repeat' (first | (simp (maxDischargeDepth := 40) only [answer_inv, modFab_inv, h0]; done) | split))

theorem execSetCak_inv (d : Bytes) (s : State) (h1 : Kept Q s) : OutInv Q (execSetCak d s) := by
  unfold execSetCak
  simp only [mctpRun_inv, setCak_inv, h1]

theorem band_inv (s : State) (kind : Nat) (i : Nat) (outside : Bool) (f : State → State) (h0 : Kept Q s) (h4 : ∀ y0 : State, Kept Q y0 → Kept Q (f y0)) : Kept Q (band s kind i outside f) := by
  unfold band
  simp (maxDischargeDepth := 40) only [inv_ite, modMgc_inv, h0, h4]

theorem trialFailed_inv (s : State) (h0 : Kept Q s) : Kept Q (trialFailed s) := by
  unfold trialFailed
  simp (maxDischargeDepth := 40) only [inv_mk, inv_clock, inv_mem, inv_wait, inv_queue, inv_shape, shape_ports, shape_wch, shape_lcs, shape_dgp, and_self, logEvent_inv, modMgc_inv, h0]

theorem modeAnswer_inv (s : State) (ok : Bool) (t : State) (h0 : Kept Q s) (h2 : Kept Q t) : Kept Q (modeAnswer s ok t) := by
  unfold modeAnswer
  simp (maxDischargeDepth := 40) only [inv_ite, answer_inv, h0, h2]

theorem requestTune_inv (s : State) (q : Bytes) (h0 : Kept Q s) : Kept Q (requestTune s q) := by
  unfold requestTune
  simp (maxDischargeDepth := 40) only [inv_ite, answer_inv, stageRequest_inv, h0]

theorem execModeRequestTune_inv (q : Bytes) (s : State) (h1 : Kept Q s) : OutInv Q (execModeRequestTune q s) := by
  unfold execModeRequestTune
  simp (maxDischargeDepth := 40) only [mctpRun_inv, mctpDraw_inv, requestTune_inv, h1]

theorem askMode_inv (s : State) (r : ModeReq) (h0 : Kept Q s) : Kept Q (askMode s r) := by
  unfold askMode
  simp only [inv_mk, inv_clock, inv_mem, inv_wait, inv_queue, inv_shape, shape_ports, shape_wch, shape_lcs, shape_dgp, and_self, h0]

theorem recoverAlarm_inv (s : State) (h0 : Kept Q s) : Kept Q (recoverAlarm s) := by
  unfold recoverAlarm
  simp only [freshBytes_inv, logRecord_inv, h0]

theorem execModeRequestRecover_inv (s : State) (h0 : Kept Q s) : OutInv Q (execModeRequestRecover s) := by
  unfold execModeRequestRecover
  simp (maxDischargeDepth := 40) only [mctpRun_inv, modeAnswer_inv, askMode_inv, recoverAlarm_inv, h0]

theorem requestService_inv (s : State) (h0 : Kept Q s) : Kept Q (requestService s) := by
  unfold requestService
  simp (maxDischargeDepth := 40) only [inv_ite, answer_inv, logEvent_inv, modTwn_inv, modeAnswer_inv, askMode_inv, h0]

theorem execModeRequestService_inv (s : State) (h0 : Kept Q s) : OutInv Q (execModeRequestService s) := by
  unfold execModeRequestService
  simp only [mctpRun_inv, requestService_inv, h0]

theorem queryChange_inv (s : State) (idx : Nat) (h0 : Kept Q s) : Kept Q (queryChange s idx) := by
  unfold queryChange
  split <;> simp (maxDischargeDepth := 40) only [answer_inv, h0]

theorem clockAlarm_inv (s : State) (k : Nat) (limit : Nat) (d : Option Nat) (h0 : Kept Q s) : Kept Q (clockAlarm s k limit d) := by
  unfold clockAlarm
  (repeat' (first | (simp (maxDischargeDepth := 40) +contextual only [implies_true, band_inv, logEvent_inv, h0]; done) | split | (simp only []; split)))

theorem dropHostLinks_inv (s : State) (k : Nat) (h0 : Kept Q s) : Kept Q (dropHostLinks s k) := by
  unfold dropHostLinks
  (repeat' (first | (simp (maxDischargeDepth := 40) +contextual only [inv_foldl, implies_true, modPort_inv, h0]; done) | split | (simp only []; split)))

theorem pcieSample_inv (s : State) (k : Nat) (h0 : Kept Q s) : Kept Q (pcieSample s k) := by
  unfold pcieSample
  (repeat' (first | (simp (maxDischargeDepth := 40) +contextual only [implies_true, clockAlarm_inv, band_inv, dropHostLinks_inv, h0]; done) | split | (simp only []; split)))

theorem execQueryChange_inv (idx : BitVec 16) (s : State) (h1 : Kept Q s) : OutInv Q (execQueryChange idx s) := by
  unfold execQueryChange
  simp only [mctpRun_inv, queryChange_inv, h1]

theorem execReadSensors_inv (s : State) (h0 : Kept Q s) : OutInv Q (execReadSensors s) := by
  unfold execReadSensors
  simp only [mctpRun_inv, answer_inv, h0]

theorem requestHalt_inv (s : State) (eid : Byte) (h0 : Kept Q s) : Kept Q (requestHalt s eid) := by
  unfold requestHalt
  simp only [modeAnswer_inv, controlledHalt_inv, h0]

theorem execModeRequestHalted_inv (eid : Byte) (s : State) (h1 : Kept Q s) : OutInv Q (execModeRequestHalted eid s) := by
  unfold execModeRequestHalted
  simp only [mctpRun_inv, requestHalt_inv, h1]

theorem execSetTime_inv (ms : BitVec 64) (s : State) (h1 : Kept Q s) : OutInv Q (execSetTime ms s) := by
  unfold execSetTime
  simp (maxDischargeDepth := 40) only [mctpRun_inv, answer_inv, modMgc_inv, h1]

theorem thermalStep_inv (s : State) (n : Nat) (h0 : Kept Q s) (hn : n ≤ 2) : Kept Q (thermalStep s n) := by
  unfold thermalStep
  split
  · exact h0
  · dsimp only
    have h1 := logEvent_inv s 0x0201 (leBytes 1 (stepNow s) ++ leBytes 1 n ++ leBytes 2 (tMax s.mgc.readings)) h0
    have h2 : Kept Q { logEvent s 0x0201 (leBytes 1 (stepNow s) ++ leBytes 1 n ++ leBytes 2 (tMax s.mgc.readings)) with
        brt := { (logEvent s 0x0201 (leBytes 1 (stepNow s) ++ leBytes 1 n ++ leBytes 2 (tMax s.mgc.readings))).brt with stepReq := some n } } :=
      ⟨⟨⟨h1.clock.len, h1.clock.next, h1.clock.step, (fun k hk => by cases hk; exact hn), h1.clock.work, h1.clock.out⟩, h1.clock.phase⟩, h1.mem, h1.wait, h1.queue, h1.shape⟩
    split
    · exact modMgc_inv _ _ h2
    · exact h2

theorem execThermalComparator_inv (x0 : Bool) (s : State) (h1 : Kept Q s) : OutInv Q (execThermalComparator x0 s) := by
  unfold execThermalComparator
  apply whenLive_inv _ _ h1
  split
  · exact controlledHalt_inv _ _ _ _ h1
  · split
    · exact h1
    · exact thermalStep_inv _ _ h1 (by decide)

theorem voltSample_inv (s : State) (m : Nat) (h0 : Kept Q s) : Kept Q (voltSample s m) := by
  unfold voltSample
  (repeat' (first | (simp (maxDischargeDepth := 40) +contextual only [inv_ite, implies_true, band_inv, logEvent_inv, h0]; done) | split | (simp only []; split)))

theorem dropFabricLinks_inv (s : State) (j : Nat) (h0 : Kept Q s) : Kept Q (dropFabricLinks s j) := by
  unfold dropFabricLinks
  (repeat' (first | (simp (maxDischargeDepth := 40) +contextual only [inv_foldl, implies_true, modFab_inv, h0]; done) | split | (simp only []; split)))

theorem ethSample_inv (s : State) (j : Nat) (h0 : Kept Q s) : Kept Q (ethSample s j) := by
  unfold ethSample
  (repeat' (first | (simp (maxDischargeDepth := 40) +contextual only [implies_true, clockAlarm_inv, band_inv, dropFabricLinks_inv, h0]; done) | split | (simp only []; split)))

theorem sysSample_inv (s : State) (h0 : Kept Q s) : Kept Q (sysSample s) := by
  unfold sysSample
  (repeat' (first | (simp (maxDischargeDepth := 40) +contextual only [implies_true, band_inv, clockAlarm_inv, controlledHalt_inv, h0]; done) | split | (simp only []; split)))

theorem junctionSample_inv (s : State) (h0 : Kept Q s) : Kept Q (junctionSample s) := by
  unfold junctionSample
  (repeat' (first | (simp (maxDischargeDepth := 40) +contextual only [implies_true, band_inv, logEvent_inv, controlledHalt_inv, h0]; done) | split | (simp only []; split)))

theorem stepNow_le (s : State) (h0 : Kept Q s) : stepNow s ≤ 2 := by
  unfold stepNow
  cases h : s.brt.stepReq with
  | none => exact h0.clock.step
  | some n => exact h0.clock.req n h

theorem stepWanted_le (s : State) (h0 : Kept Q s) : stepWanted s ≤ 2 := by
  have h := stepNow_le s h0
  unfold stepWanted
  dsimp only
  split
  · omega
  · split
    · omega
    · split
      · omega
      · split
        · omega
        · exact h

theorem thermalDecide_inv (s : State) (h0 : Kept Q s) : Kept Q (thermalDecide s) := by
  unfold thermalDecide
  dsimp only
  exact thermalStep_inv _ _ (modMgc_inv _ _ h0) (stepWanted_le _ (modMgc_inv _ _ h0))

theorem sensorSample_inv (s : State) (r : Readings) (h0 : Kept Q s) : Kept Q (sensorSample s r) := by
  unfold sensorSample
  (repeat' (first | (simp (maxDischargeDepth := 40) +contextual only [inv_ite, inv_foldl, implies_true, voltSample_inv, modMgc_inv, ethSample_inv, pcieSample_inv, sysSample_inv, junctionSample_inv, thermalDecide_inv, h0]; done) | split | (simp only []; split)))

theorem execSensorSample_inv (r : Readings) (s : State) (h1 : Kept Q s) : OutInv Q (execSensorSample r s) := by
  unfold execSensorSample
  simp only [whenLive_inv, sensorSample_inv, h1]

theorem clockStepApply_inv (s : State) (h0 : Kept Q s) : Kept Q (clockStepApply s) := by
  unfold clockStepApply
  split
  · rename_i n hn
    split
    · exact ⟨⟨⟨h0.clock.len, h0.clock.next, h0.clock.req n hn, (fun k hk => by cases hk), h0.clock.work, h0.clock.out⟩, h0.clock.phase⟩, h0.mem, h0.wait, h0.queue, h0.shape⟩
    · exact h0
  · exact h0

theorem execClockStepApply_inv (s : State) (h0 : Kept Q s) : OutInv Q (execClockStepApply s) := by
  unfold execClockStepApply
  simp only [whenRunning_inv, clockStepApply_inv, h0]

theorem execGetStatus_inv (s : State) (h0 : Kept Q s) : OutInv Q (execGetStatus s) := by
  unfold execGetStatus
  simp only [whenLive_inv, answer_inv, h0]

theorem execReadLog_inv (n : Nat) (s : State) (h1 : Kept Q s) : OutInv Q (execReadLog n s) := by
  unfold execReadLog
  simp only [mctpRun_inv, answer_inv, h1]

theorem voltageFault_inv (s : State) (m : Nat) (h0 : Kept Q s) : Kept Q (voltageFault s m) := by
  unfold voltageFault
  simp (maxDischargeDepth := 40) only [inv_ite, controlledHalt_inv, h0]

theorem execVoltageFault_inv (m : Fin 16) (s : State) (h1 : Kept Q s) : OutInv Q (execVoltageFault m s) := by
  unfold execVoltageFault
  simp only [whenLive_inv, voltageFault_inv, h1]

theorem execSetEndpointId_inv (eid : Byte) (s : State) (h1 : Kept Q s) : OutInv Q (execSetEndpointId eid s) := by
  unfold execSetEndpointId
  simp (maxDischargeDepth := 40) only [mctpRun_inv, emit_inv, modMgc_inv, h1]

theorem execWatchdogExpire_inv (s : State) (h0 : Kept Q s) : OutInv Q (execWatchdogExpire s) := by
  unfold execWatchdogExpire
  simp (maxDischargeDepth := 40) only [inv_ite, whenLive_inv, trialFailed_inv, controlledHalt_inv, h0]

theorem newExportKey_inv (s : State) (h0 : Kept Q s) : Kept Q (newExportKey s) := by
  unfold newExportKey
  simp (maxDischargeDepth := 40) only [inv_ite, drbgDraw_inv, modWch_inv, h0]

theorem newRoot_inv (s : State) (h0 : Kept Q s) : Kept Q (newRoot s) := by
  unfold newRoot
  simp (maxDischargeDepth := 40) only [inv_mk, inv_clock, inv_mem, inv_wait, inv_queue, inv_shape, shape_ports, shape_wch, shape_lcs, shape_dgp, and_self, drbgDraw_inv, modWch_inv, logEvent_inv, h0]

theorem rngStart_inv (s : State) (h0 : Kept Q s) : Kept Q (rngStart s) := by
  unfold rngStart
  extract_lets s1
  have h1 : Kept Q s1 := modRng_inv _ _ h0
  have h2 := drbgDraw_inv (drbgCount s1 0) 15 32 (drbgCount_inv _ _ h1)
  generalize drbgDraw (drbgCount s1 0) 15 32 = p at h2 ⊢
  obtain ⟨k, s2⟩ := p
  dsimp only at h2 ⊢
  have h3 := drawRangeKeys_inv _ (modWch_inv s2 (fun w => { w with slotMac := k }) h2)
  have h4 := newExportKey_inv _ (inv_setMem h3 (m := { (drawRangeKeys (modWch s2 (fun w => { w with slotMac := k }))).mpr with
    keysReady := (drawRangeKeys (modWch s2 (fun w => { w with slotMac := k }))).mpr.trained }) ⟨h3.mem.1, h3.mem.2, h3.mem.3, h3.mem.4⟩)
  split
  · exact newRoot_inv _ h4
  · exact h4

theorem rngStartupTimeout_inv (s : State) (h0 : Kept Q s) : Kept Q (rngStartupTimeout s) := by
  unfold rngStartupTimeout
  simp (maxDischargeDepth := 40) only [inv_ite, modRng_inv, controlledHalt_inv, h0]

theorem execRngStartupTimeout_inv (s : State) (h0 : Kept Q s) : OutInv Q (execRngStartupTimeout s) := by
  unfold execRngStartupTimeout
  simp only [whenRunning_inv, rngStartupTimeout_inv, h0]

theorem zeroKeys_inv (s : State) (h0 : Kept Q s) : Kept Q (zeroKeys s) := by
  unfold zeroKeys
  simp only [inv_mk, inv_clock, inv_mem, inv_wait, inv_queue, inv_shape, shape_ports, shape_wch, shape_lcs, shape_dgp, and_self, h0]

theorem tamperFire_inv (s : State) (t : TamperSrc) (h0 : Kept Q s) : Kept Q (tamperFire s t) := by
  unfold tamperFire
  simp (maxDischargeDepth := 40) only [inv_ite, modWch_inv, zeroRoot_inv, zeroKeys_inv, controlledHalt_inv, h0]

theorem execTamperEvent_inv (t : TamperSrc) (s : State) (h1 : Kept Q s) : OutInv Q (execTamperEvent t s) := by
  unfold execTamperEvent
  (repeat' (first | (simp (maxDischargeDepth := 40) +contextual only [outInv_next, tamperFire_inv, h1]; done) | split | (simp only []; split)))

theorem rngHealthFail_inv (s : State) (cell : Nat) (h0 : Kept Q s) : Kept Q (rngHealthFail s cell) := by
  unfold rngHealthFail
  simp (maxDischargeDepth := 40) only [inv_ite, modRng_inv, controlledHalt_inv, h0]

theorem execRngHealthFail_inv (cell : Fin 16) (s : State) (h1 : Kept Q s) : OutInv Q (execRngHealthFail cell s) := by
  unfold execRngHealthFail
  simp only [whenRunning_inv, rngHealthFail_inv, h1]

theorem rngReady_inv (s : State) (h0 : Kept Q s) : Kept Q (rngReady s) := by
  unfold rngReady
  (repeat' (first | (simp (maxDischargeDepth := 40) +contextual only [inv_ite, inv_foldl, implies_true, answer_inv, rngStart_inv, h0]; done) | split | (simp only []; split)))

theorem execRngReady_inv (s : State) (h0 : Kept Q s) : OutInv Q (execRngReady s) := by
  unfold execRngReady
  simp only [whenRunning_inv, rngReady_inv, h0]

theorem execTamperClear_inv (mask : BitVec 32) (s : State) (h1 : Kept Q s) : OutInv Q (execTamperClear mask s) := by
  unfold execTamperClear
  simp only [whenLive_inv, modWch_inv, h1]

theorem applyTune_inv (s : State) (h0 : Kept Q s) : Kept Q (applyTune s).2.2 := by
  unfold applyTune
  split <;> simp (maxDischargeDepth := 40) only [inv_mk, inv_clock, inv_mem, inv_wait, inv_queue, inv_shape, shape_ports, shape_wch, shape_lcs, shape_dgp, and_self, h0]

theorem applyChange_inv (s : State) (c : Change) (h0 : Kept Q s) : Kept Q (applyChange s c).2.2 := by
  unfold applyChange
  (repeat' (first | (simp (maxDischargeDepth := 40) only [openPackage_inv, applyOfficer_inv, applyTune_inv, applyEscrowExport_inv, applyEscrowImport_inv, applyGrantClear_inv, applyLcTransition_inv, applyDomainFound_inv, exportPackage_inv, applyDomainRotate_inv, applyRewrap_inv, applyTwinEnrol_inv, applyDebugGrant_inv, applyMigrate_inv, h0]; done) | split))

theorem approveEnd_inv (s0 : State) (c : Change) (a : Carrier × Nat) (held : Nat) (r : Status × Bytes × State) (h : Kept Q r.2.2) : Kept Q (approveEnd s0 c a held r) := by
  unfold approveEnd
  dsimp only
  split
  · apply approveMirrored_inv
    split <;> simp only [boxShow_inv, h]
  · exact changeEnd_inv _ _ _ _ _ _ _ h

theorem approveLast_inv (s : State) (id : Nat) (c : Change) (aps : List (Nat × Bytes)) (a : Carrier × Nat) (h0 : Kept Q s) : Kept Q (approveLast s id c aps a) := by
  unfold approveLast
  have h1 := dropChange_inv s id h0
  dsimp only
  split
  · exact approveFull_inv _ _ _ _ _ h1
  · exact approveDelta_inv _ _ _ _ _ h1
  · apply approveEnd_inv
    dsimp only
    have h2 := applyChange_inv _ c h1
    split
    · exact logEvent_inv _ _ _ h2
    · exact h2

theorem approveFirst_inv (s : State) (id : Nat) (officer : Nat) (sig : Bytes) (a : Carrier × Nat) (h0 : Kept Q s) : Kept Q (approveFirst s id officer sig a) := by
  unfold approveFirst
  simp only [inv_mk, inv_clock, inv_mem, inv_wait, inv_queue, inv_shape, shape_ports, shape_wch, shape_lcs, shape_dgp, and_self, approveDone_inv, h0]

theorem approveOp_inv (s : State) (id : Nat) (officer : Nat) (sig : Bytes) (a : Carrier × Nat) (h0 : Kept Q s) : Kept Q (approveOp s id officer sig a) := by
  unfold approveOp
  (repeat' (first | (simp (maxDischargeDepth := 40) only [approveDone_inv, logEvent_inv, approveLast_inv, approveFirst_inv, h0]; done) | split))

theorem admApprove_inv (p : Fin 8) (s : State) (c : Cmd) (sig : Bytes) (h1 : Kept Q s) : Kept Q (admApprove p s c sig) := by
  unfold admApprove
  simp (maxDischargeDepth := 40) only [inv_ite, admDone_inv, approveOp_inv, modAdmQ_inv, h1]

theorem mctpApprove_inv (s : State) (q : Bytes) (sig : Bytes) (h0 : Kept Q s) : Kept Q (mctpApprove s q sig) := by
  unfold mctpApprove
  simp (maxDischargeDepth := 40) only [inv_ite, answer_inv, approveOp_inv, h0]

theorem execApprove_inv (c : Src) (s : State) (h1 : Kept Q s) : OutInv Q (execApprove c s) := by
  unfold execApprove
  (repeat' (first | (simp (maxDischargeDepth := 40) +contextual only [implies_true, whenRunning_inv, admRun_inv, admApprove_inv, mctpRun_inv, mctpApprove_inv, h1]; done) | split | (simp only []; split)))

theorem enterMode_inv (s : State) (m : Mode) (h0 : Kept Q s) : Kept Q (enterMode s m) := by
  unfold enterMode
  simp only [inv_mk, inv_clock, inv_mem, inv_wait, inv_queue, inv_shape, shape_ports, shape_wch, shape_lcs, shape_dgp, and_self, h0]

theorem enterTune_inv (s : State) (h0 : Kept Q s) : Kept Q (enterTune s) := by
  unfold enterTune
  simp only [inv_mk, inv_clock, inv_mem, inv_wait, inv_queue, inv_shape, shape_ports, shape_wch, shape_lcs, shape_dgp, and_self, enterMode_inv, h0]

theorem tuneEnter_inv (s : State) (h0 : Kept Q s) : Kept Q (tuneEnter s) := by
  unfold tuneEnter
  (repeat' (first | (simp (maxDischargeDepth := 40) only [enterTune_inv, h0]; done) | split))

theorem becomeActive_inv (s : State) (h0 : Kept Q s) : Kept Q (becomeActive s) := by
  unfold becomeActive
  simp only [queueRecords_inv, modTwn_inv, h0]

theorem enterShadow_inv (s : State) (h0 : Kept Q s) : Kept Q (enterShadow s) := by
  unfold enterShadow
  simp only [modTwn_inv, enterMode_inv, h0]

theorem resumeWork_inv (s : State) (h0 : Kept Q s) : Kept Q (resumeWork s) := by
  unfold resumeWork
  simp (maxDischargeDepth := 40) only [startWaiting_inv, renewOpenings_inv, regroup_inv, h0]

theorem enterService_inv (s : State) (h0 : Kept Q s) : Kept Q (enterService s) := by
  unfold enterService
  simp (maxDischargeDepth := 40) only [resumeWork_inv, modTwn_inv, enterMode_inv, h0]

theorem setRole_inv (s : State) (r : Nat) (h0 : Kept Q s) : Kept Q (setRole s r) := by
  unfold setRole
  simp only [modTwn_inv, h0]

theorem takeRole_inv (s : State) (r : Nat) (h0 : Kept Q s) : Kept Q (takeRole s r) := by
  unfold takeRole
  simp (maxDischargeDepth := 40) only [inv_ite, enterShadow_inv, enterService_inv, becomeActive_inv, setRole_inv, h0]

theorem quiesceBegin_inv (s : State) (h0 : Kept Q s) : Kept Q (quiesceBegin s) := by
  unfold quiesceBegin
  (repeat' (first | (simp (maxDischargeDepth := 40) only [inv_mk, inv_clock, inv_mem, inv_wait, inv_queue, inv_shape, shape_ports, shape_wch, shape_lcs, shape_dgp, and_self, enterTune_inv, setRole_inv, h0]; done) | split))

theorem execQuiesceBegin_inv (s : State) (h0 : Kept Q s) : OutInv Q (execQuiesceBegin s) := by
  unfold execQuiesceBegin
  simp only [whenRunning_inv, quiesceBegin_inv, h0]

theorem noRole_inv (s : State) (h0 : Kept Q s) : Kept Q (noRole s) := by
  unfold noRole
  simp only [modTwn_inv, h0]

theorem enterRecover_inv (s : State) (h0 : Kept Q s) : Kept Q (enterRecover s) := by
  unfold enterRecover
  simp (maxDischargeDepth := 40) only [inv_ite, enterMode_inv, regroup_inv, migrationRecover_inv, h0]

theorem execTuneEnter_inv (s : State) (h0 : Kept Q s) : OutInv Q (execTuneEnter s) := by
  unfold execTuneEnter
  simp only [whenRunning_inv, tuneEnter_inv, h0]

theorem requested_inv (s : State) (r : ModeReq) (h0 : Kept Q s) : Kept Q (requested s r) := by
  unfold requested
  split <;> simp (maxDischargeDepth := 40) only [inv_mk, inv_clock, inv_mem, inv_wait, inv_queue, inv_shape, shape_ports, shape_wch, shape_lcs, shape_dgp, and_self, enterRecover_inv, enterService_inv, enterShadow_inv, regroup_inv, enterMode_inv, h0]

theorem leaveTuneNow_inv (s : State) (c : Chart) (h0 : Kept Q s) : Kept Q (leaveTuneNow s c) := by
  unfold leaveTuneNow
  (repeat' (first | (simp (maxDischargeDepth := 40) only [inv_mk, inv_clock, inv_mem, inv_wait, inv_queue, inv_shape, shape_ports, shape_wch, shape_lcs, shape_dgp, and_self, takeRole_inv, enterService_inv, noRole_inv, h0]; done) | split))

theorem modeChange_inv (s : State) (h0 : Kept Q s) : Kept Q (modeChange s) := by
  unfold modeChange
  (repeat' (first | (simp (maxDischargeDepth := 40) only [inv_mk, inv_clock, inv_mem, inv_wait, inv_queue, inv_shape, shape_ports, shape_wch, shape_lcs, shape_dgp, and_self, enterRecover_inv, logEvent_inv, requested_inv, leaveTuneNow_inv, enterService_inv, h0]; done) | split))

theorem execModeChange_inv (s : State) (h0 : Kept Q s) : OutInv Q (execModeChange s) := by
  unfold execModeChange
  simp only [whenRunning_inv, modeChange_inv, h0]

theorem bootResolved_inv (old : Lcs) (s : State) (h1 : Kept Q s) : Kept Q (bootResolved old s) := by
  unfold bootResolved
  split <;> simp (maxDischargeDepth := 40) only [logEvent_inv, h1]

theorem cutJournal_inv (s : State) (h0 : Kept Q s) : Kept Q (cutJournal s).2 := by
  unfold cutJournal
  split <;> simp (maxDischargeDepth := 40) only [freshChoice_inv, h0]

theorem execSysRstNAssert_inv (s : State) (h0 : Kept Q s) : OutInv Q (execSysRstNAssert s) := by
  unfold execSysRstNAssert
  (repeat' (first | (simp (maxDischargeDepth := 40) +contextual only [outInv_next, inv_mk, inv_clock, inv_mem, inv_wait, inv_queue, inv_shape, shape_ports, shape_wch, shape_lcs, shape_dgp, and_self, h0]; done) | split | (simp only []; split)))

theorem leaveBoot_inv (s : State) (h0 : Kept Q s) : Kept Q (leaveBoot s) := by
  unfold leaveBoot
  split
  · exact enterMode_inv _ _ h0
  · rename_i c e
    have h1 := applyFull_inv s c h0 (bootChart_len s c e)
    dsimp only
    split
    · exact enterMode_inv _ _ (logEvent_inv _ _ _ h1)
    · split
      · exact takeRole_inv _ _ h1
      · exact noRole_inv _ h1

theorem clockOk_init : ClockOk Brt.init :=
  ⟨⟨by decide, by decide⟩, (fun _ h => by cases h), by decide, (fun _ h => by cases h), (fun _ => by decide), (fun h => by cases h)⟩

theorem memOk_init : MemOk Mpr.init := ⟨rfl, minors_nil, rfl, rfl⟩

theorem bootKeeps_inv (b : BootInfo) (s : State) (h1 : Kept Q s) : Kept ⟨Q.queue, (0, 0, false, 12)⟩ (bootKeeps b s) := by
  unfold bootKeeps
  have hq : (cutJournal s).2.pending = Q.queue := by
    unfold cutJournal
    split
    · exact h1.queue
    · exact h1.queue
  exact ⟨⟨clockOk_init, rfl⟩, memOk_init, (fun x hx => by cases hx), hq, ⟨rfl, rfl, rfl, rfl⟩⟩

theorem bootMemoryFault_inv (s : State) (h0 : Kept Q s) : Kept Q (bootMemoryFault s) := by
  unfold bootMemoryFault
  have h3 := freshWord_inv 35 _ (freshChoice_inv 16 _ (freshChoice_inv 7 s h0))
  exact immediateHalt_inv _ _ _ _ (inv_setMem h3 (memOk_memFaulted _ _ _ _ h3.mem))

theorem execPowerDown_inv (s : State) (h0 : Kept Q s) : OutInv Q (execPowerDown s) := by
  unfold execPowerDown
  (repeat' (first | (simp (maxDischargeDepth := 40) +contextual only [outInv_next, inv_mk, inv_clock, inv_mem, inv_wait, inv_queue, inv_shape, shape_ports, shape_wch, shape_lcs, shape_dgp, and_self, h0]; done) | split | (simp only []; split)))

theorem trialPassed_inv (s : State) (h0 : Kept Q s) : Kept Q (trialPassed s) := by
  unfold trialPassed
  simp (maxDischargeDepth := 40) only [inv_ite, inv_mk, inv_clock, inv_mem, inv_wait, inv_queue, inv_shape, shape_ports, shape_wch, shape_lcs, shape_dgp, and_self, logEvent_inv, modMgc_inv, h0]

theorem execBootChecksComplete_inv (memOk : Bool) (s : State) (h1 : Kept Q s) : OutInv Q (execBootChecksComplete memOk s) := by
  unfold execBootChecksComplete
  simp (maxDischargeDepth := 40) only [inv_ite, whenRunning_inv, trialPassed_inv, leaveBoot_inv, bootMemoryFault_inv, h1]

theorem bootMemory_inv (d : Dimms) (s : State) (h1 : Kept Q s) : Kept Q (bootMemory d s) := by
  unfold bootMemory
  split
  · exact inv_setMem h1 ⟨h1.mem.1, h1.mem.2, h1.mem.3, h1.mem.4⟩
  · have h2 := freshBytes_inv 3 s h1
    generalize freshBytes 3 s = p at h2 ⊢
    obtain ⟨x, s1⟩ := p
    exact logEvent_inv _ _ _ ⟨h2.clock, h2.mem, h2.wait, h2.queue, h2.shape⟩

theorem bootTrial_inv (b : BootInfo) (s : State) (h1 : Kept Q s) : Kept Q (bootTrial b s) := by
  unfold bootTrial
  (repeat' (first | (simp (maxDischargeDepth := 40) only [modMgc_inv, logEvent_inv, h1]; done) | split))

theorem bootRoot_inv (s : State) (h0 : Kept Q s) : Kept Q (bootRoot s) := by
  unfold bootRoot
  simp (maxDischargeDepth := 40) only [inv_mk, inv_clock, inv_mem, inv_wait, inv_queue, inv_shape, shape_ports, shape_wch, shape_lcs, shape_dgp, and_self, modWch_inv, serialsAtBoot_inv, h0]

theorem muteFailed_inv (s : State) (u : UnitName) (h0 : Kept Q s) : Kept Q (muteFailed s u) := by
  unfold muteFailed
  split <;> simp (maxDischargeDepth := 40) only [muteReed_inv, muteMau_inv, muteBellows_inv, muteUnit_inv, h0]

theorem bootFirmware_inv (b : BootInfo) (s : State) (h1 : Kept Q s) : Kept Q (bootFirmware b s) := by
  unfold bootFirmware
  simp (maxDischargeDepth := 40) only [inv_ite, inv_mk, inv_clock, inv_mem, inv_wait, inv_queue, inv_shape, shape_ports, shape_wch, shape_lcs, shape_dgp, and_self, bootTrial_inv, h1]

theorem powerOn_inv (b : BootInfo) (s : State) (h1 : Kept Q s) : Kept ⟨Q.queue, (0, 0, false, 12)⟩ (powerOn b s) := by
  have h2 := bootKeeps_inv b s h1
  unfold powerOn
  (repeat' (first | (simp (maxDischargeDepth := 40) +contextual only [inv_foldl, implies_true, bootResolved_inv, bootRoot_inv, bootFirmware_inv, muteFailed_inv, bootMemory_inv, h2]; done) | split | (simp only []; split)))

theorem execPowerOnReset_inv (b : BootInfo) (s : State) (h1 : Kept Q s) : OutAny Q (execPowerOnReset b s) := by
  unfold execPowerOnReset
  intro t ht
  cases ht
  split
  · exact ⟨_, powerOn_inv b s h1⟩
  · exact ⟨_, h1⟩

theorem lookasideInhale_inv (s : State) (h0 : Kept Q s) : Kept Q (lookasideInhale s) := by
  unfold lookasideInhale
  (repeat' (first | (simp (maxDischargeDepth := 40) +contextual only [inv_foldl, implies_true, modJob_inv, modBore_inv, h0]; done) | split | (simp only []; split)))

theorem tellLost_inv (s : State) (j : Job) (st : Status) (h0 : Kept Q s) : Kept Q (tellLost s j st) := by
  unfold tellLost
  simp (maxDischargeDepth := 40) only [inv_ite, modBore_inv, h0]

theorem touchStream_inv (s : State) (j : Job) (h0 : Kept Q s) : Kept Q (touchStream s j) := by
  unfold touchStream
  split <;> simp (maxDischargeDepth := 40) only [modStream_inv, h0]

theorem cipherAdmit_inv (s : State) (k : Nat) (h : Nat) (j : Job) (h0 : Kept Q s) : Kept Q (cipherAdmit s k h j) := by
  unfold cipherAdmit
  simp (maxDischargeDepth := 40) only [inv_ite, modBore_inv, touchStream_inv, modJob_inv, h0]

theorem parseCipher_inv (s : State) (k : Nat) (op : Nat) (h0 : Kept Q s) : Kept Q (parseCipher s k op) := by
  unfold parseCipher
  (repeat' (first | (simp (maxDischargeDepth := 40) only [rejectJob_inv, tellLost_inv, noteSlot_inv, cipherAdmit_inv, h0]; done) | split))

theorem execCipherEncrypt_inv (j : Nat) (s : State) (h1 : Kept Q s) : OutInv Q (execCipherEncrypt j s) := by
  unfold execCipherEncrypt
  simp only [whenRunning_inv, parseCipher_inv, h1]

theorem execCipherDecrypt_inv (j : Nat) (s : State) (h1 : Kept Q s) : OutInv Q (execCipherDecrypt j s) := by
  unfold execCipherDecrypt
  simp only [whenRunning_inv, parseCipher_inv, h1]

theorem cipherDiscard_inv (s : State) (k : Nat) (h0 : Kept Q s) : Kept Q (cipherDiscard s k) := by
  unfold cipherDiscard
  (repeat' (first | (simp (maxDischargeDepth := 40) only [rejectJob_inv, endOffLadder_inv, modBore_inv, h0]; done) | split))

theorem execCipherDiscard_inv (j : Nat) (s : State) (h1 : Kept Q s) : OutInv Q (execCipherDiscard j s) := by
  unfold execCipherDiscard
  simp only [whenRunning_inv, cipherDiscard_inv, h1]

theorem sliceToEcho_inv (s : State) (k : Nat) (x : Slice) (h0 : Kept Q s) : Kept Q (sliceToEcho s k x) := by
  unfold sliceToEcho
  refine inv_ite h0 ?_
  split
  · rename_i e
    have h := pickPipe_inv (groupPipes s .echoG) s h0
    rw [e] at h
    exact modSlice_inv _ _ _ h
  · exact h0

theorem sliceDone_inv (s : State) (k : Nat) (parity : Bool) (h0 : Kept Q s) : Kept Q (sliceDone s k parity) := by
  unfold sliceDone
  (repeat' (first | (simp (maxDischargeDepth := 40) only [modJob_inv, sliceToEcho_inv, sliceEnd_inv, h0]; done) | split))

theorem execCipherSliceDone_inv (j : Nat) (parity : Bool) (s : State) (h2 : Kept Q s) : OutInv Q (execCipherSliceDone j parity s) := by
  unfold execCipherSliceDone
  simp (maxDischargeDepth := 40) only [whenRunning_inv, settleCipher_inv, sliceDone_inv, h2]

theorem takeLeaf_inv (s : State) (k : Nat) (j : Job) (h0 : Kept Q s) : Kept Q (takeLeaf s k j) := by
  unfold takeLeaf
  (repeat' (first | (simp (maxDischargeDepth := 40) only [modStateful_inv, modJob_inv, h0]; done) | split))

theorem startJob_inv (s : State) (k : Nat) (h0 : Kept Q s) : Kept Q (startJob s k) := by
  unfold startJob
  split
  · exact h0
  · refine inv_ite h0 ?_
    split
    · exact startMoved_inv _ _ _ _ h0
    · exact startFresh_inv _ _ (modJob_inv _ _ _ h0)
    · exact startFresh_inv _ _ (takeLeaf_inv _ _ _ (modJob_inv _ _ _ h0))

theorem limiterEarn_inv (s : State) (h0 : Kept Q s) : Kept Q (limiterEarn s) := by
  unfold limiterEarn
  simp only [inv_mk, inv_clock, inv_mem, inv_wait, inv_queue, inv_shape, shape_ports, shape_wch, shape_lcs, shape_dgp, and_self, h0]

theorem placeAttest_inv (s : State) (n : Nat) (h0 : Kept Q s) : Kept Q (placeAttest s n) := by
  unfold placeAttest
  (repeat' (first | (simp (maxDischargeDepth := 40) +contextual only [inv_foldl, implies_true, assignJob_inv, h0]; done) | split | (simp only []; split)))

theorem inhalePins_inv (s : State) (h0 : Kept Q s) : Kept Q (inhalePins s) := by
  unfold inhalePins
  simp (maxDischargeDepth := 40) only [emit_inv, modTwn_inv, h0]

theorem streamsSettle_inv (s : State) (h0 : Kept Q s) : Kept Q (streamsSettle s) := by
  unfold streamsSettle
  (repeat' (first | (simp (maxDischargeDepth := 40) +contextual only [inv_foldl, implies_true, settleStream_inv, endEpoch_inv, h0]; done) | split | (simp only []; split)))

theorem beginExhale_inv (s : State) (h0 : Kept Q s) (hx : s.brt.exhale = false) : ∃ p, Kept ⟨Q.queue, p⟩ (beginExhale s) := by
  have hw := h0.clock.work hx
  refine ⟨_, ⟨⟨h0.clock.len, h0.clock.next, h0.clock.step, h0.clock.req, (fun h => by cases h), fun _ => ?_⟩, rfl⟩, h0.mem, h0.wait, h0.queue, h0.shape⟩
  simp only [beginExhale, passCycles_brt, breathLen]
  have : (2 : Nat) ^ 10 ≤ 2 ^ s.brt.log2Len := Nat.pow_le_pow_right (by decide) h0.clock.len.1
  omega

theorem displacedMove_inv (s : State) (k : Nat) (parity : Bool) (h0 : Kept Q s) : Kept Q (displacedMove s k parity) := by
  unfold displacedMove
  (repeat' (first | (simp (maxDischargeDepth := 40) +contextual only [outInv_next, outInv_fault, outInv_ite, inv_ite, inv_foldl, inv_mk, inv_clock, inv_mem, inv_wait, inv_queue, inv_shape, shape_ports, shape_portsMap, shape_wch, shape_lcs, shape_dgp, and_self, implies_true, flushFrames_inv, chargeReed_inv, modJob_inv, wipeUnits_inv, h0]; done) | split | (simp only []; split)))

theorem execDisplacedJobMove_inv (j : Access Nat) (s : State) (h1 : Kept Q s) : OutInv Q (execDisplacedJobMove j s) := by
  unfold execDisplacedJobMove
  simp only [whenRunning_inv, displacedMove_inv, h1]

theorem deltaPutOff_inv (s : State) (h0 : Kept Q s) : Kept Q (deltaPutOff s) := by
  unfold deltaPutOff
  (repeat' (first | (simp (maxDischargeDepth := 40) only [inv_mk, inv_clock, inv_mem, inv_wait, inv_queue, inv_shape, shape_ports, shape_wch, shape_lcs, shape_dgp, and_self, mirror_inv, h0]; done) | split))

theorem freeUnitsNow_inv (s : State) (h0 : Kept Q s) : Kept Q (freeUnitsNow s) := by
  unfold freeUnitsNow
  simp only [inv_mk, inv_clock, inv_mem, inv_wait, inv_queue, inv_shape, shape_ports, shape_wch, shape_lcs, shape_dgp, and_self, h0]

theorem sharesNow_inv (s : State) (h0 : Kept Q s) : Kept Q (sharesNow s) := by
  unfold sharesNow
  simp only [inv_mk, inv_clock, inv_mem, inv_wait, inv_queue, inv_shape, shape_ports, shape_wch, shape_lcs, shape_dgp, and_self, h0]

theorem startJobs_inv (s : State) (h0 : Kept Q s) : Kept Q (startJobs s) := by
  unfold startJobs
  (repeat' (first | (simp (maxDischargeDepth := 40) +contextual only [inv_ite, inv_foldl, inv_mk, inv_clock, inv_mem, inv_wait, inv_queue, inv_shape, shape_ports, shape_wch, shape_lcs, shape_dgp, and_self, implies_true, startJob_inv, h0]; done) | split | (simp only []; split)))

theorem clustersArrive_inv (s : State) (h0 : Kept Q s) : Kept Q (clustersArrive s) := by
  unfold clustersArrive
  simp only [inv_mk, inv_clock, inv_mem, inv_wait, inv_queue, inv_shape, shape_ports, shape_wch, shape_lcs, shape_dgp, and_self, h0]

theorem inhaleWork_inv (s : State) (h0 : Kept Q s) : Kept Q (inhaleWork s) := by
  unfold inhaleWork
  (repeat' (first | (simp (maxDischargeDepth := 40) +contextual only [outInv_next, outInv_fault, outInv_ite, inv_ite, inv_foldl, inv_mk, inv_clock, inv_mem, inv_wait, inv_queue, inv_shape, shape_ports, shape_portsMap, shape_wch, shape_lcs, shape_dgp, and_self, implies_true, limiterEarn_inv, freeUnitsNow_inv, sharesNow_inv, resetsInhale_inv, twinInhale_inv, inhalePins_inv, inhaleReeds_inv, startJobs_inv, clustersArrive_inv, boxesInhale_inv, monitorsInhale_inv, pipesJoin_inv, atsFlush_inv, macsecInhale_inv, streamsSettle_inv, startWaiting_inv, renewOpenings_inv, lookasideInhale_inv, h0]; done) | split | (simp only []; split)))

theorem nextBreath_inv (s : State) (h0 : Kept Q s) : ∃ p, Kept ⟨Q.queue, p⟩ (nextBreath s) := by
  have key : ∀ n, LenOk n → 0 + 256 ≤ 2 ^ n := by
    intro n hn
    have : (2 : Nat) ^ 10 ≤ 2 ^ n := Nat.pow_le_pow_right (by decide) hn.1
    omega
  have hl : ∀ b : Bool, LenOk (if b then s.brt.nextLog2.getD s.brt.log2Len else s.brt.log2Len) := by
    intro b
    cases b with
    | false => exact h0.clock.len
    | true =>
      cases h : s.brt.nextLog2 with
      | none => exact h0.clock.len
      | some n => exact h0.clock.next n h
  refine ⟨_, ⟨⟨hl _, ?_, h0.clock.step, h0.clock.req, (fun _ => key _ (hl _)), (fun h => by cases h)⟩, rfl⟩, h0.mem, h0.wait, h0.queue, h0.shape⟩
  intro n hn
  simp only [nextBreath] at hn
  split at hn
  · cases hn
  · exact h0.clock.next n hn

theorem inhale_inv (s : State) (h0 : Kept Q s) : ∃ p, Kept ⟨Q.queue, p⟩ (inhale s) := by
  unfold inhale
  split
  · obtain ⟨p, h⟩ := nextBreath_inv _ (deltaPutOff_inv _ (lastMessages_inv s h0))
    exact ⟨p, inhaleWork_inv _ h⟩
  · exact ⟨_, h0⟩

theorem abortsExhale_inv (s : State) (h0 : Kept Q s) : Kept Q (abortsExhale s) := by
  unfold abortsExhale
  (repeat' (first | (simp (maxDischargeDepth := 40) +contextual only [inv_foldl, implies_true, abortNow_inv, h0]; done) | split | (simp only []; split)))

theorem placeNext_inv (s : State) (h0 : Kept Q s) : Kept Q (placeNext s) := by
  unfold placeNext
  simp (maxDischargeDepth := 40) only [inv_ite, placement_inv, placeAttest_inv, placeDisplaced_inv, h0]

theorem masksReseed_inv (s : State) (h0 : Kept Q s) : Kept Q (masksReseed s) := by
  unfold masksReseed
  simp (maxDischargeDepth := 40) only [inv_ite, drbgCount_inv, h0]

theorem exhaleWork_inv (s : State) (h0 : Kept Q s) : Kept Q (exhaleWork s) := by
  unfold exhaleWork
  simp (maxDischargeDepth := 40) only [resetsExhale_inv, exhaleReeds_inv, budgetsExhale_inv, abortsExhale_inv, bellDrain_inv, placeNext_inv, formBatches_inv, monitorsExhale_inv, masksReseed_inv, twinExhale_inv, h0]

theorem exhale_inv (s : State) (h0 : Kept Q s) : ∃ p, Kept ⟨Q.queue, p⟩ (exhale s) := by
  unfold exhale
  split
  · exact ⟨_, h0⟩
  · rename_i h
    obtain ⟨p, h⟩ := beginExhale_inv s h0 (by simpa using h)
    exact ⟨p, exhaleWork_inv _ h⟩

theorem execInhale_inv (s : State) (h0 : Kept Q s) : OutAny Q (execInhale s) := by
  unfold execInhale
  exact whenRunning_any _ _ h0 (inhale_inv s h0)

theorem execExhale_inv (s : State) (h0 : Kept Q s) : OutAny Q (execExhale s) := by
  unfold execExhale
  exact whenRunning_any _ _ h0 (exhale_inv s h0)

end Sys2Proof.Laws
end

