-- ==== Sys2Proof/Laws/Reed.lean ====
section
/-! SUPPORT. What the shared operations of the reeds do: elements written into registers and groups, masks, and a field of a word that
acts. -/

namespace Sys2Proof.Laws

open Sys2Proof Sys2Proof.Machine Sys2Proof.Safety

/-! ### Bits of a register -/

theorem putBits_bit {n : Nat} (r : BitVec n) (lo w x i : Nat) (hi : i < n) :
    (putBits r lo w x).getLsbD i = if lo ≤ i ∧ i < lo + w then x.testBit (i - lo) else r.getLsbD i := by
  unfold putBits
  simp only [BitVec.getLsbD_or, BitVec.getLsbD_and, BitVec.getLsbD_not, BitVec.getLsbD_ofNat, hi, decide_true, Bool.true_and,
    Nat.testBit_shiftLeft, Nat.testBit_two_pow_sub_one, Nat.testBit_mod_two_pow]
  by_cases h1 : lo ≤ i
  · by_cases h2 : i < lo + w
    · have h3 : i - lo < w := by omega
      simp [h1, h2, h3]
    · have h3 : ¬ i - lo < w := by omega
      simp [h1, h2, h3]
  · simp [h1]

theorem regWith_bit (r : BitVec 512) (w base : Nat) (f : Nat → Option Nat) (hw : 0 < w) (m i : Nat) (hi : i < 512) :
    ((List.range m).foldl (fun acc e => match f (base + e) with
      | none => acc
      | some x => putBits acc (e * w) w x) r).getLsbD i
      = if i / w < m then (match f (base + i / w) with
          | none => r.getLsbD i
          | some x => x.testBit (i % w)) else r.getLsbD i := by
  induction m with
  | zero => simp
  | succ m ih =>
    rw [List.range_succ, List.foldl_append]
    simp only [List.foldl_cons, List.foldl_nil]
    have hdiv := Nat.div_add_mod i w
    have hmod := Nat.mod_lt i hw
    by_cases hm : i / w = m
    · subst hm
      simp only [Nat.lt_irrefl, if_false] at ih
      cases hf : f (base + i / w) with
      | none => simp only [ih]; simp
      | some x =>
        simp only
        rw [putBits_bit _ _ _ _ _ hi]
        have h1 : i / w * w ≤ i := Nat.div_mul_le_self i w
        have h2 : i < i / w * w + w := by rw [Nat.mul_comm (i / w) w]; omega
        have h3 : i - i / w * w = i % w := by rw [Nat.mul_comm (i / w) w]; omega
        simp [h1, h2, h3]
    · have key : (match f (base + m) with
          | none => List.foldl (fun acc e => match f (base + e) with
              | none => acc
              | some x => putBits acc (e * w) w x) r (List.range m)
          | some x => putBits (List.foldl (fun acc e => match f (base + e) with
              | none => acc
              | some x => putBits acc (e * w) w x) r (List.range m)) (m * w) w x).getLsbD i
          = (List.foldl (fun acc e => match f (base + e) with
              | none => acc
              | some x => putBits acc (e * w) w x) r (List.range m)).getLsbD i := by
        cases f (base + m) with
        | none => rfl
        | some x =>
          simp only
          rw [putBits_bit _ _ _ _ _ hi, if_neg]
          rintro ⟨a, b⟩
          apply hm
          apply Nat.div_eq_of_lt_le
          · rw [Nat.mul_comm] at a ⊢; exact a
          · rw [Nat.succ_mul]; exact b
      rw [key, ih]
      have h4 : i / w < m + 1 ↔ i / w < m := by omega
      simp [h4]

/-- An element of a register whose elements were replaced. -/
theorem regWith_elem (r : BitVec 512) (w base : Nat) (f : Nat → Option Nat) (hw : 0 < w) (hd : w ∣ 512) (e : Nat) (he : e < 512 / w) :
    ((regWith r w base f).toNat >>> (e * w)) % 2 ^ w
      = match f (base + e) with
        | none => (r.toNat >>> (e * w)) % 2 ^ w
        | some x => x % 2 ^ w := by
  apply Nat.eq_of_testBit_eq
  intro b
  obtain ⟨n, hn⟩ := hd
  have hn0 : 512 / w = n := by rw [hn]; exact Nat.mul_div_cancel_left n hw
  rw [hn0] at he
  by_cases hb : b < w
  · have hi : e * w + b < 512 := by
      have : (e + 1) * w ≤ n * w := Nat.mul_le_mul_right w he
      rw [hn, Nat.mul_comm w n]; rw [Nat.succ_mul] at this; omega
    have hq : (e * w + b) / w = e := by rw [Nat.mul_comm, Nat.mul_add_div hw, Nat.div_eq_of_lt hb, Nat.add_zero]
    have hr : (e * w + b) % w = b := by rw [Nat.mul_comm, Nat.mul_add_mod, Nat.mod_eq_of_lt hb]
    have key := regWith_bit r w base f hw (512 / w) (e * w + b) hi
    rw [hq, hr, hn0, if_pos he] at key
    simp only [Nat.testBit_mod_two_pow, hb, decide_true, Bool.true_and, Nat.testBit_shiftRight]
    have : (regWith r w base f).toNat.testBit (e * w + b) = (regWith r w base f).getLsbD (e * w + b) := rfl
    rw [this]
    unfold regWith
    rw [hn0]
    refine Eq.trans key ?_
    cases f (base + e) with
    | none => simp [hb, BitVec.getLsbD, Nat.testBit_shiftRight]
    | some x => simp [hb]
  · cases f (base + e) <;> simp [hb]

/-! ### Registers of a core -/

theorem vGet_set_same (c : ReedCore) (k : Nat) (x : BitVec 512) : vGet (vSet c k x) k = x := storeGet_set_same _ _ _

theorem vGet_set_other (c : ReedCore) (k i : Nat) (x : BitVec 512) (h : i ≠ k) : vGet (vSet c k x) i = vGet c i :=
  storeGet_set_other _ _ _ _ h

theorem sGet_set_same (c : ReedCore) (k : Nat) (x : BitVec 64) (h : k ≠ 0) : sGet (sSet c k x) k = x := by
  simp [sGet, sSet, h, storeGet_set_same]

theorem sGet_set_other (c : ReedCore) (k i : Nat) (x : BitVec 64) (h : i ≠ k) : sGet (sSet c k x) i = sGet c i := by
  unfold sGet sSet
  split
  · rfl
  · split
    · rfl
    · exact storeGet_set_other _ _ _ _ h

theorem mGet_set_same (c : ReedCore) (k : Nat) (x : BitVec 256) : mGet (mSet c k x) k = x := storeGet_set_same _ _ _

theorem mGet_set_other (c : ReedCore) (k i : Nat) (x : BitVec 256) (h : i ≠ k) : mGet (mSet c k x) i = mGet c i :=
  storeGet_set_other _ _ _ _ h

/-- The registers of a group after a change of its elements. -/
theorem groupWith_reg (w d : Nat) (f : Nat → Option Nat) (c : ReedCore) (g k : Nat) :
    vGet (groupWith w g d f c) k = if d ≤ k ∧ k < d + g then regWith (vGet c k) w ((k - d) * (512 / w)) f else vGet c k := by
  unfold groupWith
  induction g with
  | zero =>
    rw [if_neg (by omega)]
    rfl
  | succ g ih =>
    rw [List.range_succ, List.foldl_append]
    simp only [List.foldl_cons, List.foldl_nil]
    by_cases hk : k = d + g
    · subst hk
      rw [vGet_set_same, ih]
      simp
    · rw [vGet_set_other _ _ _ _ hk, ih]
      have : (d ≤ k ∧ k < d + g) ↔ (d ≤ k ∧ k < d + (g + 1)) := by omega
      simp [this]

/-- A change of a group's elements changes vector registers alone. -/
theorem groupWith_frame (w g d : Nat) (f : Nat → Option Nat) (c : ReedCore) : { groupWith w g d f c with v := c.v } = c := by
  unfold groupWith
  induction g with
  | zero => rfl
  | succ g ih => rw [List.range_succ, List.foldl_append]; exact ih

/-- Element `i` of a group after a change of its elements. -/
theorem groupWith_elem (w g d : Nat) (f : Nat → Option Nat) (c : ReedCore) (hw : 0 < w) (hd : w ∣ 512) (i : Nat) (hi : i < g * (512 / w)) :
    elemAt w (groupWith w g d f c) d i = match f i with
      | none => elemAt w c d i
      | some x => x % 2 ^ w := by
  obtain ⟨n, hn⟩ := hd
  have hn0 : 512 / w = n := by rw [hn]; exact Nat.mul_div_cancel_left n hw
  rw [hn0] at hi
  have hnp : 0 < n := by
    rcases Nat.eq_zero_or_pos n with h | h
    · rw [h] at hn; omega
    · exact h
  have h1 : i * w / 512 = i / n := by rw [hn, Nat.mul_comm i w, Nat.mul_div_mul_left _ _ hw]
  have h2 : i * w % 512 = i % n * w := by rw [hn, Nat.mul_comm i w, Nat.mul_mod_mul_left, Nat.mul_comm]
  have h3 : i / n < g := Nat.div_lt_of_lt_mul (by rw [Nat.mul_comm]; exact hi)
  unfold elemAt
  rw [h1, h2, groupWith_reg, if_pos ⟨by omega, by omega⟩, Nat.add_sub_cancel_left,
    regWith_elem _ _ _ _ hw ⟨n, hn⟩ _ (by rw [hn0]; exact Nat.mod_lt _ hnp), hn0, Nat.mul_comm (i / n) n, Nat.div_add_mod]

theorem ewBits_pos (c : ReedCore) : 0 < ewBits c := Nat.mul_pos (by decide) (Nat.pow_pos (by decide))

theorem ewBits_dvd (c : ReedCore) : ewBits c ∣ 512 := by
  unfold ewBits
  have h : min c.ew 2 = 0 ∨ min c.ew 2 = 1 ∨ min c.ew 2 = 2 := by omega
  rcases h with h | h | h <;> rw [h] <;> decide

/-! ### A word that issues, and a field of it that acts -/

theorem reedAt_setReed (s : State) (r : Nat) (x : Reed) : reedAt (setReed s r x) r = x := by
  simp [reedAt, setReed, tblGetD, tblGet_put_same]

theorem clusterAt_setReed (s : State) (r c : Nat) (x : Reed) : clusterAt (setReed s r x) c = clusterAt s c := rfl

theorem muteReed_reeds (s : State) (r c : Nat) : (muteReed s r c).reeds = s.reeds := by
  unfold muteReed displaceJobs muteUnit logEvent
  split <;> rfl

theorem reedAt_wipeReed_issue (s : State) (r : Nat) : (reedAt (wipeReed s r) r).issue = none := by
  have h := reedAt_setReed s r { Reed.init with breakpoints := (reedAt s r).breakpoints, defect := (reedAt s r).defect }
  unfold wipeReed
  dsimp only
  split
  · rw [reedAt, muteReed_reeds]
    exact congrArg Reed.issue h
  · exact congrArg Reed.issue h

theorem endWith_issue (s : State) (r : Nat) (res : JobResult) (h : (reedAt s r).issue.any Issue.issued = false) :
    (reedAt (endWith s r res) r).issue.any Issue.issued = false := by
  unfold endWith
  split
  · exact h
  · rw [reedAt_wipeReed_issue]; rfl

theorem microTrap_issue (s : State) (r entry : Nat) (c : ReedCore) (p : Option Resume) (run : ReedRun) :
    (reedAt (microTrap s r entry c p run) r).issue = none := by
  unfold microTrap
  rw [reedAt_setReed]

theorem noteCorrupt_reeds (s : State) (r : Nat) (e : RFault) : (noteCorrupt s r e).reeds = s.reeds := by
  unfold noteCorrupt markCorrupt uncacheSlot modWch
  (repeat' split) <;> rfl

/-- What opening a word can do: it had issued; or it issues now, its core as it was; or it has not issued. -/
theorem openWord_cases (s : State) (r : Nat) :
    ((reedAt s r).issue.any Issue.issued = true ∧ openWord s r = s) ∨
    openWord s r = issueWord s r { issueOf (reedAt s r) with before := (reedAt s r).core } (wordNow s r) ∨
    (reedAt (openWord s r) r).issue.any Issue.issued = false := by
  by_cases hi : (reedAt s r).issue.any Issue.issued = true
  · exact .inl ⟨hi, by simp [openWord, hi]⟩
  · refine .inr ?_
    have hn : (reedAt s r).issue.any Issue.issued = false := by simpa using hi
    have hio : (issueOf (reedAt s r)).issued = false := by
      unfold issueOf
      cases h : (reedAt s r).issue with
      | none => rfl
      | some x => rw [h] at hn; simpa using hn
    unfold openWord
    rw [if_neg hi]
    dsimp only
    split
    · rename_i e _
      right
      unfold takeFault kernelFault
      dsimp only
      split
      · apply endWith_issue
        have : reedAt { noteCorrupt s r e with free := s.free + 1 } r = reedAt s r := by
          show tblGetD (noteCorrupt s r e).reeds r _ = _
          rw [noteCorrupt_reeds]; rfl
        rw [this]; exact hn
      · rw [microTrap_issue]; rfl
    · split
      · right
        unfold takeBusy kernelFault
        dsimp only
        split
        · exact endWith_issue _ _ _ hn
        · rw [microTrap_issue]; rfl
      · split
        · right
          unfold takeBusy kernelFault
          dsimp only
          split
          · exact endWith_issue _ _ _ hn
          · rw [microTrap_issue]; rfl
        · split
          · right; rw [microTrap_issue]; rfl
          · split
            · right
              have : ∀ t : State, (askFresh t r).reeds = t.reeds := by
                intro t
                unfold askFresh modRng
                (repeat' split) <;> rfl
              rw [reedAt, this]
              show (reedAt (setReed s r _) r).issue.any Issue.issued = false
              rw [reedAt_setReed]
              exact hio
            · split
              · right; rw [reedAt_setReed]; exact hio
              · split
                · right; rw [reedAt_setReed]; exact hio
                · exact .inl rfl

theorem modCluster_cs (s : State) (k c : Nat) (f : Cluster → Cluster) (hf : ∀ x, (f x).cs = x.cs ∧ (f x).placed = x.placed) :
    (clusterAt (modCluster s k f) c).cs = (clusterAt s c).cs ∧ (clusterAt (modCluster s k f) c).placed = (clusterAt s c).placed := by
  by_cases h : c = k
  · subst h
    simp only [clusterAt, modCluster, setCluster, tblGetD, tblGet_put_same]
    exact hf _
  · simp only [clusterAt, modCluster, setCluster, tblGetD, tblGet_put_other _ _ _ _ h, and_self]

/-- The word at a reed's sequencer is fixed by the reed's place and its cluster's control store. -/
theorem wordNow_congr (s t : State) (r : Nat) (hu : (reedAt t r).core = (reedAt s r).core) (hr : (reedAt t r).routine = (reedAt s r).routine)
    (hc : (clusterAt t (reedCluster r)).cs = (clusterAt s (reedCluster r)).cs)
    (hp : (clusterAt t (reedCluster r)).placed = (clusterAt s (reedCluster r)).placed) : wordNow t r = wordNow s r := by
  unfold wordNow wordAt wordAddr routineBase
  rw [hu, hr, hc, hp]

/-- Issuing a word leaves the reed's registers, its place and its control store. -/
theorem issueWord_word (s : State) (r : Nat) (iss : Issue) (w : BitVec 192) :
    (reedAt (issueWord s r iss w) r).core = (reedAt s r).core ∧ wordNow (issueWord s r iss w) r = wordNow s r := by
  unfold issueWord
  split
  · dsimp only [grantBellows, freshChoice]
    refine ⟨by rw [reedAt_setReed]; rfl, wordNow_congr _ _ _ (by rw [reedAt_setReed]; rfl) (by rw [reedAt_setReed]; rfl) ?_ ?_⟩
    · rw [clusterAt_setReed]
      refine (modCluster_cs _ _ _ _ ?_).1
      exact fun _ => ⟨rfl, rfl⟩
    · rw [clusterAt_setReed]
      refine (modCluster_cs _ _ _ _ ?_).2
      exact fun _ => ⟨rfl, rfl⟩
  · exact ⟨by rw [reedAt_setReed], wordNow_congr _ _ _ (by rw [reedAt_setReed]) (by rw [reedAt_setReed]) rfl rfl⟩

/-- A reed whose word has issued has that word at its sequencer still. -/
theorem issues_word {s t : State} {r : Fin 1024} {iss : Issue} (h : Issues s t r iss) :
    wordNow t r.val = wordNow s r.val ∧ (reedAt t r.val).core = (reedAt s r.val).core := by
  obtain ⟨_, _, _, ht, _, hi, hs⟩ := h
  subst ht
  rcases openWord_cases s r.val with ⟨_, e⟩ | e | e
  · rw [e]; exact ⟨rfl, rfl⟩
  · rw [e]; exact ⟨(issueWord_word _ _ _ _).2, (issueWord_word _ _ _ _).1⟩
  · rw [hi] at e; simp [hs] at e

/-- A row that names a field of an issued word acts on the state after the issue. -/
theorem rowStep_acts {s t : State} {r : Fin 1024} {iss : Issue} (h : Issues s t r iss) (names : BitVec 192 → Bool) (act : State → State)
    (hn : names (wordNow s r.val) = true) : rowStep s r.val names act = act t := by
  obtain ⟨_, h1, h2, h3, h4, h5, h6⟩ := h
  subst h3
  simp [rowStep, h1, h2, hn, h4, h5, h6]

/-- A row of another field opens the word, and does nothing more. -/
theorem rowStep_skips (s : State) (r : Nat) (names : BitVec 192 → Bool) (act : State → State) (hr : reedRuns s r = true)
    (hf : fetchStalls s r = false) (hn : names (wordNow s r) = false) : rowStep s r names act = s := by
  simp [rowStep, hr, hf, hn]

/-- A field of an issued word that has not acted acts. -/
theorem actField_acts {s t : State} {r : Fin 1024} {iss : Issue} {k : Nat} (h : Takes s t r iss k) (after : State → State → State) (res : FieldRes)
    (hw : wordField t r.val iss (wordNow s r.val) k = some res) :
    actField t r.val k after
      = after t (acted t r k iss res.free (res.upd (startBeat iss) (beatCount (gsize iss.before)) (reedAt t r.val).core)) := by
  unfold actField acted
  simp [h.issue, (issues_word h.toIssues).1, h.undone, hw]

/-- A field that has acted does not act again (R200). -/
theorem actField_once {s t : State} {r : Fin 1024} {iss : Issue} {k : Nat} (h : Issues s t r iss) (after : State → State → State)
    (hd : bitOf (doneOf (wordNow s r.val) iss) k = true) : actField t r.val k after = t := by
  unfold actField
  simp [h.issue, (issues_word h).1, hd]

/-! ### Whole fields of the vector unit -/

/-- A change of a group by values below 2^EW. -/
theorem groupWith_set (w g d : Nat) (f : Nat → Option Nat) (x : ReedCore) (hw : 0 < w) (hd : w ∣ 512) (hv : ∀ i v, f i = some v → v < 2 ^ w) :
    GroupSet w g d x (groupWith w g d f x) f where
  elems i hi := by
    rw [groupWith_elem w g d f x hw hd i hi]
    cases h : f i with
    | none => rfl
    | some v => exact Nat.mod_eq_of_lt (hv i v h)
  others k hk := by rw [groupWith_reg, if_neg (by omega)]
  frame := groupWith_frame w g d f x

theorem whenRunning_of (s t : State) (h : isRunning s = true) : whenRunning s t = .next t := by simp [whenRunning, h]

/-- A vector field of an issued word that has not acted acts on the reed's core. -/
theorem vecStep_acts {s t : State} {r : Fin 1024} {iss : Issue} (h : Takes s t r iss 0) (code : Nat) (f : VField)
    (g : ReedCore → Nat → VField → FieldRes) (hv : vopOf (wordNow s r.val) = code ∧ vFieldOf (wordNow s r.val) = f) (hg : vecOp code = some g) :
    whenRunning s (vecStep s r code f)
      = .next (acted t r 0 iss (g (vecView f iss) t.free f).free
          ((g (vecView f iss) t.free f).upd (startBeat iss) (beatCount (gsize iss.before)) (reedAt t r.val).core)) := by
  rw [whenRunning_of _ _ h.live, vecStep, rowStep_acts h.toIssues _ _ (by simp [hv.1, hv.2])]
  rw [actField_acts h onlyReed (g (vecView f iss) t.free f) (by simp [wordField, vecField, hv.1, hv.2, hg])]
  rfl

/-- The shared form of the element operations: between two beats, the elements its mask selects; from the first
beat on where the operation restarts (R169). -/
theorem vecMap_set (c : ReedCore) (fr : Nat) (f : VField) (cls : FieldClass) (srcs sregs : List Nat) (gb mb sb : Bool) (free : Nat) (g : Nat → Nat)
    (hv : ∀ i, g i < 2 ^ ewBits c) (lo hi : Nat) (x : ReedCore) :
    GroupSet (ewBits c) (gsize c) f.d.val x ((vecMap c fr f cls srcs sregs gb mb sb free g).upd lo hi x)
      (beatResult (ewBits c) (if restarts cls then 0 else lo) hi (elemResult c f g)) := by
  simp only [vecMap, vecRes]
  generalize (if restarts cls then 0 else lo) = b
  have hb : ∀ i v, beatResult (ewBits c) b hi (elemResult c f g) i = some v → v < 2 ^ ewBits c := by
    intro i v h
    unfold beatResult elemResult at h
    split at h
    · split at h
      · cases h; exact hv i
      · split at h
        · cases h; exact Nat.pow_pos (by decide)
        · cases h
    · cases h
  split
  · rename_i h0
    have hn : ∀ i, beatResult (ewBits c) b hi (elemResult c f g) i = none := by
      intro i
      simp [beatResult, elemResult, active, h0]
    exact ⟨fun i _ => by rw [hn]; rfl, fun _ _ => rfl, rfl⟩
  · exact groupWith_set _ _ _ _ _ (ewBits_pos _) (ewBits_dvd _) hb

end Sys2Proof.Laws
end

