-- ==== Sys2Proof/Laws/State.lean ====
section
/-! SUPPORT. What each plain update of the state does to each of its fields. -/

namespace Sys2Proof.Laws

open Sys2Proof Sys2Proof.Machine

/-! ### modPort -/

@[simp] theorem modPort_dev (s : State) (p : Nat) (f : HostPort → HostPort) : (modPort s p f).dev = s.dev := rfl
@[simp] theorem modPort_brt (s : State) (p : Nat) (f : HostPort → HostPort) : (modPort s p f).brt = s.brt := rfl
@[simp] theorem modPort_ports (s : State) (p : Nat) (f : HostPort → HostPort) : (modPort s p f).ports = listMod s.ports p f := rfl
@[simp] theorem modPort_insts (s : State) (p : Nat) (f : HostPort → HostPort) : (modPort s p f).insts = s.insts := rfl
@[simp] theorem modPort_jobs (s : State) (p : Nat) (f : HostPort → HostPort) : (modPort s p f).jobs = s.jobs := rfl
@[simp] theorem modPort_nextJob (s : State) (p : Nat) (f : HostPort → HostPort) : (modPort s p f).nextJob = s.nextJob := rfl
@[simp] theorem modPort_waiting (s : State) (p : Nat) (f : HostPort → HostPort) : (modPort s p f).waiting = s.waiting := rfl
@[simp] theorem modPort_plc (s : State) (p : Nat) (f : HostPort → HostPort) : (modPort s p f).plc = s.plc := rfl
@[simp] theorem modPort_clusters (s : State) (p : Nat) (f : HostPort → HostPort) : (modPort s p f).clusters = s.clusters := rfl
@[simp] theorem modPort_reeds (s : State) (p : Nat) (f : HostPort → HostPort) : (modPort s p f).reeds = s.reeds := rfl
@[simp] theorem modPort_health (s : State) (p : Nat) (f : HostPort → HostPort) : (modPort s p f).health = s.health := rfl
@[simp] theorem modPort_bell (s : State) (p : Nat) (f : HostPort → HostPort) : (modPort s p f).bell = s.bell := rfl
@[simp] theorem modPort_charts (s : State) (p : Nat) (f : HostPort → HostPort) : (modPort s p f).charts = s.charts := rfl
@[simp] theorem modPort_changes (s : State) (p : Nat) (f : HostPort → HostPort) : (modPort s p f).changes = s.changes := rfl
@[simp] theorem modPort_wch (s : State) (p : Nat) (f : HostPort → HostPort) : (modPort s p f).wch = s.wch := rfl
@[simp] theorem modPort_wchBox (s : State) (p : Nat) (f : HostPort → HostPort) : (modPort s p f).wchBox = s.wchBox := rfl
@[simp] theorem modPort_lcsBox (s : State) (p : Nat) (f : HostPort → HostPort) : (modPort s p f).lcsBox = s.lcsBox := rfl
@[simp] theorem modPort_rng (s : State) (p : Nat) (f : HostPort → HostPort) : (modPort s p f).rng = s.rng := rfl
@[simp] theorem modPort_dgp (s : State) (p : Nat) (f : HostPort → HostPort) : (modPort s p f).dgp = s.dgp := rfl
@[simp] theorem modPort_mpr (s : State) (p : Nat) (f : HostPort → HostPort) : (modPort s p f).mpr = s.mpr := rfl
@[simp] theorem modPort_mgc (s : State) (p : Nat) (f : HostPort → HostPort) : (modPort s p f).mgc = s.mgc := rfl
@[simp] theorem modPort_dom (s : State) (p : Nat) (f : HostPort → HostPort) : (modPort s p f).dom = s.dom := rfl
@[simp] theorem modPort_lcs (s : State) (p : Nat) (f : HostPort → HostPort) : (modPort s p f).lcs = s.lcs := rfl
@[simp] theorem modPort_twn (s : State) (p : Nat) (f : HostPort → HostPort) : (modPort s p f).twn = s.twn := rfl
@[simp] theorem modPort_mig (s : State) (p : Nat) (f : HostPort → HostPort) : (modPort s p f).mig = s.mig := rfl
@[simp] theorem modPort_bore (s : State) (p : Nat) (f : HostPort → HostPort) : (modPort s p f).bore = s.bore := rfl
@[simp] theorem modPort_pxt (s : State) (p : Nat) (f : HostPort → HostPort) : (modPort s p f).pxt = s.pxt := rfl
@[simp] theorem modPort_pending (s : State) (p : Nat) (f : HostPort → HostPort) : (modPort s p f).pending = s.pending := rfl
@[simp] theorem modPort_out (s : State) (p : Nat) (f : HostPort → HostPort) : (modPort s p f).out = s.out := rfl
@[simp] theorem modPort_free (s : State) (p : Nat) (f : HostPort → HostPort) : (modPort s p f).free = s.free := rfl

/-! ### modInst -/

@[simp] theorem modInst_dev (s : State) (i : Nat) (f : Inst → Inst) : (modInst s i f).dev = s.dev := rfl
@[simp] theorem modInst_brt (s : State) (i : Nat) (f : Inst → Inst) : (modInst s i f).brt = s.brt := rfl
@[simp] theorem modInst_ports (s : State) (i : Nat) (f : Inst → Inst) : (modInst s i f).ports = s.ports := rfl
@[simp] theorem modInst_insts (s : State) (i : Nat) (f : Inst → Inst) : (modInst s i f).insts = tblMod s.insts i f := rfl
@[simp] theorem modInst_jobs (s : State) (i : Nat) (f : Inst → Inst) : (modInst s i f).jobs = s.jobs := rfl
@[simp] theorem modInst_nextJob (s : State) (i : Nat) (f : Inst → Inst) : (modInst s i f).nextJob = s.nextJob := rfl
@[simp] theorem modInst_waiting (s : State) (i : Nat) (f : Inst → Inst) : (modInst s i f).waiting = s.waiting := rfl
@[simp] theorem modInst_plc (s : State) (i : Nat) (f : Inst → Inst) : (modInst s i f).plc = s.plc := rfl
@[simp] theorem modInst_clusters (s : State) (i : Nat) (f : Inst → Inst) : (modInst s i f).clusters = s.clusters := rfl
@[simp] theorem modInst_reeds (s : State) (i : Nat) (f : Inst → Inst) : (modInst s i f).reeds = s.reeds := rfl
@[simp] theorem modInst_health (s : State) (i : Nat) (f : Inst → Inst) : (modInst s i f).health = s.health := rfl
@[simp] theorem modInst_bell (s : State) (i : Nat) (f : Inst → Inst) : (modInst s i f).bell = s.bell := rfl
@[simp] theorem modInst_charts (s : State) (i : Nat) (f : Inst → Inst) : (modInst s i f).charts = s.charts := rfl
@[simp] theorem modInst_changes (s : State) (i : Nat) (f : Inst → Inst) : (modInst s i f).changes = s.changes := rfl
@[simp] theorem modInst_wch (s : State) (i : Nat) (f : Inst → Inst) : (modInst s i f).wch = s.wch := rfl
@[simp] theorem modInst_wchBox (s : State) (i : Nat) (f : Inst → Inst) : (modInst s i f).wchBox = s.wchBox := rfl
@[simp] theorem modInst_lcsBox (s : State) (i : Nat) (f : Inst → Inst) : (modInst s i f).lcsBox = s.lcsBox := rfl
@[simp] theorem modInst_rng (s : State) (i : Nat) (f : Inst → Inst) : (modInst s i f).rng = s.rng := rfl
@[simp] theorem modInst_dgp (s : State) (i : Nat) (f : Inst → Inst) : (modInst s i f).dgp = s.dgp := rfl
@[simp] theorem modInst_mpr (s : State) (i : Nat) (f : Inst → Inst) : (modInst s i f).mpr = s.mpr := rfl
@[simp] theorem modInst_mgc (s : State) (i : Nat) (f : Inst → Inst) : (modInst s i f).mgc = s.mgc := rfl
@[simp] theorem modInst_dom (s : State) (i : Nat) (f : Inst → Inst) : (modInst s i f).dom = s.dom := rfl
@[simp] theorem modInst_lcs (s : State) (i : Nat) (f : Inst → Inst) : (modInst s i f).lcs = s.lcs := rfl
@[simp] theorem modInst_twn (s : State) (i : Nat) (f : Inst → Inst) : (modInst s i f).twn = s.twn := rfl
@[simp] theorem modInst_mig (s : State) (i : Nat) (f : Inst → Inst) : (modInst s i f).mig = s.mig := rfl
@[simp] theorem modInst_bore (s : State) (i : Nat) (f : Inst → Inst) : (modInst s i f).bore = s.bore := rfl
@[simp] theorem modInst_pxt (s : State) (i : Nat) (f : Inst → Inst) : (modInst s i f).pxt = s.pxt := rfl
@[simp] theorem modInst_pending (s : State) (i : Nat) (f : Inst → Inst) : (modInst s i f).pending = s.pending := rfl
@[simp] theorem modInst_out (s : State) (i : Nat) (f : Inst → Inst) : (modInst s i f).out = s.out := rfl
@[simp] theorem modInst_free (s : State) (i : Nat) (f : Inst → Inst) : (modInst s i f).free = s.free := rfl

/-! ### modJob -/

@[simp] theorem modJob_dev (s : State) (k : Nat) (f : Job → Job) : (modJob s k f).dev = s.dev := rfl
@[simp] theorem modJob_brt (s : State) (k : Nat) (f : Job → Job) : (modJob s k f).brt = s.brt := rfl
@[simp] theorem modJob_ports (s : State) (k : Nat) (f : Job → Job) : (modJob s k f).ports = s.ports := rfl
@[simp] theorem modJob_insts (s : State) (k : Nat) (f : Job → Job) : (modJob s k f).insts = s.insts := rfl
@[simp] theorem modJob_jobs (s : State) (k : Nat) (f : Job → Job) : (modJob s k f).jobs = tblMod s.jobs k f := rfl
@[simp] theorem modJob_nextJob (s : State) (k : Nat) (f : Job → Job) : (modJob s k f).nextJob = s.nextJob := rfl
@[simp] theorem modJob_waiting (s : State) (k : Nat) (f : Job → Job) : (modJob s k f).waiting = s.waiting := rfl
@[simp] theorem modJob_plc (s : State) (k : Nat) (f : Job → Job) : (modJob s k f).plc = s.plc := rfl
@[simp] theorem modJob_clusters (s : State) (k : Nat) (f : Job → Job) : (modJob s k f).clusters = s.clusters := rfl
@[simp] theorem modJob_reeds (s : State) (k : Nat) (f : Job → Job) : (modJob s k f).reeds = s.reeds := rfl
@[simp] theorem modJob_health (s : State) (k : Nat) (f : Job → Job) : (modJob s k f).health = s.health := rfl
@[simp] theorem modJob_bell (s : State) (k : Nat) (f : Job → Job) : (modJob s k f).bell = s.bell := rfl
@[simp] theorem modJob_charts (s : State) (k : Nat) (f : Job → Job) : (modJob s k f).charts = s.charts := rfl
@[simp] theorem modJob_changes (s : State) (k : Nat) (f : Job → Job) : (modJob s k f).changes = s.changes := rfl
@[simp] theorem modJob_wch (s : State) (k : Nat) (f : Job → Job) : (modJob s k f).wch = s.wch := rfl
@[simp] theorem modJob_wchBox (s : State) (k : Nat) (f : Job → Job) : (modJob s k f).wchBox = s.wchBox := rfl
@[simp] theorem modJob_lcsBox (s : State) (k : Nat) (f : Job → Job) : (modJob s k f).lcsBox = s.lcsBox := rfl
@[simp] theorem modJob_rng (s : State) (k : Nat) (f : Job → Job) : (modJob s k f).rng = s.rng := rfl
@[simp] theorem modJob_dgp (s : State) (k : Nat) (f : Job → Job) : (modJob s k f).dgp = s.dgp := rfl
@[simp] theorem modJob_mpr (s : State) (k : Nat) (f : Job → Job) : (modJob s k f).mpr = s.mpr := rfl
@[simp] theorem modJob_mgc (s : State) (k : Nat) (f : Job → Job) : (modJob s k f).mgc = s.mgc := rfl
@[simp] theorem modJob_dom (s : State) (k : Nat) (f : Job → Job) : (modJob s k f).dom = s.dom := rfl
@[simp] theorem modJob_lcs (s : State) (k : Nat) (f : Job → Job) : (modJob s k f).lcs = s.lcs := rfl
@[simp] theorem modJob_twn (s : State) (k : Nat) (f : Job → Job) : (modJob s k f).twn = s.twn := rfl
@[simp] theorem modJob_mig (s : State) (k : Nat) (f : Job → Job) : (modJob s k f).mig = s.mig := rfl
@[simp] theorem modJob_bore (s : State) (k : Nat) (f : Job → Job) : (modJob s k f).bore = s.bore := rfl
@[simp] theorem modJob_pxt (s : State) (k : Nat) (f : Job → Job) : (modJob s k f).pxt = s.pxt := rfl
@[simp] theorem modJob_pending (s : State) (k : Nat) (f : Job → Job) : (modJob s k f).pending = s.pending := rfl
@[simp] theorem modJob_out (s : State) (k : Nat) (f : Job → Job) : (modJob s k f).out = s.out := rfl
@[simp] theorem modJob_free (s : State) (k : Nat) (f : Job → Job) : (modJob s k f).free = s.free := rfl

/-! ### setCluster -/

@[simp] theorem setCluster_dev (s : State) (c : Nat) (x : Cluster) : (setCluster s c x).dev = s.dev := rfl
@[simp] theorem setCluster_brt (s : State) (c : Nat) (x : Cluster) : (setCluster s c x).brt = s.brt := rfl
@[simp] theorem setCluster_ports (s : State) (c : Nat) (x : Cluster) : (setCluster s c x).ports = s.ports := rfl
@[simp] theorem setCluster_insts (s : State) (c : Nat) (x : Cluster) : (setCluster s c x).insts = s.insts := rfl
@[simp] theorem setCluster_jobs (s : State) (c : Nat) (x : Cluster) : (setCluster s c x).jobs = s.jobs := rfl
@[simp] theorem setCluster_nextJob (s : State) (c : Nat) (x : Cluster) : (setCluster s c x).nextJob = s.nextJob := rfl
@[simp] theorem setCluster_waiting (s : State) (c : Nat) (x : Cluster) : (setCluster s c x).waiting = s.waiting := rfl
@[simp] theorem setCluster_plc (s : State) (c : Nat) (x : Cluster) : (setCluster s c x).plc = s.plc := rfl
@[simp] theorem setCluster_clusters (s : State) (c : Nat) (x : Cluster) : (setCluster s c x).clusters = tblPut s.clusters c x := rfl
@[simp] theorem setCluster_reeds (s : State) (c : Nat) (x : Cluster) : (setCluster s c x).reeds = s.reeds := rfl
@[simp] theorem setCluster_health (s : State) (c : Nat) (x : Cluster) : (setCluster s c x).health = s.health := rfl
@[simp] theorem setCluster_bell (s : State) (c : Nat) (x : Cluster) : (setCluster s c x).bell = s.bell := rfl
@[simp] theorem setCluster_charts (s : State) (c : Nat) (x : Cluster) : (setCluster s c x).charts = s.charts := rfl
@[simp] theorem setCluster_changes (s : State) (c : Nat) (x : Cluster) : (setCluster s c x).changes = s.changes := rfl
@[simp] theorem setCluster_wch (s : State) (c : Nat) (x : Cluster) : (setCluster s c x).wch = s.wch := rfl
@[simp] theorem setCluster_wchBox (s : State) (c : Nat) (x : Cluster) : (setCluster s c x).wchBox = s.wchBox := rfl
@[simp] theorem setCluster_lcsBox (s : State) (c : Nat) (x : Cluster) : (setCluster s c x).lcsBox = s.lcsBox := rfl
@[simp] theorem setCluster_rng (s : State) (c : Nat) (x : Cluster) : (setCluster s c x).rng = s.rng := rfl
@[simp] theorem setCluster_dgp (s : State) (c : Nat) (x : Cluster) : (setCluster s c x).dgp = s.dgp := rfl
@[simp] theorem setCluster_mpr (s : State) (c : Nat) (x : Cluster) : (setCluster s c x).mpr = s.mpr := rfl
@[simp] theorem setCluster_mgc (s : State) (c : Nat) (x : Cluster) : (setCluster s c x).mgc = s.mgc := rfl
@[simp] theorem setCluster_dom (s : State) (c : Nat) (x : Cluster) : (setCluster s c x).dom = s.dom := rfl
@[simp] theorem setCluster_lcs (s : State) (c : Nat) (x : Cluster) : (setCluster s c x).lcs = s.lcs := rfl
@[simp] theorem setCluster_twn (s : State) (c : Nat) (x : Cluster) : (setCluster s c x).twn = s.twn := rfl
@[simp] theorem setCluster_mig (s : State) (c : Nat) (x : Cluster) : (setCluster s c x).mig = s.mig := rfl
@[simp] theorem setCluster_bore (s : State) (c : Nat) (x : Cluster) : (setCluster s c x).bore = s.bore := rfl
@[simp] theorem setCluster_pxt (s : State) (c : Nat) (x : Cluster) : (setCluster s c x).pxt = s.pxt := rfl
@[simp] theorem setCluster_pending (s : State) (c : Nat) (x : Cluster) : (setCluster s c x).pending = s.pending := rfl
@[simp] theorem setCluster_out (s : State) (c : Nat) (x : Cluster) : (setCluster s c x).out = s.out := rfl
@[simp] theorem setCluster_free (s : State) (c : Nat) (x : Cluster) : (setCluster s c x).free = s.free := rfl

/-! ### modCluster -/

@[simp] theorem modCluster_dev (s : State) (c : Nat) (f : Cluster → Cluster) : (modCluster s c f).dev = s.dev := rfl
@[simp] theorem modCluster_brt (s : State) (c : Nat) (f : Cluster → Cluster) : (modCluster s c f).brt = s.brt := rfl
@[simp] theorem modCluster_ports (s : State) (c : Nat) (f : Cluster → Cluster) : (modCluster s c f).ports = s.ports := rfl
@[simp] theorem modCluster_insts (s : State) (c : Nat) (f : Cluster → Cluster) : (modCluster s c f).insts = s.insts := rfl
@[simp] theorem modCluster_jobs (s : State) (c : Nat) (f : Cluster → Cluster) : (modCluster s c f).jobs = s.jobs := rfl
@[simp] theorem modCluster_nextJob (s : State) (c : Nat) (f : Cluster → Cluster) : (modCluster s c f).nextJob = s.nextJob := rfl
@[simp] theorem modCluster_waiting (s : State) (c : Nat) (f : Cluster → Cluster) : (modCluster s c f).waiting = s.waiting := rfl
@[simp] theorem modCluster_plc (s : State) (c : Nat) (f : Cluster → Cluster) : (modCluster s c f).plc = s.plc := rfl
@[simp] theorem modCluster_clusters (s : State) (c : Nat) (f : Cluster → Cluster) : (modCluster s c f).clusters = tblPut s.clusters c (f (clusterAt s c)) := rfl
@[simp] theorem modCluster_reeds (s : State) (c : Nat) (f : Cluster → Cluster) : (modCluster s c f).reeds = s.reeds := rfl
@[simp] theorem modCluster_health (s : State) (c : Nat) (f : Cluster → Cluster) : (modCluster s c f).health = s.health := rfl
@[simp] theorem modCluster_bell (s : State) (c : Nat) (f : Cluster → Cluster) : (modCluster s c f).bell = s.bell := rfl
@[simp] theorem modCluster_charts (s : State) (c : Nat) (f : Cluster → Cluster) : (modCluster s c f).charts = s.charts := rfl
@[simp] theorem modCluster_changes (s : State) (c : Nat) (f : Cluster → Cluster) : (modCluster s c f).changes = s.changes := rfl
@[simp] theorem modCluster_wch (s : State) (c : Nat) (f : Cluster → Cluster) : (modCluster s c f).wch = s.wch := rfl
@[simp] theorem modCluster_wchBox (s : State) (c : Nat) (f : Cluster → Cluster) : (modCluster s c f).wchBox = s.wchBox := rfl
@[simp] theorem modCluster_lcsBox (s : State) (c : Nat) (f : Cluster → Cluster) : (modCluster s c f).lcsBox = s.lcsBox := rfl
@[simp] theorem modCluster_rng (s : State) (c : Nat) (f : Cluster → Cluster) : (modCluster s c f).rng = s.rng := rfl
@[simp] theorem modCluster_dgp (s : State) (c : Nat) (f : Cluster → Cluster) : (modCluster s c f).dgp = s.dgp := rfl
@[simp] theorem modCluster_mpr (s : State) (c : Nat) (f : Cluster → Cluster) : (modCluster s c f).mpr = s.mpr := rfl
@[simp] theorem modCluster_mgc (s : State) (c : Nat) (f : Cluster → Cluster) : (modCluster s c f).mgc = s.mgc := rfl
@[simp] theorem modCluster_dom (s : State) (c : Nat) (f : Cluster → Cluster) : (modCluster s c f).dom = s.dom := rfl
@[simp] theorem modCluster_lcs (s : State) (c : Nat) (f : Cluster → Cluster) : (modCluster s c f).lcs = s.lcs := rfl
@[simp] theorem modCluster_twn (s : State) (c : Nat) (f : Cluster → Cluster) : (modCluster s c f).twn = s.twn := rfl
@[simp] theorem modCluster_mig (s : State) (c : Nat) (f : Cluster → Cluster) : (modCluster s c f).mig = s.mig := rfl
@[simp] theorem modCluster_bore (s : State) (c : Nat) (f : Cluster → Cluster) : (modCluster s c f).bore = s.bore := rfl
@[simp] theorem modCluster_pxt (s : State) (c : Nat) (f : Cluster → Cluster) : (modCluster s c f).pxt = s.pxt := rfl
@[simp] theorem modCluster_pending (s : State) (c : Nat) (f : Cluster → Cluster) : (modCluster s c f).pending = s.pending := rfl
@[simp] theorem modCluster_out (s : State) (c : Nat) (f : Cluster → Cluster) : (modCluster s c f).out = s.out := rfl
@[simp] theorem modCluster_free (s : State) (c : Nat) (f : Cluster → Cluster) : (modCluster s c f).free = s.free := rfl

/-! ### setReed -/

@[simp] theorem setReed_dev (s : State) (r : Nat) (x : Reed) : (setReed s r x).dev = s.dev := rfl
@[simp] theorem setReed_brt (s : State) (r : Nat) (x : Reed) : (setReed s r x).brt = s.brt := rfl
@[simp] theorem setReed_ports (s : State) (r : Nat) (x : Reed) : (setReed s r x).ports = s.ports := rfl
@[simp] theorem setReed_insts (s : State) (r : Nat) (x : Reed) : (setReed s r x).insts = s.insts := rfl
@[simp] theorem setReed_jobs (s : State) (r : Nat) (x : Reed) : (setReed s r x).jobs = s.jobs := rfl
@[simp] theorem setReed_nextJob (s : State) (r : Nat) (x : Reed) : (setReed s r x).nextJob = s.nextJob := rfl
@[simp] theorem setReed_waiting (s : State) (r : Nat) (x : Reed) : (setReed s r x).waiting = s.waiting := rfl
@[simp] theorem setReed_plc (s : State) (r : Nat) (x : Reed) : (setReed s r x).plc = s.plc := rfl
@[simp] theorem setReed_clusters (s : State) (r : Nat) (x : Reed) : (setReed s r x).clusters = s.clusters := rfl
@[simp] theorem setReed_reeds (s : State) (r : Nat) (x : Reed) : (setReed s r x).reeds = tblPut s.reeds r x := rfl
@[simp] theorem setReed_health (s : State) (r : Nat) (x : Reed) : (setReed s r x).health = s.health := rfl
@[simp] theorem setReed_bell (s : State) (r : Nat) (x : Reed) : (setReed s r x).bell = s.bell := rfl
@[simp] theorem setReed_charts (s : State) (r : Nat) (x : Reed) : (setReed s r x).charts = s.charts := rfl
@[simp] theorem setReed_changes (s : State) (r : Nat) (x : Reed) : (setReed s r x).changes = s.changes := rfl
@[simp] theorem setReed_wch (s : State) (r : Nat) (x : Reed) : (setReed s r x).wch = s.wch := rfl
@[simp] theorem setReed_wchBox (s : State) (r : Nat) (x : Reed) : (setReed s r x).wchBox = s.wchBox := rfl
@[simp] theorem setReed_lcsBox (s : State) (r : Nat) (x : Reed) : (setReed s r x).lcsBox = s.lcsBox := rfl
@[simp] theorem setReed_rng (s : State) (r : Nat) (x : Reed) : (setReed s r x).rng = s.rng := rfl
@[simp] theorem setReed_dgp (s : State) (r : Nat) (x : Reed) : (setReed s r x).dgp = s.dgp := rfl
@[simp] theorem setReed_mpr (s : State) (r : Nat) (x : Reed) : (setReed s r x).mpr = s.mpr := rfl
@[simp] theorem setReed_mgc (s : State) (r : Nat) (x : Reed) : (setReed s r x).mgc = s.mgc := rfl
@[simp] theorem setReed_dom (s : State) (r : Nat) (x : Reed) : (setReed s r x).dom = s.dom := rfl
@[simp] theorem setReed_lcs (s : State) (r : Nat) (x : Reed) : (setReed s r x).lcs = s.lcs := rfl
@[simp] theorem setReed_twn (s : State) (r : Nat) (x : Reed) : (setReed s r x).twn = s.twn := rfl
@[simp] theorem setReed_mig (s : State) (r : Nat) (x : Reed) : (setReed s r x).mig = s.mig := rfl
@[simp] theorem setReed_bore (s : State) (r : Nat) (x : Reed) : (setReed s r x).bore = s.bore := rfl
@[simp] theorem setReed_pxt (s : State) (r : Nat) (x : Reed) : (setReed s r x).pxt = s.pxt := rfl
@[simp] theorem setReed_pending (s : State) (r : Nat) (x : Reed) : (setReed s r x).pending = s.pending := rfl
@[simp] theorem setReed_out (s : State) (r : Nat) (x : Reed) : (setReed s r x).out = s.out := rfl
@[simp] theorem setReed_free (s : State) (r : Nat) (x : Reed) : (setReed s r x).free = s.free := rfl

/-! ### modReed -/

@[simp] theorem modReed_dev (s : State) (r : Nat) (f : Reed → Reed) : (modReed s r f).dev = s.dev := rfl
@[simp] theorem modReed_brt (s : State) (r : Nat) (f : Reed → Reed) : (modReed s r f).brt = s.brt := rfl
@[simp] theorem modReed_ports (s : State) (r : Nat) (f : Reed → Reed) : (modReed s r f).ports = s.ports := rfl
@[simp] theorem modReed_insts (s : State) (r : Nat) (f : Reed → Reed) : (modReed s r f).insts = s.insts := rfl
@[simp] theorem modReed_jobs (s : State) (r : Nat) (f : Reed → Reed) : (modReed s r f).jobs = s.jobs := rfl
@[simp] theorem modReed_nextJob (s : State) (r : Nat) (f : Reed → Reed) : (modReed s r f).nextJob = s.nextJob := rfl
@[simp] theorem modReed_waiting (s : State) (r : Nat) (f : Reed → Reed) : (modReed s r f).waiting = s.waiting := rfl
@[simp] theorem modReed_plc (s : State) (r : Nat) (f : Reed → Reed) : (modReed s r f).plc = s.plc := rfl
@[simp] theorem modReed_clusters (s : State) (r : Nat) (f : Reed → Reed) : (modReed s r f).clusters = s.clusters := rfl
@[simp] theorem modReed_reeds (s : State) (r : Nat) (f : Reed → Reed) : (modReed s r f).reeds = tblPut s.reeds r (f (reedAt s r)) := rfl
@[simp] theorem modReed_health (s : State) (r : Nat) (f : Reed → Reed) : (modReed s r f).health = s.health := rfl
@[simp] theorem modReed_bell (s : State) (r : Nat) (f : Reed → Reed) : (modReed s r f).bell = s.bell := rfl
@[simp] theorem modReed_charts (s : State) (r : Nat) (f : Reed → Reed) : (modReed s r f).charts = s.charts := rfl
@[simp] theorem modReed_changes (s : State) (r : Nat) (f : Reed → Reed) : (modReed s r f).changes = s.changes := rfl
@[simp] theorem modReed_wch (s : State) (r : Nat) (f : Reed → Reed) : (modReed s r f).wch = s.wch := rfl
@[simp] theorem modReed_wchBox (s : State) (r : Nat) (f : Reed → Reed) : (modReed s r f).wchBox = s.wchBox := rfl
@[simp] theorem modReed_lcsBox (s : State) (r : Nat) (f : Reed → Reed) : (modReed s r f).lcsBox = s.lcsBox := rfl
@[simp] theorem modReed_rng (s : State) (r : Nat) (f : Reed → Reed) : (modReed s r f).rng = s.rng := rfl
@[simp] theorem modReed_dgp (s : State) (r : Nat) (f : Reed → Reed) : (modReed s r f).dgp = s.dgp := rfl
@[simp] theorem modReed_mpr (s : State) (r : Nat) (f : Reed → Reed) : (modReed s r f).mpr = s.mpr := rfl
@[simp] theorem modReed_mgc (s : State) (r : Nat) (f : Reed → Reed) : (modReed s r f).mgc = s.mgc := rfl
@[simp] theorem modReed_dom (s : State) (r : Nat) (f : Reed → Reed) : (modReed s r f).dom = s.dom := rfl
@[simp] theorem modReed_lcs (s : State) (r : Nat) (f : Reed → Reed) : (modReed s r f).lcs = s.lcs := rfl
@[simp] theorem modReed_twn (s : State) (r : Nat) (f : Reed → Reed) : (modReed s r f).twn = s.twn := rfl
@[simp] theorem modReed_mig (s : State) (r : Nat) (f : Reed → Reed) : (modReed s r f).mig = s.mig := rfl
@[simp] theorem modReed_bore (s : State) (r : Nat) (f : Reed → Reed) : (modReed s r f).bore = s.bore := rfl
@[simp] theorem modReed_pxt (s : State) (r : Nat) (f : Reed → Reed) : (modReed s r f).pxt = s.pxt := rfl
@[simp] theorem modReed_pending (s : State) (r : Nat) (f : Reed → Reed) : (modReed s r f).pending = s.pending := rfl
@[simp] theorem modReed_out (s : State) (r : Nat) (f : Reed → Reed) : (modReed s r f).out = s.out := rfl
@[simp] theorem modReed_free (s : State) (r : Nat) (f : Reed → Reed) : (modReed s r f).free = s.free := rfl

/-! ### emit -/

@[simp] theorem emit_dev (s : State) (o : Out) : (emit s o).dev = s.dev := rfl
@[simp] theorem emit_brt (s : State) (o : Out) : (emit s o).brt = s.brt := rfl
@[simp] theorem emit_ports (s : State) (o : Out) : (emit s o).ports = s.ports := rfl
@[simp] theorem emit_insts (s : State) (o : Out) : (emit s o).insts = s.insts := rfl
@[simp] theorem emit_jobs (s : State) (o : Out) : (emit s o).jobs = s.jobs := rfl
@[simp] theorem emit_nextJob (s : State) (o : Out) : (emit s o).nextJob = s.nextJob := rfl
@[simp] theorem emit_waiting (s : State) (o : Out) : (emit s o).waiting = s.waiting := rfl
@[simp] theorem emit_plc (s : State) (o : Out) : (emit s o).plc = s.plc := rfl
@[simp] theorem emit_clusters (s : State) (o : Out) : (emit s o).clusters = s.clusters := rfl
@[simp] theorem emit_reeds (s : State) (o : Out) : (emit s o).reeds = s.reeds := rfl
@[simp] theorem emit_health (s : State) (o : Out) : (emit s o).health = s.health := rfl
@[simp] theorem emit_bell (s : State) (o : Out) : (emit s o).bell = s.bell := rfl
@[simp] theorem emit_charts (s : State) (o : Out) : (emit s o).charts = s.charts := rfl
@[simp] theorem emit_changes (s : State) (o : Out) : (emit s o).changes = s.changes := rfl
@[simp] theorem emit_wch (s : State) (o : Out) : (emit s o).wch = s.wch := rfl
@[simp] theorem emit_wchBox (s : State) (o : Out) : (emit s o).wchBox = s.wchBox := rfl
@[simp] theorem emit_lcsBox (s : State) (o : Out) : (emit s o).lcsBox = s.lcsBox := rfl
@[simp] theorem emit_rng (s : State) (o : Out) : (emit s o).rng = s.rng := rfl
@[simp] theorem emit_dgp (s : State) (o : Out) : (emit s o).dgp = s.dgp := rfl
@[simp] theorem emit_mpr (s : State) (o : Out) : (emit s o).mpr = s.mpr := rfl
@[simp] theorem emit_mgc (s : State) (o : Out) : (emit s o).mgc = s.mgc := rfl
@[simp] theorem emit_dom (s : State) (o : Out) : (emit s o).dom = s.dom := rfl
@[simp] theorem emit_lcs (s : State) (o : Out) : (emit s o).lcs = s.lcs := rfl
@[simp] theorem emit_twn (s : State) (o : Out) : (emit s o).twn = s.twn := rfl
@[simp] theorem emit_mig (s : State) (o : Out) : (emit s o).mig = s.mig := rfl
@[simp] theorem emit_bore (s : State) (o : Out) : (emit s o).bore = s.bore := rfl
@[simp] theorem emit_pxt (s : State) (o : Out) : (emit s o).pxt = s.pxt := rfl
@[simp] theorem emit_pending (s : State) (o : Out) : (emit s o).pending = s.pending := rfl
@[simp] theorem emit_out (s : State) (o : Out) : (emit s o).out = o :: s.out := rfl
@[simp] theorem emit_free (s : State) (o : Out) : (emit s o).free = s.free := rfl

/-! ### emitAll -/

@[simp] theorem emitAll_dev (s : State) (l : List Out) : (emitAll s l).dev = s.dev := rfl
@[simp] theorem emitAll_brt (s : State) (l : List Out) : (emitAll s l).brt = s.brt := rfl
@[simp] theorem emitAll_ports (s : State) (l : List Out) : (emitAll s l).ports = s.ports := rfl
@[simp] theorem emitAll_insts (s : State) (l : List Out) : (emitAll s l).insts = s.insts := rfl
@[simp] theorem emitAll_jobs (s : State) (l : List Out) : (emitAll s l).jobs = s.jobs := rfl
@[simp] theorem emitAll_nextJob (s : State) (l : List Out) : (emitAll s l).nextJob = s.nextJob := rfl
@[simp] theorem emitAll_waiting (s : State) (l : List Out) : (emitAll s l).waiting = s.waiting := rfl
@[simp] theorem emitAll_plc (s : State) (l : List Out) : (emitAll s l).plc = s.plc := rfl
@[simp] theorem emitAll_clusters (s : State) (l : List Out) : (emitAll s l).clusters = s.clusters := rfl
@[simp] theorem emitAll_reeds (s : State) (l : List Out) : (emitAll s l).reeds = s.reeds := rfl
@[simp] theorem emitAll_health (s : State) (l : List Out) : (emitAll s l).health = s.health := rfl
@[simp] theorem emitAll_bell (s : State) (l : List Out) : (emitAll s l).bell = s.bell := rfl
@[simp] theorem emitAll_charts (s : State) (l : List Out) : (emitAll s l).charts = s.charts := rfl
@[simp] theorem emitAll_changes (s : State) (l : List Out) : (emitAll s l).changes = s.changes := rfl
@[simp] theorem emitAll_wch (s : State) (l : List Out) : (emitAll s l).wch = s.wch := rfl
@[simp] theorem emitAll_wchBox (s : State) (l : List Out) : (emitAll s l).wchBox = s.wchBox := rfl
@[simp] theorem emitAll_lcsBox (s : State) (l : List Out) : (emitAll s l).lcsBox = s.lcsBox := rfl
@[simp] theorem emitAll_rng (s : State) (l : List Out) : (emitAll s l).rng = s.rng := rfl
@[simp] theorem emitAll_dgp (s : State) (l : List Out) : (emitAll s l).dgp = s.dgp := rfl
@[simp] theorem emitAll_mpr (s : State) (l : List Out) : (emitAll s l).mpr = s.mpr := rfl
@[simp] theorem emitAll_mgc (s : State) (l : List Out) : (emitAll s l).mgc = s.mgc := rfl
@[simp] theorem emitAll_dom (s : State) (l : List Out) : (emitAll s l).dom = s.dom := rfl
@[simp] theorem emitAll_lcs (s : State) (l : List Out) : (emitAll s l).lcs = s.lcs := rfl
@[simp] theorem emitAll_twn (s : State) (l : List Out) : (emitAll s l).twn = s.twn := rfl
@[simp] theorem emitAll_mig (s : State) (l : List Out) : (emitAll s l).mig = s.mig := rfl
@[simp] theorem emitAll_bore (s : State) (l : List Out) : (emitAll s l).bore = s.bore := rfl
@[simp] theorem emitAll_pxt (s : State) (l : List Out) : (emitAll s l).pxt = s.pxt := rfl
@[simp] theorem emitAll_pending (s : State) (l : List Out) : (emitAll s l).pending = s.pending := rfl
@[simp] theorem emitAll_out (s : State) (l : List Out) : (emitAll s l).out = l.reverse ++ s.out := rfl
@[simp] theorem emitAll_free (s : State) (l : List Out) : (emitAll s l).free = s.free := rfl

/-! ### modRng -/

@[simp] theorem modRng_dev (s : State) (f : Rng → Rng) : (modRng s f).dev = s.dev := rfl
@[simp] theorem modRng_brt (s : State) (f : Rng → Rng) : (modRng s f).brt = s.brt := rfl
@[simp] theorem modRng_ports (s : State) (f : Rng → Rng) : (modRng s f).ports = s.ports := rfl
@[simp] theorem modRng_insts (s : State) (f : Rng → Rng) : (modRng s f).insts = s.insts := rfl
@[simp] theorem modRng_jobs (s : State) (f : Rng → Rng) : (modRng s f).jobs = s.jobs := rfl
@[simp] theorem modRng_nextJob (s : State) (f : Rng → Rng) : (modRng s f).nextJob = s.nextJob := rfl
@[simp] theorem modRng_waiting (s : State) (f : Rng → Rng) : (modRng s f).waiting = s.waiting := rfl
@[simp] theorem modRng_plc (s : State) (f : Rng → Rng) : (modRng s f).plc = s.plc := rfl
@[simp] theorem modRng_clusters (s : State) (f : Rng → Rng) : (modRng s f).clusters = s.clusters := rfl
@[simp] theorem modRng_reeds (s : State) (f : Rng → Rng) : (modRng s f).reeds = s.reeds := rfl
@[simp] theorem modRng_health (s : State) (f : Rng → Rng) : (modRng s f).health = s.health := rfl
@[simp] theorem modRng_bell (s : State) (f : Rng → Rng) : (modRng s f).bell = s.bell := rfl
@[simp] theorem modRng_charts (s : State) (f : Rng → Rng) : (modRng s f).charts = s.charts := rfl
@[simp] theorem modRng_changes (s : State) (f : Rng → Rng) : (modRng s f).changes = s.changes := rfl
@[simp] theorem modRng_wch (s : State) (f : Rng → Rng) : (modRng s f).wch = s.wch := rfl
@[simp] theorem modRng_wchBox (s : State) (f : Rng → Rng) : (modRng s f).wchBox = s.wchBox := rfl
@[simp] theorem modRng_lcsBox (s : State) (f : Rng → Rng) : (modRng s f).lcsBox = s.lcsBox := rfl
@[simp] theorem modRng_rng (s : State) (f : Rng → Rng) : (modRng s f).rng = f s.rng := rfl
@[simp] theorem modRng_dgp (s : State) (f : Rng → Rng) : (modRng s f).dgp = s.dgp := rfl
@[simp] theorem modRng_mpr (s : State) (f : Rng → Rng) : (modRng s f).mpr = s.mpr := rfl
@[simp] theorem modRng_mgc (s : State) (f : Rng → Rng) : (modRng s f).mgc = s.mgc := rfl
@[simp] theorem modRng_dom (s : State) (f : Rng → Rng) : (modRng s f).dom = s.dom := rfl
@[simp] theorem modRng_lcs (s : State) (f : Rng → Rng) : (modRng s f).lcs = s.lcs := rfl
@[simp] theorem modRng_twn (s : State) (f : Rng → Rng) : (modRng s f).twn = s.twn := rfl
@[simp] theorem modRng_mig (s : State) (f : Rng → Rng) : (modRng s f).mig = s.mig := rfl
@[simp] theorem modRng_bore (s : State) (f : Rng → Rng) : (modRng s f).bore = s.bore := rfl
@[simp] theorem modRng_pxt (s : State) (f : Rng → Rng) : (modRng s f).pxt = s.pxt := rfl
@[simp] theorem modRng_pending (s : State) (f : Rng → Rng) : (modRng s f).pending = s.pending := rfl
@[simp] theorem modRng_out (s : State) (f : Rng → Rng) : (modRng s f).out = s.out := rfl
@[simp] theorem modRng_free (s : State) (f : Rng → Rng) : (modRng s f).free = s.free := rfl

/-! ### modDgp -/

@[simp] theorem modDgp_dev (s : State) (c : Nat) (f : Dgp → Dgp) : (modDgp s c f).dev = s.dev := rfl
@[simp] theorem modDgp_brt (s : State) (c : Nat) (f : Dgp → Dgp) : (modDgp s c f).brt = s.brt := rfl
@[simp] theorem modDgp_ports (s : State) (c : Nat) (f : Dgp → Dgp) : (modDgp s c f).ports = s.ports := rfl
@[simp] theorem modDgp_insts (s : State) (c : Nat) (f : Dgp → Dgp) : (modDgp s c f).insts = s.insts := rfl
@[simp] theorem modDgp_jobs (s : State) (c : Nat) (f : Dgp → Dgp) : (modDgp s c f).jobs = s.jobs := rfl
@[simp] theorem modDgp_nextJob (s : State) (c : Nat) (f : Dgp → Dgp) : (modDgp s c f).nextJob = s.nextJob := rfl
@[simp] theorem modDgp_waiting (s : State) (c : Nat) (f : Dgp → Dgp) : (modDgp s c f).waiting = s.waiting := rfl
@[simp] theorem modDgp_plc (s : State) (c : Nat) (f : Dgp → Dgp) : (modDgp s c f).plc = s.plc := rfl
@[simp] theorem modDgp_clusters (s : State) (c : Nat) (f : Dgp → Dgp) : (modDgp s c f).clusters = s.clusters := rfl
@[simp] theorem modDgp_reeds (s : State) (c : Nat) (f : Dgp → Dgp) : (modDgp s c f).reeds = s.reeds := rfl
@[simp] theorem modDgp_health (s : State) (c : Nat) (f : Dgp → Dgp) : (modDgp s c f).health = s.health := rfl
@[simp] theorem modDgp_bell (s : State) (c : Nat) (f : Dgp → Dgp) : (modDgp s c f).bell = s.bell := rfl
@[simp] theorem modDgp_charts (s : State) (c : Nat) (f : Dgp → Dgp) : (modDgp s c f).charts = s.charts := rfl
@[simp] theorem modDgp_changes (s : State) (c : Nat) (f : Dgp → Dgp) : (modDgp s c f).changes = s.changes := rfl
@[simp] theorem modDgp_wch (s : State) (c : Nat) (f : Dgp → Dgp) : (modDgp s c f).wch = s.wch := rfl
@[simp] theorem modDgp_wchBox (s : State) (c : Nat) (f : Dgp → Dgp) : (modDgp s c f).wchBox = s.wchBox := rfl
@[simp] theorem modDgp_lcsBox (s : State) (c : Nat) (f : Dgp → Dgp) : (modDgp s c f).lcsBox = s.lcsBox := rfl
@[simp] theorem modDgp_rng (s : State) (c : Nat) (f : Dgp → Dgp) : (modDgp s c f).rng = s.rng := rfl
@[simp] theorem modDgp_dgp (s : State) (c : Nat) (f : Dgp → Dgp) : (modDgp s c f).dgp = listMod s.dgp c f := rfl
@[simp] theorem modDgp_mpr (s : State) (c : Nat) (f : Dgp → Dgp) : (modDgp s c f).mpr = s.mpr := rfl
@[simp] theorem modDgp_mgc (s : State) (c : Nat) (f : Dgp → Dgp) : (modDgp s c f).mgc = s.mgc := rfl
@[simp] theorem modDgp_dom (s : State) (c : Nat) (f : Dgp → Dgp) : (modDgp s c f).dom = s.dom := rfl
@[simp] theorem modDgp_lcs (s : State) (c : Nat) (f : Dgp → Dgp) : (modDgp s c f).lcs = s.lcs := rfl
@[simp] theorem modDgp_twn (s : State) (c : Nat) (f : Dgp → Dgp) : (modDgp s c f).twn = s.twn := rfl
@[simp] theorem modDgp_mig (s : State) (c : Nat) (f : Dgp → Dgp) : (modDgp s c f).mig = s.mig := rfl
@[simp] theorem modDgp_bore (s : State) (c : Nat) (f : Dgp → Dgp) : (modDgp s c f).bore = s.bore := rfl
@[simp] theorem modDgp_pxt (s : State) (c : Nat) (f : Dgp → Dgp) : (modDgp s c f).pxt = s.pxt := rfl
@[simp] theorem modDgp_pending (s : State) (c : Nat) (f : Dgp → Dgp) : (modDgp s c f).pending = s.pending := rfl
@[simp] theorem modDgp_out (s : State) (c : Nat) (f : Dgp → Dgp) : (modDgp s c f).out = s.out := rfl
@[simp] theorem modDgp_free (s : State) (c : Nat) (f : Dgp → Dgp) : (modDgp s c f).free = s.free := rfl

/-! ### modWch -/

@[simp] theorem modWch_dev (s : State) (f : Wch → Wch) : (modWch s f).dev = s.dev := rfl
@[simp] theorem modWch_brt (s : State) (f : Wch → Wch) : (modWch s f).brt = s.brt := rfl
@[simp] theorem modWch_ports (s : State) (f : Wch → Wch) : (modWch s f).ports = s.ports := rfl
@[simp] theorem modWch_insts (s : State) (f : Wch → Wch) : (modWch s f).insts = s.insts := rfl
@[simp] theorem modWch_jobs (s : State) (f : Wch → Wch) : (modWch s f).jobs = s.jobs := rfl
@[simp] theorem modWch_nextJob (s : State) (f : Wch → Wch) : (modWch s f).nextJob = s.nextJob := rfl
@[simp] theorem modWch_waiting (s : State) (f : Wch → Wch) : (modWch s f).waiting = s.waiting := rfl
@[simp] theorem modWch_plc (s : State) (f : Wch → Wch) : (modWch s f).plc = s.plc := rfl
@[simp] theorem modWch_clusters (s : State) (f : Wch → Wch) : (modWch s f).clusters = s.clusters := rfl
@[simp] theorem modWch_reeds (s : State) (f : Wch → Wch) : (modWch s f).reeds = s.reeds := rfl
@[simp] theorem modWch_health (s : State) (f : Wch → Wch) : (modWch s f).health = s.health := rfl
@[simp] theorem modWch_bell (s : State) (f : Wch → Wch) : (modWch s f).bell = s.bell := rfl
@[simp] theorem modWch_charts (s : State) (f : Wch → Wch) : (modWch s f).charts = s.charts := rfl
@[simp] theorem modWch_changes (s : State) (f : Wch → Wch) : (modWch s f).changes = s.changes := rfl
@[simp] theorem modWch_wch (s : State) (f : Wch → Wch) : (modWch s f).wch = f s.wch := rfl
@[simp] theorem modWch_wchBox (s : State) (f : Wch → Wch) : (modWch s f).wchBox = s.wchBox := rfl
@[simp] theorem modWch_lcsBox (s : State) (f : Wch → Wch) : (modWch s f).lcsBox = s.lcsBox := rfl
@[simp] theorem modWch_rng (s : State) (f : Wch → Wch) : (modWch s f).rng = s.rng := rfl
@[simp] theorem modWch_dgp (s : State) (f : Wch → Wch) : (modWch s f).dgp = s.dgp := rfl
@[simp] theorem modWch_mpr (s : State) (f : Wch → Wch) : (modWch s f).mpr = s.mpr := rfl
@[simp] theorem modWch_mgc (s : State) (f : Wch → Wch) : (modWch s f).mgc = s.mgc := rfl
@[simp] theorem modWch_dom (s : State) (f : Wch → Wch) : (modWch s f).dom = s.dom := rfl
@[simp] theorem modWch_lcs (s : State) (f : Wch → Wch) : (modWch s f).lcs = s.lcs := rfl
@[simp] theorem modWch_twn (s : State) (f : Wch → Wch) : (modWch s f).twn = s.twn := rfl
@[simp] theorem modWch_mig (s : State) (f : Wch → Wch) : (modWch s f).mig = s.mig := rfl
@[simp] theorem modWch_bore (s : State) (f : Wch → Wch) : (modWch s f).bore = s.bore := rfl
@[simp] theorem modWch_pxt (s : State) (f : Wch → Wch) : (modWch s f).pxt = s.pxt := rfl
@[simp] theorem modWch_pending (s : State) (f : Wch → Wch) : (modWch s f).pending = s.pending := rfl
@[simp] theorem modWch_out (s : State) (f : Wch → Wch) : (modWch s f).out = s.out := rfl
@[simp] theorem modWch_free (s : State) (f : Wch → Wch) : (modWch s f).free = s.free := rfl

/-! ### modDom -/

@[simp] theorem modDom_dev (s : State) (f : Domain → Domain) : (modDom s f).dev = s.dev := rfl
@[simp] theorem modDom_brt (s : State) (f : Domain → Domain) : (modDom s f).brt = s.brt := rfl
@[simp] theorem modDom_ports (s : State) (f : Domain → Domain) : (modDom s f).ports = s.ports := rfl
@[simp] theorem modDom_insts (s : State) (f : Domain → Domain) : (modDom s f).insts = s.insts := rfl
@[simp] theorem modDom_jobs (s : State) (f : Domain → Domain) : (modDom s f).jobs = s.jobs := rfl
@[simp] theorem modDom_nextJob (s : State) (f : Domain → Domain) : (modDom s f).nextJob = s.nextJob := rfl
@[simp] theorem modDom_waiting (s : State) (f : Domain → Domain) : (modDom s f).waiting = s.waiting := rfl
@[simp] theorem modDom_plc (s : State) (f : Domain → Domain) : (modDom s f).plc = s.plc := rfl
@[simp] theorem modDom_clusters (s : State) (f : Domain → Domain) : (modDom s f).clusters = s.clusters := rfl
@[simp] theorem modDom_reeds (s : State) (f : Domain → Domain) : (modDom s f).reeds = s.reeds := rfl
@[simp] theorem modDom_health (s : State) (f : Domain → Domain) : (modDom s f).health = s.health := rfl
@[simp] theorem modDom_bell (s : State) (f : Domain → Domain) : (modDom s f).bell = s.bell := rfl
@[simp] theorem modDom_charts (s : State) (f : Domain → Domain) : (modDom s f).charts = s.charts := rfl
@[simp] theorem modDom_changes (s : State) (f : Domain → Domain) : (modDom s f).changes = s.changes := rfl
@[simp] theorem modDom_wch (s : State) (f : Domain → Domain) : (modDom s f).wch = s.wch := rfl
@[simp] theorem modDom_wchBox (s : State) (f : Domain → Domain) : (modDom s f).wchBox = s.wchBox := rfl
@[simp] theorem modDom_lcsBox (s : State) (f : Domain → Domain) : (modDom s f).lcsBox = s.lcsBox := rfl
@[simp] theorem modDom_rng (s : State) (f : Domain → Domain) : (modDom s f).rng = s.rng := rfl
@[simp] theorem modDom_dgp (s : State) (f : Domain → Domain) : (modDom s f).dgp = s.dgp := rfl
@[simp] theorem modDom_mpr (s : State) (f : Domain → Domain) : (modDom s f).mpr = s.mpr := rfl
@[simp] theorem modDom_mgc (s : State) (f : Domain → Domain) : (modDom s f).mgc = s.mgc := rfl
@[simp] theorem modDom_dom (s : State) (f : Domain → Domain) : (modDom s f).dom = { f s.dom with seq := s.dom.seq + 1 } := rfl
@[simp] theorem modDom_lcs (s : State) (f : Domain → Domain) : (modDom s f).lcs = s.lcs := rfl
@[simp] theorem modDom_twn (s : State) (f : Domain → Domain) : (modDom s f).twn = s.twn := rfl
@[simp] theorem modDom_mig (s : State) (f : Domain → Domain) : (modDom s f).mig = s.mig := rfl
@[simp] theorem modDom_bore (s : State) (f : Domain → Domain) : (modDom s f).bore = s.bore := rfl
@[simp] theorem modDom_pxt (s : State) (f : Domain → Domain) : (modDom s f).pxt = s.pxt := rfl
@[simp] theorem modDom_pending (s : State) (f : Domain → Domain) : (modDom s f).pending = s.pending := rfl
@[simp] theorem modDom_out (s : State) (f : Domain → Domain) : (modDom s f).out = s.out := rfl
@[simp] theorem modDom_free (s : State) (f : Domain → Domain) : (modDom s f).free = s.free := rfl

/-! ### modMgc -/

@[simp] theorem modMgc_dev (s : State) (f : Mgc → Mgc) : (modMgc s f).dev = s.dev := rfl
@[simp] theorem modMgc_brt (s : State) (f : Mgc → Mgc) : (modMgc s f).brt = s.brt := rfl
@[simp] theorem modMgc_ports (s : State) (f : Mgc → Mgc) : (modMgc s f).ports = s.ports := rfl
@[simp] theorem modMgc_insts (s : State) (f : Mgc → Mgc) : (modMgc s f).insts = s.insts := rfl
@[simp] theorem modMgc_jobs (s : State) (f : Mgc → Mgc) : (modMgc s f).jobs = s.jobs := rfl
@[simp] theorem modMgc_nextJob (s : State) (f : Mgc → Mgc) : (modMgc s f).nextJob = s.nextJob := rfl
@[simp] theorem modMgc_waiting (s : State) (f : Mgc → Mgc) : (modMgc s f).waiting = s.waiting := rfl
@[simp] theorem modMgc_plc (s : State) (f : Mgc → Mgc) : (modMgc s f).plc = s.plc := rfl
@[simp] theorem modMgc_clusters (s : State) (f : Mgc → Mgc) : (modMgc s f).clusters = s.clusters := rfl
@[simp] theorem modMgc_reeds (s : State) (f : Mgc → Mgc) : (modMgc s f).reeds = s.reeds := rfl
@[simp] theorem modMgc_health (s : State) (f : Mgc → Mgc) : (modMgc s f).health = s.health := rfl
@[simp] theorem modMgc_bell (s : State) (f : Mgc → Mgc) : (modMgc s f).bell = s.bell := rfl
@[simp] theorem modMgc_charts (s : State) (f : Mgc → Mgc) : (modMgc s f).charts = s.charts := rfl
@[simp] theorem modMgc_changes (s : State) (f : Mgc → Mgc) : (modMgc s f).changes = s.changes := rfl
@[simp] theorem modMgc_wch (s : State) (f : Mgc → Mgc) : (modMgc s f).wch = s.wch := rfl
@[simp] theorem modMgc_wchBox (s : State) (f : Mgc → Mgc) : (modMgc s f).wchBox = s.wchBox := rfl
@[simp] theorem modMgc_lcsBox (s : State) (f : Mgc → Mgc) : (modMgc s f).lcsBox = s.lcsBox := rfl
@[simp] theorem modMgc_rng (s : State) (f : Mgc → Mgc) : (modMgc s f).rng = s.rng := rfl
@[simp] theorem modMgc_dgp (s : State) (f : Mgc → Mgc) : (modMgc s f).dgp = s.dgp := rfl
@[simp] theorem modMgc_mpr (s : State) (f : Mgc → Mgc) : (modMgc s f).mpr = s.mpr := rfl
@[simp] theorem modMgc_mgc (s : State) (f : Mgc → Mgc) : (modMgc s f).mgc = f s.mgc := rfl
@[simp] theorem modMgc_dom (s : State) (f : Mgc → Mgc) : (modMgc s f).dom = s.dom := rfl
@[simp] theorem modMgc_lcs (s : State) (f : Mgc → Mgc) : (modMgc s f).lcs = s.lcs := rfl
@[simp] theorem modMgc_twn (s : State) (f : Mgc → Mgc) : (modMgc s f).twn = s.twn := rfl
@[simp] theorem modMgc_mig (s : State) (f : Mgc → Mgc) : (modMgc s f).mig = s.mig := rfl
@[simp] theorem modMgc_bore (s : State) (f : Mgc → Mgc) : (modMgc s f).bore = s.bore := rfl
@[simp] theorem modMgc_pxt (s : State) (f : Mgc → Mgc) : (modMgc s f).pxt = s.pxt := rfl
@[simp] theorem modMgc_pending (s : State) (f : Mgc → Mgc) : (modMgc s f).pending = s.pending := rfl
@[simp] theorem modMgc_out (s : State) (f : Mgc → Mgc) : (modMgc s f).out = s.out := rfl
@[simp] theorem modMgc_free (s : State) (f : Mgc → Mgc) : (modMgc s f).free = s.free := rfl

/-! ### modTwn -/

@[simp] theorem modTwn_dev (s : State) (f : Twn → Twn) : (modTwn s f).dev = s.dev := rfl
@[simp] theorem modTwn_brt (s : State) (f : Twn → Twn) : (modTwn s f).brt = s.brt := rfl
@[simp] theorem modTwn_ports (s : State) (f : Twn → Twn) : (modTwn s f).ports = s.ports := rfl
@[simp] theorem modTwn_insts (s : State) (f : Twn → Twn) : (modTwn s f).insts = s.insts := rfl
@[simp] theorem modTwn_jobs (s : State) (f : Twn → Twn) : (modTwn s f).jobs = s.jobs := rfl
@[simp] theorem modTwn_nextJob (s : State) (f : Twn → Twn) : (modTwn s f).nextJob = s.nextJob := rfl
@[simp] theorem modTwn_waiting (s : State) (f : Twn → Twn) : (modTwn s f).waiting = s.waiting := rfl
@[simp] theorem modTwn_plc (s : State) (f : Twn → Twn) : (modTwn s f).plc = s.plc := rfl
@[simp] theorem modTwn_clusters (s : State) (f : Twn → Twn) : (modTwn s f).clusters = s.clusters := rfl
@[simp] theorem modTwn_reeds (s : State) (f : Twn → Twn) : (modTwn s f).reeds = s.reeds := rfl
@[simp] theorem modTwn_health (s : State) (f : Twn → Twn) : (modTwn s f).health = s.health := rfl
@[simp] theorem modTwn_bell (s : State) (f : Twn → Twn) : (modTwn s f).bell = s.bell := rfl
@[simp] theorem modTwn_charts (s : State) (f : Twn → Twn) : (modTwn s f).charts = s.charts := rfl
@[simp] theorem modTwn_changes (s : State) (f : Twn → Twn) : (modTwn s f).changes = s.changes := rfl
@[simp] theorem modTwn_wch (s : State) (f : Twn → Twn) : (modTwn s f).wch = s.wch := rfl
@[simp] theorem modTwn_wchBox (s : State) (f : Twn → Twn) : (modTwn s f).wchBox = s.wchBox := rfl
@[simp] theorem modTwn_lcsBox (s : State) (f : Twn → Twn) : (modTwn s f).lcsBox = s.lcsBox := rfl
@[simp] theorem modTwn_rng (s : State) (f : Twn → Twn) : (modTwn s f).rng = s.rng := rfl
@[simp] theorem modTwn_dgp (s : State) (f : Twn → Twn) : (modTwn s f).dgp = s.dgp := rfl
@[simp] theorem modTwn_mpr (s : State) (f : Twn → Twn) : (modTwn s f).mpr = s.mpr := rfl
@[simp] theorem modTwn_mgc (s : State) (f : Twn → Twn) : (modTwn s f).mgc = s.mgc := rfl
@[simp] theorem modTwn_dom (s : State) (f : Twn → Twn) : (modTwn s f).dom = s.dom := rfl
@[simp] theorem modTwn_lcs (s : State) (f : Twn → Twn) : (modTwn s f).lcs = s.lcs := rfl
@[simp] theorem modTwn_twn (s : State) (f : Twn → Twn) : (modTwn s f).twn = f s.twn := rfl
@[simp] theorem modTwn_mig (s : State) (f : Twn → Twn) : (modTwn s f).mig = s.mig := rfl
@[simp] theorem modTwn_bore (s : State) (f : Twn → Twn) : (modTwn s f).bore = s.bore := rfl
@[simp] theorem modTwn_pxt (s : State) (f : Twn → Twn) : (modTwn s f).pxt = s.pxt := rfl
@[simp] theorem modTwn_pending (s : State) (f : Twn → Twn) : (modTwn s f).pending = s.pending := rfl
@[simp] theorem modTwn_out (s : State) (f : Twn → Twn) : (modTwn s f).out = s.out := rfl
@[simp] theorem modTwn_free (s : State) (f : Twn → Twn) : (modTwn s f).free = s.free := rfl

/-! ### modBore -/

@[simp] theorem modBore_dev (s : State) (f : Bore → Bore) : (modBore s f).dev = s.dev := rfl
@[simp] theorem modBore_brt (s : State) (f : Bore → Bore) : (modBore s f).brt = s.brt := rfl
@[simp] theorem modBore_ports (s : State) (f : Bore → Bore) : (modBore s f).ports = s.ports := rfl
@[simp] theorem modBore_insts (s : State) (f : Bore → Bore) : (modBore s f).insts = s.insts := rfl
@[simp] theorem modBore_jobs (s : State) (f : Bore → Bore) : (modBore s f).jobs = s.jobs := rfl
@[simp] theorem modBore_nextJob (s : State) (f : Bore → Bore) : (modBore s f).nextJob = s.nextJob := rfl
@[simp] theorem modBore_waiting (s : State) (f : Bore → Bore) : (modBore s f).waiting = s.waiting := rfl
@[simp] theorem modBore_plc (s : State) (f : Bore → Bore) : (modBore s f).plc = s.plc := rfl
@[simp] theorem modBore_clusters (s : State) (f : Bore → Bore) : (modBore s f).clusters = s.clusters := rfl
@[simp] theorem modBore_reeds (s : State) (f : Bore → Bore) : (modBore s f).reeds = s.reeds := rfl
@[simp] theorem modBore_health (s : State) (f : Bore → Bore) : (modBore s f).health = s.health := rfl
@[simp] theorem modBore_bell (s : State) (f : Bore → Bore) : (modBore s f).bell = s.bell := rfl
@[simp] theorem modBore_charts (s : State) (f : Bore → Bore) : (modBore s f).charts = s.charts := rfl
@[simp] theorem modBore_changes (s : State) (f : Bore → Bore) : (modBore s f).changes = s.changes := rfl
@[simp] theorem modBore_wch (s : State) (f : Bore → Bore) : (modBore s f).wch = s.wch := rfl
@[simp] theorem modBore_wchBox (s : State) (f : Bore → Bore) : (modBore s f).wchBox = s.wchBox := rfl
@[simp] theorem modBore_lcsBox (s : State) (f : Bore → Bore) : (modBore s f).lcsBox = s.lcsBox := rfl
@[simp] theorem modBore_rng (s : State) (f : Bore → Bore) : (modBore s f).rng = s.rng := rfl
@[simp] theorem modBore_dgp (s : State) (f : Bore → Bore) : (modBore s f).dgp = s.dgp := rfl
@[simp] theorem modBore_mpr (s : State) (f : Bore → Bore) : (modBore s f).mpr = s.mpr := rfl
@[simp] theorem modBore_mgc (s : State) (f : Bore → Bore) : (modBore s f).mgc = s.mgc := rfl
@[simp] theorem modBore_dom (s : State) (f : Bore → Bore) : (modBore s f).dom = s.dom := rfl
@[simp] theorem modBore_lcs (s : State) (f : Bore → Bore) : (modBore s f).lcs = s.lcs := rfl
@[simp] theorem modBore_twn (s : State) (f : Bore → Bore) : (modBore s f).twn = s.twn := rfl
@[simp] theorem modBore_mig (s : State) (f : Bore → Bore) : (modBore s f).mig = s.mig := rfl
@[simp] theorem modBore_bore (s : State) (f : Bore → Bore) : (modBore s f).bore = f s.bore := rfl
@[simp] theorem modBore_pxt (s : State) (f : Bore → Bore) : (modBore s f).pxt = s.pxt := rfl
@[simp] theorem modBore_pending (s : State) (f : Bore → Bore) : (modBore s f).pending = s.pending := rfl
@[simp] theorem modBore_out (s : State) (f : Bore → Bore) : (modBore s f).out = s.out := rfl
@[simp] theorem modBore_free (s : State) (f : Bore → Bore) : (modBore s f).free = s.free := rfl

/-! ### modPxt -/

@[simp] theorem modPxt_dev (s : State) (f : Pxt → Pxt) : (modPxt s f).dev = s.dev := rfl
@[simp] theorem modPxt_brt (s : State) (f : Pxt → Pxt) : (modPxt s f).brt = s.brt := rfl
@[simp] theorem modPxt_ports (s : State) (f : Pxt → Pxt) : (modPxt s f).ports = s.ports := rfl
@[simp] theorem modPxt_insts (s : State) (f : Pxt → Pxt) : (modPxt s f).insts = s.insts := rfl
@[simp] theorem modPxt_jobs (s : State) (f : Pxt → Pxt) : (modPxt s f).jobs = s.jobs := rfl
@[simp] theorem modPxt_nextJob (s : State) (f : Pxt → Pxt) : (modPxt s f).nextJob = s.nextJob := rfl
@[simp] theorem modPxt_waiting (s : State) (f : Pxt → Pxt) : (modPxt s f).waiting = s.waiting := rfl
@[simp] theorem modPxt_plc (s : State) (f : Pxt → Pxt) : (modPxt s f).plc = s.plc := rfl
@[simp] theorem modPxt_clusters (s : State) (f : Pxt → Pxt) : (modPxt s f).clusters = s.clusters := rfl
@[simp] theorem modPxt_reeds (s : State) (f : Pxt → Pxt) : (modPxt s f).reeds = s.reeds := rfl
@[simp] theorem modPxt_health (s : State) (f : Pxt → Pxt) : (modPxt s f).health = s.health := rfl
@[simp] theorem modPxt_bell (s : State) (f : Pxt → Pxt) : (modPxt s f).bell = s.bell := rfl
@[simp] theorem modPxt_charts (s : State) (f : Pxt → Pxt) : (modPxt s f).charts = s.charts := rfl
@[simp] theorem modPxt_changes (s : State) (f : Pxt → Pxt) : (modPxt s f).changes = s.changes := rfl
@[simp] theorem modPxt_wch (s : State) (f : Pxt → Pxt) : (modPxt s f).wch = s.wch := rfl
@[simp] theorem modPxt_wchBox (s : State) (f : Pxt → Pxt) : (modPxt s f).wchBox = s.wchBox := rfl
@[simp] theorem modPxt_lcsBox (s : State) (f : Pxt → Pxt) : (modPxt s f).lcsBox = s.lcsBox := rfl
@[simp] theorem modPxt_rng (s : State) (f : Pxt → Pxt) : (modPxt s f).rng = s.rng := rfl
@[simp] theorem modPxt_dgp (s : State) (f : Pxt → Pxt) : (modPxt s f).dgp = s.dgp := rfl
@[simp] theorem modPxt_mpr (s : State) (f : Pxt → Pxt) : (modPxt s f).mpr = s.mpr := rfl
@[simp] theorem modPxt_mgc (s : State) (f : Pxt → Pxt) : (modPxt s f).mgc = s.mgc := rfl
@[simp] theorem modPxt_dom (s : State) (f : Pxt → Pxt) : (modPxt s f).dom = s.dom := rfl
@[simp] theorem modPxt_lcs (s : State) (f : Pxt → Pxt) : (modPxt s f).lcs = s.lcs := rfl
@[simp] theorem modPxt_twn (s : State) (f : Pxt → Pxt) : (modPxt s f).twn = s.twn := rfl
@[simp] theorem modPxt_mig (s : State) (f : Pxt → Pxt) : (modPxt s f).mig = s.mig := rfl
@[simp] theorem modPxt_bore (s : State) (f : Pxt → Pxt) : (modPxt s f).bore = s.bore := rfl
@[simp] theorem modPxt_pxt (s : State) (f : Pxt → Pxt) : (modPxt s f).pxt = f s.pxt := rfl
@[simp] theorem modPxt_pending (s : State) (f : Pxt → Pxt) : (modPxt s f).pending = s.pending := rfl
@[simp] theorem modPxt_out (s : State) (f : Pxt → Pxt) : (modPxt s f).out = s.out := rfl
@[simp] theorem modPxt_free (s : State) (f : Pxt → Pxt) : (modPxt s f).free = s.free := rfl

end Sys2Proof.Laws
end

