-- ==== Sys2Proof/Tests/Slice0.lean ====
section
/-! SUPPORT. Own tests: a term each well-formedness check refuses, and for each statement concrete states and operands that meet the
hypotheses of its clauses together, at boundary values where they have a range; a few single steps with the values the spec gives. -/

namespace Sys2Proof.Tests

set_option Elab.async false

open Sys2Proof Sys2Proof.Machine Sys2Proof.Safety Sys2Proof.Rows

/-! ### Ill-formed commands -/

theorem test_wf_queue : (Instr.queueEnable 0 1 4095).wf = true ∧ (Instr.queueEnable 0 1 4096).wf = false := by decide
theorem test_wf_vf : (Instr.vfFlr 0 1).wf = true ∧ (Instr.vfFlr 0 0).wf = false ∧ (Instr.vfFlr 0 65536).wf = false := by decide
theorem test_wf_function : (Instr.d3hotTransition 0 65535 true).wf = true ∧ (Instr.d3hotTransition 0 65536 true).wf = false := by decide
theorem test_wf_vector : (Instr.msixVectorUnmask 0 0 2047).wf = true ∧ (Instr.msixVectorUnmask 0 0 2048).wf = false ∧
    (Instr.msixVectorUnmask 0 1 256).wf = false := by decide
theorem test_wf_access : (Instr.registerWrite (.pf 0 8) true 0).wf = true ∧ (Instr.registerWrite (.pf 0 4) true 0).wf = false ∧
    (Instr.registerWrite (.pf 0 4) false 0x100000000).wf = false ∧ (Instr.registerWrite (.vf 0 0 8) true 0).wf = false := by decide +kernel
theorem test_wf_line : (Instr.ddrLineWrite 0 60 [1, 2, 3, 4] .clean).wf = true ∧ (Instr.ddrLineWrite 0 61 [1, 2, 3, 4] .clean).wf = false ∧
    (Instr.ddrLineWrite 0 0 [] .clean).wf = false := by decide
theorem test_wf_link : (Instr.linkUp (.host 0) 16 5).wf = true ∧ (Instr.linkUp (.host 0) 3 5).wf = false ∧ (Instr.linkUp (.host 0) 16 6).wf = false := by
  decide
theorem test_wf_entry : (Instr.submissionFetch (.inst 0 1) (zeros 1024)).wf = true ∧ (Instr.submissionFetch (.inst 0 1) []).wf = false ∧
    (Instr.submissionFetch (.inst 0 1) (zeros 65)).wf = false := by decide +kernel
theorem test_wf_ring : (Instr.fenceReadComplete (.inst 0 4096) true).wf = false ∧ (Instr.fenceReadComplete (.adm 0) true).wf = true := by decide
theorem test_wf_target : (Instr.dmaReadComplete (.entry (.inst 0 4096)) .ur).wf = false ∧ (Instr.dmaReadComplete (.job 3) .ur).wf = true := by decide
theorem test_wf_twin : (Instr.heartbeat ⟨0, 2 ^ 64, 0, [], true⟩).wf = false ∧ (Instr.heartbeat ⟨0, 2 ^ 64 - 1, 0, [], true⟩).wf = true := by decide
theorem test_wf_readings : (Instr.sensorSample ⟨[], [], none, [], [], 0⟩).wf = false := by decide
theorem test_wf_dimms : (Instr.powerOnReset ⟨true, 1, true, ⟨9, 1, 16, true, true, true⟩, [], true, true⟩).wf = false ∧
    (Instr.powerOnReset ⟨true, 1, true, ⟨8, 2, 16, true, true, true⟩, [], true, true⟩).wf = true := by decide
theorem test_no_word_spells_a_command : decodeTableWord 0 0 = none ∧ State.reset.withFetchWord 0 0 = State.reset := ⟨rfl, rfl⟩

/-! ### States -/

/-- A device in SERVICE in breath 100. -/
def up : State := { State.reset with
  dev := { Dev.init with mode := .service }
  brt := { Brt.init with count := 100 } }

/-- A queue pair in use. -/
def qp1 : Qp := { Qp.init with enable := true, sqBase := 0x10000, cqBase := 0x20000, vector := 1, tail := 3, head := 1, wr := 66, freed := 5, out := 2 }

/-- An instance of VF 2 of port 1, with queues 0 and 1. -/
def inst1 : Inst where
  port := 1
  vf := 2
  state := .active
  drain := false
  flags := 0
  errCause := 0
  gen := 4
  maxQueues := 4
  maxSlots := 8
  maxContexts := 4
  maxStreams := 4
  dmaShare := 64
  nextShare := none
  poolShare := List.replicate 16 16
  q0SqBase := 0x30000
  q0CqBase := 0x40000
  q0SqLog2 := 6
  q0CqLog2 := 6
  q0Vector := 0
  queues := [(0, { qp1 with sqBase := 0x30000, cqBase := 0x40000, vector := 0, out := 1 }), (1, qp1)]
  lastQueue := 0
  ctl := CmdQ.init
  bucket := 1000000000000
  reset := none

/-- Port 1 with its virtual functions and its admin queue in use. -/
def port1 : HostPort := { HostPort.init with
  width := 8
  speed := 4
  totalVfs := 4
  vfEnable := true
  adm := { Adm.init with sqBase := 0x50000, cqBase := 0x60000, qp := { qp1 with sqBase := 0x50000, cqBase := 0x60000 } } }

/-- A device with instance 3 on port 1. -/
def hosted : State := { up with
  ports := listSet up.ports 1 port1
  insts := [(3, inst1)] }

/-- A customer's job of instance 3 at reed 5. -/
def job1 : Job where
  inst := 3
  queue := 1
  tag := 7
  gen := 4
  kind := .routine
  entry := zeros 64
  gather := []
  input := []
  breath := 90
  stage := .running
  pool := 0
  cls := .reed
  budget := 2
  start := some 98
  rung := 1
  unit := .reed 5
  replayed := false
  replays := 0
  replayAt := 0
  abort := none
  due := 0
  result := none
  leaf := none
  claim := false
  draws := []
  drawnAt := none
  frame := none
  deferred := false
  slice := none
  done := 0
  internal := none
  rid := 0x8001
  pages := 4
  space := []
  post := none
  moveAt := none
  saved := none
  holds := false

/-- Its reed, with VL below every group's size. -/
def core1 : ReedCore := { ReedCore.init with vl := 7, qmod := 3329 }
def reed1 (c : ReedCore) : Reed := { Reed.init with job := some 1, routine := 0x8001, run := .running, core := c }
def atReed (c : ReedCore) : State := { hosted with jobs := [(1, job1)], reeds := [(5, reed1 c)] }
def held1 (st : Status) : Job := { job1 with stage := .held, due := 100, post := some (3, 9), result := some ⟨st, [1, 2, 3], 5, none⟩ }

/-- A command at the front of port 1's admin queue. -/
def cmd (op : Nat) (params : Bytes) (len : Nat) : Cmd := ⟨op, 5, 0x9000, len, true, padTo 40 params, 0, 97, false⟩
def admOf (s : State) (c : Cmd) (data : Option Bytes) : State := modPort s 1 (fun h => { h with adm := { h.adm with q := ⟨[c], data⟩ } })
def ctlOf (s : State) (c : Cmd) (data : Option Bytes) : State := modInst s 3 (fun y => { y with ctl := ⟨[{ c with gen := 4 }], data⟩ })

/-- A submission of one slot, and of two with a gather element. -/
def slot0 (op tag count n outLen : Nat) : Bytes := padTo 64 (leBytes 2 op ++ leBytes 2 tag ++ [BitVec.ofNat 8 count, 0] ++ leBytes 2 n ++
  leBytes 2 0 ++ leBytes 2 0xFFFF ++ leBytes 4 outLen)

/-- An instance descriptor of CREATE_INSTANCE. -/
def desc1 : Bytes := padTo 128 ([0, 0] ++ leBytes 2 4 ++ leBytes 2 8 ++ leBytes 2 4 ++ leBytes 4 4 ++ leBytes 2 64 ++ leBytes 2 0 ++
  (List.replicate 16 (leBytes 2 16)).flatten)

/-- A chart with one pool of cluster 0, and a customer routine. -/
def routine1 : RoutineSec := ⟨0x8001, false, 4, 2, 0, 64, 0, [0, 0]⟩
def chart1 : Chart where
  generation := 3
  domainId := 0
  log2Len := 12
  unitEnable := 0xFF
  x16Mask := 0
  globalMask := 0xFF
  relaxed := false
  ceilings := List.replicate 8 16
  pools := [⟨0, 0, 0, 1, [0x8001]⟩]
  svc := ⟨24, 24, 24, 24, 0⟩
  mig := ⟨16, 16, 16, 16, 16⟩
  fabric := []
  pxt := none
  nodes := none
  ddr := ⟨List.replicate 16 (0, 0), 24, []⟩
  conditioner := 0
  monitors := []
  twin := false
  suspicionLimit := 4
  routines := [routine1]
  sections := []
def charted : State := { hosted with charts := { hosted.charts with inForce := some chart1 } }

/-- A device in CUSTODY with a domain, three officers and an AES key in slot 2 of instance 3. -/
def officer1 : Bytes := padTo 2656 (leBytes 4 0x5243464F ++ [1, 0, 0, 0] ++ List.replicate 16 4 ++ zeros 40 ++ [5, 6, 7])
def gen1 : Bytes := List.replicate 32 1
def custody : State := { charted with
  dom := { charted.dom with id := 77, member := some 4, officers := [(1, officer1), (2, officer1), (3, officer1)], gens := [(1, gen1)] }
  lcs := { charted.lcs with state := 3 } }
def key1 : Bytes := List.replicate 32 0x5A
/-- Its slot, with the tag R329 gives it. -/
def key2 : Slot := ⟨0, padTo 64 key1, 0x2003, 0xFFF, 0, 3, 32, 0, [0x06, 0x59, 0xEB, 0x83, 0x0C, 0x0D, 0xD0, 0xA4], [], 0, false, false, none⟩
def keyed : State := { custody with wch := { custody.wch with slots := [(3 * 16384 + 2, key2)] } }

/-! ### The step, the breath, the ladder -/

theorem test_step_pops_the_front : step { up with pending := [.powerDown, .inhale] } = exec .powerDown { up with pending := [.inhale] } := rfl
theorem test_empty_queue : up.pending = [] ∧ isRunning up = true ∧ up.brt.cycle < 2 ^ up.brt.log2Len - 257 ∧
    isRunning { up with dev := { up.dev with mode := .halted } } = false := by decide +kernel

/-- The last cycle of a breath of 4,096. -/
def lastCycle : State := { hosted with brt := { hosted.brt with cycle := 4095, exhale := true, nextLog2 := some 13 } }
theorem test_block_inv : BlockInv lastCycle where
  clock := ⟨(by unfold LenOk; decide +kernel), (by intro n h; cases h; unfold LenOk; decide), by decide +kernel, (by intro n h; cases h), by decide +kernel,
    by decide +kernel⟩
  mem := ⟨by decide +kernel, by unfold MinorsOk; decide +kernel, by decide +kernel, by decide +kernel⟩
  wait := by intro x h; cases h
  shape := ⟨by decide +kernel, by decide +kernel, by decide +kernel, by decide +kernel⟩
theorem test_breath_phases : isRunning lastCycle = true ∧ lastCycle.brt.exhale = true ∧ isRunning hosted = true ∧ hosted.brt.exhale = false ∧
    hosted.brt.cycle = 0 := by decide +kernel

/-- A job at rung 1 whose rung of breath 98 + 2 has come; its result in the bell; aborted at its budget; aborted else. -/
def withJob (j : Job) : State := { atReed core1 with jobs := [(1, j)] }
def pastBudget : Job := { job1 with start := some 84, stage := .aborted, abort := some .budgetExceeded, due := 100, unit := .none }
def cancelled : Job := { job1 with stage := .aborted, due := 100, abort := some .aborted, unit := .none }
theorem test_ladder_rung : isRunning (withJob job1) = true ∧ tblGet (withJob job1).jobs 1 = some job1 ∧ job1.start = some 98 ∧
    (withJob job1).brt.cycle = 0 ∧ (withJob job1).brt.exhale = false ∧ job1.stage ≠ .held ∧ job1.rung ≤ 7 ∧
    (withJob job1).brt.count = 98 + job1.rung * job1.budget := by decide +kernel
theorem test_budget_exceeded : isRunning (withJob pastBudget) = true ∧ (withJob pastBudget).brt.exhale = false ∧ pastBudget.stage = .aborted ∧
    pastBudget.abort = some .budgetExceeded ∧ pastBudget.due ≤ (withJob pastBudget).brt.count := by decide +kernel
theorem test_abort_complete : let s := withJob cancelled
    isRunning s = true ∧ cancelled.stage = .aborted ∧ cancelled.abort ≠ some .budgetExceeded ∧ cancelled.due ≤ s.brt.count ∧ s.brt.exhale = false ∧
      haltHolds s = false ∧ cancelsOf s 1 = [] ∧ cancelled.internal = none ∧ cancelled.claim = false ∧ reservedSlot cancelled = none := by decide +kernel

/-- What CanWrite asks of a ring of an instance. -/
theorem canWrite_inst {s : State} {qp : Qp} {c : Compl} {i q : Nat} (hc : c.ring = .inst i q) (h : ringQp s c.ring = some qp ∧
    ringAsleep s c.ring = false ∧ generationHolds s c = true ∧ (portAt s (ringFn s c.ring).1).noAccess = []) : CanWrite s qp c where
  ring := h.1
  awake := h.2.1
  holds := h.2.2.1
  ports p hp := by rw [hc] at hp; cases hp
  access e he := by rw [h.2.2.2] at he; cases he
def due1 : Compl := { jobCompl (held1 .ok) .ok [1, 2, 3] 5 with breath := 100 }
theorem test_release : let s := withJob (held1 .ok)
    (isRunning s = true ∧ s.brt.exhale = false ∧ haltHolds s = false ∧ nextRelease s = some (1, held1 .ok) ∧ (held1 .ok).internal = none ∧
      (held1 .ok).result = some ⟨.ok, [1, 2, 3], 5, none⟩ ∧ (held1 .ok).kind = .routine ∧ (held1 .ok).claim = false) ∧
    CanWrite s qp1 due1 ∧ Unfenced s qp1 due1 :=
  ⟨by decide +kernel, canWrite_inst (i := 3) (q := 1) rfl (by decide +kernel), by decide +kernel, by decide +kernel⟩

/-- Two completions off the ladder, the earlier written first, and one that waits on its fence read. -/
def compl1 : Compl := ⟨.inst 3 1, 9, .inputInvalid, 0x7000, [4, 5], 6, 0, 4, false, 95⟩
def twoDue : State := { hosted with waiting := [⟨compl1, 3, 3, 100⟩, ⟨{ compl1 with tag := 10 }, 2, 0, 99⟩] }
def fenced : State := { hosted with insts := [(3, { inst1 with queues := [(1, { qp1 with fence := some compl1 })] })] }
theorem test_non_ladder : let c : Compl := { compl1 with tag := 10, breath := 100 }
    (isRunning twoDue = true ∧ twoDue.brt.exhale = false ∧ ladderDue twoDue = false ∧ haltHolds twoDue = false ∧
      firstWaiting twoDue.brt.count twoDue.waiting = some ⟨{ compl1 with tag := 10 }, 2, 0, 99⟩) ∧ CanWrite twoDue qp1 c ∧ Unfenced twoDue qp1 c :=
  ⟨by decide +kernel, canWrite_inst (i := 3) (q := 1) rfl (by decide +kernel), by decide +kernel, by decide +kernel⟩
theorem test_fence_read : CanWrite fenced { qp1 with fence := some compl1 } compl1 ∧ isRunning fenced = true ∧ qp1.held = [] :=
  ⟨canWrite_inst (i := 3) (q := 1) rfl (by decide +kernel), by decide +kernel, by decide +kernel⟩

/-! ### Modes, boot, halts -/

def withDev (s : State) (f : Dev → Dev) : State := { s with dev := f s.dev }
theorem test_halted_ignores : isRunning (withDev up fun d => { d with mode := .halted }) = false ∧ outlives .inhale = false := by decide +kernel
theorem test_mode_changes : ∀ s ∈ [withDev hosted fun d => { d with modeReq := some (.recover, 100) }, withDev hosted fun d => { d with tuneReq := some 100 },
      withDev hosted fun d => { d with mode := .shadow, tuneReq := some 100 }, withDev hosted fun d => { d with quiesce := some 99 }],
    isRunning s = true ∧ s.dev.halting = false ∧ s.brt.cycle = 0 ∧ s.brt.exhale = false ∧ poolsFail s = false ∧ quiesced s = true := by decide +kernel
/-- A chart in force whose one pool needs a reed more than its cluster has. -/
def poor : State := { hosted with charts := { hosted.charts with inForce := some { chart1 with pools := [⟨0, 0, 17, 1, [0x8001]⟩] } } }
theorem test_pool_below : poolsFail poor = true ∧ isRunning poor = true := by decide +kernel
/-- A PUT that has run on under the quiesce. -/
def overdue : State := { withDev hosted fun d => { d with quiesce := some 1 } with
  brt := { hosted.brt with count := 2 ^ 20 }
  bore := { hosted.bore with flows := [(2, Machine.Flow.init .put 9 3 (zeros 16) 77)] } }
theorem test_quiesce_extent : isRunning overdue = true ∧ overdue.dev.halting = false ∧
    (tblGet overdue.bore.flows 2).any (fun f => decide (f.kind = .put)) = true ∧ extentsOverdue overdue = true := by decide +kernel

def boots : BootInfo := ⟨true, 1, true, ⟨4, 1, 16, true, true, true⟩, [.reed 7, .pipe 3], true, true⟩
/-- The boot checks over, without a chart. -/
def booted : State := { State.reset with
  dev := { State.reset.dev with held := false, powerGood := true, bootHold := false }
  rng := { State.reset.rng with ready := true }
  mpr := { State.reset.mpr with trained := true }
  lcs := { State.reset.lcs with state := 2, resolved := true } }
theorem test_boot : boots.powerRise = true ∧ isRunning booted = true ∧ bootMayEnd booted = true ∧ bootChart booted = none := by decide +kernel

def halting1 : State := { atReed core1 with
  dev := { hosted.dev with halting := true, haltCause := 4, haltBreath := 99 }
  waiting := [⟨compl1, 3, 3, 102⟩]
  jobs := [(1, job1), (2, { held1 .ok with tag := 12 })] }
def halting2 : State := { hosted with
  dev := { hosted.dev with halting := true, haltFlushed := true, haltCause := 4, haltBreath := 98 }
  ports := listSet hosted.ports 2 { HostPort.init with haltArmed := some (5, 6) } }
theorem test_halt_messages : isRunning hosted = true ∧ hosted.ports.length = 8 ∧ (portAt hosted 1).formed = true ∧ hosted.dev.halting = false ∧
    hosted.dev.mode ≠ .boot := by decide +kernel
theorem test_halt_flush : isRunning halting1 = true ∧ halting1.dev.halting = true ∧ halting1.dev.haltFlushed = false ∧ halting1.brt.cycle = 0 ∧
    halting1.brt.exhale = false ∧ halting1.dev.haltBreath < halting1.brt.count := by decide +kernel
theorem test_halt_entry : isRunning halting2 = true ∧ halting2.dev.halting = true ∧ halting2.dev.haltFlushed = true ∧ halting2.brt.exhale = false ∧
    halting2.dev.haltBreath + 2 ≤ halting2.brt.count ∧ writesLeft halting2 = true := by decide +kernel

/-! ### The host's registers, functions and queues -/

def counting : State := { hosted with pxt := { hosted.pxt with ports := [(4, { FabPort.init with fecUncorr := 77, linkUp := true })] } }
theorem test_counter_reads : isLive counting = true ∧ (portAt counting 1).formed = true ∧ counting.dev.mode ≠ .halted ∧
    tblGet counting.pxt.ports 4 = some { FabPort.init with fecUncorr := 77, linkUp := true } ∧
    isLive (withDev counting fun d => { d with mode := .halted }) = true := by decide +kernel

def admOff (f : Adm → Adm) : State := { hosted with
  ports := listSet hosted.ports 1 { port1 with adm := f { port1.adm with qp := { port1.adm.qp with enable := false } } } }
def queueOff (q : Qp) (k : Nat) : Inst := { inst1 with queues := tblPut inst1.queues k q }
def queueOffS (q : Qp) (k : Nat) : State := { hosted with insts := [(3, queueOff q k)] }
def idleQp : Qp := { qp1 with enable := false, out := 0 }
theorem test_register_writes : isRunning hosted = true ∧ hosted.ports.length = 8 ∧ hosted.wchBox.length = 8 ∧ hosted.lcsBox.length = 8 ∧
    (portAt hosted 1).adm.qp.enable = true ∧ (portAt (admOff id) 1).adm.qp.enable = false ∧ (0x7FFFFFFF : BitVec 64).getLsbD 31 = false := by
  decide +kernel
theorem test_queue0_registers : let s := queueOffS idleQp 0
    (portAt s 1).vfEnable = true ∧ 2 ≤ (portAt s 1).totalVfs ∧ instOf s 1 2 = some (3, queueOff idleQp 0) ∧ tblGet s.insts 3 = some (queueOff idleQp 0) ∧
      tblGet (queueOff idleQp 0).queues 0 = some idleQp ∧ idleQp.enable = false ∧ qp1.enable = true := by decide +kernel

/-- A port with an armed halt message, a pending masked vector and a VF's own tables. -/
def functions : State := { hosted with
  ports := listSet hosted.ports 1 { port1 with
    haltVector := 4
    haltArmed := some (1, 2)
    msix := ⟨[(4, ⟨8, 9, true⟩), (6, ⟨7, 7, false⟩)], [4]⟩
    vfs := [(2, ⟨⟨[], [1]⟩, false⟩)] } }
theorem test_function_events : isRunning functions = true ∧ (portAt functions 1).formed = true ∧ (portAt functions 1).atsInv.length < 32 ∧
    (portAt functions 1).adm.qp.held = [] ∧ (portAt functions 1).adm.qp.asleep = [] ∧ (portAt functions 1).adm.qp.msgDue = false ∧
    (∀ v ∈ (portAt functions 1).msix.pending, (msixEntry (portAt functions 1).msix v).masked = true) ∧ (portAt functions 1).pfD3hot = false := by
  decide +kernel
theorem test_vf_reset : (portAt functions 1).vfEnable = true ∧ instOf functions 1 2 = some (3, inst1) ∧ tblGet functions.insts 3 = some inst1 ∧
    inst1.reset = none ∧ functions.brt.exhale = false ∧ functions.dev.halting = false ∧ inst1.port = 1 := by decide +kernel

theorem test_doorbells : HasQueue hosted 1 2 3 1 inst1 qp1 ∧ (0x3F : BitVec 16).toNat < sqSize inst1 1 qp1 ∧
    sqSize inst1 1 qp1 ≤ (0x40 : BitVec 16).toNat ∧ (3 : BitVec 16).toNat < cqSize inst1 1 qp1 := by
  unfold HasQueue; decide +kernel
theorem test_queue_enable : HasQueue (queueOffS idleQp 1) 1 2 3 1 (queueOff idleQp 1) idleQp ∧ HasQueue (queueOffS idleQp 0) 1 2 3 0 (queueOff idleQp 0) idleQp ∧
    (queueOff idleQp 0).q0SqBase.toNat % 4096 = 0 ∧ (queueOff idleQp 0).q0SqLog2 = 6 := by
  unfold HasQueue; decide +kernel
theorem test_admin_enable : let a := (portAt (admOff id) 1).adm
    let b := (portAt (admOff fun a => { a with sqLog2 := 13 }) 1).adm
    let c := (portAt (admOff fun a => { a with error := true, errCause := 4, qp := { a.qp with out := 0 } }) 1).adm
    (a.qp.enable = false ∧ a.error = false ∧ a.sqBase.toNat % 4096 = 0 ∧ a.cqBase.toNat % 4096 = 0 ∧ 6 ≤ a.sqLog2 ∧ a.sqLog2 ≤ 12) ∧
      (b.qp.enable = false ∧ 12 < b.sqLog2) ∧ c.error = true ∧ c.qp.enable = false ∧ c.qp.out = 0 := by decide +kernel
theorem test_admin_head : let a := (portAt hosted 1).adm
    let n (w : Nat) := a.qp.freed + (w + 64 - a.qp.freed % 64) % 64
    a.qp.cqLog2 = 6 ∧ n 2 ≤ a.qp.wr ∧ a.qp.wr < n 3 := by decide +kernel

/-! ### Fetches and reads -/

def turn0 : State := { hosted with insts := [(3, { inst1 with lastQueue := 1 })] }
theorem test_fetch_command : isRunning hosted = true ∧ hosted.ports.length = 8 ∧ fetchable hosted (.adm 1) = true ∧ (slot0 5 9 0 0 0).length = 64 ∧
    (∀ c ∈ ((portAt hosted 1).adm.q.cmds ++ [entryCmd (slot0 5 9 0 0 0) 0 hosted.brt.count]).head?, 1 ≤ c.opcode ∧ c.opcode ≤ 0xB) ∧
    MayFetch turn0 3 0 { inst1 with lastQueue := 1 } { qp1 with sqBase := 0x30000, cqBase := 0x40000, vector := 0, out := 1 } ∧
    (∀ c ∈ (inst1.ctl.cmds ++ [entryCmd (slot0 0x8A 9 0 0 0) inst1.gen turn0.brt.count]).head?, 0x81 ≤ c.opcode ∧ c.opcode ≤ 0x8A) := by
  unfold MayFetch; decide +kernel
/-- An entry of two slots with a gather element, and the states of its fetch. -/
def two : Bytes := slot0 0x101 9 2 1 100 ++ padTo 64 (leBytes 8 0x123400 ++ leBytes 4 100)
def afterTwo : State := { hosted with insts := tblMod hosted.insts 3 (fun _ => { charged hosted inst1 128 with
  queues := tblMod inst1.queues 1 (fun _ => headMoved qp1 2)
  lastQueue := 1 }) }
def afterOne : State := { hosted with insts := tblMod hosted.insts 3 (fun _ => { charged hosted inst1 64 with
  queues := tblMod inst1.queues 1 (fun _ => headMoved qp1 1)
  lastQueue := 1 }) }
theorem test_fetch_work : MayFetch hosted 3 1 inst1 qp1 ∧ hosted.plc.pageWait = none ∧ entriesLeft qp1 = 2 ∧
    byteAt (slot0 0x101 9 17 0 0) 4 = 17 ∧ byteAt (slot0 0x101 9 3 0 0) 4 = 3 ∧ byteAt two 4 = 2 ∧ two.length = 128 ∧
    bucketAllows hosted 3 128 = true ∧ tblGet hosted.jobs hosted.nextJob = none ∧ jobKindOf (le two 0 2) = some .routine ∧
    workDefect afterTwo 3 1 two = none ∧ workDefect afterOne 3 1 (slot0 0x105 9 1 0 0) = some .inputInvalid := by
  unfold MayFetch; decide +kernel

def gathering : Job := { job1 with stage := .reading, start := none, unit := .none, gather := [(0x1000, 8), (0x3000, 4)], input := [1] }
def gather1 : State := { hosted with jobs := [(1, gathering), (2, job1)] }
theorem test_gather : Gathering gather1 1 gathering inst1 ∧ (0x1000 : BitVec 64).toNat % 4096 + [1, 2, 3].length ≤ 4096 ∧
    bucketAllows gather1 gathering.inst 8 = true ∧ gathering.internal = none := by unfold Gathering; decide +kernel
def createCmd : Cmd := cmd 1 [2] 128
theorem test_read_admin : let s := admOf hosted createCmd (some [1, 2])
    s.ports.length = 8 ∧ s.dev.halting = false ∧ (portAt s 1).pfD3hot = false ∧ (portAt s 1).adm.q = ⟨[createCmd], some [1, 2]⟩ ∧
      cmdWantsData createCmd = true ∧ createCmd.started = false ∧ admRefusal s 1 createCmd = none ∧ 2 + (desc1.take 126).length ≤ createCmd.dataLen ∧
      (createCmd.dataAddr.toNat + 2) % 4096 + (desc1.take 126).length ≤ 4096 := by decide +kernel
def loadCmd : Cmd := { cmd 0x86 [2] 100 with gen := 4 }
theorem test_read_control : let s := ctlOf hosted loadCmd (some [1])
    s.dev.halting = false ∧ tblGet s.insts 3 = some { inst1 with ctl := ⟨[loadCmd], some [1]⟩ } ∧ fnAsleep s inst1.port.val inst1.vf = false ∧
      cmdWantsData loadCmd = true ∧ loadCmd.reserved = true ∧ cmdLenOk loadCmd.opcode loadCmd.dataLen = true ∧ bucketAllows s 3 99 = true := by
  decide +kernel
theorem test_read_entry : fetchable hosted (.adm 1) = true ∧ fetchable hosted (.inst 3 1) = true := by decide +kernel
def inError : State := { hosted with insts := [(3, { inst1 with state := .error })] }
theorem test_translation : Gathering gather1 1 gathering inst1 ∧ (0x1000 : BitVec 64).toNat / 4096 = 1 ∧
    (∀ e ∈ inError.jobs, e.2.stage ≠ .reading) ∧ (∀ e ∈ inError.insts, e.2.state = .error ∧ e.2.ctl.cmds = []) := by
  unfold Gathering; decide +kernel

/-! ### Admin commands -/

/-- Command `c` alone at the front of an admin queue, or of queue 0's commands. -/
theorem front_of {s : State} {p : Fin 8} {c : Cmd} {data : Option Bytes}
    (h : isRunning s = true ∧ s.ports.length = 8 ∧ (portAt s p.val).adm.q = ⟨[c], data⟩ ∧ c.started = false) : AdmFront s p c data :=
  ⟨h.1, h.2.1, ⟨[], h.2.2.1, by intro x hx; cases hx⟩, h.2.2.2⟩
theorem runs_of {s : State} {p : Fin 8} {op : Nat} {c : Cmd} (data : Option Bytes)
    (h : (isRunning s = true ∧ s.ports.length = 8 ∧ (portAt s p.val).adm.q = ⟨[c], data⟩ ∧ c.started = false) ∧ c.opcode = op ∧
      admRefusal s p c = none ∧ (cmdWantsData c = true → (data.getD []).length = c.dataLen)) : AdmRuns s p op c (data.getD []) :=
  ⟨h.2.1, h.2.2.1, data, front_of h.1, rfl, h.2.2.2⟩
theorem ctl_of {s : State} {i op : Nat} {c : Cmd} {x : Inst} (data : Option Bytes)
    (h : isRunning s = true ∧ tblGet s.insts i = some x ∧ x.ctl = ⟨[c], data⟩ ∧ c.opcode = op ∧ c.started = false) : CtlFront s i op c data x :=
  ⟨h.1, h.2.1, ⟨[], h.2.2.1, by intro y hy; cases hy⟩, h.2.2.2.1, h.2.2.2.2⟩
theorem ctl_runs {s : State} {i op : Nat} {c : Cmd} {x : Inst} (data : Option Bytes) (hx : tblGet s.insts i = some x) (hc : x.ctl = ⟨[c], data⟩)
    (h : isRunning s = true ∧ c.opcode = op ∧ c.started = false ∧ c.tag ≠ 0xFFFF ∧ c.reserved = true ∧
      (cmdReads op = true → cmdLenOk op c.dataLen = true) ∧ (cmdWantsData c = true → (data.getD []).length = c.dataLen)) :
    CtlRuns s i op c (data.getD []) x :=
  ⟨h.2.2.2.1, h.2.2.2.2.1, h.2.2.2.2.2.1, data, ctl_of data ⟨h.1, hx, hc, h.2.1, h.2.2.1⟩, rfl, h.2.2.2.2.2.2⟩

def badTag : Cmd := { createCmd with tag := 0xFFFF }
theorem test_admin_refused : AdmFront (admOf charted badTag none) 1 badTag none ∧ admRefusal (admOf charted badTag none) 1 badTag = some .inputInvalid :=
  ⟨front_of (by decide +kernel), by decide +kernel⟩
def create1 : Cmd := cmd 1 [1] 128
theorem test_create_instance : let s := admOf charted create1 (some desc1)
    let x := instOfDesc 1 1 desc1
    AdmRuns s 1 1 create1 desc1 ∧ zeroAt create1.params 2 38 = true ∧ 1 ≤ (portAt s 1).totalVfs ∧ instOf s 1 1 = none ∧ instDescOk desc1 = true ∧
      instFits s x = true ∧ instFits (admOf hosted create1 (some desc1)) x = false ∧ tblGet s.insts 0 = none ∧ (instOf s 1 2).isSome = true :=
  ⟨runs_of (some desc1) (by decide +kernel), by decide +kernel⟩
def rate (n : Nat) : Cmd := cmd 4 (leBytes 2 3 ++ leBytes 2 n) 0
def crowded : State := { charted with insts := [(3, inst1), (4, { inst1 with vf := 3, dmaShare := 4000 })] }
theorem test_set_rate : AdmRuns (admOf charted (rate 128) none) 1 4 (rate 128) [] ∧ AdmRuns (admOf charted (rate 0) none) 1 4 (rate 0) [] ∧
    AdmRuns (admOf crowded (rate 128) none) 1 4 (rate 128) [] ∧ le (rate 128).params 0 2 = 3 ∧ le (rate 128).params 2 2 = 128 ∧
    zeroAt (rate 128).params 4 36 = true ∧ portShares charted 1 (some 3) + 128 ≤ 4096 ∧ 4096 < portShares crowded 1 (some 3) + 128 ∧ inst1.port = 1 :=
  ⟨runs_of none (by decide +kernel), runs_of none (by decide +kernel), runs_of none (by decide +kernel), by decide +kernel⟩
def reset3 : Cmd := cmd 3 (leBytes 2 3) 0
def destroy3 : Cmd := cmd 2 (leBytes 2 3) 0
def reset8 : Cmd := cmd 3 (leBytes 2 8) 0
theorem test_reset_destroy : AdmRuns (admOf charted reset3 none) 1 3 reset3 [] ∧ AdmRuns (admOf charted destroy3 none) 1 2 destroy3 [] ∧
    AdmRuns (admOf charted reset8 none) 1 3 reset8 [] ∧ zeroAt reset3.params 2 38 = true ∧ zeroAt destroy3.params 2 38 = true ∧
    tblGet charted.insts 3 = some inst1 ∧ tblGet charted.insts (le reset8.params 0 2) = none :=
  ⟨runs_of none (by decide +kernel), runs_of none (by decide +kernel), runs_of none (by decide +kernel), by decide +kernel⟩
def query1 (cls index n : Nat) : Cmd := cmd 5 ([BitVec.ofNat 8 cls, 0] ++ leBytes 2 index) n
theorem test_query : AdmRuns (admOf charted (query1 2 3 4000) none) 1 5 (query1 2 3 4000) [] ∧
    AdmRuns (admOf charted (query1 1 1 4) none) 1 5 (query1 1 1 4) [] ∧
    (instanceReport charted 3 inst1 (extentsUnacked charted 3)).length ≤ 4000 ∧ 4 < (portReport charted 1).length ∧
    zeroAt (query1 2 3 4000).params 1 1 = true ∧ zeroAt (query1 2 3 4000).params 4 36 = true :=
  ⟨runs_of none (by decide +kernel), runs_of none (by decide +kernel), by decide +kernel⟩

def resetting (d : Bool) (ws : List ResetWait) : Inst := { inst1 with state := .resetting, drain := d, reset := some ⟨97, false, ws⟩ }
def resettingS (d : Bool) (ws : List ResetWait) : State := { charted with insts := [(3, resetting d ws)] }
def reset3b : Cmd := { reset3 with started := true }
theorem test_reset_done : let s := resettingS true []
    isRunning s = true ∧ s.brt.exhale = false ∧ tblGet s.insts 3 = some (resetting true []) ∧ 97 + 2 ≤ s.brt.count ∧
      instanceQuiet s 3 (resetting true []) = true ∧ s.dev.halting = false ∧
      (portAt (admOf (resettingS false [⟨1, 5, false⟩]) reset3b none) 1).adm.q = ⟨[reset3b], none⟩ ∧ reset3b.tag ≠ 0xFFFF ∧ le reset3b.params 0 2 = 3 := by
  decide +kernel

/-! ### Changes and approvals -/

def officerCmd : Cmd := cmd 9 [5] 2656
def deltaCmd (n : Nat) : Cmd := cmd 6 [] n
def domainCmd : Cmd := cmd 8 [] 100
def badDelta : Cmd := cmd 6 [1] 64
theorem test_stage : AdmRuns (admOf custody officerCmd (some officer1)) 1 9 officerCmd officer1 ∧ enrolOk custody 5 officer1 = none ∧
    MayStage custody (.port 1) ∧ AdmRuns (admOf custody domainCmd (some (zeros 100))) 1 8 domainCmd (zeros 100) ∧ packageOf (zeros 100) = none ∧
    AdmRuns (admOf custody (deltaCmd 64) (some (zeros 64))) 1 6 (deltaCmd 64) (zeros 64) ∧ (deltaCheck custody (zeros 64)).isOk = false ∧
    AdmRuns (admOf custody badDelta (some (zeros 64))) 1 6 badDelta (zeros 64) ∧ zeroAt badDelta.params 0 40 = false :=
  ⟨runs_of (some officer1) (by decide +kernel), by decide +kernel, (by unfold MayStage; decide +kernel), runs_of (some (zeros 100)) (by decide +kernel),
    by decide +kernel, runs_of (some (zeros 64)) (by decide +kernel), by decide +kernel, runs_of (some (zeros 64)) (by decide +kernel), by decide +kernel⟩
def change1 (k : ChangeKind) (car : Carrier) (o : Option Nat) (d ps : Bytes) : Change :=
  ⟨k, car, zeros 32, zeros 32, 5000, o, if o.isSome then [9] else [], d, ps⟩
def expiring : State := { custody with
  brt := { custody.brt with count := 6000 }
  changes := ⟨[(1, change1 .officer (.wch 4) none [] [2])], 3⟩
  wchBox := listSet custody.wchBox 4 { Mailbox.init with change := 1 } }
theorem test_expire : isRunning expiring = true ∧ tblGet expiring.changes.live 1 = some (change1 .officer (.wch 4) none [] [2]) ∧ 5000 ≤ expiring.brt.count ∧
    (boxAt expiring (.wch 4)).change = 1 ∧ expiring.wchBox.length = 8 ∧ expiring.lcsBox.length = 8 := by decide +kernel

def sig1 : Bytes := List.replicate 4627 1
def approveCmd (id o : Nat) : Cmd := cmd 7 (leBytes 4 id ++ leBytes 1 o) 4627
def approving (x : Change) (id o : Nat) : State := admOf { custody with changes := ⟨[(8, x), (9, x)], 10⟩ } (approveCmd id o) (some sig1)
/-- A signature that verifies exists where the officers' public-key functions, which the model leaves to the standards, say so. -/
theorem approves_of {x : Change} {o : Nat} (hv : approvalVerifies (approving x 8 o) 8 x o sig1 = true)
    (hd : (portAt (approving x 8 o) 1).adm.q = ⟨[approveCmd 8 o], some sig1⟩)
    (h : (isRunning (approving x 8 o) = true ∧ (approving x 8 o).ports.length = 8 ∧ (approveCmd 8 o).opcode = 7 ∧
      admRefusal (approving x 8 o) 1 (approveCmd 8 o) = none) ∧
      (8 = le (approveCmd 8 o).params 0 4 ∧ o = byteAt (approveCmd 8 o).params 4 ∧ zeroAt (approveCmd 8 o).params 5 35 = true) ∧
      tblGet (approving x 8 o).changes.live 8 = some x ∧ (approving x 8 o).brt.count < x.expiry ∧ o < 16) :
    Approves (approving x 8 o) 1 (approveCmd 8 o) 8 o sig1 x :=
  ⟨runs_of (some sig1) ⟨⟨h.1.1, h.1.2.1, hd, rfl⟩, h.1.2.2.1, h.1.2.2.2, fun _ => List.length_replicate⟩, h.2.1, h.2.2.1, h.2.2.2.1, h.2.2.2.2, hv⟩
def tune (o : Option Nat) : Change := change1 .tuneEntry .mctp o [] []
theorem test_approve_first (hv : approvalVerifies (approving (tune none) 8 2) 8 (tune none) 2 sig1 = true) :
    Approves (approving (tune none) 8 2) 1 (approveCmd 8 2) 8 2 sig1 (tune none) ∧ bootstraps (approving (tune none) 8 2) (tune none) 2 = false :=
  ⟨approves_of hv rfl (by decide +kernel), by decide +kernel⟩
theorem test_approve_second (hv : approvalVerifies (approving (tune (some 2)) 8 1) 8 (tune (some 2)) 1 sig1 = true) :
    Approves (approving (tune (some 2)) 8 1) 1 (approveCmd 8 1) 8 1 sig1 (tune (some 2)) ∧ tuneFrom (approving (tune (some 2)) 8 1) = true :=
  ⟨approves_of hv rfl (by decide +kernel), by decide +kernel⟩
theorem test_approve_refused : approvalVerifies (approving (tune none) 8 7) 8 (tune none) 7 sig1 = false ∧
    AdmRuns (approving (tune none) 11 2) 1 7 (approveCmd 11 2) sig1 ∧ tblGet (approving (tune none) 11 2).changes.live (le (approveCmd 11 2).params 0 4) = none :=
  ⟨by decide +kernel, runs_of (some sig1) ⟨⟨by decide +kernel, by decide +kernel, rfl, rfl⟩, by decide +kernel, by decide +kernel,
    fun _ => List.length_replicate⟩, by decide +kernel⟩
def enrol (o : Option Nat) : Change := change1 .officer (.port 2) o officer1 [7]
theorem test_approve_officer (hv : approvalVerifies (approving (enrol (some 2)) 8 1) 8 (enrol (some 2)) 1 sig1 = true) :
    Approves (approving (enrol (some 2)) 8 1) 1 (approveCmd 8 1) 8 1 sig1 (enrol (some 2)) ∧ enrolOk (approving (enrol (some 2)) 8 1) 7 officer1 = none ∧
      (approving (enrol (some 2)) 8 1).twn.role = 0 :=
  ⟨approves_of hv rfl (by decide +kernel), by decide +kernel⟩

/-! ### Firmware and monitors -/

def updating (w : Nat) (car : Option Carrier) : State := { hosted with
  ports := listMod hosted.ports 1 (fun h => { h with global := true })
  mgc := { hosted.mgc with fwSlots := [zeros 50, zeros 60], fwPending := some 1, fwSession := car.map (fun c => ⟨c, w, 90⟩) } }
def chunk (off fin : Nat) : Cmd := cmd 0xA (leBytes 4 off ++ [BitVec.ofNat 8 fin]) 20
def chunkData : Bytes := List.replicate 20 7
theorem test_fw_update : AdmRuns (admOf (updating 0 none) (chunk 0 0) (some chunkData)) 1 0xA (chunk 0 0) chunkData ∧
    AdmRuns (admOf (updating 4 (some (.port 1))) (chunk 4 1) (some chunkData)) 1 0xA (chunk 4 1) chunkData ∧
    AdmRuns (admOf (updating 4 (some (.port 2))) (chunk 5 0) (some chunkData)) 1 0xA (chunk 5 0) chunkData ∧
    zeroAt (chunk 4 1).params 5 35 = true ∧ byteAt (chunk 4 1).params 4 = 1 ∧ runningSlot (updating 0 none) = 0 ∧
    fwCheck (updating 4 (some (.port 1))) ((zeros 60).take 4 ++ chunkData) = some .inputInvalid :=
  ⟨runs_of (some chunkData) (by decide +kernel), runs_of (some chunkData) (by decide +kernel), runs_of (some chunkData) (by decide +kernel), by decide +kernel⟩
theorem test_pldm : isLive (updating 4 (some .mctp)) = true ∧ lcNow (updating 4 (some .mctp)) ≠ 5 ∧
    (updating 4 (some .mctp)).mgc.fwSession = some ⟨.mctp, 4, 90⟩ ∧ le (padTo 40 (leBytes 4 4)) 0 4 = 4 ∧
    isLive { updating 4 (some .mctp) with brt := { hosted.brt with count := 2 ^ 28 + 200 } } = true := by decide +kernel
def plainPort : State := { hosted with ports := listMod hosted.ports 1 (fun h => { h with global := false }) }
def monitor (ps : List Nat) (n : Nat) : Cmd := cmd 0xB (ps.map (BitVec.ofNat 8)) n
theorem test_monitor : AdmRuns (admOf (updating 0 none) (monitor [5, 0, 2, 3, 12, 2, 0] 0) none) 1 0xB (monitor [5, 0, 2, 3, 12, 2, 0] 0) [] ∧
    AdmRuns (admOf (updating 0 none) (monitor [63, 2] 80) none) 1 0xB (monitor [63, 2] 80) [] ∧
    AdmRuns (admOf (updating 0 none) (monitor [5, 3] 0) none) 1 0xB (monitor [5, 3] 0) [] ∧
    AdmRuns (admOf plainPort (monitor [5, 0, 2, 3, 12, 2, 0] 0) none) 1 0xB (monitor [5, 0, 2, 3, 12, 2, 0] 0) [] ∧
    hosted.mgc.channels.length = 64 ∧ monCfgOk ⟨2, 3, 12, 2, 0xFFFFFFFF⟩ = true ∧ (portAt (updating 0 none) 1).global = true ∧ (portAt plainPort 1).global = false :=
  ⟨runs_of none (by decide +kernel), runs_of none (by decide +kernel), runs_of none (by decide +kernel), runs_of none (by decide +kernel), by decide +kernel⟩
def window (m : Nat) : State := { hosted with mgc := { hosted.mgc with channels := listMod hosted.mgc.channels 5 (fun x =>
  { x with cfg := ⟨1, 0, 3, 0, 50⟩, start := 90, active := { x.active with max := m } }) } }
theorem test_monitor_window : let x := (window 60).mgc.channels.getD 5 MonChan.init
    isRunning (window 60) = true ∧ (window 60).brt.cycle = 0 ∧ x.cfg.source ≠ 0 ∧ x.start + 2 ^ x.cfg.windowLog2 ≤ 100 ∧ x.cfg.limit < x.active.max := by
  decide +kernel

/-! ### Control commands -/

def gen4 (c : Cmd) : Cmd := { c with gen := 4 }
def withCtl (c : Cmd) (d : Option Bytes) : Inst := { inst1 with ctl := ⟨[gen4 c], d⟩ }
def createQ (q log2 : Nat) : Cmd := cmd 0x81 (leBytes 2 q ++ [BitVec.ofNat 8 log2, 7, 3, 0, 0, 0] ++ leBytes 8 0x4000 ++ leBytes 8 0x8000) 0
def destroyQ (q : Nat) : Cmd := cmd 0x82 (leBytes 2 q) 0
def queryI (n : Nat) : Cmd := cmd 0x8A [] n
def noQueue1 : Inst := { inst1 with queues := tblPut inst1.queues 1 idleQp, ctl := ⟨[gen4 (destroyQ 1)], none⟩ }
theorem test_control_refused : let c := { gen4 (createQ 2 7) with reserved := false }
    CtlFront (ctlOf hosted c none) 3 0x81 c none { inst1 with ctl := ⟨[c], none⟩ } := ctl_of none (by decide +kernel)
theorem test_create_queue : CtlRuns (ctlOf hosted (createQ 2 6) none) 3 0x81 (gen4 (createQ 2 6)) [] (withCtl (createQ 2 6) none) ∧
    CtlRuns (ctlOf hosted (createQ 4 16) none) 3 0x81 (gen4 (createQ 4 16)) [] (withCtl (createQ 4 16) none) ∧
    CtlRuns (ctlOf hosted (createQ 2 5) none) 3 0x81 (gen4 (createQ 2 5)) [] (withCtl (createQ 2 5) none) ∧ tblGet inst1.queues 2 = none ∧
    inst1.maxQueues = 4 :=
  ⟨ctl_runs none rfl rfl (by decide +kernel), ctl_runs none rfl rfl (by decide +kernel), ctl_runs none rfl rfl (by decide +kernel), by decide +kernel⟩
theorem test_destroy_query_queue : CtlRuns (ctlOf (queueOffS idleQp 1) (destroyQ 1) none) 3 0x82 (gen4 (destroyQ 1)) [] noQueue1 ∧
    CtlRuns (ctlOf hosted (destroyQ 1) none) 3 0x82 (gen4 (destroyQ 1)) [] (withCtl (destroyQ 1) none) ∧
    CtlRuns (ctlOf hosted (queryI 400) none) 3 0x8A (gen4 (queryI 400)) [] (withCtl (queryI 400) none) ∧
    CtlRuns (ctlOf hosted (queryI 40) none) 3 0x8A (gen4 (queryI 40)) [] (withCtl (queryI 40) none) ∧ idleQp.enable = false ∧ idleQp.out = 0 :=
  ⟨ctl_runs none rfl rfl (by decide +kernel), ctl_runs none rfl rfl (by decide +kernel), ctl_runs none rfl rfl (by decide +kernel), ctl_runs none rfl rfl (by decide +kernel),
    by decide +kernel⟩

/-- The tag is that of R329: the one evaluation of the digest. Every test below rests on it. -/
theorem test_slot_tag : slotTag custody key2 = key2.tag := by decide +kernel
/-- Slot 2 answers wherever instance 3 has a use for it. -/
theorem slot_ok {s : State} {i h : Nat} {job : Option Nat} (hn : slotNamed s i h job = .ok key2) (hm : s.wch.slotMac = custody.wch.slotMac) :
    checkSlotAs s i h job = .ok key2 := by
  have e : slotTag s key2 = key2.tag := by rw [← test_slot_tag]; unfold slotTag; rw [hm]
  have b : slotBad s key2 = false := by unfold slotBad; rw [e]; rfl
  rw [checkSlotAs, hn]
  simp [Except.bind, slotSound, b]

/-- A lookaside stream on the AES key of slot 2. -/
def streamDesc : Bytes := padTo 64 ([3, 0, 0, 0] ++ leBytes 2 2)
def createS : Cmd := cmd 0x83 [3] 64
def creating : State := ctlOf keyed createS (some streamDesc)
def stream1 : Machine.Stream := streamOfDesc creating 3 .lookaside streamDesc
def streaming : State := { keyed with bore := { keyed.bore with streams := [(9, stream1)] } }
def destroyS : Cmd := cmd 0x84 (leBytes 4 9) 0
def rekeyS : Cmd := cmd 0x85 (leBytes 4 9 ++ leBytes 2 2) 0
theorem streamKey_ok {s : State} {i h : Nat} {c : StreamClass} {x : Slot} (hx : checkSlot s i h = .ok x) (hk : streamKeyOk c x.alg = true)
    (hu : (c = .lookaside || bitOf x.usage 10) = true) : streamKeySlot s i h c = .ok () := by
  unfold streamKeySlot streamSlot
  simp [hx, hk, hu]
theorem streamSlots_ok {s : State} {i : Nat} {c : StreamClass} {d : Bytes} (h : streamKeySlot s i (le d 4 2) c = .ok ()) (hc : c ≠ .preserve) :
    streamSlots s i c d = .ok () := by unfold streamSlots; simp [h, hc]
theorem test_create_stream : creating.twn.role = 0 ∧ CtlRuns creating 3 0x83 (gen4 createS) streamDesc (withCtl createS (some streamDesc)) ∧
    (streamClass (byteAt streamDesc 0) = some .lookaside ∧ byteAt createS.params 0 = byteAt streamDesc 0 ∧ zeroAt createS.params 1 39 = true ∧
      streamFieldsOk .lookaside streamDesc = true ∧ transportOk creating .lookaside false streamDesc = true ∧ (streamsOf creating 3).length < 4) ∧
    streamSlots creating 3 .lookaside streamDesc = .ok () :=
  ⟨rfl, ctl_runs (some streamDesc) rfl rfl ⟨rfl, rfl, rfl, by decide, rfl, fun _ => rfl, fun _ => by decide⟩, by decide +kernel,
    streamSlots_ok (streamKey_ok (x := key2) (slot_ok rfl rfl) (by decide +kernel) (by decide +kernel)) (by decide)⟩
theorem test_destroy_stream : CtlRuns (ctlOf streaming destroyS none) 3 0x84 (gen4 destroyS) [] (withCtl destroyS none) ∧
    CtlRuns (ctlOf keyed destroyS none) 3 0x84 (gen4 destroyS) [] (withCtl destroyS none) ∧ zeroAt destroyS.params 4 36 = true ∧
    tblGet streaming.bore.streams (le destroyS.params 0 4) = some stream1 ∧ stream1.inst = 3 ∧ streaming.bore.flows = [] ∧ streaming.jobs = [] ∧
    tblGet keyed.bore.streams (le destroyS.params 0 4) = none :=
  ⟨ctl_runs none rfl rfl (by decide +kernel), ctl_runs none rfl rfl (by decide +kernel), by decide +kernel⟩
theorem test_rekey_stream : CtlRuns (ctlOf streaming rekeyS none) 3 0x85 (gen4 rekeyS) [] (withCtl rekeyS none) ∧ zeroAt rekeyS.params 6 34 = true ∧
    stream1.destroy = false ∧ oldEpochWork streaming 9 stream1 = false ∧
    streamKeySlot streaming 3 2 stream1.cls = .ok () :=
  ⟨ctl_runs none rfl rfl (by decide +kernel), by decide +kernel, by decide +kernel, by decide +kernel, streamKey_ok (x := key2) (slot_ok rfl rfl) (by decide +kernel) (by decide +kernel)⟩

def keyOf (n : Nat) : Bytes := List.replicate n 7
/-- A blob of an AES key of 32 bytes under generation 1, its bytes read as one number: for instance 3, and for instance 5. -/
def blob3 : Bytes := beBytes 168
  0x424c4f4201010320050c01000300200001000000000000004d000000000000005627a3a6b3ae93118b4b86873384028c00000000000000000000000000000000fefe07a96e2caf15771e9f210b4c8a1bcedac76e76ee3bbdc921cd9d5dbe523eb5f8390d78008b9eea7d875f0d8eb9be936c0780df9636bdf5f015fe9d857d7bcce9cfef73b8d08faa9bd3c6f66503fb6f1f12d0d64de4b86ea3e0d2271596bd4eed505f1ce956a9
def blob5 : Bytes := beBytes 168
  0x424c4f4201010320050c01000500200001000000000000004d000000000000005627a3a6b3ae93118b4b86873384028c00000000000000000000000000000000360a233674264692b3b9aa0dfd81ffe6638101da59de0144ee70a694a2242fc63393098be866a655e89bf75dde47c377e1d77926a04999f09a09c7b8aff03ba91e30ad2ce037e1c22680125ef83563f68854fc780c53ba742cb3c6c22ac75ff0cfdad671c9226a71
def load3 : Cmd := cmd 0x86 [] 168
/-- They open under generation 1 (R332), where the unwrapping, which the kernel cannot run to its end, is given. -/
theorem blob_ok {s : State} {b gk key : Bytes} (hf : blobFormOk b = true) (hd : domainUsable s = true) (hi : (blobHdrOf b).domainId = s.dom.id)
    (hg : genKey s (blobHdrOf b).gen = some gk) (hu : kwpUnwrap gk (b.drop 64) = some (b.take 64 ++ key)) (hl : 64 ≤ b.length)
    (hk : key.length = (blobHdrOf b).keyLen) : blobCheck s b = .ok (blobHdrOf b, key) := by
  have e : blobOpen gk b = some key := by
    unfold blobOpen
    simp [hu, hl, hk]
  unfold blobCheck
  simp [hf, hd, hi, hg, e]
theorem load_ok {s : State} {b key : Bytes} {h : BlobHdr} {i n : Nat} (hb : blobCheck s b = .ok (h, key)) (hm : materialOk h.alg key = true)
    (ho : h.owner = i) (hc : custodianOk s h = true) (hn : freeHandle s i = some n) (hl : key.length ≤ 64) : loadCheck s i b = .ok (h, key, n) := by
  unfold loadCheck
  simp [hb, hm, ho, hc, hn, Nat.not_lt.2 hl]
theorem blob3_ok (h : kwpUnwrap gen1 (blob3.drop 64) = some (blob3.take 64 ++ keyOf 32)) : blobCheck keyed blob3 = .ok (blobHdrOf blob3, keyOf 32) :=
  blob_ok (by decide +kernel) (by decide +kernel) (by decide +kernel) (by decide +kernel) h (by decide +kernel) (by decide +kernel)
theorem test_load_key (h : kwpUnwrap gen1 (blob3.drop 64) = some (blob3.take 64 ++ keyOf 32)) :
    CtlRuns (ctlOf keyed load3 (some blob3)) 3 0x86 (gen4 load3) blob3 (withCtl load3 (some blob3)) ∧
      loadCheck keyed 3 blob3 = .ok (blobHdrOf blob3, keyOf 32, 0) :=
  ⟨ctl_runs (some blob3) rfl rfl ⟨rfl, rfl, rfl, by decide, rfl, fun _ => by decide +kernel, fun _ => by decide +kernel⟩,
    load_ok (blob3_ok h) (by decide +kernel) (by decide +kernel) (by decide +kernel) (by decide +kernel) (by decide +kernel)⟩
theorem test_load_key_refused (h : kwpUnwrap gen1 (blob5.drop 64) = some (blob5.take 64 ++ keyOf 32)) :
    blobCheck keyed blob5 = .ok (blobHdrOf blob5, keyOf 32) ∧ materialOk (blobHdrOf blob5).alg (keyOf 32) = true ∧ (blobHdrOf blob5).owner = 5 ∧
      (blobCheck keyed (zeros 168)).isOk = false :=
  ⟨blob_ok (by decide +kernel) (by decide +kernel) (by decide +kernel) (by decide +kernel) h (by decide +kernel) (by decide +kernel), by decide +kernel⟩
def unload (h : Nat) : Cmd := cmd 0x87 (leBytes 2 h) 0
theorem test_unload_key : CtlRuns (ctlOf keyed (unload 2) none) 3 0x87 (gen4 (unload 2)) [] (withCtl (unload 2) none) ∧
    CtlRuns (ctlOf keyed (unload 8) none) 3 0x87 (gen4 (unload 8)) [] (withCtl (unload 8) none) ∧ slotAt keyed 3 2 = some key2 ∧
    key2.reserved = false ∧ key2.freeing = none ∧ slotInStream keyed 3 2 = false ∧ slotInStream streaming 3 2 = true ∧ inst1.maxSlots = 8 :=
  ⟨ctl_runs none rfl rfl (by decide +kernel), ctl_runs none rfl rfl (by decide +kernel), rfl, by decide +kernel⟩
def unloading : Cmd := { gen4 (unload 2) with started := true }
def freed : State := { keyed with
  wch := { keyed.wch with slots := [(3 * 16384 + 2, { key2 with freeing := some 5 })] }
  insts := [(3, { inst1 with ctl := ⟨[unloading], none⟩ })] }
theorem test_unload_free : slotAt freed 3 2 = some { key2 with freeing := some 5 } ∧ isRunning freed = true ∧
    tblGet freed.insts 3 = some { inst1 with ctl := ⟨[unloading], none⟩ } ∧ freed.jobs = [] ∧ unloading.opcode = 0x87 ∧ unloading.tag ≠ 0xFFFF ∧
    unloading.started = true ∧ le unloading.params 0 2 = 2 ∧ freed.twn.role = 0 := ⟨rfl, by decide +kernel⟩
def ctx1 : CipherCtx := ⟨0x2043, 1, 2, none, zeros 16, zeros 16, zeros 12, 5, 9, 16⟩
def contexts : State := { keyed with bore := { keyed.bore with contexts := [(3 * 4096 + 1, ctx1)], exportSerial := 6 } }
def exportC (how : Nat) : Cmd := cmd 0x88 (leBytes 2 1 ++ [BitVec.ofNat 8 how]) 4096
theorem export_ok {s : State} {i how room : Nat} {x : Inst} {c : CipherCtx} {k : Slot} (hx : checkSlot s i c.slot = .ok k)
    (hr : 232 ≤ room) (hw : how ≤ 1) (hf : bitOf x.flags 0 = false) (hp : bitOf k.policy 1 = false) (hs : s.wch.exportSerials.length < 1024)
    (h1 : replaysKeystream c = false ∧ canWriteBlob s = true) : exportCheck s i x how room c = .ok k := by
  unfold exportCheck
  simp [hx, Nat.not_lt.2 hr, Nat.not_lt.2 hw, hf, hp, h1, Nat.not_le.2 hs]
theorem test_export_context : CtlRuns (ctlOf contexts (exportC 0) none) 3 0x88 (gen4 (exportC 0)) [] (withCtl (exportC 0) none) ∧
    CtlRuns (ctlOf contexts (exportC 1) none) 3 0x88 (gen4 (exportC 1)) [] (withCtl (exportC 1) none) ∧
    (contextHeld contexts 3 1 = false ∧ tblGet contexts.bore.contexts (3 * 4096 + 1) = some ctx1 ∧ contexts.dom.gens.getLast? = some (1, gen1)) ∧
    ∀ how ≤ 1, exportCheck contexts 3 inst1 how 4096 ctx1 = .ok key2 :=
  ⟨ctl_runs none rfl rfl (by decide +kernel), ctl_runs none rfl rfl (by decide +kernel), by decide +kernel, fun how hw =>
    export_ok (slot_ok rfl rfl) (by decide) hw (by decide +kernel) (by decide +kernel) (by decide +kernel) (by decide +kernel)⟩
/-- What EXPORT_CONTEXT wraps of it for the domain, its bytes read as one number. -/
def exported : Bytes := beBytes 232
  0x5743545801014320010000000000000006000000000000004d00000000000000595a4caa429d9999754d62e4e67b442800000000000000000000000000000000f7b143b5972b2059ce4c7cecf03e0cc0b5fc917964b782487f662cf6d00115278644b0cabfe41af8d0546777236745a50cc51f56d89344cd0cd782b3cd4a94003576abe3b739c3625a4ef6f770175845d7dc721f94861b66260ac8982cff42582b60c6d67a04b61bdfa6eeca719ec12aa6dde59afe28f4dff9c6938c4640ca62683cf0510a1cafdce1a10a60233fe0c794b22e30176cf464a1c990001f1608722e94fb7c090de243
def importC : Cmd := cmd 0x89 [] 232
theorem context_ok {s : State} {d g b : Bytes} (hf : contextFormOk d = true) (hw : byteAt d 5 = 1) (hd : domainUsable s = true) (hi : le d 24 8 = s.dom.id)
    (hg : s.dom.gens.map (·.2) = [g]) (hu : kwpUnwrap g (d.drop 64) = some (d.take 64 ++ b)) (hl : 64 ≤ d.length) (hb : b.length = 96) :
    contextOpen s d = .ok b := by
  unfold contextOpen
  simp [hf, hw, hd, hi, hg, unwrapFirst, hu, hl, hb]
theorem test_import_context (h : kwpUnwrap gen1 (exported.drop 64) = some (exported.take 64 ++ contextState ctx1)) :
    CtlRuns (ctlOf keyed importC (some exported)) 3 0x89 (gen4 importC) exported (withCtl importC (some exported)) ∧
      contextOpen keyed exported = .ok (contextState ctx1) ∧ slotByFpr keyed 3 (byteAt exported 6 % 16) (slice exported 32 16) = some 2 ∧
      checkSlot keyed 3 2 = .ok key2 ∧ (freeContext keyed 3 inst1).isSome = true ∧ (contextOpen keyed (exported.take 231)).isOk = false :=
  ⟨ctl_runs (some exported) rfl rfl ⟨rfl, rfl, rfl, by decide, rfl, fun _ => by decide, fun _ => by decide +kernel⟩,
    context_ok (by decide +kernel) (by decide +kernel) (by decide +kernel) (by decide +kernel) rfl h (by decide +kernel) (by decide +kernel),
    by decide +kernel, slot_ok rfl rfl, by decide +kernel, by decide +kernel⟩

/-! ### Jobs at their parse -/

/-- The first slot of a job's entry (R71). -/
def entryOf (flags alg slot len outLen ctx : Nat) (tail : Bytes) : Bytes := padTo 64 ([1, 0, 7, 0, 1, BitVec.ofNat 8 flags, 1, 0] ++ leBytes 2 alg ++
  leBytes 2 slot ++ leBytes 4 len ++ leBytes 8 0x77000 ++ leBytes 4 outLen ++ leBytes 2 ctx ++ [0, 0] ++ tail)
def readyJob (kind : JobKind) (e input : Bytes) : Job := { job1 with
  kind := kind
  stage := .ready
  entry := e
  input := input
  start := none
  rung := 0
  unit := .none
  rid := 0
  pages := 0
  budget := 0
  due := 0 }
def chart2 : Chart := { chart1 with
  pools := [⟨0, 0, 0, 1, [0x0121, 0x8001]⟩]
  routines := [routine1, ⟨0x0121, false, 4, 2, 0, 64, 0, [0, 0]⟩]
  ddr := ⟨[(0, 2 ^ 20)], 24, [⟨1, 0, 0, 2⟩]⟩ }
def serving : State := { keyed with
  charts := { keyed.charts with inForce := some chart2 }
  rng := { keyed.rng with ready := true, calls := List.replicate 16 0 } }
def jobs2 (j x : Job) : State := { serving with jobs := [(4, x), (6, j)] }
def other1 : Job := { job1 with tag := 9 }
theorem standing_of {s : State} {j : Job} (h : (tblGet s.insts j.inst).any (fun x => decide (x.state ≠ .resetting)) = true) : Standing s j := by
  unfold Standing
  cases hx : tblGet s.insts j.inst with
  | none => rw [hx] at h; cases h
  | some x => rw [hx] at h; exact ⟨x, rfl, of_decide_eq_true h⟩
theorem parses_of {s : State} {k : Nat} {kind : JobKind} {j : Job} (h : isRunning s = true ∧ s.dev.halting = false ∧ tblGet s.jobs k = some j ∧
    j.stage = .ready ∧ j.kind = kind ∧ (tblGet s.insts j.inst).any (fun x => decide (x.state ≠ .resetting)) = true) : Parses s k kind j :=
  ⟨h.1, h.2.1, h.2.2.1, h.2.2.2.1, h.2.2.2.2.1, standing_of h.2.2.2.2.2⟩
def keygen1 (outLen : Nat) : Job :=
  readyJob .pk (entryOf 0 0x0102 0xFFFF 0 outLen 0 ([1, 0, 0, 0] ++ leBytes 2 5 ++ leBytes 2 0x10 ++ [0, 0] ++ leBytes 2 0xFFFF)) []
theorem test_parse_pk : let s := jobs2 (keygen1 4000) other1
    Parses s 6 .pk (keygen1 4000) ∧ jOp (keygen1 4000) = 1 ∧ (pkParse s (durable s) 6 (keygen1 4000)).isOk = true ∧
      (routineSec s (pkRoutine (jAlg (keygen1 4000)) 1)).isSome = true ∧ poolFor s inst1 (pkRoutine (jAlg (keygen1 4000)) 1) = some 0 ∧
      jobPagesUsed s + 2 ≤ jobPagesTotal s ∧ jobPagesTotal s < jobPagesUsed (jobs2 (keygen1 4000) { other1 with pages := 7 }) + 2 ∧
      (pkParse (jobs2 (keygen1 40) other1) false 6 (keygen1 40)).isOk = false := ⟨parses_of (by decide +kernel), by decide +kernel⟩
def routineJ (n : Nat) : Job := readyJob .routine (entryOf 0 0x8001 2 n 4 0 []) (zeros n)
theorem test_parse_routine : let s := jobs2 (routineJ 64) other1
    Parses s 6 .routine (routineJ 64) ∧ Parses (jobs2 (routineJ 65) other1) 6 .routine (routineJ 65) ∧ routineSec s 0x8001 = some routine1 ∧
      checkSlotAs s 3 2 (some 6) = .ok key2 ∧ routine1.maxInput = 64 ∧ poolFor s inst1 0x8001 = some 0 ∧
      jobPagesUsed s + routine1.jobPages ≤ jobPagesTotal s :=
  ⟨parses_of (by decide +kernel), parses_of (by decide +kernel), rfl, slot_ok rfl rfl, by decide +kernel⟩
def randomJ (flags : Nat) : Job := readyJob .random (entryOf flags 0 0xFFFF 0 40 0 (leBytes 4 33 ++ leBytes 2 0xFFFF ++ leBytes 2 0 ++ [0, 3])) []
def waitingJ : Job := { randomJ 2 with stage := .pending, due := 80 }
theorem test_random : Parses (jobs2 (randomJ 0) other1) 6 .random (randomJ 0) ∧ Parses (jobs2 (randomJ 2) other1) 6 .random (randomJ 2) ∧
    rndBytesCheck (randomJ 0) = none ∧ rndMayDraw (jobs2 (randomJ 0) other1) 6 (randomJ 0) = true ∧
    rndMayDraw (jobs2 (randomJ 2) other1) 6 (randomJ 2) = false ∧ haltHolds (jobs2 waitingJ other1) = false ∧ waitingJ.due + 2 ^ rndWait waitingJ ≤ 100 :=
  ⟨parses_of (by decide +kernel), parses_of (by decide +kernel), by decide +kernel⟩
def randomKeyJ : Job := readyJob .random (entryOf 0 0x2003 0xFFFF 0 400 0 (leBytes 4 0 ++ leBytes 2 5 ++ leBytes 2 0xC05 ++ [0, 3])) []
theorem test_random_key : let s := jobs2 randomKeyJ other1
    Parses s 6 .random randomKeyJ ∧ jAlg randomKeyJ = 0x2003 ∧ rndKeyCheck s randomKeyJ = none ∧ rndKeyLen 0x2003 = some 32 ∧
      rndMayDraw s 6 randomKeyJ = true := ⟨parses_of (by decide +kernel), by decide +kernel⟩
def cancelJ (tag : Nat) : Job := readyJob .cancel (entryOf 0 0 0xFFFF 0 0 0 (leBytes 2 tag)) []
theorem test_cancel : Parses (jobs2 (cancelJ 9) other1) 6 .cancel (cancelJ 9) ∧
    cancelTarget (jobs2 (cancelJ 9) other1) 6 (cancelJ 9) = some (4, other1) ∧ other1.kind ≠ .random ∧ other1.stage ≠ .aborting ∧
    cancelTarget (jobs2 (cancelJ 9) { waitingJ with tag := 9 }) 6 (cancelJ 9) = some (4, { waitingJ with tag := 9 }) ∧ waitingJ.kind = .random ∧
    cancelTarget (jobs2 (cancelJ 8) other1) 6 (cancelJ 8) = none := ⟨parses_of (by decide +kernel), by decide +kernel⟩

def cipherJ (flags op segment alg tag iv len outLen ctx : Nat) : Job := readyJob .cipher (entryOf flags alg 2 len outLen ctx
  ([BitVec.ofNat 8 op, BitVec.ofNat 8 segment, BitVec.ofNat 8 tag, BitVec.ofNat 8 iv] ++ leBytes 4 0 ++ (List.range iv).map (BitVec.ofNat 8)))
  (List.replicate len 6)
def cbcCtx : CipherCtx := ⟨0x2023, 0, 2, none, zeros 16, zeros 16, zeros 16, 0, 0, 0⟩
def withCtx (j : Job) (c : CipherCtx) : State := { jobs2 j other1 with bore := { serving.bore with contexts := [(3 * 4096 + 1, c)] } }
theorem cipher_ok {s : State} {k h : Nat} {j : Job} {x : Slot} {b : Bool} (hf : (cipherFormOk j && contextNamed s j) = true)
    (hh : cipherHandle j = some h) (hc : contextCheck s j = none) (hx : checkSlotAs s j.inst h (some k) = .ok x)
    (hk : cipherKeyOk (jAlg j) (jOp j) x = true) (hl : (!cipherLenOk j || decide (jOutLen j < cipherOutLen j)) = b) :
    cipherCheck s k j = if b then .error (0, .inputInvalid) else .ok h := by
  rw [Bool.and_eq_true] at hf
  unfold cipherCheck
  rw [hl.symm]
  simp [hf, hh, hc, hx, hk]
theorem test_cipher_parse : let j := cipherJ 0 0 3 0x2043 16 12 40 100 1
    let b := cipherJ 0 0 3 0x2043 16 12 40 30 1
    Parses (jobs2 j other1) 6 .cipher j ∧ jOp j = 0 ∧ jDiscard j = false ∧ contextTurn (jobs2 j other1) 6 j = true ∧
      jFirst j = true ∧ cipherCheck (jobs2 j other1) 6 j = .ok 2 ∧ cipherCheck (jobs2 b other1) 6 b = .error (0, .inputInvalid) :=
  ⟨parses_of (by decide +kernel), by decide +kernel, by decide +kernel, by decide +kernel, by decide +kernel,
    cipher_ok (x := key2) (b := false) (by decide +kernel) (by decide +kernel) (by decide +kernel) (slot_ok (by rfl) (by rfl)) (by decide +kernel) (by decide +kernel),
    cipher_ok (x := key2) (b := true) (by decide +kernel) (h := 2) (by decide +kernel) (by decide +kernel) (slot_ok (by rfl) (by rfl)) (by decide +kernel) (by decide +kernel)⟩
theorem test_cipher_discard : let j := cipherJ 0 0 4 0x2043 0 0 0 0 1
    Parses (withCtx j cbcCtx) 6 .cipher j ∧ jDiscard j = true ∧ contextTurn (withCtx j cbcCtx) 6 j = true ∧ discardFormOk j = true ∧
      (tblGet (withCtx j cbcCtx).bore.contexts (ctxKey j)).isSome = true ∧ tblGet (jobs2 j other1).bore.contexts (ctxKey j) = none :=
  ⟨parses_of (by decide +kernel), by decide +kernel⟩
def slicing (j : Job) (done bytes : Nat) (e : Option Strip) : Job :=
  { j with stage := .running, holds := true, due := 90, slice := some ⟨10, bytes, e⟩, done := done }
theorem test_cipher_slice : let j := slicing (cipherJ 0 0 1 0x2023 0 16 32 48 1) 0 16 none
    let e := slicing (cipherJ 4 0 1 0x2023 0 16 32 48 1) 0 16 none
    let w := slicing (cipherJ 0 0 3 0x2073 0 0 32 48 1) 0 32 none
    isRunning (withCtx j cbcCtx) = true ∧ tblGet (withCtx j cbcCtx).jobs 6 = some j ∧ cipherStream j = none ∧
      tblGet (withCtx j cbcCtx).bore.contexts (ctxKey j) = some cbcCtx ∧ jEcho j = false ∧ jEcho e = true ∧ cipherWork j = 32 ∧ jLast j = false ∧
      singleOnly (jMode j) (jOp j) = false ∧ singleOnly (jMode w) (jOp w) = true ∧ cipherWork w ≤ 32 ∧ jLast w = true ∧
      checkSlotAs (withCtx j cbcCtx) 3 cbcCtx.slot (some 6) = .ok key2 :=
  ⟨by decide +kernel, by decide +kernel, by decide +kernel, by decide +kernel, by decide +kernel, by decide +kernel, by decide +kernel, by decide +kernel,
    by decide +kernel, by decide +kernel, by decide +kernel, by decide +kernel, slot_ok rfl rfl⟩
theorem test_cipher_standing : Standing (withCtx (cipherJ 0 0 1 0x2023 0 16 32 48 1) cbcCtx) (cipherJ 0 0 1 0x2023 0 16 32 48 1) :=
  standing_of (by decide +kernel)

/-! ### Charts, placement, reservations -/

def chartB : Chart := { chart1 with
  pools := [⟨0, 0, 0, 2, [0x8001, 0x8002]⟩, ⟨1, 0, 0, 4, [0x8001]⟩]
  routines := [routine1, { routine1 with rid := 0x8002, words := [1, 2, 3] }] }
def waitB (i : Nat) : ChartWait := { chart := chartB, inhale := i, types := [], approver := none, note := [], seq := none }
def deltaDue : State := { charted with charts := { charted.charts with deltaWait := some (waitB 100) } }
def fullDue : State := { withDev charted (fun d => { d with mode := .tune }) with charts := { charted.charts with fullWait := some (waitB 90) } }
theorem test_charts_due : isRunning deltaDue = true ∧ deltaDue.brt.cycle = 0 ∧ deltaDue.brt.exhale = false ∧ (waitB 100).inhale ≤ deltaDue.brt.count ∧
    isRunning fullDue = true ∧ fullDue.dev.mode = .tune ∧ (waitB 90).inhale ≤ fullDue.brt.count := by decide +kernel
def onB (n : Option Nat) (pl : List Placed) : State := setCluster { charted with charts := { charted.charts with inForce := some chartB } } 1
  { clusterAt charted 1 with entering := n, csErrors := [3], placed := pl }
theorem test_store_loads : isRunning (onB (some 99) []) = true ∧ (clusterAt (onB (some 99) []) 1).entering = some 99 ∧
    (poolOfCluster (onB (some 99) []) 1).any (fun e => (poolPlan (onB (some 99) []) e.1 e.2).isSome) = true ∧
    ((poolOfCluster (onB none [⟨0x8001, 0x400, 2⟩]) 1).any fun e => decide (0x8002 ∈ e.2.routines) &&
      ((planAdds (clusterAt (onB none [⟨0x8001, 0x400, 2⟩]) 1).placed (missing e.1 e.2 (clusterAt (onB none [⟨0x8001, 0x400, 2⟩]) 1).placed)).bind
        (fun l => l.find? (fun x => x.rid = 0x8002))).isSome) = true := by decide +kernel
def movedJ (st : Stage) : Job := { job1 with stage := st, moveAt := some 99 }
theorem test_displaced : ∀ st ∈ [Stage.running, .replayWait], let s := { atReed core1 with jobs := [(1, movedJ st)] }
    tblGet s.jobs 1 = some (movedJ st) ∧ s.brt.exhale = false ∧ ∀ r ∈ unitReeds (movedJ st).unit, (reedAt s r).defect = false := by decide +kernel
def struckPipe : State := modPipe (modPipe hosted 7 (fun p => { p with group := .sealG, mismatches := 2, struck := 99 })) 8 (fun p => { p with next := some .echoG })
theorem test_pipe_events : struckPipe.bore.pipes.length = 96 ∧ 2 ≤ (pipeAt struckPipe 7).mismatches ∧ (pipeAt struckPipe 7).struck < struckPipe.brt.count ∧
    UnitName.pipe 7 ∉ struckPipe.health.muted ∧ (pipeAt struckPipe 8).next = some .echoG := by decide +kernel

def tree1 : Stateful := ⟨[1], 0x501, 1, 10, 5, some 20, 0, [], [], none, false⟩
def transit1 : Machine.Stream := { streamOfDesc custody 3 .transit (zeros 64) with cls := .transit, receive := false, reserving := none, counter := 100, ceiling := 200 }
def lowOn : State := { custody with
  bore := { custody.bore with
    journal := { custody.bore.journal with present := true }
    streams := [(9, transit1)]
    serials := { custody.bore.serials with next := 5, ceiling := 100 } }
  wch := { custody.wch with stateful := [tree1] } }
def paired (s : State) : State := { s with twn := { s.twn with role := 1, linkKey := some (zeros 32), lastRecord := 95 } }
theorem test_reserve : (lowOn.dom.member.isSome = true ∧ lowOn.bore.serials.blocked = false ∧ lowOn.bore.serials.reserving = none ∧
      lowOn.bore.serials.ceiling - lowOn.bore.serials.next ≤ 2 ^ 18) ∧
    (tblGet lowOn.bore.streams 9 = some transit1 ∧ transit1.ceiling - transit1.counter ≤ 2 ^ 14 ∧ transit1.ceiling < 2 ^ 36) ∧
    (lowOn.wch.stateful[0]? = some tree1 ∧ tree1.ceiling = some 20 ∧ tree1.reserving = none ∧ 20 < totalLeaves tree1) ∧
    (lowOn.bore.journal.present = true ∧ lowOn.bore.journal.write = none ∧ lowOn.bore.journal.queue = []) ∧
    ((paired lowOn).twn.role = 1 ∧ (paired lowOn).twn.linkKey.isSome = true ∧ (paired lowOn).brt.count < (paired lowOn).twn.lastRecord + 16) := by
  decide +kernel
def writing (f : JournalFor) (n : Nat) : State := { lowOn with bore := { lowOn.bore with journal := { lowOn.bore.journal with
  write := some (f, leBytes 24 0 ++ leBytes 8 n ++ zeros 32)
  sectors := List.replicate 63 [zeros 64] } } }
theorem test_journal : ∀ f ∈ [JournalFor.serial, .counter 9 transit1.epoch, .leaf [1]], (writing f (2 ^ 46)).bore.journal.queue = [] ∧
    (writing f (2 ^ 46)).bore.journal.write = some (f, leBytes 24 0 ++ leBytes 8 (2 ^ 46) ++ zeros 32) ∧
    le (leBytes 24 0 ++ leBytes 8 (2 ^ 46) ++ zeros 32) 24 8 = 2 ^ 46 ∧ statefulOf (writing f (2 ^ 46)) [1] = some tree1 ∧
    lowOn.bore.journal.write = none ∧ 63 ≤ (writing f 300).bore.journal.sectors.length := by decide +kernel

/-! ### The fabric and the bore -/

def fab1 : FabCfg := ⟨4, 1, true, false, true, false, false, 0, 3, false, 0x0A0B0C0D0E01, 0x01020304, 0⟩
def fab2 : FabCfg := ⟨4, 2, true, false, true, false, false, 0, 3, false, 0x0A0B0C0D0E02, 0x01020305, 0⟩
def node1 : NodeCfg := ⟨50, 1, 4, 0, 0x222222222222, 0⟩
def nodes1 : NodeTable := ⟨1, [node1]⟩
def gateway : Peer := ⟨0x111111111111, 0⟩
def preserve1 : Machine.Stream := { streamOfDesc custody 3 .preserve (padTo 64 ([1, 0, 0, 0] ++ leBytes 2 2)) with
  plainPort := 0
  carriage := 0
  cached := true
  opening := true
  bound := none
  nextSlot := none }
def obj1 : Bytes := List.replicate 16 0xAB
def grouped (k : PipeGroup) (n : Nat) (s : State) : State := modPipe s n (fun p => { p with group := k })
def fabric0 : State := { grouped .echoG 11 (grouped .echoG 10 (grouped .sealG 1 (grouped .sealG 0 keyed))) with
  charts := { keyed.charts with inForce := some { chart1 with fabric := [(0, fab1), (4, fab2)], nodes := some nodes1 } }
  pxt := { keyed.pxt with
    cur := some nodes1
    nodeLimit := [(50, 20)]
    ports := [(0, { FabPort.init with linkUp := true }), (4, { FabPort.init with linkUp := true })] } }
def withStreams (s : State) : State := { s with bore := { s.bore with streams := [(9, preserve1)], serials := { s.bore.serials with ceiling := 100, next := 7 } } }
def fabricS : State := withStreams fabric0
def msg (typ seq off : Nat) (body : Bytes) : PxtMsg := ⟨typ, false, false, false, false, 9, seq, obj1, 77, off, body⟩
def framed (p : Fin 64) (src : Peer) (m : PxtMsg) : PxtIn := ⟨p, src, 0, pxtBytes m⟩
theorem arrives_of {s : State} {x : PxtIn} {typ : Nat} {plain : Bool} {m : PxtMsg} (f : FabCfg) (h : isRunning s = true ∧ fabricServes s = true ∧
      s.dev.halting = false ∧ (fabCfg s x.fport.val = some f ∧ plain = decide (f.role = 1) ∧ carriageOk f x.carriage.val = true) ∧
      (fabPort s x.fport.val).linkUp = true ∧ pxtFormOk plain (unpad x.carriage.val x.msg) = true ∧ m = pxtOfBytes (unpad x.carriage.val x.msg) ∧
      byteAt x.msg 0 % 16 = typ ∧ m.typ = typ) : Arrives s x typ plain m :=
  ⟨h.1, h.2.1, h.2.2.1, ⟨f, h.2.2.2.1⟩, h.2.2.2.2.1, h.2.2.2.2.2.1, h.2.2.2.2.2.2.1, h.2.2.2.2.2.2.2⟩
theorem gateway_of {s : State} {x : PxtIn} {m : PxtMsg} {st : Machine.Stream} (h : streamAt s m.sid = some st ∧ st.cls = .preserve ∧
    (st.plainPort = x.fport.val ∧ st.carriage = x.carriage.val) ∧ st.bound.all (fun p => peerIs x.carriage.val p x.src) = true ∧ st.cached = true ∧
    m.node = false) : FromGateway s x m st :=
  ⟨h.1, h.2.1, h.2.2.1, fun p hp => by have := h.2.2.2.1; rw [hp] at this; exact this, h.2.2.2.2.1, h.2.2.2.2.2⟩
def begin1 : PxtMsg := msg 1 0 0 (beBytes 4 8292 ++ zeros 12)
def get1 : PxtMsg := msg 4 0 0 []
theorem test_openings : Arrives fabricS (framed 0 gateway begin1) 1 true begin1 ∧ FromGateway fabricS (framed 0 gateway begin1) begin1 preserve1 ∧
    Arrives fabricS (framed 0 gateway get1) 4 true get1 ∧ FromGateway fabricS (framed 0 gateway get1) get1 preserve1 ∧
    (plainOpen fabricS 9 = none ∧ 1 ≤ declLenOf begin1.body ∧ declLenOf begin1.body ≤ 2 ^ 30 ∧ preserve1.opening = true ∧ serialLeft fabricS = true ∧
      (fabricS.pxt.cur.bind (fun c => nodeWinner c obj1)) = some node1) ∧ checkSlot fabricS preserve1.inst preserve1.keySlot = .ok key2 :=
  ⟨arrives_of fab1 (by decide +kernel), gateway_of (by decide +kernel), arrives_of fab1 (by decide +kernel), gateway_of (by decide +kernel),
    by decide +kernel, slot_ok rfl rfl⟩
def putIn : HopOp := ⟨.putIn, 9, obj1, 77, 0, 0, gateway, none, 2, 1, 10, none, 1, 1, [], [], 95, 2⟩
def putOut : HopOp := ⟨.putOut, 9, obj1, 77, 4, 0, ⟨0x222222222222, 0⟩, some 50, 2, 1, 10, none, 1, 30, [], [], 95, 2⟩
def put1 : Machine.Flow := { Machine.Flow.init .put 9 3 obj1 77 with
  declLen := 8292
  recCode := 0
  key := zeros 32
  stage := .isOpen
  inOp := some 5
  outOp := some 6
  node := some node1
  keySlot := 2 }
def hops (s : State) (a b : HopOp) (f : Machine.Flow) : State := { s with
  pxt := { s.pxt with ops := [(5, a), (6, b)] }
  bore := { s.bore with flows := [(2, f)] } }
def putting (got : Nat) : State := hops fabricS putIn putOut { put1 with got := got }
theorem named_of {s : State} {m : PxtMsg} {o : Nat} {op : HopOp} {f : Machine.Flow} (h : plainOp s m = some (o, op) ∧ tblGet s.pxt.ops o = some op ∧
    flowAt s op.flow = some f) : NamesOp s m o op f := h
def last1 : PxtMsg := msg 2 1 2 (List.replicate 100 0x33)
def end1 : PxtMsg := msg 3 1 0 []
def flush1 : PxtMsg := msg 10 1 0 []
def alive1 : PxtMsg := msg 11 0 0 []
theorem test_put_messages : FromGateway (putting 8192) (framed 0 gateway last1) last1 preserve1 ∧
    NamesOp (putting 8192) last1 5 putIn { put1 with got := 8192 } ∧ Arrives (putting 8192) (framed 0 gateway last1) 2 true last1 ∧ seqOutcome putIn 1 = .next ∧
    Arrives (putting 8292) (framed 0 gateway end1) 3 true end1 ∧ NamesOp (putting 8292) end1 5 putIn { put1 with got := 8292 } ∧
    Arrives (putting 0) (framed 0 gateway flush1) 10 true flush1 ∧ Arrives (putting 0) (framed 0 gateway alive1) 11 true alive1 :=
  ⟨gateway_of (by decide +kernel), named_of (by decide +kernel), arrives_of fab1 (by decide +kernel), by decide +kernel,
    arrives_of fab1 (by decide +kernel), named_of (by decide +kernel), arrives_of fab1 (by decide +kernel), arrives_of fab1 (by decide +kernel)⟩
def sent5 (n : Nat) : Nat × Bytes := (n, pxtBytes (msg 5 n 0 [1]))
def getIn : HopOp := ⟨.getIn, 9, obj1, 77, 0, 0, gateway, none, 2, 1, 1, none, 8, 9, [[1], [2], [3], [4]], [sent5 5, sent5 6, sent5 7], 95, 2⟩
def getOut : HopOp := ⟨.getOut, 9, obj1, 77, 4, 0, ⟨0x222222222222, 0⟩, some 50, 2, 3, 10, none, 1, 30, [], [], 95, 2⟩
def get2 (st : FlowStage) (got : Nat) : Machine.Flow := { Machine.Flow.init .get 9 3 obj1 77 with
  declLen := 8292
  recCode := 1
  key := zeros 32
  stage := st
  inOp := some 6
  outOp := some 5
  node := some node1
  keySlot := 2
  got := got }
def getting (st : FlowStage) (got : Nat) : State := hops fabricS getIn getOut (get2 st got)
def ackM (typ n : Nat) : PxtMsg := msg typ n 0 (zeros (if typ = 9 then 0 else 16))
theorem test_get_messages : (∀ e ∈ [(7, 4), (7, 7), (9, 8), (9, 30), (8, 5), (8, 7)], let m := ackM e.1 e.2
      (plainOp (getting .records 8192) m = some (5, getIn) ∧ pxtFormOk true (unpad 0 (pxtBytes m)) = true ∧ m = pxtOfBytes (unpad 0 (pxtBytes m)))) ∧
    (seqBelow (getIn.txNext - 1) 4).isSome = true ∧ (seqAbove getIn.txLimit 30).isSome = true ∧ (seqBelow getIn.txNext 5).isSome = true ∧
    SendsNow (getting .records 8192) 0 fab1 := ⟨by decide +kernel, by decide +kernel, by decide +kernel, by decide +kernel, by unfold SendsNow; decide +kernel⟩
def piece (part : Bool) (seq off : Nat) (b : Bytes) : PxtMsg := ⟨5, false, false, false, part, 9, seq, obj1, 77, off, b⟩
def manifest1 : PxtMsg := piece true 3 0 (padTo 8192 (zeros 44 ++ beBytes 4 100))
def record1 : PxtMsg := piece false 3 2 (List.replicate (48 + 100 + 16) 8)
def fromNode (m : PxtMsg) : PxtIn := framed 4 ⟨0x222222222222, 0⟩ m
theorem test_node_data : Arrives (getting .records 8192) (fromNode record1) 5 false record1 ∧
    sealedOp (getting .records 8192) (fromNode record1) record1 = some (6, getOut) ∧ 4096 * record1.off = 8192 ∧
    (pieceLen (8192 % recSize 1) (recLen 1 8292 1) record1.body.length).isSome = true ∧ manifest1.body.length = 8192 ∧
    (manifestLen manifest1.body).any (fun n => decide (8192 < n)) = true :=
  ⟨arrives_of fab2 (by decide +kernel), by decide +kernel, by decide +kernel, by decide +kernel, by decide +kernel, by decide +kernel⟩
theorem test_bad_frame : ∀ e ∈ pxtRows, let x : PxtIn := ⟨0, gateway, 0, (pxtBytes (msg e.1 0 0 [])).take 20⟩
    byteAt x.msg 0 % 16 = e.1 ∧ pxtFormOk true (unpad 0 x.msg) = false := by unfold pxtRows; decide +kernel

def whole (b : Bytes) : Rec := { Rec.init with input := b, whole := some 99, crc := crc64 b, firstSeq := 3 }
def rec1 : Rec := whole (List.replicate 16 0x44)
def recording (f : Machine.Flow) : State := hops fabricS putIn putOut f
def put2 (r : Rec) : Machine.Flow := { put1 with recs := [(0, r)], got := 8292 }
theorem test_admit : admitDue (recording (put2 rec1)) rec1 = true ∧ groupPipes (recording (put2 rec1)) .echoG ≠ [] ∧
    admitFits (recording (put2 rec1)) (put2 rec1) rec1 = true ∧ flowAt (recording (put2 rec1)) 2 = some (put2 rec1) ∧ put1.stage = .isOpen := by
  decide +kernel
def strip1 : Strip := ⟨false, false, 1, 11, [], 99⟩
def struck1 : Strip := { strip1 with failed := true, bad := [1, 11] }
def echoed (l : List Strip) : Rec := { rec1 with admitted := some 99, strips := l, result := [1, 2] }
theorem test_echo : (echoed [strip1]).strips[0]? = some strip1 ∧ strip1.passed = false ∧ strip1.failed = false ∧ strip1.bad = [] ∧ struck1.failed = true ∧
    struck1.breath < (recording (put2 (echoed [struck1]))).brt.count ∧
    (∃ p ∈ sealPipesOf (recording (put2 (echoed [struck1]))) (put2 (echoed [struck1])), p ∉ badSeals struck1.bad) ∧
    ∃ p ∈ echoPipesOf (recording (put2 (echoed [struck1]))) (put2 (echoed [struck1])), p ∉ badEchoes struck1.bad := by decide +kernel
def sealed1 : Rec := { rec1 with admitted := some 98, ready := some 99, strips := [{ strip1 with passed := true }], result := List.replicate 80 3 }
def closing : Machine.Flow := { put1 with declLen := 16, recs := [(0, sealed1)], got := 16 }
def stored1 : Machine.Flow := { closing with stage := .stored, nextSend := 1, manifest := List.replicate 300 7 }
theorem test_send_close : sendDue (recording (put2 sealed1)) sealed1 = true ∧ (put2 sealed1).nextSend = 0 ∧ allSealed closing = true ∧
    closing.stage = .isOpen ∧ recCount 0 16 ≤ stored1.nextSend ∧ stored1.stage = .stored := by decide +kernel
def loading1 : Machine.Stream := { preserve1 with cached := false, loading := true, held := [] }
def spent1 : Machine.Stream := { transit1 with counter := 2 ^ 36 }
theorem test_cache_epoch : let s := { fabricS with bore := { fabricS.bore with streams := [(9, loading1), (10, spent1)] } }
    streamAt s 9 = some loading1 ∧ loading1.loading = true ∧ loading1.held = [] ∧ (s.bore.streams.filter (fun e => e.2.cached)).length < 65536 ∧
      linkOf s 9 = none ∧ loading1.cls ≠ .transit ∧ streamAt s 10 = some spent1 ∧ spent1.receive = false := by decide +kernel

def secured : State := { fabricS with charts := { fabricS.charts with inForce := some { chart1 with fabric := [(0, { fab1 with macsec := true }), (4, fab2)] } } }
def keyedPort (s : State) (f : FabPort → FabPort) : State := modFab s 0 f
theorem test_frames : isRunning fabricS = true ∧ fabCfg fabricS 0 = some fab1 ∧ (fabPort fabricS 0).linkUp = true ∧ fabricServes fabricS = true ∧
    fabCfg secured 0 = some { fab1 with macsec := true } ∧ isEapol (zeros 60) = false ∧ macsecOpen (fabPort secured 0).sas (zeros 60) = none ∧
    (fabPort fabricS 0).txq = [] ∧ fab1.pfc = true ∧ (keyedPort secured (fun x => { x with cak := [1] })).pxt.macHeld = false ∧
    (fabPort (keyedPort fabricS (fun x => { x with xoffSent := true })) 0).xoffSent = true ∧ frameMessage (pxtCfg fabricS) fab1 0 (zeros 60) = none ∧
    be (zeros 60) 0 6 ≠ fab1.mac.toNat := by decide +kernel
def aliveFrame : Bytes := beBytes 6 0x0A0B0C0D0E01 ++ beBytes 6 0x111111111111 ++ beBytes 2 0x88B5 ++ pxtBytes alive1 ++ zeros 14
theorem test_frame_message : ∃ z, frameMessage (pxtCfg (putting 0)) fab1 0 aliveFrame = some z ∧ Arrives (putting 0) z 11 true alive1 ∧
    FromGateway (putting 0) z alive1 preserve1 :=
  ⟨{ framed 0 gateway alive1 with msg := pxtBytes alive1 ++ zeros 14 }, by decide +kernel, arrives_of fab1 (by decide +kernel), gateway_of (by decide +kernel)⟩
def unanswered : HopOp := { putOut with sent := [(1, [7])], since := 5, timeouts := 2 }
def late (n : Nat) (o : HopOp) : State := { hops fabricS putIn o put1 with brt := { fabricS.brt with count := n } }
theorem test_fabric_timers : (put1.dataBreath + 2 ^ (pxtCfg (late (2 ^ 21) putOut)).idleLog2 ≤ 2 ^ 21 ∧ put1.ended = false ∧ put1.mig = none) ∧
    (unanswered.sent ≠ [] ∧ unanswered.since + 2 ^ (pxtCfg (late 100 unanswered)).retryLog2 ≤ 100 ∧
      unanswered.timeouts + 1 ≠ (pxtCfg (late 100 unanswered)).retryMax ∧ fabricServes (late 100 unanswered) = true) ∧
    (opsAt (late (2 ^ 17) unanswered) (peerKey (.node 50)) = [(6, unanswered)] ∧
      2 ^ ((pxtCfg (late (2 ^ 17) unanswered)).keepaliveLog2 + 2) ≤ 2 ^ 17) := by decide +kernel

/-! ### Randomness, the digest port, memory -/

def starting : State := { keyed with
  dev := { keyed.dev with mode := .boot }
  rng := { keyed.rng with ready := false, calls := List.replicate 16 7, held := [(.mctp [] [], 3)] } }
def supplied (calls : List Nat) (w : List PrWaiter) : State := { keyed with rng := { keyed.rng with
  ready := true
  alarm := false
  calls := calls
  waiting := w
  granted := [] } }
def callsAt (i n : Nat) : List Nat := (List.replicate 16 5).set i n
theorem test_random_source : (isRunning starting = true ∧ starting.dev.mode = .boot ∧ starting.rng.ready = false ∧ starting.rng.alarm = false ∧
      starting.dev.halting = false) ∧
    (let s := supplied (callsAt 15 4096) [];
      2 ^ 12 ≤ drbgCalls s 15 ∧ drbgDue s 0 = false ∧ anyReedDue s = false ∧ nextReedWaiter s = none) ∧
    (let s := supplied (callsAt 15 50) [.reed 5];
      nextReedWaiter s = some (.reed 5) ∧ anyReedDue s = false ∧ drbgCalls s (waiterDrbg (.reed 5)) < 2 ^ 12 ∧ waiterDrbg (.reed 5) ≠ 0) ∧
    (let s := supplied (callsAt 15 50) [.job 7];
      nextReedWaiter s = none ∧ nextHostWaiter s = some (.job 7) ∧ waiterDrbg (.job 7) = 15 ∧ anyReedDue s = false) ∧
    2 ^ 20 ≤ drbgCalls (supplied (callsAt 4 (2 ^ 20)) []) 4 ∧
    (let s := { starting with brt := { starting.brt with count := 1027 } }; s.rng.held[0]? = some (.mctp [] [], 3) ∧ 3 + 1024 ≤ s.brt.count) := by
  decide +kernel

def digest (c : Nat) (d : Dgp) : State := { keyed with dgp := listSet keyed.dgp c d }
def owned : Dgp := { Dgp.init with owner := some .mgmt }
def running1 (alg n : Nat) : Dgp := { owned with alg := alg, jobAlg := alg, started := true, outLen := 32, msg := List.replicate n 1 }
theorem test_digest_init : (digest 2 owned).dgp.length = 16 ∧ DgpMay (digest 2 owned) .mgmt ∧ (dgpAt (digest 2 owned) 2).owner = some .mgmt ∧
    (0x500A08 : BitVec 32).toNat % 2 ^ 4 = 8 ∧ (0x40005 : BitVec 32).toNat / 2 ^ 18 % 4 = 1 := by unfold DgpMay; decide +kernel
theorem test_digest_data : DgpTakes (digest 2 (running1 1 60)) .mgmt 2 ∧ DgpTakes (digest 2 { running1 7 5 with outLen := 65 }) .mgmt 2 ∧
    DgpTakes (digest 2 { running1 1 5 with busy := true }) .mgmt 2 ∧ (running1 1 60).busy = false ∧ (running1 1 60).overrun = false ∧
    isLive (digest 2 { running1 7 5 with finalised := true }) = true := by unfold DgpTakes DgpMay; decide +kernel
theorem test_digest_claim : isRunning (digest 9 Dgp.init) = true ∧ (portAt (digest 9 Dgp.init) 1).formed = true ∧ (dgpAt (digest 9 Dgp.init) 9).owner = none ∧
    (dgpAt (digest 9 owned) 9).owner.isSome = true := by decide +kernel

def range0 : MemRange := { MemRange.empty with base := 0, size := 2, key := List.replicate 32 7, gen := 1, writes := 10 }
def stored (ranges : MemRange) (n : Nat) : State := { keyed with mpr := { keyed.mpr with
  keysReady := true
  capacity := 16
  ranges := ranges :: List.replicate 15 MemRange.empty
  pages := [(2, { tblGetD keyed.mpr.pages 2 ⟨0, []⟩ with minors := [(2, BitVec.ofNat 7 n)] })]
  lines := [(130, ⟨zeros 64, zeros 8⟩)] } }
theorem test_memory : memServes (stored range0 3) = true ∧ 2 ^ 30 * (stored range0 3).mpr.capacity ≤ 2 ^ 34 ∧
    dataRange (stored range0 3) (64 * 130) = some 0 ∧ minorOf (stored range0 3).mpr 130 = 3 ∧ minorOf (stored range0 127).mpr 130 = 127 ∧
    writeWaits (memRange (stored range0 3).mpr 0) 2 = false ∧ (stored range0 3).mpr.fault = none := by decide +kernel
theorem test_memory_keys : let r := { range0 with oldKey := some range0.key }
    (0 < (stored { range0 with writes := 2 ^ 39 } 3).mpr.ranges.length ∧ (memRange (stored { range0 with writes := 2 ^ 39 } 3).mpr 0).oldKey = none ∧
      (stored range0 3).rng.alarm = false ∧ memServes (stored { range0 with writes := 2 ^ 39 } 3) = true) ∧
    (memServes (stored r 3) = true ∧ (memRange (stored r 3).mpr 0).oldKey = some range0.key) ∧
    (stored range0 3).dev.mode ≠ .boot ∧ nextWritten (stored range0 3).mpr 0 = some 130 ∧ nextWritten (stored range0 0).mpr 131 = none := by
  decide +kernel

/-! ### Mailboxes, tamper, the life cycle -/

def boxed1 (c : Carrier) (q : Bytes) (s : State) : State :=
  modBox s c (fun b => { b with busy := true, reqLen := q.length, req := some q, outAddr := 0x4440000, outLen := 65536 })
theorem holds_of {s : State} {c : Carrier} {k : Nat} {q : Bytes} (h : isRunning s = true ∧ (s.wchBox.length = 8 ∧ s.lcsBox.length = 8) ∧
    ((boxAt s c).busy = true ∧ (boxAt s c).req = some q ∧ q.length = (boxAt s c).reqLen) ∧ le q 0 2 = k) : BoxHolds s c k q :=
  ⟨h.1, h.2.1, h.2.2.1, h.2.2.2⟩
def reqW (k : Nat) (rest : Bytes) (n : Nat) : Bytes := padTo n (leBytes 2 k ++ leBytes 2 3 ++ rest)
def reqL (k : Nat) (d : Bytes) : Bytes := padTo 32 (leBytes 2 k) ++ d
def custodyR : State := { keyed with rng := { keyed.rng with ready := true, calls := List.replicate 16 0 } }
/-- A kind of the windchest and kinds of the custody mailbox whose checks pass, and one that none can pass for its header. -/
theorem test_mailbox_kinds : (BoxHolds (boxed1 (.lcs 1) (reqL 1 [4]) custodyR) (.lcs 1) 1 (reqL 1 [4]) ∧ LcsForm (reqL 1 [4]) 1 ∧
      lcAllowed (boxed1 (.lcs 1) (reqL 1 [4]) custodyR) (byteAt (reqL 1 [4]) 32) = none ∧ byteAt (reqL 1 [4]) 32 = 4) ∧
    (BoxHolds (boxed1 (.lcs 1) (reqL 4 []) custodyR) (.lcs 1) 4 (reqL 4 []) ∧ LcsServes (boxed1 (.lcs 1) (reqL 4 []) custodyR) 1 ∧
      LcsForm (reqL 4 []) 0 ∧ domainUsable custodyR = true ∧ custodyR.dom.gens.length < 64) ∧
    (BoxHolds (boxed1 (.lcs 1) (reqL 8 []) custodyR) (.lcs 1) 8 (reqL 8 []) ∧ lcNow custodyR = 3) ∧
    MayStage (boxed1 (.lcs 1) (reqL 1 [4]) custodyR) (.lcs 1) ∧
    (BoxHolds (boxed1 (.wch 1) (reqW 1 [1, 1] 64) custodyR) (.wch 1) 1 (reqW 1 [1, 1] 64) ∧ zeroAt (reqW 1 [1, 1] 64) 5 3 = false) :=
  ⟨⟨holds_of (by decide +kernel), by unfold LcsForm; decide +kernel, by decide +kernel, by decide +kernel⟩,
    ⟨holds_of (by decide +kernel), by unfold LcsServes; decide +kernel, by unfold LcsForm; decide +kernel, by decide +kernel, by decide +kernel⟩,
    ⟨holds_of (by decide +kernel), by decide +kernel⟩, by unfold MayStage; decide +kernel, holds_of (by decide +kernel), by decide +kernel⟩
theorem test_attestation : BoxHolds (boxed1 (.wch 1) (reqW 5 [] 64) keyed) (.wch 1) 5 (reqW 5 [] 64) ∧
    BoxHolds (boxed1 (.wch 1) (reqW 6 [] 256) keyed) (.wch 1) 6 (reqW 6 [] 256) ∧ (reqW 5 [] 64).length = 64 ∧ zeroAt (reqW 5 [] 64) 5 3 = true ∧
    zeroAt (reqW 5 [] 64) 10 6 = true ∧ zeroAt (reqW 5 [] 64) 48 16 = true ∧ (tblGet keyed.insts 3).any (fun x => decide (x.port = 1)) = true ∧
    domainUsable keyed = true ∧ 192 ≤ wchRoom (boxed1 (.wch 1) (reqW 5 [] 64) keyed) 1 ∧ le ((reqW 6 [] 256).drop 64) 40 8 ≠ keyed.dom.id :=
  ⟨holds_of (by decide +kernel), holds_of (by decide +kernel), by decide +kernel⟩
theorem test_migrate_stop : BoxHolds (boxed1 (.lcs 1) (reqL 10 []) (withDev keyed fun d => { d with mode := .migrate })) (.lcs 1) 10 (reqL 10 []) ∧
    BoxHolds (boxed1 (.lcs 1) (reqL 10 []) plainPort) (.lcs 1) 10 (reqL 10 []) ∧ LcsForm (reqL 10 []) 0 ∧ (portAt keyed 1).global = true ∧
    (portAt plainPort 1).global = false :=
  ⟨holds_of (by decide +kernel), holds_of (by decide +kernel), by unfold LcsForm; decide +kernel, by decide +kernel, by decide +kernel⟩
def emptyBox (n : Nat) : State := { keyed with wchBox := listSet keyed.wchBox 1 { Mailbox.init with reqLen := n, change := 8 }
                                               changes := ⟨[(8, change1 .rewrap (.wch 1) none [] [])], 9⟩ }
theorem test_mailbox_go : (boxAt (emptyBox 64) (.wch 1)).busy = false ∧ (boxAt (emptyBox 64) (.wch 1)).ends = [] ∧ (boxAt (emptyBox 65536) (.wch 1)).reqLen = 65536 ∧
    (boxAt (emptyBox 63) (.wch 1)).reqLen < 64 ∧ tblGet (emptyBox 64).changes.live (boxAt (emptyBox 64) (.wch 1)).change = some (change1 .rewrap (.wch 1) none [] []) ∧
    (emptyBox 64).brt.count < 5000 := by decide +kernel

def lcBoot (code : Nat) (f : Lcs → Lcs) : State := { withDev keyed (fun d => { d with mode := .boot }) with
  lcs := f { keyed.lcs with state := code, resolved := true } }
def token1 : Bytes := List.replicate 16 3
def rawDie : State := lcBoot 0 (fun l => { l with tokenHash := listSet l.tokenHash 1 (sha3_256 token1), tokenUsed := 1 })
theorem test_tamper : isRunning keyed = true ∧ keyed.dev.powerGood = true ∧ keyed.dev.halting = false ∧ isLive keyed = true ∧
    (withDev keyed fun d => { d with powerGood := false }).dev.powerGood = false := by decide +kernel
theorem test_life_cycle : (lcNow rawDie = 0 ∧ rawDie.lcs.tokenTried = false ∧ rawDie.lcs.tokenUsed.testBit 1 = false ∧ rawDie.lcs.tokenUsed.testBit 0 = true ∧
      (lcFreeRecord rawDie 1).isSome = true ∧ rawDie.lcs.pendingTarget = 7) ∧
    (lcNow (lcBoot 1 id) = 1 ∧ (lcFreeRecord (lcBoot 1 id) 0).isSome = true) ∧
    (lcByRenotte (lcNow (lcBoot 4 id)) 5 = true ∧ (lcFreeRecord (lcBoot 4 id) 5).isSome = true) ∧ lcNow (lcBoot 4 id) = 4 ∧ isRunning rawDie = true := by
  decide +kernel
theorem test_token : sha3_256 token1 = rawDie.lcs.tokenHash.getD 1 [] := by decide +kernel
def moving : State := { withDev fabricS (fun d => { d with mode := .migrate }) with
  mig := { fabricS.mig with active := true, inst := 3, stream := 9, count := 10, next := 2, maxInFlight := 4, listAddr := 0x5000, resultAddr := 0x1FF0 } }
def planEntry (b : Byte) : Bytes := obj1 ++ beBytes 4 5 ++ zeros 4 ++ List.replicate 16 2 ++ beBytes 4 6 ++ zeros 3 ++ [b]
theorem test_migration_entry : entryDue moving = true ∧ (planEntry 0).length = 48 ∧ moving.mig.entries = [] ∧ Machine.entryOk (planEntry 0) = true ∧
    Machine.entryOk (planEntry 1) = false ∧ (moving.pxt.cur.bind (fun c => nodeWinner c ((planEntry 0).take 16))) = some node1 := by decide +kernel

/-! ### The twin and the management controller -/

def linked (f : Twn → Twn) : State := { keyed with twn := f { keyed.twn with linkKey := some (zeros 32), ackIn := some 4, inbox := [⟨3, 100, 5, []⟩] } }
def twinRec (ack : Nat) : TwinIn := ⟨100, 6, ack, List.range 16 |>.map (BitVec.ofNat 8), true⟩
theorem test_twin_records : TwinNext (linked id) (twinRec (2 ^ 64 - 1)) ∧ TwinNext (linked id) (twinRec 5) ∧ keyed.twn.linkKey = none ∧
    mirrorTarget (linked fun x => { x with role := 2 }) = true ∧ mirrorTarget (linked id) = false ∧
    (linked fun x => { x with adopt := some 777 }).twn.adopt = some 777 := by unfold TwinNext; decide +kernel
def partner : TwinHello := ⟨zeros 1624, 9, false⟩
def pairKnown : State := { keyed with dom := { keyed.dom with pair := some (recipientId partner.transportKey, 9) } }
theorem test_twin_train : keyed.dom.pair = none ∧ pairKnown.twn.role = 0 ∧ partner.transportKey.length = 1624 ∧
    partner.partIsLc = decide (pairKnown.dev.part = .lc) := by decide +kernel
def shadow (f : Twn → Twn) (n : Nat) : State := { withDev (linked fun x => f { x with role := 2 }) (fun d => { d with mode := .shadow }) with
  brt := { keyed.brt with count := n } }
theorem test_twin_loss : ((linked fun x => { x with lastRecord := 84 }).twn.lastRecord + 16 ≤ 100 ∧ (linked id).twn.role = 0) ∧
    (let s := linked (fun x => { x with role := 1, lastRecord := 84, lastToggle := some 90 }); partnerAlive s = true ∧ s.twn.partnerHalt = false) ∧
    (let s := shadow (fun x => { x with linkKey := none, lastToggle := none }) 5000;
      partnerGone s = true ∧ s.twn.linkKey = none ∧ s.twn.evidence = none ∧ s.dev.mode = .shadow ∧ isRunning s = true) ∧
    (let s := shadow (fun x => { x with evidence := some 99 }) 100; s.twn.evidence = some 99 ∧ 99 < s.brt.count ∧ s.brt.cycle = 0) := by decide +kernel
def inMode (m : Mode) : State := { withDev keyed (fun d => { d with mode := m }) with rng := { keyed.rng with ready := true } }
theorem test_management : MctpActs keyed ∧ lcNow keyed = 3 ∧ (changeByLow (emptyBox 64) 8).isSome = true ∧ changeByLow (emptyBox 64) 9 = none ∧
    (inMode .recover).dev.modeReq = none ∧ (inMode .recover).twn.role = 0 ∧ anyPoolBelow (inMode .recover) = false ∧ (inMode .service).dev.tuneReq = none ∧
    (inMode .service).rng.ready = true ∧ MayStage (inMode .service) .mctp := by unfold MctpActs MayStage; decide +kernel
def sampled (h : Nat) : Readings :=
  ⟨List.replicate 32 h, List.replicate 16 900, none, List.replicate 4 none, List.replicate 4 none, keyed.mgc.readings.millis + 5⟩
theorem test_sensors : ∀ h ∈ [640, 656, 671, 672, 696], Machine.readingsOk (sampled h) = true ∧ tMax (sampled h) = h ∧
    keyed.mgc.readings.millis ≤ (sampled h).millis ∧ stepNow keyed = 0 ∧ (bandHot, 0) ∉ keyed.mgc.warned := by decide +kernel

/-! ### Microwords -/

/-- Value `v` at bit `lo` of a word, and the words of R184's fields, each alone in its word. -/
def bitsAt (v lo : Nat) : BitVec 192 := BitVec.ofNat 192 (v * 2 ^ lo)
def maskAt (m : Option (Fin 8)) (lo : Nat) : BitVec 192 := m.elim 0 (fun k => bitsAt k lo ||| bitsAt 1 (lo + 3))
def vecWord (n : Nat) (f : VField) : BitVec 192 := bitsAt n 33 ||| bitsAt f.d 41 ||| bitsAt f.a 46 ||| bitsAt f.b 51 ||| bitsAt f.c 56 |||
  maskAt f.mask 61 ||| bitsAt f.zero.toNat 65 ||| bitsAt f.k.toNat 66 ||| bitsAt f.ssel.toNat 72 ||| bitsAt f.s 73
def scalWord (n : Nat) (f : SField) : BitVec 192 := bitsAt n 78 ||| bitsAt f.d 84 ||| bitsAt f.a 89 ||| bitsAt f.b 94 ||| bitsAt f.imm.toNat 99 |||
  bitsAt f.sh 115
def memWord (n : Nat) (f : MField) : BitVec 192 := bitsAt n 117 ||| bitsAt f.v 121 ||| bitsAt f.x 126 ||| bitsAt f.s 131 ||| bitsAt f.t 136 |||
  bitsAt f.seg 141 ||| maskAt f.mask 145 ||| bitsAt f.off.toNat 149
def belWord (n : Nat) (f : BField) : BitVec 192 := bitsAt n 157 ||| bitsAt f.a 160 ||| bitsAt f.b 165
def mauWord (n : Nat) (f : AField) : BitVec 192 := bitsAt n 170 ||| bitsAt f.a 173 ||| bitsAt f.off.toNat 178 ||| bitsAt f.s 186
def seqWord (n : Nat) (f : QField) : BitVec 192 := bitsAt n 0 ||| bitsAt f.target.toNat 3 ||| bitsAt f.cond 17 ||| bitsAt f.creg 22
def lcWord (n : Nat) (f : LField) : BitVec 192 := bitsAt n 29 ||| bitsAt f.sel 31 ||| bitsAt f.imm.toNat 99 ||| bitsAt f.sa 89

/-- Reed 5 with core `c`, at word `w` of its routine; with the word under way again from beat `b` after a trap. -/
def atWord (c : ReedCore) (w : BitVec 192) : State :=
  let s := setCluster (atReed c) 0 { clusterAt (atReed c) 0 with placed := [⟨0x8001, 0x400, 2⟩] }
  let a := wordAddr s 5 c
  setCluster s 0 { clusterAt s 0 with cs := writeWords (clusterAt s 0).cs a [w], par := writeParity (clusterAt s 0).par a [w] }
def issue0 (c : ReedCore) : Issue := ⟨c, 0, true, none, none, none⟩
def again (c : ReedCore) (b : Nat) : Issue := { issue0 c with resume := some ⟨0, b, 0, 0, 3, 0x40, 0x77⟩ }
def resumed (c : ReedCore) (w : BitVec 192) (i : Issue) : State := setReed (atWord c w) 5 { reedAt (atWord c w) 5 with issue := some i }

/-- The word of reed 5 issues as `i`, field `k` not done. -/
def ready (s : State) (i : Issue) : Bool := isRunning s && reedRuns s 5 && !fetchStalls s 5 && reedRuns (openWord s 5) 5 &&
  decide ((reedAt (openWord s 5) 5).issue = some i) && i.issued
theorem issues_of {s : State} {i : Issue} (h : ready s i = true) : Issues s (openWord s 5) 5 i := by
  simp only [ready, Bool.and_eq_true, decide_eq_true_eq, Bool.not_eq_true'] at h
  exact ⟨h.1.1.1.1.1, h.1.1.1.1.2, h.1.1.1.2, rfl, h.1.1.2, h.1.2, h.2⟩
theorem takes_of {s : State} {i : Issue} {k : Nat} (h : ready s i = true ∧ bitOf (doneOf (wordNow s 5) i) k = false) :
    Takes s (openWord s 5) 5 i k := ⟨issues_of h.1, h.2⟩
theorem ends_of {s : State} {i : Issue} (h : ready s i = true ∧ fieldsDone (openWord s 5) 5 = true ∧
    i.resume.any (fun p => bitOf p.done 5) = false) : Ends s (openWord s 5) 5 i := ⟨issues_of h.1, h.2.1, h.2.2⟩

/-- Cores with a few registers: elements of 32 bits in groups of two, and of 64 bits in single registers. -/
def core32 : ReedCore := { ReedCore.init with
  ew := 1
  log2g := 1
  vl := 32
  qmod := 3329
  gfpoly := 0x0800011B
  v := [(16, 0x123456789ABCDEF0), (17, 0xFFFFFFFF), (24, 0x100000002)]
  m := [(1, 0xF0F0), (3, 0x5555)]
  s := [(1, 0x40), (2, 0xC010), (3, 0x13F80), (4, 16), (5, 8), (6, 3)]
  upc := 0x10
  lc := [0, 1, 2, 0xFFFF]
  stack := [0x123, 0x456]
  opmem := storeWrite (storeWrite [] 0x40 [1, 2, 3, 4]) 0x7E00 (zeros 13 ++ [1, 4])
  win := [0, 1, 2, 3]
  frames := [⟨some 1, storeWrite [] 0x10 [9, 8, 7], false, 1⟩, ⟨some 2, [], false, 0⟩] }
def core64 : ReedCore := { core32 with ew := 2, log2g := 0, vl := 8 }
def vf1 : VField := ⟨8, 16, 24, 0, none, false, 3, false, 6⟩
def vf2 : VField := ⟨8, 16, 24, 8, some 3, true, 1, true, 6⟩

/-- Every row of a table has a word that issues with its operands in range: from the start, and resumed at a beat. -/
def elemMet (c : ReedCore) (row : ElemRow) (f : VField) : Bool := let s := atWord c (vecWord row.code f)
  let s2 := resumed c (vecWord row.code f) (again c 1)
  ready s (issue0 c) && !bitOf (doneOf (wordNow s 5) (issue0 c)) 0 && decide (vopOf (wordNow s 5) = row.code ∧ vFieldOf (wordNow s 5) = f) &&
  ready s2 (again c 1) && !bitOf (doneOf (wordNow s2 5) (again c 1)) 0 && groupOk c f.d.val && (row.srcs f).all (groupOk c) &&
  decide (c.vl ≤ emax c) && row.ok c f
theorem elem_met {c : ReedCore} {row : ElemRow} {f : VField} (h : elemMet c row f = true) :
    Takes (atWord c (vecWord row.code f)) (openWord (atWord c (vecWord row.code f)) 5) 5 (issue0 c) 0 ∧
    VecIs (atWord c (vecWord row.code f)) 5 row.code f ∧ groupOk c f.d.val = true ∧ (∀ k ∈ row.srcs f, groupOk c k = true) ∧ c.vl ≤ emax c ∧
    row.ok c f = true := by
  simp only [elemMet, Bool.and_eq_true, decide_eq_true_eq, Bool.not_eq_true', List.all_eq_true] at h
  obtain ⟨⟨⟨⟨⟨⟨⟨⟨h1, h2⟩, h3⟩, -⟩, -⟩, h4⟩, h5⟩, h6⟩, h7⟩ := h
  exact ⟨takes_of ⟨h1, h2⟩, h3, h4, h5, h6, h7⟩
theorem test_integer_rows : ∀ row ∈ integerRows, elemMet core32 row vf1 = true ∧ elemMet core64 row vf2 = true := by decide +kernel
theorem test_modular_rows : ∀ row ∈ modularRows, elemMet core32 row vf1 = true := by decide +kernel
theorem test_group_rows : ∀ row ∈ wholeGroupRows, elemMet core32 row vf1 = true ∧ elemMet core64 row vf2 = true := by decide +kernel
theorem test_polynomial_rows : (∀ row ∈ polynomialRows.take 1, elemMet core32 row vf1 = true) ∧
    ∀ row ∈ polynomialRows.drop 1, elemMet core64 row vf1 = true := by decide +kernel

/-- A word of the vector field that issues from the start. -/
def vecMet (c : ReedCore) (n : Nat) (f : VField) : Bool := let s := atWord c (vecWord n f)
  ready s (issue0 c) && !bitOf (doneOf (wordNow s 5) (issue0 c)) 0 && decide (vopOf (wordNow s 5) = n ∧ vFieldOf (wordNow s 5) = f)
theorem test_butterflies : (∀ n ∈ [0x24, 0x25, 0x26, 0x27], vecMet core32 n { vf1 with a := 8, b := 16, d := 0 } = true ∧
      vecMet core32 n { vf1 with a := 16, b := 16, d := 0 } = true) ∧
    qmodOk core32 = true ∧ (∀ k ∈ [8, 16, 0], groupOk core32 k = true) ∧ 2 ^ 3 < 512 / ewBits core32 := by decide +kernel
theorem test_mask_rows : ∀ row ∈ maskRows, vecMet core32 row.code vf1 = true ∧ vecMet core64 row.code vf2 = true ∧
    ∀ k ∈ row.srcs vf2, groupOk core64 k = true := by decide +kernel
theorem test_stream_rows : (∀ n ∈ [0x34, 0x31, 0x0F, 0x45, 0x46], vecMet core32 n vf1 = true ∧ vecMet { core32 with vl := 0 } n vf1 = true) ∧
    groupOk core32 8 = true ∧ groupOk core32 16 = true ∧ (8 : Fin 32) ≠ 16 ∧ vf1.k.toNat * core32.vl ≤ 512 * gsize core32 ∧ qmodOk core32 = true ∧
    1 ≤ vf1.k.toNat ∧ vf1.k.toNat ≤ 32 ∧ ready (atWord core32 0) (issue0 core32) = true ∧ vopOf (wordNow (atWord core32 0) 5) = 0 ∧
    vFieldOf (wordNow (atWord core32 0) 5) = ⟨0, 0, 0, 0, none, false, 0, false, 0⟩ := by decide +kernel

/-- The same of the scalar, memory, bellows and MAU fields. -/
def scalMet (c : ReedCore) (n : Nat) (f : SField) : Bool := let s := atWord c (scalWord n f)
  ready s (issue0 c) && !bitOf (doneOf (wordNow s 5) (issue0 c)) 1 && decide (sopOf (wordNow s 5) = n ∧ sFieldOf (wordNow s 5) = f)
def memMet (c : ReedCore) (n : Nat) (f : MField) : Bool := let s := atWord c (memWord n f)
  ready s (issue0 c) && !bitOf (doneOf (wordNow s 5) (issue0 c)) 2 && decide (mopOf (wordNow s 5) = n ∧ mFieldOf (wordNow s 5) = f)
def belMet (c : ReedCore) (n : Nat) (f : BField) : Bool := let s := atWord c (belWord n f)
  ready s (issue0 c) && !bitOf (doneOf (wordNow s 5) (issue0 c)) 3 && decide (bopOf (wordNow s 5) = n ∧ bFieldOf (wordNow s 5) = f)
theorem test_scalar_rows : (∀ row ∈ scalarRows, scalMet core32 row.code ⟨4, 6, 5, 3, 0⟩ = true ∧ scalMet core32 row.code ⟨0, 6, 5, 3, 0⟩ = true) ∧
    scalMet core32 0x0B ⟨4, 0, 0, 0xFFFF, 3⟩ = true ∧
    (∀ i ∈ [0, 1, 2, 3, 4, 7, 8, 0xB, 0xC, 0x10, 0xFFFF], scalMet core32 0x10 ⟨0, 6, 0, BitVec.ofNat 16 i, 0⟩ = true) ∧ core32.win.length = 4 ∧
    ready (atWord core32 (scalWord 0 ⟨0, 0, 0, 0, 0⟩)) (issue0 core32) = true := by decide +kernel
theorem test_scalar_window : let s := atWord core32 (scalWord 0x10 ⟨0, 6, 0, 8, 0⟩)
    sGet core32 6 = 3 ∧ (storeGet core32.opmem 0x7E0E).toNat = 4 ∧ (core32.frames.any fun g => g.page = some 3) = false ∧
    (match exec (.csrw 5 ⟨0, 6, 0, 8, 0⟩) s with
      | .next t => decide ((reedAt t 5).staging = [⟨3, 1⟩] ∧ (reedAt t 5).core.win = [3, 1, 2, 3])
      | _ => false) = true := by decide +kernel

theorem test_loads : (∀ row ∈ loadRows, memMet { core32 with vl := 3 } row.code ⟨8, 24, 1, 4, 0, none, 0⟩ = true ∧
      (row.groups ⟨8, 24, 1, 4, 0, none, 0⟩).all (groupOk core32) = true) ∧
    memMet core64 1 ⟨8, 24, 2, 4, 0, some 3, 0⟩ = true := by decide +kernel
theorem test_stores : ∀ row ∈ storeRows, memMet { core32 with vl := 3 } row.code ⟨16, 24, 1, 4, 0, some 1, 0⟩ = true := by decide +kernel
theorem test_load_reaches : (let c := { core32 with vl := 3 };
      Reaches c c false 4 ((⟨fun r f => .vld r f false, 1, false, false, false⟩ : MemRow).els c ⟨8, 24, 1, 4, 0, none, 0⟩ 0) ∧
      Reaches c c true 4 ((⟨.vsts, 4, true, false, true⟩ : MemRow).els c ⟨8, 24, 2, 4, 0, none, 0⟩ 0)) ∧
    Reaches core32 core32 false 8 [(0, wordAddress core32 ⟨0, 0, 1, 4, 0, none, 255⟩)] ∧
    Reaches core32 core32 true 8 [(0, wordAddress core32 ⟨0, 0, 2, 4, 0, none, 0⟩)] := by
  have a : ∀ {c x : ReedCore} {w : Bool} {n : Nat} {l : List (Nat × BitVec 64)}, (l.all fun e => decide (elemCause c w n e.2 = none) &&
      (pageOf c e.2).all (fun p => (resident x p).isSome)) = true → Reaches c x w n l := by
    intro c x w n l h e he
    have h' := List.all_eq_true.mp h e he
    simp only [Bool.and_eq_true, decide_eq_true_eq] at h'
    exact ⟨h'.1, fun p hp => by simpa [hp] using h'.2⟩
  exact ⟨⟨a (by decide +kernel), a (by decide +kernel)⟩, a (by decide +kernel), a (by decide +kernel)⟩
theorem test_words_move : (∀ n ∈ [7, 8], memMet core32 n ⟨0, 0, 1, 4, 0, none, 255⟩ = true ∧ memMet { core32 with vl := 0 } n ⟨0, 0, 1, 4, 0, none, 255⟩ = true) ∧
    core32.vl ≠ 0 := by decide +kernel

/-- A job with a key of its instance. -/
def keyJob : Job := { job1 with entry := slot0 0x8001 7 1 0 64 |>.set 10 2 |>.set 11 0 }
def atKey (c : ReedCore) : State := { resumed c (memWord 9 ⟨8, 0, 0, 0, 0, none, 0⟩) (issue0 c) with
  jobs := [(1, keyJob)]
  wch := { keyed.wch with slots := [(3 * 16384 + 2, { key2 with usage := 0x800, tag := [0x64, 0xBB, 0xCD, 0x97, 0x78, 0x63, 0x69, 0x24] })] } }
theorem test_register_reads : (∀ n ∈ [10, 11], ∀ c ∈ [core32, { core32 with vl := 0 }],
      let s := { atWord c (memWord n ⟨8, 0, 0, 0, 0, none, 0⟩) with rng := { up.rng with ready := true } }
      ready s (issue0 c) = true ∧ bitOf (doneOf (wordNow s 5) (issue0 c)) 2 = false ∧ mopOf (wordNow s 5) = n ∧
      reedJob (openWord s 5) 5 = some (1, job1)) := by decide +kernel
theorem test_keyrd : let t := openWord (atKey core32) 5
    ready (atKey core32) (issue0 core32) = true ∧ mopOf (wordNow (atKey core32) 5) = 9 ∧ reedJob t 5 = some (1, keyJob) ∧
    keyJob.inst ≠ attestInst ∧ jSlot keyJob ≠ noSlot ∧ (slotAt t keyJob.inst (jSlot keyJob)).isSome = true := by decide +kernel
def send1 (g : Bool) : Send := ⟨g, zeros (if g then 200 else 32), 2, 0, true⟩
theorem test_bellows : (∀ n ∈ [1, 2, 3], let i := { issue0 core32 with grant := some (2, 40) }
      let s := resumed core32 (belWord n ⟨8, 16⟩) i
      ready s i = true ∧ bitOf (doneOf (wordNow s 5) i) 3 = false ∧ bopOf (wordNow s 5) = n ∧ bFieldOf (wordNow s 5) = ⟨8, 16⟩) ∧
    (∀ g ∈ [false, true], belMet { core32 with send := some (send1 g) } 4 ⟨8, 0⟩ = true ∧ (send1 g).result.length ≤ 64 * (if g then 4 else 1)) ∧
    (let s := atReed { core32 with send := some { send1 true with ready := false, readyAt := 0 } };
      isRunning s = true ∧ s.brt.exhale = false ∧ ((reedAt s 5).core.send.any fun x => decide (x.readyAt ≤ s.brt.cycle)) = true ∧
      reedJob s 5 = some (1, job1) ∧ s.health.charges = []) := by decide +kernel

/-- Reed 5 coupled to MAU 0, whose operation is `op`. -/
def atMau (c : ReedCore) (w : BitVec 192) (op : Option MauOp) : State := let s := atWord c w
  setCluster { s with jobs := [(1, { job1 with unit := .mau 0 5, cls := .mau })] } 0 { clusterAt s 0 with mau := { Mau.init with
    op := op
    modulus := 101 } }
theorem test_mau_port : (∀ n ∈ [1, 2, 3], let s0 := atMau core32 (mauWord n ⟨8, 3, 1⟩) none
      let s := setReed s0 5 { reedAt s0 5 with issue := some (issue0 core32) }
      ready s (issue0 core32) = true ∧ bitOf (doneOf (wordNow s 5) (issue0 core32)) 4 = false ∧ aopOf (wordNow s 5) = n ∧
      aFieldOf (wordNow s 5) = ⟨8, 3, 1⟩ ∧ coupledMau (openWord s 5) 5 = some 0) ∧
    (let t := atMau core32 (mauWord 2 ⟨8, 3, 1⟩) none;
      reedJob t 5 = some (1, { job1 with unit := .mau 0 5, cls := .mau }) ∧ job1.stage = .running ∧ job1.replays = 0 ∧
      ∀ q ∈ unitReeds (.mau 0 5), (reedAt t q).defect = false) := by decide +kernel
def mauAt (m : Mau) (o : MauOp) : State := setCluster hosted 0 { clusterAt hosted 0 with mau := { m with op := some o, acted := false } }
theorem test_mau_operations : (∀ n ∈ List.range 15, MauRuns (mauAt { Mau.init with modulus := 101 } ⟨n, 5, 1, 2⟩) 0 n ⟨n, 5, 1, 2⟩) ∧
    MauRuns (mauAt { Mau.init with curve := .loaded 23 1 1 3 10 28 1 } ⟨13, 0, 0, 0⟩) 0 13 ⟨13, 0, 0, 0⟩ ∧
    MauRuns (mauAt Mau.init ⟨7, 0, 15, 2⟩) 0 7 ⟨7, 0, 15, 2⟩ := by unfold MauRuns; decide +kernel
theorem test_mau_multiplies : let m := { Mau.init with modulus := 101, mem := storeWrite (storeWrite [] 0 [77]) 1024 [13] }
    (match exec (.mmul 0) (mauAt m ⟨1, 3, 0, 1⟩) with
      | .next t => decide (mauReg (clusterAt t 0).mau 3 = mauReg m 0 * mauReg m 1 % 101)
      | _ => false) = true := by decide +kernel

/-! ### Sequencing, traps, ends -/

def q1 : QField := ⟨0x2345, 9, 3⟩
def done5 : Resume := ⟨0x3F, 0, 0x2A, 3, 0, 0, 0⟩
theorem test_sequencing : (∀ n ∈ [0, 1, 2, 3, 4, 6], ∀ w ∈ [n], let s := atWord core32 (seqWord w q1)
      (ready s (issue0 core32) = true ∧ fieldsDone (openWord s 5) 5 = true ∧ (issue0 core32).resume.any (fun p => bitOf p.done 5) = false) ∧
      seqOf (wordNow s 5) = n ∧ qFieldOf (wordNow s 5) = q1) ∧
    core32.stack = 0x123 :: [0x456] := by decide +kernel
theorem test_sequencing_conditions : ∀ k : Fin 16, let s := atWord core32 (seqWord 2 { q1 with cond := Fin.ofNat 32 k.val })
    ready s (issue0 core32) = true ∧ seqOf (wordNow s 5) = 2 ∧ qFieldOf (wordNow s 5) = { q1 with cond := Fin.ofNat 32 k.val } := by decide +kernel
theorem test_sequencing_resumed : ∀ n ∈ [0, 1, 2, 3, 4, 6], let i := { issue0 core32 with resume := some done5 }
    let s := resumed core32 (seqWord n q1) i
    ready s i = true ∧ fieldsDone (openWord s 5) 5 = true ∧ bitOf done5.done 5 = true ∧ seqOf (wordNow s 5) = n := by decide +kernel
theorem test_loop_counters : ∀ n ∈ [1, 2, 3], let s := atWord core32 (lcWord n ⟨3, 7, 6⟩)
    ready s (issue0 core32) = true ∧ bitOf (doneOf (wordNow s 5) (issue0 core32)) 6 = false ∧ lcopOf (wordNow s 5) = n ∧
    lFieldOf (wordNow s 5) = ⟨3, 7, 6⟩ := by decide +kernel

/-- A word of one field, not opened. -/
def alone (s : State) (k : Nat) : Bool := isRunning s && reedRuns s 5 && !fetchStalls s 5 && (reedAt s 5).issue.isNone &&
  decide (emptyFields (wordNow s 5) % 32 = 31 - 2 ^ k) && decide (seqOf (wordNow s 5) ≠ 7) &&
  (decide ((reedAt s 5).core.level = 1) || decide (s.lcs.invasive = false))
theorem alone_of {s : State} {k : Nat} (h : alone s k = true) : Alone s 5 k := by
  simp only [alone, Bool.and_eq_true, Bool.or_eq_true, decide_eq_true_eq, Bool.not_eq_true', Option.isNone_iff_eq_none] at h
  obtain ⟨⟨⟨⟨⟨⟨h1, h2⟩, h3⟩, h4⟩, h5⟩, h6⟩, h7⟩ := h
  exact ⟨h1, h2, h3, h4, h5, h6, h7⟩
theorem test_traps_vector : (∀ c ∈ [core32, { core32 with vl := 33 }, { core32 with qmod := 0 }, { core32 with level := 1, entry := 2, vl := 33 }],
      alone (atWord c (vecWord 0x21 vf1)) 0 = true ∧ vopOf (wordNow (atWord c (vecWord 0x21 vf1)) 5) = 0x21) ∧
    alone (atWord core32 (vecWord 0x21 { vf1 with d := 7 })) 0 = true ∧ groupOk core32 7 = false ∧ qmodOk { core32 with qmod := 0 } = false ∧
    emax core32 = 32 ∧ reedJob (atWord core32 0) 5 = some (1, job1) ∧ job1.unit = .reed 5 ∧ (reedAt (atWord core32 0) 5).defect = false := by
  decide +kernel
theorem test_traps_ports : (let s := { atWord core32 (belWord 1 ⟨8, 16⟩) with brt := { up.brt with cycle := 2 ^ up.brt.log2Len - 300 } };
      alone s 3 = true ∧ bopOf (wordNow s 5) = 1 ∧ bFieldOf (wordNow s 5) = ⟨8, 16⟩ ∧ core32.send = none ∧ 2 ^ s.brt.log2Len < s.brt.cycle + 308) ∧
    (let s := atMau { core32 with s := [(1, 0x0321)] } (mauWord 3 ⟨8, 3, 1⟩) (some ⟨1, 2, 3, 4⟩);
      alone s 4 = true ∧ aopOf (wordNow s 5) = 3 ∧ coupledMau s 5 = some 0 ∧ (clusterAt s 0).mau.op.isSome = true ∧
      mauPortNever true (mauOpOf 0x0321) = false) := by decide +kernel
theorem test_traps_parity : (let s := setReed (atWord core32 0) 5 { reedAt (atWord core32 0) 5 with staging := [⟨3, 0⟩] };
      isRunning s = true ∧ reedRuns s 5 = true ∧ reedJob s 5 = some (1, job1) ∧ job1.replays = 0 ∧ (reedAt s 5).staging ≠ []) ∧
    (let s0 := atWord core32 (seqWord 0 q1);
      let a := wordAddr s0 5 core32;
      let s := setCluster s0 0 (flipBit (clusterAt s0 0) a 7);
      wordBad (clusterAt s 0) a = true ∧ a / 64 ∉ (clusterAt s 0).reloading ∧ a / 64 ∉ (clusterAt s 0).csErrors ∧ (0, 1) ∉ s.health.clusterCharges ∧
      reedRuns s 5 = true ∧ (reedAt s 5).issue = none) := by decide +kernel

/-- A core at entry 1 with a valid frame; `v` says whether a word is pending, `st` the saved stack. -/
def framed1 (v : Nat) (st : List Nat) : ReedCore := { core32 with
  level := 1
  entry := 1
  upc := 0x90
  stack := [1]
  opmem := storeWrite (storeWrite (storeWrite core32.opmem 0x7F02 (leBytes 2 0x10 ++ [1, BitVec.ofNat 8 v, 5, 1])) 0x7F08 (st.flatMap (leBytes 2)))
    0x7F10 ([BitVec.ofNat 8 st.length, 0] ++ leBytes 2 0x55 ++ zeros 4 ++ leBytes 2 1 ++ leBytes 2 2 ++ leBytes 2 3 ++ leBytes 2 4) }
theorem test_returns : (∀ v ∈ [1, 3], ∀ st ∈ [[], [0x77], [1, 2, 3, 4]], let c := framed1 v st
      let s := atWord c (seqWord 5 q1)
      ready s (issue0 c) = true ∧ seqOf (wordNow s 5) = 5 ∧ qFieldOf (wordNow s 5) = q1 ∧ fieldsDone (openWord s 5) 5 = true ∧ c.level = 1 ∧
      (storeGet c.opmem 0x7F05).getLsbD 0 = true ∧ (storeGet c.opmem 0x7F05).getLsbD 1 = decide (v = 3)) ∧
    (let s := setReed hosted 5 { Reed.init with run := .debug };
      isRunning s = true ∧ (reedAt s 5).run = .debug) := by decide +kernel
/-- The end of a job whose routine leaves status `st` and a length of 33 bytes. -/
def endingAt (c : ReedCore) : State := { atWord c (seqWord 7 q1) with jobs := [(1, { job1 with entry := job1.entry.set 24 64 })] }
theorem test_ends : (∀ st ∈ postable, let c := { core32 with s := [(1, BitVec.ofNat 64 (statusCode st + 5 * 2 ^ 16)), (2, BitVec.ofNat 64 (33 + 2 ^ 32))] }
      let s := endingAt c
      let t := openWord s 5
      ready s (issue0 c) = true ∧ seqOf (wordNow s 5) = 7 ∧ fieldsDone t 5 = true ∧ (reedAt t 5).core.level = 0 ∧ (reedAt t 5).defect = false ∧
      ((reedJob (flushFrames t 5) 5).any fun e => decide (e.2.unit = .reed 5 ∧ e.2.stage = .running ∧ 0x8000 ≤ e.2.rid ∧ jOutLen e.2 = 64)) = true ∧
      (sGet c 1).toNat % 2 ^ 16 = statusCode st ∧ (sGet c 2).toNat % 2 ^ 32 = 33) ∧
    ∀ e ∈ [1, 2, 3], let c := { framed1 1 [] with entry := e }
      ready (endingAt c) (issue0 c) = true ∧ fieldsDone (openWord (endingAt c) 5) 5 = true ∧ (reedAt (openWord (endingAt c) 5) 5).core.entry = e ∧
      (reedJob (openWord (endingAt c) 5) 5).isSome = true := by decide +kernel
theorem test_end_defect : let c := framed1 1 []
    let s := setReed (endingAt c) 5 { reedAt (endingAt c) 5 with defect := true }
    ready s (issue0 c) = true ∧ (reedAt (openWord s 5) 5).defect = true ∧ fieldsDone (openWord s 5) 5 = true := by decide +kernel

/-! ### Cluster events -/

def replaying : State := { charted with
  brt := { charted.brt with cycle := 0, exhale := false }
  jobs := [(1, { job1 with stage := .replayWait, replayed := true, replayAt := 90, entry := slot0 0x8001 7 1 30 64, input := List.replicate 30 1 })] }
theorem test_cluster_reeds : (let s := setReed (atWord core32 0) 5 { reedAt (atWord core32 0) 5 with staging := [⟨3, 0⟩, ⟨0, 1⟩] };
      isRunning s = true ∧ reedJob s 5 = some (1, job1) ∧ (reedAt s 5).issue = none ∧ 0 < (reedAt s 5).core.frames.length ∧
      (reedAt s 5).staging = ⟨3, 0⟩ :: [⟨0, 1⟩]) ∧
    (let s := setCluster charted 0 { clusterAt charted 0 with reloading := [3, 16] };
      isRunning s = true ∧ (16 : BitVec 8).toNat ∈ (clusterAt s 0).reloading ∧ s.charts.inForce = some chart1) ∧
    (let s := replaying;
      atInhale s = true ∧ s.rng.alarm = false ∧ ∃ j, tblGet s.jobs 1 = some j ∧ j.stage = .replayWait ∧ j.replayAt ≤ s.brt.count ∧ j.moveAt = none ∧
        j.unit = .reed 5 ∧ ∀ y ∈ startMaterials s j, materialBad s y = false) := by
  refine ⟨by decide +kernel, by decide +kernel, by decide +kernel, by decide +kernel, _, rfl, by decide +kernel, by decide +kernel, rfl, rfl, ?_⟩
  decide +kernel
theorem test_cluster_results : (let j := { job1 with stage := .posted, result := some ⟨.ok, [1], 0, none⟩, post := some (0, 4) };
      let s := setCluster { charted with jobs := [(1, j)] } 0 { clusterAt charted 0 with fifo := [1, 2] };
      isRunning s = true ∧ (clusterAt s 0).fifo = 1 :: [2] ∧ tblGet s.jobs 1 = some j ∧ j.stage = .posted ∧ j.replays = 0) ∧
    (let j := { job1 with unit := .mau 0 5, cls := .mau };
      let s := setCluster { atReed core32 with jobs := [(1, j)] } 0 { clusterAt charted 0 with mau := { Mau.init with
        op := some ⟨1, 2, 3, 4⟩
        acted := true
        left := 0 } }
      isRunning s = true ∧ (clusterAt s 0).mau.op = some ⟨1, 2, 3, 4⟩ ∧ mauJob s 0 = some 1 ∧ tblGet s.jobs 1 = some j ∧ j.replays = 0 ∧
      ∀ q ∈ unitReeds j.unit, (reedAt s q).defect = false) := by decide +kernel
end Sys2Proof.Tests
end

/-! The rows of the microword that write mask registers, scalar registers, and memory (R134, R135, R150, R155 to R157): each group of rows has
one lemma for its shared form, and a table's row is that lemma with the row's own value. -/

/-! ### Fields read their operands through a view of the core -/

namespace Sys2Proof.ReedRows

open Sys2Proof Sys2Proof.Machine Sys2Proof.Safety Sys2Proof.Rows Sys2Proof.Laws

@[simp] theorem gsize_sSet (c : ReedCore) (k : Nat) (x : BitVec 64) : gsize (sSet c k x) = gsize c := by
  unfold sSet
  split <;> rfl

/-- Latched operands leave the group size (R200). -/
@[simp] theorem gsize_vecView (f : VField) (iss : Issue) : gsize (vecView f iss) = gsize iss.before := by
  unfold vecView
  cases iss.resume <;> simp

@[simp] theorem gsize_memView (f : MField) (iss : Issue) : gsize (memView f iss) = gsize iss.before := by
  unfold memView
  cases iss.resume <;> simp

theorem vElem_lt (c : ReedCore) (k i : Nat) : vElem c k i < 2 ^ ewBits c := Nat.mod_lt _ (Nat.pow_pos (by decide))

/-- The beats of a group hold its whole elements below VL (R131, R138), so those left are the ones from the beat at which the word resumes. -/
theorem inBeats_whole (c : ReedCore) (lo i : Nat) (hvl : c.vl ≤ emax c) (hi : i < c.vl) :
    inBeats (ewBits c) lo (beatCount (gsize c)) i = decide (lo * 256 ≤ i * ewBits c) := by
  have hbits : (i + 1) * ewBits c ≤ gsize c * 512 := (Nat.le_div_iff_mul_le (ewBits_pos c)).mp (Nat.lt_of_lt_of_le hi hvl)
  have hpos := ewBits_pos c
  have hhi : i * ewBits c / 256 < beatCount (gsize c) := by
    rw [Nat.add_mul] at hbits
    unfold beatCount
    omega
  simp [inBeats, hhi, Nat.le_div_iff_mul_le]

theorem active_lt {c : ReedCore} {mask : Option (Fin 8)} {i : Nat} (h : active c mask i = true) : i < c.vl := by
  simp only [active, Bool.and_eq_true, decide_eq_true_eq] at h
  exact h.1

theorem vecFault_none (c : ReedCore) (fr : Nat) (hvl : c.vl ≤ emax c) : vecFault c fr false false false = none := by
  simp [vecFault, Nat.not_lt.mpr hvl]

/-- A row of the vector field that takes no free value: the reed's core becomes what its operation makes of it. -/
theorem vecRow_next {s t : State} {r : Fin 1024} {iss : Issue} {code : Nat} {f : VField} {g : VecOp} {instr : Fin 1024 → VField → Instr}
    (hexec : ∀ r f s, exec (instr r f) s = whenRunning s (vecStep s r code f)) (hop : vecOp code = some g) (htake : Takes s t r iss 0)
    (hword : VecIs s r code f) (hfree : (g (vecView f iss) t.free f).free = 0) :
    exec (instr r f) s = .next (acted t r 0 iss 0
      ((g (vecView f iss) t.free f).upd (startBeat iss) (beatCount (gsize (vecView f iss))) (reedAt t r.val).core)) := by
  rw [hexec, vecStep_acts htake code f g hword hop, hfree, gsize_vecView]

/-! ### Mask registers (R134) -/

/-- Bit `i` of a register after the bits `sel` chooses below `n` were replaced. -/
theorem foldl_putBits_bit (sel p : Nat → Bool) (m : BitVec 256) (i n : Nat) (hi : i < 256) :
    ((List.range n).foldl (fun acc j => if sel j then putBits acc j 1 (flag (p j)) else acc) m).getLsbD i
      = if i < n ∧ sel i = true then p i else m.getLsbD i := by
  induction n with
  | zero => simp
  | succ n ih =>
    rw [List.range_succ, List.foldl_append]
    simp only [List.foldl_cons, List.foldl_nil]
    by_cases hin : i = n
    · subst hin
      cases hsel : sel i with
      | false => simpa [hsel] using ih
      | true =>
        rw [if_pos rfl, putBits_bit _ _ _ _ _ hi]
        cases p i <;> simp [flag]
    · have hlt : i < n + 1 ↔ i < n := by omega
      simp only [hlt, ← ih]
      split
      · rw [putBits_bit _ _ _ _ _ hi, if_neg (by omega)]
      · rfl

/-- Bit `i` of a mask after the bits of some active elements were replaced. -/
theorem maskWith_bit (c : ReedCore) (f : VField) (lo hi : Nat) (p : Nat → Bool) (m : BitVec 256) (i : Nat) (h : i < 256) :
    (maskWith c f lo hi p m).getLsbD i = if active c f.mask i && inBeats (ewBits c) lo hi i then p i else m.getLsbD i := by
  rw [maskWith, foldl_putBits_bit (fun j => active c f.mask j && inBeats (ewBits c) lo hi j) p m i 256 h]
  simp only [h, true_and]

theorem maskBelow_bit (n i : Nat) (hi : i < 256) : (maskBelow n).getLsbD i = decide (i < n) := by
  rw [maskBelow, BitVec.getLsbD_ofNat, Nat.testBit_two_pow_sub_one]
  simp [hi]

theorem maskSet_mSet (x : ReedCore) (d : Nat) (v : BitVec 256) (bit : Nat → Bool) (h : ∀ i, i < 256 → v.getLsbD i = bit i) :
    MaskSet d x (mSet x d v) bit where
  bits i hi := by rw [mGet_set_same, h i hi]
  others k hk := mGet_set_other x d k v hk
  frame := rfl

/-- A mask register whose every bit keeps its value. -/
theorem maskSet_same (x : ReedCore) (d : Nat) (bit : Nat → Bool) (h : ∀ i, bit i = (mGet x d).getLsbD i) : MaskSet d x x bit where
  bits i _ := (h i).symm
  others _ _ := rfl
  frame := rfl

theorem fieldVcmp_free (srcs : List Nat) (p : ReedCore → Nat → Bool) (c : ReedCore) (fr : Nat) (f : VField)
    (hgroups : ∀ k ∈ srcs, groupOk c k = true) (hvl : c.vl ≤ emax c) : (fieldVcmp srcs p c fr f).free = 0 := by
  have hany : srcs.any (fun k => !groupOk c k) = false := by simpa using hgroups
  simp [fieldVcmp, vecRes, hany, vecFault_none c fr hvl]

/-- Compares and VPARITY between two beats: the bits of the active elements there; with VL = 0 none are (R131). -/
theorem fieldVcmp_set (srcs : List Nat) (p : ReedCore → Nat → Bool) (c : ReedCore) (fr : Nat) (f : VField) (lo hi : Nat) (x : ReedCore) :
    MaskSet (f.d.val % 8) x ((fieldVcmp srcs p c fr f).upd lo hi x)
      (fun i => if active c f.mask i && inBeats (ewBits c) lo hi i then p c i else (mGet x (f.d.val % 8)).getLsbD i) := by
  simp only [fieldVcmp, vecRes]
  split
  · rename_i hzero
    exact maskSet_same _ _ _ fun i => by simp [active, hzero]
  · exact maskSet_mSet _ _ _ _ fun i hi256 => maskWith_bit _ _ _ _ _ _ _ hi256

theorem fieldMask_free (srcs sregs : List Nat) (g : ReedCore → BitVec 256) (c : ReedCore) (fr : Nat) (f : VField) (hvl : c.vl ≤ emax c) :
    (fieldMask srcs sregs g c fr f).free = 0 := by
  simp [fieldMask, vecRes, vecFault_none c fr hvl]

/-- Mask operations: all bits, none with VL = 0 (R131). -/
theorem fieldMask_set (srcs sregs : List Nat) (g : ReedCore → BitVec 256) (c : ReedCore) (fr : Nat) (f : VField) (lo hi : Nat) (x : ReedCore) :
    MaskSet (f.d.val % 8) x ((fieldMask srcs sregs g c fr f).upd lo hi x)
      (fun i => if c.vl ≠ 0 then (g c).getLsbD i else (mGet x (f.d.val % 8)).getLsbD i) := by
  simp only [fieldMask, vecRes]
  split
  · rename_i hzero
    exact maskSet_same _ _ _ fun i => by simp [hzero]
  · exact maskSet_mSet _ _ _ _ fun i _ => by simp

/-- The bits a compare writes in the beats of its whole group are those the row says. -/
theorem maskRow_writes_masked (row : MaskRow) (c : ReedCore) (f : VField) (beat i : Nat) (hmasked : row.masked = true) (hvl : c.vl ≤ emax c) :
    row.writes c f beat i = (active c f.mask i && inBeats (ewBits c) beat (beatCount (gsize c)) i) := by
  cases hact : active c f.mask i with
  | false => simp [MaskRow.writes, hmasked, hact]
  | true => simp [MaskRow.writes, hmasked, hact, inBeats_whole c beat i hvl (active_lt hact)]

/-- A row whose operation is a compare or VPARITY of bits `p`. -/
theorem compareRow_holds {row : MaskRow} (p : VField → ReedCore → Nat → Bool)
    (hexec : ∀ r f s, exec (row.instr r f) s = whenRunning s (vecStep s r row.code f))
    (hop : vecOp row.code = some (fun c fr f => fieldVcmp (row.srcs f) (p f) c fr f)) (hmasked : row.masked = true)
    (hp : ∀ c f i, p f c i = row.bit c f i) : row.Holds := by
  intro s t r f iss c x htake hword hgroups hvl
  refine ⟨_, ?_, vecRow_next hexec hop htake hword (fieldVcmp_free _ _ _ _ _ hgroups hvl)⟩
  simp only [maskRow_writes_masked row c f _ _ hmasked hvl, ← hp]
  exact fieldVcmp_set _ _ _ _ _ _ _ _

/-- A row whose operation writes the whole mask `g`. -/
theorem maskOpRow_holds {row : MaskRow} (srcs sregs : VField → List Nat) (g : VField → ReedCore → BitVec 256)
    (hexec : ∀ r f s, exec (row.instr r f) s = whenRunning s (vecStep s r row.code f))
    (hop : vecOp row.code = some (fun c fr f => fieldMask (srcs f) (sregs f) (g f) c fr f)) (hmasked : row.masked = false)
    (hg : ∀ c f i, i < 256 → (g f c).getLsbD i = row.bit c f i) : row.Holds := by
  intro s t r f iss c x htake hword _ hvl
  refine ⟨_, ?_, vecRow_next hexec hop htake hword (fieldMask_free _ _ _ _ _ _ hvl)⟩
  obtain ⟨hbits, hothers, hframe⟩ := fieldMask_set (srcs f) (sregs f) (g f) c t.free f (startBeat iss) (beatCount (gsize c)) x
  refine ⟨fun i hi => ?_, hothers, hframe⟩
  rw [hbits i hi, hg c f i hi]
  simp [MaskRow.writes, hmasked]

/-! ### The values of the mask rows -/

/-- The model's signed reading of an element is its two's complement (R130). -/
theorem signedOf_eq_toInt (w n : Nat) (hw : 0 < w) (hn : n < 2 ^ w) : signedOf w n = (BitVec.ofNat w n).toInt := by
  have hpow : 2 ^ w = 2 * 2 ^ (w - 1) := by rw [← Nat.pow_succ', Nat.succ_eq_add_one, Nat.sub_add_cancel hw]
  rw [BitVec.toInt_eq_toNat_cond, BitVec.toNat_ofNat, Nat.mod_eq_of_lt hn, signedOf]
  have hhalf : n ≥ 2 ^ (w - 1) ↔ ¬ 2 * n < 2 ^ w := by omega
  simp only [hhalf, ite_not]
  split <;> simp

theorem signedOf_vElem (c : ReedCore) (k : Fin 32) (i : Nat) : signedOf (ewBits c) (vElem c k.val i) = (el c k i).toInt :=
  signedOf_eq_toInt _ _ (ewBits_pos c) (vElem_lt c k.val i)

/-- The count of 1 bits is the number of bits that are set. -/
theorem popcount_eq_length (n x : Nat) : popcount n x = ((List.range n).filter (fun j => x.testBit j)).length := by
  induction n generalizing x with
  | zero => rfl
  | succ n ih =>
    have htail : (List.range n).filter ((fun j => x.testBit j) ∘ Nat.succ) = (List.range n).filter (fun j => (x / 2).testBit j) :=
      List.filter_congr fun j _ => by simp [Nat.testBit_succ]
    rw [popcount, ih, List.range_succ_eq_map, List.filter_cons, List.filter_map, htail]
    have hbit : x % 2 = flag (x.testBit 0) := by
      simp only [flag, Nat.testBit_zero, decide_eq_true_eq]
      split <;> omega
    rw [hbit]
    cases x.testBit 0 <;> simp [flag, Nat.add_comm]

/-- Settles O3: a compare replaces the bits of its active elements, a mask operation all 256. -/
theorem maskRows : Obligations.MaskRows := by
  intro row hrow
  simp only [Rows.maskRows, List.mem_cons, List.not_mem_nil, or_false] at hrow
  rcases hrow with rfl | rfl | rfl | rfl | rfl | rfl | rfl | rfl | rfl
  · exact compareRow_holds (fun f c i => vElem c f.a.val i = vElem c f.b.val i) (fun _ _ _ => rfl) rfl rfl (fun _ _ _ => rfl)
  · exact compareRow_holds (fun f c i => vElem c f.a.val i < vElem c f.b.val i) (fun _ _ _ => rfl) rfl rfl (fun _ _ _ => rfl)
  · exact compareRow_holds (fun f c i => signedOf (ewBits c) (vElem c f.a.val i) < signedOf (ewBits c) (vElem c f.b.val i)) (fun _ _ _ => rfl)
      rfl rfl (fun c f i => by rw [signedOf_vElem, signedOf_vElem])
  · exact compareRow_holds (fun f c i => popcount 64 (vElem c f.a.val i) % 2 = 1) (fun _ _ _ => rfl) rfl rfl
      (fun c f i => by rw [popcount_eq_length])
  · exact maskOpRow_holds (fun _ => []) (fun f => [f.s.val]) (fun f c => maskBelow (sGet c f.s.val).toNat) (fun _ _ _ => rfl) rfl rfl
      (fun c f i hi => maskBelow_bit _ i hi)
  · exact maskOpRow_holds (fun f => [f.a.val, f.b.val]) (fun _ => []) (fun f c => mGet c (f.a.val % 8) &&& mGet c (f.b.val % 8)) (fun _ _ _ => rfl)
      rfl rfl (fun c f i _ => BitVec.getLsbD_and)
  · exact maskOpRow_holds (fun f => [f.a.val, f.b.val]) (fun _ => []) (fun f c => mGet c (f.a.val % 8) ||| mGet c (f.b.val % 8)) (fun _ _ _ => rfl)
      rfl rfl (fun c f i _ => BitVec.getLsbD_or)
  · exact maskOpRow_holds (fun f => [f.a.val, f.b.val]) (fun _ => []) (fun f c => mGet c (f.a.val % 8) ^^^ mGet c (f.b.val % 8)) (fun _ _ _ => rfl)
      rfl rfl (fun c f i _ => BitVec.getLsbD_xor)
  · exact maskOpRow_holds (fun f => [f.a.val]) (fun _ => []) (fun f c => ~~~ mGet c (f.a.val % 8)) (fun _ _ _ => rfl) rfl rfl
      (fun c f i hi => by rw [BitVec.getLsbD_not, decide_eq_true hi, Bool.true_and])

end Sys2Proof.ReedRows

/-! ### The scalar field (R135, R155, R197) -/

namespace Sys2Proof.ReedRows

open Sys2Proof Sys2Proof.Machine Sys2Proof.Safety Sys2Proof.Rows Sys2Proof.Laws

/-- A word that issues leaves the clock of the breath. -/
theorem issueWord_brt (s : State) (r : Nat) (iss : Issue) (w : BitVec 192) : (issueWord s r iss w).brt = s.brt := by
  unfold issueWord
  split <;> rfl

theorem issues_brt {s t : State} {r : Fin 1024} {iss : Issue} (h : Issues s t r iss) : t.brt = s.brt := by
  rw [h.after]
  rcases openWord_cases s r.val with ⟨_, hopen⟩ | hopen | hopen
  · rw [hopen]
  · rw [hopen, issueWord_brt]
  · rw [← h.after, h.issue] at hopen
    simp [h.issued] at hopen

/-- A scalar field of an issued word that has not acted acts on the reed's core, and CSRW then on its windows. -/
theorem scalRow_next {s t : State} {r : Fin 1024} {iss : Issue} {code : Nat} {f : SField} {g : ScalOp} {instr : Fin 1024 → SField → Instr}
    (hexec : ∀ r f s, exec (instr r f) s = whenRunning s (scalStep s r code f)) (hop : scalOp code = some g) (htake : Takes s t r iss 1)
    (hword : ScalIs s r code f) (hfree : (g s.brt.cycle iss.before f).free = 0) :
    exec (instr r f) s = .next (scalAfter r.val (wordNow s r.val) (acted t r 1 iss 0
      ((g s.brt.cycle iss.before f).upd (startBeat iss) (beatCount (gsize iss.before)) (reedAt t r.val).core))) := by
  obtain ⟨hcode, hf⟩ := hword
  have hfield : wordField t r.val iss (wordNow s r.val) 1 = some (g s.brt.cycle iss.before f) := by
    simp [wordField, scalField, hcode, hf, hop, issues_brt htake.toIssues]
  rw [hexec, whenRunning_of _ _ htake.live, scalStep, rowStep_acts htake.toIssues _ _ (by simp [hcode, hf]), actField_acts htake _ _ hfield, hfree,
    (issues_word htake.toIssues).1]

/-- Only CSRW acts outside the registers. -/
theorem scalAfter_other (r : Nat) (w : BitVec 192) (s : State) (h : sopOf w ≠ 0x10) : scalAfter r w s = s := if_neg h

theorem scalarSet_sSet (x : ReedCore) (d : Nat) (v : BitVec 64) : ScalarSet d x (sSet x d v) v where
  zero hd := by simp [sSet, hd]
  value hd := sGet_set_same x d v hd
  others k hk := sGet_set_other x d k v hk
  frame := by
    unfold sSet
    split <;> rfl

/-- A row other than CSRW whose operation sets S[d] to `v`. -/
theorem scalWrite_next {s t : State} {r : Fin 1024} {iss : Issue} {code : Nat} {f : SField} {g : ScalOp} {instr : Fin 1024 → SField → Instr}
    {reads : List Nat} {v : BitVec 64} (hexec : ∀ r f s, exec (instr r f) s = whenRunning s (scalStep s r code f)) (hop : scalOp code = some g)
    (hcode : code ≠ 0x10) (htake : Takes s t r iss 1) (hword : ScalIs s r code f)
    (hg : g s.brt.cycle iss.before f = scalRes reads f.d.val (fun t => sSet t f.d.val v)) :
    exec (instr r f) s = .next (acted t r 1 iss 0 (sSet (reedAt t r.val).core f.d.val v)) := by
  rw [scalRow_next hexec hop htake hword (by rw [hg]; rfl), hg, scalAfter_other _ _ _ (by rw [hword.1]; exact hcode)]
  rfl

/-- A row that gives S[d] the value its table names. -/
theorem scalRow_holds {row : ScalRow} (g : ScalOp) (reads : SField → List Nat)
    (hexec : ∀ r f s, exec (row.instr r f) s = whenRunning s (scalStep s r row.code f)) (hop : scalOp row.code = some g) (hcode : row.code ≠ 0x10)
    (hg : ∀ s c f, g s.brt.cycle c f = scalRes (reads f) f.d.val (fun t => sSet t f.d.val (row.value s c f))) : row.Holds :=
  fun s _ _ f iss htake hword => ⟨_, scalarSet_sSet _ _ _, scalWrite_next hexec hop hcode htake hword (hg s iss.before f)⟩

/-- A row of two sources, whose value the table writes as `h`. -/
theorem scal2_holds {instr : Fin 1024 → SField → Instr} {code : Nat} {h : BitVec 64 → BitVec 64 → BitVec 64} (g : BitVec 64 → BitVec 64 → BitVec 64)
    (hexec : ∀ r f s, exec (instr r f) s = whenRunning s (scalStep s r code f)) (hop : scalOp code = some (fun _ => fieldScal2 g))
    (hcode : code ≠ 0x10) (hg : ∀ x y, g x y = h x y) : (scal2 instr code h).Holds :=
  scalRow_holds _ (fun f => [f.a.val, f.b.val]) hexec hop hcode fun _ c f => by rw [fieldScal2, hg]; rfl

/-! ### The values of the scalar rows -/

theorem shiftLeft_eq_mul (x : BitVec 64) (n : Nat) : x <<< n = BitVec.ofNat 64 (x.toNat * 2 ^ n) :=
  BitVec.eq_of_toNat_eq (by rw [BitVec.toNat_shiftLeft, BitVec.toNat_ofNat, Nat.shiftLeft_eq])

theorem ushiftRight_eq_div (x : BitVec 64) (n : Nat) : x >>> n = BitVec.ofNat 64 (x.toNat / 2 ^ n) := by
  apply BitVec.eq_of_toNat_eq
  rw [BitVec.toNat_ushiftRight, BitVec.toNat_ofNat, Nat.shiftRight_eq_div_pow,
    Nat.mod_eq_of_lt (Nat.lt_of_le_of_lt (Nat.div_le_self _ _) x.isLt)]

theorem sshiftRight_eq_div (x : BitVec 64) (n : Nat) : x.sshiftRight n = BitVec.ofInt 64 (x.toInt / 2 ^ n) := by
  rw [BitVec.sshiftRight, Int.shiftRight_eq_div_pow]
  norm_cast

theorem mul_eq_ofNat (x y : BitVec 64) : x * y = BitVec.ofNat 64 (x.toNat * y.toNat) := rfl

/-- The model's search for a resident page finds one where a frame holds it. -/
theorem findIdx?_isSome {α : Type} (p : α → Bool) (l : List α) : (Machine.findIdx? p l).isSome = l.any p := by
  induction l with
  | nil => rfl
  | cons a l ih => cases h : p a <;> simp [Machine.findIdx?, h, ih]

theorem resident_isSome (c : ReedCore) (page : Nat) : (resident c page).isSome = c.frames.any (fun fr => fr.page = some page) :=
  findIdx?_isSome _ _

/-- CSRR reads what R135's table gives. -/
theorem csrGet_eq (s : State) (c : ReedCore) (i : Nat) : csrGet c s.brt.cycle i = controlValue s c i := by
  have hflag (b : Bool) : flag b % 2 = flag b := by cases b <;> rfl
  have hvcfg : packFields [(0, 2, c.ew), (2, 2, c.log2g)] = c.ew % 4 + 4 * (c.log2g % 4) := by simp [packFields]; omega
  have hwin (p : Nat) (a b : Bool) : packFields [(0, 8, p), (8, 1, flag a), (9, 1, flag b)] = p % 256 + 256 * flag a + 512 * flag b := by
    simp [packFields, hflag]; omega
  unfold csrGet controlValue
  simp only [hvcfg, hwin, resident_isSome, inputPages]
  rfl

/-- The bits of GFPOLY that R135 gives it: POLY in [16:0] and M in [28:24]. -/
theorem gfpolyMask_bit : ∀ i : Fin 64, (0x1F01FFFF : BitVec 64).getLsbD i.val = decide (i.val < 17 ∨ (24 ≤ i.val ∧ i.val < 29)) := by decide

/-- A write of GFPOLY keeps POLY and M. -/
theorem gfpoly_and_mask (x : BitVec 64) : x &&& 0x1F01FFFF = BitVec.ofNat 64 (x.toNat % 2 ^ 17 + 2 ^ 24 * (x.toNat / 2 ^ 24 % 2 ^ 5)) := by
  apply BitVec.eq_of_getLsbD_eq
  intro i hi
  have hpoly : x.toNat % 2 ^ 17 < 2 ^ 24 := Nat.lt_trans (Nat.mod_lt _ (by decide)) (by decide)
  rw [BitVec.getLsbD_and, gfpolyMask_bit ⟨i, hi⟩, BitVec.getLsbD_ofNat, Nat.add_comm, Nat.testBit_two_pow_mul_add _ hpoly]
  by_cases h24 : i < 24
  · have h29 : ¬ 24 ≤ i := by omega
    rw [if_pos h24, Nat.testBit_mod_two_pow]
    simp [h29, hi, BitVec.getLsbD, Bool.and_comm]
  · have h17 : ¬ i < 17 := by omega
    have hM : i - 24 < 5 ↔ i < 29 := by omega
    have hge : 24 ≤ i := by omega
    rw [if_neg h24, Nat.testBit_mod_two_pow, Nat.testBit_div_two_pow, Nat.sub_add_cancel hge]
    simp [h17, hge, hi, hM, BitVec.getLsbD, Bool.and_comm]

/-- The rows that set one scalar register to their table's value. -/
theorem scalarRows_hold : ∀ row ∈ Rows.scalarRows, row.Holds := by
  intro row hrow
  simp only [Rows.scalarRows, List.mem_cons, List.not_mem_nil, or_false] at hrow
  rcases hrow with rfl | rfl | rfl | rfl | rfl | rfl | rfl | rfl | rfl | rfl | rfl | rfl | rfl | rfl
  · exact scal2_holds (fun x y => x + y) (fun _ _ _ => rfl) rfl (by decide) (fun _ _ => rfl)
  · exact scal2_holds (fun x y => x - y) (fun _ _ _ => rfl) rfl (by decide) (fun _ _ => rfl)
  · exact scal2_holds (fun x y => x &&& y) (fun _ _ _ => rfl) rfl (by decide) (fun _ _ => rfl)
  · exact scal2_holds (fun x y => x ||| y) (fun _ _ _ => rfl) rfl (by decide) (fun _ _ => rfl)
  · exact scal2_holds (fun x y => x ^^^ y) (fun _ _ _ => rfl) rfl (by decide) (fun _ _ => rfl)
  · exact scal2_holds (fun x y => x <<< (y.toNat % 64)) (fun _ _ _ => rfl) rfl (by decide) (fun x y => shiftLeft_eq_mul x _)
  · exact scal2_holds (fun x y => x >>> (y.toNat % 64)) (fun _ _ _ => rfl) rfl (by decide) (fun x y => ushiftRight_eq_div x _)
  · exact scal2_holds (fun x y => x.sshiftRight (y.toNat % 64)) (fun _ _ _ => rfl) rfl (by decide) (fun x y => sshiftRight_eq_div x _)
  · exact scal2_holds (fun x y => x * y) (fun _ _ _ => rfl) rfl (by decide) mul_eq_ofNat
  · exact scal2_holds (fun x y => if x = y then 1 else 0) (fun _ _ _ => rfl) rfl (by decide) (fun _ _ => rfl)
  · exact scal2_holds (fun x y => if x.toNat < y.toNat then 1 else 0) (fun _ _ _ => rfl) rfl (by decide) (fun _ _ => rfl)
  · exact scal2_holds (fun x y => if x.toInt < y.toInt then 1 else 0) (fun _ _ _ => rfl) rfl (by decide) (fun _ _ => rfl)
  · exact scalRow_holds opSaddi (fun f => [f.a.val]) (fun _ _ _ => rfl) rfl (by decide) (fun _ _ _ => rfl)
  · exact scalRow_holds opCsrr (fun _ => []) (fun _ _ _ => rfl) rfl (by decide) (fun s c f => by rw [opCsrr, csrGet_eq])

/-! ### SNOP, SLI and CSRW -/

/-- An empty scalar field counts as done (R198). -/
theorem doneOf_scalar_empty (w : BitVec 192) (iss : Issue) (h : sopOf w = 0) : bitOf (doneOf w iss) 1 = true := by
  have hempty : (emptyFields w).testBit 1 = true := by
    have hone (b : Bool) : flag b ≤ 1 := by cases b <;> decide
    have hv := hone (vopOf w = 0)
    rw [Nat.testBit_eq_decide_div_mod_eq]
    simp only [emptyFields, h, flag, decide_true, if_true, decide_eq_true_eq] at hv ⊢
    omega
  unfold doneOf bitOf
  dsimp only
  split <;> simp [Nat.testBit_or, hempty]

/-- SNOP is the empty scalar field: the word issues, and nothing more. -/
theorem snop_next {s t : State} {r : Fin 1024} {f : SField} {iss : Issue} (hissue : Issues s t r iss) (hword : ScalIs s r 0x00 f) :
    exec (.snop r f) s = .next t := by
  show whenRunning s (scalStep s r 0x00 f) = .next t
  rw [whenRunning_of _ _ hissue.live, scalStep, rowStep_acts hissue _ _ (by simp [hword.1, hword.2]),
    actField_once hissue _ (doneOf_scalar_empty _ _ hword.1)]

/-- SLI replaces the half-word `sh` of S[d] (R155). -/
theorem sli_next {s t : State} {r : Fin 1024} {f : SField} {iss : Issue} (htake : Takes s t r iss 1) (hword : ScalIs s r 0x0B f) :
    exec (.sli r f) s = .next (acted t r 1 iss 0
      (sSet (reedAt t r.val).core f.d.val (putBits (sGet iss.before f.d.val) (16 * f.sh.val) 16 f.imm.toNat))) :=
  scalWrite_next (g := opSli) (reads := [f.d.val]) (fun _ _ _ => rfl) rfl (by decide) htake hword rfl

/-- CSRW writes the control register of its index, and may then start a staging. -/
theorem csrw_next {s t : State} {r : Fin 1024} {f : SField} {iss : Issue} (htake : Takes s t r iss 1) (hword : ScalIs s r 0x10 f) :
    exec (.csrw r f) s
      = .next (csrwAfter r.val f (acted t r 1 iss 0 (csrSet (reedAt t r.val).core (csrIndex f) (sGet iss.before f.a.val)))) := by
  rw [scalRow_next (g := opCsrw) (fun _ _ _ => rfl) rfl htake hword rfl, scalAfter, if_pos hword.1, hword.2]
  rfl

/-- Outside the windows CSRW does nothing beyond its register. -/
theorem csrwAfter_other (r : Nat) (f : SField) (s : State) (h : ¬ (8 ≤ csrIndex f ∧ csrIndex f ≤ 11)) : csrwAfter r f s = s := if_neg h

theorem getD_listSet {α : Type} (l : List α) (i : Nat) (a d : α) (h : i < l.length) : (listSet l i a).getD i d = a := by
  induction l generalizing i with
  | nil => simp at h
  | cons b l ih => cases i with
    | zero => rfl
    | succ i => simpa [listSet] using ih i (by simpa using h)

/-- The frame a staging goes to: the other one where a staging is under way, else that used least recently (R147, log 10). -/
def stagingFrame (staging : List Staging) (c : ReedCore) : Nat := match staging with
  | g :: _ => 1 - g.frame
  | [] => oldestFrame c

/-- Staging of a page after the scalar field acted: none where the page is no job page, is resident, or is being staged (R197). -/
theorem startStaging_acted (t : State) (r : Fin 1024) (iss : Issue) (y : ReedCore) (page : Nat) :
    startStaging (acted t r 1 iss 0 y) r.val page
      = if jobPages y ≤ page ∨ y.frames.any (fun fr => fr.page = some page) ∨ (reedAt t r.val).staging.any (fun g => g.page = page)
        then acted t r 1 iss 0 y
        else modReed (acted t r 1 iss 0 y) r.val (fun q => { q with staging := q.staging ++ [⟨page, stagingFrame q.staging y⟩] }) := by
  have hreed : reedAt (acted t r 1 iss 0 y) r.val
      = { reedAt t r.val with core := y, issue := some { iss with done := iss.done ||| 2 ^ 1 } } := reedAt_setReed _ _ _
  unfold startStaging modReed
  simp only [hreed, resident_isSome, Bool.or_eq_true, decide_eq_true_eq, or_assoc]
  rfl

/-- What a write of a window's index changes (R135). -/
theorem csrSet_window (c : ReedCore) (i : Nat) (x : BitVec 64) (hlo : 8 ≤ i) (hhi : i ≤ 11) :
    csrSet c i x = { c with win := listSet c.win (i - 8) (x.toNat % 256) } := by
  unfold csrSet
  simp only [hlo, hhi, and_self, if_true]
  repeat rw [if_neg (by omega)]

/-- The other indices from 4 on are read-only or unused (R135). -/
theorem csrSet_readonly (c : ReedCore) (i : Nat) (x : BitVec 64) (h : (4 ≤ i ∧ i < 8) ∨ 12 ≤ i) : csrSet c i x = c := by
  unfold csrSet
  dsimp only
  repeat rw [if_neg (by omega)]

/-- CSRW of a window stages the page it names (R135, R145, R197). -/
theorem csrwAfter_window (t : State) (r : Fin 1024) (f : SField) (iss : Issue) (x : ReedCore) (page : Nat) (hwin : x.win.length = 4)
    (hlo : 8 ≤ csrIndex f) (hhi : csrIndex f ≤ 11) :
    csrwAfter r.val f (acted t r 1 iss 0 { x with win := listSet x.win (csrIndex f - 8) page })
      = startStaging (acted t r 1 iss 0 { x with win := listSet x.win (csrIndex f - 8) page }) r.val page := by
  have hpage : (listSet x.win (csrIndex f - 8) page).getD (csrIndex f - 8) 0 = page := getD_listSet _ _ _ _ (by omega)
  unfold csrwAfter acted
  rw [if_pos ⟨hlo, hhi⟩, reedAt_setReed, hpage]

/-- CSRW outside the windows: the register alone. -/
theorem csrw_plain {s t : State} {r : Fin 1024} {f : SField} {iss : Issue} {y : ReedCore} (htake : Takes s t r iss 1) (hword : ScalIs s r 0x10 f)
    (h : ¬ (8 ≤ csrIndex f ∧ csrIndex f ≤ 11)) (hy : csrSet (reedAt t r.val).core (csrIndex f) (sGet iss.before f.a.val) = y) :
    exec (.csrw r f) s = .next (acted t r 1 iss 0 y) := by
  rw [csrw_next htake hword, hy, csrwAfter_other _ _ _ h]

/-- Settles O4: the rows of R155's table, SNOP, SLI, and CSRW register by register. -/
theorem scalarRows : Obligations.ScalarRows := by
  refine ⟨scalarRows_hold, ?_⟩
  intro s t r f iss c x n i w
  refine ⟨snop_next, fun htake hword => ?_, fun htake hword => ⟨fun hi => ?_, fun hi => ?_, fun hi => ?_, fun hi => ?_, fun hlo hhi hwin => ?_,
    fun hi => ?_⟩⟩
  · refine ⟨_, _, scalarSet_sSet _ _ _, fun b hb => ?_, sli_next htake hword⟩
    rw [putBits_bit _ _ _ _ _ hb]
    rfl
  · exact csrw_plain htake hword (by omega) (by rw [show csrIndex f = 0 from hi]; rfl)
  · exact csrw_plain htake hword (by omega) (by rw [show csrIndex f = 1 from hi]; rfl)
  · refine csrw_plain htake hword (by omega) ?_
    rw [show csrIndex f = 2 from hi, BitVec.ofNat_toNat, BitVec.setWidth_eq]
    rfl
  · refine csrw_plain htake hword (by omega) ?_
    rw [show csrIndex f = 3 from hi, ← gfpoly_and_mask]
    rfl
  · intro y
    rw [csrw_next htake hword, csrSet_window _ _ _ hlo hhi, csrwAfter_window t r f iss x _ hwin hlo hhi, startStaging_acted]
    rfl
  · exact csrw_plain htake hword (by omega) (csrSet_readonly _ _ _ hi)

end Sys2Proof.ReedRows

/-! ### Bytes and lists -/

namespace Sys2Proof.ReedRows

open Sys2Proof Sys2Proof.Machine Sys2Proof.Safety Sys2Proof.Rows Sys2Proof.Laws

theorem storeRead_eq_map (m : Store 8) (n : Nat) : ∀ a, storeRead m a n = (List.range n).map (fun b => storeGet m (a + b)) := by
  induction n with
  | zero => intro a; rfl
  | succ n ih =>
    intro a
    rw [storeRead, ih, List.range_succ_eq_map, List.map_cons, List.map_map]
    refine congrArg₂ _ rfl (List.map_congr_left fun b _ => ?_)
    simp [Nat.add_assoc, Nat.add_comm 1 b]

/-- A byte of a store after a string was written. -/
theorem storeGet_write (bs : Bytes) : ∀ (m : Store 8) (a i : Nat),
    storeGet (storeWrite m a bs) i = if a ≤ i ∧ i < a + bs.length then bs.getD (i - a) 0 else storeGet m i := by
  induction bs with
  | nil => intro m a i; rw [if_neg (by simp)]; rfl
  | cons b bs ih =>
    intro m a i
    rw [storeWrite, ih, List.length_cons]
    rcases Nat.lt_trichotomy i a with hlt | heq | hgt
    · rw [if_neg (by omega), if_neg (by omega), storeGet_set_other _ _ _ _ (by omega)]
    · subst heq
      rw [if_neg (by omega), if_pos (by omega), storeGet_set_same, Nat.sub_self]
      rfl
    · have hsub : i - a = (i - (a + 1)) + 1 := by omega
      have hin : (a + 1 ≤ i ∧ i < a + 1 + bs.length) ↔ (a ≤ i ∧ i < a + (bs.length + 1)) := by omega
      rw [storeGet_set_other _ _ _ _ (by omega), hsub, List.getD_cons_succ]
      simp only [hin]

theorem length_leBytes (n x : Nat) : (leBytes n x).length = n := by
  induction n generalizing x with
  | zero => rfl
  | succ n ih => rw [leBytes, List.length_cons, ih]

theorem getD_leBytes (n x b : Nat) (h : b < n) : (leBytes n x).getD b 0 = BitVec.ofNat 8 (x / 2 ^ (8 * b)) := by
  induction n generalizing x b with
  | zero => omega
  | succ n ih => cases b with
    | zero => simp [leBytes]
    | succ b =>
      rw [leBytes, List.getD_cons_succ, ih _ _ (by omega), Nat.div_div_eq_div_mul]
      congr 2
      rw [Nat.mul_succ, Nat.add_comm, Nat.pow_add]

theorem leNat_lt (bs : Bytes) : leNat bs < 2 ^ (8 * bs.length) := by
  induction bs with
  | nil => decide
  | cons b bs ih =>
    have hb := b.isLt
    rw [leNat, List.length_cons, Nat.mul_succ, Nat.pow_add]
    omega

/-- Searching for an index and reading there is searching for the element. -/
theorem findIdx?_bind_getElem {α : Type} (p : α → Bool) (l : List α) : (Machine.findIdx? p l).bind (fun i => l[i]?) = l.find? p := by
  induction l with
  | nil => rfl
  | cons a l ih =>
    cases h : p a with
    | true => simp [Machine.findIdx?, h]
    | false =>
      rw [List.find?_cons, h, ← ih]
      cases hl : Machine.findIdx? p l <;> simp [Machine.findIdx?, h, hl]

/-- A change that keeps a view of every element keeps the view of the list. -/
theorem map_listMod {α β : Type} (l : List α) (i : Nat) (f : α → α) (g : α → β) (h : ∀ a, g (f a) = g a) : (listMod l i f).map g = l.map g := by
  induction l generalizing i with
  | nil => rfl
  | cons a l ih => cases i with
    | zero => simp [listMod, h]
    | succ i => simp [listMod, ih]

/-- The first element that passes a test, after a change of it that the test does not see. -/
theorem find?_listMod_same {α : Type} (p : α → Bool) (f : α → α) (h : ∀ a, p (f a) = p a) (l : List α) :
    ∀ i, Machine.findIdx? p l = some i → (listMod l i f).find? p = (l.find? p).map f := by
  induction l with
  | nil => intro i hi; cases hi
  | cons a l ih =>
    intro i hi
    cases hp : p a with
    | true =>
      simp only [Machine.findIdx?, hp, if_true, Option.some.injEq] at hi
      subst hi
      simp [listMod, h, hp]
    | false =>
      simp only [Machine.findIdx?, hp, Bool.false_eq_true, if_false, Option.map_eq_some_iff] at hi
      obtain ⟨j, hj, rfl⟩ := hi
      simp [listMod, hp, ih j hj]

/-- Another test does not see that change. -/
theorem find?_listMod_other {α : Type} (p q : α → Bool) (f : α → α) (h : ∀ a, p a = true → q a = false ∧ q (f a) = false) (l : List α) :
    ∀ i, Machine.findIdx? p l = some i → (listMod l i f).find? q = l.find? q := by
  induction l with
  | nil => intro i hi; cases hi
  | cons a l ih =>
    intro i hi
    cases hp : p a with
    | true =>
      simp only [Machine.findIdx?, hp, if_true, Option.some.injEq] at hi
      subst hi
      simp [listMod, h a hp]
    | false =>
      simp only [Machine.findIdx?, hp, Bool.false_eq_true, if_false, Option.map_eq_some_iff] at hi
      obtain ⟨j, hj, rfl⟩ := hi
      simp [listMod, List.find?_cons, ih j hj]

/-- The offset of a byte among `n` from `a`. -/
theorem find?_range_add (a i n : Nat) : (List.range n).find? (fun b => a + b = i) = if a ≤ i ∧ i < a + n then some (i - a) else none := by
  split
  · rw [List.find?_range_eq_some]
    exact ⟨by simp; omega, by simp; omega, fun j hj => by simp; omega⟩
  · rw [List.find?_range_eq_none]
    intro j hj
    simp
    omega

/-- A byte of a store after a string was written: the string's byte at that offset, or what was there. -/
theorem storeGet_write_find (bs : Bytes) (m : Store 8) (a i : Nat) :
    storeGet (storeWrite m a bs) i
      = (((List.range bs.length).find? (fun b => a + b = i)).map (fun b => bs.getD b 0)).getD (storeGet m i) := by
  rw [storeGet_write, find?_range_add]
  split <;> rfl

/-! ### Addresses and cells (R142, R145) -/

/-- The cell `b` bytes above another in operand memory or in its page. -/
def cellPlus : Cell → Nat → Cell
  | .op off, b => .op (off + b)
  | .page p off, b => .page p (off + b)

/-- The cell of a place, through the windows. -/
def placeCell (c : ReedCore) : Place → Option Cell
  | .op off => some (.op off)
  | .win w off => some (.page (c.win.getD w 0) off)
  | .none => none

theorem cellOf_eq (c : ReedCore) (a : BitVec 64) : cellOf c a = placeCell c (placeOf a) := by
  unfold cellOf placeOf
  dsimp only
  split
  · rfl
  · split <;> rfl

/-- The bytes of an aligned element lie in one place, one after the other. -/
theorem cellOf_add (c : ReedCore) (a : BitVec 64) (n b : Nat) (hn : n = 2 ∨ n = 4 ∨ n = 8) (halign : a.toNat % n = 0) (hplace : a.toNat < 0x18000)
    (hb : b < n) : cellOf c (a + BitVec.ofNat 64 b) = (cellOf c a).map (fun z => cellPlus z b) := by
  have haddr : (a + BitVec.ofNat 64 b).toNat = a.toNat + b := by
    rw [BitVec.toNat_add, BitVec.toNat_ofNat]
    omega
  have hpage : a.toNat % 0x4000 + b < 0x4000 := by rcases hn with rfl | rfl | rfl <;> omega
  unfold cellOf
  rw [haddr]
  by_cases hop : a.toNat < 0x8000
  · have hop' : a.toNat + b < 0x8000 := by omega
    simp [hop, hop', cellPlus]
  · have hop' : ¬ a.toNat + b < 0x8000 := by omega
    have hwin : a.toNat + b < 0x18000 := by omega
    have hdiv : (a.toNat + b - 0x8000) / 0x4000 = (a.toNat - 0x8000) / 0x4000 := by omega
    have hmod : (a.toNat + b - 0x8000) % 0x4000 = (a.toNat - 0x8000) % 0x4000 + b := by omega
    rw [if_neg hop', if_pos hwin, if_neg hop, if_pos hplace, hdiv, hmod]
    rfl

/-- An address that meets no fault lies in memory and is aligned (R166). -/
theorem elemCause_none {c : ReedCore} {store : Bool} {align : Nat} {a : BitVec 64} (h : elemCause c store align a = none) :
    a.toNat < 0x18000 ∧ a.toNat % align = 0 := by
  constructor
  · by_contra hout
    have hop : ¬ a.toNat < 0x8000 := by omega
    have hnone : placeOf a = .none := by simp [placeOf, hop, hout]
    simp [elemCause, hnone] at h
  · by_contra hodd
    simp only [elemCause, ne_eq, hodd, not_false_eq_true, if_true] at h
    exact absurd h (by split_ifs <;> simp)

/-! ### Reads -/

/-- The frame the model finds for a page is the first that holds it. -/
theorem resident_frame (c : ReedCore) (p : Nat) : (resident c p).bind (fun i => c.frames[i]?) = c.frames.find? (fun fr => fr.page = some p) :=
  findIdx?_bind_getElem _ _

theorem frame_of_resident {c : ReedCore} {p : Nat} (h : (resident c p).isSome = true) : ∃ fr, c.frames.find? (fun fr => fr.page = some p) = some fr := by
  rw [resident_isSome, List.any_eq_true] at h
  exact Option.isSome_iff_exists.mp (List.find?_isSome.mpr h)

/-- A read takes the bytes of the cells from that of its address on. -/
theorem readAt_eq_cells (c : ReedCore) (a : BitVec 64) (n : Nat) :
    readAt c a n = (List.range n).map (fun b => ((cellOf c a).map (fun z => cellByte c (cellPlus z b))).getD 0) := by
  have hzeros : zeros n = (List.range n).map (fun _ => 0) := by simp [zeros]
  unfold readAt
  rw [cellOf_eq]
  cases placeOf a with
  | op off => exact storeRead_eq_map _ _ _
  | win w off =>
    have hframe := resident_frame c (c.win.getD w 0)
    simp only [placeCell, Option.map_some, Option.getD_some, cellPlus, cellByte, ← hframe]
    cases resident c (c.win.getD w 0) with
    | none => exact hzeros
    | some i =>
      simp only [Option.bind_some]
      cases c.frames[i]? with
      | none => exact hzeros
      | some fr => exact storeRead_eq_map _ _ _
  | none => exact hzeros

/-- A read that meets no fault takes the bytes at its addresses. -/
theorem readAt_eq_addrByte {c : ReedCore} {store : Bool} {a : BitVec 64} {n : Nat} (hn : n = 2 ∨ n = 4 ∨ n = 8)
    (h : elemCause c store n a = none) : readAt c a n = (List.range n).map (fun b => addrByte c (a + BitVec.ofNat 64 b)) := by
  obtain ⟨hplace, halign⟩ := elemCause_none h
  rw [readAt_eq_cells]
  refine List.map_congr_left fun b hb => ?_
  rw [addrByte, cellOf_add c a n b hn halign hplace (List.mem_range.mp hb), Option.map_map]
  rfl

/-! ### Writes -/

/-- The frames of the core hold the page of an address, where it has one. -/
def PageHeld (c t : ReedCore) (a : BitVec 64) : Prop := ∀ p, pageOf c a = some p → (resident t p).isSome = true

/-- Where a byte string written from cell `z0` puts its bytes. -/
def writtenByte (z0 : Option Cell) (bs : Bytes) (z : Cell) : Option Byte :=
  ((List.range bs.length).find? (fun b => z0.map (fun y => cellPlus y b) = some z)).map (fun b => bs.getD b 0)

theorem writtenByte_op (bs : Bytes) (off i : Nat) :
    writtenByte (some (.op off)) bs (.op i) = ((List.range bs.length).find? (fun b => off + b = i)).map (fun b => bs.getD b 0) := by
  simp [writtenByte, cellPlus]

theorem writtenByte_page (bs : Bytes) (p off i : Nat) :
    writtenByte (some (.page p off)) bs (.page p i) = ((List.range bs.length).find? (fun b => off + b = i)).map (fun b => bs.getD b 0) := by
  simp [writtenByte, cellPlus]

/-- A string reaches no cell of another page, or of another memory. -/
theorem writtenByte_none (z0 : Option Cell) (bs : Bytes) (z : Cell) (h : ∀ y b, z0 = some y → cellPlus y b ≠ z) : writtenByte z0 bs z = none := by
  unfold writtenByte
  rw [List.find?_eq_none.mpr, Option.map_none]
  intro b _
  cases z0 with
  | none => simp
  | some y => simpa using h y b rfl

/-- A cell after a string was written into the frame that holds page `p`. -/
theorem cellByte_frameWrite (t : ReedCore) (p k off : Nat) (bs : Bytes) (z : Cell) (hk : resident t p = some k) :
    cellByte { t with frames := listMod t.frames k (fun fr => { fr with data := storeWrite fr.data off bs, dirty := true }) } z
      = (writtenByte (some (.page p off)) bs z).getD (cellByte t z) := by
  cases z with
  | op i => rw [writtenByte_none _ _ _ (by rintro _ b ⟨⟩; simp [cellPlus])]; rfl
  | page q i =>
    by_cases hq : q = p
    · subst hq
      obtain ⟨fr, hfr⟩ := frame_of_resident (Option.isSome_iff_exists.mpr ⟨k, hk⟩)
      rw [writtenByte_page, cellByte, cellByte, find?_listMod_same _ _ ?_ _ k hk, hfr]
      · exact storeGet_write_find _ _ _ _
      · exact fun _ => rfl
    · rw [writtenByte_none _ _ _ (by rintro _ b ⟨⟩; simp [cellPlus, Ne.symm hq]), cellByte, cellByte,
        find?_listMod_other _ _ _ (fun fr hfr => ?_) _ k hk]
      · rfl
      · simp only [decide_eq_true_eq] at hfr
        simp [hfr, Ne.symm hq]

/-- A cell after a write: the byte written there, or what it held. -/
theorem cellByte_writeAt (c t : ReedCore) (a : BitVec 64) (bs : Bytes) (z : Cell) (hheld : PageHeld c t a) :
    cellByte (writeAt c t a bs) z = (writtenByte (cellOf c a) bs z).getD (cellByte t z) := by
  rw [cellOf_eq]
  unfold PageHeld pageOf at hheld
  unfold writeAt
  cases hplace : placeOf a with
  | none => rw [placeCell, writtenByte_none _ _ _ (by simp)]; rfl
  | op off => cases z with
    | op i => rw [placeCell, writtenByte_op]; exact storeGet_write_find _ _ _ _
    | page q i => rw [placeCell, writtenByte_none _ _ _ (by rintro _ b ⟨⟩; simp [cellPlus])]; rfl
  | win w off =>
    rw [hplace] at hheld
    obtain ⟨k, hk⟩ := Option.isSome_iff_exists.mp (hheld _ rfl)
    dsimp only
    rw [hk]
    exact cellByte_frameWrite t _ k off bs z hk

/-- `z` with the frames of `x`, or with its memories: what a load, or a store, leaves of the rest. -/
def withFramesOf (x z : ReedCore) : ReedCore := { z with frames := x.frames, clock := x.clock }
def withMemoryOf (x z : ReedCore) : ReedCore := { z with frames := x.frames, clock := x.clock, opmem := x.opmem }

/-- A write changes operand memory and the bytes of frames. -/
theorem writeAt_frame (c t : ReedCore) (a : BitVec 64) (bs : Bytes) :
    withMemoryOf t (writeAt c t a bs) = t ∧ (writeAt c t a bs).frames.map Frame.page = t.frames.map Frame.page := by
  unfold writeAt
  split
  · exact ⟨rfl, rfl⟩
  · split
    · exact ⟨rfl, map_listMod _ _ _ _ fun _ => rfl⟩
    · exact ⟨rfl, rfl⟩
  · exact ⟨rfl, rfl⟩

/-! ### Uses of frames (R147) -/

theorem sameFrames_trans {x y z : ReedCore} (hxy : SameFrames x y) (hyz : SameFrames y z) : SameFrames x z := Eq.trans hyz hxy

/-- A use of a frame changes the order of use alone. -/
theorem touch_frame (c t : ReedCore) (a : BitVec 64) : withFramesOf t (touch c t a) = t ∧ SameFrames t (touch c t a) := by
  unfold touch
  split
  · split
    · exact ⟨rfl, map_listMod _ _ _ _ fun _ => rfl⟩
    · exact ⟨rfl, rfl⟩
  · exact ⟨rfl, rfl⟩

/-- Uses of frames after a change of registers alone. -/
theorem sameFrames_after {x z y : ReedCore} (hframes : z.frames = x.frames) (hclock : z.clock = x.clock)
    (huse : withFramesOf z y = z ∧ SameFrames z y) : SameFrames x y ∧ withFramesOf x y = z := by
  obtain ⟨hrest, hsame⟩ := huse
  unfold SameFrames withFramesOf at *
  rw [← hframes, ← hclock]
  exact ⟨hsame, hrest⟩

theorem pages_of_sameFrames {x y : ReedCore} (h : SameFrames x y) : y.frames.map Frame.page = x.frames.map Frame.page := by
  have hpages := congrArg (List.map Prod.fst) h
  simpa [List.map_map, Function.comp_def] using hpages

/-- The order of use says nothing about bytes. -/
theorem cellByte_of_sameFrames {x y : ReedCore} (h : SameFrames x y) (hop : y.opmem = x.opmem) (z : Cell) :
    cellByte y z = cellByte x z := by
  have hview (c : ReedCore) (p off : Nat) : (c.frames.find? (fun fr => fr.page = some p)).map (fun fr => storeGet fr.data off)
      = ((c.frames.map (fun fr => (fr.page, fr.data, fr.dirty))).find? (fun e => e.1 = some p)).map (fun e => storeGet e.2.1 off) := by
    rw [List.find?_map, Option.map_map]
    rfl
  cases z with
  | op off => rw [cellByte, cellByte, hop]
  | page p off => rw [cellByte, cellByte, hview, hview, h]

theorem cellByte_touch (c t : ReedCore) (a : BitVec 64) (z : Cell) : cellByte (touch c t a) z = cellByte t z := by
  obtain ⟨hframe, hsame⟩ := touch_frame c t a
  exact cellByte_of_sameFrames hsame (congrArg ReedCore.opmem hframe :) z

/-- A page is resident where some frame bears its number. -/
theorem resident_iff_mem (c : ReedCore) (p : Nat) : (resident c p).isSome = true ↔ some p ∈ c.frames.map Frame.page := by
  simp [resident_isSome, List.any_eq_true]

/-! ### Loads (R156) -/

/-- Uses of frames by the elements of a load, one after the other. -/
theorem foldl_touch_frame (c : ReedCore) (els : List (Nat × BitVec 64)) (t : ReedCore) : let y := els.foldl (fun t e => touch c t e.2) t
    withFramesOf t y = t ∧ SameFrames t y := by
  induction els generalizing t with
  | nil => exact ⟨rfl, rfl⟩
  | cons e els ih =>
    obtain ⟨hfirst, hsame⟩ := touch_frame c t e.2
    obtain ⟨hrest, hsames⟩ := ih (touch c t e.2)
    exact ⟨(congrArg (withFramesOf t) hrest).trans hfirst, sameFrames_trans hsame hsames⟩

theorem ewBits_eq (c : ReedCore) : ewBits c = 16 ∨ ewBits c = 32 ∨ ewBits c = 64 := by
  have hew : min c.ew 2 = 0 ∨ min c.ew 2 = 1 ∨ min c.ew 2 = 2 := by omega
  unfold ewBits
  rcases hew with h | h | h <;> simp [h]

theorem ewBytes_eq (c : ReedCore) : ewBytes c = 2 ∨ ewBytes c = 4 ∨ ewBytes c = 8 := by
  have hbits := ewBits_eq c
  unfold ewBytes
  omega

theorem ewBytes_mul (c : ReedCore) : 8 * ewBytes c = ewBits c := by
  have hbits := ewBits_eq c
  unfold ewBytes
  omega

/-- The value a load gives the element of an address. -/
def loadedValue (c : ReedCore) (els : List (Nat × BitVec 64)) (i : Nat) : Option Nat :=
  (els.find? (fun e => e.1 = i)).map (fun e => leNat ((List.range (ewBits c / 8)).map (fun b => addrByte c (e.2 + BitVec.ofNat 64 b))))

theorem loadedValue_lt (c : ReedCore) (els : List (Nat × BitVec 64)) (i v : Nat) (h : loadedValue c els i = some v) : v < 2 ^ ewBits c := by
  obtain ⟨e, _, rfl⟩ := Option.map_eq_some_iff.mp h
  refine Nat.lt_of_lt_of_eq (leNat_lt _) ?_
  rw [List.length_map, List.length_range, show ewBits c / 8 = ewBytes c from rfl, ewBytes_mul]

/-- A load of elements that meet no fault: their values from memory, and uses of frames. -/
theorem loadElems_set (c : ReedCore) (v : Nat) (els : List (Nat × BitVec 64)) (x : ReedCore)
    (hfault : ∀ e ∈ els, elemCause c false (ewBits c / 8) e.2 = none) : let y := loadElems c v els x
    SameFrames x y ∧ GroupSet (ewBits c) (gsize c) v x (withFramesOf x y) (loadedValue c els) := by
  have hvalue : (fun i => (els.find? (fun e => e.1 = i)).map (fun e => leNat (readAt c e.2 (ewBytes c)))) = loadedValue c els := by
    funext i
    refine Option.map_congr fun e he => ?_
    rw [readAt_eq_addrByte (ewBytes_eq c) (hfault e (List.mem_of_find?_eq_some he))]
    rfl
  have hgroup := groupWith_set (ewBits c) (gsize c) v (loadedValue c els) x (ewBits_pos c) (ewBits_dvd c) (loadedValue_lt c els)
  obtain ⟨hsame, hrest⟩ := sameFrames_after (z := groupWith (ewBits c) (gsize c) v (loadedValue c els) x)
    (congrArg ReedCore.frames hgroup.frame :) (congrArg ReedCore.clock hgroup.frame :)
    (foldl_touch_frame c els _)
  unfold loadElems
  dsimp only
  rw [hvalue]
  exact ⟨hsame, by rw [hrest]; exact hgroup⟩

/-! ### Stores (R156, R157) -/

/-- One element of a store of `n` bytes: its bytes go to its address, a use of its frame. -/
def storeStep (c : ReedCore) (n : Nat) (value : Nat → Nat) (t : ReedCore) (e : Nat × BitVec 64) : ReedCore :=
  touch c (writeAt c t e.2 (leBytes n (value e.1))) e.2

theorem storeElems_eq_foldl (c : ReedCore) (v : Nat) (els : List (Nat × BitVec 64)) (t : ReedCore) :
    storeElems c v els t = els.foldl (storeStep c (ewBits c / 8) (vElem c v)) t := rfl

/-- The byte one element of a store puts into a cell. -/
def storedByte (c : ReedCore) (n : Nat) (value : Nat → Nat) (e : Nat × BitVec 64) (z : Cell) : Option Byte :=
  ((List.range n).find? (fun b => cellOf c (e.2 + BitVec.ofNat 64 b) = some z)).map (fun b => BitVec.ofNat 8 (value e.1 / 2 ^ (8 * b)))

/-- Of the elements of a store the last that reaches a cell prevails (R157). -/
theorem lastStore_append (c : ReedCore) (n : Nat) (value : Nat → Nat) (els : List (Nat × BitVec 64)) (e : Nat × BitVec 64) (z : Cell) :
    lastStore c n value (els ++ [e]) z = (storedByte c n value e z).or (lastStore c n value els z) := by
  unfold lastStore
  rw [List.reverse_append, List.findSome?_append, List.reverse_singleton, List.findSome?_singleton]
  rfl

/-- An element's bytes, written from the cell of its address on, are those the statement names. -/
theorem writtenByte_leBytes {c : ReedCore} {store : Bool} {n : Nat} (value : Nat → Nat) {e : Nat × BitVec 64} (z : Cell)
    (hn : n = 2 ∨ n = 4 ∨ n = 8) (h : elemCause c store n e.2 = none) :
    writtenByte (cellOf c e.2) (leBytes n (value e.1)) z = storedByte c n value e z := by
  obtain ⟨hplace, halign⟩ := elemCause_none h
  unfold writtenByte storedByte
  rw [length_leBytes]
  have hcells : ∀ b ∈ List.range n, decide ((cellOf c e.2).map (fun y => cellPlus y b) = some z)
      = decide (cellOf c (e.2 + BitVec.ofNat 64 b) = some z) := fun b hb => by
    rw [cellOf_add c e.2 n b hn halign hplace (List.mem_range.mp hb)]
  rw [List.find?_congr hcells]
  exact Option.map_congr fun b hb => getD_leBytes n _ b (List.mem_range.mp (List.mem_of_find?_eq_some hb))

/-- What one element of a store leaves: all but memory, and the pages of the frames. -/
theorem storeStep_frame (c : ReedCore) (n : Nat) (value : Nat → Nat) (t : ReedCore) (e : Nat × BitVec 64) :
    withMemoryOf t (storeStep c n value t e) = t ∧
      (storeStep c n value t e).frames.map Frame.page = t.frames.map Frame.page := by
  obtain ⟨hwrite, hpages⟩ := writeAt_frame c t e.2 (leBytes n (value e.1))
  obtain ⟨htouch, hsame⟩ := touch_frame c (writeAt c t e.2 (leBytes n (value e.1))) e.2
  refine ⟨?_, (pages_of_sameFrames hsame).trans hpages⟩
  exact (congrArg (withMemoryOf t) htouch).trans hwrite

theorem storeStep_byte {c t : ReedCore} {n : Nat} (value : Nat → Nat) {e : Nat × BitVec 64} (z : Cell) (hn : n = 2 ∨ n = 4 ∨ n = 8)
    (hfault : elemCause c true n e.2 = none) (hheld : PageHeld c t e.2) :
    cellByte (storeStep c n value t e) z = (storedByte c n value e z).getD (cellByte t z) := by
  rw [storeStep, cellByte_touch, cellByte_writeAt c t _ _ z hheld, writtenByte_leBytes value z hn hfault]

/-- The elements of a store, in their order. -/
theorem foldl_storeStep (c : ReedCore) (n : Nat) (value : Nat → Nat) (x : ReedCore) (hn : n = 2 ∨ n = 4 ∨ n = 8) (els : List (Nat × BitVec 64))
    (hreach : Reaches c x true n els) : let y := els.foldl (storeStep c n value) x
    withMemoryOf x y = x ∧ y.frames.map Frame.page = x.frames.map Frame.page ∧
      ∀ z, cellByte y z = (lastStore c n value els z).getD (cellByte x z) := by
  induction els using List.reverseRecOn with
  | nil => exact ⟨rfl, rfl, fun _ => rfl⟩
  | append_singleton els e ih =>
    obtain ⟨hframe, hpages, hbytes⟩ := ih fun d hd => hreach d (List.mem_append_left _ hd)
    obtain ⟨hfault, hres⟩ := hreach e (by simp)
    obtain ⟨hstep, hsteps⟩ := storeStep_frame c n value (els.foldl (storeStep c n value) x) e
    have hheld : PageHeld c (els.foldl (storeStep c n value) x) e.2 := fun p hp => by
      rw [resident_iff_mem, hpages, ← resident_iff_mem]
      exact hres p hp
    rw [List.foldl_append, List.foldl_cons, List.foldl_nil]
    refine ⟨?_, hsteps.trans hpages, fun z => ?_⟩
    · exact (congrArg (withMemoryOf x) hstep).trans hframe
    · rw [storeStep_byte value z hn hfault hheld, hbytes, lastStore_append]
      cases storedByte c n value e z <;> rfl

end Sys2Proof.ReedRows

/-! ### The memory field (R156, R157) -/

namespace Sys2Proof.ReedRows

open Sys2Proof Sys2Proof.Machine Sys2Proof.Safety Sys2Proof.Rows Sys2Proof.Laws

/-- KEYRD, RNDRD and MSKRD read more than the reed. -/
theorem memOp_code {n : Nat} {g : MemOp} (h : memOp n = some g) : n ≠ 9 ∧ ¬ (n = 10 ∨ n = 11) := by
  refine ⟨?_, ?_⟩
  · rintro rfl
    cases h
  · rintro (rfl | rfl) <;> cases h

/-- A row of the memory field acts on the reed's core. -/
theorem memRow_next {s t : State} {r : Fin 1024} {iss : Issue} {code : Nat} {f : MField} {g : MemOp} {instr : Fin 1024 → MField → Instr}
    (hexec : ∀ r f s, exec (instr r f) s = whenRunning s (memStep s r code f onlyReed)) (hop : memOp code = some g) (htake : Takes s t r iss 2)
    (hword : MemIs s r code f) (hfree : (g (startBeat iss) (memView f iss) f).free = 0) :
    exec (instr r f) s = .next (acted t r 2 iss 0
      ((g (startBeat iss) (memView f iss) f).upd (startBeat iss) (beatCount (gsize (memView f iss))) (reedAt t r.val).core)) := by
  obtain ⟨hcode, hf⟩ := hword
  obtain ⟨hkey, hrandom⟩ := memOp_code hop
  have hfield : wordField t r.val iss (wordNow s r.val) 2 = some (g (startBeat iss) (memView f iss) f) := by
    simp only [wordField, memField, hcode, hf, hop, if_neg hkey, if_neg hrandom]
    rfl
  rw [hexec, whenRunning_of _ _ htake.live, memStep, rowStep_acts htake.toIssues _ _ (by simp [hcode, hf]), actField_acts htake _ _ hfield, hfree,
    gsize_memView]
  rfl

/-- The elements of a strided load or store from beat `lo` to the group's end are those the row names. -/
theorem strideEls_eq (row : MemRow) (c : ReedCore) (f : MField) (lo : Nat) (hindex : row.index = false) (hvl : c.vl ≤ emax c) :
    (((List.range c.vl).filter (active c f.mask)).map (fun i => (i, strideAddr c f row.stride i))).filter
      (fun e => inBeats (ewBits c) lo (beatCount (gsize c)) e.1) = row.els c f lo := by
  have hsel : ∀ i ∈ List.range c.vl, (inBeats (ewBits c) lo (beatCount (gsize c)) i && active c f.mask i)
      = (active c f.mask i && decide (lo * 256 ≤ i * ewBits c)) := fun i hi => by
    rw [inBeats_whole c lo i hvl (List.mem_range.mp hi), Bool.and_comm]
  simp only [MemRow.els, hindex, Bool.false_eq_true, if_false, List.filter_map, List.filter_filter, Function.comp_def]
  rw [List.filter_congr hsel]
  rfl

/-- The elements of a gather or scatter are those the row names. -/
theorem indexEls_eq (row : MemRow) (c : ReedCore) (f : MField) (lo : Nat) (hindex : row.index = true) :
    (((List.range 16).map (fun k => 16 * f.seg.val + k)).filter (active c f.mask)).map (fun i => (i, indexAddr c f i)) = row.els c f lo := by
  rw [MemRow.els, if_pos hindex]
  rfl

/-- With VL = 0 there is no active element (R131). -/
theorem els_nil (row : MemRow) (c : ReedCore) (f : MField) (lo : Nat) (h : c.vl = 0) : row.els c f lo = [] := by
  have hidle (i : Nat) : active c f.mask i = false := by simp [active, h]
  unfold MemRow.els
  split
  · simp [hidle]
  · simp [h]

/-- What the operation of a row does to the core being made: nothing with VL = 0, else `move` on the row's elements. -/
def MovesBy (row : MemRow) (g : MemOp) (move : ReedCore → Nat → List (Nat × BitVec 64) → ReedCore → ReedCore) : Prop :=
  ∀ c f lo x, c.vl ≤ emax c → (g lo c f).free = 0 ∧
    (g lo c f).upd lo (beatCount (gsize c)) x = if c.vl = 0 then x else move c f.v.val (row.els c f lo) x

theorem strideRow_moves (row : MemRow) (hindex : row.index = false) :
    MovesBy row (fun lo c => fieldMemStride row.store row.stride c lo) (if row.store then storeElems else loadElems) := by
  intro c f lo x hvl
  refine ⟨rfl, ?_⟩
  simp only [fieldMemStride, memRes, strideEls_eq row c f lo hindex hvl]
  cases row.store <;> rfl

theorem indexRow_moves (row : MemRow) (hindex : row.index = true) :
    MovesBy row (fun _ => fieldMemIndex row.store) (if row.store then storeElems else loadElems) := by
  intro c f lo x _
  refine ⟨rfl, ?_⟩
  simp only [fieldMemIndex, memRes, indexEls_eq row c f lo hindex]
  cases row.store <;> rfl

/-- A row whose operation loads its elements. -/
theorem loadRow_holds {row : MemRow} {g : MemOp} (hexec : ∀ r f s, exec (row.instr r f) s = whenRunning s (memStep s r row.code f onlyReed))
    (hop : memOp row.code = some g) (hmove : MovesBy row g loadElems) : row.Loads := by
  intro s t r f iss c x els htake hword _ hvl hreach
  obtain ⟨hfree, hupd⟩ := hmove c f (startBeat iss) x hvl
  refine ⟨_, memRow_next hexec hop htake hword hfree, ?_⟩
  rw [hupd]
  split
  · rename_i hzero
    have hels : els = [] := els_nil row c f _ hzero
    rw [hels]
    exact ⟨rfl, fun _ _ => rfl, fun _ _ => rfl, rfl⟩
  · exact loadElems_set c f.v.val els x fun e he => (hreach e he).1

/-- A row whose operation stores its elements. -/
theorem storeRow_holds {row : MemRow} {g : MemOp} (hexec : ∀ r f s, exec (row.instr r f) s = whenRunning s (memStep s r row.code f onlyReed))
    (hop : memOp row.code = some g) (hmove : MovesBy row g storeElems) : row.Stores := by
  intro s t r f iss c x els htake hword _ hvl hreach
  obtain ⟨hfree, hupd⟩ := hmove c f (startBeat iss) x hvl
  refine ⟨_, memRow_next hexec hop htake hword hfree, ?_⟩
  rw [hupd]
  split
  · rename_i hzero
    have hels : els = [] := els_nil row c f _ hzero
    rw [hels]
    exact ⟨rfl, rfl, fun _ => rfl⟩
  · rw [storeElems_eq_foldl]
    exact foldl_storeStep c (ewBits c / 8) (vElem c f.v.val) x (ewBytes_eq c) els hreach

/-- VLD, VLDS and VGATHER. -/
theorem loadRows_hold : ∀ row ∈ loadRows, row.Loads := by
  intro row hrow
  simp only [loadRows, List.mem_cons, List.not_mem_nil, or_false] at hrow
  rcases hrow with rfl | rfl | rfl
  · exact loadRow_holds (fun _ _ _ => rfl) rfl (strideRow_moves _ rfl)
  · exact loadRow_holds (fun _ _ _ => rfl) rfl (strideRow_moves _ rfl)
  · exact loadRow_holds (fun _ _ _ => rfl) rfl (indexRow_moves _ rfl)

/-- VST, VSTS and VSCATTER. -/
theorem storeRows_hold : ∀ row ∈ storeRows, row.Stores := by
  intro row hrow
  simp only [storeRows, List.mem_cons, List.not_mem_nil, or_false] at hrow
  rcases hrow with rfl | rfl | rfl
  · exact storeRow_holds (fun _ _ _ => rfl) rfl (strideRow_moves _ rfl)
  · exact storeRow_holds (fun _ _ _ => rfl) rfl (strideRow_moves _ rfl)
  · exact storeRow_holds (fun _ _ _ => rfl) rfl (indexRow_moves _ rfl)

/-! ### SLD and SST -/

/-- The model's address of SLD and SST is R156's. -/
theorem scalarAddr_eq (c : ReedCore) (f : MField) : scalarAddr c f = wordAddress c f := by
  unfold scalarAddr wordAddress
  rw [Int.mul_comm, BitVec.ofInt_mul]
  rfl

/-- SLD sets its scalar register from memory. -/
theorem sld_set (c x : ReedCore) (f : MField) (lo hi : Nat) (hvl : c.vl ≠ 0) (hfault : elemCause c false 8 (wordAddress c f) = none) :
    let y := (fieldMemScalar false c f).upd lo hi x
    SameFrames x y ∧ ScalarSet f.t.val x (withFramesOf x y)
      (BitVec.ofNat 64 (leNat ((List.range 8).map (fun b => addrByte c (wordAddress c f + BitVec.ofNat 64 b))))) := by
  simp only [fieldMemScalar, memRes, if_neg hvl, scalarAddr_eq, readAt_eq_addrByte (.inr (.inr rfl)) hfault]
  generalize BitVec.ofNat 64 _ = v
  have hset := scalarSet_sSet x f.t.val v
  obtain ⟨hsame, hrest⟩ := sameFrames_after (z := sSet x f.t.val v) (congrArg ReedCore.frames hset.frame :)
    (congrArg ReedCore.clock hset.frame :) (touch_frame c _ (wordAddress c f))
  exact ⟨hsame, hrest.symm ▸ hset⟩

/-- SST is a store of one element of 8 bytes. -/
theorem sst_upd (c x : ReedCore) (f : MField) (lo hi : Nat) (hvl : c.vl ≠ 0) :
    (fieldMemScalar true c f).upd lo hi x = [(0, wordAddress c f)].foldl (storeStep c 8 (fun _ => (sGet c f.t.val).toNat)) x := by
  simp only [fieldMemScalar, memRes, if_neg hvl, scalarAddr_eq]
  rfl

theorem fieldMemScalar_idle (store : Bool) (c x : ReedCore) (f : MField) (lo hi : Nat) (hvl : c.vl = 0) :
    (fieldMemScalar store c f).upd lo hi x = x := by
  simp only [fieldMemScalar, memRes, if_pos hvl]

/-- Settles O6: the rows by the elements they move, SLD and SST by their one word. -/
theorem memoryRows : Obligations.MemoryRows := by
  refine ⟨loadRows_hold, storeRows_hold, ?_⟩
  intro s t r f iss c x a htake _
  have hsld (hword : MemIs s r 7 f) := memRow_next (instr := .sld) (fun _ _ _ => rfl) rfl htake hword rfl
  have hsst (hword : MemIs s r 8 f) := memRow_next (instr := .sst) (fun _ _ _ => rfl) rfl htake hword rfl
  refine ⟨fun hword hvl hreach => ⟨_, hsld hword, ?_⟩, fun hword hvl hreach => ⟨_, hsst hword, ?_⟩, fun hvl => ⟨fun hword => ?_, fun hword => ?_⟩⟩
  · exact sld_set c x f _ _ hvl (hreach (0, a) (List.mem_singleton_self _)).1
  · have hupd := sst_upd c x f (startBeat iss) (beatCount (gsize c)) hvl
    simp only [opSst]
    rw [hupd]
    exact foldl_storeStep c 8 _ x (.inr (.inr rfl)) _ hreach
  · rw [hsld hword]
    exact congrArg (fun y => Host.Outcome.next (acted t r 2 iss 0 y)) (fieldMemScalar_idle false c x f _ _ hvl)
  · rw [hsst hword]
    exact congrArg (fun y => Host.Outcome.next (acted t r 2 iss 0 y)) (fieldMemScalar_idle true c x f _ _ hvl)

end Sys2Proof.ReedRows

/-! What every command keeps, gathered over the dispatch: the invariant and the queue, and but for four commands the clock of the breath
(R26, R27, R31). -/

namespace Sys2Proof.StepRows

open Sys2Proof Sys2Proof.Machine Sys2Proof.Safety Sys2Proof.Rows Sys2Proof.Laws

/-- A command that is none of the four that move the breath keeps the invariant, the queue and the breath's phase. -/
theorem exec_keeps {Q : Keep} (c : Instr) (s : State) (hs : Kept Q s) (hc : movesBreath c = false) : OutInv Q (exec c s) := by
  cases c with
  | inhale | exhale | breathSyncPulse | powerOnReset => cases hc
  | jobRelease => exact execJobRelease_inv s hs
  | ladderRungAdvance j => exact execLadderRungAdvance_inv j s hs
  | budgetExceeded j => exact execBudgetExceeded_inv j s hs
  | nonLadderComplete => exact execNonLadderComplete_inv s hs
  | abortComplete j => exact execAbortComplete_inv j s hs
  | fenceReadComplete g ok => exact execFenceReadComplete_inv g ok s hs
  | bellCollect c parity => exact execBellCollect_inv c parity s hs
  | clockStepApply => exact execClockStepApply_inv s hs
  | powerDown => exact execPowerDown_inv s hs
  | bootChecksComplete memOk => exact execBootChecksComplete_inv memOk s hs
  | modeChange => exact execModeChange_inv s hs
  | quiesceBegin => exact execQuiesceBegin_inv s hs
  | quiesceExtentTimeout e => exact execQuiesceExtentTimeout_inv e s hs
  | tuneEnter => exact execTuneEnter_inv s hs
  | controlledHaltFlush => exact execControlledHaltFlush_inv s hs
  | haltedEnter => exact execHaltedEnter_inv s hs
  | haltVecArm p vector => exact execHaltVecArm_inv p vector s hs
  | haltVecDisarm p => exact execHaltVecDisarm_inv p s hs
  | brtCountLowRead p => exact execBrtCountLowRead_inv p s hs
  | registerWrite a wide v => exact execRegisterWrite_inv a wide v s hs
  | belStatusRead p => exact execBelStatusRead_inv p s hs
  | prtPortRead p f => exact execPrtPortRead_inv p f s hs
  | pxtDropsRead p => exact execPxtDropsRead_inv p s hs
  | rngSupplyRead p => exact execRngSupplyRead_inv p s hs
  | rngWaitRead p => exact execRngWaitRead_inv p s hs
  | mprEccRead p => exact execMprEccRead_inv p s hs
  | monAlarmsRead p => exact execMonAlarmsRead_inv p s hs
  | perstNAssert p k => exact execPerstNAssert_inv p k s hs
  | vfFlr p vf => exact execVfFlr_inv p vf s hs
  | atsInvalidate p vf => exact execAtsInvalidate_inv p vf s hs
  | sqTailDoorbell p vf q v => exact execSqTailDoorbell_inv p vf q v s hs
  | cqHeadDoorbell p vf q v => exact execCqHeadDoorbell_inv p vf q v s hs
  | queueEnable p vf q => exact execQueueEnable_inv p vf q s hs
  | queueDisable p vf q => exact execQueueDisable_inv p vf q s hs
  | vfResetRequest p vf => exact execVfResetRequest_inv p vf s hs
  | submissionFetch g bs => exact execSubmissionFetch_inv g bs s hs
  | dmaReadComplete t r => exact execDmaReadComplete_inv t r s hs
  | instanceResetDone ix => exact execInstanceResetDone_inv ix s hs
  | resetDrainCompletions ix => exact execResetDrainCompletions_inv ix s hs
  | adminEnable p => exact execAdminEnable_inv p s hs
  | adminDisable p => exact execAdminDisable_inv p s hs
  | adminErrorClear p => exact execAdminErrorClear_inv p s hs
  | admSqTailWrite p v => exact execAdmSqTailWrite_inv p v s hs
  | admCqHeadWrite p v => exact execAdmCqHeadWrite_inv p v s hs
  | createInstance p => exact execCreateInstance_inv p s hs
  | destroyInstance p => exact execDestroyInstance_inv p s hs
  | resetInstance p => exact execResetInstance_inv p s hs
  | setRate p => exact execSetRate_inv p s hs
  | query p => exact execQuery_inv p s hs
  | chartDelta p => exact execChartDelta_inv p s hs
  | approve c => exact execApprove_inv c s hs
  | importDomain p => exact execImportDomain_inv p s hs
  | enrollOfficer p => exact execEnrollOfficer_inv p s hs
  | fwUpdate c => exact execFwUpdate_inv c s hs
  | fwUpdateFinal c => exact execFwUpdateFinal_inv c s hs
  | configure c => exact execConfigure_inv c s hs
  | snapshot c => exact execSnapshot_inv c s hs
  | snapshotAndClear c => exact execSnapshotAndClear_inv c s hs
  | disable c => exact execDisable_inv c s hs
  | changeExpire id => exact execChangeExpire_inv id s hs
  | createQueue ix => exact execCreateQueue_inv ix s hs
  | destroyQueue ix => exact execDestroyQueue_inv ix s hs
  | createStream ix => exact execCreateStream_inv ix s hs
  | destroyStream ix => exact execDestroyStream_inv ix s hs
  | streamRekey ix => exact execStreamRekey_inv ix s hs
  | loadKey ix => exact execLoadKey_inv ix s hs
  | unloadKey ix => exact execUnloadKey_inv ix s hs
  | unloadKeyFree ix h => exact execUnloadKeyFree_inv ix h s hs
  | exportContext ix => exact execExportContext_inv ix s hs
  | importContext ix => exact execImportContext_inv ix s hs
  | queryInstance ix => exact execQueryInstance_inv ix s hs
  | keygen j => exact execKeygen_inv j s hs
  | encaps j => exact execEncaps_inv j s hs
  | decaps j => exact execDecaps_inv j s hs
  | sign j => exact execSign_inv j s hs
  | verify j => exact execVerify_inv j s hs
  | agree j => exact execAgree_inv j s hs
  | treeBuild j => exact execTreeBuild_inv j s hs
  | loadCurve j => exact execLoadCurve_inv j s hs
  | routineJob j => exact execRoutineJob_inv j s hs
  | cipherEncrypt j => exact execCipherEncrypt_inv j s hs
  | cipherDecrypt j => exact execCipherDecrypt_inv j s hs
  | cipherDiscard j => exact execCipherDiscard_inv j s hs
  | cipherSliceDone j parity => exact execCipherSliceDone_inv j parity s hs
  | randomBytes j => exact execRandomBytes_inv j s hs
  | randomKeygen j => exact execRandomKeygen_inv j s hs
  | randomWaitTimeout j => exact execRandomWaitTimeout_inv j s hs
  | cancel j => exact execCancel_inv j s hs
  | chartDeltaApply => exact execChartDeltaApply_inv s hs
  | fullChartApply => exact execFullChartApply_inv s hs
  | displacedJobMove j => exact execDisplacedJobMove_inv j s hs
  | clusterControlStoreLoad c => exact execClusterControlStoreLoad_inv c s hs
  | routineLoad c rid => exact execRoutineLoad_inv c rid s hs
  | routineWordsFree c rid => exact execRoutineWordsFree_inv c rid s hs
  | pipeRegroup p => exact execPipeRegroup_inv p s hs
  | pipeMute p => exact execPipeMute_inv p s hs
  | vnop r f => exact execVnop_inv r f s hs
  | vadd r f => exact execVadd_inv r f s hs
  | vsub r f => exact execVsub_inv r f s hs
  | vand r f => exact execVand_inv r f s hs
  | vor r f => exact execVor_inv r f s hs
  | vxor r f => exact execVxor_inv r f s hs
  | vandn r f => exact execVandn_inv r f s hs
  | vsll r f => exact execVsll_inv r f s hs
  | vsrl r f => exact execVsrl_inv r f s hs
  | vsra r f => exact execVsra_inv r f s hs
  | vrotl r f => exact execVrotl_inv r f s hs
  | vmullo r f => exact execVmullo_inv r f s hs
  | vmulhi r f => exact execVmulhi_inv r f s hs
  | vmov r f => exact execVmov_inv r f s hs
  | vbcast r f => exact execVbcast_inv r f s hs
  | vext r f => exact execVext_inv r f s hs
  | vcmpeq r f => exact execVcmpeq_inv r f s hs
  | vcmpltu r f => exact execVcmpltu_inv r f s hs
  | vcmplt r f => exact execVcmplt_inv r f s hs
  | vparity r f => exact execVparity_inv r f s hs
  | vmma r f => exact execVmma_inv r f s hs
  | vmadd r f => exact execVmadd_inv r f s hs
  | vmsub r f => exact execVmsub_inv r f s hs
  | vmred r f => exact execVmred_inv r f s hs
  | vbfly r f => exact execVbfly_inv r f s hs
  | vibfly r f => exact execVibfly_inv r f s hs
  | vbflyi r f => exact execVbflyi_inv r f s hs
  | vibflyi r f => exact execVibflyi_inv r f s hs
  | vbrev r f => exact execVbrev_inv r f s hs
  | vperm r f => exact execVperm_inv r f s hs
  | vslideup r f => exact execVslideup_inv r f s hs
  | vslidedn r f => exact execVslidedn_inv r f s hs
  | vcbd r f => exact execVcbd_inv r f s hs
  | vrej r f => exact execVrej_inv r f s hs
  | vcomp r f => exact execVcomp_inv r f s hs
  | vdecomp r f => exact execVdecomp_inv r f s hs
  | vpack r f => exact execVpack_inv r f s hs
  | vunpack r f => exact execVunpack_inv r f s hs
  | vgfmul r f => exact execVgfmul_inv r f s hs
  | vclmullo r f => exact execVclmullo_inv r f s hs
  | vclmulhi r f => exact execVclmulhi_inv r f s hs
  | vbtr8 r f => exact execVbtr8_inv r f s hs
  | msetlt r f => exact execMsetlt_inv r f s hs
  | mand r f => exact execMand_inv r f s hs
  | mor r f => exact execMor_inv r f s hs
  | mxor r f => exact execMxor_inv r f s hs
  | mnot r f => exact execMnot_inv r f s hs
  | mpopc r f => exact execMpopc_inv r f s hs
  | mfirst r f => exact execMfirst_inv r f s hs
  | snop r f => exact execSnop_inv r f s hs
  | sadd r f => exact execSadd_inv r f s hs
  | ssub r f => exact execSsub_inv r f s hs
  | sand r f => exact execSand_inv r f s hs
  | sor r f => exact execSor_inv r f s hs
  | sxor r f => exact execSxor_inv r f s hs
  | ssll r f => exact execSsll_inv r f s hs
  | ssrl r f => exact execSsrl_inv r f s hs
  | ssra r f => exact execSsra_inv r f s hs
  | smul r f => exact execSmul_inv r f s hs
  | saddi r f => exact execSaddi_inv r f s hs
  | sli r f => exact execSli_inv r f s hs
  | scmpeq r f => exact execScmpeq_inv r f s hs
  | scmpltu r f => exact execScmpltu_inv r f s hs
  | scmplt r f => exact execScmplt_inv r f s hs
  | csrr r f => exact execCsrr_inv r f s hs
  | csrw r f => exact execCsrw_inv r f s hs
  | vld r f parity => exact execVld_inv r f parity s hs
  | vst r f => exact execVst_inv r f s hs
  | vlds r f => exact execVlds_inv r f s hs
  | vsts r f => exact execVsts_inv r f s hs
  | vgather r f => exact execVgather_inv r f s hs
  | vscatter r f => exact execVscatter_inv r f s hs
  | sld r f => exact execSld_inv r f s hs
  | sst r f => exact execSst_inv r f s hs
  | keyrd r f => exact execKeyrd_inv r f s hs
  | rndrd r f => exact execRndrd_inv r f s hs
  | mskrd r f => exact execMskrd_inv r f s hs
  | bkeccak r f => exact execBkeccak_inv r f s hs
  | bsha256 r f => exact execBsha256_inv r f s hs
  | bsha512 r f => exact execBsha512_inv r f s hs
  | brecv r f parity => exact execBrecv_inv r f parity s hs
  | bellowsResultReady r => exact execBellowsResultReady_inv r s hs
  | mput r f => exact execMput_inv r f s hs
  | mget r f => exact execMget_inv r f s hs
  | mrun r f => exact execMrun_inv r f s hs
  | setmod c => exact execSetmod_inv c s hs
  | mmul c => exact execMmul_inv c s hs
  | madd c => exact execMadd_inv c s hs
  | msub c => exact execMsub_inv c s hs
  | mexp c => exact execMexp_inv c s hs
  | mexps c => exact execMexps_inv c s hs
  | minv c => exact execMinv_inv c s hs
  | curve c => exact execCurve_inv c s hs
  | smulg c => exact execSmulg_inv c s hs
  | mauSmul c => exact execMauSmul_inv c s hs
  | oncurve c => exact execOncurve_inv c s hs
  | padd c => exact execPadd_inv c s hs
  | mr c => exact execMr_inv c s hs
  | checkcurve c => exact execCheckcurve_inv c s hs
  | wipe c => exact execWipe_inv c s hs
  | mauOperationDone c parity => exact execMauOperationDone_inv c parity s hs
  | inc r f ev => exact execInc_inv r f ev s hs
  | jump r f => exact execJump_inv r f s hs
  | branch r f => exact execBranch_inv r f s hs
  | call r f => exact execCall_inv r f s hs
  | ret r f => exact execRet_inv r f s hs
  | tret r f => exact execTret_inv r f s hs
  | waiti r f => exact execWaiti_inv r f s hs
  | endJob r ev => exact execEndJob_inv r ev s hs
  | lcSetImmediate r f => exact execLcSetImmediate_inv r f s hs
  | lcSetScalar r f => exact execLcSetScalar_inv r f s hs
  | lcClear r f => exact execLcClear_inv r f s hs
  | windowStageDone r => exact execWindowStageDone_inv r s hs
  | debugRelease r => exact execDebugRelease_inv r s hs
  | controlStoreReloadDone c block => exact execControlStoreReloadDone_inv c block s hs
  | jobReplayStart j => exact execJobReplayStart_inv j s hs
  | leafReserve k => exact execLeafReserve_inv k s hs
  | counterReserve sid => exact execCounterReserve_inv sid s hs
  | serialReserve => exact execSerialReserve_inv s hs
  | journalWriteDone ok => exact execJournalWriteDone_inv ok s hs
  | journalCompact => exact execJournalCompact_inv s hs
  | putBegin m => exact execPutBegin_inv m s hs
  | putData m => exact execPutData_inv m s hs
  | putEnd m => exact execPutEnd_inv m s hs
  | getReq m => exact execGetReq_inv m s hs
  | getData m => exact execGetData_inv m s hs
  | ack m => exact execAck_inv m s hs
  | nak m => exact execNak_inv m s hs
  | credit m => exact execCredit_inv m s hs
  | flush m => exact execFlush_inv m s hs
  | keepalive m => exact execKeepalive_inv m s hs
  | streamCacheLoadDone sid => exact execStreamCacheLoadDone_inv sid s hs
  | recordAdmit e ix parity => exact execRecordAdmit_inv e ix parity s hs
  | echoResult x ix strip good => exact execEchoResult_inv x ix strip good s hs
  | reseal x ix strip => exact execReseal_inv x ix strip s hs
  | recordSend e parity => exact execRecordSend_inv e parity s hs
  | extentClose e => exact execExtentClose_inv e s hs
  | manifestSend e => exact execManifestSend_inv e s hs
  | putIdleTimeout e => exact execPutIdleTimeout_inv e s hs
  | auditCheck => exact execAuditCheck_inv s hs
  | transitEpochAdvance sid => exact execTransitEpochAdvance_inv sid s hs
  | retransmitTimeout o => exact execRetransmitTimeout_inv o s hs
  | keepaliveSend n => exact execKeepaliveSend_inv n s hs
  | peerSilenceTimeout n => exact execPeerSilenceTimeout_inv n s hs
  | prevTableDrop => exact execPrevTableDrop_inv s hs
  | ethernetFrameReceive f => exact execEthernetFrameReceive_inv f s hs
  | pfcXoffReceive p prio quanta => exact execPfcXoffReceive_inv p prio quanta s hs
  | pfcXonSend p => exact execPfcXonSend_inv p s hs
  | linkUp l width speed => exact execLinkUp_inv l width speed s hs
  | linkDown l => exact execLinkDown_inv l s hs
  | sakInstall p an op => exact execSakInstall_inv p an op s hs
  | eapolReceive p dst bs => exact execEapolReceive_inv p dst bs s hs
  | migrationEntryStart entry => exact execMigrationEntryStart_inv entry s hs
  | tamperEvent t => exact execTamperEvent_inv t s hs
  | tamperClear mask => exact execTamperClear_inv mask s hs
  | wchGo p => exact execWchGo_inv p s hs
  | wchWithdraw p => exact execWchWithdraw_inv p s hs
  | escrowExport p => exact execEscrowExport_inv p s hs
  | escrowImport p => exact execEscrowImport_inv p s hs
  | grantClear p => exact execGrantClear_inv p s hs
  | attestSigned c => exact execAttestSigned_inv c s hs
  | attestShared c => exact execAttestShared_inv c s hs
  | attestCheck c => exact execAttestCheck_inv c s hs
  | rngReady => exact execRngReady_inv s hs
  | rngStartupTimeout => exact execRngStartupTimeout_inv s hs
  | rngHealthFail cell => exact execRngHealthFail_inv cell s hs
  | drbgReseed ix => exact execDrbgReseed_inv ix s hs
  | drbgStretchLimit ix => exact execDrbgStretchLimit_inv ix s hs
  | mgmtRngTimeout k => exact execMgmtRngTimeout_inv k s hs
  | dgpInit a c v => exact execDgpInit_inv a c v s hs
  | dgpFinal a c => exact execDgpFinal_inv a c s hs
  | dgpFinalDone c => exact execDgpFinalDone_inv c s hs
  | dgpClaim p c => exact execDgpClaim_inv p c s hs
  | dgpRelease a c => exact execDgpRelease_inv a c s hs
  | dgpData a c v => exact execDgpData_inv a c v s hs
  | dgpData8 a c v => exact execDgpData8_inv a c v s hs
  | dgpBlockAbsorbed c => exact execDgpBlockAbsorbed_inv c s hs
  | ddrReadComplete addr ev => exact execDdrReadComplete_inv addr ev s hs
  | ddrLineWrite addr off bs ev => exact execDdrLineWrite_inv addr off bs ev s hs
  | keyGenerationRoll r => exact execKeyGenerationRoll_inv r s hs
  | sweepPage r ev => exact execSweepPage_inv r ev s hs
  | patrolScrub ev => exact execPatrolScrub_inv ev s hs
  | jtagTestUnlock token => exact execJtagTestUnlock_inv token s hs
  | jtagRelock => exact execJtagRelock_inv s hs
  | jtagRenotteAuthorisation target sig => exact execJtagRenotteAuthorisation_inv target sig s hs
  | lcsGo p => exact execLcsGo_inv p s hs
  | lcsWithdraw p => exact execLcsWithdraw_inv p s hs
  | lcTransition c => exact execLcTransition_inv c s hs
  | domainFound c => exact execDomainFound_inv c s hs
  | domainAdmit c => exact execDomainAdmit_inv c s hs
  | domainRotate c => exact execDomainRotate_inv c s hs
  | successorExport c => exact execSuccessorExport_inv c s hs
  | rewrap c => exact execRewrap_inv c s hs
  | twinEnrol c => exact execTwinEnrol_inv c s hs
  | debugGrant c => exact execDebugGrant_inv c s hs
  | migrate c => exact execMigrate_inv c s hs
  | migrateStop c => exact execMigrateStop_inv c s hs
  | twinLinkTrain h => exact execTwinLinkTrain_inv h s hs
  | heartbeat t => exact execHeartbeat_inv t s hs
  | align t => exact execAlign_inv t s hs
  | domain t => exact execDomain_inv t s hs
  | chart t => exact execChart_inv t s hs
  | instanceRec t => exact execInstanceRec_inv t s hs
  | stream t => exact execStream_inv t s hs
  | slot t => exact execSlot_inv t s hs
  | reserve t => exact execReserve_inv t s hs
  | snapshotEnd t => exact execSnapshotEnd_inv t s hs
  | twinRecordResend => exact execTwinRecordResend_inv s hs
  | twinLinkLost => exact execTwinLinkLost_inv s hs
  | twinAliveEdge => exact execTwinAliveEdge_inv s hs
  | partnerAliveTimeout => exact execPartnerAliveTimeout_inv s hs
  | twinHaltIn => exact execTwinHaltIn_inv s hs
  | takeover => exact execTakeover_inv s hs
  | getStatus => exact execGetStatus_inv s hs
  | readSensors => exact execReadSensors_inv s hs
  | readLog from_ => exact execReadLog_inv from_ s hs
  | modeRequestRecover => exact execModeRequestRecover_inv s hs
  | modeRequestService => exact execModeRequestService_inv s hs
  | modeRequestTune req => exact execModeRequestTune_inv req s hs
  | modeRequestHalted eid => exact execModeRequestHalted_inv eid s hs
  | queryChange idx => exact execQueryChange_inv idx s hs
  | setTime ms => exact execSetTime_inv ms s hs
  | setCak data => exact execSetCak_inv data s hs
  | setEndpointId eid => exact execSetEndpointId_inv eid s hs
  | pldmRequestUpdate => exact execPldmRequestUpdate_inv s hs
  | fwSessionTimeout => exact execFwSessionTimeout_inv s hs
  | sensorSample r => exact execSensorSample_inv r s hs
  | voltageFault m => exact execVoltageFault_inv m s hs
  | thermalComparator halt => exact execThermalComparator_inv halt s hs
  | watchdogExpire => exact execWatchdogExpire_inv s hs
  | monitorWindowEnd c => exact execMonitorWindowEnd_inv c s hs
  | sysRstNAssert => exact execSysRstNAssert_inv s hs
  | pfcPauseTimeExpire p prio => exact execPfcPauseTimeExpire_inv p prio s hs
  | msixVectorUnmask p vf v => exact execMsixVectorUnmask_inv p vf v s hs
  | atsTranslationComplete x access => exact execAtsTranslationComplete_inv x access s hs
  | twinHaltInRelease => exact execTwinHaltInRelease_inv s hs
  | vfEnableSet x => exact execVfEnableSet_inv x s hs
  | d3hotTransition p vf d3 => exact execD3hotTransition_inv p vf d3 s hs

/-- Every command keeps the invariant and the queue; the breath may have moved. -/
theorem exec_keeps_any {Q : Keep} (c : Instr) (s : State) (hs : Kept Q s) : OutAny Q (exec c s) := by
  cases hc : movesBreath c with
  | false => exact fun t ht => ⟨_, exec_keeps c s hs hc t ht⟩
  | true =>
    cases c with
    | inhale => exact execInhale_inv s hs
    | exhale => exact execExhale_inv s hs
    | breathSyncPulse => exact execBreathSyncPulse_inv s hs
    | powerOnReset b => exact execPowerOnReset_inv b s hs
    | _ => cases hc

/-- The invariant says nothing of the queue. -/
theorem blockInv_pending {s : State} (h : BlockInv s) (l : List Instr) : BlockInv { s with pending := l } := ⟨h.clock, h.mem, h.wait, h.shape⟩

/-- Settles O19: a step is a tick or a command on the queue's rest, and each keeps the invariant. -/
theorem everyStepKeepsInvariant : Obligations.EveryStepKeepsInvariant := by
  intro s t h hstep
  unfold step at hstep
  split at hstep
  case h_1 =>
    obtain ⟨_, hk⟩ := idleTick_inv s (kept_of_inv h)
    cases hstep
    exact hk.inv
  case h_2 c rest _ =>
    obtain ⟨_, hk⟩ := exec_keeps_any c _ (kept_of_inv (blockInv_pending h rest)) t hstep
    exact hk.inv

/-- Settles O20: what a command keeps beside the invariant, with the state's own queue and phase as the values kept. -/
theorem queueAndBreathKept : Obligations.QueueAndBreathKept := by
  intro c s t h ht
  obtain ⟨_, hk⟩ := exec_keeps_any c s (kept_of_inv h) t ht
  exact ⟨hk.queue, fun hc => (exec_keeps c s (kept_of_inv h) hc t ht).clock.phase⟩

/-- Settles O15: a step runs the front of the queue. -/
theorem frontOfTheQueue : Obligations.FrontOfTheQueue := fun _ _ _ => rfl

/-- A change of every record of a table. -/
theorem tblGet_map {α : Type} (t : Tbl α) (f : α → α) (k : Nat) : tblGet (t.map (fun e => (e.1, f e.2))) k = (tblGet t k).map f := by
  induction t with
  | nil => rfl
  | cons e rest ih =>
    obtain ⟨j, v⟩ := e
    simp only [List.map_cons, tblGet]
    split
    · rfl
    · exact ih

/-- The cycles before the phase's last are those below the bound at which a tick does nothing. -/
theorem idleTick_of {s : State} (h : isRunning s = true) (hc : s.brt.cycle < 2 ^ s.brt.log2Len - (if s.brt.exhale then 1 else 257)) :
    idleTick s = passCycles s 1 := by
  unfold idleTick breathLen
  cases hx : s.brt.exhale <;> simp_all

theorem idleTick_stays {s : State} (h : isRunning s = false ∨ 2 ^ s.brt.log2Len - (if s.brt.exhale then 1 else 257) ≤ s.brt.cycle) :
    idleTick s = s := by
  unfold idleTick breathLen
  rcases h with h | h
  · simp [h]
  · cases hx : s.brt.exhale <;> simp_all

/-- Settles O16: a tick is one cycle passed for the clock, the buckets and the MAUs. -/
theorem emptyQueueTicks : Obligations.EmptyQueueTicks := by
  intro s hq last
  have hstep : step s = .next (idleTick s) := by
    unfold step
    rw [hq]
  rw [hstep]
  refine ⟨fun hrun hc => ⟨passCycles s 1, by rw [idleTick_of hrun hc], rfl, fun i => ?_, fun c => ?_, rfl⟩, fun h => by rw [idleTick_stays h]⟩
  · refine (tblGet_map _ (bucketEarn s 1) _).trans (congrArg (Option.map · _) (funext fun x => ?_))
    simp only [bucketEarn, portRate, cycleTime, Nat.mul_one]
    rfl
  · refine (tblGet_map _ (fun k : Cluster => { k with mau := { k.mau with left := if s.brt.exhale then k.mau.left else k.mau.left - 1 } }) _).trans
      (congrArg (Option.map · _) (funext fun k => ?_))
    cases s.brt.exhale <;> rfl

/-- Settles O17: the reset state's clock stands at cycle 0 of a breath of 2^12 cycles, its tables are empty, no chart waits. -/
theorem invariantAtReset : Obligations.InvariantAtReset where
  clock := ⟨⟨by decide, by decide⟩, nofun, by decide, nofun, by decide, by decide⟩
  mem := ⟨rfl, nofun, rfl, rfl⟩
  wait := nofun
  shape := ⟨rfl, rfl, rfl, rfl⟩

end Sys2Proof.StepRows

/-! The rows of the vector field (R130 to R133, R136, R137, R150 to R154, R169): each shared form of an operation has one lemma, and a table's
row is that lemma with the row's own value. -/

/-! ### Element-wise rows -/

namespace Sys2Proof.VectorRows

open Sys2Proof Sys2Proof.Machine Sys2Proof.Safety Sys2Proof.Rows Sys2Proof.Laws Sys2Proof.ReedRows

/-- Of what a mask leaves of a result, the beats of a whole group keep the elements from the first of them on (R131, R138). -/
theorem beatResult_whole (c : ReedCore) (f : VField) (lo : Nat) (g : Nat → Nat) (hvl : c.vl ≤ emax c) :
    beatResult (ewBits c) lo (beatCount (gsize c)) (elemResult c f g) = fromBeat (ewBits c) lo (underMask c f g) := by
  funext i
  show (if inBeats _ _ _ i then underMask c f g i else none) = if lo * 256 ≤ i * ewBits c then underMask c f g i else none
  by_cases hi : i < c.vl
  · simp [inBeats_whole c lo i hvl hi]
  · have hnone : underMask c f g i = none := by simp [underMask, active, hi]
    simp [hnone]

theorem vecMap_free {c : ReedCore} {fr : Nat} {f : VField} {cls : FieldClass} {srcs sregs : List Nat} {free : Nat} {g : Nat → Nat}
    (hd : groupOk c f.d.val = true) (hsrcs : ∀ k ∈ srcs, groupOk c k = true) (hvl : c.vl ≤ emax c) :
    (vecMap c fr f cls srcs sregs false false false free g).free = free := by
  have hany : srcs.any (fun k => !groupOk c k) = false := by simpa using hsrcs
  simp [vecMap, vecRes, hd, hany, vecFault_none c fr hvl]

/-- A vector row that may take free values: the reed's core becomes what its operation makes of it. -/
theorem vecRow_acts {s t : State} {r : Fin 1024} {iss : Issue} {code : Nat} {f : VField} {g : VecOp} {instr : Fin 1024 → VField → Instr}
    (hexec : ∀ r f s, exec (instr r f) s = whenRunning s (vecStep s r code f)) (hop : vecOp code = some g) (htake : Takes s t r iss 0)
    (hword : VecIs s r code f) :
    exec (instr r f) s = .next (acted t r 0 iss (g (vecView f iss) t.free f).free
      ((g (vecView f iss) t.free f).upd (startBeat iss) (beatCount (gsize (vecView f iss))) (reedAt t r.val).core)) := by
  rw [hexec, vecStep_acts htake code f g hword hop, gsize_vecView]

/-- A row whose operation has the shared form, with the row's own values, where its operands are in range. -/
theorem elemRow_holds {row : ElemRow} (op : VecOp) (cls : FieldClass) (sregs : VField → List Nat)
    (hexec : ∀ r f s, exec (row.instr r f) s = whenRunning s (vecStep s r row.code f)) (hop : vecOp row.code = some op)
    (hcls : restarts cls = row.restarting) (hfirst : ∀ c f, row.first c f = 0)
    (hmap : ∀ c fr f, row.ok c f = true → op c fr f = vecMap c fr f cls (row.srcs f) (sregs f) false false false (row.free c f) (row.value fr c f))
    (hval : ∀ c fr f i, row.ok c f = true → row.value fr c f i < 2 ^ ewBits c) : row.Holds := by
  intro s t r f iss c htake hword hd hsrcs hvl hok
  have hact := vecRow_acts hexec hop htake hword
  rw [hmap _ _ _ hok, vecMap_free hd hsrcs hvl] at hact
  refine ⟨_, ?_, hact⟩
  have hset := vecMap_set c t.free f cls (row.srcs f) (sregs f) false false false (row.free c f) _ (fun i => hval c t.free f i hok) (startBeat iss)
    (beatCount (gsize c)) (reedAt t r.val).core
  rw [beatResult_whole c f _ _ hvl, hcls] at hset
  simpa only [hfirst, Nat.not_lt_zero, false_and, if_false, beatOf, c] using hset

/-! ### The values of the integer rows -/

theorem el_toNat (c : ReedCore) (k : Fin 32) (i : Nat) : (el c k i).toNat = vElem c k.val i := by
  rw [el, BitVec.toNat_ofNat, Nat.mod_eq_of_lt (vElem_lt _ _ _)]

/-- A row of two sources whose value the table writes as `g` on words of the element width. -/
theorem row2_holds {instr : Fin 1024 → VField → Instr} {code : Nat} {g : {w : Nat} → BitVec w → BitVec w → BitVec w} (h : Nat → Nat → Nat → Nat)
    (hexec : ∀ r f s, exec (instr r f) s = whenRunning s (vecStep s r code f)) (hop : vecOp code = some (fieldVec2 h))
    (hg : ∀ (w : Nat) (x y : BitVec w), h w x.toNat y.toNat = (g x y).toNat) : (row2 instr code g).Holds := by
  refine elemRow_holds _ .beats (fun _ => []) hexec hop rfl (fun _ _ => rfl) (fun c fr f _ => ?_) (fun _ _ _ _ _ => BitVec.isLt _)
  unfold fieldVec2
  congr 1
  funext i
  rw [← el_toNat, ← el_toNat, hg]
  rfl

/-- A shift row whose value the table writes as `g`. -/
theorem rowShift_holds {instr : Fin 1024 → VField → Instr} {code : Nat} {g : {w : Nat} → BitVec w → Nat → BitVec w} (h : Nat → Nat → Nat → Nat)
    (hexec : ∀ r f s, exec (instr r f) s = whenRunning s (vecStep s r code f)) (hop : vecOp code = some (fieldVecShift h))
    (hg : ∀ (w n : Nat) (x : BitVec w), n < w → h w x.toNat n = (g x n).toNat) : (rowShift instr code g).Holds := by
  refine elemRow_holds _ .beats (fun f => if f.ssel then [f.s.val] else []) hexec hop rfl (fun _ _ => rfl) (fun c fr f _ => ?_)
    (fun _ _ _ _ _ => BitVec.isLt _)
  unfold fieldVecShift
  congr 1
  funext i
  rw [← el_toNat, shiftAmount, hg _ _ _ (Nat.mod_lt _ (ewBits_pos c))]
  rfl

theorem sraNat_eq (w n : Nat) (x : BitVec w) (h : n < w) : sraNat w x.toNat n = (x.sshiftRight n).toNat := by
  have hs : signedOf w x.toNat = x.toInt := by
    rw [signedOf_eq_toInt w _ (by omega) x.isLt, BitVec.ofNat_toNat, BitVec.setWidth_eq]
  rw [sraNat, hs, BitVec.sshiftRight, BitVec.toNat_ofInt, Int.shiftRight_eq_div_pow]
  rfl

theorem rotlNat_eq (w n : Nat) (x : BitVec w) (h : n < w) : rotlNat w x.toNat n = (x.rotateLeft n).toNat := by
  have hlow : x.toNat >>> (w - n) < 2 ^ n := by
    rw [Nat.shiftRight_eq_div_pow]
    exact Nat.div_lt_of_lt_mul (by rw [← Nat.pow_add, Nat.sub_add_cancel h.le]; exact x.isLt)
  rw [BitVec.toNat_rotateLeft, Nat.mod_eq_of_lt h, rotlNat, ← Nat.shiftLeft_eq, ← Nat.shiftRight_eq_div_pow,
    Nat.shiftLeft_add_eq_or_of_lt hlow, Nat.or_mod_two_pow,
    Nat.mod_eq_of_lt (Nat.lt_of_lt_of_le hlow (Nat.pow_le_pow_right (by decide) h.le))]

theorem vandn_eq (w : Nat) (x y : BitVec w) : x.toNat &&& (2 ^ w - 1 - y.toNat) = (x &&& ~~~ y).toNat := by
  rw [BitVec.toNat_and, BitVec.toNat_not]

theorem vsub_eq (w : Nat) (x y : BitVec w) : (x.toNat + 2 ^ w - y.toNat) % 2 ^ w = (x - y).toNat := by
  have := y.isLt
  rw [BitVec.toNat_sub]
  congr 1
  omega

theorem integerRows_hold : ∀ row ∈ integerRows, row.Holds := by
  intro row hrow
  simp only [integerRows, List.mem_cons, List.not_mem_nil, or_false] at hrow
  rcases hrow with rfl | rfl | rfl | rfl | rfl | rfl | rfl | rfl | rfl | rfl | rfl | rfl | rfl | rfl
  · exact row2_holds (fun w a b => (a + b) % 2 ^ w) (fun _ _ _ => rfl) rfl (fun _ _ _ => rfl)
  · exact row2_holds (fun w a b => (a + 2 ^ w - b) % 2 ^ w) (fun _ _ _ => rfl) rfl vsub_eq
  · exact row2_holds (fun _ a b => a &&& b) (fun _ _ _ => rfl) rfl (fun _ x y => (BitVec.toNat_and x y).symm)
  · exact row2_holds (fun _ a b => a ||| b) (fun _ _ _ => rfl) rfl (fun _ x y => (BitVec.toNat_or x y).symm)
  · exact row2_holds (fun _ a b => a ^^^ b) (fun _ _ _ => rfl) rfl (fun _ x y => (BitVec.toNat_xor x y).symm)
  · exact row2_holds (fun w a b => a &&& (2 ^ w - 1 - b)) (fun _ _ _ => rfl) rfl vandn_eq
  · exact row2_holds (fun w a b => a * b % 2 ^ w) (fun _ _ _ => rfl) rfl (fun _ x y => (BitVec.toNat_mul x y).symm)
  · exact elemRow_holds opVmulhi .beats (fun _ => []) (fun _ _ _ => rfl) rfl rfl (fun _ _ => rfl) (fun _ _ _ _ => rfl) (fun c _ f i _ =>
      Nat.div_lt_of_lt_mul (Nat.mul_lt_mul'' (vElem_lt c _ i) (vElem_lt c _ i)))
  · exact rowShift_holds (fun w x n => x * 2 ^ n % 2 ^ w) (fun _ _ _ => rfl) rfl (fun w n x _ => by
      rw [BitVec.toNat_shiftLeft, Nat.shiftLeft_eq])
  · exact rowShift_holds (fun _ x n => x / 2 ^ n) (fun _ _ _ => rfl) rfl (fun w n x _ => by
      rw [BitVec.toNat_ushiftRight, Nat.shiftRight_eq_div_pow])
  · exact rowShift_holds sraNat (fun _ _ _ => rfl) rfl sraNat_eq
  · exact rowShift_holds rotlNat (fun _ _ _ => rfl) rfl rotlNat_eq
  · exact elemRow_holds opVmov .beats (fun _ => []) (fun _ _ _ => rfl) rfl rfl (fun _ _ => rfl) (fun _ _ _ _ => rfl) (fun c _ f i _ => vElem_lt c _ i)
  · exact elemRow_holds fieldVbcast .beats (fun f => [f.s.val]) (fun _ _ _ => rfl) rfl rfl (fun _ _ => rfl) (fun _ _ _ _ => rfl)
      (fun c _ f i _ => Nat.mod_lt _ (Nat.pow_pos (by decide)))

/-! ### Rows modulo QMOD -/

/-- What a modulus in range gives (R136): it is positive and fits an element. -/
theorem qmodOk_bounds {c : ReedCore} (h : qmodOk c = true) : 0 < c.qmod.toNat ∧ c.qmod.toNat < 2 ^ (ewBits c - 1) := by
  have hpos : 0 < 2 ^ (ewBits c - 1) := Nat.pow_pos (by decide)
  simp only [qmodOk, decide_eq_true_eq] at h
  omega

theorem qmod_lt {c : ReedCore} (h : qmodOk c = true) : c.qmod.toNat < 2 ^ ewBits c :=
  Nat.lt_of_lt_of_le (qmodOk_bounds h).2 (Nat.pow_le_pow_right (by decide) (Nat.sub_le _ _))

theorem mod_qmod_lt {c : ReedCore} (h : qmodOk c = true) (x : Nat) : x % c.qmod.toNat < 2 ^ ewBits c :=
  Nat.lt_trans (Nat.mod_lt _ (qmodOk_bounds h).1) (qmod_lt h)

theorem intMod_toNat_lt (x : Int) {q : Nat} (h : 0 < q) : (x % (q : Int)).toNat < q := by
  have hlt := Int.emod_lt_of_pos x (Int.natCast_pos.mpr h)
  have hge := Int.emod_nonneg x (Int.natCast_ne_zero.mpr h.ne')
  omega

theorem subMod_lt (a b : Nat) {q : Nat} (h : 0 < q) : subMod a b q < q := intMod_toNat_lt _ h

theorem modRow_holds {instr : Fin 1024 → VField → Instr} {code : Nat} {srcs : VField → List Nat} {g : Nat → ReedCore → VField → Nat → Nat}
    (hexec : ∀ r f s, exec (instr r f) s = whenRunning s (vecStep s r code f))
    (hop : vecOp code = some (fun c fr f => fieldVmod (srcs f) (fun q i => g q c f i) c fr f))
    (hg : ∀ q c f i, 0 < q → g q c f i < q) : (modRow instr code srcs g).Holds :=
  elemRow_holds _ .beats (fun _ => []) hexec hop rfl (fun _ _ => rfl)
    (fun c fr f (hok : qmodOk c = true) => by simp only [fieldVmod, hok, Bool.not_true]; rfl)
    (fun c _ f i hok => Nat.lt_trans (hg _ _ _ _ (qmodOk_bounds hok).1) (qmod_lt hok))

/-- The operands VCOMP and VDECOMP take (R150). -/
theorem compress_bounds {c : ReedCore} {f : VField} (h : (qmodOk c && 1 ≤ f.k.toNat && f.k.toNat ≤ 12) = true) :
    qmodOk c = true ∧ 1 ≤ f.k.toNat ∧ f.k.toNat ≤ 12 := by
  simpa only [Bool.and_eq_true, decide_eq_true_eq, and_assoc] using h

theorem fieldVcompress_inRange (g : Nat → Nat → Nat → Nat) (c : ReedCore) (fr : Nat) (f : VField)
    (h : (qmodOk c && 1 ≤ f.k.toNat && f.k.toNat ≤ 12) = true) :
    fieldVcompress g c fr f = vecMap c fr f .beats [f.a.val] [] false false false 0 (fun i => g c.qmod.toNat f.k.toNat (vElem c f.a.val i)) := by
  obtain ⟨hq, hlo, hhi⟩ := compress_bounds h
  have hk : decide (f.k.toNat < 1 ∨ f.k.toNat > 12) = false := by
    rw [decide_eq_false_iff_not]
    omega
  simp only [fieldVcompress, hq, hk, Bool.not_true]

theorem compressNat_lt (q k x : Nat) : compressNat q k x < 2 ^ k := Nat.mod_lt _ (Nat.pow_pos (by decide))

theorem decompressNat_le (q k y : Nat) (hk : 1 ≤ k) : decompressNat q k y ≤ q := by
  have hpow : 2 ^ k = 2 * 2 ^ (k - 1) := by rw [← Nat.pow_succ', Nat.succ_eq_add_one, Nat.sub_add_cancel hk]
  have hpos : 0 < 2 ^ k := Nat.pow_pos (by decide)
  have hy : q * (y % 2 ^ k) ≤ q * 2 ^ k := Nat.mul_le_mul_left q (Nat.mod_lt _ hpos).le
  unfold decompressNat
  have hlt : q * (y % 2 ^ k) + 2 ^ (k - 1) < 2 ^ k * (q + 1) := by
    rw [Nat.mul_succ, Nat.mul_comm (2 ^ k) q]
    omega
  exact Nat.le_of_lt_succ (Nat.div_lt_of_lt_mul hlt)

theorem ewBits_ge (c : ReedCore) : 16 ≤ ewBits c := Nat.le_mul_of_pos_right _ (Nat.pow_pos (by decide))

theorem modularRows_hold : ∀ row ∈ modularRows, row.Holds := by
  intro row hrow
  simp only [modularRows, List.mem_cons, List.not_mem_nil, or_false] at hrow
  rcases hrow with rfl | rfl | rfl | rfl | rfl | rfl
  · exact modRow_holds (fun _ _ _ => rfl) rfl (fun _ _ _ _ hq => Nat.mod_lt _ hq)
  · exact modRow_holds (fun _ _ _ => rfl) rfl (fun _ _ _ _ hq => Nat.mod_lt _ hq)
  · exact modRow_holds (fun _ _ _ => rfl) rfl (fun _ _ _ _ hq => subMod_lt _ _ hq)
  · exact modRow_holds (fun _ _ _ => rfl) rfl (fun _ _ _ _ hq => Nat.mod_lt _ hq)
  · exact elemRow_holds opVcomp .beats (fun _ => []) (fun _ _ _ => rfl) rfl rfl (fun _ _ => rfl) (fieldVcompress_inRange compressNat)
      (fun c _ f i hok => Nat.lt_of_lt_of_le (compressNat_lt _ _ _)
        (Nat.pow_le_pow_right (by decide) ((compress_bounds hok).2.2.trans (Nat.le_trans (by decide) (ewBits_ge c)))))
  · exact elemRow_holds opVdecomp .beats (fun _ => []) (fun _ _ _ => rfl) rfl rfl (fun _ _ => rfl) (fieldVcompress_inRange decompressNat)
      (fun c _ f i hok => Nat.lt_of_le_of_lt (decompressNat_le _ _ _ (compress_bounds hok).2.1) (qmod_lt (compress_bounds hok).1))

end Sys2Proof.VectorRows

/-! ### Numbers bit by bit, and polynomials over GF(2) -/

namespace Sys2Proof.VectorRows

open Sys2Proof Sys2Proof.Machine Sys2Proof.Safety Sys2Proof.Rows Sys2Proof.Laws Sys2Proof.ReedRows

theorem foldl_add_eq_sum (g : Nat → Nat) (l : List Nat) : l.foldl (fun acc j => acc + g j) 0 = (l.map g).sum := by
  rw [List.sum_eq_foldl, List.foldl_map]

/-- The number whose bits below `n` are those of `b`. -/
theorem bits_sum (b : Nat → Bool) (n : Nat) :
    ((List.range n).map (fun j => flag (b j) * 2 ^ j)).sum < 2 ^ n ∧
      ∀ i, (((List.range n).map (fun j => flag (b j) * 2 ^ j)).sum).testBit i = (decide (i < n) && b i) := by
  induction n with
  | zero => simp
  | succ n ih =>
    obtain ⟨hlt, hbit⟩ := ih
    rw [List.range_succ, List.map_append, List.sum_append, List.map_singleton, List.sum_singleton, Nat.add_comm, Nat.mul_comm]
    refine ⟨?_, fun i => ?_⟩
    · have hflag : flag (b n) ≤ 1 := by cases b n <;> decide
      have := Nat.mul_le_mul_left (2 ^ n) hflag
      rw [Nat.pow_succ]
      omega
    · rw [Nat.testBit_two_pow_mul_add _ hlt, hbit]
      by_cases hi : i < n
      · simp [hi, Nat.lt_succ_of_lt hi]
      · rw [if_neg hi]
        by_cases hin : i = n
        · subst hin
          cases b i <;> simp [flag]
        · have h1 : ¬ i < n + 1 := by omega
          have h2 : i - n ≠ 0 := by omega
          have h3 : flag (b n) < 2 ^ (i - n) := Nat.lt_of_lt_of_le (show flag (b n) < 2 ^ 1 by cases b n <;> decide)
            (Nat.pow_le_pow_right (by decide) (by omega))
          simp [h1, Nat.testBit_lt_two_pow h3]

/-- Two numbers below 2^n with the same bits. -/
theorem eq_bits_sum {x n : Nat} (hx : x < 2 ^ n) (b : Nat → Bool) (h : ∀ i, i < n → x.testBit i = b i) :
    x = ((List.range n).map (fun j => flag (b j) * 2 ^ j)).sum := by
  apply Nat.eq_of_testBit_eq
  intro i
  rw [(bits_sum b n).2]
  by_cases hi : i < n
  · simp [hi, h i hi]
  · simp [hi, Nat.testBit_lt_two_pow (Nat.lt_of_lt_of_le hx (Nat.pow_le_pow_right (by decide) (Nat.le_of_not_lt hi)))]

/-- A bit of a carry-less product is the parity of the products of bits that sum to its place. -/
theorem clmul_testBit (n a b i : Nat) :
    (clmul n a b).testBit i = decide (((List.range n).filter (fun j => j ≤ i && b.testBit j && a.testBit (i - j))).length % 2 = 1) := by
  unfold clmul
  induction n with
  | zero => simp
  | succ n ih =>
    rw [List.range_succ, List.foldl_append, List.filter_append, List.length_append]
    simp only [List.foldl_cons, List.foldl_nil, List.filter_cons, List.filter_nil]
    cases hb : b.testBit n
    · simpa using ih
    · simp only [if_true, Nat.testBit_xor, ih, Nat.testBit_shiftLeft, ge_iff_le, Bool.and_true]
      cases hab : decide (n ≤ i) && a.testBit (i - n)
      · simp
      · simp only [if_true, List.length_singleton, Bool.xor_true, ← decide_not, decide_eq_decide]
        omega

theorem clmul_lt (n m a b : Nat) (ha : a < 2 ^ m) : clmul n a b < 2 ^ (m + n) := by
  apply Nat.lt_pow_two_of_testBit
  intro i hi
  rw [clmul_testBit, decide_eq_false_iff_not]
  have hnone : (List.range n).filter (fun j => j ≤ i && b.testBit j && a.testBit (i - j)) = [] := by
    rw [List.filter_eq_nil_iff]
    intro j hj
    rw [List.mem_range] at hj
    simp [Nat.testBit_lt_two_pow (Nat.lt_of_lt_of_le ha (Nat.pow_le_pow_right (by decide) (show m ≤ i - j by omega)))]
  simp [hnone]

/-- On 64-bit elements the model's product is the carry-less product (R150). -/
theorem clmul_eq_carryless (a b : Nat) (ha : a < 2 ^ 64) : clmul 64 a b = carryless a b := by
  refine eq_bits_sum (n := 127) ?_ _ (fun i _ => clmul_testBit 64 a b i)
  apply Nat.lt_pow_two_of_testBit
  intro i hi
  by_cases hi128 : i < 128
  · have hi127 : i = 127 := by omega
    subst hi127
    rw [clmul_testBit, decide_eq_false_iff_not]
    have hnone : (List.range 64).filter (fun j => j ≤ 127 && b.testBit j && a.testBit (127 - j)) = [] := by
      rw [List.filter_eq_nil_iff]
      intro j hj
      rw [List.mem_range] at hj
      simp [Nat.testBit_lt_two_pow (Nat.lt_of_lt_of_le ha (Nat.pow_le_pow_right (by decide) (show 64 ≤ 127 - j by omega)))]
    simp [hnone]
  · exact Nat.testBit_lt_two_pow (Nat.lt_of_lt_of_le (clmul_lt 64 64 a b ha) (Nat.pow_le_pow_right (by decide) (Nat.le_of_not_lt hi128)))

theorem lt_two_pow_of_top_clear {x d : Nat} (hx : x < 2 ^ (d + 1)) (htop : x.testBit d = false) : x < 2 ^ d := by
  apply Nat.lt_pow_two_of_testBit
  intro i hi
  by_cases hid : i = d
  · rw [hid, htop]
  · exact Nat.testBit_lt_two_pow (Nat.lt_of_lt_of_le hx (Nat.pow_le_pow_right (by decide) (by omega)))

/-- Reduction from the top clears one bit of the polynomial after the other, down to the degree. -/
theorem polyMod_lt (n m p x : Nat) (hx : x < 2 ^ n) (hp : p < 2 ^ (m + 1)) (htop : p.testBit m = true) (hm : m ≤ n) : polyMod n m p x < 2 ^ m := by
  have key : ∀ k, k ≤ n → (List.range k).foldl
      (fun acc j => let d := n - 1 - j; if d ≥ m ∧ acc.testBit d then acc ^^^ (p <<< (d - m)) else acc) x < 2 ^ max m (n - k) := by
    intro k hk
    induction k with
    | zero => simpa [Nat.max_eq_right hm] using hx
    | succ k ih =>
      rw [List.range_succ, List.foldl_append]
      simp only [List.foldl_cons, List.foldl_nil]
      generalize hacc : (List.range k).foldl _ x = acc at ih ⊢
      have hlt := ih (by omega)
      by_cases hd : m ≤ n - 1 - k
      · have hmax : max m (n - k) = n - 1 - k + 1 := by omega
        have hmax' : max m (n - (k + 1)) = n - 1 - k := by omega
        rw [hmax] at hlt
        rw [hmax']
        cases hbit : acc.testBit (n - 1 - k)
        · simpa [hd, hbit] using lt_two_pow_of_top_clear hlt hbit
        · simp only [ge_iff_le, hd, and_self, if_true]
          have hshift : p <<< (n - 1 - k - m) < 2 ^ (n - 1 - k + 1) := by
            have : n - 1 - k + 1 = m + 1 + (n - 1 - k - m) := by omega
            rw [Nat.shiftLeft_eq, this, Nat.pow_add 2 (m + 1)]
            exact Nat.mul_lt_mul_of_pos_right hp (Nat.pow_pos (by decide))
          refine lt_two_pow_of_top_clear (Nat.xor_lt_two_pow hlt hshift) ?_
          rw [Nat.testBit_xor, hbit, Nat.testBit_shiftLeft, Nat.sub_sub_self hd, htop]
          simp
      · have hmax : max m (n - k) = m := by omega
        have hmax' : max m (n - (k + 1)) = m := by omega
        rw [hmax] at hlt
        simpa [hd, hmax'] using hlt
  have hend := key n (Nat.le_refl n)
  rwa [Nat.sub_self, Nat.max_zero] at hend

/-- Byte and bit of the transpose change places: j = 8r + c to 8c + r. -/
def swapped (j : Nat) : Nat := 8 * (j % 8) + j / 8

theorem btr8_eq_transposed (x : Nat) : btr8 x = transposed x := by
  have hperm : ((List.range 64).map swapped).Perm (List.range 64) := by decide
  have hback : ∀ j ∈ List.range 64, swapped (swapped j) = j := by decide
  have hsum := (hperm.map (fun j => flag (x.testBit j) * 2 ^ swapped j)).sum_eq
  unfold btr8 transposed
  rw [foldl_add_eq_sum]
  refine Eq.trans (congrArg List.sum (List.map_congr_left fun j hj => ?_)) ((congrArg List.sum (List.map_map ..)).symm.trans hsum)
  rw [Function.comp, hback j hj]
  rfl

theorem btr8_lt (x : Nat) : btr8 x < 2 ^ 64 := by
  unfold btr8
  rw [foldl_add_eq_sum]
  exact (bits_sum _ 64).1

theorem ewBits_le_of_ne {c : ReedCore} (h : ewBits c ≠ 64) : ewBits c ≤ 32 := by
  unfold ewBits at h ⊢
  have hew : min c.ew 2 = 0 ∨ min c.ew 2 = 1 ∨ min c.ew 2 = 2 := by omega
  rcases hew with hew | hew | hew <;> rw [hew] at h ⊢ <;> omega

/-- A product modulo a polynomial R137 allows is an element. -/
theorem gfProduct_lt {c : ReedCore} (hew : ewBits c ≠ 64) (hpoly : gfpolyOk c = true) (a b : Nat) (ha : a < 2 ^ ewBits c) :
    polyMod 64 (gfM c) (gfPolyOf c) (clmul (ewBits c) a b) < 2 ^ ewBits c := by
  simp only [gfpolyOk, decide_eq_true_eq] at hpoly
  obtain ⟨_, hm, htop, hp⟩ := hpoly
  have hle := ewBits_le_of_ne hew
  have hprod : clmul (ewBits c) a b < 2 ^ 64 :=
    Nat.lt_of_lt_of_le (clmul_lt _ _ a b ha) (Nat.pow_le_pow_right (by decide) (by omega))
  exact Nat.lt_of_lt_of_le (polyMod_lt 64 _ _ _ hprod hp htop (by omega)) (Nat.pow_le_pow_right (by decide) (hm.trans (ewBits_ge c)))

/-- The operations on 64-bit elements alone are in range with them. -/
theorem fieldVclmul_low (c : ReedCore) (fr : Nat) (f : VField) (h : ewBits c = 64) :
    fieldVclmul false c fr f
      = vecMap c fr f .beats [f.a.val, f.b.val] [] false false false 0 (fun i => carryless (vElem c f.a.val i) (vElem c f.b.val i) % 2 ^ 64) := by
  have hlt (k i : Nat) : vElem c k i < 2 ^ 64 := h ▸ vElem_lt c k i
  simp only [fieldVclmul, h, ne_eq, not_true_eq_false, decide_false, clmul_eq_carryless _ _ (hlt _ _), Bool.false_eq_true, if_false]

theorem fieldVclmul_high (c : ReedCore) (fr : Nat) (f : VField) (h : ewBits c = 64) :
    fieldVclmul true c fr f
      = vecMap c fr f .beats [f.a.val, f.b.val] [] false false false 0 (fun i => carryless (vElem c f.a.val i) (vElem c f.b.val i) / 2 ^ 64) := by
  have hlt (k i : Nat) : vElem c k i < 2 ^ 64 := h ▸ vElem_lt c k i
  simp only [fieldVclmul, h, ne_eq, not_true_eq_false, decide_false, clmul_eq_carryless _ _ (hlt _ _), if_true]

/-- Bounds on 64-bit values, in the width of elements of 64 bits. -/
theorem lt_of_wide {c : ReedCore} {x : Nat} (h : ewBits c = 64) (hx : x < 2 ^ 64) : x < 2 ^ ewBits c := h.symm ▸ hx

theorem transposed_lt (x : Nat) : transposed x < 2 ^ 64 := btr8_eq_transposed x ▸ btr8_lt x

theorem carryless_high_lt {a b : Nat} (ha : a < 2 ^ 64) : carryless a b / 2 ^ 64 < 2 ^ 64 := by
  rw [← clmul_eq_carryless _ _ ha]
  exact Nat.div_lt_of_lt_mul (clmul_lt 64 64 _ _ ha)

theorem fieldVec1_btr8 (c : ReedCore) (fr : Nat) (f : VField) (h : ewBits c = 64) :
    opVbtr8 c fr f = vecMap c fr f .beats [f.a.val] [] false false false 0 (fun i => transposed (vElem c f.a.val i)) := by
  simp only [opVbtr8, fieldVec1, h, ne_eq, not_true_eq_false, decide_false, btr8_eq_transposed]

theorem fieldVgfmul_inRange (c : ReedCore) (fr : Nat) (f : VField) (hew : ewBits c ≠ 64) (hpoly : gfpolyOk c = true) :
    fieldVgfmul c fr f = vecMap c fr f .beats [f.a.val, f.b.val] [] false false false 0
      (fun i => polyMod 64 (gfM c) (gfPolyOf c) (clmul (ewBits c) (vElem c f.a.val i) (vElem c f.b.val i))) := by
  simp only [fieldVgfmul, hpoly, hew, decide_false, Bool.not_true]

/-- The operands VGFMUL takes (R137). -/
theorem gfmul_bounds {c : ReedCore} (h : (ewBits c ≠ 64 && gfpolyOk c) = true) : ewBits c ≠ 64 ∧ gfpolyOk c = true := by
  simpa only [Bool.and_eq_true, decide_eq_true_eq] using h

theorem polynomialRows_hold : ∀ row ∈ polynomialRows, row.Holds := by
  intro row hrow
  simp only [polynomialRows, List.mem_cons, List.not_mem_nil, or_false] at hrow
  rcases hrow with rfl | rfl | rfl | rfl
  · exact elemRow_holds fieldVgfmul .beats (fun _ => []) (fun _ _ _ => rfl) rfl rfl (fun _ _ => rfl)
      (fun c fr f hok => fieldVgfmul_inRange c fr f (gfmul_bounds hok).1 (gfmul_bounds hok).2)
      (fun c _ _ i hok => gfProduct_lt (gfmul_bounds hok).1 (gfmul_bounds hok).2 _ _ (vElem_lt c _ i))
  · exact elemRow_holds opVclmullo .beats (fun _ => []) (fun _ _ _ => rfl) rfl rfl (fun _ _ => rfl)
      (fun c fr f hok => fieldVclmul_low c fr f (of_decide_eq_true hok))
      (fun c _ _ _ hok => lt_of_wide (of_decide_eq_true hok) (Nat.mod_lt _ (Nat.pow_pos (by decide))))
  · exact elemRow_holds opVclmulhi .beats (fun _ => []) (fun _ _ _ => rfl) rfl rfl (fun _ _ => rfl)
      (fun c fr f hok => fieldVclmul_high c fr f (of_decide_eq_true hok))
      (fun c _ f i hok => lt_of_wide (of_decide_eq_true hok) (carryless_high_lt (Nat.lt_of_lt_of_eq (vElem_lt c _ i)
        (congrArg (2 ^ ·) (of_decide_eq_true hok)))))
  · exact elemRow_holds opVbtr8 .beats (fun _ => []) (fun _ _ _ => rfl) rfl rfl (fun _ _ => rfl)
      (fun c fr f hok => fieldVec1_btr8 c fr f (of_decide_eq_true hok)) (fun c _ _ _ hok => lt_of_wide (of_decide_eq_true hok) (transposed_lt _))

/-- Settles O1: each table's row is the shared form of the element operations with the row's own value. -/
theorem vectorElementRows : Obligations.VectorElementRows := ⟨integerRows_hold, modularRows_hold, polynomialRows_hold⟩

/-! ### Whole-group rows -/

/-- The low bits reversed, as the table and the model each sum them. -/
theorem revLow_eq_reversed (k i : Nat) : revLow k i = reversed k i := by
  unfold revLow reversed
  rw [foldl_add_eq_sum]
  congr 1
  refine (Finset.sum_range_reflect (fun j => (i / 2 ^ j % 2) * 2 ^ (k - 1 - j)) k).symm.trans (Finset.sum_congr rfl fun j hj => ?_)
  rw [Finset.mem_range] at hj
  rw [Nat.sub_sub_self (by omega)]

theorem freeElem_lt (fr w i : Nat) : freeElem fr w i < 2 ^ w := Nat.mod_lt _ (Nat.pow_pos (by decide))

theorem streamBits_eq_bitWord (c : ReedCore) (k lo n : Nat) : streamBits c k lo n = bitWord c k lo n := by
  unfold streamBits bitWord
  rw [foldl_add_eq_sum]
  rfl

theorem bitWord_lt (c : ReedCore) (k lo n : Nat) : bitWord c k lo n < 2 ^ n := (bits_sum _ n).1

theorem bitWord_testBit (c : ReedCore) (k lo n i : Nat) : (bitWord c k lo n).testBit i = (decide (i < n) && streamBit c k (lo + i)) :=
  (bits_sum (fun j => streamBit c k (lo + j)) n).2 i

theorem popcount_eq_sum (n x : Nat) : popcount n x = ((List.range n).map (fun j => flag (x.testBit j))).sum := by
  rw [popcount_eq_length]
  induction n with
  | zero => rfl
  | succ n ih =>
    rw [List.range_succ, List.filter_append, List.length_append, List.map_append, List.sum_append, ih]
    cases h : x.testBit n <;> simp [h, flag]

/-- The 1 bits of a word taken from a stream are those of the stream (R153). -/
theorem popcount_bitWord (c : ReedCore) (k lo n : Nat) : popcount n (bitWord c k lo n) = bitSum c k lo n := by
  rw [popcount_eq_sum, bitSum]
  refine congrArg List.sum (List.map_congr_left fun j hj => ?_)
  rw [List.mem_range] at hj
  simp [bitWord_testBit, hj]

theorem not_overlaps_one {f : VField} {a : Fin 32} (h : a ≠ f.d) : overlaps f [a.val] = false := by
  simp [overlaps, Fin.val_inj, h]

/-- A group no element of which is replaced. -/
theorem groupSet_none (w g d : Nat) (x : ReedCore) (val : Nat → Option Nat) (h : ∀ i, val i = none) : GroupSet w g d x x val where
  elems i _ := by rw [h i]; rfl
  others _ _ := rfl
  frame := rfl

/-- With VL = 0 a group keeps its elements (R131); else it takes those of the result. -/
theorem groupWith_or_none (c x : ReedCore) (d : Nat) (val : Nat → Option Nat) (hvl : c.vl = 0 → ∀ i, val i = none)
    (hval : ∀ i v, val i = some v → v < 2 ^ ewBits c) :
    GroupSet (ewBits c) (gsize c) d x (if c.vl = 0 then x else groupWith (ewBits c) (gsize c) d val x) val := by
  split
  · rename_i hzero
    exact groupSet_none _ _ _ _ _ (hvl hzero)
  · exact groupWith_set _ _ _ _ _ (ewBits_pos c) (ewBits_dvd c) hval

theorem elemResult_eq_underMask (c : ReedCore) (f : VField) (g : Nat → Nat) : elemResult c f g = underMask c f g := rfl

theorem underMask_none {c : ReedCore} {f : VField} {g : Nat → Nat} {i : Nat} (h : c.vl ≤ i) : underMask c f g i = none := by
  simp [underMask, active, Nat.not_lt.mpr h]

theorem underMask_lt {c : ReedCore} {f : VField} {g : Nat → Nat} {w : Nat} (hg : ∀ i, g i < 2 ^ w) {i v : Nat} (h : underMask c f g i = some v) :
    v < 2 ^ w := by
  unfold underMask at h
  split at h
  · cases h; exact hg i
  · split at h
    · cases h; exact Nat.pow_pos (by decide)
    · cases h

theorem fromBeat_some {w lo : Nat} {val : Nat → Option Nat} {i v : Nat} (h : fromBeat w lo val i = some v) : val i = some v := by
  unfold fromBeat at h
  split at h
  · exact h
  · cases h

theorem fromBeat_none {w lo : Nat} {val : Nat → Option Nat} {i : Nat} (h : val i = none) : fromBeat w lo val i = none := by
  simp [fromBeat, h]

theorem fromBeat_zero (w : Nat) (val : Nat → Option Nat) : fromBeat w 0 val = val := by
  funext i
  simp [fromBeat]

theorem fieldVslideup_free {c : ReedCore} {fr : Nat} {f : VField} (hd : groupOk c f.d.val = true) (ha : groupOk c f.a.val = true)
    (hvl : c.vl ≤ emax c) (hover : f.a ≠ f.d) : (fieldVslideup c fr f).free = 0 := by
  simp [fieldVslideup, vecRes, hd, ha, not_overlaps_one hover, vecFault_none c fr hvl]

/-- VSLIDEUP leaves its active elements below the offset (R150). -/
theorem fieldVslideup_set (c : ReedCore) (fr : Nat) (f : VField) (lo hi : Nat) (x : ReedCore) :
    GroupSet (ewBits c) (gsize c) f.d.val x ((fieldVslideup c fr f).upd lo hi x) (fun i =>
      if i < (sGet c f.s.val).toNat ∧ active c f.mask i = true then none
      else underMask c f (fun i => vElem c f.a.val (i - (sGet c f.s.val).toNat)) i) := by
  refine groupWith_or_none c x _ _ (fun hzero i => ?_) (fun i v h => ?_)
  · simp only [elemResult_eq_underMask, underMask_none (show c.vl ≤ i by omega), ite_self]
  · split at h
    · cases h
    · exact underMask_lt (fun _ => vElem_lt _ _ _) h

theorem wholeGroupRows_hold : ∀ row ∈ wholeGroupRows, row.Holds := by
  intro row hrow
  simp only [wholeGroupRows, List.mem_cons, List.not_mem_nil, or_false] at hrow
  rcases hrow with rfl | rfl | rfl | rfl | rfl | rfl
  · refine elemRow_holds fieldVbrev .restarting (fun _ => []) (fun _ _ _ => rfl) rfl rfl (fun _ _ => rfl) (fun c fr f hok => ?_) (fun c fr f i _ => ?_)
    · simp only [Bool.and_eq_true, decide_eq_true_eq] at hok
      obtain ⟨⟨hlo, hhi⟩, ha⟩ := hok
      have hk : decide (f.k.toNat < 1 ∨ f.k.toNat > 8) = false := by
        rw [decide_eq_false_iff_not]
        omega
      simp only [fieldVbrev, hk, not_overlaps_one ha, revLow_eq_reversed, Bool.or_self]
    · dsimp only
      split
      · exact vElem_lt _ _ _
      · exact freeElem_lt _ _ _
  · refine elemRow_holds fieldVperm .restarting (fun _ => []) (fun _ _ _ => rfl) rfl rfl (fun _ _ => rfl) (fun c fr f hok => ?_)
      (fun c fr f i _ => vElem_lt _ _ _)
    simp only [Bool.and_eq_true, decide_eq_true_eq] at hok
    have hover : overlaps f [f.a.val, f.b.val] = false := by simp [overlaps, Fin.val_inj, hok.1, hok.2]
    simp only [fieldVperm, hover]
  · intro s t r f iss c htake hword hd hsrcs hvl hok
    have hact := vecRow_acts (instr := .vslideup) (fun _ _ _ => rfl) rfl htake hword
    rw [fieldVslideup_free hd (hsrcs _ (List.mem_singleton_self _)) hvl (of_decide_eq_true hok)] at hact
    refine ⟨_, ?_, hact⟩
    show GroupSet _ _ _ _ _ (fromBeat _ 0 _)
    rw [fromBeat_zero]
    exact fieldVslideup_set c t.free f _ _ _
  · refine elemRow_holds fieldVslidedn .restarting (fun f => [f.s.val]) (fun _ _ _ => rfl) rfl rfl (fun _ _ => rfl) (fun c fr f hok => ?_)
      (fun c fr f i _ => ?_)
    · simp only [fieldVslidedn, not_overlaps_one (of_decide_eq_true hok), ge_iff_le, ← not_lt, ite_not]
    · dsimp only
      split
      · exact vElem_lt _ _ _
      · exact Nat.pow_pos (by decide)
  · refine elemRow_holds fieldVcbd .restarting (fun _ => []) (fun _ _ _ => rfl) rfl rfl (fun _ _ => rfl) (fun c fr f hok => ?_) (fun c fr f i _ => ?_)
    · simp only [Bool.and_eq_true, decide_eq_true_eq] at hok
      obtain ⟨⟨⟨hlo, hhi⟩, ha⟩, hlen⟩ := hok
      have hk : decide (f.k.toNat < 1 ∨ f.k.toNat > 4) = false := by
        rw [decide_eq_false_iff_not]
        omega
      have hfit : decide (2 * f.k.toNat * c.vl > streamLen c) = false := by
        rw [decide_eq_false_iff_not]
        exact Nat.not_lt.mpr hlen
      simp only [fieldVcbd, hk, hfit, not_overlaps_one ha, Bool.or_self, streamBits_eq_bitWord, popcount_bitWord, decide_eq_true_eq]
      rfl
    · dsimp only
      split
      · exact freeElem_lt _ _ _
      · rename_i hq
        rw [not_or, Nat.not_lt] at hq
        exact Nat.lt_of_lt_of_le (intMod_toNat_lt _ (Nat.pos_of_ne_zero hq.1)) hq.2
  · refine elemRow_holds fieldVunpack .restarting (fun _ => []) (fun _ _ _ => rfl) rfl rfl (fun _ _ => rfl) (fun c fr f hok => ?_) (fun c fr f i _ => ?_)
    · simp only [Bool.and_eq_true, decide_eq_true_eq] at hok
      have hfit : decide (f.k.toNat * c.vl > streamLen c) = false := by
        rw [decide_eq_false_iff_not]
        exact Nat.not_lt.mpr hok.2
      simp only [fieldVunpack, hfit, not_overlaps_one hok.1, streamBits_eq_bitWord]
    · dsimp only
      split
      · exact freeElem_lt _ _ _
      · rename_i hk
        exact Nat.lt_of_lt_of_le (bitWord_lt _ _ _ _) (Nat.pow_le_pow_right (by decide) (Nat.not_lt.mp hk))

/-! ### Butterflies (R150 to R152, R169) -/

/-- A result of the beats of a whole group, for elements below VL alone. -/
theorem beatResult_below (c : ReedCore) (lo : Nat) (val : Nat → Option Nat) (hvl : c.vl ≤ emax c) (hnone : ∀ i, c.vl ≤ i → val i = none) :
    beatResult (ewBits c) lo (beatCount (gsize c)) val = fromBeat (ewBits c) lo val := by
  funext i
  show (if inBeats _ _ _ i then val i else none) = if lo * 256 ≤ i * ewBits c then val i else none
  by_cases hi : i < c.vl
  · simp [inBeats_whole c lo i hvl hi]
  · simp [hnone i (Nat.not_lt.mp hi)]

/-- A halves' formula of the table, modulo q. -/
def halves (g : Int → Int → Int → Int × Int) (q a b w : Nat) : Nat × Nat := (((g a b w).1 % (q : Int)).toNat, ((g a b w).2 % (q : Int)).toNat)

theorem bfly_eq_forward (q a b w : Nat) : bfly q a b w = halves forward q a b w := by
  simp only [bfly, halves, forward, subMod, Prod.mk.injEq]
  constructor
  · rw [← Int.toNat_natCast ((a + w * b % q) % q)]
    congr 1
    push_cast
    simp
  · congr 1
    show ((a : Int) - ((w * b % q : Nat) : Int)) % q = _
    push_cast
    rw [Int.sub_emod, Int.emod_emod_of_dvd _ (Int.dvd_refl _), ← Int.sub_emod]

theorem ibfly_eq_inverse (q a b w : Nat) (hq : 0 < q) : ibfly q a b w = halves inverse q a b w := by
  have hnonneg : 0 ≤ ((a : Int) - b) % q := Int.emod_nonneg _ (Int.natCast_ne_zero.mpr hq.ne')
  simp only [ibfly, halves, inverse, subMod, Prod.mk.injEq]
  constructor
  · rw [← Int.toNat_natCast ((a + b) % q)]
    push_cast
    rfl
  · rw [← Int.toNat_natCast (_ % q)]
    congr 1
    push_cast
    show ((((a : Int) - b) % q).toNat : Int) * w % q = _
    rw [Int.toNat_of_nonneg hnonneg, Int.mul_emod, Int.emod_emod_of_dvd _ (Int.dvd_refl _), ← Int.mul_emod]

theorem halves_lt {c : ReedCore} (g : Int → Int → Int → Int × Int) (a b w : Nat) (hq : qmodOk c = true) :
    (halves g c.qmod.toNat a b w).1 < 2 ^ ewBits c ∧ (halves g c.qmod.toNat a b w).2 < 2 ^ ewBits c :=
  ⟨Nat.lt_trans (intMod_toNat_lt _ (qmodOk_bounds hq).1) (qmod_lt hq), Nat.lt_trans (intMod_toNat_lt _ (qmodOk_bounds hq).1) (qmod_lt hq)⟩

theorem fieldBfly_free {g : Nat → Nat → Nat → Nat → Nat × Nat} {c : ReedCore} {fr : Nat} {f : VField}
    (hgroups : ∀ k ∈ [f.a.val, f.b.val, f.c.val], groupOk c k = true) (hvl : c.vl ≤ emax c) (hq : qmodOk c = true) :
    (fieldBfly g c fr f).free = if f.a = f.b then 1 else 0 := by
  simp only [List.mem_cons, List.not_mem_nil, or_false, forall_eq_or_imp, forall_eq] at hgroups
  obtain ⟨ha, hb, hc⟩ := hgroups
  simp [fieldBfly, vecRes, ha, hb, hc, hq, vecFault_none c fr hvl, Fin.val_inj]

/-- A masked result of the beats left, put into a group. -/
theorem putMasked_set (c : ReedCore) (f : VField) (lo k : Nat) (v : Nat → Nat) (x : ReedCore) (hvl : c.vl ≤ emax c) (hv : ∀ i, v i < 2 ^ ewBits c) :
    GroupSet (ewBits c) (gsize c) k x
      (if c.vl = 0 then x else groupWith (ewBits c) (gsize c) k (beatResult (ewBits c) lo (beatCount (gsize c)) (elemResult c f v)) x)
      (fromBeat (ewBits c) lo (underMask c f v)) := by
  rw [beatResult_whole c f lo v hvl]
  exact groupWith_or_none c x _ _ (fun hzero i => fromBeat_none (underMask_none (by omega)))
    (fun i w h => underMask_lt hv (fromBeat_some h))

/-- What a butterfly makes of two groups: first the one, then the other. -/
theorem fieldBfly_upd (g : Nat → Nat → Nat → Nat → Nat × Nat) (c : ReedCore) (fr : Nat) (f : VField) (lo hi : Nat) (x : ReedCore) (hne : f.a ≠ f.b) :
    let r (i : Nat) := g c.qmod.toNat (vElem c f.a.val i) (vElem c f.b.val i) (vElem c f.c.val i)
    let put (k : Nat) (v : Nat → Nat) (x : ReedCore) : ReedCore :=
      if c.vl = 0 then x else groupWith (ewBits c) (gsize c) k (beatResult (ewBits c) lo hi (elemResult c f v)) x
    (fieldBfly g c fr f).upd lo hi x = put f.b.val (fun i => (r i).2) (put f.a.val (fun i => (r i).1) x) := by
  have hval : ¬ f.a.val = f.b.val := fun h => hne (Fin.ext h)
  simp only [fieldBfly, vecRes, if_neg hval]
  split <;> rfl

theorem fieldBfly_upd_same (g : Nat → Nat → Nat → Nat → Nat × Nat) (c : ReedCore) (fr : Nat) (f : VField) (lo hi : Nat) (x : ReedCore)
    (heq : f.a = f.b) : (fieldBfly g c fr f).upd lo hi x
      = if c.vl = 0 then x
        else groupWith (ewBits c) (gsize c) f.a.val (beatResult (ewBits c) lo hi (elemResult c f (freeElem fr (ewBits c)))) x := by
  simp only [fieldBfly, vecRes, heq, if_true]

theorem butterfly_holds {instr : Fin 1024 → VField → Instr} {code : Nat} {g : Int → Int → Int → Int × Int} (h : Nat → Nat → Nat → Nat → Nat × Nat)
    (hexec : ∀ r f s, exec (instr r f) s = whenRunning s (vecStep s r code f)) (hop : vecOp code = some (fieldBfly h))
    (hg : ∀ q a b w, 0 < q → h q a b w = halves g q a b w) : ButterflyHolds instr code g := by
  intro s t r f iss c htake hword hgroups hvl hq v q part
  have hact := vecRow_acts hexec hop htake hword
  rw [fieldBfly_free hgroups hvl hq] at hact
  have hpos : 0 < (vecView f iss).qmod.toNat := (qmodOk_bounds hq).1
  refine ⟨fun hne => ?_, fun heq => ?_⟩
  · rw [if_neg hne, fieldBfly_upd h _ _ _ _ _ _ hne] at hact
    simp only [hg _ _ _ _ hpos] at hact
    exact ⟨_, _, putMasked_set c f _ _ _ _ hvl (fun i => (halves_lt g _ _ _ hq).1), putMasked_set c f _ _ _ _ hvl (fun i => (halves_lt g _ _ _ hq).2),
      hact⟩
  · rw [if_pos heq, fieldBfly_upd_same h _ _ _ _ _ _ heq] at hact
    exact ⟨_, putMasked_set c f _ _ _ _ hvl (fun i => freeElem_lt _ _ _), hact⟩

/-- What VBFLYI and VIBFLYI put into an element of the group, in the table's terms. -/
def pairResult (c : ReedCore) (f : VField) (v : Nat → Nat × Nat) (n : Nat) : Option Nat :=
  let h := 2 ^ f.k.toNat
  if n.testBit f.k.toNat = false ∧ active c f.mask n ∧ active c f.mask (n + h) then some (v n).1
  else if n.testBit f.k.toNat = true ∧ active c f.mask (n - h) ∧ active c f.mask n then some (v (n - h)).2
  else if active c f.mask n then none
  else if n < c.vl ∧ f.zero then some 0 else none

theorem pairResult_none {c : ReedCore} {f : VField} {v : Nat → Nat × Nat} {n : Nat} (h : c.vl ≤ n) : pairResult c f v n = none := by
  have hn : active c f.mask n = false := by simp [active, Nat.not_lt.mpr h]
  simp [pairResult, hn, Nat.not_lt.mpr h]

theorem pairResult_lt {c : ReedCore} {f : VField} {v : Nat → Nat × Nat} {w : Nat} (hv : ∀ i, (v i).1 < 2 ^ w ∧ (v i).2 < 2 ^ w) {n x : Nat}
    (h : pairResult c f v n = some x) : x < 2 ^ w := by
  unfold pairResult at h
  dsimp only at h
  split at h
  · cases h; exact (hv _).1
  · split at h
    · cases h; exact (hv _).2
    · split at h
      · cases h
      · split at h
        · cases h; exact Nat.pow_pos (by decide)
        · cases h

theorem fieldBflyi_upd (g : Nat → Nat → Nat → Nat → Nat × Nat) (c : ReedCore) (fr : Nat) (f : VField) (lo hi : Nat) (x : ReedCore) :
    (fieldBflyi g c fr f).upd lo hi x
      = if c.vl = 0 then x
        else groupWith (ewBits c) (gsize c) f.a.val (beatResult (ewBits c) (lo / 2 * 2) (hi / 2 * 2) (pairResult c f (fun n =>
          g c.qmod.toNat (vElem c f.a.val n) (vElem c f.a.val (n + 2 ^ f.k.toNat)) (vElem c f.c.val n)))) x := by
  simp only [fieldBflyi, vecRes]
  congr 4
  funext i
  have hpos : 0 < 2 ^ f.k.toNat := Nat.pow_pos (by decide)
  have hdiv := Nat.testBit_eq_decide_div_mod_eq (x := i) (i := f.k.toNat)
  cases hbit : i.testBit f.k.toNat
  · have heven : i / 2 ^ f.k.toNat % 2 = 0 := by
      rw [hbit, eq_comm, decide_eq_false_iff_not] at hdiv
      omega
    simp [pairResult, hbit, heven]
  · have hodd : i / 2 ^ f.k.toNat % 2 = 1 := by
      rw [hbit, eq_comm, decide_eq_true_eq] at hdiv
      exact hdiv
    have hge : 2 ^ f.k.toNat ≤ i := by
      by_contra hlt
      rw [Nat.div_eq_of_lt (by omega)] at hodd
      cases hodd
    have hne : i ≠ i - 2 ^ f.k.toNat := by omega
    simp [pairResult, hbit, hodd, Nat.sub_add_cancel hge, hne]

theorem fieldBflyi_free {g : Nat → Nat → Nat → Nat → Nat × Nat} {c : ReedCore} {fr : Nat} {f : VField} (ha : groupOk c f.a.val = true)
    (hc : groupOk c f.c.val = true) (hvl : c.vl ≤ emax c) (hq : qmodOk c = true) (hk : 2 ^ f.k.toNat < 512 / ewBits c) :
    (fieldBflyi g c fr f).free = 0 := by
  simp [fieldBflyi, vecRes, ha, hc, hq, hk, vecFault_none c fr hvl]

/-- The halves of the pairs put into their group. -/
theorem pairPut_set (c : ReedCore) (f : VField) (lo : Nat) (x : ReedCore) (v : Nat → Nat × Nat)
    (hv : ∀ i, (v i).1 < 2 ^ ewBits c ∧ (v i).2 < 2 ^ ewBits c) :
    GroupSet (ewBits c) (gsize c) f.a.val x
      (if c.vl = 0 then x else groupWith (ewBits c) (gsize c) f.a.val (fromBeat (ewBits c) lo (pairResult c f v)) x)
      (fromBeat (ewBits c) lo (pairResult c f v)) :=
  groupWith_or_none c _ _ _ (fun _ _ => fromBeat_none (pairResult_none (by omega))) (fun _ _ hx => pairResult_lt hv (fromBeat_some hx))

theorem pair_holds {instr : Fin 1024 → VField → Instr} {code : Nat} {g : Int → Int → Int → Int × Int} (h : Nat → Nat → Nat → Nat → Nat × Nat)
    (hexec : ∀ r f s, exec (instr r f) s = whenRunning s (vecStep s r code f)) (hop : vecOp code = some (fieldBflyi h))
    (hg : ∀ q a b w, 0 < q → h q a b w = halves g q a b w) : PairHolds instr code g := by
  intro s t r f iss c htake hword ha hc hvl hq hk q half v
  have hact := vecRow_acts hexec hop htake hword
  have hbeats : beatCount (gsize c) / 2 * 2 = beatCount (gsize c) := by unfold beatCount; omega
  rw [fieldBflyi_free ha hc hvl hq hk, fieldBflyi_upd, hbeats, beatResult_below c _ _ hvl (fun i => pairResult_none)] at hact
  have hpos : 0 < (vecView f iss).qmod.toNat := (qmodOk_bounds hq).1
  simp only [hg _ _ _ _ hpos] at hact
  exact ⟨_, pairPut_set c f _ _ _ (fun i => halves_lt g _ _ _ hq), hact⟩

/-- Settles O2: the whole-group rows by the shared form, the butterflies by what each half puts into its group. -/
theorem vectorWholeGroupRows : Obligations.VectorWholeGroupRows :=
  ⟨wholeGroupRows_hold, butterfly_holds bfly (fun _ _ _ => rfl) rfl (fun q a b w _ => bfly_eq_forward q a b w),
    butterfly_holds ibfly (fun _ _ _ => rfl) rfl ibfly_eq_inverse, pair_holds bfly (fun _ _ _ => rfl) rfl (fun q a b w _ => bfly_eq_forward q a b w),
    pair_holds ibfly (fun _ _ _ => rfl) rfl ibfly_eq_inverse⟩

end Sys2Proof.VectorRows

/-! ### Streams of a group, and the scalars of the vector field (R131, R150, R153, R154) -/

namespace Sys2Proof.VectorRows

open Sys2Proof Sys2Proof.Machine Sys2Proof.Safety Sys2Proof.Rows Sys2Proof.Laws Sys2Proof.ReedRows

/-! #### VPACK -/

/-- Bit `j` of the stream of the group at V(d) set to `b`. -/
def streamPut (d : Nat) (x : ReedCore) (j : Nat) (b : Bool) : ReedCore :=
  vSet x (d + j / 512) (putBits (vGet x (d + j / 512)) (j % 512) 1 (flag b))

theorem streamBit_streamPut (d : Nat) (x : ReedCore) (j i : Nat) (b : Bool) :
    streamBit (streamPut d x j b) d i = if i = j then b else streamBit x d i := by
  unfold streamBit streamPut
  have hi : i % 512 < 512 := Nat.mod_lt _ (by decide)
  by_cases hreg : i / 512 = j / 512
  · rw [hreg, vGet_set_same, putBits_bit _ _ _ _ _ hi]
    by_cases hij : i = j
    · subst hij
      cases b <;> simp [flag]
    · rw [if_neg (by omega), if_neg hij]
  · rw [vGet_set_other _ _ _ _ (by omega), if_neg (by intro h; exact hreg (by rw [h]))]

theorem streamPut_other (d : Nat) (x : ReedCore) (j k : Nat) (b : Bool) (h : k ≠ d + j / 512) : vGet (streamPut d x j b) k = vGet x k :=
  vGet_set_other _ _ _ _ h

/-- The bits below `n` of a stream replaced, each by what `val` says of it. -/
def streamWith (d : Nat) (val : Nat → Option Bool) (n : Nat) (x : ReedCore) : ReedCore :=
  (List.range n).foldl (fun t j => match val j with
    | none => t
    | some b => streamPut d t j b) x

theorem streamWith_succ (d : Nat) (val : Nat → Option Bool) (n : Nat) (x : ReedCore) :
    streamWith d val (n + 1) x = match val n with
      | none => streamWith d val n x
      | some b => streamPut d (streamWith d val n x) n b := by
  unfold streamWith
  rw [List.range_succ, List.foldl_append]
  rfl

theorem streamBit_streamWith (d : Nat) (val : Nat → Option Bool) (n : Nat) (x : ReedCore) (i : Nat) :
    streamBit (streamWith d val n x) d i = if i < n then (val i).getD (streamBit x d i) else streamBit x d i := by
  induction n with
  | zero => rfl
  | succ n ih =>
    rw [streamWith_succ]
    by_cases hin : i = n
    · subst hin
      rw [if_neg (Nat.lt_irrefl i)] at ih
      cases h : val i with
      | none => simp [ih]
      | some b => simp [streamBit_streamPut]
    · have hlt : i < n + 1 ↔ i < n := by omega
      simp only [hlt, ← ih]
      cases val n with
      | none => rfl
      | some b => rw [streamBit_streamPut, if_neg hin]

theorem streamWith_other (d : Nat) (val : Nat → Option Bool) (n g : Nat) (x : ReedCore) (hn : n ≤ 512 * g) (k : Nat) (hk : k < d ∨ d + g ≤ k) :
    vGet (streamWith d val n x) k = vGet x k := by
  induction n with
  | zero => rfl
  | succ n ih =>
    rw [streamWith_succ]
    cases val n with
    | none => exact ih (by omega)
    | some b => exact (streamPut_other d _ _ _ b (by omega)).trans (ih (by omega))

theorem streamWith_frame (d : Nat) (val : Nat → Option Bool) (n : Nat) (x : ReedCore) : { streamWith d val n x with v := x.v } = x := by
  induction n with
  | zero => rfl
  | succ n ih =>
    rw [streamWith_succ]
    cases val n with
    | none => exact ih
    | some b => exact ih

/-- VPACK puts bit j % k of element j / k at place j (R153). -/
theorem fieldVpack_upd (c : ReedCore) (fr : Nat) (f : VField) (lo hi : Nat) (x : ReedCore) :
    (fieldVpack c fr f).upd lo hi x
      = streamWith f.d.val (fun j => (underMask c f (vElem c f.a.val) (j / f.k.toNat)).map (fun v => v.testBit (j % f.k.toNat))) (f.k.toNat * c.vl) x := by
  simp only [fieldVpack, vecRes]
  split
  · rename_i hzero
    rw [hzero]
    rfl
  · unfold streamWith
    congr 1
    funext t j
    show (match underMask c f (vElem c f.a.val) (j / f.k.toNat) with | none => t | some x => _) = _
    dsimp only
    cases underMask c f (vElem c f.a.val) (j / f.k.toNat) <;> rfl

theorem fieldVpack_free {c : ReedCore} {fr : Nat} {f : VField} (hd : groupOk c f.d.val = true) (ha : groupOk c f.a.val = true) (hvl : c.vl ≤ emax c)
    (hover : f.a ≠ f.d) (hfit : f.k.toNat * c.vl ≤ 512 * gsize c) : (fieldVpack c fr f).free = 0 := by
  have hlen : decide (f.k.toNat * c.vl > streamLen c) = false := by
    rw [decide_eq_false_iff_not]
    exact Nat.not_lt.mpr hfit
  simp only [fieldVpack, vecRes, hd, ha, not_overlaps_one hover, hlen]
  simp [vecFault_none c fr hvl]

/-! #### VREJ -/

theorem vrejAccepted_eq (c : ReedCore) (f : VField) (hq : qmodOk c = true) : vrejAccepted c f.a.val f.k.toNat = accepted c f := by
  have hlen : bitLen c.qmod.toNat = Nat.log2 c.qmod.toNat + 1 := if_neg (qmodOk_bounds hq).1.ne'
  unfold vrejAccepted accepted
  simp only [hlen, streamBits_eq_bitWord]
  rfl

theorem accepted_lt {c : ReedCore} {f : VField} (hq : qmodOk c = true) {n i v : Nat} (h : ((accepted c f).take n)[i]? = some v) :
    v < 2 ^ ewBits c := by
  have hmem := List.mem_of_mem_take (List.mem_of_getElem? h)
  rw [accepted, List.mem_filter, decide_eq_true_eq] at hmem
  exact Nat.lt_trans hmem.2 (qmod_lt hq)

theorem fieldVrej_free {c : ReedCore} {fr : Nat} {f : VField} (hd : groupOk c f.d.val = true) (ha : groupOk c f.a.val = true) (hvl : c.vl ≤ emax c)
    (hover : f.a ≠ f.d) (hq : qmodOk c = true) (hlo : 1 ≤ f.k.toNat) (hhi : f.k.toNat ≤ 32) : (fieldVrej c fr f).free = 0 := by
  have hk : decide (f.k.toNat < 1 ∨ f.k.toNat > 32) = false := by
    rw [decide_eq_false_iff_not]
    omega
  simp only [fieldVrej, vecRes, hd, ha, hq, not_overlaps_one hover, hk]
  simp [vecFault_none c fr hvl]

/-- The group VREJ makes, and its counter. -/
theorem fieldVrej_upd (c : ReedCore) (fr : Nat) (f : VField) (lo hi : Nat) (x : ReedCore) (hq : qmodOk c = true) :
    let n0 := (sGet c f.s.val).toNat
    let vs := (accepted c f).take (c.vl - n0)
    (fieldVrej c fr f).upd lo hi x = if c.vl = 0 then x
      else sSet (groupWith (ewBits c) (gsize c) f.d.val (fun i => if n0 ≤ i then vs[i - n0]? else none) x) f.s.val
        (sGet c f.s.val + BitVec.ofNat 64 vs.length) := by
  simp only [fieldVrej, vecRes, vrejAccepted_eq c f hq, ← not_lt, ite_not]

/-! #### Scalars -/

theorem fieldVext_free {c : ReedCore} {fr : Nat} {f : VField} (ha : groupOk c f.a.val = true) (hvl : c.vl ≤ emax c) : (fieldVext c fr f).free = 0 := by
  simp [fieldVext, vecRes, ha, vecFault_none c fr hvl]

/-- VEXT after the last beat of its group. -/
theorem fieldVext_upd (c : ReedCore) (fr : Nat) (f : VField) (lo : Nat) (x : ReedCore) :
    (fieldVext c fr f).upd lo (beatCount (gsize c)) x = if c.vl = 0 then x
      else sSet x f.d.val (BitVec.ofNat 64 (if (sGet c f.s.val).toNat < emax c then vElem c f.a.val (sGet c f.s.val).toNat else 0)) := by
  simp only [fieldVext, vecRes, Nat.lt_irrefl, if_false, ge_iff_le, ← not_lt, ite_not]

theorem fieldMaskScalar_free {g : Nat → Nat → Nat} {c : ReedCore} {fr : Nat} {f : VField} (hvl : c.vl ≤ emax c) :
    (fieldMaskScalar g c fr f).free = 0 := by
  simp [fieldMaskScalar, vecRes, vecFault_none c fr hvl]

/-- The mask's bits below VL, as a number and as a list. -/
theorem maskBits_eq (c : ReedCore) (k : Nat) :
    maskBits c k = (List.range c.vl).filter (fun i => ((mGet c (k % 8)).toNat % 2 ^ c.vl).testBit i) :=
  List.filter_congr fun i hi => by
    rw [List.mem_range] at hi
    simp [Nat.testBit_mod_two_pow, hi, BitVec.getLsbD]

theorem popcount_maskBits (c : ReedCore) (k : Nat) : popcount c.vl ((mGet c (k % 8)).toNat % 2 ^ c.vl) = (maskBits c k).length := by
  rw [popcount_eq_length, maskBits_eq]

theorem firstBit_maskBits (c : ReedCore) (k : Nat) : firstBit c.vl ((mGet c (k % 8)).toNat % 2 ^ c.vl) = (maskBits c k).headD 256 := by
  rw [firstBit, maskBits_eq, ← List.head?_filter, List.headD_eq_head?_getD]

/-- A row whose operation sets one scalar of a mask. -/
theorem maskScalar_next {s t : State} {r : Fin 1024} {iss : Issue} {code : Nat} {f : VField} {g : Nat → Nat → Nat} {v : Nat}
    {instr : Fin 1024 → VField → Instr} (hexec : ∀ r f s, exec (instr r f) s = whenRunning s (vecStep s r code f))
    (hop : vecOp code = some (fieldMaskScalar g)) (htake : Takes s t r iss 0) (hword : VecIs s r code f) (hvl : (vecView f iss).vl ≤ emax (vecView f iss))
    (hg : g (vecView f iss).vl ((mGet (vecView f iss) (f.a.val % 8)).toNat % 2 ^ (vecView f iss).vl) = v) :
    ((vecView f iss).vl ≠ 0 → ∃ y, ScalarSet f.d.val (reedAt t r.val).core y (BitVec.ofNat 64 v) ∧ exec (instr r f) s = .next (acted t r 0 iss 0 y)) ∧
      ((vecView f iss).vl = 0 → exec (instr r f) s = .next (acted t r 0 iss 0 (reedAt t r.val).core)) := by
  have hact := vecRow_next hexec hop htake hword (fieldMaskScalar_free hvl)
  simp only [fieldMaskScalar, vecRes, hg] at hact
  refine ⟨fun hne => ?_, fun hzero => ?_⟩
  · rw [if_neg hne] at hact
    exact ⟨_, scalarSet_sSet _ _ _, hact⟩
  · rwa [if_pos hzero] at hact

/-- An empty vector field counts as done (R198). -/
theorem doneOf_vector_empty (w : BitVec 192) (iss : Issue) (h : vopOf w = 0) : bitOf (doneOf w iss) 0 = true := by
  have hempty : (emptyFields w).testBit 0 = true := by
    simp only [Nat.testBit_zero, emptyFields, h, flag, decide_true, if_true, decide_eq_true_eq]
    omega
  unfold doneOf bitOf
  dsimp only
  split <;> simp only [Nat.testBit_or, hempty, Bool.or_true, Bool.true_or]

/-- VNOP is the empty vector field: the word issues, and nothing more. -/
theorem vnop_next {s t : State} {r : Fin 1024} {f : VField} {iss : Issue} (hissue : Issues s t r iss) (hword : VecIs s r 0x00 f) :
    exec (.vnop r f) s = .next t := by
  show whenRunning s (vecStep s r 0x00 f) = .next t
  rw [whenRunning_of _ _ hissue.live, vecStep, rowStep_acts hissue _ _ (by simp [hword.1, hword.2]),
    actField_once hissue _ (doneOf_vector_empty _ _ hword.1)]

/-- Settles O5: what VPACK and VREJ make of a group's stream, and the rows that set one scalar. -/
theorem vectorStreamRows : Obligations.VectorStreamRows := by
  intro s t r f iss c x
  refine ⟨fun htake hword hd ha hvl hover hfit => ?_, fun htake hword hd ha hvl hover hq hlo hhi => ?_, fun htake hword ha hvl => ?_, fun e he => ?_, vnop_next⟩
  case refine_1 =>
    have hact := vecRow_next (instr := .vpack) (fun _ _ _ => rfl) rfl htake hword (fieldVpack_free hd ha hvl hover hfit)
    rw [fieldVpack_upd] at hact
    refine ⟨_, hact, streamWith_frame _ _ _ _, fun j _ => streamBit_streamWith _ _ _ _ _, fun k hk => streamWith_other _ _ _ _ _ hfit k hk⟩
  case refine_2 =>
    intro n0 vs
    have hact := vecRow_next (instr := .vrej) (fun _ _ _ => rfl) rfl htake hword (fieldVrej_free hd ha hvl hover hq hlo hhi)
    rw [fieldVrej_upd _ _ _ _ _ _ hq] at hact
    refine ⟨fun hne => ?_, fun hzero => ?_⟩
    · rw [if_neg hne] at hact
      refine ⟨_, _, groupWith_set _ _ _ _ _ (ewBits_pos c) (ewBits_dvd c) (fun i v h => ?_), scalarSet_sSet _ _ _, hact⟩
      split at h
      · exact accepted_lt hq h
      · cases h
    · rwa [if_pos hzero] at hact
  case refine_3 =>
    have hact := vecRow_next (instr := .vext) (fun _ _ _ => rfl) rfl htake hword (fieldVext_free ha hvl)
    rw [fieldVext_upd] at hact
    refine ⟨fun hne => ?_, fun hzero => ?_⟩
    · rw [if_neg hne] at hact
      exact ⟨_, scalarSet_sSet _ _ _, hact⟩
    · rwa [if_pos hzero] at hact
  case refine_4 =>
    simp only [List.mem_cons, List.not_mem_nil, or_false] at he
    rcases he with rfl | rfl
    · exact fun htake hword hvl => maskScalar_next (instr := .mpopc) (fun _ _ _ => rfl) rfl htake hword hvl (popcount_maskBits _ _)
    · exact fun htake hword hvl => maskScalar_next (instr := .mfirst) (fun _ _ _ => rfl) rfl htake hword hvl (firstBit_maskBits _ _)

end Sys2Proof.VectorRows

/-! ### What one register receives: keys, random words and masks (R158, R350) -/

namespace Sys2Proof.StateFacts

open Sys2Proof Sys2Proof.Machine Sys2Proof.Safety Sys2Proof.Rows Sys2Proof.Laws Sys2Proof.ReedRows

/-! #### Tables of reeds, clusters and ports -/

theorem reedAt_setReed_other (s : State) (r q : Nat) (x : Reed) (h : q ≠ r) : reedAt (setReed s r x) q = reedAt s q := by
  simp [reedAt, setReed, tblGetD, tblGet_put_other _ _ _ _ h]

theorem reedAt_setCluster (s : State) (c r : Nat) (x : Cluster) : reedAt (setCluster s c x) r = reedAt s r := rfl

theorem clusterAt_setCluster (s : State) (c : Nat) (x : Cluster) : clusterAt (setCluster s c x) c = x := by
  simp [clusterAt, setCluster, tblGetD, tblGet_put_same]

theorem clusterAt_setCluster_other (s : State) (c d : Nat) (x : Cluster) (h : d ≠ c) : clusterAt (setCluster s c x) d = clusterAt s d := by
  simp [clusterAt, setCluster, tblGetD, tblGet_put_other _ _ _ _ h]

theorem getElem?_listMod {α : Type} (l : List α) (i k : Nat) (f : α → α) : (listMod l i f)[k]? = if k = i then l[k]?.map f else l[k]? := by
  induction l generalizing i k with
  | nil => simp [listMod]
  | cons x xs ih =>
    cases i with
    | zero => cases k <;> simp [listMod]
    | succ i => cases k with
      | zero => simp [listMod]
      | succ k => simp [listMod, ih]

@[simp] theorem length_listMod {α : Type} (l : List α) (i : Nat) (f : α → α) : (listMod l i f).length = l.length := by
  induction l generalizing i with
  | nil => rfl
  | cons x xs ih => cases i <;> simp [listMod, ih]

theorem getD_listMod {α : Type} (l : List α) (i k : Nat) (f : α → α) (d : α) :
    (listMod l i f).getD k d = if k = i ∧ k < l.length then f (l.getD k d) else l.getD k d := by
  rw [List.getD_eq_getElem?_getD, List.getD_eq_getElem?_getD, getElem?_listMod]
  by_cases hki : k = i
  · by_cases hlen : k < l.length
    · simp [hki ▸ hlen, hki]
    · simp [hki ▸ hlen, hki]
  · simp [hki]

/-! #### Numbers and their bytes -/

/-- The bytes of a number spelled by bytes are those bytes. -/
theorem byte_leNat (bs : Bytes) (i : Nat) : BitVec.ofNat 8 (leNat bs / 2 ^ (8 * i)) = bs.getD i 0 := by
  induction bs generalizing i with
  | nil => simp [leNat]
  | cons b bs ih =>
    cases i with
    | zero =>
      apply BitVec.eq_of_toNat_eq
      have := b.isLt
      simp [leNat]
      omega
    | succ i =>
      have hdiv : leNat (b :: bs) / 2 ^ (8 * (i + 1)) = leNat bs / 2 ^ (8 * i) := by
        have hb : b.toNat / 256 = 0 := Nat.div_eq_of_lt b.isLt
        rw [Nat.mul_succ, Nat.add_comm, Nat.pow_add, ← Nat.div_div_eq_div_mul, leNat, show 2 ^ 8 = 256 from rfl,
          Nat.add_mul_div_left _ _ (by decide), hb, Nat.zero_add]
      rw [hdiv, ih, List.getD_cons_succ]

end Sys2Proof.StateFacts

namespace Sys2Proof.PortRows

open Sys2Proof Sys2Proof.Machine Sys2Proof.Safety Sys2Proof.Rows Sys2Proof.Laws Sys2Proof.ReedRows Sys2Proof.StateFacts

/-- A register made of bytes that fit it holds them, zeros behind. -/
theorem byte_ofNat_leNat {w : Nat} (bs : Bytes) (h : 8 * bs.length ≤ w) (i : Nat) :
    BitVec.ofNat 8 ((BitVec.ofNat w (leNat bs)).toNat / 2 ^ (8 * i)) = bs.getD i 0 := by
  have hlt : leNat bs < 2 ^ w := Nat.lt_of_lt_of_le (leNat_lt bs) (Nat.pow_le_pow_right Nat.two_pos h)
  rw [BitVec.toNat_ofNat, Nat.mod_eq_of_lt hlt, byte_leNat]

/-- KEYRD delivers a key's first 64 bytes, zeros behind (R158). -/
theorem byte_keyWord (key : Bytes) (i : Nat) (hi : i < 64) :
    BitVec.ofNat 8 ((BitVec.ofNat 512 (leNat (key.take 64))).toNat / 2 ^ (8 * i)) = key.getD i 0 := by
  have hlen : 8 * (key.take 64).length ≤ 512 := by
    rw [List.length_take]
    omega
  rw [byte_ofNat_leNat _ hlen, List.getD_eq_getElem?_getD, List.getElem?_take_of_lt hi, List.getD_eq_getElem?_getD]

/-- A read of the memory field fills its register with `x`, unless VL is 0, and takes one free value. -/
theorem registerRead_next {s t : State} {r : Fin 1024} {iss : Issue} {code : Nat} {f : MField} {after : State → State → State} {cause : Option Nat}
    {x : BitVec 512} (htake : Takes s t r iss 2) (hword : MemIs s r code f)
    (hfield : memField t r.val iss (wordNow s r.val) = some (fieldLoad512 iss.before t.free f cause x)) :
    whenRunning s (memStep s r code f after) = .next (after t (acted t r 2 iss 1
      (if iss.before.vl = 0 then (reedAt t r.val).core else vSet (reedAt t r.val).core f.v.val x))) := by
  obtain ⟨hcode, hf⟩ := hword
  have hw : wordField t r.val iss (wordNow s r.val) 2 = some (fieldLoad512 iss.before t.free f cause x) := hfield
  rw [whenRunning_of _ _ htake.live, memStep, rowStep_acts htake.toIssues _ _ (by simp [hcode, hf]), actField_acts htake _ _ hw]
  rfl

theorem keyrd_next {s t : State} {r : Fin 1024} {iss : Issue} {f : MField} {k : Nat} {j : Job} (htake : Takes s t r iss 2) (hword : MemIs s r 9 f)
    (hjob : reedJob t r.val = some (k, j)) :
    exec (.keyrd r f) s = .next (cacheKey (acted t r 2 iss 1 (if iss.before.vl = 0 then (reedAt t r.val).core
      else vSet (reedAt t r.val).core f.v.val (slotWord t j))) (r.val / 16) (j.inst, jSlot j)) := by
  have hfield : memField t r.val iss (wordNow s r.val) = some (fieldLoad512 iss.before t.free f (keyrdCause t j) (slotWord t j)) := by
    simp [memField, hword.1, hword.2, hjob]
  have hexec : exec (.keyrd r f) s = execKeyrd r f s := rfl
  rw [hexec, execKeyrd, registerRead_next htake hword hfield, hjob]
  rfl

theorem rndrd_eq (r : Fin 1024) (f : MField) (s : State) : exec (.rndrd r f) s = whenRunning s (memStep s r 10 f (rndrdAfter r.val)) := rfl

theorem mskrd_eq (r : Fin 1024) (f : MField) (s : State) : exec (.mskrd r f) s = whenRunning s (memStep s r 11 f onlyReed) := rfl

/-- RNDRD and MSKRD take 512 bits of the cluster's DRBG. -/
theorem randomField {s t : State} {r : Fin 1024} {iss : Issue} {f : MField} {code : Nat} (hcode : code = 10 ∨ code = 11) (hword : MemIs s r code f) :
    memField t r.val iss (wordNow s r.val) = some (fieldLoad512 iss.before t.free f none (Config.freeWord 512 t.free)) := by
  obtain ⟨rfl, hf⟩ := hword
  have h9 : mopOf (wordNow s r.val) ≠ 9 := by omega
  simp only [memField, if_neg h9, if_pos hcode, hf]
  rfl

/-- A draw of the DRBG counts one call of its instance. -/
theorem drbgCalls_count (s : State) (i : Nat) : drbgCalls (drbgCount s i) i = drbgCalls s i + (if i < s.rng.calls.length then 1 else 0) := by
  simp only [drbgCalls, drbgCount, modRng, getD_listMod]
  split <;> simp_all

/-- Settles O7: each read fills its register; RNDRD also notes the draw at its job and counts it at its DRBG. -/
theorem registerReads : Obligations.RegisterReads := by
  intro s t r f iss c x put rnd htake _
  refine ⟨fun k j y hword hjob hattest _ hslot => ⟨slotWord t j, fun i hi => ?_, keyrd_next htake hword hjob⟩, fun k j hword hjob => ?_,
    fun hword => (mskrd_eq r f s).trans (registerRead_next htake hword (randomField (.inr rfl) hword))⟩
  · simp only [slotWord, if_neg hattest, hslot]
    exact byte_keyWord y.key i hi
  · have hjobs : tblGet t.jobs k = some j := by
      simp only [reedJob, Option.bind_eq_some_iff, Option.map_eq_some_iff] at hjob
      obtain ⟨_, _, _, hget, heq⟩ := hjob
      cases heq
      exact hget
    refine ⟨_, (rndrd_eq r f s).trans (registerRead_next htake hword (randomField (.inl rfl) hword)), ?_⟩
    simp only [rndrdAfter, hjob]
    refine ⟨rfl, ?_, ?_, ?_, ?_⟩
    · rw [modJob_jobs, tblGet_mod_same]
      exact congrArg _ hjobs
    · exact fun i hi => tblGet_mod_other _ _ _ _ hi
    · exact drbgCalls_count _ _
    · simp only [modJob, modRng, drbgCount, acted, setReed]

end Sys2Proof.PortRows

/-! ### The bellows port (R159, R160, R177) -/

namespace Sys2Proof.PortRows

open Sys2Proof Sys2Proof.Machine Sys2Proof.Safety Sys2Proof.Rows Sys2Proof.Laws Sys2Proof.ReedRows Sys2Proof.StateFacts

/-! #### Sends -/

/-- A field of the bellows port acts on the reed's core. -/
theorem belRow_next {s t : State} {r : Fin 1024} {iss : Issue} {code : Nat} {f : BField} {res : FieldRes} (htake : Takes s t r iss 3)
    (hword : BelIs s r code f) (hfield : belField t iss (wordNow s r.val) = some res) :
    whenRunning s (belStep s r code f)
      = .next (acted t r 3 iss res.free (res.upd (startBeat iss) (beatCount (gsize iss.before)) (reedAt t r.val).core)) := by
  have hw : wordField t r.val iss (wordNow s r.val) 3 = some res := hfield
  rw [whenRunning_of _ _ htake.live, belStep, rowStep_acts htake.toIssues _ _ (by simp [hword.1, hword.2]), actField_acts htake _ _ hw]
  rfl

/-- A field whose operation is a send of `result`. -/
theorem sendRow_next {s t : State} {r : Fin 1024} {iss : Issue} {code : Nat} {f : BField} {reads : List Nat} {bad group : Bool} {result : Bytes}
    (htake : Takes s t r iss 3) (hword : BelIs s r code f)
    (hfield : belField t iss (wordNow s r.val) = some (fieldSend iss.before t.free (iss.grant.getD (0, 0)) reads bad group result)) :
    whenRunning s (belStep s r code f) = .next (sent t r iss group result) :=
  belRow_next htake hword hfield

theorem bkeccak_next {s t : State} {r : Fin 1024} {iss : Issue} {f : BField} (htake : Takes s t r iss 3) (hword : BelIs s r 1 f) :
    exec (.bkeccak r f) s = .next (sent t r iss true
      ((keccakF (lanes (regsBytes iss.before f.a.val 4) 25 8 64)).flatMap (fun x => leBytes 8 x.toNat))) := by
  have hexec : exec (.bkeccak r f) s = execBkeccak r f s := rfl
  have hfield : belField t iss (wordNow s r.val) = some (opBkeccak iss.before t.free (iss.grant.getD (0, 0)) f) := by
    simp [belField, hword.1, hword.2]
  rw [hexec, execBkeccak]
  exact sendRow_next htake hword hfield

theorem bsha256_next {s t : State} {r : Fin 1024} {iss : Issue} {f : BField} (htake : Takes s t r iss 3) (hword : BelIs s r 2 f) :
    exec (.bsha256 r f) s = .next (sent t r iss false
      ((sha256Compress (lanes (regsBytes iss.before f.a.val 1) 8 4 32) (regsBytes iss.before f.b.val 1)).flatMap (fun x => leBytes 4 x.toNat))) := by
  have hexec : exec (.bsha256 r f) s = execBsha256 r f s := rfl
  have hfield : belField t iss (wordNow s r.val) = some (opBsha256 iss.before t.free (iss.grant.getD (0, 0)) f) := by
    simp [belField, hword.1, hword.2]
  rw [hexec, execBsha256]
  exact sendRow_next htake hword hfield

theorem bsha512_next {s t : State} {r : Fin 1024} {iss : Issue} {f : BField} (htake : Takes s t r iss 3) (hword : BelIs s r 3 f) :
    exec (.bsha512 r f) s = .next (sent t r iss false
      ((sha512Compress (lanes (regsBytes iss.before f.a.val 1) 8 8 64) (regsBytes iss.before f.b.val 2)).flatMap (fun x => leBytes 8 x.toNat))) := by
  have hexec : exec (.bsha512 r f) s = execBsha512 r f s := rfl
  have hfield : belField t iss (wordNow s r.val) = some (opBsha512 iss.before t.free (iss.grant.getD (0, 0)) f) := by
    simp [belField, hword.1, hword.2]
  rw [hexec, execBsha512]
  exact sendRow_next htake hword hfield

/-! #### Results -/

/-- The result of a send becomes ready once its time is over (R160). -/
theorem resultReady_next {s : State} {r : Fin 1024} {x : Send} (hrun : isRunning s = true) (hexhale : s.brt.exhale = false)
    (hsend : (reedAt s r.val).core.send = some x) (htime : x.readyAt ≤ s.brt.cycle) :
    ∃ u, exec (.bellowsResultReady r) s = .next u ∧ (reedAt u r.val).core = { (reedAt s r.val).core with send := some { x with ready := true } } ∧
      (∀ k, k ≠ r.val → reedAt u k = reedAt s k) ∧ { u with reeds := s.reeds } = s := by
  have hexec : exec (.bellowsResultReady r) s = .next (resultReady s r.val) := whenRunning_of _ _ hrun
  refine ⟨_, hexec, ?_⟩
  have hready : ((reedAt s r.val).core.send.any (fun x => x.readyAt ≤ s.brt.cycle) && !s.brt.exhale) = true := by
    simp [hsend, htime, hexhale]
  simp only [resultReady, if_pos hready, modReed]
  refine ⟨?_, fun k hk => reedAt_setReed_other _ _ _ _ hk, rfl⟩
  rw [reedAt_setReed]
  simp [hsend]

/-- Registers written one after the other from V(a) on. -/
def vSetMany (a : Nat) (val : Nat → BitVec 512) (n : Nat) (x : ReedCore) : ReedCore :=
  (List.range n).foldl (fun c i => vSet c (a + i) (val i)) x

theorem vSetMany_succ (a : Nat) (val : Nat → BitVec 512) (n : Nat) (x : ReedCore) :
    vSetMany a val (n + 1) x = vSet (vSetMany a val n x) (a + n) (val n) := by
  unfold vSetMany
  rw [List.range_succ, List.foldl_append]
  rfl

theorem vGet_vSetMany (a : Nat) (val : Nat → BitVec 512) (n k : Nat) (x : ReedCore) :
    vGet (vSetMany a val n x) k = if a ≤ k ∧ k < a + n then val (k - a) else vGet x k := by
  induction n with
  | zero => rw [if_neg (by omega)]; rfl
  | succ n ih =>
    rw [vSetMany_succ]
    by_cases hk : k = a + n
    · subst hk
      rw [vGet_set_same, if_pos (by omega), Nat.add_sub_cancel_left]
    · rw [vGet_set_other _ _ _ _ hk, ih]
      have hiff : (a ≤ k ∧ k < a + (n + 1)) ↔ (a ≤ k ∧ k < a + n) := by omega
      simp only [hiff]

theorem vSetMany_frame (a : Nat) (val : Nat → BitVec 512) (n : Nat) (x : ReedCore) : { vSetMany a val n x with v := x.v } = x := by
  induction n with
  | zero => rfl
  | succ n ih => rw [vSetMany_succ]; exact ih

/-- A register's bytes are those it was made of. -/
theorem leBytes_regOf (b : Bytes) (h : b.length = 64) : leBytes 64 (BitVec.ofNat 512 (leNat b)).toNat = b := by
  apply List.ext_getElem
  · rw [length_leBytes, h]
  · intro i hi hib
    have hlt : i < 64 := by rw [length_leBytes] at hi; exact hi
    have hbyte := getD_leBytes 64 (BitVec.ofNat 512 (leNat b)).toNat i hlt
    rw [byte_ofNat_leNat b (by omega)] at hbyte
    rwa [List.getD_eq_getElem _ _ hi, List.getD_eq_getElem _ _ hib] at hbyte

/-- Pieces of 64 bytes, one after the other, are the whole. -/
theorem flatMap_slices (b : Bytes) (n : Nat) (h : 64 * n ≤ b.length) : (List.range n).flatMap (fun i => slice b (64 * i) 64) = b.take (64 * n) := by
  induction n with
  | zero => simp
  | succ n ih =>
    rw [List.range_succ, List.flatMap_append, ih (by omega), Nat.mul_succ, List.take_add]
    simp [slice]

/-- The registers filled from a byte string hold it. -/
theorem regsBytes_vSetMany (a n : Nat) (b : Bytes) (h : b.length = 64 * n) (x : ReedCore) :
    regsBytes (vSetMany a (fun i => BitVec.ofNat 512 (le b (64 * i) 64)) n x) a n = b := by
  have hreg : ∀ i ∈ List.range n, leBytes 64 (vGet (vSetMany a (fun i => BitVec.ofNat 512 (le b (64 * i) 64)) n x) (a + i)).toNat
      = slice b (64 * i) 64 := by
    intro i hi
    have hin : i < n := List.mem_range.mp hi
    rw [vGet_vSetMany, if_pos (by omega), Nat.add_sub_cancel_left]
    refine leBytes_regOf _ ?_
    rw [slice, List.length_take, List.length_drop]
    omega
  rw [regsBytes, List.flatMap_congr hreg, flatMap_slices b n (by omega), ← h, List.take_length]

/-- The bytes a result fills its registers with, the rest of them free (log 1). -/
def resultBytes (fr : Nat) (x : Send) : Bytes :=
  x.result ++ leBytes (64 * (if x.group then 4 else 1) - x.result.length) (Config.freeWord 2048 fr).toNat

theorem putResult_eq (fr a : Nat) (x : Send) (c : ReedCore) :
    putResult fr a x c = vSetMany a (fun i => BitVec.ofNat 512 (le (resultBytes fr x) (64 * i) 64)) (if x.group then 4 else 1) c := rfl

theorem length_resultBytes (fr : Nat) (x : Send) (h : x.result.length ≤ 64 * (if x.group then 4 else 1)) :
    (resultBytes fr x).length = 64 * (if x.group then 4 else 1) := by
  rw [resultBytes, List.length_append, length_leBytes]
  omega

theorem brecv_next {s t : State} {r : Fin 1024} {iss : Issue} {f : BField} {x : Send} (htake : Takes s t r iss 3) (hword : BelIs s r 4 f)
    (hsend : iss.before.send = some x) : exec (.brecv r f false) s
      = .next (acted t r 3 iss 1 { putResult t.free f.a.val x (reedAt t r.val).core with send := none }) := by
  have hexec : exec (.brecv r f false) s = whenRunning s (belStep s r 4 f) := rfl
  have hfield : belField t iss (wordNow s r.val) = some (opBrecv iss.before t.free f) := by
    simp [belField, hword.1, hword.2]
  rw [hexec, belRow_next htake hword hfield]
  simp only [opBrecv, hsend]

/-! #### Parity errors -/

/-- The first charge of a unit in a job counts 1. -/
theorem chargesOf_first (s : State) (u : UnitName) (j : Nat) (h : (u, j) ∉ s.health.charges) :
    chargesOf { s with health := { s.health with charges := (u, j) :: s.health.charges } } u j = 1 := by
  have hnone : s.health.charges.filter (· = (u, j)) = [] :=
    List.filter_eq_nil_iff.mpr (fun e he heq => h (by rw [← of_decide_eq_true heq]; exact he))
  have hcons : ((u, j) :: s.health.charges).filter (· = (u, j)) = [(u, j)] := by
    rw [List.filter_cons, hnone, if_pos (decide_eq_true rfl)]
  exact congrArg List.length hcons

/-- A first parity error of a bellows is charged to it and mutes nothing (R179). -/
theorem chargeBellows_first (s : State) (c b : Nat) (h : (UnitName.bellows (Fin.ofNat 64 c) (Fin.ofNat 4 b), 0) ∉ s.health.charges) :
    chargeBellows s c b
      = { s with health := { s.health with charges := (.bellows (Fin.ofNat 64 c) (Fin.ofNat 4 b), 0) :: s.health.charges } } := by
  refine if_neg ?_
  rw [chargesOf_first s _ 0 h]
  decide

/-- The frames of a reed are zero once dropped. -/
theorem dropFrames_zero (c : ReedCore) (a : Nat) (hlo : 0x7F00 ≤ a) (hhi : a < 0x8000) : storeGet (dropFrames c).opmem a = 0 := by
  have hlen : (zeros 256).length = 256 := List.length_replicate
  have hframe : frameAddr 0 = 0x7F00 := rfl
  rw [dropFrames, storeGet_write, hframe, hlen, if_pos (by omega)]
  exact List.getD_replicate 0 (by omega)

/-- The kernel at an entry (R195). -/
theorem enterKernel_core (e : Nat) (c : ReedCore) : (enterKernel e c).level = 1 ∧ (enterKernel e c).entry = e ∧ (enterKernel e c).upc = 0x80 * e ∧
    (enterKernel e c).stack = [] ∧ (enterKernel e c).opmem = c.opmem :=
  ⟨rfl, rfl, rfl, rfl, rfl⟩

/-- The kernel at the entry of parity errors, with no frame (R178, R195). -/
theorem enterKernel_parity (c : ReedCore) : (enterKernel 2 (dropFrames c)).level = 1 ∧ (enterKernel 2 (dropFrames c)).entry = 2 ∧
    (enterKernel 2 (dropFrames c)).upc = 0x100 ∧ (enterKernel 2 (dropFrames c)).stack = [] ∧
    ∀ a, 0x7F00 ≤ a → a < 0x8000 → storeGet (enterKernel 2 (dropFrames c)).opmem a = 0 := by
  obtain ⟨hlevel, hentry, hupc, hstack, hmem⟩ := enterKernel_core 2 (dropFrames c)
  refine ⟨hlevel, hentry, hupc, hstack, fun a hlo hhi => ?_⟩
  rw [hmem, dropFrames_zero c a hlo hhi]

theorem reedJob_get {s : State} {r k : Nat} {j : Job} (h : reedJob s r = some (k, j)) : tblGet s.jobs k = some j := by
  simp only [reedJob, Option.bind_eq_some_iff, Option.map_eq_some_iff] at h
  obtain ⟨_, _, _, hget, heq⟩ := h
  cases heq
  exact hget

/-- A job touched by a parity error is marked for its replay. -/
theorem touchJob_job {s : State} {k : Nat} {j : Job} (h : tblGet s.jobs k = some j) : tblGet (touchJob s k).jobs k = some { j with
    replayed := true
    replayAt := if s.brt.cycle + 128 ≤ 2 ^ s.brt.log2Len then s.brt.count + 1 else s.brt.count + 2 } := by
  rw [touchJob, modJob_jobs, tblGet_mod_same, h]
  rfl

theorem brecvParity_trap {t : State} {r : Fin 1024} {iss : Issue} {x : Send} {k : Nat} {j : Job} (hissue : (reedAt t r.val).issue = some iss)
    (hsend : iss.before.send = some x) (hjob : reedJob t r.val = some (k, j))
    (hfirst : (UnitName.bellows (Fin.ofNat 64 (r.val / 16)) (Fin.ofNat 4 x.bellows), 0) ∉ t.health.charges) :
    ParityTrap t (brecvParity t r.val) r k j ∧
      (brecvParity t r.val).health.charges = (.bellows (Fin.ofNat 64 (r.val / 16)) (Fin.ofNat 4 x.bellows), 0) :: t.health.charges := by
  have hbefore : (issueOf (reedAt t r.val)).before.send = some x := by rw [issueOf, hissue]; exact hsend
  simp only [brecvParity, hjob, hbefore]
  rw [chargeBellows_first (modReed (touchJob t k) r.val _) (reedCluster r.val) x.bellows hfirst]
  refine ⟨⟨touchJob_job (reedJob_get hjob), fun i hi => tblGet_mod_other _ _ _ _ hi, ?_, fun q hq => ?_⟩, rfl⟩
  · have hreed := reedAt_setReed (touchJob t k) r.val { reedAt (touchJob t k) r.val with
      issue := none
      core := enterKernel 2 (dropFrames { (reedAt (touchJob t k) r.val).core with send := none }) }
    have hcore := congrArg Reed.core hreed
    refine ⟨congrArg Reed.issue hreed, ?_⟩
    exact hcore ▸ enterKernel_parity _
  · exact reedAt_setReed_other _ _ _ _ hq

theorem brecv_parity_next {s t : State} {r : Fin 1024} {iss : Issue} {f : BField} (htake : Takes s t r iss 3) (hword : BelIs s r 4 f) :
    exec (.brecv r f true) s = .next (brecvParity t r.val) := by
  have hexec : exec (.brecv r f true) s = whenRunning s (rowStep s r.val (fun w => bopOf w = 4 && bFieldOf w = f) (fun t =>
      if bitOf (doneOf (wordNow t r.val) (issueOf (reedAt t r.val))) 3 then t else brecvParity t r.val)) := rfl
  have hissue : issueOf (reedAt t r.val) = iss := by rw [issueOf, htake.issue]; rfl
  rw [hexec, whenRunning_of _ _ htake.live, rowStep_acts htake.toIssues _ _ (by simp [hword.1, hword.2]), hissue, (issues_word htake.toIssues).1,
    if_neg (by simp [htake.undone])]

/-- Settles O8: the three sends, readiness, and BRECV with and without a parity error. -/
theorem bellowsPort : Obligations.BellowsPort := by
  intro s t r f iss c a b
  refine ⟨bkeccak_next, bsha256_next, bsha512_next, fun x => resultReady_next, fun x htake hword hsend hlen => ?_,
    fun x k j htake hword hsend hjob hfirst => ⟨_, brecv_parity_next htake hword, brecvParity_trap htake.issue hsend hjob hfirst⟩⟩
  refine ⟨_, brecv_next htake hword hsend, rfl, ?_, fun k hk => ?_, ?_⟩
  · have hbytes : regsBytes (putResult t.free a x (reedAt t r.val).core) a (if x.group then 4 else 1) = resultBytes t.free x :=
      regsBytes_vSetMany a _ _ (length_resultBytes _ _ hlen) _
    refine (congrArg (List.take x.result.length) hbytes).trans ?_
    rw [resultBytes, List.take_left]
  · refine (vGet_vSetMany a _ _ k _).trans (if_neg ?_)
    omega
  · exact congrArg (fun y : ReedCore => { y with send := (reedAt t r.val).core.send }) (vSetMany_frame a _ _ (reedAt t r.val).core)

end Sys2Proof.PortRows

/-! ### The MAU port (R129, R163, R177) -/

namespace Sys2Proof.PortRows

open Sys2Proof Sys2Proof.Machine Sys2Proof.Safety Sys2Proof.Rows Sys2Proof.Laws Sys2Proof.ReedRows Sys2Proof.StateFacts

/-! #### Wiping the units of a job -/

/-- A reed without a defect is wiped; no other reed, job or cluster is touched. -/
theorem wipeReed_sound (s : State) (r : Nat) (h : (reedAt s r).defect = false) :
    reedAt (wipeReed s r) r = wiped s r ∧ (∀ q, q ≠ r → reedAt (wipeReed s r) q = reedAt s q) ∧
      { wipeReed s r with reeds := s.reeds, rng := s.rng } = s := by
  have hmute : ¬ ((reedAt s r).defect && !reedMuted s r) = true := by simp [h]
  simp only [wipeReed, if_neg hmute]
  exact ⟨reedAt_setReed s r _, fun q hq => reedAt_setReed_other s r q _ hq, rfl⟩

/-- The reeds of a list, none with a defect, are wiped one after the other. -/
theorem wipeReeds_sound (l : List Nat) (s : State) (h : ∀ r ∈ l, (reedAt s r).defect = false) :
    (∀ r ∈ l, reedAt (l.foldl wipeReed s) r = wiped s r) ∧ (∀ q, q ∉ l → reedAt (l.foldl wipeReed s) q = reedAt s q) ∧
      { l.foldl wipeReed s with reeds := s.reeds, rng := s.rng } = s := by
  induction l generalizing s with
  | nil => exact ⟨by simp, fun _ _ => rfl, rfl⟩
  | cons r rs ih =>
    obtain ⟨hreed, hothers, hframe⟩ := wipeReed_sound s r (h r List.mem_cons_self)
    have hwiped : ∀ q, wiped (wipeReed s r) q = wiped s q := by
      intro q
      by_cases hq : q = r
      · subst hq
        simp only [wiped, hreed]
      · simp only [wiped, hothers q hq]
    have hdefect : ∀ q ∈ rs, (reedAt (wipeReed s r) q).defect = false := by
      intro q hq
      by_cases hqr : q = r
      · subst hqr
        rw [hreed]
        exact h q List.mem_cons_self
      · rw [hothers q hqr]
        exact h q (List.mem_cons_of_mem _ hq)
    obtain ⟨hrest, hrestOthers, hrestFrame⟩ := ih (wipeReed s r) hdefect
    rw [List.foldl_cons]
    refine ⟨fun q hq => ?_, fun q hq => ?_, ?_⟩
    · by_cases hin : q ∈ rs
      · rw [hrest q hin, hwiped]
      · obtain rfl : q = r := by simpa [hin] using hq
        rw [hrestOthers q hin, hreed]
    · rw [List.mem_cons, not_or] at hq
      rw [hrestOthers q hq.2, hothers q hq.1]
    · exact (congrArg (fun u : State => { u with reeds := s.reeds, rng := s.rng }) hrestFrame).trans hframe

/-- The reeds of a job's unit are wiped, and its MAU where it holds one. -/
theorem wipeUnits_sound (s : State) (j : Job) (h : ∀ r ∈ unitReeds j.unit, (reedAt s r).defect = false) :
    (∀ r ∈ unitReeds j.unit, reedAt (wipeUnits s j) r = wiped s r) ∧ (∀ q, q ∉ unitReeds j.unit → reedAt (wipeUnits s j) q = reedAt s q) ∧
      { wipeUnits s j with reeds := s.reeds, rng := s.rng, clusters := s.clusters } = s := by
  obtain ⟨hreeds, hothers, hframe⟩ := wipeReeds_sound (unitReeds j.unit) s h
  have hframe' := congrArg (fun u : State => { u with clusters := s.clusters }) hframe
  unfold wipeUnits
  cases hunit : j.unit <;> (rw [hunit] at hreeds hothers hframe'; exact ⟨hreeds, hothers, hframe'⟩)

/-- A job that runs waits for its replay, its units wiped (R177, R178). -/
theorem awaitReplay_parity (s : State) (k : Nat) (j : Job) (hjob : tblGet s.jobs k = some j) (hstage : j.stage = .running)
    (hdefect : ∀ r ∈ unitReeds j.unit, (reedAt s r).defect = false) : MauParity s (awaitReplay (touchJob s k) k) k j := by
  have htouched := touchJob_job hjob
  have hawait : awaitReplay (touchJob s k) k = modJob (wipeUnits (touchJob s k) { j with
      replayed := true
      replayAt := if s.brt.cycle + 128 ≤ 2 ^ s.brt.log2Len then s.brt.count + 1 else s.brt.count + 2 }) k
      (fun x => { x with stage := if x.stage = .aborting then .aborting else .replayWait }) := by
    rw [awaitReplay, htouched]
  obtain ⟨hreeds, hothers, hframe⟩ := wipeUnits_sound (touchJob s k) { j with
      replayed := true
      replayAt := if s.brt.cycle + 128 ≤ 2 ^ s.brt.log2Len then s.brt.count + 1 else s.brt.count + 2 } hdefect
  have hjobs := congrArg State.jobs hframe
  rw [hawait]
  refine ⟨?_, fun i hi => ?_, hreeds, hothers⟩
  · rw [modJob_jobs, tblGet_mod_same]
    rw [show (wipeUnits (touchJob s k) _).jobs = (touchJob s k).jobs from hjobs, htouched]
    simp [hstage]
  · rw [modJob_jobs, tblGet_mod_other _ _ _ _ hi]
    rw [show (wipeUnits (touchJob s k) _).jobs = (touchJob s k).jobs from hjobs]
    exact tblGet_mod_other _ _ _ _ hi

/-! #### MPUT, MGET and MRUN -/

/-- The MAU coupled to the reed's job, after a field of the MAU port acted. -/
theorem mauRow_next {s t : State} {r : Fin 1024} {iss : Issue} {code k : Nat} {f : AField} {after : ReedCore → Mau → Mau} {res : FieldRes}
    (htake : Takes s t r iss 4) (hword : MauIs s r code f) (hmau : coupledMau t r.val = some k)
    (hfield : mauField t r.val iss (wordNow s r.val) = some res) :
    whenRunning s (mauStep s r code f after) = .next (modCluster
      (acted t r 4 iss res.free (res.upd (startBeat iss) (beatCount (gsize iss.before)) (reedAt t r.val).core)) k
      (fun q => { q with mau := after iss.before q.mau })) := by
  have hw : wordField t r.val iss (wordNow s r.val) 4 = some res := hfield
  have hissue : issueOf (reedAt t r.val) = iss := by rw [issueOf, htake.issue]; rfl
  rw [whenRunning_of _ _ htake.live, mauStep, rowStep_acts htake.toIssues _ _ (by simp [hword.1, hword.2]), actField_acts htake _ _ hw, hmau, hissue]

theorem mput_next {s t : State} {r : Fin 1024} {iss : Issue} {k : Nat} {f : AField} (htake : Takes s t r iss 4) (hword : MauIs s r 1 f)
    (hmau : coupledMau t r.val = some k) :
    exec (.mput r f) s = .next (modCluster (acted t r 4 iss 0 (reedAt t r.val).core) k (fun q => { q with mau := { q.mau with
      mem := storeWrite q.mau.mem (64 * f.off.toNat) (regsBytes iss.before f.a.val mauGroup) } })) := by
  have hexec : exec (.mput r f) s = execMput r f s := rfl
  have hfield : mauField t r.val iss (wordNow s r.val) = some (opMput (some (clusterAt t k).mau) iss.before t.free f) := by
    simp [mauField, hword.1, hword.2, hmau]
  rw [hexec, execMput, mauRow_next htake hword hmau hfield]
  rfl

theorem mget_next {s t : State} {r : Fin 1024} {iss : Issue} {k : Nat} {f : AField} (htake : Takes s t r iss 4) (hword : MauIs s r 2 f)
    (hmau : coupledMau t r.val = some k) : exec (.mget r ⟨f, false⟩) s = .next (modCluster
      (acted t r 4 iss 0 (mgetRegs f (clusterAt t k).mau (reedAt t r.val).core)) k (fun q => { q with mau := q.mau })) := by
  have hexec : exec (.mget r ⟨f, false⟩) s = whenRunning s (mauStep s r 2 f (fun _ m => m)) := rfl
  have hfield : mauField t r.val iss (wordNow s r.val) = some (opMget (some (clusterAt t k).mau) iss.before t.free f) := by
    simp [mauField, hword.1, hword.2, hmau]
  rw [hexec, mauRow_next htake hword hmau hfield]
  rfl

theorem mgetRegs_eq (f : AField) (m : Mau) (c : ReedCore) : mgetRegs f m c = vSetMany f.a.val
    (fun i => BitVec.ofNat 512 (leNat ((List.range 64).map (fun b => mauByte m (64 * f.off.toNat + 64 * i + b))))) mauGroup c := rfl

/-- The bytes of a register MGET fills. -/
theorem mget_byte (m : Mau) (a b : Nat) (hb : b < 64) :
    BitVec.ofNat 8 ((BitVec.ofNat 512 (leNat ((List.range 64).map (fun b => mauByte m (a + b))))).toNat / 2 ^ (8 * b)) = mauByte m (a + b) := by
  rw [byte_ofNat_leNat _ (by simp), List.getD_eq_getElem _ _ (by simpa using hb), List.getElem_map, List.getElem_range]

/-- A cluster set to itself, as MGET leaves it. -/
theorem clusterAt_modCluster_self (s : State) (k n : Nat) : clusterAt (modCluster s k (fun q => { q with mau := q.mau })) n = clusterAt s n := by
  by_cases hn : n = k
  · subst hn
    exact clusterAt_setCluster s n _
  · exact clusterAt_setCluster_other s k n _ hn

theorem mrun_next {s t : State} {r : Fin 1024} {iss : Issue} {k : Nat} {f : AField} (htake : Takes s t r iss 4) (hword : MauIs s r 3 f)
    (hmau : coupledMau t r.val = some k) : exec (.mrun r f) s = .next (modCluster (acted t r 4 iss 0 (reedAt t r.val).core) k
      (fun q => { q with mau := { q.mau with
        op := some (mauOpOf (sGet iss.before f.s.val).toNat)
        acted := false
        left := mauCycles q.mau (mauOpOf (sGet iss.before f.s.val).toNat) } })) := by
  have hexec : exec (.mrun r f) s = execMrun r f s := rfl
  have hfield : mauField t r.val iss (wordNow s r.val) = some (opMrun (some (clusterAt t k).mau) iss.before t.free f) := by
    simp [mauField, hword.1, hword.2, hmau]
  rw [hexec, execMrun, mauRow_next htake hword hmau hfield]
  rfl

/-- The word MRUN takes from its scalar (R230). -/
theorem mauOpOf_eq (x : Nat) : mauOpOf x = ⟨x % 16, x / 16 % 16, x / 256 % 16, x / 4096 % 16⟩ := by
  simp [mauOpOf, bitsOf]

/-! #### A parity error in the MAU -/

theorem mget_parity_next {s t : State} {r : Fin 1024} {iss : Issue} {f : AField} (htake : Takes s t r iss 4) (hword : MauIs s r 2 f) :
    exec (.mget r ⟨f, true⟩) s = .next (mgetParity t r.val) := by
  have hexec : exec (.mget r ⟨f, true⟩) s = whenRunning s (rowStep s r.val (fun w => aopOf w = 2 && aFieldOf w = f) (fun t =>
      if bitOf (doneOf (wordNow t r.val) (issueOf (reedAt t r.val))) 4 then t else mgetParity t r.val)) := rfl
  have hissue : issueOf (reedAt t r.val) = iss := by rw [issueOf, htake.issue]; rfl
  rw [hexec, whenRunning_of _ _ htake.live, rowStep_acts htake.toIssues _ _ (by simp [hword.1, hword.2]), hissue, (issues_word htake.toIssues).1,
    if_neg (by simp [htake.undone])]

/-- The unit of a reed's job that is coupled to a MAU. -/
theorem unit_of_coupledMau {s : State} {r k n : Nat} {j : Job} (h : coupledMau s r = some k) (hjob : reedJob s r = some (n, j)) :
    ∃ q, j.unit = .mau k q := by
  simp only [coupledMau, hjob] at h
  cases hunit : j.unit with
  | mau c q => rw [hunit] at h; exact ⟨q, by rw [Option.some.inj h]⟩
  | none => rw [hunit] at h; cases h
  | reed q => rw [hunit] at h; cases h
  | gang cs => rw [hunit] at h; cases h

/-- The MAU of a job whose units were wiped has its reset state. -/
theorem wipeUnits_mau (s : State) (j : Job) (k q : Nat) (h : j.unit = .mau k q) : (clusterAt (wipeUnits s j) k).mau = Mau.init := by
  simp only [wipeUnits, h, wipeMau, modCluster, clusterAt_setCluster]

theorem mgetParity_replay {t : State} {r : Fin 1024} {k n : Nat} {j : Job} (hmau : coupledMau t r.val = some k)
    (hjob : reedJob t r.val = some (n, j)) (hfirst : j.replays = 0) :
    mgetParity t r.val = awaitReplay (touchJob t n) n := by
  simp only [mgetParity, hjob, hmau, inReplay, reedJob_get hjob, hfirst]
  rfl

theorem awaitReplay_mau (s : State) (n k q : Nat) (j : Job) (hjob : tblGet s.jobs n = some j) (hunit : j.unit = .mau k q) :
    (clusterAt (awaitReplay s n) k).mau = Mau.init := by
  simp only [awaitReplay, hjob]
  exact wipeUnits_mau s j k q hunit

/-- Settles O9: MPUT, MGET and MRUN by what they do to reed and MAU, and the replay after a parity error in the bytes MGET reads. -/
theorem mauPort : Obligations.MauPort := by
  intro s t r f iss k c m x o htake hmau
  refine ⟨fun hword => mput_next htake hword hmau, fun hword => ⟨mgetRegs f m x, _, mget_next htake hword hmau, rfl, fun i b hi hb => ?_,
    fun j hj => ?_, ?_, fun n => clusterAt_modCluster_self _ _ _, rfl⟩, fun hword => ?_, fun n j hword hjob hstage hfirst hdefect => ?_⟩
  · rw [mgetRegs_eq, vGet_vSetMany, if_pos (by omega), Nat.add_sub_cancel_left, mget_byte _ _ _ hb]
  · rw [mgetRegs_eq, vGet_vSetMany, if_neg (by omega)]
  · exact vSetMany_frame f.a.val _ _ x
  · rw [mrun_next htake hword hmau, mauOpOf_eq]
  · obtain ⟨q, hunit⟩ := unit_of_coupledMau hmau hjob
    refine ⟨_, mget_parity_next htake hword, ?_⟩
    rw [mgetParity_replay hmau hjob hfirst]
    exact ⟨awaitReplay_parity t n j (reedJob_get hjob) hstage hdefect, awaitReplay_mau _ n k q _ (touchJob_job (reedJob_get hjob)) hunit⟩

end Sys2Proof.PortRows

/-! ### The operations of the MAU (R231, R232) -/

namespace Sys2Proof.PortRows

open Sys2Proof Sys2Proof.Machine Sys2Proof.Safety Sys2Proof.Rows Sys2Proof.Laws Sys2Proof.ReedRows Sys2Proof.StateFacts

/-! #### Arithmetic modulo a number -/

/-- Squaring and multiplying over the bits of an exponent. -/
theorem powModFuel_eq (n : Nat) : ∀ b e m acc, e < 2 ^ n → acc < m → powModFuel n b e m acc = acc * b ^ e % m := by
  induction n with
  | zero =>
    intro b e m acc he hacc
    have h0 : e = 0 := by simpa using he
    rw [h0, pow_zero, Nat.mul_one, Nat.mod_eq_of_lt hacc]
    rfl
  | succ n ih =>
    intro b e m acc he hacc
    have hm : 0 < m := Nat.zero_lt_of_lt hacc
    have hhalf : e / 2 < 2 ^ n := by rw [Nat.pow_succ] at he; omega
    have hsquare : ∀ k, acc * (b * b % m) ^ k % m = acc * (b ^ (2 * k)) % m := by
      intro k
      rw [Nat.mul_mod, ← Nat.pow_mod, ← Nat.mul_mod, pow_mul, pow_two]
    rw [powModFuel]
    by_cases hodd : e % 2 = 1
    · have hexp : b ^ e = b ^ (2 * (e / 2)) * b := by rw [← pow_succ]; congr 1; omega
      rw [if_pos hodd, ih _ _ _ _ hhalf (Nat.mod_lt _ hm), Nat.mul_mod, Nat.mod_mod, ← Nat.pow_mod, ← Nat.mul_mod, hexp, pow_mul, pow_two]
      congr 1
      ring
    · have hexp : b ^ e = b ^ (2 * (e / 2)) := by congr 1; omega
      rw [if_neg hodd, ih _ _ _ _ hhalf hacc, hsquare, hexp]

theorem powMod_eq (b e m : Nat) (hm : 0 < m) : powMod b e m = b ^ e % m := by
  rw [powMod]
  by_cases he : e = 0
  · rw [if_pos he, he, pow_zero]
    rfl
  · rw [if_neg he, powModFuel_eq _ _ _ _ _ Nat.lt_log2_self (Nat.mod_lt _ hm), Nat.mod_mul_mod, Nat.one_mul, ← Nat.pow_mod]

/-- A power lies below the modulus and is the power modulo it. -/
theorem powMod_spec (b e m : Nat) (hm : 0 < m) : powMod b e m < m ∧ powMod b e m % m = b ^ e % m := by
  rw [powMod_eq b e m hm]
  exact ⟨Nat.mod_lt _ hm, Nat.mod_mod _ _⟩

/-- The model's difference modulo a number is that of the integers. -/
theorem subModP_eq (a b p : Nat) (hp : 0 < p) : subModP a b p = (((a : Int) - b) % (p : Int)).toNat := by
  have hb : b % p < p := Nat.mod_lt _ hp
  have hda : (p : Int) * (a / p : Nat) + (a % p : Nat) = a := by exact_mod_cast Nat.div_add_mod a p
  have hdb : (p : Int) * (b / p : Nat) + (b % p : Nat) = b := by exact_mod_cast Nat.div_add_mod b p
  have hdiff : (a : Int) - b = ((a % p + (p - b % p) : Nat) : Int) + (p : Int) * ((a / p : Nat) - (b / p : Nat) - 1) := by
    rw [Nat.cast_add, Nat.cast_sub (Nat.le_of_lt hb)]
    linear_combination hdb - hda
  rw [hdiff, Int.add_mul_emod_self_left]
  rfl

/-! #### An operation that runs -/

/-- An operation that has not acted acts once. -/
theorem mauRun_did {s : State} {c : Fin 64} {code : Nat} {o : MauOp} (h : MauRuns s c code o) (f : Mau → Nat → MauOp → Mau) :
    whenRunning s (mauRun s c code f) = .next (mauDid s c.val (f (clusterAt s c.val).mau s.free o)) := by
  obtain ⟨hrun, hop, hcode, hacted⟩ := h
  rw [whenRunning_of _ _ hrun]
  simp only [mauRun, hop, hcode, hacted]
  rfl

/-- A row whose operation leaves the row's number in A[D]. -/
theorem mauRow_holds {row : MauRow} {f : Mau → Nat → MauOp → Mau} {s : State} {c : Fin 64} {o : MauOp}
    (hexec : exec (row.instr c) s = whenRunning s (mauRun s c row.code f))
    (hresult : f (clusterAt s c.val).mau s.free o = mauResult (clusterAt s c.val).mau o.d (row.result (clusterAt s c.val).mau o))
    (hruns : MauRuns s c row.code o) :
    exec (row.instr c) s = .next (mauDid s c.val { mauSetReg (clusterAt s c.val).mau o.d (row.result (clusterAt s c.val).mau o) with
      isZero := decide (row.result (clusterAt s c.val).mau o = 0) }) := by
  rw [hexec, mauRun_did hruns, hresult, mauResult]

theorem mauRows_hold {s : State} {c : Fin 64} {o : MauOp} : ∀ row ∈ mauRows, MauRuns s c row.code o → 0 < (clusterAt s c.val).mau.modulus →
    exec (row.instr c) s = .next (mauDid s c.val { mauSetReg (clusterAt s c.val).mau o.d (row.result (clusterAt s c.val).mau o) with
      isZero := decide (row.result (clusterAt s c.val).mau o = 0) }) := by
  simp only [Rows.mauRows, List.mem_cons, List.not_mem_nil, or_false]
  rintro row (rfl | rfl | rfl) hruns hmod
  · exact mauRow_holds (f := mauMmul) rfl rfl hruns
  · exact mauRow_holds (f := mauMadd) rfl rfl hruns
  · exact mauRow_holds (f := mauMsub) rfl (by rw [mauMsub, subModP_eq _ _ _ hmod]) hruns

/-- A point result that leaves ONCURVE. -/
theorem mau_keepsOnCurve (u : Mau) (zero b : Bool) (h : b = u.onCurve) : { u with isZero := zero } = { u with isZero := zero, onCurve := b } := by
  rw [h]

/-- A row whose operation leaves the row's point in A[D] and A[D + 1]. -/
theorem pointRow_holds {row : PointRow} {f : Mau → Nat → MauOp → Mau} {s : State} {c : Fin 64} {o : MauOp}
    (hexec : exec (row.instr c) s = whenRunning s (mauRun s c row.code f))
    (hresult : f (clusterAt s c.val).mau s.free o = if row.checks
      then mauPointChecked (clusterAt s c.val).mau o.d (row.point (clusterAt s c.val).mau s.free o)
      else mauPoint (clusterAt s c.val).mau o.d (row.point (clusterAt s c.val).mau s.free o))
    (hruns : MauRuns s c row.code o) : exec (row.instr c) s = .next (mauDid s c.val
      { mauSetReg (mauSetReg (clusterAt s c.val).mau o.d (row.point (clusterAt s c.val).mau s.free o).x) (o.d + 1)
          (row.point (clusterAt s c.val).mau s.free o).y with
        isZero := (row.point (clusterAt s c.val).mau s.free o).zero
        onCurve := if row.checks then onSel (clusterAt s c.val).mau.curve (row.point (clusterAt s c.val).mau s.free o).x
          (row.point (clusterAt s c.val).mau s.free o).y else (clusterAt s c.val).mau.onCurve }) := by
  rw [hexec, mauRun_did hruns, hresult]
  by_cases hchecks : row.checks = true
  · rw [if_pos hchecks, if_pos hchecks, mauPointChecked, mauPoint]
  · rw [if_neg hchecks, if_neg hchecks, mauPoint]
    exact congrArg _ (congrArg _ (mau_keepsOnCurve _ _ _ (by simp only [mauSetReg])))

theorem pointRows_hold {s : State} {c : Fin 64} {o : MauOp} : ∀ row ∈ pointRows, MauRuns s c row.code o →
    exec (row.instr c) s = .next (mauDid s c.val
      { mauSetReg (mauSetReg (clusterAt s c.val).mau o.d (row.point (clusterAt s c.val).mau s.free o).x) (o.d + 1)
          (row.point (clusterAt s c.val).mau s.free o).y with
        isZero := (row.point (clusterAt s c.val).mau s.free o).zero
        onCurve := if row.checks then onSel (clusterAt s c.val).mau.curve (row.point (clusterAt s c.val).mau s.free o).x
          (row.point (clusterAt s c.val).mau s.free o).y else (clusterAt s c.val).mau.onCurve }) := by
  simp only [Rows.pointRows, List.mem_cons, List.not_mem_nil, or_false]
  rintro row (rfl | rfl | rfl) hruns
  · exact pointRow_holds (f := mauSmulg) rfl rfl hruns
  · exact pointRow_holds (f := mauSmulV) rfl rfl hruns
  · exact pointRow_holds (f := mauPadd) rfl rfl hruns

theorem mauCurve_builtin (u : Mau) (fr : Nat) (o : MauOp) (h : o.x ≠ 15) :
    mauCurve u fr o = { u with curve := .builtin o.x, curveOk := false, lastCurve := 1, lastSlot := o.x } := by
  simp only [mauCurve, if_neg h, if_pos h]

theorem mauCurve_loaded (u : Mau) (fr : Nat) (o : MauOp) (h : o.x = 15) : mauCurve u fr o = { u with
    curve := .loaded (mauReg u o.y) (mauReg u (o.y + 1)) (mauReg u (o.y + 2)) (mauReg u (o.y + 3)) (mauReg u (o.y + 4)) (mauReg u (o.y + 5))
      (mauReg u (o.y + 6))
    curveOk := false
    lastCurve := if u.lastCurve = 2 then 2 else 0 } := by
  simp only [mauCurve, if_pos h, if_neg (not_not_intro h)]
  rfl

theorem mauMr_eq (u : Mau) (fr : Nat) (o : MauOp) :
    mauMr u fr o = { u with probPrime := if o.x = 15 then true else u.probPrime && millerRabin u.modulus (mauReg u o.x) } := by
  by_cases h : o.x = 15
  · simp only [mauMr, if_pos h]
  · simp only [mauMr, if_neg h]

/-- Settles O10: each operation by the value it leaves in the MAU. -/
theorem mauOperations : Obligations.MauOperations := by
  intro s c o m x y number
  refine ⟨mauRows_hold, fun h => ⟨_, mauRun_did h mauMexp, powMod_spec _ _ _⟩, fun h => ?_, fun h => ⟨_, mauRun_did h mauMinv, powMod_spec _ _ _⟩,
    fun h => ⟨_, mauRun_did h mauSetmod, fun hodd => if_pos hodd⟩, fun h hx => ?_, fun h hx => ?_, pointRows_hold, fun h => mauRun_did h mauOncurve,
    fun h => ?_, fun h => ⟨_, mauRun_did h mauCheckcurve, fun p a b gx gy n k hcurve => ?_⟩, fun h => mauRun_did h (fun m _ _ => mauWipe m)⟩
  · refine ⟨_, mauRun_did h mauMexps, fun hm hy => ?_⟩
    rw [if_pos hy]
    exact powMod_spec _ _ _ hm
  · exact (mauRun_did h mauCurve).trans (congrArg _ (congrArg _ (mauCurve_builtin _ _ _ hx)))
  · exact (mauRun_did h mauCurve).trans (congrArg _ (congrArg _ (mauCurve_loaded _ _ _ hx)))
  · exact (mauRun_did h mauMr).trans (congrArg _ (congrArg _ (mauMr_eq _ _ _)))
  · simp only [m] at hcurve
    rw [hcurve]

end Sys2Proof.PortRows

/-! ### Sequencing: the next address, the call stack and the loop counters (R187 to R191, R200) -/

namespace Sys2Proof.SequenceRows

open Sys2Proof Sys2Proof.Machine Sys2Proof.Safety Sys2Proof.Rows Sys2Proof.Laws Sys2Proof.ReedRows Sys2Proof.StateFacts

/-! #### Reeds set twice, and events -/

theorem tblPut_put {α : Type} (t : Tbl α) (k : Nat) (x y : α) : tblPut (tblPut t k x) k y = tblPut t k y := by
  induction t with
  | nil => simp [tblPut]
  | cons e rest ih =>
    obtain ⟨j, v⟩ := e
    by_cases hlt : k < j
    · simp [tblPut, hlt]
    · by_cases heq : j = k
      · simp [tblPut, heq]
      · simp [tblPut, hlt, heq, ih]

theorem setReed_setReed (s : State) (r : Nat) (x y : Reed) : setReed (setReed s r x) r y = setReed s r y :=
  congrArg (fun t => { s with reeds := t }) (tblPut_put s.reeds r x y)

/-- A reed that issues words runs. -/
theorem run_of_reedRuns {s : State} {r : Nat} (h : reedRuns s r = true) : (reedAt s r).run = .running := by
  simp only [reedRuns, Bool.and_eq_true, decide_eq_true_eq] at h
  exact h.1.1

/-! #### A word's end -/

/-- The word ends, its sequencing not done before: the core `g` makes, and the reed's run state. -/
theorem seqRow_next {s t : State} {r : Fin 1024} {iss : Issue} {code : Nat} {f : QField} (hends : Ends s t r iss) (hword : SeqIs s r code f)
    (g : ReedCore → ReedCore → ReedCore) (run : ReedRun) :
    whenRunning s (withEvent s r .clean (fun t => seqStep t r.val (seqNamed code f) g run)) = .next (setReed t r.val { reedAt t r.val with
      core := g iss.before (reedAt t r.val).core
      issue := none
      run := run }) := by
  have hissue : issueOf (reedAt t r.val) = iss := by rw [issueOf, hends.issue]; rfl
  have hnamed : seqNamed code f (wordNow s r.val) = true := by simp [seqNamed, hword.1, hword.2]
  have hfields : ¬ (!fieldsDone t r.val) = true := by simp [hends.fields]
  have hfirst : ¬ (iss.resume.any (fun p => bitOf p.done 5)) = true := by simp [hends.first]
  rw [whenRunning_of _ _ hends.live]
  simp only [withEvent, seqStep, rowStep_acts hends.toIssues _ _ hnamed, if_neg hfields, hissue, if_neg hfirst, modReed, nextWord, reedAt_setReed,
    setReed_setReed]

/-- The same, where the reed goes on. -/
theorem seqRow_stepped {s t : State} {r : Fin 1024} {iss : Issue} {code : Nat} {f : QField} (hends : Ends s t r iss) (hword : SeqIs s r code f)
    (g : ReedCore → ReedCore → ReedCore) :
    whenRunning s (withEvent s r .clean (fun t => seqStep t r.val (seqNamed code f) g .running))
      = .next (stepped t r (g iss.before (reedAt t r.val).core)) := by
  rw [seqRow_next hends hword, ← run_of_reedRuns hends.going]
  rfl

/-- A word whose sequencing was done before a trap goes on at NEXT_UPC (R200). -/
theorem seqRow_resumed {s t : State} {r : Fin 1024} {iss : Issue} {code : Nat} {f : QField} {p : Resume} (hissues : Issues s t r iss)
    (hword : SeqIs s r code f) (hfields : fieldsDone t r.val = true) (hresume : iss.resume = some p) (hdone : bitOf p.done 5 = true)
    (g : ReedCore → ReedCore → ReedCore) (run : ReedRun) :
    whenRunning s (withEvent s r .clean (fun t => seqStep t r.val (seqNamed code f) g run))
      = .next (stepped t r { (reedAt t r.val).core with upc := p.next }) := by
  have hissue : issueOf (reedAt t r.val) = iss := by rw [issueOf, hissues.issue]; rfl
  have hnamed : seqNamed code f (wordNow s r.val) = true := by simp [seqNamed, hword.1, hword.2]
  have hfields' : ¬ (!fieldsDone t r.val) = true := by simp [hfields]
  have hdone' : iss.resume.any (fun p => bitOf p.done 5) = true := by simp [hresume, hdone]
  rw [whenRunning_of _ _ hissues.live]
  simp only [withEvent, seqStep, rowStep_acts hissues _ _ hnamed, if_neg hfields', hissue, if_pos hdone']
  rw [hresume]
  rfl

/-! #### Branch conditions (R188) -/

theorem lt_zero_iff (x : BitVec 64) : x.toInt < 0 ↔ x.getLsbD 63 = true := by
  have h := BitVec.msb_eq_toInt (x := x)
  rw [BitVec.msb_eq_getLsbD_last] at h
  rw [h, decide_eq_true_eq]

theorem toInt_zero_iff (x : BitVec 64) : x.toInt = 0 ↔ x = 0 := BitVec.toInt_inj (y := 0)

/-- A mask has no bit set below `n`. -/
theorem mask_zero_iff (m : BitVec 256) (n : Nat) : m.toNat % 2 ^ n = 0 ↔ (List.range n).filter (fun i => m.getLsbD i) = [] := by
  rw [List.filter_eq_nil_iff]
  constructor
  · intro h i hi
    have hbit := Nat.testBit_mod_two_pow m.toNat n i
    rw [h, Nat.zero_testBit, decide_eq_true (List.mem_range.mp hi), Bool.true_and] at hbit
    rw [BitVec.getLsbD, ← hbit]
    exact Bool.false_ne_true
  · intro h
    apply Nat.eq_of_testBit_eq
    intro i
    rw [Nat.testBit_mod_two_pow, Nat.zero_testBit]
    by_cases hi : i < n
    · have hbit : m.toNat.testBit i = false := by simpa [BitVec.getLsbD] using h i (List.mem_range.mpr hi)
      rw [hbit, Bool.and_false]
    · rw [decide_eq_false hi, Bool.false_and]

/-- The model's conditions are R188's. -/
theorem condHolds_eq (c : ReedCore) (cond creg : Nat) : condHolds c cond creg = branchTaken cond (sGet c creg)
    ((List.range c.vl).filter (fun i => (mGet c (creg % 8)).getLsbD i)) (c.lc.getD (cond - 8) 0).toNat := by
  have hneg := lt_zero_iff (sGet c creg)
  have hzero := toInt_zero_iff (sGet c creg)
  have hmask := mask_zero_iff (mGet c (creg % 8)) c.vl
  have hlow : ((sGet c creg).toNat % 2 = 1) ↔ (sGet c creg).getLsbD 0 = true := by
    rw [BitVec.getLsbD, Nat.testBit_zero, decide_eq_true_eq]
  have hpos : (sGet c creg).toInt > 0 ↔ ¬ (sGet c creg).getLsbD 63 = true ∧ sGet c creg ≠ 0 := by rw [← hneg, ne_eq, ← hzero]; omega
  have hnonneg : (sGet c creg).toInt ≥ 0 ↔ ¬ (sGet c creg).getLsbD 63 = true := by rw [← hneg]; omega
  have hnonpos : (sGet c creg).toInt ≤ 0 ↔ (sGet c creg).getLsbD 63 = true ∨ sGet c creg = 0 := by rw [← hneg, ← hzero]; omega
  unfold condHolds branchTaken
  match cond with
  | 0 | 1 | 2 => rfl
  | 3 => simp [hneg]
  | 4 => simp [hpos]
  | 5 => simp [hnonneg]
  | 6 => simp [hnonpos]
  | 7 => simp [hlow]
  | 8 | 9 | 10 | 11 => simp; omega
  | 12 => simp [hmask]
  | 13 => simp [hmask]
  | n + 14 => simp

/-- BRANCH: the address its condition chooses, its loop counter counted down. -/
theorem stepBranch_eq (target cond creg : Nat) (before c : ReedCore) : stepBranch target cond creg before c = { c with
    upc := if condHolds before cond creg then target else (before.upc + 1) % 2 ^ 14
    lc := if 8 ≤ cond ∧ cond ≤ 11 then listMod c.lc (cond - 8) (fun n => if n = 0 then 0 else n - 1) else c.lc } := by
  unfold stepBranch condCounters
  split <;> rfl

/-! #### Events beside a word -/

/-- The rows of the sequencing field: what one does without an event, run with any. -/
theorem event_cases (go : Fin 1024 → State → State) (i : WordEvent → Instr) (r : Fin 1024) (s : State) (hrun : isRunning s = true)
    (hexec : ∀ ev s, exec (i ev) s = whenRunning s (withEvent s r ev (go r))) :
    (∀ w n u, exec (i .clean) s = .next u →
      exec (i (.store w n)) s = .next (setCluster u (r.val / 16) (flipBit (clusterAt u (r.val / 16)) w.val n.val))) ∧
    exec (i .defect) s = exec (i .clean) (setReed s r.val { reedAt s r.val with defect := true }) := by
  refine ⟨fun w n u hu => ?_, ?_⟩
  · rw [hexec, whenRunning_of _ _ hrun] at hu ⊢
    cases hu
    rfl
  · rw [hexec, hexec, whenRunning_of _ _ hrun, whenRunning_of (setReed s r.val _) _ hrun]
    rfl

/-! #### Loop counters (R189) -/

theorem lc_fields {w : BitVec 192} {l : LField} (h : lFieldOf w = l) : mw w 32 31 = l.sel.val ∧ BitVec.ofNat 16 (mw w 114 99) = l.imm ∧
    mw w 93 89 = l.sa.val := by
  subst h
  refine ⟨?_, rfl, ?_⟩
  · exact (Nat.mod_eq_of_lt (Nat.mod_lt _ (by decide))).symm
  · exact (Nat.mod_eq_of_lt (Nat.mod_lt _ (by decide))).symm

/-- A loop counter operation sets the counter the word names. -/
theorem lcRow_next {s t : State} {r : Fin 1024} {iss : Issue} {code : Nat} {l : LField} (htake : Takes s t r iss 6) (hword : LcIs s r code l) :
    whenRunning s (lcStep s r code l) = .next (acted t r 6 iss 0 { (reedAt t r.val).core with
      lc := listSet (reedAt t r.val).core.lc l.sel.val (lcValue (wordNow s r.val) iss.before) }) := by
  obtain ⟨hsel, _, _⟩ := lc_fields hword.2
  have hnamed : (lcopOf (wordNow s r.val) = code && lFieldOf (wordNow s r.val) = l) = true := by simp [hword.1, hword.2]
  have hundone : ¬ bitOf (doneOf (wordNow s r.val) iss) 6 = true := by simp [htake.undone]
  rw [whenRunning_of _ _ htake.live, lcStep, rowStep_acts htake.toIssues _ _ hnamed]
  simp only [actLc, htake.issue, (issues_word htake.toIssues).1, if_neg hundone, hsel]
  rfl

theorem lcValue_eq {w : BitVec 192} {l : LField} (before : ReedCore) (h : lFieldOf w = l) : lcValue w before
    = if lcopOf w = 1 then l.imm else if lcopOf w = 2 then (sGet before l.sa.val).truncate 16 else 0 := by
  obtain ⟨_, himm, hsa⟩ := lc_fields h
  rw [lcValue, himm, hsa, BitVec.ofNat_toNat]

/-- Settles O11: the rows of R187 by their next address, NEXT_UPC after a trap, the events beside a word, and the loop counters. -/
theorem sequencing : Obligations.Sequencing := by
  intro s t r f iss b x up cond counters taken
  refine ⟨fun hends => ⟨fun hword => seqRow_stepped hends hword stepInc, fun hword => seqRow_stepped hends hword _, fun hword => ?_,
    fun hword => seqRow_stepped hends hword _, fun ra rest hword hstack => ?_, fun hword => seqRow_next hends hword stepInc .waiti⟩, ?_, ?_, ?_⟩
  · refine (seqRow_stepped hends hword (stepBranch f.target.toNat f.cond.val f.creg.val)).trans ?_
    rw [stepBranch_eq, condHolds_eq]
  · refine (seqRow_stepped hends hword stepRet).trans ?_
    simp only [b] at hstack
    rw [stepRet, hstack]
    rfl
  · intro p hissues hfields hresume hdone
    simp only [List.mem_cons, List.not_mem_nil, or_false]
    rintro e (rfl | rfl | rfl | rfl | rfl | rfl) hword
    · exact seqRow_resumed hissues hword hfields hresume hdone stepInc .running
    · exact seqRow_resumed hissues hword hfields hresume hdone (stepJump f.target.toNat) .running
    · exact seqRow_resumed hissues hword hfields hresume hdone (stepBranch f.target.toNat f.cond.val f.creg.val) .running
    · exact seqRow_resumed hissues hword hfields hresume hdone (stepCall f.target.toNat) .running
    · exact seqRow_resumed hissues hword hfields hresume hdone stepRet .running
    · exact seqRow_resumed hissues hword hfields hresume hdone stepInc .waiti
  · intro hrun
    simp only [List.mem_cons, List.not_mem_nil, or_false]
    rintro i (rfl | rfl | rfl | rfl | rfl | rfl | rfl | rfl)
    · exact event_cases (fun r t => seqStep t r.val (seqNamed 0 f) stepInc .running) (.inc r f) r s hrun (fun _ _ => rfl)
    · exact event_cases (fun r t => seqStep t r.val (seqNamed 1 f) (stepJump f.target.toNat) .running) (fun ev => .jump r ⟨f, ev⟩) r s hrun (fun _ _ => rfl)
    · exact event_cases (fun r t => seqStep t r.val (seqNamed 2 f) (stepBranch f.target.toNat f.cond.val f.creg.val) .running)
        (fun ev => .branch r ⟨f, ev⟩) r s hrun (fun _ _ => rfl)
    · exact event_cases (fun r t => seqStep t r.val (seqNamed 3 f) (stepCall f.target.toNat) .running) (fun ev => .call r ⟨f, ev⟩) r s hrun (fun _ _ => rfl)
    · exact event_cases (fun r t => seqStep t r.val (seqNamed 4 f) stepRet .running) (fun ev => .ret r ⟨f, ev⟩) r s hrun (fun _ _ => rfl)
    · exact event_cases (fun r t => seqStep t r.val (seqNamed 6 f) stepInc .waiti) (fun ev => .waiti r ⟨f, ev⟩) r s hrun (fun _ _ => rfl)
    · exact event_cases (fun r t => tretStep t r.val f) (fun ev => .tret r ⟨f, ev⟩) r s hrun (fun _ _ => rfl)
    · exact event_cases (fun r t => endStep t r.val) (.endJob r) r s hrun (fun _ _ => rfl)
  · intro l htake
    refine ⟨fun hword => ?_, fun hword => ?_, fun hword => ?_⟩
    · refine (lcRow_next htake hword).trans ?_
      rw [lcValue_eq _ hword.2, hword.1]
      rfl
    · refine (lcRow_next htake hword).trans ?_
      rw [lcValue_eq _ hword.2, hword.1]
      rfl
    · refine (lcRow_next htake hword).trans ?_
      rw [lcValue_eq _ hword.2, hword.1]
      rfl

end Sys2Proof.SequenceRows

/-! ### Faults, busy ports and parity errors (R166, R177, R191 to R195) -/

namespace Sys2Proof.TrapRows

open Sys2Proof Sys2Proof.Machine Sys2Proof.Safety Sys2Proof.Rows Sys2Proof.Laws Sys2Proof.ReedRows Sys2Proof.StateFacts Sys2Proof.PortRows
open Sys2Proof.SequenceRows Sys2Proof.VectorRows

/-! #### The trap frame -/

theorem slice_middle (a m z : Bytes) (o n : Nat) (ha : a.length = o) (hm : m.length = n) : slice (a ++ (m ++ z)) o n = m := by
  subst ha hm
  simp [slice]

/-- A piece of what was written is read back. -/
theorem storeRead_write_slice (m : Store 8) (a o n : Nat) (b : Bytes) (h : o + n ≤ b.length) : storeRead (storeWrite m a b) (a + o) n = slice b o n := by
  rw [storeRead_eq_map]
  apply List.ext_getElem
  · rw [slice, List.length_map, List.length_range, List.length_take, List.length_drop]
    omega
  · intro i hi hib
    have hin : i < n := by simpa using hi
    rw [List.getElem_map, List.getElem_range, storeGet_write, if_pos (by omega), show a + o + i - a = o + i by omega,
      List.getD_eq_getElem _ _ (by omega)]
    simp [slice]

theorem length_flatMap_const {α : Type} (l : List α) (f : α → Bytes) (n : Nat) (h : ∀ x ∈ l, (f x).length = n) : (l.flatMap f).length = n * l.length := by
  induction l with
  | nil => rfl
  | cons x xs ih =>
    rw [List.flatMap_cons, List.length_append, h x List.mem_cons_self, ih (fun y hy => h y (List.mem_cons_of_mem _ hy)), List.length_cons,
      Nat.mul_succ, Nat.add_comm]

/-- The call stack's bytes in a frame: its entries from the bottom, free values above (R198). -/
def frameStack (c : ReedCore) (fr : Nat) : Bytes :=
  (List.range 4).flatMap (fun i => if i < c.stack.reverse.length then leBytes 2 (c.stack.reverse.getD i 0) else freeFrame fr (8 + 2 * i) 2)

def frameCounters (c : ReedCore) : Bytes := (List.range 4).flatMap (fun i => leBytes 2 (c.lc.getD i 0).toNat)

theorem length_frameStack (c : ReedCore) (fr : Nat) : (frameStack c fr).length = 8 :=
  length_flatMap_const _ _ 2 (fun _ _ => by split <;> exact length_leBytes _ _)

theorem length_frameCounters (c : ReedCore) : (frameCounters c).length = 8 :=
  length_flatMap_const _ _ 2 (fun _ _ => length_leBytes _ _)

/-- The bytes of a frame from LC0 on, and those of a frame between its entry and LC0 (R198). -/
def frameTail (word : BitVec 192) (p : Resume) (breath : Nat) : Bytes :=
  leBytes 24 word.toNat ++ leBytes 8 p.latchV.toNat ++ leBytes 8 p.latchMs.toNat ++ leBytes 8 p.latchMt.toNat ++ leBytes 8 breath ++ zeros 40

def frameMiddle (c : ReedCore) (p : Resume) (fr : Nat) : Bytes :=
  leBytes 1 p.beat ++ leBytes 1 (p.done % 64) ++ frameStack c fr ++ leBytes 1 c.stack.length ++ [0] ++
    (if bitOf p.done 5 then leBytes 2 p.next else freeFrame fr 18 2) ++ zeros 4

theorem trapFrame_some (c : ReedCore) (routine upc entry : Nat) (word : BitVec 192) (p : Resume) (breath fr : Nat) :
    trapFrame c routine upc entry word (some p) breath fr
      = leBytes 2 routine ++ leBytes 2 upc ++ leBytes 1 entry ++ [3] ++ frameMiddle c p fr ++ frameCounters c ++ frameTail word p breath := by
  simp only [trapFrame, frameMiddle, frameStack, frameCounters, frameTail, List.append_assoc]

theorem length_frameMiddle (c : ReedCore) (p : Resume) (fr : Nat) : (frameMiddle c p fr).length = 18 := by
  have hnext : (if bitOf p.done 5 then leBytes 2 p.next else freeFrame fr 18 2).length = 2 := by split <;> exact length_leBytes _ _
  simp only [frameMiddle, List.length_append, length_leBytes, length_frameStack, hnext, zeros, List.length_replicate, List.length_singleton]

theorem length_trapFrame (c : ReedCore) (routine upc entry : Nat) (word : BitVec 192) (p : Resume) (breath fr : Nat) :
    (trapFrame c routine upc entry word (some p) breath fr).length = 128 := by
  simp only [trapFrame_some, frameTail, List.length_append, length_leBytes, length_frameMiddle, length_frameCounters, zeros, List.length_replicate,
    List.length_singleton]

/-- What frame 0 holds of a word that trapped: its UPC, the entry, VALID and the loop counters. -/
theorem trapFrame_fields (c : ReedCore) (routine upc entry : Nat) (word : BitVec 192) (p : Resume) (breath fr : Nat) :
    let b := trapFrame c routine upc entry word (some p) breath fr
    slice b 2 2 = leBytes 2 upc ∧ slice b 4 1 = leBytes 1 entry ∧ slice b 5 1 = [3] ∧ slice b 24 8 = frameCounters c := by
  simp only [trapFrame_some]
  refine ⟨?_, ?_, ?_, ?_⟩
  · simp only [List.append_assoc]
    exact slice_middle _ _ _ _ _ (length_leBytes _ _) (length_leBytes _ _)
  · rw [List.append_assoc, List.append_assoc, List.append_assoc, List.append_assoc]
    exact slice_middle _ _ _ _ _ (by simp [length_leBytes]) (length_leBytes _ _)
  · rw [List.append_assoc, List.append_assoc, List.append_assoc]
    exact slice_middle _ _ _ _ _ (by simp [length_leBytes]) rfl
  · rw [List.append_assoc]
    exact slice_middle _ _ _ _ _ (by simp [length_leBytes, length_frameMiddle]) (length_frameCounters c)

/-! #### Micro-traps at level 0 -/

theorem storeGet_of_read {m : Store 8} {a : Nat} {x : Byte} (h : storeRead m a 1 = [x]) : storeGet m a = x :=
  List.cons.inj h |>.1

theorem enterKernel_saveFrame_opmem (s : State) (r entry : Nat) (c : ReedCore) (pend : Option Resume) :
    (enterKernel entry (saveFrame s r entry c pend)).opmem = storeWrite c.opmem (frameAddr c.level)
      (trapFrame c (if c.level = 0 then (reedAt s r).routine else 0) c.upc entry (wordAt s r c) pend s.brt.count s.free) := rfl

/-- A core at level 0 whose word is pending, saved in frame 0, and the kernel entered (R194, R195, R198). -/
theorem trapped_saveFrame (s : State) (r entry : Nat) (c : ReedCore) (p : Resume) (hlevel : c.level = 0) :
    Trapped c (enterKernel entry (saveFrame s r entry c (some p))) entry := by
  obtain ⟨routine, hroutine⟩ : ∃ n, (if c.level = 0 then (reedAt s r).routine else 0) = n := ⟨_, rfl⟩
  have hmem := enterKernel_saveFrame_opmem s r entry c (some p)
  rw [hroutine, hlevel, show frameAddr 0 = 0x7F00 from rfl] at hmem
  obtain ⟨hupc, hentry, hvalid, hlc⟩ := trapFrame_fields c routine c.upc entry (wordAt s r c) p s.brt.count s.free
  have hlen := length_trapFrame c routine c.upc entry (wordAt s r c) p s.brt.count s.free
  have hread := fun o n h => storeRead_write_slice c.opmem 0x7F00 o n
    (trapFrame c routine c.upc entry (wordAt s r c) (some p) s.brt.count s.free) h
  obtain ⟨hlev, hent, hup, hstack, _⟩ := enterKernel_core entry (saveFrame s r entry c (some p))
  refine ⟨hlev, hent, hup, hstack, ?_, fun a ha => ?_, by simp only [enterKernel, saveFrame]⟩
  · rw [hmem]
    refine ⟨storeGet_of_read ((hread 4 1 (by omega)).trans hentry), (hread 2 2 (by omega)).trans hupc, ?_, (hread 24 8 (by omega)).trans hlc⟩
    rw [storeGet_of_read ((hread 5 1 (by omega)).trans hvalid)]
    decide
  · rw [hmem, storeGet_write, hlen, if_neg (by omega)]

/-- The recorded cause and address of a fault count among what a micro-trap changes. -/
theorem trapped_of_recorded {x y : ReedCore} {e : Nat} (elem addr : BitVec 64) (h : Trapped { x with trapElem := elem, trapAddr := addr } y e) :
    Trapped x y e where
  atLevel := h.atLevel
  atEntry := h.atEntry
  atUpc := h.atUpc
  emptyStack := h.emptyStack
  frame := h.frame
  memory := h.memory
  others := congrArg (fun z : ReedCore => { z with trapElem := x.trapElem, trapAddr := x.trapAddr }) h.others

/-- A micro-trap from level 0. -/
theorem microTrap_took (s : State) (r : Fin 1024) (entry : Nat) (elem addr : BitVec 64) (p : Resume) (hlevel : (reedAt s r.val).core.level = 0) :
    TookTrap s (microTrap s r.val entry { (reedAt s r.val).core with trapElem := elem, trapAddr := addr } (some p) .running) r entry
      (enterKernel entry (saveFrame s r.val entry { (reedAt s r.val).core with trapElem := elem, trapAddr := addr } (some p))) where
  trapped := trapped_of_recorded elem addr (trapped_saveFrame s r.val entry _ p hlevel)
  reed := reedAt_setReed _ _ _
  reeds _ hk := reedAt_setReed_other _ _ _ _ hk
  frame := rfl

/-- A trap taken after a free value was used. -/
theorem tookTrap_of_free {s t : State} {r : Fin 1024} {e n : Nat} {y : ReedCore} (h : TookTrap { s with free := n } t r e y) : TookTrap s t r e y where
  trapped := h.trapped
  reed := h.reed
  reeds := h.reeds
  frame := congrArg (fun u : State => { u with free := s.free }) h.frame

/-! #### A result that ends a job -/

/-- The post of a job on one reed. -/
theorem postResult_reed (s : State) (k r : Nat) (j : Job) (res : JobResult) (hjob : tblGet s.jobs k = some j) (hunit : j.unit = .reed r)
    (hstatus : res.status ≠ .invariantFailed) : postResult s k res
      = modCluster { modJob s k (fun x => { x with stage := .posted, result := some res, post := some (r / 16, s.plc.nextPost) }) with
          plc := { s.plc with nextPost := s.plc.nextPost + 1 } } (r / 16) (fun x => { x with fifo := x.fifo ++ [k] }) := by
  simp only [postResult, hjob, hunit, if_neg hstatus]
  rfl

/-- A wiped reed takes no job or cluster with it. -/
theorem wipeReed_tables (s : State) (r : Nat) (h : (reedAt s r).defect = false) :
    (wipeReed s r).jobs = s.jobs ∧ (wipeReed s r).clusters = s.clusters := by
  have hmute : ¬ ((reedAt s r).defect && !reedMuted s r) = true := by simp [h]
  simp only [wipeReed, if_neg hmute]
  exact ⟨rfl, rfl⟩

/-- A job on one reed that runs ends with a result (R170, R171): it is posted, the reed is wiped. -/
theorem endWith_posted (s : State) (r k : Nat) (j : Job) (res : JobResult) (hjob : reedJob s r = some (k, j)) (hunit : j.unit = .reed r)
    (hstage : j.stage = .running) (hdefect : (reedAt s r).defect = false) (hstatus : res.status ≠ .invariantFailed) :
    Posted s (endWith s r res) r k j res := by
  have hget := reedJob_get hjob
  have hpost := postResult_reed s k r j res hget hunit hstatus
  have hend : endWith s r res = wipeReed (wipeReed (postResult s k res) r) r := by
    simp only [endWith, hjob, if_pos hstage, endMau, hunit]
    rfl
  have hreeds : ∀ q, reedAt (postResult s k res) q = reedAt s q := fun q => by rw [hpost]; rfl
  have hdefect0 : (reedAt (postResult s k res) r).defect = false := (congrArg Reed.defect (hreeds r)).trans hdefect
  obtain ⟨hreed1, hothers1, _⟩ := wipeReed_sound (postResult s k res) r hdefect0
  have hdefect1 : (reedAt (wipeReed (postResult s k res) r) r).defect = false := by
    rw [hreed1]
    exact hdefect0
  obtain ⟨hreed2, hothers2, _⟩ := wipeReed_sound (wipeReed (postResult s k res) r) r hdefect1
  obtain ⟨hjobs1, hclusters1⟩ := wipeReed_tables _ _ hdefect0
  obtain ⟨hjobs2, hclusters2⟩ := wipeReed_tables _ _ hdefect1
  have hjobs : (endWith s r res).jobs = (postResult s k res).jobs := by rw [hend, hjobs2, hjobs1]
  have hclusters : ∀ c, clusterAt (endWith s r res) c = clusterAt (postResult s k res) c := by
    intro c
    rw [hend, clusterAt, hclusters2, hclusters1]
    rfl
  refine ⟨?_, ?_, ?_, fun q hq => ?_, fun i hi => ?_, fun c hc => ?_⟩
  · rw [hjobs, hpost]
    exact (tblGet_mod_same s.jobs k _).trans (congrArg (Option.map _) hget)
  · rw [hclusters, hpost, modCluster, clusterAt_setCluster]
    rfl
  · rw [hend, hreed2]
    simp only [wiped, hreed1, hreeds]
  · rw [hend, hothers2 q hq, hothers1 q hq, hreeds]
  · rw [hjobs, hpost]
    exact tblGet_mod_other s.jobs k i _ hi
  · rw [hclusters, hpost]
    exact clusterAt_setCluster_other _ _ _ _ hc

end Sys2Proof.TrapRows

/-! ### Words of one field: what issues and what traps (R166, R191, R194) -/

namespace Sys2Proof.TrapRows

open Sys2Proof Sys2Proof.Machine Sys2Proof.Safety Sys2Proof.Rows Sys2Proof.Laws Sys2Proof.ReedRows Sys2Proof.StateFacts Sys2Proof.PortRows
open Sys2Proof.SequenceRows Sys2Proof.VectorRows

/-! #### The field left of a word -/

/-- A word of the reed that has not been opened: nothing done, nothing pending. -/
def freshIssue (s : State) (r : Nat) : Issue := ⟨(reedAt s r).core, 0, false, none, none, none⟩

theorem flag_le (b : Bool) : flag b ≤ 1 := by cases b <;> decide

/-- FIELD_DONE of the empty fields: bits 0 to 4 and bit 6 (R198). -/
theorem emptyFields_bit5 (w : BitVec 192) : bitOf (emptyFields w) 5 = false := by
  have h0 := flag_le (decide (vopOf w = 0))
  have h1 := flag_le (decide (sopOf w = 0))
  have h2 := flag_le (decide (mopOf w = 0))
  have h3 := flag_le (decide (bopOf w = 0))
  have h4 := flag_le (decide (aopOf w = 0))
  rw [bitOf, Nat.testBit_eq_decide_div_mod_eq, decide_eq_false_iff_not]
  simp only [emptyFields]
  omega

theorem doneOf_fresh (s : State) (r : Nat) (w : BitVec 192) : doneOf w (freshIssue s r) = emptyFields w := by
  have hd : (freshIssue s r).done ||| emptyFields w ||| (freshIssue s r).resume.elim 0 Resume.done = emptyFields w := by
    rw [freshIssue, Nat.zero_or]
    exact Nat.or_zero _
  simp only [doneOf, hd, emptyFields_bit5]
  rfl

/-- A bit of a number whose low five bits are all set but bit `k`. -/
theorem bitOf_allBut {e k : Nat} (hk : k < 5) (h : e % 32 = 31 - 2 ^ k) (i : Nat) (hi : i < 5) : bitOf e i = decide (i ≠ k) := by
  have hlow : bitOf e i = bitOf (e % 2 ^ 5) i := by
    rw [bitOf, bitOf, Nat.testBit_mod_two_pow, decide_eq_true hi, Bool.true_and]
  rw [hlow, show (2 : Nat) ^ 5 = 32 from rfl, h]
  have hall : ∀ k : Fin 5, ∀ i : Fin 5, bitOf (31 - 2 ^ k.val) i.val = decide (i.val ≠ k.val) := by decide
  exact hall ⟨k, hk⟩ ⟨i, hi⟩

/-- A word of one field leaves that field alone to act. -/
theorem fieldsLeft_alone {s : State} {r : Fin 1024} {k : Nat} {res : FieldRes} (hk : k < 5) (h : Alone s r k)
    (hfield : wordField s r.val (freshIssue s r.val) (wordNow s r.val) k = some res) :
    fieldsLeft s r.val (freshIssue s r.val) (wordNow s r.val) = [res] := by
  have hbits : (List.range 5).filter (fun i => !bitOf (doneOf (wordNow s r.val) (freshIssue s r.val)) i) = [k] := by
    have hcong : (List.range 5).filter (fun i => !bitOf (doneOf (wordNow s r.val) (freshIssue s r.val)) i)
        = (List.range 5).filter (fun i => decide (i = k)) := by
      refine List.filter_congr fun i hi => ?_
      rw [doneOf_fresh, bitOf_allBut hk h.one i (List.mem_range.mp hi), ← decide_not]
      exact decide_eq_decide.mpr Decidable.not_not
    have hall : ∀ k : Fin 5, (List.range 5).filter (fun i => decide (i = k.val)) = [k.val] := by decide
    rw [hcong]
    exact hall ⟨k, hk⟩
  rw [fieldsLeft, hbits, List.filterMap_cons, hfield]
  rfl

/-! #### Faults -/

theorem meets_nil_right (l : List Nat) : meets l [] = false := by
  rw [meets, List.any_eq_false]
  exact fun _ _ => by simp

/-- BRANCH and LCOP write no register that a field uses. -/
theorem seqUses_plain {w : BitVec 192} {done : Nat} {v : FieldUse} (h : v ∈ seqUses w done) : v.writes = [] ∧ v.restarting = false := by
  simp only [seqUses, List.mem_append] at h
  rcases h with h | h
  · split at h
    · cases h
    · rw [List.mem_singleton.mp h]
      exact ⟨rfl, rfl⟩
  · split at h
    · cases h
    · rw [List.mem_singleton.mp h]
      exact ⟨rfl, rfl⟩

theorem usesClash_plain (u v : FieldUse) (hu : u.restarting = false ∨ u.writes = []) (hv : v.writes = [] ∧ v.restarting = false) :
    usesClash u v = false := by
  obtain ⟨hwrites, hrestarting⟩ := hv
  rw [usesClash, hwrites, hrestarting, meets_nil_right, meets_nil_right]
  rcases hu with hu | hu
  · rw [hu]
    rfl
  · rw [hu]
    exact Bool.and_false _

/-- One field beside the sequencing field and LCOP collides with neither, where it does not restart or writes no register. -/
theorem anyClash_alone (u : FieldUse) (w : BitVec 192) (done : Nat) (hu : u.restarting = false ∨ u.writes = []) :
    anyClash ([u] ++ seqUses w done) = false := by
  have hplain : ∀ l : List FieldUse, (∀ v ∈ l, v.writes = [] ∧ v.restarting = false) → anyClash l = false := by
    intro l hl
    induction l with
    | nil => rfl
    | cons v vs ih =>
      have hv := hl v List.mem_cons_self
      rw [anyClash, ih (fun x hx => hl x (List.mem_cons_of_mem _ hx)), Bool.or_false, List.any_eq_false]
      exact fun x hx => Bool.not_eq_true _ ▸ usesClash_plain v x (.inl hv.2) (hl x (List.mem_cons_of_mem _ hx))
  rw [List.singleton_append, anyClash, hplain _ (fun v hv => seqUses_plain hv), Bool.or_false, List.any_eq_false]
  exact fun x hx => Bool.not_eq_true _ ▸ usesClash_plain u x hu (seqUses_plain hx)

/-- A word that does not END has no result that R171 could refuse. -/
theorem resultBad_going (s : State) (r : Nat) (iss : Issue) (w : BitVec 192) (h : seqOf w ≠ 7) : resultBad s r iss w = false := by
  unfold resultBad
  cases reedJob s r with
  | none => rfl
  | some e => simp [h]

/-- The fault of a word of one field is that field's. -/
theorem wordFault_alone {s : State} {r : Fin 1024} {k : Nat} {res : FieldRes} (hk : k < 5) (h : Alone s r k)
    (hfield : wordField s r.val (freshIssue s r.val) (wordNow s r.val) k = some res) (huse : res.use.restarting = false ∨ res.use.writes = []) :
    wordFault s r.val (freshIssue s r.val) (wordNow s r.val) = res.fault := by
  have hclash := anyClash_alone res.use (wordNow s r.val) (doneOf (wordNow s r.val) (freshIssue s r.val)) huse
  simp only [wordFault, fieldsLeft_alone hk h hfield, List.map_cons, List.map_nil, hclash, resultBad_going _ _ _ _ h.going]
  cases hfault : res.fault with
  | none => simp [hfault, sortBy]
  | some e =>
    by_cases hspan : causeSpan ≤ e.cause
    · simp [hfault, sortBy, insertBy, hspan]
    · simp [hfault, sortBy, hspan]

/-! #### What opens a word -/

theorem issueOf_fresh {s : State} {r : Fin 1024} {k : Nat} (h : Alone s r k) :
    { issueOf (reedAt s r.val) with before := (reedAt s r.val).core } = freshIssue s r.val := by
  rw [issueOf, h.fresh]
  rfl

theorem notIssued {s : State} {r : Fin 1024} {k : Nat} (h : Alone s r k) : ¬ (reedAt s r.val).issue.any Issue.issued = true := by
  rw [h.fresh]
  exact Bool.false_ne_true

/-- A word whose field faults traps before anything acts. -/
theorem openWord_fault {s : State} {r : Fin 1024} {k : Nat} {e : RFault} (h : Alone s r k)
    (hfault : wordFault s r.val (freshIssue s r.val) (wordNow s r.val) = some e) :
    openWord s r.val = takeFault { noteCorrupt s r.val e with free := s.free + 1 } r.val (wordNow s r.val) e := by
  simp only [openWord, if_neg (notIssued h), issueOf_fresh h, hfault]

/-- A field other than the bellows' or the MAU's keeps the word from both ports. -/
theorem ports_idle {s : State} {r : Fin 1024} {k : Nat} (hk : k < 5) (h : Alone s r k) :
    (k ≠ 3 → sendLate s (freshIssue s r.val) (wordNow s r.val) = false ∧ sends (freshIssue s r.val) (wordNow s r.val) = false ∧
      waitsResult (freshIssue s r.val) (wordNow s r.val) = false) ∧
    (k ≠ 4 → portBusy s r.val (freshIssue s r.val) (wordNow s r.val) = false) ∧
    (k ≠ 2 → waitsRandom s r.val (freshIssue s r.val) (wordNow s r.val) = false) := by
  have hbit : ∀ i, i < 5 → i ≠ k → bitOf (doneOf (wordNow s r.val) (freshIssue s r.val)) i = true := by
    intro i hi hik
    rw [doneOf_fresh, bitOf_allBut hk h.one i hi]
    exact decide_eq_true hik
  refine ⟨fun hk3 => ?_, fun hk4 => ?_, fun hk2 => ?_⟩
  · have h3 := hbit 3 (by omega) (Ne.symm hk3)
    simp [sendLate, sends, waitsResult, h3]
  · simp [portBusy, hbit 4 (by omega) (Ne.symm hk4)]
  · simp [waitsRandom, hbit 2 (by omega) (Ne.symm hk2)]

theorem noBreakpoint {s : State} {r : Fin 1024} {k : Nat} (h : Alone s r k) : meetsBreakpoint s r.val (freshIssue s r.val) = false := by
  rcases h.free with hlevel | hclosed
  · have hlevel' : (freshIssue s r.val).before.level = 1 := hlevel
    simp [meetsBreakpoint, hlevel']
  · simp [meetsBreakpoint, hclosed]

/-- A word with a vector field alone, and no fault, issues. -/
theorem openWord_vector {s : State} {r : Fin 1024} (h : Alone s r 0)
    (hfault : wordFault s r.val (freshIssue s r.val) (wordNow s r.val) = none) :
    openWord s r.val = setReed s r.val { reedAt s r.val with issue := some ⟨(reedAt s r.val).core, 0, true, none, none, none⟩ } := by
  obtain ⟨hsend, hport, hrandom⟩ := ports_idle (by decide) h
  obtain ⟨hlate, hsends, hresult⟩ := hsend (by decide)
  simp only [openWord, if_neg (notIssued h), issueOf_fresh h, hfault, hlate, hport (by decide), noBreakpoint h, hrandom (by decide), hresult, hsends,
    issueWord, Bool.false_and, Bool.false_eq_true, if_false]
  rw [issueOf, h.fresh]
  rfl

/-- A send too late in the breath (R161). -/
theorem openWord_late {s : State} {r : Fin 1024} (h : Alone s r 3)
    (hfault : wordFault s r.val (freshIssue s r.val) (wordNow s r.val) = none) (hsend : isSend (wordNow s r.val) = true)
    (hlate : 2 ^ s.brt.log2Len < s.brt.cycle + 308) : openWord s r.val = takeBusy s r.val 5 (wordNow s r.val) := by
  have hundone : bitOf (doneOf (wordNow s r.val) (freshIssue s r.val)) 3 = false := by
    rw [doneOf_fresh, bitOf_allBut (by decide) h.one 3 (by decide)]
    rfl
  have hl : sendLate s (freshIssue s r.val) (wordNow s r.val) = true := by
    simp [sendLate, hsend, hundone, breathLen, hlate]
  simp only [openWord, if_neg (notIssued h), issueOf_fresh h, hfault, hl, if_true]

/-- A MAU operation on a MAU that runs (R164). -/
theorem openWord_busy {s : State} {r : Fin 1024} {c : Nat} (h : Alone s r 4)
    (hfault : wordFault s r.val (freshIssue s r.val) (wordNow s r.val) = none) (hmau : coupledMau s r.val = some c)
    (hop : (clusterAt s c).mau.op.isSome = true) : openWord s r.val = takeBusy s r.val 6 (wordNow s r.val) := by
  obtain ⟨hsend, _, _⟩ := ports_idle (by decide) h
  obtain ⟨hlate, _, _⟩ := hsend (by decide)
  have hundone : bitOf (doneOf (wordNow s r.val) (freshIssue s r.val)) 4 = false := by
    rw [doneOf_fresh, bitOf_allBut (by decide) h.one 4 (by decide)]
    rfl
  have hbusy : portBusy s r.val (freshIssue s r.val) (wordNow s r.val) = true := by
    simp [portBusy, hundone, hmau, hop]
  simp only [openWord, if_neg (notIssued h), issueOf_fresh h, hfault, hlate, hbusy, if_true, Bool.false_eq_true, if_false]

/-- A row whose word traps does nothing else. -/
theorem rowStep_trapped {s : State} {r : Fin 1024} {k : Nat} (h : Alone s r k) (names : BitVec 192 → Bool) (act : State → State)
    (hnames : names (wordNow s r.val) = true) (hissue : (reedAt (openWord s r.val) r.val).issue = none) :
    rowStep s r.val names act = openWord s r.val := by
  have hskip : ¬ (reedRuns (openWord s r.val) r.val && (reedAt (openWord s r.val) r.val).issue.any Issue.issued) = true := by
    simp [hissue]
  simp only [rowStep, h.runs, h.fetched, hnames, if_neg hskip, Bool.not_true, Bool.false_eq_true, if_false]

theorem enterKernel_saveFrame_trapElem (s : State) (r entry : Nat) (c : ReedCore) (pend : Option Resume) :
    (enterKernel entry (saveFrame s r entry c pend)).trapElem = c.trapElem := by
  simp only [enterKernel, saveFrame]

/-- A busy port at level 0: entry 5 or 6, nothing recorded. -/
theorem takeBusy_took {s : State} {r : Fin 1024} {k : Nat} (h : Alone s r k) (entry : Nat) (w : BitVec 192)
    (hlevel : (reedAt s r.val).core.level = 0) :
    ∃ y, TookTrap s (takeBusy s r.val entry w) r entry y ∧ y.trapElem = (reedAt s r.val).core.trapElem := by
  have hissue : issueOf (reedAt s r.val) = freshIssue s r.val := by rw [issueOf, h.fresh]; rfl
  have hlevel' : ¬ (freshIssue s r.val).before.level = 1 := by rw [freshIssue, hlevel]; decide
  have hbusy : takeBusy s r.val entry w = microTrap s r.val entry (reedAt s r.val).core (some (pendingWord w (freshIssue s r.val))) .running := by
    simp only [takeBusy, hissue, if_neg hlevel']
    rfl
  rw [hbusy]
  exact ⟨_, microTrap_took s r entry (reedAt s r.val).core.trapElem (reedAt s r.val).core.trapAddr _ hlevel,
    enterKernel_saveFrame_trapElem _ _ _ _ _⟩

/-- A vector fault at level 0: entry 1, its cause recorded. -/
theorem takeFault_took {s : State} {r : Fin 1024} {k : Nat} (h : Alone s r k) (w : BitVec 192) (e : RFault)
    (hlevel : (reedAt s r.val).core.level = 0) (hwindow : e.cause ≠ causeWindow) :
    ∃ y, TookTrap s (takeFault { s with free := s.free + 1 } r.val w e) r 1 y ∧ y.trapElem = BitVec.ofNat 64 (e.elem % 256 + 256 * e.cause) := by
  have hissue : issueOf (reedAt s r.val) = freshIssue s r.val := by rw [issueOf, h.fresh]; rfl
  have hfault : takeFault { s with free := s.free + 1 } r.val w e = microTrap { s with free := s.free + 1 } r.val 1
      { (reedAt s r.val).core with trapElem := BitVec.ofNat 64 (e.elem % 256 + 256 * e.cause), trapAddr := e.addr }
      (some (pendingWord w (freshIssue s r.val))) .running := by
    have hreed : issueOf (reedAt { s with free := s.free + 1 } r.val) = freshIssue s r.val := hissue
    have hlevel' : ¬ (freshIssue s r.val).before.level = 1 := by rw [freshIssue, hlevel]; decide
    simp only [takeFault, hreed, if_neg hlevel', if_neg hwindow]
    rfl
  rw [hfault]
  exact ⟨_, tookTrap_of_free (microTrap_took { s with free := s.free + 1 } r 1 _ _ _ hlevel), enterKernel_saveFrame_trapElem _ _ _ _ _⟩

end Sys2Proof.TrapRows

/-! ### Micro-traps, parity errors and the fetch of a bad word (R166, R177 to R181, R193 to R195) -/

namespace Sys2Proof.TrapRows

open Sys2Proof Sys2Proof.Machine Sys2Proof.Safety Sys2Proof.Rows Sys2Proof.Laws Sys2Proof.ReedRows Sys2Proof.StateFacts Sys2Proof.PortRows
open Sys2Proof.SequenceRows Sys2Proof.VectorRows

/-! #### VMADD alone in its word -/

/-- The groups of VMADD are good. -/
abbrev GroupsGood (x : ReedCore) (f : VField) : Prop := groupOk x f.d.val = true ∧ groupOk x f.a.val = true ∧ groupOk x f.b.val = true

theorem vmadd_field {s : State} {r : Fin 1024} {f : VField} (hword : VecIs s r 0x21 f) :
    wordField s r.val (freshIssue s r.val) (wordNow s r.val) 0 = some (opVmadd (reedAt s r.val).core s.free f) := by
  simp only [wordField, vecField, hword.1, hword.2]
  rfl

theorem vmadd_fault (x : ReedCore) (fr : Nat) (f : VField) : (opVmadd x fr f).fault
    = vecFault x fr (!(groupOk x f.d.val && groupOk x f.a.val && groupOk x f.b.val)) (!qmodOk x) false := by
  have hgroups : (false || !groupOk x f.d.val || [f.a.val, f.b.val].any (fun k => !groupOk x k))
      = !(groupOk x f.d.val && groupOk x f.a.val && groupOk x f.b.val) := by
    simp only [List.any_cons, List.any_nil, Bool.false_or, Bool.or_false, Bool.not_and, Bool.or_assoc]
  rw [← hgroups]
  rfl

theorem vmadd_wordFault {s : State} {r : Fin 1024} {f : VField} (h : Alone s r 0) (hword : VecIs s r 0x21 f) :
    wordFault s r.val (freshIssue s r.val) (wordNow s r.val) = vecFault (reedAt s r.val).core s.free
      (!(groupOk (reedAt s r.val).core f.d.val && groupOk (reedAt s r.val).core f.a.val && groupOk (reedAt s r.val).core f.b.val))
      (!qmodOk (reedAt s r.val).core) false :=
  (wordFault_alone (by decide) h (vmadd_field hword) (.inl rfl)).trans (vmadd_fault _ _ _)

/-- The cause R166 records of a VMADD: its groups, then its length, then its modulus (log 8). -/
theorem vmadd_cause (x : ReedCore) (fr : Nat) (f : VField)
    (h : (if GroupsGood x f then (if emax x < x.vl then 7 else 8) else 6) ≠ 8 ∨ qmodOk x = false) :
    vecFault x fr (!(groupOk x f.d.val && groupOk x f.a.val && groupOk x f.b.val)) (!qmodOk x) false
      = some ⟨if GroupsGood x f then (if emax x < x.vl then 7 else 8) else 6, 0, freeAddr fr⟩ := by
  by_cases hgood : GroupsGood x f
  · obtain ⟨hd, ha, hb⟩ := hgood
    rw [if_pos ⟨hd, ha, hb⟩] at h ⊢
    simp only [vecFault, hd, ha, hb]
    by_cases hlen : emax x < x.vl
    · simp [hlen, causeVlen]
    · have hmod : qmodOk x = false := by simpa [hlen] using h
      simp [hlen, hmod, causeModulus]
  · have hbad : (groupOk x f.d.val && groupOk x f.a.val && groupOk x f.b.val) = false := by
      rw [Bool.eq_false_iff]
      intro hall
      simp only [Bool.and_eq_true] at hall
      exact hgood ⟨hall.1.1, hall.1.2, hall.2⟩
    rw [if_neg hgood]
    simp [vecFault, hbad, causeGroup]

/-- A VMADD without a fault issues and writes its sums. -/
theorem vmadd_acts {s : State} {r : Fin 1024} {f : VField} (h : Alone s r 0) (hword : VecIs s r 0x21 f) (hgood : GroupsGood (reedAt s r.val).core f)
    (hvl : (reedAt s r.val).core.vl ≤ emax (reedAt s r.val).core) (hmod : qmodOk (reedAt s r.val).core = true) :
    let x := (reedAt s r.val).core
    let t := setReed s r.val { reedAt s r.val with issue := some ⟨x, 0, true, none, none, none⟩ }
    Issues s t r ⟨x, 0, true, none, none, none⟩ ∧
      ∃ y, GroupSet (ewBits x) (gsize x) f.d.val x y (underMask x f (fun i => (vElem x f.a.val i + vElem x f.b.val i) % x.qmod.toNat)) ∧
        exec (.vmadd r f) s = .next (acted t r 0 ⟨x, 0, true, none, none, none⟩ 0 y) := by
  intro x t
  obtain ⟨hd, ha, hb⟩ := hgood
  have hnone : wordFault s r.val (freshIssue s r.val) (wordNow s r.val) = none := by
    have hlen : ¬ emax (reedAt s r.val).core < (reedAt s r.val).core.vl := by omega
    rw [vmadd_wordFault h hword]
    simp [vecFault, hd, ha, hb, hmod, hlen]
  have hreed : reedAt t r.val = { reedAt s r.val with issue := some ⟨x, 0, true, none, none, none⟩ } := reedAt_setReed _ _ _
  have hissues : Issues s t r ⟨x, 0, true, none, none, none⟩ := by
    refine ⟨h.live, h.runs, h.fetched, (openWord_vector h hnone).symm, ?_, by rw [hreed], rfl⟩
    have hruns := h.runs
    simp only [reedRuns, reedJob] at hruns ⊢
    rw [hreed]
    exact hruns
  have hundone : bitOf (doneOf (wordNow s r.val) ⟨x, 0, true, none, none, none⟩) 0 = false := by
    have hdone : doneOf (wordNow s r.val) ⟨x, 0, true, none, none, none⟩ = doneOf (wordNow s r.val) (freshIssue s r.val) := rfl
    rw [hdone, doneOf_fresh, bitOf_allBut (by decide) h.one 0 (by decide)]
    rfl
  obtain ⟨y, hset, hexec⟩ := modularRows_hold (modRow .vmadd 0x21 (fun f => [f.a.val, f.b.val]) (fun q c f i => (vElem c f.a.val i + vElem c f.b.val i) % q))
    (by simp [Rows.modularRows]) s t r f ⟨x, 0, true, none, none, none⟩ ⟨hissues, hundone⟩ hword hd
    (by simpa [modRow] using ⟨ha, hb⟩) hvl hmod
  refine ⟨hissues, y, ?_, hexec⟩
  have hcore : (reedAt t r.val).core = x := by rw [hreed]
  have hall : fromBeat (ewBits x) 0 (fun i => if i < 0 ∧ active x f.mask i = true then none
      else underMask x f (fun i => (vElem x f.a.val i + vElem x f.b.val i) % x.qmod.toNat) i)
      = underMask x f (fun i => (vElem x f.a.val i + vElem x f.b.val i) % x.qmod.toNat) := by
    funext i
    simp [fromBeat]
  rw [hcore] at hset
  exact hall ▸ hset

/-- A fault of VMADD opens the word with it. -/
theorem vmadd_opens {s : State} {r : Fin 1024} {e : RFault} (h : Alone s r 0)
    (hfault : wordFault s r.val (freshIssue s r.val) (wordNow s r.val) = some e) (hcause : e.cause ≠ causeKeyCorrupt) :
    openWord s r.val = takeFault { s with free := s.free + 1 } r.val (wordNow s r.val) e := by
  have hnote : noteCorrupt s r.val e = s := by
    unfold noteCorrupt
    cases reedJob s r.val with
    | none => rfl
    | some p => simp only [if_neg hcause]
  rw [openWord_fault h hfault, hnote]

theorem vmadd_row {s : State} {r : Fin 1024} {f : VField} (h : Alone s r 0) (hword : VecIs s r 0x21 f)
    (hissue : (reedAt (openWord s r.val) r.val).issue = none) : exec (.vmadd r f) s = .next (openWord s r.val) := by
  have hexec : exec (.vmadd r f) s = whenRunning s (vecStep s r 0x21 f) := rfl
  rw [hexec, whenRunning_of _ _ h.live, vecStep, rowStep_trapped h _ _ (by simp [hword.1, hword.2]) hissue]

/-- A fault at level 1 ends the job (R195). -/
theorem takeFault_posts {s : State} {r : Fin 1024} {k : Nat} {j : Job} (h : Alone s r 0) (w : BitVec 192) (e : RFault)
    (hlevel : (reedAt s r.val).core.level = 1) (hjob : reedJob s r.val = some (k, j)) (hunit : j.unit = .reed r.val) (hstage : j.stage = .running)
    (hdefect : (reedAt s r.val).defect = false) :
    Posted s (takeFault { s with free := s.free + 1 } r.val w e) r.val k j ⟨.vectorFault, [], 0, none⟩ := by
  have hissue : issueOf (reedAt { s with free := s.free + 1 } r.val) = freshIssue s r.val := by
    have hreed : reedAt { s with free := s.free + 1 } r.val = reedAt s r.val := rfl
    rw [hreed, issueOf, h.fresh]
    rfl
  have hlevel' : (freshIssue s r.val).before.level = 1 := hlevel
  have hfault : takeFault { s with free := s.free + 1 } r.val w e
      = endWith { s with free := s.free + 1 } r.val ⟨.vectorFault, [], 0, none⟩ := by
    simp only [takeFault, hissue, if_pos hlevel', kernelFault]
  have hposted := endWith_posted { s with free := s.free + 1 } r.val k j ⟨.vectorFault, [], 0, none⟩ hjob hunit hstage hdefect (by decide)
  rw [hfault]
  exact ⟨hposted.job, hposted.fifo, hposted.reed, hposted.reeds, hposted.jobs, hposted.clusters⟩

/-! #### A send too late, and a MAU that runs -/

theorem bkeccak_traps {s : State} {r : Fin 1024} {f : BField} (h : Alone s r 3) (hword : BelIs s r 1 f) (hlevel : (reedAt s r.val).core.level = 0)
    (hquad : f.a.val % 4 = 0) (hsend : (reedAt s r.val).core.send = none) (hlate : 2 ^ s.brt.log2Len < s.brt.cycle + 308) :
    ∃ t y, exec (.bkeccak r f) s = .next t ∧ TookTrap s t r 5 y ∧ y.trapElem = (reedAt s r.val).core.trapElem := by
  have hfield : wordField s r.val (freshIssue s r.val) (wordNow s r.val) 3 = some (opBkeccak (reedAt s r.val).core s.free (0, 0) f) := by
    simp only [wordField, belField, hword.1, hword.2]
    rfl
  have hfault : (opBkeccak (reedAt s r.val).core s.free (0, 0) f).fault = none := by
    simp [opBkeccak, fieldSend, quadOk, hquad, hsend]
  have hopen := openWord_late h ((wordFault_alone (by decide) h hfield (.inr rfl)).trans hfault) (by simp [isSend, hword.1]) hlate
  obtain ⟨y, htook, helem⟩ := takeBusy_took h 5 (wordNow s r.val) hlevel
  have hexec : exec (.bkeccak r f) s = whenRunning s (belStep s r 1 f) := rfl
  refine ⟨_, y, ?_, htook, helem⟩
  rw [hexec, whenRunning_of _ _ h.live, belStep, rowStep_trapped h _ _ (by simp [hword.1, hword.2]) (by rw [hopen, htook.reed]), hopen]

theorem mrun_traps {s : State} {r : Fin 1024} {f : AField} {c : Nat} (h : Alone s r 4) (hword : MauIs s r 3 f)
    (hlevel : (reedAt s r.val).core.level = 0) (hmau : coupledMau s r.val = some c) (hop : (clusterAt s c).mau.op.isSome = true)
    (hport : mauPortNever true (mauOpOf (sGet (reedAt s r.val).core f.s.val).toNat) = false) :
    ∃ t y, exec (.mrun r f) s = .next t ∧ TookTrap s t r 6 y ∧ y.trapElem = (reedAt s r.val).core.trapElem := by
  have hfield : wordField s r.val (freshIssue s r.val) (wordNow s r.val) 4
      = some (opMrun (some (clusterAt s c).mau) (reedAt s r.val).core s.free f) := by
    simp only [wordField, mauField, hword.1, hword.2, hmau]
    rfl
  have hfault : (opMrun (some (clusterAt s c).mau) (reedAt s r.val).core s.free f).fault = none := by
    obtain ⟨o, ho⟩ := Option.isSome_iff_exists.mp hop
    simp [opMrun, fieldMau, ho, hport]
  have hopen := openWord_busy h ((wordFault_alone (by decide) h hfield (.inr rfl)).trans hfault) hmau hop
  obtain ⟨y, htook, helem⟩ := takeBusy_took h 6 (wordNow s r.val) hlevel
  have hexec : exec (.mrun r f) s = execMrun r f s := rfl
  refine ⟨_, y, ?_, htook, helem⟩
  rw [hexec, execMrun, whenRunning_of _ _ h.live, mauStep, rowStep_trapped h _ _ (by simp [hword.1, hword.2]) (by rw [hopen, htook.reed]), hopen]

/-! #### Parity errors -/

/-- A parity error of a job that is no replay (R177, R178): the job is marked, the reed stands at entry 2. -/
theorem reedParity_trap {s : State} {r : Fin 1024} {k : Nat} {j : Job} (hjob : reedJob s r.val = some (k, j)) (hfirst : j.replays = 0) :
    ParityTrap s (reedParity s r.val) r k j ∧ (reedParity s r.val).health = s.health := by
  have hreplay : ¬ inReplay s k = true := by
    simp [inReplay, reedJob_get hjob, hfirst]
  have hparity : reedParity s r.val
      = modReed (touchJob s k) r.val (fun x => { x with issue := none, core := enterKernel 2 (dropFrames x.core) }) := by
    simp only [reedParity, hjob, if_neg hreplay]
  have hreed := reedAt_setReed (touchJob s k) r.val { reedAt (touchJob s k) r.val with
    issue := none
    core := enterKernel 2 (dropFrames (reedAt (touchJob s k) r.val).core) }
  have hcore := congrArg Reed.core hreed
  rw [hparity]
  refine ⟨⟨touchJob_job (reedJob_get hjob), fun i hi => tblGet_mod_other _ _ _ _ hi, ⟨congrArg Reed.issue hreed, ?_⟩,
    fun q hq => reedAt_setReed_other _ _ _ _ hq⟩, rfl⟩
  exact hcore ▸ enterKernel_parity _

/-- The first charge of a cluster in a job mutes nothing (R179). -/
theorem chargeCluster_first (s : State) (c k : Nat) (h : (c, k) ∉ s.health.clusterCharges) :
    chargeCluster s c k = { s with health := { s.health with clusterCharges := (c, k) :: s.health.clusterCharges } } := by
  have hnone : s.health.clusterCharges.filter (· = (c, k)) = [] :=
    List.filter_eq_nil_iff.mpr (fun e he heq => h (by rw [← of_decide_eq_true heq]; exact he))
  have hcons : ((c, k) :: s.health.clusterCharges).filter (· = (c, k)) = [(c, k)] := by
    rw [List.filter_cons, hnone, if_pos (decide_eq_true rfl)]
  refine if_neg ?_
  have hlen : (((c, k) :: s.health.clusterCharges).filter (· = (c, k))).length = 1 := congrArg List.length hcons
  exact fun hle => absurd (hlen ▸ hle) (by decide)

/-- A word of the control store whose parity does not hold: the reed waits for the reload of its block (R177, R181). -/
theorem inc_stalls {s : State} {r : Fin 1024} {f : QField} (hlive : isRunning s = true) (hruns : reedRuns s r.val = true)
    (hissue : (reedAt s r.val).issue = none)
    (hbad : wordBad (clusterAt s (r.val / 16)) (wordAddr s r.val (reedAt s r.val).core) = true)
    (hreload : wordAddr s r.val (reedAt s r.val).core / 64 ∉ (clusterAt s (r.val / 16)).reloading) :
    exec (.inc r f .clean) s = .next (storeParity s r.val (wordAddr s r.val (reedAt s r.val).core / 64)) := by
  have hexec : exec (.inc r f .clean) s = whenRunning s (seqStep s r.val (seqNamed 0 f) stepInc .running) := rfl
  have hstalls : fetchStalls s r.val = true := by
    simp [fetchStalls, hissue, reedCluster, hbad]
  have hnot : ¬ (clusterAt s (reedCluster r.val)).reloading.contains (wordAddr s r.val (reedAt s r.val).core / 64) = true := by
    simpa [reedCluster] using hreload
  rw [hexec, whenRunning_of _ _ hlive]
  simp only [seqStep, rowStep, hruns, hstalls, stallFetch, if_neg hnot, Bool.not_true, Bool.false_eq_true, if_false, if_true]

theorem storeParity_waits {s : State} {r : Fin 1024} {k b : Nat} {j : Job} (hjob : reedJob s r.val = some (k, j))
    (hreload : b ∉ (clusterAt s (r.val / 16)).reloading) (herrors : b ∉ (clusterAt s (r.val / 16)).csErrors)
    (hcharge : (r.val / 16, k) ∉ s.health.clusterCharges) :
    let t := storeParity s r.val b
    reedAt t r.val = { reedAt s r.val with run := .reload b } ∧
      clusterAt t (r.val / 16) = { clusterAt s (r.val / 16) with
        csErrors := b :: (clusterAt s (r.val / 16)).csErrors, reloading := b :: (clusterAt s (r.val / 16)).reloading } ∧
      tblGet t.jobs k = some { j with replayed := true } ∧ t.health.clusterCharges = (r.val / 16, k) :: s.health.clusterCharges ∧
      ∀ q, q ≠ r.val → reedAt t q = reedAt s q := by
  have hagain : (clusterAt s (reedCluster r.val)).csErrors.contains b = false := by simpa [reedCluster] using herrors
  have hnot : (clusterAt s (reedCluster r.val)).reloading.contains b = false := by simpa [reedCluster] using hreload
  have hclusterCharge : chargeCluster (modReed (modCluster (modJob s k (fun j => { j with replayed := true })) (r.val / 16) (fun x => { x with
      csErrors := b :: x.csErrors
      reloading := if x.reloading.contains b then x.reloading else b :: x.reloading })) r.val (fun x => { x with run := .reload b })) (r.val / 16) k
      = _ := chargeCluster_first _ _ _ hcharge
  have hstore : storeParity s r.val b = chargeCluster (modReed (modCluster (modJob s k (fun j => { j with replayed := true })) (r.val / 16)
      (fun x => { x with
        csErrors := b :: x.csErrors
        reloading := if x.reloading.contains b then x.reloading else b :: x.reloading })) r.val (fun x => { x with run := .reload b })) (r.val / 16) k := by
    simp only [storeParity, hjob, hagain]
    rfl
  intro t
  simp only [t, hstore, hclusterCharge]
  refine ⟨reedAt_setReed _ _ _, ?_, ?_, rfl, fun q hq => reedAt_setReed_other _ _ _ _ hq⟩
  · refine (clusterAt_setCluster (modJob s k (fun j => { j with replayed := true })) (r.val / 16) _).trans ?_
    have hcluster : clusterAt (modJob s k (fun j => { j with replayed := true })) (r.val / 16) = clusterAt s (r.val / 16) := rfl
    rw [hcluster]
    rw [reedCluster] at hnot
    simp only [hnot, Bool.false_eq_true, if_false]
  · exact (tblGet_mod_same s.jobs k _).trans (congrArg (Option.map _) (reedJob_get hjob))

/-- Settles O12: VMADD alone in its word by what its groups, its length and its modulus are, a send too late, a MAU that runs, parity errors and
the fetch of a bad word. -/
theorem faultsTakeMicroTraps : Obligations.FaultsTakeMicroTraps := by
  intro s r x
  refine ⟨fun f halone hword => ?_, fun f halone hword hlevel hquad hsend hlate => bkeccak_traps halone hword hlevel hquad hsend hlate,
    fun f c halone hword hlevel hmau hop hport => mrun_traps halone hword hlevel hmau hop hport, fun k j f hlive hruns hjob hfirst => ?_,
    fun k j f hlive hruns hjob hissue hbad hreload herrors hcharge => ?_⟩
  · intro good cause
    have hopens : cause ≠ 8 ∨ qmodOk x = false →
        openWord s r.val = takeFault { s with free := s.free + 1 } r.val (wordNow s r.val) ⟨cause, 0, freeAddr s.free⟩ := by
      intro hcause
      refine vmadd_opens halone ((vmadd_wordFault halone hword).trans (vmadd_cause x s.free f hcause)) ?_
      simp only [cause, causeKeyCorrupt]
      split
      · split <;> decide
      · decide
    refine ⟨fun hgood hvl hmod => ?_, fun hlevel hcause => ?_, fun hlevel hcause k j hjob hunit hstage hdefect => ?_⟩
    · obtain ⟨hissues, hacts⟩ := vmadd_acts halone hword hgood hvl hmod
      exact ⟨_, hissues, rfl, hacts⟩
    · have hwindow : cause ≠ causeWindow := by
        simp only [cause, causeWindow]
        split
        · split <;> decide
        · decide
      have hsmall : cause ≤ 8 := by
        simp only [cause]
        split
        · split <;> decide
        · decide
      obtain ⟨y, htook, helem⟩ := takeFault_took halone (wordNow s r.val) ⟨cause, 0, freeAddr s.free⟩ hlevel hwindow
      have hopen := hopens hcause
      refine ⟨_, y, vmadd_row halone hword (by rw [hopen, htook.reed]), hopen ▸ htook, ?_⟩
      rw [helem, BitVec.toNat_ofNat, Nat.zero_mod, Nat.zero_add]
      exact Nat.mod_eq_of_lt (show 256 * cause < 2 ^ 64 by omega)
    · have hopen := hopens hcause
      have hposted := takeFault_posts halone (wordNow s r.val) ⟨cause, 0, freeAddr s.free⟩ hlevel hjob hunit hstage hdefect
      exact ⟨_, vmadd_row halone hword (by rw [hopen, hposted.reed]; rfl), hopen ▸ hposted⟩
  · have htrap := reedParity_trap hjob hfirst
    have hexec : exec (.inc r f .registers) s = whenRunning s (if reedRuns s r.val then reedParity s r.val else s) := rfl
    refine ⟨⟨_, ?_, htrap⟩, fun hstaging => ⟨_, ?_, htrap⟩⟩
    · rw [hexec, whenRunning_of _ _ hlive, if_pos hruns]
    · have hstage : exec (.windowStageDone ⟨r, true⟩) s = execWindowStageDone ⟨r, true⟩ s := rfl
      rw [hstage, execWindowStageDone, whenRunning_of _ _ hlive]
      simp [hruns, hstaging]
  · exact ⟨_, inc_stalls hlive hruns hissue hbad hreload, storeParity_waits hjob hreload herrors hcharge⟩

end Sys2Proof.TrapRows

/-! ### Trap returns, ends and wipes (R170 to R173, R195, R196, R200) -/

namespace Sys2Proof.EndRows

open Sys2Proof Sys2Proof.Machine Sys2Proof.Safety Sys2Proof.Rows Sys2Proof.Laws Sys2Proof.ReedRows Sys2Proof.StateFacts Sys2Proof.PortRows
open Sys2Proof.SequenceRows Sys2Proof.TrapRows

/-! #### TRET -/

theorem length_storeRead (m : Store 8) (a n : Nat) : (storeRead m a n).length = n := by
  rw [storeRead_eq_map, List.length_map, List.length_range]

/-- A piece of a read is the read of that piece. -/
theorem slice_storeRead (m : Store 8) (a n o k : Nat) (h : o + k ≤ n) : slice (storeRead m a n) o k = storeRead m (a + o) k := by
  apply List.ext_getElem
  · simp only [slice, List.length_take, List.length_drop, length_storeRead]
    omega
  · intro i hi hib
    simp only [slice, List.getElem_take, List.getElem_drop, storeRead_eq_map, List.getElem_map, List.getElem_range, Nat.add_assoc]

theorem byteAt_storeRead (m : Store 8) (a n o : Nat) (h : o < n) : byteAt (storeRead m a n) o = (storeGet m (a + o)).toNat := by
  rw [byteAt, List.getD_eq_getElem _ _ (by rw [length_storeRead]; exact h)]
  simp only [storeRead_eq_map, List.getElem_map, List.getElem_range]

/-- Frame 0 as the kernel reads it. -/
def frameBytes (x : ReedCore) : Bytes := storeRead x.opmem 0x7F00 128

theorem le_frameBytes (x : ReedCore) (o k : Nat) (h : o + k ≤ 128) : le (frameBytes x) o k = leNat (storeRead x.opmem (0x7F00 + o) k) := by
  rw [le, frameBytes, slice_storeRead _ _ _ _ _ h]

theorem byteAt_frameBytes (x : ReedCore) (o : Nat) (h : o < 128) : byteAt (frameBytes x) o = (storeGet x.opmem (0x7F00 + o)).toNat :=
  byteAt_storeRead _ _ _ _ h

/-- The core TRET restores from frame 0. -/
def tretCore (x : ReedCore) : ReedCore := (restoreFrame 0 { x with entry := 0 }).1

theorem tretCore_eq (x : ReedCore) : tretCore x = { x with
    entry := 0
    opmem := storeWrite x.opmem 0x7F05 [BitVec.ofNat 8 (byteAt (frameBytes x) 5 / 2 * 2)]
    upc := le (frameBytes x) 2 2 % 2 ^ 14
    stack := ((List.range (byteAt (frameBytes x) 16)).map (fun i => le (frameBytes x) (8 + 2 * i) 2)).reverse
    lc := (List.range 4).map (fun i => BitVec.ofNat 16 (le (frameBytes x) (24 + 2 * i) 2))
    level := 0 } := by
  simp only [tretCore, restoreFrame, frameBytes, frameAddr, if_true]

/-- Clearing VALID of a byte. -/
theorem clearLow (b : Byte) : BitVec.ofNat 8 (b.toNat / 2 * 2) = b &&& 0xFE := by
  have hmask : ∀ i, i < 7 → (0xFE : Byte).getLsbD (i + 1) = true := by decide
  refine BitVec.eq_of_getLsbD_eq fun i hi => ?_
  rw [BitVec.getLsbD_ofNat, BitVec.getLsbD_and, decide_eq_true hi, Bool.true_and]
  cases i with
  | zero => simp [Nat.testBit_zero]
  | succ i =>
    rw [hmask i (by omega), Bool.and_true, Nat.testBit_succ, Nat.mul_div_cancel _ Nat.two_pos, BitVec.getLsbD, Nat.testBit_succ]

theorem storeGet_write_one (m : Store 8) (a i : Nat) (b : Byte) : storeGet (storeWrite m a [b]) i = if i = a then b else storeGet m i := by
  rw [storeGet_write, List.length_singleton]
  by_cases h : i = a
  · rw [if_pos (by omega), if_pos h, h, Nat.sub_self]
    rfl
  · rw [if_neg (by omega), if_neg h]

/-- TRET restores what R200 says, and clears VALID. -/
theorem tretCore_returned (x : ReedCore) : Returned x (tretCore x) := by
  rw [tretCore_eq]
  refine ⟨⟨rfl, rfl⟩, ?_, fun i hi => ?_, ?_, fun a => ?_, rfl⟩
  · exact congrArg (· % 2 ^ 14) (le_frameBytes x 2 2 (by decide))
  · have hread := le_frameBytes x (24 + 2 * i) 2 (by omega)
    rw [← Nat.add_assoc] at hread
    simp only [List.getElem?_map, List.getElem?_range hi, Option.map_some]
    exact congrArg (fun n => some (BitVec.ofNat 16 n)) hread
  · have hcount : byteAt (frameBytes x) 16 = (storeGet x.opmem 0x7F10).toNat := byteAt_frameBytes x 16 (by decide)
    refine ⟨by simp [hcount], fun i hi hi4 => ?_⟩
    have hread := le_frameBytes x (8 + 2 * i) 2 (by omega)
    rw [← Nat.add_assoc] at hread
    have hin : i < byteAt (frameBytes x) 16 := by simpa using hi
    simp only [List.reverse_reverse, List.getElem?_map, List.getElem?_range hin, Option.map_some]
    exact congrArg some hread
  · have hvalid : byteAt (frameBytes x) 5 = (storeGet x.opmem 0x7F05).toNat := byteAt_frameBytes x 5 (by decide)
    simp only [storeGet_write_one, hvalid, clearLow]
    split
    · next h => rw [h]
    · rfl

/-- What is pending in frame 0 (R198, R200). -/
def tretPending (x : ReedCore) : Resume :=
  ⟨(storeGet x.opmem 0x7F07).toNat, (storeGet x.opmem 0x7F06).toNat, leNat (storeRead x.opmem 0x7F12 2) % 2 ^ 14,
    (storeGet x.opmem 0x7F04).toNat, BitVec.ofNat 64 (leNat (storeRead x.opmem 0x7F38 8)),
    BitVec.ofNat 64 (leNat (storeRead x.opmem 0x7F40 8)), BitVec.ofNat 64 (leNat (storeRead x.opmem 0x7F48 8))⟩

theorem restoreFrame_pending (x : ReedCore) :
    (restoreFrame 0 { x with entry := 0 }).2 = if (storeGet x.opmem 0x7F05).getLsbD 1 then some (tretPending x) else none := by
  have hsome : (restoreFrame 0 { x with entry := 0 }).2 = if bitOf (byteAt (frameBytes x) 5) 1 then
      some ⟨byteAt (frameBytes x) 7, byteAt (frameBytes x) 6, le (frameBytes x) 18 2 % 2 ^ 14, byteAt (frameBytes x) 4,
        BitVec.ofNat 64 (le (frameBytes x) 56 8), BitVec.ofNat 64 (le (frameBytes x) 64 8), BitVec.ofNat 64 (le (frameBytes x) 72 8)⟩
      else none := by
    simp only [restoreFrame, frameBytes, frameAddr, if_true]
    rfl
  rw [hsome, byteAt_frameBytes x 5 (by decide), byteAt_frameBytes x 7 (by decide), byteAt_frameBytes x 6 (by decide),
    byteAt_frameBytes x 4 (by decide), le_frameBytes x 18 2 (by decide), le_frameBytes x 56 8 (by decide), le_frameBytes x 64 8 (by decide),
    le_frameBytes x 72 8 (by decide)]
  rfl

theorem tret_next {s t : State} {r : Fin 1024} {f : QField} {iss : Issue} (hissues : Issues s t r iss) (hword : SeqIs s r 5 f)
    (hfields : fieldsDone t r.val = true) (hlevel : (reedAt t r.val).core.level = 1)
    (hvalid : (storeGet (reedAt t r.val).core.opmem 0x7F05).getLsbD 0 = true) :
    exec (.tret r ⟨f, .clean⟩) s = .next (setReed t r.val { reedAt t r.val with
      run := .running
      core := tretCore (reedAt t r.val).core
      issue := (if (storeGet (reedAt t r.val).core.opmem 0x7F05).getLsbD 1 then some (tretPending (reedAt t r.val).core) else none).map (fun p =>
        ⟨tretCore (reedAt t r.val).core, 0, false, none, none, some p⟩) }) := by
  have hexec : exec (.tret r ⟨f, .clean⟩) s = whenRunning s (tretStep s r.val f) := rfl
  have hframe : frameValid (reedAt t r.val).core 0 = true := by
    have hodd := hvalid
    rw [BitVec.getLsbD, Nat.testBit_zero, decide_eq_true_eq] at hodd
    exact decide_eq_true hodd
  have hgo : ¬ (!fieldsDone t r.val || (reedAt t r.val).core.level ≠ 1 || !frameValid (reedAt t r.val).core 0) = true := by
    simp [hfields, hlevel, hframe]
  rw [hexec, whenRunning_of _ _ hissues.live, tretStep, rowStep_acts hissues _ _ (by simp [seqNamed, hword.1, hword.2])]
  simp only [if_neg hgo, resumeCore]
  rw [restoreFrame_pending]
  rfl

/-! #### END -/

theorem endJob_next {s t : State} {r : Fin 1024} {iss : Issue} (hissues : Issues s t r iss) (hword : seqOf (wordNow s r.val) = 7)
    (hfields : fieldsDone t r.val = true) :
    exec (.endJob r .clean) s = .next (if (reedAt t r.val).core.level = 0 then endRoutine t r.val else endKernel t r.val) := by
  have hexec : exec (.endJob r .clean) s = whenRunning s (endStep s r.val) := rfl
  have hdone : ¬ (!fieldsDone t r.val) = true := by simp [hfields]
  rw [hexec, whenRunning_of _ _ hissues.live, endStep, rowStep_acts hissues _ _ (by simp [hword])]
  simp only [if_neg hdone]

/-- The status a routine posts is the one its code names (R171). -/
theorem endStatus_postable : ∀ st ∈ postable, endStatus (statusCode st) = some st := by decide

/-- Writing frames back leaves reeds and clusters, and changes the space of the reed's job alone. -/
theorem flushFrames_reeds (s : State) (r : Nat) : (flushFrames s r).reeds = s.reeds ∧ (flushFrames s r).clusters = s.clusters ∧
    (flushFrames s r).plc = s.plc := by
  unfold flushFrames
  cases (reedAt s r).job <;> exact ⟨rfl, rfl, rfl⟩

theorem flushFrames_job {s : State} {r k : Nat} {j : Job} (h : reedJob (flushFrames s r) r = some (k, j)) :
    (∃ j0, reedJob s r = some (k, j0) ∧ j0.unit = j.unit ∧ j0.rid = j.rid) ∧
      ∀ i, i ≠ k → tblGet (flushFrames s r).jobs i = tblGet s.jobs i := by
  cases hjob : (reedAt s r).job with
  | none =>
    have hsame : flushFrames s r = s := by simp only [flushFrames, hjob]
    rw [hsame] at h ⊢
    exact ⟨⟨j, h, rfl, rfl⟩, fun _ _ => rfl⟩
  | some n =>
    have hreed : reedAt (flushFrames s r) r = reedAt s r := by rw [reedAt, (flushFrames_reeds s r).1]; rfl
    have hjobs : ∃ g : Job → Job, (flushFrames s r).jobs = tblMod s.jobs n g ∧ ∀ y, (g y).unit = y.unit ∧ (g y).rid = y.rid := by
      simp only [flushFrames, hjob, modJob_jobs]
      exact ⟨_, rfl, fun _ => ⟨rfl, rfl⟩⟩
    obtain ⟨g, hg, hsame⟩ := hjobs
    simp only [reedJob, hreed, hjob, Option.bind_some, hg, tblGet_mod_same, Option.map_map, Option.map_eq_some_iff, Function.comp] at h
    obtain ⟨j0, hget, heq⟩ := h
    cases heq
    refine ⟨⟨j0, ?_, (hsame j0).1.symm, (hsame j0).2.symm⟩, fun i hi => ?_⟩
    · simp only [reedJob, hjob, Option.bind_some, hget, Option.map_some]
    · rw [hg, tblGet_mod_other _ _ _ _ hi]

/-- The result of a customer routine that R171 allows. -/
theorem routineResult_some (space : Store 8) (outLen : Nat) (c : ReedCore) (st : Status) (hst : st ∈ postable)
    (hcode : (sGet c 1).toNat % 2 ^ 16 = statusCode st) (hlen : (sGet c 2).toNat % 2 ^ 32 ≤ outLen) : routineResult space outLen c
      = some ⟨st, storeRead space (0x4000 * (storeGet c.opmem 0x7E0D).toNat) ((sGet c 2).toNat % 2 ^ 32), 0, none⟩ := by
  have hc : endCode c = statusCode st := by rw [← hcode, endCode, bitsOf, pow_zero, Nat.div_one]
  have hl : endLength c = (sGet c 2).toNat % 2 ^ 32 := by rw [endLength, bitsOf, pow_zero, Nat.div_one]
  rw [routineResult, hc, endStatus_postable st hst, hl]
  simp only [if_pos hlen, inputPages]

theorem endRoutine_posts {t : State} {r : Fin 1024} {iss : Issue} {k : Nat} {j : Job} {st : Status} (hissue : (reedAt t r.val).issue = some iss)
    (hdefect : (reedAt t r.val).defect = false) (hjob : reedJob (flushFrames t r.val) r.val = some (k, j)) (hunit : j.unit = .reed r.val)
    (hstage : j.stage = .running) (hrid : 0x8000 ≤ j.rid) (hst : st ∈ postable) (hfailed : st ≠ .invariantFailed)
    (hcode : (sGet iss.before 1).toNat % 2 ^ 16 = statusCode st) (hlen : (sGet iss.before 2).toNat % 2 ^ 32 ≤ jOutLen j) :
    Posted t (endRoutine t r.val) r.val k j
      ⟨st, storeRead j.space (0x4000 * (storeGet iss.before.opmem 0x7E0D).toNat) ((sGet iss.before 2).toNat % 2 ^ 32), 0, none⟩ := by
  obtain ⟨⟨j0, hjob0, hunit0, hrid0⟩, hothers⟩ := flushFrames_job hjob
  obtain ⟨hreeds, hclusters, hplc⟩ := flushFrames_reeds t r.val
  have hreed : ∀ q, reedAt (flushFrames t r.val) q = reedAt t q := fun q => by rw [reedAt, hreeds]; rfl
  have hcluster : ∀ c, clusterAt (flushFrames t r.val) c = clusterAt t c := fun c => by rw [clusterAt, hclusters]; rfl
  have hbefore : (issueOf (reedAt t r.val)).before = iss.before := by rw [issueOf, hissue]; rfl
  have hunits : unitReeds j0.unit = [r.val] := by rw [hunit0, hunit]; rfl
  have hposting : ¬ r.val ≠ postingReed j0 := by rw [postingReed, hunits]; simp
  have hreads : ¬ (!readsMade t j0) = true := by simp [readsMade, hrid0, hrid]
  have hlib : ¬ j.rid < 0x8000 := by omega
  have hend : endRoutine t r.val = endWith (flushFrames t r.val) r.val
      ⟨st, storeRead j.space (0x4000 * (storeGet iss.before.opmem 0x7E0D).toNat) ((sGet iss.before 2).toNat % 2 ^ 32), 0, none⟩ := by
    have hfold : (unitReeds j0.unit).foldl flushFrames t = flushFrames t r.val := by rw [hunits]; rfl
    simp only [endRoutine, hjob0, if_neg hposting, if_neg hreads, hfold, reedJob_get hjob, endState, if_neg hlib, hbefore,
      routineResult_some j.space (jOutLen j) iss.before st hst hcode hlen]
  have hposted := endWith_posted (flushFrames t r.val) r.val k j
    ⟨st, storeRead j.space (0x4000 * (storeGet iss.before.opmem 0x7E0D).toNat) ((sGet iss.before 2).toNat % 2 ^ 32), 0, none⟩ hjob hunit hstage
    ((congrArg Reed.defect (hreed r.val)).trans hdefect) hfailed
  rw [hend]
  refine ⟨hplc ▸ hposted.job, hcluster _ ▸ hposted.fifo, ?_, fun q hq => (hposted.reeds q hq).trans (hreed q),
    fun i hi => (hposted.jobs i hi).trans (hothers i hi), fun c hc => (hposted.clusters c hc).trans (hcluster c)⟩
  rw [hposted.reed]
  simp only [wiped, hreed]

/-! #### Muting by a wipe (R173) -/

/-- What no wipe undoes: a reed is muted. -/
theorem reedMuted_of_health {s t : State} {r : Nat} (h : reedMuted s r = true) (hclusters : t.clusters = s.clusters)
    (hmuted : ∀ u, u ∈ s.health.muted → u ∈ t.health.muted) : reedMuted t r = true := by
  simp only [reedMuted, clusterAt, hclusters, Bool.or_eq_true, List.any_eq_true] at h ⊢
  rcases h with h | ⟨u, hu, hr⟩
  · exact .inl h
  · exact .inr ⟨u, hmuted u hu, hr⟩

theorem muteReed_health (s : State) (r c : Nat) : (muteReed s r c).clusters = s.clusters ∧ UnitName.reed (Fin.ofNat 1024 r) ∈ (muteReed s r c).health.muted ∧
    ∀ u, u ∈ s.health.muted → u ∈ (muteReed s r c).health.muted := by
  by_cases h : s.health.muted.contains (.reed (Fin.ofNat 1024 r)) = true
  · simp only [muteReed, muteUnit, if_pos h, displaceJobs]
    exact ⟨trivial, by simpa using h, fun _ hu => hu⟩
  · simp only [muteReed, muteUnit, if_neg h, displaceJobs, logEvent, logRecord]
    exact ⟨trivial, List.mem_cons_self, fun _ hu => List.mem_cons_of_mem _ hu⟩

theorem wipeReed_health (s : State) (r : Nat) : (wipeReed s r).clusters = s.clusters ∧ ∀ u, u ∈ s.health.muted → u ∈ (wipeReed s r).health.muted := by
  simp only [wipeReed]
  split
  · obtain ⟨hclusters, _, hmono⟩ := muteReed_health { setReed s r { Reed.init with breakpoints := (reedAt s r).breakpoints, defect := (reedAt s r).defect } with
      rng := { s.rng with waiting := s.rng.waiting.filter (· ≠ .reed r), granted := s.rng.granted.filter (· ≠ .reed r) } } r 5
    exact ⟨hclusters, hmono⟩
  · exact ⟨rfl, fun _ hu => hu⟩

theorem reedMuted_wipeReed {s : State} {r : Nat} (q : Nat) (h : reedMuted s r = true) : reedMuted (wipeReed s q) r = true :=
  reedMuted_of_health h (wipeReed_health s q).1 (wipeReed_health s q).2

theorem reedMuted_wipeReeds {r : Nat} (l : List Nat) {s : State} (h : reedMuted s r = true) : reedMuted (l.foldl wipeReed s) r = true := by
  induction l generalizing s with
  | nil => exact h
  | cons q qs ih => exact ih (reedMuted_wipeReed q h)

/-- A reed with a defect is muted by its wipe. -/
theorem wipeReed_mutes (s : State) (r : Fin 1024) (h : (reedAt s r.val).defect = true) : reedMuted (wipeReed s r.val) r.val = true := by
  by_cases hmuted : reedMuted s r.val = true
  · exact reedMuted_wipeReed r.val hmuted
  · have hgo : ((reedAt s r.val).defect && !reedMuted s r.val) = true := by simp [h, hmuted]
    obtain ⟨u, hwipe⟩ : ∃ u, wipeReed s r.val = muteReed u r.val 5 := ⟨_, if_pos hgo⟩
    rw [hwipe]
    simp only [reedMuted, Bool.or_eq_true, List.any_eq_true]
    refine .inr ⟨_, (muteReed_health u r.val 5).2.1, ?_⟩
    simp

/-- The units of a job are its reeds, and a MAU where it holds one. -/
theorem wipeUnits_cases (s : State) (j : Job) : wipeUnits s j = (unitReeds j.unit).foldl wipeReed s ∨
    ∃ c, wipeUnits s j = wipeMau ((unitReeds j.unit).foldl wipeReed s) c := by
  unfold wipeUnits
  cases j.unit with
  | mau c q => exact .inr ⟨c, rfl⟩
  | none => exact .inl rfl
  | reed q => exact .inl rfl
  | gang cs => exact .inl rfl

theorem reedMuted_wipeMau {s : State} {r : Nat} (c : Nat) (h : reedMuted s r = true) : reedMuted (wipeMau s c) r = true := by
  simp only [reedMuted, Bool.or_eq_true] at h ⊢
  refine h.imp_left fun hmuted => ?_
  by_cases hc : reedCluster r = c
  · rw [hc] at hmuted ⊢
    rw [wipeMau, modCluster, clusterAt_setCluster]
    exact hmuted
  · rw [wipeMau, modCluster, clusterAt_setCluster_other _ _ _ _ hc]
    exact hmuted

theorem reedMuted_wipeUnits {s : State} {r : Nat} (j : Job) (h : reedMuted s r = true) : reedMuted (wipeUnits s j) r = true := by
  have hwiped := reedMuted_wipeReeds (unitReeds j.unit) h
  rcases wipeUnits_cases s j with heq | ⟨c, heq⟩
  · rw [heq]
    exact hwiped
  · rw [heq]
    exact reedMuted_wipeMau c hwiped

theorem reedMuted_awaitReplay {s : State} {r : Nat} (k : Nat) (h : reedMuted s r = true) : reedMuted (awaitReplay s k) r = true := by
  unfold awaitReplay
  cases tblGet s.jobs k with
  | none => exact h
  | some j => exact reedMuted_wipeUnits j h

/-- A job on one reed with a defect ends, and the reed is muted. -/
theorem endWith_mutes (s : State) (r : Fin 1024) (k : Nat) (j : Job) (res : JobResult) (hjob : reedJob s r.val = some (k, j))
    (hunit : j.unit = .reed r.val) (hstage : j.stage = .running) (hstatus : res.status ≠ .invariantFailed) (hdefect : (reedAt s r.val).defect = true) :
    reedMuted (endWith s r.val res) r.val = true := by
  have hend : endWith s r.val res = wipeReed (wipeReed (postResult s k res) r.val) r.val := by
    simp only [endWith, hjob, if_pos hstage, endMau, hunit]
    rfl
  have hreed : reedAt (postResult s k res) r.val = reedAt s r.val := by
    rw [postResult_reed s k r.val j res (reedJob_get hjob) hunit hstatus]
    rfl
  rw [hend]
  exact reedMuted_wipeReed _ (wipeReed_mutes _ r (by rw [hreed]; exact hdefect))

/-! #### END at level 1 (R196) -/

theorem faultStatus_eq (c : ReedCore) : faultStatus c = if c.trapElem.toNat / 256 % 16 = 12 then .keySlotCorrupt
    else if c.trapElem.toNat / 256 % 16 = 13 then .keyPolicy else .vectorFault := by
  simp only [faultStatus, bitsOf]
  rfl

theorem faultStatus_ne (c : ReedCore) : faultStatus c ≠ .invariantFailed := by
  unfold faultStatus
  dsimp only
  split
  · decide
  · split <;> decide

theorem endKernel_entry1 {t : State} {r k : Nat} {j : Job} (hjob : reedJob t r = some (k, j)) (hentry : (reedAt t r).core.entry = 1) :
    endKernel t r = endWith t r ⟨faultStatus (reedAt t r).core, [], 0, none⟩ := by
  simp only [endKernel, hjob, if_pos hentry]

theorem endKernel_entry2 {t : State} {r k : Nat} {j : Job} (hjob : reedJob t r = some (k, j)) (hentry : (reedAt t r).core.entry = 2) :
    endKernel t r = awaitReplay (wipeReed t r) k := by
  have h1 : ¬ (reedAt t r).core.entry = 1 := by omega
  simp only [endKernel, hjob, if_neg h1, if_pos hentry]

theorem endKernel_other {t : State} {r k : Nat} {j : Job} (hjob : reedJob t r = some (k, j)) (h1 : (reedAt t r).core.entry ≠ 1)
    (h2 : (reedAt t r).core.entry ≠ 2) : endKernel t r = wipeReed t r := by
  simp only [endKernel, hjob, if_neg h1, if_neg h2]

/-- The parity handler's END: the reed is wiped, its job waits for the replay. -/
theorem awaitReplay_wiped (t : State) (r k : Nat) (j : Job) (hjob : tblGet t.jobs k = some j) (hunit : j.unit = .reed r) (hstage : j.stage = .running)
    (hdefect : (reedAt t r).defect = false) : let u := awaitReplay (wipeReed t r) k
    reedAt u r = wiped t r ∧ tblGet u.jobs k = some { j with stage := .replayWait } ∧ (∀ q, q ≠ r → reedAt u q = reedAt t q) ∧
      (∀ i, i ≠ k → tblGet u.jobs i = tblGet t.jobs i) ∧ u.clusters = t.clusters := by
  obtain ⟨hreed1, hothers1, _⟩ := wipeReed_sound t r hdefect
  obtain ⟨hjobs1, hclusters1⟩ := wipeReed_tables t r hdefect
  have hdefect1 : (reedAt (wipeReed t r) r).defect = false := by rw [hreed1]; exact hdefect
  obtain ⟨hreed2, hothers2, _⟩ := wipeReed_sound (wipeReed t r) r hdefect1
  obtain ⟨hjobs2, hclusters2⟩ := wipeReed_tables (wipeReed t r) r hdefect1
  have hget : tblGet (wipeReed t r).jobs k = some j := by rw [hjobs1, hjob]
  have hawait : awaitReplay (wipeReed t r) k = modJob (wipeReed (wipeReed t r) r) k
      (fun x => { x with stage := if x.stage = .aborting then .aborting else .replayWait }) := by
    simp only [awaitReplay, hget, wipeUnits, hunit]
    rfl
  intro u
  simp only [u, hawait]
  refine ⟨?_, ?_, fun q hq => ?_, fun i hi => ?_, ?_⟩
  · refine (hreed2 : reedAt (wipeReed (wipeReed t r) r) r = _).trans ?_
    simp only [wiped, hreed1]
  · rw [modJob_jobs, tblGet_mod_same, hjobs2, hget]
    simp [hstage]
  · exact (hothers2 q hq).trans (hothers1 q hq)
  · rw [modJob_jobs, tblGet_mod_other _ _ _ _ hi, hjobs2, hjobs1]
  · rw [modJob_clusters, hclusters2, hclusters1]

/-- Settles O13: TRET by its frame, DEBUG_RELEASE, and END at level 0 and under each entry. -/
theorem endsAndReturns : Obligations.EndsAndReturns := by
  intro s t r f iss x c
  refine ⟨fun hissues hword hfields hlevel hvalid => ⟨tretCore x.core, tretCore_returned _, fun hpend => ?_, fun hpend => ?_⟩,
    fun hlive hdebug => ?_, fun k j st hissues hword hfields hlevel hdefect hjob hunit hstage hrid hst hfailed hcode hlen => ?_,
    fun k j hissues hword hfields hlevel hjob hunit hstage => ?_⟩
  · rw [tret_next hissues hword hfields hlevel hvalid, if_neg (fun h => Bool.false_ne_true (hpend.symm.trans h))]
    rfl
  · rw [tret_next hissues hword hfields hlevel hvalid, if_pos hpend]
    rfl
  · have hexec : exec (.debugRelease r) s = execDebugRelease r s := rfl
    rw [hexec, execDebugRelease, whenRunning_of _ _ hlive, if_pos hdebug]
    rfl
  · refine ⟨_, endJob_next hissues hword hfields, ?_⟩
    rw [if_pos hlevel]
    exact endRoutine_posts hissues.issue hdefect hjob hunit hstage hrid hst hfailed hcode hlen
  · have hkernel : ¬ (reedAt t r.val).core.level = 0 := by simp only [x] at hlevel; omega
    have hnext := endJob_next hissues hword hfields
    rw [if_neg hkernel] at hnext
    refine ⟨fun hentry hdefect => ⟨_, hnext, ?_⟩, fun hentry hdefect => ⟨_, hnext, ?_⟩, fun h1 h2 hdefect => ⟨_, hnext, ?_⟩,
      fun hdefect => ⟨_, hnext, ?_⟩⟩
    · rw [endKernel_entry1 hjob hentry, ← faultStatus_eq]
      exact endWith_posted t r.val k j _ hjob hunit hstage hdefect (faultStatus_ne _)
    · rw [endKernel_entry2 hjob hentry]
      exact awaitReplay_wiped t r.val k j (reedJob_get hjob) hunit hstage hdefect
    · rw [endKernel_other hjob h1 h2]
      obtain ⟨hreed, hothers, _⟩ := wipeReed_sound t r.val hdefect
      obtain ⟨hjobs, hclusters⟩ := wipeReed_tables t r.val hdefect
      exact ⟨hreed, hjobs, hclusters, hothers⟩
    · by_cases h1 : (reedAt t r.val).core.entry = 1
      · rw [endKernel_entry1 hjob h1]
        exact endWith_mutes t r k j _ hjob hunit hstage (faultStatus_ne _) hdefect
      · by_cases h2 : (reedAt t r.val).core.entry = 2
        · rw [endKernel_entry2 hjob h2]
          exact reedMuted_awaitReplay k (wipeReed_mutes t r hdefect)
        · rw [endKernel_other hjob h1 h2]
          exact wipeReed_mutes t r hdefect

end Sys2Proof.EndRows

/-! ### A cluster's events (R177, R232) -/

namespace Sys2Proof.ClusterRows

open Sys2Proof Sys2Proof.Machine Sys2Proof.Safety Sys2Proof.Rows Sys2Proof.Laws

/-! #### Two jobs under one number -/

/-- A device in SERVICE in breath 100. -/
def served : State := { State.reset with
  dev := { Dev.init with mode := .service }
  brt := { Brt.init with count := 100 } }

/-- A job with no unit. -/
def idleJob : Job where
  inst := 3
  queue := 1
  tag := 7
  gen := 4
  kind := .routine
  entry := zeros 64
  gather := []
  input := []
  breath := 90
  stage := .pending
  pool := 0
  cls := .reed
  budget := 2
  start := none
  rung := 1
  unit := .none
  replayed := false
  replays := 0
  replayAt := 0
  abort := none
  due := 0
  result := none
  leaf := none
  claim := false
  draws := []
  drawnAt := none
  frame := none
  deferred := false
  slice := none
  done := 0
  internal := none
  rid := 0x8001
  pages := 4
  space := []
  post := none
  moveAt := none
  saved := none
  holds := false

/-- A MAU with a modulus, at the end of an operation. -/
def doneMau : Mau := { Mau.init with modulus := 5, op := some ⟨1, 0, 0, 0⟩, acted := true }

/-- The job table has a second entry under number 0: the job that holds the MAU of cluster 0. A lookup finds the first entry. -/
def twoUnderOne : State := { served with
  jobs := [(0, idleJob), (0, { idleJob with stage := .running, unit := .mau 0 5 })]
  clusters := [(0, { Cluster.init with mau := doneMau })] }

theorem mauJob_twoUnderOne : mauJob twoUnderOne 0 = some 0 := by decide

/-- The parity error replays the first job, which holds no MAU: the MAU keeps its modulus. -/
theorem mauDone_twoUnderOne : (clusterAt (mauDone twoUnderOne 0 true) 0).mau.modulus = 5 := by decide

/-- Refutes O14: the last clause names the MAU's job by its number, and nothing in the statement keeps a second job from standing under that number.
In `twoUnderOne` the lookup finds a job without a unit before the one that holds the MAU, so the replay wipes no MAU. -/
theorem not_clusterEvents : ¬ Obligations.ClusterEvents := by
  intro h
  obtain ⟨_, _, _, _, hmau⟩ := h twoUnderOne 5 0 0 (by decide)
  obtain ⟨_, hparity⟩ := hmau ⟨1, 0, 0, 0⟩ rfl rfl rfl
  obtain ⟨t, hexec, _, hwiped⟩ := hparity 0 idleJob mauJob_twoUnderOne rfl rfl nofun
  have hdone : exec (.mauOperationDone 0 true) twoUnderOne = .next (mauDone twoUnderOne 0 true) := whenRunning_of _ _ (by decide)
  rw [hdone] at hexec
  cases hexec
  have hmod : (5 : Nat) = 0 := mauDone_twoUnderOne.symm.trans (congrArg Mau.modulus hwiped)
  exact absurd hmod (by decide)

end Sys2Proof.ClusterRows

/-! ### Registers that clear on read (R17, R31, R50) -/

namespace Sys2Proof.ReadRows

open Sys2Proof Sys2Proof.Machine Sys2Proof.Safety Sys2Proof.Rows Sys2Proof.Laws

/-- A read through a formed port's PF, out of HALTED: the value goes out and the register clears. -/
theorem pfReadClear_live {s : State} {p : Fin 8} (v : Nat) (clear : State → State) (hl : isLive s = true) (hf : (portAt s p.val).formed = true)
    (hm : s.dev.mode ≠ .halted) : pfReadClear s p v clear = .next (readsAs (clear s) v) := by
  simp only [pfReadClear, whenLive, hl, hf, hm, if_true, if_false, Bool.not_true, Bool.false_eq_true]
  rfl

/-- In HALTED the read is 0 and clears nothing. -/
theorem pfReadClear_halted {s : State} {p : Fin 8} (v : Nat) (clear : State → State) (hl : isLive s = true) (hf : (portAt s p.val).formed = true)
    (hm : s.dev.mode = .halted) : pfReadClear s p v clear = .next (readsAs s 0) := by
  simp only [pfReadClear, whenLive, hl, hf, hm, if_true, if_false, Bool.not_true, Bool.false_eq_true]
  rfl

theorem flag_lt (b : Bool) : flag b < 2 := by cases b <;> decide

theorem flag_eq_one (b : Bool) : decide (flag b = 1) = b := by cases b <;> rfl

theorem laneSpeed_lt (n : Nat) : laneSpeed n < 4 := by
  unfold laneSpeed
  split
  · decide
  · split <;> decide

/-- The fields of PRT_PORT, by place. -/
theorem prtPort_fields (s : State) (p : Nat) (x : FabPort) (hx : fabPort s p = x) :
    prtPort s p / 2 ^ 32 = x.fecUncorr % 2 ^ 16 + 2 ^ 16 * (x.macsecDrop % 2 ^ 16) ∧
      (prtPort s p).testBit 5 = x.linkUp ∧ (prtPort s p).testBit 7 = x.xoffSent ∧ prtPort s p / 2 ^ 8 % 2 ^ 8 = x.xoffRcvd % 2 ^ 8 := by
  have hup := flag_lt x.linkUp
  have han := flag_lt x.txAn.isSome
  have hoff := flag_lt x.xoffSent
  have hcfg := flag_lt (fabCfg s p).isSome
  simp only [prtPort, hx, packFields, Nat.testBit_eq_decide_div_mod_eq]
  refine ⟨by omega, ?_, ?_, by omega⟩
  · refine (decide_eq_decide.mpr ?_).trans (flag_eq_one x.linkUp)
    omega
  · refine (decide_eq_decide.mpr ?_).trans (flag_eq_one x.xoffSent)
    omega

/-- Settles O28: every one of these reads is the clearing read of a PF, and a register's value is the sum of its fields. -/
theorem countersClearOnRead : Obligations.CountersClearOnRead := by
  intro s p f hl hf
  have latch : exec (.brtCountLowRead p) s = whenLive s (brtLowRead s p.val) := rfl
  refine ⟨?_, fun hm => ⟨?_, fun x hx => ?_, ?_, ?_, ?_, ?_, ?_⟩, fun hm c hc => ?_⟩
  · rw [latch]
    simp only [whenLive, hl, brtLowRead, hf, Bool.not_true, Bool.false_eq_true, if_true, if_false, bitsOf, Nat.pow_zero, Nat.div_one]
    rfl
  · refine (show exec (.belStatusRead p) s = execBelStatusRead p s from rfl).trans ((pfReadClear_live _ _ hl hf hm).trans ?_)
    simp [belStatus, packFields, heldCount, Nat.mul_comm]
  · have hfab : fabPort s f.val = x := by simp [fabPort, tblGetD, hx]
    have hhas : tblHas s.pxt.ports f.val = true := by simp [tblHas, hx]
    have hread : exec (.prtPortRead p f) s = execPrtPortRead p f s := rfl
    simp only [Does, hread, execPrtPortRead, pfReadClear_live _ _ hl hf hm, hhas, if_true, Host.Outcome.next.injEq, exists_eq_left']
    refine ⟨⟨_, rfl, prtPort_fields s f.val x hfab⟩, ?_, fun q hq => ?_, ?_⟩
    · simp only [readsAs, modFab, modPxt, hfab, tblGet_put_same]
    · simp only [readsAs, modFab, modPxt, tblGet_put_other _ _ _ _ hq]
    · simp only [readsAs, modFab, modPxt]
  · refine (show exec (.pxtDropsRead p) s = execPxtDropsRead p s from rfl).trans ((pfReadClear_live _ _ hl hf hm).trans ?_)
    simp [pxtDrops, modPxt, packFields, Nat.mul_comm, Nat.add_assoc]
  · refine (show exec (.rngSupplyRead p) s = execRngSupplyRead p s from rfl).trans ((pfReadClear_live _ _ hl hf hm).trans ?_)
    simp [rngSupply, modRng, packFields, Nat.mul_comm]
  · refine (show exec (.rngWaitRead p) s = execRngWaitRead p s from rfl).trans ((pfReadClear_live _ _ hl hf hm).trans ?_)
    simp [rngWait, modRng, packFields, Nat.mul_comm]
  · refine (show exec (.mprEccRead p) s = execMprEccRead p s from rfl).trans ((pfReadClear_live _ _ hl hf hm).trans ?_)
    simp [mprEcc, packFields, Nat.mul_comm, Nat.add_assoc]
  · exact (show exec (.monAlarmsRead p) s = execMonAlarmsRead p s from rfl).trans (pfReadClear_live _ _ hl hf hm)
  · simp only [List.mem_cons, List.not_mem_nil, or_false] at hc
    obtain ⟨v, clear, h⟩ : ∃ v clear, exec c s = pfReadClear s p v clear := by
      rcases hc with rfl | rfl | rfl | rfl | rfl | rfl | rfl
      · exact ⟨_, _, show exec (.belStatusRead p) s = execBelStatusRead p s from rfl⟩
      · exact ⟨_, _, show exec (.prtPortRead p f) s = execPrtPortRead p f s from rfl⟩
      · exact ⟨_, _, show exec (.pxtDropsRead p) s = execPxtDropsRead p s from rfl⟩
      · exact ⟨_, _, show exec (.rngSupplyRead p) s = execRngSupplyRead p s from rfl⟩
      · exact ⟨_, _, show exec (.rngWaitRead p) s = execRngWaitRead p s from rfl⟩
      · exact ⟨_, _, show exec (.mprEccRead p) s = execMprEccRead p s from rfl⟩
      · exact ⟨_, _, show exec (.monAlarmsRead p) s = execMonAlarmsRead p s from rfl⟩
    exact h.trans (pfReadClear_halted v clear hl hf hm)

end Sys2Proof.ReadRows

/-! ### Writing completions to their rings (R76 to R80, R88, R92) -/

namespace Sys2Proof.RingWrites

open Sys2Proof Sys2Proof.Machine Sys2Proof.Safety Sys2Proof.Rows Sys2Proof.Laws Sys2Proof.StateFacts

/-! #### What ring traffic leaves of the host's side -/

/-- What is fixed about an instance while its rings work: its function and its generation. -/
def instPlace (x : Inst) : Fin 8 × Nat × Nat := (x.port, x.vf, x.gen)

/-- What is fixed about a port while its rings work: its sizes, the pages refused and which of its functions sleep. -/
def portPlace (h : HostPort) : Nat × Nat × List (Nat × Nat) × Bool × (Nat → Bool) :=
  (h.mps, h.mrrs, h.noAccess, h.pfD3hot, fun vf => (tblGet h.vfs vf).elim false Vf.d3hot)

/-- From `s` to `t` only ring contents, buckets, messages and the requests sent have changed. -/
structure SameHost (s t : State) : Prop where
  frame : ∃ ports insts out, t = { s with ports := ports, insts := insts, out := out }
  length : t.ports.length = s.ports.length
  port : ∀ p, portPlace (portAt t p) = portPlace (portAt s p)
  inst : ∀ i, (tblGet t.insts i).map instPlace = (tblGet s.insts i).map instPlace

theorem SameHost.refl (s : State) : SameHost s s := ⟨⟨_, _, _, rfl⟩, rfl, fun _ => rfl, fun _ => rfl⟩

theorem SameHost.trans {s t u : State} (h : SameHost s t) (h' : SameHost t u) : SameHost s u where
  frame := by
    obtain ⟨p, i, o, rfl⟩ := h.frame
    obtain ⟨p', i', o', rfl⟩ := h'.frame
    exact ⟨p', i', o', rfl⟩
  length := h'.length.trans h.length
  port p := (h'.port p).trans (h.port p)
  inst i := (h'.inst i).trans (h.inst i)

theorem sameHost_out (s : State) (out : List Out) : SameHost s { s with out := out } := ⟨⟨_, _, _, rfl⟩, rfl, fun _ => rfl, fun _ => rfl⟩

theorem portAt_modPort (s : State) (p q : Nat) (f : HostPort → HostPort) :
    portAt (modPort s p f) q = if q = p ∧ q < s.ports.length then f (portAt s q) else portAt s q := getD_listMod _ _ _ _ _

theorem sameHost_modPort (s : State) (p : Nat) (f : HostPort → HostPort) (hf : ∀ h, portPlace (f h) = portPlace h) : SameHost s (modPort s p f) where
  frame := ⟨_, _, _, rfl⟩
  length := StateFacts.length_listMod _ _ _
  port q := by
    rw [portAt_modPort]
    split
    · exact hf _
    · rfl
  inst _ := rfl

theorem sameHost_modInst (s : State) (i : Nat) (f : Inst → Inst) (hf : ∀ x, instPlace (f x) = instPlace x) : SameHost s (modInst s i f) where
  frame := ⟨_, _, _, rfl⟩
  length := rfl
  port _ := rfl
  inst k := by
    by_cases hk : k = i
    · subst hk
      rw [modInst_insts, tblGet_mod_same, Option.map_map]
      exact congrArg (fun g => Option.map g _) (funext hf)
    · rw [modInst_insts, tblGet_mod_other _ _ _ _ hk]

theorem sameHost_modRing (s : State) (g : Ring) (f : Qp → Qp) : SameHost s (modRing s g f) := by
  cases g with
  | adm p => exact sameHost_modPort _ _ _ fun _ => rfl
  | inst i q => exact sameHost_modInst _ _ _ fun _ => rfl

theorem sameHost_bucketCharge (s : State) (i n : Nat) : SameHost s (bucketCharge s i n) := by
  unfold bucketCharge
  split
  · exact sameHost_modInst _ _ _ fun _ => rfl
  · exact .refl s

theorem sameHost_ringCharge (s : State) (g : Ring) (n : Nat) : SameHost s (ringCharge s g n) := by
  cases g with
  | adm p => exact .refl s
  | inst i q => exact sameHost_bucketCharge s i n

theorem sameHost_fnCharge (s : State) (p fn n : Nat) : SameHost s (fnCharge s p fn n) := by
  unfold fnCharge
  split
  · exact .refl s
  · split
    · exact sameHost_bucketCharge _ _ _
    · exact .refl s

theorem sameHost_modMsix (s : State) (p vf : Nat) (f : Msix → Msix) : SameHost s (modMsix s p vf f) := by
  unfold modMsix
  split
  · exact sameHost_modPort _ _ _ fun _ => rfl
  · refine sameHost_modPort _ _ _ fun h => ?_
    have asleep : (fun k => (tblGet (tblPut h.vfs vf { tblGetD h.vfs vf Vf.init with msix := f (tblGetD h.vfs vf Vf.init).msix }) k).elim false Vf.d3hot) =
        fun k => (tblGet h.vfs k).elim false Vf.d3hot := by
      funext k
      by_cases hk : k = vf
      · subst hk
        rw [tblGet_put_same]
        cases hv : tblGet h.vfs k with
        | none => simp only [tblGetD, hv, Option.getD_none, Option.elim]; rfl
        | some v => simp only [tblGetD, hv, Option.getD_some, Option.elim]
      · rw [tblGet_put_other _ _ _ _ hk]
    simp only [portPlace]
    rw [asleep]

theorem sameHost_msixSend (s : State) (p vf v : Nat) : SameHost s (msixSend s p vf v) := by
  unfold msixSend
  simp only []
  split
  · exact sameHost_modMsix _ _ _ _
  · exact (sameHost_out s _).trans (sameHost_fnCharge _ _ _ _)

theorem sameHost_ringError (s : State) (g : Ring) (cause : Nat) : SameHost s (ringError s g cause) := by
  cases g with
  | adm p =>
    refine sameHost_modPort _ _ _ fun h => ?_
    split <;> rfl
  | inst i q =>
    refine sameHost_modInst _ _ _ fun x => ?_
    split <;> rfl

theorem sameHost_ringMessage (s : State) (g : Ring) : SameHost s (ringMessage s g) := by
  unfold ringMessage
  split
  · exact .refl s
  · split
    · exact (sameHost_modRing _ _ _).trans (sameHost_msixSend _ _ _ _)
    · exact .refl s

theorem sameHost_messageIfLast (s : State) (g : Ring) : SameHost s (messageIfLast s g) := by
  unfold messageIfLast
  split
  · exact .refl s
  · exact sameHost_ringMessage s g

theorem sameHost_foldl {α : Type} (f : State → α → State) (hf : ∀ t a, SameHost t (f t a)) (l : List α) (s : State) : SameHost s (l.foldl f s) := by
  induction l generalizing s with
  | nil => exact .refl s
  | cons a l ih => exact (hf s a).trans (ih _)

/-! #### What depends on the places alone -/

theorem SameHost.portField {s t : State} (h : SameHost s t) (p : Nat) :
    (portAt t p).mps = (portAt s p).mps ∧ (portAt t p).mrrs = (portAt s p).mrrs ∧ (portAt t p).noAccess = (portAt s p).noAccess := by
  have e := h.port p
  simp only [portPlace, Prod.mk.injEq] at e
  exact ⟨e.1, e.2.1, e.2.2.1⟩

theorem SameHost.fnAsleep {s t : State} (h : SameHost s t) (p fn : Nat) : fnAsleep t p fn = fnAsleep s p fn := by
  have e := h.port p
  simp only [portPlace, Prod.mk.injEq] at e
  obtain ⟨-, -, -, pf, vf⟩ := e
  simp only [Machine.fnAsleep, pf, congrFun vf fn]

theorem SameHost.ringFn {s t : State} (h : SameHost s t) (g : Ring) : ringFn t g = ringFn s g := by
  cases g with
  | adm p => rfl
  | inst i q =>
    have e := h.inst i
    simp only [Machine.ringFn]
    cases ht : tblGet t.insts i <;> cases hs : tblGet s.insts i <;> simp_all [instPlace]

theorem SameHost.ringAsleep {s t : State} (h : SameHost s t) (g : Ring) : ringAsleep t g = ringAsleep s g := by
  simp only [Machine.ringAsleep, h.ringFn g, h.fnAsleep]

theorem SameHost.generationHolds {s t : State} (h : SameHost s t) (c : Compl) : generationHolds t c = generationHolds s c := by
  unfold Machine.generationHolds
  cases c.ring with
  | adm p => rfl
  | inst i q =>
    have e := h.inst i
    cases ht : tblGet t.insts i <;> cases hs : tblGet s.insts i <;> simp_all [instPlace]

/-- What the state holds beside the host's side is kept. -/
theorem SameHost.rest {s t : State} (h : SameHost s t) : { t with ports := s.ports, insts := s.insts, out := s.out } = s := by
  obtain ⟨p, i, o, rfl⟩ := h.frame
  rfl

theorem SameHost.dev {s t : State} (h : SameHost s t) : t.dev = s.dev := (congrArg State.dev h.rest :)
theorem SameHost.brt {s t : State} (h : SameHost s t) : t.brt = s.brt := (congrArg State.brt h.rest :)
theorem SameHost.jobs {s t : State} (h : SameHost s t) : t.jobs = s.jobs := (congrArg State.jobs h.rest :)
theorem SameHost.waiting {s t : State} (h : SameHost s t) : t.waiting = s.waiting := (congrArg State.waiting h.rest :)
theorem SameHost.relaxedOrder {s t : State} (h : SameHost s t) : relaxedOrder t = relaxedOrder s := by
  simp only [Machine.relaxedOrder, show t.charts = s.charts from (congrArg State.charts h.rest :)]

/-! #### The queue pair of a ring -/

theorem ringQp_modRing {s : State} {g : Ring} {qp : Qp} (f : Qp → Qp) (h : ringQp s g = some qp) (hp : ∀ p, g = .adm p → s.ports.length = 8) :
    ringQp (modRing s g f) g = some (f qp) := by
  cases g with
  | adm p =>
    have hlt : p.val < s.ports.length := by rw [hp p rfl]; exact p.isLt
    simp only [ringQp, Option.some.injEq] at h
    simp only [modRing, ringQp, portAt_modPort, hlt, and_self, if_true, h]
  | inst i q =>
    simp only [ringQp, Option.bind_eq_some_iff] at h
    obtain ⟨x, hx, hq⟩ := h
    simp only [modRing, ringQp, modInst_insts, tblGet_mod_same, hx, Option.map_some, Option.bind_some, hq]

/-- A change of an instance that leaves its queues alone leaves every ring's queue pair. -/
theorem ringQp_modInst (s : State) (i : Nat) (f : Inst → Inst) (hf : ∀ x, (f x).queues = x.queues) (g : Ring) : ringQp (modInst s i f) g = ringQp s g := by
  cases g with
  | adm p => rfl
  | inst k q =>
    simp only [ringQp, modInst_insts]
    by_cases hk : k = i
    · subst hk
      rw [tblGet_mod_same]
      cases tblGet s.insts k with
      | none => rfl
      | some x => simp only [Option.map_some, Option.bind_some, hf]
    · rw [tblGet_mod_other _ _ _ _ hk]

theorem ringQp_modPort (s : State) (p : Nat) (f : HostPort → HostPort) (hf : ∀ h, (f h).adm.qp = h.adm.qp) (g : Ring) :
    ringQp (modPort s p f) g = ringQp s g := by
  cases g with
  | adm k =>
    simp only [ringQp, portAt_modPort]
    split
    · rw [hf]
    · rfl
  | inst k q => rfl

theorem ringQp_bucketCharge (s : State) (i n : Nat) (g : Ring) : ringQp (bucketCharge s i n) g = ringQp s g := by
  unfold bucketCharge
  split
  · exact ringQp_modInst _ _ _ (fun _ => by rfl) g
  · rfl

theorem ringQp_ringCharge (s : State) (k : Ring) (n : Nat) (g : Ring) : ringQp (ringCharge s k n) g = ringQp s g := by
  cases k with
  | adm p => rfl
  | inst i q => exact ringQp_bucketCharge s i n g

theorem ringQp_msixSend (s : State) (p vf v : Nat) (g : Ring) : ringQp (msixSend s p vf v) g = ringQp s g := by
  unfold msixSend
  simp only []
  split
  · unfold modMsix
    split <;> exact ringQp_modPort _ _ _ (fun _ => by rfl) g
  · unfold fnCharge
    split
    · rfl
    · split
      · exact ringQp_bucketCharge _ _ _ g
      · rfl

theorem ringQp_ringError (s : State) (k : Ring) (cause : Nat) (g : Ring) : ringQp (ringError s k cause) g = ringQp s g := by
  cases k with
  | adm p =>
    refine ringQp_modPort _ _ _ (fun h => ?_) g
    split <;> rfl
  | inst i q =>
    refine ringQp_modInst _ _ _ (fun x => ?_) g
    split <;> rfl

/-! #### What is sent -/

theorem bucketCharge_out (s : State) (i n : Nat) : (bucketCharge s i n).out = s.out := by
  unfold bucketCharge
  split <;> rfl

theorem ringCharge_out (s : State) (g : Ring) (n : Nat) : (ringCharge s g n).out = s.out := by
  cases g with
  | adm p => rfl
  | inst i q => exact bucketCharge_out s i n

theorem modRing_out (s : State) (g : Ring) (f : Qp → Qp) : (modRing s g f).out = s.out := by cases g <;> rfl

theorem ringError_out (s : State) (g : Ring) (cause : Nat) : (ringError s g cause).out = s.out := by cases g <;> rfl

/-- `l` holds MSI-X messages alone. -/
def Messages (l : List Out) : Prop := ∀ o ∈ l, ∃ p vf v a d, o = .msix p vf v a d

theorem msixSend_out (s : State) (p vf v : Nat) : ∃ pre, (msixSend s p vf v).out = pre ++ s.out ∧ Messages pre := by
  unfold msixSend
  simp only []
  split
  · refine ⟨[], ?_, by simp [Messages]⟩
    unfold modMsix
    split <;> rfl
  · refine ⟨[.msix p vf v (msixEntry (msixOf s p vf) v).addr (msixEntry (msixOf s p vf) v).data], ?_, fun o ho => ⟨_, _, _, _, _, List.mem_singleton.mp ho⟩⟩
    unfold fnCharge
    split
    · rfl
    · split
      · exact bucketCharge_out _ _ _
      · rfl

/-- A ring's message may follow its last completion; the queue pair remembers it. -/
theorem messageIfLast_effect (s : State) (g : Ring) (qp : Qp) (h : ringQp s g = some qp) (hp : ∀ p, g = .adm p → s.ports.length = 8) :
    (∃ pre, (messageIfLast s g).out = pre ++ s.out ∧ Messages pre) ∧
      ∃ m b, ringQp (messageIfLast s g) g = some { qp with msgDue := m, msgBreath := b } := by
  have stays : (∃ pre, s.out = pre ++ s.out ∧ Messages pre) ∧ ∃ m b, ringQp s g = some { qp with msgDue := m, msgBreath := b } :=
    ⟨⟨[], rfl, by simp [Messages]⟩, qp.msgDue, qp.msgBreath, h⟩
  unfold messageIfLast ringMessage
  split
  · exact stays
  · rw [h]
    simp only
    split
    · obtain ⟨pre, ho, hm⟩ := msixSend_out (modRing s g (fun q => { q with msgDue := false, msgBreath := some s.brt.count })) (ringVector s g).1
        (ringVector s g).2.1 (ringVector s g).2.2
      refine ⟨⟨pre, by rw [ho, modRing_out], hm⟩, false, some s.brt.count, ?_⟩
      rw [ringQp_msixSend, ringQp_modRing _ h hp]
    · exact stays

end Sys2Proof.RingWrites

/-! ### A completion and its data reach the host (R76, R77, R88, R92) -/

namespace Sys2Proof.CompletionRows

open Sys2Proof Sys2Proof.Machine Sys2Proof.Safety Sys2Proof.Rows Sys2Proof.Laws Sys2Proof.StateFacts Sys2Proof.RingWrites Sys2Proof.ReedRows

/-! #### The bytes of an entry -/

theorem leNat_leBytes (n x : Nat) : leNat (leBytes n x) = x % 256 ^ n := by
  induction n generalizing x with
  | zero => simp [leBytes, leNat, Nat.mod_one]
  | succ n ih =>
    rw [leBytes, leNat, ih, Nat.pow_succ', Nat.mod_mul]
    rfl

theorem slice_skip (a z : Bytes) (o n : Nat) (h : a.length ≤ o) : slice (a ++ z) o n = slice z (o - a.length) n := by
  simp [slice, List.drop_append, List.drop_of_length_le h]

theorem slice_front (a z : Bytes) (n : Nat) (h : a.length = n) : slice (a ++ z) 0 n = a := by
  subst h
  simp [slice]

theorem statusCode_lt (st : Status) : statusCode st < 65536 := by cases st <;> decide

theorem isEntry_complEntry (c : Compl) (sqid head : Nat) (phase : Bool) : IsEntry (complEntry c c.out.length sqid head phase) c sqid head phase := by
  have last : leNat (slice [if phase = true then (0x80 : BitVec 8) else 0] 0 1) = if phase = true then 0x80 else 0 := by cases phase <;> rfl
  have tag : c.tag.toNat % 65536 = c.tag.toNat := Nat.mod_eq_of_lt c.tag.isLt
  constructor
  case size => simp [complEntry, length_leBytes, zeros]
  all_goals simp only [complEntry, List.append_assoc, le]
  case tag =>
    rw [slice_front _ _ _ (length_leBytes _ _), leNat_leBytes]
    exact tag
  case phase =>
    simp only [slice_skip, length_leBytes, zeros, List.length_replicate, Nat.reduceLeDiff, Nat.reduceSub]
    exact last
  case status =>
    simp only [slice_skip, slice_front, length_leBytes, leNat_leBytes, Nat.reduceLeDiff, Nat.reduceSub, Nat.reducePow]
    exact Nat.mod_eq_of_lt (statusCode_lt _)
  case zero =>
    simp only [slice_skip, length_leBytes, Nat.reduceLeDiff, Nat.reduceSub]
    exact slice_front _ _ _ rfl
  all_goals simp only [slice_skip, slice_front, length_leBytes, leNat_leBytes, Nat.reduceLeDiff, Nat.reduceSub, Nat.reducePow]

/-! #### The writes of a completion's output -/

/-- The requests of a run of cuts carry the bytes from where the run begins. -/
theorem bursts_dmaCuts (p m : Nat) (ro : Bool) (hm : 1 ≤ m) (a0 : Nat) (bs : Bytes) (fuel d : Nat) (h : bs.length - d ≤ fuel) :
    Bursts p m ro (a0 + d) (bs.drop d)
      ((dmaCuts m fuel (a0 + d) (bs.length - d)).map (fun e => .dmaWrite p e.1 ro (slice bs (e.1 - a0) e.2))) := by
  induction fuel generalizing d with
  | zero => simpa [dmaCuts, Bursts] using Nat.sub_eq_zero_iff_le.mp (Nat.le_zero.mp h)
  | succ fuel ih =>
    unfold dmaCuts
    split
    next hz => simpa [Bursts] using Nat.sub_eq_zero_iff_le.mp hz
    next hz =>
      have hpage := Nat.mod_lt (a0 + d) (show 4096 > 0 by decide)
      simp only [List.map_cons, Bursts, List.length_drop]
      generalize hk : min (bs.length - d) (min m (4096 - (a0 + d) % 4096)) = k
      have next := ih (d + k) (by omega)
      refine ⟨k, by omega, by omega, by omega, by omega, ?_, ?_⟩
      · simp [slice]
      · rw [List.drop_drop]
        have rest : bs.length - d - k = bs.length - (d + k) := by omega
        rw [rest, Nat.add_assoc]
        exact next

theorem bursts_dmaWrites (s : State) (p a : Nat) (ro : Bool) (bs : Bytes) : Bursts p (128 * 2 ^ (portAt s p).mps) ro a bs (dmaWrites s p a ro bs) :=
  bursts_dmaCuts p _ ro (Nat.mul_pos (by decide) (Nat.two_pow_pos _)) a bs bs.length 0 (Nat.sub_le _ _)

/-! #### Writing it -/

theorem deniedPage_none {s : State} {p fn : Nat} (a n : Nat) (h : ∀ e ∈ (portAt s p).noAccess, e.1 ≠ fn) : deniedPage s p fn a n = none := by
  unfold deniedPage
  rw [List.filter_eq_nil_iff.mpr]
  · rfl
  · intro e he
    simp [h e he]

/-- Its entry goes to the ring's next index, and the ring moves on. -/
theorem writeEntry_written {s : State} {qp : Qp} {c : Compl} (h : CanWrite s qp c) :
    (∃ e, (writeEntry s c).out = .dmaWrite (ringPort s c.ring) (qp.cqBase.toNat + 32 * (qp.wr % 2 ^ qp.cqLog2)) false e :: s.out ∧
      IsEntry e c (ringSqid c.ring) qp.head (qp.wr / 2 ^ qp.cqLog2 % 2 = 0)) ∧
    ringQp (writeEntry s c) c.ring = some { qp with wr := qp.wr + 1, out := qp.out - 1, msgDue := true } ∧ SameHost s (writeEntry s c) := by
  unfold writeEntry
  rw [h.ring]
  simp only [deniedPage_none _ _ h.access]
  refine ⟨⟨_, by rw [ringCharge_out, modRing_out]; rfl, isEntry_complEntry _ _ _ _⟩, ?_,
    (sameHost_out _ _).trans ((sameHost_modRing _ _ _).trans (sameHost_ringCharge _ _ _))⟩
  rw [ringQp_ringCharge]
  exact ringQp_modRing _ (s := emit s _) h.ring h.ports

theorem writeOutput_written {s : State} {qp : Qp} {c : Compl} (h : CanWrite s qp c) :
    ∃ t data, writeOutput s c = (c, t) ∧ t.out = data ++ s.out ∧ SameHost s t ∧ (∀ g, ringQp t g = ringQp s g) ∧
      Bursts (ringPort s c.ring) (128 * 2 ^ (portAt s (ringPort s c.ring)).mps) (relaxedOrder s) c.outAddr.toNat c.out data.reverse := by
  unfold writeOutput
  split
  next he => exact ⟨s, [], rfl, rfl, .refl s, fun _ => rfl, he⟩
  next =>
    simp only [deniedPage_none _ _ h.access]
    refine ⟨_, (dmaWrites s (ringPort s c.ring) c.outAddr.toNat (relaxedOrder s) c.out).reverse, rfl, ?_, ?_, fun g => ?_, ?_⟩
    · rw [ringCharge_out]
      rfl
    · exact (sameHost_out _ _).trans (sameHost_ringCharge _ _ _)
    · rw [ringQp_ringCharge]
      rfl
    · rw [List.reverse_reverse]
      exact bursts_dmaWrites _ _ _ _ _

/-- The conditions of a write hold after other ring traffic, for a completion of the same ring and generation. -/
theorem canWrite_same {s t : State} {qp qp' : Qp} {c c' : Compl} (h : CanWrite s qp c) (hs : SameHost s t) (hr : c'.ring = c.ring) (hg : c'.gen = c.gen)
    (hq : ringQp t c.ring = some qp') : CanWrite t qp' c' where
  ring := hr ▸ hq
  awake := by
    rw [hr, hs.ringAsleep]
    exact h.awake
  holds := by
    rw [hs.generationHolds, ← h.holds]
    simp only [generationHolds, hr, hg]
  ports p hp := hs.length.trans (h.ports p (hr ▸ hp))
  access := by
    rw [hr, hs.ringFn, (hs.portField _).2.2]
    exact h.access

/-- A completion that waits for nothing goes out whole. -/
theorem issueCompl_written {s : State} {qp : Qp} {c : Compl} (h : CanWrite s qp c) (hu : Unfenced s qp c) :
    (∃ e data, (issueCompl s c).out = .dmaWrite (ringPort s c.ring) (qp.cqBase.toNat + 32 * (qp.wr % 2 ^ qp.cqLog2)) false e :: (data ++ s.out) ∧
      IsEntry e c (ringSqid c.ring) qp.head (qp.wr / 2 ^ qp.cqLog2 % 2 = 0) ∧
      Bursts (ringPort s c.ring) (128 * 2 ^ (portAt s (ringPort s c.ring)).mps) (relaxedOrder s) c.outAddr.toNat c.out data.reverse) ∧
    ringQp (issueCompl s c) c.ring = some { qp with wr := qp.wr + 1, out := qp.out - 1, msgDue := true } ∧ SameHost s (issueCompl s c) := by
  obtain ⟨hnone, hfence⟩ := hu
  obtain ⟨t, data, hw, hout, hsame, hqp, hb⟩ := writeOutput_written h
  have unfenced : (c.fence && relaxedOrder s && c.out ≠ []) = false := by
    rcases hfence with hf | hf | hf <;> simp [hf]
  have hissue : issueCompl s c = writeEntry t { c with fence := false } := by
    unfold issueCompl
    simp only [h.holds, h.ring, h.awake, hw, unfenced, hnone, Bool.not_true, Bool.false_eq_true, if_false, Option.isSome_none]
  have hcan : CanWrite t qp { c with fence := false } := canWrite_same h hsame rfl rfl ((hqp _).trans h.ring)
  obtain ⟨⟨e, heo, he⟩, hq, hs⟩ := writeEntry_written hcan
  rw [hissue]
  refine ⟨⟨e, data, ?_, ⟨he.1, he.2, he.3, he.4, he.5, he.6, he.7, he.8, he.9, he.10, he.11⟩, hb⟩, hq, hsame.trans hs⟩
  rw [heo, hout, ringPort, hsame.ringFn]
  rfl

/-- What a sample of the latency monitor leaves: the host's side whole. -/
theorem latencySample_frame (s : State) (c : Compl) : ∃ mgc, latencySample s c = { s with mgc := mgc } := by
  unfold latencySample
  split
  · exact ⟨_, rfl⟩
  · exact ⟨_, rfl⟩

/-- A completion written in turn: issued, sampled, with the ring's message behind it. -/
theorem completed_issue {s : State} {qp : Qp} {c : Compl} (w : Compl) (h : CanWrite s qp c) (hu : Unfenced s qp c) :
    Completed s (messageIfLast (latencySample (issueCompl s c) w) c.ring) qp c c.out ∧
      ∃ mgc, SameHost { s with mgc := mgc } (messageIfLast (latencySample (issueCompl s c) w) c.ring) := by
  obtain ⟨⟨e, data, hout, he, hb⟩, hq, hs⟩ := issueCompl_written h hu
  obtain ⟨mgc, hl⟩ := latencySample_frame (issueCompl s c) w
  rw [hl]
  obtain ⟨⟨pre, hpre, hmsg⟩, hring⟩ := messageIfLast_effect { issueCompl s c with mgc := mgc } c.ring _ hq (fun p hp => hs.length.trans (h.ports p hp))
  refine ⟨⟨⟨pre, e, data, ?_, he, hmsg, hb⟩, hring⟩, mgc, .trans ?_ (sameHost_messageIfLast _ _)⟩
  · rw [hpre]
    exact congrArg (pre ++ ·) hout
  · obtain ⟨p, i, o, hf⟩ := hs.frame
    exact ⟨⟨p, i, o, by rw [hf]⟩, hs.length, hs.port, hs.inst⟩

/-- Writing the completion that waited on its fence read, with nothing held behind it. -/
theorem completed_fenced {s : State} {qp : Qp} {c : Compl} (h : CanWrite s qp c) (hf : c.fence = false) (hheld : qp.held = []) :
    Completed s (messageIfLast (writeHeld c.ring [c] s) c.ring) qp c [] ∧ SameHost s (messageIfLast (writeHeld c.ring [c] s) c.ring) := by
  obtain ⟨⟨e, hout, he⟩, hq, hs⟩ := writeEntry_written h
  have hw : writeHeld c.ring [c] s = modRing (writeEntry s c) c.ring (fun q => { q with held := [] }) := by
    simp only [writeHeld, hf, putEntry, h.holds, if_true, Bool.false_eq_true, if_false]
  have hports : ∀ p, c.ring = .adm p → (writeEntry s c).ports.length = 8 := fun p hp => hs.length.trans (h.ports p hp)
  have hq' := ringQp_modRing (fun q => { q with held := [] }) hq hports
  rw [hw]
  obtain ⟨⟨pre, hpre, hmsg⟩, m, b, hring⟩ := messageIfLast_effect _ c.ring _ hq' (fun p hp => (sameHost_modRing _ _ _).length.trans (hports p hp))
  refine ⟨⟨⟨pre, e, [], ?_, he, hmsg, rfl⟩, m, b, ?_⟩, hs.trans ((sameHost_modRing _ _ _).trans (sameHost_messageIfLast _ _))⟩
  · rw [hpre, modRing_out, hout]
    rfl
  · rw [hring, ← hheld]

/-- The entry does not show the fence flag. -/
theorem completed_anyFence {s t : State} {qp : Qp} {c : Compl} {bs : Bytes} (b : Bool) (h : Completed s t qp { c with fence := b } bs) :
    Completed s t qp c bs := by
  obtain ⟨⟨pre, e, data, hout, he, hrest⟩, hring⟩ := h
  exact ⟨⟨pre, e, data, hout, ⟨he.1, he.2, he.3, he.4, he.5, he.6, he.7, he.8, he.9, he.10, he.11⟩, hrest⟩, hring⟩

/-- What was written after ring traffic that sent nothing was written from before it. -/
theorem completed_from {s t u : State} {qp : Qp} {c : Compl} {bs : Bytes} (hs : SameHost s t) (ho : t.out = s.out) (h : Completed t u qp c bs) :
    Completed s u qp c bs := by
  obtain ⟨⟨pre, e, data, hout, he, hmsg, hb⟩, hring⟩ := h
  simp only [ringPort, hs.ringFn, (hs.portField _).1, hs.relaxedOrder, ho] at hout hb
  exact ⟨⟨pre, e, data, hout, he, hmsg, hb⟩, hring⟩

/-- The completion whose fence read has returned is written as `fenced` makes it. -/
theorem completed_fenceDone {s : State} {qp : Qp} {c : Compl} (h : CanWrite s qp c) (hf : qp.fence = some c) (hheld : qp.held = []) (ok : Bool) :
    Completed s (fenceDone s c.ring ok) { qp with fence := none } (fenced c ok) [] ∧ (fenceDone s c.ring ok).jobs = s.jobs := by
  let s1 := modRing s c.ring (fun q => { q with fence := none })
  let s2 := if ok then s1 else ringError s1 c.ring errDmaRead
  have hstep : fenceDone s c.ring ok = messageIfLast (writeHeld c.ring [fenced c ok] s2) c.ring := by
    simp only [fenceDone, h.ring, hf, h.awake, hheld, Bool.false_eq_true, if_false, s2, s1]
  have hmod : SameHost s s1 := sameHost_modRing _ _ _
  have hq : ringQp s1 c.ring = some { qp with fence := none } := ringQp_modRing _ h.ring h.ports
  have hsame : SameHost s s2 ∧ ringQp s2 c.ring = some { qp with fence := none } ∧ s2.out = s.out := by
    cases ok with
    | true => exact ⟨hmod, hq, modRing_out s c.ring (fun q => { q with fence := none })⟩
    | false => exact ⟨hmod.trans (sameHost_ringError _ _ _), (ringQp_ringError _ _ _ _).trans hq, (ringError_out _ _ _).trans (modRing_out _ _ _)⟩
  obtain ⟨hs2, hq2, ho2⟩ := hsame
  have hc : (fenced c ok).ring = c.ring ∧ (fenced c ok).gen = c.gen ∧ (fenced c ok).fence = false := by cases ok <;> exact ⟨rfl, rfl, rfl⟩
  obtain ⟨hring, hgen, hfence⟩ := hc
  obtain ⟨hdone, hlast⟩ := completed_fenced (canWrite_same h hs2 hring hgen hq2) hfence hheld
  rw [hring] at hdone hlast
  rw [hstep]
  exact ⟨completed_from hs2 ho2 hdone, (hs2.trans hlast).jobs⟩

/-- Settles O23: a completion off the ladder is issued in its turn, one that waited on its fence read is written as the read says. -/
theorem completions : Obligations.Completions := by
  intro s g qp hrun
  refine ⟨fun w hex hdue hhalt hfirst hcan hun => ?_, fun c hcan hfence hring hheld => ?_⟩
  · have hexec : exec .nonLadderComplete s = whenRunning s (nonLadderComplete s) := rfl
    have hstep : nonLadderComplete s = messageIfLast (latencySample (issueCompl { s with waiting := s.waiting.erase w }
        { w.c with breath := s.brt.count }) w.c) w.c.ring := by
      simp only [nonLadderComplete, hex, hdue, hhalt, hfirst, Bool.or_self, Bool.false_eq_true, if_false]
    have hcan' : CanWrite { s with waiting := s.waiting.erase w } qp { w.c with breath := s.brt.count } :=
      ⟨hcan.ring, hcan.awake, hcan.holds, hcan.ports, hcan.access⟩
    obtain ⟨hdone, mgc, hsame⟩ := completed_issue w.c hcan' hun
    refine ⟨_, by rw [hexec, whenRunning, hrun, if_pos rfl, hstep], ⟨hdone.entry, hdone.ring⟩, hsame.waiting, hsame.jobs⟩
  · subst hring
    have hexec (ok : Bool) : exec (.fenceReadComplete c.ring ok) s = whenRunning s (fenceDone s c.ring ok) := rfl
    simp only [Does, hexec, whenRunning, hrun, if_true, Host.Outcome.next.injEq, exists_eq_left']
    obtain ⟨hgood, hjobs⟩ := completed_fenceDone hcan hfence hheld true
    obtain ⟨hbad, hjobs'⟩ := completed_fenceDone hcan hfence hheld false
    exact ⟨⟨completed_anyFence _ hgood, hjobs⟩, completed_anyFence (c := { c with status := .dmaFault, out := [], info := 0 }) _ hbad, hjobs'⟩

end Sys2Proof.CompletionRows

/-! ### The ladder, releases and aborted jobs (R33 to R37, R41) -/

namespace Sys2Proof.LadderRows

open Sys2Proof Sys2Proof.Machine Sys2Proof.Safety Sys2Proof.Rows Sys2Proof.Laws Sys2Proof.StateFacts Sys2Proof.StepRows Sys2Proof.RingWrites
open Sys2Proof.CompletionRows

theorem does_whenRunning {c : Instr} {s t : State} {P : State → Prop} (hexec : exec c s = whenRunning s t) (hrun : isRunning s = true) (h : P t) :
    Does c s P := ⟨t, by rw [hexec, whenRunning, hrun, if_pos rfl], h⟩

/-! #### Rungs -/

theorem reedAt_map (s : State) (f : Reed → Reed) (hf : f Reed.init = Reed.init) (r : Nat) :
    reedAt { s with reeds := s.reeds.map (fun e => (e.1, f e.2)) } r = f (reedAt s r) := by
  simp only [reedAt, tblGetD, tblGet_map]
  cases tblGet s.reeds r with
  | none => exact hf.symm
  | some x => rfl

/-- The state after the ladder advanced: the job's rung, the headers of its reeds. -/
theorem ladderAdvance_next {s : State} {k b : Nat} {j : Job} (hj : tblGet s.jobs k = some j) (hb : j.start = some b) (hc : s.brt.cycle = 0)
    (hx : s.brt.exhale = false) (hheld : j.stage ≠ .held) (hr : j.rung ≤ 7) (hnow : s.brt.count = b + j.rung * j.budget) :
    ladderAdvance s k = { s with
      jobs := tblMod s.jobs k (fun x => { rungSaved (j.rung + 1) x with rung := j.rung + 1 })
      reeds := s.reeds.map (fun e => (e.1, rungReed k (j.rung + 1) e.2)) } := by
  unfold ladderAdvance
  rw [hj]
  simp only [hb]
  rw [if_pos (by simp [atInhale, hc, hx, hheld, hr, hnow])]
  rfl

/-! #### A job leaves the table -/

/-- A job without a claim and without a reserved slot leaves nothing behind. -/
theorem dropJob_plain {s : State} {k : Nat} {j : Job} (hj : tblGet s.jobs k = some j) (hc : j.claim = false) (hr : reservedSlot j = none) :
    ∃ clusters rng, dropJob s k = { s with jobs := tblDel s.jobs k, clusters := clusters, rng := rng } := by
  unfold dropJob
  rw [hj]
  simp only [hr, dropClaim, hc, Bool.not_false, if_true]
  exact ⟨_, _, rfl⟩

theorem reservedSlot_routine {j : Job} (h : j.kind = .routine) : reservedSlot j = none := by simp [reservedSlot, h]

theorem tblGet_del_at {α : Type} (t : Tbl α) (k : Nat) : tblGet (tblDel t k) k = none ∧ ∀ i, i ≠ k → tblGet (tblDel t k) i = tblGet t i :=
  ⟨tblGet_del_same t k, fun i hi => tblGet_del_other t k i hi⟩

/-- A good or bad result of a library routine that carries no secret leaves the windchest alone. -/
theorem keepResult_plain {s : State} {j : Job} {r : JobResult} (hs : r.secret = none) (hk : j.kind = .routine) : keepResult s j r = s := by
  simp [keepResult, hs, hk]

/-- The release of a host's result: the job leaves, then its completion is written. -/
theorem releaseJob_host {s : State} {k : Nat} {j : Job} {r : JobResult} (hr : j.result = some r) (hi : j.internal = none) (hs : r.secret = none)
    (hk : j.kind = .routine) :
    let c : Compl := { jobCompl j (releasedStatus j r.status) (if r.status = .ok then r.out else []) r.info with breath := s.brt.count }
    releaseJob s k j = messageIfLast (latencySample (issueCompl (dropJob s k) c) c) c.ring := by
  have kept : (if r.status = .ok then keepResult s j r else s) = s := by
    rw [keepResult_plain hs hk, ite_self]
  unfold releaseJob
  simp only [hr, hi, decide_eq_true_eq, kept]

theorem releasedStatus_eq (j : Job) (st : Status) : releasedStatus j st = if st = .ok ∧ j.replayed = true then .okReplayed else st := by
  simp [releasedStatus]

/-- Settles O22: the rungs, the releases and the aborts, each by what its command does to the job table and the reeds. -/
theorem jobLadder : Obligations.JobLadder := by
  intro s k j hrun hj
  refine ⟨fun b hb hc hx hheld hr hnow => ?_, fun hx hst hab hdue => ?_, ?_, fun hst hab hdue hx hhalt hcancel hint hclaim hslot => ?_⟩
  · have hexec : exec (.ladderRungAdvance k) s = whenRunning s (ladderAdvance s k) := rfl
    refine does_whenRunning hexec hrun ?_
    rw [ladderAdvance_next hj hb hc hx hheld hr hnow]
    have hreed (r : Nat) : reedAt { s with
        jobs := tblMod s.jobs k (fun x => { rungSaved (j.rung + 1) x with rung := j.rung + 1 })
        reeds := s.reeds.map (fun e => (e.1, rungReed k (j.rung + 1) e.2)) } r = rungReed k (j.rung + 1) (reedAt s r) :=
      reedAt_map s _ rfl r
    refine ⟨⟨_, (tblGet_mod_same _ _ _).trans (congrArg (Option.map _) hj), fun hnone => congrArg (Option.map _) hnone⟩,
      fun i hi => tblGet_mod_other _ _ _ _ hi, fun r hother => ?_, fun r hits => ?_, rfl⟩
    · rw [hreed, rungReed, if_neg hother]
    · rw [hreed, rungReed, if_pos hits]
      exact ⟨storeGet_set_same _ _ _, fun a ha => storeGet_set_other _ _ _ _ ha, rfl⟩
  · have hexec : exec (.budgetExceeded k) s = whenRunning s (budgetExceeded s k) := rfl
    refine does_whenRunning hexec hrun ?_
    have hstep : budgetExceeded s k = modJob s k (fun x => { x with
        stage := .held, result := some ⟨.budgetExceeded, [], 0, none⟩, due := s.brt.count, rung := 8 }) := by
      unfold budgetExceeded
      rw [hj]
      simp only
      rw [if_neg (by simp [hx, hst, hab, hdue])]
    rw [hstep]
    exact ⟨(tblGet_mod_same _ _ _).trans (congrArg (Option.map _) hj), fun i hi => tblGet_mod_other _ _ _ _ hi, rfl⟩
  · intro r qp st c hx hhalt hnext hint hres hsec hkind hclaim hcan hun
    have hexec : exec .jobRelease s = whenRunning s (jobRelease s) := rfl
    refine does_whenRunning hexec hrun ?_
    have hstep : jobRelease s = messageIfLast (latencySample (issueCompl (dropJob s k) c) c) c.ring := by
      simp only [jobRelease, hx, hhalt, hnext, Bool.or_self, Bool.false_eq_true, if_false, releaseJob_host hres hint hsec hkind,
        releasedStatus_eq]
      rfl
    obtain ⟨clusters, rng, hdrop⟩ := dropJob_plain hj hclaim (reservedSlot_routine hkind)
    rw [hstep, hdrop]
    have hcan' : CanWrite { s with jobs := tblDel s.jobs k, clusters := clusters, rng := rng } qp c :=
      ⟨hcan.ring, hcan.awake, hcan.holds, hcan.ports, hcan.access⟩
    obtain ⟨hdone, mgc, hsame⟩ := completed_issue c hcan' hun
    have hjobs := hsame.jobs
    obtain ⟨hgone, hothers⟩ := tblGet_del_at s.jobs k
    exact ⟨⟨hdone.entry, hdone.ring⟩, by rw [hjobs]; exact hgone, fun i hi => by rw [hjobs]; exact hothers i hi⟩
  · have hexec : exec (.abortComplete k) s = whenRunning s (abortComplete s k) := rfl
    refine does_whenRunning hexec hrun ?_
    have hstep : abortComplete s k = endOffLadder s k (j.abort.getD .aborted) [] 0 s.brt.count := by
      unfold abortComplete
      rw [hj]
      simp only
      rw [if_pos (by simp [hst, hab, hdue, hx, hhalt]), hcancel]
      rfl
    have hend : endOffLadder s k (j.abort.getD .aborted) [] 0 s.brt.count =
        addWaiting (dropJob s k) (jobCompl j (j.abort.getD .aborted) [] 0) 2 0 s.brt.count := by
      unfold endOffLadder
      rw [hj]
      simp only [hostJob, hint, Option.isNone_none, if_true]
    obtain ⟨clusters, rng, hdrop⟩ := dropJob_plain hj hclaim hslot
    rw [hstep, hend, hdrop]
    obtain ⟨hgone, hothers⟩ := tblGet_del_at s.jobs k
    exact ⟨hgone, rfl, rfl, hothers⟩

end Sys2Proof.LadderRows

/-! ### The phases of the breath (R26 to R28) -/

namespace Sys2Proof.BreathRows

open Sys2Proof Sys2Proof.Machine Sys2Proof.Safety Sys2Proof.Rows Sys2Proof.Laws Sys2Proof.RingWrites Sys2Proof.LadderRows

/-- Messages and a delta put off leave the clock and the modes. -/
theorem sameHost_lastMessages (s : State) : SameHost s (lastMessages s) := sameHost_foldl ringMessage sameHost_ringMessage _ s

theorem mirror_clock (s : State) (kind : Nat) (body : Bytes) : (mirror s kind body).dev = s.dev ∧ (mirror s kind body).brt = s.brt := by
  unfold mirror
  split <;> exact ⟨rfl, rfl⟩

theorem deltaPutOff_clock (s : State) : (deltaPutOff s).dev = s.dev ∧ (deltaPutOff s).brt = s.brt := by
  unfold deltaPutOff
  split
  · split
    · split
      · exact mirror_clock _ _ _
      · exact ⟨rfl, rfl⟩
    · exact ⟨rfl, rfl⟩
  · exact ⟨rfl, rfl⟩

/-- The clock after INHALE's own step. -/
theorem nextBreath_clock (s : State) : (nextBreath s).brt.count = s.brt.count + 1 ∧ (nextBreath s).brt.cycle = 0 ∧ (nextBreath s).brt.exhale = false ∧
    (nextBreath s).brt.log2Len = (if s.dev.mode ≠ .tune ∧ s.dev.mode ≠ .boot ∧ s.dev.modeBreath ≤ s.brt.count then
      s.brt.nextLog2.getD s.brt.log2Len else s.brt.log2Len) := by
  refine ⟨rfl, rfl, rfl, ?_⟩
  simp only [nextBreath, passCycles_brt, Bool.and_eq_true, decide_eq_true_eq, Nat.lt_succ_iff, and_assoc]

/-- What the work of an inhale or exhale keeps of the clock. -/
theorem phase_of_kept {Q : Keep} {s t : State} (hs : Kept Q s) (ht : Kept Q t) :
    t.brt.count = s.brt.count ∧ t.brt.cycle = s.brt.cycle ∧ t.brt.exhale = s.brt.exhale ∧ t.brt.log2Len = s.brt.log2Len := by
  have h := ht.clock.phase.trans hs.clock.phase.symm
  simpa only [Prod.mk.injEq] using h

theorem reedRuns_exhale {s : State} (h : s.brt.exhale = true) (r : Nat) : reedRuns s r = false := by simp [reedRuns, h]

/-- Settles O21: the phase changes are INHALE's and EXHALE's first steps, and their work keeps the phase. -/
theorem breathPhases : Obligations.BreathPhases := by
  intro s hinv hrun
  refine ⟨fun hx => ?_, fun hx => ?_, fun n hn hc hx => ?_⟩
  · have hexec : exec .inhale s = whenRunning s (inhale s) := rfl
    refine does_whenRunning hexec hrun ?_
    have hkept := deltaPutOff_inv _ (lastMessages_inv s (kept_of_inv hinv))
    obtain ⟨_, hnext⟩ := nextBreath_inv _ hkept
    obtain ⟨hcount, hcycle, hexhale, hlen⟩ := phase_of_kept hnext (inhaleWork_inv _ hnext)
    obtain ⟨ncount, ncycle, nexhale, nlen⟩ := nextBreath_clock (deltaPutOff (lastMessages s))
    obtain ⟨hdev, hbrt⟩ := deltaPutOff_clock (lastMessages s)
    have hmsg := sameHost_lastMessages s
    rw [hmsg.dev] at hdev
    rw [hmsg.brt] at hbrt
    rw [hdev, hbrt] at nlen
    rw [hbrt] at ncount
    have hstep : inhale s = inhaleWork (nextBreath (deltaPutOff (lastMessages s))) := by rw [inhale, if_pos hx]
    rw [hstep]
    exact ⟨hcount.trans ncount, hcycle.trans ncycle, hexhale.trans nexhale, hlen.trans nlen⟩
  · have hexec : exec .exhale s = whenRunning s (exhale s) := rfl
    refine does_whenRunning hexec hrun ?_
    obtain ⟨_, hbegin⟩ := beginExhale_inv s (kept_of_inv hinv) hx
    obtain ⟨hcount, hcycle, hexhale, hlen⟩ := phase_of_kept hbegin (exhaleWork_inv _ hbegin)
    have hroom := hinv.clock.work hx
    have bcycle : (beginExhale s).brt.cycle = 2 ^ s.brt.log2Len - 256 := by
      simp only [beginExhale, passCycles_brt, breathLen]
      omega
    have hstep : exhale s = exhaleWork (beginExhale s) := by rw [exhale, if_neg (by simp [hx])]
    rw [hstep]
    exact ⟨hcount, hcycle.trans bcycle, hexhale, hlen, reedRuns_exhale hexhale⟩
  · have hexec : exec .clockStepApply s = whenRunning s (clockStepApply s) := rfl
    rw [hexec, whenRunning, hrun, if_pos rfl, clockStepApply, hn]
    simp only
    rw [if_pos (by simp [atInhale, hc, hx])]

end Sys2Proof.BreathRows

/-! ### What the work of the bore leaves unchanged -/

namespace Sys2Proof.Still

open Sys2Proof Sys2Proof.Machine

/-- The parts of the state that no message, flow, stream, command queue or completion touches: the modes, the clock, the units, the charts and
changes, the monitors and the log, the memory, the custody domain, of the twin link all but what waits to be sent, of the random source all but its
requests, and which nodes are unreachable. -/
def still (s : State) : Dev × Brt × Tbl Reed × UnitHealth × Plc × Charts × Changes × Mpr × Mgc × Domain × Lcs × List Dgp × Twn × Rng ×
    List Nat :=
  (s.dev, s.brt, s.reeds, s.health, s.plc, s.charts, s.changes, s.mpr, s.mgc, s.dom, s.lcs, s.dgp, { s.twn with toSend := [], waits := [] },
    { s.rng with waiting := [], granted := [] }, s.pxt.unreachable)

@[simp] theorem still_mk (dev : Dev) (brt : Brt) (ports : List HostPort) (insts : Tbl Inst) (jobs : Tbl Job) (nextJob : Nat) (waiting : List Waiting)
    (plc : Plc) (clusters : Tbl Cluster) (reeds : Tbl Reed) (health : UnitHealth) (bell : Bell) (charts : Charts) (changes : Changes)
    (wch : Wch) (wchBox lcsBox : List Mailbox) (rng : Rng) (dgp : List Dgp) (mpr : Mpr) (mgc : Mgc) (dom : Domain) (lcs : Lcs) (twn : Twn)
    (mig : Mig) (bore : Bore) (pxt : Pxt) (pending : List Instr) (out : List Out) (free : Nat) (s : State) :
    still ⟨dev, brt, ports, insts, jobs, nextJob, waiting, plc, clusters, reeds, health, bell, charts, changes, wch, wchBox, lcsBox, rng, dgp,
      mpr, mgc, dom, lcs, twn, mig, bore, pxt, pending, out, free⟩ = still s ↔
      (dev, brt, reeds, health, plc, charts, changes, mpr, mgc, dom, lcs, dgp, { twn with toSend := [], waits := [] },
        { rng with waiting := [], granted := [] }, pxt.unreachable) = still s := Iff.rfl

@[simp] theorem still_fold (s : State) : (s.dev, s.brt, s.reeds, s.health, s.plc, s.charts, s.changes, s.mpr, s.mgc, s.dom, s.lcs, s.dgp,
    { s.twn with toSend := [], waits := [] }, { s.rng with waiting := [], granted := [] }, s.pxt.unreachable) = still s := rfl

@[simp] theorem still_ite (c : Prop) [Decidable c] (a b : State) : still (if c then a else b) = if c then still a else still b := apply_ite still c a b

theorem still_foldl {α : Type} (f : State → α → State) (hf : ∀ t a, still (f t a) = still t) (l : List α) (s : State) :
    still (l.foldl f s) = still s := by
  induction l generalizing s with
  | nil => rfl
  | cons a l ih => exact (ih _).trans (hf s a)

@[simp] theorem freshChoice_still (k : Nat) (s : State) : still ((freshChoice k s).2) = still s := by
  simp [freshChoice]

@[simp] theorem emit_still (s : State) (o : Out) : still (emit s o) = still s := rfl

@[simp] theorem emitAll_still (s : State) (l : List Out) : still (emitAll s l) = still s := rfl

@[simp] theorem modPort_still (s : State) (p : Nat) (f : HostPort → HostPort) : still (modPort s p f) = still s := rfl

@[simp] theorem modInst_still (s : State) (i : Nat) (f : Inst → Inst) : still (modInst s i f) = still s := rfl

@[simp] theorem modJob_still (s : State) (j : Nat) (f : Job → Job) : still (modJob s j f) = still s := rfl

@[simp] theorem bucketCharge_still (s : State) (i n : Nat) : still (bucketCharge s i n) = still s := by
  unfold bucketCharge
  (repeat' split) <;> simp

@[simp] theorem addWaiting_still (s : State) (c : Compl) (cls key due : Nat) : still (addWaiting s c cls key due) = still s := rfl

@[simp] theorem uncacheSlot_still (s : State) (i h : Nat) : still (uncacheSlot s i h) = still s := rfl

@[simp] theorem modWch_still (s : State) (f : Wch → Wch) : still (modWch s f) = still s := rfl

@[simp] theorem unreserveSlot_still (s : State) (i h : Nat) : still (unreserveSlot s i h) = still s := by
  unfold unreserveSlot
  (repeat' split) <;> simp

@[simp] theorem modStateful_still (s : State) (pub : Bytes) (f : Stateful → Stateful) : still (modStateful s pub f) = still s := by
  simp [modStateful]

@[simp] theorem freeSlot_still (s : State) (i h : Nat) : still (freeSlot s i h) = still s := by
  unfold freeSlot
  (repeat' split) <;> simp

@[simp] theorem dropClaim_still (s : State) (j : Job) : still (dropClaim s j) = still s := by
  unfold dropClaim
  (repeat' split) <;> simp

@[simp] theorem dropJob_still (s : State) (k : Nat) : still (dropJob s k) = still s := by
  unfold dropJob
  (repeat' split) <;> simp

@[simp] theorem markAbort_still (s : State) (k : Nat) (st : Status) : still (markAbort s k st) = still s := by
  simp [markAbort]

@[simp] theorem cancelInternal_still (s : State) (k : Nat) : still (cancelInternal s k) = still s := by
  unfold cancelInternal
  (repeat' split) <;> simp

@[simp] theorem queueRecord_still (s : State) (kind : Nat) (body : Bytes) : still (queueRecord s kind body) = still s := rfl

@[simp] theorem mirror_still (s : State) (kind : Nat) (body : Bytes) : still (mirror s kind body) = still s := by
  unfold mirror
  (repeat' split) <;> simp

@[simp] theorem addMirrorWait_still (s : State) (c : Compl) (cls key : Nat) : still (addMirrorWait s c cls key) = still s := rfl

@[simp] theorem modBore_still (s : State) (f : Bore → Bore) : still (modBore s f) = still s := rfl

@[simp] theorem modStream_still (s : State) (sid : Nat) (f : Stream → Stream) : still (modStream s sid f) = still s := by
  simp [modStream]

@[simp] theorem modAdmQ_still (s : State) (p : Nat) (f : CmdQ → CmdQ) : still (modAdmQ s p f) = still s := by
  simp [modAdmQ]

@[simp] theorem modCtlQ_still (s : State) (i : Nat) (f : CmdQ → CmdQ) : still (modCtlQ s i f) = still s := by
  simp [modCtlQ]

@[simp] theorem settleAdm_still (fuel : Nat) (p : Fin 8) (s : State) : still (settleAdm fuel p s) = still s := by
  induction fuel generalizing s with
  | zero => rfl
  | succ fuel ih =>
    unfold settleAdm
    (repeat' split) <;> simp [*]

@[simp] theorem settleCtl_still (fuel i : Nat) (s : State) : still (settleCtl fuel i s) = still s := by
  induction fuel generalizing s with
  | zero => rfl
  | succ fuel ih =>
    unfold settleCtl
    (repeat' split) <;> simp [*]

@[simp] theorem settleAdmAll_still (s : State) (p : Fin 8) : still (settleAdmAll s p) = still s := by
  simp [settleAdmAll]

@[simp] theorem settleCtlAll_still (s : State) (i : Nat) : still (settleCtlAll s i) = still s := by
  unfold settleCtlAll
  (repeat' split) <;> simp

@[simp] theorem admDoneBy_still (s : State) (p : Fin 8) (st : Status) (out : Bytes) (info due : Nat) : still (admDoneBy s p st out info due) = still s := by
  unfold admDoneBy
  (repeat' split) <;> simp

@[simp] theorem admDone_still (s : State) (p : Fin 8) (st : Status) (out : Bytes) (info : Nat) : still (admDone s p st out info) = still s := by
  simp [admDone]

@[simp] theorem admDoneMirrored_still (s : State) (p : Fin 8) (info : Nat) : still (admDoneMirrored s p info) = still s := by
  unfold admDoneMirrored
  (repeat' split) <;> simp

@[simp] theorem ctlDone_still (s : State) (i : Nat) (st : Status) (out : Bytes) (info : Nat) : still (ctlDone s i st out info) = still s := by
  unfold ctlDone
  (repeat' split) <;> simp

@[simp] theorem ctlDoneMirrored_still (s : State) (i info : Nat) : still (ctlDoneMirrored s i info) = still s := by
  unfold ctlDoneMirrored
  (repeat' split) <;> simp

@[simp] theorem modPxt_still (s : State) (f : Pxt → Pxt) (h : (f s.pxt).unreachable = s.pxt.unreachable) : still (modPxt s f) = still s := by
  simp [modPxt, h]

@[simp] theorem modFab_still (s : State) (p : Nat) (f : FabPort → FabPort) : still (modFab s p f) = still s := by
  simp [modFab]

@[simp] theorem modOp_still (s : State) (o : Nat) (f : HopOp → HopOp) : still (modOp s o f) = still s := by
  simp [modOp]

@[simp] theorem modFlow_still (s : State) (e : Nat) (f : Flow → Flow) : still (modFlow s e f) = still s := by
  simp [modFlow]

@[simp] theorem macsecCharge_still (s : State) (n : Nat) : still (macsecCharge s n) = still s := by
  simp [macsecCharge]

@[simp] theorem txProtected_still (s : State) (p : Nat) (f : FabCfg) (b : Bytes) : still (txProtected s p f b) = still s := by
  unfold txProtected
  dsimp only
  split <;> simp

@[simp] theorem txFrame_still (s : State) (p : Nat) (dst : Peer) (carriage : Nat) (b : Bytes) : still (txFrame s p dst carriage b) = still s := by
  unfold txFrame
  (repeat' split) <;> simp

@[simp] theorem noteSent_still (s : State) (k : Nat) : still (noteSent s k) = still s := by
  simp [noteSent]

@[simp] theorem opTx_still (s : State) (o : Nat) (b : Bytes) : still (opTx s o b) = still s := by
  unfold opTx
  (repeat' split) <;> simp

@[simp] theorem pumpList_still (o : Nat) (l : List Bytes) (s : State) : still (pumpList o l s) = still s := by
  induction l generalizing s with
  | nil => rfl
  | cons b rest ih =>
    unfold pumpList
    (repeat' split) <;> simp [*]

@[simp] theorem opPump_still (s : State) (o : Nat) : still (opPump s o) = still s := by
  unfold opPump
  (repeat' split) <;> simp

@[simp] theorem opSend_still (s : State) (o : Nat) (ms : List PxtMsg) : still (opSend s o ms) = still s := by
  simp [opSend]

@[simp] theorem opNak_still (s : State) (o : Nat) (st : Status) (serial : Nat) : still (opNak s o st serial) = still s := by
  unfold opNak
  (repeat' split) <;> simp

@[simp] theorem opFlush_still (s : State) (o : Nat) : still (opFlush s o) = still s := by
  unfold opFlush
  (repeat' split) <;> simp

@[simp] theorem opAbort_still (s : State) (o : Nat) (st : Status) (serial : Nat) : still (opAbort s o st serial) = still s := by
  unfold opAbort
  (repeat' split) <;> simp

@[simp] theorem opCredit_still (s : State) (o : Nat) : still (opCredit s o) = still s := by
  unfold opCredit
  (repeat' split) <;> simp

@[simp] theorem opGrant_still (s : State) (o : Nat) : still (opGrant s o) = still s := by
  have drawn := freshChoice_still (freeFrames s + 1) s
  unfold opGrant
  dsimp only
  split <;> simp [drawn]

@[simp] theorem noteLimit_still (s : State) (i : Nat) : still (noteLimit s i) = still s := by
  simp [noteLimit]

@[simp] theorem renewOpening_still (s : State) (sid : Nat) : still (renewOpening s sid) = still s := by
  unfold renewOpening
  (repeat' split) <;> simp

@[simp] theorem renewOpenings_still (s : State) (i : Option Nat) : still (renewOpenings s i) = still s := by
  simp [renewOpenings, still_foldl]

@[simp] theorem addOp_still (s : State) (x : HopOp) : still ((addOp s x).2) = still s := by
  simp [addOp]

@[simp] theorem nodeOp_still (s : State) (kind : HopKind) (sid e : Nat) (obj : Bytes) (ext : Nat) (n : NodeCfg) : still ((nodeOp s kind sid e obj ext n).2) = still s := by
  simp [nodeOp]

@[simp] theorem modPipe_still (s : State) (p : Nat) (f : Pipe → Pipe) : still (modPipe s p f) = still s := rfl

@[simp] theorem sendPipe_still (s : State) (p : Nat) (g : PipeGroup) : still (sendPipe s p g) = still s := by
  simp [sendPipe]

@[simp] theorem shedGroup_still (s : State) (g : PipeGroup) : still (shedGroup s g) = still s := by
  simp [shedGroup, still_foldl]

@[simp] theorem fillGroup_still (s : State) (g : PipeGroup) : still (fillGroup s g) = still s := by
  simp [fillGroup, still_foldl]

@[simp] theorem regroup_still (s : State) : still (regroup s) = still s := by
  simp [regroup, still_foldl]

@[simp] theorem wipeContexts_still (s : State) (i : Nat) : still (wipeContexts s i) = still s := by
  simp [wipeContexts]

@[simp] theorem finishDestroy_still (s : State) (i : Nat) : still (finishDestroy s i) = still s := by
  unfold finishDestroy
  split
  · rfl
  · split
    · rfl
    · dsimp only
      (repeat' split) <;> simp [still_foldl]

@[simp] theorem settleStream_still (s : State) (sid : Nat) : still (settleStream s sid) = still s := by
  unfold settleStream
  (repeat' split) <;> simp [modPxt]

@[simp] theorem migResult_still (s : State) (k : Nat) (st : Status) (serial : Nat) : still (migResult s k st serial) = still s := by
  unfold migResult
  (repeat' split) <;> simp

@[simp] theorem startPut_still (s : State) (e : Nat) (f : Flow) (n : NodeCfg) : still (startPut s e f n) = still s := by
  have made := nodeOp_still s .putOut f.sid e f.obj f.ext n
  unfold startPut
  dsimp only
  split <;> simp [made]

@[simp] theorem startGet_still (s : State) (e : Nat) (f : Flow) (n : NodeCfg) : still (startGet s e f n) = still s := by
  have made := nodeOp_still s .getOut f.sid e f.obj f.ext n
  simp [startGet, made]

@[simp] theorem startFlow_still (s : State) (e : Nat) : still (startFlow s e) = still s := by
  unfold startFlow
  (repeat' split) <;> simp

@[simp] theorem startWaiting_still (s : State) : still (startWaiting s) = still s := by
  simp [startWaiting, still_foldl]

@[simp] theorem endFlow_still (s : State) (e : Nat) : still (endFlow s e) = still s := by
  unfold endFlow
  (repeat' split) <;> simp

@[simp] theorem orphanOp_still (s : State) (o : Nat) : still (orphanOp s o) = still s := by
  simp [orphanOp]

@[simp] theorem cancelBatch_still (s : State) (e : Nat) : still (cancelBatch s e) = still s := by
  unfold cancelBatch
  (repeat' split) <;> simp

@[simp] theorem abortPut_still (s : State) (e : Nat) (st : Status) : still (abortPut s e st) = still s := by
  unfold abortPut
  (repeat' split) <;> simp [still_foldl]

@[simp] theorem quiesceTimeout_still (s : State) (e : Nat) : still (quiesceTimeout s e) = still s := by
  unfold quiesceTimeout
  (repeat' split) <;> simp

@[simp] theorem failGet_still (s : State) (e : Nat) (st : Status) (nak : Bool) : still (failGet s e st nak) = still s := by
  unfold failGet
  split
  · rfl
  · dsimp only
    (repeat' split) <;> simp [still_foldl]

@[simp] theorem haltFlow_still (s : State) (e : Nat) : still (haltFlow s e) = still s := by
  unfold haltFlow
  (repeat' split) <;> simp

@[simp] theorem haltFlows_still (s : State) : still (haltFlows s) = still s := by
  simp [haltFlows, still_foldl]

@[simp] theorem migrationRecover_still (s : State) : still (migrationRecover s) = still s := by
  refine (still_foldl _ (fun t m => ?_) _ _).trans ?_
  · split <;> simp
  · rfl

end Sys2Proof.Still

/-! ### What leaves the flows of the bore unchanged -/

namespace Sys2Proof.Still

open Sys2Proof Sys2Proof.Machine

/-- The flows of the bore. -/
def flowsOf (s : State) : Tbl Flow := s.bore.flows

@[simp] theorem flowsOf_mk (dev : Dev) (brt : Brt) (ports : List HostPort) (insts : Tbl Inst) (jobs : Tbl Job) (nextJob : Nat) (waiting : List Waiting)
    (plc : Plc) (clusters : Tbl Cluster) (reeds : Tbl Reed) (health : UnitHealth) (bell : Bell) (charts : Charts) (changes : Changes)
    (wch : Wch) (wchBox lcsBox : List Mailbox) (rng : Rng) (dgp : List Dgp) (mpr : Mpr) (mgc : Mgc) (dom : Domain) (lcs : Lcs) (twn : Twn)
    (mig : Mig) (bore : Bore) (pxt : Pxt) (pending : List Instr) (out : List Out) (free : Nat) :
    flowsOf ⟨dev, brt, ports, insts, jobs, nextJob, waiting, plc, clusters, reeds, health, bell, charts, changes, wch, wchBox, lcsBox, rng, dgp,
      mpr, mgc, dom, lcs, twn, mig, bore, pxt, pending, out, free⟩ = bore.flows := rfl

@[simp] theorem bore_flows (s : State) : s.bore.flows = flowsOf s := rfl

@[simp] theorem flowsOf_ite (c : Prop) [Decidable c] (a b : State) : flowsOf (if c then a else b) = if c then flowsOf a else flowsOf b :=
  apply_ite flowsOf c a b

@[simp] theorem modBore_flows (s : State) (f : Bore → Bore) : flowsOf (modBore s f) = (f s.bore).flows := rfl

theorem flows_foldl {α : Type} (f : State → α → State) (hf : ∀ t a, flowsOf (f t a) = flowsOf t) (l : List α) (s : State) :
    flowsOf (l.foldl f s) = flowsOf s := by
  induction l generalizing s with
  | nil => rfl
  | cons a l ih => exact (ih _).trans (hf s a)

@[simp] theorem freshChoice_flows (k : Nat) (s : State) : flowsOf ((freshChoice k s).2) = flowsOf s := by
  simp [freshChoice]

@[simp] theorem emit_flows (s : State) (o : Out) : flowsOf (emit s o) = flowsOf s := rfl

@[simp] theorem modPort_flows (s : State) (p : Nat) (f : HostPort → HostPort) : flowsOf (modPort s p f) = flowsOf s := rfl

@[simp] theorem modInst_flows (s : State) (i : Nat) (f : Inst → Inst) : flowsOf (modInst s i f) = flowsOf s := rfl

@[simp] theorem addWaiting_flows (s : State) (c : Compl) (cls key due : Nat) : flowsOf (addWaiting s c cls key due) = flowsOf s := rfl

@[simp] theorem uncacheSlot_flows (s : State) (i h : Nat) : flowsOf (uncacheSlot s i h) = flowsOf s := rfl

@[simp] theorem modWch_flows (s : State) (f : Wch → Wch) : flowsOf (modWch s f) = flowsOf s := rfl

@[simp] theorem freeSlot_flows (s : State) (i h : Nat) : flowsOf (freeSlot s i h) = flowsOf s := by
  unfold freeSlot
  (repeat' split) <;> simp

@[simp] theorem queueRecord_flows (s : State) (kind : Nat) (body : Bytes) : flowsOf (queueRecord s kind body) = flowsOf s := rfl

@[simp] theorem mirror_flows (s : State) (kind : Nat) (body : Bytes) : flowsOf (mirror s kind body) = flowsOf s := by
  unfold mirror
  (repeat' split) <;> simp

@[simp] theorem addMirrorWait_flows (s : State) (c : Compl) (cls key : Nat) : flowsOf (addMirrorWait s c cls key) = flowsOf s := rfl

@[simp] theorem modStream_flows (s : State) (sid : Nat) (f : Stream → Stream) : flowsOf (modStream s sid f) = flowsOf s := by
  simp [modStream]

@[simp] theorem modAdmQ_flows (s : State) (p : Nat) (f : CmdQ → CmdQ) : flowsOf (modAdmQ s p f) = flowsOf s := by
  simp [modAdmQ]

@[simp] theorem modCtlQ_flows (s : State) (i : Nat) (f : CmdQ → CmdQ) : flowsOf (modCtlQ s i f) = flowsOf s := by
  simp [modCtlQ]

@[simp] theorem settleAdm_flows (fuel : Nat) (p : Fin 8) (s : State) : flowsOf (settleAdm fuel p s) = flowsOf s := by
  induction fuel generalizing s with
  | zero => rfl
  | succ fuel ih =>
    unfold settleAdm
    (repeat' split) <;> simp [*]

@[simp] theorem settleCtl_flows (fuel i : Nat) (s : State) : flowsOf (settleCtl fuel i s) = flowsOf s := by
  induction fuel generalizing s with
  | zero => rfl
  | succ fuel ih =>
    unfold settleCtl
    (repeat' split) <;> simp [*]

@[simp] theorem settleAdmAll_flows (s : State) (p : Fin 8) : flowsOf (settleAdmAll s p) = flowsOf s := by
  simp [settleAdmAll]

@[simp] theorem settleCtlAll_flows (s : State) (i : Nat) : flowsOf (settleCtlAll s i) = flowsOf s := by
  unfold settleCtlAll
  (repeat' split) <;> simp

@[simp] theorem admDoneBy_flows (s : State) (p : Fin 8) (st : Status) (out : Bytes) (info due : Nat) : flowsOf (admDoneBy s p st out info due) = flowsOf s := by
  unfold admDoneBy
  (repeat' split) <;> simp

@[simp] theorem admDone_flows (s : State) (p : Fin 8) (st : Status) (out : Bytes) (info : Nat) : flowsOf (admDone s p st out info) = flowsOf s := by
  simp [admDone]

@[simp] theorem admDoneMirrored_flows (s : State) (p : Fin 8) (info : Nat) : flowsOf (admDoneMirrored s p info) = flowsOf s := by
  unfold admDoneMirrored
  (repeat' split) <;> simp

@[simp] theorem ctlDone_flows (s : State) (i : Nat) (st : Status) (out : Bytes) (info : Nat) : flowsOf (ctlDone s i st out info) = flowsOf s := by
  unfold ctlDone
  (repeat' split) <;> simp

@[simp] theorem ctlDoneMirrored_flows (s : State) (i info : Nat) : flowsOf (ctlDoneMirrored s i info) = flowsOf s := by
  unfold ctlDoneMirrored
  (repeat' split) <;> simp

@[simp] theorem modPxt_flows (s : State) (f : Pxt → Pxt) : flowsOf (modPxt s f) = flowsOf s := rfl

@[simp] theorem modFab_flows (s : State) (p : Nat) (f : FabPort → FabPort) : flowsOf (modFab s p f) = flowsOf s := by
  simp [modFab]

@[simp] theorem modOp_flows (s : State) (o : Nat) (f : HopOp → HopOp) : flowsOf (modOp s o f) = flowsOf s := by
  simp [modOp]

@[simp] theorem macsecCharge_flows (s : State) (n : Nat) : flowsOf (macsecCharge s n) = flowsOf s := by
  simp [macsecCharge]

@[simp] theorem txProtected_flows (s : State) (p : Nat) (f : FabCfg) (b : Bytes) : flowsOf (txProtected s p f b) = flowsOf s := by
  unfold txProtected
  dsimp only
  split <;> simp

@[simp] theorem txFrame_flows (s : State) (p : Nat) (dst : Peer) (carriage : Nat) (b : Bytes) : flowsOf (txFrame s p dst carriage b) = flowsOf s := by
  unfold txFrame
  (repeat' split) <;> simp

@[simp] theorem noteSent_flows (s : State) (k : Nat) : flowsOf (noteSent s k) = flowsOf s := by
  simp [noteSent]

@[simp] theorem opTx_flows (s : State) (o : Nat) (b : Bytes) : flowsOf (opTx s o b) = flowsOf s := by
  unfold opTx
  (repeat' split) <;> simp

@[simp] theorem pumpList_flows (o : Nat) (l : List Bytes) (s : State) : flowsOf (pumpList o l s) = flowsOf s := by
  induction l generalizing s with
  | nil => rfl
  | cons b rest ih =>
    unfold pumpList
    (repeat' split) <;> simp [*]

@[simp] theorem opPump_flows (s : State) (o : Nat) : flowsOf (opPump s o) = flowsOf s := by
  unfold opPump
  (repeat' split) <;> simp

@[simp] theorem opSend_flows (s : State) (o : Nat) (ms : List PxtMsg) : flowsOf (opSend s o ms) = flowsOf s := by
  simp [opSend]

@[simp] theorem opCredit_flows (s : State) (o : Nat) : flowsOf (opCredit s o) = flowsOf s := by
  unfold opCredit
  (repeat' split) <;> simp

@[simp] theorem opGrant_flows (s : State) (o : Nat) : flowsOf (opGrant s o) = flowsOf s := by
  have drawn := freshChoice_flows (freeFrames s + 1) s
  unfold opGrant
  dsimp only
  split <;> simp [drawn]

@[simp] theorem noteLimit_flows (s : State) (i : Nat) : flowsOf (noteLimit s i) = flowsOf s := by
  simp [noteLimit]

@[simp] theorem renewOpening_flows (s : State) (sid : Nat) : flowsOf (renewOpening s sid) = flowsOf s := by
  unfold renewOpening
  (repeat' split) <;> simp

@[simp] theorem renewOpenings_flows (s : State) (i : Option Nat) : flowsOf (renewOpenings s i) = flowsOf s := by
  simp [renewOpenings, flows_foldl]

@[simp] theorem addOp_flows (s : State) (x : HopOp) : flowsOf ((addOp s x).2) = flowsOf s := by
  simp [addOp]

@[simp] theorem nodeOp_flows (s : State) (kind : HopKind) (sid e : Nat) (obj : Bytes) (ext : Nat) (n : NodeCfg) : flowsOf ((nodeOp s kind sid e obj ext n).2) = flowsOf s := by
  simp [nodeOp]

@[simp] theorem wipeContexts_flows (s : State) (i : Nat) : flowsOf (wipeContexts s i) = flowsOf s := by
  simp [wipeContexts]

@[simp] theorem finishDestroy_flows (s : State) (i : Nat) : flowsOf (finishDestroy s i) = flowsOf s := by
  unfold finishDestroy
  split
  · rfl
  · split
    · rfl
    · dsimp only
      (repeat' split) <;> simp [flows_foldl]

end Sys2Proof.Still

/-! ### Transitions between modes (R43, R44) -/

namespace Sys2Proof.ModeRows

open Sys2Proof Sys2Proof.Machine Sys2Proof.Safety Sys2Proof.Rows Sys2Proof.Laws Sys2Proof.Still Sys2Proof.LadderRows

/-! #### A flow that has ended stays away -/

/-- No flow comes back under `e` from `s` to `t`. -/
def StaysGone (e : Nat) (s t : State) : Prop := tblGet (flowsOf s) e = none → tblGet (flowsOf t) e = none

theorem staysGone_of_flows {e : Nat} {s t : State} (h : flowsOf t = flowsOf s) : StaysGone e s t := fun hs => by rw [h]; exact hs

theorem StaysGone.trans {e : Nat} {s t u : State} (h : StaysGone e s t) (h' : StaysGone e t u) : StaysGone e s u := fun hs => h' (h hs)

theorem tblGet_filter_none {α : Type} (t : Tbl α) (p : Nat × α → Bool) (k : Nat) (h : tblGet t k = none) : tblGet (t.filter p) k = none := by
  induction t with
  | nil => rfl
  | cons x rest ih =>
    obtain ⟨j, v⟩ := x
    rw [tblGet] at h
    split at h
    · cases h
    next hj =>
      rw [List.filter_cons]
      split
      · rw [tblGet, if_neg hj, ih h]
      · exact ih h

theorem staysGone_modFlow (e : Nat) (s : State) (g : Nat) (f : Flow → Flow) : StaysGone e s (modFlow s g f) := by
  intro h
  by_cases hg : e = g
  · subst hg
    exact (tblGet_mod_same _ _ _).trans (congrArg (Option.map f) h)
  · exact (tblGet_mod_other _ _ _ _ hg).trans h

theorem staysGone_startPut (e : Nat) (s : State) (k : Nat) (f : Flow) (n : NodeCfg) : StaysGone e s (startPut s k f n) := by
  have made := nodeOp_flows s .putOut f.sid k f.obj f.ext n
  refine (staysGone_of_flows made).trans ?_
  refine (staysGone_modFlow e _ k (fun g => { g with
    stage := .isOpen, outOp := some (nodeOp s .putOut f.sid k f.obj f.ext n).1, dataBreath := s.brt.count })).trans (staysGone_of_flows ?_)
  unfold startPut
  dsimp only
  split <;> simp

theorem staysGone_startGet (e : Nat) (s : State) (k : Nat) (f : Flow) (n : NodeCfg) : StaysGone e s (startGet s k f n) := by
  have made := nodeOp_flows s .getOut f.sid k f.obj f.ext n
  refine (staysGone_of_flows made).trans ?_
  refine (staysGone_modFlow e _ k (fun g => { g with
    stage := .manifest, inOp := some (nodeOp s .getOut f.sid k f.obj f.ext n).1 })).trans (staysGone_of_flows ?_)
  simp [startGet]

theorem staysGone_startFlow (e : Nat) (s : State) (k : Nat) : StaysGone e s (startFlow s k) := by
  have stays : StaysGone e s s := staysGone_of_flows rfl
  unfold startFlow
  split
  · exact stays
  · split
    · exact stays
    · split
      · exact stays
      · split
        · exact staysGone_startPut e s k _ _
        · exact staysGone_startGet e s k _ _
        · exact stays
        · exact stays

theorem staysGone_foldl {α : Type} {e : Nat} (f : State → α → State) (hf : ∀ t a, StaysGone e t (f t a)) (l : List α) (s : State) :
    StaysGone e s (l.foldl f s) := by
  induction l generalizing s with
  | nil => exact staysGone_of_flows rfl
  | cons a l ih => exact (hf s a).trans (ih _)

theorem staysGone_settleStream (e : Nat) (s : State) (sid : Nat) : StaysGone e s (settleStream s sid) := by
  unfold settleStream
  split
  · exact staysGone_of_flows rfl
  · split
    · exact staysGone_of_flows rfl
    · intro h
      dsimp only
      split <;> simpa using tblGet_filter_none _ _ _ h

/-- What follows the end of a flow starts and settles others alone. -/
theorem staysGone_afterEnd (e : Nat) (s : State) (i : Option Nat) (sid : Nat) : StaysGone e s (settleStream (startWaiting (renewOpenings s i)) sid) :=
  (staysGone_of_flows (renewOpenings_flows s i)).trans
    ((staysGone_foldl startFlow (staysGone_startFlow e) _ (renewOpenings s i)).trans (staysGone_settleStream e _ sid))

theorem endFlow_gone (s : State) (e : Nat) : tblGet (endFlow s e).bore.flows e = none := by
  unfold endFlow
  split
  next h => exact h
  next f h =>
    have gone : tblGet (flowsOf (noteLimit (modBore s (fun b => { b with flows := tblDel b.flows e })) f.inst)) e = none := by
      simpa using tblGet_del_same _ _
    exact staysGone_afterEnd e _ (some f.inst) f.sid gone

theorem abortPut_gone {s : State} {e : Nat} {f : Flow} (st : Status) (h : flowAt s e = some f) : tblGet (abortPut s e st).bore.flows e = none := by
  unfold abortPut
  rw [h]
  exact endFlow_gone _ e

/-! #### What still holds -/

theorem dev_of_still {s t : State} (h : still t = still s) : t.dev = s.dev := congrArg (·.1) h
theorem brt_of_still {s t : State} (h : still t = still s) : t.brt = s.brt := congrArg (·.2.1) h
theorem charts_of_still {s t : State} (h : still t = still s) : t.charts = s.charts := congrArg (·.2.2.2.2.2.1) h
theorem mpr_of_still {s t : State} (h : still t = still s) : t.mpr = s.mpr := congrArg (·.2.2.2.2.2.2.2.1) h
theorem mgc_of_still {s t : State} (h : still t = still s) : t.mgc = s.mgc := congrArg (·.2.2.2.2.2.2.2.2.1) h

/-- The random source delivers as before; only who waits for it changes. -/
theorem rng_of_still {s t : State} (h : still t = still s) : { t.rng with waiting := s.rng.waiting, granted := s.rng.granted } = s.rng := by
  have e : { t.rng with waiting := [], granted := [] } = { s.rng with waiting := [], granted := [] } := congrArg (·.2.2.2.2.2.2.2.2.2.2.2.2.2.1) h
  exact (congrArg (fun r : Rng => { r with waiting := s.rng.waiting, granted := s.rng.granted }) e :)

theorem unreachable_of_still {s t : State} (h : still t = still s) : t.pxt.unreachable = s.pxt.unreachable :=
  congrArg (·.2.2.2.2.2.2.2.2.2.2.2.2.2.2) h

theorem resumeWork_still (s : State) : still (resumeWork s) = still s := by simp [resumeWork]

/-- A twin record's role and split flag outlive the work resumed. -/
theorem role_of_still {s t : State} (h : still t = still s) : t.twn.role = s.twn.role ∧ t.twn.split = s.twn.split := by
  have e : { t.twn with toSend := [], waits := [] } = { s.twn with toSend := [], waits := [] } := congrArg (·.2.2.2.2.2.2.2.2.2.2.2.2.1) h
  exact ⟨(congrArg Twn.role e :), (congrArg Twn.split e :)⟩

theorem enterRecover_effect (s : State) : (enterRecover s).dev = { s.dev with
    mode := .recover, prevMode := modeCode s.dev.mode, modeBreath := s.brt.count, modeReq := none } ∧ (enterRecover s).mgc = s.mgc := by
  unfold enterRecover
  dsimp only
  split
  · have h : still (regroup (migrationRecover (enterMode s .recover))) = still (enterMode s .recover) := by simp only [regroup_still, migrationRecover_still]
    exact ⟨dev_of_still h, (mgc_of_still h).trans rfl⟩
  · exact ⟨rfl, rfl⟩

/-- A requested transition changes of the device's own registers the mode, what it was and when. -/
theorem requested_dev (s : State) (r : ModeReq) : (requested s r).dev = { s.dev with
    mode := askedMode r, prevMode := modeCode s.dev.mode, modeBreath := s.brt.count, modeReq := none } := by
  cases r with
  | recover => exact (enterRecover_effect s).1
  | service =>
    have h := dev_of_still (resumeWork_still (modTwn (enterMode s .service) (fun t => { t with split := false })))
    exact h.trans rfl
  | shadow => rfl
  | migrate => exact dev_of_still (regroup_still (enterMode s .migrate))

/-- Settles O25: each transition by the branch of its command that its conditions choose. -/
theorem modeTransitions : Obligations.ModeTransitions := by
  intro s hrun hhalt
  refine ⟨fun hc hx => ?_, fun e f hf hk hover => ?_⟩
  · have hin : atInhale s = true := by simp [atInhale, hc, hx]
    have hexec : exec .modeChange s = whenRunning s (modeChange s) := rfl
    refine ⟨fun r n hpools hreq hn => does_whenRunning hexec hrun ?_, fun hpools => does_whenRunning hexec hrun ?_, fun n hreq hn => ?_, fun q hq hlt hdone => ?_⟩
    · have hstep : modeChange s = requested s r := by simp [modeChange, hin, hhalt, hpools, hreq, hn]
      rw [hstep]
      exact requested_dev s r
    · have hstep : modeChange s = enterRecover (logEvent s 0x0207 (poolBelowNote s)) := by simp [modeChange, hin, hhalt, hpools]
      obtain ⟨hdev, hmgc⟩ := enterRecover_effect (logEvent s 0x0207 (poolBelowNote s))
      rw [hstep, hdev, hmgc]
      exact ⟨rfl, rfl, Nat.lt_succ_self _⟩
    · have hexecq : exec .quiesceBegin s = whenRunning s (quiesceBegin s) := rfl
      rw [hexecq, whenRunning, hrun, if_pos rfl]
      constructor
      · rintro (hm | hm) <;> simp [quiesceBegin, hreq, hin, hhalt, Nat.not_lt.mpr hn, hm]
      · intro hm
        simp [quiesceBegin, hreq, hin, hhalt, Nat.not_lt.mpr hn, hm, enterTune, enterMode, setRole, modTwn, modeCode]
    · have hexect : exec .tuneEnter s = whenRunning s (tuneEnter s) := rfl
      rw [hexect, whenRunning, hrun, if_pos rfl]
      simp [tuneEnter, hq, hin, hhalt, hlt, hdone, enterTune, enterMode]
  · have hexec : exec (.quiesceExtentTimeout e) s = whenRunning s (if s.dev.halting then s else quiesceTimeout s e) := rfl
    refine does_whenRunning hexec hrun ?_
    have hflow : flowAt s e = some f := hf
    have hstep : (if s.dev.halting then s else quiesceTimeout s e) = abortPut s e .lengthUnderrun := by
      simp [hhalt, quiesceTimeout, hflow, hk, hover]
    have hstill : still (abortPut s e .lengthUnderrun) = still s := abortPut_still s e .lengthUnderrun
    rw [hstep]
    exact ⟨abortPut_gone _ hflow, dev_of_still hstill, brt_of_still hstill⟩

end Sys2Proof.ModeRows

/-! ### The controlled halt (R47, R49) -/

namespace Sys2Proof.HaltRows

open Sys2Proof Sys2Proof.Machine Sys2Proof.Safety Sys2Proof.Rows Sys2Proof.Laws Sys2Proof.Still Sys2Proof.LadderRows Sys2Proof.RingWrites
open Sys2Proof.ModeRows Sys2Proof.StateFacts Sys2Proof.StepRows

/-! #### The halt messages -/

/-- A command of a port that is formed. -/
theorem does_pfWhenRunning {c : Instr} {s t : State} {p : Fin 8} {P : State → Prop} (hexec : exec c s = pfWhenRunning s p t) (hrun : isRunning s = true)
    (hf : (portAt s p.val).formed = true) (h : P t) : Does c s P :=
  does_whenRunning (t := t) (by rw [hexec, pfWhenRunning, hf, if_pos rfl]) hrun h

/-- One port of eight changes, the others stay. -/
theorem modPort_only {s : State} (p : Fin 8) (f : HostPort → HostPort) (h : s.ports.length = 8) :
    portAt (modPort s p.val f) p.val = f (portAt s p.val) ∧ (∀ q : Fin 8, q ≠ p → portAt (modPort s p.val f) q.val = portAt s q.val) ∧
      { modPort s p.val f with ports := s.ports } = s := by
  refine ⟨?_, fun q hq => ?_, rfl⟩
  · rw [portAt_modPort, if_pos ⟨rfl, by omega⟩]
  · rw [portAt_modPort, if_neg (fun e => hq (Fin.ext e.1))]

/-- The messages of a list of ports, in order, where each step sends what its port has armed. -/
theorem emit_messages (f : State → HostPort × Nat → State)
    (hf : ∀ t e, f t e = e.1.haltArmed.elim t (fun m => emit t (.haltMsg e.2 m.1 m.2))) (l : List (HostPort × Nat)) (s : State) :
    l.foldl f s = { s with out := (l.filterMap (fun e => e.1.haltArmed.map (fun m => Out.haltMsg e.2 m.1 m.2))).reverse ++ s.out } := by
  induction l generalizing s with
  | nil => rfl
  | cons e l ih =>
    rw [List.foldl_cons, ih, hf]
    cases h : e.1.haltArmed with
    | none => simp [h]
    | some m => simp [h, emit]

theorem ports_listed {s : State} (h : s.ports.length = 8) : List.zipIdx s.ports = (List.finRange 8).map (fun p => (portAt s p.val, p.val)) := by
  refine List.ext_getElem (by simp [h]) fun i h1 h2 => ?_
  simp only [List.getElem_zipIdx, List.getElem_map, List.getElem_finRange, portAt, Nat.zero_add, Fin.val_cast]
  rw [List.getD_eq_getElem]

theorem haltMessages_eq {s : State} (h : s.ports.length = 8) : haltMessages s = { s with out := (armedMessages s).reverse ++ s.out } := by
  refine (emit_messages _ (fun t e => ?_) _ s).trans ?_
  · cases e.1.haltArmed <;> rfl
  · rw [ports_listed h, List.filterMap_map]
    rfl

/-! #### The halt begins -/

/-- A controlled cause sets HALTING and is logged; the clock goes on. -/
theorem controlledHalt_begins {s : State} (cause code : Nat) (data : Bytes) (hh : s.dev.halting = false) (hm : s.dev.mode ≠ .halted) :
    (controlledHalt s cause code data).dev = { s.dev with
      halting := true, haltCause := cause, haltImmediate := false, haltBreath := s.brt.count, haltFlushed := false, modeReq := none, quiesce := none,
      tuneReq := none } ∧
    s.mgc.logSeq < (controlledHalt s cause code data).mgc.logSeq ∧ (controlledHalt s cause code data).brt = s.brt := by
  have hno : ¬ (s.dev.halting || decide (s.dev.mode = .halted)) = true := by simp [hh, hm]
  simp only [controlledHalt, if_neg hno]
  refine ⟨dev_of_still (haltFlows_still _), ?_, (brt_of_still (haltFlows_still _)).trans rfl⟩
  rw [mgc_of_still (haltFlows_still _)]
  exact Nat.lt_succ_self _

/-! #### The flush -/

/-- A wipe touches the reed, its requests to the DRBG, and where the reed is muted the unit's health, the log and the jobs on it. -/
theorem wipeReed_effect (s : State) (r : Nat) : (wipeReed s r).reeds = tblPut s.reeds r (wiped s r) ∧ (s.jobs = [] → (wipeReed s r).jobs = []) ∧
    { wipeReed s r with reeds := s.reeds, rng := s.rng, jobs := s.jobs, health := s.health, mgc := s.mgc } = s := by
  unfold wipeReed
  dsimp only
  split
  · unfold muteReed muteUnit
    split <;> exact ⟨rfl, fun h => by simp [displaceJobs, logEvent, logRecord, setReed, h], rfl⟩
  · exact ⟨rfl, fun h => h, rfl⟩

theorem wiped_wiped {s t : State} {r : Nat} (h : reedAt t r = wiped s r) : wiped t r = wiped s r := by rw [wiped, h, wiped]

/-- The reeds of a list are wiped, each once or more; the job table stays empty. -/
theorem wipeReeds_effect (l : List Nat) (s : State) (hjobs : s.jobs = []) :
    (∀ r, reedAt (l.foldl wipeReed s) r = wiped s r ∨ r ∉ l ∧ reedAt (l.foldl wipeReed s) r = reedAt s r) ∧ (l.foldl wipeReed s).jobs = [] ∧
      { l.foldl wipeReed s with reeds := s.reeds, rng := s.rng, jobs := s.jobs, health := s.health, mgc := s.mgc } = s := by
  induction l generalizing s with
  | nil => exact ⟨fun r => .inr ⟨by simp, rfl⟩, hjobs, rfl⟩
  | cons a l ih =>
    obtain ⟨hreeds, hnone, hframe⟩ := wipeReed_effect s a
    obtain ⟨hall, hempty, hrest⟩ := ih (wipeReed s a) (hnone hjobs)
    refine ⟨fun r => ?_, hempty, ?_⟩
    · by_cases hr : r = a
      · subst hr
        have here : reedAt (wipeReed s r) r = wiped s r := by rw [reedAt, tblGetD, hreeds, tblGet_put_same]; rfl
        refine .inl ?_
        rcases hall r with h | ⟨-, h⟩
        · exact h.trans (wiped_wiped here)
        · exact h.trans here
      · have there : reedAt (wipeReed s a) r = reedAt s r := by rw [reedAt, tblGetD, hreeds, tblGet_put_other _ _ _ _ hr]; rfl
        rcases hall r with h | ⟨hl, h⟩
        · exact .inl (h.trans (by rw [wiped, there]; rfl))
        · exact .inr ⟨by simp [hr, hl], h.trans there⟩
    · have e := congrArg (fun u : State => { u with reeds := s.reeds, rng := s.rng, jobs := s.jobs, health := s.health, mgc := s.mgc }) hrest
      exact e.trans hframe

theorem mem_keys_of_tblGet {α : Type} {t : Tbl α} {k : Nat} (h : (tblGet t k).isSome = true) : k ∈ t.map (·.1) := by
  obtain ⟨x, hx⟩ := Option.isSome_iff_exists.mp h
  exact List.mem_map.mpr ⟨(k, x), tblGet_mem _ _ _ hx, rfl⟩

theorem emits_only {α : Type} (l : List α) (f : α → Out) (s : State) : ∃ out, l.foldl (fun t e => emit t (f e)) s = { s with out := out } := by
  induction l generalizing s with
  | nil => exact ⟨s.out, rfl⟩
  | cons a l ih =>
    obtain ⟨out, h⟩ := ih (emit s (f a))
    exact ⟨out, h⟩

/-- The state between the flush's own entries and the wipes. -/
def flushed (s : State) : State :=
  let st := haltStatus s.dev.haltCause
  let now := s.brt.count
  { s with
    waiting := s.waiting.map (fun w => haltCompl st w now) ++
      ((s.jobs.map (·.2)).filter (fun j => hostJob j && j.stage ≠ .fence)).map (haltJob st now) ++
      ((List.finRange 8).flatMap (haltAdm s) ++ s.insts.flatMap (haltCtl s))
    jobs := []
    ports := s.ports.map (fun h => { h with adm := { h.adm with q := CmdQ.init } })
    insts := s.insts.map (fun e => (e.1, { e.2 with ctl := CmdQ.init }))
    clusters := s.clusters.map (fun e => (e.1, haltCluster e.2))
    twn := { s.twn with waits := [] }
    bore := { s.bore with contexts := [], lostCtx := [] }
    rng := { s.rng with waiting := [], granted := [], held := [] }
    dev := { s.dev with haltFlushed := true } }

theorem haltFlush_eq (s : State) : ∃ out, haltFlush s = { (s.reeds.map (·.1)).foldl wipeReed (flushed s) with out := out } :=
  emits_only s.rng.held (fun _ => .mctp .rngFailed []) _

theorem tagStatus_halt (tag : BitVec 16) (st : Status) (h : st = .rngFailed ∨ st = .deviceHalting) :
    tagStatus tag st = .rngFailed ∨ tagStatus tag st = .deviceHalting ∨ tag = 0xFFFF ∧ tagStatus tag st = .inputInvalid := by
  unfold tagStatus
  split
  next ht => exact .inr (.inr ⟨ht, rfl⟩)
  next => exact h.imp_right .inl

theorem haltStatus_halt (cause : Nat) : haltStatus cause = .rngFailed ∨ haltStatus cause = .deviceHalting := by
  unfold haltStatus
  split
  · exact .inl rfl
  · exact .inr rfl

/-- What a flushed completion shows: it is due now, has no output, and has a halt's status. -/
def HaltEntry (now : Nat) (w : Waiting) : Prop := w.due = now ∧ w.c.out = [] ∧ (w.c.status = .rngFailed ∨ w.c.status = .deviceHalting ∨
  w.c.tag = 0xFFFF ∧ w.c.status = .inputInvalid)

theorem haltEntry_compl (cause : Nat) (w : Waiting) (now : Nat) : HaltEntry now (haltCompl (haltStatus cause) w now) := by
  refine ⟨rfl, rfl, tagStatus_halt _ _ ?_⟩
  split
  · split
    · exact .inl rfl
    · exact .inr rfl
  · exact haltStatus_halt cause

theorem haltEntry_job (cause now : Nat) (j : Job) : HaltEntry now (haltJob (haltStatus cause) now j) :=
  ⟨rfl, rfl, (haltStatus_halt cause).imp_right .inl⟩

theorem haltEntry_cmd (now : Nat) (tag : BitVec 16) (w : Waiting) (hd : w.due = now) (ho : w.c.out = []) (ht : w.c.tag = tag)
    (hs : w.c.status = tagStatus tag .deviceHalting) : HaltEntry now w := by
  refine ⟨hd, ho, ?_⟩
  rw [hs, ht]
  exact tagStatus_halt tag .deviceHalting (.inr rfl)

theorem flushed_entries (s : State) : ∀ w ∈ (flushed s).waiting, HaltEntry s.brt.count w := by
  intro w hw
  simp only [flushed, List.mem_append, List.mem_map, List.mem_flatMap] at hw
  rcases hw with (⟨v, -, rfl⟩ | ⟨j, -, rfl⟩) | ⟨p, -, hp⟩ | ⟨e, -, he⟩
  · exact haltEntry_compl _ v _
  · exact haltEntry_job _ _ j
  · obtain ⟨c, -, rfl⟩ := List.mem_map.mp hp
    exact haltEntry_cmd _ c.tag _ rfl rfl rfl rfl
  · obtain ⟨c, -, rfl⟩ := List.mem_map.mp he
    exact haltEntry_cmd _ c.tag _ rfl rfl rfl rfl

theorem flushed_job {s : State} {e : Nat × Job} (he : e ∈ s.jobs) (hi : e.2.internal = none) (hf : e.2.stage ≠ .fence) :
    ∃ w ∈ (flushed s).waiting, w.c.ring = jobRing e.2 ∧ w.c.tag = e.2.tag ∧
      w.c.status = if s.dev.haltCause = 4 ∨ s.dev.haltCause = 5 then .rngFailed else .deviceHalting := by
  refine ⟨haltJob (haltStatus s.dev.haltCause) s.brt.count e.2, ?_, rfl, rfl, ?_⟩
  · refine List.mem_append_left _ (List.mem_append_right _ (List.mem_map_of_mem (List.mem_filter.mpr ⟨List.mem_map_of_mem he, ?_⟩)))
    simp [hostJob, hi, hf]
  · show haltStatus s.dev.haltCause = _
    unfold haltStatus haltRngHealth haltRngStartup
    exact if_congr (by simp) rfl rfl

theorem clusterAt_haltCluster (s t : State) (h : t.clusters = s.clusters.map (fun e => (e.1, haltCluster e.2))) (c : Nat) :
    (clusterAt t c).fifo = [] ∧ (clusterAt t c).mau.mem = [] := by
  simp only [clusterAt, tblGetD, h, tblGet_map]
  cases tblGet s.clusters c <;> exact ⟨rfl, rfl⟩

/-- Settles O27: the messages are fields of their port, the flush and the entry into HALTED are taken apart by what they write. -/
theorem halts : Obligations.Halts := by
  intro s hrun hports
  refine ⟨fun p v hf => ⟨?_, ?_⟩, fun hh hboot => ?_, fun hh hfl hc hx hlate => ?_, fun hh hfl hx hlate hleft => ?_⟩
  · have hexec : exec (.haltVecArm p v) s = pfWhenRunning s p (haltArm s p.val v.toNat) := rfl
    exact does_pfWhenRunning hexec hrun hf (modPort_only p _ hports)
  · have hexec : exec (.haltVecDisarm p) s = pfWhenRunning s p (modPort s p.val (fun h => { h with haltArmed := none })) := rfl
    exact does_pfWhenRunning hexec hrun hf (modPort_only p _ hports)
  · have hlive : isLive s = true := (Bool.and_eq_true _ _ ▸ hrun).1
    have hmode : s.dev.mode ≠ .halted := of_decide_eq_true (Bool.and_eq_true _ _ ▸ hrun).2
    have hexec : exec .watchdogExpire s = whenLive s (if s.dev.mode = .boot && s.mgc.fwTrial then trialFailed s else controlledHalt s haltMgmt 0x0115 []) := rfl
    have hnot : ¬ (decide (s.dev.mode = .boot) && s.mgc.fwTrial) = true := by
      simp only [Bool.and_eq_true, decide_eq_true_eq, not_and, Bool.not_eq_true]
      exact hboot
    exact ⟨_, by rw [hexec, whenLive, hlive, if_pos rfl, if_neg hnot], controlledHalt_begins haltMgmt 0x0115 [] hh hmode⟩
  · have hexec : exec .controlledHaltFlush s = whenRunning s (controlledHaltFlush s) := rfl
    have hstep : controlledHaltFlush s = haltFlush s := by simp [controlledHaltFlush, hh, hfl, atInhale, hc, hx, hlate]
    obtain ⟨out, hflush⟩ := haltFlush_eq s
    obtain ⟨hreeds, hjobs, hframe⟩ := wipeReeds_effect (s.reeds.map (·.1)) (flushed s) rfl
    refine does_whenRunning hexec hrun ?_
    rw [hstep, hflush]
    refine ⟨hjobs, (congrArg State.dev hframe :), (congrArg (fun u : State => u.bore.contexts) hframe :), (congrArg (fun u : State => u.twn.waits) hframe :),
      fun r hr => ?_, clusterAt_haltCluster s _ (congrArg State.clusters hframe :), ?_, ?_⟩
    · rcases hreeds r with h | ⟨hnot, -⟩
      · exact h
      · exact absurd (mem_keys_of_tblGet hr) hnot
    · rw [show _ = (flushed s).waiting from (congrArg State.waiting hframe :)]
      exact flushed_entries s
    · rw [show _ = (flushed s).waiting from (congrArg State.waiting hframe :)]
      exact fun e he hi hf => flushed_job he hi hf
  · have hexec : exec .haltedEnter s = whenRunning s (haltedEnter s) := rfl
    have hstep : haltedEnter s = haltMessages (enterHalted s) := by simp [haltedEnter, hh, hfl, hx, hlate, hleft]
    refine does_whenRunning hexec hrun ?_
    rw [hstep, haltMessages_eq (s := enterHalted s) hports]
    refine ⟨rfl, rfl, rfl, rfl, rfl, rfl, rfl, fun x hx => ?_, rfl⟩
    obtain ⟨y, -, rfl⟩ := List.mem_map.mp hx
    exact ⟨rfl, rfl⟩

end Sys2Proof.HaltRows

/-! ### Reset, power and the end of the boot checks (R43, R456) -/

namespace Sys2Proof.BootRows

open Sys2Proof Sys2Proof.Machine Sys2Proof.Safety Sys2Proof.Rows Sys2Proof.Laws Sys2Proof.Still Sys2Proof.LadderRows Sys2Proof.ModeRows
open Sys2Proof.HaltRows

/-! #### What BOOT starts with -/

/-- What O26 says of the state after reset, as one value. -/
def bootView (s : State) : (Mode × Bool × Bool) × Brt × Tbl Inst × Bool × Tbl Slot × Option Chart × Bool × Nat × Nat × List MemRange × Lcs × List Instr :=
  ((s.dev.mode, s.dev.held, s.dev.powerGood), s.brt, s.insts, s.jobs.isEmpty, s.wch.slots, s.charts.inForce, s.rng.ready, s.wch.tamper, s.mgc.bootCount,
    s.mpr.ranges, s.lcs, s.pending)

theorem bootView_logEvent (s : State) (code : Nat) (data : Bytes) : bootView (logEvent s code data) = bootView s := rfl

theorem bootView_displaceJobs (s : State) (f : JobUnit → Bool) : bootView (displaceJobs s f) = bootView s := by
  simp only [bootView, displaceJobs, List.isEmpty_map]

theorem bootView_muteUnit (s : State) (u : UnitName) (a b c d : Nat) : bootView (muteUnit s u a b c d) = bootView s := by
  unfold muteUnit
  split <;> rfl

theorem bootView_muteFailed (s : State) (u : UnitName) : bootView (muteFailed s u) = bootView s := by
  cases u with
  | reed r => exact (bootView_displaceJobs _ _).trans (bootView_muteUnit ..)
  | mau c => exact (bootView_displaceJobs _ _).trans (bootView_muteUnit ..)
  | bellows c b => exact (bootView_displaceJobs _ _).trans (bootView_muteUnit s (.bellows (Fin.ofNat 64 c.val) (Fin.ofNat 4 b.val)) 2 c.val b.val 3)
  | pipe p => exact bootView_muteUnit ..

theorem bootView_muteAll (l : List UnitName) (s : State) : bootView (l.foldl muteFailed s) = bootView s := by
  induction l generalizing s with
  | nil => rfl
  | cons u l ih => exact (ih _).trans (bootView_muteFailed s u)

theorem bootView_bootMemory (d : Dimms) (s : State) : bootView (bootMemory d s) = bootView s := by
  unfold bootMemory
  split <;> rfl

theorem bootView_bootResolved (old : Lcs) (s : State) : bootView (bootResolved old s) = bootView s := by
  unfold bootResolved
  split <;> rfl

theorem bootView_bootTrial (b : BootInfo) (s : State) : bootView (bootTrial b s) = bootView s := by
  unfold bootTrial
  split
  · rfl
  · split <;> rfl

theorem bootView_bootFirmware (b : BootInfo) (s : State) : bootView (bootFirmware b s) = bootView s := by
  unfold bootFirmware
  dsimp only
  split
  · exact bootView_bootTrial b s
  · exact bootView_bootTrial b s

theorem lcBoot_dis (x : Lcs) : (lcBoot x).dis = x.dis := rfl

theorem bootView_powerOn (b : BootInfo) (s : State) : bootView (powerOn b s) = ((.boot, false, true), Brt.init, [], true, [], none, false, s.wch.tamper,
    s.mgc.bootCount + 1, List.replicate 16 MemRange.empty, lcBoot s.lcs, (cutJournal s).2.pending) := by
  unfold powerOn
  dsimp only
  rw [bootView_bootFirmware, bootView_muteAll, bootView_bootMemory, bootView_bootResolved]
  rfl

theorem cutJournal_pending (s : State) : (cutJournal s).2.pending = s.pending := by
  unfold cutJournal
  split <;> rfl

/-! #### Leaving BOOT -/

/-- The parts of the state that decide how BOOT ends: the device's registers, the chart in force, the twin's role. -/
def bootEnd (s : State) : Dev × Option Chart × Nat × Bool := (s.dev, s.charts.inForce, s.twn.role, s.twn.split)

theorem bootEnd_of_still {s t : State} (h : still t = still s) : bootEnd t = bootEnd s := by
  simp only [bootEnd, dev_of_still h, charts_of_still h, role_of_still h]

theorem bootEnd_foldl {α : Type} (f : State → α → State) (hf : ∀ t a, bootEnd (f t a) = bootEnd t) (l : List α) (s : State) :
    bootEnd (l.foldl f s) = bootEnd s := by
  induction l generalizing s with
  | nil => rfl
  | cons a l ih => exact (ih _).trans (hf s a)

theorem bootEnd_muteUnit (s : State) (u : UnitName) (a b c d : Nat) : bootEnd (muteUnit s u a b c d) = bootEnd s := by
  unfold muteUnit
  split <;> rfl

theorem bootEnd_muteSuspect (s : State) (u : UnitName) : bootEnd (muteSuspect s u) = bootEnd s := by
  unfold muteSuspect
  split
  · rfl
  · cases u with
    | reed r => exact bootEnd_muteUnit ..
    | mau c => exact bootEnd_muteUnit ..
    | bellows c b => rfl
    | pipe p => rfl

theorem bootEnd_drawRangeKeys (s : State) : bootEnd (drawRangeKeys s) = bootEnd s := by
  unfold drawRangeKeys
  refine bootEnd_foldl _ (fun t r => ?_) _ s
  rfl

theorem bootEnd_mapRanges (s : State) (d : DdrMap) : bootEnd (mapRanges s d) = bootEnd s := by
  unfold mapRanges
  dsimp only
  split
  · rfl
  · split
    · exact bootEnd_drawRangeKeys _
    · rfl

theorem bootEnd_setNodes (s : State) (n : Option NodeTable) : bootEnd (setNodes s n) = bootEnd s := by
  unfold setNodes
  split <;> rfl

theorem bootEnd_pipesJoin (s : State) : bootEnd (pipesJoin s) = bootEnd s := bootEnd_foldl pipeJoin (fun _ _ => rfl) _ s

theorem bootEnd_loadStores (s : State) (c : Chart) : bootEnd (loadStores s c) = bootEnd s := by
  unfold loadStores
  refine bootEnd_foldl _ (fun t k => ?_) _ s
  rfl

theorem bootEnd_regroup (s : State) : bootEnd (regroup s) = bootEnd s := bootEnd_of_still (regroup_still s)

theorem bootEnd_restartMonitors (s : State) (c : Chart) : bootEnd (restartMonitors s c) = bootEnd s := rfl

theorem bootEnd_setSuspicion (s : State) (n : Nat) : bootEnd (setSuspicion s n) = bootEnd s := by
  unfold setSuspicion
  exact bootEnd_foldl muteSuspect bootEnd_muteSuspect _ { s with health := { s.health with limit := n } }

/-- The first step of a full chart: the ports, the fabric, the conditioner and the length that waits. -/
def fullForms (s : State) (c : Chart) : State := { s with
  ports := (List.zipIdx s.ports).map (fun e => formPort c e.2 e.1)
  pxt := { s.pxt with ports := formFabric s c }
  rng := { s.rng with conditioner := c.conditioner }
  brt := { s.brt with nextLog2 := some c.log2Len } }

/-- Its second: the ranges, and the chart is in force. -/
def fullRanges (s : State) (c : Chart) : State := { mapRanges (fullForms s c) c.ddr with
  charts := { (fullForms s c).charts with inForce := some c, fullWait := none, deltaWait := none, adds := [] } }

theorem applyFull_steps (s : State) (c : Chart) : applyFull s c =
    setSuspicion (restartMonitors (setNodes (pipesJoin (regroup (loadStores (limiterFull (fullRanges s c)) c))) c.nodes) c) c.suspicionLimit := rfl

theorem bootEnd_fullRanges (s : State) (c : Chart) : bootEnd (limiterFull (fullRanges s c)) = (s.dev, some c, s.twn.role, s.twn.split) := by
  have h := bootEnd_mapRanges (fullForms s c) c.ddr
  simp only [bootEnd, Prod.mk.injEq] at h
  obtain ⟨hdev, -, hrole, hsplit⟩ := h
  simp only [bootEnd, limiterFull, fullRanges, hdev, hrole, hsplit]
  rfl

/-- A full chart taken at boot is in force; mode and role stay. -/
theorem bootEnd_applyFull (s : State) (c : Chart) : bootEnd (applyFull s c) = (s.dev, some c, s.twn.role, s.twn.split) := by
  rw [applyFull_steps, bootEnd_setSuspicion, bootEnd_restartMonitors, bootEnd_setNodes, bootEnd_pipesJoin, bootEnd_regroup, bootEnd_loadStores,
    bootEnd_fullRanges]

theorem bootEnd_enterService (s : State) : bootEnd (enterService s) =
    ({ s.dev with mode := .service, prevMode := modeCode s.dev.mode, modeBreath := s.brt.count, modeReq := none }, s.charts.inForce, s.twn.role, false) :=
  (bootEnd_of_still (resumeWork_still (modTwn (enterMode s .service) (fun t => { t with split := false })))).trans rfl

theorem bootEnd_queueRecords (s : State) (l : List (Nat × Bytes)) : bootEnd (queueRecords s l) = bootEnd s := by
  unfold queueRecords
  refine bootEnd_foldl _ (fun t e => ?_) l s
  rfl

theorem bootEnd_becomeActive (s : State) : bootEnd (becomeActive s) = (s.dev, s.charts.inForce, 1, s.twn.split) := bootEnd_queueRecords _ _

/-- A role taken leads to SERVICE or, the standby's, to SHADOW; the chart stays in force. -/
theorem takeRole_mode (s : State) (r : Nat) : ((takeRole s r).dev.mode = .service ∨ (takeRole s r).dev.mode = .shadow) ∧
    (takeRole s r).charts.inForce = s.charts.inForce ∧ (r = 0 → (takeRole s r).dev.mode = .service ∧ (takeRole s r).twn.role = 0) := by
  unfold takeRole
  split
  next h => exact ⟨.inr rfl, rfl, fun h0 => absurd (h0.symm.trans h) (by decide)⟩
  next =>
    split
    next h =>
      have e := (bootEnd_enterService (becomeActive s)).trans (congrArg (fun v : Dev × Option Chart × Nat × Bool =>
        (({ v.1 with mode := .service, prevMode := modeCode v.1.mode, modeBreath := (becomeActive s).brt.count, modeReq := none } : Dev), v.2.1, v.2.2.1, false))
        (bootEnd_becomeActive s))
      simp only [bootEnd, Prod.mk.injEq] at e
      obtain ⟨hdev, hchart, -⟩ := e
      exact ⟨.inl (by rw [hdev]), hchart, fun h0 => absurd (h0.symm.trans h) (by decide)⟩
    next =>
      have e := bootEnd_enterService (setRole s r)
      simp only [bootEnd, Prod.mk.injEq] at e
      obtain ⟨hdev, hchart, hrole, -⟩ := e
      refine ⟨.inl (by rw [hdev]), hchart, fun h0 => ⟨by rw [hdev], ?_⟩⟩
      rw [hrole, h0]
      rfl

/-- The end of a trial leaves all three. -/
theorem bootEnd_trialPassed (s : State) : bootEnd (trialPassed s) = bootEnd s := by
  unfold trialPassed
  split <;> rfl

theorem leaveBoot_chart {s : State} {c : Chart} (hmode : s.dev.mode = .boot) (hc : bootChart s = some c) :
    (leaveBoot s).charts.inForce = some c ∧
      ((leaveBoot s).dev.mode = .recover ∨ (leaveBoot s).dev.mode = .service ∨ (leaveBoot s).dev.mode = .shadow ∨
        (leaveBoot s).dev.mode = .boot ∧ (leaveBoot s).twn.split = true) ∧
      ((leaveBoot s).dev.mode = .recover ↔ anyPoolBelow (applyFull s c) = true) ∧
      (c.twin = false → anyPoolBelow (applyFull s c) = false → (leaveBoot s).dev.mode = .service ∧ (leaveBoot s).twn.role = 0) := by
  have hfull := bootEnd_applyFull s c
  simp only [bootEnd, Prod.mk.injEq] at hfull
  obtain ⟨hdev, hchart, -⟩ := hfull
  unfold leaveBoot
  rw [hc]
  dsimp only
  split
  next hbelow => exact ⟨hchart, .inl rfl, iff_of_true rfl hbelow, fun _ h => absurd (h.symm.trans hbelow) (by decide)⟩
  next hbelow =>
    cases hrole : twinRole (applyFull s c) c with
    | some r =>
      obtain ⟨hm, hch, hsolo⟩ := takeRole_mode (applyFull s c) r
      refine ⟨hch.trans hchart, .inr (hm.imp_right .inl), iff_of_false ?_ hbelow, fun htwin _ => hsolo ?_⟩
      · rcases hm with h | h <;> simp [h]
      · simpa [twinRole, htwin] using hrole.symm
    | none =>
      have hboot : (noRole (applyFull s c)).dev.mode = .boot := (congrArg Dev.mode hdev).trans hmode
      refine ⟨hchart, .inr (.inr (.inr ⟨hboot, rfl⟩)), iff_of_false (by simp [hboot]) hbelow, fun htwin _ => ?_⟩
      simp [twinRole, htwin] at hrole

/-! #### A memory fault at boot -/

theorem cutFrames_dev (s : State) : (cutFrames s).dev = s.dev ∧ (cutFrames s).mpr = s.mpr := by
  unfold cutFrames
  induction (s.pxt.ports.filter (fun e => e.2.linkUp)).map (·.1) generalizing s with
  | nil => exact ⟨rfl, rfl⟩
  | cons p l ih =>
    obtain ⟨hd, hm⟩ := ih (cutFrame s p)
    have step : (cutFrame s p).dev = s.dev ∧ (cutFrame s p).mpr = s.mpr := by
      unfold cutFrame
      dsimp only
      split <;> exact ⟨rfl, rfl⟩
    exact ⟨hd.trans step.1, hm.trans step.2⟩

theorem haltMessages_out (s : State) : ∃ out, haltMessages s = { s with out := out } :=
  ⟨_, emit_messages _ (fun _ e => by cases e.1.haltArmed <;> rfl) _ s⟩

/-- An immediate halt is in HALTED at once, with the cause and without keys. -/
theorem immediateHalt_dev (s : State) (cause code : Nat) (data : Bytes) :
    (immediateHalt s cause code data).dev.mode = .halted ∧ (immediateHalt s cause code data).dev.haltImmediate = true ∧
      (immediateHalt s cause code data).dev.haltN = false ∧ (immediateHalt s cause code data).dev.haltCause = cause ∧
      ∀ x ∈ (immediateHalt s cause code data).mpr.ranges, x.key = [] ∧ x.oldKey = none := by
  unfold immediateHalt
  dsimp only
  obtain ⟨out, h⟩ := haltMessages_out (logEvent { enterHalted (cutFrames s) with
    dev := { (enterHalted (cutFrames s)).dev with haltCause := cause, haltImmediate := true } } code data)
  rw [h]
  refine ⟨rfl, rfl, rfl, rfl, fun x hx => ?_⟩
  obtain ⟨y, -, rfl⟩ := List.mem_map.mp hx
  exact ⟨rfl, rfl⟩

theorem memCause_bounds (k : Nat) : 1 ≤ memCause k ∧ memCause k ≤ 3 := by
  unfold memCause
  rcases Nat.lt_or_ge k 8 with h | h
  · interval_cases k <;> decide
  · rw [List.getD_eq_default _ _ h]
    decide

/-- Settles O26: reset by what each step of `powerOn` leaves, the end of BOOT by the chart found. -/
theorem powerAndBoot : Obligations.PowerAndBoot := by
  intro s b
  refine ⟨fun hpower => ?_, rfl, rfl, fun hrun hmay => ?_⟩
  · have hgo : (b.powerRise || s.dev.powerGood) = true := by simpa using hpower
    have hexec : exec (.powerOnReset b) s = .next (if b.powerRise || s.dev.powerGood then powerOn b s else s) := rfl
    refine ⟨_, by rw [hexec, hgo, if_pos rfl], ?_⟩
    have h := bootView_powerOn b s
    rw [cutJournal_pending] at h
    simp only [bootView, Prod.mk.injEq] at h
    obtain ⟨⟨hmode, hheld, hgood⟩, hbrt, hinsts, hjobs, hslots, hchart, hready, htamper, hcount, hranges, hlcs, hpending⟩ := h
    exact ⟨hmode, hbrt, hinsts, List.isEmpty_iff.mp hjobs, hslots, hchart, hready, hheld, hgood, htamper, hcount, hranges, by rw [hlcs, lcBoot_dis], hpending⟩
  · have hexec (ok : Bool) : exec (.bootChecksComplete ok) s =
        whenRunning s (if !bootMayEnd s then s else if ok then trialPassed (leaveBoot s) else bootMemoryFault s) := rfl
    have hmode : s.dev.mode = .boot := by
      simp only [bootMayEnd, Bool.and_eq_true, decide_eq_true_eq] at hmay
      exact hmay.1.1.1.1.1.1
    have hpass (u : State) : (trialPassed u).dev = u.dev ∧ (trialPassed u).charts.inForce = u.charts.inForce ∧ (trialPassed u).twn.role = u.twn.role ∧
        (trialPassed u).twn.split = u.twn.split := by
      simpa only [bootEnd, Prod.mk.injEq] using bootEnd_trialPassed u
    have hgood (P : State → Prop) (h : P (trialPassed (leaveBoot s))) : Does (.bootChecksComplete true) s P :=
      does_whenRunning (hexec true) hrun (by simpa only [hmay, Bool.not_true, Bool.false_eq_true, if_false, if_true] using h)
    obtain ⟨hdev, hchart, hrole, hsplit⟩ := hpass (leaveBoot s)
    refine ⟨fun hnone => hgood _ ?_, fun c hc => hgood _ ?_, ?_⟩
    · rw [hdev]
      simp [leaveBoot, hnone, enterMode, hmode, modeCode]
    · rw [hdev, hchart, hrole, hsplit]
      exact leaveBoot_chart hmode hc
    · refine does_whenRunning (hexec false) hrun ?_
      simp only [hmay, Bool.not_true, Bool.false_eq_true, if_false]
      unfold bootMemoryFault
      obtain ⟨hm, him, hn, hcause, hkeys⟩ := immediateHalt_dev
        { (freshWord 35 (freshChoice 16 (freshChoice 7 s).2).2).2 with
          mpr := memFaulted (freshWord 35 (freshChoice 16 (freshChoice 7 s).2).2).2.mpr ((freshChoice 7 s).1 + 1) (freshChoice 16 (freshChoice 7 s).2).1
            (freshWord 35 (freshChoice 16 (freshChoice 7 s).2).2).1.toNat }
        (memCause ((freshChoice 7 s).1 + 1)) (0x0100 + memCause ((freshChoice 7 s).1 + 1))
        (leBytes 8 (mprFault (memFaulted (freshWord 35 (freshChoice 16 (freshChoice 7 s).2).2).2.mpr ((freshChoice 7 s).1 + 1)
          (freshChoice 16 (freshChoice 7 s).2).1 (freshWord 35 (freshChoice 16 (freshChoice 7 s).2).2).1.toNat)))
      refine ⟨hm, him, hn, ?_, ?_, hkeys⟩
      · rw [hcause]
        exact (memCause_bounds _).1
      · rw [hcause]
        exact (memCause_bounds _).2

end Sys2Proof.BootRows

/-! ### Register writes (R49, R57, R58, R467) -/

namespace Sys2Proof.WriteRows

open Sys2Proof Sys2Proof.Machine Sys2Proof.Safety Sys2Proof.Rows Sys2Proof.Laws Sys2Proof.StateFacts Sys2Proof.RingWrites Sys2Proof.LadderRows
open Sys2Proof.HaltRows

/-! #### One port, one instance, one box -/

theorem onlyPort_modPort {s : State} (p : Fin 8) (f : HostPort → HostPort) (h : s.ports.length = 8) :
    OnlyPort s (modPort s p.val f) p (f (portAt s p.val)) :=
  let only := modPort_only p f h
  ⟨only.1, only.2.1, only.2.2⟩

theorem onlyInst_modInst {s : State} {i : Nat} {x : Inst} (f : Inst → Inst) (h : tblGet s.insts i = some x) : OnlyInst s (modInst s i f) i (f x) :=
  ⟨(tblGet_mod_same _ _ _).trans (congrArg (Option.map f) h), fun _ hk => tblGet_mod_other _ _ _ _ hk, rfl⟩

theorem listMod_listMod {α : Type} (l : List α) (i : Nat) (f g : α → α) : listMod (listMod l i f) i g = listMod l i (fun h => g (f h)) := by
  induction l generalizing i with
  | nil => rfl
  | cons x xs ih => cases i with
    | zero => rfl
    | succ i => simp only [listMod, ih]

theorem modPort_modPort (s : State) (p : Nat) (f g : HostPort → HostPort) : modPort (modPort s p f) p g = modPort s p (fun h => g (f h)) := by
  simp only [modPort, listMod_listMod]

theorem modInst_modInst (s : State) (i : Nat) (f g : Inst → Inst) : modInst (modInst s i f) i g = modInst s i (fun x => g (f x)) := by
  have twice (t : Tbl Inst) : tblMod (tblMod t i f) i g = tblMod t i (fun x => g (f x)) := by
    induction t with
    | nil => rfl
    | cons e rest ih =>
      obtain ⟨j, v⟩ := e
      by_cases hj : j = i
      · simp only [tblMod, hj, if_true]
      · simp only [tblMod, hj, if_false, ih]
  simp only [modInst, twice]

/-- A function's instance is still its instance after a change that leaves its place. -/
theorem instOf_modInst {s : State} {p vf i : Nat} {x : Inst} (f : Inst → Inst) (hport : (f x).port = x.port) (hvf : (f x).vf = x.vf)
    (hfind : instOf s p vf = some (i, x)) (hget : tblGet s.insts i = some x) : instOf (modInst s i f) p vf = some (i, f x) := by
  have hx := List.find?_some hfind
  unfold instOf at hfind ⊢
  rw [modInst_insts]
  generalize s.insts = t at hfind hget
  induction t with
  | nil => cases hfind
  | cons e rest ih =>
    obtain ⟨j, y⟩ := e
    by_cases hj : j = i
    · have hy : y = x := by simpa [tblGet, hj] using hget
      subst hy hj
      rw [tblMod, if_pos rfl]
      exact List.find?_cons_of_pos (by simpa [hport, hvf] using hx)
    · simp only [tblGet, hj, if_false] at hget
      rw [tblMod, if_neg hj]
      rw [List.find?_cons] at hfind ⊢
      split at hfind
      · cases hfind
        exact absurd rfl hj
      · rename_i hno
        exact ih hfind hget

/-! #### Words of a 64-bit register -/

theorem setHalf_low (x v : BitVec 64) : setHalf x false (bitsOf v.toNat 31 0) = lowWritten x v := by
  apply BitVec.eq_of_toNat_eq
  have hx := x.isLt
  simp only [setHalf, lowWritten, Bool.false_eq_true, if_false, bitsOf, BitVec.toNat_ofNat, BitVec.toNat_append, BitVec.extractLsb'_toNat,
    Nat.shiftRight_eq_div_pow]
  rw [← Nat.shiftLeft_add_eq_or_of_lt (Nat.mod_lt _ (by decide)), Nat.shiftLeft_eq]
  omega

theorem setHalf_high (x v : BitVec 64) : setHalf x true (bitsOf v.toNat 31 0) = highWritten x v := by
  apply BitVec.eq_of_toNat_eq
  simp only [setHalf, highWritten, if_true, bitsOf, BitVec.toNat_ofNat, BitVec.toNat_append, BitVec.extractLsb'_toNat, Nat.shiftRight_eq_div_pow]
  rw [← Nat.shiftLeft_add_eq_or_of_lt (Nat.mod_lt _ (by decide)), Nat.shiftLeft_eq]
  omega

/-- Both halves of a word are the word. -/
theorem setHalf_both (x v : BitVec 64) : setHalf (setHalf x false (bitsOf v.toNat 31 0)) true (bitsOf v.toNat 63 32) = v := by
  apply BitVec.eq_of_toNat_eq
  have hv := v.isLt
  simp only [setHalf, Bool.false_eq_true, if_false, if_true, bitsOf, BitVec.toNat_ofNat]
  omega

/-- The fields of ADM_CFG and VFQ_CFG within the low word. -/
theorem bitsOf_word (v : Nat) : bitsOf (bitsOf v 31 0) 4 0 = v % 2 ^ 5 ∧ bitsOf (bitsOf v 31 0) 12 8 = v / 2 ^ 8 % 2 ^ 5 ∧
    bitsOf (bitsOf v 31 0) 26 16 = v / 2 ^ 16 % 2 ^ 11 := by
  simp only [bitsOf]
  omega

/-! #### A PF's words -/

theorem write_pf (s : State) (p : Fin 8) (off : BitVec 24) (v : BitVec 64) :
    exec (.registerWrite (.pf p off) false v) s = whenRunning s (pfWriteWord s p off.toNat (bitsOf v.toNat 31 0)) := rfl

theorem write_pf_wide (s : State) (p : Fin 8) (off : BitVec 24) (v : BitVec 64) (h : off.toNat % 8 = 0) :
    exec (.registerWrite (.pf p off) true v) s = whenRunning s (pfWriteWord (pfWriteWord s p off.toNat (bitsOf v.toNat 31 0)) p (off.toNat + 4)
      (bitsOf v.toNat 63 32)) := by
  have hexec : exec (.registerWrite (.pf p off) true v) s = whenRunning s (registerWriteOp s (.pf p off) true v.toNat) := rfl
  rw [hexec]
  simp [registerWriteOp, h]

theorem pfWriteWord_adm {s : State} {p : Fin 8} {off : Nat} (v : Nat) (hf : (portAt s p.val).formed = true) (h4 : off % 4 = 0) (hlo : 0x010000 ≤ off)
    (hhi : off < 0x010100) : pfWriteWord s p off v = modAdm s p.val (fun a => admWord a (off - 0x010000) v) := by
  have h0 : off ≠ 0x00000C := by omega
  simp only [pfWriteWord, h4, hf, h0, hlo, hhi, ne_eq, not_true_eq_false, decide_false, Bool.not_true, Bool.or_self, Bool.false_eq_true, if_false,
    and_self, if_true]

theorem pfWriteWord_box {s : State} {p : Fin 8} {off : Nat} (v : Nat) (hf : (portAt s p.val).formed = true) (h4 : off % 4 = 0) :
    (0x040100 ≤ off → off < 0x040130 → pfWriteWord s p off v = modBox s (.wch p) (fun b => boxSetWord b (off - 0x040100) v)) ∧
    (0x060100 ≤ off → off < 0x060130 → pfWriteWord s p off v = modBox s (.lcs p) (fun b => boxSetWord b (off - 0x060100) v)) := by
  constructor
  · intro hlo hhi
    have h0 : off ≠ 0x00000C := by omega
    have h1 : ¬ (0x010000 ≤ off ∧ off < 0x010100) := by omega
    have h2 : ¬ (0x020000 ≤ off ∧ off < 0x021000) := by omega
    simp [pfWriteWord, h4, hf, h0, h1, h2, hlo, hhi]
  · intro hlo hhi
    have h0 : off ≠ 0x00000C := by omega
    have h1 : ¬ (0x010000 ≤ off ∧ off < 0x010100) := by omega
    have h2 : ¬ (0x020000 ≤ off ∧ off < 0x021000) := by omega
    have h3 : ¬ (0x040100 ≤ off ∧ off < 0x040130) := by omega
    simp [pfWriteWord, h4, hf, h0, h1, h2, h3, hlo, hhi]

/-- Both words of a 64-bit register of the windchest mailbox, and of the custody mailbox. -/
theorem pfWriteWord_box_twice {s : State} {p : Fin 8} {off : Nat} (lo hi : Nat) (hf : (portAt s p.val).formed = true) (h4 : off % 4 = 0) :
    (0x040100 ≤ off → off + 4 < 0x040130 → pfWriteWord (pfWriteWord s p off lo) p (off + 4) hi =
      modBox s (.wch p) (fun b => boxSetWord (boxSetWord b (off - 0x040100) lo) (off + 4 - 0x040100) hi)) ∧
    (0x060100 ≤ off → off + 4 < 0x060130 → pfWriteWord (pfWriteWord s p off lo) p (off + 4) hi =
      modBox s (.lcs p) (fun b => boxSetWord (boxSetWord b (off - 0x060100) lo) (off + 4 - 0x060100) hi)) := by
  constructor
  · intro hlo hhi
    rw [(pfWriteWord_box lo hf h4).1 hlo (by omega)]
    rw [(pfWriteWord_box (s := modBox s (.wch p) _) hi hf (by omega)).1 (by omega) hhi]
    simp only [modBox, listMod_listMod]
  · intro hlo hhi
    rw [(pfWriteWord_box lo hf h4).2 hlo (by omega)]
    rw [(pfWriteWord_box (s := modBox s (.lcs p) _) hi hf (by omega)).2 (by omega) hhi]
    simp only [modBox, listMod_listMod]

theorem pfWriteWord_msix {s : State} {p : Fin 8} {k : Nat} (v : Nat) (hf : (portAt s p.val).formed = true) (hk : k < 2048) :
    pfWriteWord s p (0x100008 + 16 * k) v = modMsix s p.val 0 (fun m => msixPut m k { msixEntry (portAt s p.val).msix k with data := BitVec.ofNat 32 v }) := by
  have h4 : (0x100008 + 16 * k) % 4 = 0 := by omega
  have h0 : 0x100008 + 16 * k ≠ 0x00000C := by omega
  have h1 : ¬ (0x010000 ≤ 0x100008 + 16 * k ∧ 0x100008 + 16 * k < 0x010100) := by omega
  have h2 : ¬ (0x020000 ≤ 0x100008 + 16 * k ∧ 0x100008 + 16 * k < 0x021000) := by omega
  have h3 : ¬ (0x040100 ≤ 0x100008 + 16 * k ∧ 0x100008 + 16 * k < 0x040130) := by omega
  have h5 : ¬ (0x060100 ≤ 0x100008 + 16 * k ∧ 0x100008 + 16 * k < 0x060130) := by omega
  have h6 : 0x100000 ≤ 0x100008 + 16 * k ∧ 0x100008 + 16 * k < 0x108000 := by omega
  have hindex : (0x100008 + 16 * k - 0x100000) / 16 = k := by omega
  have hword : (0x100008 + 16 * k - 0x100000) % 16 = 8 := by omega
  unfold pfWriteWord
  rw [if_neg (by simp [h4, hf]), if_neg h0, if_neg h1, if_neg h2, if_neg h3, if_neg h5, if_pos h6]
  unfold msixSetWord
  rw [hindex, hword]
  rfl

/-- Another entry of the table, and the pending bits, stay when one entry is written. -/
theorem msixPut_effect (m : Msix) (k : Nat) (e : MsixEntry) : msixEntry (msixPut m k e) k = e ∧
    (∀ i, i ≠ k → msixEntry (msixPut m k e) i = msixEntry m i) ∧ (msixPut m k e).pending = m.pending := by
  unfold msixEntry msixPut tblGetD
  dsimp only
  split
  next he =>
    refine ⟨?_, fun i hi => ?_, rfl⟩
    · rw [tblGet_del_same, Option.getD_none, he]
    · rw [tblGet_del_other _ _ _ hi]
  next =>
    refine ⟨?_, fun i hi => ?_, rfl⟩
    · rw [tblGet_put_same, Option.getD_some]
    · rw [tblGet_put_other _ _ _ _ hi]

theorem getD_listMod_same {α : Type} {l : List α} {n : Nat} (p : Fin n) (f : α → α) (d : α) (h : l.length = n) :
    (listMod l p.val f).getD p.val d = f (l.getD p.val d) ∧ ∀ q : Fin n, q ≠ p → (listMod l p.val f).getD q.val d = l.getD q.val d := by
  refine ⟨?_, fun q hq => ?_⟩
  · rw [getD_listMod, if_pos ⟨rfl, by omega⟩]
  · rw [getD_listMod, if_neg (fun e => hq (Fin.ext e.1))]

/-! #### A VF's words -/

theorem write_vf (s : State) (p : Fin 8) (vf : Nat) (off : BitVec 16) (v : BitVec 64) :
    exec (.registerWrite (.vf p vf off) false v) s = whenRunning s (vfWriteWord s p vf off.toNat (bitsOf v.toNat 31 0)) := rfl

theorem write_vf_wide (s : State) (p : Fin 8) (vf : Nat) (off : BitVec 16) (v : BitVec 64) (h : off.toNat % 8 = 0) :
    exec (.registerWrite (.vf p vf off) true v) s = whenRunning s (vfWriteWord (vfWriteWord s p vf off.toNat (bitsOf v.toNat 31 0)) p vf (off.toNat + 4)
      (bitsOf v.toNat 63 32)) := by
  have hexec : exec (.registerWrite (.vf p vf off) true v) s = whenRunning s (registerWriteOp s (.vf p vf off) true v.toNat) := rfl
  rw [hexec]
  simp [registerWriteOp, h]

/-- A word of queue 0's ring registers reaches the function's instance. -/
theorem vfWriteWord_ring {s : State} {p : Fin 8} {vf i off : Nat} {x : Inst} (v : Nat) (hen : (portAt s p.val).vfEnable = true) (h0 : vf ≠ 0)
    (hn : vf ≤ (portAt s p.val).totalVfs) (hfind : instOf s p.val vf = some (i, x)) (h4 : off % 4 = 0) (hoff : off < 0x1000) :
    vfWriteWord s p vf off v = modInst s i (fun x => vfqSetWord x off v) := by
  have hno : ¬ (0x1000 ≤ off ∧ off < 0x2000) := by omega
  have hinst : vfInst s p vf = some (i, x) := by simp [vfInst, hen, h0, hfind]
  have hgo : ¬ (decide (off % 4 ≠ 0) || decide (vf = 0) || !(portAt s p.val).vfEnable || decide ((portAt s p.val).totalVfs < vf)) = true := by
    simp [h4, h0, hen, hn]
  unfold vfWriteWord
  rw [if_neg hgo, if_neg hno, hinst]

theorem vfqSetWord_place (x : Inst) (off v : Nat) : (vfqSetWord x off v).port = x.port ∧ (vfqSetWord x off v).vf = x.vf := by
  unfold vfqSetWord
  split
  · exact ⟨rfl, rfl⟩
  · split <;> exact ⟨rfl, rfl⟩

/-- Both words of a ring register, one after the other. -/
theorem vfWriteWord_twice {s : State} {p : Fin 8} {vf i off : Nat} {x : Inst} (lo hi : Nat) (hen : (portAt s p.val).vfEnable = true) (h0 : vf ≠ 0)
    (hn : vf ≤ (portAt s p.val).totalVfs) (hfind : instOf s p.val vf = some (i, x)) (hget : tblGet s.insts i = some x) (h4 : off % 4 = 0)
    (hoff : off + 4 < 0x1000) : vfWriteWord (vfWriteWord s p vf off lo) p vf (off + 4) hi =
      modInst s i (fun x => vfqSetWord (vfqSetWord x off lo) (off + 4) hi) := by
  rw [vfWriteWord_ring lo hen h0 hn hfind h4 (by omega)]
  have hplace := vfqSetWord_place x off lo
  rw [vfWriteWord_ring (s := modInst s i _) hi hen h0 hn (instOf_modInst (fun x => vfqSetWord x off lo) hplace.1 hplace.2 hfind hget) (by omega) hoff,
    modInst_modInst]

/-- Settles O29: each offset lies in the block that takes it, and each block's writes are writes to one record. -/
theorem registerWrites : Obligations.RegisterWrites := by
  intro s p v hrun hports hwch hlcs hf
  refine ⟨fun hen => ?_, fun hen off hoff => ?_, fun harm => ?_, ?_, ?_, fun k hk => ?_, fun vf i x qp hvfen h0 hn hfind hget hq => ?_, fun off hoff => ?_⟩
  · have hword (off : BitVec 24) (h4 : off.toNat % 4 = 0) (hlo : 0x010000 ≤ off.toNat) (hhi : off.toNat < 0x010100) {a : Adm}
        (ha : admWord (portAt s p.val).adm (off.toNat - 0x010000) (bitsOf v.toNat 31 0) = a) :
        Does (.registerWrite (.pf p off) false v) s (fun t => OnlyPort s t p { portAt s p.val with adm := a }) := by
      refine does_whenRunning (write_pf s p off v) hrun ?_
      rw [pfWriteWord_adm _ hf h4 hlo hhi, ← ha]
      exact onlyPort_modPort p _ hports
    refine ⟨hword 0x010008 rfl (by decide) (by decide) ?_, hword 0x01000C rfl (by decide) (by decide) ?_, hword 0x010010 rfl (by decide) (by decide) ?_,
      hword 0x010014 rfl (by decide) (by decide) ?_, ?_, hword 0x010018 rfl (by decide) (by decide) ?_⟩
    · simp [admWord, hen, setHalf_low]
    · simp [admWord, hen, setHalf_high]
    · simp [admWord, hen, setHalf_low]
    · simp [admWord, hen, setHalf_high]
    · refine does_whenRunning (write_pf_wide s p 0x010008 v rfl) hrun ?_
      have hlow : pfWriteWord s p 0x010008 (bitsOf v.toNat 31 0) = modAdm s p.val (fun a => admWord a 8 (bitsOf v.toNat 31 0)) :=
        pfWriteWord_adm _ hf rfl (by decide) (by decide)
      have hformed : (portAt (modAdm s p.val (fun a => admWord a 8 (bitsOf v.toNat 31 0))) p.val).formed = true := by
        rw [modAdm, portAt_modPort]
        split <;> exact hf
      have hhigh : pfWriteWord (modAdm s p.val (fun a => admWord a 8 (bitsOf v.toNat 31 0))) p 0x01000C (bitsOf v.toNat 63 32) =
          modAdm (modAdm s p.val (fun a => admWord a 8 (bitsOf v.toNat 31 0))) p.val (fun a => admWord a 12 (bitsOf v.toNat 63 32)) :=
        pfWriteWord_adm _ hformed rfl (by decide) (by decide)
      have hboth : admWord (admWord (portAt s p.val).adm 8 (bitsOf v.toNat 31 0)) 12 (bitsOf v.toNat 63 32) = { (portAt s p.val).adm with sqBase := v } := by
        simp [admWord, hen, setHalf_both]
      show OnlyPort s (pfWriteWord (pfWriteWord s p 0x010008 (bitsOf v.toNat 31 0)) p 0x01000C (bitsOf v.toNat 63 32)) p _
      rw [hlow, hhigh, modAdm, modAdm, modPort_modPort, ← hboth]
      exact onlyPort_modPort p _ hports
    · obtain ⟨hsq, hcq, hvec⟩ := bitsOf_word v.toNat
      simp [admWord, hen, hsq, hcq, hvec]
  · have hkept : ∀ off : BitVec 24, off.toNat % 4 = 0 → 0x010000 ≤ off.toNat → off.toNat < 0x010100 →
        Does (.registerWrite (.pf p off) false v) s (fun t => OnlyPort s t p (portAt s p.val)) := by
      intro off h4 hlo hhi
      refine does_whenRunning (write_pf s p off v) hrun ?_
      rw [pfWriteWord_adm _ hf h4 hlo hhi]
      have hsame : admWord (portAt s p.val).adm (off.toNat - 0x010000) (bitsOf v.toNat 31 0) = (portAt s p.val).adm := by simp [admWord, hen]
      have only := onlyPort_modPort p (fun h => { h with adm := admWord h.adm (off.toNat - 0x010000) (bitsOf v.toNat 31 0) }) hports
      rwa [hsame] at only
    simp only [List.mem_cons, List.not_mem_nil, or_false] at hoff
    rcases hoff with rfl | rfl | rfl | rfl | rfl <;> exact hkept _ rfl (by decide) (by decide)
  · refine does_whenRunning (write_pf s p 0x00000C v) hrun ?_
    have hbit : bitOf (bitsOf v.toNat 31 0) 31 = false := by
      rw [bitOf, bitsOf, Nat.pow_zero, Nat.div_one, Nat.testBit_mod_two_pow]
      simpa [BitVec.getLsbD] using harm
    have hstep : pfWriteWord s p 0x00000C (bitsOf v.toNat 31 0) =
        modPort s p.val (fun h => { h with haltVector := bitsOf (bitsOf v.toNat 31 0) 10 0, haltArmed := none }) := by
      simp [pfWriteWord, hf, haltVecWrite, hbit]
    have hvec : bitsOf (bitsOf v.toNat 31 0) 10 0 = v.toNat % 2 ^ 11 := by
      simp only [bitsOf]
      omega
    show OnlyPort s (pfWriteWord s p 0x00000C (bitsOf v.toNat 31 0)) p _
    rw [hstep, hvec]
    exact onlyPort_modPort p _ hports
  · constructor
    · refine does_whenRunning (write_pf s p 0x040108 v) hrun ?_
      have hlen : bitsOf (bitsOf v.toNat 31 0) 16 0 = v.toNat % 2 ^ 17 := by
        simp only [bitsOf]
        omega
      rw [(pfWriteWord_box (off := (0x040108 : BitVec 24).toNat) _ hf rfl).1 (by decide) (by decide)]
      obtain ⟨hsame, hother⟩ := getD_listMod_same p (fun b => boxSetWord b 8 (bitsOf v.toNat 31 0)) Mailbox.init hwch
      refine ⟨hsame.trans ?_, hother, rfl⟩
      simp only [boxSetWord, hlen]
    · refine does_whenRunning (write_pf_wide s p 0x040100 v rfl) hrun ?_
      rw [(pfWriteWord_box_twice (off := (0x040100 : BitVec 24).toNat) _ _ hf rfl).1 (by decide) (by decide)]
      refine ⟨(getD_listMod_same p _ Mailbox.init hwch).1.trans ?_, rfl⟩
      simp [boxSetWord, setHalf_both]
  · refine does_whenRunning (write_pf_wide s p 0x060110 v rfl) hrun ?_
    rw [(pfWriteWord_box_twice (off := (0x060110 : BitVec 24).toNat) _ _ hf rfl).2 (by decide) (by decide)]
    obtain ⟨hsame, hother⟩ := getD_listMod_same p (fun b => boxSetWord (boxSetWord b 16 (bitsOf v.toNat 31 0)) 20 (bitsOf v.toNat 63 32)) Mailbox.init hlcs
    refine ⟨hsame.trans ?_, hother, rfl⟩
    simp [boxSetWord, setHalf_both]
  · refine does_whenRunning (write_pf s p _ v) hrun ?_
    have hoff : (BitVec.ofNat 24 (0x100008 + 16 * k)).toNat = 0x100008 + 16 * k := by
      rw [BitVec.toNat_ofNat]
      omega
    have hdata : BitVec.ofNat 32 (bitsOf v.toNat 31 0) = v.truncate 32 := by
      apply BitVec.eq_of_toNat_eq
      simp [bitsOf]
    rw [hoff, pfWriteWord_msix _ hf hk, hdata]
    have only := onlyPort_modPort p (fun h => { h with msix := msixPut h.msix k { msixEntry (portAt s p.val).msix k with data := v.truncate 32 } }) hports
    obtain ⟨hentry, hothers, hpending⟩ := msixPut_effect (portAt s p.val).msix k { msixEntry (portAt s p.val).msix k with data := v.truncate 32 }
    have hport := only.port
    have hmsix : (portAt (modMsix s p.val 0 (fun m => msixPut m k { msixEntry (portAt s p.val).msix k with data := v.truncate 32 })) p.val).msix =
        msixPut (portAt s p.val).msix k { msixEntry (portAt s p.val).msix k with data := v.truncate 32 } := congrArg HostPort.msix hport
    rw [hmsix]
    exact ⟨hentry, hothers, hpending, only⟩
  · have hwide (off : BitVec 16) (h8 : off.toNat % 8 = 0) (hoff : off.toNat + 4 < 0x1000) {y : Inst}
        (hy : vfqSetWord (vfqSetWord x off.toNat (bitsOf v.toNat 31 0)) (off.toNat + 4) (bitsOf v.toNat 63 32) = y) :
        Does (.registerWrite (.vf p vf off) true v) s (fun t => OnlyInst s t i y) := by
      refine does_whenRunning (write_vf_wide s p vf off v h8) hrun ?_
      rw [vfWriteWord_twice _ _ hvfen h0 hn hfind hget (by omega) hoff, ← hy]
      exact onlyInst_modInst _ hget
    have hcfg {y : Inst} (hy : vfqSetWord x 0x20 (bitsOf v.toNat 31 0) = y) :
        Does (.registerWrite (.vf p vf 0x0020) false v) s (fun t => OnlyInst s t i y) := by
      refine does_whenRunning (write_vf s p vf 0x0020 v) hrun ?_
      rw [vfWriteWord_ring _ hvfen h0 hn hfind rfl (by decide), ← hy]
      exact onlyInst_modInst _ hget
    refine ⟨fun hen => ⟨hwide 0x0010 rfl (by decide) ?_, hwide 0x0018 rfl (by decide) ?_, hcfg ?_⟩, fun hen => hcfg ?_⟩
    · simp [vfqSetWord, hq, hen, setHalf_both]
    · simp [vfqSetWord, hq, hen, setHalf_both]
    · obtain ⟨hsq, hcq, -⟩ := bitsOf_word v.toNat
      have hvec : bitsOf (bitsOf v.toNat 31 0) 23 16 = v.toNat / 2 ^ 16 % 2 ^ 8 := by
        simp only [bitsOf]
        omega
      simp [vfqSetWord, hq, hen, hsq, hcq, hvec]
    · simp [vfqSetWord, hq, hen]
  · have hexec := write_pf s p off v
    rw [hexec, whenRunning, hrun, if_pos rfl]
    refine congrArg Host.Outcome.next ?_
    simp only [List.mem_cons, List.not_mem_nil, or_false] at hoff
    rcases hoff with rfl | rfl | rfl | rfl | rfl | rfl | rfl | rfl <;> simp [pfWriteWord]

end Sys2Proof.WriteRows

/-! ### Events of a function (R49, R53 to R55, R80, R85) -/

namespace Sys2Proof.FunctionRows

open Sys2Proof Sys2Proof.Machine Sys2Proof.Safety Sys2Proof.Rows Sys2Proof.Laws Sys2Proof.StateFacts Sys2Proof.RingWrites Sys2Proof.LadderRows
open Sys2Proof.HaltRows Sys2Proof.WriteRows

theorem isLive_of_running {s : State} (h : isRunning s = true) : isLive s = true := (Bool.and_eq_true _ _ ▸ h).1

theorem notHalted_of_running {s : State} (h : isRunning s = true) : s.dev.mode ≠ .halted := of_decide_eq_true (Bool.and_eq_true _ _ ▸ h).2

theorem does_whenLive {c : Instr} {s t : State} {P : State → Prop} (hexec : exec c s = whenLive s t) (hlive : isLive s = true) (h : P t) : Does c s P :=
  ⟨t, by rw [hexec, whenLive, hlive, if_pos rfl], h⟩

theorem does_cfgWhenLive {c : Instr} {s t : State} {p : Fin 8} {P : State → Prop} (hexec : exec c s = cfgWhenLive s p t) (hlive : isLive s = true)
    (hf : (portAt s p.val).formed = true) (h : P t) : Does c s P :=
  does_whenLive (t := t) (by rw [hexec, cfgWhenLive, hf, if_pos rfl]) hlive h

/-! #### Back in D0 -/

/-- A ring with nothing held and no message due changes nothing when its function wakes. -/
theorem wake_quiet {s : State} {p : Fin 8} (hports : s.ports.length = 8) (hheld : (portAt s p.val).adm.qp.held = [])
    (hasleep : (portAt s p.val).adm.qp.asleep = []) (hdue : (portAt s p.val).adm.qp.msgDue = false) :
    ∃ f : HostPort → HostPort, messageIfLast (issueHeld s (.adm p)) (.adm p) = modPort s p.val f ∧ f (portAt s p.val) = portAt s p.val := by
  have hqp : ringQp s (.adm p) = some (portAt s p.val).adm.qp := rfl
  have hheld' (t : State) (ht : ringQp t (.adm p) = some (portAt s p.val).adm.qp) :
      messageIfLast t (.adm p) = t := by
    unfold messageIfLast ringMessage
    split
    · rfl
    · rw [ht]
      simp [hdue]
  have same (f : Qp → Qp) (hf : f (portAt s p.val).adm.qp = (portAt s p.val).adm.qp) :
      messageIfLast (modRing s (.adm p) f) (.adm p) = modRing s (.adm p) f :=
    hheld' _ ((ringQp_modRing f hqp (fun _ _ => hports)).trans (congrArg some hf))
  unfold issueHeld
  rw [hqp]
  dsimp only
  rw [hasleep, hheld, List.foldl_nil]
  split
  · have h1 : ({ (portAt s p.val).adm.qp with asleep := [] } : Qp) = (portAt s p.val).adm.qp := by rw [← hasleep]
    rw [same _ h1]
    refine ⟨_, rfl, ?_⟩
    simp only [h1]
  · have h2 : ({ (portAt s p.val).adm.qp with held := [], asleep := [] } : Qp) = (portAt s p.val).adm.qp := by
      generalize (portAt s p.val).adm.qp = q at hheld hasleep
      cases q
      simp_all
    have htwice : modRing (writeHeld (.adm p) [] s) (.adm p) (fun q => { q with asleep := [] }) =
        modRing s (.adm p) (fun q => { q with held := [], asleep := [] }) := modPort_modPort s p.val _ _
    rw [htwice, same _ h2]
    refine ⟨_, rfl, ?_⟩
    simp only [h2]

theorem wakeVectors_masked {s : State} {p : Nat} (h : ∀ v ∈ (msixOf s p 0).pending, (msixEntry (msixOf s p 0) v).masked = true) :
    wakeVectors s p 0 = s := by
  unfold wakeVectors
  rw [List.filter_eq_nil_iff.mpr (fun v hv => by simp [h v hv])]
  rfl

/-! #### A reset begins -/

/-- The instance as a reset of this breath leaves it. -/
def Reset (s : State) (x y : Inst) : Prop :=
  y.state = .resetting ∧ y.reset = some ⟨s.brt.count, false, []⟩ ∧ y.gen = if x.drain then x.gen else (x.gen + 1) % 2 ^ 32

theorem addWaitings_frame (l : List Cmd) (f : Cmd → Waiting) (s : State) : ∃ w, l.foldl (fun t c => { t with waiting := t.waiting ++ [f c] }) s =
    { s with waiting := w } := by
  induction l generalizing s with
  | nil => exact ⟨_, rfl⟩
  | cons c l ih =>
    obtain ⟨w, h⟩ := ih { s with waiting := s.waiting ++ [f c] }
    exact ⟨w, h⟩

/-- What a reset does with fetched commands: the instance's command queue and completions, nothing else. -/
theorem resetCommands_effect (s : State) (i : Nat) (x : Inst) : ∃ (ctl : Inst → CmdQ) (w : List Waiting), resetCommands s i x =
    { modInst s i (fun y => { y with ctl := ctl y }) with waiting := w } := by
  unfold resetCommands
  dsimp only
  split
  · obtain ⟨w, h⟩ := addWaitings_frame _ (fun c => ⟨ctlCompl i c .instanceReset [] 0, 3, i, s.brt.count + 1⟩) (modInst s i _)
    exact ⟨_, w, h⟩
  · exact ⟨_, s.waiting, rfl⟩

/-- A request in a breath whose exhale is still to come begins the reset at once; one under way takes it in. -/
theorem requestReset_effect (s : State) (i : Nat) (hx : s.brt.exhale = false) : ∃ insts w, requestReset s i [] = { s with insts := insts, waiting := w } ∧
    (∀ k, k ≠ i → tblGet insts k = tblGet s.insts k) ∧ (∀ x, tblGet s.insts i = some x →
      (x.reset = none → ∃ y, tblGet insts i = some y ∧ Reset s x y) ∧ (x.reset ≠ none → tblGet insts i = some x)) := by
  unfold requestReset
  cases hget : tblGet s.insts i with
  | none => exact ⟨s.insts, s.waiting, rfl, fun _ _ => rfl, fun x h => by cases h⟩
  | some x =>
    cases hreset : x.reset with
    | some r =>
      simp only [hreset]
      refine ⟨_, s.waiting, rfl, fun k hk => tblGet_mod_other _ _ _ _ hk, fun x' hx' => ?_⟩
      cases hx'
      refine ⟨fun h => absurd (hreset.symm.trans h) (by simp), fun _ => ?_⟩
      rw [tblGet_mod_same, hget, Option.map_some, List.append_nil, ← hreset]
    | none =>
      simp only [hreset, hx, Bool.false_eq_true, if_false]
      unfold beginReset
      rw [modInst_insts, tblGet_mod_same, hget, Option.map_some]
      dsimp only
      obtain ⟨ctl, w, hcmds⟩ := resetCommands_effect (modInst s i (fun y => { y with reset := some ⟨requestBreath s, false, []⟩ })) i
        { x with reset := some ⟨requestBreath s, false, []⟩ }
      rw [hcmds]
      refine ⟨_, w, rfl, fun k hk => ?_, fun x' hx' => ?_⟩
      · simp only [modInst_insts, tblGet_mod_other _ _ _ _ hk]
      · cases hx'
        refine ⟨fun _ => ?_, fun h => absurd hreset h⟩
        simp only [modInst_insts, tblGet_mod_same, hget, Option.map_some, Option.some.injEq, exists_eq_left']
        refine ⟨rfl, ?_, rfl⟩
        simp only [requestBreath, hx, Bool.false_eq_true, if_false]

/-- The same for a list of instances: each is reset once, whatever its number of mentions. -/
theorem requestResets_effect (l : List Nat) (s : State) (hx : s.brt.exhale = false) :
    ∃ insts w, l.foldl (fun t i => requestReset t i []) s = { s with insts := insts, waiting := w } ∧
      (∀ i x, tblGet s.insts i = some x → x.reset ≠ none → tblGet insts i = some x) ∧
      (∀ i x, tblGet s.insts i = some x → x.reset = none → i ∈ l → ∃ y, tblGet insts i = some y ∧ Reset s x y) := by
  induction l generalizing s with
  | nil => exact ⟨s.insts, s.waiting, rfl, fun _ _ h _ => h, fun _ _ _ _ h => by cases h⟩
  | cons k l ih =>
    obtain ⟨insts, w, hstep, hothers, hsame⟩ := requestReset_effect s k hx
    obtain ⟨insts', w', hrest, hkept, hreset⟩ := ih { s with insts := insts, waiting := w } hx
    have hget (i : Nat) (x : Inst) (hi : tblGet s.insts i = some x) (h : x.reset ≠ none) : tblGet insts i = some x := by
      by_cases hik : i = k
      · subst hik
        exact (hsame x hi).2 h
      · exact (hothers i hik).trans hi
    refine ⟨insts', w', by rw [List.foldl_cons, hstep, hrest], fun i x hi h => hkept i x (hget i x hi h) h, fun i x hi h hmem => ?_⟩
    by_cases hik : i = k
    · subst hik
      obtain ⟨y, hy, hstate, hyreset, hgen⟩ := (hsame x hi).1 h
      exact ⟨y, hkept i y hy (by rw [hyreset]; simp), hstate, hyreset, hgen⟩
    · have hi' : tblGet insts i = some x := (hothers i hik).trans hi
      exact hreset i x hi' h ((List.mem_cons.mp hmem).resolve_left hik)

/-- Whatever the phase, a request touches the instances and their completions alone. -/
theorem requestReset_frame (s : State) (i : Nat) : ∃ insts w, requestReset s i [] = { s with insts := insts, waiting := w } := by
  by_cases hx : s.brt.exhale = true
  · unfold requestReset
    split
    · exact ⟨_, _, rfl⟩
    · split
      · exact ⟨_, s.waiting, rfl⟩
      · rw [if_pos hx]
        exact ⟨_, s.waiting, rfl⟩
  · obtain ⟨insts, w, h, -⟩ := requestReset_effect s i (by simpa using hx)
    exact ⟨insts, w, h⟩

theorem requestResets_frame (l : List Nat) (s : State) : ∃ insts w, l.foldl (fun t i => requestReset t i []) s = { s with insts := insts, waiting := w } := by
  induction l generalizing s with
  | nil => exact ⟨_, _, rfl⟩
  | cons k l ih =>
    obtain ⟨insts, w, h⟩ := requestReset_frame s k
    obtain ⟨insts', w', h'⟩ := ih { s with insts := insts, waiting := w }
    exact ⟨insts', w', by rw [List.foldl_cons, h, h']⟩

theorem mem_portInsts {s : State} {p : Fin 8} {i : Nat} {x : Inst} (h : tblGet s.insts i = some x) (hp : x.port = p) : i ∈ portInsts s p :=
  List.mem_map.mpr ⟨(i, x), List.mem_filter.mpr ⟨tblGet_mem _ _ _ h, by simp [hp]⟩, rfl⟩

/-! #### An unmasked vector -/

/-- Unmasking an entry sends the message its pending bit held. -/
theorem msixUnmask_effect {s : State} {p : Fin 8} {v : Nat} (hports : s.ports.length = 8) (hawake : (portAt s p.val).pfD3hot = false) :
    let h := portAt s p.val
    let e := msixEntry h.msix v
    let t := msixUnmask s p.val 0 v
    msixEntry (portAt t p.val).msix v = { e with masked := false } ∧ (∀ i, i ≠ v → msixEntry (portAt t p.val).msix i = msixEntry h.msix i) ∧
      (e.masked = true ∧ v ∈ h.msix.pending → t.out = .msix p.val 0 v e.addr e.data :: s.out ∧
        (portAt t p.val).msix.pending = h.msix.pending.filter (· ≠ v)) ∧
      (¬ (e.masked = true ∧ v ∈ h.msix.pending) → t.out = s.out ∧ (portAt t p.val).msix.pending = h.msix.pending) ∧
      { t with ports := s.ports, out := s.out } = s := by
  intro h e t
  let clear (m : Msix) : Msix := { m with table := tblPut m.table v { e with masked := false } }
  let drop (m : Msix) : Msix := { m with pending := m.pending.filter (· ≠ v) }
  let s1 := modPort s p.val (fun h => { h with msix := clear h.msix })
  let s2 := modPort s p.val (fun h => { h with msix := drop (clear h.msix) })
  have hp1 : portAt s1 p.val = { h with msix := clear h.msix } := (modPort_only p _ hports).1
  have hp2 : portAt s2 p.val = { h with msix := drop (clear h.msix) } := (modPort_only p _ hports).1
  have hentry (i : Nat) : msixEntry (clear h.msix) i = if i = v then { e with masked := false } else msixEntry h.msix i := by
    split
    next hi => simp only [msixEntry, tblGetD, clear, hi, tblGet_put_same, Option.getD_some]
    next hi => simp only [msixEntry, tblGetD, clear, tblGet_put_other _ _ _ _ hi]
  have hsame : msixEntry (clear h.msix) v = { e with masked := false } := by rw [hentry, if_pos rfl]
  have hother (i : Nat) (hi : i ≠ v) : msixEntry (clear h.msix) i = msixEntry h.msix i := by rw [hentry, if_neg hi]
  by_cases hsend : e.masked = true ∧ v ∈ h.msix.pending
  · have hstep : t = emit s2 (.msix p.val 0 v e.addr e.data) := by
      have hcond : ((msixEntry (msixOf s p.val 0) v).masked && (msixOf s p.val 0).pending.contains v) = true := by
        simpa [msixOf, h, e] using hsend
      have hmod : modMsix (modMsix s p.val 0 clear) p.val 0 drop = s2 := modPort_modPort s p.val _ _
      have hgo : msixSend s2 p.val 0 v = emit s2 (.msix p.val 0 v e.addr e.data) := by
        have hm : msixEntry (msixOf s2 p.val 0) v = { e with masked := false } := (congrArg (fun q : HostPort => msixEntry q.msix v) hp2).trans hsame
        have ha : fnAsleep s2 p.val 0 = false := (congrArg HostPort.pfD3hot hp2).trans hawake
        unfold msixSend
        simp only [hm, ha, Bool.or_self, Bool.false_eq_true, if_false, fnCharge, if_true]
      show msixUnmask s p.val 0 v = _
      unfold msixUnmask
      dsimp only
      rw [if_pos hcond]
      exact (congrArg (fun u => msixSend u p.val 0 v) hmod).trans hgo
    have hport : portAt t p.val = { h with msix := drop (clear h.msix) } := by rw [hstep]; exact hp2
    rw [hport]
    exact ⟨hsame, hother, fun _ => ⟨by rw [hstep]; rfl, rfl⟩, fun hno => absurd hsend hno, by rw [hstep]; rfl⟩
  · have hstep : t = s1 := by
      have hcond : ¬ ((msixEntry (msixOf s p.val 0) v).masked && (msixOf s p.val 0).pending.contains v) = true := by
        simpa [msixOf, h, e] using hsend
      show msixUnmask s p.val 0 v = _
      unfold msixUnmask
      dsimp only
      rw [if_neg hcond]
      rfl
    rw [show portAt t p.val = { h with msix := clear h.msix } by rw [hstep]; exact hp1]
    exact ⟨hsame, hother, fun hyes => absurd hyes hsend, fun _ => ⟨by rw [hstep]; rfl, rfl⟩, by rw [hstep]; rfl⟩

/-! #### The reset of a port -/

/-- The registers of a port whose PF is reset. -/
def resetHost (k : PortReset) (ceiling : Nat) (h : HostPort) : HostPort := { h with
  totalVfs := if k = .pfFlr then h.totalVfs else ceiling
  vfEnable := false
  pfD3hot := false
  adm := Adm.init
  haltVector := 0
  haltArmed := none
  msix := Msix.init
  vfs := []
  atsInv := []
  mps := if k = .pfFlr then h.mps else 0
  mrrs := 2
  noAccess := [] }

theorem dgpFreePort_owner (s : State) (p : Fin 8) : ∀ d ∈ (dgpFreePort s p).dgp, d.owner ≠ some (.pf p) := by
  intro d hd
  obtain ⟨x, -, rfl⟩ := List.mem_map.mp hd
  split
  · exact fun h => by cases h
  · assumption

/-- Settles O30: each event is one change of its port, a reset besides one of its instances. -/
theorem functionEvents : Obligations.FunctionEvents := by
  intro s p hrun hports hf
  have hlive := isLive_of_running hrun
  have hmode := notHalted_of_running hrun
  refine ⟨fun mps mrrs => ?_, fun vf hroom => ?_, ?_, fun vf h0 => ?_, fun hheld hasleep hdue hmasked => ?_, fun v hv hawake => ?_,
    fun width speed hw hs1 hs5 => ?_, ?_, fun k => ?_, fun vf i x hen h0 hfind hget hreset hx hhalt => ?_⟩
  · have hexec : exec (.vfEnableSet ⟨p, mps, mrrs⟩) s = cfgWhenLive s p (vfEnable s p.val mps.val mrrs.val) := rfl
    exact does_cfgWhenLive hexec hlive hf (onlyPort_modPort p _ hports)
  · have hexec : exec (.atsInvalidate p vf) s = pfWhenRunning s p (atsInvalidate s p.val vf) := rfl
    refine does_pfWhenRunning hexec hrun hf ?_
    have only := onlyPort_modPort p (fun h => if h.atsInv.length < 32 then { h with atsInv := h.atsInv ++ [⟨vf, s.brt.count⟩] } else h) hports
    rwa [if_pos hroom] at only
  · have hexec : exec (.d3hotTransition p 0 true) s = cfgWhenLive s p (d3Move s p 0 true) := rfl
    refine does_cfgWhenLive hexec hlive hf ?_
    simp only [d3Move, Bool.true_or, if_true]
    exact onlyPort_modPort p _ hports
  · have hexec : exec (.d3hotTransition p vf true) s = cfgWhenLive s p (d3Move s p vf true) := rfl
    refine does_cfgWhenLive hexec hlive hf ?_
    simp only [d3Move, h0, Bool.true_or, if_true, if_false]
    exact onlyPort_modPort p _ hports
  · have hexec : exec (.d3hotTransition p 0 false) s = cfgWhenLive s p (d3Move s p 0 false) := rfl
    refine does_cfgWhenLive hexec hlive hf ?_
    let s1 := modPort s p.val (fun h => { h with pfD3hot := false })
    have hp1 : portAt s1 p.val = { portAt s p.val with pfD3hot := false } := (modPort_only p _ hports).1
    have hports1 : s1.ports.length = 8 := (StateFacts.length_listMod _ _ _).trans hports
    obtain ⟨f, hquiet, hsame⟩ := wake_quiet hports1 (by rw [hp1]; exact hheld) (by rw [hp1]; exact hasleep) (by rw [hp1]; exact hdue)
    have hp2 := (modPort_only p f hports1).1
    rw [hsame, hp1] at hp2
    have hwake : wakeVectors (modPort s1 p.val f) p.val 0 = modPort s1 p.val f := by
      apply wakeVectors_masked
      have hm : msixOf (modPort s1 p.val f) p.val 0 = (portAt s p.val).msix := (congrArg HostPort.msix hp2 :)
      rw [hm]
      exact hmasked
    have hgo : ¬ (false || decide (s.dev.mode = .halted)) = true := by simp [hmode]
    have hstep : d3Move s p 0 false = modPort s1 p.val f := by
      unfold d3Move
      dsimp only
      rw [if_pos rfl, if_neg hgo]
      show wakeVectors (messageIfLast (issueHeld s1 (.adm p)) (.adm p)) p.val 0 = _
      rw [hquiet, hwake]
    have only := onlyPort_modPort p (fun h => f { h with pfD3hot := false }) hports
    have hvalue : f { portAt s p.val with pfD3hot := false } = { portAt s p.val with pfD3hot := false } := by rw [← hp1]; exact hsame
    rw [hstep, modPort_modPort]
    rwa [hvalue] at only
  · have hexec : exec (.msixVectorUnmask p 0 v) s = pfWhenRunning s p (msixUnmask s p.val 0 v) := by
      show pfWhenRunning s p (if v < 2048 then msixUnmask s p.val 0 v else s) = _
      rw [if_pos hv]
    exact does_pfWhenRunning hexec hrun hf (msixUnmask_effect hports hawake)
  · have hexec : exec (.linkUp (.host p) width speed) s = whenLive s (linkUpOp s (.host p) width speed) := rfl
    refine does_whenLive hexec hlive ?_
    have hgo : linkUpOp s (.host p) width speed = modPort s p.val (fun h => { h with width := width, speed := speed }) := by
      simp only [List.mem_cons, List.not_mem_nil, or_false] at hw
      rcases hw with rfl | rfl | rfl | rfl <;> simp [linkUpOp, hf, hs1, hs5]
    rw [hgo]
    exact onlyPort_modPort p _ hports
  · have hexec : exec (.linkDown (.host p)) s = whenLive s (linkDownOp s (.host p)) := rfl
    exact does_whenLive hexec hlive (onlyPort_modPort p _ hports)
  · have hexec : exec (.perstNAssert p k) s = whenLive s (portReset s p k) := rfl
    refine does_whenLive hexec hlive ?_
    have hframe : ∃ insts w, portReset s p k = { dgpFreePort (resetPort s p k) p with insts := insts, waiting := w } ∧
        (s.dev.halting = false → s.brt.exhale = false → ∀ i x, tblGet s.insts i = some x → x.port = p → x.reset = none →
          ∃ y, tblGet insts i = some y ∧ Reset s x y) := by
      unfold portReset
      rw [if_neg (by simp [hf])]
      dsimp only
      split
      next hstop =>
        refine ⟨_, _, rfl, fun hh => ?_⟩
        simp [hmode, hh] at hstop
      next =>
        by_cases hx : s.brt.exhale = true
        · obtain ⟨insts, w, h⟩ := requestResets_frame (portInsts (dgpFreePort (resetPort s p k) p) p) (dgpFreePort (resetPort s p k) p)
          exact ⟨insts, w, h, fun _ hno => absurd (hno.symm.trans hx) (by simp)⟩
        · obtain ⟨insts, w, h, -, hreset⟩ := requestResets_effect (portInsts (dgpFreePort (resetPort s p k) p) p) (dgpFreePort (resetPort s p k) p)
            (Bool.not_eq_true _ ▸ hx)
          exact ⟨insts, w, h, fun _ _ i x hi hp hr => hreset i x hi hr (mem_portInsts (s := dgpFreePort (resetPort s p k) p) hi hp)⟩
    obtain ⟨insts, w, hstep, hinsts⟩ := hframe
    obtain ⟨hport, hothers, -⟩ := modPort_only p (resetHost k (chartCeiling s p.val)) hports
    have hport' : portAt (portReset s p k) p.val = resetHost k (chartCeiling s p.val) (portAt s p.val) := by
      rw [hstep]
      exact hport
    rw [hport']
    exact ⟨rfl, rfl, rfl, rfl, rfl, rfl, rfl, rfl, rfl, rfl, fun q hq => by rw [hstep]; exact hothers q hq,
      fun d hd => by rw [hstep] at hd; exact dgpFreePort_owner (resetPort s p k) p d hd, by rw [hstep]; rfl,
      fun hh hx i x hi hp hr => by rw [hstep]; exact hinsts hh hx i x hi hp hr⟩
  · constructor
    · have hexec : exec (.vfFlr p vf) s = whenLive s (vfFlr s p vf) := rfl
      refine does_whenLive hexec hlive ?_
      let s1 := modPort s p.val (fun h => { h with vfs := tblDel h.vfs vf, noAccess := h.noAccess.filter (fun e => e.1 ≠ vf) })
      have hp1 : portAt s1 p.val = _ := (modPort_only p _ hports).1
      have hstep : vfFlr s p vf = requestReset s1 i [] := by
        have hfind1 : instOf s1 p.val vf = some (i, x) := hfind
        unfold vfFlr
        rw [if_neg (by simp [hen, h0])]
        dsimp only
        rw [hfind1]
        dsimp only
        rw [if_neg (by simp [hhalt, hmode])]
      obtain ⟨insts, w, heffect, -, hreset'⟩ := requestReset_effect s1 i hx
      rw [hstep, heffect]
      exact ⟨(congrArg (fun h : HostPort => tblGet h.vfs vf) hp1).trans (tblGet_del_same _ _), (hreset' x hget).1 hreset⟩
    · have hexec : exec (.vfResetRequest p vf) s = execVfResetRequest p vf s := rfl
      have hinst : vfInst s p vf = some (i, x) := by simp [vfInst, hen, h0, hfind]
      obtain ⟨insts, w, heffect, -, hreset'⟩ := requestReset_effect s i hx
      refine does_whenRunning (t := requestReset s i []) ?_ hrun ?_
      · rw [hexec, execVfResetRequest, hinst]
        dsimp only
        rw [if_neg (by simp [hhalt])]
      · rw [heffect]
        exact (hreset' x hget).1 hreset

end Sys2Proof.FunctionRows

/-! ### Doorbells and queue control (R59, R78, R81, R82, R467) -/

namespace Sys2Proof.QueueRows

open Sys2Proof Sys2Proof.Machine Sys2Proof.Safety Sys2Proof.Rows Sys2Proof.Laws Sys2Proof.StateFacts Sys2Proof.RingWrites Sys2Proof.LadderRows
open Sys2Proof.HaltRows Sys2Proof.WriteRows

/-! #### One queue of an instance -/

theorem doorbellQueue_eq {s : State} {p : Fin 8} {vf i q : Nat} {x : Inst} {qp : Qp} (h : HasQueue s p vf i q x qp) :
    doorbellQueue s p vf q = some (i, x, qp) := by
  obtain ⟨hvf, hnot0, hinst, -, hstate, hqueue⟩ := h
  have hv : vfInst s p vf = some (i, x) := by simp [vfInst, hvf, hnot0, hinst]
  simp [doorbellQueue, hv, hstate, hqueue]

theorem tailLimit_eq (x : Inst) (q : Nat) (qp : Qp) : tailLimit x q qp = sqSize x q qp := by simp [tailLimit, sqSize]

theorem headLimit_eq (x : Inst) (q : Nat) (qp : Qp) : headLimit x q qp = cqSize x q qp := by simp [headLimit, cqSize]

theorem onlyQueue_modRing {s : State} {i q : Nat} {x : Inst} {qp : Qp} (f : Qp → Qp) (hx : tblGet s.insts i = some x) (hq : tblGet x.queues q = some qp) :
    OnlyQueue s (modRing s (.inst i q) f) i x q (f qp) :=
  let only := onlyInst_modInst (fun y => { y with queues := tblMod y.queues q f }) hx
  ⟨⟨_, only.1, (tblGet_mod_same _ _ _).trans (congrArg (Option.map f) hq), fun _ hk => tblGet_mod_other _ _ _ _ hk⟩, only.2, only.3⟩

theorem onlyInst_instError {s : State} {i : Nat} {x : Inst} (cause : Nat) (hx : tblGet s.insts i = some x) :
    OnlyInst s (instError s i cause) i (erred x cause) := onlyInst_modInst _ hx

/-- What the doorbells and the control of a work queue do, by the queue found. -/
theorem queue_steps {s : State} {p : Fin 8} {vf i q : Nat} {x : Inst} {qp : Qp} (h : HasQueue s p vf i q x qp) :
    (∀ v, sqTail s p vf q v = if sqSize x q qp ≤ v then instError s i 2 else modRing s (.inst i q) (putTail v)) ∧
    (∀ v, cqHead s p vf q v = if cqSize x q qp ≤ v then instError s i 2 else if qp.wr < freedTo (cqSize x q qp) v qp then instError s i 3
      else modRing s (.inst i q) (putHead (cqSize x q qp) v)) ∧
    queueEnableOp s p vf q = (if qp.enable || (q = 0 && !q0CfgOk x) then s else modRing s (.inst i q) (enableQueue x q)) ∧
    queueDisableOp s p vf q = modRing s (.inst i q) (fun qp => { qp with enable := false }) := by
  simp only [sqTail, cqHead, queueEnableOp, queueDisableOp, doorbellQueue_eq h, tailLimit_eq, headLimit_eq]
  exact ⟨fun _ => rfl, fun _ => rfl, trivial, trivial⟩

theorem q0CfgOk_iff (x : Inst) : q0CfgOk x = true ↔ x.q0SqBase.toNat % 4096 = 0 ∧ x.q0CqBase.toNat % 4096 = 0 ∧ 6 ≤ x.q0SqLog2 ∧ x.q0SqLog2 ≤ 16 ∧
    6 ≤ x.q0CqLog2 ∧ x.q0CqLog2 ≤ 16 := by
  simp [q0CfgOk, baseOk, log2Ok, and_assoc]

theorem admCfgOk_iff (a : Adm) : admCfgOk a = true ↔ a.sqBase.toNat % 4096 = 0 ∧ a.cqBase.toNat % 4096 = 0 ∧ 6 ≤ a.sqLog2 ∧ a.sqLog2 ≤ 12 ∧
    6 ≤ a.cqLog2 ∧ a.cqLog2 ≤ 12 := by
  simp [admCfgOk, baseOk, log2Ok, and_assoc]

theorem enableQueue_work (x : Inst) {q : Nat} (qp : Qp) (h : q ≠ 0) : enableQueue x q qp = { qp with enable := true } := if_neg h

theorem queueRows {s : State} {p : Fin 8} {vf i q : Nat} {x : Inst} {qp : Qp} (v : BitVec 16) (hrun : isRunning s = true)
    (h : HasQueue s p vf i q x qp) :
    (v.toNat < sqSize x q qp → Does (.sqTailDoorbell p vf q v) s (fun t => OnlyQueue s t i x q { qp with tail := v.toNat, shortTail := none })) ∧
    (sqSize x q qp ≤ v.toNat → Does (.sqTailDoorbell p vf q v) s (fun t => OnlyInst s t i (erred x 2))) ∧
    (v.toNat < cqSize x q qp →
      (freedTo (cqSize x q qp) v.toNat qp ≤ qp.wr →
        Does (.cqHeadDoorbell p vf q v) s (fun t => OnlyQueue s t i x q (putHead (cqSize x q qp) v.toNat qp))) ∧
      (qp.wr < freedTo (cqSize x q qp) v.toNat qp → Does (.cqHeadDoorbell p vf q v) s (fun t => OnlyInst s t i (erred x 3)))) ∧
    (cqSize x q qp ≤ v.toNat → Does (.cqHeadDoorbell p vf q v) s (fun t => OnlyInst s t i (erred x 2))) ∧
    (qp.enable = false → q0CfgOk x = true ∨ q ≠ 0 → Does (.queueEnable p vf q) s (fun t => OnlyQueue s t i x q (enableQueue x q qp))) ∧
    (q = 0 → q0CfgOk x = false → exec (.queueEnable p vf q) s = .next s) ∧
    Does (.queueDisable p vf q) s (fun t => OnlyQueue s t i x q { qp with enable := false }) := by
  have hx : tblGet s.insts i = some x := h.2.2.2.1
  have hq : tblGet x.queues q = some qp := h.2.2.2.2.2
  obtain ⟨htail, hhead, henable, hdisable⟩ := queue_steps h
  have etail : exec (.sqTailDoorbell p vf q v) s = whenRunning s (sqTail s p vf q v.toNat) := rfl
  have ehead : exec (.cqHeadDoorbell p vf q v) s = whenRunning s (cqHead s p vf q v.toNat) := rfl
  have eenable : exec (.queueEnable p vf q) s = whenRunning s (queueEnableOp s p vf q) := rfl
  have edisable : exec (.queueDisable p vf q) s = whenRunning s (queueDisableOp s p vf q) := rfl
  rw [htail] at etail
  rw [hhead] at ehead
  rw [henable] at eenable
  rw [hdisable] at edisable
  refine ⟨fun hv => ?_, fun hv => ?_, fun hv => ⟨fun hn => ?_, fun hn => ?_⟩, fun hv => ?_, fun he hgood => ?_, fun h0 hbad => ?_, ?_⟩
  · rw [if_neg (Nat.not_le.mpr hv)] at etail
    exact does_whenRunning etail hrun (onlyQueue_modRing _ hx hq)
  · rw [if_pos hv] at etail
    exact does_whenRunning etail hrun (onlyInst_instError 2 hx)
  · rw [if_neg (Nat.not_le.mpr hv), if_neg (Nat.not_lt.mpr hn)] at ehead
    exact does_whenRunning ehead hrun (onlyQueue_modRing _ hx hq)
  · rw [if_neg (Nat.not_le.mpr hv), if_pos hn] at ehead
    exact does_whenRunning ehead hrun (onlyInst_instError 3 hx)
  · rw [if_pos hv] at ehead
    exact does_whenRunning ehead hrun (onlyInst_instError 2 hx)
  · have hnot : ¬ (qp.enable || (decide (q = 0) && !q0CfgOk x)) = true := by
      rcases hgood with hg | hg <;> simp [he, hg]
    rw [if_neg hnot] at eenable
    exact does_whenRunning eenable hrun (onlyQueue_modRing _ hx hq)
  · rw [eenable, if_pos (by simp [h0, hbad]), whenRunning, hrun, if_pos rfl]
  · exact does_whenRunning edisable hrun (onlyQueue_modRing _ hx hq)

/-! #### The admin queue -/

theorem onlyPort_modAdm {s : State} (p : Fin 8) (f : Adm → Adm) (h : s.ports.length = 8) :
    OnlyPort s (modAdm s p.val f) p { portAt s p.val with adm := f (portAt s p.val).adm } := onlyPort_modPort p _ h

theorem onlyPort_admError {s : State} (p : Fin 8) (cause : Nat) (h : s.ports.length = 8) :
    OnlyPort s (admError s p.val cause) p (admErred (portAt s p.val) cause) := onlyPort_modPort p _ h

theorem admRows {s : State} {p : Fin 8} (v : BitVec 32) (hrun : isRunning s = true) (hports : s.ports.length = 8)
    (hf : (portAt s p.val).formed = true) :
    let a := (portAt s p.val).adm
    let sq := 2 ^ (if a.qp.enable then a.qp.sqLog2 else a.sqLog2)
    let cq := 2 ^ (if a.qp.enable then a.qp.cqLog2 else a.cqLog2)
    let w := v.toNat % 2 ^ 16
    (w < sq → Does (.admSqTailWrite p v) s (fun t => OnlyPort s t p { portAt s p.val with adm := { a with qp := putTail w a.qp } })) ∧
    (sq ≤ w → Does (.admSqTailWrite p v) s (fun t => OnlyPort s t p (admErred (portAt s p.val) 2))) ∧
    (w < cq → freedTo cq w a.qp ≤ a.qp.wr →
      Does (.admCqHeadWrite p v) s (fun t => OnlyPort s t p { portAt s p.val with adm := { a with qp := putHead cq w a.qp } })) ∧
    (w < cq → a.qp.wr < freedTo cq w a.qp → Does (.admCqHeadWrite p v) s (fun t => OnlyPort s t p (admErred (portAt s p.val) 3))) ∧
    (cq ≤ w → Does (.admCqHeadWrite p v) s (fun t => OnlyPort s t p (admErred (portAt s p.val) 2))) := by
  intro a sq cq w
  have hw : bitsOf v.toNat 15 0 = w := by simp [bitsOf, w]
  have etail : exec (.admSqTailWrite p v) s = pfWhenRunning s p (admTail s p.val (bitsOf v.toNat 15 0)) := rfl
  have ehead : exec (.admCqHeadWrite p v) s = pfWhenRunning s p (admHead s p.val (bitsOf v.toNat 15 0)) := rfl
  have htail : admTail s p.val w = if sq ≤ w then admError s p.val 2 else modAdm s p.val (fun a => { a with qp := putTail w a.qp }) := rfl
  have hhead : admHead s p.val w = if cq ≤ w then admError s p.val 2 else if a.qp.wr < freedTo cq w a.qp then admError s p.val 3
      else modAdm s p.val (fun a => { a with qp := putHead cq w a.qp }) := rfl
  rw [hw, htail] at etail
  rw [hw, hhead] at ehead
  refine ⟨fun hv => ?_, fun hv => ?_, fun hv hn => ?_, fun hv hn => ?_, fun hv => ?_⟩
  · rw [if_neg (Nat.not_le.mpr hv)] at etail
    exact does_pfWhenRunning etail hrun hf (onlyPort_modAdm p _ hports)
  · rw [if_pos hv] at etail
    exact does_pfWhenRunning etail hrun hf (onlyPort_admError p 2 hports)
  · rw [if_neg (Nat.not_le.mpr hv), if_neg (Nat.not_lt.mpr hn)] at ehead
    exact does_pfWhenRunning ehead hrun hf (onlyPort_modAdm p _ hports)
  · rw [if_neg (Nat.not_le.mpr hv), if_pos hn] at ehead
    exact does_pfWhenRunning ehead hrun hf (onlyPort_admError p 3 hports)
  · rw [if_pos hv] at ehead
    exact does_pfWhenRunning ehead hrun hf (onlyPort_admError p 2 hports)

/-- ENABLE written 1, ENABLE written 0 and the error cleared: the port's admin queue changes by the model's function alone. -/
theorem admControl {s : State} {p : Fin 8} (hrun : isRunning s = true) (hports : s.ports.length = 8) (hf : (portAt s p.val).formed = true) :
    Does (.adminEnable p) s (fun t => OnlyPort s t p { portAt s p.val with adm := admEnable (portAt s p.val).adm }) ∧
    Does (.adminDisable p) s (fun t => OnlyPort s t p { portAt s p.val with adm := admDisable (portAt s p.val).adm }) ∧
    Does (.adminErrorClear p) s (fun t => OnlyPort s t p { portAt s p.val with adm := admErrorClear (portAt s p.val).adm }) := by
  have eenable : exec (.adminEnable p) s = pfWhenRunning s p (modAdm s p.val admEnable) := rfl
  have edisable : exec (.adminDisable p) s = pfWhenRunning s p (modAdm s p.val admDisable) := rfl
  have eclear : exec (.adminErrorClear p) s = pfWhenRunning s p (modAdm s p.val admErrorClear) := rfl
  exact ⟨does_pfWhenRunning eenable hrun hf (onlyPort_modAdm p _ hports), does_pfWhenRunning edisable hrun hf (onlyPort_modAdm p _ hports),
    does_pfWhenRunning eclear hrun hf (onlyPort_modAdm p _ hports)⟩

/-- Settles O31: each doorbell and each control finds its queue, and changes that queue or its owner alone. -/
theorem queueRegisters : Obligations.QueueRegisters := by
  unfold Obligations.QueueRegisters
  intro s p hrun hports
  refine ⟨fun vf i q x qp v hq => ?_, fun hf => ?_⟩
  · obtain ⟨h1, h2, h3, h4, h5, h6, h7⟩ := queueRows v hrun hq
    refine ⟨h1, h2, h3, h4, fun he hne => ?_, fun he h0 => ⟨fun hgood => ?_, fun hbad => ?_⟩, h7⟩
    · rw [← enableQueue_work x qp hne]
      exact h5 he (.inr hne)
    · subst h0
      exact h5 he (.inl ((q0CfgOk_iff x).mpr hgood))
    · exact h6 h0 (Bool.eq_false_iff.mpr fun h => hbad ((q0CfgOk_iff x).mp h))
  · obtain ⟨henable, hdisable, hclear⟩ := admControl hrun hports hf
    refine ⟨fun he herr hgood => ⟨?_, rfl⟩, fun he herr hbad => ?_, hdisable, fun herr he hout => ?_, fun v => admRows v hrun hports hf⟩
    · have hstart : admEnable (portAt s p.val).adm = { (portAt s p.val).adm with qp := admStart (portAt s p.val).adm, cfgErr := false } := by
        simp [admEnable, he, herr, (admCfgOk_iff _).mpr hgood]
      rw [hstart] at henable
      exact henable
    · have hno : admCfgOk (portAt s p.val).adm = false := Bool.eq_false_iff.mpr fun h => hbad ((admCfgOk_iff _).mp h)
      have hstart : admEnable (portAt s p.val).adm = { (portAt s p.val).adm with cfgErr := true } := by simp [admEnable, he, herr, hno]
      rw [hstart] at henable
      exact henable
    · have hcleared : admErrorClear (portAt s p.val).adm = { (portAt s p.val).adm with error := false, errCause := 0 } := by
        simp [admErrorClear, he, herr, hout]
      rw [hcleared] at hclear
      exact hclear

end Sys2Proof.QueueRows

/-! ### Fetching submissions (R64, R71, R78, R84, R89) -/

namespace Sys2Proof.FetchRows

open Sys2Proof Sys2Proof.Machine Sys2Proof.Safety Sys2Proof.Rows Sys2Proof.Laws Sys2Proof.StateFacts Sys2Proof.RingWrites Sys2Proof.LadderRows
open Sys2Proof.HaltRows Sys2Proof.WriteRows Sys2Proof.QueueRows

/-! #### The read requests of a fetch -/

theorem readBursts_dmaCuts (p fn m : Nat) (hm : 1 ≤ m) (fuel a n : Nat) (h : n ≤ fuel) :
    ReadBursts p fn m a n ((dmaCuts m fuel a n).map (fun e => .dmaRead p fn e.1 e.2)) := by
  induction fuel generalizing a n with
  | zero => exact Nat.le_zero.mp h
  | succ fuel ih =>
    unfold dmaCuts
    split
    next hz => exact hz
    next hz =>
      have hpage := Nat.mod_lt a (show 4096 > 0 by decide)
      simp only [List.map_cons, ReadBursts]
      generalize hk : min n (min m (4096 - a % 4096)) = k
      exact ⟨k, by omega, by omega, by omega, by omega, rfl, ih (a + k) (n - k) (by omega)⟩

theorem readBursts_dmaReads (s : State) (p fn a n : Nat) : ReadBursts p fn (128 * 2 ^ (portAt s p).mrrs) a n (dmaReads s p fn a n) :=
  readBursts_dmaCuts p fn _ (Nat.mul_pos (by decide) (Nat.pow_pos (by decide))) n a n (Nat.le_refl _)

theorem slotReads_emitted {s t : State} {g : Ring} {qp : Qp} {n p fn : Nat} (hfn : ringFn s g = (p, fn))
    (h : t.out = (slotReads s g qp n).reverse ++ s.out) : SlotReads s t p fn qp n := by
  refine ⟨dmaReads s p fn (qp.sqBase.toNat + 64 * qp.head) (64 * min n (2 ^ qp.sqLog2 - qp.head)),
    dmaReads s p fn qp.sqBase.toNat (64 * (n - min n (2 ^ qp.sqLog2 - qp.head))), ?_, readBursts_dmaReads _ _ _ _ _, readBursts_dmaReads _ _ _ _ _⟩
  rw [h]
  simp only [slotReads, hfn]

/-! #### Charging and consuming -/

/-- An instance whose queue consumed an entry of `n` slots. -/
def fetched (s : State) (x : Inst) (q : Nat) (qp : Qp) (n : Nat) : Inst :=
  { charged s x (64 * n) with
    queues := tblMod x.queues q (fun _ => headMoved qp n)
    lastQueue := q }

theorem tblMod_known {α : Type} {t : Tbl α} {k : Nat} {v : α} (f : α → α) (h : tblGet t k = some v) : tblMod t k f = tblMod t k (fun _ => f v) := by
  induction t with
  | nil => rfl
  | cons e rest ih =>
    obtain ⟨j, w⟩ := e
    by_cases hj : j = k
    · have hw : w = v := by simpa [tblGet, hj] using h
      simp only [tblMod, hj, if_true, hw]
    · simp only [tblGet, hj, if_false] at h
      simp only [tblMod, hj, if_false, ih h]

theorem tblMod_self {α : Type} (t : Tbl α) (k : Nat) : tblMod t k (fun x => x) = t := by
  induction t with
  | nil => rfl
  | cons e rest ih => simp only [tblMod, ih, ite_self]

theorem bucketCharge_eq (s : State) (i n : Nat) : bucketCharge s i n = modInst s i (fun x => charged s x n) := by
  unfold bucketCharge charged
  by_cases hb : bucketMode s = true
  · simp only [hb, if_true, bucketUnit]
  · simp only [hb, Bool.false_eq_true, if_false, modInst, tblMod_self]

/-- The fields of an instance that a charge leaves. -/
theorem charged_fields (s : State) (x : Inst) (n : Nat) : (charged s x n).queues = x.queues ∧ (charged s x n).ctl = x.ctl := by
  unfold charged
  split <;> exact ⟨rfl, rfl⟩

theorem consume_inst {s : State} {i q : Nat} {x : Inst} {qp : Qp} (n : Nat) (hx : tblGet s.insts i = some x) (hq : tblGet x.queues q = some qp) :
    consume s (.inst i q) n = modInst s i (fun _ => fetched s x q qp n) := by
  simp only [consume, ringCharge, modRing, bucketCharge_eq, modInst_modInst]
  refine congrArg (fun t => { s with insts := t }) ((tblMod_known _ hx).trans ?_)
  have hqueues := tblMod_known (fun q : Qp => { q with head := (q.head + n) % 2 ^ q.sqLog2, out := q.out + 1 }) hq
  simp only [(charged_fields s x (64 * n)).1, hqueues]
  rfl

/-! #### Command entries -/

theorem settleAdmAll_known {s : State} {p : Fin 8} (h : ∀ c ∈ (portAt s p.val).adm.q.cmds.head?, 1 ≤ c.opcode ∧ c.opcode ≤ 0xB) :
    settleAdmAll s p = s := by
  unfold settleAdmAll settleAdm admFront
  cases hc : (portAt s p.val).adm.q.cmds.head? with
  | none => rfl
  | some c => simp [admKnown, h c hc]

theorem settleCtlAll_known {s : State} {i : Nat} {x : Inst} (hx : tblGet s.insts i = some x)
    (h : ∀ c ∈ x.ctl.cmds.head?, 0x81 ≤ c.opcode ∧ c.opcode ≤ 0x8A) : settleCtlAll s i = s := by
  unfold settleCtlAll
  simp only [hx]
  unfold settleCtl ctlFront
  simp only [hx, Option.bind_some]
  cases hc : x.ctl.cmds.head? with
  | none => rfl
  | some c => simp [ctlKnown, h c hc]

/-- Where a ring may be fetched, the entry is fetched behind its read requests. -/
theorem submissionFetch_eq {s : State} {g : Ring} {qp : Qp} (bs : Bytes) (hfetch : fetchable s g = true) (hturn : ringTurn s g = true)
    (hallows : ringAllows s g 64 = true) (hq : ringQp s g = some qp) :
    submissionFetch s g bs = fetchEntry (emitAll s (slotReads s g qp (bs.length / 64))) g bs := by
  simp [submissionFetch, hfetch, hturn, hallows, hq]

theorem adminFetch {s : State} {p : Fin 8} {bs : Bytes} (hrun : isRunning s = true) (hports : s.ports.length = 8)
    (hfetch : fetchable s (.adm p) = true) (hlen : bs.length = 64)
    (hknown : ∀ c ∈ ((portAt s p.val).adm.q.cmds ++ [entryCmd bs 0 s.brt.count]).head?, 1 ≤ c.opcode ∧ c.opcode ≤ 0xB) :
    Does (.submissionFetch (.adm p) bs) s (fun t => SlotReads s t p.val 0 (portAt s p.val).adm.qp 1 ∧
      OnlyPort { s with out := t.out } t p { portAt s p.val with adm := { (portAt s p.val).adm with
        qp := headMoved (portAt s p.val).adm.qp 1
        q := { (portAt s p.val).adm.q with cmds := (portAt s p.val).adm.q.cmds ++ [entryCmd bs 0 s.brt.count] } } }) := by
  let moved (h : HostPort) : HostPort := { h with adm := { h.adm with
    qp := headMoved h.adm.qp 1
    q := pushCmd (cmdOf bs 0 s.brt.count) h.adm.q } }
  let s1 := emitAll s (slotReads s (.adm p) (portAt s p.val).adm.qp (bs.length / 64))
  have only : OnlyPort s1 (modPort s1 p.val moved) p (moved (portAt s p.val)) := onlyPort_modPort (s := s1) p _ hports
  have hmoved : modAdmQ (consume s1 (.adm p) 1) p.val (pushCmd (cmdOf bs 0 s.brt.count)) = modPort s1 p.val moved := modPort_modPort s1 _ _ _
  have hstep : submissionFetch s (.adm p) bs = modPort s1 p.val moved := by
    rw [submissionFetch_eq bs hfetch rfl rfl rfl]
    change fetchAdmin s1 p bs = _
    rw [fetchAdmin, if_neg (not_not_intro hlen), show s1.brt = s.brt from rfl, hmoved]
    exact settleAdmAll_known (by rw [only.1]; exact hknown)
  have hexec : exec (.submissionFetch (.adm p) bs) s = whenRunning s (submissionFetch s (.adm p) bs) := rfl
  refine does_whenRunning hexec hrun ?_
  rw [hstep]
  exact ⟨slotReads_emitted (g := .adm p) rfl (by rw [← show bs.length / 64 = 1 by omega]; rfl), only.1, only.2, only.3⟩

section
variable {s : State} {i q : Nat} {x : Inst} {qp : Qp} {bs : Bytes}

theorem fetch_inst (h : MayFetch s i q x qp) : submissionFetch s (.inst i q) bs =
    if q = 0 then fetchControl (emitAll s (slotReads s (.inst i q) qp (bs.length / 64))) i x.gen bs
    else fetchWork (emitAll s (slotReads s (.inst i q) qp (bs.length / 64))) i q x.gen qp bs := by
  obtain ⟨-, hx, hq, hfetch, hturn, hallows⟩ := h
  have hring : ringQp s (.inst i q) = some qp := by simp [ringQp, hx, hq]
  rw [submissionFetch_eq bs hfetch hturn hallows hring]
  generalize hs1 : emitAll s (slotReads s (.inst i q) qp (bs.length / 64)) = s1
  have hx1 : tblGet s1.insts i = some x := hs1 ▸ hx
  have hring1 : ringQp s1 (.inst i q) = some qp := hs1 ▸ hring
  simp [fetchEntry, hx1, hring1]

theorem exec_fetch (h : MayFetch s i q x qp) {t : State} {P : State → Prop} (hstep : submissionFetch s (.inst i q) bs = t) (ht : P t) :
    Does (.submissionFetch (.inst i q) bs) s P :=
  does_whenRunning (hstep ▸ rfl) h.1 ht

theorem slotReads_inst (h : MayFetch s i q x qp) {t : State} {n : Nat} (hlen : bs.length = 64 * n)
    (hout : t.out = (emitAll s (slotReads s (.inst i q) qp (bs.length / 64))).out) : SlotReads s t x.port.val x.vf qp n := by
  have hfn : ringFn s (.inst i q) = (x.port.val, x.vf) := by simp [ringFn, h.2.1]
  refine slotReads_emitted hfn (hout.trans ?_)
  rw [show bs.length / 64 = n by omega]
  rfl

theorem controlFetch (h : MayFetch s i 0 x qp) (hlen : bs.length = 64)
    (hknown : ∀ c ∈ (x.ctl.cmds ++ [entryCmd bs x.gen s.brt.count]).head?, 0x81 ≤ c.opcode ∧ c.opcode ≤ 0x8A) :
    Does (.submissionFetch (.inst i 0) bs) s (fun t => SlotReads s t x.port.val x.vf qp 1 ∧ OnlyInst { s with out := t.out } t i { charged s x 64 with
      queues := tblMod x.queues 0 (fun _ => headMoved qp 1)
      lastQueue := 0
      ctl := { x.ctl with cmds := x.ctl.cmds ++ [entryCmd bs x.gen s.brt.count] } }) := by
  let s1 := emitAll s (slotReads s (.inst i 0) qp (bs.length / 64))
  let y : Inst := fetched s x 0 qp 1
  let f (z : Inst) : Inst := { z with ctl := pushCmd (cmdOf bs x.gen s.brt.count) z.ctl }
  have hctl : y.ctl = x.ctl := (charged_fields s x 64).2
  have only : OnlyInst s1 (modInst s1 i (fun _ => f y)) i (f y) := onlyInst_modInst (s := s1) _ h.2.1
  have hfy : f y = { y with ctl := { x.ctl with cmds := x.ctl.cmds ++ [entryCmd bs x.gen s.brt.count] } } := by
    simp only [f, hctl]
    rfl
  have hstep : submissionFetch s (.inst i 0) bs = modInst s1 i (fun _ => f y) := by
    rw [fetch_inst h, if_pos rfl]
    change fetchControl s1 i x.gen bs = _
    have hmoved : modCtlQ (consume s1 (.inst i 0) 1) i (pushCmd (cmdOf bs x.gen s.brt.count)) = modInst s1 i (fun _ => f y) := by
      rw [consume_inst (s := s1) 1 h.2.1 h.2.2.1]
      exact modInst_modInst s1 i _ _
    rw [fetchControl, if_neg (not_not_intro hlen), show s1.brt = s.brt from rfl, hmoved]
    exact settleCtlAll_known only.1 (by rw [hfy]; exact hknown)
  refine exec_fetch h hstep ⟨slotReads_inst h hlen rfl, ?_⟩
  rw [hfy] at only ⊢
  exact ⟨only.1, only.2, only.3⟩

/-! #### Entries of a work queue -/

theorem framingFetch (h : MayFetch s i q x qp) (h0 : q ≠ 0) (hwait : s.plc.pageWait = none) (hlen : 64 ≤ bs.length)
    (hn : byteAt bs 4 = 0 ∨ 16 < byteAt bs 4) :
    Does (.submissionFetch (.inst i q) bs) s (fun t => OnlyInst { s with out := t.out } t i (erred (charged s x 64) 1)) := by
  let s1 := emitAll s (slotReads s (.inst i q) qp (bs.length / 64))
  have hstep : submissionFetch s (.inst i q) bs = instError (bucketCharge s1 i 64) i 1 := by
    rw [fetch_inst h, if_neg h0]
    change fetchWork s1 i q x.gen qp bs = _
    have hwait1 : s1.plc.pageWait = none := hwait
    rw [fetchWork, if_neg (by simp [hwait1, hlen]), if_pos (by simpa using hn)]
    rfl
  refine exec_fetch h hstep ?_
  rw [bucketCharge_eq, instError, modInst_modInst]
  have only := onlyInst_modInst (s := s1) (fun z => erred (charged s1 z 64) 1) h.2.1
  exact ⟨only.1, only.2, only.3⟩

theorem shortFetch (h : MayFetch s i q x qp) (h0 : q ≠ 0) (hwait : s.plc.pageWait = none) (hlen : 64 ≤ bs.length)
    (hlo : 1 ≤ byteAt bs 4) (hhi : byteAt bs 4 ≤ 16) (hleft : entriesLeft qp < byteAt bs 4) :
    Does (.submissionFetch (.inst i q) bs) s (fun t => OnlyInst { s with out := t.out } t i
      { charged s x 64 with queues := tblMod x.queues q (fun _ => { qp with shortTail := some qp.tail }) }) := by
  let s1 := emitAll s (slotReads s (.inst i q) qp (bs.length / 64))
  have hstep : submissionFetch s (.inst i q) bs =
      modInst s1 i (fun z => { charged s z 64 with queues := tblMod (charged s z 64).queues q (fun q => { q with shortTail := some q.tail }) }) := by
    rw [fetch_inst h, if_neg h0]
    change fetchWork s1 i q x.gen qp bs = _
    have hwait1 : s1.plc.pageWait = none := hwait
    have hframe : ¬ (byteAt bs 4 = 0 ∨ 16 < byteAt bs 4) := by omega
    rw [fetchWork, if_neg (by simp [hwait1, hlen]), if_neg (by simpa using hframe), if_pos hleft, bucketCharge_eq, modRing, modInst_modInst]
    rfl
  refine exec_fetch h hstep ?_
  have only := onlyInst_modInst (s := s1)
    (fun z => { charged s z 64 with queues := tblMod (charged s z 64).queues q (fun q => { q with shortTail := some q.tail }) }) h.2.1
  rw [(charged_fields s x 64).1, tblMod_known _ h.2.2.1] at only
  exact ⟨only.1, only.2, only.3⟩

theorem wholeFetch (h : MayFetch s i q x qp) (h0 : q ≠ 0) (hwait : s.plc.pageWait = none) (hlo : 1 ≤ byteAt bs 4) (hhi : byteAt bs 4 ≤ 16)
    (hleft : byteAt bs 4 ≤ entriesLeft qp) (hlen : bs.length = 64 * byteAt bs 4) (hallows : bucketAllows s i (64 * byteAt bs 4) = true) :
    submissionFetch s (.inst i q) bs = bindEpoch (takeWork (modInst (emitAll s (slotReads s (.inst i q) qp (bs.length / 64))) i
      (fun _ => fetched s x q qp (byteAt bs 4))) i q x.gen bs) s.nextJob := by
  rw [fetch_inst h, if_neg h0]
  generalize hs1 : emitAll s (slotReads s (.inst i q) qp (bs.length / 64)) = s1
  have hx1 : tblGet s1.insts i = some x := hs1 ▸ h.2.1
  have hwait1 : s1.plc.pageWait = none := hs1 ▸ hwait
  have hfetched : fetched s1 x q qp (byteAt bs 4) = fetched s x q qp (byteAt bs 4) := hs1 ▸ rfl
  have hallows1 : bucketAllows s1 i (64 * byteAt bs 4) = true := hs1 ▸ hallows
  have hframe : ¬ (byteAt bs 4 = 0 ∨ 16 < byteAt bs 4) := by omega
  have hnext : s1.nextJob = s.nextJob := hs1 ▸ rfl
  rw [fetchWork, if_neg (by simp [hwait1]; omega), if_neg (by simpa using hframe), if_neg (Nat.not_lt.mpr hleft),
    if_neg (by simp [hlen, hallows1]), consume_inst _ hx1 h.2.2.1, hfetched, hnext]

end

theorem takeWork_job {s : State} {i q gen : Nat} {bs : Bytes} {k : JobKind} (hd : workDefect s i q bs = none) (hk : jobKindOf (le bs 0 2) = some k) :
    takeWork s i q gen bs = { s with
      jobs := tblPut s.jobs s.nextJob { newJob i q (BitVec.ofNat 16 (le bs 2 2)) gen k (bs.take 64) s.brt.count with
        gather := gatherOf bs (le bs 6 2)
        stage := if gatherOf bs (le bs 6 2) = [] then .ready else .reading }
      nextJob := s.nextJob + 1 } := by
  simp only [takeWork, hd, hk, addJob]

theorem takeWork_rejected {s : State} {i q gen : Nat} {bs : Bytes} {st : Status} (hd : workDefect s i q bs = some st) :
    takeWork s i q gen bs = { s with waiting := s.waiting ++ [bareDue s i q (BitVec.ofNat 16 (le bs 2 2)) st gen s.brt.count] } := by
  simp only [takeWork, hd, Option.getD_some, addWaiting]
  rfl

theorem bindEpoch_noJob {s : State} {k : Nat} (h : tblGet s.jobs k = none) : bindEpoch s k = s := by simp only [bindEpoch, h]

theorem bindEpoch_noStream {s : State} {k : Nat} {j : Job} (h : tblGet s.jobs k = some j) (hno : cipherStream j = none) : bindEpoch s k = s := by
  simp only [bindEpoch, h, hno]

/-- The fields of an entry lie in its first 64 bytes. -/
theorem le_take (bs : Bytes) (o n m : Nat) (h : o + n ≤ m) : le (bs.take m) o n = le bs o n := by
  simp only [le, slice]
  rw [List.drop_take, List.take_take, show min n (m - o) = n by omega]

/-- Settles O32: a fetch consumes its slots behind its reads, and the entry joins its command queue, becomes a job, or waits as rejected. -/
theorem submissionFetches : Obligations.SubmissionFetches := by
  unfold Obligations.SubmissionFetches
  intro s bs
  refine ⟨fun p hrun hports hfetch hlen => adminFetch hrun hports hfetch hlen, fun i x qp h hlen hknown => controlFetch h hlen hknown,
    fun i q x qp h h0 hwait hlen => ⟨framingFetch h h0 hwait hlen, shortFetch h h0 hwait hlen, fun hlo hhi hleft hall hallows hnojob => ?_⟩⟩
  let s1 := emitAll s (slotReads s (.inst i q) qp (bs.length / 64))
  let s2 := modInst s1 i (fun _ => fetched s x q qp (byteAt bs 4))
  have hstep : submissionFetch s (.inst i q) bs = bindEpoch (takeWork s2 i q x.gen bs) s.nextJob := wholeFetch h h0 hwait hlo hhi hleft hall hallows
  have only : OnlyInst s1 s2 i (fetched s x q qp (byteAt bs 4)) := onlyInst_modInst (s := s1) _ h.2.1
  have hdefect : workDefect s2 i q bs = workDefect (modInst s i (fun _ => fetched s x q qp (byteAt bs 4))) i q bs := rfl
  refine ⟨fun k hk hcipher hd => ?_, fun st hd => ?_⟩
  · rw [takeWork_job (hdefect.trans hd) hk, bindEpoch_noStream (tblGet_put_same _ _ _)] at hstep
    · exact exec_fetch h hstep ⟨slotReads_inst h hall rfl, only.1, only.2, tblGet_put_same _ _ _, fun m hm => tblGet_put_other _ _ _ _ hm, rfl, rfl⟩
    · have hkind : ¬ (k = .cipher ∧ le (bs.take 64) 10 2 = 0xFFFF) := by
        rw [le_take bs 10 2 64 (by decide)]
        exact fun hboth => hcipher hboth.1 hboth.2
      exact if_neg fun hboth => hkind ⟨of_decide_eq_true (Bool.and_eq_true _ _ ▸ hboth).1, of_decide_eq_true (Bool.and_eq_true _ _ ▸ hboth).2⟩
  · rw [takeWork_rejected (hdefect.trans hd), bindEpoch_noJob (k := s.nextJob) (by exact hnojob)] at hstep
    exact exec_fetch h hstep ⟨slotReads_inst h hall rfl, only.1, rfl, rfl, rfl⟩

end Sys2Proof.FetchRows

/-! ### DMA reads (R54, R83, R88) -/

namespace Sys2Proof.DmaRows

open Sys2Proof Sys2Proof.Machine Sys2Proof.Safety Sys2Proof.Rows Sys2Proof.Laws Sys2Proof.StateFacts Sys2Proof.RingWrites Sys2Proof.LadderRows
open Sys2Proof.HaltRows Sys2Proof.WriteRows Sys2Proof.QueueRows Sys2Proof.FetchRows

/-! #### A job dropped, a command done -/

theorem unreserveSlot_frame (s : State) (i h : Nat) : ∃ wch, unreserveSlot s i h = { s with wch := wch } := by
  unfold unreserveSlot
  split
  · split
    · exact ⟨_, rfl⟩
    · exact ⟨_, rfl⟩
  · exact ⟨_, rfl⟩

theorem dropClaim_frame (s : State) (j : Job) : ∃ wch, dropClaim s j = { s with wch := wch } := by
  unfold dropClaim
  split
  · exact ⟨_, rfl⟩
  · split <;> exact ⟨_, rfl⟩

/-- A dropped job leaves the job table, the queues of its cluster, the random source's requests and the windchest's claims; nothing else changes. -/
theorem dropJob_frame {s : State} {k : Nat} {j : Job} (hj : tblGet s.jobs k = some j) :
    ∃ wch clusters rng, dropJob s k = { s with jobs := tblDel s.jobs k, wch := wch, clusters := clusters, rng := rng } := by
  unfold dropJob
  rw [hj]
  obtain ⟨wch, hclaim⟩ := dropClaim_frame s j
  simp only [hclaim]
  split
  · split
    · obtain ⟨wch', hslot⟩ := unreserveSlot_frame { s with wch := wch } j.inst ‹_›
      simp only [hslot]
      exact ⟨_, _, _, rfl⟩
    · exact ⟨_, _, _, rfl⟩
  · exact ⟨_, _, _, rfl⟩

theorem endOffLadder_frame {s : State} {k : Nat} {j : Job} (st : Status) (out : Bytes) (info due : Nat) (hj : tblGet s.jobs k = some j) :
    ∃ wch clusters rng, endOffLadder s k st out info due = { s with
      jobs := tblDel s.jobs k
      waiting := s.waiting ++ (if hostJob j then [⟨jobCompl j st out info, 2, 0, due⟩] else [])
      wch := wch
      clusters := clusters
      rng := rng } := by
  obtain ⟨wch, clusters, rng, hdrop⟩ := dropJob_frame hj
  unfold endOffLadder
  rw [hj]
  simp only [hdrop]
  split
  · exact ⟨wch, clusters, rng, rfl⟩
  · exact ⟨wch, clusters, rng, by rw [List.append_nil]⟩

theorem gatherFailed_lost {s : State} {k : Nat} {j : Job} {x : Inst} (cause : Nat) (hj : tblGet s.jobs k = some j)
    (hx : tblGet s.insts j.inst = some x) : GatherLost s (gatherFailed s k j.inst cause) k j x cause := by
  have only := onlyInst_instError cause hx
  obtain ⟨wch, clusters, rng, hend⟩ := endOffLadder_frame (s := instError s j.inst cause) .dmaFault [] 0 (nextInhale s) hj
  obtain ⟨hgone, hothers⟩ := tblGet_del_at s.jobs k
  rw [gatherFailed, hend]
  refine ⟨hgone, only.1, fun hhost => ⟨⟨jobCompl j .dmaFault [] 0, 2, 0, nextInhale s⟩, ?_, rfl, rfl, rfl, rfl, rfl⟩, only.2, hothers⟩
  simp only [hostJob, hhost, Option.isNone_none, if_true]
  rfl

/-- The function of an instance. -/
theorem instFn_of {s : State} {i : Nat} {x : Inst} (hx : tblGet s.insts i = some x) : instFn s i = (x.port.val, x.vf) := by
  simp [instFn, ringFn, hx]

theorem gathers_of {s : State} {k : Nat} {j : Job} {x : Inst} (h : Gathering s k j x) : gathers s j = true := by
  obtain ⟨-, -, hstage, hhalt, hx, hreset, hawake⟩ := h
  simp [gathers, hstage, hhalt, hx, hreset, hawake]

theorem jobFailed {s : State} {k : Nat} {j : Job} {x : Inst} {r : DmaResult} (h : Gathering s k j x) (hr : ∀ bs, r ≠ .data bs) :
    Does (.dmaReadComplete (.job k) r) s (fun t => GatherLost s t k j x 4) := by
  have hexec : exec (.dmaReadComplete (.job k) r) s = whenRunning s (dmaJob s k r) := rfl
  obtain ⟨hrun, hj, -, -, hx, -⟩ := id h
  have hstep : dmaJob s k r = gatherFailed s k j.inst 4 := by
    simp only [dmaJob, hj, gathers_of h, Bool.not_true, Bool.false_eq_true, if_false]
    cases r with
    | data bs => exact absurd rfl (hr bs)
    | _ => rfl
  refine does_whenRunning hexec hrun ?_
  rw [hstep]
  exact gatherFailed_lost 4 hj hx

theorem jobBurst {s : State} {k : Nat} {j : Job} {x : Inst} {a : BitVec 64} {n : Nat} {rest : List (BitVec 64 × Nat)} {bs : Bytes}
    (h : Gathering s k j x) (hg : j.gather = (a, n) :: rest) (hne : bs ≠ []) (hle : bs.length ≤ n) (hpage : a.toNat % 4096 + bs.length ≤ 4096)
    (hallows : bucketAllows s j.inst bs.length = true) :
    Does (.dmaReadComplete (.job k) (.data bs)) s (fun t => Reads s t x.port.val x.vf a.toNat bs.length ∧ tblGet t.jobs k = some { j with
        input := j.input ++ bs
        gather := if bs.length = n then rest else (a + BitVec.ofNat 64 bs.length, n - bs.length) :: rest
        stage := if bs.length = n ∧ rest = [] then .ready else .reading } ∧
      tblGet t.insts j.inst = some (charged s x bs.length) ∧ (∀ i, i ≠ k → tblGet t.jobs i = tblGet s.jobs i) ∧
      (∀ i, i ≠ j.inst → tblGet t.insts i = tblGet s.insts i) ∧ { t with jobs := s.jobs, insts := s.insts, out := s.out } = s) := by
  have hexec : exec (.dmaReadComplete (.job k) (.data bs)) s = whenRunning s (dmaJob s k (.data bs)) := rfl
  obtain ⟨hrun, hj, -, -, hx, -⟩ := id h
  let m := bs.length
  let g := if m = n then rest else (a + BitVec.ofNat 64 m, n - m) :: rest
  have hstep : dmaJob s k (.data bs) = modJob (modInst (emitAll s (dmaReads s x.port.val x.vf a.toNat m)) j.inst (fun z => charged s z m)) k
      (fun j => { j with input := j.input ++ bs, gather := g, stage := if g = [] then .ready else .reading }) := by
    simp only [dmaJob, hj, gathers_of h, Bool.not_true, Bool.false_eq_true, if_false, gatherBurst, hg]
    rw [if_neg (by simp [hne, hallows]; omega), bucketCharge_eq, instFn_of hx]
    rfl
  have hg0 : g = [] ↔ m = n ∧ rest = [] := by
    by_cases hm : m = n <;> simp [g, hm]
  have hburst : tblGet (dmaJob s k (.data bs)).jobs k = some { j with
      input := j.input ++ bs
      gather := g
      stage := if m = n ∧ rest = [] then .ready else .reading } := by
    rw [hstep]
    refine (tblGet_mod_same _ _ _).trans (Eq.trans (congrArg (Option.map _) hj) ?_)
    rw [if_congr hg0 rfl rfl]
    rfl
  have only := onlyInst_modInst (s := emitAll s (dmaReads s x.port.val x.vf a.toNat m)) (fun z => charged s z m) hx
  refine does_whenRunning hexec hrun ⟨⟨dmaReads s x.port.val x.vf a.toNat m, by rw [hstep]; rfl, readBursts_dmaReads _ _ _ _ _⟩, hburst, ?_⟩
  rw [hstep]
  exact ⟨only.1, fun i hi => tblGet_mod_other _ _ _ _ hi, only.2, rfl⟩

/-! #### The data of an admin command -/

theorem tagStatus_of {tag : BitVec 16} {st : Status} (h : tag = 0xFFFF → st = .inputInvalid) : tagStatus tag st = st := by
  unfold tagStatus
  split
  next ht => exact (h ht).symm
  next => rfl

/-- The front admin command ends: it leaves the queue and its completion waits; where the next command is known nothing more happens. -/
theorem admDoneBy_front {s : State} {p : Fin 8} {c : Cmd} {rest : List Cmd} {d : Option Bytes} (st : Status) (out : Bytes) (info due : Nat)
    (hport : p.val < s.ports.length) (hq : (portAt s p.val).adm.q = ⟨c :: rest, d⟩) (hnext : ∀ e ∈ rest.head?, 1 ≤ e.opcode ∧ e.opcode ≤ 0xB) :
    admDoneBy s p st out info due = addWaiting (modAdmQ s p.val popCmd) (admCompl p c st out info) 4 p.val due := by
  have hfront : admFront s p.val = some c := by simp [admFront, hq]
  simp only [admDoneBy, hfront]
  refine settleAdmAll_known ?_
  have hpopped : portAt (addWaiting (modAdmQ s p.val popCmd) (admCompl p c st out info) 4 p.val due) p.val =
      { portAt s p.val with adm := { (portAt s p.val).adm with q := popCmd (portAt s p.val).adm.q } } :=
    (portAt_modPort s p.val p.val _).trans (if_pos ⟨rfl, hport⟩)
  rw [hpopped]
  simpa [popCmd, hq] using hnext

theorem admCompl_eq (p : Fin 8) {c : Cmd} {st : Status} (out : Bytes) (info : Nat) (h : c.tag = 0xFFFF → st = .inputInvalid) :
    admCompl p c st out info = admResult p c st out info := by
  simp only [admCompl, admResult, tagStatus_of h]

theorem admDone_ends {s : State} {p : Fin 8} {c : Cmd} {rest : List Cmd} {d : Option Bytes} {st : Status} (out : Bytes) (info : Nat)
    (hports : s.ports.length = 8) (hq : (portAt s p.val).adm.q = ⟨c :: rest, d⟩) (htag : c.tag = 0xFFFF → st = .inputInvalid)
    (hnext : ∀ e ∈ rest.head?, 1 ≤ e.opcode ∧ e.opcode ≤ 0xB) : admDone s p st out info = admEnds s p c st out info := by
  rw [admDone, admDoneBy_front _ _ _ _ (lt_of_lt_of_eq p.isLt hports.symm) hq hnext, admCompl_eq p out info htag]
  rfl

theorem admChecks_eq {s : State} {p : Fin 8} {c : Cmd} (hlo : 1 ≤ c.opcode) (hhi : c.opcode ≤ 0xB) : admChecks s p c = admRefusal s p c := by
  unfold admChecks admRefusal
  simp [admKnown, hlo, hhi, admWide, and_assoc]

theorem admRefusal_tag {s : State} {p : Fin 8} {c : Cmd} (h : admRefusal s p c = none) : c.tag ≠ 0xFFFF := by
  intro htag
  rw [admRefusal, if_pos htag] at h
  cases h

theorem wantsData_some {q : CmdQ} {refused : Cmd → Bool} {c : Cmd} {rest : List Cmd} {d : Option Bytes} (hq : q = ⟨c :: rest, d⟩)
    (hwants : cmdWantsData c = true) (hstart : c.started = false) (hgood : refused c = false) (hmore : (d.getD []).length < c.dataLen) :
    wantsData q refused = some (c, c.dataAddr.toNat + (d.getD []).length, c.dataLen - (d.getD []).length) := by
  subst hq
  simp [wantsData, hwants, hstart, hgood, hmore]

theorem burstOk_of {addr left : Nat} {bs : Bytes} (hne : bs ≠ []) (hle : bs.length ≤ left) (hpage : addr % 4096 + bs.length ≤ 4096) :
    burstOk addr left bs = true := by
  simp [burstOk, List.length_pos_iff.mpr hne, hle, hpage]

section
variable {s : State} {p : Fin 8} {c : Cmd} {rest : List Cmd} {d : Option Bytes}

theorem admWants_some (hhalt : s.dev.halting = false) (hawake : (portAt s p.val).pfD3hot = false) (hq : (portAt s p.val).adm.q = ⟨c :: rest, d⟩)
    (hwants : cmdWantsData c = true) (hstart : c.started = false) (hlo : 1 ≤ c.opcode) (hhi : c.opcode ≤ 0xB) (hgood : admRefusal s p c = none)
    (hmore : (d.getD []).length < c.dataLen) :
    admWants s p = some (c, c.dataAddr.toNat + (d.getD []).length, c.dataLen - (d.getD []).length) := by
  have hfn : fnAsleep s p.val 0 = false := by simp [fnAsleep, hawake]
  rw [admWants, if_neg (by simp [hhalt, hfn])]
  exact wantsData_some hq hwants hstart (by simp [admChecks_eq hlo hhi, hgood]) hmore

theorem admBurst {bs : Bytes} (hports : s.ports.length = 8) (hq : (portAt s p.val).adm.q = ⟨c :: rest, d⟩)
    (hwant : admWants s p = some (c, c.dataAddr.toNat + (d.getD []).length, c.dataLen - (d.getD []).length)) (hrun : isRunning s = true)
    (hne : bs ≠ []) (hle : (d.getD []).length + bs.length ≤ c.dataLen)
    (hpage : (c.dataAddr.toNat + (d.getD []).length) % 4096 + bs.length ≤ 4096) :
    Does (.dmaReadComplete (.adm p) (.data bs)) s (fun t => Reads s t p.val 0 (c.dataAddr.toNat + (d.getD []).length) bs.length ∧
      OnlyPort { s with out := t.out } t p
        { portAt s p.val with adm := { (portAt s p.val).adm with q := ⟨c :: rest, some (d.getD [] ++ bs)⟩ } }) := by
  have hexec : exec (.dmaReadComplete (.adm p) (.data bs)) s = whenRunning s (dmaAdm s p (.data bs)) := rfl
  let s1 := emitAll s (dmaReads s p.val 0 (c.dataAddr.toNat + (d.getD []).length) bs.length)
  have hstep : dmaAdm s p (.data bs) = modAdmQ s1 p.val (addData bs) := by
    simp only [dmaAdm, hwant, burstOk_of hne (Nat.le_sub_of_add_le' hle) hpage, if_true]
    rfl
  have only : OnlyPort s1 (modAdmQ s1 p.val (addData bs)) p _ := onlyPort_modPort p _ hports
  have hadded : addData bs (portAt s1 p.val).adm.q = ⟨c :: rest, some (d.getD [] ++ bs)⟩ := by
    rw [show portAt s1 p.val = portAt s p.val from rfl, hq]
    rfl
  rw [hadded] at only
  refine does_whenRunning hexec hrun ?_
  rw [hstep]
  exact ⟨⟨_, rfl, readBursts_dmaReads _ _ _ _ _⟩, only.1, only.2, only.3⟩

theorem admFailed {r : DmaResult} {addr left : Nat} (hports : s.ports.length = 8) (hq : (portAt s p.val).adm.q = ⟨c :: rest, d⟩)
    (hwant : admWants s p = some (c, addr, left)) (hrun : isRunning s = true) (htag : c.tag ≠ 0xFFFF) (hr : ∀ bs, r ≠ .data bs)
    (hnext : ∀ e ∈ rest.head?, 1 ≤ e.opcode ∧ e.opcode ≤ 0xB) :
    Does (.dmaReadComplete (.adm p) r) s (fun t =>
      OnlyPort { s with waiting := s.waiting ++ [⟨admResult p c .dmaFault [] 0, 4, p.val, s.brt.count + 1⟩] } t p
        { admErred (portAt s p.val) 4 with adm := { (admErred (portAt s p.val) 4).adm with q := ⟨rest, none⟩ } }) := by
  have hexec : exec (.dmaReadComplete (.adm p) r) s = whenRunning s (dmaAdm s p r) := rfl
  have only := onlyPort_admError p 4 hports
  have hports1 : (admError s p.val 4).ports.length = 8 := (StateFacts.length_listMod _ _ _).trans hports
  have hq1 : (portAt (admError s p.val 4) p.val).adm.q = ⟨c :: rest, d⟩ := by
    rw [only.1, ← hq, admErred]
    split <;> rfl
  have hstep : dmaAdm s p r = admDone (admError s p.val 4) p .dmaFault [] 0 := by
    simp only [dmaAdm, hwant]
    cases r with
    | data bs => exact absurd rfl (hr bs)
    | _ => rfl
  rw [admDone_ends _ _ hports1 hq1 (fun h => absurd h htag) hnext] at hstep
  have popped : OnlyPort (admError s p.val 4) (modAdmQ (admError s p.val 4) p.val popCmd) p _ := onlyPort_modPort p _ hports1
  rw [only.1] at popped hq1
  rw [hq1] at popped
  refine does_whenRunning hexec hrun ?_
  rw [hstep]
  exact ⟨popped.1, fun q hne => (popped.2 q hne).trans (only.2 q hne), rfl⟩

end

/-! #### The data of a control command -/

/-- The front control command ends: it leaves the queue and its completion waits; where the next command is known nothing more happens. -/
theorem ctlDone_ends {s : State} {i : Nat} {x : Inst} {c : Cmd} {rest : List Cmd} {d : Option Bytes} {st : Status} (out : Bytes) (info : Nat)
    (hx : tblGet s.insts i = some x) (hq : x.ctl = ⟨c :: rest, d⟩) (htag : c.tag = 0xFFFF → st = .inputInvalid)
    (hnext : ∀ e ∈ rest.head?, 0x81 ≤ e.opcode ∧ e.opcode ≤ 0x8A) : ctlDone s i st out info = ctlEnds s i c st out info := by
  have only : OnlyInst s (modCtlQ s i popCmd) i _ := onlyInst_modInst _ hx
  have hcompl : ctlCompl i c st out info = ctlResult i c st out info := by simp only [ctlCompl, ctlResult, tagStatus_of htag]
  have hfront : ctlFront s i = some c := by simp [ctlFront, hx, hq]
  simp only [ctlDone, hfront, hcompl]
  have hget : tblGet (ctlEnds s i c st out info).insts i = some _ := only.1
  exact settleCtlAll_known hget (by simpa [popCmd, hq] using hnext)

theorem ctlChecks_none {c : Cmd} (htag : c.tag ≠ 0xFFFF) (hlo : 0x81 ≤ c.opcode) (hhi : c.opcode ≤ 0x8A) (hres : c.reserved = true)
    (hlen : cmdLenOk c.opcode c.dataLen = true) : ctlChecks c = none := by
  rw [ctlChecks, decide_eq_false htag]
  simp [ctlKnown, hlo, hhi, hres, hlen]

section
variable {s : State} {i : Nat} {x : Inst} {c : Cmd} {rest : List Cmd} {d : Option Bytes}

theorem ctlWants_some (hhalt : s.dev.halting = false) (hx : tblGet s.insts i = some x) (hstate : x.state ≠ .resetting)
    (hawake : fnAsleep s x.port.val x.vf = false) (hq : x.ctl = ⟨c :: rest, d⟩) (hwants : cmdWantsData c = true) (hstart : c.started = false)
    (hgood : ctlChecks c = none) (hmore : (d.getD []).length < c.dataLen) :
    ctlWants s i = some (c, c.dataAddr.toNat + (d.getD []).length, c.dataLen - (d.getD []).length) := by
  simp only [ctlWants, hx]
  rw [if_neg (by simp [hhalt, hstate, hawake])]
  exact wantsData_some hq hwants hstart (by simp [hgood]) hmore

theorem ctlBurst {bs : Bytes} (hx : tblGet s.insts i = some x) (hq : x.ctl = ⟨c :: rest, d⟩)
    (hwant : ctlWants s i = some (c, c.dataAddr.toNat + (d.getD []).length, c.dataLen - (d.getD []).length)) (hrun : isRunning s = true)
    (hne : bs ≠ []) (hle : (d.getD []).length + bs.length ≤ c.dataLen)
    (hpage : (c.dataAddr.toNat + (d.getD []).length) % 4096 + bs.length ≤ 4096) (hallows : bucketAllows s i bs.length = true) :
    Does (.dmaReadComplete (.ctl i) (.data bs)) s (fun t => Reads s t x.port.val x.vf (c.dataAddr.toNat + (d.getD []).length) bs.length ∧
      OnlyInst { s with out := t.out } t i { charged s x bs.length with ctl := ⟨c :: rest, some (d.getD [] ++ bs)⟩ }) := by
  have hexec : exec (.dmaReadComplete (.ctl i) (.data bs)) s = whenRunning s (dmaCtl s i (.data bs)) := rfl
  let s1 := emitAll s (dmaReads s x.port.val x.vf (c.dataAddr.toNat + (d.getD []).length) bs.length)
  let took (z : Inst) : Inst := { charged s z bs.length with ctl := addData bs (charged s z bs.length).ctl }
  have hstep : dmaCtl s i (.data bs) = modInst s1 i took := by
    simp only [dmaCtl, hwant, burstOk_of hne (Nat.le_sub_of_add_le' hle) hpage, hallows, Bool.and_self, if_true]
    rw [bucketCharge_eq, instFn_of hx, modCtlQ, modInst_modInst]
    rfl
  have only : OnlyInst s1 (modInst s1 i took) i (took x) := onlyInst_modInst (s := s1) _ hx
  have htook : took x = { charged s x bs.length with ctl := ⟨c :: rest, some (d.getD [] ++ bs)⟩ } := by
    simp only [took, (charged_fields s x bs.length).2, hq]
    rfl
  rw [htook] at only
  refine does_whenRunning hexec hrun ?_
  rw [hstep]
  exact ⟨⟨_, rfl, readBursts_dmaReads _ _ _ _ _⟩, only.1, only.2, only.3⟩

theorem ctlFailed {r : DmaResult} {addr left : Nat} (hx : tblGet s.insts i = some x) (hq : x.ctl = ⟨c :: rest, d⟩)
    (hwant : ctlWants s i = some (c, addr, left)) (hrun : isRunning s = true) (htag : c.tag ≠ 0xFFFF) (hr : ∀ bs, r ≠ .data bs)
    (hnext : ∀ e ∈ rest.head?, 0x81 ≤ e.opcode ∧ e.opcode ≤ 0x8A) :
    Does (.dmaReadComplete (.ctl i) r) s (fun t =>
      OnlyInst { s with waiting := s.waiting ++ [⟨ctlResult i c .dmaFault [] 0, 3, i, s.brt.count + 1⟩] } t i
        { erred x 4 with ctl := ⟨rest, none⟩ }) := by
  have hexec : exec (.dmaReadComplete (.ctl i) r) s = whenRunning s (dmaCtl s i r) := rfl
  have only := onlyInst_instError 4 hx
  have hq1 : (erred x 4).ctl = ⟨c :: rest, d⟩ := by
    rw [← hq, erred]
    split <;> rfl
  have hstep : dmaCtl s i r = ctlDone (instError s i 4) i .dmaFault [] 0 := by
    simp only [dmaCtl, hwant]
    cases r with
    | data bs => exact absurd rfl (hr bs)
    | _ => rfl
  rw [ctlDone_ends _ _ only.1 hq1 (fun h => absurd h htag) hnext] at hstep
  have popped : OnlyInst (instError s i 4) (modCtlQ (instError s i 4) i popCmd) i _ := onlyInst_modInst _ only.1
  rw [hq1] at popped
  refine does_whenRunning hexec hrun ?_
  rw [hstep]
  exact ⟨popped.1, fun k hk => (popped.2 k hk).trans (only.2 k hk), rfl⟩

end

theorem entryFailed {s : State} {g : Ring} {r : DmaResult} (hf : fetchable s g = true) (hr : ∀ bs, r ≠ .data bs) :
    exec (.dmaReadComplete (.entry g) r) s = whenRunning s (ringError s g 4) := by
  have hexec : exec (.dmaReadComplete (.entry g) r) s = whenRunning s (dmaEntry s g r) := rfl
  rw [hexec]
  unfold dmaEntry
  rw [if_neg (by simp [hf])]
  cases r with
  | data bs => exact absurd rfl (hr bs)
  | _ => rfl

/-- Settles O33: a burst joins the input or the held data behind its read requests; a read that fails ends its job or command with DMA_FAULT. -/
theorem dmaReads : Obligations.DmaReads := by
  unfold Obligations.DmaReads
  intro s hrun
  refine ⟨fun k j x a n rest bs h hg hne hle hpage hallows => jobBurst h hg hne hle hpage hallows, fun k j x r h hr => jobFailed h hr, ?_, ?_,
    fun p r hports hf hr => does_whenRunning (entryFailed hf hr) hrun (onlyPort_admError p 4 hports),
    fun i q x r hx hf hr => does_whenRunning (entryFailed hf hr) hrun (onlyInst_instError 4 hx)⟩
  · intro p c rest d bs r hports hhalt hr h hawake hq hwants hstart hlo hhi hgood got hmore
    have hwant := admWants_some hhalt hawake hq hwants hstart hlo hhi hgood hmore
    exact ⟨fun hne hle hpage => admBurst hports hq hwant hrun hne hle hpage,
      fun hnext => admFailed hports hq hwant hrun (admRefusal_tag hgood) hr hnext⟩
  · intro i x c rest d bs r hhalt hx hstate hawake hr hq hwants hstart htag hlo hhi hres hlen got hmore
    have hwant := ctlWants_some hhalt hx hstate hawake hq hwants hstart (ctlChecks_none htag hlo hhi hres hlen) hmore
    exact ⟨fun hne hle hpage hallows => ctlBurst hx hq hwant hrun hne hle hpage hallows,
      fun hnext => ctlFailed hx hq hwant hrun htag hr hnext⟩

end Sys2Proof.DmaRows

/-! ### Translations (R54, R83) -/

namespace Sys2Proof.TranslationRows

open Sys2Proof Sys2Proof.Machine Sys2Proof.Safety Sys2Proof.Rows Sys2Proof.Laws Sys2Proof.ClusterRows

/-! #### A job hidden behind another of its number -/

/-- An instance of VF 2 of port 1, in error, without queues and commands. -/
def erringInst : Inst where
  port := 1
  vf := 2
  state := .error
  drain := false
  flags := 0
  errCause := 4
  gen := 4
  maxQueues := 4
  maxSlots := 8
  maxContexts := 4
  maxStreams := 4
  dmaShare := 64
  nextShare := none
  poolShare := []
  q0SqBase := 0
  q0CqBase := 0
  q0SqLog2 := 6
  q0CqLog2 := 6
  q0Vector := 0
  queues := []
  lastQueue := 0
  ctl := CmdQ.init
  bucket := 0
  reset := none

/-- Port 1 is formed; of the two entries under number 0 in the job table, a lookup finds the first, which reads nothing, and a scan of the table
finds the second, whose gather waits at page 5. -/
def hiddenGather : State := { served with
  ports := listSet served.ports 1 { HostPort.init with width := 8, speed := 4, totalVfs := 4, vfEnable := true }
  insts := [(3, erringInst)]
  jobs := [(0, idleJob), (0, { idleJob with stage := .reading, gather := [(0x5000, 64)] })] }

theorem hiddenGather_jobs (k : Nat) (j : Job) (h : tblGet hiddenGather.jobs k = some j) : j = idleJob := by
  by_cases hk : 0 = k
  · subst hk
    exact (Option.some.inj h).symm
  · simp [hiddenGather, tblGet, hk] at h

theorem hiddenGather_insts (i : Nat) (x : Inst) (h : tblGet hiddenGather.insts i = some x) : x = erringInst := by
  by_cases hi : 3 = i
  · subst hi
    exact (Option.some.inj h).symm
  · simp [hiddenGather, tblGet, hi] at h

/-- The scan takes the page for needed, so no refusal is kept for a later write. -/
theorem atsTranslation_hiddenGather : (portAt (atsTranslation hiddenGather 1 2 5 false) 1).noAccess = [] := by decide

/-- Refutes O34: the last clause tells by the lookup that no job reads, and nothing in the statement keeps a second job from standing under the same
number. In `hiddenGather` such a job's gather waits at the page, so the refusal ends that number's job and is not kept. -/
theorem not_translations : ¬ Obligations.Translations := by
  intro h
  obtain ⟨-, -, hkept⟩ := h hiddenGather 1 2 5 (by decide) (by decide) (by decide)
  obtain ⟨t, hexec, -, honly⟩ := hkept (by decide) (fun k j hj => hiddenGather_jobs k j hj ▸ nofun)
    (fun i x hx _ _ => hiddenGather_insts i x hx ▸ ⟨rfl, nofun⟩)
  have hdone : exec (.atsTranslationComplete ⟨1, 2, 5⟩ false) hiddenGather = .next (atsTranslation hiddenGather 1 2 5 false) :=
    whenRunning_of _ _ (by decide)
  rw [hdone] at hexec
  cases hexec
  have hnone : [] = [((2 : Nat), (5 : Nat))] := atsTranslation_hiddenGather.symm.trans (congrArg HostPort.noAccess honly.port)
  cases hnone

end Sys2Proof.TranslationRows

/-! ### Admin and control commands (R64 to R66, R469) -/

namespace Sys2Proof.CommandRows

open Sys2Proof Sys2Proof.Machine Sys2Proof.Safety Sys2Proof.Rows Sys2Proof.Laws Sys2Proof.StateFacts Sys2Proof.RingWrites Sys2Proof.LadderRows
open Sys2Proof.HaltRows Sys2Proof.WriteRows Sys2Proof.QueueRows Sys2Proof.FetchRows Sys2Proof.DmaRows Sys2Proof.FunctionRows

/-! #### The front admin command -/

section
variable {s : State} {p : Fin 8} {c : Cmd} {data : Option Bytes} {op : Nat} {d : Bytes}

/-- Ending the front command works alike in every state with the same ports. -/
theorem admDone_of_front (h : AdmFront s p c data) {u : State} {st : Status} (out : Bytes) (info : Nat) (hports : u.ports = s.ports)
    (htag : c.tag = 0xFFFF → st = .inputInvalid) : admDone u p st out info = admEnds u p c st out info := by
  obtain ⟨rest, hq, hnext⟩ := h.queue
  have hq1 : (portAt u p.val).adm.q = ⟨c :: rest, data⟩ := by rw [portAt, hports]; exact hq
  exact admDone_ends out info (hports ▸ h.ports) hq1 htag hnext

theorem admFront_of_front (h : AdmFront s p c data) : admFront s p.val = some c := by
  obtain ⟨rest, hq, -⟩ := h.queue
  simp [admFront, hq]

theorem admRefusal_tag_bad {st : Status} (h : admRefusal s p c = some st) (htag : c.tag = 0xFFFF) : st = .inputInvalid := by
  rw [admRefusal, if_pos htag] at h
  exact (Option.some.inj h).symm

theorem exec_admRefused {i : Instr} {f : Cmd → Bytes → State} {st : Status} (hexec : exec i s = whenRunning s (admRun s p op f))
    (h : AdmFront s p c data) (hop : c.opcode = op) (hlo : 1 ≤ op) (hhi : op ≤ 0xB) (hr : admRefusal s p c = some st) :
    exec i s = .next (admEnds s p c st [] 0) := by
  have hrun : admRun s p op f = admEnds s p c st [] 0 := by
    have hchecks : admChecks s p c = some st := (admChecks_eq (hop ▸ hlo) (hop ▸ hhi)).trans hr
    simp only [admRun, admFront_of_front h, hop, ne_eq, not_true_eq_false, h.fresh, decide_false, Bool.or_self, Bool.false_eq_true, if_false, hchecks]
    exact admDone_of_front h [] 0 rfl (admRefusal_tag_bad hr)
  rw [hexec, hrun, whenRunning_of _ _ h.live]

theorem AdmRuns.front (h : AdmRuns s p op c d) : ∃ data, AdmFront s p c data := by
  obtain ⟨-, -, data, hf, -⟩ := h
  exact ⟨data, hf⟩

theorem AdmRuns.live (h : AdmRuns s p op c d) : isRunning s = true := by
  obtain ⟨data, hf⟩ := AdmRuns.front h
  exact hf.live

theorem AdmRuns.ports (h : AdmRuns s p op c d) : s.ports.length = 8 := by
  obtain ⟨data, hf⟩ := AdmRuns.front h
  exact hf.ports

theorem AdmRuns.tag (h : AdmRuns s p op c d) : c.tag ≠ 0xFFFF := admRefusal_tag h.2.1

/-- A command that nothing refuses and that has read its data runs. -/
theorem exec_admRuns {i : Instr} {f : Cmd → Bytes → State} (hexec : exec i s = whenRunning s (admRun s p op f)) (h : AdmRuns s p op c d) (hlo : 1 ≤ op)
    (hhi : op ≤ 0xB) : exec i s = .next (f c d) := by
  obtain ⟨hop, hgood, data, hf, hd, hlen⟩ := h
  obtain ⟨rest, hq, -⟩ := id hf.queue
  have hchecks : admChecks s p c = none := (admChecks_eq (hop ▸ hlo) (hop ▸ hhi)).trans hgood
  have hwhole : dataWhole (portAt s p.val).adm.q c = true := by
    rw [hq, dataWhole, ← hd]
    cases hw : cmdWantsData c with
    | false => rfl
    | true => simp [hlen hw]
  have hrun : admRun s p op f = f c d := by
    simp only [admRun, admFront_of_front hf, hop, ne_eq, not_true_eq_false, hf.fresh, decide_false, Bool.or_self, Bool.false_eq_true, if_false, hchecks,
      hwhole, if_true]
    rw [hq, hd]
  rw [hexec, hrun, whenRunning_of _ _ hf.live]

theorem AdmRuns.ends (h : AdmRuns s p op c d) {u : State} (st : Status) (out : Bytes) (info : Nat) (hports : u.ports = s.ports) :
    admDone u p st out info = admEnds u p c st out info := by
  obtain ⟨data, hf⟩ := AdmRuns.front h
  exact admDone_of_front hf out info hports fun htag => absurd htag (AdmRuns.tag h)

theorem mirrors_iff (s : State) : mirrors s = true ↔ s.twn.role = 1 ∧ s.twn.linkKey.isSome = true ∧ s.brt.count < s.twn.lastRecord + 16 := by
  simp [mirrors, onPair, linkUp]

/-- The front command ends behind the record of its effect, where it is mirrored. -/
theorem AdmRuns.mirrored (h : AdmRuns s p op c d) {u : State} (kind : Nat) (body : Bytes) (info : Nat) (hports : u.ports = s.ports) :
    admDoneMirrored (mirror u kind body) p info = admMirrored u p c kind body info := by
  obtain ⟨data, hf⟩ := AdmRuns.front h
  have hfront (w : State) (hw : w.ports = u.ports) : admFront w p.val = some c := by
    have hu := admFront_of_front hf
    rw [admFront, portAt] at hu ⊢
    rw [hw, hports, hu]
  by_cases hm : mirrors u = true
  · have hm2 : mirrors (queueRecord u kind body) = true := hm
    have hcompl : admCompl p c .ok [] info = admResult p c .ok [] info := admCompl_eq p [] info fun htag => absurd htag (AdmRuns.tag h)
    rw [mirror, if_pos hm]
    simp only [admDoneMirrored, hfront (queueRecord u kind body) rfl, hm2, if_true, hcompl]
    rw [admMirrored, if_pos ((mirrors_iff u).mp hm)]
    have hseq : queuedSeq (modAdmQ (queueRecord u kind body) p.val startCmd) = u.twn.nextSeq + u.twn.toSend.length := by
      change u.twn.nextSeq + (u.twn.toSend ++ [(kind, body)]).length - 1 = _
      simp
    rw [addMirrorWait, hseq]
    rfl
  · rw [mirror, if_neg hm]
    simp only [admDoneMirrored, hfront u rfl, hm, Bool.false_eq_true, if_false]
    rw [admMirrored, if_neg (mt (mirrors_iff u).mpr hm)]
    exact AdmRuns.ends h .ok [] info hports

end

/-! #### Instances -/

/-- The keys below the least absent one are all held, so the search for a free number stops there. -/
theorem tblFreeFrom_least {α : Type} {t : Tbl α} {i : Nat} (hnone : tblGet t i = none) (hbelow : ∀ k, k < i → (tblGet t k).isSome = true) (fuel k : Nat)
    (hk : k ≤ i) (hfuel : i < k + fuel) : tblFreeFrom t fuel k = i := by
  induction fuel generalizing k with
  | zero => omega
  | succ fuel ih =>
    by_cases hki : k = i
    · subst hki
      simp [tblFreeFrom, tblHas, hnone]
    · rw [tblFreeFrom, tblHas, hbelow k (by omega), if_pos rfl]
      exact ih (k + 1) (by omega) (by omega)

theorem tblFree_least {α : Type} {t : Tbl α} {i : Nat} (hnone : tblGet t i = none) (hbelow : ∀ k, k < i → (tblGet t k).isSome = true) :
    tblFree t = i := by
  have hsub : List.range i ⊆ t.map (·.1) := fun k hk => by
    obtain ⟨x, hx⟩ := Option.isSome_iff_exists.mp (hbelow k (List.mem_range.mp hk))
    exact List.mem_map.mpr ⟨(k, x), tblGet_mem _ _ _ hx, rfl⟩
  have hlen := (List.nodup_range.subperm hsub).length_le
  rw [List.length_range, List.length_map] at hlen
  exact tblFreeFrom_least hnone hbelow _ 0 (Nat.zero_le i) (by omega)

theorem createInstance_good (s : State) (p : Fin 8) (c : Cmd) (d : Bytes) :
    (!zeroAt c.params 2 38 || decide (le c.params 0 2 = 0) || decide ((portAt s p.val).totalVfs < le c.params 0 2) ||
      (instOf s p.val (le c.params 0 2)).isSome || !instDescOk d) = true ↔
    ¬ (zeroAt c.params 2 38 = true ∧ le c.params 0 2 ≠ 0 ∧ le c.params 0 2 ≤ (portAt s p.val).totalVfs ∧ instOf s p.val (le c.params 0 2) = none ∧
      instDescOk d = true) := by
  simp only [Bool.or_eq_true, Bool.not_eq_eq_eq_not, Bool.not_true, decide_eq_true_eq, Option.isSome_iff_ne_none, not_and_or, Bool.not_eq_true,
    ne_eq, not_not, not_le, or_assoc]

theorem setRate_good (c : Cmd) (n : Nat) : (!zeroAt c.params 4 36 || decide (n = 0) || decide (4096 < n)) = true ↔
    ¬ (zeroAt c.params 4 36 = true ∧ 1 ≤ n ∧ n ≤ 4096) := by
  simp only [Bool.or_eq_true, Bool.not_eq_eq_eq_not, Bool.not_true, decide_eq_true_eq, not_and_or, Bool.not_eq_true, not_le, Nat.lt_one_iff, or_assoc]

theorem ownInst_own {s : State} {p : Fin 8} {i : Nat} {x : Inst} (hx : tblGet s.insts i = some x) (hp : x.port = p) : ownInst s p i = some x := by
  simp [ownInst, hx, hp]

theorem ownInst_foreign {s : State} {p : Fin 8} {i : Nat} (h : ∀ x, tblGet s.insts i = some x → x.port ≠ p) : ownInst s p i = none := by
  unfold ownInst
  cases hx : tblGet s.insts i with
  | none => rfl
  | some x => exact if_neg (h x hx)

/-! #### A reset requested -/

/-- The commands a reset takes out of the queue change the instance's commands, and completions only where it drains. -/
theorem resetCommands_drain (s : State) (i : Nat) (x : Inst) : ∃ (ctl : Inst → CmdQ) (w : List Waiting), resetCommands s i x =
    { modInst s i (fun y => { y with ctl := ctl y }) with waiting := w } ∧ (x.drain = false → w = s.waiting) := by
  cases hd : x.drain with
  | true =>
    obtain ⟨ctl, w, h⟩ := resetCommands_effect s i x
    exact ⟨ctl, w, h, nofun⟩
  | false =>
    unfold resetCommands
    simp only [hd, Bool.false_eq_true, if_false]
    exact ⟨_, s.waiting, rfl, fun _ => rfl⟩

theorem beginReset_begun {s : State} {i : Nat} {x : Inst} (hx : tblGet s.insts i = some x) : ∃ insts w, beginReset s i = { s with insts := insts, waiting := w } ∧
    (∃ y, tblGet insts i = some y ∧ y.reset = x.reset ∧ y.state = .resetting ∧ y.gen = if x.drain then x.gen else (x.gen + 1) % 2 ^ 32) ∧
    (∀ k, k ≠ i → tblGet insts k = tblGet s.insts k) ∧ (x.drain = false → w = s.waiting) := by
  obtain ⟨ctl, w, hcmds, hw⟩ := resetCommands_drain s i x
  unfold beginReset
  simp only [hx, hcmds]
  refine ⟨_, w, rfl, ?_, fun k hk => ?_, hw⟩
  · simp only [modInst_insts, tblGet_mod_same, hx, Option.map_some, Option.some.injEq, exists_eq_left']
    exact ⟨trivial, trivial, trivial⟩
  · simp only [modInst_insts, tblGet_mod_other _ _ _ _ hk]

theorem requestReset_asked {s : State} {i : Nat} {x : Inst} (w : ResetWait) (hx : tblGet s.insts i = some x) :
    ResetAsked s (requestReset (modAdmQ s w.port.val startCmd) i [w]) i x w := by
  generalize hu : modAdmQ s w.port.val startCmd = u
  have hinsts : u.insts = s.insts := hu ▸ rfl
  have hbrt : u.brt = s.brt := hu ▸ rfl
  have hwaiting : u.waiting = s.waiting := hu ▸ rfl
  have hports : u.ports = (modPort s w.port.val (fun h => { h with adm := { h.adm with q := startCmd h.adm.q } })).ports := hu ▸ rfl
  have hframe : { u with insts := s.insts, ports := s.ports, waiting := s.waiting } = s := hu ▸ rfl
  have hxu : tblGet u.insts i = some x := hinsts ▸ hx
  unfold requestReset
  simp only [hxu]
  cases hreset : x.reset with
  | some r =>
    refine ⟨⟨_, onlyInst_modInst _ hxu |>.1, fun h => (nomatch hreset ▸ h), fun r' hr => ?_⟩, fun k hk => ?_, hports, fun _ => hwaiting, hframe⟩
    · cases hreset.symm.trans hr
      rfl
    · simp only [modInst_insts, tblGet_mod_other _ _ _ _ hk, hinsts]
  | none =>
    have only := onlyInst_modInst (fun y => { y with reset := some ⟨requestBreath u, false, [w]⟩ }) hxu
    cases hexhale : u.brt.exhale with
    | true =>
      have hexhale' : s.brt.exhale = true := hbrt ▸ hexhale
      refine ⟨⟨_, only.1, fun _ => ⟨?_, fun h => absurd h (by simp [hexhale']), fun _ => rfl⟩, fun r hr => (nomatch hreset ▸ hr)⟩, fun k hk => ?_, hports,
        fun _ => hwaiting, hframe⟩
      · simp only [requestBreath, hbrt]
      · exact (only.2 k hk).trans (by rw [hinsts])
    | false =>
      have hexhale' : s.brt.exhale = false := hbrt ▸ hexhale
      obtain ⟨insts, ws, hbegin, ⟨y, hy, hyr, hys, hyg⟩, hothers, hws⟩ := beginReset_begun only.1
      simp only [Bool.false_eq_true, if_false, hbegin]
      refine ⟨⟨y, hy, fun _ => ⟨?_, fun _ => ⟨hys, hyg⟩, fun h => absurd h (by simp [hexhale'])⟩, fun r hr => (nomatch hreset ▸ hr)⟩, fun k hk => ?_, hports,
        fun hd => ?_, hframe⟩
      · rw [hyr]
        simp only [requestBreath, hbrt]
      · exact (hothers k hk).trans ((only.2 k hk).trans (by rw [hinsts]))
      · exact (hws hd).trans hwaiting

/-! #### QUERY -/

/-- The report a QUERY asks for, class by class. -/
theorem queryReport_eq (s : State) (p : Fin 8) (cls i : Nat) : queryReport s p cls i =
    if cls = 0 ∧ i = 0 then some (deviceReport s) else if cls = 1 ∧ i = p.val then some (portReport s p)
    else if cls = 2 then ((tblGet s.insts i).filter (fun x => decide (x.port = p))).map (fun x => instanceReport s i x (extentsUnacked s i))
    else if cls = 3 then s.charts.inForce.bind (fun ch => (ch.pools.find? (fun q => q.id = i)).map (poolReport s ch))
    else if cls = 4 then (s.changes.live.find? (fun e => e.1 % 65536 = i && s.brt.count < e.2.expiry)).map (fun e => changeReport s e.1 e.2)
    else none := by
  have hown : ownInst s p i = (tblGet s.insts i).filter (fun x => decide (x.port = p)) := by
    unfold ownInst
    cases tblGet s.insts i with
    | none => rfl
    | some x => by_cases hp : x.port = p <;> simp [Option.filter, hp]
  match cls with
  | 0 => by_cases hi : i = 0 <;> simp [queryReport, hi]
  | 1 => by_cases hi : i = p.val <;> simp [queryReport, hi]
  | 2 => simp [queryReport, hown]
  | 3 => simp [queryReport]
  | 4 => simp [queryReport, changeByLow]
  | n + 5 => simp [queryReport]

section
variable {s : State} {p : Fin 8} {c : Cmd} {d : Bytes}

theorem createInstance_ends (h : AdmRuns s p 1 c d) :
    let vf := le c.params 0 2
    let x := instOfDesc p vf d
    let good := zeroAt c.params 2 38 = true ∧ vf ≠ 0 ∧ vf ≤ (portAt s p.val).totalVfs ∧ instOf s p.val vf = none ∧ instDescOk d = true
    (good → instFits s x = true → ∀ i, tblGet s.insts i = none → (∀ k, k < i → (tblGet s.insts k).isSome = true) →
      exec (.createInstance p) s = .next (admMirrored { s with insts := tblPut s.insts i x } p c 5 (instanceBody i x) i)) ∧
    (good → instFits s x = false → exec (.createInstance p) s = .next (admEnds s p c .reservationFailed [] 0)) ∧
    (¬ good → exec (.createInstance p) s = .next (admEnds s p c .inputInvalid [] 0)) := by
  have hexec : exec (.createInstance p) s = whenRunning s (admRun s p 1 (createInstance p s)) := rfl
  have hruns := exec_admRuns hexec h (by decide) (by decide)
  rw [hruns]
  unfold createInstance
  refine ⟨fun hgood hfits i hnone hbelow => ?_, fun hgood hfits => ?_, fun hbad => ?_⟩
  · rw [if_neg (mt (createInstance_good s p c d).mp (not_not_intro hgood)), if_neg (by rw [hfits]; decide)]
    rw [tblFree_least hnone hbelow]
    exact congrArg _ (AdmRuns.mirrored h _ _ _ rfl)
  · rw [if_neg (mt (createInstance_good s p c d).mp (not_not_intro hgood)), if_pos (by rw [hfits]; decide)]
    exact congrArg _ (AdmRuns.ends h _ _ _ rfl)
  · rw [if_pos ((createInstance_good s p c d).mpr hbad)]
    exact congrArg _ (AdmRuns.ends h _ _ _ rfl)

theorem setRate_ends (h : AdmRuns s p 4 c d) {x : Inst} (hx : tblGet s.insts (le c.params 0 2) = some x) (hp : x.port = p) :
    let i := le c.params 0 2
    let n := le c.params 2 2
    let good := zeroAt c.params 4 36 = true ∧ 1 ≤ n ∧ n ≤ 4096
    let y := { x with nextShare := some n }
    (good → portShares s p (some i) + n ≤ 4096 →
      exec (.setRate p) s = .next (admMirrored { s with insts := tblPut s.insts i y } p c 5 (instanceBody i y) 0)) ∧
    (good → 4096 < portShares s p (some i) + n → exec (.setRate p) s = .next (admEnds s p c .reservationFailed [] 0)) ∧
    (¬ good → exec (.setRate p) s = .next (admEnds s p c .inputInvalid [] 0)) := by
  have hexec : exec (.setRate p) s = whenRunning s (admRun s p 4 (setRate p s)) := rfl
  have hruns := exec_admRuns hexec h (by decide) (by decide)
  rw [hruns]
  simp only [setRate, ownInst_own hx hp]
  refine ⟨fun hgood hfits => ?_, fun hgood hfits => ?_, fun hbad => ?_⟩
  · rw [if_neg (mt (setRate_good c _).mp (not_not_intro hgood)), if_neg (Nat.not_lt.mpr hfits)]
    exact congrArg _ (AdmRuns.mirrored h _ _ _ rfl)
  · rw [if_neg (mt (setRate_good c _).mp (not_not_intro hgood)), if_pos hfits]
    exact congrArg _ (AdmRuns.ends h _ _ _ rfl)
  · rw [if_pos ((setRate_good c _).mpr hbad)]
    exact congrArg _ (AdmRuns.ends h _ _ _ rfl)

/-- A command on an instance that is not the port's, or with a parameter that must be zero, has INPUT_INVALID. -/
theorem instanceCommand_invalid {e : Nat × Instr} (he : e ∈ [(2, Instr.destroyInstance p), (3, .resetInstance p), (4, .setRate p)])
    (h : AdmRuns s p e.1 c d)
    (hbad : (∀ x, tblGet s.insts (le c.params 0 2) = some x → x.port ≠ p) ∨
      zeroAt c.params (if e.1 = 4 then 4 else 2) (if e.1 = 4 then 36 else 38) = false) :
    exec e.2 s = .next (admEnds s p c .inputInvalid [] 0) := by
  have destroyed : exec (.destroyInstance p) s = whenRunning s (admRun s p 2 (destroyInstance p s)) := rfl
  have reset : exec (.resetInstance p) s = whenRunning s (admRun s p 3 (resetInstance p s)) := rfl
  have rated : exec (.setRate p) s = whenRunning s (admRun s p 4 (setRate p s)) := rfl
  have ends := AdmRuns.ends h .inputInvalid [] 0 rfl
  have named {x : Inst} (hown : ownInst s p (le c.params 0 2) = some x) := hbad.resolve_left fun hforeign => by
    rw [ownInst_foreign hforeign] at hown
    cases hown
  simp only [List.mem_cons, List.not_mem_nil, or_false] at he
  rcases he with rfl | rfl | rfl
  · rw [exec_admRuns destroyed h (by decide) (by decide), ← ends]
    cases hown : ownInst s p (le c.params 0 2) with
    | none => simp only [destroyInstance, hown]
    | some x =>
      have hzero : zeroAt c.params 2 38 = false := named hown
      simp [destroyInstance, hown, hzero]
  · rw [exec_admRuns reset h (by decide) (by decide), ← ends]
    cases hown : ownInst s p (le c.params 0 2) with
    | none => simp only [resetInstance, hown]
    | some x =>
      have hzero : zeroAt c.params 2 38 = false := named hown
      simp [resetInstance, hown, hzero]
  · rw [exec_admRuns rated h (by decide) (by decide), ← ends]
    cases hown : ownInst s p (le c.params 0 2) with
    | none => simp only [setRate, hown]
    | some x =>
      have hzero : zeroAt c.params 4 36 = false := named hown
      simp [setRate, hown, hzero]

theorem query_ends (h : AdmRuns s p 5 c d) {rep : Option Bytes} (hrep : queryReport s p (byteAt c.params 0) (le c.params 2 2) = rep) :
    let good := zeroAt c.params 1 1 = true ∧ zeroAt c.params 4 36 = true
    (∀ r, rep = some r → good → r.length ≤ c.dataLen → exec (.query p) s = .next (admEnds s p c .ok r r.length)) ∧
    (rep = none ∨ ¬ good ∨ (∃ r, rep = some r ∧ c.dataLen < r.length) → exec (.query p) s = .next (admEnds s p c .inputInvalid [] 0)) := by
  have hexec : exec (.query p) s = whenRunning s (admRun s p 5 (query p s)) := rfl
  have hruns := exec_admRuns hexec h (by decide) (by decide)
  have hbad (r : Bytes) : (!zeroAt c.params 1 1 || !zeroAt c.params 4 36 || decide (c.dataLen < r.length)) = true ↔
      ¬ (zeroAt c.params 1 1 = true ∧ zeroAt c.params 4 36 = true) ∨ c.dataLen < r.length := by
    simp only [Bool.or_eq_true, Bool.not_eq_eq_eq_not, Bool.not_true, decide_eq_true_eq, not_and_or, Bool.not_eq_true]
  rw [hruns]
  unfold query
  rw [hrep]
  refine ⟨fun r hr hgood hlen => ?_, fun hno => ?_⟩
  · subst hr
    dsimp only
    rw [if_neg (mt (hbad r).mp (not_or.mpr ⟨not_not_intro hgood, Nat.not_lt.mpr hlen⟩))]
    exact congrArg _ (AdmRuns.ends h _ _ _ rfl)
  · cases rep with
    | none => exact congrArg _ (AdmRuns.ends h _ _ _ rfl)
    | some r =>
      have hor : ¬ (zeroAt c.params 1 1 = true ∧ zeroAt c.params 4 36 = true) ∨ c.dataLen < r.length := by
        rcases hno with hnone | hgood | ⟨r', hr', hlen⟩
        · cases hnone
        · exact .inl hgood
        · cases hr'
          exact .inr hlen
      dsimp only
      rw [if_pos ((hbad r).mpr hor)]
      exact congrArg _ (AdmRuns.ends h _ _ _ rfl)

/-- Every admin command runs its function where the common checks pass it. -/
theorem admCommands_run (s : State) (p : Fin 8) : ∀ e ∈ admCommands p, ∃ f, exec e.2 s = whenRunning s (admRun s p e.1 f) := by
  simp only [admCommands, List.forall_mem_cons]
  exact ⟨⟨createInstance p s, rfl⟩, ⟨destroyInstance p s, rfl⟩, ⟨resetInstance p s, rfl⟩, ⟨setRate p s, rfl⟩, ⟨query p s, rfl⟩, ⟨chartDelta p s, rfl⟩,
    ⟨admApprove p s, rfl⟩, ⟨importDomain p s, rfl⟩, ⟨enrollOfficer p s, rfl⟩, fun _ he => nomatch he⟩

theorem admCommands_known (p : Fin 8) : ∀ e ∈ admCommands p, 1 ≤ e.1 ∧ e.1 ≤ 0xB := by
  simp [admCommands]

/-- Every admin command that one of the common checks refuses ends with the check's status. -/
theorem admCommand_refused {data : Option Bytes} {e : Nat × Instr} {st : Status} (hf : AdmFront s p c data) (he : e ∈ admCommands p)
    (hop : c.opcode = e.1) (hr : admRefusal s p c = some st) : exec e.2 s = .next (admEnds s p c st [] 0) := by
  obtain ⟨f, hexec⟩ := admCommands_run s p e he
  obtain ⟨hlo, hhi⟩ := admCommands_known p e he
  exact exec_admRefused hexec hf hop hlo hhi hr

end

/-- Settles O35: a refused command ends with the refusal's status; an admin command on instances changes its instance and ends, or asks for its reset. -/
theorem instanceCommands : Obligations.InstanceCommands := by
  unfold Obligations.InstanceCommands
  intro s p c d
  refine ⟨fun data hf e he hop st hr => admCommand_refused hf he hop hr, createInstance_ends, fun h x hx hp => setRate_ends h hx hp,
    fun h hz x hx hp => ?_, fun h hz x hx hp => ?_, fun e he h hbad => instanceCommand_invalid he h hbad, fun h => ?_⟩
  · have hexec : exec (.resetInstance p) s = whenRunning s (admRun s p 3 (resetInstance p s)) := rfl
    refine ⟨_, exec_admRuns hexec h (by decide) (by decide), ?_⟩
    simp only [resetInstance, ownInst_own hx hp, hz, Bool.not_true, Bool.false_eq_true, if_false]
    exact requestReset_asked ⟨p, c.tag, false⟩ hx
  · have hexec : exec (.destroyInstance p) s = whenRunning s (admRun s p 2 (destroyInstance p s)) := rfl
    refine ⟨_, exec_admRuns hexec h (by decide) (by decide), ?_⟩
    simp only [destroyInstance, ownInst_own hx hp, hz, Bool.not_true, Bool.false_eq_true, if_false]
    exact requestReset_asked ⟨p, c.tag, true⟩ hx
  · exact query_ends h (queryReport_eq s p _ _)

end Sys2Proof.CommandRows

/-! ### The end of an instance reset (R85, R86) -/

namespace Sys2Proof.ResetRows

open Sys2Proof Sys2Proof.Machine Sys2Proof.Safety Sys2Proof.Rows Sys2Proof.Laws Sys2Proof.StateFacts Sys2Proof.RingWrites Sys2Proof.LadderRows
open Sys2Proof.HaltRows Sys2Proof.WriteRows Sys2Proof.QueueRows Sys2Proof.FetchRows Sys2Proof.DmaRows

/-! #### Jobs that end off the ladder, one after another -/

theorem endOffLadder_ended {s : State} {k : Nat} {j : Job} (st : Status) (due : Nat) (hj : tblGet s.jobs k = some j) :
    (endOffLadder s k st [] 0 due).insts = s.insts ∧ (endOffLadder s k st [] 0 due).jobs = tblDel s.jobs k ∧
      (endOffLadder s k st [] 0 due).waiting = s.waiting ++ (if hostJob j then [⟨jobCompl j st [] 0, 2, 0, due⟩] else []) := by
  obtain ⟨wch, clusters, rng, h⟩ := endOffLadder_frame st [] 0 due hj
  rw [h]
  exact ⟨rfl, rfl, rfl⟩

/-- The jobs of a list end: none of them is left, the others are as they were, and each that a host submitted has its completion waiting. -/
theorem endOffLadders_effect (st : Status) (due : Nat) (ks : List Nat) (s : State) :
    let t := ks.foldl (fun t k => endOffLadder t k st [] 0 due) s
    t.insts = s.insts ∧ (∀ k, tblGet t.jobs k = if k ∈ ks then none else tblGet s.jobs k) ∧ (∀ w ∈ s.waiting, w ∈ t.waiting) ∧
      ∀ k ∈ ks, ∀ j, tblGet s.jobs k = some j → hostJob j = true → ⟨jobCompl j st [] 0, 2, 0, due⟩ ∈ t.waiting := by
  induction ks generalizing s with
  | nil => exact ⟨rfl, fun _ => by simp, fun _ h => h, fun _ h => nomatch h⟩
  | cons k ks ih =>
    obtain ⟨hinsts, hjobs, hkept, hends⟩ := ih (endOffLadder s k st [] 0 due)
    rw [List.foldl_cons]
    cases hj : tblGet s.jobs k with
    | none =>
      have hstep : endOffLadder s k st [] 0 due = s := by simp only [endOffLadder, hj]
      rw [hstep] at hinsts hjobs hkept hends ⊢
      refine ⟨hinsts, fun i => ?_, hkept, fun i hi j hij => ?_⟩
      · rw [hjobs]
        by_cases hik : i = k
        · simp [hik, hj]
        · simp [hik]
      · rcases List.mem_cons.mp hi with rfl | hi
        · cases hj.symm.trans hij
        · exact hends i hi j hij
    | some x =>
      obtain ⟨hsame, hdel, hwait⟩ := endOffLadder_ended st due hj
      refine ⟨hinsts.trans hsame, fun i => ?_, fun w hw => hkept w (by rw [hwait]; exact List.mem_append_left _ hw), fun i hi j hij hhost => ?_⟩
      · rw [hjobs, hdel]
        by_cases hik : i = k
        · simp [hik, tblGet_del_same]
        · simp [hik, tblGet_del_other _ _ _ hik]
      · by_cases hik : i = k
        · subst hik
          cases hj.symm.trans hij
          exact hkept _ (by rw [hwait, hhost, if_pos rfl]; exact List.mem_append_right _ (List.mem_singleton.mpr rfl))
        · exact hends i ((List.mem_cons.mp hi).resolve_left hik) j (by rw [hdel, tblGet_del_other _ _ _ hik]; exact hij) hhost

/-! #### The reset's end -/

section
variable {s : State} {i : Nat} {x : Inst} {r : ResetRun}

theorem any_destroy (hw : ∀ w ∈ r.waiters, w.destroy = false) : r.waiters.any ResetWait.destroy = false :=
  List.any_eq_false.mpr fun w h => by simp [hw w h]

theorem resetOf_some (hx : tblGet s.insts i = some x) (hstate : x.state = .resetting) (hr : x.reset = some r)
    (hw : ∀ w ∈ r.waiters, w.destroy = false) : resetOf s i = some (x, r) := by
  have hnot : isDestroying x = false := by simp only [isDestroying, hr, any_destroy hw, Bool.and_false]
  simp [resetOf, hx, hstate, hnot, hr]

/-- Once its breaths have passed and nothing of a draining instance is left, the reset ends and its waiters complete. -/
theorem instanceResetDone_eq (hx : tblGet s.insts i = some x) (hstate : x.state = .resetting) (hr : x.reset = some r)
    (hw : ∀ w ∈ r.waiters, w.destroy = false) (hexhale : s.brt.exhale = false) (hhalt : s.dev.halting = false)
    (hlate : r.breath + (if x.drain then 2 else 1) ≤ s.brt.count) (hquiet : x.drain = true → instanceQuiet s i x = true) :
    instanceResetDone s i = r.waiters.foldl (resetWaiter i (resetInst x).gen) (modInst (wipeContexts s i) i (fun _ => resetInst x)) := by
  have hguard : ¬ (s.brt.exhale || s.dev.halting || decide (s.brt.count < r.breath + (if x.drain then 2 else 1)) ||
      (x.drain && !instanceQuiet s i x)) = true := by
    simp only [hexhale, hhalt, Bool.or_eq_true, Bool.false_eq_true, false_or, decide_eq_true_eq, Bool.and_eq_true, Bool.not_eq_eq_eq_not,
      Bool.not_true, not_or, not_lt, not_and]
    exact ⟨hlate, fun hd => by simp [hquiet hd]⟩
  simp only [instanceResetDone, resetOf_some hx hstate hr hw]
  rw [if_neg hguard, any_destroy hw, if_neg Bool.false_ne_true]

theorem mem_wipedContexts (e : Nat × CipherCtx) : e ∈ (wipeContexts s i).bore.contexts ↔ e ∈ s.bore.contexts ∧ e.1 / 4096 ≠ i := by
  change e ∈ s.bore.contexts.filter (fun e => e.1 / 4096 ≠ i) ↔ _
  rw [List.mem_filter, decide_eq_true_eq]

/-- A RESET_INSTANCE that stands alone at the front of its queue completes at this inhale with the new generation. -/
theorem resetWaiter_completes {gen : Nat} {w : ResetWait} {c : Cmd} (hq : (portAt s w.port.val).adm.q = ⟨[c], none⟩) (hop : c.opcode = 3)
    (htag : c.tag ≠ 0xFFFF) (hstarted : c.started = true) (hi : le c.params 0 2 = i) :
    resetWaiter i gen s w = addWaiting (modAdmQ s w.port.val popCmd) (admResult w.port c .ok [] gen) 4 w.port.val s.brt.count := by
  have hport : w.port.val < s.ports.length := by
    by_contra hout
    rw [portAt, List.getD_eq_default _ _ (Nat.not_lt.mp hout)] at hq
    cases hq
  have hfront : admFront s w.port.val = some c := by simp [admFront, hq]
  simp only [resetWaiter, hfront, hop, hstarted, hi, decide_true, Bool.and_self, if_true]
  rw [admDoneBy_front _ _ _ _ hport hq (fun e he => nomatch he), admCompl_eq _ _ _ (fun h => absurd h htag)]

theorem drainCompletions_eq (hx : tblGet s.insts i = some x) (hstate : x.state = .resetting) (hr : x.reset = some r)
    (hw : ∀ w ∈ r.waiters, w.destroy = false) (hexhale : s.brt.exhale = false) (hhalt : s.dev.halting = false) (hd : x.drain = true)
    (hnot : r.drained = false) (hlate : r.breath < s.brt.count) :
    drainCompletions s i = modInst (((s.jobs.filter (fun e => e.2.inst = i && e.2.stage = .aborted && e.2.abort = some .instanceReset)).map (·.1)).foldl
      (fun t k => endOffLadder t k .instanceReset [] 0 s.brt.count) s) i (fun y => { y with reset := some { r with drained := true } }) := by
  simp only [drainCompletions, resetOf_some hx hstate hr hw]
  rw [if_neg (by simp [hexhale, hd, hnot, haltHolds, hhalt, hlate])]

end

/-- The number of a job the lookup finds stands in the list of those a filter of the table keeps. -/
theorem mem_filtered {s : State} {k : Nat} {j : Job} {f : Nat × Job → Bool} (hj : tblGet s.jobs k = some j) (hf : f (k, j) = true) :
    k ∈ (s.jobs.filter f).map (·.1) :=
  List.mem_map.mpr ⟨(k, j), List.mem_filter.mpr ⟨tblGet_mem _ _ _ hj, hf⟩, rfl⟩

/-- Settles O36: the end of a reset is one change of the instance; a waiting command completes with its generation; a draining reset's jobs complete. -/
theorem instanceResets : Obligations.InstanceResets := by
  unfold Obligations.InstanceResets
  intro s i x r hrun hexhale hx hstate hr hw hhalt
  have hdone : exec (.instanceResetDone i) s = whenRunning s (instanceResetDone s i) := rfl
  have hdrain : exec (.resetDrainCompletions i) s = whenRunning s (drainCompletions s i) := rfl
  have only := onlyInst_modInst (s := wipeContexts s i) (fun _ => resetInst x) hx
  refine ⟨fun hlate hquiet hnone => ?_, fun hlate hquiet w c hone hq hop htag hstarted hi => ?_, fun hd hnot hlate => ?_⟩
  · have hstep := instanceResetDone_eq hx hstate hr hw hexhale hhalt hlate hquiet
    rw [hnone] at hstep
    refine does_whenRunning hdone hrun ?_
    rw [hstep]
    exact ⟨only.1, only.2, mem_wipedContexts, rfl⟩
  · have hstep := instanceResetDone_eq hx hstate hr hw hexhale hhalt hlate hquiet
    rw [hone, List.foldl_cons, List.foldl_nil,
      resetWaiter_completes (s := modInst (wipeContexts s i) i (fun _ => resetInst x)) (i := i) hq hop htag hstarted hi] at hstep
    refine does_whenRunning hdone hrun ?_
    rw [hstep]
    exact ⟨resetInst x, only.1, rfl, rfl, rfl⟩
  · have hstep := drainCompletions_eq hx hstate hr hw hexhale hhalt hd hnot hlate
    obtain ⟨hinsts, hjobs, -, hends⟩ := endOffLadders_effect .instanceReset s.brt.count
      ((s.jobs.filter (fun e => e.2.inst = i && e.2.stage = .aborted && e.2.abort = some .instanceReset)).map (·.1)) s
    refine does_whenRunning hdrain hrun ?_
    rw [hstep]
    refine ⟨?_, fun k j hj hij hstage habort => ?_, fun k j hj hij hstage habort hinternal => ?_⟩
    · rw [modInst_insts, tblGet_mod_same, hinsts, hx, Option.map_some]
    · have hget := (hjobs k).symm.trans hj
      split at hget
      · cases hget
      next hout => exact hout (mem_filtered hget (by simp [hij, hstage, habort]))
    · have hin := hends k (mem_filtered hj (by simp [hij, hstage, habort])) j hj (by simp [hostJob, hinternal])
      exact ⟨_, hin, by simp only [jobCompl, jobRing, hij], rfl, rfl, rfl, rfl⟩

end Sys2Proof.ResetRows

/-! ### Staged changes (R67, R68) -/

namespace Sys2Proof.ChangeRows

open Sys2Proof Sys2Proof.Machine Sys2Proof.Safety Sys2Proof.Rows Sys2Proof.Laws Sys2Proof.StateFacts Sys2Proof.RingWrites Sys2Proof.LadderRows
open Sys2Proof.HaltRows Sys2Proof.WriteRows Sys2Proof.QueueRows Sys2Proof.FetchRows Sys2Proof.DmaRows Sys2Proof.CommandRows

/-! #### The number of a new change -/

/-- What the search for a number passes over is taken, and it stops at a free number before its fuel runs out. -/
theorem nextChangeId_passes (live : Tbl Change) (fuel n : Nat) :
    n ≤ nextChangeId live fuel n ∧ nextChangeId live fuel n ≤ n + fuel ∧
      (∀ m, n ≤ m → m < nextChangeId live fuel n → ∃ e ∈ live, e.1 % 65536 = m % 65536) ∧
      (nextChangeId live fuel n < n + fuel → ∀ e ∈ live, e.1 % 65536 ≠ nextChangeId live fuel n % 65536) := by
  induction fuel generalizing n with
  | zero => exact ⟨Nat.le_refl _, Nat.le_refl _, fun m hlo hhi => absurd hlo (Nat.not_le.mpr hhi), fun h => absurd h (Nat.lt_irrefl _)⟩
  | succ fuel ih =>
    unfold nextChangeId
    split
    next htaken =>
      obtain ⟨hlo, hhi, hpass, hstop⟩ := ih (n + 1)
      refine ⟨by omega, by omega, fun m hm hlt => ?_, fun hlt => hstop (by omega)⟩
      by_cases hmn : m = n
      · subst hmn
        obtain ⟨e, he, heq⟩ := List.any_eq_true.mp htaken
        exact ⟨e, he, of_decide_eq_true heq⟩
      · exact hpass m (by omega) hlt
    next hfree =>
      refine ⟨Nat.le_refl _, by omega, fun m hlo hhi => absurd hlo (Nat.not_le.mpr hhi), fun _ e he heq => hfree ?_⟩
      exact List.any_eq_true.mpr ⟨e, he, decide_eq_true heq⟩

/-- Fewer changes wait than there are low halves, so one of the next numbers is free. -/
theorem nextChangeId_new {s : State} (h : s.changes.live.length < 65536) :
    NewId s (nextChangeId s.changes.live (s.changes.live.length + 1) s.changes.next) := by
  obtain ⟨hlo, hhi, hpass, hstop⟩ := nextChangeId_passes s.changes.live (s.changes.live.length + 1) s.changes.next
  refine ⟨hlo, hstop (lt_of_le_of_ne hhi fun hend => ?_), hpass⟩
  have hsub : (List.range (s.changes.live.length + 1)).map (fun k => (s.changes.next + k) % 65536) ⊆ s.changes.live.map (fun e => e.1 % 65536) := by
    intro low hlow
    obtain ⟨k, hk, rfl⟩ := List.mem_map.mp hlow
    have hlt := List.mem_range.mp hk
    obtain ⟨e, he, heq⟩ := hpass (s.changes.next + k) (by omega) (by omega)
    exact List.mem_map.mpr ⟨e, he, heq⟩
  have hnodup : ((List.range (s.changes.live.length + 1)).map (fun k => (s.changes.next + k) % 65536)).Nodup := by
    refine List.Nodup.map_on (fun a ha b hb hab => ?_) List.nodup_range
    have hlta := List.mem_range.mp ha
    have hltb := List.mem_range.mp hb
    omega
  have hlen := (hnodup.subperm hsub).length_le
  simp only [List.length_map, List.length_range] at hlen
  omega

/-! #### Staging -/

theorem stageChange_staged {s : State} {c : Carrier} (kind : ChangeKind) (data params : Bytes) (h : MayStage s c) : ∃ id, NewId s id ∧
    stageChange s kind c data params = .ok (id, staged s id kind c data params) := by
  obtain ⟨halarm, hfew, hlen⟩ := h
  refine ⟨_, nextChangeId_new hlen, ?_⟩
  rw [stageChange, halarm, if_neg Bool.false_ne_true, if_neg (Nat.not_le.mpr hfew)]
  rfl

theorem stageChange_full {s : State} {c : Carrier} (kind : ChangeKind) (data params : Bytes) (h : 4 ≤ stagedOf s c) : ∃ st, st ≠ .ok ∧
    stageChange s kind c data params = .error st := by
  unfold stageChange
  split
  · exact ⟨.rngFailed, nofun, rfl⟩
  · exact ⟨.reservationFailed, nofun, rfl⟩

theorem fullCheck_error {s : State} {d : Bytes} {st : Status} (h : fullCheck s d = .error st) : st ≠ .ok := by
  unfold fullCheck at h
  split at h
  · cases h; nofun
  · cases h; nofun
  · split at h
    · cases h
    · cases h; nofun

theorem deltaCheck_error {s : State} {d : Bytes} {st : Status} (h : deltaCheck s d = .error st) : st ≠ .ok := by
  unfold deltaCheck at h
  split at h
  · cases h; nofun
  · split at h
    · cases h; nofun
    · cases h; nofun
    · split at h
      · cases h
      · cases h; nofun

theorem enrolOk_error {s : State} {i : Nat} {d : Bytes} {st : Status} (h : enrolOk s i d = some st) : st ≠ .ok := by
  unfold enrolOk at h
  split at h
  · split at h
    · cases h; nofun
    · split at h
      · cases h; nofun
      · cases h
  · split at h
    · cases h; nofun
    · cases h

/-- The check of a chart image by the mode: a full chart in TUNE, else a delta. -/
def imageCheck (s : State) (d : Bytes) : Except Status Chart := if s.dev.mode = .tune then fullCheck s d else deltaCheck s d

theorem imageCheck_error {s : State} {d : Bytes} {st : Status} (h : imageCheck s d = .error st) : st ≠ .ok := by
  unfold imageCheck at h
  split at h
  · exact fullCheck_error h
  · exact deltaCheck_error h

section
variable {s : State} {p : Fin 8} {c : Cmd} {d : Bytes}

theorem exec_chartDelta (h : AdmRuns s p 6 c d) : exec (.chartDelta p) s = .next (if !zeroAt c.params 0 40 then admDone s p .inputInvalid [] 0
    else match imageCheck s d with
      | .error st => admDone s p st [] 0
      | .ok _ => match stageChange s (if s.dev.mode = .tune then .fullChart else .chartDelta) (.port p) d [] with
        | .error st => admDone s p st [] 0
        | .ok (id, s1) => admDone s1 p .ok [] id) := by
  have hexec : exec (.chartDelta p) s = whenRunning s (admRun s p 6 (chartDelta p s)) := rfl
  rw [exec_admRuns hexec h (by decide) (by decide)]
  simp only [chartDelta, imageCheck, decide_eq_true_eq] <;> rfl

theorem exec_importDomain (h : AdmRuns s p 8 c d) : exec (.importDomain p) s = .next (importDomain p s c d) :=
  exec_admRuns (show _ = whenRunning s (admRun s p 8 (importDomain p s)) from rfl) h (by decide) (by decide)

theorem exec_enrollOfficer (h : AdmRuns s p 9 c d) : exec (.enrollOfficer p) s = .next (enrollOfficer p s c d) :=
  exec_admRuns (show _ = whenRunning s (admRun s p 9 (enrollOfficer p s)) from rfl) h (by decide) (by decide)

theorem chartDelta_ends (h : AdmRuns s p 6 c d) :
    (zeroAt c.params 0 40 = false → exec (.chartDelta p) s = .next (admEnds s p c .inputInvalid [] 0)) ∧
    (zeroAt c.params 0 40 = true → ∀ ch, imageCheck s d = .ok ch → MayStage s (.port p) → ∃ id, NewId s id ∧
      exec (.chartDelta p) s = .next (admEnds (staged s id (if s.dev.mode = .tune then .fullChart else .chartDelta) (.port p) d []) p c .ok [] id)) ∧
    (zeroAt c.params 0 40 = true → ∀ st, imageCheck s d = .error st → exec (.chartDelta p) s = .next (admEnds s p c st [] 0)) := by
  rw [exec_chartDelta h]
  refine ⟨fun hz => ?_, fun hz ch hcheck hmay => ?_, fun hz st hcheck => ?_⟩
  · rw [hz]
    exact congrArg _ (AdmRuns.ends h _ _ _ rfl)
  · obtain ⟨id, hnew, hstage⟩ := stageChange_staged (if s.dev.mode = .tune then .fullChart else .chartDelta) d [] hmay
    refine ⟨id, hnew, ?_⟩
    simp only [hz, hcheck, hstage, Bool.not_true, Bool.false_eq_true, if_false]
    exact congrArg _ (AdmRuns.ends h _ _ _ rfl)
  · simp only [hz, hcheck, Bool.not_true, Bool.false_eq_true, if_false]
    exact congrArg _ (AdmRuns.ends h _ _ _ rfl)

theorem importDomain_ends (h : AdmRuns s p 8 c d) :
    (∀ k, packageOf d = some k → zeroAt c.params 0 40 = true → slice k.envelope 8 32 = recipientId (transportPublic s) →
      MayStage s (.port p) → ∃ id, NewId s id ∧
        exec (.importDomain p) s = .next (admEnds (staged s id .importDomain (.port p) d []) p c .ok [] id)) ∧
    (packageOf d = none → exec (.importDomain p) s = .next (admEnds s p c .inputInvalid [] 0)) := by
  rw [exec_importDomain h]
  refine ⟨fun k hk hz hid hmay => ?_, fun hnone => ?_⟩
  · obtain ⟨id, hnew, hstage⟩ := stageChange_staged .importDomain d [] hmay
    refine ⟨id, hnew, ?_⟩
    simp only [importDomain, hk, hz, hid, hstage, Bool.not_true, ne_eq, not_true_eq_false, decide_false, Bool.or_self, Bool.false_eq_true, if_false]
    exact congrArg _ (AdmRuns.ends h _ _ _ rfl)
  · simp only [importDomain, hnone]
    exact congrArg _ (AdmRuns.ends h _ _ _ rfl)

theorem enrollOfficer_ends (h : AdmRuns s p 9 c d) :
    (byteAt c.params 0 < 16 → zeroAt c.params 1 39 = true → enrolOk s (byteAt c.params 0) d = none → MayStage s (.port p) → ∃ id, NewId s id ∧
      exec (.enrollOfficer p) s = .next (admEnds (staged s id .officer (.port p) d (leBytes 1 (byteAt c.params 0))) p c .ok [] id)) ∧
    (16 ≤ byteAt c.params 0 ∨ zeroAt c.params 1 39 = false → exec (.enrollOfficer p) s = .next (admEnds s p c .inputInvalid [] 0)) := by
  have hbad : (decide (16 ≤ byteAt c.params 0) || !zeroAt c.params 1 39) = true ↔ 16 ≤ byteAt c.params 0 ∨ zeroAt c.params 1 39 = false := by
    simp only [Bool.or_eq_true, decide_eq_true_eq, Bool.not_eq_eq_eq_not, Bool.not_true]
  rw [exec_enrollOfficer h]
  unfold enrollOfficer
  refine ⟨fun hi hz hok hmay => ?_, fun hno => ?_⟩
  · obtain ⟨id, hnew, hstage⟩ := stageChange_staged .officer d (leBytes 1 (byteAt c.params 0)) hmay
    refine ⟨id, hnew, ?_⟩
    rw [if_neg (mt hbad.mp (by simp [hi, hz]))]
    simp only [hok, hstage]
    exact congrArg _ (AdmRuns.ends h _ _ _ rfl)
  · rw [if_pos (hbad.mpr hno)]
    exact congrArg _ (AdmRuns.ends h _ _ _ rfl)

/-- A fifth change of a port is not staged: the command ends with a failure. -/
theorem fifthChange_fails {e : Nat × Instr} (he : e ∈ [(6, Instr.chartDelta p), (8, .importDomain p), (9, .enrollOfficer p)]) (h : AdmRuns s p e.1 c d)
    (hfull : 4 ≤ stagedOf s (.port p)) : ∃ st, st ≠ .ok ∧ exec e.2 s = .next (admEnds s p c st [] 0) := by
  have ended (st : Status) : admDone s p st [] 0 = admEnds s p c st [] 0 := AdmRuns.ends h st [] 0 rfl
  simp only [List.mem_cons, List.not_mem_nil, or_false] at he
  rcases he with rfl | rfl | rfl
  · rw [exec_chartDelta h]
    obtain ⟨st, hne, hstage⟩ := stageChange_full (if s.dev.mode = .tune then .fullChart else .chartDelta) d [] hfull
    split
    · exact ⟨.inputInvalid, nofun, congrArg _ (ended _)⟩
    · cases hcheck : imageCheck s d with
      | error st' => exact ⟨st', imageCheck_error hcheck, congrArg _ (ended _)⟩
      | ok ch =>
        simp only [hstage]
        exact ⟨st, hne, congrArg _ (ended _)⟩
  · rw [exec_importDomain h]
    unfold importDomain
    obtain ⟨st, hne, hstage⟩ := stageChange_full .importDomain d [] hfull
    cases packageOf d with
    | none => exact ⟨.inputInvalid, nofun, congrArg _ (ended _)⟩
    | some k =>
      simp only [hstage]
      split
      · exact ⟨.inputInvalid, nofun, congrArg _ (ended _)⟩
      · exact ⟨st, hne, congrArg _ (ended _)⟩
  · rw [exec_enrollOfficer h]
    unfold enrollOfficer
    obtain ⟨st, hne, hstage⟩ := stageChange_full .officer d (leBytes 1 (byteAt c.params 0)) hfull
    split
    · exact ⟨.inputInvalid, nofun, congrArg _ (ended _)⟩
    · cases hok : enrolOk s (byteAt c.params 0) d with
      | some st' => exact ⟨st', enrolOk_error hok, congrArg _ (ended _)⟩
      | none =>
        simp only [hstage]
        exact ⟨st, hne, congrArg _ (ended _)⟩

end

/-! #### Expiry -/

/-- Showing a request's end changes its mailbox alone. -/
theorem boxShow_frame (s : State) (c : Carrier) (st : Status) : ∃ w l, boxShow s c st = { s with wchBox := w, lcsBox := l } := by
  cases c with
  | port _ => exact ⟨_, _, rfl⟩
  | mctp => exact ⟨_, _, rfl⟩
  | wch _ => exact ⟨_, _, rfl⟩
  | lcs _ => exact ⟨_, _, rfl⟩

theorem boxAt_boxShow {s : State} {c : Carrier} (st : Status) (hw : s.wchBox.length = 8) (hl : s.lcsBox.length = 8) (q : Fin 8)
    (hc : c = .wch q ∨ c = .lcs q) : boxAt (boxShow s c st) c = { boxAt s c with done := true, status := statusCode st } := by
  rcases hc with rfl | rfl
  · exact (getD_listMod _ _ _ _ _).trans (if_pos ⟨rfl, lt_of_lt_of_eq q.isLt hw.symm⟩)
  · exact (getD_listMod _ _ _ _ _).trans (if_pos ⟨rfl, lt_of_lt_of_eq q.isLt hl.symm⟩)

theorem changeExpire_effect {s : State} {id : Nat} {x : Change} (hx : tblGet s.changes.live id = some x) (hlate : x.expiry ≤ s.brt.count) :
    changeExpire s id = if (boxAt s x.carrier).change = id then boxShow (dropChange s id) x.carrier .aborted else dropChange s id := by
  unfold changeExpire
  rw [hx]
  exact if_neg (Nat.not_lt.mpr hlate)

theorem changeExpire_expires {s : State} {id : Nat} {x : Change} (hrun : isRunning s = true) (hx : tblGet s.changes.live id = some x)
    (hlate : x.expiry ≤ s.brt.count) : Does (.changeExpire id) s (fun t => tblGet t.changes.live id = none ∧
      (∀ k, k ≠ id → tblGet t.changes.live k = tblGet s.changes.live k) ∧ t.changes.next = s.changes.next ∧
      ((boxAt s x.carrier).change ≠ id → t.wchBox = s.wchBox ∧ t.lcsBox = s.lcsBox) ∧
      ((boxAt s x.carrier).change = id → s.wchBox.length = 8 → s.lcsBox.length = 8 → ∀ q, x.carrier = .wch q ∨ x.carrier = .lcs q →
        boxAt t x.carrier = { boxAt s x.carrier with done := true, status := 0x0041 }) ∧
      { t with changes := s.changes, wchBox := s.wchBox, lcsBox := s.lcsBox } = s) := by
  have hexec : exec (.changeExpire id) s = whenRunning s (changeExpire s id) := rfl
  refine does_whenRunning hexec hrun ?_
  rw [changeExpire_effect hx hlate]
  obtain ⟨hgone, hothers⟩ := tblGet_del_at s.changes.live id
  by_cases hbox : (boxAt s x.carrier).change = id
  · rw [if_pos hbox]
    have shown := boxAt_boxShow (s := dropChange s id) (c := x.carrier) .aborted
    obtain ⟨w, l, hshow⟩ := boxShow_frame (dropChange s id) x.carrier .aborted
    rw [hshow] at shown ⊢
    exact ⟨hgone, hothers, rfl, fun h => absurd hbox h, fun _ hw hl q hq => shown hw hl q hq, rfl⟩
  · rw [if_neg hbox]
    exact ⟨hgone, hothers, rfl, fun _ => ⟨rfl, rfl⟩, fun h => absurd h hbox, rfl⟩

/-- Settles O37: a change whose data pass is staged under the next free number, what fails ends the command, and a change past its time is dropped. -/
theorem stagedChanges : Obligations.StagedChanges := by
  unfold Obligations.StagedChanges
  intro s p c d
  exact ⟨chartDelta_ends, importDomain_ends, enrollOfficer_ends, fun e he h hfull => fifthChange_fails he h hfull,
    fun id x hrun hx hlate => changeExpire_expires hrun hx hlate⟩

end Sys2Proof.ChangeRows

/-! ### Approvals (R65, R68, R398) -/

namespace Sys2Proof.ApprovalRows

open Sys2Proof Sys2Proof.Machine Sys2Proof.Safety Sys2Proof.Rows Sys2Proof.Laws Sys2Proof.StateFacts Sys2Proof.RingWrites Sys2Proof.LadderRows
open Sys2Proof.HaltRows Sys2Proof.WriteRows Sys2Proof.QueueRows Sys2Proof.FetchRows Sys2Proof.DmaRows Sys2Proof.CommandRows Sys2Proof.ChangeRows

/-! #### Logged events -/

/-- An event changes the management controller's part alone; outside HALTED its record stands at the head of the ring. -/
theorem logEvent_logged {s t : State} {code : Nat} (data : Bytes) (hmode : s.dev.mode ≠ .halted) (hmgc : t.mgc = (logEvent s code data).mgc) :
    Logged s t code := by
  refine ⟨by rw [hmgc]; rfl, fun r hr => ?_⟩
  rw [hmgc] at hr
  simp only [logEvent, logRecord, if_neg hmode] at hr
  cases hcap : ringCap s with
  | zero => simp [hcap] at hr
  | succ n =>
    rw [hcap, List.take_succ_cons, List.head?_cons, Option.mem_some_iff] at hr
    subst hr
    split <;> exact ⟨rfl, rfl, rfl⟩

theorem logEvent_frame (s : State) (code : Nat) (data : Bytes) : ∃ mgc, logEvent s code data = { s with mgc := mgc } := ⟨_, rfl⟩

/-! #### The command that approves -/

/-- The APPROVE at the front has begun. -/
def admBegun (s : State) (p : Fin 8) : State := modAdmQ s p.val startCmd

/-- A begun command leaves as one that has not begun does. -/
theorem admLeft_begun (s : State) (p : Fin 8) : (admLeft (admBegun s p) p).ports = (admLeft s p).ports := by
  have hpop (q : CmdQ) : (startCmd q).cmds.drop 1 = q.cmds.drop 1 := by
    obtain ⟨cmds, data⟩ := q
    cases cmds <;> rfl
  have hports : (admLeft (admBegun s p) p).ports =
      listMod s.ports p.val (fun h => { h with adm := { h.adm with q := ⟨(startCmd h.adm.q).cmds.drop 1, none⟩ } }) :=
    listMod_listMod s.ports p.val _ _
  rw [hports]
  simp only [hpop]
  rfl

section
variable {s : State} {p : Fin 8} {c : Cmd} {sig : Bytes} {id : Nat}

theorem approveDone_ends (h : AdmRuns s p 7 c sig) (hid : le c.params 0 4 = id) {u : State} (st : Status) (held : Nat)
    (hports : u.ports = (admBegun s p).ports) : approveDone u (.port p, id) st held = { u with
      ports := (admLeft s p).ports
      waiting := u.waiting ++ [⟨admResult p c st [] held, 4, p.val, u.brt.count + 1⟩] } := by
  obtain ⟨data, hf⟩ := AdmRuns.front h
  obtain ⟨rest, hq, hnext⟩ := hf.queue
  have hlen : u.ports.length = 8 := by
    rw [hports]
    exact (StateFacts.length_listMod _ _ _).trans hf.ports
  have hq1 : (portAt u p.val).adm.q = ⟨{ c with started := true } :: rest, data⟩ := by
    have hbegun : portAt u p.val = portAt (admBegun s p) p.val := by rw [portAt, hports]; rfl
    have only := onlyPort_modPort p (fun h => { h with adm := { h.adm with q := startCmd h.adm.q } }) hf.ports
    rw [hbegun, show portAt (admBegun s p) p.val = _ from only.1, hq]
    rfl
  have hfront : admFront u p.val = some { c with started := true } := by simp [admFront, hq1]
  have hends := admDone_ends (c := { c with started := true }) (st := st) [] held hlen hq1
    (fun htag => absurd (show c.tag = 0xFFFF from htag) (AdmRuns.tag h)) hnext
  simp only [approveDone, hfront, h.1, hid, decide_true, Bool.and_self, if_true]
  rw [hends]
  have hleft : (admLeft u p).ports = (admLeft s p).ports := by
    rw [← admLeft_begun s p]
    exact congrArg (fun l => listMod l p.val _) hports
  have hu : admLeft u p = { u with ports := (admLeft u p).ports } := rfl
  rw [admEnds, hu, hleft]
  rfl

theorem exec_approve (h : AdmRuns s p 7 c sig) : exec (.approve (.port p)) s = .next (admApprove p s c sig) :=
  exec_admRuns (show _ = whenRunning s (admRun s p 7 (admApprove p s)) from rfl) h (by decide) (by decide)

theorem exec_approveOp (h : AdmRuns s p 7 c sig) (hz : zeroAt c.params 5 35 = true) :
    exec (.approve (.port p)) s = .next (approveOp (admBegun s p) (le c.params 0 4) (byteAt c.params 4) sig (.port p, le c.params 0 4)) := by
  rw [exec_approve h, admApprove, hz, if_neg (by decide)]
  rfl

/-- An approval that fails ends the APPROVE with the failure. -/
theorem approve_refused (h : AdmRuns s p 7 c sig) (hz : zeroAt c.params 5 35 = true) {st : Status}
    (hr : approveRefused s (le c.params 0 4) (byteAt c.params 4) sig = some st) : exec (.approve (.port p)) s =
      .next (admEnds s p c st [] ((liveChange s (le c.params 0 4)).elim 0 (fun x => flag x.officer.isSome))) := by
  have hr1 : approveRefused (admBegun s p) (le c.params 0 4) (byteAt c.params 4) sig = some st := hr
  rw [exec_approveOp h hz]
  unfold approveOp
  rw [hr1]
  dsimp only
  rw [approveDone_ends h rfl _ _ rfl]
  rfl

theorem liveChange_some {x : Change} (hx : tblGet s.changes.live id = some x) (htime : s.brt.count < x.expiry) : liveChange s id = some x := by
  simp only [liveChange, hx, htime, if_true]

section
variable {o : Nat} {x : Change}

theorem approveRefused_none (hx : tblGet s.changes.live id = some x) (htime : s.brt.count < x.expiry) (ho : o < 16)
    (hv : approvalVerifies s id x o sig = true) (hne : x.officer ≠ some o) : approveRefused s id o sig = none := by
  simp only [approveRefused, liveChange_some hx htime, Nat.not_le.mpr ho, hv, hne, Bool.not_true, Bool.false_eq_true, if_false]

/-- The first approval of a change by an officer is held. -/
theorem approveOp_first (hx : tblGet s.changes.live id = some x) (htime : s.brt.count < x.expiry) (ho : o < 16)
    (hv : approvalVerifies s id x o sig = true) (hboot : bootstraps s x o = false) (hnone : x.officer = none) (a : Carrier × Nat) :
    approveOp s id o sig a = approveFirst (logEvent s 0x0302 (leBytes 4 id ++ leBytes 1 o)) id o sig a := by
  unfold approveOp
  rw [approveRefused_none hx htime ho hv (by rw [hnone]; nofun), liveChange_some hx htime]
  dsimp only
  rw [if_neg (by rw [hboot]; decide), hnone]

/-- The second approval, of another officer, makes the change act. -/
theorem approveOp_last {f : Nat} (hx : tblGet s.changes.live id = some x) (htime : s.brt.count < x.expiry) (ho : o < 16)
    (hv : approvalVerifies s id x o sig = true) (hboot : bootstraps s x o = false) (hf : x.officer = some f) (hne : f ≠ o) (a : Carrier × Nat) :
    approveOp s id o sig a = approveLast (logEvent s 0x0302 (leBytes 4 id ++ leBytes 1 o)) id x [(f, x.approval), (o, sig)] a := by
  unfold approveOp
  rw [approveRefused_none hx htime ho hv (by rw [hf]; exact fun h => hne (Option.some.inj h)), liveChange_some hx htime]
  dsimp only
  rw [if_neg (by rw [hboot]; decide), hf]

end

end

/-! #### What the second approval makes act -/

/-- A change that acts at once, leaves no output and mirrors nothing, ends its APPROVE with the approvals held. -/
theorem approveLast_acts {s v : State} {id : Nat} {x : Change} {aps : List (Nat × Bytes)} {a : Carrier × Nat} (hfull : x.kind ≠ .fullChart)
    (hdelta : x.kind ≠ .chartDelta) (happly : applyChange (dropChange s id) x = (.ok, [], v)) (hsend : v.twn.toSend.length = s.twn.toSend.length)
    (hcarrier : x.carrier = .mctp ∨ ∃ q, x.carrier = .port q) :
    approveLast s id x aps a = approveDone (logEvent v 0x0301 (appliedNote id x)) a .ok aps.length := by
  have hlast : approveLast s id x aps a = approveEnd (dropChange s id) x a aps.length (.ok, [], logEvent v 0x0301 (appliedNote id x)) := by
    unfold approveLast
    dsimp only
    rw [happly]
    split
    next hk => exact absurd hk hfull
    next hk => exact absurd hk hdelta
    next => rfl
  have hsame : ¬ (dropChange s id).twn.toSend.length < (logEvent v 0x0301 (appliedNote id x)).twn.toSend.length :=
    fun h => absurd h (by rw [show (logEvent v 0x0301 (appliedNote id x)).twn = v.twn from rfl, hsend]; exact Nat.lt_irrefl _)
  rw [hlast]
  unfold approveEnd
  dsimp only
  rw [if_neg (by simp only [hsame, decide_false, Bool.and_false]; decide)]
  rcases hcarrier with h | ⟨q, h⟩ <;> rw [h] <;> rfl

/-- Dropping every change leaves the mailboxes' texts and the list of changes to it; the list is empty then. -/
theorem dropEntries_effect (l : Tbl Change) (s : State) :
    let t := l.foldl (fun t e =>
      let t1 := dropChange t e.1
      if (boxAt t e.2.carrier).change = e.1 then boxShow t1 e.2.carrier .aborted else t1) s
    (∃ c w b, t = { s with changes := c, wchBox := w, lcsBox := b }) ∧ t.changes.live = s.changes.live.filter (fun e => !(l.map (·.1)).contains e.1) := by
  induction l generalizing s with
  | nil => exact ⟨⟨_, _, _, rfl⟩, by simp⟩
  | cons e l ih =>
    have hdel (t : Tbl Change) (k : Nat) : tblDel t k = t.filter (fun e => e.1 != k) := by
      induction t with
      | nil => rfl
      | cons y rest ih =>
        obtain ⟨j, v⟩ := y
        by_cases hj : j = k
        · simp [tblDel, hj, ih]
        · simp [tblDel, hj, ih]
    have hstep : ∃ w b, (if (boxAt s e.2.carrier).change = e.1 then boxShow (dropChange s e.1) e.2.carrier .aborted else dropChange s e.1) =
        { dropChange s e.1 with wchBox := w, lcsBox := b } := by
      split
      · exact boxShow_frame _ _ _
      · exact ⟨_, _, rfl⟩
    obtain ⟨w, b, hstep⟩ := hstep
    obtain ⟨⟨c', w', b', hframe⟩, hlive⟩ := ih { dropChange s e.1 with wchBox := w, lcsBox := b }
    simp only [List.foldl_cons, hstep]
    refine ⟨⟨c', w', b', hframe⟩, hlive.trans ?_⟩
    change (tblDel s.changes.live e.1).filter _ = _
    rw [hdel, List.filter_filter]
    refine List.filter_congr fun y _ => ?_
    simp only [List.map_cons, List.contains_cons, Bool.not_or, bne]
    exact Bool.and_comm _ _

theorem dropChanges_effect (s : State) : (∃ c w b, dropChanges s = { s with changes := c, wchBox := w, lcsBox := b }) ∧ (dropChanges s).changes.live = [] := by
  obtain ⟨hframe, hlive⟩ := dropEntries_effect s.changes.live s
  refine ⟨hframe, hlive.trans (List.filter_eq_nil_iff.mpr fun e he => ?_)⟩
  have hin : (s.changes.live.map (·.1)).contains e.1 = true := List.contains_iff_mem.mpr (List.mem_map.mpr ⟨e, he, rfl⟩)
  rw [hin]
  decide

/-- An officer enrolled outside a pair: the record is in the domain, and no change waits. -/
theorem applyOfficer_enrols {s : State} {i : Nat} {d : Bytes} (hok : enrolOk s i d = none) (hd : d ≠ []) (hrole : s.twn.role = 0) :
    ∃ c w b, applyOfficer s i d = (.ok, [], { s with
      dom := { s.dom with
        officers := tblPut s.dom.officers i d
        seq := s.dom.seq + 1 }
      changes := c
      wchBox := w
      lcsBox := b }) ∧ c.live = [] := by
  obtain ⟨⟨c, w, b, hframe⟩, hlive⟩ := dropChanges_effect (modDom s (fun m => { m with officers := tblPut m.officers i d }))
  have hmirror (u : State) (hu : u.twn = s.twn) : mirrorDomain u = u := by
    have hno : mirrors u = false := by simp [mirrors, onPair, hu, hrole]
    rw [mirrorDomain, mirror, hno, if_neg Bool.false_ne_true]
  refine ⟨c, w, b, ?_, by rw [hframe] at hlive; exact hlive⟩
  unfold applyOfficer
  rw [hok]
  dsimp only
  have hsame := hmirror (dropChanges (modDom s (fun m => { m with officers := tblPut m.officers i d }))) (by rw [hframe]; rfl)
  simp only [if_neg hd]
  rw [hsame, hframe]
  rfl

/-- A delta that passes its checks waits for its inhale, and its image is stored. -/
theorem approveDelta_waits {s : State} {id : Nat} {x : Change} {aps : List (Nat × Bytes)} {a : Carrier × Nat} {ch : Chart}
    (hwait : s.charts.deltaWait = none) (hmode : s.dev.mode = .service ∨ s.dev.mode = .migrate ∨ s.dev.mode = .recover)
    (hcheck : deltaCheck s x.data = .ok ch) (hlive : deltaLive s ch = true) (hstore : storeHolds s x.data = true) :
    ∃ twn types seq, approveDelta s id x aps a = { s with
      twn := twn
      charts := { s.charts with
        deltas := s.charts.deltas ++ [⟨x.data, approvalMessage s true id x, aps⟩]
        deltaWait := some ⟨ch, deltaInhale s, types, some a, appliedNote id x, seq⟩ } } := by
  have hm : deltaMode s.dev.mode = true := by rcases hmode with h | h | h <;> simp [deltaMode, h]
  have hmirror (kind : Nat) (body : Bytes) : ∃ twn, mirror s kind body = { s with twn := twn } := by
    unfold mirror
    split
    · exact ⟨_, rfl⟩
    · exact ⟨_, rfl⟩
  obtain ⟨twn, hmirror⟩ := hmirror recChart (chartBody (deltaInhale s) ⟨x.data, approvalMessage s true id x, aps⟩)
  unfold approveDelta
  rw [hm, hwait, if_neg (by decide), hcheck]
  dsimp only
  rw [hlive, hstore, if_neg (by decide), hmirror]
  exact ⟨_, _, _, rfl⟩

section
variable {s : State} {p : Fin 8} {c : Cmd} {id o : Nat} {sig : Bytes} {x : Change}

/-- What APPROVE does, from a state in which its command has begun. -/
theorem exec_approves (h : Approves s p c id o sig x) :
    exec (.approve (.port p)) s = .next (approveOp (admBegun s p) id o sig (.port p, id)) := by
  obtain ⟨hid, ho, hz⟩ := h.names
  rw [exec_approveOp h.runs hz, hid, ho]

theorem approves_first (h : Approves s p c id o sig x) (hnone : x.officer = none) (hboot : bootstraps s x o = false) :
    Does (.approve (.port p)) s (fun t => tblGet t.changes.live id = some { x with officer := some o, approval := sig } ∧
      (∀ k, k ≠ id → tblGet t.changes.live k = tblGet s.changes.live k) ∧ Approved s t p c .ok 1 ∧ Logged s t 0x0302 ∧
      { t with changes := { t.changes with live := s.changes.live }, waiting := s.waiting, ports := s.ports, mgc := s.mgc } = s) := by
  have hfirst := approveOp_first (s := admBegun s p) h.change h.inTime h.officer h.verifies hboot hnone (.port p, id)
  have hends := approveDone_ends h.runs h.names.1.symm .ok 1
    (u := { logEvent (admBegun s p) 0x0302 (leBytes 4 id ++ leBytes 1 o) with changes := { s.changes with
      live := tblMod s.changes.live id (fun c => { c with officer := some o, approval := sig }) } }) rfl
  refine ⟨_, (exec_approves h).trans (congrArg _ (hfirst.trans hends)), ?_⟩
  refine ⟨?_, fun k hk => tblGet_mod_other _ _ _ _ hk, ⟨rfl, rfl⟩, logEvent_logged (s := s) _ ?_ rfl, rfl⟩
  · exact (tblGet_mod_same _ _ _).trans (congrArg (Option.map _) h.change)
  · exact FunctionRows.notHalted_of_running (AdmRuns.live h.runs)

theorem approves_again (h : Approves s p c id o sig x) (hsame : x.officer = some o) :
    exec (.approve (.port p)) s = .next (admEnds s p c .keyPolicy [] 1) := by
  obtain ⟨hid, ho, hz⟩ := h.names
  have hrefused : approveRefused s id o sig = some .keyPolicy := by
    simp only [approveRefused, liveChange_some h.change h.inTime, Nat.not_le.mpr h.officer, h.verifies, hsame, Bool.not_true, Bool.false_eq_true,
      if_false, if_true]
  rw [hid, ho] at hrefused
  rw [approve_refused h.runs hz hrefused, ← hid, liveChange_some h.change h.inTime, Option.elim_some, hsame]
  rfl

/-- The last approval is logged, and the change acts from there. -/
theorem exec_approvesLast {f : Nat} (h : Approves s p c id o sig x) (hboot : bootstraps s x o = false) (hf : x.officer = some f) (hne : f ≠ o) :
    exec (.approve (.port p)) s = .next (approveLast (logEvent (admBegun s p) 0x0302 (leBytes 4 id ++ leBytes 1 o)) id x
      [(f, x.approval), (o, sig)] (.port p, id)) := by
  rw [exec_approves h, approveOp_last (s := admBegun s p) h.change h.inTime h.officer h.verifies hboot hf hne]

theorem approvesLast_tune {f : Nat} (h : Approves s p c id o sig x) (hboot : bootstraps s x o = false) (hf : x.officer = some f) (hne : f ≠ o)
    (hkind : x.kind = .tuneEntry) (hcarrier : x.carrier = .mctp) (htune : tuneFrom s = true) : Does (.approve (.port p)) s (fun t =>
      t.dev = { s.dev with tuneReq := some (s.brt.count + 1) } ∧ tblGet t.changes.live id = none ∧ Approved s t p c .ok 2) := by
  generalize hu : logEvent (admBegun s p) 0x0302 (leBytes 4 id ++ leBytes 1 o) = u
  have happly : applyChange (dropChange u id) x =
      (.ok, [], { dropChange u id with dev := { s.dev with tuneReq := some (s.brt.count + 1) } }) := by
    have hfrom : tuneFrom (dropChange u id) = true := hu ▸ htune
    have hdraw : ¬ ((dropChange u id).rng.alarm && changeDraws x.kind) = true := by simp [hkind, changeDraws]
    rw [applyChange, if_neg hdraw, hkind]
    dsimp only
    rw [applyTune, if_pos hfrom]
    subst hu
    rfl
  refine ⟨_, exec_approvesLast h hboot hf hne, ?_⟩
  rw [hu, approveLast_acts (by rw [hkind]; nofun) (by rw [hkind]; nofun) happly rfl (.inl hcarrier),
    approveDone_ends h.runs h.names.1.symm .ok _ (by subst hu; rfl)]
  subst hu
  exact ⟨rfl, tblGet_del_same _ _, rfl, rfl⟩

theorem approvesLast_officer {f : Nat} (h : Approves s p c id o sig x) (hboot : bootstraps s x o = false) (hf : x.officer = some f) (hne : f ≠ o)
    (hkind : x.kind = .officer) (hcarrier : ∃ q, x.carrier = .port q) (hdata : x.data ≠ []) (hok : enrolOk s (byteAt x.params 0) x.data = none)
    (hrole : s.twn.role = 0) : Does (.approve (.port p)) s (fun t => t.dom = { s.dom with
        officers := tblPut s.dom.officers (byteAt x.params 0) x.data
        seq := s.dom.seq + 1 } ∧ t.changes.live = [] ∧ Approved s t p c .ok 2) := by
  generalize hu : logEvent (admBegun s p) 0x0302 (leBytes 4 id ++ leBytes 1 o) = u
  have hok1 : enrolOk (dropChange u id) (byteAt x.params 0) x.data = none := hu ▸ hok
  have hrole1 : (dropChange u id).twn.role = 0 := hu ▸ hrole
  obtain ⟨ch, w, b, hofficer, hlive⟩ := applyOfficer_enrols hok1 hdata hrole1
  have happly : applyChange (dropChange u id) x = applyOfficer (dropChange u id) (byteAt x.params 0) x.data := by
    have hdraw : ¬ ((dropChange u id).rng.alarm && changeDraws x.kind) = true := by simp [hkind, changeDraws]
    rw [applyChange, if_neg hdraw, hkind]
  refine ⟨_, exec_approvesLast h hboot hf hne, ?_⟩
  rw [hu, approveLast_acts (by rw [hkind]; nofun) (by rw [hkind]; nofun) (happly.trans hofficer) rfl (.inr hcarrier),
    approveDone_ends h.runs h.names.1.symm .ok _ (by subst hu; rfl)]
  subst hu
  exact ⟨rfl, hlive, rfl, rfl⟩

theorem approvesLast_delta {f : Nat} {ch : Chart} (h : Approves s p c id o sig x) (hboot : bootstraps s x o = false) (hf : x.officer = some f)
    (hne : f ≠ o) (hkind : x.kind = .chartDelta) (hwait : s.charts.deltaWait = none)
    (hmode : s.dev.mode = .service ∨ s.dev.mode = .migrate ∨ s.dev.mode = .recover) (hcheck : deltaCheck s x.data = .ok ch)
    (hlive : deltaLive s ch = true) (hstore : storeHolds s x.data = true) : Does (.approve (.port p)) s (fun t =>
      (∃ w, t.charts.deltaWait = some w ∧ w.chart = ch ∧ w.approver = some (.port p, id) ∧
        w.inhale = (if s.brt.cycle = 0 ∧ s.brt.exhale = false then s.brt.count + 1 else s.brt.count + 2)) ∧
      t.charts.deltas = s.charts.deltas ++ [⟨x.data, approvalMessage s true id x, [(f, x.approval), (o, sig)]⟩] ∧
      t.waiting = s.waiting ∧ t.charts.inForce = s.charts.inForce) := by
  generalize hu : logEvent (admBegun s p) 0x0302 (leBytes 4 id ++ leBytes 1 o) = u
  have hwait1 : (dropChange u id).charts.deltaWait = none := hu ▸ hwait
  have hmode1 : (dropChange u id).dev.mode = .service ∨ (dropChange u id).dev.mode = .migrate ∨ (dropChange u id).dev.mode = .recover := hu ▸ hmode
  have hcheck1 : deltaCheck (dropChange u id) x.data = .ok ch := hu ▸ hcheck
  have hlive1 : deltaLive (dropChange u id) ch = true := hu ▸ hlive
  have hstore1 : storeHolds (dropChange u id) x.data = true := hu ▸ hstore
  obtain ⟨twn, types, seq, hdelta⟩ := approveDelta_waits (id := id) (aps := [(f, x.approval), (o, sig)]) (a := (.port p, id)) hwait1 hmode1 hcheck1
    hlive1 hstore1
  have hinhale : deltaInhale (dropChange u id) = if s.brt.cycle = 0 ∧ s.brt.exhale = false then s.brt.count + 1 else s.brt.count + 2 := by
    subst hu
    change (if atInhale s then s.brt.count + 1 else s.brt.count + 2) = _
    exact if_congr (by simp [atInhale]) rfl rfl
  refine ⟨_, exec_approvesLast h hboot hf hne, ?_⟩
  rw [hu, approveLast, hkind]
  dsimp only
  rw [hdelta, hinhale]
  subst hu
  exact ⟨⟨_, rfl, rfl, rfl, rfl⟩, rfl, rfl, rfl⟩

end

/-- An approval over MCTP: the first one is held, and the response says so. -/
theorem mctpApproves_first {s : State} {q sig : Bytes} {x : Change} (hlive : isLive s = true) (hlc : lcNow s ≠ 5) (hmode : s.dev.mode ≠ .halted)
    (hlen : sig.length = 4627) (hz : zeroAt q 5 35 = true) (hx : tblGet s.changes.live (le q 0 4) = some x) (htime : s.brt.count < x.expiry)
    (ho : byteAt q 4 < 16) (hv : approvalVerifies s (le q 0 4) x (byteAt q 4) sig = true) (hnone : x.officer = none)
    (hboot : bootstraps s x (byteAt q 4) = false) : Does (.approve (.mctp q sig)) s (fun t => t.out = .mctp .ok [1] :: s.out ∧
      tblGet t.changes.live (le q 0 4) = some { x with officer := some (byteAt q 4), approval := sig } ∧ Logged s t 0x0302) := by
  have hexec : exec (.approve (.mctp q sig)) s = whenLive s (if lcNow s = lcScrap then emit s (.mctp .inputInvalid []) else mctpApprove s q sig) := rfl
  refine ⟨mctpApprove s q sig, by rw [hexec, whenLive, hlive, if_pos rfl, if_neg (show ¬ lcNow s = lcScrap from hlc)], ?_⟩
  rw [mctpApprove, if_neg (by simp [hlen, hz, hmode]), approveOp_first hx htime ho hv hboot hnone]
  exact ⟨rfl, (tblGet_mod_same _ _ _).trans (congrArg (Option.map _) hx), logEvent_logged _ hmode rfl⟩

/-- Settles O38: the first approval is held under its officer, the second acts as its change's kind says, and what fails is answered in R68's order. -/
theorem approvals : Obligations.Approvals := by
  unfold Obligations.Approvals
  intro s p c id o sig x
  refine ⟨approves_first, approves_again, fun h hz hx htime ho hv => ?_, fun h hnone => ?_, fun f h hboot hf hne => ⟨?_, ?_, ?_⟩, ?_⟩
  · have hrefused : approveRefused s (le c.params 0 4) (byteAt c.params 4) sig = some .signatureInvalid := by
      simp only [approveRefused, liveChange_some hx htime, Nat.not_le.mpr ho, hv, Bool.not_false, if_false, if_true]
    rw [approve_refused h hz hrefused, liveChange_some hx htime, Option.elim_some]
    rfl
  · cases hz : zeroAt c.params 5 35 with
    | false =>
      rw [exec_approve h, admApprove, hz, if_pos (by decide)]
      exact congrArg _ (AdmRuns.ends h _ _ _ rfl)
    | true =>
      have hdead : liveChange s (le c.params 0 4) = none := by simp only [liveChange, hnone]
      have hrefused : approveRefused s (le c.params 0 4) (byteAt c.params 4) sig = some .inputInvalid := by simp only [approveRefused, hdead]
      rw [approve_refused h hz hrefused, hdead]
      rfl
  · exact approvesLast_tune h hboot hf hne
  · exact approvesLast_officer h hboot hf hne
  · exact fun hkind hwait hmode ch => approvesLast_delta h hboot hf hne hkind hwait hmode
  · exact fun q hlive hlc hmode hlen hz hx htime ho hv hnone hboot => mctpApproves_first hlive hlc hmode hlen hz hx htime ho hv hnone hboot

end Sys2Proof.ApprovalRows

/-! ### Firmware update (R438 to R441) -/

namespace Sys2Proof.FirmwareRows

open Sys2Proof Sys2Proof.Machine Sys2Proof.Safety Sys2Proof.Rows Sys2Proof.Laws Sys2Proof.StateFacts Sys2Proof.RingWrites Sys2Proof.LadderRows
open Sys2Proof.HaltRows Sys2Proof.WriteRows Sys2Proof.CommandRows

/-- A message over MCTP acts on a live device that is not scrapped. -/
theorem exec_mctpRun {i : Instr} {s t : State} (hexec : exec i s = mctpRun s t) (hlive : isLive s = true) (hlc : lcNow s ≠ 5) : exec i s = .next t := by
  rw [hexec, mctpRun, whenLive, hlive, if_pos rfl, if_neg (show ¬ lcNow s = lcScrap from hlc)]

/-! #### A chunk -/

theorem fwForeign_iff (s : State) (c : Carrier) : fwForeign s c = false ↔ ∀ x, s.mgc.fwSession = some x → x.carrier = c := by
  unfold fwForeign
  cases s.mgc.fwSession with
  | none => exact ⟨fun _ _ h => (nomatch h), fun _ => rfl⟩
  | some x => simp

theorem fwFits_iff (s : State) (off : Nat) (d : Bytes) : fwFits s off d = true ↔ off = fwWritten s ∧ off + d.length ≤ 2 ^ 23 := by
  simp [fwFits]

section
variable {s : State} {c : Carrier} {off : Nat} {d : Bytes}

theorem fwChunk_foreign (final : Bool) (h : fwForeign s c = true) : fwChunk s c final off d = (.reservationFailed, 0, s) := by
  rw [fwChunk, if_pos h]

theorem fwChunk_unfit (final : Bool) (h : fwForeign s c = false) (hfit : fwFits s off d = false) : fwChunk s c final off d = (.inputInvalid, 0, s) := by
  rw [fwChunk, h, hfit, if_neg Bool.false_ne_true, if_pos (by decide)]

theorem fwChunk_writes (h : fwForeign s c = false) (hfit : fwFits s off d = true) : fwChunk s c false off d = (.ok, 0, fwWrite s c off d) := by
  rw [fwChunk, h, hfit, if_neg Bool.false_ne_true, if_neg (by decide)]
  rfl

theorem fwSlot_written (hslot : fwTarget s < s.mgc.fwSlots.length) : fwSlot (fwWrite s c off d) (fwTarget s) = (fwSlot s (fwTarget s)).take off ++ d :=
  ReedRows.getD_listSet _ _ _ _ hslot

theorem fwChunk_final (h : fwForeign s c = false) (hfit : fwFits s off d = true) (hslot : fwTarget s < s.mgc.fwSlots.length) :
    (fwCheck s ((fwSlot s (fwTarget s)).take off ++ d) = none → fwChunk s c true off d = (.ok, fwTarget s,
      modMgc (fwWrite s c off d) (fun m => { m with fwPending := some (fwTarget s), fwSession := none }))) ∧
    (∀ st, fwCheck s ((fwSlot s (fwTarget s)).take off ++ d) = some st → fwChunk s c true off d = (st, 0,
      modMgc (fwWrite s c off d) (fun m => { m with fwSlots := listSet m.fwSlots (fwTarget s) [], fwSession := none }))) := by
  have hcheck : fwCheck (fwWrite s c off d) (fwSlot (fwWrite s c off d) (fwTarget (fwWrite s c off d))) =
      fwCheck s ((fwSlot s (fwTarget s)).take off ++ d) := congrArg (fwCheck s) (fwSlot_written hslot)
  have hchunk : fwChunk s c true off d = ((fwFinish (fwWrite s c off d)).1, if (fwFinish (fwWrite s c off d)).1 = .ok then fwTarget s else 0,
      (fwFinish (fwWrite s c off d)).2) := by
    rw [fwChunk, h, hfit, if_neg Bool.false_ne_true, if_neg (by decide)]
    rfl
  rw [hchunk, fwFinish, hcheck]
  refine ⟨fun hnone => ?_, fun st hst => ?_⟩
  · rw [hnone]
    rfl
  · rw [hst]
    have hne : st ≠ .ok := by
      intro hok
      subst hok
      unfold fwCheck at hst
      split at hst
      · cases hst
      · split at hst
        · cases hst
        · split at hst <;> cases hst
    dsimp only
    rw [if_neg hne]
    rfl

end

/-! #### From an admin queue -/

section
variable {s : State} {p : Fin 8} {c : Cmd} {d : Bytes}

theorem exec_fwUpdate (h : AdmRuns s p 0xA c d) (hz : zeroAt c.params 5 35 = true) (hfinal : byteAt c.params 4 = 0) :
    exec (.fwUpdate (.port p)) s =
      .next (admDone (fwChunk s (.port p) false (le c.params 0 4) d).2.2 p (fwChunk s (.port p) false (le c.params 0 4) d).1 []
        (fwChunk s (.port p) false (le c.params 0 4) d).2.1) := by
  obtain ⟨data, hf⟩ := AdmRuns.front h
  have hexec : exec (.fwUpdate (.port p)) s = whenRunning s (admRun s p 0xA (admChunk p false s)) := by
    have hraw : exec (.fwUpdate (.port p)) s = whenRunning s (if finalIs s p false then admRun s p 0xA (admChunk p false s) else s) := rfl
    rw [hraw, if_pos (by simp [finalIs, admFront_of_front hf, hfinal])]
  rw [exec_admRuns hexec h (by decide) (by decide), admChunk, if_neg (by simp [fwFormOk, hfinal, hz])]

theorem exec_fwUpdateFinal (h : AdmRuns s p 0xA c d) (hz : zeroAt c.params 5 35 = true) (hfinal : byteAt c.params 4 = 1) :
    exec (.fwUpdateFinal (.port p)) s =
      .next (admDone (fwChunk s (.port p) true (le c.params 0 4) d).2.2 p (fwChunk s (.port p) true (le c.params 0 4) d).1 []
        (fwChunk s (.port p) true (le c.params 0 4) d).2.1) := by
  obtain ⟨data, hf⟩ := AdmRuns.front h
  have hexec : exec (.fwUpdateFinal (.port p)) s = whenRunning s (admRun s p 0xA (admChunk p true s)) := by
    have hraw : exec (.fwUpdateFinal (.port p)) s = whenRunning s (if finalIs s p true then admRun s p 0xA (admChunk p true s) else s) := rfl
    rw [hraw, if_pos (by simp [finalIs, admFront_of_front hf, hfinal])]
  rw [exec_admRuns hexec h (by decide) (by decide), admChunk, if_neg (by simp [fwFormOk, hfinal, hz])]

end

/-! #### Over PLDM -/

theorem fwWritten_eq (s : State) : fwWritten s = match s.mgc.fwSession with
    | some x => x.written
    | none => 0 := by
  unfold fwWritten
  cases s.mgc.fwSession <;> rfl

theorem pldmChunk_writes {s : State} {x : FwSession} {q d : Bytes} (hx : s.mgc.fwSession = some x) (hcarrier : x.carrier = .mctp)
    (hfinal : byteAt q 4 = 0) (hz : zeroAt q 5 35 = true) (hd : d ≠ []) (hlen : d.length ≤ 2 ^ 20) (hoff : le q 0 4 = x.written)
    (hfit : x.written + d.length ≤ 2 ^ 23) : pldmChunk s false q d = emit (fwWrite s .mctp x.written d) (.pldm 0x00 []) := by
  have hmine : fwForeign s .mctp = false := (fwForeign_iff s .mctp).mpr fun y hy => by
    cases hx.symm.trans hy
    exact hcarrier
  have hfits : fwFits s x.written d = true := (fwFits_iff s x.written d).mpr ⟨by rw [fwWritten, hx]; rfl, hfit⟩
  have hform : ¬ (!fwFormOk q || decide (d = []) || decide (2 ^ 20 < d.length)) = true := by
    rw [fwFormOk, hfinal, hz, decide_eq_false hd, decide_eq_false (Nat.not_lt.mpr hlen)]
    decide
  rw [pldmChunk, if_neg hform, hoff, fwChunk_writes hmine hfits]
  dsimp only
  rw [pldmCode, hmine, hfits]
  rfl

/-- Settles O39: a chunk that follows is written to the slot that does not run, FINAL makes a checked image pending, and any other chunk fails. -/
theorem firmwareUpdate : Obligations.FirmwareUpdate := by
  unfold Obligations.FirmwareUpdate
  intro s slot held written
  have hwritten : written = fwWritten s := (fwWritten_eq s).symm
  refine ⟨fun p c d h hz => ?_, fun hlive hlc => ⟨fun hnone => ?_, fun x hx => ?_, fun x q d hx hcarrier hfinal hz hd hlen hoff hfit => ?_⟩,
    fun x hlive hx hlate => ?_⟩
  · intro off wrote mine
    have hmine (hm : mine) : fwForeign s (.port p) = false := (fwForeign_iff s _).mpr hm
    have fits (ho : off = written) (hl : off + d.length ≤ 2 ^ 23) : fwFits s off d = true := (fwFits_iff s off d).mpr ⟨ho.trans hwritten, hl⟩
    refine ⟨fun hfinal hm ho hl => ?_, fun hfinal hm hbad => ?_, fun hfinal hm => ?_, fun hfinal hm ho hl hslot => ?_⟩
    · rw [exec_fwUpdate h hz hfinal, fwChunk_writes (hmine hm) (fits ho hl)]
      exact congrArg _ (AdmRuns.ends h _ _ _ rfl)
    · have hunfit : fwFits s off d = false := by
        refine Bool.eq_false_iff.mpr fun hf => ?_
        obtain ⟨ho, hl⟩ := (fwFits_iff s off d).mp hf
        rcases hbad with hb | hb
        · exact hb (ho.trans hwritten.symm)
        · exact absurd hl (Nat.not_le.mpr hb)
      rw [exec_fwUpdate h hz hfinal, fwChunk_unfit false (hmine hm) hunfit]
      exact congrArg _ (AdmRuns.ends h _ _ _ rfl)
    · have hforeign : fwForeign s (.port p) = true := Bool.not_eq_false _ ▸ mt (fwForeign_iff s _).mp hm
      rw [exec_fwUpdate h hz hfinal, fwChunk_foreign false hforeign]
      exact congrArg _ (AdmRuns.ends h _ _ _ rfl)
    · obtain ⟨hgood, hbad⟩ := fwChunk_final (hmine hm) (fits ho hl) hslot
      refine ⟨fun hcheck => ?_, fun st hcheck => ?_⟩
      · rw [exec_fwUpdateFinal h hz hfinal, hgood hcheck]
        exact congrArg _ (AdmRuns.ends h _ _ _ rfl)
      · rw [exec_fwUpdateFinal h hz hfinal, hbad st hcheck]
        exact congrArg _ (AdmRuns.ends h _ _ _ rfl)
  · have hexec : exec .pldmRequestUpdate s = mctpRun s (pldmRequest s) := rfl
    rw [exec_mctpRun hexec hlive hlc, pldmRequest, hnone, if_neg (by decide)]
    rfl
  · have hexec : exec .pldmRequestUpdate s = mctpRun s (pldmRequest s) := rfl
    rw [exec_mctpRun hexec hlive hlc, pldmRequest, hx, if_pos (by rfl)]
    rfl
  · have hexec : exec (.fwUpdate (.mctp q d)) s = mctpRun s (if byteAt q 4 = 1 then s else pldmChunk s false q d) := rfl
    refine ⟨_, exec_mctpRun hexec hlive hlc, ?_⟩
    rw [hfinal, if_neg (by decide), pldmChunk_writes hx hcarrier hfinal hz hd hlen hoff hfit]
    exact ⟨rfl, rfl, rfl, rfl⟩
  · have hexec : exec .fwSessionTimeout s = whenLive s (fwTimeout s) := rfl
    rw [hexec, whenLive, hlive, if_pos rfl, fwTimeout, hx]
    dsimp only
    rw [if_pos hlate]
    rfl

end Sys2Proof.FirmwareRows

/-! ### Monitors (R443 to R446) -/

namespace Sys2Proof.MonitorRows

open Sys2Proof Sys2Proof.Machine Sys2Proof.Safety Sys2Proof.Rows Sys2Proof.Laws Sys2Proof.StateFacts Sys2Proof.RingWrites Sys2Proof.LadderRows
open Sys2Proof.HaltRows Sys2Proof.WriteRows Sys2Proof.CommandRows Sys2Proof.ApprovalRows Sys2Proof.FirmwareRows

/-! #### One channel -/

theorem listMod_known {α : Type} (l : List α) (i : Nat) (f : α → α) (d : α) : listMod l i f = listMod l i (fun _ => f (l.getD i d)) := by
  induction l generalizing i with
  | nil => rfl
  | cons x xs ih => cases i with
    | zero => rfl
    | succ i => exact congrArg (x :: ·) (ih i)

theorem modChan_known (s : State) (c : Nat) (f : MonChan → MonChan) :
    modChan s c f = { s with mgc := { s.mgc with channels := listMod s.mgc.channels c (fun _ => f (chanAt s c)) } } := by
  rw [modChan, modMgc, listMod_known _ c f MonChan.init]
  rfl

section
variable {q : Bytes}

theorem monFormOk_configure (hk : byteAt q 0 < 64) (hz : zeroAt q 7 33 = true) (ha : actionOf q = 0) (hcfg : monCfgOk (cfgOf q) = true) :
    monFormOk q = true := by
  simp [monFormOk, chanOf, hk, hz, ha, hcfg]

theorem monFormOk_other {n : Nat} (hk : byteAt q 0 < 64) (hz : zeroAt q 7 33 = true) (ha : actionOf q = n) (hlo : 1 ≤ n) (hhi : n ≤ 3)
    (hz2 : zeroAt q 2 5 = true) : monFormOk q = true := by
  have hne : n ≠ 0 := Nat.ne_of_gt hlo
  simp [monFormOk, chanOf, hk, hz, ha, hne, hhi, hz2]

end

theorem monAllowed_global {s : State} {p : Fin 8} {q : Bytes} (h : (portAt s p.val).global = true) (hne : actionOf q ≠ 1) : monAllowed s p q = true := by
  rw [monAllowed, if_neg hne, h]

theorem monAllowed_local {s : State} {p : Fin 8} {q : Bytes} (h : (portAt s p.val).global = false) (hne : actionOf q ≠ 1) : monAllowed s p q = false := by
  rw [monAllowed, if_neg hne, h]

/-- The latency of an instance may be read on the instance's own port. -/
theorem monAllowed_snapshot {s : State} {p : Fin 8} {q : Bytes} (ha : actionOf q = 1)
    (h : (chanAt s (byteAt q 0)).cfg.source = 1 → ∃ e, tblGet s.insts (chanAt s (byteAt q 0)).cfg.index = some e ∧ e.port = p) :
    monAllowed s p q = true := by
  rw [monAllowed, if_pos ha]
  by_cases hsource : (chanAt s (byteAt q 0)).cfg.source = 1
  · obtain ⟨e, he, hp⟩ := h hsource
    simp [chanOf, he, hp]
  · simp [chanOf, hsource]

/-! #### MONITOR_CFG -/

section
variable {s : State} {p : Fin 8} {c : Cmd} {d : Bytes}

/-- The command acts as its action says, whichever of the four instructions carries it. -/
theorem exec_monitor (h : AdmRuns s p 0xB c d) {i : Instr} {action : Nat}
    (hraw : exec i s = whenRunning s (if frontAction s p action then admRun s p 0xB (admMonitor p s) else s)) (ha : actionOf c.params = action) :
    exec i s = .next (admMonitor p s c d) := by
  obtain ⟨data, hf⟩ := AdmRuns.front h
  have hfront : frontAction s p action = true := by simp [frontAction, admFront_of_front hf, ha]
  rw [if_pos hfront] at hraw
  exact exec_admRuns hraw h (by decide) (by decide)

theorem admMonitor_allowed (hform : monFormOk c.params = true) (hallow : monAllowed s p c.params = true) :
    admMonitor p s c d = if actionOf c.params = 0 then admDone (monConfigure s c.params) p .ok [] 0
      else if actionOf c.params = 3 then admDone (monDisable s c.params) p .ok [] 0 else admSnapshot p s c := by
  rw [admMonitor, hform, hallow, if_neg (by decide), if_neg (by decide)]

end

theorem mctpMonitor_formed {s : State} {q : Bytes} (hform : monFormOk q = true) : mctpMonitor s q =
    if actionOf q = 0 then emit (monConfigure s q) (.mctp .ok []) else if actionOf q = 3 then emit (monDisable s q) (.mctp .ok [])
    else if s.dev.mode = .halted then snapshotOne s ⟨chanOf q, actionOf q, none⟩
    else modMgc s (fun m => { m with snaps := m.snaps ++ [⟨chanOf q, actionOf q, none⟩] }) := by
  rw [mctpMonitor, hform, if_neg (by decide)]

/-! #### The end of a window -/

/-- A channel's set moved to its latch, with the inhale's sample where its source has one. -/
def movedChan (s : State) (x : MonChan) : MonChan :=
  inhaleSampleOne s { x with latched := closedSet s x.active, active := MonSet.init, start := s.brt.count }

theorem movedChan_fields (s : State) (x : MonChan) : (movedChan s x).latched = { x.active with lastBreath := s.brt.count - 1 } ∧
    (movedChan s x).start = s.brt.count ∧ (movedChan s x).cfg = x.cfg ∧
    (x.cfg.source ≠ 3 → x.cfg.source ≠ 4 → (movedChan s x).active = MonSet.init) := by
  unfold movedChan inhaleSampleOne
  split
  next hsource =>
    refine ⟨rfl, rfl, rfl, fun h3 h4 => ?_⟩
    simp [inhaleSource, h3, h4] at hsource
  next => exact ⟨rfl, rfl, rfl, fun _ _ => rfl⟩

/-- The state with the channel moved. -/
def windowMoved (s : State) (c : Nat) : State :=
  { s with mgc := { s.mgc with channels := listMod s.mgc.channels c (fun _ => movedChan s (chanAt s c)) } }

theorem windowEnd_moves {s : State} {c : Nat} (hcycle : s.brt.cycle = 0) (hexhale : s.brt.exhale = false) (hsource : (chanAt s c).cfg.source ≠ 0)
    (hlog : (chanAt s c).cfg.windowLog2 ≤ 30) (hlate : (chanAt s c).start + 2 ^ (chanAt s c).cfg.windowLog2 ≤ s.brt.count) :
    windowEnd s c = if (chanAt s c).cfg.limit < (chanAt s c).active.max then
      logEvent (windowMoved s c) 0x0210 (leBytes 4 c ++ leBytes 4 (chanAt s c).active.max) else windowMoved s c := by
  have hdue : (atInhale s && windowDue s (chanAt s c)) = true := by simp [atInhale, hcycle, hexhale, windowDue, hsource, hlog, hlate]
  rw [windowEnd, if_pos hdue, windowMove, modChan_known]
  rfl

/-- Settles O40: a channel's settings wait, go or are refused by its action's right; a window that ends moves its set and may raise the alarm. -/
theorem monitorCommands : Obligations.MonitorCommands := by
  unfold Obligations.MonitorCommands
  intro s hchannels
  refine ⟨fun p c d h hk hz => ?_, fun q d hlive hlc hk hz => ⟨fun ha hz2 => ?_, fun ha hz2 hmode => ?_⟩,
    fun c hrun hcycle hexhale => ?_⟩
  · intro k x put cfg waits
    refine ⟨fun ha hcfg hglobal => ?_, fun ha hz2 hglobal => ?_, fun ha hz2 hown hlen => ?_, fun ha hz2 hglobal hlen => ?_, fun ha hcfg hlocal => ?_⟩
    · replace ha : actionOf c.params = 0 := ha
      rw [exec_monitor h (action := 0) rfl ha, admMonitor_allowed (monFormOk_configure hk hz ha hcfg) (monAllowed_global hglobal (by rw [ha]; decide)),
        if_pos ha, monConfigure, modChan_known]
      exact congrArg _ (AdmRuns.ends h _ _ _ rfl)
    · replace ha : actionOf c.params = 3 := ha
      rw [exec_monitor h (action := 3) rfl ha,
        admMonitor_allowed (monFormOk_other hk hz ha (by decide) (by decide) hz2) (monAllowed_global hglobal (by rw [ha]; decide)),
        if_neg (by rw [ha]; decide), if_pos ha, monDisable, modChan_known]
      exact congrArg _ (AdmRuns.ends h _ _ _ rfl)
    · replace ha : actionOf c.params = 1 := ha
      rw [exec_monitor h (action := 1) rfl ha,
        admMonitor_allowed (monFormOk_other hk hz ha (by decide) (by decide) hz2) (monAllowed_snapshot ha hown),
        if_neg (by rw [ha]; decide), if_neg (by rw [ha]; decide), admSnapshot, if_neg (Nat.not_lt.mpr hlen), ha]
      rfl
    · replace ha : actionOf c.params = 2 := ha
      rw [exec_monitor h (action := 2) rfl ha,
        admMonitor_allowed (monFormOk_other hk hz ha (by decide) (by decide) hz2) (monAllowed_global hglobal (by rw [ha]; decide)),
        if_neg (by rw [ha]; decide), if_neg (by rw [ha]; decide), admSnapshot, if_neg (Nat.not_lt.mpr hlen), ha]
      rfl
    · replace ha : actionOf c.params = 0 := ha
      rw [exec_monitor h (action := 0) rfl ha, admMonitor, monFormOk_configure hk hz ha hcfg, monAllowed_local hlocal (by rw [ha]; decide),
        if_neg (by decide), if_pos (by decide)]
      exact congrArg _ (AdmRuns.ends h _ _ _ rfl)
  · replace ha : actionOf q = 3 := ha
    have hexec : exec (.disable (.mctp q d)) s = mctpRun s (if actionOf q = 3 || (decide (3 = 0) && decide (3 < actionOf q)) then mctpMonitor s q else s) := rfl
    rw [exec_mctpRun hexec hlive hlc, if_pos (by rw [ha]; decide), mctpMonitor_formed (monFormOk_other hk hz ha (by decide) (by decide) hz2),
      if_neg (by rw [ha]; decide), if_pos ha, monDisable, modChan_known]
    rfl
  · replace ha : actionOf q = 2 := ha
    have hexec : exec (.snapshotAndClear (.mctp q d)) s =
        mctpRun s (if actionOf q = 2 || (decide (2 = 0) && decide (3 < actionOf q)) then mctpMonitor s q else s) := rfl
    rw [exec_mctpRun hexec hlive hlc, if_pos (by rw [ha]; decide), mctpMonitor_formed (monFormOk_other hk hz ha (by decide) (by decide) hz2),
      if_neg (by rw [ha]; decide), if_neg (by rw [ha]; decide), if_neg hmode, ha]
    rfl
  · intro x hsource hlog hlate
    have hexec : exec (.monitorWindowEnd c) s = whenRunning s (windowEnd s c.val) := rfl
    have hmode := FunctionRows.notHalted_of_running hrun
    obtain ⟨hlatched, hstart, hcfg, hactive⟩ := movedChan_fields s x
    have hstep := windowEnd_moves hcycle hexhale hsource hlog hlate
    refine does_whenRunning hexec hrun ?_
    by_cases halarm : (chanAt s c).cfg.limit < (chanAt s c).active.max
    · rw [hstep, if_pos halarm]
      exact ⟨⟨_, rfl, hlatched, hstart, hcfg, hactive⟩, fun _ => logEvent_logged (s := windowMoved s c) _ hmode rfl,
        fun hle => absurd halarm (Nat.not_lt.mpr hle), rfl⟩
    · rw [hstep, if_neg halarm]
      exact ⟨⟨_, rfl, hlatched, hstart, hcfg, hactive⟩, fun hlt => absurd hlt halarm, fun _ => rfl, rfl⟩

end Sys2Proof.MonitorRows

/-! ### Control commands and queues (R64, R69, R469) -/

namespace Sys2Proof.ControlRows

open Sys2Proof Sys2Proof.Machine Sys2Proof.Safety Sys2Proof.Rows Sys2Proof.Laws Sys2Proof.StateFacts Sys2Proof.RingWrites Sys2Proof.LadderRows
open Sys2Proof.HaltRows Sys2Proof.WriteRows Sys2Proof.DmaRows Sys2Proof.CommandRows

/-! #### The front control command -/

section
variable {s : State} {i op : Nat} {c : Cmd} {data : Option Bytes} {d : Bytes} {x : Inst}

/-- Ending the front command works alike in every state in which the instance has the same commands. -/
theorem ctlDone_of_front (h : CtlFront s i op c data x) {u : State} {y : Inst} {st : Status} (out : Bytes) (info : Nat) (hy : tblGet u.insts i = some y)
    (hctl : y.ctl = x.ctl) (htag : c.tag = 0xFFFF → st = .inputInvalid) : ctlDone u i st out info = ctlEnds u i c st out info := by
  obtain ⟨rest, hq, hnext⟩ := h.queue
  exact ctlDone_ends out info hy (hctl.trans hq) htag hnext

theorem exec_ctlRefused {e : Instr} {f : Cmd → Bytes → State} (hexec : exec e s = whenRunning s (ctlRun s i op f)) (h : CtlFront s i op c data x)
    (hbad : c.tag = 0xFFFF ∨ c.reserved = false ∨ (cmdReads op = true ∧ cmdLenOk op c.dataLen = false)) :
    exec e s = .next (ctlEnds s i c .inputInvalid [] 0) := by
  obtain ⟨rest, hq, -⟩ := id h.queue
  have hchecks : ctlChecks c = some .inputInvalid := by
    have hcond : (decide (c.tag = 0xFFFF) || !ctlKnown c.opcode || !c.reserved || (cmdReads c.opcode && !cmdLenOk c.opcode c.dataLen)) = true := by
      rw [h.op]
      rcases hbad with ht | hr | ⟨hreads, hlen⟩
      · rw [decide_eq_true ht]
        rfl
      · simp [hr]
      · simp [hreads, hlen]
    rw [ctlChecks, if_pos hcond]
  have hrun : ctlRun s i op f = ctlEnds s i c .inputInvalid [] 0 := by
    simp only [ctlRun, h.inst, hq, h.op, ne_eq, not_true_eq_false, h.fresh, decide_false, Bool.or_self, Bool.false_eq_true, if_false, hchecks]
    exact ctlDone_of_front h [] 0 h.inst rfl fun _ => rfl
  rw [hexec, hrun, whenRunning_of _ _ h.live]

theorem CtlRuns.front (h : CtlRuns s i op c d x) : ∃ data, CtlFront s i op c data x := by
  obtain ⟨-, -, -, data, hf, -⟩ := h
  exact ⟨data, hf⟩

theorem CtlRuns.inst (h : CtlRuns s i op c d x) : tblGet s.insts i = some x := by
  obtain ⟨data, hf⟩ := CtlRuns.front h
  exact hf.inst

/-- A command that passes the checks and has read its data runs. -/
theorem exec_ctlRuns {e : Instr} {f : Cmd → Bytes → State} (hexec : exec e s = whenRunning s (ctlRun s i op f)) (h : CtlRuns s i op c d x) (hlo : 0x81 ≤ op)
    (hhi : op ≤ 0x8A) : exec e s = .next (f c d) := by
  obtain ⟨htag, hres, hlen, data, hf, hd, hwhole⟩ := h
  obtain ⟨rest, hq, -⟩ := id hf.queue
  have hchecks : ctlChecks c = none := by
    have hcond : ¬ (decide (c.tag = 0xFFFF) || !ctlKnown c.opcode || !c.reserved || (cmdReads c.opcode && !cmdLenOk c.opcode c.dataLen)) = true := by
      rw [hf.op, decide_eq_false htag, hres]
      cases hreads : cmdReads op with
      | false => simp [ctlKnown, hlo, hhi]
      | true => simp [ctlKnown, hlo, hhi, hlen hreads]
    rw [ctlChecks, if_neg hcond]
  have hdata : dataWhole x.ctl c = true := by
    rw [hq, dataWhole, ← hd]
    cases hw : cmdWantsData c with
    | false => rfl
    | true => simp [hwhole hw]
  have hrun : ctlRun s i op f = f c d := by
    simp only [ctlRun, hf.inst]
    rw [hq] at hdata ⊢
    simp only [hf.op, ne_eq, not_true_eq_false, hf.fresh, decide_false, Bool.or_self, Bool.false_eq_true, if_false, hchecks, hdata, if_true, hd]
  rw [hexec, hrun, whenRunning_of _ _ hf.live]

/-- The command ends alike in every state in which the instance has the same commands. -/
theorem CtlRuns.endsIn (h : CtlRuns s i op c d x) {u : State} {y : Inst} (st : Status) (out : Bytes) (info : Nat) (hy : tblGet u.insts i = some y)
    (hctl : y.ctl = x.ctl) : ctlDone u i st out info = ctlEnds u i c st out info := by
  obtain ⟨data, hf⟩ := CtlRuns.front h
  exact ctlDone_of_front hf out info hy hctl fun htag => absurd htag h.1

theorem CtlRuns.ends (h : CtlRuns s i op c d x) {u : State} (st : Status) (out : Bytes) (info : Nat) (hinsts : u.insts = s.insts) :
    ctlDone u i st out info = ctlEnds u i c st out info :=
  CtlRuns.endsIn h st out info (y := x) (hinsts ▸ CtlRuns.inst h) rfl

end

/-- Every control command runs its function where the common checks pass it. -/
theorem ctlCommands_run (s : State) (i : Nat) : ∀ e ∈ ctlCommands i, ∃ f, exec e.2 s = whenRunning s (ctlRun s i e.1 f) := by
  simp only [ctlCommands, List.forall_mem_cons]
  exact ⟨⟨createQueue i s, rfl⟩, ⟨destroyQueue i s, rfl⟩, ⟨createStream i s, rfl⟩, ⟨destroyStream i s, rfl⟩, ⟨streamRekey i s, rfl⟩, ⟨loadKey i s, rfl⟩,
    ⟨unloadKey i s, rfl⟩, ⟨exportContext i s, rfl⟩, ⟨importContext i s, rfl⟩, ⟨queryInstance i s, rfl⟩, fun _ he => nomatch he⟩

/-! #### CREATE_QUEUE, DESTROY_QUEUE and QUERY_INSTANCE -/

section
variable {s : State} {i : Nat} {c : Cmd} {d : Bytes} {x : Inst}

theorem createQueue_good (x : Inst) (c : Cmd) (q : Nat) (sqB cqB : BitVec 64) :
    (!zeroAt c.params 5 3 || !zeroAt c.params 24 16 || decide (q = 0) || tblHas x.queues q || decide (sqB.toNat % 4096 ≠ 0) ||
      decide (cqB.toNat % 4096 ≠ 0) || decide (byteAt c.params 2 < 6) || decide (16 < byteAt c.params 2) || decide (byteAt c.params 3 < 6) ||
      decide (16 < byteAt c.params 3)) = true ↔
    ¬ (zeroAt c.params 5 3 = true ∧ zeroAt c.params 24 16 = true ∧ q ≠ 0 ∧ tblGet x.queues q = none ∧ sqB.toNat % 4096 = 0 ∧
      cqB.toNat % 4096 = 0 ∧ 6 ≤ byteAt c.params 2 ∧ byteAt c.params 2 ≤ 16 ∧ 6 ≤ byteAt c.params 3 ∧ byteAt c.params 3 ≤ 16) := by
  simp only [Bool.or_eq_true, Bool.not_eq_eq_eq_not, Bool.not_true, decide_eq_true_eq, tblHas, Option.isSome_iff_ne_none, not_and_or, Bool.not_eq_true,
    ne_eq, not_not, not_le, or_assoc]

theorem createQueue_ends (h : CtlRuns s i 0x81 c d x) :
    let q := le c.params 0 2
    let sqBase := BitVec.ofNat 64 (le c.params 8 8)
    let cqBase := BitVec.ofNat 64 (le c.params 16 8)
    let good := zeroAt c.params 5 3 = true ∧ zeroAt c.params 24 16 = true ∧ q ≠ 0 ∧ tblGet x.queues q = none ∧ sqBase.toNat % 4096 = 0 ∧
      cqBase.toNat % 4096 = 0 ∧ 6 ≤ byteAt c.params 2 ∧ byteAt c.params 2 ≤ 16 ∧ 6 ≤ byteAt c.params 3 ∧ byteAt c.params 3 ≤ 16
    let qp : Qp := ⟨false, sqBase, cqBase, byteAt c.params 2, byteAt c.params 3, byteAt c.params 4, 0, 0, 0, 0, 0, none, [], [], false, none, none⟩
    (good → q < x.maxQueues → exec (.createQueue i) s = .next (ctlEnds (modInst s i (fun y => { y with queues := tblPut y.queues q qp })) i c .ok [] 0)) ∧
    (good → x.maxQueues ≤ q → exec (.createQueue i) s = .next (ctlEnds s i c .reservationFailed [] 0)) ∧
    (¬ good → exec (.createQueue i) s = .next (ctlEnds s i c .inputInvalid [] 0)) := by
  intro q sqBase cqBase good qp
  have hexec : exec (.createQueue i) s = whenRunning s (ctlRun s i 0x81 (createQueue i s)) := rfl
  have only := onlyInst_modInst (fun y : Inst => { y with queues := tblPut y.queues q qp }) (CtlRuns.inst h)
  rw [exec_ctlRuns hexec h (by decide) (by decide)]
  unfold createQueue
  rw [CtlRuns.inst h]
  dsimp only
  have hgood := createQueue_good x c q sqBase cqBase
  refine ⟨fun hg hq => ?_, fun hg hq => ?_, fun hb => ?_⟩
  · rw [if_neg (mt hgood.mp (not_not_intro hg)), if_neg (Nat.not_le.mpr hq)]
    exact congrArg _ (CtlRuns.endsIn h _ _ _ only.1 rfl)
  · rw [if_neg (mt hgood.mp (not_not_intro hg)), if_pos hq]
    exact congrArg _ (CtlRuns.ends h _ _ _ rfl)
  · rw [if_pos (hgood.mpr hb)]
    exact congrArg _ (CtlRuns.ends h _ _ _ rfl)

theorem destroyQueue_ends (h : CtlRuns s i 0x82 c d x) : let q := le c.params 0 2
    (∀ qp, tblGet x.queues q = some qp → zeroAt c.params 2 38 = true → q ≠ 0 → qp.enable = false → qp.out = 0 →
      exec (.destroyQueue i) s = .next (ctlEnds (modInst s i (fun y => { y with queues := tblDel y.queues q })) i c .ok [] 0)) ∧
    ((∀ qp, tblGet x.queues q = some qp → q = 0 ∨ qp.enable = true ∨ qp.out ≠ 0) →
      exec (.destroyQueue i) s = .next (ctlEnds s i c .inputInvalid [] 0)) := by
  intro q
  have hexec : exec (.destroyQueue i) s = whenRunning s (ctlRun s i 0x82 (destroyQueue i s)) := rfl
  have only := onlyInst_modInst (fun y : Inst => { y with queues := tblDel y.queues q }) (CtlRuns.inst h)
  rw [exec_ctlRuns hexec h (by decide) (by decide)]
  simp only [destroyQueue, CtlRuns.inst h]
  refine ⟨fun qp hqp hz h0 he hout => ?_, fun hbad => ?_⟩
  · rw [hqp]
    dsimp only
    rw [if_neg (by rw [hz, decide_eq_false h0, he, hout]; decide)]
    exact congrArg _ (CtlRuns.endsIn h _ _ _ only.1 rfl)
  · cases hqp : tblGet x.queues q with
    | none => exact congrArg _ (CtlRuns.ends h _ _ _ rfl)
    | some qp =>
      have hno : (!zeroAt c.params 2 38 || decide (q = 0) || qp.enable || decide (qp.out ≠ 0)) = true := by
        rcases hbad qp hqp with h0 | he | hout
        · simp [h0]
        · simp [he]
        · simp [hout]
      dsimp only
      rw [if_pos hno]
      exact congrArg _ (CtlRuns.ends h _ _ _ rfl)

theorem queryInstance_ends (h : CtlRuns s i 0x8A c d x) (hz : zeroAt c.params 0 40 = true) : let r := instanceReport s i x (extentsUnacked s i)
    (r.length ≤ c.dataLen → exec (.queryInstance i) s = .next (ctlEnds s i c .ok r r.length)) ∧
    (c.dataLen < r.length → exec (.queryInstance i) s = .next (ctlEnds s i c .inputInvalid [] 0)) := by
  intro r
  have hexec : exec (.queryInstance i) s = whenRunning s (ctlRun s i 0x8A (queryInstance i s)) := rfl
  rw [exec_ctlRuns hexec h (by decide) (by decide)]
  simp only [queryInstance, CtlRuns.inst h]
  refine ⟨fun hlen => ?_, fun hlen => ?_⟩
  · rw [if_neg (by rw [hz, decide_eq_false (Nat.not_lt.mpr hlen)]; decide)]
    exact congrArg _ (CtlRuns.ends h _ _ _ rfl)
  · rw [if_pos (by rw [hz, decide_eq_true hlen]; decide)]
    exact congrArg _ (CtlRuns.ends h _ _ _ rfl)

end

/-- Settles O41: a refused control command ends with INPUT_INVALID; a queue is added, removed or refused, and the report is the instance's own. -/
theorem queueCommands : Obligations.QueueCommands := by
  unfold Obligations.QueueCommands
  intro s i c d x
  refine ⟨fun e he data hf hbad => ?_, createQueue_ends, destroyQueue_ends, queryInstance_ends⟩
  obtain ⟨f, hexec⟩ := ctlCommands_run s i e he
  exact exec_ctlRefused hexec hf hbad

end Sys2Proof.ControlRows

/-! ### Stream commands (R241, R242, R244, R268) -/

namespace Sys2Proof.StreamRows

open Sys2Proof Sys2Proof.Machine Sys2Proof.Safety Sys2Proof.Rows Sys2Proof.Laws Sys2Proof.StateFacts Sys2Proof.RingWrites Sys2Proof.LadderRows
open Sys2Proof.HaltRows Sys2Proof.WriteRows Sys2Proof.DmaRows Sys2Proof.CommandRows Sys2Proof.ControlRows

/-! #### A device without a twin mirrors nothing -/

theorem mirror_alone {s : State} (h : s.twn.role = 0) (kind : Nat) (body : Bytes) : mirror s kind body = s := by
  have hno : mirrors s = false := by simp [mirrors, onPair, h]
  rw [mirror, hno, if_neg Bool.false_ne_true]

theorem ctlDoneMirrored_alone {s : State} (h : s.twn.role = 0) (i info : Nat) : ctlDoneMirrored s i info = ctlDone s i .ok [] info := by
  have hno : mirrors s = false := by simp [mirrors, onPair, h]
  unfold ctlDoneMirrored
  cases hf : ctlFront s i with
  | none => simp only [ctlDone, hf]
  | some c =>
    dsimp only
    rw [hno, if_neg Bool.false_ne_true]

/-! #### A stream added -/

theorem addOp_frame (s : State) (o : HopOp) : ∃ pxt, (addOp s o).2 = { s with pxt := pxt } := ⟨_, rfl⟩

theorem openLink_frame (s : State) (sid : Nat) (x : Stream) : ∃ flows flowNo pxt,
    openLink s sid x = { s with bore := { s.bore with flows := flows, flowNo := flowNo }, pxt := pxt } := by
  unfold openLink
  split
  · exact ⟨_, _, _, rfl⟩
  · dsimp only [newFlow]
    exact ⟨_, _, _, rfl⟩

theorem resumeFlow_frame (s : State) (sid : Nat) (x : Stream) : ∃ flows, resumeFlow s sid x = { s with bore := { s.bore with flows := flows } } := by
  unfold resumeFlow
  split
  · exact ⟨_, rfl⟩
  · split
    · split
      · exact ⟨_, rfl⟩
      · exact ⟨_, rfl⟩
    · exact ⟨_, rfl⟩

theorem cacheRoom_frame {s t : State} (h : cacheRoom s = some t) : ∃ streams, t = { s with bore := { s.bore with streams := streams } } := by
  unfold cacheRoom at h
  dsimp only at h
  split at h
  · cases h
    exact ⟨_, rfl⟩
  · obtain ⟨e, -, rfl⟩ := Option.map_eq_some_iff.mp h
    exact ⟨_, rfl⟩

/-- The stream stands in the table under its number, cached where there was room. -/
theorem addStream_frame (s : State) (sid : Nat) (x : Stream) : ∃ streams flows flowNo pxt y, (y = x ∨ y = { x with cached := false }) ∧
    addStream s sid x = { s with
      bore := { s.bore with streams := tblPut streams sid y, lastStream := some sid, flows := flows, flowNo := flowNo }
      pxt := pxt } := by
  unfold addStream
  cases hroom : cacheRoom s with
  | some t =>
    obtain ⟨streams, rfl⟩ := cacheRoom_frame hroom
    obtain ⟨f1, n1, p1, hlink⟩ := openLink_frame { s with bore := { s.bore with streams := tblPut streams sid x, lastStream := some sid } } sid x
    obtain ⟨f2, hresume⟩ := resumeFlow_frame { s with
      bore := { s.bore with streams := tblPut streams sid x, lastStream := some sid, flows := f1, flowNo := n1 }
      pxt := p1 } sid x
    exact ⟨streams, f2, n1, p1, x, .inl rfl, (congrArg (fun u => resumeFlow u sid x) hlink).trans hresume⟩
  | none =>
    obtain ⟨f1, n1, p1, hlink⟩ := openLink_frame { s with
      bore := { s.bore with streams := tblPut s.bore.streams sid { x with cached := false }, lastStream := some sid } } sid { x with cached := false }
    obtain ⟨f2, hresume⟩ := resumeFlow_frame { s with
      bore := { s.bore with streams := tblPut s.bore.streams sid { x with cached := false }, lastStream := some sid, flows := f1, flowNo := n1 }
      pxt := p1 } sid { x with cached := false }
    exact ⟨s.bore.streams, f2, n1, p1, _, .inr rfl, (congrArg (fun u => resumeFlow u sid { x with cached := false }) hlink).trans hresume⟩

/-- The next number is taken where it is free. -/
theorem nextStreamId_first {s : State} (hlast : s.bore.lastStream = none) (hfree : tblGet s.bore.streams 0 = none) : nextStreamId s = 0 := by
  unfold nextStreamId
  simp [hlast, tblFreeFrom, tblHas, hfree]

theorem nextStreamId_next {s : State} {n : Nat} (hlast : s.bore.lastStream = some n) (hfree : tblGet s.bore.streams ((n + 1) % 2 ^ 20) = none) :
    nextStreamId s = (n + 1) % 2 ^ 20 := by
  have hfrom : tblFreeFrom s.bore.streams (s.bore.streams.length + 1) ((n + 1) % 2 ^ 20) = (n + 1) % 2 ^ 20 := by
    rw [tblFreeFrom, tblHas, hfree]
    rfl
  unfold nextStreamId
  simp only [hlast, hfrom]
  exact if_pos (Nat.mod_lt _ (by decide))

section
variable {s : State} {i : Nat} {c : Cmd} {d : Bytes} {x : Inst} {k : StreamClass}

theorem createStream_eq (h : CtlRuns s i 0x83 c d x) (hk : streamClass (byteAt d 0) = some k) (hcls : byteAt c.params 0 = byteAt d 0)
    (hz : zeroAt c.params 1 39 = true) (hfields : streamFieldsOk k d = true)
    (htransport : transportOk s k (k = .transit && bitOf (byteAt d 2) 3) d = true) (hpart : s.dev.part = .lc → k = .lookaside)
    (hpools : k = .preserve → ∀ r ∈ [0x0234, 0x0324, 0x0235, 0x0325], (poolFor s x r).isSome = true) (hslots : streamSlots s i k d = .ok ()) :
    exec (.createStream i) s = .next (if x.maxStreams ≤ (streamsOf s i).length then ctlDone s i .reservationFailed [] 0
      else ctlDoneMirrored (mirror (addStream s (nextStreamId s) (streamOfDesc s i k d)) recStream
        (streamBody (nextStreamId s) (streamOfDesc s i k d))) i (nextStreamId s)) := by
  have hexec : exec (.createStream i) s = whenRunning s (ctlRun s i 0x83 (createStream i s)) := rfl
  have hguard : ¬ (decide (byteAt c.params 0 ≠ byteAt d 0) || !zeroAt c.params 1 39 || !streamFieldsOk k d ||
      !transportOk s k (k = .transit && bitOf (byteAt d 2) 3) d || (decide (s.dev.part = .lc) && decide (k ≠ .lookaside)) ||
      (decide (k = .preserve) && !preserveRoutines.all (fun r => (poolFor s x r).isSome))) = true := by
    have hlc : (decide (s.dev.part = .lc) && decide (k ≠ .lookaside)) = false := by
      simpa using hpart
    have hpreserve : (decide (k = .preserve) && !preserveRoutines.all (fun r => (poolFor s x r).isSome)) = false := by
      cases hkp : decide (k = .preserve) with
      | false => rfl
      | true =>
        have hall : preserveRoutines.all (fun r => (poolFor s x r).isSome) = true := List.all_eq_true.mpr (hpools (of_decide_eq_true hkp))
        rw [hall]
        rfl
    rw [decide_eq_false (not_not_intro hcls), hz, hfields, htransport, hlc, hpreserve]
    decide
  rw [exec_ctlRuns hexec h (by decide) (by decide)]
  simp only [createStream, CtlRuns.inst h, hk]
  rw [if_neg hguard, hslots]

theorem createStream_creates (h : CtlRuns s i 0x83 c d x) (hrole : s.twn.role = 0)
    (hstep : exec (.createStream i) s = .next (ctlDoneMirrored (mirror (addStream s (nextStreamId s) (streamOfDesc s i k d)) recStream
      (streamBody (nextStreamId s) (streamOfDesc s i k d))) i (nextStreamId s))) :
    Does (.createStream i) s (fun t => ∃ sid y, t.bore.lastStream = some sid ∧
      tblGet t.bore.streams sid = some y ∧ y.inst = i ∧ y.cls = k ∧ y.keySlot = le d 4 2 ∧ y.linkId = slice d 16 8 ∧ y.counter = y.ceiling ∧
      y.destroy = false ∧ (k ≠ .transit → y.epoch = 0 ∧ y.counter = 0) ∧ (y.opening = true ↔ k = .preserve) ∧
      (s.bore.lastStream = none → tblGet s.bore.streams 0 = none → sid = 0) ∧
      (∀ n, s.bore.lastStream = some n → tblGet s.bore.streams ((n + 1) % 2 ^ 20) = none → sid = (n + 1) % 2 ^ 20) ∧
      t.waiting = s.waiting ++ [⟨ctlResult i c .ok [] sid, 3, i, s.brt.count + 1⟩] ∧ t.insts = (ctlLeft s i).insts) := by
  generalize hsid : nextStreamId s = sid at hstep
  obtain ⟨streams, flows, flowNo, pxt, y, hy, hadd⟩ := addStream_frame s sid (streamOfDesc s i k d)
  rw [mirror_alone (by rw [hadd]; exact hrole), ctlDoneMirrored_alone (by rw [hadd]; exact hrole), CtlRuns.ends h .ok [] sid (by rw [hadd])] at hstep
  refine ⟨_, hstep, sid, y, ?_⟩
  rw [hadd]
  have hpast (hk : k ≠ .transit) : (streamOfDesc s i k d).epoch = 0 ∧ (streamOfDesc s i k d).counter = 0 := by simp [streamOfDesc, hk]
  have hopening : (streamOfDesc s i k d).opening = true ↔ k = .preserve := by simp [streamOfDesc]
  refine ⟨rfl, tblGet_put_same _ _ _, ?_⟩
  have hnumber : (s.bore.lastStream = none → tblGet s.bore.streams 0 = none → sid = 0) ∧
      (∀ n, s.bore.lastStream = some n → tblGet s.bore.streams ((n + 1) % 2 ^ 20) = none → sid = (n + 1) % 2 ^ 20) :=
    ⟨fun hlast hfree => hsid.symm.trans (nextStreamId_first hlast hfree), fun n hlast hfree => hsid.symm.trans (nextStreamId_next hlast hfree)⟩
  rcases hy with rfl | rfl
  · exact ⟨rfl, rfl, rfl, rfl, rfl, rfl, hpast, hopening, hnumber.1, hnumber.2, rfl, rfl⟩
  · exact ⟨rfl, rfl, rfl, rfl, rfl, rfl, hpast, hopening, hnumber.1, hnumber.2, rfl, rfl⟩

/-! #### DESTROY_STREAM and STREAM_REKEY -/

theorem ownStream_own {sid : Nat} {y : Stream} (hy : tblGet s.bore.streams sid = some y) (hi : y.inst = i) : ownStream s i sid = some y := by
  simp [ownStream, streamAt, hy, hi]

theorem ownStream_none {sid : Nat} (hy : tblGet s.bore.streams sid = none) : ownStream s i sid = none := by
  simp [ownStream, streamAt, hy]

/-- The stream marked as going. -/
def going (s : State) (i sid : Nat) : State := modStream (modCtlQ s i startCmd) sid (fun y => { y with destroy := true, held := [] })

theorem exec_destroyStream (h : CtlRuns s i 0x84 c d x) (hz : zeroAt c.params 4 36 = true) {y : Stream}
    (hy : tblGet s.bore.streams (le c.params 0 4) = some y) (hi : y.inst = i)
    (hput : ∀ e ∈ s.bore.flows, e.2.sid = le c.params 0 4 → e.2.kind ≠ .put) :
    exec (.destroyStream i) s = .next (settleStream (going s i (le c.params 0 4)) (le c.params 0 4)) := by
  have hexec : exec (.destroyStream i) s = whenRunning s (ctlRun s i 0x84 (destroyStream i s)) := rfl
  rw [exec_ctlRuns hexec h (by decide) (by decide)]
  simp only [destroyStream, ownStream_own hy hi]
  rw [hz, if_neg (by decide)]
  have hopen : s.bore.flows.filter (fun e => e.2.sid = le c.params 0 4 && e.2.kind = .put && e.2.mig.isNone &&
      (e.2.stage = .opening || e.2.stage = .isOpen)) = [] :=
    List.filter_eq_nil_iff.mpr fun e he hall => by
      simp only [Bool.and_eq_true, decide_eq_true_eq] at hall
      exact hput e he hall.1.1.1 hall.1.1.2
  have hflows : (going s i (le c.params 0 4)).bore.flows = s.bore.flows := rfl
  unfold destroyStreamNow
  dsimp only
  rw [show (modStream (modCtlQ s i startCmd) (le c.params 0 4) fun y => { y with destroy := true, held := [] }) = going s i (le c.params 0 4) from rfl,
    hflows, hopen]
  rfl

theorem tblDel_mod {α : Type} (t : Tbl α) (k : Nat) (f : α → α) : tblDel (tblMod t k f) k = tblDel t k := by
  induction t with
  | nil => rfl
  | cons e rest ih =>
    obtain ⟨j, v⟩ := e
    by_cases hj : j = k
    · simp only [tblMod, tblDel, hj, if_true]
    · simp only [tblMod, tblDel, hj, if_false, ih]

theorem streamAt_going {sid : Nat} {y : Stream} (hy : tblGet s.bore.streams sid = some y) :
    streamAt (going s i sid) sid = some { y with destroy := true, held := [] } :=
  (tblGet_mod_same _ _ _).trans (congrArg (Option.map _) hy)

/-- A command that has begun leaves as one that has not. -/
theorem ctlLeft_begun (s : State) (i : Nat) : (ctlLeft (modCtlQ s i startCmd) i).insts = (ctlLeft s i).insts := by
  have hpop (q : CmdQ) : (startCmd q).cmds.drop 1 = q.cmds.drop 1 := by
    obtain ⟨cmds, data⟩ := q
    cases cmds <;> rfl
  have htwice := congrArg State.insts (modInst_modInst s i (fun z => { z with ctl := startCmd z.ctl }) (fun z => { z with ctl := ⟨z.ctl.cmds.drop 1, none⟩ }))
  refine htwice.trans ?_
  simp only [hpop]
  rfl

/-- The begun command at the front of queue 0. -/
theorem begun_front {op : Nat} (h : CtlRuns s i op c d x) : ∃ rest data, tblGet (modCtlQ s i startCmd).insts i =
      some { x with ctl := ⟨{ c with started := true } :: rest, data⟩ } ∧ (∀ y ∈ rest.head?, 0x81 ≤ y.opcode ∧ y.opcode ≤ 0x8A) := by
  obtain ⟨data, hf⟩ := CtlRuns.front h
  obtain ⟨rest, hq, hnext⟩ := hf.queue
  have only := onlyInst_modInst (fun z : Inst => { z with ctl := startCmd z.ctl }) hf.inst
  refine ⟨rest, data, ?_, hnext⟩
  rw [hq] at only
  exact only.1

/-- Nothing of the stream is under way: it goes at once, and its DESTROY_STREAM completes. -/
theorem settleStream_goes (h : CtlRuns s i 0x84 c d x) (hrole : s.twn.role = 0) {y : Stream} (hy : tblGet s.bore.streams (le c.params 0 4) = some y)
    (hi : y.inst = i) (hidle : streamBusy (going s i (le c.params 0 4)) (le c.params 0 4) = false) (hqueues : x.queues ≠ []) :
    let sid := le c.params 0 4
    let t := settleStream (going s i sid) sid
    t.bore.streams = tblDel s.bore.streams sid ∧ (∀ e ∈ t.bore.contexts, ∀ n, e.2.stream ≠ some (sid, n)) ∧ t.insts = (ctlLeft s i).insts ∧
      t.waiting = s.waiting ++ [⟨ctlResult i c .ok [] 0, 3, i, s.brt.count + 1⟩] := by
  intro sid t
  obtain ⟨rest, data, hbegun, hnext⟩ := begun_front h
  let gone : State := { going s i sid with
    bore := { (going s i sid).bore with
      streams := tblDel (going s i sid).bore.streams sid
      flows := s.bore.flows.filter (fun e => e.2.sid ≠ sid || e.2.mig.isSome)
      contexts := s.bore.contexts.filter (fun e => match e.2.stream with
        | some (t, _) => t ≠ sid
        | none => true) }
    pxt := { s.pxt with ops := s.pxt.ops.filter (fun o => o.2.sid ≠ sid || o.2.node.isSome) } }
  have hfront : ctlFront gone i = some { c with started := true } := by
    have hget : tblGet gone.insts i = _ := hbegun
    simp [ctlFront, hget]
  have hwaits : ctlWaits gone i 0x84 sid = true := by
    obtain ⟨data, hf⟩ := CtlRuns.front h
    simp only [ctlWaits, hfront, hf.op, decide_true, Bool.and_self, sid]
  have hdone : ctlDone gone i .ok [] 0 = ctlEnds gone i { c with started := true } .ok [] 0 :=
    ctlDone_ends (s := gone) [] 0 hbegun rfl (fun htag => absurd (show c.tag = 0xFFFF from htag) h.1) hnext
  have hstays : finishDestroy (ctlEnds gone i { c with started := true } .ok [] 0) i = ctlEnds gone i { c with started := true } .ok [] 0 := by
    have hget : tblGet (ctlEnds gone i { c with started := true } .ok [] 0).insts i = some { x with ctl := ⟨rest, none⟩ } :=
      (onlyInst_modInst (s := gone) (fun z : Inst => { z with ctl := ⟨z.ctl.cmds.drop 1, none⟩ }) hbegun).1
    have hnot : isDestroying { x with ctl := ⟨rest, none⟩ } = false := by simp [isDestroying, hqueues]
    simp only [finishDestroy, hget, hnot, Bool.not_false, Bool.true_or, if_true]
  have hstep : t = ctlEnds gone i { c with started := true } .ok [] 0 := by
    change settleStream (going s i sid) sid = _
    unfold settleStream
    rw [streamAt_going hy]
    dsimp only
    rw [hidle, if_neg (by decide), mirror_alone (by exact hrole), hi]
    change finishDestroy (if ctlWaits gone i 0x84 sid then ctlDoneMirrored gone i 0 else gone) i = _
    rw [hwaits, if_pos rfl, ctlDoneMirrored_alone (by exact hrole), hdone, hstays]
  rw [hstep]
  refine ⟨tblDel_mod _ _ _, fun e he n hs => ?_, ctlLeft_begun s i, rfl⟩
  have hin : e ∈ gone.bore.contexts := he
  have hkept := (List.mem_filter.mp hin).2
  rw [hs] at hkept
  simp at hkept

theorem streamBusy_going (sid : Nat) : streamBusy (going s i sid) sid = streamBusy s sid := rfl

theorem streamBusy_idle {sid : Nat} (hflows : ∀ e ∈ s.bore.flows, e.2.sid ≠ sid) (hjobs : ∀ e ∈ s.jobs, cipherStream e.2 ≠ some sid) :
    streamBusy s sid = false := by
  have hnone (f : Nat × Flow → Bool) : s.bore.flows.any (fun e => decide (e.2.sid = sid) && f e) = false :=
    List.any_eq_false.mpr fun e he => by simp [hflows e he]
  have hjob : s.jobs.any (fun e => decide (cipherStream e.2 = some sid)) = false := List.any_eq_false.mpr fun e he => by simp [hjobs e he]
  simp only [streamBusy, Bool.and_assoc, hnone, hjob, Bool.or_self]

theorem exec_streamRekey (h : CtlRuns s i 0x85 c d x) (hz : zeroAt c.params 6 34 = true) {y : Stream}
    (hy : tblGet s.bore.streams (le c.params 0 4) = some y) (hi : y.inst = i) (hd : y.destroy = false) :
    exec (.streamRekey i) s = .next (match streamKeySlot s i (le c.params 4 2) y.cls with
      | .error st => ctlDone (noteSlot s i (le c.params 4 2) st) i st [] 0
      | .ok () => if oldEpochWork s (le c.params 0 4) y then s
        else modStream (modCtlQ s i startCmd) (le c.params 0 4) (fun y => { y with nextSlot := some (le c.params 4 2), rekey := true })) := by
  have hexec : exec (.streamRekey i) s = whenRunning s (ctlRun s i 0x85 (streamRekey i s)) := rfl
  rw [exec_ctlRuns hexec h (by decide) (by decide)]
  simp only [streamRekey, ownStream_own hy hi, hz, hd, Bool.not_true, Bool.or_self, Bool.false_eq_true, if_false] <;> rfl

end

/-- Settles O42: a stream stands under its number as its descriptor says, goes when nothing of it is under way, and takes its next key. -/
theorem streamCommands : Obligations.StreamCommands := by
  unfold Obligations.StreamCommands
  intro s i c d x hrole
  refine ⟨fun h k hk hcls hz hfields htransport hpart hpools hslots => ?_, fun h hz => ?_, fun h hz => ?_, fun e he h hnone => ?_⟩
  · have hstep := createStream_eq h hk hcls hz hfields htransport hpart hpools hslots
    refine ⟨fun hroom => ?_, fun hfull => ?_⟩
    · rw [if_neg (Nat.not_le.mpr hroom)] at hstep
      exact createStream_creates h hrole hstep
    · rw [hstep, if_pos hfull]
      exact congrArg _ (CtlRuns.ends h _ _ _ rfl)
  · intro sid y hy hi
    refine ⟨fun hflows hjobs hqueues => ?_, fun hbusy hput => ?_⟩
    · exact ⟨_, exec_destroyStream h hz hy hi (fun e he hs => absurd hs (hflows e he)),
        settleStream_goes h hrole hy hi ((streamBusy_going sid).trans (streamBusy_idle hflows hjobs)) hqueues⟩
    · rw [exec_destroyStream h hz hy hi hput]
      have hstays : settleStream (going s i sid) sid = going s i sid := by
        unfold settleStream
        rw [streamAt_going hy]
        dsimp only
        rw [streamBusy_going sid, hbusy, if_pos (by decide)]
      exact congrArg _ hstays
  · intro sid hslot y hy hi hd
    refine ⟨fun hok hold => ?_, fun hbad => ?_⟩
    · rw [exec_streamRekey h hz hy hi hd, hok]
      dsimp only
      rw [hold, if_neg Bool.false_ne_true]
      rfl
    · rw [exec_streamRekey h hz hy hi hd, hbad]
      exact congrArg _ (CtlRuns.ends h _ _ _ rfl)
  · simp only [List.mem_cons, List.not_mem_nil, or_false] at he
    rcases he with rfl | rfl
    · have hexec : exec (.destroyStream i) s = whenRunning s (ctlRun s i 0x84 (destroyStream i s)) := rfl
      rw [exec_ctlRuns hexec h (by decide) (by decide)]
      simp only [destroyStream, ownStream_none hnone]
      exact congrArg _ (CtlRuns.ends h _ _ _ rfl)
    · have hexec : exec (.streamRekey i) s = whenRunning s (ctlRun s i 0x85 (streamRekey i s)) := rfl
      rw [exec_ctlRuns hexec h (by decide) (by decide)]
      simp only [streamRekey, ownStream_none hnone]
      exact congrArg _ (CtlRuns.ends h _ _ _ rfl)

end Sys2Proof.StreamRows

/-! ### Key and context commands (R277, R331, R333) -/

namespace Sys2Proof.KeyRows

open Sys2Proof Sys2Proof.Machine Sys2Proof.Safety Sys2Proof.Rows Sys2Proof.Laws Sys2Proof.StateFacts Sys2Proof.RingWrites Sys2Proof.LadderRows
open Sys2Proof.HaltRows Sys2Proof.WriteRows Sys2Proof.DmaRows Sys2Proof.CommandRows Sys2Proof.ControlRows Sys2Proof.StreamRows

/-! #### A slot filled, a slot freed -/

/-- A slot's tag covers its other fields alone. -/
theorem slotTag_tag (s : State) (x : Slot) (tag : Bytes) : slotTag s { x with tag := tag } = slotTag s x := by
  unfold slotTag slotTagInput
  rfl

/-- The slot that material fills, its tag apart: the lowest physical slot or the one in use, and the lowest place in the store. -/
def filledSlot (s : State) (i phys alg usage policy kind : Nat) (key : Bytes) : Slot :=
  ⟨phys, padTo 64 (if 64 < key.length then descriptor key ((storeFit s key.length).getD 0) else key), alg, usage, policy, i, key.length, kind, [],
    if 64 < key.length then key else [], (storeFit s key.length).getD 0, false, false, none⟩

/-- A slot is filled when its fields are and its tag is written last. -/
theorem filled_tagged {s : State} {x : Slot} {i alg usage policy kind : Nat} {key : Bytes}
    (hfields : x.alg = alg ∧ x.usage = usage ∧ x.policy = policy ∧ x.kind = kind ∧ x.owner = i ∧ x.keyLen = key.length)
    (hstate : x.corrupt = false ∧ x.reserved = false ∧ x.freeing = none)
    (hshort : key.length ≤ 64 → x.key = padTo 64 key ∧ x.material = [])
    (hlong : 64 < key.length → x.material = key ∧ x.key = padTo 64 (descriptor key x.handle)) :
    Filled s { x with tag := slotTag s x } i alg usage policy kind key := by
  refine ⟨hfields, hstate, hshort, ?_, ?_⟩
  · unfold descriptor at hlong
    exact hlong
  · dsimp only
    exact (slotTag_tag s x (slotTag s x)).symm

theorem filledSlot_filled (s : State) (i phys alg usage policy kind : Nat) (key : Bytes) :
    Filled s { filledSlot s i phys alg usage policy kind key with tag := slotTag s (filledSlot s i phys alg usage policy kind key) }
      i alg usage policy kind key := by
  refine filled_tagged ⟨rfl, rfl, rfl, rfl, rfl, rfl⟩ ⟨rfl, rfl, rfl⟩ (fun hshort => ?_) (fun hlong => ?_)
  · have hnot : ¬ 64 < key.length := Nat.not_lt.mpr hshort
    exact ⟨congrArg (padTo 64) (if_neg hnot), if_neg hnot⟩
  · exact ⟨if_pos hlong, congrArg (padTo 64) (if_pos hlong)⟩

/-- Filling a slot puts it in the table and leaves the other slots. -/
theorem fillSlot_filled (s : State) (i h alg usage policy kind : Nat) (key : Bytes) : ∃ wch, fillSlot s i h alg usage policy kind key = { s with wch := wch } ∧
    (∃ y, tblGet wch.slots (i * 16384 + h) = some y ∧ Filled s y i alg usage policy kind key) ∧
    ∀ k, k ≠ i * 16384 + h → tblGet wch.slots k = tblGet s.wch.slots k := by
  have hput : ∃ wch phys, fillSlot s i h alg usage policy kind key = { s with wch := wch } ∧ wch.slots = tblPut s.wch.slots (i * 16384 + h)
      { filledSlot s i phys alg usage policy kind key with tag := slotTag s (filledSlot s i phys alg usage policy kind key) } := by
    unfold fillSlot
    simp only [decide_eq_true_eq]
    split
    · exact ⟨_, _, rfl, rfl⟩
    · exact ⟨_, _, rfl, rfl⟩
  obtain ⟨wch, phys, hfill, hslots⟩ := hput
  refine ⟨wch, hfill, ⟨_, ?_, filledSlot_filled s i phys alg usage policy kind key⟩, fun k hk => ?_⟩
  · rw [hslots]
    exact tblGet_put_same _ _ _
  · rw [hslots]
    exact tblGet_put_other _ _ _ _ hk

theorem uncacheSlot_gone (s : State) (i h j : Nat) : (i, h) ∉ (clusterAt (uncacheSlot s i h) j).keyCache := by
  have hget : tblGet (uncacheSlot s i h).clusters j =
      (tblGet s.clusters j).map (fun k => { k with keyCache := k.keyCache.filter (· ≠ (i, h)) }) := 
    StepRows.tblGet_map s.clusters (fun k : Cluster => { k with keyCache := k.keyCache.filter (· ≠ (i, h)) }) j
  unfold clusterAt tblGetD
  rw [hget]
  cases tblGet s.clusters j with
  | none => exact List.not_mem_nil
  | some k => simp

/-- A freed slot leaves the table and the clusters' caches. -/
theorem freeSlot_frees {s : State} {i h : Nat} {k : Slot} (hk : slotAt s i h = some k) : ∃ wch clusters,
    freeSlot s i h = { s with wch := wch, clusters := clusters } ∧ wch.slots = tblDel s.wch.slots (i * 16384 + h) ∧
      ∀ j, (i, h) ∉ (clusterAt { s with wch := wch, clusters := clusters } j).keyCache := by
  have hgone := uncacheSlot_gone (modWch s (fun w => { w with slots := tblDel w.slots (slotKey i h) })) i h
  unfold freeSlot
  simp only [hk]
  split
  · exact ⟨_, _, rfl, rfl, hgone⟩
  · exact ⟨_, _, rfl, rfl, hgone⟩

/-! #### LOAD_KEY -/

section
variable {s : State} {i : Nat} {c : Cmd} {d : Bytes} {x : Inst}

theorem exec_loadKey (h : CtlRuns s i 0x86 c d x) (hz : zeroAt c.params 0 40 = true) : exec (.loadKey i) s = .next (match loadCheck s i d with
    | .error st => ctlDone (if ownerBroken s i d then instError s i errOwner else s) i st [] 0
    | .ok (h, key, n) => match slotAt (fillSlot s i n h.alg h.usage h.policy h.kind key) i n with
      | none => ctlDone (fillSlot s i n h.alg h.usage h.policy h.kind key) i .ok [] n
      | some x => ctlDoneMirrored (mirror (fillSlot s i n h.alg h.usage h.policy h.kind key) recSlot
        (slotBody (fillSlot s i n h.alg h.usage h.policy h.kind key) i n x)) i n) := by
  have hexec : exec (.loadKey i) s = whenRunning s (ctlRun s i 0x86 (loadKey i s)) := rfl
  rw [exec_ctlRuns hexec h (by decide) (by decide), loadKey, hz, if_neg (by decide)] <;> rfl

theorem loadKey_loads (h : CtlRuns s i 0x86 c d x) (hz : zeroAt c.params 0 40 = true) (hrole : s.twn.role = 0) {b : BlobHdr} {key : Bytes} {n : Nat}
    (hcheck : loadCheck s i d = .ok (b, key, n)) : Does (.loadKey i) s (fun t =>
      (∃ y, slotAt t i n = some y ∧ Filled s y i b.alg b.usage b.policy b.kind key) ∧
      (∀ k, k ≠ i * 16384 + n → tblGet t.wch.slots k = tblGet s.wch.slots k) ∧
      t.waiting = s.waiting ++ [⟨ctlResult i c .ok [] n, 3, i, s.brt.count + 1⟩] ∧
      { t with wch := s.wch, insts := s.insts, waiting := s.waiting } = s) := by
  obtain ⟨wch, hfill, ⟨y, hy, hfilled⟩, hothers⟩ := fillSlot_filled s i n b.alg b.usage b.policy b.kind key
  have hslot : slotAt { s with wch := wch } i n = some y := hy
  have hexec := exec_loadKey h hz
  simp only [hcheck, hfill, hslot] at hexec
  rw [mirror_alone (by exact hrole), ctlDoneMirrored_alone (by exact hrole), CtlRuns.ends (u := { s with wch := wch }) h .ok [] n rfl] at hexec
  exact ⟨_, hexec, ⟨y, hy, hfilled⟩, hothers, rfl, rfl⟩

theorem loadKey_fails (h : CtlRuns s i 0x86 c d x) (hz : zeroAt c.params 0 40 = true) :
    (∀ b key, blobCheck s d = .ok (b, key) → materialOk b.alg key = true → b.owner ≠ i →
      exec (.loadKey i) s = .next (ctlEnds (modInst s i (fun y => erred y 7)) i c .keyPolicy [] 0)) ∧
    (∀ st, blobCheck s d = .error st → exec (.loadKey i) s = .next (ctlEnds s i c st [] 0)) := by
  rw [exec_loadKey h hz]
  refine ⟨fun b key hblob hmaterial howner => ?_, fun st hblob => ?_⟩
  · have hbroken : ownerBroken s i d = true := by
      unfold ownerBroken
      rw [hblob]
      dsimp only
      rw [hmaterial, decide_eq_true howner]
      rfl
    have hcheck : loadCheck s i d = .error .keyPolicy := by
      unfold loadCheck
      rw [hblob]
      dsimp only
      rw [hmaterial, decide_eq_true howner]
      rfl
    have only := onlyInst_modInst (fun y => erred y 7) (CtlRuns.inst h)
    rw [hcheck]
    dsimp only
    rw [hbroken, if_pos rfl]
    refine congrArg _ (CtlRuns.endsIn h (u := modInst s i (fun y => erred y 7)) _ _ _ only.1 ?_)
    unfold erred
    split <;> rfl
  · have hbroken : ownerBroken s i d = false := by
      unfold ownerBroken
      rw [hblob]
    have hcheck : loadCheck s i d = .error st := by
      unfold loadCheck
      rw [hblob]
    rw [hcheck]
    dsimp only
    rw [hbroken, if_neg Bool.false_ne_true]
    exact congrArg _ (CtlRuns.ends h _ _ _ rfl)

/-! #### UNLOAD_KEY -/

theorem unloadKey_ends (h : CtlRuns s i 0x87 c d x) (hz : zeroAt c.params 2 38 = true) : let n := le c.params 0 2
    (n < x.maxSlots → ∀ k, slotAt s i n = some k → k.reserved = false → k.freeing = none →
      (slotInStream s i n = false → exec (.unloadKey i) s = .next { ctlBegun s i with wch := { s.wch with
        slots := tblPut s.wch.slots (i * 16384 + n) { k with freeing := some s.nextJob } } }) ∧
      (slotInStream s i n = true → exec (.unloadKey i) s = .next (ctlEnds s i c .keyPolicy [] 0))) ∧
    (x.maxSlots ≤ n ∨ slotAt s i n = none → exec (.unloadKey i) s = .next (ctlEnds s i c .keyNotLoaded [] 0)) := by
  intro n
  have hexec : exec (.unloadKey i) s = whenRunning s (ctlRun s i 0x87 (unloadKey i s)) := rfl
  rw [exec_ctlRuns hexec h (by decide) (by decide)]
  simp only [unloadKey, CtlRuns.inst h, hz, Bool.not_true, Bool.false_eq_true, if_false]
  refine ⟨fun hlt k hk hres hfree => ⟨fun hin => ?_, fun hin => ?_⟩, fun hbad => ?_⟩
  · rw [if_neg (Nat.not_le.mpr hlt), hk]
    dsimp only
    rw [hres, hfree, hin]
    rfl
  · rw [if_neg (Nat.not_le.mpr hlt), hk]
    dsimp only
    rw [hres, hfree, hin]
    exact congrArg _ (CtlRuns.ends h _ _ _ rfl)
  · by_cases hle : x.maxSlots ≤ n
    · rw [if_pos hle]
      exact congrArg _ (CtlRuns.ends h _ _ _ rfl)
    · rw [if_neg hle, hbad.resolve_left hle]
      exact congrArg _ (CtlRuns.ends h _ _ _ rfl)

end

/-- Once no job fetched before names it, the slot goes with its contexts, and the UNLOAD_KEY that waited completes. -/
theorem unloadKeyFree_frees {s : State} {i n m : Nat} {c : Cmd} {x : Inst} {k : Slot} {rest : List Cmd} (hrun : isRunning s = true)
    (hx : tblGet s.insts i = some x) (hk : slotAt s i n = some k) (hfreeing : k.freeing = some m)
    (hjobs : ∀ e ∈ s.jobs, e.1 < m → e.2.inst = i → jobNames e.2 n = false) (hq : x.ctl = ⟨c :: rest, none⟩) (hop : c.opcode = 0x87)
    (htag : c.tag ≠ 0xFFFF) (hstarted : c.started = true) (hn : le c.params 0 2 = n) (hnext : ∀ y ∈ rest.head?, 0x81 ≤ y.opcode ∧ y.opcode ≤ 0x8A)
    (hrole : s.twn.role = 0) :
    Does (.unloadKeyFree i n) s (fun t => slotAt t i n = none ∧ (∀ k, k ≠ i * 16384 + n → tblGet t.wch.slots k = tblGet s.wch.slots k) ∧
      (∀ e ∈ t.bore.contexts, ¬ (e.1 / 4096 = i ∧ e.2.slot = n)) ∧ (∀ j, (i, n) ∉ (clusterAt t j).keyCache) ∧
      t.insts = (ctlLeft s i).insts ∧ t.waiting = s.waiting ++ [⟨ctlResult i c .ok [] 0, 3, i, s.brt.count + 1⟩]) := by
  have hexec : exec (.unloadKeyFree i n) s = whenRunning s (unloadKeyFree s i n) := rfl
  obtain ⟨wch, clusters, hfree, hslots, hcache⟩ := freeSlot_frees hk
  let t := dropContexts { s with wch := wch, clusters := clusters } (fun e c => decide (e / 4096 = i) && c.slot = n)
  have hnone : s.jobs.any (fun e => decide (e.1 < m) && e.2.inst = i && jobNames e.2 n) = false := by
    refine List.any_eq_false.mpr fun e he hall => ?_
    simp only [Bool.and_eq_true, decide_eq_true_eq] at hall
    rw [hjobs e he hall.1.1 hall.1.2] at hall
    cases hall.2
  have hxt : tblGet t.insts i = some x := hx
  have hfront : ctlFront t i = some c := by simp [ctlFront, hxt, hq]
  have hrolet : t.twn.role = 0 := hrole
  have hstep : unloadKeyFree s i n = ctlEnds t i c .ok [] 0 := by
    unfold unloadKeyFree
    rw [hk]
    dsimp only
    rw [hfreeing]
    dsimp only
    rw [hnone, if_neg Bool.false_ne_true, hfree, mirror_alone hrolet]
    change (match ctlFront t i with
      | some c => if c.opcode = 0x87 && c.started && le c.params 0 2 = n then ctlDoneMirrored t i 0 else t
      | none => t) = _
    rw [hfront]
    dsimp only
    rw [if_pos (by simp [hop, hstarted, hn]), ctlDoneMirrored_alone hrolet]
    exact ctlDone_ends [] 0 hxt hq (fun h => absurd h htag) hnext
  obtain ⟨hgone, hothers⟩ := tblGet_del_at s.wch.slots (i * 16384 + n)
  refine does_whenRunning hexec hrun ?_
  rw [hstep]
  refine ⟨?_, fun k hk => ?_, fun e he hbad => ?_, hcache, rfl, rfl⟩
  · exact (congrArg (tblGet · (i * 16384 + n)) hslots).trans hgone
  · exact (congrArg (tblGet · k) hslots).trans (hothers k hk)
  · have hkept := (List.mem_filter.mp (show e ∈ s.bore.contexts.filter _ from he)).2
    simp [hbad.1, hbad.2] at hkept

/-! #### Wrapped contexts -/

section
variable {s : State} {i : Nat} {c : Cmd} {d : Bytes} {x : Inst}

theorem exec_exportContext (h : CtlRuns s i 0x88 c d x) (hz : zeroAt c.params 3 37 = true) (hlt : le c.params 0 2 < x.maxContexts)
    (hheld : contextHeld s i (le c.params 0 2) = false) {k : CipherCtx} {slot : Slot} (hk : tblGet s.bore.contexts (i * 4096 + le c.params 0 2) = some k)
    (hcheck : exportCheck s i x (byteAt c.params 2) c.dataLen k = .ok slot) :
    let wrap := byteAt c.params 2
    let n := s.bore.exportSerial
    let head := contextHead wrap k.alg k.op n (if wrap = 1 then s.dom.id else 0) (keyFpr (slotMaterial slot))
    let out := head ++ kwpWrap (if wrap = 1 then ((newestGen s).getD (0, [])).2 else s.wch.exportKey) (head ++ contextState k)
    let s1 := modBore s (fun b => { b with contexts := tblDel b.contexts (i * 4096 + le c.params 0 2), exportSerial := n + 1 })
    exec (.exportContext i) s =
      .next (ctlDone (if wrap = 0 then modWch s1 (fun w => { w with exportSerials := w.exportSerials ++ [n] }) else s1) i .ok out out.length) := by
  have hexec : exec (.exportContext i) s = whenRunning s (ctlRun s i 0x88 (exportContext i s)) := rfl
  have hctx : tblGet s.bore.contexts (contextKey i (le c.params 0 2)) = some k := hk
  rw [exec_ctlRuns hexec h (by decide) (by decide)]
  simp only [exportContext, CtlRuns.inst h, hz, Nat.not_le.mpr hlt, hheld, hctx, hcheck, Bool.not_true, decide_false, Bool.or_self, Bool.false_eq_true,
    if_false] <;> rfl

theorem exec_importContext (h : CtlRuns s i 0x89 c d x) : exec (.importContext i) s = .next (importContext i s c d) :=
  exec_ctlRuns (show _ = whenRunning s (ctlRun s i 0x89 (importContext i s)) from rfl) h (by decide) (by decide)

theorem importContext_imports (h : CtlRuns s i 0x89 c d x) (hz : zeroAt c.params 0 40 = true) {b : Bytes} {k n : Nat} {slot : Slot}
    (hopen : contextOpen s d = .ok b) (hfpr : slotByFpr s i (byteAt d 6 % 16) (slice d 32 16) = some k) (hslot : checkSlot s i k = .ok slot)
    (hfree : freeContext s i x = some n) : exec (.importContext i) s = .next (ctlEnds { s with
      bore := { s.bore with contexts := tblPut s.bore.contexts (i * 4096 + n) (contextOf (le d 6 2) (byteAt d 8) k b) }
      wch := if byteAt d 5 = 0 then { s.wch with exportSerials := s.wch.exportSerials.filter (· ≠ le d 16 8) } else s.wch } i c .ok [] n) := by
  rw [exec_importContext h]
  simp only [importContext, CtlRuns.inst h, hz, hopen, hfpr, hslot, hfree, Bool.not_true, Bool.false_eq_true, if_false]
  by_cases hwrap : byteAt d 5 = 0
  · simp only [if_pos hwrap]
    exact congrArg _ (CtlRuns.ends h _ _ _ rfl)
  · simp only [if_neg hwrap]
    exact congrArg _ (CtlRuns.ends h _ _ _ rfl)

end

/-- Settles O43: a blob that passes its checks fills a slot, a slot without users goes, and a context leaves and comes back wrapped. -/
theorem keyCommands : Obligations.KeyCommands := by
  unfold Obligations.KeyCommands
  intro s i c d x
  refine ⟨fun h hz => ⟨fun b key n hcheck hrole => loadKey_loads h hz hrole hcheck, loadKey_fails h hz⟩, unloadKey_ends,
    fun n k m rest hrun hx hk hfreeing hjobs hq hop htag hstarted hn hnext hrole =>
      unloadKeyFree_frees hrun hx hk hfreeing hjobs hq hop htag hstarted hn hnext hrole,
    fun h hz => ?_, fun h hz => ⟨fun b k slot n hopen hfpr hslot hfree => importContext_imports h hz hopen hfpr hslot hfree, fun st hopen => ?_⟩⟩
  · intro n hlt hheld k slot hk hcheck serial left
    have hexec := exec_exportContext h hz hlt hheld hk hcheck
    refine ⟨fun hwrap => ?_, fun hwrap g hg => ?_⟩
    · rw [hwrap] at hexec
      exact hexec.trans (congrArg _ (CtlRuns.ends h _ _ _ rfl))
    · rw [hwrap, newestGen, hg] at hexec
      exact hexec.trans (congrArg _ (CtlRuns.ends h _ _ _ rfl))
  · rw [exec_importContext h]
    simp only [importContext, CtlRuns.inst h, hz, hopen, Bool.not_true, Bool.false_eq_true, if_false]
    exact congrArg _ (CtlRuns.ends h _ _ _ rfl)

end Sys2Proof.KeyRows


/-! ### The parse of a job (R144, R205, R211, R369) -/

namespace Sys2Proof.ParseRows

open Sys2Proof Sys2Proof.Machine Sys2Proof.Safety Sys2Proof.Rows Sys2Proof.Laws Sys2Proof.StateFacts Sys2Proof.RingWrites Sys2Proof.LadderRows
open Sys2Proof.DmaRows

/-! #### A job that waits for its parse -/

theorem notResetting_of {s : State} {j : Job} (h : Standing s j) : notResetting s j.inst = true := by
  obtain ⟨x, hx, hstate⟩ := h
  unfold notResetting
  rw [hx]
  exact decide_eq_true hstate

theorem parseable_of {s : State} {k : Nat} {kind : JobKind} {j : Job} (h : Parses s k kind j) : parseable s k kind = some j := by
  obtain ⟨-, hhalt, hj, hstage, hkind, hstands⟩ := h
  unfold parseable
  rw [hj]
  dsimp only
  rw [hstage, hkind, hhalt, notResetting_of hstands]
  simp

/-- A job that ends off the ladder leaves the table, and its completion waits. -/
theorem endOffLadder_jobEnds {s : State} {k : Nat} {j : Job} (hj : tblGet s.jobs k = some j) (st : Status) (out : Bytes) (info due : Nat) :
    JobEnds s (endOffLadder s k st out info due) k j st out info due := by
  obtain ⟨wch, clusters, rng, hend⟩ := endOffLadder_frame st out info due hj
  rw [hend]
  refine ⟨tblGet_del_same _ _, fun i hi => tblGet_del_other _ _ _ hi, fun hhost => ?_⟩
  unfold hostJob
  rw [hhost]
  rfl

/-- A rejected job's completion is due at the next inhale. -/
theorem rejectJob_jobEnds {s : State} {k : Nat} {j : Job} (hj : tblGet s.jobs k = some j) (st : Status) :
    JobEnds s (rejectJob s k st) k j st [] 0 (s.brt.count + 1) :=
  endOffLadder_jobEnds hj st [] 0 (nextInhale s)

theorem noteSlot_frame (s : State) (i h : Nat) (st : Status) :
    ∃ wch clusters, noteSlot s i h st = { s with wch := wch, clusters := clusters } := by
  unfold noteSlot markCorrupt
  split
  · split
    · exact ⟨_, _, rfl⟩
    · split
      · exact ⟨_, _, rfl⟩
      · exact ⟨_, _, rfl⟩
  · exact ⟨_, _, rfl⟩

/-- A rejection that also marks a slot corrupt ends the job in the same way. -/
theorem noteSlot_jobEnds {s : State} {k : Nat} {j : Job} (hj : tblGet s.jobs k = some j) (i h : Nat) (st st' : Status) :
    JobEnds s (rejectJob (noteSlot s i h st') k st) k j st [] 0 (s.brt.count + 1) := by
  obtain ⟨wch, clusters, hnote⟩ := noteSlot_frame s i h st'
  rw [hnote]
  exact rejectJob_jobEnds (s := { s with wch := wch, clusters := clusters }) hj st

/-! #### Pages -/

/-- The state after the pages of a job are found. -/
def admitted (s : State) (k : Nat) (j : Job) (t : State) : State := { t with
  jobs := tblPut t.jobs k j
  plc := { t.plc with pageWait := if s.plc.pageWait = some (jobRing j) then none else s.plc.pageWait } }

theorem admitJob_room {s : State} {k : Nat} {j : Job} (t : State) (h : jobPagesUsed s + j.pages ≤ jobPagesTotal s) :
    admitJob s k j t = admitted s k j t := by
  unfold admitJob
  rw [if_neg (Nat.not_lt.mpr h)]
  rfl

theorem admitJob_full {s : State} {k : Nat} {j : Job} (t : State) (h : jobPagesTotal s < jobPagesUsed s + j.pages) :
    admitJob s k j t = { s with plc := { s.plc with pageWait := some (jobRing j) } } := by
  unfold admitJob
  rw [if_pos h]

theorem admitOn_of {s : State} {j : Job} {x : Inst} {rid p : Nat} {r : RoutineSec} (hx : tblGet s.insts j.inst = some x)
    (hr : routineSec s rid = some r) (hp : poolFor s x rid = some p) : admitOn s j rid = some (onRoutine s j r rid p) := by
  unfold admitOn
  rw [hx, hr]
  dsimp only
  rw [hp]
  rfl

/-! #### PK_JOB -/

/-- What a parse reserves is in the windchest alone. -/
theorem pkReserve_frame (s : State) (j : Job) (claim : Option Bytes) : ∃ wch, pkReserve s j claim = { s with wch := wch } ∧
    (jOutSlot j ≠ 0xFFFF → ∃ y, tblGet wch.slots (slotKey j.inst (jOutSlot j)) = some y ∧ y.reserved = true) := by
  unfold pkReserve
  cases claim <;> dsimp only <;> split
  · next hnone => exact ⟨s.wch, rfl, fun hsome => absurd hnone hsome⟩
  · exact ⟨_, rfl, fun _ => ⟨_, tblGet_put_same _ _ _, rfl⟩⟩
  · next hnone => exact ⟨_, rfl, fun hsome => absurd hnone hsome⟩
  · exact ⟨_, rfl, fun _ => ⟨_, tblGet_put_same _ _ _, rfl⟩⟩

section
variable {s : State} {k op : Nat} {j : Job}

theorem parsePk_ok {keys : PkKeys} {a : Job} (h : Parses s k .pk j) (hop : jOp j = op) (hkeys : pkParse s (durable s) k j = .ok keys)
    (ha : admitOn s j (pkRoutine (jAlg j) op) = some a) :
    parsePk s k op = admitJob s k { a with claim := (claimOf s j keys).isSome } (pkReserve s j (claimOf s j keys)) := by
  unfold parsePk
  rw [parseable_of h]
  dsimp only
  rw [if_neg (not_not_intro hop), hkeys]
  dsimp only
  rw [ha]

theorem parsePk_error {n : Nat} {st : Status} (h : Parses s k .pk j) (hop : jOp j = op) (herr : pkParse s (durable s) k j = .error (n, st)) :
    parsePk s k op = rejectJob (noteSlot s j.inst n st) k st := by
  unfold parsePk
  rw [parseable_of h]
  dsimp only
  rw [if_neg (not_not_intro hop), herr]

theorem parsePk_admits {keys : PkKeys} {x : Inst} {r : RoutineSec} {p : Nat} (h : Parses s k .pk j) (hop : jOp j = op)
    (hkeys : pkParse s (durable s) k j = .ok keys) (hx : tblGet s.insts j.inst = some x) (hr : routineSec s (pkRoutine (jAlg j) op) = some r)
    (hp : poolFor s x (pkRoutine (jAlg j) op) = some p) (hroom : jobPagesUsed s + r.jobPages ≤ jobPagesTotal s) :
    let t := parsePk s k op
    tblGet t.jobs k = some { onRoutine s j r (pkRoutine (jAlg j) op) p with claim := (claimOf s j keys).isSome } ∧
      (∀ i, i ≠ k → tblGet t.jobs i = tblGet s.jobs i) ∧
      (jOutSlot j ≠ 0xFFFF → ∃ y, slotAt t j.inst (jOutSlot j) = some y ∧ y.reserved = true) ∧
      t.plc = { s.plc with pageWait := if s.plc.pageWait = some (jobRing j) then none else s.plc.pageWait } ∧
      { t with jobs := s.jobs, wch := s.wch, plc := s.plc } = s := by
  obtain ⟨wch, hreserve, hslot⟩ := pkReserve_frame s j (claimOf s j keys)
  intro t
  have hstep : t = admitted s k { onRoutine s j r (pkRoutine (jAlg j) op) p with claim := (claimOf s j keys).isSome } { s with wch := wch } := by
    rw [← hreserve]
    exact (parsePk_ok h hop hkeys (admitOn_of hx hr hp)).trans (admitJob_room _ hroom)
  rw [hstep]
  exact ⟨tblGet_put_same _ _ _, fun i hi => tblGet_put_other _ _ _ _ hi, hslot, rfl, rfl⟩

theorem parsePk_waits {keys : PkKeys} {x : Inst} {r : RoutineSec} {p : Nat} (h : Parses s k .pk j) (hop : jOp j = op)
    (hkeys : pkParse s (durable s) k j = .ok keys) (hx : tblGet s.insts j.inst = some x) (hr : routineSec s (pkRoutine (jAlg j) op) = some r)
    (hp : poolFor s x (pkRoutine (jAlg j) op) = some p) (hfull : jobPagesTotal s < jobPagesUsed s + r.jobPages) :
    parsePk s k op = { s with plc := { s.plc with pageWait := some (jobRing j) } } :=
  (parsePk_ok h hop hkeys (admitOn_of hx hr hp)).trans (admitJob_full _ hfull)

theorem parsePk_rejects {n : Nat} {st : Status} (h : Parses s k .pk j) (hop : jOp j = op) (herr : pkParse s (durable s) k j = .error (n, st)) :
    JobEnds s (parsePk s k op) k j st [] 0 (s.brt.count + 1) := by
  rw [parsePk_error h hop herr]
  obtain ⟨-, -, hj, -⟩ := h
  exact noteSlot_jobEnds hj _ _ _ _

/-- Each row of a PK_JOB is its parse under the row's operation. -/
theorem exec_pkRow (s : State) (k : Nat) {e : Nat × (Nat → Instr)} (he : e ∈ pkRows) : exec (e.2 k) s = whenRunning s (parsePk s k e.1) := by
  simp only [pkRows, List.mem_cons, List.not_mem_nil, or_false] at he
  rcases he with rfl | rfl | rfl | rfl | rfl | rfl | rfl | rfl <;> rfl

/-! #### ROUTINE_JOB -/

/-- A slot that R329's checks pass, or none, names the key of a routine job. -/
theorem pkSlot_sound (hslot : jSlot j = 0xFFFF ∨ ∃ y, checkSlotAs s j.inst (jSlot j) (some k) = .ok y) :
    ∃ x, pkSlot s k j.inst (jSlot j) = .ok x ∧ pkSound s x = true := by
  unfold pkSlot
  by_cases hnone : jSlot j = noSlot
  · exact ⟨none, if_pos hnone, rfl⟩
  · obtain ⟨y, hy⟩ := hslot.resolve_left hnone
    rw [if_neg hnone]
    unfold checkSlotAs at hy
    cases hnamed : slotNamed s j.inst (jSlot j) (some k) with
    | error st => rw [hnamed] at hy; cases hy
    | ok x =>
      refine ⟨some x, rfl, ?_⟩
      rw [hnamed] at hy
      by_cases hbad : slotBad s x = true
      · have herr : slotSound s x = .ok y := hy
        unfold slotSound at herr
        rw [hbad, if_pos rfl] at herr
        cases herr
      · unfold pkSound
        rw [Option.any_some, eq_false_of_ne_true hbad]
        rfl

theorem parseRoutine_admits {r : RoutineSec} {p : Nat} (h : Parses s k .routine j) (hr : routineSec s (jAlg j) = some r)
    (hid : 0x8000 ≤ jAlg j) (hin : jByteLen j ≤ r.maxInput) (hout : r.minOut ≤ jOutLen j)
    (hslot : jSlot j = 0xFFFF ∨ ∃ y, checkSlotAs s j.inst (jSlot j) (some k) = .ok y) (ha : admitOn s j r.rid = some (onRoutine s j r r.rid p))
    (hroom : jobPagesUsed s + r.jobPages ≤ jobPagesTotal s) : parseRoutine s k = admitted s k (onRoutine s j r r.rid p) s := by
  obtain ⟨y, hpk, hsound⟩ := pkSlot_sound hslot
  have hrange : ¬ (decide (jAlg j < 0x8000) || decide (r.maxInput < jByteLen j) || decide (jOutLen j < r.minOut)) = true := by
    simp only [Bool.or_eq_true, decide_eq_true_eq]
    omega
  unfold parseRoutine
  rw [parseable_of h]
  dsimp only
  rw [hr]
  dsimp only
  rw [if_neg hrange, hpk]
  dsimp only
  rw [hsound, if_neg (by decide), ha]
  exact admitJob_room s hroom

theorem parseRoutine_rejects {r : RoutineSec} (h : Parses s k .routine j) (hr : routineSec s (jAlg j) = some r)
    (hrange : jAlg j < 0x8000 ∨ r.maxInput < jByteLen j ∨ jOutLen j < r.minOut) : parseRoutine s k = rejectJob s k .inputInvalid := by
  unfold parseRoutine
  rw [parseable_of h]
  dsimp only
  rw [hr]
  dsimp only
  refine if_pos ?_
  simp only [Bool.or_eq_true, decide_eq_true_eq]
  omega

end

theorem routineSec_id {s : State} {rid : Nat} {r : RoutineSec} (h : routineSec s rid = some r) : r.rid = rid := by
  unfold routineSec at h
  obtain ⟨ch, -, hfind⟩ := Option.bind_eq_some_iff.mp h
  exact of_decide_eq_true (List.find?_some hfind :)

/-- Settles O44: a parse that passes its checks admits the job on its routine where pages are left, and holds fetch where none are; one that fails
a check rejects it. -/
theorem jobParse : Obligations.JobParse := by
  unfold Obligations.JobParse
  intro s k j
  refine ⟨fun e he h hop => ⟨fun keys x r p hkeys hx hr hp => ⟨fun hroom => ?_, fun hfull => ?_⟩, fun n st herr => ?_⟩,
    fun h r hr => ⟨fun hid hin hout hslot x p hx hp hroom => ?_, fun hrange => ?_⟩⟩
  · exact does_whenRunning (exec_pkRow s k he) h.1 (parsePk_admits h hop hkeys hx hr hp hroom)
  · rw [exec_pkRow s k he, whenRunning_of _ _ h.1, parsePk_waits h hop hkeys hx hr hp hfull]
  · exact does_whenRunning (exec_pkRow s k he) h.1 (parsePk_rejects h hop herr)
  · have hexec : exec (.routineJob k) s = whenRunning s (parseRoutine s k) := rfl
    have hid' : routineSec s r.rid = some r := (routineSec_id hr).symm ▸ hr
    refine does_whenRunning hexec h.1 ?_
    rw [parseRoutine_admits h hr hid hin hout hslot (admitOn_of hx hid' hp) hroom]
    exact ⟨tblGet_put_same _ _ _, fun i hi => tblGet_put_other _ _ _ _ hi, rfl⟩
  · have hexec : exec (.routineJob k) s = whenRunning s (parseRoutine s k) := rfl
    refine does_whenRunning hexec h.1 ?_
    rw [parseRoutine_rejects h hr hrange]
    obtain ⟨-, -, hj, -⟩ := h
    exact rejectJob_jobEnds hj _

end Sys2Proof.ParseRows


/-! ### RANDOM jobs and CANCEL (R74, R356, R357) -/

namespace Sys2Proof.RandomRows

open Sys2Proof Sys2Proof.Machine Sys2Proof.Safety Sys2Proof.Rows Sys2Proof.Laws Sys2Proof.StateFacts Sys2Proof.RingWrites Sys2Proof.LadderRows
open Sys2Proof.DmaRows Sys2Proof.ParseRows Sys2Proof.KeyRows

/-! #### What the end of a job leaves -/

theorem dropClaim_slots (s : State) (j : Job) : (dropClaim s j).wch.slots = s.wch.slots := by
  unfold dropClaim
  split
  · rfl
  · split <;> rfl

/-- Only a slot that is reserved goes with its job. -/
theorem unreserveSlot_kept {s : State} {key : Nat} {y : Slot} (i h : Nat) (hy : tblGet s.wch.slots key = some y) (hres : y.reserved = false) :
    tblGet (unreserveSlot s i h).wch.slots key = some y := by
  unfold unreserveSlot
  split
  · next x hx =>
    split
    · next hreserved =>
      have hkey : key ≠ slotKey i h := by
        rintro rfl
        rw [slotAt, hy] at hx
        cases hx
        exact Bool.false_ne_true (hres.symm.trans hreserved)
      exact (tblGet_del_other _ _ _ hkey).trans hy
    · exact hy
  · exact hy

/-- What of the random source and of the slots the end of a job leaves. -/
structure EndLeaves (s t : State) : Prop where
  calls : t.rng.calls = s.rng.calls
  notReady : t.rng.notReady = s.rng.notReady
  free : t.free = s.free
  slots : ∀ key y, tblGet s.wch.slots key = some y → y.reserved = false → tblGet t.wch.slots key = some y

theorem dropJob_leaves (s : State) (k : Nat) : EndLeaves s (dropJob s k) := by
  unfold dropJob
  split
  · exact ⟨rfl, rfl, rfl, fun _ _ hy _ => hy⟩
  · next j hj =>
    have hslots (key : Nat) (y : Slot) (hy : tblGet s.wch.slots key = some y) : tblGet (dropClaim s j).wch.slots key = some y := by
      rw [dropClaim_slots]
      exact hy
    obtain ⟨wch, hclaim⟩ := dropClaim_frame s j
    rw [hclaim] at hslots ⊢
    dsimp only
    split
    · split
      · next h _ _ =>
        have hkept {key : Nat} {y : Slot} := unreserveSlot_kept (s := { s with wch := wch }) (key := key) (y := y) j.inst h
        obtain ⟨wch', hunreserve⟩ := unreserveSlot_frame { s with wch := wch } j.inst h
        rw [hunreserve] at hkept ⊢
        exact ⟨rfl, rfl, rfl, fun key y hy hres => hkept (hslots key y hy) hres⟩
      · exact ⟨rfl, rfl, rfl, fun key y hy _ => hslots key y hy⟩
    · exact ⟨rfl, rfl, rfl, fun key y hy _ => hslots key y hy⟩

theorem endOffLadder_leaves (s : State) (k : Nat) (st : Status) (out : Bytes) (info due : Nat) : EndLeaves s (endOffLadder s k st out info due) := by
  have hdrop := dropJob_leaves s k
  unfold endOffLadder
  split
  · exact ⟨rfl, rfl, rfl, fun _ _ hy _ => hy⟩
  · dsimp only
    split
    · obtain ⟨hcalls, hnot, hfree, hslots⟩ := hdrop
      exact ⟨hcalls, hnot, hfree, hslots⟩
    · exact hdrop

/-! #### The parse of a RANDOM job -/

theorem mirror_twin (s : State) (kind : Nat) (body : Bytes) : ∃ twn, mirror s kind body = { s with twn := twn } := by
  unfold mirror
  split
  · exact ⟨_, rfl⟩
  · exact ⟨s.twn, rfl⟩

/-- A job parsed, which waits for its generate call. -/
def awaitsDraw (s : State) (j : Job) : Job := { j with stage := .pending, due := nextInhale s }

theorem modJob_at {s : State} {k : Nat} {j : Job} (hj : tblGet s.jobs k = some j) (f : Job → Job) :
    tblGet (modJob s k f).jobs k = some (f j) ∧ ∀ i, i ≠ k → tblGet (modJob s k f).jobs i = tblGet s.jobs i := by
  refine ⟨?_, fun i hi => tblGet_mod_other _ _ _ _ hi⟩
  have hget := tblGet_mod_same s.jobs k f
  rw [hj] at hget
  exact hget

/-- A state after a parse, which changed the jobs and the slots. -/
def parsed (s : State) (jobs : Tbl Job) (slots : Tbl Slot) : State := { s with jobs := jobs, wch := { s.wch with slots := slots } }

/-- A good parse changes the job and, where the key has an OUT_SLOT, the slots. -/
theorem rndParse_good {s : State} {k : Nat} {j : Job} (hj : tblGet s.jobs k = some j) : ∃ jobs slots,
    rndParse s k j none = parsed s jobs slots ∧ tblGet jobs k = some (awaitsDraw s j) ∧
      ∀ i, i ≠ k → tblGet jobs i = tblGet s.jobs i := by
  have hmod := modJob_at hj (fun x => { x with stage := .pending, due := nextInhale s })
  unfold rndParse
  dsimp only
  split
  · exact ⟨_, s.wch.slots, rfl, hmod⟩
  · exact ⟨_, _, rfl, hmod⟩

section
variable {s : State} {k : Nat} {j : Job}

theorem randomBytes_parses (h : Parses s k .random j) (halg : jAlg j = 0) :
    exec (.randomBytes k) s = whenRunning s (rndGo (rndParse s k j (rndBytesCheck j)) k) := by
  have hexec : exec (.randomBytes k) s = whenRunning s (randomBytes s k) := rfl
  rw [hexec]
  have hparse := parseable_of h
  obtain ⟨-, -, hj, -, hkind, -⟩ := h
  unfold randomBytes
  rw [hj]
  dsimp only
  rw [hkind, halg, if_neg (by decide), hparse]

theorem randomKeygen_parses (h : Parses s k .random j) (halg : jAlg j ≠ 0) :
    exec (.randomKeygen k) s = whenRunning s (rndGo (rndParse s k j (rndKeyCheck s j)) k) := by
  have hexec : exec (.randomKeygen k) s = whenRunning s (randomKeygen s k) := rfl
  rw [hexec]
  have hparse := parseable_of h
  obtain ⟨-, -, hj, -, hkind, -⟩ := h
  have hguard : ¬ (decide (j.kind ≠ JobKind.random) || decide (jAlg j = 0)) = true := by
    rw [hkind, decide_eq_false halg]
    decide
  unfold randomKeygen
  rw [hj]
  dsimp only
  rw [if_neg hguard, hparse]

/-- After its parse a job goes on to its generate call. -/
theorem rndGo_parsed {t : State} {a : Job} (ha : tblGet t.jobs k = some a) (hstage : a.stage = .pending) (hkind : a.kind = .random) :
    rndGo t k = if rndMayDraw t k a then rndDraw t k a else rndAsk t k a := by
  unfold rndGo
  rw [ha]
  dsimp only
  rw [hstage, hkind, if_neg (by decide)]

/-- The parse does not change whether the generate call may begin. -/
theorem rndMayDraw_parsed (jobs : Tbl Job) (slots : Tbl Slot) (s : State) (k : Nat) (j : Job) :
    rndMayDraw (parsed s jobs slots) k (awaitsDraw s j) = rndMayDraw s k j := rfl

/-- A parsed job that may draw does. -/
theorem rndGo_draws {jobs : Tbl Job} {slots : Tbl Slot} (ha : tblGet jobs k = some (awaitsDraw s j)) (hkind : j.kind = .random)
    (hmay : rndMayDraw s k j = true) : rndGo (parsed s jobs slots) k = rndDraw (parsed s jobs slots) k (awaitsDraw s j) := by
  rw [rndGo_parsed (t := parsed s jobs slots) ha rfl hkind, rndMayDraw_parsed, hmay, if_pos rfl]

theorem rndAsk_frame (s : State) (k : Nat) (j : Job) : ∃ rng, rndAsk s k j = { s with rng := rng } := by
  unfold rndAsk
  split
  · exact ⟨_, rfl⟩
  · exact ⟨s.rng, rfl⟩

/-- A job that may not draw yet waits, and asks for its reseed. -/
theorem rndGo_waits {jobs : Tbl Job} {slots : Tbl Slot} (ha : tblGet jobs k = some (awaitsDraw s j)) (hkind : j.kind = .random)
    (hmay : rndMayDraw s k j = false) : ∃ rng, rndGo (parsed s jobs slots) k = { parsed s jobs slots with rng := rng } := by
  obtain ⟨rng, hask⟩ := rndAsk_frame (parsed s jobs slots) k (awaitsDraw s j)
  refine ⟨rng, ?_⟩
  rw [rndGo_parsed (t := parsed s jobs slots) ha rfl hkind, rndMayDraw_parsed, hmay, if_neg Bool.false_ne_true, hask]

/-! #### The generate call -/

/-- The state after one generate call of DRBG instance 15. -/
def drawn (s : State) : State := { drbgCount s 15 with free := s.free + 1 }

theorem drbgDraw_eq (s : State) (n : Nat) : drbgDraw s 15 n = (bvBytes n (Config.freeWord (8 * n) s.free), drawn s) := rfl

theorem drawn_calls (s : State) : drbgCalls (drawn s) 15 = drbgCalls s 15 + (if 15 < s.rng.calls.length then 1 else 0) :=
  PortRows.drbgCalls_count s 15

/-- RANDOM_BYTES draws and ends. -/
theorem rndDraw_bytes {t : State} {a : Job} (halg : jAlg a = 0) : rndDraw t k a =
    endOffLadder (drawn t) k .ok (bvBytes (rndCount a) (Config.freeWord (8 * rndCount a) t.free)) 0 (nextInhale t) := by
  have hlen : rndKeyLen (jAlg a) = none := by rw [halg]; decide
  unfold rndDraw
  rw [hlen]
  dsimp only
  rw [drbgDraw_eq]

/-- A fresh key is wrapped under the domain's newest key. -/
theorem domainBlob_congr {s t : State} (h : t.dom = s.dom) (alg usage policy kind owner : Nat) (key : Bytes) :
    domainBlob t (newBlobHdr t alg usage policy kind owner key) key = domainBlob s (newBlobHdr s alg usage policy kind owner key) key := by
  unfold domainBlob newBlobHdr newestGen
  rw [h]

theorem filled_congr {s t : State} (h : t.wch.slotMac = s.wch.slotMac) {y : Slot} {i alg usage policy kind : Nat} {key : Bytes}
    (hy : Filled t y i alg usage policy kind key) : Filled s y i alg usage policy kind key := by
  obtain ⟨hfields, hstate, hshort, hlong, htag⟩ := hy
  refine ⟨hfields, hstate, hshort, hlong, htag.trans ?_⟩
  unfold slotTag
  rw [h]

/-- RANDOM_KEYGEN draws the key, wraps it, fills its OUT_SLOT, and ends. -/
theorem rndDraw_key {t : State} {a : Job} {n : Nat} (hlen : rndKeyLen (jAlg a) = some n) :
    let key := bvBytes n (Config.freeWord (8 * n) t.free)
    ∃ wch twn, rndDraw t k a = endOffLadder { drawn t with wch := wch, twn := twn } k .ok
        (domainBlob (drawn t) (newBlobHdr (drawn t) (jAlg a) (jNewUsage a) (jNewPolicy a) 0 a.inst key) key) 0 (nextInhale t) ∧
      (jOutSlot a ≠ 0xFFFF → ∃ y, tblGet wch.slots (slotKey a.inst (jOutSlot a)) = some y ∧
        Filled (drawn t) y a.inst (jAlg a) (jNewUsage a) (jNewPolicy a) 0 key) := by
  intro key
  obtain ⟨wch, hfill, ⟨y, hy, hfilled⟩, -⟩ := fillSlot_filled (drawn t) a.inst (jOutSlot a) (jAlg a) (jNewUsage a) (jNewPolicy a) 0 key
  unfold rndDraw
  rw [hlen]
  dsimp only
  rw [drbgDraw_eq]
  dsimp only
  by_cases hnone : jOutSlot a = noSlot
  · rw [if_pos hnone]
    refine ⟨(drawn t).wch, (drawn t).twn, ?_, fun hsome => absurd hnone hsome⟩
    split
    · rw [if_pos hnone]
    · rfl
  · rw [if_neg hnone, hfill]
    have hslot : slotAt { drawn t with wch := wch } a.inst (jOutSlot a) = some y := hy
    rw [hslot]
    dsimp only
    rw [if_neg hnone]
    obtain ⟨twn, hmirror⟩ := mirror_twin { drawn t with wch := wch } recSlot (slotBody { drawn t with wch := wch } a.inst (jOutSlot a) y)
    rw [hmirror]
    exact ⟨wch, twn, rfl, fun _ => ⟨y, hy, hfilled⟩⟩

/-- A job that ends after its parse ends as it was submitted. -/
theorem jobEnds_parsed {t u : State} {st : Status} {out : Bytes} {info due : Nat} (h : JobEnds t u k (awaitsDraw s j) st out info due)
    (hjobs : ∀ i, i ≠ k → tblGet t.jobs i = tblGet s.jobs i) (hwaiting : t.waiting = s.waiting) : JobEnds s u k j st out info due := by
  obtain ⟨hgone, hothers, hcompl⟩ := h
  refine ⟨hgone, fun i hi => (hothers i hi).trans (hjobs i hi), fun hhost => ?_⟩
  rw [hcompl hhost, hwaiting]
  rfl

theorem randomBytes_draws (hj : tblGet s.jobs k = some j) (hkind : j.kind = .random) (halg : jAlg j = 0) (hmay : rndMayDraw s k j = true) :
    let t := rndGo (rndParse s k j none) k
    JobEnds s t k j .ok (bvBytes (rndCount j) (Config.freeWord (8 * rndCount j) s.free)) 0 (s.brt.count + 1) ∧
      drbgCalls t 15 = drbgCalls s 15 + (if 15 < s.rng.calls.length then 1 else 0) ∧ t.free = s.free + 1 := by
  obtain ⟨jobs, slots, hparse, ha, hothers⟩ := rndParse_good hj
  intro t
  have hstep : t = endOffLadder (drawn (parsed s jobs slots)) k .ok
      (bvBytes (rndCount j) (Config.freeWord (8 * rndCount j) s.free)) 0 (s.brt.count + 1) := by
    show rndGo (rndParse s k j none) k = _
    rw [hparse, rndGo_draws ha hkind hmay]
    exact rndDraw_bytes (t := parsed s jobs slots) (a := awaitsDraw s j) halg
  obtain ⟨hcalls, -, hfree, -⟩ := endOffLadder_leaves (drawn (parsed s jobs slots)) k .ok
    (bvBytes (rndCount j) (Config.freeWord (8 * rndCount j) s.free)) 0 (s.brt.count + 1)
  rw [hstep]
  refine ⟨jobEnds_parsed (endOffLadder_jobEnds ha _ _ _ _) hothers rfl, ?_, hfree⟩
  unfold drbgCalls
  rw [hcalls]
  exact drawn_calls s

theorem randomKeygen_draws (hj : tblGet s.jobs k = some j) (hkind : j.kind = .random) {n : Nat} (hlen : rndKeyLen (jAlg j) = some n)
    (hmay : rndMayDraw s k j = true) : let key := bvBytes n (Config.freeWord (8 * n) s.free)
    let t := rndGo (rndParse s k j none) k
    JobEnds s t k j .ok (domainBlob s (newBlobHdr s (jAlg j) (jNewUsage j) (jNewPolicy j) 0 j.inst key) key) 0 (s.brt.count + 1) ∧
      (jOutSlot j ≠ 0xFFFF → ∃ y, slotAt t j.inst (jOutSlot j) = some y ∧ Filled s y j.inst (jAlg j) (jNewUsage j) (jNewPolicy j) 0 key) := by
  obtain ⟨jobs, slots, hparse, ha, hothers⟩ := rndParse_good hj
  intro key t
  obtain ⟨wch, twn, hdraw, hslot⟩ := rndDraw_key (k := k) (t := parsed s jobs slots) (a := awaitsDraw s j) hlen
  have hstep : t = _ := (congrArg (rndGo · k) hparse).trans ((rndGo_draws ha hkind hmay).trans hdraw)
  rw [hstep, domainBlob_congr (s := s) (t := drawn (parsed s jobs slots)) rfl]
  refine ⟨jobEnds_parsed (endOffLadder_jobEnds ha _ _ _ _) hothers rfl, fun hsome => ?_⟩
  obtain ⟨y, hy, hfilled⟩ := hslot hsome
  exact ⟨y, (endOffLadder_leaves _ _ _ _ _ _).slots _ y hy hfilled.state.2.1,
    (filled_congr (s := s) (t := drawn (parsed s jobs slots)) rfl hfilled :)⟩

theorem randomBytes_waits (hj : tblGet s.jobs k = some j) (hkind : j.kind = .random) (hmay : rndMayDraw s k j = false) :
    let t := rndGo (rndParse s k j none) k
    tblGet t.jobs k = some { j with stage := .pending, due := s.brt.count + 1 } ∧ (∀ i, i ≠ k → tblGet t.jobs i = tblGet s.jobs i) ∧
      t.waiting = s.waiting ∧ t.free = s.free := by
  obtain ⟨jobs, slots, hparse, ha, hothers⟩ := rndParse_good hj
  obtain ⟨rng, hwait⟩ := rndGo_waits (slots := slots) ha hkind hmay
  intro t
  have hstep : t = _ := (congrArg (rndGo · k) hparse).trans hwait
  rw [hstep]
  exact ⟨ha, hothers, rfl, rfl⟩

/-- A parse that fails rejects the job, which then has no generate call. -/
theorem rndParse_bad (hj : tblGet s.jobs k = some j) (st : Status) :
    JobEnds s (rndGo (rndParse s k j (some st)) k) k j st [] 0 (s.brt.count + 1) := by
  have hends := rejectJob_jobEnds hj st
  have hgone : tblGet (rejectJob s k st).jobs k = none := hends.1
  have hparse : rndParse s k j (some st) = rejectJob s k st := rfl
  unfold rndGo
  rw [hparse, hgone]
  exact hends

theorem randomTimeout_ends (hj : tblGet s.jobs k = some j) (hkind : j.kind = .random) (hstage : j.stage = .pending) (hex : s.brt.exhale = false)
    (hstands : Standing s j) (hhalt : haltHolds s = false) (hdue : j.due + 2 ^ rndWait j ≤ s.brt.count) :
    JobEnds s (randomTimeout s k) k j .rngNotReady [] 0 s.brt.count ∧ (randomTimeout s k).rng.notReady = min (s.rng.notReady + 1) 65535 := by
  have hstep : randomTimeout s k =
      endOffLadder (modRng s (fun r => { r with notReady := sat 16 (r.notReady + 1) })) k .rngNotReady [] 0 s.brt.count := by
    unfold randomTimeout
    rw [hj]
    dsimp only
    rw [hkind, hstage, hex, notResetting_of hstands, hhalt, decide_eq_true hdue]
    rfl
  have hsat : sat 16 (s.rng.notReady + 1) = min (s.rng.notReady + 1) 65535 := by
    unfold sat
    split <;> omega
  rw [hstep]
  exact ⟨endOffLadder_jobEnds (s := modRng s (fun r => { r with notReady := sat 16 (r.notReady + 1) })) hj _ _ _ _,
    (endOffLadder_leaves _ _ _ _ _ _).notReady.trans hsat⟩

/-! #### CANCEL -/

/-- A target is another job of the table, of a host. -/
theorem cancelTarget_of {i : Nat} {x : Job} (h : cancelTarget s k j = some (i, x)) : i ≠ k ∧ x.internal = none := by
  have hfound := List.find?_some h
  simp only [Bool.and_eq_true, decide_eq_true_eq, hostJob, Option.isNone_iff_eq_none] at hfound
  obtain ⟨⟨⟨⟨⟨⟨hne, hhost⟩, -⟩, -⟩, -⟩, -⟩, -⟩ := hfound
  exact ⟨hne, hhost⟩

theorem cancelJob_none (h : Parses s k .cancel j) (hex : s.brt.exhale = false) (hnone : cancelTarget s k j = none) :
    cancelJob s k = rejectJob s k .inputInvalid := by
  unfold cancelJob
  rw [hex, if_neg Bool.false_ne_true, parseable_of h]
  dsimp only
  rw [hnone]

section
variable {i : Nat} {x : Job}

theorem cancelJob_random (h : Parses s k .cancel j) (hex : s.brt.exhale = false) (htarget : cancelTarget s k j = some (i, x)) (hkind : x.kind = .random) :
    cancelJob s k = endOffLadder (endOffLadder s i .aborted [] 0 (nextInhale s)) k .ok [] 0 (nextInhale s) := by
  unfold cancelJob
  rw [hex, if_neg Bool.false_ne_true, parseable_of h]
  dsimp only
  rw [htarget]
  dsimp only
  rw [if_pos hkind]

theorem cancelJob_aborts (h : Parses s k .cancel j) (hex : s.brt.exhale = false) (htarget : cancelTarget s k j = some (i, x)) (hkind : x.kind ≠ .random)
    (hstage : x.stage ≠ .aborting) : cancelJob s k = awaitTarget (markAbort s i .aborted) k i := by
  unfold cancelJob
  rw [hex, if_neg Bool.false_ne_true, parseable_of h]
  dsimp only
  rw [htarget]
  dsimp only
  rw [if_neg hkind, if_neg hstage]

/-- A RANDOM job and its CANCEL end together. -/
theorem cancel_random (hj : tblGet s.jobs k = some j) (hx : tblGet s.jobs i = some x) (hne : i ≠ k) (hhost : x.internal = none) :
    let t := endOffLadder (endOffLadder s i .aborted [] 0 (nextInhale s)) k .ok [] 0 (nextInhale s)
    tblGet t.jobs i = none ∧ tblGet t.jobs k = none ∧ (j.internal = none → ∃ a b, t.waiting = s.waiting ++ [a, b] ∧ a.c.tag = x.tag ∧
      a.c.status = .aborted ∧ a.c.out = [] ∧ b.c.tag = j.tag ∧ b.c.status = .ok ∧ b.c.out = [] ∧ a.due = s.brt.count + 1 ∧ b.due = s.brt.count + 1) := by
  obtain ⟨wch, clusters, rng, htarget⟩ := endOffLadder_frame .aborted [] 0 (nextInhale s) hx
  obtain ⟨hgone, hothers, hcompl⟩ := endOffLadder_jobEnds hx .aborted [] 0 (nextInhale s)
  have hk : tblGet (endOffLadder s i .aborted [] 0 (nextInhale s)).jobs k = some j := (hothers k hne.symm).trans hj
  obtain ⟨hgone', hothers', hcompl'⟩ := endOffLadder_jobEnds hk .ok [] 0 (nextInhale s)
  refine ⟨(hothers' i hne).trans hgone, hgone', fun hown => ⟨⟨jobCompl x .aborted [] 0, 2, 0, nextInhale s⟩,
    ⟨jobCompl j .ok [] 0, 2, 0, nextInhale s⟩, ?_, rfl, rfl, rfl, rfl, rfl, rfl, rfl, rfl⟩⟩
  rw [hcompl' hown, hcompl hhost, List.append_assoc]
  rfl

/-- Any other target is aborted, and the CANCEL waits for it. -/
theorem cancel_aborts (hj : tblGet s.jobs k = some j) (hx : tblGet s.jobs i = some x) (hne : i ≠ k) (hex : s.brt.exhale = false) :
    let t := awaitTarget (markAbort s i .aborted) k i
    tblGet t.jobs i = some { x with stage := .aborting, abort := some .aborted, due := s.brt.count } ∧
      tblGet t.jobs k = some { j with stage := .running, rid := i } ∧ (∀ m, m ≠ i → m ≠ k → tblGet t.jobs m = tblGet s.jobs m) ∧
      { t with jobs := s.jobs } = s := by
  have hmark := modJob_at hx (fun y => { y with stage := .aborting, abort := some .aborted, due := requestBreath s })
  have hk : tblGet (markAbort s i .aborted).jobs k = some j := (hmark.2 k hne.symm).trans hj
  have hawait := modJob_at hk (fun y => { y with stage := .running, rid := i })
  have hdue : requestBreath s = s.brt.count := by
    unfold requestBreath
    rw [hex, if_neg Bool.false_ne_true]
  have hmarked : tblGet (markAbort s i .aborted).jobs i = some { x with stage := .aborting, abort := some .aborted, due := s.brt.count } := by
    rw [markAbort, hmark.1, hdue]
  exact ⟨(hawait.2 i hne).trans hmarked, hawait.1, fun m hi hk => (hawait.2 m hk).trans (hmark.2 m hi), rfl⟩

end

end

/-- Settles O45: a RANDOM job draws where instance 15 delivers and waits where it does not, and CANCEL ends or aborts its target. -/
theorem randomAndCancel : Obligations.RandomAndCancel := by
  unfold Obligations.RandomAndCancel
  intro s k j
  refine ⟨fun h halg hcheck => ⟨fun hmay => ?_, fun hmay => ?_⟩, fun h halg st hcheck => ?_, fun h halg hcheck n hlen hmay => ?_,
    fun hrun hj hkind hstage hex hstands hhalt hdue => ?_, fun h hex => ⟨fun i x htarget hx => ⟨fun hkind => ?_, fun hkind hstage => ?_⟩, fun hnone => ?_⟩⟩
  · refine does_whenRunning (randomBytes_parses h halg) h.1 ?_
    obtain ⟨-, -, hj, -, hkind, -⟩ := h
    rw [hcheck]
    exact randomBytes_draws hj hkind halg hmay
  · refine does_whenRunning (randomBytes_parses h halg) h.1 ?_
    obtain ⟨-, -, hj, -, hkind, -⟩ := h
    rw [hcheck]
    exact randomBytes_waits hj hkind hmay
  · refine does_whenRunning (randomBytes_parses h halg) h.1 ?_
    obtain ⟨-, -, hj, -⟩ := h
    rw [hcheck]
    exact rndParse_bad hj st
  · refine does_whenRunning (randomKeygen_parses h halg) h.1 ?_
    obtain ⟨-, -, hj, -, hkind, -⟩ := h
    rw [hcheck]
    exact randomKeygen_draws hj hkind hlen hmay
  · have hexec : exec (.randomWaitTimeout k) s = whenRunning s (randomTimeout s k) := rfl
    exact does_whenRunning hexec hrun (randomTimeout_ends hj hkind hstage hex hstands hhalt hdue)
  · have hexec : exec (.cancel k) s = whenRunning s (cancelJob s k) := rfl
    obtain ⟨hne, hhost⟩ := cancelTarget_of htarget
    refine does_whenRunning hexec h.1 ?_
    rw [cancelJob_random h hex htarget hkind]
    obtain ⟨-, -, hj, -⟩ := h
    exact cancel_random hj hx hne hhost
  · have hexec : exec (.cancel k) s = whenRunning s (cancelJob s k) := rfl
    obtain ⟨hne, -⟩ := cancelTarget_of htarget
    refine does_whenRunning hexec h.1 ?_
    rw [cancelJob_aborts h hex htarget hkind hstage]
    obtain ⟨-, -, hj, -⟩ := h
    exact cancel_aborts hj hx hne hex
  · have hexec : exec (.cancel k) s = whenRunning s (cancelJob s k) := rfl
    refine does_whenRunning hexec h.1 ?_
    rw [cancelJob_none h hex hnone]
    obtain ⟨-, -, hj, -⟩ := h
    exact rejectJob_jobEnds hj _

end Sys2Proof.RandomRows


/-! ### Cipher jobs (R272 to R276, R281) -/

namespace Sys2Proof.CipherRows

open Sys2Proof Sys2Proof.Machine Sys2Proof.Safety Sys2Proof.Rows Sys2Proof.Laws Sys2Proof.StateFacts Sys2Proof.RingWrites Sys2Proof.LadderRows
open Sys2Proof.DmaRows Sys2Proof.ParseRows Sys2Proof.RandomRows

/-! #### The parse -/

/-- The end of a job leaves the bore. -/
theorem endOffLadder_bore (s : State) (k : Nat) (st : Status) (out : Bytes) (info due : Nat) : (endOffLadder s k st out info due).bore = s.bore := by
  cases hj : tblGet s.jobs k with
  | none => unfold endOffLadder; rw [hj]
  | some j =>
    obtain ⟨wch, clusters, rng, hend⟩ := endOffLadder_frame st out info due hj
    rw [hend]

theorem touchStream_bore (s : State) (j : Job) : ∃ bore, touchStream s j = { s with bore := bore } ∧ bore.contexts = s.bore.contexts := by
  unfold touchStream
  split
  · exact ⟨s.bore, rfl, rfl⟩
  · exact ⟨_, rfl, rfl⟩

theorem tellLost_bore (s : State) (j : Job) (st : Status) : ∃ f, tellLost s j st = modBore s f := by
  unfold tellLost
  split
  · exact ⟨_, rfl⟩
  · exact ⟨id, rfl⟩

section
variable {s : State} {k : Nat} {j : Job}

/-- The encrypting and the decrypting row are one parse, by the job's operation. -/
theorem exec_cipherRow {e : Nat × Instr} (he : e ∈ [(0, Instr.cipherEncrypt k), (1, .cipherDecrypt k)]) :
    exec e.2 s = whenRunning s (parseCipher s k e.1) := by
  simp only [List.mem_cons, List.not_mem_nil, or_false] at he
  rcases he with rfl | rfl <;> rfl

/-- A job whose turn in its context has come is parsed. -/
theorem cipherGuard {op : Nat} (hop : jOp j = op) (hdiscard : jDiscard j = false) (hturn : contextTurn s k j = true) :
    ¬ (decide (jOp j ≠ op) || jDiscard j || !contextTurn s k j) = true := by
  rw [decide_eq_false (not_not_intro hop), hdiscard, hturn]
  decide

theorem parseCipher_ok {op h : Nat} (hp : Parses s k .cipher j) (hop : jOp j = op) (hdiscard : jDiscard j = false) (hturn : contextTurn s k j = true)
    (hcheck : cipherCheck s k j = .ok h) : parseCipher s k op = cipherAdmit s k h j := by
  unfold parseCipher
  rw [parseable_of hp]
  dsimp only
  rw [if_neg (cipherGuard hop hdiscard hturn), hcheck]

theorem parseCipher_error {op h : Nat} {st : Status} (hp : Parses s k .cipher j) (hop : jOp j = op) (hdiscard : jDiscard j = false)
    (hturn : contextTurn s k j = true) (hcheck : cipherCheck s k j = .error (h, st)) :
    parseCipher s k op = rejectJob (tellLost (noteSlot s j.inst h st) j st) k st := by
  unfold parseCipher
  rw [parseable_of hp]
  dsimp only
  rw [if_neg (cipherGuard hop hdiscard hturn), hcheck]

theorem cipherAdmit_frame (s : State) (k h : Nat) (j : Job) : ∃ bore,
    cipherAdmit s k h j = { modJob s k (fun x => { x with stage := .running, holds := true, due := nextInhale s }) with bore := bore } ∧
      bore.contexts = if jFirst j = true then tblPut s.bore.contexts (ctxKey j) (ctxOpen j h) else s.bore.contexts := by
  unfold cipherAdmit
  dsimp only
  split
  · exact touchStream_bore _ j
  · exact touchStream_bore _ j

/-- An admitted job waits for its pipe, and holds its context, which FIRST opens. -/
theorem cipherAdmit_admits (hj : tblGet s.jobs k = some j) (h : Nat) : let t := cipherAdmit s k h j
    tblGet t.jobs k = some { j with stage := .running, holds := true, due := s.brt.count + 1 } ∧
      (∀ i, i ≠ k → tblGet t.jobs i = tblGet s.jobs i) ∧
      (jFirst j = true → tblGet t.bore.contexts (ctxKey j) = some (ctxOpen j h)) ∧ (jFirst j = false → t.bore.contexts = s.bore.contexts) ∧
      (∀ c, c ≠ ctxKey j → tblGet t.bore.contexts c = tblGet s.bore.contexts c) ∧ { t with jobs := s.jobs, bore := s.bore } = s := by
  obtain ⟨bore, hadmit, hcontexts⟩ := cipherAdmit_frame s k h j
  obtain ⟨hat, hothers⟩ := modJob_at hj (fun x => { x with stage := .running, holds := true, due := nextInhale s })
  intro t
  have hstep : t = _ := hadmit
  rw [hstep]
  refine ⟨hat, hothers, fun hfirst => ?_, fun hfirst => ?_, fun c hc => ?_, rfl⟩
  · rw [if_pos hfirst] at hcontexts
    exact (congrArg (tblGet · (ctxKey j)) hcontexts).trans (tblGet_put_same _ _ _)
  · rw [hfirst, if_neg Bool.false_ne_true] at hcontexts
    exact hcontexts
  · refine (congrArg (tblGet · c) hcontexts).trans ?_
    split
    · exact tblGet_put_other _ _ _ _ hc
    · rfl

theorem cipherReject_ends (hj : tblGet s.jobs k = some j) (h : Nat) (st : Status) :
    JobEnds s (rejectJob (tellLost (noteSlot s j.inst h st) j st) k st) k j st [] 0 (s.brt.count + 1) := by
  obtain ⟨wch, clusters, hnote⟩ := noteSlot_frame s j.inst h st
  obtain ⟨f, htell⟩ := tellLost_bore { s with wch := wch, clusters := clusters } j st
  rw [hnote, htell]
  exact rejectJob_jobEnds (s := modBore { s with wch := wch, clusters := clusters } f) hj st

/-! #### DISCARD -/

theorem discardGuard (hdiscard : jDiscard j = true) (hturn : contextTurn s k j = true) : ¬ (!jDiscard j || !contextTurn s k j) = true := by
  rw [hdiscard, hturn]
  decide

theorem cipherDiscard_frees (hp : Parses s k .cipher j) (hdiscard : jDiscard j = true) (hturn : contextTurn s k j = true)
    (hform : discardFormOk j = true) (hnamed : contextNamed s j = true) (hopen : (tblGet s.bore.contexts (ctxKey j)).isSome = true) :
    cipherDiscard s k = endOffLadder (modBore s (fun b => { b with contexts := tblDel b.contexts (ctxKey j) })) k .ok [] 0 (nextInhale s) := by
  have hctx : (ctxOf s j).isNone = false := by
    rw [← Option.not_isSome]
    exact (congrArg (!·) hopen :)
  unfold cipherDiscard
  rw [parseable_of hp]
  dsimp only
  rw [if_neg (discardGuard hdiscard hturn), hform, hnamed, hctx, if_neg (by decide)]
  rfl

theorem cipherDiscard_rejects (hp : Parses s k .cipher j) (hdiscard : jDiscard j = true) (hturn : contextTurn s k j = true)
    (hbad : discardFormOk j = false ∨ tblGet s.bore.contexts (ctxKey j) = none) : cipherDiscard s k = rejectJob s k .inputInvalid := by
  have hcond : (!discardFormOk j || !contextNamed s j || (ctxOf s j).isNone) = true := by
    rcases hbad with hform | hnone
    · rw [hform]
      rfl
    · have hctx : (ctxOf s j).isNone = true := congrArg Option.isNone hnone
      rw [hctx, Bool.or_true]
  unfold cipherDiscard
  rw [parseable_of hp]
  dsimp only
  rw [if_neg (discardGuard hdiscard hturn), if_pos hcond]

/-- A DISCARD has the form of R274 and R468, or it is refused. -/
theorem discardFormOk_false (h : jSegment j ≠ 4 ∨ jByteLen j ≠ 0 ∨ zeroAt j.entry 34 22 = false) : discardFormOk j = false := by
  unfold discardFormOk
  rcases h with h | h | h
  · rw [decide_eq_false h]
    simp
  · rw [decide_eq_false h]
    simp
  · rw [h]
    simp

theorem contextNamed_of (h : ∃ x, tblGet s.insts j.inst = some x ∧ jContext j < x.maxContexts) : contextNamed s j = true := by
  obtain ⟨x, hx, hlt⟩ := h
  unfold contextNamed
  rw [hx]
  exact decide_eq_true hlt

/-! #### Slices -/

/-- Nothing settles after a job that no stream carries. -/
theorem settleCipher_none (hj : tblGet s.jobs k = some j) (hs : cipherStream j = none) (t : State) : settleCipher s t k = t := by
  unfold settleCipher
  rw [hj, Option.bind_some, hs]

section
variable {z : Slice} {c : CipherCtx}

theorem exec_slice (parity : Bool) (hj : tblGet s.jobs k = some j) (hs : cipherStream j = none) (hstage : j.stage = .running)
    (hz : j.slice = some z) (hc : tblGet s.bore.contexts (ctxKey j) = some c) (hstands : Standing s j) :
    exec (.cipherSliceDone k parity) s = whenRunning s (if parity then modJob s k (fun y => { y with slice := none })
      else if jEcho j then sliceToEcho s k z else sliceEnd s k z.bytes j c) := by
  have hexec : exec (.cipherSliceDone k parity) s = whenRunning s (settleCipher s (sliceDone s k parity) k) := rfl
  have hctx : ctxOf s j = some c := hc
  rw [hexec, settleCipher_none hj hs]
  unfold sliceDone
  rw [hj]
  dsimp only
  rw [hz, hctx]
  dsimp only
  rw [hstage, notResetting_of hstands, if_neg (by decide)]

/-- A slice to be checked goes to an echo pipe, where the device has one. -/
theorem sliceToEcho_sends (hj : tblGet s.jobs k = some j) (hz : j.slice = some z) (hecho : z.echo = none) : let t := sliceToEcho s k z
    (∃ y, tblGet t.jobs k = some { j with slice := some { z with echo := y } } ∧ (y = none → groupPipes s .echoG = []) ∧
      ∀ e, y = some e → e.sealPipe = z.pipe ∧ e.echoPipe ∈ groupPipes s .echoG ∧ e.passed = false ∧ e.failed = false ∧ e.breath = s.brt.count) ∧
    t.waiting = s.waiting ∧ t.bore.contexts = s.bore.contexts := by
  intro t
  have hopen : ¬ z.echo.isSome = true := by
    rw [hecho]
    decide
  by_cases hnone : groupPipes s .echoG = []
  · have hpick : pickPipe (groupPipes s .echoG) s = (none, s) := if_pos hnone
    have hstep : t = s := by
      show sliceToEcho s k z = s
      unfold sliceToEcho
      rw [if_neg hopen, hpick]
    have hsame : { j with slice := some { z with echo := none } } = j := by
      rw [← hecho, ← hz]
    rw [hstep]
    exact ⟨⟨none, by rw [hsame]; exact hj, fun _ => hnone, nofun⟩, rfl, rfl⟩
  · have hpos : 0 < (groupPipes s .echoG).length := List.length_pos_of_ne_nil hnone
    have hlt : (freshChoice (groupPipes s .echoG).length s).1 < (groupPipes s .echoG).length := by
      unfold freshChoice
      dsimp only
      rw [if_neg (Nat.ne_of_gt hpos)]
      exact Nat.mod_lt _ hpos
    have hpick : pickPipe (groupPipes s .echoG) s =
        (some (groupPipes s .echoG)[(freshChoice (groupPipes s .echoG).length s).1], { s with free := s.free + 1 }) := by
      unfold pickPipe
      rw [if_neg hnone]
      dsimp only
      rw [List.getElem?_eq_getElem hlt]
      rfl
    have hstep : t = modSlice { s with free := s.free + 1 } k { z with
        echo := some ⟨false, false, z.pipe, (groupPipes s .echoG)[(freshChoice (groupPipes s .echoG).length s).1], [], s.brt.count⟩ } := by
      show sliceToEcho s k z = _
      unfold sliceToEcho
      rw [if_neg hopen, hpick]
    rw [hstep]
    refine ⟨⟨_, (modJob_at (s := { s with free := s.free + 1 }) hj _).1, nofun, fun e he => ?_⟩, rfl, rfl⟩
    cases he
    exact ⟨rfl, List.getElem_mem hlt, rfl, rfl, rfl⟩

section
variable {x : Slot}

theorem sliceEnd_more (hslot : checkSlotAs s j.inst c.slot (some k) = .ok x) (hmore : j.done + z.bytes < cipherWork j) :
    sliceEnd s k z.bytes j c = cipherMore s k z.bytes j c (slotMaterial x) (sliceParts j z.bytes).1 (sliceParts j z.bytes).2 := by
  unfold sliceEnd
  rw [hslot]
  exact if_neg (Nat.not_le.mpr hmore)

theorem sliceEnd_last (hslot : checkSlotAs s j.inst c.slot (some k) = .ok x) (hlast : cipherWork j ≤ j.done + z.bytes) :
    sliceEnd s k z.bytes j c = cipherLast s k j c (slotMaterial x) (sliceParts j z.bytes).1 (sliceParts j z.bytes).2 := by
  unfold sliceEnd
  rw [hslot]
  exact if_pos hlast

end

/-- A slice before the last updates the context and adds to the job's output. -/
theorem cipherMore_goes (hj : tblGet s.jobs k = some j) (hstream : singleOnly (jMode j) (jOp j) = false) (n : Nat) (key aad d : Bytes) :
    let t := cipherMore s k n j c key aad d
    tblGet t.jobs k = some { j with done := j.done + n, slice := none, draws := j.draws ++ (cipherFeed key c aad d).2 } ∧
      tblGet t.bore.contexts (ctxKey j) = some (cipherFeed key c aad d).1 ∧ t.waiting = s.waiting := by
  intro t
  have hstep : t = modJob (modBore s (fun b => { b with contexts := tblPut b.contexts (ctxKey j) (cipherFeed key c aad d).1 })) k
      (fun y => { y with done := y.done + n, slice := none, draws := y.draws ++ (cipherFeed key c aad d).2 }) := by
    show cipherMore s k n j c key aad d = _
    unfold cipherMore
    rw [hstream]
    rfl
  rw [hstep]
  exact ⟨(modJob_at (s := modBore s (fun b => { b with contexts := tblPut b.contexts (ctxKey j) (cipherFeed key c aad d).1 })) hj _).1,
    tblGet_put_same _ _ _, rfl⟩

/-- A job that ends with its context put or freed. -/
theorem closeContext_ends (hj : tblGet s.jobs k = some j) (c : CipherCtx) (st : Status) (out : Bytes) (info due : Nat) :
    let t := endOffLadder (closeContext s j c) k st out info due
    tblGet t.bore.contexts (ctxKey j) = (if jLast j = true then none else some c) ∧ JobEnds s t k j st out info due := by
  intro t
  have hends : JobEnds (closeContext s j c) t k j st out info due := endOffLadder_jobEnds (s := closeContext s j c) hj st out info due
  refine ⟨?_, hends⟩
  rw [congrArg Bore.contexts (endOffLadder_bore (closeContext s j c) k st out info due)]
  show tblGet (if jLast j = true then tblDel s.bore.contexts (ctxKey j) else tblPut s.bore.contexts (ctxKey j) c) (ctxKey j) = _
  split
  · exact tblGet_del_same _ _
  · exact tblGet_put_same _ _ _

theorem cipherLast_segment (hj : tblGet s.jobs k = some j) (hlast : jLast j = false) (key aad d : Bytes) :
    let t := cipherLast s k j c key aad d
    tblGet t.bore.contexts (ctxKey j) = some (cipherFeed key c aad d).1 ∧
      JobEnds s t k j .ok (j.draws ++ (cipherFeed key c aad d).2) 0 (s.brt.count + 1) := by
  intro t
  have hstep : t = endOffLadder (closeContext s j (cipherFeed key c aad d).1) k .ok (j.draws ++ (cipherFeed key c aad d).2) 0 (nextInhale s) := by
    show cipherLast s k j c key aad d = _
    unfold cipherLast
    rw [hlast]
    rfl
  obtain ⟨hctx, hends⟩ := closeContext_ends hj (cipherFeed key c aad d).1 .ok (j.draws ++ (cipherFeed key c aad d).2) 0 (nextInhale s)
  rw [hlast, if_neg Bool.false_ne_true] at hctx
  rw [hstep]
  exact ⟨hctx, hends⟩

theorem cipherLast_whole (hj : tblGet s.jobs k = some j) (hlast : jLast j = true) (hsingle : singleOnly (jMode j) (jOp j) = true)
    (key aad d : Bytes) : let t := cipherLast s k j c key aad d
    let r := cipherWhole key (jMode j) (jOp j) c.iv (cipherAad j) (cipherData j) (cipherTag j)
    tblGet t.bore.contexts (ctxKey j) = none ∧ JobEnds s t k j r.1 r.2 0 (s.brt.count + 1) := by
  intro t r
  have hstep : t = endOffLadder (closeContext s j c) k r.1 r.2 0 (nextInhale s) := by
    show cipherLast s k j c key aad d = _
    unfold cipherLast
    rw [hlast, hsingle]
    rfl
  obtain ⟨hctx, hends⟩ := closeContext_ends hj c r.1 r.2 0 (nextInhale s)
  rw [if_pos hlast] at hctx
  rw [hstep]
  exact ⟨hctx, hends⟩

end

end

/-- Settles O46: a cipher job that passes its parse holds its context, its slices work on the context, and its last slice ends it. -/
theorem cipherJobs : Obligations.CipherJobs := by
  unfold Obligations.CipherJobs
  intro s k j
  refine ⟨fun e he hp hop hdiscard hturn => ⟨fun h hcheck => ?_, fun h st hcheck => ?_⟩,
    fun hp hdiscard hturn => ⟨fun hform hnamed hopen => ?_, fun hbad => ?_⟩, fun z c hrun hj hstage hz hc hs hstands => ?_⟩
  · refine does_whenRunning (exec_cipherRow he) hp.1 ?_
    rw [parseCipher_ok hp hop hdiscard hturn hcheck]
    obtain ⟨-, -, hj, -⟩ := hp
    exact cipherAdmit_admits hj h
  · refine does_whenRunning (exec_cipherRow he) hp.1 ?_
    rw [parseCipher_error hp hop hdiscard hturn hcheck]
    obtain ⟨-, -, hj, -⟩ := hp
    exact cipherReject_ends hj h st
  · have hexec : exec (.cipherDiscard k) s = whenRunning s (cipherDiscard s k) := rfl
    refine does_whenRunning hexec hp.1 ?_
    rw [cipherDiscard_frees hp hdiscard hturn hform (contextNamed_of hnamed) hopen]
    obtain ⟨-, -, hj, -⟩ := hp
    refine ⟨?_, endOffLadder_jobEnds (s := modBore s (fun b => { b with contexts := tblDel b.contexts (ctxKey j) })) hj .ok [] 0 (nextInhale s)⟩
    rw [endOffLadder_bore]
    exact tblGet_del_same _ _
  · have hexec : exec (.cipherDiscard k) s = whenRunning s (cipherDiscard s k) := rfl
    have hrefused : discardFormOk j = false ∨ tblGet s.bore.contexts (ctxKey j) = none := by
      rcases hbad with h | h | h | h
      · exact .inl (discardFormOk_false (.inl h))
      · exact .inl (discardFormOk_false (.inr (.inl h)))
      · exact .inl (discardFormOk_false (.inr (.inr h)))
      · exact .inr h
    refine does_whenRunning hexec hp.1 ?_
    rw [cipherDiscard_rejects hp hdiscard hturn hrefused]
    obtain ⟨-, -, hj, -⟩ := hp
    exact rejectJob_jobEnds hj _
  · have hslice (parity : Bool) := exec_slice parity hj hs hstage hz hc hstands
    have hplain (hecho : jEcho j = false) : exec (.cipherSliceDone k false) s = whenRunning s (sliceEnd s k z.bytes j c) := by
      rw [hslice false, hecho]
      rfl
    refine ⟨?_, fun hecho hnone => ?_, fun x hecho hslot hmore hstream => ?_, fun x hecho hslot hwork hlast hsingle => ?_,
      fun x hecho hslot hwork hlast => ?_⟩
    · rw [hslice true, whenRunning_of _ _ hrun]
      rfl
    · refine does_whenRunning (hslice false) hrun ?_
      rw [hecho]
      exact sliceToEcho_sends hj hz hnone
    · refine does_whenRunning (hplain hecho) hrun ?_
      rw [sliceEnd_more hslot hmore]
      exact cipherMore_goes hj hstream _ _ _ _
    · refine does_whenRunning (hplain hecho) hrun ?_
      rw [sliceEnd_last hslot hwork]
      exact cipherLast_whole hj hlast hsingle _ _ _
    · refine does_whenRunning (hplain hecho) hrun ?_
      rw [sliceEnd_last hslot hwork]
      exact cipherLast_segment hj hlast _ _ _

end Sys2Proof.CipherRows


/-! ### Charts take effect (R29, R108, R120, R466) -/

namespace Sys2Proof.ChartRows

open Sys2Proof Sys2Proof.Machine Sys2Proof.Safety Sys2Proof.Rows Sys2Proof.Laws Sys2Proof.StateFacts Sys2Proof.RingWrites Sys2Proof.LadderRows

/-! #### What pipes, mutes and clusters change -/

theorem regroup_bore (s : State) : ∃ bore, regroup s = { s with bore := bore } := by
  have hsend (t : State) (g : PipeGroup) (l : List Nat) (ht : ∃ bore, t = { s with bore := bore }) :
      ∃ bore, l.foldl (fun t p => sendPipe t p g) t = { s with bore := bore } := by
    refine List.foldlRecOn (motive := fun t => ∃ bore, t = { s with bore := bore }) l _ ht fun t ht p _ => ?_
    obtain ⟨bore, rfl⟩ := ht
    exact ⟨_, rfl⟩
  have hshed : ∃ bore, workGroups.foldl shedGroup s = { s with bore := bore } :=
    List.foldlRecOn (motive := fun t => ∃ bore, t = { s with bore := bore }) workGroups _ ⟨s.bore, rfl⟩ fun t ht g _ => hsend t .spare _ ht
  exact List.foldlRecOn (motive := fun t => ∃ bore, t = { s with bore := bore }) workGroups _ hshed fun t ht g _ => hsend t g _ ht

theorem pipesJoin_bore (s : State) : ∃ bore, pipesJoin s = { s with bore := bore } := by
  refine List.foldlRecOn (motive := fun t => ∃ bore, t = { s with bore := bore }) (List.range 96) _ ⟨s.bore, rfl⟩ fun t ht p _ => ?_
  obtain ⟨bore, rfl⟩ := ht
  exact ⟨_, rfl⟩

/-- What muting a unit changes: the health, the management's log, and of the jobs only when they move. -/
structure Mutes (s t : State) : Prop where
  rest : ∃ jobs health mgc, t = { s with jobs := jobs, health := health, mgc := mgc }
  channels : t.mgc.channels = s.mgc.channels
  jobs : ∀ k j, tblGet s.jobs k = some j → ∃ y, tblGet t.jobs k = some { j with moveAt := y }

theorem Mutes.refl (s : State) : Mutes s s := ⟨⟨s.jobs, s.health, s.mgc, rfl⟩, rfl, fun _ j hj => ⟨j.moveAt, hj⟩⟩

theorem Mutes.trans {s t u : State} (h : Mutes s t) (h' : Mutes t u) : Mutes s u := by
  obtain ⟨⟨jobs, health, mgc, rfl⟩, hchannels, hjobs⟩ := h
  obtain ⟨⟨jobs', health', mgc', rfl⟩, hchannels', hjobs'⟩ := h'
  refine ⟨⟨jobs', health', mgc', rfl⟩, hchannels'.trans hchannels, fun k j hj => ?_⟩
  obtain ⟨y, hy⟩ := hjobs k j hj
  obtain ⟨z, hz⟩ := hjobs' k _ hy
  exact ⟨z, hz⟩

theorem logEvent_mutes (s : State) (code : Nat) (data : Bytes) : Mutes s (logEvent s code data) :=
  ⟨⟨s.jobs, s.health, _, rfl⟩, rfl, fun _ j hj => ⟨j.moveAt, hj⟩⟩

theorem displaceJobs_mutes (s : State) (f : JobUnit → Bool) : Mutes s (displaceJobs s f) := by
  refine ⟨⟨_, s.health, s.mgc, rfl⟩, rfl, fun k j hj => ?_⟩
  have hget := StepRows.tblGet_map s.jobs
    (fun j => if f j.unit && j.stage ≠ .held && j.moveAt.isNone then { j with moveAt := some s.brt.count } else j) k
  rw [hj, Option.map_some] at hget
  split at hget
  · exact ⟨_, hget⟩
  · exact ⟨j.moveAt, hget⟩

theorem muteUnit_mutes (s : State) (u : UnitName) (cls cluster index cause : Nat) : Mutes s (muteUnit s u cls cluster index cause) := by
  unfold muteUnit
  split
  · exact .refl s
  · exact ⟨⟨s.jobs, _, _, rfl⟩, rfl, fun _ j hj => ⟨j.moveAt, hj⟩⟩

theorem muteSuspect_mutes (s : State) (u : UnitName) : Mutes s (muteSuspect s u) := by
  unfold muteSuspect
  split
  · exact .refl s
  · split
    · exact (muteUnit_mutes _ _ _ _ _ _).trans (displaceJobs_mutes _ _)
    · exact (muteUnit_mutes _ _ _ _ _ _).trans (displaceJobs_mutes _ _)
    · exact .refl s
    · exact .refl s

theorem setSuspicion_mutes (s : State) (limit : Nat) : Mutes s (setSuspicion s limit) := by
  refine List.foldlRecOn (motive := fun t => Mutes s t) _ _ ?_ fun t ht u _ => ht.trans (muteSuspect_mutes t u)
  exact ⟨⟨s.jobs, _, s.mgc, rfl⟩, rfl, fun _ j hj => ⟨j.moveAt, hj⟩⟩

/-- Each cluster of a list is changed once. -/
theorem foldl_modCluster (f : Nat → Cluster → Cluster) (l : List Nat) (hl : l.Nodup) (s : State) :
    ∃ clusters, l.foldl (fun t c => modCluster t c (f c)) s = { s with clusters := clusters } ∧
      ∀ c, tblGetD clusters c Cluster.init = if c ∈ l then f c (clusterAt s c) else clusterAt s c := by
  induction l generalizing s with
  | nil => exact ⟨s.clusters, rfl, fun c => by rw [if_neg List.not_mem_nil]; rfl⟩
  | cons a l ih =>
    obtain ⟨hnot, hnodup⟩ := List.nodup_cons.mp hl
    obtain ⟨clusters, hfold, hget⟩ := ih hnodup (modCluster s a (f a))
    refine ⟨clusters, hfold, fun c => ?_⟩
    rw [hget c]
    by_cases hc : c = a
    · subst hc
      rw [if_neg hnot, if_pos List.mem_cons_self]
      exact clusterAt_setCluster s c (f c (clusterAt s c))
    · have hother : clusterAt (modCluster s a (f a)) c = clusterAt s c := clusterAt_setCluster_other s _ _ _ hc
      simp only [hother, List.mem_cons, hc, false_or]

theorem setNodes_cur (s : State) (new : Option NodeTable) : ∃ pxt, setNodes s new = { s with pxt := pxt } ∧ pxt.cur = new := by
  unfold setNodes
  split
  · next hsame => exact ⟨s.pxt, rfl, hsame.symm⟩
  · exact ⟨_, rfl, rfl⟩

/-- A chart without a waiting approval is only logged. -/
theorem chartTold_mutes {w : ChartWait} (hw : w.approver = none) (s : State) : Mutes s (chartTold s w) := by
  unfold chartTold
  rw [hw]
  exact logEvent_mutes s _ _

theorem atInhale_of {s : State} (hcycle : s.brt.cycle = 0) (hex : s.brt.exhale = false) : atInhale s = true := by
  unfold atInhale
  rw [hcycle, hex]
  rfl

/-! #### A delta -/

/-- The clusters whose pool a delta changes enter the new one. -/
theorem enterClusters_enters (s : State) (old new : Option Chart) : ∃ clusters, enterClusters s old new = { s with clusters := clusters } ∧
    ∀ c, c < 64 → (poolIn old c ≠ poolIn new c →
        (tblGetD clusters c Cluster.init).entering = if (poolIn new c).isSome then some s.brt.count else none) ∧
      (poolIn old c = poolIn new c → (tblGetD clusters c Cluster.init).entering = (clusterAt s c).entering) := by
  obtain ⟨clusters, hfold, hget⟩ := foldl_modCluster
    (fun c k => { k with entering := if (clusterPool new c).isSome then some s.brt.count else none })
    ((List.range 64).filter (fun c => clusterPool old c ≠ clusterPool new c)) (List.nodup_range.filter _) s
  refine ⟨clusters, hfold, fun c hc => ⟨fun hchanged => ?_, fun hsame => ?_⟩⟩
  · rw [hget c, if_pos (List.mem_filter.mpr ⟨List.mem_range.mpr hc, decide_eq_true hchanged⟩)]
    rfl
  · have hout : c ∉ (List.range 64).filter (fun c => clusterPool old c ≠ clusterPool new c) := fun hmem =>
      (of_decide_eq_true (List.mem_filter.mp hmem).2 : clusterPool old c ≠ clusterPool new c) hsame
    rw [hget c, if_neg hout]

theorem restartMonitors_mgc (s : State) (c : Chart) : ∃ mgc, restartMonitors s c = { s with mgc := mgc } ∧
    mgc.channels = c.monitors.map (fun m => { MonChan.init with cfg := m, start := s.brt.count }) := ⟨_, rfl, rfl⟩

/-- The additions a delta brings to a pool that was there before. -/
theorem routineAdds_mem {s : State} {ch : Chart} {p q : PoolCfg} {rid : Nat} (hp : p ∈ ch.pools)
    (hq : (poolsNow s).find? (fun x => x.id = p.id) = some q) (hin : rid ∈ p.routines) (hnew : rid ∉ q.routines) :
    ⟨p.id, rid, s.brt.count⟩ ∈ routineAdds s ch := by
  refine List.mem_flatMap.mpr ⟨p, hp, ?_⟩
  rw [hq]
  refine List.mem_map.mpr ⟨rid, List.mem_filter.mpr ⟨hin, ?_⟩, rfl⟩
  simp [hnew]

/-- The jobs and clusters of a delta's inhale, before its pipes, nodes, monitors and limits. -/
def deltaSettled (s : State) (w : ChartWait) : State :=
  let gone := (List.range 64).filter (fun c => (clusterPool s.charts.inForce c).isSome && clusterPool s.charts.inForce c ≠ clusterPool (some w.chart) c)
  let adds := s.charts.adds.filter (fun a => s.brt.count < a.inhale + 2) ++ routineAdds s w.chart
  displaceJobs (limiterFull { s with charts := { s.charts with inForce := some w.chart, deltaWait := none, adds := adds } })
    (fun u => gone.any (fun c => unitInCluster c u))

theorem deltaSettled_jobs (s : State) (w : ChartWait) {k : Nat} {j : Job} (hj : tblGet s.jobs k = some j) :
    ∃ y, tblGet (deltaSettled s w).jobs k = some { j with moveAt := y } := by
  unfold deltaSettled
  exact (displaceJobs_mutes _ _).jobs k j hj

/-- The rest of a delta's inhale changes the pipes, the nodes, the monitors, the health, and when jobs move. -/
theorem applyDelta_rest {s : State} {w : ChartWait} (hw : w.approver = none) : ∃ bore pxt mgc,
    Mutes { enterClusters (deltaSettled s w) s.charts.inForce (some w.chart) with bore := bore, pxt := pxt, mgc := mgc } (applyDelta s w) ∧
      pxt.cur = w.chart.nodes := by
  obtain ⟨bore, hregroup⟩ := regroup_bore (enterClusters (deltaSettled s w) s.charts.inForce (some w.chart))
  obtain ⟨pxt, hnodes, hcur⟩ := setNodes_cur { enterClusters (deltaSettled s w) s.charts.inForce (some w.chart) with bore := bore } w.chart.nodes
  have hend (u : State) : Mutes u (chartTold (setSuspicion u w.chart.suspicionLimit) w) :=
    (setSuspicion_mutes u _).trans (chartTold_mutes hw _)
  rw [← hregroup] at hnodes
  have hstep : applyDelta s w = chartTold (setSuspicion (if w.types.contains 0xB then
      restartMonitors (setNodes (regroup (enterClusters (deltaSettled s w) s.charts.inForce (some w.chart))) w.chart.nodes) w.chart
    else setNodes (regroup (enterClusters (deltaSettled s w) s.charts.inForce (some w.chart))) w.chart.nodes) w.chart.suspicionLimit) w := rfl
  rw [hstep, hnodes, hregroup]
  split
  · exact ⟨bore, pxt, _, hend _, hcur⟩
  · exact ⟨bore, pxt, _, hend _, hcur⟩

theorem applyDelta_takesEffect {s : State} {w : ChartWait} (hw : w.approver = none) : let t := applyDelta s w
    (∃ a, t.charts = { s.charts with inForce := some w.chart, deltaWait := none, adds := a } ∧ ∀ p ∈ w.chart.pools, ∀ q rid,
      (poolsNow s).find? (fun x => x.id = p.id) = some q → rid ∈ p.routines → rid ∉ q.routines → ⟨p.id, rid, s.brt.count⟩ ∈ a) ∧
    (∀ c, c < 64 → poolIn s.charts.inForce c ≠ poolIn (some w.chart) c →
      (clusterAt t c).entering = if (poolIn (some w.chart) c).isSome then some s.brt.count else none) ∧
    (∀ c, c < 64 → poolIn s.charts.inForce c = poolIn (some w.chart) c → (clusterAt t c).entering = (clusterAt s c).entering) ∧
    t.pxt.cur = w.chart.nodes ∧ t.plc.mcCount = 2 ^ s.brt.log2Len + 10000 ∧ t.brt = s.brt ∧ t.ports = s.ports ∧ t.insts = s.insts ∧
    (∀ k j, tblGet s.jobs k = some j → ∃ y, tblGet t.jobs k = some { j with moveAt := y }) := by
  obtain ⟨bore, pxt, mgc, hrest, hcur⟩ := applyDelta_rest (s := s) hw
  obtain ⟨clusters, henter, hentering⟩ := enterClusters_enters (deltaSettled s w) s.charts.inForce (some w.chart)
  intro t
  obtain ⟨⟨jobs, health, mgc', hstep⟩, -, hjobs⟩ := hrest
  have hmoved (k : Nat) (j : Job) (hj : tblGet s.jobs k = some j) : ∃ y, tblGet t.jobs k = some { j with moveAt := y } := by
    obtain ⟨y, hy⟩ := deltaSettled_jobs s w hj
    rw [henter] at hjobs
    obtain ⟨z, hz⟩ := hjobs k _ hy
    exact ⟨z, hz⟩
  have ht : t = _ := hstep.trans (by rw [henter])
  rw [ht] at hmoved ⊢
  exact ⟨⟨_, rfl, fun p hp q rid hq hin hnew => List.mem_append_right _ (routineAdds_mem hp hq hin hnew)⟩,
    fun c hc hchanged => (hentering c hc).1 hchanged, fun c hc hsame => (hentering c hc).2 hsame, hcur, rfl, rfl, rfl, rfl, hmoved⟩

/-! #### A full chart -/

theorem drawRangeKeys_mpr (s : State) : ∃ mpr free, drawRangeKeys s = { s with mpr := mpr, free := free } := by
  refine List.foldlRecOn (motive := fun t => ∃ mpr free, t = { s with mpr := mpr, free := free }) (List.range 16) _ ⟨s.mpr, s.free, rfl⟩ fun t ht r _ => ?_
  obtain ⟨mpr, free, rfl⟩ := ht
  exact ⟨_, _, rfl⟩

theorem mapRanges_mpr (s : State) (d : DdrMap) : ∃ mpr free, mapRanges s d = { s with mpr := mpr, free := free } := by
  unfold mapRanges
  dsimp only
  split
  · exact ⟨_, s.free, rfl⟩
  · split
    · obtain ⟨mpr, free, hdraw⟩ := drawRangeKeys_mpr { s with mpr := { s.mpr with
        ranges := (List.zipIdx d.ranges).map (fun e => { MemRange.empty with base := e.1.1, size := e.1.2, key := (memRange s.mpr e.2).key })
        pages := [], lines := [], tree := [], scrubNext := 0, scrubHours := d.scrubHours } }
      exact ⟨mpr, free, hdraw⟩
    · exact ⟨_, s.free, rfl⟩

/-- The routines a chart places in a cluster. -/
def chartPlaces (c : Chart) (k : Nat) : List Placed := match c.pools.find? (fun p => bitOf p.mask k) with
  | some p => packFrom 0x400 (poolRoutines c p)
  | none => []

theorem packFrom_rids (b : Nat) (rs : List RoutineSec) : (packFrom b rs).map Placed.rid = rs.map RoutineSec.rid := by
  induction rs generalizing b with
  | nil => rfl
  | cons r rs ih => simp [packFrom, ih]

/-- Every cluster is loaded with its pool's image. -/
theorem loadStores_loads (s : State) (c : Chart) : ∃ clusters, loadStores s c = { s with clusters := clusters } ∧
    ∀ k, k < 64 → tblGetD clusters k Cluster.init = { loadedStore c (chartPlaces c k) (clusterAt s k) with entering := none } := by
  obtain ⟨clusters, hfold, hget⟩ := foldl_modCluster (fun k x => { loadedStore c (chartPlaces c k) x with entering := none }) (List.range 64) List.nodup_range s
  refine ⟨clusters, hfold, fun k hk => ?_⟩
  rw [hget k, if_pos (List.mem_range.mpr hk)]

/-- The ports, the random source and the breath length of a full chart. -/
def fullFormed (s : State) (c : Chart) : State := { s with
  ports := (List.zipIdx s.ports).map (fun e => formPort c e.2 e.1)
  pxt := { s.pxt with ports := formFabric s c }
  rng := { s.rng with conditioner := c.conditioner }
  brt := { s.brt with nextLog2 := some c.log2Len } }

/-- The state of a full chart with its ranges, its limiter and its clusters. -/
theorem applyFull_rest (s : State) (c : Chart) : ∃ mpr free clusters bore pxt mgc plc,
    Mutes { fullFormed s c with
        charts := { s.charts with inForce := some c, fullWait := none, deltaWait := none, adds := [] }
        mpr := mpr, free := free, clusters := clusters, bore := bore, pxt := pxt, mgc := mgc, plc := plc } (applyFull s c) ∧
      (∀ k, k < 64 → tblGetD clusters k Cluster.init = { loadedStore c (chartPlaces c k) (clusterAt s k) with entering := none }) ∧
      mgc.channels = c.monitors.map (fun m => { MonChan.init with cfg := m, start := s.brt.count }) := by
  obtain ⟨mpr, free, hmap⟩ := mapRanges_mpr (fullFormed s c) c.ddr
  obtain ⟨clusters, hload, hloaded⟩ := loadStores_loads (limiterFull { mapRanges (fullFormed s c) c.ddr with
    charts := { s.charts with inForce := some c, fullWait := none, deltaWait := none, adds := [] } }) c
  have hstep : applyFull s c = setSuspicion (restartMonitors (setNodes (pipesJoin (regroup (loadStores (limiterFull
    { mapRanges (fullFormed s c) c.ddr with
      charts := { s.charts with inForce := some c, fullWait := none, deltaWait := none, adds := [] } }) c))) c.nodes) c) c.suspicionLimit := rfl
  rw [hload, hmap] at hstep
  obtain ⟨bore, hregroup⟩ := regroup_bore _
  obtain ⟨bore', hjoin⟩ := pipesJoin_bore _
  obtain ⟨pxt, hnodes, -⟩ := setNodes_cur _ c.nodes
  rw [hregroup, hjoin, hnodes] at hstep
  rw [hmap] at hloaded
  rw [hstep]
  exact ⟨mpr, free, clusters, bore', pxt, _, _, setSuspicion_mutes _ _, hloaded, rfl⟩

theorem formPort_formed (c : Chart) (k : Nat) (h : HostPort) : (formPort c k h).formed = isPort c.unitEnable c.x16Mask k ∧
    ((formPort c k h).formed = true → (formPort c k h).totalVfs = c.ceilings.getD k 0 ∧ (formPort c k h).global = bitOf c.globalMask k) := by
  unfold formPort
  by_cases hport : isPort c.unitEnable c.x16Mask k = true
  · rw [hport, if_neg (by decide)]
    exact ⟨rfl, fun _ => ⟨rfl, rfl⟩⟩
  · have hoff : isPort c.unitEnable c.x16Mask k = false := eq_false_of_ne_true hport
    rw [hoff, if_pos (by decide)]
    exact ⟨rfl, nofun⟩

/-- The chart's image of a cluster in a pool. -/
theorem loadedStore_image (c : Chart) (k : Nat) (x : Cluster) {p : PoolCfg} (hp : c.pools.find? (fun q => bitOf q.mask k) = some p) :
    let y := loadedStore c (chartPlaces c k) x
    y.cs = storeImage c y.placed ∧ y.par = parityImage c y.placed ∧ y.placed.map Placed.rid = (poolRoutines c p).map RoutineSec.rid := by
  refine ⟨rfl, rfl, ?_⟩
  show (chartPlaces c k).map Placed.rid = _
  unfold chartPlaces
  rw [hp]
  exact packFrom_rids _ _

theorem fullChartApply_eq {s : State} {w : ChartWait} (hw : s.charts.fullWait = some w) (htune : s.dev.mode = .tune) (hdue : w.inhale ≤ s.brt.count)
    (hat : atInhale s = true) : fullChartApply s =
      chartTold { applyFull s w.chart with charts := { (applyFull s w.chart).charts with leaveTune := some (s.brt.count + 1) } } w := by
  unfold fullChartApply
  rw [hw]
  dsimp only
  rw [hat, htune, decide_eq_true hdue]
  rfl

theorem fullChart_takesEffect {s : State} {w : ChartWait} (hw : s.charts.fullWait = some w) (htune : s.dev.mode = .tune)
    (hdue : w.inhale ≤ s.brt.count) (hat : atInhale s = true) (hnone : w.approver = none) : let t := fullChartApply s
    t.charts = { s.charts with inForce := some w.chart, fullWait := none, deltaWait := none, adds := [], leaveTune := some (s.brt.count + 1) } ∧
    t.brt = { s.brt with nextLog2 := some w.chart.log2Len } ∧ t.ports.length = s.ports.length ∧
    (∀ p : Fin 8, p.val < s.ports.length → (portAt t p.val).formed = isPort w.chart.unitEnable w.chart.x16Mask p.val ∧
      ((portAt t p.val).formed = true → (portAt t p.val).totalVfs = w.chart.ceilings.getD p.val 0 ∧
        (portAt t p.val).global = bitOf w.chart.globalMask p.val)) ∧
    (∀ c, c < 64 → (clusterAt t c).entering = none ∧ (∀ p, w.chart.pools.find? (fun q => bitOf q.mask c) = some p →
      (clusterAt t c).cs = storeImage w.chart (clusterAt t c).placed ∧ (clusterAt t c).par = parityImage w.chart (clusterAt t c).placed ∧
      (clusterAt t c).placed.map Placed.rid = (poolRoutines w.chart p).map RoutineSec.rid)) ∧
    t.rng.conditioner = w.chart.conditioner ∧ t.mgc.channels = w.chart.monitors.map (fun m => { MonChan.init with cfg := m, start := s.brt.count }) := by
  obtain ⟨mpr, free, clusters, bore, pxt, mgc, plc, ⟨⟨jobs, health, mgc', hrest⟩, hchannels, -⟩, hloaded, hmonitors⟩ := applyFull_rest s w.chart
  obtain ⟨⟨jobs', health', mgc'', htold⟩, hkept, -⟩ := chartTold_mutes hnone
    { applyFull s w.chart with charts := { (applyFull s w.chart).charts with leaveTune := some (s.brt.count + 1) } }
  intro t
  have ht : t = _ := (fullChartApply_eq hw htune hdue hat).trans htold
  have hmgc : t.mgc.channels = w.chart.monitors.map (fun m => { MonChan.init with cfg := m, start := s.brt.count }) :=
    (congrArg (fun u : State => u.mgc.channels) (fullChartApply_eq hw htune hdue hat)).trans (hkept.trans (hchannels.trans hmonitors))
  rw [hrest] at ht
  rw [ht] at hmgc ⊢
  refine ⟨rfl, rfl, by simp [fullFormed], fun p hp => ?_, fun c hc => ?_, rfl, hmgc⟩
  · have hport : ((List.zipIdx s.ports).map (fun e => formPort w.chart e.2 e.1)).getD p.val HostPort.init = formPort w.chart p.val s.ports[p.val] := by
      simp [List.getD_eq_getElem?_getD, hp]
    have hform := formPort_formed w.chart p.val s.ports[p.val]
    rw [← hport] at hform
    exact hform
  · have hcluster : clusterAt t c = { loadedStore w.chart (chartPlaces w.chart c) (clusterAt s c) with entering := none } := by
      rw [ht]
      exact hloaded c hc
    rw [ht] at hcluster
    rw [hcluster]
    exact ⟨rfl, fun p hp => loadedStore_image w.chart c (clusterAt s c) hp⟩

/-- Settles O47: a delta and a full chart take effect at the inhale they wait for. -/
theorem chartsTakeEffect : Obligations.ChartsTakeEffect := by
  unfold Obligations.ChartsTakeEffect
  intro s hrun hcycle hex
  have hat := atInhale_of hcycle hex
  refine ⟨fun w hw hdue hnone => ?_, fun w hw htune hdue hnone => ?_⟩
  · have hexec : exec .chartDeltaApply s = whenRunning s (chartDeltaApply s) := rfl
    have hstep : chartDeltaApply s = applyDelta s w := by
      unfold chartDeltaApply
      rw [hw]
      dsimp only
      rw [hat, decide_eq_true hdue]
      rfl
    refine does_whenRunning hexec hrun ?_
    rw [hstep]
    exact applyDelta_takesEffect hnone
  · have hexec : exec .fullChartApply s = whenRunning s (fullChartApply s) := rfl
    exact does_whenRunning hexec hrun (fullChart_takesEffect hw htune hdue hat hnone)

end Sys2Proof.ChartRows


/-! ### Placement (R106, R107, R120, R182, R183, R258) -/

namespace Sys2Proof.PlacementRows

open Sys2Proof Sys2Proof.Machine Sys2Proof.Safety Sys2Proof.Rows Sys2Proof.Laws Sys2Proof.StateFacts Sys2Proof.RingWrites Sys2Proof.LadderRows
open Sys2Proof.RandomRows Sys2Proof.ChartRows

/-! #### Control stores -/

section
variable {s : State} {ch : Chart} {p : PoolCfg}

theorem clusterStoreLoad_loads {c i : Nat} {placed : List Placed} (henter : (clusterAt s c).entering = some i) (hdue : i < s.brt.count)
    (hpool : poolOfCluster s c = some (ch, p)) (hplan : poolPlan s ch p = some placed) :
    clusterStoreLoad s c = setCluster s c (loadedStore ch placed (clusterAt s c)) := by
  unfold clusterStoreLoad
  rw [henter, hpool]
  dsimp only
  rw [if_neg (Nat.not_le.mpr hdue), hplan]
  rfl

theorem addedNow_false {pool rid : Nat} (h : ∀ a ∈ s.charts.adds, a.pool = pool → a.rid = rid → a.inhale < s.brt.count) :
    addedNow s pool rid = false := by
  refine List.any_eq_false.mpr fun a ha hnow => ?_
  simp only [Bool.and_eq_true, decide_eq_true_eq] at hnow
  obtain ⟨⟨hpool, hrid⟩, hlate⟩ := hnow
  exact absurd (h a ha hpool hrid) (Nat.not_lt.mpr hlate)

theorem routineLoad_loads {c rid : Nat} {plan : List Placed} {q : Placed} (hpool : poolOfCluster s c = some (ch, p))
    (hadds : ∀ a ∈ s.charts.adds, a.pool = p.id → a.rid = rid → a.inhale < s.brt.count) (henter : (clusterAt s c).entering = none)
    (hin : rid ∈ p.routines) (hnew : ∀ x ∈ (clusterAt s c).placed, x.rid ≠ rid)
    (hplan : planAdds (clusterAt s c).placed (missing ch p (clusterAt s c).placed) = some plan) (hq : plan.find? (fun x => x.rid = rid) = some q) :
    routineLoad s c rid = setCluster s c { clusterAt s c with
      cs := writeWords (clusterAt s c).cs q.base (chartWords ch rid)
      par := writeParity (clusterAt s c).par q.base (chartWords ch rid)
      placed := (clusterAt s c).placed ++ [q] } := by
  have hserves : (clusterAt s c).entering.isSome = false := by
    rw [henter]
    rfl
  have hplaced : routinePlaced s c rid = false := List.any_eq_false.mpr fun x hx h => hnew x hx (of_decide_eq_true h)
  unfold routineLoad
  rw [hpool]
  dsimp only
  rw [addedNow_false hadds, hserves, List.contains_iff_mem.mpr hin, hplaced, if_neg (by decide), hplan, Option.bind_some, hq]
  rfl

theorem routineWordsFree_frees {c rid : Nat} (hpool : poolOfCluster s c = some (ch, p)) (hat : atInhale s = true) (hout : rid ∉ p.routines)
    (hjobs : ∀ e ∈ s.jobs, ¬ (e.2.rid = rid ∧ e.2.pool = p.id)) : routineWordsFree s c rid = setCluster s c { clusterAt s c with
      placed := (clusterAt s c).placed.filter (fun q => q.rid ≠ rid) } := by
  have hnone : s.jobs.any (fun e => e.2.rid = rid && e.2.pool = p.id) = false := List.any_eq_false.mpr fun e he h => by
    rw [Bool.and_eq_true] at h
    exact hjobs e he ⟨of_decide_eq_true h.1, of_decide_eq_true h.2⟩
  have hdropped : p.routines.contains rid = false := by
    rw [← Bool.not_eq_true, List.contains_iff_mem]
    exact hout
  unfold routineWordsFree
  rw [hpool]
  dsimp only
  rw [hat, hdropped, hnone, if_neg (by decide)]
  rfl

end

/-! #### A displaced job leaves its units -/

/-- Flushing frames writes job space alone. -/
structure Flushes (k : Nat) (s t : State) : Prop where
  rest : ∃ jobs, t = { s with jobs := jobs }
  jobs : ∀ j, tblGet s.jobs k = some j → ∃ y, tblGet t.jobs k = some { j with space := y }

theorem flushFrames_flushes (k : Nat) (s : State) (r : Nat) : Flushes k s (flushFrames s r) := by
  unfold flushFrames
  split
  · exact ⟨⟨s.jobs, rfl⟩, fun j hj => ⟨j.space, hj⟩⟩
  · next i _ =>
    refine ⟨⟨_, rfl⟩, fun j hj => ?_⟩
    by_cases hi : k = i
    · subst hi
      exact ⟨_, (modJob_at hj _).1⟩
    · exact ⟨j.space, (tblGet_mod_other _ _ _ _ hi).trans hj⟩

theorem foldl_flushFrames (k : Nat) (l : List Nat) (s : State) : Flushes k s (l.foldl flushFrames s) := by
  refine List.foldlRecOn (motive := fun t => Flushes k s t) l _ ⟨⟨s.jobs, rfl⟩, fun j hj => ⟨j.space, hj⟩⟩ fun t ht r _ => ?_
  obtain ⟨⟨jobs, rfl⟩, hjobs⟩ := ht
  obtain ⟨⟨jobs', hrest⟩, hjobs'⟩ := flushFrames_flushes k { s with jobs := jobs } r
  refine ⟨⟨jobs', hrest⟩, fun j hj => ?_⟩
  obtain ⟨y, hy⟩ := hjobs j hj
  obtain ⟨z, hz⟩ := hjobs' _ hy
  exact ⟨z, hz⟩

/-- A job that already moves is not displaced again. -/
theorem displaceJobs_moving {s : State} (f : JobUnit → Bool) {k i : Nat} {j : Job} (hj : tblGet s.jobs k = some j) (hmove : j.moveAt = some i) :
    tblGet (displaceJobs s f).jobs k = some j := by
  have hget := StepRows.tblGet_map s.jobs
    (fun j => if f j.unit && j.stage ≠ .held && j.moveAt.isNone then { j with moveAt := some s.brt.count } else j) k
  rw [hj, Option.map_some, hmove] at hget
  simp only [Option.isNone_some, Bool.and_false, Bool.false_eq_true, if_false] at hget
  exact hget

/-- A charge changes the health and the log, and displaces other jobs. -/
theorem chargeReed_moving (s : State) (r n : Nat) : (∃ jobs health mgc, chargeReed s r n = { s with jobs := jobs, health := health, mgc := mgc }) ∧
    ∀ k i j, tblGet s.jobs k = some j → j.moveAt = some i → tblGet (chargeReed s r n).jobs k = some j := by
  unfold chargeReed
  dsimp only
  split
  · unfold muteReed muteUnit
    split
    · exact ⟨⟨_, _, s.mgc, rfl⟩, fun k i j hj hmove => displaceJobs_moving _ hj hmove⟩
    · exact ⟨⟨_, _, _, rfl⟩, fun k i j hj hmove => displaceJobs_moving _ hj hmove⟩
  · exact ⟨⟨s.jobs, _, s.mgc, rfl⟩, fun k i j hj _ => hj⟩

/-- The state in which a displaced job's units are wiped. -/
def flushedUnits (s : State) (k : Nat) (j : Job) (parity : Bool) : State :=
  if parity && inReplay s k then chargeReed ((unitReeds j.unit).foldl flushFrames s) (postingReed j) k else (unitReeds j.unit).foldl flushFrames s

theorem flushedUnits_kept {s : State} {k i : Nat} {j : Job} (parity : Bool) (hj : tblGet s.jobs k = some j) (hmove : j.moveAt = some i) :
    (∃ jobs health mgc, flushedUnits s k j parity = { s with jobs := jobs, health := health, mgc := mgc }) ∧
      ∃ y, tblGet (flushedUnits s k j parity).jobs k = some { j with space := y } := by
  obtain ⟨⟨jobs, hflush⟩, hjobs⟩ := foldl_flushFrames k (unitReeds j.unit) s
  obtain ⟨y, hy⟩ := hjobs j hj
  unfold flushedUnits
  split
  · obtain ⟨⟨jobs', health, mgc, hcharge⟩, hmoving⟩ := chargeReed_moving ((unitReeds j.unit).foldl flushFrames s) (postingReed j) k
    refine ⟨⟨jobs', health, mgc, ?_⟩, y, hmoving k i _ hy hmove⟩
    rw [hcharge, hflush]
  · exact ⟨⟨jobs, s.health, s.mgc, hflush⟩, y, hy⟩

section
variable {s : State} {k i : Nat} {j : Job} {parity : Bool}

theorem displacedMove_eq (hj : tblGet s.jobs k = some j) (hmove : j.moveAt = some i) (hdue : i < s.brt.count) (hex : s.brt.exhale = false)
    (hstage : j.stage = .running ∨ j.stage = .replayWait) : displacedMove s k parity =
      modJob (wipeUnits (flushedUnits s k j parity) j) k (fun x => { x with
        stage := .displaced
        unit := .none
        moveAt := none
        replayed := x.replayed || (j.stage = .replayWait || unitMuted s j.unit || parity : Bool)
        saved := if (j.stage = .replayWait || unitMuted s j.unit || parity : Bool) then none else some (savedOf s k j) }) := by
  obtain ⟨⟨jobs, hflush⟩, -⟩ := foldl_flushFrames k (unitReeds j.unit) s
  have hguard : ¬ (s.brt.exhale || s.brt.count ≤ i || !(j.stage = .running || j.stage = .replayWait)) = true := by
    rw [hex, decide_eq_false (Nat.not_le.mpr hdue)]
    rcases hstage with h | h
    · rw [h]
      decide
    · rw [h]
      decide
  have hsaved : savedOf ((unitReeds j.unit).foldl flushFrames s) k j = savedOf s k j := by
    rw [hflush]
    rfl
  unfold displacedMove
  rw [hj]
  dsimp only
  rw [hmove]
  dsimp only
  rw [if_neg hguard, hsaved]
  rfl

theorem displacedMove_moves (hj : tblGet s.jobs k = some j) (hmove : j.moveAt = some i) (hdue : i < s.brt.count) (hex : s.brt.exhale = false)
    (hstage : j.stage = .running ∨ j.stage = .replayWait) (hsound : ∀ r ∈ unitReeds j.unit, (reedAt s r).defect = false) :
    let fresh : Bool := j.stage = .replayWait || unitMuted s j.unit || parity
    let t := displacedMove s k parity
    (∃ y, tblGet t.jobs k = some y ∧ { y with space := j.space } = { j with
      stage := .displaced
      unit := .none
      moveAt := none
      replayed := j.replayed || fresh
      saved := if fresh then none else some (savedOf s k j) }) ∧
    (∀ r ∈ unitReeds j.unit, reedAt t r = wiped s r) ∧ (∀ r, r ∉ unitReeds j.unit → reedAt t r = reedAt s r) ∧ t.waiting = s.waiting := by
  obtain ⟨⟨jobs, health, mgc, hflushed⟩, y, hy⟩ := flushedUnits_kept parity hj hmove
  obtain ⟨hreeds, hothers, hframe⟩ := PortRows.wipeUnits_sound (flushedUnits s k j parity) j (by rw [hflushed]; exact hsound)
  have hjob : tblGet (wipeUnits (flushedUnits s k j parity) j).jobs k = some { j with space := y } :=
    (congrArg (fun u : State => tblGet u.jobs k) hframe).trans hy
  have hwaiting : (wipeUnits (flushedUnits s k j parity) j).waiting = s.waiting :=
    (congrArg State.waiting hframe).trans (by rw [hflushed])
  intro fresh t
  have ht : t = _ := displacedMove_eq hj hmove hdue hex hstage
  rw [ht]
  refine ⟨⟨_, (modJob_at hjob _).1, rfl⟩, fun r hr => ?_, fun r hr => ?_, hwaiting⟩
  · refine (hreeds r hr).trans ?_
    rw [hflushed]
    rfl
  · refine (hothers r hr).trans ?_
    rw [hflushed]
    rfl

end

/-! #### Pipes -/

theorem pipeAt_modPipe {s : State} {p : Nat} (hp : p < s.bore.pipes.length) (f : Pipe → Pipe) : pipeAt (modPipe s p f) p = f (pipeAt s p) := by
  unfold pipeAt modPipe
  rw [StateFacts.getD_listMod, if_pos ⟨rfl, hp⟩]

theorem pipeAt_modPipe_other {s : State} {p q : Nat} (hq : q ≠ p) (f : Pipe → Pipe) : pipeAt (modPipe s p f) q = pipeAt s q := by
  unfold pipeAt modPipe
  rw [StateFacts.getD_listMod, if_neg fun h => hq h.1]

theorem pipeMuted_false {s : State} {p : Fin 96} (h : UnitName.pipe p ∉ s.health.muted) : pipeMuted s p.val = false := by
  refine List.any_eq_false.mpr fun u hu hp => ?_
  cases u with
  | pipe x =>
    have hx : x = p := Fin.ext (of_decide_eq_true hp)
    rw [hx] at hu
    exact h hu
  | reed r => exact Bool.false_ne_true hp
  | mau c => exact Bool.false_ne_true hp
  | bellows c b => exact Bool.false_ne_true hp

theorem groupTarget_lt {s : State} {g : PipeGroup} {q : Nat} (hq : q ∈ groupTarget s g) : q < 96 := by
  unfold groupTarget at hq
  exact List.mem_range.mp (List.mem_filter.mp hq).1

/-- A pipe that is sent to a group is in it or on its way. -/
theorem sendPipe_target {s : State} {q : Nat} (hq : q < s.bore.pipes.length) (g : PipeGroup) :
    (pipeAt (sendPipe s q g) q).next.getD (pipeAt (sendPipe s q g) q).group = g := by
  unfold sendPipe
  rw [pipeAt_modPipe hq]
  split
  · next hg => exact hg
  · rfl

/-- A refill changes the pipes and the log. -/
theorem refill_frame (s : State) (g : PipeGroup) : ∃ pipes mgc, refill s g = { s with bore := { s.bore with pipes := pipes }, mgc := mgc } ∧
    s.mgc.logSeq ≤ mgc.logSeq := by
  have hlog (n : Nat) : ∃ pipes mgc, logEvent s 0x0208 (leBytes 1 (groupCode g) ++ leBytes 1 n) =
      { s with bore := { s.bore with pipes := pipes }, mgc := mgc } ∧ s.mgc.logSeq ≤ mgc.logSeq := ⟨s.bore.pipes, _, rfl, Nat.le_succ _⟩
  unfold refill
  split
  · exact ⟨s.bore.pipes, s.mgc, rfl, Nat.le_refl _⟩
  · split
    · exact ⟨_, s.mgc, rfl, Nat.le_refl _⟩
    · split
      · exact hlog _
      · exact ⟨_, s.mgc, rfl, Nat.le_refl _⟩
    · exact hlog _

theorem refill_spare {s : State} {g : PipeGroup} {q : Nat} {rest : List Nat} (hg : g ≠ .spare) (hshort : (groupTarget s g).length < groupCount s g)
    (hspare : groupTarget s .spare = q :: rest) : refill s g = sendPipe s q g := by
  unfold refill
  rw [decide_eq_false hg, decide_eq_false (Nat.not_le.mpr hshort), if_neg (by decide), hspare]

theorem pipeMute_eq {s : State} {p : Fin 96} (hat : atInhale s = true) (hbad : 2 ≤ (pipeAt s p.val).mismatches) (hdue : (pipeAt s p.val).struck < s.brt.count)
    (hnew : UnitName.pipe p ∉ s.health.muted) : ∃ data, pipeMute s p =
      refill (logEvent { s with health := { s.health with muted := .pipe p :: s.health.muted } } 0x0206 data) ((pipeAt s p.val).next.getD (pipeAt s p.val).group) := by
  have hmute : s.health.muted.contains (UnitName.pipe p) = false := by
    rw [← Bool.not_eq_true, List.contains_iff_mem]
    exact hnew
  have hcond : (atInhale s && 2 ≤ (pipeAt s p.val).mismatches && (pipeAt s p.val).struck < s.brt.count && !pipeMuted s p.val) = true := by
    rw [hat, decide_eq_true hbad, decide_eq_true hdue, pipeMuted_false hnew]
    rfl
  refine ⟨leBytes 1 3 ++ leBytes 1 0 ++ leBytes 2 p.val ++ leBytes 1 4, ?_⟩
  unfold pipeMute
  dsimp only
  rw [if_pos hcond, muteUnit, hmute, if_neg Bool.false_ne_true]

theorem pipeMute_mutes {s : State} {p : Fin 96} (hlen : s.bore.pipes.length = 96) (hat : atInhale s = true) (hbad : 2 ≤ (pipeAt s p.val).mismatches)
    (hdue : (pipeAt s p.val).struck < s.brt.count) (hnew : UnitName.pipe p ∉ s.health.muted) : let g := (pipeAt s p.val).next.getD (pipeAt s p.val).group
    let u := { s with health := { s.health with muted := .pipe p :: s.health.muted } }
    let t := pipeMute s p
    t.health = u.health ∧ s.mgc.logSeq < t.mgc.logSeq ∧
      (g ≠ .spare → (groupTarget u g).length < groupCount s g → ∀ q rest, groupTarget u .spare = q :: rest →
        (pipeAt t q).next.getD (pipeAt t q).group = g) ∧
      { t with health := s.health, mgc := s.mgc, bore := { t.bore with pipes := s.bore.pipes } } = s := by
  obtain ⟨data, heq⟩ := pipeMute_eq hat hbad hdue hnew
  intro g u t
  obtain ⟨pipes, mgc, hframe, hseq⟩ := refill_frame (logEvent u 0x0206 data) g
  have ht : t = refill (logEvent u 0x0206 data) g := heq
  have hrefilled (hg : g ≠ .spare) (hshort : (groupTarget u g).length < groupCount s g) (q : Nat) (rest : List Nat)
      (hspare : groupTarget u .spare = q :: rest) : (pipeAt t q).next.getD (pipeAt t q).group = g := by
    have hq : q < (logEvent u 0x0206 data).bore.pipes.length :=
      (groupTarget_lt (hspare ▸ List.mem_cons_self)).trans_eq hlen.symm
    rw [ht, refill_spare (s := logEvent u 0x0206 data) hg hshort hspare]
    exact sendPipe_target hq g
  have ht' : t = _ := ht.trans hframe
  rw [ht'] at hrefilled ⊢
  refine ⟨rfl, ?_, hrefilled, rfl⟩
  exact Nat.lt_of_lt_of_le (Nat.lt_succ_self _) hseq

/-- Settles O48: control stores, displaced jobs and pipes change as a chart in force, a displacement and a mute say. -/
theorem placement : Obligations.Placement := by
  unfold Obligations.Placement
  intro s hrun
  refine ⟨fun c i ch p placed henter hdue hpool hplan => ?_, fun c rid ch p plan q hpool hadds henter hin hnew hplan hq => ?_,
    fun c rid ch p hpool hcycle hex hout hjobs => ?_, fun k j i parity hj hmove hdue hex hstage hsound => ?_, fun p hlen => ⟨fun g hnext => ?_,
      fun hcycle hex hbad hdue hnew => ?_⟩⟩
  · have hexec : exec (.clusterControlStoreLoad c) s = whenRunning s (clusterStoreLoad s c.val) := rfl
    rw [hexec, whenRunning_of _ _ hrun, clusterStoreLoad_loads henter hdue hpool hplan]
    rfl
  · have hexec : exec (.routineLoad c rid) s = whenRunning s (routineLoad s c.val rid.toNat) := rfl
    rw [hexec, whenRunning_of _ _ hrun, routineLoad_loads hpool hadds henter hin hnew hplan hq]
  · have hexec : exec (.routineWordsFree c rid) s = whenRunning s (routineWordsFree s c.val rid.toNat) := rfl
    rw [hexec, whenRunning_of _ _ hrun, routineWordsFree_frees hpool (atInhale_of hcycle hex) hout hjobs]
  · have hexec : exec (.displacedJobMove ⟨k, parity⟩) s = whenRunning s (displacedMove s k parity) := rfl
    exact does_whenRunning hexec hrun (displacedMove_moves hj hmove hdue hex hstage hsound)
  · have hexec : exec (.pipeRegroup p) s = whenRunning s (pipeJoin s p.val) := rfl
    refine does_whenRunning hexec hrun ⟨?_, fun q hq => pipeAt_modPipe_other (fun h => hq (Fin.ext h)) _, rfl⟩
    unfold pipeJoin
    rw [pipeAt_modPipe (hlen.symm ▸ p.isLt), hnext]
  · have hexec : exec (.pipeMute p) s = whenRunning s (pipeMute s p) := rfl
    exact does_whenRunning hexec hrun (pipeMute_mutes hlen (atInhale_of hcycle hex) hbad hdue hnew)

end Sys2Proof.PlacementRows


/-! ### Reservations (R227, R249 to R251, R270, R334, R434) -/

namespace Sys2Proof.JournalRows

open Sys2Proof Sys2Proof.Machine Sys2Proof.Safety Sys2Proof.Rows Sys2Proof.Laws Sys2Proof.StateFacts Sys2Proof.RingWrites Sys2Proof.LadderRows
open Sys2Proof.RandomRows

/-! #### Asking for a ceiling -/

/-- Nothing starts while a write is under way. -/
theorem journalStart_busy {s : State} (h : s.bore.journal.write.isSome = true) : journalStart s = s := by
  obtain ⟨w, hw⟩ := Option.isSome_iff_exists.mp h
  unfold journalStart
  dsimp only
  rw [hw]

/-- Nothing starts where nothing waits. -/
theorem journalStart_empty {s : State} (h : s.bore.journal.queue = []) : journalStart s = s := by
  unfold journalStart
  dsimp only
  rw [h]
  split
  · contradiction
  · rfl

theorem journalStart_starts {s : State} {f : JournalFor} {n : Nat} {rest : List (JournalFor × Nat)} (hpresent : s.bore.journal.present = true)
    (hwrite : s.bore.journal.write = none) (hqueue : s.bore.journal.queue = (f, n) :: rest) : journalStart s =
      modJournal s (fun j => { j with write := some (f, journalRecord s (journalSubject s f).1 (nextSequence s) (journalSubject s f).2 n), queue := rest }) := by
  unfold journalStart
  dsimp only
  rw [hwrite, hqueue]
  dsimp only
  rw [hpresent, if_neg (by decide)]

/-- A journal start changes the journal alone. -/
theorem journalStart_frame (s : State) : ∃ journal, journalStart s = { s with bore := { s.bore with journal := journal } } := by
  unfold journalStart
  dsimp only
  split
  · split
    · exact ⟨s.bore.journal, rfl⟩
    · exact ⟨_, rfl⟩
  · exact ⟨s.bore.journal, rfl⟩

theorem journalAsk_frame (s : State) (f : JournalFor) (n : Nat) : ∃ journal, journalAsk s f n = { s with bore := { s.bore with journal := journal } } := by
  obtain ⟨journal, h⟩ := journalStart_frame (modJournal s (fun j => { j with queue := j.queue ++ [(f, n)] }))
  exact ⟨journal, h⟩

theorem journalKey_congr {s u : State} (hdcr : u.wch.dcr = s.wch.dcr) : journalKey u = journalKey s := by
  unfold journalKey
  rw [hdcr]

theorem journalMacOk_congr {s u : State} (hdcr : u.wch.dcr = s.wch.dcr) : journalMacOk u = journalMacOk s := by
  funext r
  unfold journalMacOk
  rw [journalKey_congr hdcr]

/-- The next SEQUENCE depends on the journal's sectors alone. -/
theorem nextSequence_congr {s u : State} (hdcr : u.wch.dcr = s.wch.dcr) (hsectors : u.bore.journal.sectors = s.bore.journal.sectors) :
    nextSequence u = nextSequence s := by
  have hvalid : validRecords u = validRecords s := by
    unfold validRecords
    rw [journalMacOk_congr hdcr, hsectors]
  unfold nextSequence
  rw [hvalid]

/-- A ceiling that is asked for is written at once where the journal is free, else it waits its turn. -/
theorem journalAsk_journalled {s u : State} {f : JournalFor} {n typ : Nat} {subject : Bytes} (hjournal : u.bore.journal = s.bore.journal)
    (hdcr : u.wch.dcr = s.wch.dcr) (hsubject : ∀ j, journalSubject (modJournal u j) f = (typ, subject)) :
    Journalled s (journalAsk u f n) f typ subject n := by
  have hasked (g : Journal → Journal) : (modJournal u g).bore.journal = g s.bore.journal := congrArg g hjournal
  unfold journalAsk
  refine ⟨fun hpresent hwrite hqueue => ?_, fun hwrite => ?_⟩
  · rw [journalStart_starts (f := f) (n := n) (rest := []) (by rw [hasked]; exact hpresent) (by rw [hasked]; exact hwrite)
      (by rw [hasked]; exact congrArg (· ++ [(f, n)]) hqueue), hsubject,
      nextSequence_congr (s := s) (by exact hdcr) (by rw [hasked])]
    unfold journalRecord journalHead
    rw [journalKey_congr (s := s) (by exact hdcr)]
    have htwice (g g' : Journal → Journal) : (modJournal (modJournal u g) g').bore.journal = g' (g s.bore.journal) := congrArg (g' ∘ g) hjournal
    refine (htwice _ _).trans ?_
    rw [← hqueue]
  · rw [journalStart_busy (by rw [hasked]; exact hwrite), hasked]

/-- On a pair whose link is up the ask is a record to the twin. -/
theorem mirror_queued {s : State} (hrole : s.twn.role = 1) (hlink : s.twn.linkKey.isSome = true) (hlive : s.brt.count < s.twn.lastRecord + 16)
    (kind : Nat) (body : Bytes) : mirror s kind body = { s with twn := { s.twn with toSend := s.twn.toSend ++ [(kind, body)] } } := by
  unfold mirror
  rw [if_pos ((CommandRows.mirrors_iff s).mpr ⟨hrole, hlink, hlive⟩)]
  rfl

theorem onPair_of {s : State} (h : s.twn.role = 1) : onPair s = true := decide_eq_true h

theorem onPair_not {s : State} (h : s.twn.role ≠ 1) : onPair s = false := decide_eq_false h

section
variable {s : State}

theorem serialReserve_reserves (hmember : s.dom.member.isSome = true) (hblocked : s.bore.serials.blocked = false)
    (hnone : s.bore.serials.reserving = none) (hlow : s.bore.serials.ceiling - s.bore.serials.next ≤ 2 ^ 18)
    (hend : s.bore.serials.ceiling < 2 ^ 46) : let x := s.bore.serials
    let t := serialReserve s
    t.bore.serials = { x with reserving := some (x.ceiling + 2 ^ 20) } ∧
      Journalled s t .serial 1 (leBytes 16 (s.dom.member.getD 0)) (x.ceiling + 2 ^ 20) ∧
      { t with bore := { t.bore with serials := s.bore.serials, journal := s.bore.journal } } = s := by
  intro x t
  have hready : serialsReady s = true := by
    unfold serialsReady
    rw [hmember, hblocked]
    rfl
  have ht : t = journalAsk (modBore s (fun b => { b with serials := { b.serials with reserving := some (x.ceiling + 2 ^ 20) } })) .serial (x.ceiling + 2 ^ 20) := by
    show serialReserve s = _
    unfold serialReserve
    dsimp only
    rw [hready, hnone, decide_eq_true hlow, serialEnd, decide_eq_true hend]
    rfl
  obtain ⟨journal, hframe⟩ := journalAsk_frame (modBore s (fun b => { b with serials := { b.serials with reserving := some (x.ceiling + 2 ^ 20) } }))
    .serial (x.ceiling + 2 ^ 20)
  have hjournalled : Journalled s t .serial 1 (leBytes 16 (s.dom.member.getD 0)) (x.ceiling + 2 ^ 20) := by
    rw [ht]
    exact journalAsk_journalled rfl rfl fun _ => rfl
  have ht' := ht.trans hframe
  rw [ht'] at hjournalled ⊢
  exact ⟨rfl, hjournalled, rfl⟩

theorem tblGet_modStream {sid : Nat} {x : Stream} (hx : tblGet s.bore.streams sid = some x) (f : Stream → Stream) :
    tblGet (modStream s sid f).bore.streams sid = some (f x) ∧
      ∀ k, k ≠ sid → tblGet (modStream s sid f).bore.streams k = tblGet s.bore.streams k := by
  refine ⟨?_, fun k hk => tblGet_mod_other _ _ _ _ hk⟩
  have hget := tblGet_mod_same s.bore.streams sid f
  rw [hx] at hget
  exact hget

theorem counterReserve_reserves {sid : Nat} {x : Stream} (hx : tblGet s.bore.streams sid = some x) (hcls : x.cls = .transit)
    (hrecv : x.receive = false) (hnone : x.reserving = none) (hlow : x.ceiling - x.counter ≤ 2 ^ 14) (hend : x.ceiling < 2 ^ 36) :
    let n := min (2 ^ 36) (x.ceiling + 2 ^ 16)
    let t := counterReserve s sid
    tblGet t.bore.streams sid = some { x with reserving := some n } ∧ (∀ k, k ≠ sid → tblGet t.bore.streams k = tblGet s.bore.streams k) ∧
      (s.twn.role ≠ 1 → Journalled s t (.counter sid x.epoch) 2 (padTo 16 (x.linkId ++ leBytes 4 x.epoch)) n) ∧
      (s.twn.role = 1 → s.twn.linkKey.isSome = true → s.brt.count < s.twn.lastRecord + 16 →
        t.twn.toSend = s.twn.toSend ++ [(8, counterBody sid x.epoch n)] ∧ t.bore.journal = s.bore.journal) := by
  intro n t
  have hguard : (x.cls = .transit && !x.receive && x.reserving.isNone && x.ceiling - x.counter ≤ 2 ^ 14 && x.ceiling < epochFrames : Bool) = true := by
    rw [hcls, hrecv, hnone, decide_eq_true hlow, epochFrames, decide_eq_true hend]
    rfl
  have ht : t = if onPair s then mirror (modStream s sid (fun y => { y with reserving := some n })) recReserve (counterBody sid x.epoch n)
      else journalAsk (modStream s sid (fun y => { y with reserving := some n })) (.counter sid x.epoch) n := by
    show counterReserve s sid = _
    unfold counterReserve
    rw [hx]
    dsimp only
    rw [if_pos hguard]
    rfl
  obtain ⟨hat, hothers⟩ := tblGet_modStream hx (fun y => { y with reserving := some n })
  by_cases hrole : s.twn.role = 1
  · rw [onPair_of hrole, if_pos rfl] at ht
    obtain ⟨twn, hmirror⟩ := mirror_twin (modStream s sid (fun y => { y with reserving := some n })) recReserve (counterBody sid x.epoch n)
    have hqueued (hlink : s.twn.linkKey.isSome = true) (hlive : s.brt.count < s.twn.lastRecord + 16) :
        t.twn.toSend = s.twn.toSend ++ [(8, counterBody sid x.epoch n)] ∧ t.bore.journal = s.bore.journal := by
      rw [ht, mirror_queued (s := modStream s sid (fun y => { y with reserving := some n })) hrole hlink hlive]
      exact ⟨rfl, rfl⟩
    have ht' := ht.trans hmirror
    rw [ht'] at hqueued ⊢
    exact ⟨hat, hothers, fun hno => absurd hrole hno, fun _ => hqueued⟩
  · rw [onPair_not hrole, if_neg Bool.false_ne_true] at ht
    obtain ⟨journal, hframe⟩ := journalAsk_frame (modStream s sid (fun y => { y with reserving := some n })) (.counter sid x.epoch) n
    have hjournalled : Journalled s t (.counter sid x.epoch) 2 (padTo 16 (x.linkId ++ leBytes 4 x.epoch)) n := by
      rw [ht]
      refine journalAsk_journalled rfl rfl fun j => ?_
      have hstream : tblGet (modJournal (modStream s sid (fun y => { y with reserving := some n })) j).bore.streams sid = _ := hat
      unfold journalSubject
      dsimp only
      rw [hstream]
    have ht' := ht.trans hframe
    rw [ht'] at hjournalled ⊢
    exact ⟨hat, hothers, fun _ => hjournalled, fun hyes => absurd hyes hrole⟩

/-! #### Stateful keys -/

/-- A change of the key with a public value is a change of the first one with it. -/
theorem statefulOf_modStateful {pub : Bytes} {x : Stateful} (hx : statefulOf s pub = some x) (f : Stateful → Stateful) (hf : ∀ y, (f y).pub = y.pub) :
    statefulOf (modStateful s pub f) pub = some (f x) := by
  unfold statefulOf at hx
  show (s.wch.stateful.map (fun k => if k.pub = pub then f k else k)).find? (fun k => k.pub = pub) = _
  rw [List.find?_map]
  have hsame : ((fun k : Stateful => decide (k.pub = pub)) ∘ fun k => if k.pub = pub then f k else k) = fun k => decide (k.pub = pub) := by
    funext k
    simp only [Function.comp]
    split
    · next hk => rw [hf]
    · rfl
  have hpub : x.pub = pub := of_decide_eq_true (List.find?_some hx :)
  rw [hsame, hx, Option.map_some, if_pos hpub]

/-- The first key with its public value is the one it names. -/
theorem statefulOf_first {k : Nat} {x : Stateful} (hx : s.wch.stateful[k]? = some x)
    (hfirst : ∀ i, i < k → ∀ y, s.wch.stateful[i]? = some y → y.pub ≠ x.pub) : statefulOf s x.pub = some x := by
  obtain ⟨hlt, hget⟩ := List.getElem?_eq_some_iff.mp hx
  refine List.find?_eq_some_iff_getElem.mpr ⟨decide_eq_true rfl, k, hlt, hget, fun i hi => ?_⟩
  have hne := hfirst i hi s.wch.stateful[i] (List.getElem?_eq_getElem (hi.trans hlt))
  rw [decide_eq_false hne]
  rfl

theorem leafReserve_reserves {k : Nat} {x : Stateful} {c : Nat} (hx : s.wch.stateful[k]? = some x)
    (hfirst : ∀ i, i < k → ∀ y, s.wch.stateful[i]? = some y → y.pub ≠ x.pub) (hc : x.ceiling = some c) (hnone : x.reserving = none)
    (hlow : c - x.counter ≤ 16) (hend : c < totalLeaves x) : let t := leafReserve s k
    statefulOf t x.pub = some { x with reserving := some (c + 64) } ∧
      (s.twn.role ≠ 1 → Journalled s t (.leaf x.pub) 3 ((sha3_256 x.pub).take 16) (c + 64)) ∧
      (s.twn.role = 1 → s.twn.linkKey.isSome = true → s.brt.count < s.twn.lastRecord + 16 →
        t.twn.toSend = s.twn.toSend ++ [(8, leafBody x.pub (c + 64))] ∧ t.bore.journal = s.bore.journal) := by
  intro t
  have ht : t = if onPair s then mirror (modStateful s x.pub (fun y => { y with reserving := some (c + 64) })) recReserve (leafBody x.pub (c + 64))
      else journalAsk (modStateful s x.pub (fun y => { y with reserving := some (c + 64) })) (.leaf x.pub) (c + 64) := by
    show leafReserve s k = _
    unfold leafReserve
    rw [hx]
    dsimp only
    rw [hc]
    dsimp only
    rw [hnone, decide_eq_true hlow, decide_eq_true hend, if_pos (by decide)]
    rfl
  have hat := statefulOf_modStateful (statefulOf_first hx hfirst) (fun y => { y with reserving := some (c + 64) }) fun _ => rfl
  by_cases hrole : s.twn.role = 1
  · rw [onPair_of hrole, if_pos rfl] at ht
    obtain ⟨twn, hmirror⟩ := mirror_twin (modStateful s x.pub (fun y => { y with reserving := some (c + 64) })) recReserve (leafBody x.pub (c + 64))
    have hqueued (hlink : s.twn.linkKey.isSome = true) (hlive : s.brt.count < s.twn.lastRecord + 16) :
        t.twn.toSend = s.twn.toSend ++ [(8, leafBody x.pub (c + 64))] ∧ t.bore.journal = s.bore.journal := by
      rw [ht, mirror_queued (s := modStateful s x.pub (fun y => { y with reserving := some (c + 64) })) hrole hlink hlive]
      exact ⟨rfl, rfl⟩
    have ht' := ht.trans hmirror
    rw [ht'] at hqueued ⊢
    exact ⟨hat, fun hno => absurd hrole hno, fun _ => hqueued⟩
  · rw [onPair_not hrole, if_neg Bool.false_ne_true] at ht
    obtain ⟨journal, hframe⟩ := journalAsk_frame (modStateful s x.pub (fun y => { y with reserving := some (c + 64) })) (.leaf x.pub) (c + 64)
    have hjournalled : Journalled s t (.leaf x.pub) 3 ((sha3_256 x.pub).take 16) (c + 64) := by
      rw [ht]
      exact journalAsk_journalled rfl rfl fun _ => rfl
    have ht' := ht.trans hframe
    rw [ht'] at hjournalled ⊢
    exact ⟨hat, fun _ => hjournalled, fun hyes => absurd hyes hrole⟩

/-! #### A write ends -/

theorem confirmCeiling_journal (s : State) (f : JournalFor) (n : Nat) : (confirmCeiling s f n).bore.journal = s.bore.journal := by
  unfold confirmCeiling
  cases f with
  | serial => dsimp only; split <;> rfl
  | counter sid e => rfl
  | leaf pub => rfl

theorem dropReserving_journal (s : State) (f : JournalFor) :
    (dropReserving s f).bore.journal = s.bore.journal ∧ (dropReserving s f).mgc = s.mgc := by
  unfold dropReserving
  cases f <;> exact ⟨rfl, rfl⟩

theorem confirmCeiling_serial (s : State) (n : Nat) : (confirmCeiling s .serial n).bore.serials =
      { s.bore.serials with ceiling := max s.bore.serials.ceiling n, reserving := none } ∧
    (2 ^ 46 ≤ n → s.mgc.logSeq < (confirmCeiling s .serial n).mgc.logSeq) := by
  unfold confirmCeiling
  dsimp only
  split
  · exact ⟨rfl, fun _ => Nat.lt_succ_self _⟩
  · next hlow => exact ⟨rfl, fun hend => absurd hend hlow⟩

/-- A confirmed leaf ceiling is in force for the first key with the public value. -/
theorem confirmCeiling_leaf {pub : Bytes} {x : Stateful} (hx : statefulOf s pub = some x) (n : Nat) :
    statefulOf (confirmCeiling s (.leaf pub) n) pub = some { x with ceiling := some (max (x.ceiling.getD 0) n), reserving := none } :=
  statefulOf_modStateful (s := putCeiling s pub n) hx (fun k => { k with ceiling := some (max (k.ceiling.getD 0) n), reserving := none }) fun _ => rfl

/-- A write that ends with nothing waiting starts no other. -/
theorem journalDone_idle {f : JournalFor} {r : Bytes} (hwrite : s.bore.journal.write = some (f, r)) (hqueue : s.bore.journal.queue = []) (ok : Bool) :
    let u := modJournal s (fun j => { j with write := none, sectors := if ok then appendRecord r j.sectors else j.sectors })
    journalDone s ok = if ok then confirmCeiling u f (le r 24 8) else dropReserving u f := by
  intro u
  have hstep : journalDone s ok = journalStart (if ok then confirmCeiling u f (le r 24 8) else dropReserving u f) := by
    unfold journalDone
    rw [hwrite]
  rw [hstep]
  refine journalStart_empty ?_
  cases ok with
  | true => exact (congrArg Journal.queue (confirmCeiling_journal u f _)).trans hqueue
  | false => exact (congrArg Journal.queue (dropReserving_journal u f).1).trans hqueue

/-! #### Compaction -/

theorem keccakRound_length (a : Lanes) (rc : BitVec 64) : (keccakRound a rc).length = 25 := by
  unfold keccakRound
  have hchi : (keccakChi (keccakRhoPi (keccakTheta a))).length = 25 := by
    unfold keccakChi
    rw [List.length_map, List.length_range]
  cases hlanes : keccakChi (keccakRhoPi (keccakTheta a)) with
  | nil =>
    rw [hlanes] at hchi
    cases hchi
  | cons l ls =>
    rw [hlanes] at hchi
    exact hchi

theorem keccakF_length {a : Lanes} (h : a.length = 25) : (keccakF a).length = 25 :=
  List.foldlRecOn (motive := fun b : Lanes => b.length = 25) keccakRC _ h fun b _ rc _ => keccakRound_length b rc

theorem keccakAbsorb_length (rate : Nat) (msg : Bytes) : (keccakAbsorb rate msg).length = 25 := by
  refine List.foldlRecOn (motive := fun b : Lanes => b.length = 25) (chunks rate msg) _ rfl fun b _ blk _ => keccakF_length ?_
  unfold keccakXor
  rw [List.length_map, List.length_range]

theorem lanes_bytes_length (a : Lanes) : ((a.map (fun l => leBytes 8 l.toNat)).flatten).length = 8 * a.length := by
  induction a with
  | nil => rfl
  | cons l ls ih => rw [List.map_cons, List.flatten_cons, List.length_append, ReedRows.length_leBytes, ih, List.length_cons]; omega

/-- A MAC of the journal has 16 bytes. -/
theorem kmac256_length (k x s : Bytes) : (kmac256 k x 16 s).length = 16 := by
  have hsponge (msg : Bytes) : (sponge 136 0x04 msg 16).length = 16 := by
    have hbytes := lanes_bytes_length (keccakAbsorb 136 (keccakPad 136 0x04 msg))
    rw [keccakAbsorb_length] at hbytes
    have hblocks : ceilDiv 16 136 = 1 := by decide
    unfold sponge
    rw [hblocks, keccakSqueeze, keccakSqueeze, List.append_nil, List.length_take, List.length_take, hbytes]
    rfl
  exact hsponge _

theorem slice_middle (a b c : Bytes) {off n : Nat} (ha : a.length = off) (hb : b.length = n) : slice (a ++ (b ++ c)) off n = b := by
  unfold slice
  rw [← ha, ← hb, List.drop_left, List.take_left]

/-- A number within bytes reads as it was written. -/
theorem le_middle (a c : Bytes) {off n x : Nat} (ha : a.length = off) (hx : x < 256 ^ n) : le (a ++ (leBytes n x ++ c)) off n = x := by
  unfold le
  rw [slice_middle a (leBytes n x) c ha (ReedRows.length_leBytes n x), CompletionRows.leNat_leBytes, Nat.mod_eq_of_lt hx]

/-- The head of a record has 48 bytes. -/
theorem journalHead_length (typ seq ceiling : Nat) {subject : Bytes} (h : subject.length = 16) : (journalHead typ seq subject ceiling).length = 48 := by
  unfold journalHead
  simp only [List.length_append, ReedRows.length_leBytes, zeros, List.length_replicate, h]

/-- A journalled record tells its type, its subject and its ceiling, under a MAC that verifies. -/
theorem journalRecord_fields (s : State) (typ seq ceiling : Nat) {subject : Bytes} (hsubject : subject.length = 16) (htyp : typ < 2 ^ 16)
    (hceiling : ceiling < 2 ^ 64) : let r := journalRecord s typ seq subject ceiling
    journalMacOk s r = true ∧ le r 0 2 = typ ∧ slice r 8 16 = subject ∧ le r 24 8 = ceiling := by
  intro r
  have hlen := journalHead_length typ seq ceiling hsubject
  refine ⟨?_, ?_, ?_, ?_⟩
  · unfold journalMacOk
    show decide ((journalHead typ seq subject ceiling ++ _).drop 48 = kmac256 _ ((journalHead typ seq subject ceiling ++ _).take 48) 16 []) = true
    rw [← hlen, List.drop_left, List.take_left]
    exact decide_eq_true rfl
  · have hr : r = [] ++ (leBytes 2 typ ++ (zeros 2 ++ leBytes 4 seq ++ subject ++ leBytes 8 ceiling ++ zeros 16 ++
        kmac256 (journalKey s) (journalHead typ seq subject ceiling) 16 [])) := by
      show journalHead typ seq subject ceiling ++ _ = _
      simp only [journalHead, List.append_assoc, List.nil_append]
    rw [hr]
    exact le_middle _ _ rfl htyp
  · have hr : r = (leBytes 2 typ ++ zeros 2 ++ leBytes 4 seq) ++ (subject ++ (leBytes 8 ceiling ++ zeros 16 ++
        kmac256 (journalKey s) (journalHead typ seq subject ceiling) 16 [])) := by
      show journalHead typ seq subject ceiling ++ _ = _
      simp only [journalHead, List.append_assoc]
    rw [hr]
    exact slice_middle _ _ _ (by simp only [List.length_append, ReedRows.length_leBytes, zeros, List.length_replicate]) hsubject
  · have hr : r = (leBytes 2 typ ++ zeros 2 ++ leBytes 4 seq ++ subject) ++ (leBytes 8 ceiling ++ (zeros 16 ++
        kmac256 (journalKey s) (journalHead typ seq subject ceiling) 16 [])) := by
      show journalHead typ seq subject ceiling ++ _ = _
      simp only [journalHead, List.append_assoc]
    rw [hr]
    exact le_middle _ _ (by simp only [List.length_append, ReedRows.length_leBytes, zeros, List.length_replicate, hsubject]) hceiling

/-- A record whose MAC verifies has a whole subject. -/
theorem subject_length {s : State} {r : Bytes} (h : journalMacOk s r = true) : (slice r 8 16).length = 16 := by
  have hmac : r.drop 48 = kmac256 (journalKey s) (r.take 48) 16 [] := of_decide_eq_true h
  have hlen := congrArg List.length hmac
  rw [kmac256_length, List.length_drop] at hlen
  unfold slice
  rw [List.length_take, List.length_drop]
  omega

theorem le_lt (r : Bytes) (off n : Nat) : le r off n < 256 ^ n := by
  have hlt := ReedRows.leNat_lt (slice r off n)
  have hlen : (slice r off n).length ≤ n := by
    unfold slice
    rw [List.length_take]
    exact Nat.min_le_left _ _
  rw [show (256 : Nat) ^ n = 2 ^ (8 * n) by rw [show (256 : Nat) = 2 ^ 8 from rfl, ← Nat.pow_mul]]
  exact hlt.trans_le (Nat.pow_le_pow_right (by decide) (by omega))

/-- An appended record is the last of the journal; the oldest of two or more sectors stays. -/
theorem appendRecord_appends (r : Bytes) (a b : List Bytes) (rest : List (List Bytes)) :
    ∃ c rest', appendRecord r (a :: b :: rest) = a :: c :: rest' ∧ (c :: rest').flatten = (b :: rest).flatten ++ [r] := by
  have hlast : (a :: b :: rest).getLast? = some ((b :: rest).getLast (List.cons_ne_nil _ _)) := by
    rw [List.getLast?_cons_cons, List.getLast?_eq_some_getLast]
  unfold appendRecord
  rw [hlast]
  dsimp only
  split
  · obtain ⟨c, rest', hrest⟩ := List.exists_cons_of_ne_nil
      (List.append_ne_nil_of_right_ne_nil (b :: rest).dropLast (List.cons_ne_nil ((b :: rest).getLast (List.cons_ne_nil _ _) ++ [r]) []))
    refine ⟨c, rest', ?_, ?_⟩
    · rw [List.dropLast_cons_cons, List.cons_append, hrest]
    · rw [← hrest, List.flatten_append, List.flatten_singleton, ← List.append_assoc]
      conv_rhs => rw [← List.dropLast_append_getLast (List.cons_ne_nil b rest)]
      rw [List.flatten_append, List.flatten_singleton]
  · exact ⟨b, rest ++ [[r]], rfl, by simp⟩

/-- Recopying a list of records of the oldest sector adds to the journal's end records that tell the same. -/
theorem recopies {oldest : List Bytes} (l : List Bytes) (hl : ∀ r ∈ l, r ∈ oldest ∧ journalMacOk s r = true) {u : State} {a b : List Bytes}
    {rest : List (List Bytes)} (hdcr : u.wch.dcr = s.wch.dcr) (hsectors : u.bore.journal.sectors = a :: b :: rest) :
    ∃ journal c rest' extra, l.foldl recopy u = { u with bore := { u.bore with journal := journal } } ∧ journal.sectors = a :: c :: rest' ∧
      (c :: rest').flatten = (b :: rest).flatten ++ extra ∧ ∀ r ∈ extra, journalMacOk s r = true ∧ ∃ q ∈ oldest, journalMacOk s q = true ∧
        le q 0 2 = le r 0 2 ∧ slice q 8 16 = slice r 8 16 ∧ le q 24 8 = le r 24 8 := by
  induction l generalizing u b rest with
  | nil => exact ⟨u.bore.journal, b, rest, [], rfl, hsectors, by rw [List.append_nil], nofun⟩
  | cons q l ih =>
    obtain ⟨hq, hmac⟩ := hl q List.mem_cons_self
    obtain ⟨c, rest', happend, hflat⟩ := appendRecord_appends (journalRecord u (le q 0 2) (nextSequence u) (slice q 8 16) (le q 24 8)) a b rest
    have hnew : (recopy u q).bore.journal.sectors = a :: c :: rest' := by
      rw [← happend, ← hsectors]
      rfl
    obtain ⟨journal, c', rest'', extra, hfold, hjournal, hflat', hextra⟩ := ih (fun r hr => hl r (List.mem_cons_of_mem _ hr)) (u := recopy u q) hdcr hnew
    obtain ⟨hmacNew, htyp, hsubject, hceiling⟩ := journalRecord_fields u (le q 0 2) (nextSequence u) (le q 24 8) (subject_length hmac) (le_lt q 0 2) (le_lt q 24 8)
    rw [journalMacOk_congr hdcr] at hmacNew
    refine ⟨journal, c', rest'', journalRecord u (le q 0 2) (nextSequence u) (slice q 8 16) (le q 24 8) :: extra, hfold, hjournal, ?_, fun r hr => ?_⟩
    · rw [hflat', hflat, List.append_assoc, List.singleton_append]
    · rcases List.mem_cons.mp hr with rfl | hr
      · exact ⟨hmacNew, q, hq, hmac, htyp.symm, hsubject.symm, hceiling.symm⟩
      · exact hextra r hr

theorem newestBySubject_mem {l : List Bytes} {r : Bytes} (h : r ∈ newestBySubject l) : r ∈ l := by
  induction l with
  | nil => exact h
  | cons q l ih =>
    unfold newestBySubject at h
    dsimp only at h
    split at h
    · exact List.mem_cons_of_mem _ (ih h)
    · rcases List.mem_cons.mp h with rfl | h
      · exact List.mem_cons_self
      · exact List.mem_cons_of_mem _ (ih h)

theorem journalCompact_compacts {oldest : List Bytes} {rest : List (List Bytes)} (hsectors : s.bore.journal.sectors = oldest :: rest)
    (hfull : 63 ≤ (oldest :: rest).length) (hidle : s.bore.journal.write = none) : let t := journalCompact s
    (∃ extra, t.bore.journal.sectors.flatten = rest.flatten ++ extra ∧ ∀ r ∈ extra, journalMacOk s r = true ∧ ∃ q ∈ oldest,
      journalMacOk s q = true ∧ le q 0 2 = le r 0 2 ∧ slice q 8 16 = slice r 8 16 ∧ le q 24 8 = le r 24 8) ∧
      { t with bore := { t.bore with journal := s.bore.journal } } = s := by
  let kept := (newestBySubject (oldest.filter (journalMacOk s))).filter (fun r => !rest.flatten.any (fun q =>
    journalMacOk s q && le q 0 2 = le r 0 2 && slice q 8 16 = slice r 8 16))
  have hkept : ∀ r ∈ kept, r ∈ oldest ∧ journalMacOk s r = true := fun r hr =>
    List.mem_filter.mp (newestBySubject_mem (List.mem_filter.mp hr).1)
  have ht : journalCompact s = modJournal (kept.foldl recopy s) (fun j => { j with sectors := j.sectors.drop 1 }) := by
    unfold journalCompact
    rw [hsectors]
    dsimp only
    rw [decide_eq_true hfull, hidle]
    rfl
  intro t
  cases rest with
  | nil => exact absurd (List.length_singleton ▸ hfull : 63 ≤ 1) (by decide)
  | cons b rest =>
    obtain ⟨journal, c, rest', extra, hfold, hjournal, hflat, hextra⟩ := recopies kept hkept (u := s) rfl hsectors
    have ht' : t = _ := ht.trans (congrArg (modJournal · _) hfold)
    rw [ht']
    refine ⟨⟨extra, ?_, hextra⟩, rfl⟩
    show (journal.sectors.drop 1).flatten = _
    rw [hjournal]
    exact hflat

end

/-- Settles O49: ceilings are asked for, journalled, confirmed or dropped, and the journal keeps what its oldest sector alone tells. -/
theorem reservations : Obligations.Reservations := by
  unfold Obligations.Reservations
  intro s hrun
  refine ⟨fun hmember hblocked hnone => ?_, fun sid x hx hcls hrecv hnone hlow hend => ?_,
    fun k x c hx hfirst hc hnone hlow hend => ?_, fun f r hwrite hqueue => ?_, fun oldest rest hsectors hfull hidle => ?_⟩
  · have hexec : exec .serialReserve s = whenRunning s (serialReserve s) := rfl
    intro x hlow hend
    exact does_whenRunning hexec hrun (serialReserve_reserves hmember hblocked hnone hlow hend)
  · have hexec : exec (.counterReserve sid) s = whenRunning s (counterReserve s sid) := rfl
    exact does_whenRunning hexec hrun (counterReserve_reserves hx hcls hrecv hnone hlow hend)
  · have hexec : exec (.leafReserve k) s = whenRunning s (leafReserve s k) := rfl
    exact does_whenRunning hexec hrun (leafReserve_reserves hx hfirst hc hnone hlow hend)
  · intro n
    refine ⟨?_, ?_⟩
    · have hexec : exec (.journalWriteDone true) s = whenRunning s (journalDone s true) := rfl
      refine does_whenRunning hexec hrun ?_
      rw [journalDone_idle hwrite hqueue true, if_pos rfl]
      refine ⟨confirmCeiling_journal _ _ _, fun hf => ?_, fun sid e x hf hx => ?_, fun pub x hf hx => ?_⟩
      · rw [hf]
        exact confirmCeiling_serial _ _
      · rw [hf]
        exact (tblGet_modStream (s := modJournal s _) hx _).1
      · rw [hf]
        exact confirmCeiling_leaf hx n
    · have hexec : exec (.journalWriteDone false) s = whenRunning s (journalDone s false) := rfl
      refine does_whenRunning hexec hrun ?_
      rw [journalDone_idle hwrite hqueue false, if_neg Bool.false_ne_true]
      refine ⟨(dropReserving_journal _ _).1, fun hf => ?_, (dropReserving_journal _ _).2⟩
      rw [hf]
      rfl
  · have hexec : exec .journalCompact s = whenRunning s (journalCompact s) := rfl
    exact does_whenRunning hexec hrun (journalCompact_compacts hsectors hfull hidle)

end Sys2Proof.JournalRows


/-! ### The digest port (R359 to R363) -/

namespace Sys2Proof.DigestRows

open Sys2Proof Sys2Proof.Machine Sys2Proof.Safety Sys2Proof.Rows Sys2Proof.Laws Sys2Proof.StateFacts Sys2Proof.RingWrites Sys2Proof.LadderRows

section
variable {s : State} {a : DgpAgent} {c : Nat}

/-- A change of one context of the sixteen leaves the others. -/
theorem onlyDgp_modDgp (hc : c < s.dgp.length) (f : Dgp → Dgp) : OnlyDgp s (modDgp s c f) c (f (dgpAt s c)) := by
  refine ⟨?_, fun k hk => ?_, rfl⟩
  · unfold dgpAt modDgp
    rw [StateFacts.getD_listMod, if_pos ⟨rfl, hc⟩]
  · unfold dgpAt modDgp
    rw [StateFacts.getD_listMod, if_neg fun h => hk h.1]

/-- What an agent that may write does. -/
theorem dgpWhen_may (h : DgpMay s a) (t : State) : dgpWhen s a t = .next t := by
  cases a with
  | pf p =>
    obtain ⟨hrun, hformed⟩ := h
    show whenRunning s (if (portAt s p.val).formed = true then t else s) = _
    rw [if_pos hformed]
    exact whenRunning_of _ _ hrun
  | mgmt =>
    show (Host.Outcome.next (if isLive s then t else s) : Host.Outcome State Fault Refusal) = _
    rw [show isLive s = true from h, if_pos rfl]

/-- An owner's write changes its context alone. -/
theorem owner_writes {x : Instr} {f : Dgp → Dgp} (hexec : exec x s = dgpWhen s a (dgpOwned s a c f)) (hmay : DgpMay s a)
    (howner : (dgpAt s c).owner = some a) (hc : c < s.dgp.length) : Does x s (fun t => OnlyDgp s t c (f (dgpAt s c))) := by
  refine ⟨modDgp s c f, ?_, onlyDgp_modDgp hc f⟩
  rw [hexec, dgpWhen_may hmay, dgpOwned, if_pos howner]

theorem live_writes {x : Instr} {f : Dgp → Dgp} (hexec : exec x s = whenLive s (modDgp s c f)) (hlive : isLive s = true) (hc : c < s.dgp.length) :
    Does x s (fun t => OnlyDgp s t c (f (dgpAt s c))) := by
  refine ⟨modDgp s c f, ?_, onlyDgp_modDgp hc f⟩
  rw [hexec, whenLive, hlive, if_pos rfl]

end

/-! #### INIT -/

theorem dgpCtrl_fields (v : Nat) : bitsOf v 3 0 = v % 2 ^ 4 ∧ bitsOf v 14 8 = v / 2 ^ 8 % 2 ^ 7 ∧ bitsOf v 19 18 = v / 2 ^ 18 % 4 := by
  refine ⟨?_, rfl, rfl⟩
  unfold bitsOf
  rw [Nat.pow_zero, Nat.div_one]

theorem dgpAlgOk_of {alg : Nat} (hlo : 1 ≤ alg) (hhi : alg ≤ 8) : dgpAlgOk alg = true := decide_eq_true ⟨hlo, hhi⟩

/-- The KEYPAD field of a write, which only contexts 0 to 3 have. -/
def keypadOf (mgmtCtx : Bool) (v : Nat) : Nat := if mgmtCtx then v / 2 ^ 18 % 4 else 0

section
variable {d : Dgp} {mgmtCtx : Bool} {ka : Bytes} {v : Nat}

theorem dgpSetCtrl_eq (d : Dgp) (mgmtCtx : Bool) (v : Nat) : dgpSetCtrl d mgmtCtx v =
    { d with alg := v % 2 ^ 4, outLen := v / 2 ^ 8 % 2 ^ 7, keypad := keypadOf mgmtCtx v } := by
  obtain ⟨halg, hlen, hpad⟩ := dgpCtrl_fields v
  unfold dgpSetCtrl keypadOf
  rw [halg, hlen, hpad]

/-- INIT without a keypad starts an empty job. -/
theorem dgpInitOp_plain (hlo : 1 ≤ v % 2 ^ 4) (hhi : v % 2 ^ 4 ≤ 8) (hkey : ¬ (keypadOf mgmtCtx v = 1 ∨ keypadOf mgmtCtx v = 2)) :
    dgpInitOp d mgmtCtx ka v = { d with
      alg := v % 2 ^ 4, jobAlg := v % 2 ^ 4, outLen := v / 2 ^ 8 % 2 ^ 7, keypad := keypadOf mgmtCtx v, busy := false, valid := false,
      overrun := false, code := 2, started := true, finalised := false, msg := [], result := [] } := by
  unfold dgpInitOp
  rw [dgpSetCtrl_eq]
  dsimp only
  rw [dgpAlgOk_of hlo hhi, decide_eq_false hkey]
  rfl

/-- INIT with a keypad absorbs the keyed block first. -/
theorem dgpInitOp_keyed (halg : v % 2 ^ 4 = 5) (hkey : keypadOf mgmtCtx v = 1 ∨ keypadOf mgmtCtx v = 2) :
    dgpInitOp d mgmtCtx ka v = { d with
      alg := v % 2 ^ 4, jobAlg := v % 2 ^ 4, outLen := v / 2 ^ 8 % 2 ^ 7, keypad := keypadOf mgmtCtx v, busy := true, valid := false,
      overrun := false, code := 2, started := true, finalised := false, msg := dgpKeypad (keypadOf mgmtCtx v) ka, result := [] } := by
  unfold dgpInitOp
  rw [dgpSetCtrl_eq]
  dsimp only
  rw [decide_eq_true hkey, halg]
  rfl

/-- INIT of no algorithm, or of a keypad without SHA3-384, starts nothing. -/
theorem dgpInitOp_bad (hbad : v % 2 ^ 4 = 0 ∨ 8 < v % 2 ^ 4 ∨ ((keypadOf mgmtCtx v = 1 ∨ keypadOf mgmtCtx v = 2) ∧ v % 2 ^ 4 ≠ 5)) :
    let e := dgpInitOp d mgmtCtx ka v
    e.code = 0x10 ∧ e.started = false ∧ e.valid = false := by
  have hcond : (!dgpAlgOk (v % 2 ^ 4) || (decide (keypadOf mgmtCtx v = 1 ∨ keypadOf mgmtCtx v = 2) && decide (v % 2 ^ 4 ≠ 5))) = true := by
    rcases hbad with h | h | ⟨hkey, halg⟩
    · rw [h]
      rfl
    · rw [show dgpAlgOk (v % 2 ^ 4) = false from decide_eq_false fun hok => absurd hok.2 (Nat.not_le.mpr h)]
      rfl
    · rw [decide_eq_true hkey, decide_eq_true halg, Bool.and_true, Bool.or_true]
  unfold dgpInitOp
  rw [dgpSetCtrl_eq]
  dsimp only
  rw [if_pos hcond]
  exact ⟨rfl, rfl, rfl⟩

end

/-! #### Data and FINAL -/

section
variable {d : Dgp}

theorem dgpAppend_takes (hstart : d.started = true) (hfin : d.finalised = false) (hbusy : d.busy = false) (bs : Bytes) :
    dgpAppend d bs = dgpTaken d bs := by
  unfold dgpAppend dgpTaken
  rw [hstart, hfin, hbusy]
  rfl

theorem dgpAppend_overruns (hstart : d.started = true) (hfin : d.finalised = false) (hbusy : d.busy = true) (bs : Bytes) :
    dgpAppend d bs = { d with overrun := true } := by
  unfold dgpAppend
  rw [hstart, hfin, hbusy]
  rfl

theorem dgpFinalOp_overruns (hstart : d.started = true) (hfin : d.finalised = false) (hbusy : d.busy = true) :
    dgpFinalOp d = { d with overrun := true } := by
  unfold dgpFinalOp
  rw [hstart, hfin, hbusy]
  rfl

theorem dgpFinalOp_ends (hstart : d.started = true) (hfin : d.finalised = false) (hbusy : d.busy = false) (hover : d.overrun = false)
    (hlen : d.jobAlg < 7 ∨ (1 ≤ d.outLen ∧ d.outLen ≤ 64)) : dgpFinalOp d = { d with finalised := true, busy := true } := by
  have hcond : (decide (d.jobAlg ≥ 7) && decide (d.outLen = 0 ∨ d.outLen > 64)) = false := by
    rw [← Bool.not_eq_true, Bool.and_eq_true, decide_eq_true_eq, decide_eq_true_eq]
    omega
  unfold dgpFinalOp
  rw [hstart, hfin, hbusy, hover, hcond]
  rfl

theorem dgpFinalOp_fails (hstart : d.started = true) (hfin : d.finalised = false) (hbusy : d.busy = false)
    (hbad : d.overrun = true ∨ (7 ≤ d.jobAlg ∧ (d.outLen = 0 ∨ 64 < d.outLen))) :
    dgpFinalOp d = { d with code := 0x10, finalised := true, started := false } := by
  have hcond : (d.overrun || (decide (d.jobAlg ≥ 7) && decide (d.outLen = 0 ∨ d.outLen > 64))) = true := by
    rw [Bool.or_eq_true, Bool.and_eq_true, decide_eq_true_eq, decide_eq_true_eq]
    exact hbad
  unfold dgpFinalOp
  rw [hstart, hfin, hbusy, hcond]
  rfl

theorem dgpDone_ends (hstart : d.started = true) (hfin : d.finalised = true) : dgpDone d = { d with
    busy := false, valid := true, code := 0, started := false, result := padTo 64 (dgpDigest d.jobAlg d.outLen d.msg) } := by
  unfold dgpDone
  rw [hstart, hfin]
  rfl

end

theorem leBytes_four (v : Nat) : leBytes 4 v = (List.range 4).map (fun i => BitVec.ofNat 8 (v / 2 ^ (8 * i))) := by
  simp only [leBytes, List.range, List.range.loop, List.map, Nat.div_div_eq_div_mul, Nat.mul_zero, Nat.pow_zero, Nat.div_one]
  rfl

/-! #### Claims -/

section
variable {s : State} {p : Fin 8} {c : Fin 16}

theorem exec_dgpClaim (h : DgpMay s (.pf p)) (hc : 4 ≤ c.val) : exec (.dgpClaim p c) s =
    .next (if (dgpAt s c.val).owner.isNone then modDgp s c.val (fun d => { d with owner := some (.pf p) }) else s) := by
  have hexec : exec (.dgpClaim p c) s = dgpWhen s (.pf p)
    (if 4 ≤ c.val && (dgpAt s c.val).owner.isNone then modDgp s c.val (fun d => { d with owner := some (.pf p) }) else s) := rfl
  rw [hexec, dgpWhen_may h, decide_eq_true hc, Bool.true_and]

end

/-- Settles O54: an owner's writes run its context's job from INIT over its data to its digest, and CLAIM takes a free context. -/
theorem digestPort : Obligations.DigestPort := by
  unfold Obligations.DigestPort
  intro s a c v hlen d alg keypad keyed
  have hc : c.val < s.dgp.length := hlen.symm ▸ c.isLt
  have hkeypad : keypad = keypadOf (decide (c.val < 4)) v.toNat := by
    show (if c.val < 4 then _ else _) = _
    unfold keypadOf
    simp only [decide_eq_true_eq]
  have hinit : exec (.dgpInit a c v) s = dgpWhen s a (dgpOwned s a c.val (fun d => dgpInitOp d (decide (c.val < 4)) s.dom.attest v.toNat)) := rfl
  refine ⟨fun hmay howner => ⟨fun hlo hhi hkey => ?_, fun hkey halg => ?_, fun hbad => ?_, ?_⟩, fun htakes => ?_, fun hlive hfin => ?_,
    fun hlive hfin hstart => ?_, fun p hrun hformed hfour => ⟨fun hnone => ?_, fun hsome => ?_⟩⟩
  · have hdoes := owner_writes hinit hmay howner hc
    rw [dgpInitOp_plain hlo hhi (hkeypad ▸ hkey), ← hkeypad] at hdoes
    exact hdoes
  · obtain ⟨t, hstep, honly⟩ := owner_writes hinit hmay howner hc
    rw [dgpInitOp_keyed halg (hkeypad ▸ hkey), ← hkeypad] at honly
    refine ⟨t, hstep, ?_, ?_, ?_, honly.ctx ▸ honly⟩
    · rw [honly.ctx]
    · rw [honly.ctx]
    · rw [honly.ctx]
      rfl
  · obtain ⟨t, hstep, honly⟩ := owner_writes hinit hmay howner hc
    obtain ⟨hcode, hstart, hvalid⟩ := dgpInitOp_bad (d := dgpAt s c.val) (ka := s.dom.attest) (v := v.toNat) (mgmtCtx := decide (c.val < 4)) (hkeypad ▸ hbad)
    refine ⟨t, hstep, ?_, ?_, ?_, honly.ctx ▸ honly⟩
    · rw [honly.ctx, hcode]
    · rw [honly.ctx, hstart]
    · rw [honly.ctx, hvalid]
  · have hexec : exec (.dgpRelease a c) s = dgpWhen s a (dgpOwned s a c.val (dgpFree c.val)) := rfl
    have hdoes := owner_writes hexec hmay howner hc
    have hfree : dgpFree c.val (dgpAt s c.val) = { Dgp.init with owner := if c.val < 4 then d.owner else none } := by
      unfold dgpFree
      split <;> rfl
    rw [hfree] at hdoes
    exact hdoes
  · obtain ⟨hmay, howner, hstart, hfin⟩ := htakes
    have hdata : exec (.dgpData a c v) s = dgpWhen s a (dgpOwned s a c.val (fun d => dgpAppend d (leBytes 4 v.toNat))) := rfl
    have hdata8 : exec (.dgpData8 a c v) s = dgpWhen s a (dgpOwned s a c.val (fun d => dgpAppend d (leBytes 1 v.toNat))) := rfl
    have hfinal : exec (.dgpFinal a c) s = dgpWhen s a (dgpOwned s a c.val dgpFinalOp) := rfl
    refine ⟨fun hbusy => ⟨?_, ?_⟩, fun hbusy x hx => ?_, fun hbusy hover hok => ?_, fun hbusy hbad => ?_⟩
    · have hdoes := owner_writes hdata hmay howner hc
      rw [dgpAppend_takes hstart hfin hbusy, leBytes_four] at hdoes
      exact hdoes
    · have hdoes := owner_writes hdata8 hmay howner hc
      rw [dgpAppend_takes hstart hfin hbusy] at hdoes
      exact hdoes
    · simp only [List.mem_cons, List.not_mem_nil, or_false] at hx
      rcases hx with rfl | rfl | rfl
      · have hdoes := owner_writes hdata hmay howner hc
        rw [dgpAppend_overruns hstart hfin hbusy] at hdoes
        exact hdoes
      · have hdoes := owner_writes hdata8 hmay howner hc
        rw [dgpAppend_overruns hstart hfin hbusy] at hdoes
        exact hdoes
      · have hdoes := owner_writes hfinal hmay howner hc
        rw [dgpFinalOp_overruns hstart hfin hbusy] at hdoes
        exact hdoes
    · have hdoes := owner_writes hfinal hmay howner hc
      rw [dgpFinalOp_ends hstart hfin hbusy hover hok] at hdoes
      exact hdoes
    · have hdoes := owner_writes hfinal hmay howner hc
      rw [dgpFinalOp_fails hstart hfin hbusy hbad] at hdoes
      exact hdoes
  · have hexec : exec (.dgpBlockAbsorbed c) s = whenLive s (modDgp s c.val dgpAbsorbed) := rfl
    have hdoes := live_writes hexec hlive hc
    have habsorbed : dgpAbsorbed (dgpAt s c.val) = { d with busy := false } := by
      unfold dgpAbsorbed
      rw [show (dgpAt s c.val).finalised = false from hfin, if_neg Bool.false_ne_true]
    rw [habsorbed] at hdoes
    exact hdoes
  · have hexec : exec (.dgpFinalDone c) s = whenLive s (modDgp s c.val dgpDone) := rfl
    have hdoes := live_writes hexec hlive hc
    rw [dgpDone_ends hstart hfin] at hdoes
    exact hdoes
  · refine ⟨_, exec_dgpClaim ⟨hrun, hformed⟩ hfour, ?_⟩
    rw [show (dgpAt s c.val).owner = none from hnone, if_pos (by decide)]
    exact onlyDgp_modDgp hc _
  · rw [exec_dgpClaim ⟨hrun, hformed⟩ hfour, Option.isNone_eq_false_iff.mpr hsome, if_neg Bool.false_ne_true]

end Sys2Proof.DigestRows


/-! ### The noise source and the DRBGs (R350 to R358) -/

namespace Sys2Proof.SourceRows

open Sys2Proof Sys2Proof.Machine Sys2Proof.Safety Sys2Proof.Rows Sys2Proof.Laws Sys2Proof.StateFacts Sys2Proof.RingWrites Sys2Proof.LadderRows
open Sys2Proof.RandomRows

/-! #### Start-up -/

/-- A draw adds at most one call to each instance. -/
theorem drbgCount_le (s : State) (k i : Nat) : drbgCalls (drbgCount s k) i ≤ drbgCalls s i + 1 := by
  show (listMod s.rng.calls k (· + 1)).getD i 0 ≤ s.rng.calls.getD i 0 + 1
  rw [StateFacts.getD_listMod]
  split <;> omega

theorem drawn_le (s : State) (i : Nat) : drbgCalls (drawn s) i ≤ drbgCalls s i + 1 := drbgCount_le s 15 i

theorem bvBytes_length {w : Nat} (n : Nat) (x : BitVec w) : (bvBytes n x).length = n := ReedRows.length_leBytes n _

/-- The range keys drawn so far have 32 bytes; the rest of the memory's state stays. -/
theorem rangeKeys_drawn (s : State) (n : Nat) : ∃ mpr free, (List.range n).foldl (fun t r =>
      let (k, t1) := freshBytes 32 t
      { t1 with mpr := { t1.mpr with ranges := listMod t1.mpr.ranges r (fun x => { x with key := k }) } }) s = { s with mpr := mpr, free := free } ∧
    mpr.trained = s.mpr.trained ∧ mpr.ranges.length = s.mpr.ranges.length ∧
    ∀ r, r < n → r < s.mpr.ranges.length → (memRange mpr r).key.length = 32 := by
  induction n with
  | zero => exact ⟨s.mpr, s.free, rfl, rfl, rfl, fun r hr => absurd hr (Nat.not_lt_zero r)⟩
  | succ n ih =>
    obtain ⟨mpr, free, hfold, htrained, hlen, hkeys⟩ := ih
    rw [List.range_succ, List.foldl_append, hfold]
    refine ⟨_, _, rfl, htrained, (StateFacts.length_listMod _ _ _).trans hlen, fun r hr hin => ?_⟩
    show ((listMod mpr.ranges n (fun x => { x with key := _ })).getD r MemRange.empty).key.length = 32
    rw [StateFacts.getD_listMod]
    split
    · exact bvBytes_length 32 _
    · next hne => exact hkeys r (by have := fun h => hne ⟨h, hlen.symm ▸ hin⟩; omega) hin

theorem drawRangeKeys_drawn (s : State) : ∃ mpr free, drawRangeKeys s = { s with mpr := mpr, free := free } ∧ mpr.trained = s.mpr.trained ∧
    mpr.ranges.length = s.mpr.ranges.length ∧ ∀ r, r < 16 → r < s.mpr.ranges.length → (memRange mpr r).key.length = 32 :=
  rangeKeys_drawn s 16

/-- The export key is drawn where none is held. -/
theorem newExportKey_effect (s : State) : ∃ rng free key, newExportKey s = { s with rng := rng, free := free, wch := { s.wch with exportKey := key } } ∧
    { rng with calls := s.rng.calls, stretched := s.rng.stretched } = s.rng ∧ (∀ i, rng.calls.getD i 0 ≤ s.rng.calls.getD i 0 + 1) ∧
    (s.wch.exportKey ≠ zeros 32 → key = s.wch.exportKey) := by
  unfold newExportKey
  split
  · exact ⟨s.rng, s.free, s.wch.exportKey, rfl, rfl, fun _ => Nat.le_succ _, fun _ => rfl⟩
  · next hnone => exact ⟨_, _, _, rfl, rfl, drawn_le s, fun hsome => absurd hsome hnone⟩

theorem logEvent_seq (s : State) (code : Nat) (data : Bytes) :
    ∃ mgc, logEvent s code data = { s with mgc := mgc } ∧ s.mgc.logSeq < mgc.logSeq := ⟨_, rfl, Nat.lt_succ_self _⟩

/-- A new root stands with its check value, and is logged. -/
theorem newRoot_effect (s : State) : ∃ rng free mgc key, newRoot s = { s with
      rng := rng, free := free, mgc := mgc, wch := { s.wch with dcr := key, dcrCheck := dcrCheckOf key, rootNew := true } } ∧
    { rng with calls := s.rng.calls, stretched := s.rng.stretched } = s.rng ∧ (∀ i, rng.calls.getD i 0 ≤ s.rng.calls.getD i 0 + 1) ∧
    s.mgc.logSeq < mgc.logSeq := by
  unfold newRoot
  dsimp only
  rw [drbgDraw_eq]
  dsimp only
  obtain ⟨mgc, hlog, hseq⟩ := logEvent_seq { modWch (drawn s) (fun w => { w with
      dcr := bvBytes 32 (Config.freeWord (8 * 32) s.free)
      dcrCheck := dcrCheckOf (bvBytes 32 (Config.freeWord (8 * 32) s.free))
      rootNew := true }) with
    mgc := { s.mgc with
      logKey := some (kmac256 (bvBytes 32 (Config.freeWord (8 * 32) s.free)) [] 32 (ascii "SYN1 event log"))
      logMac := zeros 16 } } 0x0211 (leBytes 4 s.wch.tamper)
  refine ⟨(drawn s).rng, (drawn s).free, mgc, bvBytes 32 (Config.freeWord (8 * 32) s.free), hlog, rfl, drawn_le s, ?_⟩
  exact hseq

/-- A draw of instance 15 changes its calls, the count of stretched calls, and takes a free value. -/
theorem drawn_source (s : State) : ∃ calls stretched, drawn s = { s with rng := { s.rng with calls := calls, stretched := stretched }, free := s.free + 1 } ∧
    ∀ i, calls.getD i 0 ≤ s.rng.calls.getD i 0 + 1 := ⟨_, _, rfl, drawn_le s⟩

theorem drbgCount_source (s : State) (k : Nat) : ∃ calls stretched, drbgCount s k = { s with rng := { s.rng with calls := calls, stretched := stretched } } ∧
    ∀ i, calls.getD i 0 ≤ s.rng.calls.getD i 0 + 1 := ⟨_, _, rfl, drbgCount_le s k⟩

/-- The start's first draws: instance 0 seeds the mask generators, instance 15 draws the slot MAC key. -/
def macDrawn (s : State) (calls : List Nat) (stretched : Nat) : State := { s with
  rng := { s.rng with ready := true, held := [], calls := calls, stretched := stretched }
  free := s.free + 1
  wch := { s.wch with slotMac := bvBytes 32 (Config.freeWord (8 * 32) s.free) } }

/-- The start: the first draws, the range keys, the export key, and the root where one is due. -/
theorem rngStart_eq (s : State) : ∃ calls stretched, (∀ i, calls.getD i 0 ≤ 2) ∧ rngStart s =
    let u := newExportKey { drawRangeKeys (macDrawn s calls stretched) with mpr := { (drawRangeKeys (macDrawn s calls stretched)).mpr with
      keysReady := (drawRangeKeys (macDrawn s calls stretched)).mpr.trained } }
    if rootDue s then newRoot u else u := by
  obtain ⟨calls, stretched, hcount, hle⟩ := drbgCount_source (modRng s (fun r => { r with ready := true, calls := List.replicate 16 0, held := [] })) 0
  obtain ⟨calls', stretched', hdraw, hle'⟩ := drawn_source (modRng s (fun r => { r with ready := true, held := [], calls := calls, stretched := stretched }))
  have hzero (i : Nat) : (List.replicate 16 0).getD i 0 = 0 := by
    rw [List.getD_eq_getElem?_getD, List.getElem?_replicate]
    split <;> rfl
  refine ⟨calls', stretched', fun i => (hle' i).trans (Nat.succ_le_succ ((hle i).trans_eq (congrArg (· + 1) (hzero i)))), ?_⟩
  have hcount' : drbgCount (modRng s (fun r => { r with ready := true, calls := List.replicate 16 0, held := [] })) 0 =
      modRng s (fun r => { r with ready := true, held := [], calls := calls, stretched := stretched }) := hcount
  unfold rngStart
  dsimp only
  rw [drbgDraw_eq]
  dsimp only
  rw [hcount', hdraw]
  rfl

/-- The source after its first draws, with the slot MAC key and the range keys. -/
theorem macDrawn_keys (s : State) (calls : List Nat) (stretched : Nat) : ∃ free mpr, { drawRangeKeys (macDrawn s calls stretched) with
      mpr := { (drawRangeKeys (macDrawn s calls stretched)).mpr with keysReady := (drawRangeKeys (macDrawn s calls stretched)).mpr.trained } } =
        { macDrawn s calls stretched with free := free, mpr := mpr } ∧
    mpr.keysReady = s.mpr.trained ∧ ∀ r, r < 16 → r < s.mpr.ranges.length → (memRange mpr r).key.length = 32 := by
  obtain ⟨mpr, free, hrange, htrained, -, hkeys⟩ := drawRangeKeys_drawn (macDrawn s calls stretched)
  rw [hrange]
  exact ⟨free, { mpr with keysReady := mpr.trained }, rfl, htrained, hkeys⟩

/-- What the start leaves: the source ready, its calls few, the range keys drawn, and of the windchest the secrets it held. -/
structure Started (s t : State) : Prop where
  rng : t.rng.ready = true ∧ t.rng.alarm = s.rng.alarm ∧ t.rng.held = [] ∧ ∀ i, drbgCalls t i ≤ 4
  mpr : t.mpr.keysReady = s.mpr.trained ∧ ∀ r, r < 16 → r < s.mpr.ranges.length → (memRange t.mpr r).key.length = 32
  root : (rootDue s = true → t.wch.rootNew = true ∧ t.wch.dcrCheck = dcrCheckOf t.wch.dcr ∧ s.mgc.logSeq < t.mgc.logSeq) ∧
    (rootDue s = false → t.wch.dcr = s.wch.dcr ∧ t.mgc = s.mgc)
  exportKey : s.wch.exportKey ≠ zeros 32 → t.wch.exportKey = s.wch.exportKey
  rest : t.dev = s.dev ∧ t.brt = s.brt ∧ t.out = s.out

theorem rngStart_started (s : State) : Started s (rngStart s) := by
  obtain ⟨calls, stretched, hcalls, hstart⟩ := rngStart_eq s
  obtain ⟨free, mpr, hkeys, hready, hlen⟩ := macDrawn_keys s calls stretched
  obtain ⟨rng, free', key, hexport, hrng, hle, hkept⟩ := newExportKey_effect { macDrawn s calls stretched with free := free, mpr := mpr }
  have hfew (i : Nat) : rng.calls.getD i 0 ≤ 3 := (hle i).trans (Nat.succ_le_succ (hcalls i))
  rw [hkeys, hexport] at hstart
  dsimp only at hstart
  have hflags : rng.ready = true ∧ rng.alarm = s.rng.alarm ∧ rng.held = [] :=
    ⟨(congrArg Rng.ready hrng :), (congrArg Rng.alarm hrng :), (congrArg Rng.held hrng :)⟩
  rw [hstart]
  by_cases hdue : rootDue s = true
  · rw [if_pos hdue]
    obtain ⟨rng', free'', mgc, root, hroot, hrng', hle', hseq⟩ := newRoot_effect { macDrawn s calls stretched with
      free := free', mpr := mpr, rng := rng, wch := { (macDrawn s calls stretched).wch with exportKey := key } }
    rw [hroot]
    have hflags' : rng'.ready = true ∧ rng'.alarm = s.rng.alarm ∧ rng'.held = [] :=
      ⟨(congrArg Rng.ready hrng' :).trans hflags.1, (congrArg Rng.alarm hrng' :).trans hflags.2.1, (congrArg Rng.held hrng' :).trans hflags.2.2⟩
    exact ⟨⟨hflags'.1, hflags'.2.1, hflags'.2.2, fun i => (hle' i).trans (Nat.succ_le_succ (hfew i))⟩, ⟨hready, hlen⟩,
      ⟨fun _ => ⟨rfl, by dsimp only, hseq⟩, fun hno => absurd (hno.symm.trans hdue) Bool.false_ne_true⟩, hkept, rfl, rfl, rfl⟩
  · rw [if_neg hdue]
    exact ⟨⟨hflags.1, hflags.2.1, hflags.2.2, fun i => (hfew i).trans (Nat.le_succ 3)⟩, ⟨hready, hlen⟩,
      ⟨fun hyes => absurd hyes hdue, fun _ => ⟨rfl, rfl⟩⟩, hkept, rfl, rfl, rfl⟩

theorem emits_length {α : Type} (l : List α) (f : α → Out) (s : State) :
    ∃ out, l.foldl (fun t e => emit t (f e)) s = { s with out := out } ∧ out.length = s.out.length + l.length := by
  induction l generalizing s with
  | nil => exact ⟨s.out, rfl, rfl⟩
  | cons a l ih =>
    obtain ⟨out, hfold, hlen⟩ := ih (emit s (f a))
    exact ⟨out, hfold, hlen.trans (by show s.out.length + 1 + l.length = s.out.length + (l.length + 1); omega)⟩

theorem rngReady_starts {s : State} (hmode : s.dev.mode = .boot) (hready : s.rng.ready = false) (halarm : s.rng.alarm = false)
    (hhalt : s.dev.halting = false) : ∃ out, rngReady s = { rngStart s with out := out } ∧ out.length = s.out.length + s.rng.held.length := by
  obtain ⟨out, hfold, hlen⟩ := emits_length s.rng.held (fun _ => Out.mctp .inputInvalid []) (rngStart s)
  refine ⟨out, ?_, hlen.trans (congrArg (fun o : List Out => o.length + s.rng.held.length) (rngStart_started s).rest.2.2)⟩
  unfold rngReady
  rw [hmode, hready, halarm, hhalt, if_neg (by decide)]
  exact hfold

/-! #### Failures -/

theorem controlledHalt_rng (s : State) (cause code : Nat) (data : Bytes) :
    { (controlledHalt s cause code data).rng with waiting := s.rng.waiting, granted := s.rng.granted } = s.rng := by
  unfold controlledHalt
  dsimp only
  split
  · rfl
  · exact (ModeRows.rng_of_still (Still.haltFlows_still _) :)

/-- A halt keeps what the source has set. -/
theorem controlledHalt_source {s : State} {α : Type} (f : Rng → α) (hf : ∀ r a b, f { r with waiting := a, granted := b } = f r) (cause code : Nat)
    (data : Bytes) : f (controlledHalt s cause code data).rng = f s.rng := by
  rw [← hf (controlledHalt s cause code data).rng s.rng.waiting s.rng.granted, controlledHalt_rng]

theorem rngStartupTimeout_halts {s : State} (hmode : s.dev.mode = .boot) (hready : s.rng.ready = false) (hhalt : s.dev.halting = false) :
    let t := rngStartupTimeout s
    t.rng.alarm = true ∧ t.dev = haltBegun s 5 ∧ s.mgc.logSeq < t.mgc.logSeq := by
  intro t
  have ht : t = controlledHalt (modRng s (fun r => { r with alarm := true })) haltRngStartup 0x0105
      (leBytes 4 (rngStatus (modRng s (fun r => { r with alarm := true })))) := by
    show rngStartupTimeout s = _
    unfold rngStartupTimeout
    rw [hmode, hready, if_neg (by decide)]
  obtain ⟨hdev, hseq, -⟩ := HaltRows.controlledHalt_begins (s := modRng s (fun r => { r with alarm := true })) haltRngStartup 0x0105
    (leBytes 4 (rngStatus (modRng s (fun r => { r with alarm := true })))) hhalt (by show s.dev.mode ≠ .halted; rw [hmode]; decide)
  rw [ht]
  exact ⟨controlledHalt_source Rng.alarm (fun _ _ _ => rfl) _ _ _, hdev, hseq⟩

/-- The source after a cell's failure. -/
def failed (s : State) (cell : Nat) : State := modRng s (fun r => { r with alarm := true, ready := false, cellFail := r.cellFail ||| 2 ^ cell })

theorem rngHealthFail_eq (s : State) (cell : Nat) : ∃ code data, rngHealthFail s cell =
    controlledHalt (failed s cell) (if s.dev.mode = .boot then 5 else 4) code data := by
  unfold rngHealthFail
  dsimp only
  split
  · exact ⟨_, _, rfl⟩
  · exact ⟨_, _, rfl⟩

theorem rngHealthFail_halts {s : State} (hrun : isRunning s = true) (hhalt : s.dev.halting = false) (cell : Nat) : let t := rngHealthFail s cell
    t.rng.alarm = true ∧ t.rng.ready = false ∧ t.rng.cellFail.testBit cell = true ∧ t.dev = haltBegun s (if s.dev.mode = .boot then 5 else 4) ∧
      ∀ i, drbgRuns t i = false := by
  obtain ⟨code, data, hfail⟩ := rngHealthFail_eq s cell
  obtain ⟨hdev, -, -⟩ := HaltRows.controlledHalt_begins (s := failed s cell) (if s.dev.mode = .boot then 5 else 4) code data hhalt
    (FunctionRows.notHalted_of_running hrun)
  have hready : (rngHealthFail s cell).rng.ready = false := by
    rw [hfail]
    exact controlledHalt_source Rng.ready (fun _ _ _ => rfl) _ _ _
  refine ⟨?_, hready, ?_, ?_, fun i => ?_⟩
  · rw [hfail]
    exact controlledHalt_source Rng.alarm (fun _ _ _ => rfl) _ _ _
  · have hcell : (rngHealthFail s cell).rng.cellFail = s.rng.cellFail ||| 2 ^ cell := by
      rw [hfail]
      exact controlledHalt_source Rng.cellFail (fun _ _ _ => rfl) _ _ _
    rw [hcell, Nat.testBit_or, Nat.testBit_two_pow_self, Bool.or_true]
  · rw [hfail]
    exact hdev
  · unfold drbgRuns
    rw [hready]
    rfl

/-! #### Reseeds -/

theorem sat_eq (x : Nat) : sat 32 x = min (2 ^ 32 - 1) x := by
  unfold sat
  split <;> omega

/-- The source with an instance reseeded. -/
def reseeded (s : State) (i : Nat) : Rng := { s.rng with calls := listSet s.rng.calls i 0, reseeds := min (2 ^ 32 - 1) (s.rng.reseeds + 1) }

theorem reseedOf_eq (s : State) (i : Nat) : reseedOf s i = { s with rng := reseeded s i } := by
  unfold reseedOf modRng
  dsimp only
  rw [sat_eq]
  rfl

theorem grantBlock_grants (s : State) {i : Nat} {w : PrWaiter} (hw : waiterDrbg w = i) : grantBlock s i (some w) =
    { s with rng := { reseeded s i with waiting := s.rng.waiting.erase w, granted := s.rng.granted ++ [w] } } := by
  unfold grantBlock
  dsimp only
  rw [if_pos hw, reseedOf_eq]
  rfl

section
variable {s : State} {i : Nat}

/-- A block goes to an instance that is due, where none of a higher priority is. -/
theorem drbgReseed_due (hready : s.rng.ready = true) (halarm : s.rng.alarm = false) (hzero : i ≠ 0 → drbgDue s 0 = false)
    (hlt : i < 16) (hdue : drbgDue s i = true) (hlast : i = 15 → anyReedDue s = false ∧ nextReedWaiter s = none) :
    drbgReseed s i = reseedOf s i := by
  unfold drbgReseed
  rw [hready, halarm, if_neg (by decide)]
  by_cases h0 : i = 0
  · rw [if_pos h0, ← h0, hdue, if_pos rfl]
  · rw [if_neg h0, hzero h0, if_neg Bool.false_ne_true]
    by_cases h15 : i < 15
    · rw [if_pos h15, hdue, if_pos rfl]
    · have hi : i = 15 := by omega
      obtain ⟨hreeds, hwaiter⟩ := hlast hi
      rw [if_neg h15, hreeds, hwaiter, ← hi, hdue, if_neg (by decide), if_pos rfl]

/-- Else it goes to the first waiter of the instance. -/
theorem drbgReseed_grants {w : PrWaiter} (hready : s.rng.ready = true) (halarm : s.rng.alarm = false) (hzero : drbgDue s 0 = false)
    (hreeds : anyReedDue s = false) (h0 : i ≠ 0) (hlt : i < 16) (hnot : drbgDue s i = false) (hreed : i ≠ 15 → nextReedWaiter s = some w)
    (hhost : i = 15 → nextReedWaiter s = none ∧ nextHostWaiter s = some w) : drbgReseed s i = grantBlock s i (some w) := by
  unfold drbgReseed
  rw [hready, halarm, if_neg (by decide), if_neg h0, hzero, if_neg Bool.false_ne_true]
  by_cases h15 : i < 15
  · rw [if_pos h15, hnot, if_neg Bool.false_ne_true, hreeds, if_neg Bool.false_ne_true, hreed (by omega)]
  · have hi : i = 15 := by omega
    obtain ⟨hnone, hsome⟩ := hhost hi
    rw [if_neg h15, hreeds, hnone, if_neg (by decide), ← hi, hnot, if_neg Bool.false_ne_true, hsome]

end

/-- Settles O53: start-up readies the source and draws the keys, a failure begins the halt, and a block reseeds by priority. -/
theorem randomSource : Obligations.RandomSource := by
  unfold Obligations.RandomSource
  intro s hrun
  refine ⟨fun hmode hready halarm hhalt => ?_, fun hmode hready hhalt => ?_, fun c hhalt => ?_, fun i hready halarm hzero => ?_, fun i hlimit => ?_,
    fun k c b hheld hdue => ?_⟩
  · have hexec : exec .rngReady s = whenRunning s (rngReady s) := rfl
    obtain ⟨out, hstep, hlen⟩ := rngReady_starts hmode hready halarm hhalt
    obtain ⟨⟨hset, halarm', hheld, hcalls⟩, ⟨hkeys, hlength⟩, ⟨hdue, hnot⟩, hexport, hdev, hbrt, -⟩ := rngStart_started s
    refine does_whenRunning hexec hrun ?_
    rw [hstep]
    exact ⟨hset, halarm'.trans halarm, hheld, fun i => (hcalls i).trans (by decide), hkeys, hlength, hdue, hnot, hexport, hdev, hbrt, hlen⟩
  · have hexec : exec .rngStartupTimeout s = whenRunning s (rngStartupTimeout s) := rfl
    exact does_whenRunning hexec hrun (rngStartupTimeout_halts hmode hready hhalt)
  · have hexec : exec (.rngHealthFail c) s = whenRunning s (rngHealthFail s c.val) := rfl
    exact does_whenRunning hexec hrun (rngHealthFail_halts hrun hhalt c.val)
  · have hexec : exec (.drbgReseed i) s = whenRunning s (drbgReseed s i.val) := rfl
    have hzero' (h : i.val ≠ 0) : drbgDue s 0 = false := hzero fun hi => h (congrArg Fin.val hi)
    intro reset
    refine ⟨fun hdue hlast => ?_, fun w hreeds h0 hlow hw hreed hhost => ?_⟩
    · rw [hexec, whenRunning_of _ _ hrun,
        drbgReseed_due hready halarm hzero' i.isLt (decide_eq_true hdue) (fun hi => hlast (Fin.ext hi)), reseedOf_eq]
      rfl
    · have hi0 : i.val ≠ 0 := fun h => h0 (Fin.ext h)
      rw [hexec, whenRunning_of _ _ hrun, drbgReseed_grants hready halarm (hzero' hi0) hreeds hi0 i.isLt (decide_eq_false (Nat.not_le.mpr hlow))
        (fun hi => hreed fun h => hi (congrArg Fin.val h)) (fun hi => hhost (Fin.ext hi)), grantBlock_grants s hw]
      rfl
  · have hexec : exec (.drbgStretchLimit i) s = whenRunning s s := rfl
    refine ⟨hexec.trans (whenRunning_of _ _ hrun), ?_⟩
    unfold drbgRuns
    rw [decide_eq_false (Nat.not_lt.mpr hlimit), Bool.and_false]
  · have hexec : exec (.mgmtRngTimeout k) s = whenRunning s (mgmtRngTimeout s k) := rfl
    rw [hexec, whenRunning_of _ _ hrun]
    unfold mgmtRngTimeout
    rw [hheld]
    dsimp only
    rw [if_pos hdue]
    rfl

end Sys2Proof.SourceRows


/-! ### The protected memory (R367 to R386) -/

namespace Sys2Proof.MemoryRows

open Sys2Proof Sys2Proof.Machine Sys2Proof.Safety Sys2Proof.Rows Sys2Proof.Laws Sys2Proof.StateFacts Sys2Proof.RingWrites Sys2Proof.LadderRows

/-! #### Accesses -/

section
variable {s : State}

theorem running_of_serves (h : memServes s = true) : isRunning s = true := (Bool.and_eq_true _ _ ▸ h : isRunning s = true ∧ _).1

theorem exec_read {a : Nat} (ev : MemEvent) (h : memServes s = true) (ha : a < 2 ^ 30 * s.mpr.capacity) :
    exec (.ddrReadComplete a ev) s = .next (ddrRead s a ev) := by
  have hexec : exec (.ddrReadComplete a ev) s =
    if memServes s then (if beyondMemory s a then .fault (.noSuchAddress a) else .next (ddrRead s a ev)) else .next (lateRead s a ev) := rfl
  rw [hexec, if_pos h, beyondMemory, decide_eq_false (Nat.not_le.mpr ha), if_neg Bool.false_ne_true]

theorem exec_write {a : Nat} (off : Nat) (bs : Bytes) (ev : MemEvent) (h : memServes s = true) (ha : a < 2 ^ 30 * s.mpr.capacity) :
    exec (.ddrLineWrite a off bs ev) s = .next (ddrWrite s a off bs ev) := by
  have hexec : exec (.ddrLineWrite a off bs ev) s = if memServes s then (if beyondMemory s a then .fault (.noSuchAddress a) else
    .next (ddrWrite s a off bs ev)) else .next (lateWrite s a off bs.length ev) := rfl
  rw [hexec, if_pos h, beyondMemory, decide_eq_false (Nat.not_le.mpr ha), if_neg Bool.false_ne_true]

/-- An address beyond the memory is the model's fault. -/
theorem exec_beyond {a : Nat} (off : Nat) (bs : Bytes) (ev : MemEvent) (h : memServes s = true) (ha : 2 ^ 30 * s.mpr.capacity ≤ a) :
    exec (.ddrReadComplete a ev) s = .fault (.noSuchAddress a) ∧ exec (.ddrLineWrite a off bs ev) s = .fault (.noSuchAddress a) := by
  have hread : exec (.ddrReadComplete a ev) s =
    if memServes s then (if beyondMemory s a then .fault (.noSuchAddress a) else .next (ddrRead s a ev)) else .next (lateRead s a ev) := rfl
  have hwrite : exec (.ddrLineWrite a off bs ev) s = if memServes s then (if beyondMemory s a then .fault (.noSuchAddress a) else
    .next (ddrWrite s a off bs ev)) else .next (lateWrite s a off bs.length ev) := rfl
  rw [hread, hwrite, if_pos h, if_pos h, beyondMemory, decide_eq_true ha, if_pos rfl, if_pos rfl]
  exact ⟨rfl, rfl⟩

theorem latencyOfRead_frame (s : State) (line : Nat) : ∃ mgc free, latencyOfRead s line = { s with mgc := mgc, free := free } := by
  unfold latencyOfRead
  dsimp only
  split
  · exact ⟨s.mgc, _, rfl⟩
  · exact ⟨_, _, rfl⟩

/-- An immediate halt erases the engine's keys once more. -/
theorem immediateHalt_mpr (s : State) (cause code : Nat) (data : Bytes) : (immediateHalt s cause code data).mpr = memErase s.mpr := by
  unfold immediateHalt
  obtain ⟨out, hout⟩ := BootRows.haltMessages_out (logEvent { enterHalted (cutFrames s) with
    dev := { (enterHalted (cutFrames s)).dev with haltCause := cause, haltImmediate := true } } code data)
  rw [hout]
  exact congrArg memErase (BootRows.cutFrames_dev s).2

/-- An access that meets a halting outcome leaves the device halted with the fault recorded. -/
theorem memAccess_halts (hnone : s.mpr.fault = none) (r line cause kind : Nat) (f : State → State) :
    MemHalted (memAccess s r line (.halt cause kind) f) cause kind r line := by
  let u : State := { s with mpr := memFaulted s.mpr kind r line }
  have hstep : memAccess s r line (.halt cause kind) f = immediateHalt u cause (0x0100 + cause) (leBytes 8 (mprFault (memFaulted s.mpr kind r line))) := rfl
  obtain ⟨hmode, himmediate, hn, hcause, hkeys⟩ := BootRows.immediateHalt_dev u cause (0x0100 + cause) (leBytes 8 (mprFault (memFaulted s.mpr kind r line)))
  have hmpr := immediateHalt_mpr u cause (0x0100 + cause) (leBytes 8 (mprFault (memFaulted s.mpr kind r line)))
  rw [hstep]
  refine ⟨⟨hmode, himmediate, hcause, hn⟩, ⟨by rw [hmpr]; rfl, hkeys⟩, ⟨⟨kind, line % 2 ^ 35, r, memChannel s.mpr (64 * line)⟩, ?_, rfl, rfl, rfl⟩⟩
  rw [hmpr]
  show (memFaulted s.mpr kind r line).fault = _
  unfold memFaulted
  dsimp only
  rw [hnone]

theorem ddrRead_clean {a r : Nat} (hr : dataRange s a = some r) : let t := ddrRead s a .clean
    t.out = .memData (linePlain s.mpr r (a / 64)) :: s.out ∧ t.mpr = s.mpr ∧ t.dev = s.dev := by
  intro t
  obtain ⟨mgc, free, hlatency⟩ := latencyOfRead_frame (emit s (.memData (linePlain s.mpr r (a / 64)))) (a / 64)
  have ht : t = latencyOfRead (emit s (.memData (linePlain s.mpr r (a / 64)))) (a / 64) := by
    show ddrRead s a .clean = _
    unfold ddrRead
    rw [hr]
    rfl
  rw [ht, hlatency]
  exact ⟨rfl, rfl, rfl⟩

/-- A tag that does not hold halts the device. -/
theorem ddrRead_tampered {a r : Nat} (hr : dataRange s a = some r) (hn : minorOf s.mpr (a / 64) ≠ 0) (hnone : s.mpr.fault = none) (l : BitVec 512)
    (g : BitVec 64) (htag : tagHolds s.mpr r (a / 64) (bvBytes 64 l) (bvBytes 8 g) = false) :
    MemHalted (ddrRead s a (.tampered l g)) 1 1 r (a / 64) := by
  have hout : readOutcome s.mpr r (a / 64) false (.tampered l g) = .halt 1 1 := by
    unfold readOutcome
    dsimp only
    rw [decide_eq_false hn, htag]
    rfl
  unfold ddrRead
  rw [hr]
  dsimp only
  rw [hout]
  exact memAccess_halts hnone _ _ _ _ _

/-! #### Writes -/

theorem writeOutcome_clean (m : Mpr) (r line : Nat) (whole : Bool) : writeOutcome m r line whole .clean = .ok := by
  unfold writeOutcome
  split
  · rfl
  · split
    · split <;> rfl
    · rfl

theorem ddrWrite_clean {a r off : Nat} {bs : Bytes} (hr : dataRange s a = some r) (hbs : bs ≠ []) (hfit : off + bs.length ≤ 64)
    (hwait : writeWaits (memRange s.mpr r) (a / 64 / 64) = false) :
    ddrWrite s a off bs .clean = { s with mpr := clientWrite s.mpr r (a / 64) off bs } := by
  have hguard : ¬ (decide (bs = []) || decide (64 < off + bs.length) || writeWaits (memRange s.mpr r) (a / 64 / 64)) = true := by
    rw [decide_eq_false hbs, decide_eq_false (Nat.not_lt.mpr hfit), hwait]
    decide
  unfold ddrWrite
  rw [hr]
  dsimp only
  rw [if_neg hguard, writeOutcome_clean]
  rfl

end

/-! #### Counters -/

section
variable (m : Mpr) (r line : Nat)

theorem putLine_stored (key : Bytes) (major minor : Nat) (pt : Bytes) :
    putLine m key r line major minor pt = { m with lines := tblPut m.lines line (storedAs key major minor r line pt) } := rfl

/-- The counter line of a page that is written. -/
theorem pageCounters_put (page : Nat) (c : CounterLine) (p : Nat) :
    pageCounters { m with pages := tblPut m.pages page c } p = if p = page then c else pageCounters m p := by
  unfold pageCounters tblGetD
  split
  · next hp =>
    subst hp
    rw [tblGet_put_same]
    rfl
  · next hp => rw [tblGet_put_other _ _ _ _ hp]

theorem minorOf_lt (l : Nat) : minorOf m l < 128 := (storeGet (pageCounters m (l / 64)).minors (l % 64)).isLt

/-- A line written below minor 127 stands under the next minor, and no other line changes. -/
theorem writeLine_effect (pt : Bytes) (hn : minorOf m line ≠ 127) : let k := pageCounters m (line / 64)
    let t := writeLine m r line pt
    tblGet t.lines line = some (storedAs (pageKey (memRange m r) (line / 64)) k.major (minorOf m line + 1) r line pt) ∧
      minorOf t line = minorOf m line + 1 ∧ (pageCounters t (line / 64)).major = k.major ∧
      ∀ l, l ≠ line → tblGet t.lines l = tblGet m.lines l ∧ minorOf t l = minorOf m l := by
  let k := pageCounters m (line / 64)
  have hlt := minorOf_lt m line
  have hcounters (p : Nat) : pageCounters (writeLine m r line pt) p = if p = line / 64 then
      { k with minors := storeSet k.minors (line % 64) (BitVec.ofNat 7 (minorOf m line + 1)) } else pageCounters m p := pageCounters_put m (line / 64) _ p
  refine ⟨tblGet_put_same _ _ _, ?_, ?_, fun l hl => ⟨tblGet_put_other _ _ _ _ hl, ?_⟩⟩
  · unfold minorOf
    rw [hcounters, if_pos rfl]
    dsimp only
    rw [storeGet_set_same, BitVec.toNat_ofNat]
    exact Nat.mod_eq_of_lt (by change minorOf m line + 1 < 128; omega)
  · rw [hcounters, if_pos rfl]
  · show (storeGet (pageCounters (writeLine m r line pt) (l / 64)).minors (l % 64)).toNat = _
    rw [hcounters]
    split
    · next hpage =>
      have hmod : l % 64 ≠ line % 64 := by omega
      dsimp only
      rw [storeGet_set_other _ _ _ _ hmod]
      unfold minorOf
      rw [hpage]
    · rfl

/-- Lines stored in turn, each by what it is. -/
theorem foldl_putLine (key : Bytes) (major minor : Nat) (pt : Nat → Bytes) (ls : List Nat) :
    ∃ lines, ls.foldl (fun t l => putLine t key r l major minor (pt l)) m = { m with lines := lines } ∧
      (∀ l ∈ ls, tblGet lines l = some (storedAs key major minor r l (pt l))) ∧ ∀ l, l ∉ ls → tblGet lines l = tblGet m.lines l := by
  induction ls generalizing m with
  | nil => exact ⟨m.lines, rfl, nofun, fun _ _ => rfl⟩
  | cons a ls ih =>
    obtain ⟨lines, hfold, hin, hout⟩ := ih (putLine m key r a major minor (pt a))
    refine ⟨lines, hfold, fun l hl => ?_, fun l hl => ?_⟩
    · by_cases hmem : l ∈ ls
      · exact hin l hmem
      · obtain rfl : l = a := (List.mem_cons.mp hl).resolve_right hmem
        rw [hout l hmem, putLine_stored]
        exact tblGet_put_same _ _ _
    · rw [List.mem_cons, not_or] at hl
      rw [hout l hl.2, putLine_stored]
      exact tblGet_put_other _ _ _ _ hl.1

/-- A page whose line is at minor 127 is stored anew under the next MAJOR. -/
theorem reencryptPage_effect (pt : Bytes) : let k := pageCounters m (line / 64)
    let t := reencryptPage m r line pt
    (pageCounters t (line / 64)).major = k.major + 1 ∧
      (∀ l ∈ writtenLines m (line / 64), tblGet t.lines l = some (storedAs (pageKey (memRange m r) (line / 64)) (k.major + 1) 1 r l
        (if l = line then pt else linePlain m r l))) ∧
      ∀ p, p ≠ line / 64 → pageCounters t p = pageCounters m p := by
  let k := pageCounters m (line / 64)
  let m1 : Mpr := { m with pages := tblPut m.pages (line / 64) ⟨k.major + 1, k.minors.map (fun e => (e.1, (1 : BitVec 7)))⟩ }
  obtain ⟨lines, hfold, hin, -⟩ := foldl_putLine m1 r (pageKey (memRange m r) (line / 64)) (k.major + 1) 1
    (fun l => if l = line then pt else linePlain m r l) (writtenLines m (line / 64))
  have hstep : reencryptPage m r line pt = countWrites (bumpTree ((writtenLines m (line / 64)).foldl (fun t l =>
      putLine t (pageKey (memRange m r) (line / 64)) r l (k.major + 1) 1 (if l = line then pt else linePlain m r l)) m1) r (line / 64)) r (line / 64)
        (writtenLines m (line / 64)).length := rfl
  have hcounters (p : Nat) : pageCounters (reencryptPage m r line pt) p =
      if p = line / 64 then ⟨k.major + 1, k.minors.map (fun e => (e.1, (1 : BitVec 7)))⟩ else pageCounters m p := by
    rw [hstep, hfold]
    exact pageCounters_put m (line / 64) _ p
  refine ⟨by rw [hcounters, if_pos rfl], fun l hl => ?_, fun p hp => by rw [hcounters, if_neg hp]⟩
  rw [hstep, hfold]
  exact hin l hl

/-! #### Keys and sweeps -/

theorem pageKey_eq (x : MemRange) (page : Nat) : pageKey x page =
    if x.oldKey.isSome && x.sweepPage ≤ page - 2 ^ 26 * x.base / 4096 then x.oldKey.getD [] else x.key := by
  unfold pageKey pageInRange rangeUnit
  cases x.oldKey with
  | none => rfl
  | some k =>
    dsimp only
    by_cases hlow : page - 2 ^ 26 * x.base / 4096 < x.sweepPage
    · rw [if_pos hlow, decide_eq_false (Nat.not_le.mpr hlow)]
      rfl
    · rw [if_neg hlow, decide_eq_true (Nat.not_lt.mp hlow)]
      rfl

theorem memRange_listMod (q : Nat) (f : MemRange → MemRange) : memRange { m with ranges := listMod m.ranges r f } q =
    if q = r ∧ q < m.ranges.length then f (memRange m q) else memRange m q := StateFacts.getD_listMod _ _ _ _ _

/-- Where a sweep stands after its page. -/
def sweptOn (last : Bool) (y : MemRange) : MemRange :=
  if last then { y with oldKey := none, oldWrites := 0, sweepPage := 0 } else { y with sweepPage := y.sweepPage + 1 }

/-- A sweep's page is stored under the new key with MAJOR 0 and minors 1, and the sweep goes on. -/
theorem sweepStep_eq (hr : r < m.ranges.length) : let x := memRange m r
    let page := rangeUnit * x.base / 4096 + x.sweepPage
    let last := decide ((x.sweepPage + 1) * 4096 ≥ rangeUnit * x.size)
    ∃ m1 : Mpr, sweepStep m r = { restartTree m1 r x.sweepPage last with ranges := listMod m1.ranges r (sweptOn last) } ∧
      (∀ l ∈ writtenLines m page, tblGet m1.lines l = some (storedAs x.key 0 1 r l (linePlain m r l))) ∧ m1.ranges.length = m.ranges.length ∧
      (∃ w, memRange m1 r = { x with writes := w }) ∧ ∀ q, q ≠ r → memRange m1 q = memRange m q := by
  intro x page last
  cases hpage : tblGet m.pages page with
  | none =>
    have hnone : writtenLines m page = [] := by
      unfold writtenLines pageCounters tblGetD
      rw [hpage]
      rfl
    refine ⟨m, ?_, fun l hl => absurd (hnone ▸ hl) List.not_mem_nil, rfl, ⟨x.writes, rfl⟩, fun _ _ => rfl⟩
    unfold sweepStep
    dsimp only
    rw [show tblGet m.pages (rangeUnit * (memRange m r).base / 4096 + (memRange m r).sweepPage) = none from hpage]
    rfl
  | some c =>
    let m0 : Mpr := { m with pages := tblPut m.pages page ⟨0, c.minors.map (fun e => (e.1, (1 : BitVec 7)))⟩ }
    obtain ⟨lines, hfold, hin, -⟩ := foldl_putLine m0 r x.key 0 1 (fun l => linePlain m r l) (writtenLines m page)
    refine ⟨{ m0 with lines := lines, ranges := listMod m.ranges r (fun y => { y with writes := y.writes + (writtenLines m page).length }) }, ?_, hin,
      StateFacts.length_listMod _ _ _, ⟨x.writes + (writtenLines m page).length, ?_⟩, fun q hq => ?_⟩
    · unfold sweepStep
      dsimp only
      rw [show tblGet m.pages (rangeUnit * (memRange m r).base / 4096 + (memRange m r).sweepPage) = some c from hpage]
      dsimp only
      rw [show (writtenLines m (rangeUnit * (memRange m r).base / 4096 + (memRange m r).sweepPage)).foldl
        (fun t l => putLine t (memRange m r).key r l 0 1 (linePlain m r l)) _ = _ from hfold]
      rfl
    · exact (memRange_listMod m r r _).trans (if_pos ⟨rfl, hr⟩)
    · exact (memRange_listMod m r q _).trans (if_neg fun h => hq h.1)

theorem sweepStep_effect (hr : r < m.ranges.length) : let x := memRange m r
    let page := rangeUnit * x.base / 4096 + x.sweepPage
    let last := decide ((x.sweepPage + 1) * 4096 ≥ rangeUnit * x.size)
    let t := sweepStep m r
    (∀ l ∈ writtenLines m page, tblGet t.lines l = some (storedAs x.key 0 1 r l (linePlain m r l))) ∧
      (∃ w, memRange t r = sweptOn last { x with writes := w }) ∧ ∀ q, q ≠ r → memRange t q = memRange m q := by
  obtain ⟨m1, hstep, hlines, hlen, ⟨w, hw⟩, hothers⟩ := sweepStep_eq m r hr
  intro x page last t
  have hrange (q : Nat) : memRange t q = if q = r ∧ q < m1.ranges.length then sweptOn last (memRange m1 q) else memRange m1 q :=
    (congrArg (memRange · q) hstep).trans (memRange_listMod m1 r q (sweptOn last))
  refine ⟨fun l hl => ?_, ⟨w, ?_⟩, fun q hq => ?_⟩
  · exact (congrArg (fun u : Mpr => tblGet u.lines l) hstep).trans (hlines l hl)
  · rw [hrange, if_pos ⟨rfl, hlen.symm ▸ hr⟩, hw]
  · rw [hrange, if_neg fun h => hq h.1, hothers q hq]

end

section
variable {s : State}

theorem sweepOutcome_clean (m : Mpr) (r page : Nat) : sweepOutcome m r page .clean = .ok := by
  unfold sweepOutcome
  split <;> rfl

theorem sweepPageOf_sweeps (hserves : memServes s = true) {r : Nat} {k : Bytes} (hold : (memRange s.mpr r).oldKey = some k) :
    sweepPageOf s r .clean = { s with mpr := sweepStep s.mpr r } := by
  have hout : (if tblHas s.mpr.pages (rangeUnit * (memRange s.mpr r).base / 4096 + (memRange s.mpr r).sweepPage) then
      sweepOutcome s.mpr r (rangeUnit * (memRange s.mpr r).base / 4096 + (memRange s.mpr r).sweepPage) .clean else .ok) = .ok := by
    rw [sweepOutcome_clean, ite_self]
  unfold sweepPageOf
  dsimp only
  rw [hserves, hold, if_neg (show ¬ (!true || (some k).isNone) = true from Bool.false_ne_true), hout]
  rfl

theorem keyRoll_rolls (hserves : memServes s = true) {r : Nat} (hr : r < 15) (halarm : s.rng.alarm = false) (hnone : (memRange s.mpr r).oldKey = none)
    (hfull : 2 ^ 39 ≤ (memRange s.mpr r).writes) :
    keyRoll s r = { s with mpr := rollKey s.mpr r (bvBytes 32 (Config.freeWord 256 s.free)), free := s.free + 1 } := by
  have hguard : ¬ (!memServes s || s.rng.alarm || decide (15 ≤ r) || (memRange s.mpr r).oldKey.isSome || decide ((memRange s.mpr r).writes < 2 ^ 39)) = true := by
    rw [hserves, halarm, hnone, decide_eq_false (Nat.not_le.mpr hr), decide_eq_false (Nat.not_lt.mpr hfull)]
    decide
  unfold keyRoll
  dsimp only
  rw [if_neg hguard]
  rfl

/-! #### The scrub -/

theorem sat16_eq (x : Nat) : sat 16 x = min 65535 x := by
  unfold sat
  split <;> omega

theorem scrubEnd_eq (s : State) : scrubEnd s = { s with mpr := { s.mpr with scrubNext := 0, scrubPasses := min 65535 (s.mpr.scrubPasses + 1) } } := by
  unfold scrubEnd
  rw [sat16_eq]

theorem scrubOn_eq (s : State) (next : Nat) : scrubOn s next = { s with mpr := if (nextWritten s.mpr next).isSome then { s.mpr with scrubNext := next }
    else { s.mpr with scrubNext := 0, scrubPasses := min 65535 (s.mpr.scrubPasses + 1) } } := by
  unfold scrubOn
  rw [scrubEnd_eq]
  split <;> rfl

theorem patrolScrub_line (hserves : memServes s = true) (hmode : s.dev.mode ≠ .boot) {l : Nat} (hl : nextWritten s.mpr s.mpr.scrubNext = some l)
    (ev : MemEvent) : patrolScrub s ev = memAccess s ((rangeOf s.mpr (64 * l)).getD 0) l (scrubOutcome ev) (fun t => scrubOn t (l + 1)) := by
  unfold patrolScrub
  rw [hserves, decide_eq_false hmode, if_neg (by decide), hl]

theorem patrolScrub_end (hserves : memServes s = true) (hmode : s.dev.mode ≠ .boot) (hnone : nextWritten s.mpr s.mpr.scrubNext = none) (ev : MemEvent) :
    patrolScrub s ev = scrubEnd s := by
  unfold patrolScrub
  rw [hserves, decide_eq_false hmode, if_neg (by decide), hnone]

theorem eccCount_frame (s : State) (line : Nat) : ∃ mgc free, eccCount s line = { s with mgc := mgc, free := free } := by
  unfold eccCount
  dsimp only
  split
  · exact ⟨_, _, rfl⟩
  · exact ⟨_, _, rfl⟩

/-- A corrected error counts, and the scrub goes on. -/
theorem patrolScrub_corrects (hserves : memServes s = true) (hmode : s.dev.mode ≠ .boot) {l : Nat}
    (hl : nextWritten s.mpr s.mpr.scrubNext = some l) : let t := patrolScrub s .singleBit
    t.mpr.corrected = min (2 ^ 32 - 1) (s.mpr.corrected + 1) ∧ t.mpr.lines = s.mpr.lines ∧ t.dev = s.dev := by
  obtain ⟨mgc, free, hecc⟩ := eccCount_frame { s with mpr := { s.mpr with corrected := sat 32 (s.mpr.corrected + 1) } } l
  intro t
  have ht : t = scrubOn (eccCount { s with mpr := { s.mpr with corrected := sat 32 (s.mpr.corrected + 1) } } l) (l + 1) :=
    patrolScrub_line hserves hmode hl .singleBit
  rw [hecc, scrubOn_eq] at ht
  rw [ht, ← SourceRows.sat_eq]
  dsimp only
  split
  · exact ⟨rfl, rfl, rfl⟩
  · exact ⟨rfl, rfl, rfl⟩

end

/-- Settles O55: reads answer plaintext, writes go under the next counter, keys roll and are swept, the scrub goes round, and a bad line halts. -/
theorem protectedMemory : Obligations.ProtectedMemory := by
  unfold Obligations.ProtectedMemory
  intro s hserves
  have hrun := running_of_serves hserves
  refine ⟨fun a ev off bs ha => exec_beyond off bs ev hserves ha, fun a r ha hr => ?_, fun r hr => ⟨fun hlt halarm hnone hfull => ?_, fun k hold => ?_⟩,
    fun hmode => ⟨fun l hl => ⟨?_, ?_, fun hnone => ?_⟩, fun hnone => ?_⟩⟩
  · intro line page x k n key
    have hkey : key = pageKey x page := (pageKey_eq x page).symm
    refine ⟨⟨_, exec_read .clean hserves ha, ddrRead_clean hr⟩, fun l g hn hnone htag => ?_, fun off bs hbs hfit hwait => ?_⟩
    · refine ⟨_, exec_read _ hserves ha, ddrRead_tampered hr hn hnone l g ?_⟩
      unfold tagHolds
      rw [hkey] at htag
      exact decide_eq_false htag
    · intro old pt
      have hstep := (exec_write off bs .clean hserves ha).trans (congrArg _ (ddrWrite_clean hr hbs hfit hwait))
      refine ⟨fun hn => ⟨_, hstep, rfl, rfl, ?_⟩, fun hn => ⟨_, hstep, rfl, rfl, ?_⟩⟩
      · have hwrite : clientWrite s.mpr r line off bs = writeLine s.mpr r line pt := if_neg hn
        have heffect := writeLine_effect s.mpr r line pt hn
        rw [hkey]
        rw [← hwrite] at heffect
        exact heffect
      · have hwrite : clientWrite s.mpr r line off bs = reencryptPage s.mpr r line pt := if_pos hn
        have heffect := reencryptPage_effect s.mpr r line pt
        rw [hkey]
        rw [← hwrite] at heffect
        exact heffect
  · have hexec : exec (.keyGenerationRoll r) s = whenRunning s (keyRoll s r.val) := rfl
    refine does_whenRunning hexec hrun ?_
    rw [keyRoll_rolls hserves hlt halarm hnone hfull]
    exact ⟨(memRange_listMod s.mpr r.val r.val _).trans (if_pos ⟨rfl, hr⟩), fun q hq => (memRange_listMod s.mpr r.val q _).trans (if_neg fun h => hq h.1), rfl⟩
  · have hexec : exec (.sweepPage r .clean) s = whenRunning s (sweepPageOf s r.val .clean) := rfl
    obtain ⟨hlines, ⟨w, hw⟩, hothers⟩ := sweepStep_effect s.mpr r.val hr
    intro page
    refine does_whenRunning hexec hrun ?_
    rw [sweepPageOf_sweeps hserves hold]
    have hrange : memRange (sweepStep s.mpr r.val) r.val = _ := hw
    refine ⟨rfl, rfl, hlines, ?_, ?_, hothers⟩
    · rw [hrange, sweptOn]
      split <;> rfl
    · rw [hrange, sweptOn]
      by_cases hlast : 2 ^ 26 * (memRange s.mpr r.val).size ≤ ((memRange s.mpr r.val).sweepPage + 1) * 4096
      · have hdone : decide (((memRange s.mpr r.val).sweepPage + 1) * 4096 ≥ rangeUnit * (memRange s.mpr r.val).size) = true :=
          decide_eq_true hlast
        rw [if_pos hlast, if_pos hdone]
        exact ⟨rfl, rfl⟩
      · have hnot : ¬ decide (((memRange s.mpr r.val).sweepPage + 1) * 4096 ≥ rangeUnit * (memRange s.mpr r.val).size) = true :=
          fun h => hlast (of_decide_eq_true h)
        rw [if_neg hlast, if_neg hnot]
        exact ⟨hold, rfl⟩
  · have hexec : exec (.patrolScrub .clean) s = whenRunning s (patrolScrub s .clean) := rfl
    rw [hexec, whenRunning_of _ _ hrun, patrolScrub_line hserves hmode hl]
    exact congrArg _ (scrubOn_eq s (l + 1))
  · have hexec : exec (.patrolScrub .singleBit) s = whenRunning s (patrolScrub s .singleBit) := rfl
    exact does_whenRunning hexec hrun (patrolScrub_corrects hserves hmode hl)
  · have hexec : exec (.patrolScrub .uncorrectable) s = whenRunning s (patrolScrub s .uncorrectable) := rfl
    refine does_whenRunning hexec hrun ?_
    rw [patrolScrub_line hserves hmode hl]
    exact memAccess_halts hnone _ _ _ _ _
  · have hexec : exec (.patrolScrub .clean) s = whenRunning s (patrolScrub s .clean) := rfl
    rw [hexec, whenRunning_of _ _ hrun, patrolScrub_end hserves hmode hnone, scrubEnd_eq]

end Sys2Proof.MemoryRows


/-! ### The twin (R409 to R418): a command that waits for its record stands in front of others -/

namespace Sys2Proof.TwinRows

open Sys2Proof Sys2Proof.Machine Sys2Proof.Safety Sys2Proof.Rows Sys2Proof.Laws Sys2Proof.ClusterRows

/-- A SET_RATE that has begun, as the front of an admin queue that waits for its mirrored record. -/
def rateCmd : Cmd := ⟨4, 7, 0, 0, true, zeros 40, 0, 90, true⟩

/-- A command of no known opcode. -/
def strangeCmd : Cmd := ⟨0x0C, 8, 0, 0, true, zeros 40, 0, 95, false⟩

/-- The completion of `rateCmd`, which waits for the acknowledgement of record 6. -/
def rateWait : MirrorWait := ⟨6, admCompl 0 rateCmd .ok [] 0, 4, 0⟩

/-- An ACTIVE with its partner, in breath 8192: its last record came 32 breaths ago, TWIN_ALIVE_IN has never toggled, and of the two commands in port
0's admin queue the first waits for record 6. -/
def mirroring : State := { served with
  brt := { served.brt with count := 8192 }
  ports := listSet served.ports 0 { HostPort.init with adm := { HostPort.init.adm with q := ⟨[rateCmd, strangeCmd], none⟩ } }
  twn := { served.twn with
    role := 1
    linkKey := some (zeros 32)
    nextSeq := 7
    sent := [⟨recInstance, 8159, 6, zeros 32⟩]
    waits := [rateWait]
    lastRecord := 8160 } }

/-- A heartbeat that acknowledges record 6. -/
def ackingBeat : TwinIn := ⟨8191, 0, 6, zeros 8, true⟩

theorem acked_queue : (portAt (twinReceive mirroring ackingBeat recHeartbeat (heartbeatIn ackingBeat.body)) 0).adm.q.cmds = [] := by decide

theorem mirroring_queue : (portAt mirroring 0).adm.q.cmds = [rateCmd, strangeCmd] := by decide

theorem lost_waiting : (linkLost mirroring).waiting.length = 2 := by decide

/-- Refutes O58: the clause on acknowledgements says nothing but the twin's records and the completions changes, but a command whose record is
acknowledged also leaves its queue (R65). In `mirroring` a heartbeat acknowledges the record of a SET_RATE, and port 0's queue is empty after it. -/
theorem not_twinLink : ¬ Obligations.TwinLink := by
  intro h
  obtain ⟨-, ⟨hbeat, -⟩, -⟩ := h mirroring
  obtain ⟨-, -, hack⟩ := hbeat ackingBeat
  obtain ⟨u, hexec, -, -, -, -, -, hframe⟩ := hack ⟨by decide, by decide, by decide, by decide⟩ (by decide) (by decide)
  have hdone : exec (.heartbeat ackingBeat) mirroring =
      .next (twinReceive mirroring ackingBeat recHeartbeat (heartbeatIn ackingBeat.body)) := whenRunning_of _ _ (by decide)
  rw [hdone] at hexec
  cases hexec
  have hqueue : [] = [rateCmd, strangeCmd] := acked_queue.symm.trans ((congrArg (fun v => (portAt v 0).adm.q.cmds) hframe).trans mirroring_queue)
  cases hqueue

/-- Refutes O59: where an ACTIVE goes on alone, the clauses let only the completions that waited for acknowledgements become due, but the command
behind one of them comes to the front of its queue, where an unknown opcode completes at once (R66). In `mirroring` two completions become due. -/
theorem not_twinLoss : ¬ Obligations.TwinLoss := by
  intro h
  obtain ⟨-, -, -, -, hlost, -⟩ := h mirroring (by decide)
  obtain ⟨-, -, halone⟩ := hlost (by decide) (by decide)
  obtain ⟨t, hexec, -, -, hwaiting⟩ := halone (by decide) (by decide)
  have hdone : exec .twinLinkLost mirroring = .next (linkLost mirroring) := whenRunning_of _ _ (by decide)
  rw [hdone] at hexec
  cases hexec
  have hlength : 2 = 1 := lost_waiting.symm.trans (congrArg List.length hwaiting)
  exact absurd hlength (by decide)

end Sys2Proof.TwinRows


/-! ### The entries of a migration (R421): a flow under the next number -/

namespace Sys2Proof.MigrationRows

open Sys2Proof Sys2Proof.Machine Sys2Proof.Safety Sys2Proof.Rows Sys2Proof.Laws Sys2Proof.ClusterRows

/-- The one node of a table. -/
def loneNode : NodeCfg := ⟨9, 1, 0, 0, 0, 0⟩

/-- The list entry that moves extent 0 of the object of zeros to extent 1. -/
def movedEntry : Bytes := zeros 43 ++ [1] ++ zeros 4

/-- A migration of instance 3 whose first entry is due. No opening is free at its node, and of the flows one has number 1, which is also the number
that comes next. -/
def numberTaken : State := { served with
  dev := { served.dev with mode := .migrate }
  insts := [(3, { TranslationRows.erringInst with state := .active, bucket := 48 * 73728000 })]
  mig := ⟨true, 3, 5, 1, 0, 0, 1, 0, false, [], 0, 0⟩
  pxt := { served.pxt with cur := some ⟨1, [loneNode]⟩, nodeLimit := [(9, 0)] }
  bore := { served.bore with flows := [(1, Flow.init .get 5 3 (zeros 16) 0)] } }

/-- The entry's GET takes the number of the flow that is there. -/
theorem entryStart_numberTaken : (entryStart numberTaken movedEntry).bore.flows.map (·.1) = [1] := by decide

theorem flowAt_none_of_keys {s : State} (hkeys : s.bore.flows.map (·.1) = [1]) {e : Nat} (he : e ≠ 1) : flowAt s e = none := by
  obtain ⟨x, hx, hone⟩ := List.map_eq_singleton_iff.mp hkeys
  unfold flowAt
  rw [hx]
  exact if_neg (hone ▸ Ne.symm he)

theorem flowAt_numberTaken : flowAt numberTaken 1 ≠ none := by decide

/-- Refutes O57: the clause on a migration's entries gives the GET a number no flow had, and nothing in the statement keeps the flows' numbers below
the next one. In `numberTaken` the next number is a flow's, and the GET takes that flow's place. -/
theorem not_tamperAndLifeCycle : ¬ Obligations.TamperAndLifeCycle := by
  intro h
  obtain ⟨-, -, hrun⟩ := h numberTaken
  obtain ⟨-, -, -, -, hentry⟩ := hrun (by decide)
  obtain ⟨hgood, -⟩ := hentry movedEntry (by decide) (by decide) (by decide)
  obtain ⟨t, hexec, e, f, hnew, hflow, -⟩ := hgood (by decide) loneNode (by decide)
  have hdone : exec (.migrationEntryStart movedEntry) numberTaken = .next (entryStart numberTaken movedEntry) := whenRunning_of _ _ (by decide)
  rw [hdone] at hexec
  cases hexec
  have he : e ≠ 1 := fun h1 => flowAt_numberTaken (h1 ▸ hnew)
  rw [flowAt_none_of_keys entryStart_numberTaken he] at hflow
  cases hflow

end Sys2Proof.MigrationRows


/-! ### A GET_REQ under its opening credit (R301, R310): a flow under the next number -/

namespace Sys2Proof.OpeningRows

open Sys2Proof Sys2Proof.Machine Sys2Proof.Safety Sys2Proof.Rows Sys2Proof.Laws Sys2Proof.Still Sys2Proof.ModeRows Sys2Proof.ClusterRows

/-! #### The way of a message to its stream -/

/-- What fills a receive buffer changes its port, may send a pause, and draws the device's pace. -/
theorem rxFill_frame (s : State) (p : Nat) (f : FabCfg) (n : Nat) : ∃ ports out free, rxFill s p f n =
    { s with pxt := { s.pxt with ports := ports }, out := out, free := free } := by
  unfold rxFill pfcStop
  dsimp only
  split
  · split <;> exact ⟨_, _, _, rfl⟩
  · exact ⟨_, _, _, rfl⟩

/-- A message that arrives is one of the port's side. -/
theorem arrives_side {s : State} {x : PxtIn} {typ : Nat} {plain : Bool} {m : PxtMsg} (h : Arrives s x typ plain m) {f : FabCfg}
    (hf : fabCfg s x.fport.val = some f) : plain = decide (f.role = 1) ∧ carriageOk f x.carriage.val = true := by
  obtain ⟨g, hcfg, hplain, hcarriage⟩ := h.port
  obtain rfl : g = f := Option.some.inj (hcfg.symm.trans hf)
  exact ⟨hplain, hcarriage⟩

/-- It passes the checks of R297. -/
theorem rxMessage_arrives {s : State} {x : PxtIn} {typ : Nat} {plain : Bool} {m : PxtMsg} (h : Arrives s x typ plain m) {f : FabCfg}
    (hf : fabCfg s x.fport.val = some f) (t : State) : rxMessage t x f =
      if m.node then rxNode t x m plain else if plain then rxPlain t x m else rxSealed t x m := by
  obtain ⟨hplain, hcarriage⟩ := arrives_side h hf
  have hform := h.form
  rw [hplain] at hform
  have hgood : ¬ (!carriageOk f x.carriage.val || !pxtFormOk (decide (f.role = 1)) (unpad x.carriage.val x.msg)) = true := by
    rw [hcarriage, hform]
    decide
  unfold rxMessage
  dsimp only
  rw [if_neg hgood, ← h.message, ← hplain]

/-- Its port takes it. -/
theorem rxTyped_arrives {s : State} {x : PxtIn} {typ : Nat} {plain : Bool} {m : PxtMsg} (h : Arrives s x typ plain m) {f : FabCfg}
    (hf : fabCfg s x.fport.val = some f) : rxTyped s x typ = rxMessage (rxFill s x.fport.val f x.msg.length) x f := by
  have hgo : ¬ (!(fabPort s x.fport.val).linkUp || !fabricServes s || decide (byteAt x.msg 0 % 16 ≠ typ)) = true := by
    rw [h.up, h.serves, decide_eq_false (not_not_intro h.kind.1)]
    decide
  unfold rxTyped
  rw [hf]
  exact if_neg hgo

/-- The state in which a stream handles a message of its gateway: the gateway was heard, the stream used. -/
def heardFrom (s : State) (sid : Nat) : State := noteHeard (modStream s sid (fun y => { y with used := s.brt.count })) (gatewayKey sid)

/-- A message of a stream's gateway is handled by the stream. -/
theorem rxPlain_fromGateway {s t : State} {x : PxtIn} {m : PxtMsg} {st : Machine.Stream} (hg : FromGateway s x m st) (hsteady : s.dev.halting = false)
    (hdev : t.dev = s.dev) (hstreams : t.bore.streams = s.bore.streams) : rxPlain t x m = plainPreserve (heardFrom t m.sid) x m st := by
  have hstream : streamAt t m.sid = some st := (congrArg (tblGet · m.sid) hstreams).trans hg.stream
  have hpeer : plainPeer st = st.bound := if_neg (by rw [hg.cls, decide_eq_false (by decide : ¬ StreamClass.preserve = .transit)]; exact Bool.false_ne_true)
  have hown (foreign : Bool) (h : foreign = false) : ¬ (decide (st.cls = .lookaside) || decide (st.plainPort ≠ x.fport.val) ||
      decide (st.carriage ≠ x.carriage.val) || foreign) = true := by
    rw [h, hg.cls, hg.side.1, hg.side.2]
    simp
  have hcached : ¬ (!st.cached) = true := by
    rw [hg.cached]
    decide
  unfold rxPlain
  rw [hstream]
  dsimp only
  rw [hpeer, hdev, hsteady]
  cases hb : st.bound with
  | none =>
    dsimp only
    rw [if_neg (hown false rfl), if_neg Bool.false_ne_true, if_neg hcached, if_pos hg.cls]
    rfl
  | some p =>
    dsimp only
    rw [if_neg (hown _ (congrArg (!·) (hg.bound p hb))), if_neg Bool.false_ne_true, if_neg hcached, if_pos hg.cls]
    rfl

/-- A message that arrives from the gateway of a PRESERVE stream is handled by the stream, in a state that differs by what was counted on the way. -/
theorem rxTyped_fromGateway {s : State} {x : PxtIn} {typ : Nat} {m : PxtMsg} {st : Machine.Stream} (h : Arrives s x typ true m)
    (hg : FromGateway s x m st) : ∃ ports out free, rxTyped s x typ =
      plainPreserve (heardFrom { s with pxt := { s.pxt with ports := ports }, out := out, free := free } m.sid) x m st := by
  obtain ⟨f, hf, -, -⟩ := h.port
  obtain ⟨ports, out, free, hfill⟩ := rxFill_frame s x.fport.val f x.msg.length
  refine ⟨ports, out, free, ?_⟩
  rw [rxTyped_arrives h hf, rxMessage_arrives h hf, hg.own, if_neg Bool.false_ne_true, if_pos rfl, hfill]
  exact rxPlain_fromGateway hg h.steady rfl rfl

/-! #### The opening of a GET -/

theorem opAck_flows (s : State) (o : Nat) : flowsOf (opAck s o) = flowsOf s := by
  unfold opAck
  split
  · rfl
  · exact opTx_flows _ _ _

theorem peerOp_flows (s : State) (kind : HopKind) (sid e : Nat) (obj : Bytes) (ext p carriage : Nat) (src : Peer) :
    flowsOf ((peerOp s kind sid e obj ext p carriage src).2) = flowsOf s := rfl

theorem replyNak_flows (s : State) (x : PxtIn) (m : PxtMsg) (st : Status) (serial : Nat) : flowsOf (replyNak s x m st serial) = flowsOf s := by
  simp [replyNak]

theorem refuseOpening_flows (s : State) (x : PxtIn) (m : PxtMsg) (st : Status) : flowsOf (refuseOpening s x m st) = flowsOf s := by
  simp [refuseOpening, replyNak_flows]

theorem markCorrupt_flows (s : State) (i h : Nat) : flowsOf (markCorrupt s i h) = flowsOf s := by
  unfold markCorrupt
  (repeat' split) <;> rfl

theorem staysGone_newFlow {s : State} {e : Nat} (he : e ≠ s.bore.flowNo + 1) (f : Flow) : StaysGone e s (newFlow s f).2 :=
  fun h => (tblGet_put_other _ _ _ _ he).trans h

/-- A GET_REQ brings no flow but the next. -/
theorem staysGone_getOpen {s : State} {e : Nat} (he : e ≠ s.bore.flowNo + 1) (x : PxtIn) (m : PxtMsg) (st : Machine.Stream) :
    StaysGone e s (getOpen s x m st) := by
  unfold getOpen
  split
  · exact staysGone_of_flows (refuseOpening_flows s x m _)
  · split
    · exact staysGone_of_flows ((refuseOpening_flows _ x m _).trans (markCorrupt_flows s st.inst st.keySlot))
    · unfold beginGet
      cases (s.pxt.cur.bind fun t => nodeWinner t m.obj) with
      | none => exact staysGone_of_flows (refuseOpening_flows s x m _)
      | some n =>
        dsimp only [Option.map]
        refine fun h => staysGone_startFlow e _ _ ?_
        rw [opAck_flows, modStream_flows]
        exact staysGone_modFlow e _ _ _ (staysGone_newFlow he _ h)

/-! #### The counterexample -/

/-- Fabric port 2 on the plain side, without PFC and MACsec. -/
def plainFab : FabCfg := ⟨1, 1, false, false, false, false, false, 0, 0, false, 0, 0, 0⟩

/-- A chart with that port alone. -/
def portChart : Chart where
  generation := 1
  domainId := 0
  log2Len := 12
  unitEnable := 0
  x16Mask := 0
  globalMask := 0
  relaxed := false
  ceilings := []
  pools := []
  svc := ⟨0, 0, 0, 0, 0⟩
  mig := ⟨0, 0, 0, 0, 0⟩
  fabric := [(2, plainFab)]
  pxt := none
  nodes := none
  ddr := ⟨[], 0, []⟩
  conditioner := 0
  monitors := []
  twin := false
  suspicionLimit := 0
  routines := []
  sections := []

/-- A PRESERVE stream of instance 3 on that port, with an opening credit and no peer yet. -/
def openStream : Machine.Stream where
  inst := 3
  cls := .preserve
  recCode := 0
  echo := false
  defer1 := false
  defer2 := false
  receive := false
  keySlot := 1
  descSlot := 1
  sig1 := 2
  sig2 := 3
  linkId := []
  carriage := 0
  plainPort := 2
  sealedPort := 0
  remote := 0
  endpoint := ⟨0, 0⟩
  epoch := 0
  nextSlot := none
  counter := 0
  ceiling := 0
  reserving := none
  bound := none
  opening := true
  cached := true
  loading := false
  used := 0
  held := []
  rekey := false
  destroy := false

/-- Of the flows one has number 1, which is also the number that comes next. -/
def flowNumberTaken : State := { served with
  charts := { served.charts with inForce := some portChart }
  pxt := { served.pxt with cur := some ⟨1, [MigrationRows.loneNode]⟩, ports := [(2, { FabPort.init with linkUp := true })] }
  bore := { served.bore with streams := [(5, openStream)], flows := [(1, Flow.init .get 6 3 (zeros 16) 0)] } }

/-- GET_REQ for extent 0 of the object of zeros on stream 5. -/
def getReqMsg : PxtMsg := opMsg tGetReq 5 (zeros 16) 0

def getReqIn : PxtIn := ⟨2, ⟨0, 0⟩, 0, pxtBytes getReqMsg⟩

theorem getReq_arrives : Arrives flowNumberTaken getReqIn 4 true getReqMsg :=
  ⟨by decide, by decide, by decide, ⟨plainFab, by decide, by decide, by decide⟩, by decide, by decide, by decide, by decide⟩

theorem getReq_fromGateway : FromGateway flowNumberTaken getReqIn getReqMsg openStream :=
  ⟨by decide, by decide, by decide, nofun, by decide, by decide⟩

/-- The GET_REQ opens. -/
theorem plainPreserve_opens (t : State) (hopen : plainOpen t 5 = none) :
    plainPreserve t getReqIn getReqMsg openStream = getOpen t getReqIn getReqMsg openStream := by
  have hopening : plainPreserve t getReqIn getReqMsg openStream = plainOpening t getReqIn getReqMsg openStream := if_pos (by decide)
  rw [hopening]
  unfold plainOpening
  rw [show getReqMsg.sid = 5 from rfl, hopen]
  rfl

/-- Every flow of a number other than 1 was there before the GET_REQ. -/
theorem flow_one_alone {e : Nat} (hnew : flowAt flowNumberTaken e = none) : flowAt (rxTyped flowNumberTaken getReqIn 4) e = none := by
  have he : e ≠ 1 := by
    rintro rfl
    exact absurd hnew (by decide)
  obtain ⟨ports, out, free, htyped⟩ := rxTyped_fromGateway getReq_arrives getReq_fromGateway
  rw [htyped, plainPreserve_opens _ rfl]
  exact staysGone_getOpen he getReqIn getReqMsg openStream hnew

/-- Refutes O50: the clauses on openings give a PUT or GET a number no flow had, and nothing in the statement keeps the flows' numbers below the next
one. In `flowNumberTaken` the next number is a flow's, and the GET that a GET_REQ opens takes that flow's place. -/
theorem not_pxtMessages : ¬ Obligations.PxtMessages := by
  intro h
  obtain ⟨-, -, hget, -⟩ := h flowNumberTaken getReqIn getReqMsg openStream
  obtain ⟨t, hexec, e, f, -, -, -, hnew, hflow, -⟩ := hget getReq_arrives getReq_fromGateway rfl rfl rfl rfl (by decide) MigrationRows.loneNode (by decide)
  have hdone : exec (.getReq getReqIn) flowNumberTaken = .next (rxTyped flowNumberTaken getReqIn 4) := whenRunning_of _ _ (by decide)
  rw [hdone] at hexec
  cases hexec
  rw [flow_one_alone hnew] at hflow
  cases hflow

end Sys2Proof.OpeningRows


/-! ### The windchest and custody mailboxes (R335 to R347, R401) -/

namespace Sys2Proof.MailboxRows

open Sys2Proof Sys2Proof.Machine Sys2Proof.Safety Sys2Proof.Rows Sys2Proof.Laws Sys2Proof.ChangeRows

section
variable {s : State} {p : Fin 8} {q : Bytes}

/-! #### A whole request runs -/

theorem boxRequest_holds {c : Carrier} {k : Nat} (h : BoxHolds s c k q) : boxRequest s c k = some q := by
  obtain ⟨hbusy, hreq, hlen⟩ := h.request
  unfold boxRequest
  dsimp only
  rw [hreq]
  exact if_pos (by rw [hbusy, decide_eq_true hlen, decide_eq_true h.kind]; rfl)

theorem srcRun_holds {box : Fin 8 → Carrier} {k : Nat} (h : BoxHolds s (box p) k q) (f : Carrier → Bytes → State) :
    srcRun s (.port p) box k f = .next (f (box p) q) := by
  unfold srcRun
  dsimp only
  rw [whenRunning_of _ _ h.live, boxRequest_holds h]

/-- A checked request is staged, and its mailbox shows the number. -/
theorem stageRequest_staged {c : Carrier} (hc : c ≠ .mctp) (kind : ChangeKind) (hmay : MayStage s c) : ∃ id, NewId s id ∧
    stageRequest s c kind q = boxStagedAs s c id kind q := by
  obtain ⟨id, hnew, hstage⟩ := stageChange_staged kind q (boxOut s c) hmay
  refine ⟨id, hnew, ?_⟩
  unfold stageRequest
  rw [hstage]
  cases c with
  | mctp => exact absurd rfl hc
  | port p => rfl
  | wch p => rfl
  | lcs p => rfl

/-! #### The checks of the windchest's kinds -/

theorem wchHeaderOk_of (hlen : 64 ≤ q.length) (h5 : zeroAt q 5 3 = true) (h10 : zeroAt q 10 6 = true) (h48 : zeroAt q 48 16 = true) :
    wchHeaderOk q = true := by
  unfold wchHeaderOk
  rw [decide_eq_true hlen, h5, h10, h48]
  rfl

theorem wchHeaderOk_false (h5 : zeroAt q 5 3 = false) : wchHeaderOk q = false := by
  unfold wchHeaderOk
  rw [h5, Bool.and_false, Bool.false_and, Bool.false_and]

theorem wchInst_of {x : Inst} (hx : tblGet s.insts (le q 2 2) = some x) (hport : x.port = p) : wchInst s (.wch p) q = true := by
  unfold wchInst
  rw [hx]
  exact decide_eq_true (congrArg (fun r : Fin 8 => some r.val) hport.symm)

theorem modeServing_of (h : s.dev.mode = .service ∨ s.dev.mode = .migrate ∨ s.dev.mode = .recover) :
    modeServing s = true := by
  unfold modeServing
  rcases h with h | h | h <;> rw [h] <;> rfl

theorem wchStaged_none (h : WchMay s p q) : wchStaged s (.wch p) q = none := by
  obtain ⟨hlen, h5, h10, h48, hglobal, hmode, x, hx, hport⟩ := h
  have hright : carrierGlobal s (.wch p) = true := hglobal
  have hserves : (decide (s.dev.mode = .service) || decide (s.dev.mode = .migrate) || decide (s.dev.mode = .recover)) = true := modeServing_of hmode
  unfold wchStaged
  rw [wchHeaderOk_of hlen h5 h10 h48, wchInst_of hx hport, hright, hserves]
  rfl

theorem wchStaged_badHeader (h5 : zeroAt q 5 3 = false) : wchStaged s (.wch p) q = some .inputInvalid := by
  unfold wchStaged
  rw [wchHeaderOk_false h5]
  rfl

theorem outHolds_wch {n : Nat} (h : n ≤ wchRoom s p) : outHolds s (.wch p) n = true := decide_eq_true h
theorem outHolds_lcs {n : Nat} (h : n ≤ lcsRoom s p) : outHolds s (.lcs p) n = true := decide_eq_true h

theorem escrowExport_stages (hmay : WchMay s p q) {h : BlobHdr} {key : Bytes} (hcheck : escrowCheck s q = .ok (h, key))
    (hroom : 64 + (maskOfficers (le q 8 2)).length * (8 + envelopeLen (40 + h.keyLen)) ≤ wchRoom s p) :
    escrowExport s (.wch p) q = stageRequest s (.wch p) .escrowExport q := by
  have hout : outHolds s (.wch p) (escrowLen (escrowOfficers q).length h.keyLen) = true := outHolds_wch hroom
  unfold escrowExport
  rw [wchStaged_none hmay, hcheck]
  dsimp only
  rw [hout]
  rfl

theorem escrowImport_stages (hmay : WchMay s p q) (hok : importOk s q = true) (hwrite : canWriteBlob s = true)
    (hroom : blobLen (byteAt q 117) ≤ wchRoom s p) : escrowImport s (.wch p) q = stageRequest s (.wch p) .escrowImport q := by
  unfold escrowImport
  rw [wchStaged_none hmay, hok, hwrite, outHolds_wch hroom]
  rfl

theorem grantClear_stages (hmay : WchMay s p q) (hwrite : canWriteBlob s = true) (hroom : q.length - 64 ≤ wchRoom s p) {h : BlobHdr} {key : Bytes}
    (hblob : ownedBlob s (le q 2 2) (q.drop 64) = .ok (h, key)) (hkind : h.kind = 0) :
    grantClear s (.wch p) q = stageRequest s (.wch p) .grantClear q := by
  have hcheck : grantCheck s q = .ok (h, key) := by
    unfold grantCheck
    rw [hblob, hwrite]
    dsimp only
    rw [if_neg (not_not_intro hkind)]
    rfl
  unfold grantClear
  rw [wchStaged_none hmay, hcheck, outHolds_wch hroom]
  rfl

/-! #### The checks of the custody mailbox's kinds -/

theorem lcsForm_of {n : Nat} (h : LcsForm q n) : lcsForm q n = true := by
  obtain ⟨hlen, hzero, hrest⟩ := h
  unfold lcsForm
  rw [decide_eq_true hlen, hzero, hrest]
  rfl

theorem lcsForm_false (h : zeroAt q 4 28 = false) (n : Nat) : lcsForm q n = false := by
  unfold lcsForm
  rw [h, Bool.and_false, Bool.false_and]

theorem lcsHeader_of (hlen : 32 ≤ q.length) (h : zeroAt q 4 28 = true) : lcsHeader q = true := by
  unfold lcsHeader
  rw [decide_eq_true hlen, h]
  rfl

theorem lcsHeader_false (h : zeroAt q 4 28 = false) : lcsHeader q = false := by
  unfold lcsHeader
  rw [h, Bool.and_false]

theorem lcsRefused_none {form mode : Bool} (hform : form = true) (hglobal : (portAt s p.val).global = true) (hmode : mode = true) :
    lcsRefused s (.lcs p) form mode = none := by
  have hright : carrierGlobal s (.lcs p) = true := hglobal
  unfold lcsRefused
  rw [hform, hright, hmode]
  rfl

theorem lcsRefused_form {form : Bool} (h : form = false) (c : Carrier) (mode : Bool) : lcsRefused s c form mode = some .inputInvalid := by
  unfold lcsRefused
  rw [h]
  rfl

theorem modeUp_of (hrun : isRunning s = true) (hboot : s.dev.mode ≠ .boot) : modeUp s = true := by
  unfold modeUp
  rw [decide_eq_true hboot, (Bool.and_eq_true_iff.mp hrun).2]
  rfl

theorem lcTransition_stages (hrun : isRunning s = true) (hform : LcsForm q 1) (hboot : s.dev.mode ≠ .boot)
    (hright : (portAt s p.val).global = true ∨ byteAt q 32 = 4 ∨ byteAt q 32 = 5) (hallowed : lcAllowed s (byteAt q 32) = none) :
    lcTransition s (.lcs p) q = stageRequest s (.lcs p) .lcTransition q := by
  have hany : ¬ (!carrierGlobal s (.lcs p) && !(decide (byteAt q 32 = lcReturn) || decide (byteAt q 32 = lcScrap))) = true := by
    rcases hright with h | h | h
    · have hglobal : carrierGlobal s (.lcs p) = true := h
      rw [hglobal]
      exact Bool.false_ne_true
    · rw [h]
      simp [lcReturn]
    · rw [h]
      simp [lcScrap]
  unfold lcTransition
  dsimp only
  rw [lcsForm_of hform, modeUp_of hrun hboot, if_neg hany, hallowed]
  rfl

theorem lcTransition_badHeader (h : zeroAt q 4 28 = false) : lcTransition s (.lcs p) q = boxEnd s (.lcs p) .inputInvalid [] := by
  unfold lcTransition
  dsimp only
  rw [lcsForm_false h]
  rfl

theorem domainFound_stages (hform : LcsForm q 12) (hglobal : (portAt s p.val).global = true) (hmode : s.dev.mode = .service ∨ s.dev.mode = .tune)
    (hid : le q 32 8 ≠ 0) (hmember : le q 40 4 < 2 ^ 18) (hnone : s.dom.id = 0) :
    domainFound s (.lcs p) q = stageRequest s (.lcs p) .domainFound q := by
  have hok : foundOk s q = true := by
    unfold foundOk holdsDomain
    rw [lcsForm_of hform, decide_eq_true hid, decide_eq_true hmember, hnone]
    rfl
  have hserves : (decide (s.dev.mode = .service) || decide (s.dev.mode = .tune)) = true := by
    rcases hmode with h | h <;> rw [h] <;> rfl
  unfold domainFound
  rw [lcsRefused_none hok hglobal hserves]
  rfl

theorem foundOk_false (h : zeroAt q 4 28 = false) : foundOk s q = false := by
  unfold foundOk
  rw [lcsForm_false h, Bool.false_and, Bool.false_and, Bool.false_and]

theorem exportRefused_none (hserves : LcsServes s p) {form : Bool} (hform : form = true) (hdom : domainUsable s = true) {admitted : Bool}
    (hroom : packageLen s admitted ≤ lcsRoom s p) : exportRefused s (.lcs p) form admitted = none := by
  unfold exportRefused
  rw [lcsRefused_none hform hserves.1 (modeServing_of hserves.2), hdom, outHolds_lcs hroom]
  rfl

theorem exportRefused_form {form : Bool} (h : form = false) (admitted : Bool) : exportRefused s (.lcs p) form admitted = some .inputInvalid := by
  unfold exportRefused
  rw [lcsRefused_form h]

theorem domainAdmit_stages (hserves : LcsServes s p) (hlen : 32 ≤ q.length) (hzero : zeroAt q 4 28 = true) (hmember : le q 32 4 < 2 ^ 18)
    (hto : recipientOk (q.drop 36) = true) (hdom : domainUsable s = true) (hroom : packageLen s true ≤ lcsRoom s p) :
    domainAdmit s (.lcs p) q = stageRequest s (.lcs p) .domainAdmit q := by
  have hform : (lcsHeader q && decide (le q 32 4 < 2 ^ 18) && recipientOk (q.drop 36)) = true := by
    rw [lcsHeader_of hlen hzero, decide_eq_true hmember, hto]
    rfl
  unfold domainAdmit
  rw [exportRefused_none hserves hform hdom hroom]
  rfl

theorem successorExport_stages (hserves : LcsServes s p) (hlen : 32 ≤ q.length) (hzero : zeroAt q 4 28 = true)
    (hto : recipientOk (q.drop 32) = true) (hdom : domainUsable s = true) (hroom : packageLen s false ≤ lcsRoom s p) :
    successorExport s (.lcs p) q = stageRequest s (.lcs p) .successorExport q := by
  have hform : (lcsHeader q && recipientOk (q.drop 32)) = true := by
    rw [lcsHeader_of hlen hzero, hto]
    rfl
  unfold successorExport
  rw [exportRefused_none hserves hform hdom hroom]
  rfl

theorem domainRotate_stages (hserves : LcsServes s p) (hform : LcsForm q 0) (hdom : domainUsable s = true) (hroom : s.dom.gens.length < 64) :
    domainRotate s (.lcs p) q = stageRequest s (.lcs p) .domainRotate q := by
  have hrotate : rotateRefused s = none := by
    unfold rotateRefused
    rw [hdom, if_neg (Nat.not_le.mpr hroom)]
    rfl
  unfold domainRotate
  rw [lcsRefused_none (lcsForm_of hform) hserves.1 (modeServing_of hserves.2), hrotate]
  rfl

theorem rewrap_stages (hserves : LcsServes s p) (hlen : 48 ≤ q.length) (hzero : zeroAt q 4 28 = true) (h33 : zeroAt q 33 1 = true)
    (h36 : zeroAt q 36 4 = true) {b : Bytes} (hblob : rewrapBlob s q = .ok b) (hroom : b.length ≤ lcsRoom s p) :
    rewrap s (.lcs p) q = stageRequest s (.lcs p) .rewrap q := by
  have hform : (lcsHeader q && decide (48 ≤ q.length) && zeroAt q 33 1 && zeroAt q 36 4) = true := by
    rw [lcsHeader_of (by omega) hzero, decide_eq_true hlen, h33, h36]
    rfl
  unfold rewrap
  rw [lcsRefused_none hform hserves.1 (modeServing_of hserves.2), hblob]
  dsimp only
  rw [outHolds_lcs hroom]
  rfl

theorem rewrap_badHeader (h : zeroAt q 4 28 = false) : rewrap s (.lcs p) q = boxEnd s (.lcs p) .inputInvalid [] := by
  unfold rewrap
  rw [lcsRefused_form (by rw [lcsHeader_false h]; rfl)]
  rfl

theorem twinEnrol_stages (hform : LcsForm q 36) (hglobal : (portAt s p.val).global = true)
    (hmode : s.dev.mode = .service ∨ s.dev.mode = .tune ∨ s.dev.mode = .recover) (hmember : le q 64 4 / 2 ^ 18 % 2 ^ 13 = 0) :
    twinEnrol s (.lcs p) q = stageRequest s (.lcs p) .twinEnrol q := by
  have hgood : (lcsForm q 36 && decide (bitsOf (le q 64 4) 30 18 = 0)) = true := by
    rw [lcsForm_of hform, decide_eq_true (show bitsOf (le q 64 4) 30 18 = 0 from hmember)]
    rfl
  have hserves : (decide (s.dev.mode = .service) || decide (s.dev.mode = .tune) || decide (s.dev.mode = .recover)) = true := by
    rcases hmode with h | h | h <;> rw [h] <;> rfl
  unfold twinEnrol
  rw [lcsRefused_none hgood hglobal hserves]
  rfl

theorem debugGrant_stages (hrun : isRunning s = true) (hform : LcsForm q 0) (hglobal : (portAt s p.val).global = true) (hboot : s.dev.mode ≠ .boot)
    (hcustody : lcNow s = 3) : debugGrant s (.lcs p) q = stageRequest s (.lcs p) .debugGrant q := by
  have hmode : (modeUp s && decide (lcNow s = lcCustody)) = true := by
    rw [modeUp_of hrun hboot, decide_eq_true (show lcNow s = lcCustody from hcustody)]
    rfl
  unfold debugGrant
  rw [lcsRefused_none (lcsForm_of hform) hglobal hmode]
  rfl

theorem planOk_false (h : zeroAt q 4 28 = false) : planOk s (.lcs p) q = false := by
  unfold planOk
  rw [lcsForm_false h]
  simp only [Bool.false_and]

theorem migrate_stages (hglobal : (portAt s p.val).global = true) (hmode : s.dev.mode = .service) (hplan : planOk s (.lcs p) q = true) :
    migrate s (.lcs p) q = stageRequest s (.lcs p) .migrate q := by
  unfold migrate
  rw [lcsRefused_none hplan hglobal (decide_eq_true hmode)]
  rfl

/-! #### The kinds that are staged, together -/

/-- How a kind that is staged runs: its command applies a function of the request, which stages a good one and ends one with a bad header. -/
def KindRuns (s : State) (p : Fin 8) (k : BoxKind) : Prop :=
  ∃ f : Carrier → Bytes → State, k.box p ≠ .mctp ∧
    (∀ q, BoxHolds s (k.box p) k.code q → exec (k.cmd p) s = .next (f (k.box p) q)) ∧
    (∀ q, isRunning s = true → k.good s p q → f (k.box p) q = stageRequest s (k.box p) k.kind q) ∧
    (∀ q, zeroAt q (if k.box p = .wch p then 5 else 4) (if k.box p = .wch p then 3 else 28) = false →
      f (k.box p) q = boxEnd s (k.box p) .inputInvalid [])

theorem lcsKind_runs {code : Nat} {cmd : Fin 8 → Instr} {kind : ChangeKind} {good : State → Fin 8 → Bytes → Prop} (f : Carrier → Bytes → State)
    (hcmd : exec (cmd p) s = srcRun s (.port p) .lcs code f)
    (hgood : ∀ q, isRunning s = true → good s p q → f (.lcs p) q = stageRequest s (.lcs p) kind q)
    (hbad : ∀ q, zeroAt q 4 28 = false → f (.lcs p) q = boxEnd s (.lcs p) .inputInvalid []) : KindRuns s p ⟨code, .lcs, cmd, kind, good⟩ :=
  ⟨f, nofun, fun _ h => hcmd.trans (srcRun_holds h f), hgood, fun q hq => hbad q (by
    rw [if_neg (by nofun), if_neg (by nofun)] at hq
    exact hq)⟩

theorem wchKind_runs {code : Nat} {cmd : Fin 8 → Instr} {kind : ChangeKind} {good : State → Fin 8 → Bytes → Prop} (f : Carrier → Bytes → State)
    (hcmd : exec (cmd p) s = srcRun s (.port p) .wch code f)
    (hgood : ∀ q, good s p q → f (.wch p) q = stageRequest s (.wch p) kind q)
    (hbad : ∀ q, wchStaged s (.wch p) q = some .inputInvalid → f (.wch p) q = boxEnd s (.wch p) .inputInvalid []) :
    KindRuns s p ⟨code, .wch, cmd, kind, good⟩ :=
  ⟨f, nofun, fun _ h => hcmd.trans (srcRun_holds h f), fun q _ => hgood q, fun q hq => hbad q (wchStaged_badHeader (by
    rw [if_pos rfl, if_pos rfl] at hq
    exact hq))⟩

/-- A custody request refused by its checks ends with their status. -/
theorem lcsStage_refused {c : Carrier} {r : Option Status} {st : Status} (h : r = some st) (kind : ChangeKind) :
    lcsStage s c kind q r = boxEnd s c st [] := by
  rw [h]
  rfl

theorem boxKind_runs {k : BoxKind} (hk : IsBoxKind k) : KindRuns s p k := by
  rcases hk with rfl | rfl | rfl | rfl | rfl | rfl | rfl | rfl | rfl | rfl | rfl | rfl
  · refine wchKind_runs (escrowExport s) rfl (fun q ⟨hmay, h, key, hcheck, hroom⟩ => escrowExport_stages hmay hcheck hroom) fun q hbad => ?_
    unfold escrowExport
    rw [hbad]
  · refine wchKind_runs (escrowImport s) rfl (fun q ⟨hmay, hok, hwrite, hroom⟩ => escrowImport_stages hmay hok hwrite hroom) fun q hbad => ?_
    unfold escrowImport
    rw [hbad]
  · refine wchKind_runs (grantClear s) rfl (fun q ⟨hmay, hwrite, hroom, h, key, hblob, hkind⟩ => grantClear_stages hmay hwrite hroom hblob hkind)
      fun q hbad => ?_
    unfold grantClear
    rw [hbad]
  · exact lcsKind_runs (lcTransition s) rfl (fun q hrun ⟨hform, hboot, hright, hallowed⟩ => lcTransition_stages hrun hform hboot hright hallowed)
      fun q h => lcTransition_badHeader h
  · exact lcsKind_runs (domainFound s) rfl (fun q _ ⟨hform, hglobal, hmode, hid, hmember, hnone⟩ =>
      domainFound_stages hform hglobal hmode hid hmember hnone) fun q h => lcsStage_refused (lcsRefused_form (foundOk_false h) _ _) _
  · exact lcsKind_runs (domainAdmit s) rfl (fun q _ ⟨hserves, hlen, hzero, hmember, hto, hdom, hroom⟩ =>
      domainAdmit_stages hserves hlen hzero hmember hto hdom hroom) fun q h => lcsStage_refused (exportRefused_form (by
        rw [lcsHeader_false h]
        rfl) _) _
  · exact lcsKind_runs (domainRotate s) rfl (fun q _ ⟨hserves, hform, hdom, hroom⟩ => domainRotate_stages hserves hform hdom hroom)
      fun q h => lcsStage_refused (by rw [lcsRefused_form (lcsForm_false h 0)]) _
  · exact lcsKind_runs (successorExport s) rfl (fun q _ ⟨hserves, hlen, hzero, hto, hdom, hroom⟩ =>
      successorExport_stages hserves hlen hzero hto hdom hroom) fun q h => lcsStage_refused (exportRefused_form (by
        rw [lcsHeader_false h]
        rfl) _) _
  · exact lcsKind_runs (rewrap s) rfl (fun q _ ⟨hserves, hlen, hzero, h33, h36, b, hblob, hroom⟩ =>
      rewrap_stages hserves hlen hzero h33 h36 hblob hroom) fun q h => rewrap_badHeader h
  · exact lcsKind_runs (twinEnrol s) rfl (fun q _ ⟨hform, hglobal, hmode, hmember⟩ => twinEnrol_stages hform hglobal hmode hmember)
      fun q h => lcsStage_refused (lcsRefused_form (by
        rw [lcsForm_false h]
        rfl) _ _) _
  · exact lcsKind_runs (debugGrant s) rfl (fun q hrun ⟨hform, hglobal, hboot, hcustody⟩ => debugGrant_stages hrun hform hglobal hboot hcustody)
      fun q h => lcsStage_refused (lcsRefused_form (lcsForm_false h 0) _ _) _
  · exact lcsKind_runs (migrate s) rfl (fun q _ ⟨hglobal, hmode, hplan⟩ => migrate_stages hglobal hmode hplan)
      fun q h => lcsStage_refused (lcsRefused_form (planOk_false h) _ _) _

/-! #### Attestation, MIGRATE_STOP -/

theorem wchOpen_of (hrun : isRunning s = true) (hlen : 64 ≤ q.length) (h5 : zeroAt q 5 3 = true) (h10 : zeroAt q 10 6 = true)
    (h48 : zeroAt q 48 16 = true) (hboot : s.dev.mode ≠ .boot)
    (hinst : le q 2 2 = 0 ∨ ∃ x, tblGet s.insts (le q 2 2) = some x ∧ x.port = p) {n : Nat} (hn : q.length = n) :
    wchOpen s (.wch p) q n = true := by
  have hnamed : (decide (le q 2 2 = 0) || wchInst s (.wch p) q) = true := by
    rcases hinst with h | ⟨x, hx, hport⟩
    · rw [decide_eq_true h]
      rfl
    · rw [wchInst_of hx hport, Bool.or_true]
  unfold wchOpen
  rw [wchHeaderOk_of hlen h5 h10 h48, hnamed, decide_eq_true hn, decide_eq_true hboot, (Bool.and_eq_true_iff.mp hrun).2]
  rfl

theorem attestSigned_signs (hopen : wchOpen s (.wch p) q 64 = true) (hroom : 6443 ≤ wchRoom s p) {j : Job}
    (hj : attestJob s p.val (attestReport s (slice q 16 32)) = some j) : attestSigned s (.wch p) q =
      modBox { s with jobs := tblPut s.jobs s.nextJob j, nextJob := s.nextJob + 1 } (.wch p) (fun b => { b with req := none }) := by
  have hcarrier : attestCarrier (.wch p) = p.val := rfl
  unfold attestSigned
  rw [hopen, outHolds_wch hroom, hcarrier, hj]
  rfl

theorem attestShared_usable (hopen : wchOpen s (.wch p) q 64 = true) (hroom : 192 ≤ wchRoom s p) (hdom : domainUsable s = true) :
    attestShared s (.wch p) q = boxEnd s (.wch p) .ok (memberHead s (slice q 16 32) ++ memberMac s.dom.attest (memberHead s (slice q 16 32))) := by
  unfold attestShared
  rw [hopen, outHolds_wch hroom, hdom]
  rfl

theorem attestShared_unusable (hopen : wchOpen s (.wch p) q 64 = true) (hroom : 192 ≤ wchRoom s p) (hdom : domainUsable s = false) :
    attestShared s (.wch p) q = boxEnd s (.wch p) .keyPolicy [] := by
  unfold attestShared
  rw [hopen, outHolds_wch hroom, hdom]
  rfl

theorem attestCheck_checks (hopen : wchOpen s (.wch p) q 256 = true) (hdom : domainUsable s = true) : attestCheck s (.wch p) q =
    boxEnd s (.wch p) (if le (q.drop 64) 40 8 = s.dom.id && (q.drop 64).drop 144 = memberMac s.dom.attest ((q.drop 64).take 144) then .ok
      else .signatureInvalid) [] := by
  unfold attestCheck
  rw [hopen, hdom]
  rfl

theorem migrateStop_stops (hform : LcsForm q 0) (hglobal : (portAt s p.val).global = true) (hmode : s.dev.mode = .migrate) :
    migrateStop s (.lcs p) q = boxEnd { s with mig := { s.mig with stop := true } } (.lcs p) .ok [] := by
  unfold migrateStop
  rw [lcsRefused_none (lcsForm_of hform) hglobal (decide_eq_true hmode)]

theorem migrateStop_refused (hform : LcsForm q 0) (hglobal : (portAt s p.val).global = false) :
    migrateStop s (.lcs p) q = boxEnd s (.lcs p) .keyPolicy [] := by
  have hright : carrierGlobal s (.lcs p) = false := hglobal
  unfold migrateStop lcsRefused
  rw [lcsForm_of hform, hright]
  rfl

/-! #### GO and WITHDRAW -/

/-- The mailbox as GO takes its request. -/
def goBegun (s : State) (c : Carrier) : State :=
  modBox s c (fun b => { b with busy := true, done := false, status := 0, goBreath := s.brt.count, req := some [] })

theorem boxGo_free {c : Carrier} (hbusy : (boxAt s c).busy = false) (hends : (boxAt s c).ends = []) (lo : Nat) : boxGo s c lo =
    if (boxAt s c).reqLen < lo || 65536 < (boxAt s c).reqLen then boxEnd (goBegun s c) c .inputInvalid [] else goBegun s c := by
  have hfree : ¬ boxBusy (boxAt s c) = true := by
    unfold boxBusy
    rw [hbusy, hends]
    decide
  unfold boxGo
  dsimp only
  rw [if_neg hfree]
  rfl

theorem boxGo_busy {c : Carrier} (h : (boxAt s c).busy = true ∨ (boxAt s c).ends ≠ []) (lo : Nat) : boxGo s c lo = s := by
  have hbusy : boxBusy (boxAt s c) = true := by
    unfold boxBusy
    rcases h with h | h
    · rw [h, Bool.true_or]
    · rw [decide_eq_true h, Bool.or_true]
  unfold boxGo
  dsimp only
  rw [if_pos hbusy]

/-- What GO does to a mailbox: it takes a request whose length is in range, ends another, and is ignored while the mailbox is busy. -/
def GoActs (s : State) (c : Carrier) (cmd : Instr) (lo : Nat) : Prop :=
  ((boxAt s c).busy = false → (boxAt s c).ends = [] → lo ≤ (boxAt s c).reqLen → (boxAt s c).reqLen ≤ 65536 → exec cmd s = .next (goBegun s c)) ∧
  ((boxAt s c).busy = false → (boxAt s c).ends = [] → ((boxAt s c).reqLen < lo ∨ 65536 < (boxAt s c).reqLen) →
    exec cmd s = .next (boxEnd (goBegun s c) c .inputInvalid [])) ∧
  ((boxAt s c).busy = true ∨ (boxAt s c).ends ≠ [] → exec cmd s = .next s)

theorem goActs_of {c : Carrier} {cmd : Instr} {lo : Nat} (hrun : isRunning s = true) (hformed : (portAt s p.val).formed = true)
    (hcmd : exec cmd s = whenRunning s (if (portAt s p.val).formed then boxGo s c lo else s)) : GoActs s c cmd lo := by
  have hgo : exec cmd s = .next (boxGo s c lo) := by
    rw [hcmd, whenRunning_of _ _ hrun, if_pos hformed]
  refine ⟨fun hbusy hends hlo hhi => ?_, fun hbusy hends hout => ?_, fun h => ?_⟩
  · rw [hgo, boxGo_free hbusy hends, if_neg (by simp only [Bool.or_eq_true, decide_eq_true_iff]; omega)]
  · rw [hgo, boxGo_free hbusy hends, if_pos (by simp only [Bool.or_eq_true, decide_eq_true_iff]; exact hout)]
  · rw [hgo, boxGo_busy h]

theorem boxStaged_of {c : Carrier} {x : Change} (hx : tblGet s.changes.live (boxAt s c).change = some x) (hc : x.carrier = c)
    (htime : s.brt.count < x.expiry) : boxStaged s c = true := by
  unfold boxStaged
  rw [hx]
  dsimp only
  rw [decide_eq_true hc, decide_eq_true htime]
  rfl

/-- What a write of `c`'s mailbox leaves in it. -/
theorem boxAt_modBox_wch (hlen : s.wchBox.length = 8) (f : Mailbox → Mailbox) : boxAt (modBox s (.wch p) f) (.wch p) = f (boxAt s (.wch p)) :=
  (StateFacts.getD_listMod s.wchBox p.val p.val f Mailbox.init).trans (if_pos ⟨rfl, by omega⟩)

theorem boxAt_modBox_lcs (hlen : s.lcsBox.length = 8) (f : Mailbox → Mailbox) : boxAt (modBox s (.lcs p) f) (.lcs p) = f (boxAt s (.lcs p)) :=
  (StateFacts.getD_listMod s.lcsBox p.val p.val f Mailbox.init).trans (if_pos ⟨rfl, by omega⟩)

/-- A write of a mailbox changes mailboxes alone. -/
theorem modBox_frame (s : State) (c : Carrier) (f : Mailbox → Mailbox) : ∃ w l, modBox s c f = { s with wchBox := w, lcsBox := l } := by
  cases c with
  | mctp => exact ⟨s.wchBox, s.lcsBox, rfl⟩
  | port p => exact ⟨s.wchBox, s.lcsBox, rfl⟩
  | wch p => exact ⟨_, s.lcsBox, rfl⟩
  | lcs p => exact ⟨s.wchBox, _, rfl⟩

/-- WITHDRAW drops the change and shows ABORTED. -/
theorem boxWithdraw_drops {c : Carrier} (hstaged : boxStaged s c = true) (hshow : ∀ (u : State) f, u.wchBox = s.wchBox → u.lcsBox = s.lcsBox →
    boxAt (modBox u c f) c = f (boxAt u c)) (hsame : ∀ u : State, u.wchBox = s.wchBox → u.lcsBox = s.lcsBox → boxAt u c = boxAt s c) :
    let t := boxWithdraw s c
    tblGet t.changes.live (boxAt s c).change = none ∧ (∀ k, k ≠ (boxAt s c).change → tblGet t.changes.live k = tblGet s.changes.live k) ∧
      boxAt t c = { boxAt s c with done := true, status := 0x41 } ∧
      { t with changes := s.changes, wchBox := s.wchBox, lcsBox := s.lcsBox } = s := by
  obtain ⟨w, l, hframe⟩ := modBox_frame (dropChange s (boxAt s c).change) c (fun b => { b with done := true, status := statusCode .aborted })
  have hstep : boxWithdraw s c = modBox (dropChange s (boxAt s c).change) c (fun b => { b with done := true, status := statusCode .aborted }) :=
    if_pos hstaged
  intro t
  have ht : t = { dropChange s (boxAt s c).change with wchBox := w, lcsBox := l } := hstep.trans hframe
  refine ⟨?_, fun k hk => ?_, ?_, ?_⟩
  · rw [ht]
    exact tblGet_del_same _ _
  · rw [ht]
    exact tblGet_del_other _ _ _ hk
  · refine ((congrArg (boxAt · c) hstep).trans (hshow _ _ rfl rfl)).trans ?_
    rw [hsame (dropChange s (boxAt s c).change) rfl rfl]
    rfl
  · rw [ht]
    rfl

end

/-- Settles O56: a kind that is staged stages what passes its checks and ends what has a bad header; attestation and MIGRATE_STOP answer at once; GO
takes a request, WITHDRAW drops a staged one. -/
theorem mailboxRequests : Obligations.MailboxRequests := by
  intro s p q
  refine ⟨fun k hk hbox hgood hmay => ?_, fun k hk hbox hbad => ?_, ⟨fun hbox hopen hlen hroom j hj => ?_, fun hbox hopen hlen hroom => ?_,
    fun hbox hopen hlen hdom => ?_⟩, fun hbox hform => ⟨fun hglobal hmode => ?_, fun hglobal => ?_⟩, fun hrun hformed hwch hlcs e he => ?_⟩
  · obtain ⟨f, hc, hexec, hstages, -⟩ := boxKind_runs (s := s) (p := p) hk
    obtain ⟨id, hnew, hstaged⟩ := stageRequest_staged hc k.kind hmay
    exact ⟨id, hnew, (hexec q hbox).trans (congrArg _ ((hstages q hbox.live hgood).trans hstaged))⟩
  · obtain ⟨f, hc, hexec, -, hends⟩ := boxKind_runs (s := s) (p := p) hk
    refine (hexec q hbox).trans (congrArg _ ((hends q hbad).trans ?_))
    cases hb : k.box p with
    | mctp => exact absurd hb hc
    | port r =>
      have hbusy := hbox.request.1
      rw [hb] at hbusy
      cases hbusy
    | wch r => rfl
    | lcs r => rfl
  · obtain ⟨h64, h5, h10, h48, hboot, hinst⟩ := hopen
    have hwch := wchOpen_of hbox.live h64 h5 h10 h48 hboot hinst hlen
    exact (srcRun_holds hbox (attestSigned s)).trans (congrArg _ (attestSigned_signs hwch hroom hj))
  · obtain ⟨h64, h5, h10, h48, hboot, hinst⟩ := hopen
    have hwch := wchOpen_of hbox.live h64 h5 h10 h48 hboot hinst hlen
    exact ⟨fun hdom => (srcRun_holds hbox (attestShared s)).trans (congrArg _ (attestShared_usable hwch hroom hdom)),
      fun hdom => (srcRun_holds hbox (attestShared s)).trans (congrArg _ (attestShared_unusable hwch hroom hdom))⟩
  · obtain ⟨h64, h5, h10, h48, hboot, hinst⟩ := hopen
    have hcheck := (srcRun_holds hbox (attestCheck s)).trans
      (congrArg _ (attestCheck_checks (wchOpen_of hbox.live h64 h5 h10 h48 hboot hinst hlen) hdom))
    intro r
    refine ⟨fun hgood => hcheck.trans ?_, fun hnot => hcheck.trans ?_⟩
    · rw [if_pos (by rw [Bool.and_eq_true, decide_eq_true_iff, decide_eq_true_iff]; exact hgood)]
      rfl
    · rw [if_neg (by rw [Bool.and_eq_true, decide_eq_true_iff, decide_eq_true_iff]; exact hnot)]
      rfl
  · exact (srcRun_holds hbox (migrateStop s)).trans (congrArg _ (migrateStop_stops hform hglobal hmode))
  · exact (srcRun_holds hbox (migrateStop s)).trans (congrArg _ (migrateStop_refused hform hglobal))
  · have hgone (c : Carrier) (cmd : Instr) (hcmd : exec cmd s = whenRunning s (if (portAt s p.val).formed then boxWithdraw s c else s)) {P : State → Prop}
        (h : P (boxWithdraw s c)) : Does cmd s P := by
      refine ⟨_, ?_, h⟩
      rw [hcmd, whenRunning_of _ _ hrun, if_pos hformed]
    rcases List.mem_pair.mp he with rfl | rfl
    · obtain ⟨hgoes, hshort, hbusy⟩ := goActs_of (c := .wch p) (cmd := .wchGo p) (lo := 64) hrun hformed rfl
      exact ⟨hgoes, hshort, hbusy, fun x hx hc htime => hgone (.wch p) (.wchWithdraw p) rfl (boxWithdraw_drops (boxStaged_of hx hc htime)
        (fun u f hw _ => boxAt_modBox_wch (hw ▸ hwch) f) fun u hw _ => congrArg (·.getD p.val Mailbox.init) hw)⟩
    · obtain ⟨hgoes, hshort, hbusy⟩ := goActs_of (c := .lcs p) (cmd := .lcsGo p) (lo := 32) hrun hformed rfl
      exact ⟨hgoes, hshort, hbusy, fun x hx hc htime => hgone (.lcs p) (.lcsWithdraw p) rfl (boxWithdraw_drops (boxStaged_of hx hc htime)
        (fun u f _ hl => boxAt_modBox_lcs (hl ▸ hlcs) f) fun u _ hl => congrArg (·.getD p.val Mailbox.init) hl)⟩

end Sys2Proof.MailboxRows


/-! ### The management controller (R424 to R431, R457) -/

namespace Sys2Proof.ManagementRows

open Sys2Proof Sys2Proof.Machine Sys2Proof.Safety Sys2Proof.Rows Sys2Proof.Laws Sys2Proof.Still Sys2Proof.ModeRows Sys2Proof.HaltRows
open Sys2Proof.FunctionRows Sys2Proof.ChangeRows Sys2Proof.ApprovalRows Sys2Proof.FirmwareRows

/-- A write of a fabric port changes that port alone. -/
theorem onlyFab_modFab (s : State) (p : Nat) (f : FabPort → FabPort) : OnlyFab s (modFab s p f) p (f (fabPort s p)) :=
  ⟨congrArg (·.getD FabPort.init) (tblGet_put_same s.pxt.ports p _),
    fun q hq => congrArg (·.getD FabPort.init) (tblGet_put_other s.pxt.ports p q _ hq), rfl⟩

/-! #### Halts -/

/-- A halt's cause is logged whether or not the halt begins. -/
theorem controlledHalt_mgc (s : State) (cause code : Nat) (data : Bytes) : (controlledHalt s cause code data).mgc = (logEvent s code data).mgc := by
  unfold controlledHalt
  dsimp only
  split
  · rfl
  · exact (mgc_of_still (haltFlows_still _)).trans rfl

theorem controlledHalt_brt (s : State) (cause code : Nat) (data : Bytes) : (controlledHalt s cause code data).brt = s.brt := by
  unfold controlledHalt
  dsimp only
  split
  · rfl
  · exact (brt_of_still (haltFlows_still _)).trans rfl

/-- While a halt is under way another cause is only logged. -/
theorem controlledHalt_halting {s : State} (h : s.dev.halting = true) (cause code : Nat) (data : Bytes) :
    controlledHalt s cause code data = logEvent s code data :=
  if_pos (by rw [h, Bool.true_or])

/-- A controlled halt for the management controller's cause begins. -/
theorem mgmtHalt_begins {s : State} (hh : s.dev.halting = false) (hm : s.dev.mode ≠ .halted) (code : Nat) (data : Bytes) :
    (controlledHalt s haltMgmt code data).dev = haltBegun s 6 ∧ s.mgc.logSeq < (controlledHalt s haltMgmt code data).mgc.logSeq := by
  obtain ⟨hdev, hlog, -⟩ := controlledHalt_begins haltMgmt code data hh hm
  exact ⟨hdev, hlog⟩

/-! #### What a sample may do -/

/-- The sensors keep the clock, the readings, and what is known of the hot band. -/
structure Keeps (s t : State) : Prop where
  brt : t.brt = s.brt
  readings : t.mgc.readings = s.mgc.readings
  hot : (bandHot, 0) ∈ t.mgc.warned ↔ (bandHot, 0) ∈ s.mgc.warned

/-- As `Keeps`, with the modes and what is known of the system clock's action band. -/
structure Quiet (s t : State) : Prop extends Keeps s t where
  dev : t.dev = s.dev
  clock : (bandClockAction, 0) ∈ t.mgc.warned ↔ (bandClockAction, 0) ∈ s.mgc.warned

theorem Keeps.trans {s t u : State} (h : Keeps s t) (h' : Keeps t u) : Keeps s u :=
  ⟨h'.brt.trans h.brt, h'.readings.trans h.readings, h'.hot.trans h.hot⟩

theorem Quiet.refl (s : State) : Quiet s s := ⟨⟨rfl, rfl, Iff.rfl⟩, rfl, Iff.rfl⟩

theorem Quiet.trans {s t u : State} (h : Quiet s t) (h' : Quiet t u) : Quiet s u :=
  ⟨h.toKeeps.trans h'.toKeeps, h'.dev.trans h.dev, h'.clock.trans h.clock⟩

theorem quiet_foldl {α : Type} (f : State → α → State) (hf : ∀ t a, Quiet t (f t a)) (l : List α) (s : State) : Quiet s (l.foldl f s) :=
  List.foldlRecOn (motive := fun t => Quiet s t) l _ (Quiet.refl s) fun t ht a _ => ht.trans (hf t a)

theorem logEvent_quiet (s : State) (code : Nat) (data : Bytes) : Quiet s (logEvent s code data) := ⟨⟨rfl, rfl, Iff.rfl⟩, rfl, Iff.rfl⟩

/-- What `warned` holds of another band than the one that is left or entered. -/
theorem mem_entered {b e : Nat × Nat} {l : List (Nat × Nat)} (h : e ≠ b) : e ∈ b :: l ↔ e ∈ l :=
  ⟨fun hm => (List.mem_cons.mp hm).resolve_left h, List.mem_cons_of_mem b⟩

theorem mem_left {b e : Nat × Nat} {l : List (Nat × Nat)} (h : e ≠ b) : e ∈ l.filter (· ≠ b) ↔ e ∈ l :=
  ⟨List.mem_of_mem_filter, fun hm => List.mem_filter.mpr ⟨hm, decide_eq_true h⟩⟩

/-- A band other than those two, whose crossing is only noted. -/
theorem band_quiet {kind i : Nat} (hhot : (bandHot, 0) ≠ (kind, i)) (hclock : (bandClockAction, 0) ≠ (kind, i)) (s : State) (outside : Bool)
    {f : State → State} (hf : ∀ t, Quiet t (f t)) : Quiet s (band s kind i outside f) := by
  unfold band
  dsimp only
  split
  · refine Quiet.trans ?_ (hf _)
    exact ⟨⟨rfl, rfl, mem_entered hhot⟩, rfl, mem_entered hclock⟩
  · split
    · exact ⟨⟨rfl, rfl, mem_left hhot⟩, rfl, mem_left hclock⟩
    · exact Quiet.refl s

theorem voltSample_quiet (s : State) (m : Nat) : Quiet s (voltSample s m) := by
  unfold voltSample
  dsimp only
  split
  · exact band_quiet (by decide) (by decide) s _ fun t => logEvent_quiet t _ _
  · exact band_quiet (by simp [bandHot, bandVolt]) (by simp [bandClockAction, bandVolt]) s _ fun t => logEvent_quiet t _ _

theorem clockAlarm_quiet (s : State) (k limit : Nat) (d : Option Nat) : Quiet s (clockAlarm s k limit d) :=
  band_quiet (by simp [bandHot, bandClock]) (by simp [bandClockAction, bandClock]) s _ fun t => logEvent_quiet t _ _

theorem dropHostLinks_quiet (s : State) (k : Nat) : Quiet s (dropHostLinks s k) := by
  unfold dropHostLinks
  refine quiet_foldl _ (fun _ _ => ?_) _ s
  exact ⟨⟨rfl, rfl, Iff.rfl⟩, rfl, Iff.rfl⟩

theorem dropFabricLinks_quiet (s : State) (j : Nat) : Quiet s (dropFabricLinks s j) := by
  unfold dropFabricLinks
  refine quiet_foldl _ (fun _ _ => ?_) _ s
  exact ⟨⟨rfl, rfl, Iff.rfl⟩, rfl, Iff.rfl⟩

theorem pcieSample_quiet (s : State) (k : Nat) : Quiet s (pcieSample s k) :=
  (clockAlarm_quiet s _ _ _).trans (band_quiet (by simp [bandHot, bandClockAction]) (by simp; omega) _ _ fun t => dropHostLinks_quiet t k)

theorem ethSample_quiet (s : State) (j : Nat) : Quiet s (ethSample s j) :=
  (clockAlarm_quiet s _ _ _).trans (band_quiet (by simp [bandHot, bandClockAction]) (by simp; omega) _ _ fun t => dropFabricLinks_quiet t j)

/-! #### A sample's halts -/

/-- The modes are as they were, or a halt for the management controller's cause has begun. -/
def MayHalt (s t : State) : Prop := t.dev = s.dev ∨ t.dev = haltBegun s 6

theorem controlledHalt_keeps (s : State) (cause code : Nat) (data : Bytes) : Keeps s (controlledHalt s cause code data) := by
  refine ⟨controlledHalt_brt s cause code data, ?_, ?_⟩
  · rw [controlledHalt_mgc]
    rfl
  · rw [controlledHalt_mgc]
    exact Iff.rfl

/-- A halt's cause found while the modes are as they were, or a halt for this cause is under way, leaves that halt under way. -/
theorem mgmtHalt_of_mayHalt {s t : State} (hh : s.dev.halting = false) (hm : s.dev.mode ≠ .halted) (h : MayHalt s t) (hbrt : t.brt = s.brt)
    (code : Nat) (data : Bytes) : (controlledHalt t haltMgmt code data).dev = haltBegun s 6 := by
  rcases h with h | h
  · rw [(mgmtHalt_begins (s := t) (by rw [h]; exact hh) (by rw [h]; exact hm) code data).1, haltBegun, h, hbrt]
    rfl
  · rw [controlledHalt_halting (by rw [h]; rfl)]
    exact h

/-- The system reference: its action band begins a halt as it is left, not again. -/
theorem sysSample_effect {s t : State} (hh : s.dev.halting = false) (hm : s.dev.mode ≠ .halted) (hdev : t.dev = s.dev) (hbrt : t.brt = s.brt) :
    Keeps t (sysSample t) ∧ MayHalt s (sysSample t) ∧ ((bandClockAction, 0) ∈ t.mgc.warned → (sysSample t).dev = s.dev) := by
  have hquiet := clockAlarm_quiet t 0 200 t.mgc.readings.sysPpm
  unfold sysSample
  dsimp only
  generalize clockAlarm t 0 200 t.mgc.readings.sysPpm = u at hquiet
  have hu : u.dev = s.dev := hquiet.dev.trans hdev
  unfold band
  dsimp only
  split
  next hout =>
    have hnew : (bandClockAction, 0) ∉ u.mgc.warned := by
      have hfalse := (Bool.and_eq_true_iff.mp hout).2
      rw [Bool.not_eq_true', List.contains_eq_mem, decide_eq_false_iff_not] at hfalse
      exact hfalse
    have hbegun := mgmtHalt_of_mayHalt (t := modMgc u fun m => { m with warned := (bandClockAction, 0) :: m.warned }) hh hm (.inl hu)
      (hquiet.brt.trans hbrt) 0x0112 (ppmBytes t.mgc.readings.sysPpm)
    refine ⟨?_, .inr hbegun, fun hknown => absurd (hquiet.clock.mpr hknown) hnew⟩
    refine hquiet.toKeeps.trans (Keeps.trans ?_ (controlledHalt_keeps _ _ _ _))
    exact ⟨rfl, rfl, mem_entered (by decide)⟩
  · split
    · exact ⟨hquiet.toKeeps.trans ⟨rfl, rfl, mem_left (by decide)⟩, .inl hu, fun _ => hu⟩
    · exact ⟨hquiet.toKeeps, .inl hu, fun _ => hu⟩

/-- The junction sensors: at 110 °C a halt begins as the band is entered. -/
theorem junctionSample_effect {s t : State} (hh : s.dev.halting = false) (hm : s.dev.mode ≠ .halted) (hmay : MayHalt s t) (hbrt : t.brt = s.brt) :
    (junctionSample t).brt = t.brt ∧ (junctionSample t).mgc.readings = t.mgc.readings ∧ MayHalt s (junctionSample t) ∧
      (696 ≤ tMax t.mgc.readings → (bandHot, 0) ∉ t.mgc.warned → (junctionSample t).dev = haltBegun s 6) ∧
      (tMax t.mgc.readings < 696 → (junctionSample t).dev = t.dev) := by
  have hquiet : Quiet t _ := band_quiet (kind := bandCold) (i := 0) (by decide) (by decide) t (decide (tMax t.mgc.readings ≤ coldLimit t))
    (f := fun u => logEvent u 0x0201 (leBytes 1 (stepNow t) ++ leBytes 1 (stepNow t) ++ leBytes 2 (tMax t.mgc.readings))) fun u => logEvent_quiet u _ _
  unfold junctionSample
  dsimp only
  generalize band t bandCold 0 (decide (tMax t.mgc.readings ≤ coldLimit t)) (fun u =>
    logEvent u 0x0201 (leBytes 1 (stepNow t) ++ leBytes 1 (stepNow t) ++ leBytes 2 (tMax t.mgc.readings))) = u at hquiet
  have hu : MayHalt s u := by
    unfold MayHalt
    rw [hquiet.dev]
    exact hmay
  have hlimit : degrees 110 = 696 := by decide
  rw [hlimit]
  unfold band
  dsimp only
  split
  next hout =>
    obtain ⟨hhot, -⟩ := Bool.and_eq_true_iff.mp hout
    have hdev := mgmtHalt_of_mayHalt (t := modMgc u fun m => { m with warned := (bandHot, 0) :: m.warned }) hh hm hu (hquiet.brt.trans hbrt) 0x0110
      (leBytes 2 (hotSensor u.mgc.readings) ++ leBytes 2 (tMax t.mgc.readings))
    refine ⟨(controlledHalt_brt _ _ _ _).trans hquiet.brt, ?_, .inr hdev, fun _ _ => hdev, fun hcool => ?_⟩
    · rw [controlledHalt_mgc]
      exact hquiet.readings
    · exact absurd (of_decide_eq_true hhot) (Nat.not_le.mpr hcool)
  next hin =>
    have hcold (h : 696 ≤ tMax t.mgc.readings) (hnew : (bandHot, 0) ∉ t.mgc.warned) : False := by
      refine hin ?_
      rw [decide_eq_true h, List.contains_eq_mem, decide_eq_false (mt hquiet.hot.mp hnew)]
      rfl
    split
    · exact ⟨hquiet.brt, hquiet.readings, hu, fun h hnew => (hcold h hnew).elim, fun _ => hquiet.dev⟩
    · exact ⟨hquiet.brt, hquiet.readings, hu, fun h hnew => (hcold h hnew).elim, fun _ => hquiet.dev⟩

/-! #### Thermal steps -/

theorem thermalStep_same {s : State} {n : Nat} (h : n = stepNow s) : thermalStep s n = s := if_pos h

theorem thermalStep_other {s : State} {n : Nat} (h : n ≠ stepNow s) : (thermalStep s n).brt = { s.brt with stepReq := some n } ∧
    (thermalStep s n).dev = s.dev ∧ (thermalStep s n).mgc.readings = s.mgc.readings ∧ (thermalStep s n).mgc.logSeq = s.mgc.logSeq + 1 ∧
    ∃ data, (thermalStep s n).mgc.ring = (logEvent s 0x0201 data).mgc.ring := by
  unfold thermalStep
  rw [if_neg h]
  dsimp only
  split
  · exact ⟨rfl, rfl, rfl, rfl, _, rfl⟩
  · exact ⟨rfl, rfl, rfl, rfl, _, rfl⟩

/-- The step decided is the step in force from the next inhale. -/
theorem thermalStep_effect (s : State) (n : Nat) : stepNow (thermalStep s n) = n ∧ (thermalStep s n).dev = s.dev ∧
    (thermalStep s n).mgc.readings = s.mgc.readings ∧ { (thermalStep s n).brt with stepReq := s.brt.stepReq } = s.brt := by
  by_cases h : n = stepNow s
  · rw [thermalStep_same h]
    exact ⟨h.symm, rfl, rfl, rfl⟩
  · obtain ⟨hbrt, hdev, hreadings, -, -⟩ := thermalStep_other h
    refine ⟨?_, hdev, hreadings, ?_⟩
    · unfold stepNow
      rw [hbrt]
      rfl
    · rw [hbrt]

theorem stepWanted_limits (s : State) : (672 ≤ tMax s.mgc.readings → stepWanted s = 2) ∧
    (656 ≤ tMax s.mgc.readings → tMax s.mgc.readings < 672 → stepWanted s = max 1 (stepNow s)) ∧
    (tMax s.mgc.readings < 656 → stepNow s = 0 → stepWanted s = 0) := by
  have h104 : degrees 104 = 672 := by decide
  have h100 : degrees 100 = 656 := by decide
  unfold stepWanted
  dsimp only
  rw [h104, h100]
  refine ⟨fun h => if_pos h, fun h hlt => ?_, fun h hzero => ?_⟩
  · rw [if_neg (Nat.not_le.mpr hlt), if_pos h]
  · rw [if_neg (by omega), if_neg (by omega), hzero]
    rfl

theorem sensorSample_effect {s : State} (hh : s.dev.halting = false) (hm : s.dev.mode ≠ .halted) {r : Readings} (hok : Machine.readingsOk r = true)
    (htime : s.mgc.readings.millis ≤ r.millis) : let t := sensorSample s r
    t.mgc.readings = r ∧ { t.brt with stepReq := s.brt.stepReq } = s.brt ∧ (672 ≤ tMax r → stepNow t = 2) ∧
      (656 ≤ tMax r → tMax r < 672 → stepNow t = max 1 (stepNow s)) ∧ (tMax r < 656 → stepNow s = 0 → stepNow t = 0) ∧
      (696 ≤ tMax r → (bandHot, 0) ∉ s.mgc.warned → t.dev = haltBegun s 6) ∧
      (tMax r < 696 → (bandClockAction, 0) ∈ s.mgc.warned → t.dev = s.dev) := by
  have hgo : ¬ (!Machine.readingsOk r || decide (r.millis < s.mgc.readings.millis)) = true := by
    rw [hok, decide_eq_false (Nat.not_lt.mpr htime)]
    decide
  have hvolt : Quiet (modMgc s fun m => { m with readings := r }) _ := quiet_foldl voltSample voltSample_quiet (List.range 16) _
  unfold sensorSample
  rw [if_neg hgo]
  dsimp only
  generalize (List.range 16).foldl voltSample (modMgc s fun m => { m with readings := r }) = s1 at hvolt
  obtain ⟨hkeeps, hmay, hclock⟩ := sysSample_effect hh hm (t := s1) hvolt.dev hvolt.brt
  have hlinks : Quiet (sysSample s1) _ := (quiet_foldl pcieSample pcieSample_quiet (List.range 4) _).trans
    (quiet_foldl ethSample ethSample_quiet (List.range 4) _)
  generalize (List.range 4).foldl ethSample ((List.range 4).foldl pcieSample (sysSample s1)) = s2 at hlinks
  have hall : Keeps (modMgc s fun m => { m with readings := r }) s2 := (hvolt.toKeeps.trans hkeeps).trans hlinks.toKeeps
  have hreadings : s2.mgc.readings = r := hall.readings
  have hbrt : s2.brt = s.brt := hall.brt
  have hmay2 : MayHalt s s2 := by
    unfold MayHalt
    rw [hlinks.dev]
    exact hmay
  obtain ⟨hjbrt, hjreadings, hjmay, hjhot, hjcool⟩ := junctionSample_effect hh hm hmay2 hbrt
  rw [hreadings] at hjreadings hjhot hjcool
  generalize junctionSample s2 = s3 at hjbrt hjreadings hjmay hjhot hjcool
  have hmode : ¬ s3.dev.mode = .halted := by
    rcases hjmay with h | h <;> rw [h] <;> exact hm
  rw [if_neg hmode]
  unfold thermalDecide
  dsimp only
  have hstep : stepNow s3 = stepNow s := by
    unfold stepNow
    rw [hjbrt, hbrt]
  generalize hlow : (modMgc s3 fun m => { m with
    low98 := lowFor m.readings.millis (decide (tMax s3.mgc.readings ≤ degrees 98)) m.low98
    low94 := lowFor m.readings.millis (decide (tMax s3.mgc.readings ≤ degrees 94)) m.low94 }) = s4
  have hdev4 : s4.dev = s3.dev := hlow ▸ rfl
  have hbrt4 : s4.brt = s.brt := (show s4.brt = s3.brt from hlow ▸ rfl).trans (hjbrt.trans hbrt)
  have hreadings4 : s4.mgc.readings = r := (show s4.mgc.readings = s3.mgc.readings from hlow ▸ rfl).trans hjreadings
  have hstep4 : stepNow s4 = stepNow s := (show stepNow s4 = stepNow s3 from hlow ▸ rfl).trans hstep
  obtain ⟨hn, hdev, hread, hframe⟩ := thermalStep_effect s4 (stepWanted s4)
  obtain ⟨htwo, hone, hzero⟩ := stepWanted_limits s4
  rw [hreadings4, hstep4] at hone hzero
  rw [hreadings4] at htwo
  rw [hbrt4] at hframe
  refine ⟨hread.trans hreadings4, hframe, fun h => hn.trans (htwo h), fun h hlt => hn.trans (hone h hlt), fun h h0 => hn.trans (hzero h h0),
    fun h hnew => ?_, fun h hknown => ?_⟩
  · exact (hdev.trans hdev4).trans (hjhot h (mt hall.hot.mp hnew))
  · exact (hdev.trans hdev4).trans ((hjcool h).trans (hlinks.dev.trans (hclock (hvolt.clock.mpr hknown))))

/-! #### Requests over MCTP -/

section
variable {s : State}

theorem setCak_opens {d b : Bytes} {f : FabCfg} (hlc : lcNow s = 2 ∨ lcNow s = 3)
    (hopen : openEnvelope (transportSeed s) (transportScalar s) (transportPublic s) d = .payload b) (hf : fabCfg s (byteAt b 0) = some f)
    (hmac : f.macsec = true) (hlo : 1 ≤ byteAt b 1) (hhi : byteAt b 1 ≤ 32) (hlen : b.length = 34 + byteAt b 1) :
    setCak s d = answer (modFab s (byteAt b 0) (fun x => { x with cak := b.drop 1 })) .ok [] := by
  have hstate : (decide (lcNow s = lcProvisioned) || decide (lcNow s = lcCustody)) = true := by
    rcases hlc with h | h <;> rw [h] <;> rfl
  have hok : cakOk s b = true := by
    unfold cakOk
    dsimp only
    rw [decide_eq_true hlo, decide_eq_true hhi, decide_eq_true hlen, hf]
    exact hmac
  unfold setCak
  rw [hstate, hopen]
  dsimp only
  rw [hok]
  rfl

theorem setCak_badTag {d : Bytes} (hlc : lcNow s = 2 ∨ lcNow s = 3)
    (hopen : openEnvelope (transportSeed s) (transportScalar s) (transportPublic s) d = .badTag) : setCak s d = answer s .tagMismatch [] := by
  have hstate : (decide (lcNow s = lcProvisioned) || decide (lcNow s = lcCustody)) = true := by
    rcases hlc with h | h <;> rw [h] <;> rfl
  unfold setCak
  rw [hstate, hopen]
  rfl

theorem setCak_policy {d : Bytes} (hlc : lcNow s ≠ 2 ∧ lcNow s ≠ 3) : setCak s d = answer s .keyPolicy [] := by
  have hstate : (decide (lcNow s = lcProvisioned) || decide (lcNow s = lcCustody)) = false := by
    rw [decide_eq_false (show ¬ lcNow s = lcProvisioned from hlc.1), decide_eq_false (show ¬ lcNow s = lcCustody from hlc.2)]
    rfl
  unfold setCak
  rw [hstate]
  rfl

theorem modeFree_of (h : s.dev.halting = false ∧ s.dev.modeReq = none) : modeFree s = true := by
  unfold modeFree
  rw [h.1, h.2]
  rfl

theorem modeFree_not (h : ¬ (s.dev.halting = false ∧ s.dev.modeReq = none)) : modeFree s = false := by
  unfold modeFree
  cases hh : s.dev.halting with
  | true => rfl
  | false => cases hr : s.dev.modeReq with
    | none => exact absurd ⟨hh, hr⟩ h
    | some r => rfl

theorem recoverAlarm_frame (s : State) : ∃ mgc free, recoverAlarm s = { s with mgc := mgc, free := free } ∧ s.mgc.logSeq < mgc.logSeq :=
  ⟨_, _, rfl, Nat.lt_succ_self _⟩

theorem requestService_asks (hfree : s.dev.halting = false ∧ s.dev.modeReq = none) (hmode : s.dev.mode = .recover) (hrole : s.twn.role = 0) :
    requestService s = if anyPoolBelow s then answer s .inputInvalid [] else answer (askMode s .service) .ok [] := by
  have htaken : ¬ (!modeFree s || decide (s.dev.mode ≠ .recover)) = true := by
    rw [modeFree_of hfree, decide_eq_false (not_not_intro hmode)]
    decide
  have hown : ¬ (decide (s.twn.role = 2) && decide (takeoverEvidence s ≠ 0) && !anyPoolBelow s) = true := by
    rw [hrole]
    simp
  have hover : recoverOver s = !anyPoolBelow s := by
    unfold recoverOver
    rw [hrole]
    simp
  unfold requestService modeAnswer
  rw [if_neg htaken, if_neg hown, hover, if_neg (show ¬ s.twn.role = 2 by omega)]
  cases anyPoolBelow s <;> rfl

theorem requestTune_stages {q : Bytes} (hfree : s.dev.halting = false ∧ s.dev.modeReq = none) (hnone : s.dev.tuneReq = none)
    (hmode : s.dev.mode = .service ∨ s.dev.mode = .shadow ∨ s.dev.mode = .recover) (hlen : q.length = 16) (hmay : MayStage s .mctp) :
    ∃ id, NewId s id ∧ requestTune s q = mctpSaid (staged s id .tuneEntry .mctp q (zeros 12)) .ok (leBytes 4 id) := by
  obtain ⟨id, hnew, hstage⟩ := stageChange_staged .tuneEntry q (zeros 12) hmay
  have hout : boxOut s .mctp = zeros 12 := by
    show leBytes 8 Mailbox.init.outAddr.toNat ++ leBytes 4 Mailbox.init.outLen = zeros 12
    decide
  have hup : (decide (s.dev.mode = .service) || decide (s.dev.mode = .shadow) || decide (s.dev.mode = .recover)) = true := by
    rcases hmode with h | h | h <;> rw [h] <;> rfl
  have hfrom : tuneFrom s = true := by
    unfold tuneFrom
    rw [modeFree_of hfree, hnone, hup]
    rfl
  refine ⟨id, hnew, ?_⟩
  unfold requestTune stageRequest
  rw [hfrom, decide_eq_false (not_not_intro hlen), hout, hstage]
  rfl

end

/-- Settles O60: the reads and settings answer from the state; a mode request asks for its transition or is refused; the sensors decide steps and
halts by their bands. -/
theorem management : Obligations.Management := by
  intro s
  refine ⟨fun hlive => ?_, fun ⟨hlive, hlc⟩ => ⟨?_, fun n => ?_, fun i => ⟨fun id c hc => ?_, fun hnone => ?_⟩, fun ms => ?_, fun e => ?_,
    fun d => ⟨fun hpolicy => ?_, fun b f hstate hopen hf hmac hlo hhi hlen => ?_, fun hstate hopen => ?_⟩, ?_⟩, fun hrun hh => ?_⟩
  · have hexec : exec .getStatus s = whenLive s (answer s .ok (if lcNow s = lcScrap then leBytes 4 (lcsState s) else statusBody s)) := rfl
    rw [hexec, whenLive, hlive]
    rfl
  · exact exec_mctpRun (t := answer s .ok (sensorsBody s)) rfl hlive hlc
  · exact exec_mctpRun (t := answer s .ok (logBody s n)) rfl hlive hlc
  · have hexec : exec (.queryChange i) s = mctpRun s (queryChange s i.toNat) := rfl
    rw [exec_mctpRun hexec hlive hlc, queryChange, hc]
    rfl
  · have hexec : exec (.queryChange i) s = mctpRun s (queryChange s i.toNat) := rfl
    rw [exec_mctpRun hexec hlive hlc, queryChange, hnone]
    rfl
  · exact exec_mctpRun (t := answer (modMgc s fun m => { m with timeBase := some (ms.toNat, m.readings.millis) }) .ok []) rfl hlive hlc
  · exact exec_mctpRun (t := emit (modMgc s fun m => { m with eid := e }) (.mctpControl 0 [0, e, 0])) rfl hlive hlc
  · have hexec : exec (.setCak d) s = mctpRun s (setCak s d) := rfl
    rw [exec_mctpRun hexec hlive hlc, setCak_policy hpolicy]
    rfl
  · have hexec : exec (.setCak d) s = mctpRun s (setCak s d) := rfl
    refine ⟨_, exec_mctpRun hexec hlive hlc, ?_⟩
    rw [setCak_opens hstate hopen hf hmac hlo hhi hlen]
    exact onlyFab_modFab { s with out := .mctp .ok [] :: s.out } (byteAt b 0) (fun x => { x with cak := b.drop 1 })
  · have hexec : exec (.setCak d) s = mctpRun s (setCak s d) := rfl
    rw [exec_mctpRun hexec hlive hlc, setCak_badTag hstate hopen]
    rfl
  · intro free ask ups
    have hups : (decide (s.dev.mode = .service) || decide (s.dev.mode = .migrate) || decide (s.dev.mode = .shadow)) = true ↔ ups := by
      simp only [Bool.or_eq_true, decide_eq_true_iff, or_assoc, ups]
    have hrecover : exec .modeRequestRecover s = mctpRun s (modeAnswer s (modeFree s && (decide (s.dev.mode = .service) ||
      decide (s.dev.mode = .migrate) || decide (s.dev.mode = .shadow))) (askMode (recoverAlarm s) .recover)) := rfl
    have hservice : exec .modeRequestService s = mctpRun s (requestService s) := rfl
    refine ⟨fun hfree hmode => ?_, fun hnot => ?_, fun hfree hmode hrole => ⟨fun hbelow => ?_, fun hbelow => ?_⟩,
      fun q hfree hnone hmode hlen hready hmay => ?_, fun e hmode hh => ?_⟩
    · obtain ⟨mgc, free', halarm, hlog⟩ := recoverAlarm_frame s
      refine ⟨_, exec_mctpRun hrecover hlive hlc, ?_⟩
      rw [modeFree_of hfree, hups.mpr hmode, halarm]
      exact ⟨rfl, rfl, hlog⟩
    · rw [exec_mctpRun hrecover hlive hlc]
      have hrefused : (modeFree s && (decide (s.dev.mode = .service) || decide (s.dev.mode = .migrate) || decide (s.dev.mode = .shadow))) = false := by
        rcases hnot with h | h
        · rw [modeFree_not h, Bool.false_and]
        · rw [Bool.eq_false_iff.mpr (mt hups.mp h), Bool.and_false]
      rw [hrefused]
      rfl
    · rw [exec_mctpRun hservice hlive hlc, requestService_asks hfree hmode hrole, hbelow]
      rfl
    · rw [exec_mctpRun hservice hlive hlc, requestService_asks hfree hmode hrole, hbelow]
      rfl
    · obtain ⟨id, hnew, hstage⟩ := requestTune_stages hfree hnone hmode hlen hmay
      have hexec : exec (.modeRequestTune q) s = mctpRun s (mctpDraw s (.mctp [] q) (requestTune s q)) := rfl
      refine ⟨id, hnew, ?_⟩
      rw [exec_mctpRun hexec hlive hlc, mctpDraw, hready, hstage]
      rfl
    · have hexec : exec (.modeRequestHalted e) s = mctpRun s (requestHalt s e) := rfl
      have htaken : (decide (s.dev.mode ≠ .halted) && !s.dev.halting) = true := by
        rw [decide_eq_true hmode, hh]
        rfl
      obtain ⟨hdev, hlog⟩ := mgmtHalt_begins hh hmode 0x0114 [e]
      refine ⟨_, exec_mctpRun hexec hlive hlc, ?_⟩
      rw [requestHalt, htaken]
      exact ⟨hdev, rfl, hlog⟩
  · have hlive := isLive_of_running hrun
    have hm := notHalted_of_running hrun
    refine ⟨fun m hne => ?_, ?_, ?_, fun hne => ?_, fun hsame => ?_, fun r hok htime => ?_⟩
    · have hexec : exec (.voltageFault m) s = whenLive s (voltageFault s m.val) := rfl
      have hval : ¬ m.val = 15 := fun h => hne (Fin.ext h)
      refine does_whenLive hexec hlive ?_
      rw [voltageFault, if_neg hval]
      exact mgmtHalt_begins hh hm _ _
    · have hexec : exec (.voltageFault 15) s = whenLive s (voltageFault s 15) := rfl
      rw [hexec, whenLive, hlive]
      rfl
    · have hexec : exec (.thermalComparator true) s = whenLive s (controlledHalt s haltMgmt 0x0110
        (leBytes 2 (hotSensor s.mgc.readings) ++ leBytes 2 (tMax s.mgc.readings))) := rfl
      exact does_whenLive hexec hlive (mgmtHalt_begins hh hm _ _)
    · have hexec : exec (.thermalComparator false) s = whenLive s (if s.dev.mode = .halted then s else thermalStep s 2) := rfl
      obtain ⟨hbrt, hdev, -, hseq, data, hring⟩ := thermalStep_other (Ne.symm hne)
      obtain ⟨-, hhead⟩ := logEvent_logged (s := s) (code := 0x0201) data hm rfl
      refine does_whenLive hexec hlive ?_
      rw [if_neg hm]
      exact ⟨hbrt, hdev, hseq, fun r hr => hhead r (hring ▸ hr)⟩
    · have hexec : exec (.thermalComparator false) s = whenLive s (if s.dev.mode = .halted then s else thermalStep s 2) := rfl
      rw [hexec, whenLive, hlive, if_neg hm, thermalStep_same hsame.symm]
      rfl
    · have hexec : exec (.sensorSample r) s = whenLive s (sensorSample s r) := rfl
      exact does_whenLive hexec hlive (sensorSample_effect hh hm hok htime)

end Sys2Proof.ManagementRows


/-! ### Fabric ports: frames, pauses, links and MACsec (R285 to R290) -/

namespace Sys2Proof.FabricRows

open Sys2Proof Sys2Proof.Machine Sys2Proof.Safety Sys2Proof.Rows Sys2Proof.Laws Sys2Proof.OpeningRows Sys2Proof.ManagementRows

/-! #### Saturation and single bits -/

theorem sat16_eq (x : Nat) : sat 16 x = min 65535 x := MemoryRows.sat16_eq x

theorem testBit_or_two_pow (x i b : Nat) : (x ||| 2 ^ i).testBit b = (x.testBit b || b = i) := by
  rw [Nat.testBit_or, Nat.testBit_two_pow]
  exact congrArg _ (decide_eq_decide.mpr eq_comm)

/-- A bit that is set is taken away by subtraction. -/
theorem testBit_sub_two_pow {x i : Nat} (h : x.testBit i = true) (b : Nat) : (x - 2 ^ i).testBit b = (x.testBit b && b ≠ i) := by
  obtain ⟨z, rfl⟩ : ∃ z, x = 2 ^ i + z := ⟨x - 2 ^ i, (Nat.add_sub_cancel' (Nat.ge_two_pow_of_testBit h)).symm⟩
  have hz : z.testBit i = false := by
    rw [Nat.testBit_two_pow_add_eq, Bool.not_eq_true'] at h
    exact h
  rw [Nat.add_sub_cancel_left]
  rcases lt_trichotomy b i with hlt | rfl | hgt
  · rw [Nat.testBit_two_pow_add_gt hlt, decide_eq_true (Nat.ne_of_lt hlt), Bool.and_true]
  · rw [hz, decide_eq_false (not_not_intro rfl), Bool.and_false]
  · have hhigh : (2 ^ i + z) / 2 ^ (i + 1) = z / 2 ^ (i + 1) := by
      have heven : z / 2 ^ i % 2 ≠ 1 := by
        rw [Nat.testBit_eq_decide_div_mod_eq] at hz
        exact of_decide_eq_false hz
      rw [Nat.pow_succ, ← Nat.div_div_eq_div_mul, ← Nat.div_div_eq_div_mul, Nat.add_div_left _ (Nat.two_pow_pos i)]
      omega
    obtain ⟨d, rfl⟩ : ∃ d, b = d + (i + 1) := ⟨b - (i + 1), by omega⟩
    rw [Nat.testBit_add, Nat.testBit_add, hhigh, decide_eq_true (by omega), Bool.and_true]

/-- A bit is cleared whether or not it is set. -/
theorem testBit_cleared (x i b : Nat) : (x - flag (bitOf x i) * 2 ^ i).testBit b = (x.testBit b && b ≠ i) := by
  unfold bitOf flag
  cases h : x.testBit i with
  | true =>
    rw [if_pos rfl, Nat.one_mul]
    exact testBit_sub_two_pow h b
  | false =>
    rw [if_neg Bool.false_ne_true, Nat.zero_mul, Nat.sub_zero]
    by_cases hb : b = i
    · rw [hb, h, Bool.false_and]
    · rw [decide_eq_true hb, Bool.and_true]

/-! #### Writes of one port -/

theorem onlyFab_then {s t : State} {p : Nat} {y : FabPort} (h : OnlyFab s t p y) (f : FabPort → FabPort) : OnlyFab s (modFab t p f) p (f y) := by
  have hwrite := onlyFab_modFab t p f
  refine ⟨hwrite.port.trans (congrArg f h.port), fun q hq => (hwrite.others q hq).trans (h.others q hq), ?_⟩
  exact (show { modFab t p f with pxt := { (modFab t p f).pxt with ports := s.pxt.ports } } = { t with pxt := { t.pxt with ports := s.pxt.ports } } from rfl).trans h.frame

/-- Where nothing waits, flushing a port leaves it as it is. -/
theorem onlyFab_txFlush {s t : State} {p : Nat} {y : FabPort} (h : OnlyFab s t p y) (hq : y.txq = []) : OnlyFab s (txFlush t p) p y := by
  have hwait : (fabPort t p).txq = [] := (congrArg FabPort.txq h.port).trans hq
  have hflush : txFlush t p = modFab t p (fun x => { x with txq := [] }) := by
    unfold txFlush
    rw [hwait]
    rfl
  have hsame : { y with txq := [] } = y := by rw [← hq]
  rw [hflush]
  exact hsame ▸ onlyFab_then h (fun x => { x with txq := [] })

section
variable {s : State} {p : Fin 64} {f : FabCfg}

/-! #### Frames -/

theorem frameMessage_port {cfg : PxtCfg} {b : Bytes} {z : PxtIn} (h : frameMessage cfg f p b = some z) : z.fport = p := by
  unfold frameMessage at h
  dsimp only at h
  split at h
  · cases h
  · split at h
    · cases h
      rfl
    · split at h
      · obtain ⟨r, -, rfl⟩ := Option.map_eq_some_iff.mp h
        rfl
      · split at h
        · obtain ⟨r, -, rfl⟩ := Option.map_eq_some_iff.mp h
          rfl
        · cases h

theorem ethRead_dst (b : Bytes) : (ethRead b).dst = be b 0 6 := by
  unfold ethRead
  split <;> rfl

theorem ethRead_tagged {b : Bytes} (h : be b 12 2 = 0x8100) : (ethRead b).vid = some (be b 14 2 % 4096) := by
  unfold ethRead
  rw [if_pos h]

theorem ethRead_untagged {b : Bytes} (h : be b 12 2 ≠ 0x8100) : (ethRead b).vid = none := by
  unfold ethRead
  rw [if_neg h]

/-- A frame too short, for another address, or tagged otherwise than the port carries no message. -/
theorem frameMessage_none {cfg : PxtCfg} {b : Bytes} (h : b.length < 14 ∨ be b 0 6 ≠ f.mac.toNat ∨ (f.tagged = false ∧ be b 12 2 = 0x8100) ∨
    (f.tagged = true ∧ (be b 12 2 ≠ 0x8100 ∨ be b 14 2 % 4096 ≠ f.vid))) : frameMessage cfg f p b = none := by
  have hbad : (decide (b.length < 14) || decide ((ethRead b).dst ≠ f.mac.toNat) || !vlanOk f (ethRead b).vid) = true := by
    rcases h with h | h | ⟨htag, h⟩ | ⟨htag, h⟩
    · rw [decide_eq_true h, Bool.true_or, Bool.true_or]
    · rw [ethRead_dst, decide_eq_true h, Bool.or_true, Bool.true_or]
    · have hvlan : vlanOk f (ethRead b).vid = false := by
        rw [ethRead_tagged h]
        unfold vlanOk
        dsimp only
        rw [htag, Bool.false_and]
      rw [hvlan, Bool.not_false, Bool.or_true]
    · have hvlan : vlanOk f (ethRead b).vid = false := by
        rcases Decidable.em (be b 12 2 = 0x8100) with hv | hv
        · rw [ethRead_tagged hv]
          unfold vlanOk
          dsimp only
          rw [decide_eq_false (h.resolve_left (not_not_intro hv)), Bool.and_false]
        · rw [ethRead_untagged hv]
          unfold vlanOk
          rw [htag]
          rfl
      rw [hvlan, Bool.not_false, Bool.or_true]
  unfold frameMessage
  dsimp only
  rw [if_pos hbad]

theorem clearFrame_long {n : Nat} (h : 9314 < n) (b : Bytes) : clearFrame s p f n b = dropBad s := if_pos (by omega)

theorem clearFrame_none {b : Bytes} (h : frameMessage (pxtCfg s) f p b = none) (n : Nat) : clearFrame s p f n b = dropBad s := by
  unfold clearFrame
  split
  · rfl
  · rw [h]

theorem clearFrame_message {b : Bytes} {z : PxtIn} (h : frameMessage (pxtCfg s) f p b = some z) {n : Nat} (hn : n ≤ 9314) :
    clearFrame s p f n b = rxMessage (rxFill s p.val f n) z f := by
  unfold clearFrame
  rw [if_neg (by omega), h]

theorem frameReceive_fec {y : EthFrame} (hf : fabCfg s y.fport.val = some f) (hup : (fabPort s y.fport.val).linkUp = true) (hfec : y.fecOk = false) :
    frameReceive s y = modFab s y.fport.val (fun x => { x with fecUncorr := sat 16 (x.fecUncorr + 1) }) := by
  unfold frameReceive
  rw [hf]
  dsimp only
  rw [hup, hfec]
  rfl

theorem frameReceive_clear {y : EthFrame} (hf : fabCfg s y.fport.val = some f) (hup : (fabPort s y.fport.val).linkUp = true) (hfec : y.fecOk = true)
    (hserves : fabricServes s = true) (hmac : f.macsec = false) : frameReceive s y = clearFrame s y.fport f y.bytes.length y.bytes := by
  unfold frameReceive
  rw [hf]
  dsimp only
  rw [hup, hfec, hserves, hmac]
  rfl

theorem frameReceive_protected {y : EthFrame} (hf : fabCfg s y.fport.val = some f) (hup : (fabPort s y.fport.val).linkUp = true)
    (hfec : y.fecOk = true) (hserves : fabricServes s = true) (hmac : f.macsec = true) (heapol : isEapol y.bytes = false) : frameReceive s y =
      match macsecReceive s y.fport.val y.bytes with
      | none => modFab s y.fport.val (fun x => { x with macsecDrop := sat 16 (x.macsecDrop + 1) })
      | some (b, t) => clearFrame t y.fport f y.bytes.length b := by
  unfold frameReceive
  rw [hf]
  dsimp only
  rw [hup, hfec, hserves, hmac, heapol]
  rfl

/-- The port after a frame was opened under an association. -/
theorem macsecReceive_some {b c : Bytes} {an pn : Nat} (h : macsecOpen (fabPort s p.val).sas b = some (an, pn, c)) :
    macsecReceive s p.val b = some (c, macsecCharge (modFab s p.val (fun y => { y with
      sas := tblMod y.sas an (fun a => { a with rxNext := max a.rxNext (pn + 1) }) })) b.length) := by
  unfold macsecReceive
  rw [h]
  rfl

theorem frameReceive_drops {y : EthFrame} {c : Bytes} {an pn : Nat} {a : MacSa} (hf : fabCfg s y.fport.val = some f)
    (hup : (fabPort s y.fport.val).linkUp = true) (hfec : y.fecOk = true) (hserves : fabricServes s = true) (hmac : f.macsec = true)
    (heapol : isEapol y.bytes = false) (hopen : macsecOpen (fabPort s y.fport.val).sas y.bytes = some (an, pn, c))
    (ha : tblGet (fabPort s y.fport.val).sas an = some a) (hnone : frameMessage (pxtCfg s) f y.fport c = none) : let t := frameReceive s y
    t.pxt.badFrame = min 65535 (s.pxt.badFrame + 1) ∧ tblGet (fabPort t y.fport.val).sas an = some { a with rxNext := max a.rxNext (pn + 1) } ∧
      t.pxt.ops = s.pxt.ops ∧ t.bore = s.bore := by
  have hwrite := (onlyFab_modFab s y.fport.val (fun x => { x with
    sas := tblMod x.sas an (fun a => { a with rxNext := max a.rxNext (pn + 1) }) })).port
  have hdrop (t : State) (ht : pxtCfg t = pxtCfg s) (n : Nat) : clearFrame t y.fport f n c = dropBad t := clearFrame_none (ht.symm ▸ hnone) n
  have hsas := (congrArg (fun x : FabPort => tblGet x.sas an) hwrite).trans ((tblGet_mod_same _ _ _).trans (congrArg _ ha))
  rw [frameReceive_protected hf hup hfec hserves hmac heapol, macsecReceive_some hopen]
  dsimp only
  rw [hdrop (macsecCharge _ _)]
  · exact ⟨sat16_eq _, hsas, rfl, rfl⟩
  · rfl

/-! #### A KEEPALIVE in a frame -/

theorem rxMessage_keepalive {z : PxtIn} {m : PxtMsg} {st : Machine.Stream} (ha : Arrives s z 11 true m) (hg : FromGateway s z m st)
    (hf : fabCfg s z.fport.val = some f) (n : Nat) : let t := rxMessage (rxFill s z.fport.val f n) z f
    tblGet t.pxt.heard (gatewayKey m.sid) = some s.brt.count ∧ t.pxt.ops = s.pxt.ops ∧ t.bore.flows = s.bore.flows := by
  obtain ⟨ports, out, free, hfill⟩ := rxFill_frame s z.fport.val f n
  have htyp : m.typ = 11 := ha.kind.2
  have hkeep (u : State) : plainPreserve u z m st = u := by
    unfold plainPreserve
    rw [htyp]
    rfl
  have hstep : rxMessage (rxFill s z.fport.val f n) z f =
      heardFrom { s with pxt := { s.pxt with ports := ports }, out := out, free := free } m.sid := by
    have hplain (u : State) (hdev : u.dev = s.dev) (hbore : u.bore.streams = s.bore.streams) : rxPlain u z m = heardFrom u m.sid :=
      (rxPlain_fromGateway hg ha.steady hdev hbore).trans (hkeep _)
    rw [rxMessage_arrives ha hf, hg.own, if_neg Bool.false_ne_true, if_pos rfl, hfill]
    exact hplain _ rfl rfl
  rw [hstep]
  exact ⟨tblGet_put_same _ _ _, rfl, rfl⟩

/-! #### Pauses -/

theorem pfcXoff_pauses (hf : fabCfg s p.val = some f) (hpfc : f.pfc = true) (prio : Nat) {q : Nat} (hq : q ≠ 0) :
    pfcXoff s p.val prio q = modFab s p.val (fun y => { y with xoffRcvd := y.xoffRcvd ||| 2 ^ prio }) := by
  unfold pfcXoff
  rw [hf]
  dsimp only
  rw [hpfc, if_neg hq]
  rfl

theorem pfcXoff_ends (hf : fabCfg s p.val = some f) (hpfc : f.pfc = true) (prio : Nat) : pfcXoff s p.val prio 0 =
    txFlush (modFab s p.val (fun y => { y with xoffRcvd := y.xoffRcvd - flag (bitOf y.xoffRcvd prio) * 2 ^ prio })) p.val := by
  unfold pfcXoff
  rw [hf]
  dsimp only
  rw [hpfc]
  rfl

theorem pfcXoff_clears (hf : fabCfg s p.val = some f) (hpfc : f.pfc = true) (hq : (fabPort s p.val).txq = []) (prio : Fin 8) :
    ∃ n, OnlyFab s (pfcXoff s p.val prio.val 0) p.val { fabPort s p.val with xoffRcvd := n } ∧
      ∀ b, n.testBit b = ((fabPort s p.val).xoffRcvd.testBit b && b ≠ prio.val) := by
  rw [pfcXoff_ends hf hpfc]
  exact ⟨_, onlyFab_txFlush (onlyFab_modFab s p.val _) hq, testBit_cleared _ _⟩

theorem pfcXon_sends (hf : fabCfg s p.val = some f) (hsent : (fabPort s p.val).xoffSent = true) (hmode : s.dev.mode ≠ .shadow)
    (hheld : f.macsec = true → s.pxt.macHeld = false) : pfcXon s p.val =
      emit (modFab s p.val (fun y => { y with fill := min y.fill (131072 * f.lanes), xoffSent := false })) (.pfc p.val f.pcp false) := by
  have hgo : ¬ (!(fabPort s p.val).xoffSent || decide (s.dev.mode = .shadow) || (f.macsec && s.pxt.macHeld)) = true := by
    rw [hsent, decide_eq_false hmode]
    cases hm : f.macsec with
    | true =>
      rw [hheld hm]
      decide
    | false =>
      rw [Bool.false_and]
      decide
  have hhalf : rxBufferOf f / 2 = 131072 * f.lanes := by
    unfold rxBufferOf
    omega
  unfold pfcXon
  rw [hf]
  dsimp only
  rw [if_neg hgo, hhalf]

/-! #### Links and associations -/

theorem linkUpOp_up (hf : fabCfg s p.val = some f) (hrole : f.role ≠ 0) : linkUpOp s (.fabric p) f.lanes (laneSpeed f.lanes) =
    txFlush (modFab s p.val (fun y => { y with linkUp := true })) p.val := by
  unfold linkUpOp
  dsimp only
  rw [hf]
  dsimp only
  rw [if_pos (by rw [decide_eq_true hrole, decide_eq_true rfl, decide_eq_true rfl]; rfl)]

theorem linkUpOp_ignored (hf : fabCfg s p.val = some f) {w v : Nat} (h : f.role = 0 ∨ w ≠ f.lanes ∨ v ≠ laneSpeed f.lanes) :
    linkUpOp s (.fabric p) w v = s := by
  unfold linkUpOp
  dsimp only
  rw [hf]
  dsimp only
  rw [if_neg fun hgood => ?_]
  simp only [Bool.and_eq_true, decide_eq_true_iff] at hgood
  obtain ⟨⟨hrole, hw⟩, hv⟩ := hgood
  exact h.elim hrole fun h' => h'.elim (· hw) (· hv)

theorem sakInstall_installs (hf : fabCfg s p.val = some f) (hmac : f.macsec = true) (hcak : (fabPort s p.val).cak ≠ []) (an : Nat) (sak : BitVec 256)
    (salt : BitVec 96) (ssci peerSsci : BitVec 32) (peerSci : BitVec 64) : sakInstall s p.val an (.install sak salt ssci peerSsci peerSci) =
      txFlush (emit (modFab s p.val (fun y => { y with
        sas := tblPut y.sas an ⟨sak, salt, ssci, peerSsci, peerSci, 1⟩
        nextAn := some an })) (.macsecSa p.val an)) p.val := by
  unfold sakInstall
  rw [hf]
  dsimp only
  rw [hmac, decide_eq_false hcak]
  rfl

theorem sakInstall_retires (hf : fabCfg s p.val = some f) (hmac : f.macsec = true) (hcak : (fabPort s p.val).cak ≠ []) (an : Nat) :
    sakInstall s p.val an .retire = modFab s p.val (fun y => { y with
      sas := tblDel y.sas an
      txAn := if y.txAn = some an then none else y.txAn
      nextAn := if y.nextAn = some an then none else y.nextAn }) := by
  unfold sakInstall
  rw [hf]
  dsimp only
  rw [hmac, decide_eq_false hcak]
  rfl

theorem eapolReceive_passes (hf : fabCfg s p.val = some f) (hup : (fabPort s p.val).linkUp = true) (hserves : fabricServes s = true)
    (hmac : f.macsec = true) (bs : Bytes) : eapolReceive s p.val 0x0180C2000003 bs = emit s (.eapol p.val bs) := by
  unfold eapolReceive
  rw [hf]
  dsimp only
  rw [hup, hserves, hmac]
  rfl

theorem eapolReceive_drops (hf : fabCfg s p.val = some f) (hup : (fabPort s p.val).linkUp = true) (hserves : fabricServes s = true) {d : BitVec 48}
    (h : f.macsec = false ∨ d ≠ 0x0180C2000003) (bs : Bytes) : eapolReceive s p.val d bs = dropBad s := by
  have hother : ¬ (f.macsec && decide (d = paeGroup)) = true := by
    rcases h with h | h
    · rw [h, Bool.false_and]
      exact Bool.false_ne_true
    · rw [decide_eq_false (show ¬ d = paeGroup from h), Bool.and_false]
      exact Bool.false_ne_true
  unfold eapolReceive
  rw [hf]
  dsimp only
  rw [hup, hserves, if_neg hother]
  rfl

end

end Sys2Proof.FabricRows


/-! ### The timers of the fabric side, and O52 (R279, R305, R307, R319) -/

namespace Sys2Proof.FabricTimers

open Sys2Proof Sys2Proof.Machine Sys2Proof.Safety Sys2Proof.Rows Sys2Proof.Laws Sys2Proof.OpeningRows Sys2Proof.ManagementRows
open Sys2Proof.FabricRows Sys2Proof.LadderRows Sys2Proof.FunctionRows Sys2Proof.Still Sys2Proof.ModeRows

/-! #### What a transmission changes -/

/-- A transmission touches the ports, what MACsec counts, and what leaves. -/
theorem txFrame_frame (s : State) (p : Nat) (dst : Peer) (carriage : Nat) (b : Bytes) : ∃ ports n out,
    txFrame s p dst carriage b = { s with pxt := { s.pxt with ports := ports, macBytes := n }, out := out } := by
  unfold txFrame
  split
  · exact ⟨_, _, _, rfl⟩
  · dsimp only
    split
    · exact ⟨_, _, _, rfl⟩
    · split
      · unfold txProtected
        dsimp only
        split
        · exact ⟨_, _, _, rfl⟩
        · split <;> exact ⟨_, _, _, rfl⟩
      · exact ⟨_, _, _, rfl⟩

/-- A port that may send sends the frame at once. -/
theorem txFrame_sends {s : State} {p : Nat} {c : FabCfg} (h : SendsNow s p c) (dst : Peer) (carriage : Nat) (b : Bytes) :
    txFrame s p dst carriage b = emit s (.frame p (frameBytes (pxtCfg s) c (portPeer c carriage) dst carriage b)) := by
  obtain ⟨hcfg, hup, hq, hpause, hmac⟩ := h
  have hcan : canSend c (fabPort s p) = true := by
    unfold canSend
    rw [hup, hpause, hmac]
    rfl
  unfold txFrame
  rw [hcfg]
  dsimp only
  rw [hq, hcan, hmac]
  rfl

theorem opTx_frame (s : State) (o : Nat) (b : Bytes) : ∃ ports n quiet out,
    opTx s o b = { s with pxt := { s.pxt with ports := ports, macBytes := n, quiet := quiet }, out := out } := by
  unfold opTx
  split
  · exact ⟨_, _, _, _, rfl⟩
  · next x _ =>
    obtain ⟨ports, n, out, htx⟩ := txFrame_frame s x.fport x.peer x.carriage b
    rw [htx]
    exact ⟨_, _, _, _, rfl⟩

/-- Messages sent again under an operation leave the operations, the bore and the jobs. -/
theorem opTx_foldl_frame (o : Nat) : ∀ (l : List (Nat × Bytes)) (s : State), ∃ ports n quiet out,
    l.foldl (fun t e => opTx t o e.2) s = { s with pxt := { s.pxt with ports := ports, macBytes := n, quiet := quiet }, out := out }
  | [], _ => ⟨_, _, _, _, rfl⟩
  | e :: l, s => by
    obtain ⟨ports, n, quiet, out, htx⟩ := opTx_frame s o e.2
    rw [List.foldl_cons, htx]
    exact opTx_foldl_frame o l _

theorem opTx_sends {s : State} {o : Nat} {x : HopOp} {c : FabCfg} (hop : tblGet s.pxt.ops o = some x) (h : SendsNow s x.fport c) (b : Bytes) :
    opTx s o b = noteSent (emit s (.frame x.fport (frameBytes (pxtCfg s) c (portPeer c x.carriage) x.peer x.carriage b))) (opPeerKey x) := by
  unfold opTx
  rw [hop]
  dsimp only
  rw [txFrame_sends h]

/-- Over a port that may send, every message sent again leaves. -/
theorem opTx_foldl_sends {o : Nat} {x : HopOp} {c : FabCfg} : ∀ (l : List (Nat × Bytes)) {s : State}, tblGet s.pxt.ops o = some x →
    SendsNow s x.fport c → (∀ y ∈ s.out, y ∈ (l.foldl (fun t e => opTx t o e.2) s).out) ∧
      ∀ e ∈ l, Out.frame x.fport (frameBytes (pxtCfg s) c (portPeer c x.carriage) x.peer x.carriage e.2) ∈ (l.foldl (fun t e => opTx t o e.2) s).out
  | [], _, _, _ => ⟨fun _ hy => hy, fun _ he => absurd he (List.not_mem_nil)⟩
  | e :: l, s, hop, hsend => by
    obtain ⟨hkept, hsent⟩ := opTx_foldl_sends (o := o) (x := x) (c := c) l
      (s := noteSent (emit s (.frame x.fport (frameBytes (pxtCfg s) c (portPeer c x.carriage) x.peer x.carriage e.2))) (opPeerKey x)) hop hsend
    rw [List.foldl_cons, opTx_sends hop hsend]
    refine ⟨fun y hy => hkept y (List.mem_cons_of_mem _ hy), fun d hd => ?_⟩
    rcases List.mem_cons.mp hd with rfl | hd
    · exact hkept _ List.mem_cons_self
    · exact hsent d hd

section
variable {s : State} {o : Nat} {x : HopOp}

/-! #### Messages without acknowledgement (R305) -/

theorem retransmit_due (hop : tblGet s.pxt.ops o = some x) (hsent : x.sent ≠ []) (hdue : x.since + 2 ^ (pxtCfg s).retryLog2 ≤ s.brt.count)
    (hserves : fabricServes s = true) : retransmit s o =
      if x.timeouts + 1 = (pxtCfg s).retryMax then
        opUnreachable (modOp s o (fun y => { y with timeouts := y.timeouts + 1, since := s.brt.count })) o
      else (x.sent.filter (fun e => !s.dev.halting || !carriesData e.2)).foldl (fun t e => opTx t o e.2)
        (modOp s o (fun y => { y with timeouts := y.timeouts + 1, since := s.brt.count })) := by
  have hgo : ¬ (decide (x.sent = []) || decide (s.brt.count < x.since + 2 ^ (pxtCfg s).retryLog2) || !fabricServes s) = true := by
    rw [decide_eq_false hsent, decide_eq_false (Nat.not_lt.mpr hdue), hserves]
    decide
  unfold retransmit
  rw [hop]
  dsimp only
  exact if_neg hgo

theorem modOp_same (hop : tblGet s.pxt.ops o = some x) (f : HopOp → HopOp) : tblGet (modOp s o f).pxt.ops o = some (f x) :=
  (tblGet_mod_same _ _ _).trans (congrArg _ hop)

theorem retransmit_again (hop : tblGet s.pxt.ops o = some x) (hsent : x.sent ≠ []) (hdue : x.since + 2 ^ (pxtCfg s).retryLog2 ≤ s.brt.count)
    (hserves : fabricServes s = true) (hhalt : s.dev.halting = false) (htries : x.timeouts + 1 ≠ (pxtCfg s).retryMax) : let t := retransmit s o
    tblGet t.pxt.ops o = some { x with timeouts := x.timeouts + 1, since := s.brt.count } ∧
      (∀ k, k ≠ o → tblGet t.pxt.ops k = tblGet s.pxt.ops k) ∧ t.bore = s.bore ∧ t.jobs = s.jobs ∧
      ∀ c, SendsNow s x.fport c → ∀ e ∈ x.sent, Out.frame x.fport (frameBytes (pxtCfg s) c (portPeer c x.carriage) x.peer x.carriage e.2) ∈ t.out := by
  have hsame := modOp_same hop (fun y => { y with timeouts := y.timeouts + 1, since := s.brt.count })
  have hall : x.sent.filter (fun e => !s.dev.halting || !carriesData e.2) = x.sent := by
    rw [hhalt]
    exact List.filter_eq_self.mpr fun _ _ => rfl
  rw [retransmit_due hop hsent hdue hserves, if_neg htries, hall]
  refine ⟨?_, ?_, ?_, ?_, fun c hc => (opTx_foldl_sends (c := c) x.sent hsame hc).2⟩
  all_goals
    obtain ⟨ports, n, quiet, out, hfold⟩ := opTx_foldl_frame o x.sent
      (modOp s o (fun y => { y with timeouts := y.timeouts + 1, since := s.brt.count }))
    rw [hfold]
  · exact hsame
  · exact fun k hk => tblGet_mod_other _ _ _ _ hk
  · rfl
  · rfl

/-! #### A hop that is unreachable -/

/-- The state in which a node that does not answer is noted. -/
def noted (s : State) : Option Nat → State
  | some n => modPxt s (fun y => { y with unreachable := if y.unreachable.contains n then y.unreachable else n :: y.unreachable })
  | none => s

theorem noted_mem (s : State) (n : Nat) : n ∈ (noted s (some n)).pxt.unreachable := by
  change n ∈ if s.pxt.unreachable.contains n then s.pxt.unreachable else n :: s.pxt.unreachable
  split
  · next h => exact List.contains_iff_mem.mp h
  · exact List.mem_cons_self

theorem noted_bore (s : State) (n : Option Nat) : (noted s n).bore = s.bore := by
  cases n <;> rfl

theorem opUnreachable_put (hop : tblGet s.pxt.ops o = some x) (hkind : x.kind = .putOut) (hflow : x.flow ≠ 0) :
    opUnreachable s o = abortPut (noted s x.node) x.flow .aborted := by
  unfold opUnreachable
  rw [hop]
  dsimp only
  rw [hkind]
  dsimp only
  rw [if_neg hflow]
  cases x.node <;> rfl

theorem opUnreachable_gone {f : Flow} (hop : tblGet s.pxt.ops o = some x) (hkind : x.kind = .putOut) (hflow : x.flow ≠ 0)
    (hf : flowAt s x.flow = some f) : flowAt (opUnreachable s o) x.flow = none := by
  rw [opUnreachable_put hop hkind hflow]
  refine abortPut_gone (f := f) .aborted ?_
  rw [flowAt, noted_bore]
  exact hf

theorem opUnreachable_noted {n : Nat} (hop : tblGet s.pxt.ops o = some x) (hkind : x.kind = .putOut) (hflow : x.flow ≠ 0)
    (hnode : x.node = some n) : n ∈ (opUnreachable s o).pxt.unreachable := by
  rw [opUnreachable_put hop hkind hflow, unreachable_of_still (abortPut_still _ _ _), hnode]
  exact noted_mem s n

theorem retransmit_last {f : Flow} {n : Nat} (hop : tblGet s.pxt.ops o = some x) (hsent : x.sent ≠ [])
    (hdue : x.since + 2 ^ (pxtCfg s).retryLog2 ≤ s.brt.count) (hserves : fabricServes s = true) (htries : x.timeouts + 1 = (pxtCfg s).retryMax)
    (hkind : x.kind = .putOut) (hnode : x.node = some n) (hflow : x.flow ≠ 0) (hf : flowAt s x.flow = some f) :
    flowAt (retransmit s o) x.flow = none ∧ n ∈ (retransmit s o).pxt.unreachable := by
  have hsame := modOp_same hop (fun y => { y with timeouts := y.timeouts + 1, since := s.brt.count })
  rw [retransmit_due hop hsent hdue hserves, if_pos htries]
  have hgone := opUnreachable_gone hsame hkind hflow hf
  have hnoted := opUnreachable_noted hsame hkind hflow hnode
  exact ⟨hgone, hnoted⟩

/-! #### Silence in both directions -/

section
variable {p : PeerName} {rest : List (Nat × HopOp)}

theorem keepaliveSend_due (hops : opsAt s (peerKey p) = (o, x) :: rest) (hserves : fabricServes s = true)
    (hdue : tblGetD s.pxt.quiet (peerKey p) 0 + 2 ^ (pxtCfg s).keepaliveLog2 ≤ s.brt.count) :
    keepaliveSend s p = noteSent (txFrame s x.fport x.peer x.carriage (pxtBytes (nodeMsg 11 0))) (peerKey p) := by
  have hgo : ¬ (!fabricServes s || decide (s.brt.count < tblGetD s.pxt.quiet (peerKey p) 0 + 2 ^ (pxtCfg s).keepaliveLog2)) = true := by
    rw [hserves, decide_eq_false (Nat.not_lt.mpr hdue)]
    decide
  unfold keepaliveSend
  rw [hops]
  exact if_neg hgo

theorem keepaliveSend_sends (hops : opsAt s (peerKey p) = (o, x) :: rest) (hserves : fabricServes s = true)
    (hdue : tblGetD s.pxt.quiet (peerKey p) 0 + 2 ^ (pxtCfg s).keepaliveLog2 ≤ s.brt.count) : let t := keepaliveSend s p
    tblGet t.pxt.quiet (peerKey p) = some s.brt.count ∧ t.pxt.ops = s.pxt.ops ∧ t.bore = s.bore ∧ t.jobs = s.jobs ∧
      ∀ c, SendsNow s x.fport c → t.out =
        .frame x.fport (frameBytes (pxtCfg s) c (portPeer c x.carriage) x.peer x.carriage (pxtBytes (nodeMsg 11 0))) :: s.out := by
  rw [keepaliveSend_due hops hserves hdue]
  refine ⟨?_, ?_, ?_, ?_, fun c hc => ?_⟩
  case refine_5 =>
    rw [txFrame_sends hc]
    rfl
  all_goals
    obtain ⟨ports, n, out, htx⟩ := txFrame_frame s x.fport x.peer x.carriage (pxtBytes (nodeMsg 11 0))
    rw [htx]
  · exact tblGet_put_same _ _ _
  · rfl
  · rfl
  · rfl

theorem peerSilence_alone (hops : opsAt s (peerKey p) = [(o, x)]) (hserves : fabricServes s = true)
    (hdue : tblGetD s.pxt.heard (peerKey p) 0 + 2 ^ ((pxtCfg s).keepaliveLog2 + 2) ≤ s.brt.count) : peerSilence s p = opUnreachable s o := by
  have hgo : ¬ (!fabricServes s || decide (s.brt.count < tblGetD s.pxt.heard (peerKey p) 0 + 2 ^ ((pxtCfg s).keepaliveLog2 + 2))) = true := by
    rw [hserves, decide_eq_false (Nat.not_lt.mpr hdue)]
    decide
  unfold peerSilence
  rw [if_neg hgo, hops]
  rfl

end

/-! #### Idle PUTs and old node tables -/

theorem putIdle_gone {e : Nat} {f : Flow} (hf : flowAt s e = some f) (hkind : f.kind = .put) (hmig : f.mig = none) (hstage : f.stage ≠ .opening)
    (hended : f.ended = false) (hdue : f.dataBreath + 2 ^ (pxtCfg s).idleLog2 ≤ s.brt.count) : flowAt (putIdle s e) e = none := by
  have hidle : (decide (f.kind = .put) && f.mig.isNone && decide (f.stage ≠ .opening) && !f.ended &&
      decide (f.dataBreath + 2 ^ (pxtCfg s).idleLog2 ≤ s.brt.count)) = true := by
    rw [decide_eq_true hkind, hmig, decide_eq_true hstage, hended, decide_eq_true hdue]
    rfl
  unfold putIdle
  rw [hf]
  dsimp only
  rw [if_pos hidle]
  exact abortPut_gone _ hf

theorem onlyOld_mem {b : NodeTable} {n : NodeCfg} :
    n ∈ onlyOld s b ↔ n ∈ b.nodes ∧ ∀ u, s.pxt.cur = some u ∨ s.pxt.prev = some u → n ∉ u.nodes := by
  unfold onlyOld
  simp only [List.mem_filter, Bool.not_eq_true', List.any_eq_false, List.mem_append, Option.mem_toList, List.contains_iff_mem]

theorem old_kept {b : NodeTable} : b ∈ s.pxt.old.filter (fun t => (onlyOld s t).any (nodeInUse s)) ↔ b ∈ s.pxt.old ∧ ∃ n ∈ b.nodes,
    (∀ u, s.pxt.cur = some u ∨ s.pxt.prev = some u → n ∉ u.nodes) ∧ nodeInUse s n = true := by
  simp only [List.mem_filter, List.any_eq_true, onlyOld_mem, and_assoc]

end

/-! #### The rows -/

section
variable {s : State} {p : Fin 64} {f : FabCfg}

theorem badFrame_eq (s : State) : dropBad s = { s with pxt := { s.pxt with badFrame := min 65535 (s.pxt.badFrame + 1) } } := by
  rw [← sat16_eq]
  rfl

theorem frames_row (hrun : isRunning s = true) (hf : fabCfg s p.val = some f) (y : EthFrame) (hy : y.fport = p)
    (hup : (fabPort s p.val).linkUp = true) : let x := fabPort s p.val
    (y.fecOk = false → Does (.ethernetFrameReceive y) s (fun t => OnlyFab s t p.val { x with fecUncorr := min 65535 (x.fecUncorr + 1) })) ∧
    (y.fecOk = true → fabricServes s = true → f.macsec = true → isEapol y.bytes = false →
      (macsecOpen x.sas y.bytes = none →
        Does (.ethernetFrameReceive y) s (fun t => OnlyFab s t p.val { x with macsecDrop := min 65535 (x.macsecDrop + 1) })) ∧
      (∀ an pn b a, macsecOpen x.sas y.bytes = some (an, pn, b) → tblGet x.sas an = some a → frameMessage (pxtCfg s) f p b = none →
        Does (.ethernetFrameReceive y) s (fun t => t.pxt.badFrame = min 65535 (s.pxt.badFrame + 1) ∧
          tblGet (fabPort t p.val).sas an = some { a with rxNext := max a.rxNext (pn + 1) } ∧ t.pxt.ops = s.pxt.ops ∧ t.bore = s.bore))) ∧
    (y.fecOk = true → fabricServes s = true → f.macsec = false →
      (9314 < y.bytes.length ∨ y.bytes.length < 14 ∨ be y.bytes 0 6 ≠ f.mac.toNat ∨ (f.tagged = false ∧ be y.bytes 12 2 = 0x8100) ∨
        (f.tagged = true ∧ (be y.bytes 12 2 ≠ 0x8100 ∨ be y.bytes 14 2 % 4096 ≠ f.vid)) ∨ frameMessage (pxtCfg s) f p y.bytes = none) →
      exec (.ethernetFrameReceive y) s = .next { s with pxt := { s.pxt with badFrame := min 65535 (s.pxt.badFrame + 1) } }) ∧
    (∀ z m st, y.fecOk = true → f.macsec = false → y.bytes.length ≤ 9314 → frameMessage (pxtCfg s) f p y.bytes = some z →
      Arrives s z 11 true m → FromGateway s z m st →
      Does (.ethernetFrameReceive y) s (fun t => tblGet t.pxt.heard (gatewayKey m.sid) = some s.brt.count ∧ t.pxt.ops = s.pxt.ops ∧
        t.bore.flows = s.bore.flows)) := by
  subst hy
  have hexec : exec (.ethernetFrameReceive y) s = whenRunning s (frameReceive s y) := rfl
  refine ⟨fun hfec => ?_, fun hfec hserves hmac heapol => ⟨fun hopen => ?_, fun an pn b a hopen ha hnone => ?_⟩,
    fun hfec hserves hmac hbad => ?_, fun z m st hfec hmac hlen hz ha hg => ?_⟩
  · refine does_whenRunning hexec hrun ?_
    rw [frameReceive_fec hf hup hfec]
    simp only [sat16_eq]
    exact onlyFab_modFab s _ _
  · refine does_whenRunning hexec hrun ?_
    rw [frameReceive_protected hf hup hfec hserves hmac heapol, macsecReceive, hopen]
    simp only [sat16_eq]
    exact onlyFab_modFab s _ _
  · exact does_whenRunning hexec hrun (frameReceive_drops hf hup hfec hserves hmac heapol hopen ha hnone)
  · have hdrop : clearFrame s y.fport f y.bytes.length y.bytes = dropBad s := by
      rcases hbad with hlong | hbad
      · exact clearFrame_long hlong _
      · refine clearFrame_none ?_ _
        rcases hbad with h | h | h | h | h
        · exact frameMessage_none (.inl h)
        · exact frameMessage_none (.inr (.inl h))
        · exact frameMessage_none (.inr (.inr (.inl h)))
        · exact frameMessage_none (.inr (.inr (.inr h)))
        · exact h
    rw [hexec, whenRunning_of _ _ hrun, frameReceive_clear hf hup hfec hserves hmac, hdrop, badFrame_eq]
  · have hport : z.fport = y.fport := frameMessage_port hz
    refine does_whenRunning hexec hrun ?_
    rw [frameReceive_clear hf hup hfec ha.serves hmac, clearFrame_message hz hlen, ← hport]
    exact rxMessage_keepalive ha hg (hport.symm ▸ hf) _

theorem pauses_row (hrun : isRunning s = true) (hf : fabCfg s p.val = some f) (prio : Fin 8) (q : BitVec 16) (hpfc : f.pfc = true) :
    let x := fabPort s p.val
    (q ≠ 0 → Does (.pfcXoffReceive p prio q) s (fun t => ∃ n, OnlyFab s t p.val { x with xoffRcvd := n } ∧
      ∀ b, n.testBit b = (x.xoffRcvd.testBit b || b = prio.val))) ∧
    (x.txq = [] → ∀ c ∈ [Instr.pfcXoffReceive p prio 0, .pfcPauseTimeExpire p prio], Does c s (fun t => ∃ n,
      OnlyFab s t p.val { x with xoffRcvd := n } ∧ ∀ b, n.testBit b = (x.xoffRcvd.testBit b && b ≠ prio.val))) := by
  have hexec : exec (.pfcXoffReceive p prio q) s = whenRunning s (pfcXoff s p.val prio.val q.toNat) := rfl
  refine ⟨fun hq => ?_, fun htxq c hc => ?_⟩
  · have hq' : q.toNat ≠ 0 := fun h => hq (BitVec.eq_of_toNat_eq h)
    refine does_whenRunning hexec hrun ?_
    rw [pfcXoff_pauses hf hpfc _ hq']
    exact ⟨_, onlyFab_modFab s _ _, testBit_or_two_pow _ _⟩
  · have hall : exec c s = whenRunning s (pfcXoff s p.val prio.val 0) := by
      rcases List.mem_cons.mp hc with rfl | hc
      · rfl
      · rw [List.mem_singleton.mp hc]
        rfl
    exact does_whenRunning hall hrun (pfcXoff_clears hf hpfc htxq prio)

theorem saks_row (hrun : isRunning s = true) (hf : fabCfg s p.val = some f) (sak : BitVec 256) (salt : BitVec 96) (ssci peerSsci : BitVec 32)
    (peerSci : BitVec 64) (an : Fin 4) (hmac : f.macsec = true) (hcak : (fabPort s p.val).cak ≠ []) (htxq : (fabPort s p.val).txq = []) :
    let x := fabPort s p.val
    Does (.sakInstall p an (.install sak salt ssci peerSsci peerSci)) s (fun t => ∃ l,
      OnlyFab { s with out := .macsecSa p.val an.val :: s.out } t p.val { x with sas := l, nextAn := some an.val } ∧
      tblGet l an.val = some ⟨sak, salt, ssci, peerSsci, peerSci, 1⟩ ∧ ∀ k, k ≠ an.val → tblGet l k = tblGet x.sas k) ∧
    Does (.sakInstall p an .retire) s (fun t => ∃ l, OnlyFab s t p.val { x with
        sas := l
        txAn := if x.txAn = some an.val then none else x.txAn
        nextAn := if x.nextAn = some an.val then none else x.nextAn } ∧
      tblGet l an.val = none ∧ ∀ k, k ≠ an.val → tblGet l k = tblGet x.sas k) := by
  have hexec (a : SakOp) : exec (.sakInstall p an a) s = whenRunning s (sakInstall s p.val an.val a) := rfl
  constructor
  · refine does_whenRunning (hexec _) hrun ?_
    rw [sakInstall_installs hf hmac hcak]
    exact ⟨_, onlyFab_txFlush (onlyFab_modFab (emit s (.macsecSa p.val an.val)) p.val (fun y => { y with
      sas := tblPut y.sas an.val ⟨sak, salt, ssci, peerSsci, peerSci, 1⟩
      nextAn := some an.val })) htxq, tblGet_put_same _ _ _,
      fun k hk => tblGet_put_other _ _ _ _ hk⟩
  · refine does_whenRunning (hexec _) hrun ?_
    rw [sakInstall_retires hf hmac hcak]
    exact ⟨_, onlyFab_modFab s p.val _, tblGet_del_same _ _, fun k hk => tblGet_del_other _ _ _ hk⟩

theorem links_row (hrun : isRunning s = true) (hf : fabCfg s p.val = some f) : let x := fabPort s p.val
    (f.role ≠ 0 → x.txq = [] → Does (.linkUp (.fabric p) f.lanes (laneSpeed f.lanes)) s (fun t => OnlyFab s t p.val { x with linkUp := true })) ∧
    (∀ w v, f.role = 0 ∨ w ≠ f.lanes ∨ v ≠ laneSpeed f.lanes → exec (.linkUp (.fabric p) w v) s = .next s) ∧
    Does (.linkDown (.fabric p)) s (fun t => OnlyFab s t p.val { x with linkUp := false }) := by
  have hlive := isLive_of_running hrun
  have hexec (w v : Nat) : exec (.linkUp (.fabric p) w v) s = whenLive s (linkUpOp s (.fabric p) w v) := rfl
  have hdown : exec (.linkDown (.fabric p)) s = whenLive s (linkDownOp s (.fabric p)) := rfl
  refine ⟨fun hrole htxq => ?_, fun w v h => ?_, ?_⟩
  · refine does_whenLive (hexec _ _) hlive ?_
    rw [linkUpOp_up hf hrole]
    exact onlyFab_txFlush (onlyFab_modFab s p.val _) htxq
  · rw [hexec, linkUpOp_ignored hf h, whenLive, ite_self]
  · refine does_whenLive hdown hlive ?_
    rw [linkDownOp, hf]
    exact onlyFab_modFab s p.val (fun y => { y with linkUp := false })

end

/-- Settles O52. A port's own commands write one port; a message sent again leaves all but the ports and the quiet times, and a hop that is
unreachable, like an idle PUT, ends the PUT that waits on it. -/
theorem fabricPorts : Obligations.FabricPorts := by
  unfold Obligations.FabricPorts
  refine ⟨fun s p f hrun hf => ⟨frames_row hrun hf, pauses_row hrun hf, fun hsent hmode hheld => ?_, ?_⟩, fun s hrun hhalt =>
    ⟨fun e f hflow hkind hmig hstage hended hdue => ?_, fun o x hop hsent hdue hserves => ⟨fun htries => ?_,
      fun n f htries hkind hnode hflow hf => ?_⟩, fun p o x rest hops hserves => ⟨fun hdue => ?_, fun f hdue hrest hop hkind hflow hf => ?_⟩, ?_⟩⟩
  · have hexec : exec (.pfcXonSend p) s = whenRunning s (pfcXon s p.val) := rfl
    refine does_whenRunning hexec hrun ?_
    rw [pfcXon_sends hf hsent hmode hheld]
    exact onlyFab_modFab (emit s (.pfc p.val f.pcp false)) p.val (fun y => { y with fill := min y.fill (131072 * f.lanes), xoffSent := false })
  · obtain ⟨hup, hignored, hdown⟩ := links_row hrun hf
    refine ⟨hup, hignored, hdown, saks_row hrun hf, fun d bs hlink hserves => ⟨fun hmac hd => ?_, fun h => ?_⟩⟩
    · have hexec : exec (.eapolReceive p d bs) s = whenRunning s (eapolReceive s p.val d bs) := rfl
      rw [hexec, whenRunning_of _ _ hrun, hd, eapolReceive_passes hf hlink hserves hmac]
      rfl
    · have hexec : exec (.eapolReceive p d bs) s = whenRunning s (eapolReceive s p.val d bs) := rfl
      rw [hexec, whenRunning_of _ _ hrun, eapolReceive_drops hf hlink hserves h, badFrame_eq]
  · have hexec : exec (.putIdleTimeout e) s = whenRunning s (if s.dev.halting then s else putIdle s e) := rfl
    refine does_whenRunning hexec hrun ?_
    rw [hhalt]
    exact putIdle_gone hflow hkind hmig hstage hended hdue
  · have hexec : exec (.retransmitTimeout o) s = whenRunning s (retransmit s o) := rfl
    exact does_whenRunning hexec hrun (retransmit_again hop hsent hdue hserves hhalt htries)
  · have hexec : exec (.retransmitTimeout o) s = whenRunning s (retransmit s o) := rfl
    exact does_whenRunning hexec hrun (retransmit_last hop hsent hdue hserves htries hkind hnode hflow hf)
  · have hexec : exec (.keepaliveSend p) s = whenRunning s (keepaliveSend s p) := rfl
    exact does_whenRunning hexec hrun (keepaliveSend_sends hops hserves hdue)
  · have hexec : exec (.peerSilenceTimeout p) s = whenRunning s (peerSilence s p) := rfl
    subst hrest
    refine does_whenRunning hexec hrun ?_
    rw [peerSilence_alone hops hserves hdue]
    exact opUnreachable_gone hop hkind hflow hf
  · have hexec : exec .prevTableDrop s =
        whenRunning s (modPxt s (fun x => { x with old := x.old.filter (fun t => (onlyOld s t).any (nodeInUse s)) })) := rfl
    exact does_whenRunning hexec hrun ⟨fun b => old_kept, rfl⟩

end Sys2Proof.FabricTimers


/-! ### Records in the bore: admission, echo, sealing again and sending (R252 to R264) -/

namespace Sys2Proof.BoreRows

open Sys2Proof Sys2Proof.Machine Sys2Proof.Safety Sys2Proof.Rows Sys2Proof.Laws Sys2Proof.FabricTimers

/-! #### Writes of one flow and of one stream -/

section
variable {s : State} {e i : Nat} {f : Machine.Flow} {r : Rec}

theorem onlyFlow_modFlow (hf : flowAt s e = some f) (g : Machine.Flow → Machine.Flow) : OnlyFlow s (modFlow s e g) e (g f) :=
  ⟨(tblGet_mod_same _ _ _).trans (congrArg _ hf), fun _ hk => tblGet_mod_other _ _ _ _ hk, rfl⟩

theorem onlyStream_modStream {sid : Nat} {x : Machine.Stream} (hx : streamAt s sid = some x) (g : Machine.Stream → Machine.Stream) :
    OnlyStream s (modStream s sid g) sid (g x) :=
  ⟨(tblGet_mod_same _ _ _).trans (congrArg _ hx), fun _ hk => tblGet_mod_other _ _ _ _ hk, rfl⟩

theorem tblGet_mod_found {α : Type} {t : Tbl α} {x : α} (h : tblGet t i = some x) (g : α → α) : tblGet (tblMod t i g) i = some (g x) :=
  (tblGet_mod_same _ _ _).trans (congrArg _ h)

/-- A record of a flow is written, and nothing else. -/
theorem modRec_writes (hf : flowAt s e = some f) (hr : tblGet f.recs i = some r) (g : Rec → Rec) : ∃ h, OnlyFlow s (modRec s e i g) e h ∧
    { h with recs := f.recs } = f ∧ tblGet h.recs i = some (g r) ∧ ∀ k, k ≠ i → tblGet h.recs k = tblGet f.recs k :=
  ⟨_, onlyFlow_modFlow hf _, rfl, tblGet_mod_found hr g, fun _ hk => tblGet_mod_other _ _ _ _ hk⟩

/-! #### Pipes chosen -/

theorem pickPipe_mem {ps : List Nat} (h : ps ≠ []) (s : State) : ∃ a free, pickPipe ps s = (some a, { s with free := free }) ∧ a ∈ ps := by
  have hlen : ps.length ≠ 0 := fun h0 => h (List.length_eq_zero_iff.mp h0)
  have hlt : Config.freeChoice s.free ps.length % ps.length < ps.length := Nat.mod_lt _ (Nat.pos_of_ne_zero hlen)
  refine ⟨ps[Config.freeChoice s.free ps.length % ps.length], s.free + 1, ?_, List.getElem_mem hlt⟩
  unfold pickPipe freshChoice
  rw [if_neg h]
  dsimp only
  rw [if_neg hlen, List.getElem?_eq_getElem hlt]

/-- Each strip of a record admitted has a sealing and an echo pipe of its groups. -/
theorem newStrips_pipes {seals echoes : List Nat} (hseal : seals ≠ []) (hecho : echoes ≠ []) (n : Nat) (s : State) : ∃ q free,
    newStrips seals echoes n s = (q, { s with free := free }) ∧ q.length = n ∧
      ∀ w ∈ q, w.sealPipe ∈ seals ∧ w.echoPipe ∈ echoes ∧ w.passed = false ∧ w.failed = false ∧ w.breath = s.brt.count := by
  induction n generalizing s with
  | zero => exact ⟨[], s.free, rfl, rfl, fun _ hw => absurd hw List.not_mem_nil⟩
  | succ n ih =>
    obtain ⟨a, free, ha, hamem⟩ := pickPipe_mem hseal s
    obtain ⟨b, free', hb, hbmem⟩ := pickPipe_mem hecho { s with free := free }
    obtain ⟨q, free'', hq, hlen, hall⟩ := ih { s with free := free' }
    refine ⟨⟨false, false, a, b, [], s.brt.count⟩ :: q, free'', ?_, congrArg (· + 1) hlen, fun w hw => ?_⟩
    · unfold newStrips
      rw [ha]
      dsimp only
      rw [hb]
      dsimp only
      rw [hq]
      rfl
    · rcases List.mem_cons.mp hw with rfl | hw
      · exact ⟨hamem, hbmem, rfl, rfl, rfl⟩
      · exact hall w hw

/-- The pipes at work for a flow that fits in the breath. -/
theorem sealPipes_of_fits (h : admitFits s f r = true) (hkind : f.kind = .put) : sealPipesOf s f ≠ [] := by
  intro hnone
  have hseals : sealsFlow f = true := by
    unfold sealsFlow
    rw [hkind]
    rfl
  unfold admitFits at h
  dsimp only at h
  rw [hseals, if_pos rfl, hnone] at h
  exact Bool.false_ne_true h

/-! #### Messages of an operation -/

/-- What a transmission under an operation leaves unchanged. -/
structure Sent (s t : State) : Prop where
  ops : t.pxt.ops = s.pxt.ops
  bore : t.bore = s.bore
  jobs : t.jobs = s.jobs

theorem opTx_sent (s : State) (o : Nat) (b : Bytes) : Sent s (opTx s o b) := by
  obtain ⟨ports, n, quiet, out, hframe⟩ := opTx_frame s o b
  rw [hframe]
  exact ⟨rfl, rfl, rfl⟩

/-- The operation from which messages are asked for again. -/
def resending (s : State) (o : Nat) : State := modOp s o (fun y => { y with rxNak := some s.brt.count })

theorem opResendFrom_sent {o : Nat} {x : HopOp} (hop : tblGet s.pxt.ops o = some x) (n : Nat) : Sent (resending s o) (opResendFrom s o n) := by
  unfold opResendFrom
  rw [hop]
  exact opTx_sent (resending s o) o _

/-! #### Admission -/

theorem recordAdmit_due (hf : flowAt s e = some f) (hr : tblGet f.recs i = some r) (hdue : admitDue s r = true) (parity : Bool) :
    recordAdmit s e i parity = match f.kind with
      | .put => if f.stage = .isOpen then admitPut s e i f r parity else s
      | .get => if f.stage = .records then admitGet s e i f r else s
      | .linkOut => admitLinkOut s e i f r parity
      | .linkIn => admitLinkIn s e i f r := by
  unfold recordAdmit
  rw [hf]
  dsimp only
  rw [hr]
  dsimp only
  rw [hdue]
  rfl

theorem admitPut_seals (hf : flowAt s e = some f) (hr : tblGet f.recs i = some r) (hkind : f.kind = .put) (hmig : f.mig = none)
    (hecho : groupPipes s .echoG ≠ []) (hfits : admitFits s f r = true) : ∃ g q, flowAt (admitPut s e i f r false) e = some g ∧
      { g with recs := f.recs } = f ∧
      tblGet g.recs i = some { r with
        admitted := some s.brt.count
        result := sefHeader (sefIdOf f) i ++ sealRecord f.key (sefIdOf f) i r.input
        strips := q } ∧
      q.length = (r.input.length + 4095) / 4096 ∧
      (∀ w ∈ q, w.sealPipe ∈ groupPipes s .sealG ∧ w.echoPipe ∈ groupPipes s .echoG ∧ w.passed = false ∧ w.failed = false ∧
        w.breath = s.brt.count) ∧
      (∀ k, k ≠ i → tblGet g.recs k = tblGet f.recs k) ∧ (∀ k, k ≠ e → flowAt (admitPut s e i f r false) k = flowAt s k) ∧
      { admitPut s e i f r false with bore := { (admitPut s e i f r false).bore with flows := s.bore.flows }, free := s.free } = s := by
  have hechoes : echoPipesOf s f = groupPipes s .echoG := by
    unfold echoPipesOf
    rw [hmig]
    rfl
  have hseals : sealPipesOf s f = groupPipes s .sealG := by
    unfold sealPipesOf
    rw [hmig]
    rfl
  have hgo : ¬ (decide (echoPipesOf s f = []) || !admitFits s f r) = true := by
    rw [hfits, decide_eq_false (hechoes ▸ hecho)]
    decide
  obtain ⟨q, free, hnew, hlen, hall⟩ := newStrips_pipes (hseals ▸ sealPipes_of_fits hfits hkind) hecho (ceilDiv r.input.length 4096) s
  have hadmit : admitPut s e i f r false = modRec { s with free := free } e i (fun r => { r with
      admitted := some s.brt.count
      result := sefHeader (sefIdOf f) i ++ sealRecord f.key (sefIdOf f) i r.input
      strips := q }) := by
    unfold admitPut
    rw [if_neg Bool.false_ne_true, if_neg hgo, hechoes, hseals, hnew]
  obtain ⟨h, hwrite, hrest, hrec, hothers⟩ := modRec_writes (s := { s with free := free }) hf hr (fun r => { r with
      admitted := some s.brt.count
      result := sefHeader (sefIdOf f) i ++ sealRecord f.key (sefIdOf f) i r.input
      strips := q })
  rw [hadmit]
  exact ⟨h, q, hwrite.flow, hrest, hrec, hlen, hall, hothers, hwrite.others, congrArg (fun t : State => { t with free := s.free }) hwrite.frame⟩

/-- The operation that asks for a record again, whose bytes are dropped. -/
def asking (s : State) (e i o : Nat) (r : Rec) : State :=
  modOp (modRec s e i (fun r => { r with input := [], whole := none })) o (fun x => { x with rxNext := r.firstSeq })

theorem admitPut_asks {o : Nat} {op : HopOp} (hf : flowAt s e = some f) (hr : tblGet f.recs i = some r) (hin : f.inOp = some o)
    (hop : tblGet s.pxt.ops o = some op) : ∃ g, OpFlow s (admitPut s e i f r true) o { op with rxNext := r.firstSeq, rxNak := some s.brt.count } e g ∧
      tblGet g.recs i = some { r with input := [], whole := none } ∧ ∀ k, k ≠ i → tblGet g.recs k = tblGet f.recs k := by
  obtain ⟨h, hwrite, -, hrec, hothers⟩ := modRec_writes hf hr (fun r => { r with input := [], whole := none })
  have hask : tblGet (asking s e i o r).pxt.ops o = some { op with rxNext := r.firstSeq } := tblGet_mod_found hop _
  have hnak : tblGet (resending (asking s e i o r) o).pxt.ops o = some { op with rxNext := r.firstSeq, rxNak := some s.brt.count } :=
    tblGet_mod_found hask _
  have hstep : admitPut s e i f r true = opResendFrom (asking s e i o r) o (r.firstSeq % 2 ^ 32) := by
    unfold admitPut askAgain
    rw [if_pos rfl, hin]
    rfl
  obtain ⟨hops, hbore, hjobs⟩ := opResendFrom_sent hask (r.firstSeq % 2 ^ 32)
  have hflows (k : Nat) : flowAt (opResendFrom (asking s e i o r) o (r.firstSeq % 2 ^ 32)) k = flowAt (asking s e i o r) k :=
    congrArg (fun b : Bore => tblGet b.flows k) hbore
  rw [hstep]
  exact ⟨h, ⟨(congrArg (tblGet · o) hops).trans hnak, (hflows e).trans hwrite.flow,
    fun k hk => (congrArg (tblGet · k) hops).trans ((tblGet_mod_other _ _ _ _ hk).trans (tblGet_mod_other _ _ _ _ hk)),
    fun k hk => (hflows k).trans (hwrite.others k hk), hjobs⟩, hrec, hothers⟩

theorem admitGet_opens {p : Bytes} (hf : flowAt s e = some f) (hr : tblGet f.recs i = some r) (hfits : admitFits s f r = true)
    (hopen : unsealRecord f.key (sefIdOf f) i r.input = some p) (htag : r.input.drop (r.input.length - 16) = slice f.manifest (184 + 16 * i) 16) :
    ∃ g, OnlyFlow s (admitGet s e i f r) e g ∧ { g with recs := f.recs } = f ∧
      tblGet g.recs i = some { r with admitted := some s.brt.count, result := p, ready := some s.brt.count } ∧
      ∀ k, k ≠ i → tblGet g.recs k = tblGet f.recs k := by
  have hsame : ¬ recTag r.input ≠ slice f.manifest (184 + 16 * i) 16 := not_not_intro htag
  have hadmit : admitGet s e i f r = modRec s e i (fun r => { r with admitted := some s.brt.count, result := p, ready := some s.brt.count }) := by
    unfold admitGet
    rw [hfits]
    dsimp only
    rw [hopen]
    exact if_neg hsame
  rw [hadmit]
  exact modRec_writes hf hr _

theorem admitLinkIn_admits (hf : flowAt s e = some f) (hr : tblGet f.recs i = some r) (hfits : admitFits s f r = true) :
    ∃ g, OnlyFlow s (admitLinkIn s e i f r) e g ∧
      tblGet g.recs i = some { r with admitted := some s.brt.count, result := r.input, ready := some s.brt.count } := by
  obtain ⟨h, hwrite, -, hrec, -⟩ := modRec_writes hf hr (fun r => { r with admitted := some s.brt.count, result := r.input, ready := some s.brt.count })
  unfold admitLinkIn
  rw [hfits]
  exact ⟨h, hwrite, hrec⟩

/-! #### The echo -/

section
variable {k : Nat} {w : Strip}

theorem echoResult_at (hf : flowAt s e = some f) (hr : tblGet f.recs i = some r) (hw : r.strips[k]? = some w) (hpassed : w.passed = false)
    (hfailed : w.failed = false) (good : Bool) : echoResult s e i k good =
      if good then modRec (w.bad.foldl chargePipe s) e i (fun r' => { r' with
        strips := listMod r.strips k (fun t => { t with passed := true })
        ready := if (listMod r.strips k (fun t => { t with passed := true })).all Strip.passed then some s.brt.count else none })
      else if echoLost (echoFailed w) && f.kind = .put then
        abortPut (logEvent (modBore (modStrip (countMismatch s) e i k echoFailed) (fun b => { b with echoAborts := sat 16 (b.echoAborts + 1) }))
          0x020C (leBytes 8 f.serial)) e .invariantFailed
      else modStrip (countMismatch s) e i k echoFailed := by
  unfold echoResult
  rw [hf]
  dsimp only
  rw [hr]
  dsimp only
  rw [hw]
  dsimp only
  rw [hpassed, hfailed]
  rfl

theorem strip_at (hw : r.strips[k]? = some w) (g : Strip → Strip) :
    (listMod r.strips k g)[k]? = some (g w) ∧ ∀ n, n ≠ k → (listMod r.strips k g)[n]? = r.strips[n]? := by
  refine ⟨?_, fun n hn => ?_⟩
  · rw [StateFacts.getElem?_listMod, if_pos rfl, hw]
    rfl
  · rw [StateFacts.getElem?_listMod, if_neg hn]

theorem echoResult_passes (hf : flowAt s e = some f) (hr : tblGet f.recs i = some r) (hw : r.strips[k]? = some w) (hpassed : w.passed = false)
    (hfailed : w.failed = false) (hbad : w.bad = []) : ∃ g, OnlyFlow s (echoResult s e i k true) e g ∧
      { g with recs := f.recs } = f ∧ (∀ n, n ≠ i → tblGet g.recs n = tblGet f.recs n) ∧
      ∃ q, tblGet g.recs i = some { r with
          strips := q
          ready := if q.all Strip.passed then some s.brt.count else none } ∧
        q[k]? = some { w with passed := true } ∧ ∀ n, n ≠ k → q[n]? = r.strips[n]? := by
  obtain ⟨hat, hrest⟩ := strip_at hw (fun t => { t with passed := true })
  obtain ⟨g, hwrite, hkeep, hrec, hothers⟩ := modRec_writes hf hr (fun r' => { r' with
    strips := listMod r.strips k (fun t => { t with passed := true })
    ready := if (listMod r.strips k (fun t => { t with passed := true })).all Strip.passed then some s.brt.count else none })
  have hnone : w.bad.foldl chargePipe s = s := by
    rw [hbad]
    rfl
  rw [echoResult_at hf hr hw hpassed hfailed, if_pos rfl, hnone]
  exact ⟨g, hwrite, hkeep, hothers, _, hrec, hat, hrest⟩

/-- The first failure of a strip does not end its extent. -/
theorem echoLost_first (hbad : w.bad = []) : echoLost (echoFailed w) = false := by
  unfold echoLost echoFailed
  rw [hbad]
  rfl

theorem echoResult_fails (hf : flowAt s e = some f) (hr : tblGet f.recs i = some r) (hw : r.strips[k]? = some w) (hpassed : w.passed = false)
    (hfailed : w.failed = false) (hbad : w.bad = []) : let t := echoResult s e i k false
    t.bore.mismatches = min 65535 (s.bore.mismatches + 1) ∧ ∃ g q, flowAt t e = some g ∧ tblGet g.recs i = some { r with strips := q } ∧
      q[k]? = some { w with failed := true, bad := [w.sealPipe, w.echoPipe] } ∧ (∀ n, n ≠ k → q[n]? = r.strips[n]?) ∧
      ∀ n, n ≠ e → flowAt t n = flowAt s n := by
  obtain ⟨hat, hrest⟩ := strip_at hw echoFailed
  obtain ⟨g, hwrite, -, hrec, -⟩ := modRec_writes (s := countMismatch s) hf hr (fun r => { r with strips := listMod r.strips k echoFailed })
  have hfirst : echoFailed w = { w with failed := true, bad := [w.sealPipe, w.echoPipe] } := by
    unfold echoFailed
    rw [hbad]
  rw [echoResult_at hf hr hw hpassed hfailed, if_neg Bool.false_ne_true, echoLost_first hbad, Bool.false_and, if_neg Bool.false_ne_true]
  exact ⟨MemoryRows.sat16_eq _, g, _, hwrite.flow, hrec, hat.trans (congrArg some hfirst), hrest, hwrite.others⟩

theorem filter_others_ne {l bad : List Nat} (h : ∃ p ∈ l, p ∉ bad) : l.filter (fun p => !bad.contains p) ≠ [] := by
  obtain ⟨p, hp, hnot⟩ := h
  have hmem : p ∈ l.filter (fun p => !bad.contains p) := List.mem_filter.mpr ⟨hp, by simpa using hnot⟩
  exact List.ne_nil_of_mem hmem

theorem mem_filter_others {l bad : List Nat} {p : Nat} (h : p ∈ l.filter (fun p => !bad.contains p)) : p ∈ l ∧ p ∉ bad := by
  obtain ⟨hp, hnot⟩ := List.mem_filter.mp h
  exact ⟨hp, by simpa using hnot⟩

theorem resealOn_pipes {seals echoes : List Nat} (hfailed : w.failed = true) (hlater : w.breath < s.brt.count)
    (hseal : ∃ p ∈ seals, p ∉ badSeals w.bad) (hecho : ∃ p ∈ echoes, p ∉ badEchoes w.bad) : ∃ a b free,
      resealOn s seals echoes w = some ({ w with failed := false, sealPipe := a, echoPipe := b, breath := s.brt.count }, { s with free := free }) ∧
      a ∈ seals ∧ a ∉ badSeals w.bad ∧ b ∈ echoes ∧ b ∉ badEchoes w.bad := by
  have hseals := filter_others_ne hseal
  have hechoes := filter_others_ne hecho
  obtain ⟨a, free, ha, hamem⟩ := pickPipe_mem hseals s
  obtain ⟨b, free', hb, hbmem⟩ := pickPipe_mem hechoes { s with free := free }
  obtain ⟨hain, hanot⟩ := mem_filter_others hamem
  obtain ⟨hbin, hbnot⟩ := mem_filter_others hbmem
  have hgo : ¬ (!w.failed || decide (s.brt.count ≤ w.breath) || decide (seals.filter (fun p => !(badSeals w.bad).contains p) = []) ||
      decide (echoes.filter (fun p => !(badEchoes w.bad).contains p) = [])) = true := by
    rw [hfailed, decide_eq_false (Nat.not_le.mpr hlater), decide_eq_false hseals, decide_eq_false hechoes]
    decide
  refine ⟨a, b, free', ?_, hain, hanot, hbin, hbnot⟩
  unfold resealOn
  dsimp only
  rw [if_neg hgo, ha]
  dsimp only
  rw [hb]
  rfl

theorem reseal_seals (hf : flowAt s e = some f) (hr : tblGet f.recs i = some r) (hw : r.strips[k]? = some w) (hfailed : w.failed = true)
    (hwhole : r.whole.isSome = true) (hlater : w.breath < s.brt.count) (hseal : ∃ p ∈ sealPipesOf s f, p ∉ badSeals w.bad)
    (hecho : ∃ p ∈ echoPipesOf s f, p ∉ badEchoes w.bad) : let t := reseal s e i k
    ∃ g q a b, flowAt t e = some g ∧ tblGet g.recs i = some { r with strips := q } ∧
      q[k]? = some { w with failed := false, sealPipe := a, echoPipe := b, breath := s.brt.count } ∧
      a ∈ sealPipesOf s f ∧ a ∉ badSeals w.bad ∧ b ∈ echoPipesOf s f ∧ b ∉ badEchoes w.bad ∧ (∀ n, n ≠ k → q[n]? = r.strips[n]?) ∧
      (∀ n, n ≠ e → flowAt t n = flowAt s n) ∧ { t with bore := { t.bore with flows := s.bore.flows }, free := s.free } = s := by
  obtain ⟨a, b, free, hon, hain, hanot, hbin, hbnot⟩ := resealOn_pipes hfailed hlater hseal hecho
  have hreseal : reseal s e i k = modStrip { s with free := free } e i k
      (fun _ => { w with failed := false, sealPipe := a, echoPipe := b, breath := s.brt.count }) := by
    unfold reseal
    rw [hf]
    dsimp only
    rw [hr]
    dsimp only
    rw [hw]
    dsimp only
    rw [if_neg (fun hnone => Bool.false_ne_true (by rw [← Option.not_isSome, hwhole] at hnone; exact hnone)), hon]
  obtain ⟨hat, hrest⟩ := strip_at hw (fun _ => { w with failed := false, sealPipe := a, echoPipe := b, breath := s.brt.count })
  obtain ⟨g, hwrite, -, hrec, -⟩ := modRec_writes (s := { s with free := free }) hf hr (fun r => { r with
    strips := listMod r.strips k (fun _ => { w with failed := false, sealPipe := a, echoPipe := b, breath := s.brt.count }) })
  rw [hreseal]
  exact ⟨g, _, a, b, hwrite.flow, hrec, hat, hain, hanot, hbin, hbnot, hrest, hwrite.others,
    congrArg (fun t : State => { t with free := s.free }) hwrite.frame⟩

end

/-! #### Messages of an operation sent within its credit -/

/-- What sending under an operation keeps: the place of its last message, the other operations, the bore and the jobs. -/
structure Pumped (s t : State) (o n : Nat) : Prop where
  op : ∃ y, tblGet t.pxt.ops o = some y ∧ y.txNext + y.wait.length = n
  ops : ∀ k, k ≠ o → tblGet t.pxt.ops k = tblGet s.pxt.ops k
  bore : t.bore = s.bore
  jobs : t.jobs = s.jobs

/-- The operation whose next message leaves. -/
def pumping (s : State) (o : Nat) (m : Bytes) (rest : List Bytes) : State := modOp s o (fun y => { y with
  txNext := y.txNext + 1
  wait := rest
  sent := y.sent ++ [(y.txNext, m)]
  since := if y.sent = [] then s.brt.count else y.since })

theorem pumpList_cons {o : Nat} {x : HopOp} (hop : tblGet s.pxt.ops o = some x) (b : Bytes) (rest : List Bytes) : pumpList o (b :: rest) s =
    if x.txNext < x.txLimit then pumpList o rest (opTx (pumping s o (setSeq x.txNext b) rest) o (setSeq x.txNext b)) else s := by
  rw [pumpList]
  rw [hop]
  rfl

theorem pumpList_pumped {o : Nat} (l : List Bytes) {s : State} {x : HopOp} (hop : tblGet s.pxt.ops o = some x) (hwait : x.wait = l) :
    Pumped s (pumpList o l s) o (x.txNext + l.length) := by
  induction l generalizing s x with
  | nil => exact ⟨⟨x, hop, by rw [hwait]⟩, fun _ _ => rfl, rfl, rfl⟩
  | cons b rest ih =>
    rw [pumpList_cons hop]
    split
    · obtain ⟨hops, hbore, hjobs⟩ := opTx_sent (pumping s o (setSeq x.txNext b) rest) o (setSeq x.txNext b)
      have hnext := (congrArg (tblGet · o) hops).trans (tblGet_mod_found hop _)
      obtain ⟨⟨y, hy, hlen⟩, hops', hbore', hjobs'⟩ := ih hnext rfl
      refine ⟨⟨y, hy, hlen.trans ?_⟩, fun k hk => (hops' k hk).trans ((congrArg (tblGet · k) hops).trans (tblGet_mod_other _ _ _ _ hk)),
        hbore'.trans hbore, hjobs'.trans hjobs⟩
      rw [List.length_cons]
      exact Nat.add_right_comm _ _ _
    · exact ⟨⟨x, hop, by rw [hwait]⟩, fun _ _ => rfl, rfl, rfl⟩

/-- The operation to whose waiting messages some are added. -/
def queueing (s : State) (o : Nat) (ms : List PxtMsg) : State := modOp s o (fun x => { x with wait := x.wait ++ ms.map pxtBytes })

theorem opSend_pumped {o : Nat} {x : HopOp} (hop : tblGet s.pxt.ops o = some x) (ms : List PxtMsg) :
    Pumped s (opSend s o ms) o (x.txNext + x.wait.length + ms.length) := by
  have hadded : tblGet (queueing s o ms).pxt.ops o = some { x with wait := x.wait ++ ms.map pxtBytes } := tblGet_mod_found hop _
  have hpump : opSend s o ms = pumpList o (x.wait ++ ms.map pxtBytes) (queueing s o ms) := by
    change opPump (queueing s o ms) o = _
    unfold opPump
    rw [hadded]
  obtain ⟨⟨y, hy, hlen⟩, hops, hbore, hjobs⟩ := pumpList_pumped _ hadded rfl
  rw [List.length_append, List.length_map, ← Nat.add_assoc] at hlen
  rw [hpump]
  exact ⟨⟨y, hy, hlen⟩, fun k hk => (hops k hk).trans (tblGet_mod_other _ _ _ _ hk), hbore, hjobs⟩

/-- One flow is written and messages are sent under an operation. -/
theorem opSend_modFlow {o : Nat} {op : HopOp} (hf : flowAt s e = some f) (hop : tblGet s.pxt.ops o = some op) (g : Machine.Flow → Machine.Flow)
    (ms : List PxtMsg) : ∃ y, OpFlow s (opSend (modFlow s e g) o ms) o y e (g f) ∧
      y.txNext + y.wait.length = op.txNext + op.wait.length + ms.length := by
  have hwrite := onlyFlow_modFlow hf g
  obtain ⟨⟨y, hy, hlen⟩, hops, hbore, hjobs⟩ := opSend_pumped (s := modFlow s e g) hop ms
  have hflows (k : Nat) : flowAt (opSend (modFlow s e g) o ms) k = flowAt (modFlow s e g) k := congrArg (fun b : Bore => tblGet b.flows k) hbore
  exact ⟨y, ⟨hy, (hflows e).trans hwrite.flow, hops, fun k hk => (hflows k).trans (hwrite.others k hk), hjobs⟩, hlen⟩

/-! #### Sending -/

theorem recordSend_due (hf : flowAt s e = some f) (hr : tblGet f.recs f.nextSend = some r) (hdue : sendDue s r = true) :
    recordSend s e false = match f.kind with
      | .put => sendSealed s e f.nextSend (f.outOp.getD 0) f r
      | .get => sendPlain s e f.nextSend f r
      | .linkOut => sendLinkOut s e f.nextSend (f.outOp.getD 0) r
      | .linkIn => sendLinkIn s e f.nextSend (f.outOp.getD 0) f r := by
  unfold recordSend
  rw [hf]
  dsimp only
  rw [hr]
  dsimp only
  rw [hdue]
  rfl

/-- The messages a sealed record is sent in. -/
def sealedPieces (f : Machine.Flow) (r : Rec) : List (Nat × Bytes) :=
  recordPieces (f.nextSend * (recSize f.recCode / 4096)) (r.result.take 48) (r.result.drop 48)

/-- The record sent, under the number its last message takes. -/
def recordSent (s : State) (f : Machine.Flow) (r : Rec) (op : HopOp) : Rec :=
  { r with sent := some s.brt.count, lastSeq := some (op.txNext + op.wait.length + (sealedPieces f r).length - 1) }

theorem sendSealed_sends {o : Nat} {op : HopOp} (hf : flowAt s e = some f) (hr : tblGet f.recs f.nextSend = some r)
    (hop : tblGet s.pxt.ops o = some op) : ∃ g y, OpFlow s (sendSealed s e f.nextSend o f r) o y e g ∧ g.nextSend = f.nextSend + 1 ∧
      tblGet g.recs f.nextSend = some (recordSent s f r op) ∧
      (∀ k, k ≠ f.nextSend → tblGet g.recs k = tblGet f.recs k) ∧
      y.txNext + y.wait.length = op.txNext + op.wait.length + (sealedPieces f r).length := by
  obtain ⟨⟨y, hy, hlen⟩, hops, hbore, hjobs⟩ := opSend_pumped hop
    ((sealedPieces f r).map (fun p => { opMsg tPutData f.sid f.obj f.ext with off := p.1, body := p.2 }))
  rw [List.length_map] at hlen
  have hflows := congrArg Bore.flows hbore
  have hlast : (tblGet s.pxt.ops o).map (fun x => x.txNext + x.wait.length + (sealedPieces f r).length - 1) =
      some (op.txNext + op.wait.length + (sealedPieces f r).length - 1) := by
    rw [hop]
    rfl
  have hrec (h : Rec → Rec) := tblGet_mod_found hr h
  have hflow (h : Machine.Flow → Machine.Flow) := (congrArg (fun l => tblGet (tblMod l e h) e) hflows).trans (tblGet_mod_found hf h)
  refine ⟨_, y, ⟨hy, hflow _, hops, fun k hk => (tblGet_mod_other _ _ _ _ hk).trans (congrArg (tblGet · k) hflows), hjobs⟩, rfl, ?_,
    fun k hk => tblGet_mod_other _ _ _ _ hk, hlen⟩
  dsimp only [sealedPieces] at hlast ⊢
  rw [hlast]
  exact hrec _

theorem sendPlain_sends {o : Nat} {op : HopOp} (hf : flowAt s e = some f) (hout : f.outOp = some o) (hop : tblGet s.pxt.ops o = some op) :
    ∃ g y, OpFlow s (sendPlain s e f.nextSend f r) o y e g ∧ g.nextSend = f.nextSend + 1 ∧
      (∀ k, k ≠ f.nextSend → tblGet g.recs k = tblGet f.recs k) ∧
      (g.stage = .delivered ∨ g.stage = f.stage) ∧ (f.nextSend + 1 = recCount f.recCode f.declLen → g.stage = .delivered) := by
  unfold sendPlain
  dsimp only
  rw [hout]
  obtain ⟨y, hflow, -⟩ := opSend_modFlow hf hop _ _
  refine ⟨_, y, hflow, rfl, fun k hk => tblGet_del_other _ _ _ hk, ?_, fun hall => if_pos hall⟩
  dsimp only
  split
  · exact .inl rfl
  · exact .inr rfl

/-- The messages a manifest is sent in. -/
def manifestMessages (f : Machine.Flow) : List PxtMsg :=
  (payloadPieces 0 f.manifest).map (fun p => { opMsg tPutData f.sid f.obj f.ext with part := true, off := p.1, body := p.2 }) ++
    [opMsg tPutEnd f.sid f.obj f.ext]

theorem length_manifestMessages (f : Machine.Flow) : (manifestMessages f).length = (payloadPieces 0 f.manifest).length + 1 := by
  unfold manifestMessages
  rw [List.length_append, List.length_map, List.length_singleton]

theorem manifestSend_sends {o : Nat} {op : HopOp} (hf : flowAt s e = some f) (hout : f.outOp = some o) (hop : tblGet s.pxt.ops o = some op)
    (hstage : f.stage = .stored) (hall : recCount f.recCode f.declLen ≤ f.nextSend) : ∃ y,
      OpFlow s (manifestSend s e) o y e { f with stage := .delivered } ∧
      y.txNext + y.wait.length = op.txNext + op.wait.length + (payloadPieces 0 f.manifest).length + 1 := by
  have hgo : ¬ (decide (f.stage ≠ .stored) || decide (f.nextSend < recCount f.recCode f.declLen)) = true := by
    rw [decide_eq_false (not_not_intro hstage), decide_eq_false (Nat.not_lt.mpr hall)]
    decide
  have hsend : manifestSend s e = opSend (modFlow s e (fun g => { g with stage := .delivered })) o (manifestMessages f) := by
    unfold manifestSend
    rw [hf]
    dsimp only
    rw [hout]
    exact if_neg hgo
  obtain ⟨y, hflow, hlen⟩ := opSend_modFlow hf hop (fun g => { g with stage := .delivered }) (manifestMessages f)
  rw [length_manifestMessages, ← Nat.add_assoc] at hlen
  rw [hsend]
  exact ⟨y, hflow, hlen⟩

end

end Sys2Proof.BoreRows


/-! ### Streams, closing extents and checks in the bore, and O51 (R243, R263 to R269) -/

namespace Sys2Proof.ExtentRows

open Sys2Proof Sys2Proof.Machine Sys2Proof.Safety Sys2Proof.Rows Sys2Proof.Laws Sys2Proof.BoreRows Sys2Proof.LadderRows

section
variable {s : State}

/-! #### Stream entries loaded (R243) -/

/-- A stream whose entry was loaded. -/
def loaded (s : State) (x : Machine.Stream) : Machine.Stream := { x with
  cached := true
  loading := false
  used := s.brt.count
  held := []
  counter := if x.cls = .transit && !x.receive then x.ceiling else x.counter }

theorem loaded_plain {x : Machine.Stream} (hcls : x.cls ≠ .transit) :
    loaded s x = { x with cached := true, loading := false, used := s.brt.count, held := [] } := by
  unfold loaded
  rw [decide_eq_false hcls]
  rfl

theorem reloadEntry_writes {sid : Nat} {x : Machine.Stream} (hx : streamAt s sid = some x) :
    OnlyStream s (modStream s sid (fun y => { y with
      cached := true
      loading := false
      used := s.brt.count
      held := []
      counter := if x.cls = .transit && !x.receive then x.ceiling else y.counter })) sid (loaded s x) := onlyStream_modStream hx _

theorem reloadEntry_alone {sid : Nat} {x : Machine.Stream} (hx : streamAt s sid = some x) (hlink : linkOf s sid = none) :
    OnlyStream s (reloadEntry s sid x) sid (loaded s x) := by
  have hwrite := reloadEntry_writes hx
  unfold reloadEntry
  dsimp only
  rw [show linkOf (modStream s sid _) sid = none from hlink]
  exact hwrite

theorem reloadEntry_link {sid e : Nat} {x : Machine.Stream} {f : Machine.Flow} (hx : streamAt s sid = some x) (hlink : linkOf s sid = some (e, f))
    (hf : flowAt s e = some f) (hkind : f.kind = .linkOut) : streamAt (reloadEntry s sid x) sid = some (loaded s x) ∧
      flowAt (reloadEntry s sid x) e = some { f with stage := .opening } := by
  have hwrite := reloadEntry_writes hx
  unfold reloadEntry
  dsimp only
  rw [show linkOf (modStream s sid _) sid = some (e, f) from hlink]
  dsimp only
  rw [if_pos hkind]
  exact ⟨hwrite.stream, tblGet_mod_found hf _⟩

theorem cacheLoaded_again {sid : Nat} {x : Machine.Stream} (hx : streamAt s sid = some x) (hcached : x.cached = true) :
    cacheLoaded s sid true = reloadEntry s sid x := by
  unfold cacheLoaded
  rw [hx]
  dsimp only
  rw [hcached]
  rfl

theorem cacheLoaded_loads {sid : Nat} {x : Machine.Stream} (hx : streamAt s sid = some x) (hloading : x.loading = true) (hheld : x.held = [])
    (hroom : (s.bore.streams.filter (fun e => e.2.cached)).length < 65536) : cacheLoaded s sid false = reloadEntry s sid x := by
  have hspare : cacheRoom s = some s := if_pos hroom
  unfold cacheLoaded
  rw [hx]
  dsimp only
  rw [hloading, hspare, hheld]
  rfl

/-! #### Internal jobs -/

theorem admitOn_internal {j j' : Job} {rid : Nat} (h : admitOn s j rid = some j') : j'.internal = j.internal := by
  unfold admitOn at h
  split at h
  · obtain ⟨p, -, rfl⟩ := Option.map_eq_some_iff.mp h
    rfl
  · cases h

/-- What submitting an internal job writes. -/
structure Submitted (s t : State) (what : Nat × Nat) : Prop where
  job : ∃ j, tblGet t.jobs s.nextJob = some j ∧ j.internal = some what
  bore : t.bore = s.bore

theorem addJob_submitted {u : State} {j : Job} {what : Nat × Nat} (hj : j.internal = some what) (hnext : u.nextJob = s.nextJob)
    (hbore : u.bore = s.bore) : (addJob u j).1 = s.nextJob ∧ Submitted s (addJob u j).2 what :=
  ⟨hnext, ⟨j, hnext ▸ tblGet_put_same _ _ _, hj⟩, hbore⟩

theorem submitInternal_submitted (s : State) (inst : Nat) (what : Nat × Nat) (alg op slot : Nat) (ctx input : Bytes) :
    (submitInternal s inst what alg op slot ctx input).1 = s.nextJob ∧ Submitted s (submitInternal s inst what alg op slot ctx input).2 what := by
  unfold submitInternal
  dsimp only
  split
  · next st _ =>
    obtain ⟨wch, clusters, hnote⟩ := ParseRows.noteSlot_frame s inst slot st
    rw [hnote]
    exact addJob_submitted rfl rfl rfl
  · split
    · exact addJob_submitted rfl rfl rfl
    · split
      · next j hj => exact addJob_submitted (admitOn_internal hj) rfl rfl
      · exact addJob_submitted rfl rfl rfl

/-! #### An extent closes (R263) -/

theorem noteLimit_frame (s : State) (i : Nat) : ∃ l, noteLimit s i = { s with bore := { s.bore with atLimit := l } } := by
  unfold noteLimit
  dsimp only
  split
  · exact ⟨_, rfl⟩
  · split
    · exact ⟨_, rfl⟩
    · exact ⟨_, rfl⟩

/-- The head of the manifest of an extent whose records are all sealed. -/
def closingHeader (s : State) (f : Machine.Flow) : Bytes :=
  manifestHeader (sefIdOf f) s.dom.id f.keyId (slotKeyId s f.inst f.sig1 0x0203) (slotKeyId s f.inst f.sig2 0x0302) (lastSealing f)
    (tagRoot (f.recs.map (fun r => recTag r.2.result)))

/-- The extent closed, its first signature asked for. -/
def closing (s : State) (e : Nat) (f : Machine.Flow) : State := modFlow s e (fun g => { g with
  key := []
  stage := .sig1
  closeBreath := lastSealing f
  manifest := closingHeader s f ++ (f.recs.map (fun r => recTag r.2.result)).flatten })

theorem extentClose_submits {e : Nat} {f : Machine.Flow} (hf : flowAt s e = some f) (hkind : f.kind = .put) (hstage : f.stage = .isOpen)
    (hall : allSealed f = true) : extentClose s e = noteLimit (submitInternal (closing s e f) f.inst (forSig1, e) 0x0203 opSign f.sig1
      (ascii "SEF1 manifest") (ascii "SEF1 manifest" ++ closingHeader s f)).2 f.inst := by
  have hgo : ¬ (decide (f.kind ≠ .put) || decide (f.stage ≠ .isOpen) || !allSealed f) = true := by
    rw [decide_eq_false (not_not_intro hkind), decide_eq_false (not_not_intro hstage), hall]
    decide
  unfold extentClose
  rw [hf]
  exact if_neg hgo

theorem extentClose_closes {e : Nat} {f : Machine.Flow} (hf : flowAt s e = some f) (hkind : f.kind = .put) (hstage : f.stage = .isOpen)
    (hall : allSealed f = true) : flowAt (extentClose s e) e = some { f with
        key := []
        stage := .sig1
        closeBreath := lastSealing f
        manifest := closingHeader s f ++ (f.recs.map (fun r => recTag r.2.result)).flatten } ∧
      (∀ k, k ≠ e → flowAt (extentClose s e) k = flowAt s k) ∧
      ∃ j, tblGet (extentClose s e).jobs s.nextJob = some j ∧ j.internal = some (forSig1, e) := by
  obtain ⟨-, hjob, hbore⟩ := submitInternal_submitted (closing s e f) f.inst (forSig1, e) 0x0203 opSign f.sig1 (ascii "SEF1 manifest")
    (ascii "SEF1 manifest" ++ closingHeader s f)
  obtain ⟨l, hlimit⟩ := noteLimit_frame (submitInternal (closing s e f) f.inst (forSig1, e) 0x0203 opSign f.sig1 (ascii "SEF1 manifest")
    (ascii "SEF1 manifest" ++ closingHeader s f)).2 f.inst
  have hflows := congrArg Bore.flows hbore
  rw [extentClose_submits hf hkind hstage hall, hlimit]
  exact ⟨(congrArg (tblGet · e) hflows).trans (tblGet_mod_found hf _),
    fun k hk => (congrArg (tblGet · k) hflows).trans (tblGet_mod_other _ _ _ _ hk), hjob⟩

/-! #### A deferred check becomes a job (R267) -/

theorem findIdx?_append_cons {α : Type} {p : α → Bool} {pre post : List α} {a : α} (hpre : ∀ b ∈ pre, p b = false) (ha : p a = true) :
    findIdx? p (pre ++ a :: post) = some pre.length := by
  induction pre with
  | nil => exact if_pos ha
  | cons b pre ih =>
    rw [List.cons_append, findIdx?, hpre b List.mem_cons_self, if_neg Bool.false_ne_true, ih fun c hc => hpre c (List.mem_cons_of_mem _ hc)]
    rfl

theorem listMod_append_cons {α : Type} (pre post : List α) (a : α) (f : α → α) : listMod (pre ++ a :: post) pre.length f = pre ++ f a :: post := by
  induction pre with
  | nil => rfl
  | cons b pre ih => exact congrArg (b :: ·) ih

theorem auditCheck_submits {pre post : List Audit} {a : Audit} (haudits : s.bore.audits = pre ++ a :: post) (ha : a.job = none)
    (hpre : ∀ b ∈ pre, b.job.isSome = true) : (∃ j, tblGet (auditCheck s).jobs s.nextJob = some j ∧ j.internal.isSome = true) ∧
      (auditCheck s).bore.audits = pre ++ { a with job := some s.nextJob } :: post ∧ (auditCheck s).bore.flows = s.bore.flows := by
  have hfirst : s.bore.audits.find? (fun a => a.job.isNone) = some a := by
    rw [haudits]
    refine List.find?_eq_some_iff_append.mpr ⟨by rw [ha]; rfl, pre, post, rfl, fun b hb => ?_⟩
    rw [← Option.not_isSome, hpre b hb]
    rfl
  have hindex : findIdx? (fun x => x = a) (pre ++ a :: post) = some pre.length :=
    findIdx?_append_cons (fun b hb => decide_eq_false fun h => absurd (hpre b hb) (by rw [h, ha]; exact Bool.false_ne_true)) (decide_eq_true rfl)
  obtain ⟨hnumber, ⟨j, hj, hinternal⟩, hbore⟩ := submitInternal_submitted s a.inst (forAudit, 0) (if a.second then 0x0302 else 0x0203) opVerify a.slot
    (if a.second then ascii "SEF1 batch" else ascii "SEF1 manifest") a.msg
  have hkept := (congrArg Bore.audits hbore).trans haudits
  have hflows := congrArg Bore.flows hbore
  unfold auditCheck
  rw [hfirst]
  refine ⟨⟨j, hj, by rw [hinternal]; rfl⟩, ?_, hflows⟩
  dsimp only [modBore]
  rw [hkept, hindex, hnumber]
  exact listMod_append_cons pre post a _

/-! #### The next epoch of a TRANSIT sender (R269) -/

theorem endEpoch_frame (s : State) (sid : Nat) : ∃ contexts lost, endEpoch s sid = { s with bore := { s.bore with contexts := contexts, lostCtx := lost } } := by
  unfold endEpoch
  split
  · exact ⟨_, _, rfl⟩
  · split
    · exact ⟨_, _, rfl⟩
    · exact ⟨_, _, rfl⟩

theorem settleCtl_frame (n i : Nat) (s : State) : ∃ insts waiting, settleCtl n i s = { s with insts := insts, waiting := waiting } := by
  induction n generalizing s with
  | zero => exact ⟨_, _, rfl⟩
  | succ n ih =>
    unfold settleCtl
    split
    · exact ⟨_, _, rfl⟩
    · split
      · exact ⟨_, _, rfl⟩
      · exact ih _

theorem ctlDone_frame (s : State) (i : Nat) (st : Status) (out : Bytes) (info : Nat) :
    ∃ insts waiting, ctlDone s i st out info = { s with insts := insts, waiting := waiting } := by
  unfold ctlDone
  split
  · exact ⟨_, _, rfl⟩
  · unfold settleCtlAll
    split
    · exact ⟨_, _, rfl⟩
    · exact settleCtl_frame _ i _

theorem ctlDoneMirrored_bore (s : State) (i info : Nat) : (ctlDoneMirrored s i info).bore = s.bore := by
  unfold ctlDoneMirrored
  split
  · rfl
  · split
    · rfl
    · obtain ⟨insts, waiting, h⟩ := ctlDone_frame s i .ok [] info
      rw [h]

/-- A stream in its next epoch. -/
def advanced (x : Machine.Stream) : Machine.Stream := { x with
  keySlot := x.nextSlot.getD x.keySlot
  nextSlot := none
  epoch := x.epoch + 1
  counter := 0
  ceiling := 0
  reserving := none
  rekey := false }

/-- A new epoch leaves the flows and every other stream. -/
theorem takeEpoch_advances {sid : Nat} {x : Machine.Stream} (hx : streamAt s sid = some x) : streamAt (takeEpoch s sid) sid = some (advanced x) ∧
    (∀ k, k ≠ sid → streamAt (takeEpoch s sid) k = streamAt s k) ∧ (takeEpoch s sid).bore.flows = s.bore.flows := by
  have hwrite := onlyStream_modStream hx (fun _ => advanced x)
  obtain ⟨twn, hmirror⟩ := RandomRows.mirror_twin (modStream s sid (fun _ => advanced x)) recStream (streamBody sid (advanced x))
  obtain ⟨contexts, lost, hend⟩ := endEpoch_frame (mirror (modStream s sid (fun _ => advanced x)) recStream (streamBody sid (advanced x))) sid
  have hbore : (takeEpoch s sid).bore = { (modStream s sid (fun _ => advanced x)).bore with contexts := contexts, lostCtx := lost } := by
    have htake : (takeEpoch s sid).bore = (endEpoch (mirror (modStream s sid (fun _ => advanced x)) recStream (streamBody sid (advanced x))) sid).bore := by
      unfold takeEpoch
      rw [hx]
      dsimp only
      split
      · exact ctlDoneMirrored_bore _ _ _
      · rfl
    rw [htake, hend, hmirror]
  have hstreams := congrArg Bore.streams hbore
  have hflows := congrArg Bore.flows hbore
  exact ⟨(congrArg (tblGet · sid) hstreams).trans hwrite.stream, fun k hk => (congrArg (tblGet · k) hstreams).trans (hwrite.others k hk), hflows⟩

theorem epochAdvance_due {sid : Nat} {x : Machine.Stream} (hx : streamAt s sid = some x) (hcls : x.cls = .transit) (hrecv : x.receive = false)
    (hlast : 2 ^ 36 ≤ x.counter) : epochAdvance s sid = takeEpoch s sid := by
  unfold epochAdvance
  rw [hx]
  dsimp only
  rw [hcls, hrecv]
  exact if_pos (decide_eq_true hlast)

end

/-! #### The rows -/

section
variable {s : State}

theorem loads_row (hrun : isRunning s = true) (sid : Nat) (x : Machine.Stream) (hx : streamAt s sid = some x) (hloading : x.loading = true)
    (hheld : x.held = []) (hroom : (s.bore.streams.filter (fun e => e.2.cached)).length < 65536) :
    (linkOf s sid = none → x.cls ≠ .transit → Does (.streamCacheLoadDone ⟨sid, false⟩) s (fun t =>
      OnlyStream s t sid { x with cached := true, loading := false, used := s.brt.count })) ∧
    (∀ e f, x.cls = .transit → x.receive = false → linkOf s sid = some (e, f) → flowAt s e = some f → f.kind = .linkOut →
      Does (.streamCacheLoadDone ⟨sid, false⟩) s (fun t => streamAt t sid = some { x with
        cached := true
        loading := false
        used := s.brt.count
        counter := x.ceiling } ∧ flowAt t e = some { f with stage := .opening })) := by
  have hexec : exec (.streamCacheLoadDone ⟨sid, false⟩) s = whenRunning s (cacheLoaded s sid false) := rfl
  refine ⟨fun hlink hcls => ?_, fun e f hcls hrecv hlink hf hkind => ?_⟩
  · have hloaded : loaded s x = { x with cached := true, loading := false, used := s.brt.count } := by
      rw [loaded_plain hcls, ← hheld]
    refine does_whenRunning hexec hrun ?_
    rw [cacheLoaded_loads hx hloading hheld hroom, ← hloaded]
    exact reloadEntry_alone hx hlink
  · have hloaded : loaded s x = { x with cached := true, loading := false, used := s.brt.count, counter := x.ceiling } := by
      unfold loaded
      rw [hcls, hrecv, ← hheld]
      rfl
    refine does_whenRunning hexec hrun ?_
    rw [cacheLoaded_loads hx hloading hheld hroom, ← hloaded]
    exact reloadEntry_link hx hlink hf hkind

theorem admissions_row (hrun : isRunning s = true) (e i : Nat) (f : Machine.Flow) (r : Rec) (hf : flowAt s e = some f)
    (hr : tblGet f.recs i = some r) (hdue : admitDue s r = true) :
    (f.kind = .put → f.stage = .isOpen → f.mig = none → groupPipes s .echoG ≠ [] → admitFits s f r = true →
      Does (.recordAdmit e i false) s (fun t => ∃ g q, flowAt t e = some g ∧ { g with recs := f.recs } = f ∧
        tblGet g.recs i = some { r with
          admitted := some s.brt.count
          result := sefHeader (sefIdOf f) i ++ sealRecord f.key (sefIdOf f) i r.input
          strips := q } ∧
        q.length = (r.input.length + 4095) / 4096 ∧
        (∀ w ∈ q, w.sealPipe ∈ groupPipes s .sealG ∧ w.echoPipe ∈ groupPipes s .echoG ∧ w.passed = false ∧ w.failed = false ∧
          w.breath = s.brt.count) ∧
        (∀ k, k ≠ i → tblGet g.recs k = tblGet f.recs k) ∧ (∀ k, k ≠ e → flowAt t k = flowAt s k) ∧
        { t with bore := { t.bore with flows := s.bore.flows }, free := s.free } = s)) ∧
    (∀ o op, f.kind = .put → f.stage = .isOpen → f.inOp = some o → tblGet s.pxt.ops o = some op →
      Does (.recordAdmit e i true) s (fun t => ∃ g, OpFlow s t o { op with rxNext := r.firstSeq, rxNak := some s.brt.count } e g ∧
        tblGet g.recs i = some { r with input := [], whole := none } ∧ ∀ k, k ≠ i → tblGet g.recs k = tblGet f.recs k)) ∧
    (∀ p, f.kind = .get → f.stage = .records → admitFits s f r = true → unsealRecord f.key (sefIdOf f) i r.input = some p →
      r.input.drop (r.input.length - 16) = slice f.manifest (184 + 16 * i) 16 →
      Does (.recordAdmit e i false) s (fun t => ∃ g, OnlyFlow s t e g ∧ { g with recs := f.recs } = f ∧
        tblGet g.recs i = some { r with admitted := some s.brt.count, result := p, ready := some s.brt.count } ∧
        ∀ k, k ≠ i → tblGet g.recs k = tblGet f.recs k)) ∧
    (f.kind = .linkIn → admitFits s f r = true → Does (.recordAdmit e i false) s (fun t => ∃ g, OnlyFlow s t e g ∧
      tblGet g.recs i = some { r with admitted := some s.brt.count, result := r.input, ready := some s.brt.count })) := by
  have hexec (parity : Bool) : exec (.recordAdmit e i parity) s = whenRunning s (recordAdmit s e i parity) := rfl
  have hadmit (parity : Bool) := recordAdmit_due hf hr hdue parity
  refine ⟨fun hkind hstage hmig hecho hfits => ?_, fun o op hkind hstage hin hop => ?_, fun p hkind hstage hfits hopen htag => ?_,
    fun hkind hfits => ?_⟩
  all_goals
    refine does_whenRunning (hexec _) hrun ?_
    rw [hadmit, hkind]
    dsimp only
  · rw [if_pos hstage]
    exact admitPut_seals hf hr hkind hmig hecho hfits
  · rw [if_pos hstage]
    exact admitPut_asks hf hr hin hop
  · rw [if_pos hstage]
    exact admitGet_opens hf hr hfits hopen htag
  · exact admitLinkIn_admits hf hr hfits

theorem strips_row (hrun : isRunning s = true) (hhalt : s.dev.halting = false) (e i k : Nat) (f : Machine.Flow) (r : Rec) (w : Strip)
    (hf : flowAt s e = some f) (hr : tblGet f.recs i = some r) (hw : r.strips[k]? = some w) :
    (w.passed = false → w.failed = false → w.bad = [] → Does (.echoResult (.flow e) i k true) s (fun t => ∃ g, OnlyFlow s t e g ∧
      { g with recs := f.recs } = f ∧ (∀ n, n ≠ i → tblGet g.recs n = tblGet f.recs n) ∧
      ∃ q, tblGet g.recs i = some { r with
          strips := q
          ready := if q.all Strip.passed then some s.brt.count else none } ∧
        q[k]? = some { w with passed := true } ∧ ∀ n, n ≠ k → q[n]? = r.strips[n]?)) ∧
    (w.passed = false → w.failed = false → w.bad = [] → Does (.echoResult (.flow e) i k false) s (fun t =>
      t.bore.mismatches = min 65535 (s.bore.mismatches + 1) ∧ ∃ g q, flowAt t e = some g ∧ tblGet g.recs i = some { r with strips := q } ∧
        q[k]? = some { w with failed := true, bad := [w.sealPipe, w.echoPipe] } ∧ (∀ n, n ≠ k → q[n]? = r.strips[n]?) ∧
        (∀ n, n ≠ e → flowAt t n = flowAt s n))) ∧
    (w.failed = true → r.whole.isSome = true → w.breath < s.brt.count → (∃ p ∈ sealPipesOf s f, p ∉ badSeals w.bad) →
      (∃ p ∈ echoPipesOf s f, p ∉ badEchoes w.bad) →
      Does (.reseal (.flow e) i k) s (fun t => ∃ g q a b, flowAt t e = some g ∧ tblGet g.recs i = some { r with strips := q } ∧
        q[k]? = some { w with failed := false, sealPipe := a, echoPipe := b, breath := s.brt.count } ∧
        a ∈ sealPipesOf s f ∧ a ∉ badSeals w.bad ∧ b ∈ echoPipesOf s f ∧ b ∉ badEchoes w.bad ∧ (∀ n, n ≠ k → q[n]? = r.strips[n]?) ∧
        (∀ n, n ≠ e → flowAt t n = flowAt s n) ∧ { t with bore := { t.bore with flows := s.bore.flows }, free := s.free } = s)) := by
  have hecho (good : Bool) : exec (.echoResult (.flow e) i k good) s = whenRunning s (if s.dev.halting then s else echoResult s e i k good) := rfl
  have hreseal : exec (.reseal (.flow e) i k) s = whenRunning s (if s.dev.halting then s else reseal s e i k) := rfl
  rw [hhalt] at hecho hreseal
  exact ⟨fun hpassed hfailed hbad => does_whenRunning (hecho true) hrun (echoResult_passes hf hr hw hpassed hfailed hbad),
    fun hpassed hfailed hbad => does_whenRunning (hecho false) hrun (echoResult_fails hf hr hw hpassed hfailed hbad),
    fun hfailed hwhole hlater hseal hechoes => does_whenRunning hreseal hrun (reseal_seals hf hr hw hfailed hwhole hlater hseal hechoes)⟩

theorem sends_row (hrun : isRunning s = true) (e : Nat) (f : Machine.Flow) (r : Rec) (hf : flowAt s e = some f)
    (hr : tblGet f.recs f.nextSend = some r) (hdue : sendDue s r = true) :
    (∀ o op, f.kind = .put → f.outOp = some o → tblGet s.pxt.ops o = some op →
      let n := (recordPieces (f.nextSend * (recSize f.recCode / 4096)) (r.result.take 48) (r.result.drop 48)).length
      Does (.recordSend e false) s (fun t => ∃ g y, OpFlow s t o y e g ∧ g.nextSend = f.nextSend + 1 ∧
        tblGet g.recs f.nextSend = some { r with sent := some s.brt.count, lastSeq := some (op.txNext + op.wait.length + n - 1) } ∧
        (∀ k, k ≠ f.nextSend → tblGet g.recs k = tblGet f.recs k) ∧ y.txNext + y.wait.length = op.txNext + op.wait.length + n)) ∧
    (∀ o op, f.kind = .get → f.outOp = some o → tblGet s.pxt.ops o = some op → Does (.recordSend e false) s (fun t => ∃ g y,
      OpFlow s t o y e g ∧ g.nextSend = f.nextSend + 1 ∧ (∀ k, k ≠ f.nextSend → tblGet g.recs k = tblGet f.recs k) ∧
      (g.stage = .delivered ∨ g.stage = f.stage) ∧ (f.nextSend + 1 = recCount f.recCode f.declLen → g.stage = .delivered))) ∧
    (∀ o op, f.kind = .put → f.outOp = some o → tblGet s.pxt.ops o = some op →
      exec (.recordSend e true) s = .next { s with out := .badFcs op.fport :: s.out }) := by
  have hexec (parity : Bool) : exec (.recordSend e parity) s = whenRunning s (recordSend s e parity) := rfl
  have hsend := recordSend_due hf hr hdue
  refine ⟨fun o op hkind hout hop => ?_, fun o op hkind hout hop => ?_, fun o op hkind hout hop => ?_⟩
  · refine does_whenRunning (hexec _) hrun ?_
    rw [hsend, hkind, hout]
    exact sendSealed_sends hf hr hop
  · refine does_whenRunning (hexec _) hrun ?_
    rw [hsend, hkind]
    exact sendPlain_sends hf hout hop
  · have hbad : recordSend s e true = emit s (.badFcs op.fport) := by
      unfold recordSend
      rw [hf]
      dsimp only
      rw [hr]
      dsimp only
      rw [hdue, sealsFlow, hkind, hout, Option.getD_some, hop]
      rfl
    rw [hexec, whenRunning_of _ _ hrun, hbad]
    rfl

end

/-- Settles O51. Each row writes the record, flow, stream or check it names; what is sent goes within the credit of its operation, which keeps the
place of the last message. -/
theorem boreRecords : Obligations.BoreRecords := by
  unfold Obligations.BoreRecords
  intro s hrun hhalt
  refine ⟨fun sid x hx hcached hlink hcls => ?_, loads_row hrun, admissions_row hrun, strips_row hrun hhalt, sends_row hrun,
    fun e f hf hkind hstage hall => ?_, fun e f o op hf hout hop hstage hall => ?_, fun pre a post haudits ha hpre => ?_,
    fun sid x hx hcls hrecv hlast => ?_⟩
  · have hexec : exec (.streamCacheLoadDone ⟨sid, true⟩) s = whenRunning s (cacheLoaded s sid true) := rfl
    have hloaded : loaded s x = { x with loading := false, used := s.brt.count, held := [] } := by
      rw [loaded_plain hcls, ← hcached]
    refine does_whenRunning hexec hrun ?_
    rw [cacheLoaded_again hx hcached, ← hloaded]
    exact reloadEntry_alone hx hlink
  · have hexec : exec (.extentClose e) s = whenRunning s (if s.dev.halting then s else extentClose s e) := rfl
    rw [hhalt] at hexec
    obtain ⟨hflow, hothers, hjob⟩ := extentClose_closes hf hkind hstage hall
    exact does_whenRunning hexec hrun ⟨_, hflow, rfl, hothers, hjob⟩
  · have hexec : exec (.manifestSend e) s = whenRunning s (if s.dev.halting then s else manifestSend s e) := rfl
    rw [hhalt] at hexec
    exact does_whenRunning hexec hrun (manifestSend_sends hf hout hop hstage hall)
  · have hexec : exec .auditCheck s = whenRunning s (if s.dev.halting then s else auditCheck s) := rfl
    rw [hhalt] at hexec
    exact does_whenRunning hexec hrun (auditCheck_submits haudits ha hpre)
  · have hexec : exec (.transitEpochAdvance sid) s = whenRunning s (epochAdvance s sid) := rfl
    refine does_whenRunning hexec hrun ?_
    rw [epochAdvance_due hx hcls hrecv hlast]
    exact takeEpoch_advances hx

end Sys2Proof.ExtentRows


/-! ### What leaves the mode unchanged

The shared operations behind the commands that a halted device still takes: the completion rings, the log, the mailboxes, changes and their
approval, resets, monitors, firmware and sensors. -/

namespace Sys2Proof.ModeKept

open Sys2Proof Sys2Proof.Machine Sys2Proof.Still Sys2Proof.ModeRows

/-- The mode of the device. -/
def modeOf (s : State) : Mode := s.dev.mode

@[simp] theorem modeOf_mk (dev : Dev) (brt : Brt) (ports : List HostPort) (insts : Tbl Inst) (jobs : Tbl Job) (nextJob : Nat) (waiting : List Waiting)
    (plc : Plc) (clusters : Tbl Cluster) (reeds : Tbl Reed) (health : UnitHealth) (bell : Bell) (charts : Charts) (changes : Changes)
    (wch : Wch) (wchBox lcsBox : List Mailbox) (rng : Rng) (dgp : List Dgp) (mpr : Mpr) (mgc : Mgc) (dom : Domain) (lcs : Lcs) (twn : Twn)
    (mig : Mig) (bore : Bore) (pxt : Pxt) (pending : List Instr) (out : List Out) (free : Nat) :
    modeOf ⟨dev, brt, ports, insts, jobs, nextJob, waiting, plc, clusters, reeds, health, bell, charts, changes, wch, wchBox, lcsBox, rng, dgp,
      mpr, mgc, dom, lcs, twn, mig, bore, pxt, pending, out, free⟩ = dev.mode := rfl

@[simp] theorem dev_mode (s : State) : s.dev.mode = modeOf s := rfl

@[simp] theorem modeOf_ite (c : Prop) [Decidable c] (a b : State) : modeOf (if c then a else b) = if c then modeOf a else modeOf b :=
  apply_ite modeOf c a b

theorem mode_foldl {α : Type} (f : State → α → State) (hf : ∀ t a, modeOf (f t a) = modeOf t) (l : List α) (s : State) :
    modeOf (l.foldl f s) = modeOf s := by
  induction l generalizing s with
  | nil => rfl
  | cons a l ih => exact (ih _).trans (hf s a)

theorem mode_of_still {s t : State} (h : still t = still s) : modeOf t = modeOf s := congrArg Dev.mode (dev_of_still h)

@[simp] theorem emit_mode (s : State) (o : Out) : modeOf (emit s o) = modeOf s := mode_of_still (emit_still _ _)

@[simp] theorem emitAll_mode (s : State) (l : List Out) : modeOf (emitAll s l) = modeOf s := mode_of_still (emitAll_still _ _)

@[simp] theorem modPort_mode (s : State) (p : Nat) (f : HostPort → HostPort) :
    modeOf (modPort s p f) = modeOf s := mode_of_still (modPort_still _ _ _)

@[simp] theorem modInst_mode (s : State) (i : Nat) (f : Inst → Inst) : modeOf (modInst s i f) = modeOf s := mode_of_still (modInst_still _ _ _)

@[simp] theorem bucketCharge_mode (s : State) (i n : Nat) : modeOf (bucketCharge s i n) = modeOf s := mode_of_still (bucketCharge_still _ _ _)

@[simp] theorem addWaiting_mode (s : State) (c : Compl) (cls key due : Nat) :
    modeOf (addWaiting s c cls key due) = modeOf s := mode_of_still (addWaiting_still _ _ _ _ _)

@[simp] theorem modWch_mode (s : State) (f : Wch → Wch) : modeOf (modWch s f) = modeOf s := mode_of_still (modWch_still _ _)

@[simp] theorem mirror_mode (s : State) (kind : Nat) (body : Bytes) : modeOf (mirror s kind body) = modeOf s := mode_of_still (mirror_still _ _ _)

@[simp] theorem modBore_mode (s : State) (f : Bore → Bore) : modeOf (modBore s f) = modeOf s := mode_of_still (modBore_still _ _)

@[simp] theorem admDoneBy_mode (s : State) (p : Fin 8) (st : Status) (out : Bytes) (info due : Nat) :
    modeOf (admDoneBy s p st out info due) = modeOf s := mode_of_still (admDoneBy_still _ _ _ _ _ _)

@[simp] theorem admDone_mode (s : State) (p : Fin 8) (st : Status) (out : Bytes) (info : Nat) :
    modeOf (admDone s p st out info) = modeOf s := mode_of_still (admDone_still _ _ _ _ _)

@[simp] theorem admDoneMirrored_mode (s : State) (p : Fin 8) (info : Nat) :
    modeOf (admDoneMirrored s p info) = modeOf s := mode_of_still (admDoneMirrored_still _ _ _)

@[simp] theorem modFab_mode (s : State) (p : Nat) (f : FabPort → FabPort) : modeOf (modFab s p f) = modeOf s := mode_of_still (modFab_still _ _ _)

@[simp] theorem txFrame_mode (s : State) (p : Nat) (dst : Peer) (carriage : Nat) (b : Bytes) :
    modeOf (txFrame s p dst carriage b) = modeOf s := mode_of_still (txFrame_still _ _ _ _ _)

@[simp] theorem haltFlows_mode (s : State) : modeOf (haltFlows s) = modeOf s := mode_of_still (haltFlows_still _)

@[simp] theorem freshBytes_mode (n : Nat) (s : State) : modeOf ((freshBytes n s).2) = modeOf s := by
  simp [freshBytes]

@[simp] theorem modRing_mode (s : State) (g : Ring) (f : Qp → Qp) : modeOf (modRing s g f) = modeOf s := by
  unfold modRing
  (repeat' split) <;> simp

@[simp] theorem modMsix_mode (s : State) (p vf : Nat) (f : Msix → Msix) : modeOf (modMsix s p vf f) = modeOf s := by
  unfold modMsix
  (repeat' split) <;> simp

@[simp] theorem logRecord_mode (s : State) (code sev : Nat) (bit : Option Nat) (data : Bytes) :
    modeOf (logRecord s code sev bit data) = modeOf s := by
  unfold logRecord
  (repeat' split) <;> simp

@[simp] theorem logEvent_mode (s : State) (code : Nat) (data : Bytes) : modeOf (logEvent s code data) = modeOf s := by
  simp [logEvent]

@[simp] theorem fnCharge_mode (s : State) (p fn n : Nat) : modeOf (fnCharge s p fn n) = modeOf s := by
  unfold fnCharge
  (repeat' split) <;> simp

@[simp] theorem ringCharge_mode (s : State) (g : Ring) (n : Nat) : modeOf (ringCharge s g n) = modeOf s := by
  unfold ringCharge
  (repeat' split) <;> simp

@[simp] theorem instError_mode (s : State) (i cause : Nat) : modeOf (instError s i cause) = modeOf s := by
  simp [instError]

@[simp] theorem ringError_mode (s : State) (g : Ring) (cause : Nat) : modeOf (ringError s g cause) = modeOf s := by
  cases g <;> rfl

@[simp] theorem dropDenied_mode (s : State) (p fn page : Nat) : modeOf (dropDenied s p fn page) = modeOf s := by
  simp [dropDenied]

@[simp] theorem msixSend_mode (s : State) (p vf v : Nat) : modeOf (msixSend s p vf v) = modeOf s := by
  simp [msixSend]

@[simp] theorem ringMessage_mode (s : State) (g : Ring) : modeOf (ringMessage s g) = modeOf s := by
  unfold ringMessage
  (repeat' split) <;> simp

@[simp] theorem writeEntry_mode (s : State) (c : Compl) : modeOf (writeEntry s c) = modeOf s := by
  unfold writeEntry
  dsimp only
  (repeat' split) <;> simp

@[simp] theorem writeOutput_mode (s : State) (c : Compl) : modeOf ((writeOutput s c).2) = modeOf s := by
  unfold writeOutput
  dsimp only
  (repeat' split) <;> simp

@[simp] theorem putEntry_mode (s : State) (c : Compl) : modeOf (putEntry s c) = modeOf s := by
  unfold putEntry
  (repeat' split) <;> simp

@[simp] theorem writeHeld_mode (g : Ring) (l : List Compl) (s : State) : modeOf (writeHeld g l s) = modeOf s := by
  induction l generalizing s with
  | nil => simp [writeHeld]
  | cons c rest ih => simp [writeHeld, ih]


@[simp] theorem issueCompl_mode (s : State) (c : Compl) : modeOf (issueCompl s c) = modeOf s := by
  unfold issueCompl
  (repeat' split) <;> simp

@[simp] theorem issueHeld_mode (s : State) (g : Ring) : modeOf (issueHeld s g) = modeOf s := by
  unfold issueHeld
  split
  · rfl
  · dsimp only
    split <;> simp [mode_foldl]

@[simp] theorem messageIfLast_mode (s : State) (g : Ring) : modeOf (messageIfLast s g) = modeOf s := by
  unfold messageIfLast
  (repeat' split) <;> simp

@[simp] theorem zeroRoot_mode (s : State) : modeOf (zeroRoot s) = modeOf s := by
  simp [zeroRoot]

@[simp] theorem addJob_mode (s : State) (j : Job) : modeOf ((addJob s j).2) = modeOf s := by
  simp [addJob]

@[simp] theorem serialsAtBoot_mode (s : State) : modeOf (serialsAtBoot s) = modeOf s := by
  simp [serialsAtBoot]

@[simp] theorem txFlush_mode (s : State) (p : Nat) : modeOf (txFlush s p) = modeOf s := by
  simp [txFlush, mode_foldl]

theorem stageChange_mode {s t : State} {kind : ChangeKind} {c : Carrier} {data params : Bytes} {id : Nat}
    (h : stageChange s kind c data params = .ok (id, t)) : modeOf t = modeOf s := by
  unfold stageChange at h
  split at h
  · cases h
  · split at h
    · cases h
    · cases h
      simp


@[simp] theorem dropChange_mode (s : State) (id : Nat) : modeOf (dropChange s id) = modeOf s := rfl

@[simp] theorem modBox_mode (s : State) (c : Carrier) (f : Mailbox → Mailbox) : modeOf (modBox s c f) = modeOf s := by
  unfold modBox
  (repeat' split) <;> simp

@[simp] theorem boxShow_mode (s : State) (c : Carrier) (st : Status) : modeOf (boxShow s c st) = modeOf s := by
  simp [boxShow]

@[simp] theorem approveDone_mode (s : State) (a : Carrier × Nat) (st : Status) (held : Nat) : modeOf (approveDone s a st held) = modeOf s := by
  unfold approveDone
  (repeat' split) <;> simp

@[simp] theorem approveMirrored_mode (s : State) (a : Carrier × Nat) (held : Nat) : modeOf (approveMirrored s a held) = modeOf s := by
  unfold approveMirrored
  (repeat' split) <;> simp

@[simp] theorem requestEnd_mode (s : State) (c : Carrier) (addr : Nat) (st : Status) (out : Bytes) :
    modeOf (requestEnd s c addr st out) = modeOf s := by
  unfold requestEnd
  (repeat' split) <;> simp

@[simp] theorem boxEnd_mode (s : State) (c : Carrier) (st : Status) (out : Bytes) : modeOf (boxEnd s c st out) = modeOf s := by
  simp [boxEnd]

@[simp] theorem changeEnd_mode (s : State) (c : Carrier) (addr : Nat) (a : Carrier × Nat) (held : Nat) (st : Status) (out : Bytes) :
    modeOf (changeEnd s c addr a held st out) = modeOf s := by
  unfold changeEnd
  (repeat' split) <;> simp

theorem mctpDraw_mode {s t : State} (c : Src) (h : modeOf t = modeOf s) : modeOf (mctpDraw s c t) = modeOf s := by
  unfold mctpDraw
  split
  · exact h
  · rfl


@[simp] theorem stageRequest_mode (s : State) (c : Carrier) (kind : ChangeKind) (req : Bytes) : modeOf (stageRequest s c kind req) = modeOf s := by
  unfold stageRequest
  split
  · simp
  · next id t h =>
    have staged := stageChange_mode h
    split <;> simp [staged]

@[simp] theorem escrowDraws_mode (n : Nat) (s : State) : modeOf (escrowDraws n s).2 = modeOf s := by
  induction n generalizing s with
  | zero => rfl
  | succ n ih => simp [escrowDraws, ih]


@[simp] theorem escrowPackage_mode (s : State) (q : Bytes) (h : BlobHdr) (key : Bytes) : modeOf ((escrowPackage s q h key).2) = modeOf s := by
  simp [escrowPackage]

@[simp] theorem applyEscrowExport_mode (s : State) (q : Bytes) : modeOf ((applyEscrowExport s q).2.2) = modeOf s := by
  unfold applyEscrowExport
  (repeat' split) <;> simp

@[simp] theorem applyEscrowImport_mode (s : State) (q : Bytes) : modeOf ((applyEscrowImport s q).2.2) = modeOf s := by
  unfold applyEscrowImport
  dsimp only
  (repeat' split) <;> simp

@[simp] theorem applyGrantClear_mode (s : State) (q : Bytes) : modeOf ((applyGrantClear s q).2.2) = modeOf s := by
  unfold applyGrantClear
  (repeat' split) <;> simp

@[simp] theorem attestSigned_mode (s : State) (c : Carrier) (q : Bytes) : modeOf (attestSigned s c q) = modeOf s := by
  unfold attestSigned
  (repeat' split) <;> simp

@[simp] theorem attestShared_mode (s : State) (c : Carrier) (q : Bytes) : modeOf (attestShared s c q) = modeOf s := by
  unfold attestShared
  (repeat' split) <;> simp

@[simp] theorem attestCheck_mode (s : State) (c : Carrier) (q : Bytes) : modeOf (attestCheck s c q) = modeOf s := by
  unfold attestCheck
  (repeat' split) <;> simp

@[simp] theorem lcsStage_mode (s : State) (c : Carrier) (kind : ChangeKind) (q : Bytes) (refused : Option Status) :
    modeOf (lcsStage s c kind q refused) = modeOf s := by
  unfold lcsStage
  (repeat' split) <;> simp

@[simp] theorem lcWrite_mode (s : State) (i target : Nat) : modeOf (lcWrite s i target) = modeOf s := by
  simp [lcWrite]

@[simp] theorem lcTransition_mode (s : State) (c : Carrier) (q : Bytes) : modeOf (lcTransition s c q) = modeOf s := by
  unfold lcTransition
  (repeat' split) <;> simp

@[simp] theorem applyLcTransition_mode (s : State) (q : Bytes) : modeOf ((applyLcTransition s q).2.2) = modeOf s := by
  unfold applyLcTransition
  (repeat' split) <;> simp

@[simp] theorem modDom_mode (s : State) (f : Domain → Domain) : modeOf (modDom s f) = modeOf s := rfl

@[simp] theorem mirrorDomain_mode (s : State) : modeOf (mirrorDomain s) = modeOf s := by
  simp [mirrorDomain]

@[simp] theorem newMember_mode (s : State) : modeOf (newMember s) = modeOf s := by
  simp [newMember]

@[simp] theorem dropChanges_mode (s : State) : modeOf (dropChanges s) = modeOf s := by
  simp [dropChanges, mode_foldl]

@[simp] theorem applyOfficer_mode (s : State) (i : Nat) (d : Bytes) : modeOf ((applyOfficer s i d).2.2) = modeOf s := by
  unfold applyOfficer
  (repeat' split) <;> simp

@[simp] theorem takePackage_mode (s : State) (k : Package) (attest : Bytes) (gens : List (Nat × Bytes)) :
    modeOf ((takePackage s k attest gens).2.2) = modeOf s := by
  unfold takePackage
  dsimp only
  (repeat' split) <;> simp

@[simp] theorem openPackage_mode (s : State) (d : Bytes) : modeOf ((openPackage s d).2.2) = modeOf s := by
  unfold openPackage
  (repeat' split) <;> simp

@[simp] theorem domainFound_mode (s : State) (c : Carrier) (q : Bytes) : modeOf (domainFound s c q) = modeOf s := by
  simp [domainFound]

@[simp] theorem applyDomainFound_mode (s : State) (q : Bytes) : modeOf ((applyDomainFound s q).2.2) = modeOf s := by
  unfold applyDomainFound freshBytes
  dsimp only
  (repeat' split) <;> simp

@[simp] theorem packageFor_mode (s : State) (admitted : Bool) (member : Nat) (pk : Bytes) :
    modeOf ((packageFor s admitted member pk).2) = modeOf s := rfl

@[simp] theorem exportPackage_mode (s : State) (admitted : Bool) (member : Nat) (a : Bytes) :
    modeOf ((exportPackage s admitted member a).2.2) = modeOf s := by
  have drawn := packageFor_mode s admitted member (a.drop 4819)
  unfold exportPackage
  (repeat' split) <;> simp_all

@[simp] theorem domainAdmit_mode (s : State) (c : Carrier) (q : Bytes) : modeOf (domainAdmit s c q) = modeOf s := by
  simp [domainAdmit]

@[simp] theorem successorExport_mode (s : State) (c : Carrier) (q : Bytes) : modeOf (successorExport s c q) = modeOf s := by
  simp [successorExport]

@[simp] theorem domainRotate_mode (s : State) (c : Carrier) (q : Bytes) : modeOf (domainRotate s c q) = modeOf s := by
  unfold domainRotate
  (repeat' split) <;> simp

@[simp] theorem applyDomainRotate_mode (s : State) : modeOf ((applyDomainRotate s).2.2) = modeOf s := by
  unfold applyDomainRotate freshBytes
  dsimp only
  (repeat' split) <;> simp

@[simp] theorem rewrap_mode (s : State) (c : Carrier) (q : Bytes) : modeOf (rewrap s c q) = modeOf s := by
  unfold rewrap
  (repeat' split) <;> simp

@[simp] theorem applyRewrap_mode (s : State) (q : Bytes) : modeOf ((applyRewrap s q).2.2) = modeOf s := by
  unfold applyRewrap
  (repeat' split) <;> simp

@[simp] theorem twinEnrol_mode (s : State) (c : Carrier) (q : Bytes) : modeOf (twinEnrol s c q) = modeOf s := by
  simp [twinEnrol]

@[simp] theorem applyTwinEnrol_mode (s : State) (q : Bytes) : modeOf ((applyTwinEnrol s q).2.2) = modeOf s := by
  simp [applyTwinEnrol]

@[simp] theorem debugGrant_mode (s : State) (c : Carrier) (q : Bytes) : modeOf (debugGrant s c q) = modeOf s := by
  simp [debugGrant]

@[simp] theorem applyDebugGrant_mode (s : State) : modeOf ((applyDebugGrant s).2.2) = modeOf s := by
  unfold applyDebugGrant
  (repeat' split) <;> simp

@[simp] theorem linkUpOp_mode (s : State) (l : LinkName) (width speed : Nat) : modeOf (linkUpOp s l width speed) = modeOf s := by
  unfold linkUpOp
  (repeat' split) <;> simp

@[simp] theorem linkDownOp_mode (s : State) (l : LinkName) : modeOf (linkDownOp s l) = modeOf s := by
  unfold linkDownOp
  (repeat' split) <;> simp

@[simp] theorem wakeVectors_mode (s : State) (p vf : Nat) : modeOf (wakeVectors s p vf) = modeOf s := by
  simp [wakeVectors, mode_foldl]

@[simp] theorem d3Move_mode (s : State) (p : Fin 8) (vf : Nat) (d3 : Bool) : modeOf (d3Move s p vf d3) = modeOf s := by
  unfold d3Move
  (repeat' split) <;> simp [mode_foldl]

@[simp] theorem vfEnable_mode (s : State) (p mps mrrs : Nat) : modeOf (vfEnable s p mps mrrs) = modeOf s := by
  simp [vfEnable]

@[simp] theorem approveFull_mode (s : State) (id : Nat) (ch : Change) (aps : List (Nat × Bytes)) (a : Carrier × Nat) :
    modeOf (approveFull s id ch aps a) = modeOf s := by
  unfold approveFull
  (repeat' split) <;> simp

@[simp] theorem approveDelta_mode (s : State) (id : Nat) (ch : Change) (aps : List (Nat × Bytes)) (a : Carrier × Nat) :
    modeOf (approveDelta s id ch aps a) = modeOf s := by
  unfold approveDelta
  (repeat' split) <;> simp

@[simp] theorem controlledHalt_mode (s : State) (cause code : Nat) (data : Bytes) : modeOf (controlledHalt s cause code data) = modeOf s := by
  unfold controlledHalt
  (repeat' split) <;> simp

@[simp] theorem modDgp_mode (s : State) (c : Nat) (f : Dgp → Dgp) : modeOf (modDgp s c f) = modeOf s := rfl

@[simp] theorem dgpOwned_mode (s : State) (a : DgpAgent) (c : Nat) (f : Dgp → Dgp) : modeOf (dgpOwned s a c f) = modeOf s := by
  unfold dgpOwned
  (repeat' split) <;> simp

@[simp] theorem dgpFreePort_mode (s : State) (p : Fin 8) : modeOf (dgpFreePort s p) = modeOf s := by
  simp [dgpFreePort]

@[simp] theorem migrate_mode (s : State) (c : Carrier) (q : Bytes) : modeOf (migrate s c q) = modeOf s := by
  simp [migrate]

@[simp] theorem applyMigrate_mode (s : State) (c : Carrier) (q : Bytes) : modeOf ((applyMigrate s c q).2.2) = modeOf s := by
  unfold applyMigrate
  (repeat' split) <;> simp

@[simp] theorem migrateStop_mode (s : State) (c : Carrier) (q : Bytes) : modeOf (migrateStop s c q) = modeOf s := by
  unfold migrateStop
  (repeat' split) <;> simp

@[simp] theorem modMgc_mode (s : State) (f : Mgc → Mgc) : modeOf (modMgc s f) = modeOf s := rfl

@[simp] theorem fwWrite_mode (s : State) (c : Carrier) (off : Nat) (d : Bytes) : modeOf (fwWrite s c off d) = modeOf s := by
  simp [fwWrite]

@[simp] theorem fwFinish_mode (s : State) : modeOf ((fwFinish s).2) = modeOf s := by
  unfold fwFinish
  dsimp only
  (repeat' split) <;> simp

@[simp] theorem fwChunk_mode (s : State) (c : Carrier) (final : Bool) (off : Nat) (d : Bytes) :
    modeOf ((fwChunk s c final off d).2.2) = modeOf s := by
  unfold fwChunk
  (repeat' split) <;> simp

@[simp] theorem pldmChunk_mode (s : State) (final : Bool) (q d : Bytes) : modeOf (pldmChunk s final q d) = modeOf s := by
  unfold pldmChunk
  (repeat' split) <;> simp

@[simp] theorem pldmRequest_mode (s : State) : modeOf (pldmRequest s) = modeOf s := by
  unfold pldmRequest
  (repeat' split) <;> simp

@[simp] theorem fwTimeout_mode (s : State) : modeOf (fwTimeout s) = modeOf s := by
  unfold fwTimeout
  (repeat' split) <;> simp

@[simp] theorem modChan_mode (s : State) (c : Nat) (f : MonChan → MonChan) : modeOf (modChan s c f) = modeOf s := by
  simp [modChan]

@[simp] theorem windowMove_mode (s : State) (c : Nat) : modeOf (windowMove s c) = modeOf s := by
  simp [windowMove]

@[simp] theorem windowEnd_mode (s : State) (c : Nat) : modeOf (windowEnd s c) = modeOf s := by
  unfold windowEnd
  (repeat' split) <;> simp

@[simp] theorem snapshotOne_mode (s : State) (x : MonSnap) : modeOf (snapshotOne s x) = modeOf s := by
  unfold snapshotOne
  (repeat' split) <;> simp

@[simp] theorem monConfigure_mode (s : State) (q : Bytes) : modeOf (monConfigure s q) = modeOf s := by
  simp [monConfigure]

@[simp] theorem monDisable_mode (s : State) (q : Bytes) : modeOf (monDisable s q) = modeOf s := by
  simp [monDisable]

@[simp] theorem mctpMonitor_mode (s : State) (q : Bytes) : modeOf (mctpMonitor s q) = modeOf s := by
  unfold mctpMonitor
  (repeat' split) <;> simp

@[simp] theorem modRng_mode (s : State) (f : Rng → Rng) : modeOf (modRng s f) = modeOf s := rfl

@[simp] theorem resetCommands_mode (s : State) (i : Nat) (x : Inst) : modeOf (resetCommands s i x) = modeOf s := by
  unfold resetCommands
  (repeat' split) <;> simp [mode_foldl]

@[simp] theorem beginReset_mode (s : State) (i : Nat) : modeOf (beginReset s i) = modeOf s := by
  unfold beginReset
  (repeat' split) <;> simp

@[simp] theorem requestReset_mode (s : State) (i : Nat) (ws : List ResetWait) : modeOf (requestReset s i ws) = modeOf s := by
  unfold requestReset
  (repeat' split) <;> simp

@[simp] theorem vfFlr_mode (s : State) (p : Fin 8) (vf : Nat) : modeOf (vfFlr s p vf) = modeOf s := by
  unfold vfFlr
  dsimp only
  (repeat' split) <;> simp

@[simp] theorem resetPort_mode (s : State) (p : Fin 8) (k : PortReset) : modeOf (resetPort s p k) = modeOf s := by
  unfold resetPort
  (repeat' split) <;> simp

@[simp] theorem portReset_mode (s : State) (p : Fin 8) (k : PortReset) : modeOf (portReset s p k) = modeOf s := by
  unfold portReset
  (repeat' split) <;> simp [mode_foldl]

@[simp] theorem modTwn_mode (s : State) (f : Twn → Twn) : modeOf (modTwn s f) = modeOf s := rfl

@[simp] theorem brtLowRead_mode (s : State) (p : Nat) : modeOf (brtLowRead s p) = modeOf s := by
  unfold brtLowRead
  (repeat' split) <;> simp

@[simp] theorem answer_mode (s : State) (st : Status) (body : Bytes) : modeOf (answer s st body) = modeOf s := by
  simp [answer]

@[simp] theorem queryChange_mode (s : State) (idx : Nat) : modeOf (queryChange s idx) = modeOf s := by
  unfold queryChange
  (repeat' split) <;> simp

@[simp] theorem setCak_mode (s : State) (d : Bytes) : modeOf (setCak s d) = modeOf s := by
  unfold setCak
  (repeat' split) <;> simp

theorem modeAnswer_mode {s t : State} (ok : Bool) (h : modeOf t = modeOf s) : modeOf (modeAnswer s ok t) = modeOf s := by
  unfold modeAnswer
  split
  · simp [h]
  · simp


@[simp] theorem askMode_mode (s : State) (r : ModeReq) : modeOf (askMode s r) = modeOf s := rfl

@[simp] theorem recoverAlarm_mode (s : State) : modeOf (recoverAlarm s) = modeOf s := by
  simp [recoverAlarm]

@[simp] theorem requestService_mode (s : State) : modeOf (requestService s) = modeOf s := by
  unfold requestService
  split
  · simp
  · split
    · simp
    · exact modeAnswer_mode _ (by simp)

@[simp] theorem requestTune_mode (s : State) (q : Bytes) : modeOf (requestTune s q) = modeOf s := by
  unfold requestTune
  (repeat' split) <;> simp

@[simp] theorem requestHalt_mode (s : State) (eid : Byte) : modeOf (requestHalt s eid) = modeOf s := modeAnswer_mode _ (by simp)

theorem band_mode (s : State) (kind i : Nat) (outside : Bool) (f : State → State) (hf : ∀ t, modeOf (f t) = modeOf t) :
    modeOf (band s kind i outside f) = modeOf s := by
  unfold band
  dsimp only
  (repeat' split) <;> simp [hf]


@[simp] theorem voltSample_mode (s : State) (m : Nat) : modeOf (voltSample s m) = modeOf s := by
  unfold voltSample
  dsimp only
  split <;> exact band_mode _ _ _ _ _ fun t => by simp

@[simp] theorem clockAlarm_mode (s : State) (k limit : Nat) (d : Option Nat) :
    modeOf (clockAlarm s k limit d) = modeOf s := band_mode _ _ _ _ _ fun t => by simp

@[simp] theorem dropHostLinks_mode (s : State) (k : Nat) : modeOf (dropHostLinks s k) = modeOf s := by
  simp [dropHostLinks, mode_foldl]

@[simp] theorem dropFabricLinks_mode (s : State) (j : Nat) : modeOf (dropFabricLinks s j) = modeOf s := by
  simp [dropFabricLinks, mode_foldl]

@[simp] theorem pcieSample_mode (s : State) (k : Nat) :
    modeOf (pcieSample s k) = modeOf s := (band_mode _ _ _ _ _ fun t => by simp).trans (clockAlarm_mode _ _ _ _)

@[simp] theorem ethSample_mode (s : State) (j : Nat) :
    modeOf (ethSample s j) = modeOf s := (band_mode _ _ _ _ _ fun t => by simp).trans (clockAlarm_mode _ _ _ _)

@[simp] theorem sysSample_mode (s : State) : modeOf (sysSample s) = modeOf s := (band_mode _ _ _ _ _ fun t => by simp).trans (clockAlarm_mode _ _ _ _)

@[simp] theorem junctionSample_mode (s : State) :
    modeOf (junctionSample s) = modeOf s := (band_mode _ _ _ _ _ fun t => by simp).trans (band_mode _ _ _ _ _ fun t => by simp)

/-- In HALTED a sample reads the sensors and takes no thermal step. -/
theorem sensorSample_halted {s : State} (h : modeOf s = .halted) (r : Readings) : modeOf (sensorSample s r) = .halted := by
  unfold sensorSample
  dsimp only
  split
  · exact h
  · split
    · simp [mode_foldl, h]
    · next hnot => exact absurd (by simp [mode_foldl, h]) hnot


@[simp] theorem voltageFault_mode (s : State) (m : Nat) : modeOf (voltageFault s m) = modeOf s := by
  unfold voltageFault
  (repeat' split) <;> simp

@[simp] theorem trialFailed_mode (s : State) : modeOf (trialFailed s) = modeOf s := by
  simp [trialFailed]

@[simp] theorem zeroKeys_mode (s : State) : modeOf (zeroKeys s) = modeOf s := rfl

@[simp] theorem tamperFire_mode (s : State) (t : TamperSrc) : modeOf (tamperFire s t) = modeOf s := by
  unfold tamperFire
  (repeat' split) <;> simp

@[simp] theorem applyTune_mode (s : State) : modeOf ((applyTune s).2.2) = modeOf s := by
  unfold applyTune
  (repeat' split) <;> simp

@[simp] theorem applyChange_mode (s : State) (c : Change) : modeOf ((applyChange s c).2.2) = modeOf s := by
  unfold applyChange
  (repeat' split) <;> simp

theorem approveEnd_mode {s : State} (c : Change) (a : Carrier × Nat) (held : Nat) (r : Status × Bytes × State) (h : modeOf r.2.2 = modeOf s) :
    modeOf (approveEnd s c a held r) = modeOf s := by
  unfold approveEnd
  dsimp only
  (repeat' split) <;> simp [h]


@[simp] theorem approveLast_mode (s : State) (id : Nat) (c : Change) (aps : List (Nat × Bytes)) (a : Carrier × Nat) :
    modeOf (approveLast s id c aps a) = modeOf s := by
  unfold approveLast
  dsimp only
  split
  · simp
  · simp
  · refine (approveEnd_mode c a _ _ ?_).trans (dropChange_mode s id)
    dsimp only
    split <;> simp

@[simp] theorem approveFirst_mode (s : State) (id officer : Nat) (sig : Bytes) (a : Carrier × Nat) :
    modeOf (approveFirst s id officer sig a) = modeOf s := by
  simp [approveFirst]

@[simp] theorem approveOp_mode (s : State) (id officer : Nat) (sig : Bytes) (a : Carrier × Nat) :
    modeOf (approveOp s id officer sig a) = modeOf s := by
  unfold approveOp
  (repeat' split) <;> simp

@[simp] theorem mctpApprove_mode (s : State) (q sig : Bytes) : modeOf (mctpApprove s q sig) = modeOf s := by
  unfold mctpApprove
  (repeat' split) <;> simp

@[simp] theorem alsoFault_mode (s : State) (r line : Nat) (ev : MemEvent) (o : MemOutcome) : modeOf (alsoFault s r line ev o) = modeOf s := by
  unfold alsoFault
  (repeat' split) <;> simp

@[simp] theorem lateRead_mode (s : State) (a : Nat) (ev : MemEvent) : modeOf (lateRead s a ev) = modeOf s := by
  unfold lateRead
  (repeat' split) <;> simp

@[simp] theorem lateWrite_mode (s : State) (a off n : Nat) (ev : MemEvent) : modeOf (lateWrite s a off n ev) = modeOf s := by
  unfold lateWrite
  (repeat' split) <;> simp

end Sys2Proof.ModeKept


/-! ### A device that halted, has no power or is held under reset, and O24 (R42, R50) -/

namespace Sys2Proof.HaltedRows

open Sys2Proof Sys2Proof.Machine Sys2Proof.Safety Sys2Proof.Rows Sys2Proof.ModeKept

section
variable {s : State}

/-- Work that needs a running device leaves any other as it is. -/
theorem whenRunning_idle (h : isRunning s = false) (t : State) : whenRunning s t = .next s := by
  unfold whenRunning
  rw [h]
  rfl

theorem notRunning_of_halted (h : modeOf s = .halted) : isRunning s = false := by
  unfold isRunning
  rw [decide_eq_false (not_not_intro (show s.dev.mode = .halted from h)), Bool.and_false]

/-- Every command but those that outlive a halt waits for a running device. -/
theorem exec_idle {c : Instr} (h : isRunning s = false) (hout : outlives c = false) : exec c s = .next s := by
  cases c
  case powerOnReset | powerDown | sysRstNAssert | tamperEvent | tamperClear | brtCountLowRead | belStatusRead | prtPortRead | pxtDropsRead
      | rngSupplyRead | rngWaitRead | mprEccRead | monAlarmsRead | perstNAssert | linkUp | linkDown | vfFlr | vfEnableSet | d3hotTransition
      | configure | snapshot | snapshotAndClear | disable | getStatus | readSensors | readLog | modeRequestRecover | modeRequestService
      | modeRequestTune | modeRequestHalted | queryChange | setTime | setCak | setEndpointId | pldmRequestUpdate | fwSessionTimeout
      | sensorSample | voltageFault | thermalComparator | watchdogExpire | approve | fwUpdate | fwUpdateFinal | attestSigned | attestShared
      | attestCheck | lcTransition | domainFound | domainAdmit | domainRotate | successorExport | rewrap | twinEnrol | debugGrant | migrate
      | migrateStop | escrowExport | escrowImport | grantClear | dgpInit | dgpFinal | dgpFinalDone | dgpClaim | dgpRelease | dgpData
      | dgpData8 | dgpBlockAbsorbed | ddrReadComplete | ddrLineWrite => cases hout
  all_goals exact whenRunning_idle h _

/-! #### What the commands that outlive a halt do to the mode -/

/-- A command of which a halted device makes another halted one, where it makes any. -/
def StaysHalted (o : Host.Outcome State Fault Refusal) : Prop := ∀ t, o = .next t → t.dev.mode = .halted

theorem stays_next {t : State} (h : modeOf s = .halted) (ht : modeOf t = modeOf s) : StaysHalted (.next t) := by
  rintro u ⟨⟩
  exact ht.trans h

theorem stays_idle {o : Host.Outcome State Fault Refusal} (h : modeOf s = .halted) (ho : o = .next s) : StaysHalted o :=
  ho ▸ stays_next h rfl

theorem stays_whenLive {t : State} (h : modeOf s = .halted) (ht : modeOf t = modeOf s) : StaysHalted (whenLive s t) := by
  refine stays_next h ?_
  split
  · exact ht
  · rfl

theorem stays_mctpRun {t : State} (h : modeOf s = .halted) (ht : modeOf t = modeOf s) : StaysHalted (mctpRun s t) := by
  refine stays_whenLive h ?_
  split
  · simp
  · exact ht

theorem stays_cfgWhenLive {t : State} (p : Fin 8) (h : modeOf s = .halted) (ht : modeOf t = modeOf s) : StaysHalted (cfgWhenLive s p t) := by
  refine stays_whenLive h ?_
  split
  · exact ht
  · rfl

/-- A register read in HALTED clears nothing. -/
theorem stays_pfReadClear (h : modeOf s = .halted) (p : Fin 8) (v : Nat) (clear : State → State) : StaysHalted (pfReadClear s p v clear) := by
  refine stays_whenLive h ?_
  split
  · rfl
  · rw [if_pos (show s.dev.mode = .halted from h)]
    simp

theorem stays_dgpWhen {t : State} (a : DgpAgent) (h : modeOf s = .halted) (ht : modeOf t = modeOf s) : StaysHalted (dgpWhen s a t) := by
  cases a with
  | pf p => exact stays_idle h (whenRunning_idle (notRunning_of_halted h) _)
  | mgmt => exact stays_whenLive h ht

/-- A request that came over MCTP is carried out, one of a mailbox waits for a running device. -/
theorem stays_srcRun {box : Fin 8 → Carrier} {f : Carrier → Bytes → State} (c : Src) (kind : Nat) (h : modeOf s = .halted)
    (hf : ∀ k d, modeOf (f k d) = modeOf s) : StaysHalted (srcRun s c box kind f) := by
  cases c with
  | port p => exact stays_idle h (whenRunning_idle (notRunning_of_halted h) _)
  | mctp q d =>
    refine stays_mctpRun h ?_
    split
    · rfl
    · split
      · exact mctpDraw_mode _ (hf _ _)
      · exact hf _ _

theorem stays_monRun (c : Src) (action : Nat) (h : modeOf s = .halted) : StaysHalted (monRun c action s) := by
  cases c with
  | port p => exact stays_idle h (whenRunning_idle (notRunning_of_halted h) _)
  | mctp q d =>
    refine stays_mctpRun h ?_
    split
    · exact mctpMonitor_mode s q
    · rfl

theorem stays_fwUpdate (c : Src) (h : modeOf s = .halted) : StaysHalted (execFwUpdate c s) := by
  cases c with
  | port p => exact stays_idle h (whenRunning_idle (notRunning_of_halted h) _)
  | mctp q d =>
    refine stays_mctpRun h ?_
    split
    · rfl
    · exact pldmChunk_mode s false q d

theorem stays_fwUpdateFinal (c : Src) (h : modeOf s = .halted) : StaysHalted (execFwUpdateFinal c s) := by
  cases c with
  | port p => exact stays_idle h (whenRunning_idle (notRunning_of_halted h) _)
  | mctp q d =>
    refine stays_mctpRun h ?_
    split
    · exact pldmChunk_mode s true q d
    · rfl

theorem stays_approve (c : Src) (h : modeOf s = .halted) : StaysHalted (execApprove c s) := by
  cases c with
  | port p => exact stays_idle h (whenRunning_idle (notRunning_of_halted h) _)
  | mctp q d => exact stays_mctpRun h (mctpApprove_mode s q d)

/-- The memory of a halted device serves no read and no write. -/
theorem memServes_halted (h : modeOf s = .halted) : memServes s = false := by
  unfold memServes
  rw [notRunning_of_halted h, Bool.false_and]

theorem stays_ddrRead (a : Nat) (ev : MemEvent) (h : modeOf s = .halted) : StaysHalted (execDdrReadComplete a ev s) := by
  unfold execDdrReadComplete
  rw [memServes_halted h]
  exact stays_next h (lateRead_mode s a ev)

theorem stays_ddrWrite (a off : Nat) (bs : Bytes) (ev : MemEvent) (h : modeOf s = .halted) : StaysHalted (execDdrLineWrite a off bs ev s) := by
  unfold execDdrLineWrite
  rw [memServes_halted h]
  exact stays_next h (lateWrite_mode s a off bs.length ev)

theorem stays_thermal (b : Bool) (h : modeOf s = .halted) : StaysHalted (execThermalComparator b s) := by
  refine stays_whenLive h ?_
  split
  · simp
  · rw [if_pos (show s.dev.mode = .halted from h)]

theorem stays_watchdog (h : modeOf s = .halted) : StaysHalted (execWatchdogExpire s) := by
  refine stays_whenLive h ?_
  split <;> simp

theorem stays_dgpClaim (p : Fin 8) (c : Fin 16) (h : modeOf s = .halted) : StaysHalted (execDgpClaim p c s) :=
  stays_idle h (whenRunning_idle (notRunning_of_halted h) _)

theorem stays_sensorSample (r : Readings) (h : modeOf s = .halted) : StaysHalted (execSensorSample r s) :=
  stays_whenLive h ((sensorSample_halted h r).trans h.symm)

/-- A mode asked for in HALTED is refused or only noted. -/
theorem modeAsked_mode (ok : Bool) (r : ModeReq) : modeOf (modeAnswer s ok (askMode (recoverAlarm s) r)) = modeOf s :=
  modeAnswer_mode ok ((askMode_mode _ r).trans (recoverAlarm_mode s))

theorem exec_stays {c : Instr} (h : modeOf s = .halted) (hout : outlives c = true) (hreset : ∀ b, c ≠ .powerOnReset b) : StaysHalted (exec c s) := by
  cases c
  case powerOnReset b => exact absurd rfl (hreset b)
  case powerDown | sysRstNAssert => exact stays_next h rfl
  case tamperEvent src => exact stays_next h (tamperFire_mode s src)
  case tamperClear => exact stays_whenLive h (modWch_mode s _)
  case brtCountLowRead p => exact stays_whenLive h (brtLowRead_mode s p.val)
  case belStatusRead p => exact stays_pfReadClear h p (belStatus s) (fun t => { t with bell := ⟨0⟩ })
  case prtPortRead p f => exact stays_pfReadClear h p (prtPort s f.val) (fun t =>
    if tblHas t.pxt.ports f.val then modFab t f.val (fun x => { x with fecUncorr := 0, macsecDrop := 0 }) else t)
  case pxtDropsRead p =>
    exact stays_pfReadClear h p (pxtDrops s) (fun t => modPxt t (fun x => { x with badFrame := 0, noMatch := 0, overCredit := 0, tagFail := 0 }))
  case rngSupplyRead p => exact stays_pfReadClear h p (rngSupply s) (fun t => modRng t (fun r => { r with reseeds := 0, stretched := 0 }))
  case rngWaitRead p => exact stays_pfReadClear h p (rngWait s) (fun t => modRng t (fun r => { r with notReady := 0 }))
  case mprEccRead p => exact stays_pfReadClear h p (mprEcc s.mpr) (fun t => { t with mpr := { t.mpr with corrected := 0, retries := 0 } })
  case monAlarmsRead p => exact stays_pfReadClear h p s.mgc.alarms (fun t => modMgc t (fun m => { m with alarms := 0 }))
  case perstNAssert p k => exact stays_whenLive h (portReset_mode s p k)
  case linkUp l w v => exact stays_whenLive h (linkUpOp_mode s l w v)
  case linkDown l => exact stays_whenLive h (linkDownOp_mode s l)
  case vfFlr p vf => exact stays_whenLive h (vfFlr_mode s p vf)
  case vfEnableSet => exact stays_cfgWhenLive _ h (vfEnable_mode s _ _ _)
  case d3hotTransition p vf d3 => exact stays_cfgWhenLive p h (d3Move_mode s p vf d3)
  case configure c | snapshot c | snapshotAndClear c | disable c => exact stays_monRun c _ h
  case getStatus => exact stays_whenLive h (answer_mode s _ _)
  case readSensors | readLog => exact stays_mctpRun h (answer_mode s _ _)
  case modeRequestRecover => exact stays_mctpRun h (modeAsked_mode _ _)
  case modeRequestService => exact stays_mctpRun h (requestService_mode s)
  case modeRequestTune q => exact stays_mctpRun h (mctpDraw_mode _ (requestTune_mode s q))
  case modeRequestHalted eid => exact stays_mctpRun h (requestHalt_mode s eid)
  case queryChange n => exact stays_mctpRun h (queryChange_mode s n.toNat)
  case setTime => exact stays_mctpRun h ((answer_mode _ _ _).trans (modMgc_mode s _))
  case setCak d => exact stays_mctpRun h (setCak_mode s d)
  case setEndpointId => exact stays_mctpRun h (by simp)
  case pldmRequestUpdate => exact stays_mctpRun h (pldmRequest_mode s)
  case fwSessionTimeout => exact stays_whenLive h (fwTimeout_mode s)
  case sensorSample r => exact stays_sensorSample r h
  case voltageFault m => exact stays_whenLive h (voltageFault_mode s m.val)
  case thermalComparator b => exact stays_thermal b h
  case watchdogExpire => exact stays_watchdog h
  case approve c => exact stays_approve c h
  case fwUpdate c => exact stays_fwUpdate c h
  case fwUpdateFinal c => exact stays_fwUpdateFinal c h
  case attestSigned c => exact stays_srcRun c _ h (attestSigned_mode s)
  case attestShared c => exact stays_srcRun c _ h (attestShared_mode s)
  case attestCheck c => exact stays_srcRun c _ h (attestCheck_mode s)
  case lcTransition c => exact stays_srcRun c _ h (lcTransition_mode s)
  case domainFound c => exact stays_srcRun c _ h (domainFound_mode s)
  case domainAdmit c => exact stays_srcRun c _ h (domainAdmit_mode s)
  case domainRotate c => exact stays_srcRun c _ h (domainRotate_mode s)
  case successorExport c => exact stays_srcRun c _ h (successorExport_mode s)
  case rewrap c => exact stays_srcRun c _ h (rewrap_mode s)
  case twinEnrol c => exact stays_srcRun c _ h (twinEnrol_mode s)
  case debugGrant c => exact stays_srcRun c _ h (debugGrant_mode s)
  case migrate c => exact stays_srcRun c _ h (migrate_mode s)
  case migrateStop c => exact stays_srcRun c _ h (migrateStop_mode s)
  case escrowExport | escrowImport | grantClear => exact stays_idle h (whenRunning_idle (notRunning_of_halted h) _)
  case dgpInit a _ _ | dgpFinal a _ | dgpRelease a _ | dgpData a _ _ | dgpData8 a _ _ => exact stays_dgpWhen a h (dgpOwned_mode s a _ _)
  case dgpFinalDone | dgpBlockAbsorbed => exact stays_whenLive h (modDgp_mode s _ _)
  case dgpClaim p c => exact stays_dgpClaim p c h
  case ddrReadComplete a ev => exact stays_ddrRead a ev h
  case ddrLineWrite a off bs ev => exact stays_ddrWrite a off bs ev h
  all_goals cases hout

end

/-- Settles O24. Every command but those that outlive a halt waits for a running device, and of those that do only a reset writes another mode. -/
theorem haltedIgnores : Obligations.HaltedIgnores := by
  unfold Obligations.HaltedIgnores
  refine ⟨fun c s hidle hout => exec_idle hidle hout, fun c s t hhalted hreset hexec => ?_⟩
  cases hout : outlives c with
  | true => exact exec_stays hhalted hout hreset t hexec
  | false => exact stays_idle hhalted (exec_idle (notRunning_of_halted hhalted) hout) t hexec

end Sys2Proof.HaltedRows
